-- ==== Sys2Proof/Word.lean ====
section
/-! DEFINITION. Words, bytes and the index types of the FKB2's numbered resources. -/
namespace Sys2Proof

/-- A byte. -/
abbrev U8 := BitVec 8
/-- A 16-bit word. -/
abbrev U16 := BitVec 16
/-- A 32-bit word: a register, an argument word (R10, R343). -/
abbrev U32 := BitVec 32
/-- A 64-bit word: WPOS, fabric time, UID, a counter of a live set (R24). -/
abbrev U64 := BitVec 64

/-- Head H0 to H39 (R2). -/
abbrev Head := Fin 40
/-- Fabric port P0 to P3 (R282), also camera ports CAM0 to CAM3 (R167). -/
abbrev Port := Fin 4
/-- DAC group G0 to G4 (R142). -/
abbrev Group := Fin 5
/-- DAC core Ck of a group (R142). -/
abbrev Core := Fin 9
/-- Contone plane 0 to 7 (R35); colour 0 to 7 (R195); image pipeline context CTX0 to CTX7. -/
abbrev Plane := Fin 8
/-- Thermal sensor TS0 to TS11 (R377). -/
abbrev Sensor := Fin 12
/-- Head supply entry 0 to 15 (R163). -/
abbrev Supply := Fin 16

/-- The ordering variants of Table 0.2 (R2). -/
inductive Part where
  | fkb40
  | fkb24
  deriving DecidableEq, Repr

/-- A lane in the numbering of Table 11.5: head lanes 0 to 39, fabric lanes FL0 to FL7, the waggle lane WL (R265). -/
inductive LaneId where
  | hl (h : Head)
  | fl (k : Fin 8)
  | wl
  deriving DecidableEq, Repr

/-- A sequenced link with a replay buffer: a fabric port (R298) or the waggle link (R320). -/
inductive LinkId where
  | port (p : Port)
  | waggle
  deriving DecidableEq, Repr

/-- Virtual channels of the fabric, numbered as Table 12.1 numbers them. -/
inductive Vc where
  | timing
  | control
  | bulk
  | measure
  deriving DecidableEq, Repr

/-- The six tables with shadow banks of a table set, numbered as the PRESENT bits of Table 3.4 (R82). -/
inductive Tbl where
  | comb
  | sub
  | wave
  | thresh
  | stitch
  | ed
  deriving DecidableEq, Repr

end Sys2Proof
end

