-- ==== Sys2Proof/Syntax.lean ====
section
/-! DEFINITION. The commands of the block: one constructor of Instr per row of spec/opcode_table.json, and the operands they carry
(a Mervan command as the FKB2 reads it, cells, frames, pin events, results of measurements). -/
namespace Sys2Proof

/-- Where a Mervan command comes from: the command ring, the management target (R352), or a relay message of node `src` whose
rings have the UID `ringUid` (R349). -/
inductive Origin where
  | ring
  | mgmt
  | relay (src : U8) (ringUid : U32)
  deriving DecidableEq, Repr

/-- A Mervan command as it stands in its slot (Table 14.2). The OPCODE is the row's. `args` are the words between the header and
the CRC, so LENGTH is 20 + 4 × their number in a command whose LENGTH passes Table 14.4. -/
structure Cmd where
  origin  : Origin
  tag     : BitVec 6
  rsvTag  : BitVec 2
  async   : Bool
  rsvFlag : BitVec 7
  length  : U16
  node    : U8
  rsvNode : U8
  seq     : U32
  rsvWord : U32
  args    : List U32
  crc     : U32
  deriving DecidableEq, Repr

/-- A LINE cell (Table 5.3). -/
structure LineCell where
  wave     : BitVec 4
  isNull   : Bool
  mapBank  : Bool
  dropBitsM1 : BitVec 2
  rowsM1   : BitVec 2
  length   : U16
  lineNo   : U32
  epoch    : U32
  jobId    : U32
  codes    : List U8
  crc      : U32
  /-- reserved FLAGS bits [7:6], which a receiver ignores and the CRC covers (R11, R114) -/
  rsv      : BitVec 2 := 0
  deriving DecidableEq, Repr

/-- A FIRE cell (Table 5.4). -/
structure FireCell where
  row    : BitVec 2
  length : U16
  lineNo : U32
  epoch  : U32
  jobId  : U32
  slip   : U16
  crc    : U32
  /-- reserved bits [7:6] of byte 0, byte 1 and bytes 18 and 19 (R11, R114) -/
  rsv    : BitVec 2 × U8 × U16 := (0, 0, 0)
  deriving DecidableEq, Repr

/-- A CONTROL cell (Table 5.5); `payload` is bytes 12 to LENGTH − 5. A cell of another TYPE than LINE, FIRE and CONTROL arrives in this form
too: the layout that a receiver reads of it (R133). -/
structure ControlCell where
  subtype : BitVec 4
  length  : U16
  seq     : U16
  epoch   : U32
  payload : List U8
  crc     : U32
  /-- TYPE (Table 5.1): 3 but for a cell of unknown TYPE or wrong direction -/
  typ     : BitVec 4 := 3
  /-- reserved byte 1 and bytes 6 and 7 (R11, R114) -/
  rsv     : U8 × U16 := (0, 0)
  deriving DecidableEq, Repr

/-- A STATUS cell (Table 5.7); `payload` is bytes 12 to LENGTH − 5. A cell of another TYPE arrives in this form too (R141 0x22). -/
structure StatusCell where
  subtype : BitVec 4
  length  : U16
  seq     : U16
  echoSeq : U16
  highest : U32
  payload : List U8
  crc     : U32
  /-- TYPE (Table 5.1): 4 but for a cell of unknown TYPE or wrong direction -/
  typ     : BitVec 4 := 4
  /-- reserved byte 1 (R11, R114) -/
  rsv     : U8 := 0
  deriving DecidableEq, Repr

/-- What a head adapter is: its own source of HEAD_ID, its ports, what it supports (Table 5.7 IDENT). -/
structure AdapterFacts where
  headId       : BitVec 6
  dual         : Bool
  bitsOk       : BitVec 4
  ratesOk      : BitVec 4
  maxNozzles   : U16
  lineDepth    : U16
  rowsMaxM1    : BitVec 2
  fixedLatency : U32
  version      : U32
  deriving DecidableEq, Repr

/-- What an adapter's head shows when the adapter may report (R121, Table 5.7): TEMP, HOT, HEAD_FAULT, and whether STATUS_PERIOD has passed. -/
structure HeadReading where
  head     : Head
  temp     : U16
  hot      : Bool
  fault    : Bool
  periodic : Bool
  deriving DecidableEq, Repr

/-- A data frame (Table 12.1) as it arrives on a port. -/
structure DataFrame where
  vc      : Vc
  bcast   : Bool
  hops    : BitVec 4
  dict    : Bool
  length  : U16
  seq     : U16
  dest    : U8
  src     : U8
  srcSeq  : U32
  msgType : U16
  payload : List U8
  crc     : U32
  /-- reserved bits of bytes 0 and 1 and bytes 14 to 15, which a receiver ignores and the CRC covers (R11, R284) -/
  rsv     : BitVec 1 × BitVec 3 × U16 := (0, 0, 0)
  /-- KIND: 1 of a data frame; any other of a frame that no row takes, with an unknown KIND or SUB or a wrong LENGTH (Table 12.7, 0x35) -/
  kind    : BitVec 4 := 1
  deriving DecidableEq, Repr

/-- The payload of HELLO (Table 12.2). -/
structure Hello where
  uid         : U64
  nodeId      : U8
  reqId       : U8
  fixed       : Bool
  transit     : Bool
  standby     : Bool
  port        : BitVec 2
  rootHops    : U8
  rootUid     : U64
  rootFixedId : U8
  discGen     : U16
  crc         : U32
  /-- byte 1, byte 14 [7:5], byte 25 and bytes 28 to 31, reserved (R11) -/
  rsv         : U8 × BitVec 3 × U8 × U32 := (0, 0, 0, 0)
  deriving DecidableEq, Repr

/-- One port entry of a JOIN message (Table 12.6). -/
structure JoinPort where
  neighbour     : U64
  neighbourPort : BitVec 2
  rate          : BitVec 4
  up            : Bool
  deriving DecidableEq, Repr

/-- A JOIN message (Table 12.6), sent towards the root (R287). -/
structure Join where
  uid     : U64
  reqId   : U8
  fixed   : U8
  transit : Bool
  standby : Bool
  ports   : List JoinPort
  deriving DecidableEq, Repr

/-- A WPOS sample (Table 12.4). -/
structure WposSample where
  ftime    : U64
  wpos     : U64
  hwpos    : U64
  speed    : U32
  minSpeed : U32
  lpi      : U16
  stopped  : Bool
  reverse  : Bool
  fault    : Bool
  deputy   : Bool
  deriving DecidableEq, Repr

/-- A waggle frame header and payload (Table 13.4) of a sequenced kind. -/
structure WaggleFrame where
  length  : U16
  seq     : U16
  epoch   : U32
  payload : List U8
  crc     : U32
  /-- byte 0 [7:4], byte 1, bytes 6 to 7 and bytes 12 to 15, reserved (R11) -/
  rsv     : BitVec 4 × U8 × U16 × U32 := (0, 0, 0, 0)
  /-- KIND of a frame that no row takes: an unknown KIND, or an unsequenced one of a wrong LENGTH (Table 13.6, 0x43); none for the row's own -/
  other   : Option (BitVec 4) := none
  deriving DecidableEq, Repr

/-- Roles of a unit (Table 13.1). -/
inductive Role where
  | active
  | standby
  | promoting
  | fenced
  deriving DecidableEq, Repr

/-- A HEARTBEAT frame (Table 13.5). -/
structure Heartbeat where
  epoch    : U32
  uid      : U64
  role     : Role
  healthy  : Bool
  trip     : Bool
  hbiLive  : Bool
  stale    : Bool
  snap     : U32
  ftime    : U64
  jobId    : U32
  staleAge : U32
  length   : U16
  crc      : U32
  /-- the frame's reserved fields, and byte 25 [7:4] and bytes 26 to 27, reserved (R11) -/
  rsv      : (BitVec 4 × U8 × U16 × U32) × BitVec 4 × U16 := ((0, 0, 0, 0), 0, 0)
  deriving DecidableEq, Repr

/-- A role assignment (Table 14.8), sent by node `src` (R351). -/
structure RoleMsg where
  src        : U8
  epoch      : U32
  posMaster  : Bool
  deputy     : Bool
  measuring  : Bool
  hostEvents : Bool
  paired     : Bool
  unitB      : Bool
  uid        : U64
  peerUid    : U64
  deriving DecidableEq, Repr

/-- A training word (Table 11.4). -/
structure TrainWord where
  kind   : U8
  link   : BitVec 2
  ready  : Bool
  test   : Bool
  rate   : BitVec 4
  lane   : U8
  seed   : BitVec 23
  testMs : U32
  crc    : U32
  /-- byte 1 [7:4], byte 2 [7:4] and bits [31:23] of bytes 4 to 7, reserved (R11) -/
  rsv    : BitVec 4 × BitVec 4 × BitVec 9 := (0, 0, 0)
  deriving DecidableEq, Repr

/-- The rest of a link frame (Table 12.2), or of an unsequenced waggle frame (Table 13.4), whose row names its fields: the lane of the port that carried
it, the header fields of a waggle frame, and the CRC. -/
structure FrameEnd where
  lane  : Fin 2
  crc   : U32
  /-- byte 1 and bytes 6 to 7 of a link frame, reserved (R11); byte 1 and bytes 18 to 19 of a waggle frame -/
  rsv   : U8 × U16 := (0, 0)
  seq   : U16 := 0
  epoch : U32 := 0
  /-- byte 0 [7:4], bytes 6 to 7 and bytes 12 to 15 of a waggle frame, reserved (R11) -/
  rsvW  : BitVec 4 × U16 × U32 := (0, 0, 0)
  deriving DecidableEq, Repr

/-- A code error (R270). -/
inductive CodeError where
  /-- a stuffed bit without the value that R268 requires -/
  | stuffed
  /-- a run of 28 or more ones -/
  | longRun
  /-- a missing end delimiter -/
  | noEnd
  /-- a start delimiter inside a preempting cell -/
  | nested
  /-- a descrambled idle-fill bit that is not 0 -/
  | idleFill
  deriving DecidableEq, Repr

/-- The destination kinds of R296: this node's own ID, the root (DEST 0, R287), and all (DEST 255). -/
inductive DestKind where
  | own
  | root
  | all
  deriving DecidableEq, Repr

/-- A receiver locks to its partner's signal (Table 11.3), whose rate differs from the nominal one by so many ppm (R266). -/
structure CdrLock where
  lane : LaneId
  ppm  : Int
  deriving DecidableEq, Repr

/-- A relay message (Table 14.7): a command to execute, the response to write, or an event to record. -/
inductive RelayBody where
  | command (ringUid : U32)
  | response (tag : BitVec 6) (seq : U32) (status : U8) (origStatus : U8) (reason : List U8) (detail : U32) (results : List U32)
  | event (name : List U8) (node : U8) (evseq : U32) (ftime wpos : U64) (args : List U32)
  deriving DecidableEq, Repr

/-- A proxy record (Table 8.3). -/
structure ProxyRecord where
  colour      : Plane
  trimLimited : Bool
  jobId       : U32
  cgen        : U32
  nlines      : BitVec 5
  pos         : U64
  firedMask   : BitVec 40
  samples     : List U8
  deriving DecidableEq, Repr

/-- A head entry of a span record (Table 8.4). -/
structure SpanHead where
  head     : Head
  firstCol : U32
  lastCol  : U32
  deriving DecidableEq, Repr

/-- A span record (Table 8.4). -/
structure SpanRecord where
  colour        : Plane
  reset         : Bool
  jobId         : U32
  minHeadOffset : U64
  heads         : List SpanHead
  deriving DecidableEq, Repr

/-- A correction record (Table 8.9). -/
structure CorrRecord where
  colour   : Plane
  gen      : U32
  band     : U32
  jobId    : U32
  firstBin : U32
  trims    : List (Head × Int)
  bins     : List Int
  deriving DecidableEq, Repr

/-- A strip record (R218). -/
structure StripRecord where
  colour     : Plane
  jobId      : U32
  rep        : U32
  pos        : U64
  checkPitch : Nat
  checkRun   : Nat
  firedMask  : BitVec 40
  deriving DecidableEq, Repr

/-- The class that the strip analysis gives a nozzle (R218). -/
inductive NozzleClass where
  | missing
  | weak
  deriving DecidableEq, Repr

/-- A dictionary message (Table 9.4) with its codes or stored bytes, from peer `peer` (255 = waggle peer). -/
structure DictMessage where
  peer    : U8
  cls     : BitVec 2
  stored  : Bool
  origLen : U16
  payLen  : U16
  origCrc : U32
  payload : List U8
  port    : LinkId
  deriving DecidableEq, Repr

/-- A segment that passes an attach point of the CRC units (Table 9.7). -/
inductive Segment where
  /-- an inbound PCIe memory write: the DRAM address of BAR2 or the BAR0 offset (ATTACH 0) -/
  | write (address : U64)
  /-- a frame received on a port, after replay (ATTACH 1 to 4) -/
  | frame (p : Port) (vc : Vc) (seq : U16)
  /-- a write request in DRAM: bit of SOURCE_MASK and DRAM address (ATTACH 5) -/
  | dram (source : Fin 5) (address : U64)
  /-- a cell sent (ATTACH 6) or received (ATTACH 7) on a head lane: its TYPE, and its LINE_NO or SEQ -/
  | cell (rx : Bool) (h : Head) (typ : BitVec 4) (number : U32)
  deriving DecidableEq, Repr

/-- A saved-state piece (Table 13.3), with its commit fields when SECTION is 15. -/
structure StatePiece where
  sect    : BitVec 4
  full    : Bool
  snap    : U32
  offset  : U32
  data    : List U8
  deriving DecidableEq, Repr

/-- Pair control messages (R318). -/
inductive PairControl where
  | needFull (mirror : Bool)
  | stateAck (snap : U32)
  | mirrorAck (srcSeq : U32)
  | streamNotice (resync : Bool) (cls : U8)
  deriving DecidableEq, Repr

/-- What changes at an encoder's inputs in one sample: an edge by which A or B leads, or both channels at once, an illegal transition
(Table 4.2). -/
inductive EncEdge where
  | aLeads
  | bLeads
  | both
  deriving DecidableEq, Repr

/-- Why an encoder becomes faulted (Table 4.2). -/
inductive EncFault where
  | illegal
  | loss
  deriving DecidableEq, Repr

/-- Failed test of a promotion self-test (R328), numbered in the order of its list (R428). -/
inductive SelfTest where
  | sram
  | screen
  | dac
  deriving DecidableEq, Repr

/-- Outcome of one bus transaction (R166, R169): acknowledged with data, not acknowledged, or a PEC mismatch. -/
inductive BusResult where
  | ok (data : U32)
  | nak
  | pec
  deriving DecidableEq, Repr

/-- An alert response read (R165): whether PMB_ALERT_N has risen and fallen since the last one, and the supply that responds. -/
structure AlertRead where
  fell      : Bool
  responder : Option Supply
  deriving DecidableEq, Repr

/-- A long packet as a camera port receives it (R167, Table 7.7). -/
structure LongPacket where
  dtype   : BitVec 6
  vc      : BitVec 2
  words   : Nat
  crcOk   : Bool
  hdrOk   : Bool
  syncOk  : Bool
  hdrCorrected : Bool
  pixels  : List U16
  deriving DecidableEq, Repr

/-- What one run of a calibration found for a core (R158), as the trims that correct it: OFFSET_TRIM in quarter LSB, GAIN_TRIM in steps of
0.002 % (R153). -/
structure CalRun where
  offset : Int
  gain   : Int
  deriving DecidableEq, Repr

/-- A frame start or frame end short packet as a camera port receives it (R167, Table 7.7). -/
structure ShortPacket where
  port    : Port
  vc      : BitVec 2
  hdrOk   : Bool
  syncOk  : Bool
  hdrCorrected : Bool
  deriving DecidableEq, Repr

/-- What the check of a granule shows (R247, R248): a single-bit error, a double error, a granule read back from a different address, or an error
in the check line of its block. -/
inductive CheckFault where
  | single
  | double
  | misread
  | line
  deriving DecidableEq, Repr

/-- One DRAM request (R259, Table 10.5). `check` is the outcome of the granule checks met by a read: corrected or uncorrectable. -/
structure DramReq where
  source   : Fin 10
  addr     : Nat
  write    : Option (List U8)
  len      : Nat
  checks   : List (Nat × CheckFault)
  deriving DecidableEq, Repr

/-- What MR5, MR6 and MR8 of a channel's dies report at start-up (R245), and for each rank the activation count at which a die asks for refresh
management through MR27, none when none does (R263). -/
structure DieInfo where
  gbit      : Nat
  byteMode  : Bool
  ranks     : Nat
  inTable   : Bool
  rfm       : Vector (Option Nat) 2
  deriving DecidableEq, Repr

/-- The straps sampled at the rising edge of RESET_N (R1, R307, R420). -/
structure Straps where
  modeSz : Bool
  unitB  : Bool
  addr   : BitVec 3
  deriving DecidableEq, Repr

/-- A die of a channel: the first or second of rank 0, then of rank 1; a rank has two dies in byte mode (R244). -/
structure DieId where
  mc  : Port
  die : Fin 4
  deriving DecidableEq, Repr

/-- What the steps of Table 10.3 find at a frequency point: the command bus delay of each channel and rank, the WCK2CK offset of each die, for each
byte lane which of the 128 steps of 2 UI pass in the read and in the write sweep, and each die's DQS oscillator. -/
structure TrainResult where
  point    : Fin 3
  command  : Vector U8 8
  offsets  : Vector U8 16
  read     : Vector (BitVec 128) 8
  write    : Vector (BitVec 128) 8
  baseline : Vector U16 16
  deriving DecidableEq, Repr

/-- The commands of the block, in the order of spec/opcode_table.json. -/
inductive Instr where
  | sysNop (c : Cmd)
  | sysIdentify (c : Cmd)
  | sysRing (c : Cmd)
  | sysConfig (c : Cmd)
  | sysResult (c : Cmd)
  | sysLatchedRead (c : Cmd)
  | sysViolationRead (c : Cmd)
  | sysViolationClear (c : Cmd)
  | sysPartnerRelease (c : Cmd)
  | sysRoles (c : Cmd)
  | sysPresence (c : Cmd)
  | sysReseal (c : Cmd)
  | sysFwUpdate (c : Cmd)
  | sysNvErase (c : Cmd)
  | sysPeek (c : Cmd)
  | sysNvStatus (c : Cmd)
  | sysNvSet (c : Cmd)
  | foragerCopy (c : Cmd) (descs : List U8)
  | foragerStatus (c : Cmd)
  | jobStage (c : Cmd)
  | jobCommit (c : Cmd)
  | jobAppend (c : Cmd)
  | jobCancel (c : Cmd)
  | jobStop (c : Cmd)
  | jobStatus (c : Cmd)
  | posConfig (c : Cmd)
  | posStatus (c : Cmd)
  | posSet (c : Cmd)
  | sheetConfig (c : Cmd)
  | lineConfig (c : Cmd)
  | lineInhibit (c : Cmd)
  | headLink (c : Cmd)
  | headStatus (c : Cmd)
  | headEcho (c : Cmd)
  | headSafe (c : Cmd)
  | headWitness (c : Cmd)
  | waveLoad (c : Cmd)
  | waveTrim (c : Cmd)
  | waveLimits (c : Cmd)
  | waveConfig (c : Cmd)
  | dacCalibrate (c : Cmd)
  | dacStatus (c : Cmd)
  | dacRotation (c : Cmd)
  | hvConfig (c : Cmd) (modes : List BusResult)
  | hvPower (c : Cmd)
  | hvLimits (c : Cmd)
  | hvStatus (c : Cmd)
  | screenStatus (c : Cmd)
  | subLoad (c : Cmd)
  | subRead (c : Cmd)
  | screenCapture (c : Cmd)
  | captureTimeout (seq : U32)
  | camConfig (c : Cmd)
  | camRun (c : Cmd)
  | camSettings (c : Cmd)
  | camSchedule (c : Cmd)
  | camStream (c : Cmd)
  | camRelease (c : Cmd)
  | camTables (c : Cmd)
  | camDarkCal (c : Cmd)
  | camWhiteCal (c : Cmd)
  | camFocus (c : Cmd)
  | camBand (c : Cmd)
  | camStats (c : Cmd)
  | camCci (c : Cmd)
  | camStatus (c : Cmd)
  | loopConfig (c : Cmd)
  | loopColour (c : Cmd)
  | modelLoad (c : Cmd)
  | loopEnable (c : Cmd)
  | loopStatus (c : Cmd)
  | loopRead (c : Cmd)
  | loopReset (c : Cmd)
  | loopCheckConfig (c : Cmd)
  | loopCheckRead (c : Cmd)
  | fabricConfig (c : Cmd)
  | fabricStatus (c : Cmd)
  | fabricRoutes (c : Cmd)
  | fabricFixId (c : Cmd)
  | fabricDiscover (c : Cmd)
  | fabricPing (c : Cmd)
  | redStatus (c : Cmd)
  | redAssign (c : Cmd)
  | redPromote (c : Cmd)
  | redDrill (c : Cmd)
  | redReadmit (c : Cmd)
  | redReconcile (c : Cmd)
  | pwrState (c : Cmd)
  | pwrStatus (c : Cmd)
  | pwrIdle (c : Cmd)
  | thmConfig (c : Cmd)
  | thmStatus (c : Cmd)
  | memStatus (c : Cmd)
  | memFreq (c : Cmd)
  | memTrain (c : Cmd)
  | memFence (c : Cmd)
  | memQos (c : Cmd)
  | memRowhammer (c : Cmd)
  | memScrub (c : Cmd)
  | memErrors (c : Cmd)
  | laneConfig (c : Cmd)
  | laneStatus (c : Cmd)
  | laneRetrain (c : Cmd)
  | lanePrbs (c : Cmd)
  | czCompress (c : Cmd)
  | czDecompress (c : Cmd)
  | czDictReset (c : Cmd)
  | czStatus (c : Cmd)
  | crcConfig (c : Cmd)
  | crcRead (c : Cmd)
  | crcWrite (c : Cmd)
  | crcEnable (c : Cmd)
  | szStatus (c : Cmd)
  | szMap (c : Cmd)
  | mbxCmdTailWrite (v : U32)
  | mbxRspHeadWrite (v : U32)
  | mbxEvtHeadWrite (v : U32)
  | irqStatusWrite (v : U32)
  | irqHoldoffExpiry (evt : Bool)
  | pwrWakeWrite (v : U32)
  | pwrPadReleaseWrite (v : U32)
  | prsCloseWrite (v : U32)
  | diagClearWrite (v : U32)
  | registerWrite (offset : Nat) (bytes : List U8)
  | bar2Access (offset : Nat) (write : Option (List U8)) (len : Nat)
  | sz6WindowAccess (offset : U16) (write : Option U32) (supported : Bool)
  | mgmtBlockWrite (bytes : List U8) (pecOk : Bool)
  | mgmtBlockRead
  | mgmtAddressMatch (addr : BitVec 7)
  | commandDone (seq : U32)
  | mervanRelayReceived (src : U8) (body : RelayBody)
  | relayTimeout (tag : BitVec 6)
  | resetNRise (straps : Straps) (dies : List DieInfo)
  | bootImageVerified (slot : Bool)
  | bootWatchdog
  | booted
  | roleListenExpiry
  | pwrGoodLow
  | vioLow (bank : Fin 6)
  | vioRestored (bank : Fin 6)
  | clockFault (pll : Bool)
  | clockFaultReset
  | wakeNLow
  | idleEntry
  | idleExit
  | domainDrained
  | drainTimeout
  | presenceHold
  | presenceWindowExpiry
  | sealTest (pass : Bool)
  | sealLoopOpen
  | sealLoopClosed
  | sensorConversion (readings : Vector Int 12)
  | sensorFailed (s : Sensor)
  | sensorDisagreeTimeout (s : Sensor)
  | throttleRise
  | throttleFall
  | thermalTrip
  | thermalRestart
  | checkpointTimer
  | checkpointCommitted
  | flashEraseDone
  | journalCompaction
  | epochRecordCommitted
  | encoderCount (enc : Fin 2) (edge : EncEdge)
  | encoderFaulted (enc : Fin 2) (why : EncFault)
  | encoderWindowEnd
  | indexPulse (enc : Fin 2)
  | encoderStall
  | pdEdge (input : Fin 2) (rising : Bool)
  | pdConfirmTimeout
  | sheetOpenNoticeReceived (start : U64) (input : U8) (number : U32)
  | wposSampleBroadcast
  | wposSampleReceived (sample : WposSample)
  | positionLost
  | deputyTakeover
  | overRateDetect (rate : Nat)
  | speedLimitRelease
  | lineCommit (h : Head)
  | fireCellStart (h : Head) (row : BitVec 2)
  | nullLineKeepalive (h : Head)
  | scheduleReceived (jobId : U32) (w : U64) (postponements : U8)
  | readyReceived (node : U8) (jobId : U32) (ready : Bool) (reason : U32)
  | decisionPoint
  | goReceived (jobId : U32) (w : U64)
  | goAckReceived (node : U8) (jobId : U32) (w : U64)
  | abortDeadline
  | abortReceived (jobId : U32) (w : U64)
  | cancelReceived (jobId : U32)
  | changeWpos
  | repeatBoundary
  | bandCloseNoticeReceived (band : U32) (w : U64)
  | bandNoticePitch
  | bandBoundary
  | repeatDue
  | blockFetch (plane : Plane)
  | blockDecompressed (plane : Plane)
  | decompressorResume (engine : Fin 8) (free : Nat)
  | screenLine (h : Head)
  | shadowBankLoad (t : Tbl)
  | shadowBankLoadDone (t : Tbl)
  | statusReportReceived (h : Head) (cell : StatusCell)
  | statusIdentReceived (h : Head) (cell : StatusCell)
  | statusEchoReceived (h : Head) (cell : StatusCell) (roundTrip : U32)
  | statusWitnessReceived (h : Head) (cell : StatusCell)
  | controlReplyTimeout (h : Head)
  | statusSilent (h : Head)
  | fhlCrcBurst (h : Head)
  | headSafeNFall
  | headSafeNRise
  | adapterPowerUp (h : Head) (facts : AdapterFacts)
  | adapterLineCell (h : Head) (port : Bool) (cell : LineCell)
  | adapterFireCell (h : Head) (port : Bool) (cell : FireCell)
  | adapterFireTrigger (h : Head)
  | adapterControlCell (h : Head) (port : Bool) (cell : ControlCell)
  | adapterHeadSafe (h : Head)
  | adapterReportTimer (r : HeadReading)
  | rotationTimer (g : Group)
  | handover (g : Group)
  | calibrationRunDone (g : Group) (run : CalRun)
  | monitorVisit (h : Head) (sense isen therm : Nat)
  | pmbusStatusPoll (s : Supply) (result : BusResult)
  | pmbusTelemetryPoll (s : Supply) (vout iout temp : BusResult)
  | pmbAlert (alert : AlertRead) (result : BusResult)
  | hvStepGood (s : Supply)
  | pgTimeout (s : Supply)
  | pmbStretch
  | pmbSilent (s : Supply)
  | camTrigger (p : Port)
  | sensorSilent (p : Port)
  | csiFrameStart (pkt : ShortPacket)
  | csiLongPacket (p : Port) (pkt : LongPacket)
  | csiCrcBurst (p : Port)
  | csiFrameEnd (pkt : ShortPacket)
  | pipelineLine (p : Port)
  | calTimerTrigger (p : Port)
  | cciTransactionDone (bus : Bool) (result : BusResult)
  | cciStretch (bus : Bool)
  | cciSilent (p : Port)
  | proxyRecordSend (colour : Plane)
  | proxyRecordReceived (r : ProxyRecord)
  | spanRecordReceived (r : SpanRecord)
  | loopSolveDone
  | correctionRecordReceived (r : CorrRecord)
  | stripRecordSend (colour : Plane)
  | stripAnalysis (r : StripRecord) (reversed : BitVec 40)
  | dictMessageReceived (m : DictMessage)
  | streamNoticeReceived (peer : U8) (resync : Bool) (cls : BitVec 2)
  | compressorResume (cls : BitVec 2) (room : Nat)
  | crcSegment (u : Fin 8) (seg : Segment) (bytes : List U8)
  | dramRequest (r : DramReq)
  | refreshDue (mc : Port) (rank : Fin 2) (feedWaiting : Bool)
  | refreshWindow
  | mr4Read (die : DieId) (multiplier : Fin 5) (hot : Bool)
  | dqsTracking (lane : Fin 8) (drift : Int)
  | scrubRead (corrected : Bool) (fault : Option CheckFault)
  | dramCorrectedReport
  | deferredTrainingStart
  | trainingHoldExpiry
  | trainingDone (r : TrainResult)
  | lossOfSignal (l : LaneId)
  | codeErrorBurst (l : LaneId) (errors : List CodeError)
  | eqFreeze (l : LaneId)
  | eqResume (l : LaneId)
  | electricalIdleEntry (l : LaneId)
  | electricalIdleNotice (l : LaneId)
  | wakeBurstTimer (l : LaneId)
  | wakeBurstMissing (l : LaneId)
  | laneAttemptStart (l : LaneId)
  | trainingPhaseTimeout (l : LaneId)
  | partnerT1Detected (l : LaneId)
  | trainingWordReceived (l : LaneId) (w : TrainWord) (last : Bool)
  | peppercornTestEnd (l : LaneId) (got : List Bool)
  | helloTimer (p : Port)
  | helloReceived (p : Port) (k : Fin 2) (m : Hello)
  | rootElectionTimeout
  | joinReceived (p : Port) (m : Join)
  | idAssignment
  | assignReceived (p : Port) (uid : U64) (nodeId : U8) (discGen : U16) (routes : List U16)
  | linkChangeReceived (node : U8) (port : Port) (isUp : Bool) (neighbour : U64)
  | dataFrameReceived (p : Port) (k : Fin 2) (f : DataFrame)
  | unreachableReceived (dest : U8) (msgType : U16) (srcSeq : U32)
  | creditReceived (p : Port) (granted : Vector U32 4) (x : FrameEnd)
  | creditInitReceived (p : Port) (config : Vector U16 4) (x : FrameEnd)
  | creditGrantTimer (p : Port)
  | auditReceived (p : Port) (mark nextSeq : U16) (cSent : Vector U32 4) (x : FrameEnd)
  | auditReplyReceived (p : Port) (mark : U16) (granted : Vector U32 4) (x : FrameEnd)
  | auditResend (p : Port)
  | ackReceived (l : LinkId) (ackSeq : U16) (x : FrameEnd)
  | nakReceived (l : LinkId) (nakSeq : U16) (x : FrameEnd)
  | ackTimer (l : LinkId)
  | replayTimeout (l : LinkId)
  | replayBudget (l : LinkId)
  | srcSeqGapTimeout (src : U8) (vc : Vc) (dest : DestKind)
  | timeReqTimer
  | timeReqReceived (p : Port) (t1 t2 : Int) (x : FrameEnd)
  | timeRespReceived (p : Port) (t1 t2 t3 t4 : Int) (x : FrameEnd)
  | timeUnlockTimeout
  | neighbourSilent (p : Port)
  | portFlap (p : Port)
  | partnerIsolated (block : BitVec 5) (source : U16)
  | roleAssignmentTimer
  | roleAssignmentReceived (m : RoleMsg)
  | roleHolderTimeout (role : Fin 3)
  | heartbeatTimer
  | hboEdgeTimer
  | heartbeatReceived (hb : Heartbeat)
  | hbiEdge
  | pathSilent (hbi : Bool)
  | witnessDecision
  | witnessRequery
  | promotionSelfTestDone (failed : Option SelfTest)
  | reconciliationDone
  | stateFrameReceived (f : WaggleFrame) (viaFabric : Bool)
  | mirrorFrameReceived (f : WaggleFrame) (addr : U64) (data : List U8)
  | needFullReceived (mirror : Bool) (wl : Option FrameEnd)
  | pairControlReceived (m : PairControl)
  | handoverReceived (f : WaggleFrame) (snap : U32)
  | handoverReplyReceived (f : WaggleFrame) (accepted : Bool) (reason : U32)
  | snapshotTimer
  | staleTimer
  | mirrorAckTimer
  | resetNFall
  | pwrGoodHigh
  | xoRestored
  | foragerReadDone (buffer : Fin 64) (data : Option (List U8))
  | blockCompressed (engine : Fin 2)
  | flashProgramDone
  | onDelayExpiry
  | cdrLock (x : CdrLock)
  | receiverAdapted (l : LaneId)
  | lp11Detected (p : Port)
  | pcieLinkUp
  deriving DecidableEq, Repr

end Sys2Proof
end

