-- ==== Sys2Proof/Decode.lean ====
section
/-! DEFINITION. The words of the table. -/
namespace Sys2Proof

/-- The command that a word spells by the bits of spec/opcode_table.json. No row of the table gives any bits (every row's fields are
empty: a command is its operands, given to the queue from outside), so no word spells one. -/
def decodeTableWord (_nbits _w : Nat) : Option Instr := none

end Sys2Proof
end

