-- ==== Sys2Proof/Config.lean ====
section
/-! DEFINITION. What the manual leaves open: free values (opaque constants with no body, of which nothing can be proved) and the
functions that published standards or Larriell define outside the manual. notes/assumptions/9.md lists them. -/
namespace Sys2Proof

/-- A fresh value that the manual does not state, by the number of the draw (log entry 9). -/
opaque Config.freeValue : Nat → U64

/-- Byte k of a fresh run of bytes that the manual does not state, by the number of the draw (log entry 9). -/
opaque Config.freeByte : Nat → Nat → U8

/-- The bits that stuffing adds to cell k of a head lane's transmitter; it depends on the lane's scrambling, and the model bounds it by the
worst case of Table 5.8 (log entries 9 and 73). -/
opaque Config.stuffBits : Nat → Nat → Nat

/-- Whether a stuffed bit is due where FIRE cell k of a head lane would start within another cell (R269); it depends on the lane's
scrambling (log entries 9 and 73). -/
opaque Config.stuffDue : Nat → Nat → Bool

/-- The 16 check bits of a granule's data at a channel data address (R247); the manual gives the code no matrix (log entry 9). -/
opaque Config.checkBits : List U8 → Nat → U16

/-- The bytes of METHOD 1 that cz.compress makes of an input and a DEPTH; R427 states that the manual does not define them. -/
opaque Config.compressBlock : List U8 → Nat → List U8

/-- SHA-384 of the image bytes equals HASH (Table 17.2); the digest is a published standard's and is not restated (log entry 9). -/
opaque Config.imageHashOk : List U8 → Bool

/-- The ECDSA P-384 signature verifies against the fused public key (R391; log entry 9). -/
opaque Config.imageSignatureOk : List U8 → Bool

/-- Which of the two binary32 values about a result that is none itself stands for it, from what it is computed of and its exact value (R203, R205,
R208): the roundings are not stated (log entry 9). -/
opaque Config.roundUp : List Nat → Rat → Bool

/-- xyz ÷ s of R203 at s = 0 for an exponent n, where the rule divides 0 by 0 (log entry 9). -/
opaque Config.slopeAtZero : Rat → Rat

/-- Which of two colours with equal n[k][k] R208 takes first; it does not say (log entry 9). -/
opaque Config.tieFirst : Nat → Nat → Bool

/-- The inspection class's value of a colour that is missing at a pixel (R186), from the band's lines after WB_GAIN, the line, the column and
the colour, where the colour lies in neither direction or a sample lies beyond the band's edge: none is stated (log entry 9). -/
opaque Config.inspectColour : List (List Int) → Nat → Nat → Nat → Int

/-- The filtered level of PRESENCE_N at a time, in quarter ns: true where it is low (Table 18.25, log entry 102). -/
opaque Config.presenceLow : Nat → Bool

/-- The flash reports erase and program suspend in its SFDP table (R394); the flash is the board's (log entry 101). -/
opaque Config.flashSuspends : Bool

/-- The tuned equaliser setting a receiver adapts to (Table 11.3); the manual gives none (log entry 9). -/
opaque Config.adaptedEqualiser : Nat → U32

end Sys2Proof
end

