-- ==== Sys2Proof/Machine/State.lean ====
section
/-! DEFINITION. The state of the FKB2 as plain data: every register, bank, queue, counter, mode and pin of the spec, and the
queue of waiting commands. Each field's docstring names its width, the rule of spec/ that gives it, and its reset value (the
default value of the field; RV = stated by the spec, L3 = log entry 3, a reset value the model names). -/
namespace Sys2Proof.Machine

/-- Sparse bytes: (address, byte), addresses strictly rising, no listed byte equal to what an unlisted address reads as (0). -/
abbrev Mem := List Host.Cell

/-- Sparse integers by index, the same canonical form; an unlisted index reads 0. -/
abbrev IMem := List (Nat × Int)

/-- Status codes (Table 14.17, R432). -/
inductive Status where
  | ok | accepted | duplicate | deferred
  | badOpcode | badArgument | badLength | badCrc | expansionLimit
  | busyState | busyNoTag
  | refused | needsPresence | sealBroken
  | calDisagree | noQuietInterval
  deriving DecidableEq, Repr

/-- Reason names of responses (REASON of Table 14.3), named where each chapter names them; `raw` is a reason relayed as bytes (R349). -/
inductive Reason where
  | none
  | inProgress | seqReused | unknownSeq | asyncFull | args | node | field | address | slotSize | relaySize | smbusSize
  | asyncRequired | relayTimeout | unreachable | dataLost | hostRead | powerState | stolzarMode | noDram | thermal | padsHeld
  | truncated | logChanged | notIsolated | notLatched | poisoned
  | heads | pitch | index | tile | block | overSupply | tileArea | strip | lpi
  | setContent | subOrder | subRange | headMode | geometry | array | levelMap | edWeights
  | waveSelect | quiet | waveMap | waveLength | waveLimit
  | notPositionMaster | tooClose | tooLate | noStagedJob | jobActive | offsetStep
  | noJob | linePassed | jobEnded | tooEarly
  | voutMode | voutLimit | hvSequence
  | noSettings | overPixel | lineBuffer | overLane | noBands
  | port | columns | deadDistance | model | notMeasuringNode
  | peerNotActive | peerActive | noStandby | selfTestSram | selfTestScreen | selfTestDac
  | camRunning | pairActive | linkDown | drainTimeout | training | wake
  | pointFailed | format | svn
  | raw (bytes : List U8)
  deriving DecidableEq, Repr

/-- Names of events (EV_ names of the rules that raise them, R348); `raw` is an event relayed from another node. -/
inductive EvName where
  | accountingBreak | latchOverrun | violation | partnerIsolated
  | overRate | jobUnderrun | feedLow | blockCrc | tableLate | tableCrc
  | jobChanged | jobChangePostponed | jobChangeCancelled | jobChangeLost
  | positionConfig | webReverse | encoderDisagree | encoderSlip | encoderFailover | encoderFault
  | sheetEarly | pdMismatch | positionLost | positionRegained | positionDeputy
  | headUnfit | headPresent | epochRejected
  | driveDeviation | driveFault | dacCoreSuspect | trimLimited | hvFault
  | camSettingsFailed | calDisagree | camPortStopped
  | loopEscalate | loopHeld | nozzleCheck
  | dramGeometry | dramCorrected | dramUncorrected | dramDegraded | dramTrainFail | dramDrift | dramTraining | dramTrained | dramHot
  | laneDown | laneUp
  | fabricDegraded | fabricReady | fabricChanged | fabricUnreachable | fabricConflict | timeUnlocked | timeLocked
  | mirrorResync | savedStateStale | heartbeatPath | peerPathsLost | promoted | promotionFailed | demoted | reconciled
  | drillPassed | drillFailed
  | booted | commandDone | roleConflict | presenceOpen | presenceClosed | sealOpened | sealRestored
  | powerWake | thermalSensorFailed | thermalLevel | thermalSpeed | thermalTrip | thermalRestart
  | nvEmpty | dropsGap | vioLow
  | raw (bytes : List U8)
  deriving DecidableEq, Repr

/-- Skip reasons in code order (Table 4.5). -/
inductive Skip where
  | thermal | headSafe | headAbsent | noPosition | inhibit | tableNotReady | noData | dataCrc | feedLate | screenLate
  | sheetLate | overRate
  deriving DecidableEq, Repr

/-- What a command gives its response (R345, R433). -/
structure Reply where
  /-- STATUS (R432) -/
  status  : Status := .ok
  /-- REASON (Table 14.3) -/
  reason  : Reason := .none
  /-- DETAIL (Table 14.3) -/
  detail  : U32 := 0
  /-- results from byte 48 on, in words (R433) -/
  results : List U32 := []
  deriving DecidableEq, Repr

/-- A response as the FKB2 writes it (Table 14.3). -/
structure Response where
  opcode  : U16
  tag     : BitVec 6
  status  : U8
  node    : U8
  tagless : Bool
  phase   : Bool
  seq     : U32
  orig    : U8
  reason  : Reason
  detail  : U32
  results : List U32
  deriving DecidableEq, Repr

/-- An event record (Table 14.6). -/
structure Event where
  name    : EvName
  node    : U8
  relayed : Bool
  phase   : Bool
  lost    : U16
  evseq   : U32
  ftime   : U64
  wpos    : U64
  args    : List U32
  deriving DecidableEq, Repr

/-- Whose memory of commands an entry belongs to (R346, R349, R352): this device's rings, the management transport, a relaying ring. -/
inductive RingKey where
  | own
  | mgmt
  | uid (u : U32)
  deriving DecidableEq, Repr

/-- A completed command as R346 remembers it. -/
structure Remembered where
  key    : RingKey
  seq    : U32
  opcode : U16
  length : U16
  digest : U32
  resp   : Response
  deriving DecidableEq, Repr

/-- What an accepted command still waits for. -/
inductive Work where
  | done
  /-- at another node, in the frame with this SRC_SEQ (R349, R350) -/
  | relay (node : U8) (frame : U32)
  | capture (h : Head) (job : BitVec 64) (line : U32) (dest : Nat)
  | echo (h : Head)
  /-- head.witness (Table 5.12): the heads named, those asked that have not answered, and the answers (head, OTHER_AGE, OTHER_EPOCH) -/
  | witness (named asked : BitVec 40) (got : List (Head × U32 × U32))
  | dacCal (g : Group) (cores : List Core) (results : List U32)
  | hvPower
  | camSettings (p : Port)
  | darkCal (p : Port)
  | whiteCal (p : Port)
  | cci (p : Port)
  | prbs (l : LaneId)
  | memTrain
  | memFreq
  | memFence (sources : BitVec 10)
  | decompress
  | compress
  | bankLoad (t : Tbl)
  | forager
  /-- the closing mem.fence at a node: bytes moved, and the SRC_SEQ of its frame (R357) -/
  | fence (node : U8) (moved : Nat) (frame : U32)
  | flash
  | erase
  | fwUpdate
  | ping (node : U8)
  | drill
  | pwr
  deriving DecidableEq, Repr

/-- An accepted command without its final response (R345, R346). -/
structure InFlight where
  origin : Origin
  opcode : U16
  tag    : BitVec 6
  seq    : U32
  length : U16
  digest : U32
  async  : Bool
  work   : Work
  final  : Option Reply
  deriving DecidableEq, Repr

/-- Fuses, straps, clocks, supplies and pins. -/
structure Chip where
  /-- ordering variant (1 of 2; R2; reset FKB2-40-I, L5) -/
  part : Part := .fkb40
  /-- factory unique ID (64; Table 18.3; reset fused, L5) -/
  uid : U64 := 0x0000000100000001
  /-- MIN_SVN fuse (0 to 63; R391; reset 0, L5) -/
  minSvn : Nat := 0
  /-- MODE_SZ as sampled (1; R1; reset 0 until RESET_N rises, L3) -/
  modeSz : Bool := false
  /-- UNIT_B as sampled (1; R307; reset 0, L3) -/
  unitB : Bool := false
  /-- ADDR2..0 as sampled (3; R420; reset 0, L3) -/
  addr : BitVec 3 := 0
  /-- level of RESET_N (1; R416; reset low: the state right after reset is applied, L1) -/
  resetN : Bool := false
  /-- level of PWR_GOOD (1; R417; reset high, L1) -/
  pwrGood : Bool := true
  /-- XO running (1; R361; reset running, L1) -/
  xoOk : Bool := true
  /-- a clock fault holds until its reset (1; R361; reset no) -/
  clockFault : Bool := false
  /-- the last clock fault: false XO, true PLL (R361, pwr.status; reset none) -/
  lastClockFault : Option Bool := none
  /-- lane transmitters and WF drivers turned off by a clock fault or PWR_GOOD (R361, R417; reset on) -/
  txOff : Bool := false
  /-- CAUSE of the last reset (3; R388, Table 18.5; reset 0 power-on) -/
  cause : U8 := 0
  /-- VIO banks below 1.50 V (6; R419; reset none) -/
  vioLow : Vector Bool 6 := Vector.replicate 6 false
  /-- fabric time in quarter nanoseconds (R299; reset 0, L3) -/
  qtime : Nat := 0
  /-- HEAD_SAFE_N is low on the net, behind the filter (1; R132; reset high) -/
  headSafeLow : Bool := false
  /-- head.safe SET (1; R130; reset released) -/
  headSafeSet : Bool := false
  /-- HBO level (1; R322, R416; reset low) -/
  hbo : Bool := false
  /-- CAMSW: level driven, or none when high-impedance (R312; reset high-impedance, R416) -/
  camsw : Option Bool := none
  /-- WF pins driven (1; R312, R416; reset high-impedance) -/
  wfOn : Bool := false
  /-- BOOT_FAILED asserts FAULT_N (R392; reset no) -/
  bootFailed : Bool := false
  /-- the number of free values drawn so far: the model's own field, no rule of the spec (log entry 9; reset 0, DESIGN CHOICE) -/
  drawn : Nat := 0
  /-- PCIe link up (R403; reset down) -/
  pcieUp : Bool := false
  /-- completions of the host's reads through BAR2 and the SZ6 window: (bytes, EP set), newest first (Tables 10.2 and 14.13; the model's trace, log entry
  10) -/
  completions : List (List U8 × Bool) := []
  /-- AER non-fatal errors reported (Table 10.2; the model's trace, log entry 10; reset 0) -/
  aer : Nat := 0
  /-- PCIe memory writes made to the host: (host address, bytes), newest first, the model's trace of what left (log entry 10) -/
  hostWrites : List (U64 × List U8) := []
  deriving DecidableEq, Repr

/-- A host read outstanding in the forager engine: the buffer it owns, its command, the descriptor, and its host address, device address and length
(R357). -/
structure ForagerRead where
  buffer : Fin 64
  key    : RingKey
  seq    : U32
  desc   : Nat
  host   : Nat
  dest   : Nat
  len    : Nat
  deriving DecidableEq, Repr

/-- A forager.copy in progress (R357): its command, the target node or 0, the pieces still to issue as (host address, device address, length,
descriptor, DIR), the descriptor that failed, the buffers freed on error, the bytes moved, and whether a frame to the target was lost. -/
structure ForagerJob where
  key   : RingKey
  seq   : U32
  node  : U8
  todo  : List (Nat × Nat × Nat × Nat × Bool)
  fail  : Option Nat
  freed : Nat
  moved : Nat
  lost  : Bool
  /-- the poisoned granule that a piece to the host met (Table 10.2) -/
  poison : Option Nat := none
  deriving DecidableEq, Repr

/-- The Mervan command interface (chapter 14) and the MBX, IRQ and MSI-X registers (chapter 18). -/
structure Mbx where
  /-- LOCATION (1; Table 14.1; reset 0) -/
  location : Bool := false
  /-- SLOT_SIZE (Table 14.1; reset 256) -/
  slotSize : Nat := 256
  /-- SLOTS (Table 14.1; reset 64) -/
  slots : Nat := 64
  /-- CREDITS (Table 14.1; reset 64) -/
  credits : Nat := 64
  /-- CMD_BASE (64; Table 14.1; reset 0, L3) -/
  cmdBase : U64 := 0
  /-- RSP_BASE (64; Table 14.1; reset 0, L3) -/
  rspBase : U64 := 0
  /-- EVT_BASE (64; Table 14.1; reset 0, L3) -/
  evtBase : U64 := 0
  /-- EVT_SLOTS; 256 records in the mailbox SRAM (Table 14.1; reset 256) -/
  evtSlots : Nat := 256
  /-- INDEX_BASE (64; Table 14.1; reset 0, L3) -/
  indexBase : U64 := 0
  /-- EVENT_SCOPE (1; Table 14.1; reset 0) -/
  eventScope : Bool := false
  /-- MBX_CMD_TAIL (32; Table 18.7; reset 0) -/
  cmdTail : U32 := 0
  /-- MBX_CMD_HEAD (32; Table 18.8; reset 0) -/
  cmdHead : U32 := 0
  /-- MBX_RSP_TAIL (32; Table 18.9; reset 0) -/
  rspTail : U32 := 0
  /-- MBX_RSP_HEAD (32; Table 18.10; reset 0) -/
  rspHead : U32 := 0
  /-- MBX_EVT_TAIL (32; Table 18.11; reset 0) -/
  evtTail : U32 := 0
  /-- MBX_EVT_HEAD (32; Table 18.12; reset 0) -/
  evtHead : U32 := 0
  /-- responses written, newest first (R339; reset none) -/
  responses : List Response := []
  /-- event records written, newest first (R348; reset none) -/
  events : List Event := []
  /-- events raised before the command interface is ready, oldest first: name, ARGS, fabric time and WPOS when raised (R18, R348, log entry 11; reset none) -/
  held : List (EvName × List U32 × U64 × U64) := []
  /-- events discarded since the last record (16, saturating; R348; reset 0) -/
  lostCount : Nat := 0
  /-- EVSEQ of the next event (32; Table 14.6; reset 0, L3) -/
  evseq : U32 := 0
  /-- accepted commands without final response (R345; reset none) -/
  inFlight : List InFlight := []
  /-- completed commands remembered, newest first (R346; reset none) -/
  remembered : List Remembered := []
  /-- management transport state 0 idle, 1 executing, 2 response ready (R352; reset 0) -/
  mgmtState : BitVec 2 := 0
  /-- bytes of the command delivered to the management transport (R352; reset none) -/
  mgmtCmd : List U8 := []
  /-- that command has been read, so that state 1 is its execution (R352; reset no) -/
  mgmtRead : Bool := false
  /-- response of the management transport (R352; reset none) -/
  mgmtResp : Option Response := none
  /-- relayed commands delivered and not yet executed: (source node, ring UID) (R349; reset none) -/
  relayIn : List (U8 × U32) := []
  /-- mailbox SRAM, 64 KiB of bytes (R403; reset 0: every word is written at boot, Table 17.1) -/
  sram : Mem := []
  /-- IRQ_STATUS[7:0] (Table 18.14; reset 0) -/
  irqStatus : U8 := 0
  /-- IRQ_ENABLE[7:0] (Table 18.15; reset 0) -/
  irqEnable : U8 := 0
  /-- IRQ_HOLDOFF (16; Table 18.16; reset 0) -/
  holdoff : U16 := 0
  /-- a holdoff runs for RSP (R407; reset no) -/
  holdRsp : Bool := false
  /-- a holdoff runs for EVT (R407; reset no) -/
  holdEvt : Bool := false
  /-- MSI-X table bytes (1 KiB; R404; reset: every vector control mask bit 1, as PCI Express states) -/
  msixTable : Mem := (List.range 64).map (fun v => (16 * v + 12, 1))
  /-- MSI-X pending bit array (64; R404; reset 0, as PCI Express states) -/
  msixPending : U64 := 0
  /-- vectors delivered, newest first (R407; the model's trace, log entry 10) -/
  vectors : List Nat := []
  /-- measuring-node role set by sys.roles (R351; reset 0, L3) -/
  measuring : Bool := false
  /-- HOST_EVENTS role set by sys.roles (R351; reset 0, L3) -/
  hostEvents : Bool := false
  /-- DRAM range of the job store: JOB_STORE_BASE (sys.config; reset 0, L3) -/
  storeBase : Nat := 0
  /-- JOB_STORE_SIZE (sys.config; reset 0, L3) -/
  storeSize : Nat := 0
  /-- BAR2_BASE (sys.config; reset 0, L3) -/
  bar2Base : Nat := 0
  /-- forager buffers in use (R357; reset none) -/
  buffers : List ForagerRead := []
  /-- forager.copy commands in progress (R357; reset none) -/
  fjobs : List ForagerJob := []
  /-- forager bytes moved (64; forager.status; reset 0, L3) -/
  foragerBytes : U64 := 0
  /-- forager errors, buffers freed on error (64; forager.status; reset 0, L3) -/
  foragerErrors : U64 := 0
  deriving DecidableEq, Repr

/-- A violation log entry (Table 1.3). -/
structure VEntry where
  code    : U8
  block   : BitVec 5
  answer  : BitVec 2
  isolated : Bool
  source  : U16
  repeats : U32
  wpos    : U64
  first   : U64
  last    : U64
  deriving DecidableEq, Repr

/-- The DIAG counters (Table 18.30), 32 bits each, saturating, reset 0. -/
structure Diag where
  /-- DIAG_VIOL_LOST (32; R27; reset 0) -/
  violLost : U32 := 0
  /-- DIAG_EVENT_LOST (32; R348; reset 0) -/
  eventLost : U32 := 0
  /-- DIAG_RELAY_LATE (32; R350; reset 0) -/
  relayLate : U32 := 0
  /-- DIAG_ENC_ILLEGAL0, 1 (32 each; R91; reset 0) -/
  encIllegal : Vector U32 2 := Vector.replicate 2 0
  /-- DIAG_ENC_SLIP (32; R91; reset 0) -/
  encSlip : U32 := 0
  /-- DIAG_POS_STEP (32; R105; reset 0) -/
  posStep : U32 := 0
  /-- DIAG_PD_EARLY (32; R100; reset 0) -/
  pdEarly : U32 := 0
  /-- DIAG_PD_MISMATCH (32; R101; reset 0) -/
  pdMismatch : U32 := 0
  /-- DIAG_DRAM_CORR0 to 3 (32 each; R248; reset 0) -/
  dramCorr : Vector U32 4 := Vector.replicate 4 0
  /-- DIAG_DRAM_UNCORR (32; R248; reset 0) -/
  dramUncorr : U32 := 0
  /-- DIAG_DRAM_VICTIM (32; R262; reset 0) -/
  dramVictim : U32 := 0
  /-- DIAG_CSI_ECC0 to 3 (32 each; Table 7.1; reset 0) -/
  csiEcc : Vector U32 4 := Vector.replicate 4 0
  /-- DIAG_LANE_CODE of HL0..39, FL0..7, WL (32 each; R270; reset 0) -/
  laneCode : Vector U32 49 := Vector.replicate 49 0
  /-- DIAG_LANE_TWCRC of HL0..39, FL0..7, WL (32 each; R276; reset 0) -/
  laneTwcrc : Vector U32 49 := Vector.replicate 49 0
  deriving DecidableEq, Repr

/-- The violation log and the DIAG counters. -/
structure Vlog where
  /-- entries, at most 256 (R25; reset none) -/
  entries : List VEntry := []
  /-- GEN (32; Table 14.12; reset 0, L3) -/
  gen : U32 := 0
  /-- isolated partners as (BLOCK, SOURCE) (R29; reset none) -/
  isolated : List (BitVec 5 × U16) := []
  /-- DIAG counters (R412; reset 0) -/
  diag : Diag := {}
  deriving DecidableEq, Repr

/-- Per-head counters of a live set: sections LINES and SCREEN of Table 1.9. -/
structure HeadCtr where
  /-- SCHEDULED (64; R110; reset 0) -/
  scheduled : U64 := 0
  /-- FIRED (64; R110; reset 0) -/
  fired : U64 := 0
  /-- SKIPPED by reason code 1 to 12 (64 each; Table 4.5; reset 0) -/
  skipped : Vector U64 12 := Vector.replicate 12 0
  /-- SCREENED (64; Table 3.8; reset 0) -/
  screened : U64 := 0
  /-- COMB_CLAMP (64; Table 3.8; reset 0) -/
  combClamp : U64 := 0
  /-- LOOP_CLAMP (64; Table 3.8; reset 0) -/
  loopClamp : U64 := 0
  /-- SUB_CLAMP (64; Table 3.8; reset 0) -/
  subClamp : U64 := 0
  /-- SUB_DROPPED (64; Table 3.8; reset 0) -/
  subDropped : U64 := 0
  /-- HANDOFF (64; Table 3.8; reset 0) -/
  handoff : U64 := 0
  /-- ED_CLAMP (64; Table 3.8; reset 0) -/
  edClamp : U64 := 0
  deriving DecidableEq, Repr

/-- Per-colour counters of the measuring node: section LOOP_NODE of Table 1.9 (R221). -/
structure LoopCtr where
  /-- CELLS_USED (64; R221; reset 0) -/
  used : U64 := 0
  /-- CELLS_EXCLUDED by the reasons of Table 8.6 (64 each; reset 0) -/
  excluded : Vector U64 10 := Vector.replicate 10 0
  /-- BINS_UPDATED (64; R221; reset 0) -/
  updated : U64 := 0
  /-- BINS_FROZEN by the reasons of Table 8.8 (64 each; reset 0) -/
  frozen : Vector U64 6 := Vector.replicate 6 0
  /-- CORR_CLAMP (64; R211; reset 0) -/
  corrClamp : U64 := 0
  /-- TRIM_CLAMP (64; R210; reset 0) -/
  trimClamp : U64 := 0
  /-- SOLVE_OVERRUN (64; R209; reset 0) -/
  solveOverrun : U64 := 0
  /-- STRIP_SKIPPED (64; R218; reset 0) -/
  stripSkipped : U64 := 0
  deriving DecidableEq, Repr

/-- A live counter set (R20). -/
structure LiveSet where
  /-- heads H0 to H39 (Table 1.9; reset 0) -/
  heads : Vector HeadCtr 40 := Vector.replicate 40 {}
  /-- TILE_SKIPPED of planes 0 to 7 (64 each; R46; reset 0) -/
  tiles : Vector U64 8 := Vector.replicate 8 0
  /-- colours 0 to 7 on the measuring node (R221; reset 0) -/
  node : Vector LoopCtr 8 := Vector.replicate 8 {}
  /-- CORR_DISCARDED of colours 0 to 7 on the owner (64 each; R214; reset 0) -/
  discarded : Vector U64 8 := Vector.replicate 8 0
  /-- records applied, colours 0 to 7 (64 each; R221; reset 0) -/
  applied : Vector U64 8 := Vector.replicate 8 0
  /-- BROKEN (1; R13; reset 0) -/
  broken : Bool := false
  /-- NUMBER of the period (32; Table 1.8; reset 0) -/
  number : U32 := 0
  /-- WPOS of the period's opening (64; Table 1.8; reset 2^40, R87) -/
  wposOpen : U64 := 0x10000000000
  /-- fabric time of the period's opening (64; Table 1.8; reset 0) -/
  ftimeOpen : U64 := 0
  deriving DecidableEq, Repr

/-- A latched set (R24, Tables 1.8 and 1.9). -/
structure LatchedSet where
  live       : LiveSet
  pendings   : Vector U64 40
  overrun    : U32
  setId      : U32
  wposClose  : U64
  ftimeClose : U64
  jobId      : U32
  read       : Bool
  deriving DecidableEq, Repr

/-- The three period kinds of live counter sets and their latched sets, in the order of KIND: band, repeat, job. -/
structure Acct where
  /-- live counter sets (R20; reset zero) -/
  live : Vector LiveSet 3 := Vector.replicate 3 {}
  /-- newest latched set of each kind (R23; reset not latched, R24) -/
  newest : Vector (Option LatchedSet) 3 := Vector.replicate 3 none
  /-- older latched set of each kind (R23; reset not latched) -/
  older : Vector (Option LatchedSet) 3 := Vector.replicate 3 none
  /-- overrun count of each kind (32; R23; reset 0) -/
  overrun : Vector U32 3 := Vector.replicate 3 0
  /-- band-close notice not yet reached: (band number, close WPOS) (R21; reset none) -/
  bandClose : List (U32 × U64) := []
  /-- WPOS of the last band-close notice the position master issued (R176; reset none) -/
  lastNotice : Option U64 := none
  /-- number of the next notice the position master issues (R21; reset 0, L3) -/
  noticeNo : U32 := 0
  /-- NOTICE_PITCH in mm (R176; reset 50) -/
  noticePitch : Nat := 50
  deriving DecidableEq, Repr

/-- A plane of a job descriptor (Table 2.3). -/
structure PlaneCfg where
  firstHead : Nat
  headCount : Nat
  bits12    : Bool
  across600 : Bool
  upsample2 : Bool
  interp    : Bool
  deriving DecidableEq, Repr

/-- A job descriptor (Table 2.3). -/
structure JobDesc where
  jobId       : U32
  /-- which staging of this device the job comes from: two jobs may have one JOB_ID (log entry 74) -/
  serial      : U32 := 0
  repeatCount : Nat
  sheet       : Bool
  cycle       : Bool
  resetLoop   : Bool
  maxLineRate : Nat
  repeatList  : Nat
  tableSet    : Nat
  planes      : List PlaneCfg
  rsvOk       : Bool
  deriving DecidableEq, Repr

/-- A repeat descriptor (Table 2.4). -/
structure RepeatDesc where
  lines      : Nat
  pitch      : Nat
  tileCount  : Nat
  checkStrip : Bool
  blank      : Bool
  tableSet   : Nat
  tileList   : Nat
  planeIndex : List Nat
  rsvOk      : Bool
  /-- it was poisoned when the repeat fell due (Table 10.2) -/
  bad        : Bool := false
  deriving DecidableEq, Repr

/-- What the device knows a job by: its staging and its JOB_ID (log entry 74). -/
abbrev JobKey := BitVec 64

/-- The key of a job. -/
def JobDesc.key (j : JobDesc) : JobKey := j.serial ++ j.jobId

/-- The JOB_ID in a key. -/
def jobIdOf (k : JobKey) : U32 := k.setWidth 32

/-- Job states (Table 2.1). -/
inductive JobState where
  | staged
  | scheduled
  | running
  | ended
  deriving DecidableEq, Repr

/-- What a job asks of the DRAM's contone bandwidth (R36, R256): the supply of its planes in bytes per second, and the tile bytes and length of its
fullest repeat so far. -/
structure JobSupply where
  planes : Nat := 0
  most   : Nat × Nat := (0, 1)
  deriving DecidableEq, Repr

/-- A job that the device holds. -/
structure Job where
  /-- device DRAM address of its descriptor -/
  addr         : Nat
  desc         : JobDesc
  state        : JobState
  validThrough : Nat
  feedWarn     : Nat
  released     : Nat
  /-- the contone supply found by its checks (R36, R256) -/
  supply       : JobSupply := {}
  deriving DecidableEq, Repr

/-- A scheduled change (R52 to R57). -/
structure Change where
  jobId         : U32
  w             : U64
  postponements : Nat
  go            : Bool
  aborted       : Bool
  proof         : Bool
  /-- a gap in the position master's TIMING frames bars the proof for this W (R297) -/
  barred        : Bool := false
  ready         : List U8
  acks          : List U8
  deriving DecidableEq, Repr

/-- Jobs, repeats and the flying change (chapter 2). -/
structure Jobs where
  /-- the running job, or the ended job that last ran (Table 2.1; reset none) -/
  running : Option Job := none
  /-- the staged or scheduled job (Table 2.1; reset none) -/
  staged : Option Job := none
  /-- the job that the last change replaced or that last ended: heads behind that boundary still print its lines (R34, R57; reset none) -/
  outgoing : Option Job := none
  /-- its last repeat before that boundary: repeats begun before it, its start WPOS, the number of its line 0, and the WPOS of the boundary
  (R57, R335; reset 0) -/
  outLast : Nat × Nat × Nat × Nat := (0, 0, 0, 0)
  /-- jobs that this device has staged or loaded: the number of the last one (log entry 74; reset 0) -/
  serial : U32 := 0
  /-- the scheduled change (R52; reset none) -/
  change : Option Change := none
  /-- repeat index of the repeat at the web (R32; reset 0) -/
  rep : Nat := 0
  /-- repeats or sheets begun in the job before the present one (Table 1.8; reset 0) -/
  begun : Nat := 0
  /-- start WPOS of the present repeat (R32; reset 0, L3) -/
  repStart : U64 := 0
  /-- REPEAT_PITCH of the present repeat: boundaries continue by it after the last repeat (R34; reset 0, L3) -/
  repPitch : Nat := 0
  /-- line number of line 0 of the present repeat (R32; reset 0) -/
  firstLine : Nat := 0
  /-- whether repeat boundaries run (R34; reset no) -/
  boundaries : Bool := false
  /-- job.stop takes effect at this boundary (Table 2.10; reset none) -/
  stopAt : Option U64 := none
  /-- the device lost a change at W and fires neither job (R57; reset no) -/
  lost : Bool := false
  /-- the table set of the present repeat was late (R49; reset no) -/
  tableLate : Bool := false
  /-- the job that the position master shows to be running, for resuming under R57 and R330: its JOB_ID, and whether it is the incoming one of the
  lost change (reset none) -/
  masterJob : Option (U32 × Bool) := none
  /-- a schedule that came while a lost change was still to be made good: held once the device prints again (R53, R57; reset none) -/
  nextChange : Option Change := none
  /-- high-water WPOS at which it learnt that job (R57; reset 0) -/
  masterAt : Nat := 0
  deriving DecidableEq, Repr

/-- A block in or on its way to a plane ring (R42, R429). -/
structure RingBlock where
  job   : JobKey
  rep   : Nat
  idx   : Nat
  first : Nat
  len   : Nat
  ok    : Bool
  data  : List U8
  deriving DecidableEq, Repr

/-- Where a decompressor stands in a block (R232). -/
structure DecPlace where
  /-- bit position in the coded data of METHOD 1; the bytes of METHOD 0 are counted by the output -/
  pos  : Nat := 0
  /-- remaining length and distance of the match being copied -/
  copy : Nat × Nat := (0, 0)
  /-- the output so far, newest byte first: the block's history -/
  out  : List U8 := []
  deriving DecidableEq, Repr

/-- A plane ring of the staging SRAM (R43, R429). -/
structure Ring where
  /-- blocks held, oldest first (reset none) -/
  blocks : List RingBlock := []
  /-- the block fetched and not yet decompressed: its bytes (reset none) -/
  fetching : Option (RingBlock × List U8) := none
  /-- the decompressor's place in that block (R232; reset at its beginning) -/
  place : DecPlace := {}
  /-- the job the ring is fed from (R429; reset 0, L3) -/
  feedJob : JobKey := 0
  /-- next repeat, counted from the job's start, and block to fetch (R42; reset 0, 0) -/
  next : Nat × Nat := (0, 0)
  /-- EV_FEED_LOW armed (R44; reset armed) -/
  armed : Bool := true
  /-- a decompressor suspended on this ring keeps its place (R232; reset no) -/
  suspended : Bool := false
  /-- composited contone lines kept for the proxy: job, repeat, contone line, samples in 8 bits (R198; reset none) -/
  proxy : List (JobKey × Nat × Nat × List U8) := []
  deriving DecidableEq, Repr

/-- A tile of a repeat in the tile area (Table 2.6, R38, R40): its entry, and its data when its block passed. -/
structure TileData where
  job   : JobKey
  rep   : Nat
  idx   : Nat
  plane : Plane
  x     : Nat
  y     : Nat
  width : Nat
  height : Nat
  mode  : Nat
  ok    : Bool
  data  : List U8
  deriving DecidableEq, Repr

/-- The real-time feed and the staging SRAM. -/
structure Feed where
  /-- plane rings 0 to 7 (R43; reset empty) -/
  rings : Vector Ring 8 := Vector.replicate 8 {}
  /-- tiles decompressed into the tile area (R40; reset none) -/
  tiles : List TileData := []
  /-- tiles of repeats that fell due and are not yet decompressed: their entries, and the addresses of their blocks, none where the entry or the
  repeat's descriptor was poisoned (R40, R232, Table 10.2; reset none) -/
  tileWork : List (TileData × Option Nat) := []
  /-- the decompressor's place in the first of them (R232; reset at its beginning) -/
  tilePlace : DecPlace := {}
  /-- the decompressor of that tile is suspended (R232; reset no) -/
  tileHeld : Bool := false
  /-- the last repeat of each job that fell due: (JOB_ID, repeats of the job before it) (R42; reset none) -/
  due : List (JobKey × Nat) := []
  /-- the repeat at which the running job's feed began: 0, or the one at which the job was resumed (R42, R57; reset 0) -/
  first : Nat := 0
  /-- repeats of the outgoing job that lie before the change WPOS (R429; reset 0) -/
  outEnd : Nat := 0
  /-- repeats decided not valid when due (R42; reset none) -/
  noData : List (JobKey × Nat) := []
  /-- descriptors of the repeats that fell due and were valid, until their boundary: (JOB_ID, repeats before it, descriptor) (R42; reset
  none) -/
  descs : List (JobKey × Nat × RepeatDesc) := []
  /-- contone supplies of planes 0 to 7 of the outgoing job (R429; reset 0) -/
  outSupply : Vector Nat 8 := Vector.replicate 8 0
  /-- SPEED_LIMIT held by the over-rate condition (R37; reset no) -/
  overRate : Bool := false
  deriving DecidableEq, Repr

/-- What a shadow bank's load serves (R48, R83). -/
inductive LoadFor where
  | job
  | rep (job : JobKey) (k : Nat)
  | hostRepeat
  | hostJob
  deriving DecidableEq, Repr

/-- A request to load an image into a shadow bank. -/
structure LoadReq where
  tbl   : Tbl
  addr  : Nat
  len   : Nat
  crc   : U32
  setId : U32
  what  : LoadFor
  deriving DecidableEq, Repr

/-- The two banks of a table (R47). -/
structure Bank where
  /-- active image, sparse bytes (Table 2.9; reset all 0, L3) -/
  active : Mem := []
  /-- its length in bytes (reset 0) -/
  activeLen : Nat := 0
  /-- SET_ID it came from (32; R83; reset 0, L3) -/
  activeSet : U32 := 0
  /-- shadow image, sparse bytes (reset all 0) -/
  shadow : Mem := []
  /-- the request the shadow bank holds or is loading (R48; reset empty) -/
  pending : Option LoadReq := none
  /-- the shadow load is complete and passed its CRC (R82; reset no) -/
  loaded : Bool := false
  deriving DecidableEq, Repr

/-- A head timing entry (Table 4.3). -/
structure Timing where
  headOffset  : Nat
  fireAdvance : Nat
  minPeriod   : Nat
  rowsM1      : Nat
  rowOffset   : Vector Nat 4
  deriving DecidableEq, Repr

/-- Table banks, loop corrections, trims, limits and head timing (R47). -/
structure Banks where
  /-- the six tables in the order of Tbl (R47; reset empty) -/
  tbl : Vector Bank 6 := Vector.replicate 6 {}
  /-- loads asked for and not yet started (R48; reset none) -/
  queue : List LoadReq := []
  /-- table sets of repeats asked for and not yet swapped in: (JOB_ID, repeat, its loads), oldest first (R49; reset none) -/
  sets : List (JobKey × Nat × List LoadReq) := []
  /-- active loop correction bank, 61,440 signed 16-bit entries by bin (R65; reset 0, L3) -/
  loop : IMem := []
  /-- LOOP_TRIM per head (16, signed; Table 6.5; reset 0, L3) -/
  loopTrim : Vector Int 40 := Vector.replicate 40 0
  /-- HOST_TRIM per head in force (16, signed; Table 6.5; reset 0, L3) -/
  hostTrim : Vector Int 40 := Vector.replicate 40 0
  /-- HOST_TRIM waiting for a boundary (R150; reset none) -/
  hostTrimNew : Vector (Option Int) 40 := Vector.replicate 40 none
  /-- effective trim applied per head (R151; reset 0, L3) -/
  applied : Vector Int 40 := Vector.replicate 40 0
  /-- LIMIT per head (16; R152; reset 32767) -/
  limit : Vector Nat 40 := Vector.replicate 40 32767
  /-- LIMIT waiting for a boundary (R152; reset none) -/
  limitNew : Vector (Option Nat) 40 := Vector.replicate 40 none
  /-- applied T was limited at the last boundary (R151; reset no) -/
  limitedAt : Vector Bool 40 := Vector.replicate 40 false
  /-- active head timing table (Table 4.3; reset 0 and MIN_FIRE_PERIOD 1000, L3) -/
  timing : Vector Timing 40 := Vector.replicate 40 ⟨0, 0, 1000, 0, Vector.replicate 4 0⟩
  /-- pending head timing table (R98; reset none) -/
  timingNew : Option (Vector Timing 40) := none
  /-- a line.config has been accepted since reset (R98, log entry 12; reset no) -/
  timingSet : Bool := false
  deriving DecidableEq, Repr

/-- A line in a screener's output buffer (R84): codes in nozzle order. -/
structure Screened where
  job   : JobKey
  line  : Nat
  codes : List Nat
  deriving DecidableEq, Repr

/-- A head's screener engine. -/
structure Engine where
  /-- error line buffer, signed 24-bit per nozzle (R74; reset 0: SRAM is written at boot) -/
  err : IMem := []
  /-- LFSR of the noise generator (32; R73; reset 1, L3) -/
  lfsr : U32 := 1
  /-- the last line that the head began to screen: (JOB_ID, line) (R434; reset none) -/
  last : Option (JobKey × Nat) := none
  /-- output buffer, at most two lines (R84; reset empty) -/
  buf : List Screened := []
  /-- skips found at screening: (JOB_ID, line, reason) (R42, R45, R46, R49; reset none) -/
  skips : List (JobKey × Nat × Skip) := []
  /-- MODE with which the last line was screened (R74; reset 0) -/
  mode : Nat := 0
  /-- the running job's first line is still to screen, so that the noise generator starts from SEED with it (R73; reset no) -/
  fresh : Bool := false
  deriving DecidableEq, Repr

/-- An exact speed: travel in nm over time in quarter nanoseconds (R88). -/
structure Speed where
  travel : Int := 0
  time   : Nat := 0
  deriving DecidableEq, Repr

/-- Encoder state (R91). -/
structure Enc where
  /-- faulted until pos.config clears it (R92; reset no) -/
  faulted : Bool := false
  /-- net counts in the present 10 mm window of the primary (R91; reset 0) -/
  window : Int := 0
  /-- counts since the last index pulse (R91; reset 0) -/
  since : Int := 0
  /-- net counts of the other encoder since this one's last count (Table 4.2; reset 0) -/
  quiet : Int := 0
  /-- an index pulse has begun counting (R91; reset no) -/
  indexed : Bool := false
  /-- the previous index period failed (R91; reset no) -/
  slipping : Bool := false
  /-- times of the latest illegal transitions, quarter ns, newest first, at most four (R91; reset none) -/
  illegal : List Nat := []
  deriving DecidableEq, Repr

/-- Position roles (Table 4.1). -/
inductive PosRole where
  | follower
  | master
  | deputy
  deriving DecidableEq, Repr

/-- Web position (chapter 4). -/
structure Pos where
  /-- POS_ROLE (Table 4.1; reset 0 follower) -/
  role : PosRole := .follower
  /-- ENC_MODE 0 to 2 (Table 4.1; reset 0) -/
  encMode : Nat := 0
  /-- ENC_INVERT per encoder (Table 4.1; reset 0) -/
  invert : Vector Bool 2 := Vector.replicate 2 false
  /-- COUNT_NUM (Table 4.1; reset 500) -/
  countNum : Nat := 500
  /-- COUNT_DEN (Table 4.1; reset 1) -/
  countDen : Nat := 1
  /-- SPEED_LOG2 (Table 4.1; reset 4) -/
  speedLog2 : Nat := 4
  /-- STALL_MS (Table 4.1; reset 10) -/
  stallMs : Nat := 10
  /-- MIN_SPEED in µm/s (Table 4.1; reset 1000) -/
  minSpeed : Nat := 1000
  /-- INDEX_PITCH (Table 4.1; reset 0) -/
  indexPitch : Nat := 0
  /-- INDEX_TOL (Table 4.1; reset 4) -/
  indexTol : Nat := 4
  /-- ENC_TOL (Table 4.1; reset 50) -/
  encTol : Nat := 50
  /-- REVERSE_TOL (Table 4.1; reset 1000000) -/
  reverseTol : Nat := 1000000
  /-- LPI (Table 4.1; reset 1200) -/
  lpi : Nat := 1200
  /-- WPOS, interpolated (64; R87, R88; reset 2^40) -/
  wpos : U64 := 0x10000000000
  /-- WPOS of the last count, exact (R88; reset 2^40) -/
  countWpos : U64 := 0x10000000000
  /-- sub-nanometre remainder in units of 1/COUNT_DEN (R87; reset 0) -/
  frac : Nat := 0
  /-- high-water WPOS (64; R90; reset 2^40) -/
  hwpos : U64 := 0x10000000000
  /-- the newest counts as (WPOS, quarter ns), newest first, at most 2^SPEED_LOG2 + 1 (R88; reset none) -/
  counts : List (U64 × Nat) := []
  /-- time from which WPOS is interpolated: of the last count, or of a failover, quarter ns (R88, R92; reset none) -/
  countAt : Option Nat := none
  /-- speed (R88; reset 0) -/
  speed : Speed := {}
  /-- speed held at a failover until the check encoder's average is full (R92; reset no) -/
  holdSpeed : Bool := false
  /-- ENC0 and ENC1 (R91; reset healthy) -/
  encs : Vector Enc 2 := Vector.replicate 2 {}
  /-- the encoder that drives WPOS (R92; reset ENC0) -/
  driving : Fin 2 := 0
  /-- WPOS frozen: the driving encoder faulted with no healthy check (R91; reset no) -/
  frozen : Bool := false
  /-- the previous 10 mm window failed (R91; reset no) -/
  disagreeing : Bool := false
  /-- the deputy's own travel disagreed with the samples over the previous 10 mm window (R107; reset no) -/
  offSamples : Bool := false
  /-- EV_WEB_REVERSE raised for the present reversal (R90; reset no) -/
  reversed : Bool := false
  /-- newest WPOS sample accepted (R105; reset none) -/
  sample : Option WposSample := none
  /-- fabric time at which that sample was accepted, quarter ns (R105; reset 0) -/
  sampleAt : Nat := 0
  /-- difference still to remove over 10 µs, nm (R105; reset 0) -/
  residual : Int := 0
  /-- high-water WPOS with which the samples returned after a loss: lines whose commit points lie at or below it are skipped (R106; reset none) -/
  skipTo : Option U64 := none
  /-- a valid WPOS: a sample has come and is not lost; always on a position master (R106; reset no) -/
  valid : Bool := false
  /-- the deputy broadcasts (R107; reset no) -/
  deputyOn : Bool := false
  /-- travel of the accepted samples in the deputy's present 10 mm window, nm (R107; reset 0) -/
  sampleWindow : Int := 0
  /-- a promoted position master that has no source of WPOS until the deputy's samples or pos.set (R108; reset no) -/
  relock : Bool := false
  /-- own LPI or MIN_SPEED differ from the position master's (R86; reset no) -/
  mismatch : Bool := false
  /-- WPOS samples broadcast, newest first (R104; the model's trace, log entry 10) -/
  sent : List WposSample := []
  deriving DecidableEq, Repr

/-- Product detect (R99 to R103). -/
structure Sheet where
  /-- PD_SEL (Table 4.4; reset 0) -/
  sel : Nat := 0
  /-- PD_EDGE per input, true rising (Table 4.4; reset 1) -/
  edge : Vector Bool 2 := Vector.replicate 2 true
  /-- PD_DISTANCE per input (Table 4.4; reset 0) -/
  distance : Vector Nat 2 := Vector.replicate 2 0
  /-- PD_DEBOUNCE (Table 4.4; reset 5000000) -/
  debounce : Nat := 5000000
  /-- PD_TOL (Table 4.4; reset 1000000) -/
  tol : Nat := 1000000
  /-- WPOS of the last accepted edge per input (R99; reset none) -/
  lastEdge : Vector (Option U64) 2 := Vector.replicate 2 none
  /-- start of the last sheet opened and its REPEAT_PITCH (R100; reset none) -/
  lastSheet : Option (U64 × Nat) := none
  /-- sheet number within the job (R102; reset 0) -/
  number : U32 := 0
  /-- sheet starts that wait for their PD1 confirmation, oldest first (R101; reset none) -/
  confirm : List U64 := []
  /-- sheets opened whose start is not reached, oldest first: (start, number, high-water WPOS when the notice came) (R102; reset none) -/
  opened : List (U64 × U32 × U64) := []
  deriving DecidableEq, Repr

/-- A line token (R96, R109). -/
structure Token where
  head    : Head
  job     : JobKey
  line    : Nat
  rep     : Nat
  fireAt  : List Nat
  fired   : BitVec 4
  wave    : BitVec 4
  mapBank : Bool
  dropBits : Nat
  blank   : Bool
  strip   : Bool
  codes   : List Nat
  /-- pending while fire inhibit held for the head; a later clear does not free it (R111) -/
  barred  : Bool := false
  deriving DecidableEq, Repr

/-- A repeat or sheet whose lines a head still commits (R32, R93): lines 0 to `lines` − 1 and, in its gutter, `strips` lines of the
nozzle-check strip, which take the line numbers that follow (R216, log entry 14). -/
structure Seg where
  job    : JobKey
  /-- repeats begun in the job before this one -/
  rep    : Nat
  /-- WPOS of its start -/
  start  : Nat
  /-- line number of its line 0 -/
  base   : Nat
  lines  : Nat
  strips : Nat
  blank  : Bool
  plane  : Plane
  /-- its table set was late: its lines skip under TABLE_NOT_READY (R49) -/
  late   : Bool
  /-- lines below this one were past their commit points when the sheet-open notice came (R102) -/
  lateTo : Nat
  /-- next line to commit -/
  j      : Nat
  /-- next line to screen -/
  s      : Nat
  deriving DecidableEq, Repr

/-- A head's place in the lines of its jobs (R93, R96). -/
structure Cursor where
  /-- repeats with lines still to commit, oldest first; those of an outgoing job stay behind a change WPOS (R57; reset none) -/
  segs : List Seg := []
  /-- the repeat that the head began ahead of its boundary: (JOB_ID, repeats begun before it) (R96; reset none) -/
  ahead : Option (JobKey × Nat) := none
  deriving DecidableEq, Repr

/-- A token that has ended, kept until its proxy or strip record is sent (R199). -/
structure Ended where
  head  : Head
  job   : JobKey
  line  : Nat
  fired : Bool
  deriving DecidableEq, Repr

/-- The line-fire timer (R89 to R111). -/
structure Fire where
  /-- pending tokens, oldest first (R109; reset none) -/
  tokens : List Token := []
  /-- heads' cursors (R96; reset off) -/
  cursor : Vector Cursor 40 := Vector.replicate 40 {}
  /-- fire inhibit set by line.inhibit or R155 (40; R111; reset 0, L3) -/
  inhibit : BitVec 40 := 0
  /-- supply inhibit (40; R164; reset 0, L3) -/
  supply : BitVec 40 := 0
  /-- previous fire instant per head and row, quarter ns (R97; reset none) -/
  prev : Vector (Vector (Option Nat) 4) 40 := Vector.replicate 40 (Vector.replicate 4 none)
  /-- tokens ended, for the proxy records (R199; reset none) -/
  ended : List Ended := []
  /-- per-nozzle drop totals by 6144 × head + nozzle (64 each; R17, R313; reset 0, L3) -/
  drops : IMem := []
  deriving DecidableEq, Repr

/-- Head states (Table 5.9). -/
inductive HeadState where
  | down
  | linked
  | present
  | isolated
  deriving DecidableEq, Repr

/-- A cell handed to a head lane's transmitter (R115). -/
inductive TxCell where
  | line (c : LineCell)
  | fire (c : FireCell)
  | control (c : ControlCell)
  deriving DecidableEq, Repr

/-- Steps of bring-up (R124). -/
inductive Bring where
  | idle
  | ident
  | echo
  | maps
  | config
  | inhibit
  | unfit
  deriving DecidableEq, Repr

/-- The transmitter of a head lane (R115, R117, R118). Times are in units of 10 ps, in which every lane rate's UI is whole. -/
structure FhlTx where
  /-- the LINE or CONTROL cell in transmission, preempted or not, and the time that its rest takes (R115; reset none) -/
  sending : Option (TxCell × Nat) := none
  /-- time that the last LINE or CONTROL cell begun takes in all (R269; reset 0) -/
  whole : Nat := 0
  /-- LINE cells that wait, in commit order (R115; reset none) -/
  lines : List LineCell := []
  /-- CONTROL cells that wait until no LINE cell is queued (R115; reset none) -/
  controls : List ControlCell := []
  /-- time at which the last FIRE cell's end delimiter is sent (R117; reset 0) -/
  fireEnd : Nat := 0
  /-- end times of the FIRE cells not yet completely sent, oldest first (R140; reset none) -/
  fires : List Nat := []
  /-- time up to which these fields stand (R115; reset 0) -/
  since : Nat := 0
  /-- cells begun, the number of the next cell's free stuffing: the model's own field, no rule of the spec (log entry 9; reset 0,
  DESIGN CHOICE) -/
  begun : Nat := 0
  deriving DecidableEq, Repr

/-- A head link on the FKB2's side (chapter 5). -/
structure HeadLink where
  /-- ENABLE of head.link (Table 5.12; reset 1 as R389 enables the head lanes, L3) -/
  enable : Bool := true
  /-- RATE of head.link (2; Table 5.12; reset 0, L3) -/
  rate : BitVec 2 := 0
  /-- NOZZLES of head.link (Table 5.12; reset 6144, L3) -/
  nozzles : Nat := 6144
  /-- head state (Table 5.9; reset DOWN) -/
  state : HeadState := .down
  /-- latest STATUS IDENT (R433; reset none) -/
  ident : Option StatusCell := none
  /-- latest STATUS REPORT (R140; reset none) -/
  report : Option StatusCell := none
  /-- round trip, TURN and one-way delay in ns (R124; reset none) -/
  delay : Option (Nat × Nat × Nat) := none
  /-- FIRED_ROWS base (R140; reset 0, L3) -/
  base : Nat := 0
  /-- FIRE cells completely sent since the base (R140; reset 0) -/
  fireSent : Nat := 0
  /-- SEQ of the last CONTROL cell (16; Table 5.5; reset 0, L3) -/
  seq : U16 := 0
  /-- CONTROL cell awaiting its reply, with the resends made (R119; reset none) -/
  await : Option (ControlCell × Nat) := none
  /-- CONTROL cells waiting: (subtype, payload) (R119; reset none) -/
  queue : List (BitVec 4 × List U8) := []
  /-- bring-up step (R124; reset idle) -/
  bring : Bring := .idle
  /-- SEQ of the last STATUS cell (16; Table 5.10; reset none) -/
  statusSeq : Option U16 := none
  /-- pulse-map bank of lines committed now (R126; reset bank 0) -/
  mapBank : Bool := false
  /-- maps of the shadow waveform bank are acknowledged (R126; reset no) -/
  mapsAcked : Bool := false
  /-- its maps were not acknowledged by the boundary of a swap: the other pulse-map bank serves it from the first boundary after they are
  (R126; reset no) -/
  mapsDue : Bool := false
  /-- fire inhibit set by R125 while absent (reset no) -/
  absentInhibit : Bool := false
  /-- counts of the codes of Table 5.10 (10; reset 0, L3) -/
  viol : Vector Nat 10 := Vector.replicate 10 0
  /-- LINE_NO of the last non-NULL LINE cell of the job (R116; reset 0) -/
  lastLine : U32 := 0
  /-- this unit's CONFIG was acknowledged since the last epoch raise (Table 5.10 0x29; reset no) -/
  configured : Bool := false
  /-- the lane's transmitter (R115; reset idle) -/
  out : FhlTx := {}
  /-- the maps of the waveform shadow bank were sent in step 4 of the present bring-up (R124; reset no) -/
  shadowSent : Bool := false
  /-- cells that the transmitter began, newest first (R115; the model's trace, log entry 10) -/
  tx : List TxCell := []
  /-- WITNESS reply to the present query: (OTHER_AGE, OTHER_EPOCH) (R324; reset none) -/
  witness : Option (U32 × U32) := none
  deriving DecidableEq, Repr

/-- A line held by an adapter (R134 to R136). -/
structure HeldLine where
  cell : LineCell
  /-- rows fired or dead, bit r for row r -/
  gone : BitVec 4
  deriving DecidableEq, Repr

/-- A firing accepted and not yet triggered (R135, R137). -/
structure Firing where
  row     : BitVec 2
  job     : U32
  line    : U32
  epoch   : U32
  wave    : BitVec 4
  mapBank : Bool
  /-- (nozzle, pulse-gate mask) of the nozzles of the row that take a pulse -/
  pulses  : List (Nat × U16)
  deriving DecidableEq, Repr

/-- One FHL port of an adapter (R138). -/
structure AdPort where
  /-- SEQ of the last STATUS cell sent (16; reset 0, L3) -/
  seq : U16 := 0
  /-- last CONTROL cell accepted and the reply given (R119; reset none) -/
  lastCtrl : Option (U16 × StatusCell) := none
  /-- CRC_ERRORS (16, saturating; Table 5.7; reset 0) -/
  crcErrors : Nat := 0
  /-- DISCARDS (16, saturating; Table 5.7; reset 0) -/
  discards : Nat := 0
  /-- quarter ns and EPOCH of the last valid LINE cell (R129; reset none) -/
  lastLine : Option (Nat × U32) := none
  /-- SAFE_SEEN (Table 5.7; reset 0) -/
  safeSeen : Bool := false
  /-- EPOCH_REJECT (Table 5.7; reset 0) -/
  epochReject : Bool := false
  /-- OVERFLOW (Table 5.7; reset 0) -/
  overflow : Bool := false
  /-- attempts to train that this port has begun since it was last up (R277, R279; reset 0) -/
  attempts : Nat := 0
  /-- an attempt of it is in progress (R279; reset no) -/
  trying : Bool := false
  /-- the quarter ns at which that attempt fails by its time, or its next one starts (R275, R277; reset none) -/
  nextAt : Option Nat := none
  /-- training words that this port has sent, newest first (R279; the model's trace, log entry 10) -/
  words : List TrainWord := []
  /-- STATUS cells sent, newest first (R119, R121; the model's trace, log entry 10) -/
  tx : List StatusCell := []
  deriving DecidableEq, Repr

/-- A head adapter (R127 to R139). -/
structure Adapter where
  /-- what the adapter is; none while unpowered (Table 5.7; reset unpowered, L5) -/
  facts : Option AdapterFacts := none
  /-- INHIBITED (R139; reset 1) -/
  inhibited : Bool := true
  /-- CONFIGURED (R139; reset 0) -/
  configured : Bool := false
  /-- HIGHEST_EPOCH (32; R139; reset 0) -/
  highest : U32 := 0
  /-- FIRED_ROWS (48; R139; reset 0) -/
  firedRows : Nat := 0
  /-- NOZZLES of CONFIG (Table 5.6; reset 0, L3) -/
  nozzles : Nat := 0
  /-- STATUS_PERIOD of CONFIG in µs (Table 5.6; reset 0, L3) -/
  period : Nat := 0
  /-- held lines, oldest first (R134; reset none) -/
  held : List HeldLine := []
  /-- job and line of the last held LINE cell (R134; reset none) -/
  lastHeld : Option (U32 × U32) := none
  /-- pulse maps by bank and table (Table 5.6; R139: reset none) -/
  maps : Vector (Vector (Option (List U16)) 16) 2 := Vector.replicate 2 (Vector.replicate 16 none)
  /-- firings accepted and not yet triggered, oldest first (R137; reset none) -/
  due : List Firing := []
  /-- firings triggered, newest first (R137; the model's trace, log entry 10) -/
  firings : List Firing := []
  /-- LAST_ROW (2; R139; reset 0, L3) -/
  lastRow : BitVec 2 := 0
  /-- LAST_JOB_ID (32; R139; reset 0, L3) -/
  lastJob : U32 := 0
  /-- LAST_LINE_NO (32; R139; reset 0, L3) -/
  lastLine : U32 := 0
  /-- LAST_EPOCH (32; R139; reset 0, L3) -/
  lastEpoch : U32 := 0
  /-- TEMP (16; Table 5.7; reset 0, L3) -/
  temp : U16 := 0
  /-- HOT (Table 5.7; reset 0, L3) -/
  hot : Bool := false
  /-- HEAD_FAULT (Table 5.7; reset 0, L3) -/
  fault : Bool := false
  /-- HEAD_SAFE_N has been low for 50 ns (R131; reset no) -/
  safe : Bool := false
  /-- ports A and B (R138; reset 0) -/
  ports : Vector AdPort 2 := Vector.replicate 2 {}
  deriving DecidableEq, Repr

/-- Kinds of handover (R156, R160). -/
inductive HoKind where
  | rotation
  | replacement
  | commanded
  deriving DecidableEq, Repr

/-- A DAC group (R142 to R161). -/
structure DacGroup where
  /-- the core that drives each pin (R143; reset Cj drives pin j) -/
  pinMap : Vector Core 8 := Vector.ofFn (fun j => ⟨j.val, by omega⟩)
  /-- the spare core (R143; reset C8) -/
  spare : Core := 8
  /-- OFFSET_TRIM per core, quarter LSB (12, signed; R153; reset 0, L3) -/
  offset : Vector Int 9 := Vector.replicate 9 0
  /-- GAIN_TRIM per core, 0.002 % (12, signed; R153; reset 0, L3) -/
  gain : Vector Int 9 := Vector.replicate 9 0
  /-- suspect flags (R159; reset 0) -/
  suspect : Vector Bool 9 := Vector.replicate 9 false
  /-- consecutive failed calibrations (R159; reset 0) -/
  fails : Vector Nat 9 := Vector.replicate 9 0
  /-- rotation enabled (R156, dac.rotation; reset enabled, L3) -/
  rotate : Bool := true
  /-- CAL_INTERVAL in units of 0.1 s (R156; reset 10) -/
  interval : Nat := 10
  /-- the pin the next rotation takes (R156; reset 0) -/
  nextPin : Fin 8 := 0
  /-- the pin that the spare released last (R156; reset none) -/
  released : Option (Fin 8) := none
  /-- the handover waiting for its quiet interval (R157; reset none) -/
  waiting : Option (Fin 8 × HoKind) := none
  /-- since when the spare follows the sample stream of the waiting handover's pin, in quarter ns (R157; reset 0, L3) -/
  since : Nat := 0
  /-- the head that monitoring visits next (R154; reset 0, L3) -/
  visit : Fin 8 := 0
  /-- replacements waiting for the spare (R160; reset none) -/
  replace : List (Fin 8) := []
  /-- the core under calibration and its first run (R158; reset none) -/
  cal : Option (Core × Option CalRun) := none
  /-- cores that the start-up calibration, or that of a promotion's self-test, has still to calibrate (R161, R328, R388; reset none) -/
  start : List Core := []
  /-- that calibration is the one at start-up, to which the limit of 32 LSB and 0.2 % does not apply (R158; reset no) -/
  atStart : Bool := false
  /-- HANDOVERS (32; dac.status; reset 0, L3) -/
  handovers : U32 := 0
  /-- CAL_FAIL (32; R158; reset 0, L3) -/
  calFail : U32 := 0
  /-- NO_QUIET (32; R156; reset 0, L3) -/
  noQuiet : U32 := 0
  deriving DecidableEq, Repr

/-- A waveform cycle of a pin (R147, R150, R157): the table, when its sample 0 leaves the pin in quarter ns, its scaled samples of 20 ns each, its
quiet interval (QUIET_START, QUIET_LEN), CHECK_INDEX, and when the cycle before it began. -/
structure WaveCycle where
  table   : BitVec 4
  start   : Nat
  samples : List Int
  quiet   : Nat × Nat
  check   : Nat
  before  : Option Nat
  deriving DecidableEq, Repr

/-- Drive configuration and readback of a head (Table 6.7, R155). -/
structure HeadDrive where
  /-- WAVE_DELAY in ns (Table 6.7; reset 410) -/
  waveDelay : Nat := 410
  /-- WAVE_DELAY waiting for a boundary (R147; reset none) -/
  waveDelayNew : Option Nat := none
  /-- SENSE_GAIN (Table 6.7; reset 4096) -/
  senseGain : Nat := 4096
  /-- SENSE_OFFSET in mV (Table 6.7; reset 600) -/
  senseOffset : Nat := 600
  /-- SENSE_TOL (Table 6.7; reset 64) -/
  senseTol : Nat := 64
  /-- ISEN_MAX (Table 6.7; reset 16383) -/
  isenMax : Nat := 16383
  /-- THERM_LO (Table 6.7; reset 0) -/
  thermLo : Nat := 0
  /-- THERM_HI (Table 6.7; reset 16383) -/
  thermHi : Nat := 16383
  /-- consecutive deviating SENSE visits (R155; reset 0) -/
  senseBad : Nat := 0
  /-- consecutive ISEN visits above ISEN_MAX (R155; reset 0) -/
  isenBad : Nat := 0
  /-- consecutive THERM visits outside the window (R155; reset 0) -/
  thermBad : Nat := 0
  /-- a replacement of the pin's core after a deviation waits for its handover (R160; reset no) -/
  deviated : Bool := false
  /-- the pin's core was replaced after a deviation (R160; reset no) -/
  replaced : Bool := false
  /-- WAVE_MISMATCH (32; R147; reset 0, L3) -/
  waveMismatch : U32 := 0
  /-- TRIM_LIMITED (32; R151; reset 0, L3) -/
  trimLimited : U32 := 0
  /-- REST of the table last selected for the head (R144, R146; reset none) -/
  rest : Option Int := none
  /-- when the pin's last cycle began, in quarter ns (R157; reset none) -/
  lastStart : Option Nat := none
  /-- the pin's cycles, oldest first: the running or last one and those still to start (R147; reset none) -/
  cycles : List WaveCycle := []
  /-- latest readings SENSE, ISEN, THERM (dac.status; reset 0, L3) -/
  latest : Nat × Nat × Nat := (0, 0, 0)
  deriving DecidableEq, Repr

/-- A head supply entry (Table 6.10). -/
structure SupplyCfg where
  addr      : Nat
  page      : Nat
  mask      : BitVec 40
  order     : Nat
  onDelay   : Nat
  pgTimeout : Nat
  vout      : Nat
  pec       : Bool
  deriving DecidableEq, Repr

/-- What the PMBus host does on the bus: a write of a command to an address, with packet error checking or not, a read of one (Table 6.9), or a bus
recovery, nine SCL pulses and a STOP (R166). -/
inductive PmbAct where
  | write (addr command value : Nat) (pec : Bool)
  | read (addr command : Nat) (pec : Bool)
  | recover
  deriving DecidableEq, Repr

/-- Limits and state of a supply (R163 to R165). -/
structure SupState where
  /-- on (R164; reset off, L3) -/
  on : Bool := false
  /-- STATUS_WORD (16; Table 6.9; reset 0, L3) -/
  status : U16 := 0
  /-- READ_VOUT (Table 6.9; reset 0, L3) -/
  vout : U16 := 0
  /-- READ_IOUT (Table 6.9; reset 0, L3) -/
  iout : U16 := 0
  /-- READ_TEMPERATURE_1 (Table 6.9; reset 0, L3) -/
  temp : U16 := 0
  /-- writes that the supply did not acknowledge, to be retried at the next poll: (command, value) (Table 6.11 0x60; reset none) -/
  retry : List (Nat × Nat) := []
  /-- VOUT_MAX in mV set by hv.limits (R163; reset none) -/
  voutMax : Option Nat := none
  /-- VOUT_OV_FAULT_LIMIT (Table 6.9; reset none) -/
  ovLimit : Option Nat := none
  /-- IOUT_OC_FAULT_LIMIT (Table 6.9; reset none) -/
  ocLimit : Option Nat := none
  /-- a fault shows until the next turn-on (R165; reset no) -/
  faulted : Bool := false
  deriving DecidableEq, Repr

/-- Drive waveforms, the rotating spare and the head supplies (chapter 6). -/
structure Drive where
  /-- groups G0 to G4 (R142; reset R143) -/
  groups : Vector DacGroup 5 := Vector.replicate 5 {}
  /-- heads' drive (Table 6.7; reset defaults) -/
  heads : Vector HeadDrive 40 := Vector.replicate 40 {}
  /-- every core outputs s = 0 until the first waveform bank swap, and in a trip (R144, R162; reset yes) -/
  zeroed : Bool := true
  /-- supplies of hv.config (R163; reset none) -/
  supplies : List SupplyCfg := []
  /-- PMBus rate 100 or 400 kHz (chapter 6; reset 100, L3) -/
  busRate : Nat := 100
  /-- supply states (R165; reset off) -/
  sup : Vector SupState 16 := Vector.replicate 16 {}
  /-- hv.power in progress: turning on, the supplies still to come, those done (R164; reset none) -/
  seqOn : Bool := false
  /-- supplies still to turn on, in order (R164; reset none) -/
  seqTodo : List Supply := []
  /-- supplies of the present step that await power good (R164; reset none) -/
  seqWait : List Supply := []
  /-- supplies turned on by this command, newest first (R164; reset none) -/
  seqDone : List Supply := []
  /-- supplies whose state the first STATUS_WORD read after a promotion gives (R312; reset none) -/
  adopt : BitVec 16 := 0
  /-- the first PMBus transaction after a promotion is still to come (R312; reset no) -/
  adoptDue : Bool := false
  /-- alert response reads in a row that no supply answered (Table 6.11 0x64; reset 0) -/
  alertMiss : Nat := 0
  /-- alerts are ignored until PMB_ALERT_N rises (Table 6.11 0x64; reset no) -/
  alertStuck : Bool := false
  /-- what the PMBus host has done, newest first (Table 6.9, R166; the model's trace, log entry 10) -/
  pmb : List PmbAct := []
  deriving DecidableEq, Repr

/-- Configuration of a camera port (Table 7.2); the default values are the table's. -/
structure CamCfg where
  /-- LANES (Table 7.2; reset 4) -/
  lanes : Nat := 4
  /-- LANE_RATE (Table 7.2; reset 2500) -/
  laneRate : Nat := 2500
  /-- DTYPE (Table 7.2; reset 0x2C) -/
  dtype : Nat := 0x2C
  /-- VC (Table 7.2; reset 0) -/
  vc : Nat := 0
  /-- WIDTH_PX (Table 7.2; reset 11812) -/
  width : Nat := 11812
  /-- BAND_LINES (Table 7.2; reset 1024) -/
  bandLines : Nat := 1024
  /-- TRIG_PITCH (Table 7.2; reset 42333) -/
  trigPitch : Nat := 42333
  /-- MAX_TRIG_RATE (Table 7.2; reset 60000) -/
  maxRate : Nat := 60000
  /-- TRIG_WIDTH (Table 7.2; reset 1000) -/
  trigWidth : Nat := 1000
  /-- LINE_LATENCY_MAX (Table 7.2; reset 100) -/
  latencyMax : Nat := 100
  /-- STROBE_DELAY (Table 7.2; reset 0) -/
  strobeDelay : Nat := 0
  /-- STROBE_WIDTH (Table 7.2; reset 0) -/
  strobeWidth : Nat := 0
  /-- CAM_OFFSET (Table 7.2; reset 0) -/
  camOffset : Nat := 0
  /-- COLUMN0 (Table 7.2; reset 0) -/
  column0 : Nat := 0
  /-- PIXEL_STEP (Table 7.2; reset 2) -/
  pixelStep : Nat := 2
  /-- REVERSED (Table 7.2; reset 0) -/
  reversed : Bool := false
  /-- MOSAIC (Table 7.2; reset 0) -/
  mosaic : Nat := 0
  /-- OB_X0, OB_W (Table 7.2; reset 0, 0) -/
  ob : Nat × Nat := (0, 0)
  /-- SAF_WHITE_X0, SAF_WHITE_W (Table 7.2; reset 0, 0) -/
  safWhite : Nat × Nat := (0, 0)
  /-- SAF_BLACK_X0, SAF_BLACK_W (Table 7.2; reset 0, 0) -/
  safBlack : Nat × Nat := (0, 0)
  /-- CCI_PORT (Table 7.2; reset 0) -/
  cciPort : Bool := false
  /-- CCI_ADDR (Table 7.2; reset 0x10) -/
  cciAddr : Nat := 0x10
  /-- K (Table 7.2; reset 1) -/
  k : Nat := 1
  deriving DecidableEq, Repr

/-- A setting set (Table 7.3). -/
structure SettingSet where
  setId  : U32
  writes : List (Nat × Nat × Nat)
  wbGain : List Nat
  target : List Nat
  matrix : List Int
  tone   : List Nat
  deriving DecidableEq, Repr

/-- The queued setting set of a port (R177): its context, whether its CCI writes have begun, the band b at whose open they did, the writes
left, and the band from which it applies once they are complete. -/
structure QueuedSet where
  set     : SettingSet
  ctx     : Nat
  begun   : Bool
  band    : Option U32
  left    : Nat
  applies : Option U32
  deriving DecidableEq, Repr

/-- A kept line as received: its pixels, its trigger WPOS, and the number of its draw of free roundings (R168, R171, log entry 9). -/
structure CamLine where
  pixels : List U16
  trig   : U64
  draw   : Nat
  deriving DecidableEq, Repr

/-- An open band (R173). -/
structure CamBand where
  /-- BAND (32; R173) -/
  number : U32 := 0
  /-- SET_ID of the band, none when UNCERTAIN (R179) -/
  setId : Option U32 := none
  /-- lines received, kept or dropped (R173) -/
  received : Nat := 0
  /-- LINES, lines kept (R173) -/
  lines : Nat := 0
  /-- DROPPED (R174) -/
  dropped : Nat := 0
  /-- LONG (R174) -/
  long : Bool := false
  /-- DARK (R191) -/
  dark : Bool := false
  /-- NOT_SERVED (R181) -/
  notServed : Bool := false
  /-- CAL (R192) -/
  cal : Bool := false
  /-- trigger WPOS of the last line received (R176) -/
  lastTrig : Option U64 := none
  /-- long packets that failed CRC-16 (Table 7.7) -/
  crcBad : Nat := 0
  /-- kept lines that the pipeline has taken, in order (R184) -/
  kept : List CamLine := []
  deriving DecidableEq, Repr

/-- A band statistics record (Table 7.6): its SET_ID, its DROPPED, which grows up to the next frame start when LONG (R174), its bytes, and
whether it has been read (R193). -/
structure CamStats where
  setId   : Option U32
  dropped : Nat
  bytes   : List U8
  read    : Bool
  deriving DecidableEq, Repr

/-- A dark calibration (R191): its stage (0 waits for its band open, 1 the decay band, 2 and 3 the runs), restarts, and the runs as column
sums, lines, sum and number of the optical black samples. -/
structure DarkCal where
  tol      : Nat
  max      : Nat
  stage    : Nat
  restarts : Nat
  runs     : List (List Nat × Nat × Nat × Nat)
  deriving DecidableEq, Repr

/-- A white calibration (R190): the bands still to wait, and the bands closed since this calibration began. -/
structure WhiteCal where
  period  : Nat
  lead    : BitVec 4
  wait    : Nat
  age     : Nat
  setId   : Option U32
  runs    : List (List Nat)
  deriving DecidableEq, Repr

/-- The focus servo (R189). -/
structure Focus where
  /-- MODE (cam.focus; reset 0) -/
  on     : Bool := false
  /-- FOCUS_REG (reset 0, L3) -/
  reg    : Nat := 0
  /-- WIDTH in bytes (reset 2, L3) -/
  width  : Nat := 2
  /-- POS_MIN (reset 0, L3) -/
  posMin : Nat := 0
  /-- POS_MAX (reset 0, L3) -/
  posMax : Nat := 0
  /-- STEP (reset 0, L3) -/
  step   : Nat := 0
  /-- DITHER (reset 0, L3) -/
  dither : Nat := 0
  /-- FOCUS_K (reset 0, L3) -/
  k      : Nat := 0
  /-- ZONE_FIRST, ZONE_LAST (reset 0, 15, L3) -/
  zones  : Nat × Nat := (0, 15)
  /-- pos of R189's servo (reset 0, L3) -/
  pos    : Int := 0
  /-- fresh s[+1] and s[−1], as sums over the zones (reset none) -/
  plus   : Option Nat := none
  /-- s[−1] (reset none) -/
  minus  : Option Nat := none
  /-- positions written, the bands they apply from and whether their dither sign is +, newest first (FOCUS_POS; reset none) -/
  written : List (Int × Nat × Bool) := []
  deriving DecidableEq, Repr

/-- Calibration tables of a camera port (R184). -/
structure CamTables where
  black   : List Nat := []
  shade   : List Nat := []
  defects : List Nat := []
  deriving DecidableEq, Repr

/-- A camera port (chapter 7). -/
structure Cam where
  /-- configuration (Table 7.2; reset defaults) -/
  cfg : CamCfg := {}
  /-- the port runs (cam.run; reset no) -/
  running : Bool := false
  /-- inside a frame: a frame start came and no frame end (R173; reset no) -/
  inFrame : Bool := false
  /-- number of the next band to open (32; R173; reset 0) -/
  nextBand : U32 := 0
  /-- the open band (R173; reset none) -/
  band : Option CamBand := none
  /-- drop lines until the next frame start (R174; reset no) -/
  dropping : Bool := false
  /-- trigger queue, oldest first: (high-water WPOS, quarter ns), at most 256 (R171; reset empty) -/
  trigQ : List (U64 × Nat) := []
  /-- fabric time of the last issued trigger, quarter ns (R170; reset none) -/
  lastTrig : Option Nat := none
  /-- high-water WPOS up to which multiples of TRIG_PITCH were handled (R170; reset 2^40, L3) -/
  trigAt : U64 := 0x10000000000
  /-- triggers issued, newest first: (WPOS, strobe) (R170; the model's trace, log entry 10) -/
  trigs : List (U64 × Bool) := []
  /-- TRIG_SKIPPED since the last band close (R170; reset 0) -/
  skipped : Nat := 0
  /-- TRIG_ORPHAN since the last band close (R171; reset 0) -/
  orphan : Nat := 0
  /-- triggers issued since the last long packet (Table 7.7 0x58; reset 0) -/
  silent : Nat := 0
  /-- the set that applies (R179; reset none) -/
  set : Option SettingSet := none
  /-- context of the port's parameters (reset none) -/
  ctx : Option Nat := none
  /-- the queued set (R177; reset none) -/
  queued : Option QueuedSet := none
  /-- a setting set has been accepted (R180; reset no) -/
  accepted : Bool := false
  /-- bands are UNCERTAIN until a later set applies (R180; reset no) -/
  uncertain : Bool := false
  /-- effective WB gain per mosaic position, 14 fraction bits (R190; reset none) -/
  gain : List Nat := []
  /-- active correction tables (R184; reset BLACK_COL 0, SHADE 16384, no defects, L3) -/
  tables : CamTables := {}
  /-- table loads and accepted calibrations waiting for the next band open, each of which adds 1 to CAL_SEQ (R184, R190, R191; reset 0) -/
  calNew : Nat := 0
  /-- tables waiting for the next band open (R184; reset none) -/
  tablesNew : Option CamTables := none
  /-- gain ratios waiting for the next band open (R190; reset none) -/
  gainNew : Option (List (Nat × Nat)) := none
  /-- BLACK_COL and OB_REF waiting for the next band open (R191; reset none) -/
  darkNew : Option (List Nat × Int) := none
  /-- line position of the newest line that the pipeline took (R172, R201; reset 0) -/
  linePos : U64 := 0
  /-- OB_REF (R184; reset 0, L3) -/
  obRef : Int := 0
  /-- CAL_SEQ (32; Table 7.6; reset 0) -/
  calSeq : U32 := 0
  /-- STROBEn held off from a band open to the next (R191; reset no) -/
  strobeOff : Bool := false
  /-- dark calibration in progress (R191; reset none) -/
  dark : Option DarkCal := none
  /-- white calibration (R190; reset none) -/
  white : Option WhiteCal := none
  /-- focus servo (R189; reset off) -/
  focus : Focus := {}
  /-- newest and older statistics records (R193; reset none) -/
  newest : Option CamStats := none
  /-- the older record (R193; reset none) -/
  older : Option CamStats := none
  /-- overrun count of the records (R193, R23; reset 0) -/
  overrun : U32 := 0
  /-- counts of the codes of Table 7.7 (13; cam.status; reset 0, L3) -/
  viol : Vector Nat 13 := Vector.replicate 13 0
  /-- lines waiting in the camera line buffer, oldest first (R182; reset none) -/
  buffer : List CamLine := []
  /-- re-initialising: waits for LP-11 on every lane (R194; reset no) -/
  waitLp11 : Bool := false
  deriving DecidableEq, Repr

/-- A camera I2C transaction (R169). -/
inductive CciOp where
  /-- a write of the queued set, or of the current set after a reset (R194) -/
  | setWrite (p : Port) (current : Bool) (reg width value : Nat)
  /-- a focus position and its dither sign (R189) -/
  | focus (p : Port) (reg width : Nat) (value : Int) (up : Bool)
  | host (p : Port) (reg width value : Nat) (read : Bool)
  deriving DecidableEq, Repr

/-- What a camera I2C host port has done (R169, R194): a write of data bytes to a target's register index, a read of a number of bytes, or a
bus recovery (nine SCL pulses and a STOP, R166). -/
inductive CciAct where
  | write (bus : Bool) (addr index : Nat) (bytes : List U8)
  | read (bus : Bool) (addr index width : Nat)
  | recover (bus : Bool)
  deriving DecidableEq, Repr

/-- A stream or the raw tap (Table 7.5). -/
structure Stream where
  enable   : Bool := false
  port     : Port := 0
  source   : Nat := 0
  tapPoint : Nat := 0
  tapEvery : Nat := 1
  x0       : Nat := 0
  width    : Nat := 0
  y0       : Nat := 0
  height   : Nat := 0
  scaleX   : Nat := 1
  scaleY   : Nat := 1
  format   : Nat := 0
  ringAddr : Nat := 0
  ringSize : Nat := 0
  /-- bytes written since configuration, not yet released (R187; reset 0) -/
  used     : Nat := 0
  /-- ring offset of the next record (R187; reset 0) -/
  at_      : Nat := 0
  /-- STREAM_DROP count (R187; reset 0) -/
  drop     : Nat := 0
  deriving DecidableEq, Repr

/-- The measurement cameras (chapter 7). -/
structure Cams where
  /-- ports CAM0 to CAM3 (Table 7.2; reset stopped) -/
  ports : Vector Cam 4 := Vector.replicate 4 {}
  /-- MODE of cam.schedule: band mode (R181; reset stripe mode, L3) -/
  bandMode : Bool := false
  /-- STRIPE (R181; reset 8) -/
  stripe : Nat := 8
  /-- ROTATION, 4 × 2 bits (R181; reset 0, 1, 2, 3, L3) -/
  rotation : List Port := [0, 1, 2, 3]
  /-- the port served in band mode (R181; reset CAM0) -/
  served : Port := 0
  /-- the place of ROTATION that it is served for (2; R181; reset 0, L3) -/
  place : Fin 4 := 0
  /-- the served port waits for its next frame start (R181; reset no) -/
  serveAtStart : Bool := false
  /-- streams S0 to S2 and the raw tap (Table 7.5; reset disabled) -/
  streams : Vector Stream 4 := Vector.replicate 4 {}
  /-- CCI0 and CCI1 queues: transaction and retries made (R169; reset empty) -/
  cci : Vector (List (CciOp × Nat)) 2 := Vector.replicate 2 []
  /-- what the camera I2C host ports have done, newest first (R169; the model's trace, log entry 10) -/
  cciSent : List CciAct := []
  /-- the port whose lines the pipeline takes in stripe mode (R181; reset CAM0) -/
  turn : Port := 0
  /-- lines taken of that port in its turn (R181; reset 0) -/
  taken : Nat := 0
  /-- LOOP_PARTIAL_MIN (R175; reset 50) -/
  partialMin : Nat := 50
  deriving DecidableEq, Repr

/-- A colour of the loop (Table 8.1) and its state on the measuring node. -/
structure Colour where
  /-- declared by loop.colour (Table 8.1; reset no) -/
  declared : Bool := false
  /-- NODE (Table 8.1; reset 0, L3) -/
  node : Nat := 0
  /-- PLANE (Table 8.1; reset 0, L3) -/
  plane : Plane := 0
  /-- COL_SHIFT (Table 8.1; reset 0) -/
  colShift : Int := 0
  /-- AMP_SENS (Table 8.1; reset 256) -/
  ampSens : Nat := 256
  /-- enabled (loop.enable; reset no) -/
  enabled : Bool := false
  /-- GEN (32; R213; reset 0, L3) -/
  gen : U32 := 0
  /-- c per loop bin (R211; reset 0) -/
  c : IMem := []
  /-- LOOP_TRIM per head (R210; reset 0) -/
  trim : Vector Int 40 := Vector.replicate 40 0
  /-- trim target τ* per head, exact (R210; reset 0) -/
  tau : Vector Rat 40 := Vector.replicate 40 0
  /-- newest span record (R200; reset none) -/
  span : Option SpanRecord := none
  /-- correction history, newest first, at most 128: (GEN, c, LOOP_TRIM) (R213; reset none) -/
  history : List (U32 × IMem × List Int) := []
  /-- held under R212 (reset no) -/
  held : Bool := false
  /-- newest CGEN reported by the owner (loop.status; reset 0) -/
  reported : U32 := 0
  /-- newest loop band: estimates per bin as binary32 words (loop.read; reset none) -/
  estimates : IMem := []
  /-- freeze reasons plus 1 per bin, 0 = observable (loop.read; reset none) -/
  freezes : IMem := []
  /-- standard errors per bin as binary32 words (loop.read; reset none) -/
  sigmas : IMem := []
  deriving DecidableEq, Repr

/-- A bin's accumulator entry (R205, Table 8.7): the upper triangle of its normal matrix, its right-hand side and its cover mask. The sums are
exact, so that they do not depend on the order of the cells; `entryWords` gives the binary32 words (log entry 78). -/
structure BinAcc where
  bin   : Nat
  n     : Vector Rat 36
  y     : Vector Rat 8
  cover : BitVec 4
  deriving DecidableEq, Repr

/-- A line of inspection luminance of a loop port, by its line position, and whether its band is excluded under BAND (R218). -/
structure LumLine where
  port   : Port
  pos    : Nat
  barred : Bool
  values : List Int
  deriving DecidableEq, Repr

/-- A loop band in the solve queue (R209). -/
structure SolveBand where
  band   : U32
  bins   : List BinAcc
  reject : BitVec 4
  held   : BitVec 8
  deriving DecidableEq, Repr

/-- A nozzle-check result (R219). -/
structure CheckResult where
  head   : Head
  nozzle : Nat
  cls    : NozzleClass
  shared : Bool
  share  : Int
  rep    : U32
  job    : U32
  deriving DecidableEq, Repr

/-- A printed repeat as its colours' owner follows it for the proxy and strip records (R198, R199, R218). -/
structure PrintRun where
  job    : JobKey
  rep    : Nat
  start  : Nat
  base   : Nat
  lines  : Nat
  strips : Nat
  blank  : Bool
  /-- the plane as the job printed it, its columns, and whether a head's trim was limited and which GEN was in force -/
  pc      : PlaneCfg
  cols    : Nat
  limited : Bool
  cgen    : U32
  deriving DecidableEq, Repr

/-- The owner's side of a colour (R198 to R200, R214). -/
structure Owner where
  /-- correction records received and not yet applied, newest first: (record, quarter ns of its last byte) (R214; reset none) -/
  rx : List (CorrRecord × Nat) := []
  /-- applied GEN, reported as CGEN (32; R214; reset 0) -/
  gen : U32 := 0
  /-- repeats whose proxy lines are still to send, oldest first (R198, R199; reset none) -/
  runs : List PrintRun := []
  /-- next proxy line of the oldest of them (R198; reset 0) -/
  proxyLine : Nat := 0
  /-- repeats whose strip record is still to send, oldest first (R218; reset none) -/
  strips : List PrintRun := []
  deriving DecidableEq, Repr

/-- The colour loop (chapter 8). -/
structure Loop where
  /-- LOOP_BINS (Table 8.2; reset 23622) -/
  bins : Nat := 23622
  /-- PORT_MASK (Table 8.2; reset 0x1) -/
  portMask : BitVec 4 := 1
  /-- GAIN (Table 8.2; reset 300) -/
  gain : Nat := 300
  /-- SIGMA_MAX (Table 8.2; reset 50) -/
  sigmaMax : Nat := 50
  /-- OBS_RATIO (Table 8.2; reset 25) -/
  obsRatio : Nat := 25
  /-- NOISE_A (Table 8.2; reset 64) -/
  noiseA : Nat := 64
  /-- NOISE_B (Table 8.2; reset 256) -/
  noiseB : Nat := 256
  /-- DEAD_MAX (Table 8.2; reset 2000) -/
  deadMax : Nat := 2000
  /-- PROXY_BASE, PROXY_SIZE (Table 8.2; reset 0, L3) -/
  proxy : Nat × Nat := (0, 0)
  /-- WORK_BASE (Table 8.2; reset 0, L3) -/
  workBase : Nat := 0
  /-- colours 0 to 7 (Table 8.1; reset undeclared) -/
  colours : Vector Colour 8 := Vector.replicate 8 {}
  /-- active colorant model image (R202; reset none) -/
  model : Option (List U8) := none
  /-- shadow colorant model image (R202; reset none) -/
  modelNew : Option (List U8) := none
  /-- proxy records held, oldest first (R201; reset none) -/
  proxies : List ProxyRecord := []
  /-- accumulator: bins with cells in the open loop band, ascending (R205; reset empty) -/
  acc : List BinAcc := []
  /-- solve queue, oldest first, at most two (R209; reset empty) -/
  queue : List SolveBand := []
  /-- the sweep of the loop band that closed last: quarter ns of the close, and how many it takes (R207; reset none) -/
  sweep : Option (Nat × Nat) := none
  /-- loop bands swept, whose parity names the half of the solve queue (R207; the model's, log entry 78; reset 0) -/
  sweeps : Nat := 0
  /-- inspection luminance lines of the ports in PORT_MASK, oldest first (R218; reset none) -/
  lum : List LumLine := []
  /-- ports whose band failed R175 since the loop band opened (R206; reset none) -/
  rejects : BitVec 4 := 0
  /-- speed below D_k/DEAD_MAX since the loop band opened, per colour (R212; reset none) -/
  slow : BitVec 8 := 0
  /-- owning device's side per plane (R214; reset none) -/
  owner : Vector Owner 8 := Vector.replicate 8 {}
  /-- check ring, oldest first (R219; reset empty) -/
  checks : List CheckResult := []
  /-- CHECK_PITCH (R216; reset 16) -/
  checkPitch : Nat := 16
  /-- CHECK_RUN (R216; reset 8) -/
  checkRun : Nat := 8
  /-- CHECK_CODE (R216; reset 0) -/
  checkCode : Nat := 0
  /-- CHECK_MISSING (R218; reset 25) -/
  checkMissing : Nat := 25
  /-- CHECK_WEAK (R218; reset 70) -/
  checkWeak : Nat := 70
  /-- records sent to the measuring node or owners, newest first (the model's trace, log entry 10) -/
  sent : List (U8 × List U8) := []
  deriving DecidableEq, Repr

/-- Counters of a compression engine (cz.status). -/
structure CzEngine where
  bytesIn  : U64 := 0
  bytesOut : U64 := 0
  blocks   : U64 := 0
  fallback : U64 := 0
  outcomes : Vector U64 8 := Vector.replicate 8 0
  stalls   : U64 := 0
  /-- stalled or suspended now (R232, R237) -/
  stalled  : Bool := false
  deriving DecidableEq, Repr

/-- A dictionary slot (R235, R238). -/
structure Dict where
  peer    : U8
  cls     : BitVec 2
  /-- entries 258 and up, as (previous code, byte) in order -/
  entries : List (U16 × U8) := []
  /-- the current string's code, none after a reset or FLUSH -/
  prev    : Option U16 := none
  /-- discards until a message begins with RESET (R239) -/
  desync  : Bool := false
  /-- the next message begins with RESET (R236) -/
  resetNext : Bool := true
  /-- NO_SLOT: send STORED messages (R238) -/
  stored  : Bool := false
  /-- RESETs, desyncs, NO_SLOT and discarded messages (cz.status) -/
  resets  : U64 := 0
  desyncs : U64 := 0
  noSlot  : U64 := 0
  discards : U64 := 0
  /-- the link that carries the stream at this node (R240; reset none) -/
  link    : Option LinkId := none
  deriving DecidableEq, Repr

/-- A message of a dictionary stream that waits for room in the transmit buffer (R237). -/
structure CzHeld where
  peer : U8
  cls  : BitVec 2
  /-- the record or piece -/
  orig : List U8
  /-- SNAP when it is the commit piece of a snapshot (R317) -/
  snap : Option U32
  /-- the message that the compressor has begun, and the bytes of it that it still holds back -/
  begun : Option (List U8 × Nat)
  /-- the link that carries a begun message (R240) -/
  link : Option LinkId := none
  deriving DecidableEq, Repr

/-- A cz.decompress in progress (R231, R232): its command, the block, where its bytes go, and the CLK_DP cycles that it still takes once a
history buffer is its own. -/
structure CzDec where
  key   : RingKey
  seq   : U32
  block : List U8
  dest  : Nat
  left  : Option Nat
  deriving DecidableEq, Repr

/-- A cz.compress in progress (R234): its command, the engine that works for it, and its place. -/
structure CzJob where
  key     : RingKey
  seq     : U32
  engine  : Option (Fin 2)
  src     : Nat
  left    : Nat
  dest    : Nat
  depth   : Nat
  index   : Nat
  written : Nat
  method0 : Nat
  /-- addresses of the blocks written, in order -/
  blocks  : List Nat
  deriving DecidableEq, Repr

/-- Compression (chapter 9). -/
structure Cz where
  /-- decompressors 0 to 7 (Table 9.1; reset 0) -/
  dec : Vector CzEngine 8 := Vector.replicate 8 {}
  /-- compressors 0 and 1 (Table 9.1; reset 0) -/
  enc : Vector CzEngine 2 := Vector.replicate 2 {}
  /-- encoder slots, at most 2 (R238; reset free) -/
  encSlots : List Dict := []
  /-- decoder slots, at most 4 (R238; reset free) -/
  decSlots : List Dict := []
  /-- streams without a decoder slot that a failed STORED message has desynced (R239; reset none) -/
  unslotted : List Dict := []
  /-- streams that found no decoder slot: (peer, CLASS, discards) (R238; reset none) -/
  noSlot : List (U8 × BitVec 2 × Nat) := []
  /-- streams that found no encoder slot: (peer, CLASS, messages sent STORED) (R238; reset none) -/
  noEnc : List (U8 × BitVec 2 × Nat) := []
  /-- cz.compress commands in progress, oldest first (R234; reset none) -/
  jobs : List CzJob := []
  /-- cz.decompress commands in progress, oldest first; those with cycles left hold the two history buffers (R232; reset none) -/
  decs : List CzDec := []
  /-- messages that compressor 0 holds back, oldest first (R237; reset none) -/
  held : List CzHeld := []
  /-- records of class 0 that have reached this node and whose rows have not taken them: sender and bytes (R199, R200, R218, R239; reset
  none) -/
  inbox : List (U8 × List U8) := []
  /-- stream notices sent, newest first: (peer, RESYNC, CLASS) (R238, R239; the model's trace, log entry 10) -/
  notices : List (U8 × Bool × BitVec 2) := []
  deriving DecidableEq, Repr

/-- A CRC snoop unit (Table 9.6, R243). -/
structure CrcUnit where
  enabled  : Bool := false
  attach   : Nat := 0
  lane     : Nat := 0
  base     : Nat := 0
  size     : Nat := 0
  sources  : BitVec 5 := 0
  vcs      : BitVec 4 := 0
  types    : U32 := 0
  width    : Nat := 32
  poly     : U64 := 0
  init     : U64 := 0
  invert   : Bool := false
  reflIn   : Bool := false
  reflOut  : Bool := false
  fold     : Nat := 0
  foldSeq  : U32 := 0
  /-- RAW, the running register (R243; reset 0, L3) -/
  raw      : U64 := 0
  /-- BYTES (R243; reset 0) -/
  bytes    : U64 := 0
  /-- SEGMENTS (R243; reset 0) -/
  segments : U64 := 0
  /-- next sequence number (R242; reset 0) -/
  seq      : U32 := 0
  deriving DecidableEq, Repr

/-- An error record of mem.errors (R248, Table 10.7): kind 0 corrected, 1 uncorrectable, 2 WRITE_DISCARDED. -/
structure MemError where
  addr    : Nat
  channel : Nat
  source  : Nat
  kind    : Nat
  ftime   : U64
  deriving DecidableEq, Repr

/-- Work on the DRAM's frequency points: a training asked for, a frequency change asked for (R254, R255), or the search for the highest point
that trains, at start-up, on waking from DEEP SLEEP, after a trip, and when the running point fails (R251, R264). -/
inductive MemWork where
  | train (points : List (Fin 3)) (save : Bool)
  | freq (point : Fin 3)
  | seek (points : List (Fin 3))
  deriving DecidableEq, Repr

/-- The training record of a frequency point (R250, R252): command bus delays by channel and rank, WCK2CK offsets by die, and of each byte lane the
read DQS delay and the write DQ delay in steps of 1/64 UI, with the eye width that mem.train answers. -/
structure TrainRec where
  command : Vector U8 8
  offsets : Vector U8 16
  read    : Vector U8 8
  write   : Vector U8 8
  widths  : Vector U8 8
  deriving DecidableEq, Repr

/-- A bank: channel, rank and its number in the rank (R246). -/
abbrev BankId := Nat × Nat × Nat

/-- A victim refresh that occupies its bank (R263): the row whose neighbours are refreshed, and the time at which it ends. -/
structure Victim where
  bank   : BankId
  row    : Nat
  until_ : Nat
  deriving DecidableEq, Repr

/-- What a channel has moved: bursts, check lines read and check lines written (R244, R247; the model's trace, log entry 10). -/
structure Traffic where
  bursts     : Nat := 0
  lineReads  : Nat := 0
  lineWrites : Nat := 0
  deriving DecidableEq, Repr

/-- The LPDDR5 memory subsystem (chapter 10). -/
structure Dram where
  /-- bytes by device DRAM address (R246; reset unlisted, reads 0, L4) -/
  data : Mem := []
  /-- poisoned granules (address ÷ 32), ascending (R248; reset none) -/
  poison : List Nat := []
  /-- physical capacity in bytes (R245; reset 0) -/
  physical : Nat := 0
  /-- dies found per channel (R245; reset none) -/
  dies : List DieInfo := []
  /-- DRAM available (R245, R251; reset no) -/
  ok : Bool := false
  /-- frequency point: 0 6400, 1 4267, 2 3200 (R255; reset 0) -/
  point : Fin 3 := 0
  /-- failed points (R251; reset none) -/
  failed : Vector Bool 3 := Vector.replicate 3 false
  /-- training record per point (R250, R252; reset none) -/
  records : Vector (Option TrainRec) 3 := Vector.replicate 3 none
  /-- the training in progress is at the verify of Table 10.3 (R252; reset no) -/
  verify : Bool := false
  /-- each die's DQS oscillator as the last full training found it (Table 10.3; reset 0, L3) -/
  baseline : Vector U16 16 := Vector.replicate 16 0
  /-- the PHY relocks at a new point until this time (R255; reset none) -/
  relock : Option Nat := none
  /-- failed full trainings of the point in training (R251; reset 0) -/
  tries : Nat := 0
  /-- the training or change in progress (R254; reset none) -/
  work : Option MemWork := none
  /-- eye widths found by the training in progress (mem.train; reset none) -/
  widths : List Nat := []
  /-- work deferred until no job runs (R254; reset none) -/
  deferred : List MemWork := []
  /-- the work in progress was deferred, so EV_DRAM_TRAINED reports its end (R254; reset no) -/
  late : Bool := false
  /-- requests held during a sweep or a trip, oldest first (R254, R264; reset none) -/
  waiting : List DramReq := []
  /-- EV_DRAM_TRAINING raised and the 10 ms hold runs (R254; reset no) -/
  holding : Bool := false
  /-- a mem.freq queued behind a sweep (R255; reset none) -/
  queued : Option (Fin 3) := none
  /-- weights of sources 1 to 9 (Table 10.5; reset defaults) -/
  weights : Vector Nat 10 := #v[0, 8, 8, 4, 4, 4, 4, 2, 2, 1]
  /-- THRESHOLD (R262; reset 2048) -/
  threshold : Nat := 2048
  /-- row activation tables: (channel, rank, bank) and its entries (row, count) (R262; reset empty) -/
  rows : List (BankId × List (Nat × Nat)) := []
  /-- victim refreshes in progress, at most one of a bank (R263; reset none) -/
  victims : List Victim := []
  /-- victim refreshes that wait: bank and row, in bank order (R263; reset none) -/
  victimQueue : List (BankId × Nat) := []
  /-- rows that victim refreshes have refreshed (R262; the model's trace, log entry 10; reset none) -/
  victimRows : List (BankId × List Nat) := []
  /-- activations of each channel's ranks since their last RFM command (R263; reset 0) -/
  acts : Vector (Vector Nat 2) 4 := Vector.replicate 4 (Vector.replicate 2 0)
  /-- RFM commands issued per channel and rank (R263; the model's trace, log entry 10; reset 0) -/
  rfms : Vector (Vector Nat 2) 4 := Vector.replicate 4 (Vector.replicate 2 0)
  /-- check lines cached by each channel, at most 64, the last used first: the line's number in the check region, and whether it is to be written
  back (R247; reset none) -/
  lines : Vector (List (Nat × Bool)) 4 := Vector.replicate 4 []
  /-- what each channel has moved (reset 0) -/
  traffic : Vector Traffic 4 := Vector.replicate 4 {}
  /-- refreshes owed per channel and rank, negative when pulled in (R260; reset 0) -/
  owed : Vector (Vector Int 2) 4 := Vector.replicate 4 (Vector.replicate 2 0)
  /-- refreshes issued per channel and rank (R260; the model's trace, log entry 10; reset 0) -/
  refreshed : Vector (Vector Nat 2) 4 := Vector.replicate 4 (Vector.replicate 2 0)
  /-- MR4 multiplier of each die by channel: 1, 2 or 4 (R244, R260; reset 1, L3) -/
  mult : Vector (Vector Nat 4) 4 := Vector.replicate 4 (Vector.replicate 4 1)
  /-- tREFI in force per channel and rank, in ns (R260, Table 10.6; reset 3904) -/
  interval : Vector (Vector Nat 2) 4 := Vector.replicate 4 (Vector.replicate 2 3904)
  /-- the time until which a forced catch-up occupies a rank (R260; reset 0) -/
  catchUp : Vector (Vector Nat 2) 4 := Vector.replicate 4 (Vector.replicate 2 0)
  /-- SCRUB_HOURS (R249; reset 24) -/
  scrubHours : Nat := 24
  /-- ON of mem.scrub (Table 10.7; reset on, L3) -/
  scrubOn : Bool := true
  /-- next granule the scrubber reads (R249; reset 0) -/
  scrubAt : Nat := 0
  /-- error records, oldest first (R248; reset none) -/
  errors : List MemError := []
  /-- corrected errors since the last EV_DRAM_CORRECTED and the last address (R248; reset 0) -/
  corrected : Nat × Nat := (0, 0)
  /-- write DQ delay moved from its trained value, per byte lane (R253; reset 0) -/
  drift : Vector Int 8 := Vector.replicate 8 0
  /-- every rank in self-refresh (R255, R264, R371; reset no) -/
  selfRefresh : Bool := false
  deriving DecidableEq, Repr

/-- States of a lane (lane.status). -/
inductive LaneState where
  | up
  | training
  | backoff
  | idle
  | disabled
  | test
  deriving DecidableEq, Repr

/-- Training phases (Table 11.3). -/
inductive Phase where
  | t1
  | t2
  | t3
  deriving DecidableEq, Repr

/-- The settings of lane.config that are in force from an attempt on (Tables 11.5, 11.6). -/
structure LaneAnalog where
  /-- TX_PRESET in force (Table 11.5; reset 2) -/
  preset : Nat := 2
  /-- TX_SWING in force (Table 11.5; reset 2) -/
  swing  : Nat := 2
  /-- TX_INVERT in force (Table 11.5; reset 0) -/
  txInv  : Bool := false
  /-- RX_INVERT in force (Table 11.5; reset 0) -/
  rxInv  : Bool := false
  deriving DecidableEq, Repr

/-- A lane (chapter 11). -/
structure Lane where
  /-- state (Table 11.6; reset disabled until its start-up step, R389) -/
  state : LaneState := .disabled
  /-- ENABLE of lane.config (Table 11.5; reset 1) -/
  enable : Bool := true
  /-- TX_PRESET (Table 11.5; reset 2) -/
  preset : Nat := 2
  /-- TX_SWING (Table 11.5; reset 2) -/
  swing : Nat := 2
  /-- TX_INVERT (Table 11.5; reset 0) -/
  txInv : Bool := false
  /-- RX_INVERT (Table 11.5; reset 0) -/
  rxInv : Bool := false
  /-- IDLE_TIME in µs (Table 11.5; reset 0) -/
  idleTime : Nat := 0
  /-- the settings in force since the last attempt's start (Table 11.6; reset defaults) -/
  inForce : LaneAnalog := {}
  /-- an attempt runs in this phase (R275; reset none) -/
  phase : Option Phase := none
  /-- attempts since the count restarted (R277; reset 0) -/
  attempts : Nat := 0
  /-- EV_LANE_DOWN raised since the lane was last up (R277; reset no) -/
  raised : Bool := false
  /-- reason code of the last failure (R277; reset none) -/
  reason : Option Nat := none
  /-- CDR locked in this attempt (Table 11.3; reset no) -/
  locked : Bool := false
  /-- equaliser settings stored (Table 11.3; reset none) -/
  equaliser : Option U32 := none
  /-- a valid training word was received in this attempt (R276; reset no) -/
  gotWord : Bool := false
  /-- consecutive valid training words with READY 1 (R276; reset 0) -/
  gotReady : Nat := 0
  /-- SEED last received (R267; reset 0) -/
  seed : BitVec 23 := 0
  /-- SEED that this end sends and seeds its scrambler with (23; R267; reset 0, L3) -/
  txSeed : BitVec 23 := 0
  /-- training words with READY 1 sent in this attempt (R276; reset 0) -/
  txReady : Nat := 0
  /-- training words sent, newest first (R276; the model's trace, log entry 10) -/
  txWords : List TrainWord := []
  /-- equaliser adaptation frozen (R271; reset no) -/
  frozen : Bool := false
  /-- transmitter in electrical idle (R272; reset no) -/
  txIdle : Bool := false
  /-- receiver in electrical idle (R272; reset no) -/
  rxIdle : Bool := false
  /-- wake bursts sent (R273; the model's trace, log entry 10) -/
  bursts : Nat := 0
  /-- peppercorn test: (loopback, TEST_MS, asked for by lane.prbs) (R280; reset none) -/
  test : Option (Bool × Nat × Bool) := none
  /-- own transmit direction up in this attempt (R276; reset no) -/
  txUp : Bool := false
  /-- own receive direction up in this attempt (R276; reset no) -/
  rxUp : Bool := false
  /-- idle-fill cells sent before the transmit direction came up (R276; the model's trace, log entry 10) -/
  fill : Nat := 0
  /-- quarter ns of the code errors of the last 100 µs (R270; reset none) -/
  codeTimes : List Nat := []
  /-- lane.prbs deferred (R281; reset none) -/
  deferred : Option (Bool × Nat) := none
  deriving DecidableEq, Repr

/-- Link frames sent (Table 12.2). -/
inductive LinkTx where
  | ack (seq : U16)
  | nak (seq : U16)
  | credit (granted : List U32)
  | creditInit (config : List Nat)
  | hello (m : Hello)
  | timeReq (t1 : Nat)
  | timeResp (t1 t2 t3 : Nat)
  | audit (mark nextSeq : U16) (cSent : List U32)
  | auditReply (mark : U16) (granted : List U32)
  deriving DecidableEq, Repr

/-- A frame that a fabric port sends (R283, Table 12.2). -/
inductive PortFrame where
  | data (f : DataFrame)
  | link (t : LinkTx) (crc : U32)
  deriving DecidableEq, Repr

/-- The transmitter of one lane of a fabric port (R269, R282). Times are in units of 1/128 ns, in which every fabric lane rate's UI is whole.
-/
structure LaneTx where
  /-- the frame in transmission, preempted or not, and the time that its rest takes (reset none) -/
  sending : Option (PortFrame × Nat) := none
  /-- the time that all of that frame takes, and the part of it to the end of its start delimiter (R269; reset 0) -/
  whole : Nat := 0
  lead : Nat := 0
  /-- the frame that preempts it, and the time that its rest takes (R293; reset none) -/
  urgent : Option (PortFrame × Nat) := none
  deriving DecidableEq, Repr

/-- The transmitter of a fabric port (R293). Data frames that wait for the first time are in `FPort.waiting`. -/
structure PortTx where
  /-- its two lanes (R282; reset idle) -/
  lanes : Vector LaneTx 2 := Vector.replicate 2 {}
  /-- TIME_REQ and TIME_RESP frames that wait, oldest first (R293; reset none) -/
  times : List LinkTx := []
  /-- other link frames that wait, oldest first (R293; reset none) -/
  links : List LinkTx := []
  /-- data frames to be sent again, in port sequence (R298; reset none) -/
  again : List DataFrame := []
  /-- bytes of MEASURE sent less three times the bytes of BULK, while both have frames to send (R293; reset 0) -/
  robin : Int := 0
  /-- time up to which these fields stand (reset 0) -/
  since : Nat := 0
  /-- frames begun, the number of the next frame's free stuffing: the model's own field, no rule of the spec (log entry 9; reset 0,
  DESIGN CHOICE) -/
  begun : Nat := 0
  deriving DecidableEq, Repr

/-- A fabric port (chapter 12). -/
structure FPort where
  /-- ENABLE (Table 12.9; reset 1, L3) -/
  enable : Bool := true
  /-- RATE (Table 12.9; reset 6, L3) -/
  rate : Nat := 6
  /-- DELAY_ASYM in ps (R299; reset 0) -/
  asym : Int := 0
  /-- CONFIG per VC in force (R294; reset 64, 128, 320, 512) -/
  config : Vector Nat 4 := #v[64, 128, 320, 512]
  /-- configuration waiting for the port's next training (Table 12.9; reset none) -/
  pendingCfg : Option (Bool × Nat × Int × List Nat) := none
  /-- neighbour UID of HELLO (R284; reset none) -/
  nbrUid : Option U64 := none
  /-- newest HELLO of the neighbour (R286; reset none) -/
  hello : Option Hello := none
  /-- SEQ of the next data frame (R283; reset 0) -/
  txSeq : U16 := 0
  /-- SEQ expected next (R298; reset 0) -/
  rxSeq : U16 := 0
  /-- a NAK was sent and its frame has not come (R298; reset no) -/
  naking : Bool := false
  /-- an ACK is owed (R298; reset no) -/
  ackDue : Bool := false
  /-- replay buffer, oldest first (R298; reset empty) -/
  replay : List DataFrame := []
  /-- replays within the present 100 µs (R298; reset 0) -/
  replays : Nat := 0
  /-- frames that wait for their turn, their credits or room in the replay buffer, oldest first, each with the port in whose buffer it still lies, none for the node's own (R294; reset none)
  -/
  waiting : List (DataFrame × Option Port) := []
  /-- CONFIG that the neighbour announced (R294; reset 0) -/
  peerConfig : Vector Nat 4 := Vector.replicate 4 0
  /-- credits held as sender (R294; reset 0) -/
  held : Vector Nat 4 := Vector.replicate 4 0
  /-- c_sent per VC (R295; reset 0) -/
  cSent : Vector U32 4 := Vector.replicate 4 0
  /-- g_rcvd per VC (R295; reset 0) -/
  gRcvd : Vector U32 4 := Vector.replicate 4 0
  /-- c_rcvd per VC (R295; reset 0) -/
  cRcvd : Vector U32 4 := Vector.replicate 4 0
  /-- g_sent per VC (R295; reset 0) -/
  gSent : Vector U32 4 := Vector.replicate 4 0
  /-- buffer_used per VC (R295; reset 0) -/
  used : Vector Nat 4 := Vector.replicate 4 0
  /-- grants pending (R294; reset no) -/
  grantDue : Bool := false
  /-- MARK of the last AUDIT (R295; reset 0) -/
  mark : U16 := 0
  /-- an AUDIT awaits its reply, with the resends made (R295; reset none) -/
  audit : Option Nat := none
  /-- an AUDIT received before every SEQ below NEXT_SEQ (R295; reset none) -/
  auditRx : Option (U16 × U16 × List U32) := none
  /-- EV_FABRIC_DEGRADED was raised since the port last ran on both lanes (R282; reset no) -/
  degraded : Bool := false
  /-- re-initialisations within 10 s (Table 12.7 0x3D; reset 0) -/
  reinits : Nat := 0
  /-- delays of the previous exchanges in ps, newest first, at most 16 (R299; reset none) -/
  delays : List Int := []
  /-- last delay in ps (fabric.status; reset 0) -/
  delay : Int := 0
  /-- last offset in ps (fabric.status; reset 0) -/
  offset : Int := 0
  /-- frames replayed (fabric.status; reset 0) -/
  replayCount : Nat := 0
  /-- gaps (fabric.status; reset 0) -/
  gapCount : Nat := 0
  /-- the transmitter (R293; reset idle) -/
  out : PortTx := {}
  /-- frames that the transmitter began, newest first (R293; the model's trace, log entry 10) -/
  sent : List PortFrame := []
  deriving DecidableEq, Repr

/-- A root candidate (R286). -/
structure RootCand where
  fixed : Nat
  uid   : U64
  hops  : Nat
  port  : Option Port
  deriving DecidableEq, Repr

/-- Frames of one source, VC and destination kind (R296). -/
structure SrcFlow where
  src   : U8
  vc    : Vc
  dest  : DestKind
  next  : U32
  /-- frames ahead of a gap, each with the port in whose buffer it lies, none once that port has gone down -/
  held  : List (Option Port × DataFrame)
  deriving DecidableEq, Repr

/-- A node that the root knows (R287). -/
structure Member where
  join : Join
  port : Option Port
  node : Nat
  deriving DecidableEq, Repr

/-- A role holder (R351). -/
structure Holder where
  node  : U8
  epoch : U32
  deriving DecidableEq, Repr

/-- The Oxlyn fabric (chapter 12). -/
structure Fabric where
  /-- node ID, 0 before assignment (8; R287; reset 0) -/
  node : U8 := 0
  /-- REQ_ID, the ID last held (8; R287; reset 0) -/
  reqId : U8 := 0
  /-- fixed node number in force for this discovery, 0 none (R288; reset 0) -/
  fixed : Nat := 0
  /-- DISC_GEN (16; R286; reset 0, L3) -/
  discGen : U16 := 0
  /-- EV_FABRIC_READY reached on this node (R285; reset no) -/
  ready : Bool := false
  /-- this node is root (R286; reset no) -/
  root : Bool := false
  /-- root candidate (R286; reset none) -/
  cand : Option RootCand := none
  /-- parent port (R286; reset none) -/
  parent : Option Port := none
  /-- ports P0 to P3 (R282; reset down) -/
  ports : Vector FPort 4 := Vector.replicate 4 {}
  /-- route table, 256 entries (R290; reset 0, L3) -/
  routes : Vector U16 256 := Vector.replicate 256 0
  /-- ports on which JOINs arrived: (UID, port) (R287; reset none) -/
  joinPorts : List (U64 × Port) := []
  /-- nodes known to the root (R287; reset none) -/
  members : List Member := []
  /-- SRC_SEQ of the next frame by (VC, destination) (Table 12.1; reset 0) -/
  sendSeq : List ((Vc × U8) × U32) := []
  /-- delivery in SRC_SEQ order (R296; reset none) -/
  flows : List SrcFlow := []
  /-- frames counted LATE (R296; reset 0) -/
  late : Nat := 0
  /-- gaps declared lost (R296; reset 0) -/
  gaps : Nat := 0
  /-- correction records in reassembly: (source, next fragment, FRAGS, bytes) (R305; reset none) -/
  frags : List (U8 × Nat × Nat × List U8) := []
  /-- locked to the parent (R300; reset no) -/
  locked : Bool := false
  /-- consecutive exchanges with |offset| below 5 ns (R300; reset 0) -/
  goodTimes : Nat := 0
  /-- the fabric time no longer steps: the first exchange has stepped it, or the fabric has been ready (R300; reset no) -/
  stepped : Bool := false
  /-- offset still to slew away, quarter ns (R300; reset 0) -/
  slew : Int := 0
  /-- the quarter ns from which fabric time may slew again (R300; reset 0) -/
  slewAt : Nat := 0
  /-- fabric time until which the lock state holds, quarter ns (R300; reset 0) -/
  lockHold : Nat := 0
  /-- holders of position master, deputy and measuring node (R351; reset none) -/
  holders : Vector (Option Holder) 3 := Vector.replicate 3 none
  /-- UID and epoch of the last position master announced, kept when its holder is removed (R108; reset none) -/
  lastMaster : Option (U64 × U32) := none
  /-- nodes that have announced their roles since the last ASSIGN: the active devices (R54, R351, log entry 16; reset none) -/
  announced : List U8 := []
  /-- nodes that announce HOST_EVENTS (R351; reset none) -/
  hostNodes : List U8 := []
  /-- peer node and its announced roles, from its role assignment (R351; reset none) -/
  peerNode : Option U8 := none
  /-- pings awaiting replies: (node, quarter ns) (fabric.ping; reset none) -/
  pings : List (U8 × Nat) := []
  deriving DecidableEq, Repr

/-- A pair record (R308). -/
structure PairRec where
  peer      : U64
  preferred : Bool
  deriving DecidableEq, Repr

/-- A snapshot (R313 to R315): its number, whether full, sections by number as bytes, the boundary. -/
structure Snap where
  number   : U32
  full     : Bool
  base     : U32
  sections : List (Nat × List U8)
  wpos     : U64
  rep      : Nat
  deriving DecidableEq, Repr

/-- Steps of a promotion (R327). -/
inductive Promo where
  | record
  | fence
  | selfTest
  | load
  | resume
  deriving DecidableEq, Repr

/-- Redundant pairs (chapter 13). -/
structure Red where
  /-- the pair record in force (R307; reset none) -/
  pair : Option PairRec := none
  /-- ROLE (Table 13.1; reset ACTIVE, R307) -/
  role : Role := .active
  /-- role decided under R310 (reset no) -/
  roleSet : Bool := false
  /-- epoch (32; R399; reset 0, L3) -/
  epoch : U32 := 0
  /-- WL and HBI paths live (R323; reset no) -/
  wlLive : Bool := false
  /-- HBI not silent (R323; reset no) -/
  hbiLive : Bool := false
  /-- EV_HEARTBEAT_PATH was raised for WL and WL has not recovered (R323; reset no) -/
  wlRaised : Bool := false
  /-- EV_HEARTBEAT_PATH was raised for HBI and HBI has not recovered (R323; reset no) -/
  hbiRaised : Bool := false
  /-- newest HEARTBEAT (R322; reset none) -/
  peer : Option Heartbeat := none
  /-- quarter ns of the control cores' last report to the always-on watcher (R322; reset 0) -/
  coresAt : Nat := 0
  /-- quarter ns of the line-fire timer's last report to the always-on watcher (R322; reset 0) -/
  timerAt : Nat := 0
  /-- a HEARTBEAT has passed R319 since reset (Table 18.27; reset no) -/
  seen : Bool := false
  /-- standby available (R326, R333; reset no) -/
  standbyOk : Bool := false
  /-- STALE (R317; reset no) -/
  stale : Bool := false
  /-- EV_PEER_PATHS_LOST raised and no path has recovered (R325; reset no) -/
  lostRaised : Bool := false
  /-- a witness query is out: heads asked (R324; reset none) -/
  asked : Option (BitVec 40) := none
  /-- highest OTHER_EPOCH or HIGHEST_EPOCH received (R327; reset 0) -/
  highest : U32 := 0
  /-- SNAP of the last snapshot taken (R315; reset 0, L3) -/
  snap : U32 := 0
  /-- SNAP of the last full snapshot (R315; reset 0) -/
  fullSnap : U32 := 0
  /-- WPOS and quarter ns of the last snapshot (R314; reset none) -/
  lastSnap : Option (U64 × Nat) := none
  /-- quarter ns of the last full snapshot (R314; reset none) -/
  lastFull : Option Nat := none
  /-- the next snapshot is full (R314, R315; reset yes) -/
  fullDue : Bool := true
  /-- sections changed since the last snapshot: CONFIG, COMB, SUB (Table 13.2; reset all) -/
  dirty : BitVec 3 := 0b111
  /-- section 2 of the last snapshot, with which the next one's is compared (Table 13.2; reset none) -/
  config : List U8 := []
  /-- snapshots whose commit frame is not yet acknowledged: (SNAP, its SEQ) (R317; reset none) -/
  snapMarks : List (U32 × U16) := []
  /-- newest snapshot that the standby acknowledged (R317; reset none) -/
  acked : Option U32 := none
  /-- quarter ns of the newest committed (standby) or acknowledged (active) snapshot (Table 18.29; reset none) -/
  ackedAt : Option Nat := none
  /-- building area: pieces of the snapshot being built (R315; reset none) -/
  building : List StatePiece := []
  /-- committed image (R315; reset none) -/
  committed : Option Snap := none
  /-- written ranges not yet acknowledged, oldest first, at most 4096: (address, bytes) (R316; reset none) -/
  mirrorRing : List (Nat × Nat) := []
  /-- of the ranges wholly sent, the sequence number of each one's last frame, oldest first (R316; reset none) -/
  mirrorMarks : List Nat := []
  /-- bytes already sent of the first range not wholly sent (R316; reset 0) -/
  mirrorAt : Nat := 0
  /-- VALID_THROUGH notes: (ring entries ahead, JOB_ID, VALID_THROUGH) (R316; reset none) -/
  mirrorNotes : List (Nat × JobKey × Nat) := []
  /-- MIRRORED_THROUGH of the jobs noted: (JOB_ID, repeats) (R316; reset none) -/
  mirrored : List (JobKey × Nat) := []
  /-- saved state and mirror travel over the fabric (R317; reset no) -/
  viaFabric : Bool := false
  /-- SRC_SEQ of the last job data write written (R318; reset none) -/
  mirrorSeq : Option U32 := none
  /-- written job data is unacknowledged (R318; reset no) -/
  mirrorAckDue : Bool := false
  /-- SEQ of the next sequenced waggle frame (R319; reset 0) -/
  txSeq : U16 := 0
  /-- SEQ expected next on WL (R320; reset 0) -/
  rxSeq : U16 := 0
  /-- a NAK was sent on WL (R320; reset no) -/
  naking : Bool := false
  /-- an ACK is owed on WL (R320; reset no) -/
  ackDue : Bool := false
  /-- waggle replay buffer: KIND and frame, oldest first (R320; reset empty) -/
  replay : List (Nat × WaggleFrame) := []
  /-- sequenced frames that wait because 64 KiB are unacknowledged, oldest first: (KIND, payload) (R320; reset none) -/
  waiting : List (Nat × List U8) := []
  /-- replays within 100 µs (R320; reset 0) -/
  replays : Nat := 0
  /-- waggle frames sent, newest first: KIND and frame (R319; the model's trace, log entry 10) -/
  tx : List (Nat × WaggleFrame) := []
  /-- promotion in progress (R327; reset none) -/
  promo : Option Promo := none
  /-- the promotion is a drill (R337; reset no) -/
  drillPromo : Bool := false
  /-- the snapshot behind whose messages HANDOVER waits (R337; reset none) -/
  handover : Option U32 := none
  /-- red.drill: waiting for no job, or handover sent (R337; reset none) -/
  drill : Option Bool := none
  /-- reconciliation record of R335: per head the lines re-screened, the uncertain rows and the first line never fired; none before
  EV_RECONCILED (reset none) -/
  reconciled : Option (List (Nat × Nat × Nat)) := none
  /-- a reconciliation is pending (R335; reset no) -/
  reconciling : Bool := false
  /-- heads that wait for their resume repeat after a promotion, with the position that its F(0, 0) must reach (R329; reset none) -/
  resume : List (Head × Nat) := []
  /-- heads that have their resume repeat, each with its resume line and its resume WPOS (R327, R329, R335; reset none) -/
  resumeLines : List (Head × Nat × Nat) := []
  /-- high-water WPOS at the end of the promotion's relock (R329; reset 0) -/
  lockHw : U64 := 0
  /-- first REPORT of each head after the epoch raise (R335; reset none) -/
  firstReports : Vector (Option StatusCell) 40 := Vector.replicate 40 none
  /-- failure WPOS estimate (R327; reset 0) -/
  failWpos : U64 := 0
  deriving DecidableEq, Repr

/-- Power states (Table 15.3), numbered as TARGET of pwr.state. -/
inductive PState where
  | run
  | sleep
  | deep
  | off
  deriving DecidableEq, Repr

/-- Conditions of a domain (Table 15.4), numbered as Table 18.19. -/
inductive Cond where
  | on
  | gated
  | ret
  | off
  deriving DecidableEq, Repr

/-- Clocks and power states (chapter 15). -/
structure Pwr where
  /-- power state (Table 15.3; reset RUN) -/
  state : PState := .run
  /-- IDLE: CLK_CTL gated (R365; reset no) -/
  idle : Bool := false
  /-- ENABLE of pwr.idle (R365; reset 1, L3) -/
  idleOn : Bool := true
  /-- conditions of domains 0 to 8 (Table 18.19; reset 0 ON) -/
  cond : Vector Cond 9 := Vector.replicate 9 .on
  /-- PHASE: 0 none, 1, 2; 3 while the checkpoint of R366 is written (Table 18.18; reset 0) -/
  phase : Nat := 0
  /-- TARGET of the entry in progress (R366; reset RUN) -/
  target : PState := .run
  /-- RETAIN (4; Table 15.7; reset 0) -/
  retain : BitVec 4 := 0
  /-- domains still to quiesce, in stop order (R367; reset none) -/
  todo : List Nat := []
  /-- quiesced domains, last first (R367; reset none) -/
  quiesced : List Nat := []
  /-- the request came through the management transport (R370; reset no) -/
  viaMgmt : Bool := false
  /-- the request is a role change's own, without response (R363; reset no) -/
  own : Bool := false
  /-- REFUSED_DOMAIN (4; Table 18.18; reset 0xF) -/
  refused : BitVec 4 := 0xF
  /-- LAST_WAKE (4; Table 18.18; reset 0) -/
  lastWake : BitVec 4 := 0
  /-- fabric time, quarter ns, at which the wake that PWR_WAKE has started reaches RUN; while there is one, WAKE reads 1 (Table 18.20; reset none) -/
  wakeAt : Option Nat := none
  /-- fabric time, quarter ns, at which phase 2 ends (R370, Table 18.18; reset none) -/
  phaseAt : Option Nat := none
  /-- held pad banks 0 to 4 (5; Table 18.21; reset 0) -/
  held : BitVec 5 := 0
  /-- levels of bank 0 at its latch: SPEED_LIMIT, FAULT_N low, CAMSW (Table 15.6; reset released, high-impedance, L3) -/
  latched : Bool × Bool × Option Bool := (false, false, none)
  /-- IDLE entries (R365; reset 0) -/
  idles : U64 := 0
  /-- fabric time, quarter ns, at which the domain whose turn it is began to quiesce (R367; reset 0) -/
  drainAt : Nat := 0
  /-- quiesce time of each domain at the last entry, quarter ns (Table 15.9; reset 0) -/
  took : Vector Nat 9 := Vector.replicate 9 0
  /-- fabric time, quarter ns, of the last IDLE entry (R365; reset 0) -/
  idleAt : Nat := 0
  /-- time spent in IDLE, quarter ns (Table 15.9; reset 0) -/
  residency : Nat := 0
  deriving DecidableEq, Repr

/-- The thermal guard (chapter 16). Temperatures in 1/16 °C. -/
structure Therm where
  /-- latest readings (16 each; R377; reset 0) -/
  reading : Vector Int 12 := Vector.replicate 12 0
  /-- site temperatures (R379; reset 0) -/
  site : Vector Int 12 := Vector.replicate 12 0
  /-- failed sensors (R378; reset none) -/
  failed : Vector Bool 12 := Vector.replicate 12 false
  /-- consecutive conversions out of range per sensor (R378; reset 0) -/
  outOfRange : Vector Nat 12 := Vector.replicate 12 0
  /-- fused offsets OFF(s, n) in 1/16 °C for the pairs of Table 16.1 (R377; reset 0, L5) -/
  offsets : Vector (Vector Int 12) 12 := Vector.replicate 12 (Vector.replicate 12 0)
  /-- L1_HI (R381; reset 105 °C) -/
  l1Hi : Int := 1680
  /-- L1_LO (R381; reset 100 °C) -/
  l1Lo : Int := 1600
  /-- L2_HI (R381; reset 115 °C) -/
  l2Hi : Int := 1840
  /-- L2_LO (R381; reset 110 °C) -/
  l2Lo : Int := 1760
  /-- SLOW_PCT (R381; reset 80) -/
  slowPct : Nat := 80
  /-- DIE_EST (16; R379; reset 0) -/
  die : Int := 0
  /-- HOTTEST (4; Table 18.22; reset 0) -/
  hottest : Sensor := 0
  /-- throttle level (R382; reset 0) -/
  level : Nat := 0
  /-- consecutive conversions at or above L1_HI, L2_HI and 125 °C (R382, R385; reset 0) -/
  above : Nat × Nat × Nat := (0, 0, 0)
  /-- the estimate has stayed below the level's LO since the last conversion above it (R382; reset no) -/
  falling : Bool := false
  /-- a trip holds (R385; reset no) -/
  trip : Bool := false
  /-- the trip condition is met and the trip has not yet been taken (R385; reset no) -/
  tripDue : Bool := false
  /-- TRIP_CAUSE SENSORS (Table 18.22; reset TEMPERATURE) -/
  sensors : Bool := false
  /-- every healthy reading below 100 °C since the last one at or above it (R387; reset no) -/
  restarting : Bool := false
  /-- fabric time at which the restart condition began to hold, quarter ns (thm.status; reset 0) -/
  since : Nat := 0
  deriving DecidableEq, Repr

/-- Presence and the propolis seal (R354). -/
structure Prs where
  /-- WINDOW (1; R354; reset closed) -/
  window : Bool := false
  /-- quarter ns at which the window last opened or restarted, from which SECONDS counts down (Table 18.25; reset 0) -/
  openAt : Nat := 0
  /-- LOOP_OPEN (1; R354; reset closed, L3) -/
  loopOpen : Bool := false
  /-- consecutive failed and passing tests (R354; reset 0) -/
  tests : Nat × Nat := (0, 0)
  /-- seal-broken latch (1; Table 17.6 key 6; reset from journal, L5 clear) -/
  latch : Bool := false
  /-- PRESENCE_N has been held low since reset: PRESSED then follows the pin (1; Table 18.25; reset 0) -/
  pressed : Bool := false
  deriving DecidableEq, Repr

/-- A firmware image (Table 17.2): its header and image bytes. -/
structure FwImage where
  magic    : U32
  imageSeq : U32
  version  : U32
  svn      : Nat
  length   : Nat
  stepping : U8
  bytes    : List U8
  deriving DecidableEq, Repr

/-- A journal record (Table 17.5). -/
structure JRec where
  key       : Nat
  index     : Nat
  body      : List U8
  rseq      : U32
  committed : Bool
  deriving DecidableEq, Repr

/-- A journal slot (chapter 17). -/
structure JSlot where
  seq     : U32
  valid   : Bool
  records : List JRec
  used    : Nat
  deriving DecidableEq, Repr

/-- A checkpoint (R401). -/
structure Checkpoint where
  /-- the totals as FKZ blocks (R401) -/
  drops : List (List U8)
  rows  : List Nat
  job   : U32
  line  : Nat
  epoch : U32
  ftime : U64
  deriving DecidableEq, Repr

/-- What the flash still programs (R395, R400, R401). -/
inductive FlashWork where
  | journal (r : JRec) (reply : Bool)
  | firmware (img : FwImage)
  | checkpoint (c : Checkpoint)
  | epoch (e : U32) (r : Role)
  deriving DecidableEq, Repr

/-- Stages of Table 18.5. -/
inductive Stage where
  | rom
  | starting
  | ready
  | failed
  deriving DecidableEq, Repr

/-- Start-up and the non-volatile store (chapter 17). -/
structure Nv where
  /-- STAGE (3; Table 18.5; reset 0) -/
  stage : Stage := .rom
  /-- SLOT booted (1; Table 18.5; reset 0) -/
  slot : Bool := false
  /-- VERSION of the running image (32; Table 18.6; reset 0) -/
  version : U32 := 0
  /-- SVN of the running image (R393; reset 0) -/
  svn : Nat := 0
  /-- firmware slots A and B (Table 17.4; reset a factory image in A, L5) -/
  fw : Vector (Option FwImage) 2 := #v[some ⟨0x32464B46, 1, 1, 0, 1, 0xB0, [0]⟩, none]
  /-- failed starts of the first slot, kept in D_AON (R391; reset 0) -/
  failedStarts : Nat := 0
  /-- slots that the boot ROM has refused since reset (R391, R392; reset 0) -/
  refused : Nat := 0
  /-- consecutive boots of one image that reached EV_BOOTED: the image and the count (R393; reset 0) -/
  goodBoots : Option FwImage × Nat := (none, 0)
  /-- journal slots 0 and 1 (R396; reset slot 0 valid and empty, L5) -/
  journal : Vector (Option JSlot) 2 := #v[some ⟨1, true, [], 64⟩, none]
  /-- the current slot (R395; reset 0) -/
  cur : Fin 2 := 0
  /-- a compaction runs (R396; reset no) -/
  compacting : Bool := false
  /-- RSEQ of the next record (32; Table 17.5; reset 1, L3) -/
  rseq : U32 := 1
  /-- torn records found at boot (R397; reset 0) -/
  torn : Nat := 0
  /-- epoch records in the current half, newest first: (EPOCH, ROLE, committed) (R399; reset none) -/
  epochs : List (U32 × Role × Bool) := []
  /-- checkpoint slots 0 and 1: (checkpoint, committed, SEQ) (R401; reset none) -/
  checkpoints : Vector (Option (Checkpoint × Bool)) 2 := Vector.replicate 2 none
  /-- slot of the newest committed checkpoint (R401; reset none) -/
  newest : Option (Fin 2) := none
  /-- checkpoint captured and being written (R401; reset none) -/
  writing : Option Checkpoint := none
  /-- a checkpoint is due at the next repeat boundary (R401; reset no) -/
  due : Bool := false
  /-- programs in progress, oldest first (R395; reset none) -/
  programs : List FlashWork := []
  /-- background erases outstanding: 0, 1 journal slots; 2, 3 checkpoint slots; 4 epoch half; 100 + n, sector n (R396, R397, R401; reset none) -/
  erases : List Nat := []
  /-- erases of sys.nv_erase outstanding: the slot as above, and whether it is the command's last (R398; reset none) -/
  cmdErases : List (Nat × Bool) := []
  /-- BOOT_COUNT (32; Table 17.6; reset 0, L5) -/
  bootCount : U32 := 0
  /-- CHECKPOINT_S (R401; reset 1800) -/
  interval : Nat := 1800
  /-- DRAM_CAP, expected capacity in MiB, 0 none (Table 17.6; reset 0) -/
  dramCap : Nat := 0
  /-- the preceding stop was an orderly entry to OFF or DEEP SLEEP (R402; reset yes, L5) -/
  orderly : Bool := true
  /-- fabric time of the preceding stop (R402; reset 0) -/
  stopAt : U64 := 0
  /-- 64 KiB sectors of the flash that have been erased since reset, by number (R397; reset none) -/
  cleaned : List Nat := []
  /-- the last gap report: ns and the checkpointed FIRED_ROWS per head (R402; reset none) -/
  gap : Option (Nat × List Nat) := none
  deriving DecidableEq, Repr

/-- Stolzar mode (R358, R359). -/
structure Sz where
  /-- SLOT_HEAD[0..15] (Table 14.14; reset identity) -/
  slotHead : Vector Nat 16 := Vector.ofFn (fun k => k.val)
  /-- SZ6 window accesses (Table 14.14; reset 0, L3) -/
  accesses : U64 := 0
  /-- ignored writes (Table 14.13; reset 0, L3) -/
  ignored : U64 := 0
  /-- words written in the SZ6 register window: (offset, value) (R358; reset none) -/
  regs : List (Nat × U32) := []
  deriving DecidableEq, Repr

/-- The device: every block of the FKB2 and the adapters on its head lanes. -/
structure Device where
  chip   : Chip := {}
  mbx    : Mbx := {}
  vlog   : Vlog := {}
  acct   : Acct := {}
  jobs   : Jobs := {}
  feed   : Feed := {}
  banks  : Banks := {}
  engines : Vector Engine 40 := Vector.replicate 40 {}
  pos    : Pos := {}
  sheet  : Sheet := {}
  fire   : Fire := {}
  links  : Vector HeadLink 40 := Vector.replicate 40 {}
  adapters : Vector Adapter 40 := Vector.replicate 40 {}
  drive  : Drive := {}
  cams   : Cams := {}
  loop   : Loop := {}
  cz     : Cz := {}
  crcs   : Vector CrcUnit 8 := Vector.replicate 8 {}
  dram   : Dram := {}
  lanes  : Vector Lane 49 := Vector.replicate 49 {}
  fabric : Fabric := {}
  red    : Red := {}
  pwr    : Pwr := {}
  therm  : Therm := {}
  prs    : Prs := {}
  nv     : Nv := {}
  sz     : Sz := {}
  deriving DecidableEq, Repr

/-- Faults of a step. The block itself stops on none of its commands: every answer of the spec is a response, an event, a
violation, a counter or a pin, so no command raises one. -/
inductive Fault where
  /-- raised by nothing; the type is closed and this constructor keeps it inhabited (safe) -/
  | unreachable
  deriving DecidableEq, Repr

/-- Refusals of a step. -/
inductive Refusal where
  /-- raised by an arm of exec whose command has no meaning in the model (safe) -/
  | notModelled (mnemonic : String)
  deriving DecidableEq, Repr

/-- The state: the device and the queue of waiting commands, first in, first out. -/
structure State where
  /-- the FKB2 and the head adapters on its lanes (log entry 1) -/
  dev : Device := {}
  /-- commands that wait, the front first (the block's queue; reset empty) -/
  pending : List Instr := []
  deriving DecidableEq, Repr

/-- The machine right after reset: RESET_N low, supplies good, every field at its reset value (R416, log entry 1). -/
def State.reset : State := {}

end Sys2Proof.Machine
end

