-- ==== Sys2Proof/Machine/Operands.lean ====
section
/-! DEFINITION. Operand forms: bytes and words of memory structures (R12), CRC-32C (R223), the argument words of R343, and the
byte forms of responses, events, frames and cells. -/
namespace Sys2Proof.Machine

/-- ASCII bytes of a name. -/
def ascii (t : String) : List U8 := t.toList.map (fun c => BitVec.ofNat 8 c.toNat)

/-- REASON of Table 14.3 as ASCII. -/
def Reason.bytes : Reason → List U8
  | .none => []
  | .inProgress => ascii "IN_PROGRESS"
  | .seqReused => ascii "SEQ_REUSED"
  | .unknownSeq => ascii "UNKNOWN_SEQ"
  | .asyncFull => ascii "ASYNC_FULL"
  | .args => ascii "ARGS"
  | .node => ascii "NODE"
  | .field => ascii "FIELD"
  | .address => ascii "ADDRESS"
  | .slotSize => ascii "SLOT_SIZE"
  | .relaySize => ascii "RELAY_SIZE"
  | .smbusSize => ascii "SMBUS_SIZE"
  | .asyncRequired => ascii "ASYNC_REQUIRED"
  | .relayTimeout => ascii "RELAY_TIMEOUT"
  | .unreachable => ascii "UNREACHABLE"
  | .dataLost => ascii "DATA_LOST"
  | .hostRead => ascii "HOST_READ"
  | .powerState => ascii "POWER_STATE"
  | .stolzarMode => ascii "STOLZAR_MODE"
  | .noDram => ascii "NO_DRAM"
  | .thermal => ascii "THERMAL"
  | .padsHeld => ascii "PADS_HELD"
  | .truncated => ascii "TRUNCATED"
  | .logChanged => ascii "LOG_CHANGED"
  | .notIsolated => ascii "NOT_ISOLATED"
  | .notLatched => ascii "NOT_LATCHED"
  | .poisoned => ascii "POISONED"
  | .heads => ascii "HEADS"
  | .pitch => ascii "PITCH"
  | .index => ascii "INDEX"
  | .tile => ascii "TILE"
  | .block => ascii "BLOCK"
  | .overSupply => ascii "OVER_SUPPLY"
  | .tileArea => ascii "TILE_AREA"
  | .strip => ascii "STRIP"
  | .lpi => ascii "LPI"
  | .setContent => ascii "SET_CONTENT"
  | .subOrder => ascii "SUB_ORDER"
  | .subRange => ascii "SUB_RANGE"
  | .headMode => ascii "HEAD_MODE"
  | .geometry => ascii "GEOMETRY"
  | .array => ascii "ARRAY"
  | .levelMap => ascii "LEVEL_MAP"
  | .edWeights => ascii "ED_WEIGHTS"
  | .waveSelect => ascii "WAVE_SELECT"
  | .quiet => ascii "QUIET"
  | .waveMap => ascii "WAVE_MAP"
  | .waveLength => ascii "WAVE_LENGTH"
  | .waveLimit => ascii "WAVE_LIMIT"
  | .notPositionMaster => ascii "NOT_POSITION_MASTER"
  | .tooClose => ascii "TOO_CLOSE"
  | .tooLate => ascii "TOO_LATE"
  | .noStagedJob => ascii "NO_STAGED_JOB"
  | .jobActive => ascii "JOB_ACTIVE"
  | .offsetStep => ascii "OFFSET_STEP"
  | .noJob => ascii "NO_JOB"
  | .linePassed => ascii "LINE_PASSED"
  | .jobEnded => ascii "JOB_ENDED"
  | .tooEarly => ascii "TOO_EARLY"
  | .voutMode => ascii "VOUT_MODE"
  | .voutLimit => ascii "VOUT_LIMIT"
  | .hvSequence => ascii "HV_SEQUENCE"
  | .noSettings => ascii "NO_SETTINGS"
  | .overPixel => ascii "OVER_PIXEL"
  | .lineBuffer => ascii "LINE_BUFFER"
  | .overLane => ascii "OVER_LANE"
  | .noBands => ascii "NO_BANDS"
  | .port => ascii "PORT"
  | .columns => ascii "COLUMNS"
  | .deadDistance => ascii "DEAD_DISTANCE"
  | .model => ascii "MODEL"
  | .notMeasuringNode => ascii "NOT_MEASURING_NODE"
  | .peerNotActive => ascii "PEER_NOT_ACTIVE"
  | .peerActive => ascii "PEER_ACTIVE"
  | .noStandby => ascii "NO_STANDBY"
  | .selfTestSram => ascii "SELF_TEST_SRAM"
  | .selfTestScreen => ascii "SELF_TEST_SCREEN"
  | .selfTestDac => ascii "SELF_TEST_DAC"
  | .camRunning => ascii "CAM_RUNNING"
  | .pairActive => ascii "PAIR_ACTIVE"
  | .linkDown => ascii "LINK_DOWN"
  | .drainTimeout => ascii "DRAIN_TIMEOUT"
  | .training => ascii "TRAINING"
  | .wake => ascii "WAKE"
  | .pointFailed => ascii "POINT_FAILED"
  | .format => ascii "FORMAT"
  | .svn => ascii "SVN"
  | .raw b => b

/-- NAME of Table 14.6 as ASCII. -/
def EvName.bytes : EvName → List U8
  | .accountingBreak => ascii "EV_ACCOUNTING_BREAK"
  | .latchOverrun => ascii "EV_LATCH_OVERRUN"
  | .violation => ascii "EV_VIOLATION"
  | .partnerIsolated => ascii "EV_PARTNER_ISOLATED"
  | .overRate => ascii "EV_OVER_RATE"
  | .jobUnderrun => ascii "EV_JOB_UNDERRUN"
  | .feedLow => ascii "EV_FEED_LOW"
  | .blockCrc => ascii "EV_BLOCK_CRC"
  | .tableLate => ascii "EV_TABLE_LATE"
  | .tableCrc => ascii "EV_TABLE_CRC"
  | .jobChanged => ascii "EV_JOB_CHANGED"
  | .jobChangePostponed => ascii "EV_JOB_CHANGE_POSTPONED"
  | .jobChangeCancelled => ascii "EV_JOB_CHANGE_CANCELLED"
  | .jobChangeLost => ascii "EV_JOB_CHANGE_LOST"
  | .positionConfig => ascii "EV_POSITION_CONFIG"
  | .webReverse => ascii "EV_WEB_REVERSE"
  | .encoderDisagree => ascii "EV_ENCODER_DISAGREE"
  | .encoderSlip => ascii "EV_ENCODER_SLIP"
  | .encoderFailover => ascii "EV_ENCODER_FAILOVER"
  | .encoderFault => ascii "EV_ENCODER_FAULT"
  | .sheetEarly => ascii "EV_SHEET_EARLY"
  | .pdMismatch => ascii "EV_PD_MISMATCH"
  | .positionLost => ascii "EV_POSITION_LOST"
  | .positionRegained => ascii "EV_POSITION_REGAINED"
  | .positionDeputy => ascii "EV_POSITION_DEPUTY"
  | .headUnfit => ascii "EV_HEAD_UNFIT"
  | .headPresent => ascii "EV_HEAD_PRESENT"
  | .epochRejected => ascii "EV_EPOCH_REJECTED"
  | .driveDeviation => ascii "EV_DRIVE_DEVIATION"
  | .driveFault => ascii "EV_DRIVE_FAULT"
  | .dacCoreSuspect => ascii "EV_DAC_CORE_SUSPECT"
  | .trimLimited => ascii "EV_TRIM_LIMITED"
  | .hvFault => ascii "EV_HV_FAULT"
  | .camSettingsFailed => ascii "EV_CAM_SETTINGS_FAILED"
  | .calDisagree => ascii "EV_CAL_DISAGREE"
  | .camPortStopped => ascii "EV_CAM_PORT_STOPPED"
  | .loopEscalate => ascii "EV_LOOP_ESCALATE"
  | .loopHeld => ascii "EV_LOOP_HELD"
  | .nozzleCheck => ascii "EV_NOZZLE_CHECK"
  | .dramGeometry => ascii "EV_DRAM_GEOMETRY"
  | .dramCorrected => ascii "EV_DRAM_CORRECTED"
  | .dramUncorrected => ascii "EV_DRAM_UNCORRECTED"
  | .dramDegraded => ascii "EV_DRAM_DEGRADED"
  | .dramTrainFail => ascii "EV_DRAM_TRAIN_FAIL"
  | .dramDrift => ascii "EV_DRAM_DRIFT"
  | .dramTraining => ascii "EV_DRAM_TRAINING"
  | .dramTrained => ascii "EV_DRAM_TRAINED"
  | .dramHot => ascii "EV_DRAM_HOT"
  | .laneDown => ascii "EV_LANE_DOWN"
  | .laneUp => ascii "EV_LANE_UP"
  | .fabricDegraded => ascii "EV_FABRIC_DEGRADED"
  | .fabricReady => ascii "EV_FABRIC_READY"
  | .fabricChanged => ascii "EV_FABRIC_CHANGED"
  | .fabricUnreachable => ascii "EV_FABRIC_UNREACHABLE"
  | .fabricConflict => ascii "EV_FABRIC_CONFLICT"
  | .timeUnlocked => ascii "EV_TIME_UNLOCKED"
  | .timeLocked => ascii "EV_TIME_LOCKED"
  | .mirrorResync => ascii "EV_MIRROR_RESYNC"
  | .savedStateStale => ascii "EV_SAVED_STATE_STALE"
  | .heartbeatPath => ascii "EV_HEARTBEAT_PATH"
  | .peerPathsLost => ascii "EV_PEER_PATHS_LOST"
  | .promoted => ascii "EV_PROMOTED"
  | .promotionFailed => ascii "EV_PROMOTION_FAILED"
  | .demoted => ascii "EV_DEMOTED"
  | .reconciled => ascii "EV_RECONCILED"
  | .drillPassed => ascii "EV_DRILL_PASSED"
  | .drillFailed => ascii "EV_DRILL_FAILED"
  | .booted => ascii "EV_BOOTED"
  | .commandDone => ascii "EV_COMMAND_DONE"
  | .roleConflict => ascii "EV_ROLE_CONFLICT"
  | .presenceOpen => ascii "EV_PRESENCE_OPEN"
  | .presenceClosed => ascii "EV_PRESENCE_CLOSED"
  | .sealOpened => ascii "EV_SEAL_OPENED"
  | .sealRestored => ascii "EV_SEAL_RESTORED"
  | .powerWake => ascii "EV_POWER_WAKE"
  | .thermalSensorFailed => ascii "EV_THERMAL_SENSOR_FAILED"
  | .thermalLevel => ascii "EV_THERMAL_LEVEL"
  | .thermalSpeed => ascii "EV_THERMAL_SPEED"
  | .thermalTrip => ascii "EV_THERMAL_TRIP"
  | .thermalRestart => ascii "EV_THERMAL_RESTART"
  | .nvEmpty => ascii "EV_NV_EMPTY"
  | .dropsGap => ascii "EV_DROPS_GAP"
  | .vioLow => ascii "EV_VIO_LOW"
  | .raw b => b

/-- Bytes of a number, little-endian (R12), n bytes. -/
def leBytes (n v : Nat) : List U8 := (List.range n).map (fun i => BitVec.ofNat 8 (v / 256 ^ i))

/-- The byte at offset i; a byte beyond the end is 0. -/
def byteAt (bs : List U8) (i : Nat) : Nat := (bs.getD i 0).toNat

/-- The little-endian number of n bytes at offset i (R12). -/
def leAt (bs : List U8) (i n : Nat) : Nat := (List.range n).foldr (fun k a => byteAt bs (i + k) + 256 * a) 0

/-- A little-endian two's complement number of n bytes at offset i. -/
def leIntAt (bs : List U8) (i n : Nat) : Int :=
  let v := leAt bs i n
  if v < 256 ^ n / 2 then (v : Int) else (v : Int) - 256 ^ n

/-- A signed number of n bytes. -/
def leInt (n : Nat) (v : Int) : List U8 := leBytes n (v % (256 ^ n : Nat)).toNat

/-- Bits [lo+n-1:lo] of a number. -/
def bitsOf (v lo n : Nat) : Nat := v / 2 ^ lo % 2 ^ n

/-- Bit k of a number. -/
def bitOf (v k : Nat) : Bool := v / 2 ^ k % 2 == 1

/-- The number of a Bool. -/
def b2n (b : Bool) : Nat := if b then 1 else 0

/-- Words to bytes (R12). -/
def wordBytes (ws : List U32) : List U8 := ws.flatMap (fun w => leBytes 4 w.toNat)

/-- Bytes to words, padded with 0 to a multiple of 4 (R433). -/
def bytesWords (bs : List U8) : List U32 :=
  (List.range ((bs.length + 3) / 4)).map (fun k => BitVec.ofNat 32 (leAt bs (4 * k) 4))

/-- A 32-bit word. -/
def w32 (v : Nat) : U32 := BitVec.ofNat 32 v

/-- A signed number as a 32-bit word (R343). -/
def i32 (v : Int) : U32 := BitVec.ofInt 32 v

/-- Two words of a 64-bit quantity, low word first (R428, R433). -/
def w64 (v : Nat) : List U32 := [w32 v, w32 (v / 2 ^ 32)]

/-- A 64-bit result aligned on 8 bytes after the words before it (R433); byte 48 of the response is aligned. -/
def put64 (ws : List U32) (v : Nat) : List U32 :=
  (if ws.length % 2 == 1 then ws ++ [0] else ws) ++ w64 v

/-- A gap as its whole seconds and the ns beyond them (R402, log entry 101). -/
def gapTime (ns : Nat) : List U32 := [w32 (ns / 1000000000), w32 (ns % 1000000000)]

/-- Pads bytes with 0 to length n. -/
def padTo (n : Nat) (bs : List U8) : List U8 := bs ++ List.replicate (n - bs.length) 0

/-- One bit of the reflected CRC-32C division (R223), polynomial 0x1EDC_6F41 reflected. -/
def crcBit (c : Nat) : Nat := if c % 2 == 1 then Nat.xor (c / 2) 0x82F63B78 else c / 2

/-- One byte of CRC-32C (R223). -/
def crcByte (c : Nat) (b : U8) : Nat :=
  let c := Nat.xor c b.toNat
  crcBit (crcBit (crcBit (crcBit (crcBit (crcBit (crcBit (crcBit c)))))))

/-- CRC-32C: reflected, initial value 0xFFFF_FFFF, final inversion (R223). -/
def crc32c (bs : List U8) : U32 := BitVec.ofNat 32 (Nat.xor (bs.foldl crcByte 0xFFFFFFFF) 0xFFFFFFFF)

/-- CRC-32C over an 8-byte fold value and the bytes (R344, R284, R319, R114). -/
def crcFold (lo hi : U32) (bs : List U8) : U32 := crc32c (leBytes 4 lo.toNat ++ leBytes 4 hi.toNat ++ bs)

/-- Numeric value of a status (Table 14.17). -/
def Status.code : Status → U8
  | .ok => 0x00
  | .accepted => 0x01
  | .duplicate => 0x02
  | .deferred => 0x03
  | .badOpcode => 0x10
  | .badArgument => 0x11
  | .badLength => 0x12
  | .badCrc => 0x13
  | .expansionLimit => 0x14
  | .busyState => 0x20
  | .busyNoTag => 0x21
  | .refused => 0x30
  | .needsPresence => 0x31
  | .sealBroken => 0x32
  | .calDisagree => 0x40
  | .noQuietInterval => 0x41

/-- Bytes 0 to 15 of a command (Table 14.2). -/
def cmdHeader (op : U16) (c : Cmd) : List U8 :=
  leBytes 2 op.toNat
    ++ [BitVec.ofNat 8 (c.tag.toNat + 64 * c.rsvTag.toNat), BitVec.ofNat 8 (b2n c.async + 2 * c.rsvFlag.toNat)]
    ++ leBytes 2 c.length.toNat ++ [c.node, c.rsvNode] ++ leBytes 4 c.seq.toNat ++ leBytes 4 c.rsvWord.toNat

/-- The CRC that R344 asks of a command carried by the rings or management target of ring UID `uid`. -/
def cmdCrc (op : U16) (uid : U32) (c : Cmd) : U32 := crcFold c.seq uid (cmdHeader op c ++ wordBytes c.args)

/-- The argument digest of R346. -/
def cmdDigest (c : Cmd) : U32 := crc32c (wordBytes c.args)

/-- LENGTH of a response (Table 14.3). -/
def Response.length (r : Response) : Nat := 52 + 4 * r.results.length

/-- The bytes of a response, CRC last (Table 14.3, R344). -/
def Response.bytes (uid : U32) (r : Response) : List U8 :=
  let body := leBytes 2 r.opcode.toNat ++ [BitVec.ofNat 8 r.tag.toNat, r.status] ++ leBytes 2 r.length
    ++ [r.node, BitVec.ofNat 8 (b2n r.tagless + 128 * b2n r.phase)] ++ leBytes 4 r.seq.toNat ++ [r.orig, 0, 0, 0]
    ++ padTo 24 r.reason.bytes ++ leBytes 4 r.detail.toNat ++ [0, 0, 0, 0] ++ wordBytes r.results
  body ++ leBytes 4 (crcFold r.seq uid body).toNat

/-- The bytes of an event record (Table 14.6). -/
def Event.bytes (e : Event) : List U8 :=
  padTo 24 e.name.bytes ++ [e.node, BitVec.ofNat 8 (b2n e.relayed + 128 * b2n e.phase)] ++ leBytes 2 e.lost.toNat
    ++ leBytes 4 e.evseq.toNat ++ leBytes 8 e.ftime.toNat ++ leBytes 8 e.wpos.toNat ++ padTo 16 (wordBytes (e.args.take 4))

/-- The form of one argument (R343). -/
inductive Arg where
  /-- a 32-bit word in lo..hi, read signed when lo is negative -/
  | num (lo hi : Int)
  /-- a word in lo..hi that is a multiple of m -/
  | mul (lo hi m : Int)
  /-- a word that is one of a list -/
  | one (l : List Int)
  /-- a 64-bit argument, aligned on 8 bytes of the command, in lo..hi and a multiple of m -/
  | wide (lo hi m : Nat)
  deriving DecidableEq, Repr

/-- An address, a WPOS, a UID, a mask: any 64-bit value (R343). -/
def Arg.addr : Arg := .wide 0 (2 ^ 64 - 1) 1
/-- A flag. -/
def Arg.flag : Arg := .num 0 1
/-- Any 32-bit value. -/
def Arg.any : Arg := .num 0 (2 ^ 32 - 1)
/-- A head, 0 to 39. -/
def Arg.head : Arg := .num 0 39
/-- A camera or fabric port, 0 to 3. -/
def Arg.port : Arg := .num 0 3
/-- A colour or plane, 0 to 7. -/
def Arg.colour : Arg := .num 0 7

/-- Words that an argument occupies when it begins at word i of the arguments (R343). -/
def Arg.words (i : Nat) : Arg → Nat
  | .wide _ _ _ => if i % 2 == 1 then 3 else 2
  | _ => 1

/-- The words of a list of arguments beginning at word i (R343's argument length, in words). -/
def argWords : List Arg → Nat → Nat
  | [], _ => 0
  | a :: as, i => a.words i + argWords as (i + a.words i)

/-- The signed reading of a word. -/
def wordInt (w : U32) : Int := w.toInt

/-- An argument's value at word i, or what R343 answers: `some true` FIELD, `some false` a nonzero reserved word. -/
def Arg.read (ws : List U32) (i : Nat) : Arg → Except Bool Int
  | .num lo hi =>
    let w := ws.getD i 0
    let v : Int := if lo < 0 then wordInt w else w.toNat
    if lo ≤ v ∧ v ≤ hi then .ok v else .error true
  | .mul lo hi m =>
    let w := ws.getD i 0
    let v : Int := if lo < 0 then wordInt w else w.toNat
    if lo ≤ v ∧ v ≤ hi ∧ v % m = 0 then .ok v else .error true
  | .one l =>
    let w := ws.getD i 0
    if l.contains (w.toNat : Int) then .ok w.toNat else if l.contains (wordInt w) then .ok (wordInt w) else .error true
  | .wide lo hi m =>
    let pad := i % 2
    if pad = 1 ∧ ws.getD i 0 ≠ 0 then .error false
    else
      let v := (ws.getD (i + pad) 0).toNat + 2 ^ 32 * (ws.getD (i + pad + 1) 0).toNat
      if lo ≤ v ∧ v ≤ hi ∧ v % m = 0 then .ok v else .error true

/-- The values of a list of arguments from word i, and the word after them. -/
def readArgs (ws : List U32) : List Arg → Nat → Except Bool (List Int × Nat)
  | [], i => .ok ([], i)
  | a :: as, i =>
    match a.read ws i with
    | .error e => .error e
    | .ok v =>
      match readArgs ws as (i + a.words i) with
      | .error e => .error e
      | .ok (vs, j) => .ok (v :: vs, j)

/-- Repeated entries from word i to the end of the arguments (R343), at most `fuel` of them. -/
def readReps (ws : List U32) (rep : List Arg) : Nat → Nat → Except Bool (List Int)
  | 0, _ => .ok []
  | fuel + 1, i =>
    if ws.length ≤ i then .ok []
    else
      match readArgs ws rep i with
      | .error e => .error e
      | .ok (vs, j) =>
        match readReps ws rep fuel j with
        | .error e => .error e
        | .ok ys => .ok (vs ++ ys)

/-- R343's length check: enough words for the arguments, and whole entries after them; the word after the last entry must be the
end. -/
def argsFit (ws : List U32) (args rep : List Arg) : Bool :=
  let n := argWords args 0
  decide (n ≤ ws.length) && (rep.isEmpty || fitReps ws.length n)
where
  fitReps (len n : Nat) : Bool := go len len n
  go (len : Nat) : Nat → Nat → Bool
    | 0, i => i == len
    | fuel + 1, i => if len ≤ i then i == len else go len fuel (i + argWords rep i)

/-- The argument values of a command, fixed arguments first, then the entries; an error is `true` for FIELD and `false` for a
nonzero reserved word (R343). -/
def parseArgs (ws : List U32) (args rep : List Arg) : Except Bool (List Int) :=
  match readArgs ws args 0 with
  | .error e => .error e
  | .ok (vs, j) =>
    if rep.isEmpty then
      if (ws.drop j).all (· == 0) then .ok vs else .error false
    else
      match readReps ws rep ws.length j with
      | .error e => .error e
      | .ok ys => .ok (vs ++ ys)

/-- Argument k of the parsed values. -/
def argI (a : List Int) (k : Nat) : Int := a.getD k 0
/-- Argument k as a natural number. -/
def argN (a : List Int) (k : Nat) : Nat := (a.getD k 0).toNat
/-- Argument k as a flag. -/
def argB (a : List Int) (k : Nat) : Bool := a.getD k 0 == 1
/-- Entries of size n of a list of values. -/
def entriesOf (n : Nat) : Nat → List Int → List (List Int)
  | 0, _ => []
  | fuel + 1, l => if n = 0 ∨ l.isEmpty then [] else l.take n :: entriesOf n fuel (l.drop n)

/-- A number as an index below n, 0 when it is out of range (an index whose range the argument check has admitted). -/
def finOf (n : Nat) [NeZero n] (v : Nat) : Fin n := if h : v < n then ⟨v, h⟩ else ⟨0, Nat.pos_of_ne_zero (NeZero.ne n)⟩

/-- One element of a vector changed. -/
def upd (v : Vector α n) (i : Fin n) (f : α → α) : Vector α n := v.set i.val (f v[i]) i.isLt

/-- Every element of a vector changed, with its index. -/
def updAll (v : Vector α n) (f : Fin n → α → α) : Vector α n := Vector.ofFn (fun i => f i v[i])

/-- Every element of a vector changed. -/
def mapAll (v : Vector α n) (f : α → β) : Vector β n := Vector.ofFn (fun i => f v[i])

/-- An element put into an ascending list, before the first that is not less. -/
def insertBy (le : α → α → Bool) (x : α) : List α → List α
  | [] => [x]
  | y :: ys => if le x y then x :: y :: ys else y :: insertBy le x ys

/-- A list in ascending order; equal elements keep theirs. -/
def sortBy (le : α → α → Bool) (xs : List α) : List α := xs.foldr (insertBy le) []

/-- Position of a lane in the vectors of 49 lanes and in Table 18.30: HL0 to HL39, FL0 to FL7, WL. -/
def lanePos : LaneId → Fin 49
  | .hl h => ⟨h.val, by omega⟩
  | .fl k => ⟨40 + k.val, by omega⟩
  | .wl => 48

/-- The lane of a LANE argument (Table 11.5); none for a number that is no lane. -/
def laneOf (n : Nat) : Option LaneId :=
  if h : n < 40 then some (.hl ⟨n, h⟩)
  else if h : 64 ≤ n ∧ n < 72 then some (.fl ⟨n - 64, by omega⟩)
  else if n = 80 then some .wl else none

/-- LANE number of a lane (Table 11.5). -/
def laneNum : LaneId → Nat
  | .hl h => h.val
  | .fl k => 64 + k.val
  | .wl => 80

/-- Number of a virtual channel (Table 12.1). -/
def vcNum : Vc → Nat
  | .timing => 0
  | .control => 1
  | .bulk => 2
  | .measure => 3

/-- Number of a virtual channel as an index. -/
def vcFin : Vc → Fin 4
  | .timing => 0
  | .control => 1
  | .bulk => 2
  | .measure => 3

/-- Number of a table (Table 3.4). -/
def tblFin : Tbl → Fin 6
  | .comb => 0
  | .sub => 1
  | .wave => 2
  | .thresh => 3
  | .stitch => 4
  | .ed => 5

/-- Number of a role (Table 13.1). -/
def roleNum : Role → Nat
  | .active => 0
  | .standby => 1
  | .promoting => 2
  | .fenced => 3

/-- The bytes of a data frame before its CRC (Table 12.1). -/
def frameBody (f : DataFrame) : List U8 :=
  [BitVec.ofNat 8 (f.kind.toNat + 16 * vcNum f.vc + 64 * b2n f.bcast + 128 * f.rsv.1.toNat), BitVec.ofNat 8 (f.hops.toNat + 16 * b2n f.dict + 32 * f.rsv.2.1.toNat)]
    ++ leBytes 2 f.length.toNat ++ leBytes 2 f.seq.toNat ++ [f.dest, f.src] ++ leBytes 4 f.srcSeq.toNat
    ++ leBytes 2 f.msgType.toNat ++ leBytes 2 f.rsv.2.2.toNat ++ f.payload

/-- The CRC of a frame on a link, folding SEQ of a data frame, 0 of another, and the sending node's UID (R284). -/
def frameCrc (uid : U64) (f : DataFrame) : U32 :=
  crcFold (if f.kind = 1 then w32 f.seq.toNat else 0) (w32 uid.toNat) (frameBody f)

/-- Credits that a frame consumes (R283). -/
def frameCredits (f : DataFrame) : Nat := (f.length.toNat + 63) / 64

/-- Insertion of a byte into a sparse memory in canonical form: a byte of 0, what an unlisted address reads as, is not listed. -/
def memSet : Mem → Nat → U8 → Mem
  | [], a, b => if b = 0 then [] else [(a, b)]
  | (k, v) :: m, a, b =>
    if a < k then (if b = 0 then (k, v) :: m else (a, b) :: (k, v) :: m)
    else if a = k then (if b = 0 then m else (a, b) :: m)
    else (k, v) :: memSet m a b

/-- The byte at an address; an unlisted address reads 0 (log entry 4). -/
def memGet : Mem → Nat → U8
  | [], _ => 0
  | (k, v) :: m, a => if k = a then v else memGet m a

/-- Bytes written from an address upwards. -/
def memWrite : Mem → Nat → List U8 → Mem
  | m, _, [] => m
  | m, a, b :: bs => memWrite (memSet m a b) (a + 1) bs

/-- n bytes read from an address. -/
def memRead (m : Mem) (a n : Nat) : List U8 := (List.range n).map (fun i => memGet m (a + i))

/-- The canonical form: addresses strictly rising, no listed byte 0. -/
def Mem.wf : Mem → Bool
  | [] => true
  | [(_, b)] => b != 0
  | (a, b) :: (a', b') :: m => b != 0 && decide (a < a') && Mem.wf ((a', b') :: m)

/-- The integer at an index of a sparse table; an unlisted index reads 0. -/
def iGet : IMem → Nat → Int
  | [], _ => 0
  | (k, v) :: m, a => if k = a then v else iGet m a

/-- Insertion into a sparse integer table in canonical form. -/
def iSet : IMem → Nat → Int → IMem
  | [], a, b => if b = 0 then [] else [(a, b)]
  | (k, v) :: m, a, b =>
    if a < k then (if b = 0 then (k, v) :: m else (a, b) :: (k, v) :: m)
    else if a = k then (if b = 0 then m else (a, b) :: m)
    else (k, v) :: iSet m a b

/-- Values written from an index upwards. -/
def iWrite : IMem → Nat → List Int → IMem
  | m, _, [] => m
  | m, a, b :: bs => iWrite (iSet m a b) (a + 1) bs

/-- Rounding of a fraction to the nearest integer, halves away from zero (R210). -/
def roundDiv (n : Int) (d : Nat) : Int :=
  if n < 0 then -((2 * (-n) + d) / (2 * d)) else (2 * n + d) / (2 * d)

/-- Later under R9: ahead by less than half the range. -/
def laterThan (a b : U32) : Bool := a != b && decide ((a - b).toNat < 2 ^ 31)

/-- The line that a 32-bit line number names, nearest to a line that the model numbers without wrapping (R9). -/
def lineNear (near : Nat) (v : U32) : Nat := ((near : Int) + (v - BitVec.ofNat 32 near).toInt).toNat

/-- Regions of the on-chip data SRAM (Table 1.7, R31). Each 256-bit word of them carries SECDED; no row of the table brings an error of one (log
entry 74). -/
inductive SramRegion where
  | staging
  | tableBanks
  | loopBanks
  | errorLines
  | screenerBuffers
  | accumulator
  | cameraLines
  | cameraTables
  | dictionaries
  | search
  | history
  | replay
  | mailbox
  | working
  deriving DecidableEq, Repr

/-- Size of a region in hundredths of a KiB (Table 1.7). No command moves memory between regions (R31). -/
def sramSize : SramRegion → Nat
  | .staging => 614400
  | .tableBanks => 904125
  | .loopBanks => 24030
  | .errorLines => 72020
  | .screenerBuffers => 24000
  | .accumulator => 408310
  | .cameraLines => 115200
  | .cameraTables => 51200
  | .dictionaries => 128000
  | .search => 51200
  | .history => 12800
  | .replay => 32000
  | .mailbox => 6400
  | .working => 13915

/-- Bytes of a replay buffer: one of the five equal ones of its region (R31, R298, R320). -/
def replayBytes : Nat := sramSize .replay * 1024 / 100 / 5

/-- Clamp to lo..hi. -/
def clampI (lo hi v : Int) : Int := if v < lo then lo else if hi < v then hi else v

/-- A counter that saturates at 2^w − 1. -/
def satAdd (v : BitVec w) (n : Nat) : BitVec w := BitVec.ofNat w (min (v.toNat + n) (2 ^ w - 1))

end Sys2Proof.Machine
end

