-- ==== Sys2Proof/Machine/Flags.lean ====
section
/-! DEFINITION. Status computed from the state: clocks and domains, pins (Table 19.6), counts of commands in flight, and the BAR0
registers as the host reads them (chapter 18). -/
namespace Sys2Proof.Machine

/-- Fabric time in nanoseconds (R299). -/
def ftime (d : Device) : U64 := BitVec.ofNat 64 (d.chip.qtime / 4)

/-- The power is good: PWR_GOOD is high, and VIO_AON is not low, which acts as PWR_GOOD low (R417). -/
def powered (d : Device) : Bool := d.chip.pwrGood && !d.chip.vioLow[0]

/-- The device is out of reset: RESET_N high, the power good, XO present, no clock fault pending (R361, R388, R417). -/
def alive (d : Device) : Bool := d.chip.resetN && powered d && d.chip.xoOk && !d.chip.clockFault

/-- Powered and clocked: domain k of Table 15.4 is ON, and not stopped by a trip (Table 16.3: D_DP, D_CAM and D_DAC). -/
def domainRuns (d : Device) (k : Fin 9) : Bool :=
  alive d && d.pwr.cond[k] == .on && !(d.therm.trip && (k == 2 || k == 3 || k == 5))

/-- A domain that has quiesced for a low-power state: powered and clocked, but it starts no work (R367). -/
def quiesced (d : Device) (k : Nat) : Bool := d.pwr.quiesced.contains k

/-- A domain that runs and has not quiesced: it goes on with what it has begun (R367). -/
def domainOn (d : Device) (k : Fin 9) : Bool := domainRuns d k && !quiesced d k.val

/-- A domain that takes no new work: it has quiesced, or its turn has come and it drains (R367). -/
def quiescing (d : Device) (k : Nat) : Bool := quiesced d k || (d.pwr.phase == 1 && d.pwr.todo.head? == some k)

/-- A domain that runs and takes new work (R367). -/
def domainTakes (d : Device) (k : Fin 9) : Bool := domainRuns d k && !quiescing d k.val

/-- D_CTL takes a command (R365, R367): its clock runs again when one comes in IDLE. -/
def wakeCores (d : Device) : Device :=
  if d.pwr.idle then
    { d with pwr := { d.pwr with
        idle := false, residency := d.pwr.residency + (d.chip.qtime - d.pwr.idleAt), cond := d.pwr.cond.set 1 .on } }
  else d

/-- Conditions of the domains in RUN: all ON, but in Stolzar mode D_CAM, whose units it disables (R359, Table 15.4; log entry 93). -/
def runCond (d : Device) : Vector Cond 9 := Vector.ofFn (fun k => if d.chip.modeSz && k.val == 3 then .off else .on)

/-- The command interface is ready (Table 18.5). -/
def ready (d : Device) : Bool := alive d && d.nv.stage == .ready

/-- The unit belongs to a pair (R307); Stolzar mode has no pairs. -/
def paired (d : Device) : Bool := d.red.pair.isSome && !d.chip.modeSz

/-- The unit performs the work of role ACTIVE (R307, R309). -/
def active (d : Device) : Bool := !paired d || d.red.role == .active

/-- The unit that the FKB2 folds: 1 for unit B of a pair (R114). -/
def unitB (d : Device) : Bool := paired d && d.chip.unitB

/-- The unit of a pair is FENCED (R309, R332). -/
def fenced (d : Device) : Bool := paired d && d.red.role == .fenced

/-- A CONTROL cell of a SUBTYPE may go to a head: a STANDBY unit sends WITNESS only, a PROMOTING one nothing before its
record is committed, and a FENCED one nothing (R308, R327, Table 13.1). -/
def mayControl (d : Device) (sub : BitVec 4) : Bool :=
  !paired d || match d.red.role with
    | .standby => sub == 4
    | .fenced => false
    | .promoting => d.red.promo != some .record
    | .active => true

/-- A head that the variant has (R2). -/
def hasHead (d : Device) (h : Nat) : Bool := decide (h < (if d.chip.part == .fkb24 then 24 else 40))

/-- How many heads the variant has, numbered from 0 (R2). -/
def headCount (d : Device) : Nat := if d.chip.part == .fkb24 then 24 else 40

/-- A DAC group that the variant has (R2). -/
def hasGroup (d : Device) (g : Nat) : Bool := decide (g < (if d.chip.part == .fkb24 then 3 else 5))

/-- A lane that the variant has (R4). -/
def hasLane (d : Device) (l : LaneId) : Bool :=
  match l with
  | .hl h => hasHead d h.val
  | _ => true

/-- Every group of the variant has ended the calibration of all its cores, of start-up or of a promotion (R161, R328). -/
def startCalDone (d : Device) : Bool := (List.finRange 5).all (fun g => !hasGroup d g.val || d.drive.groups[g].start.isEmpty)

/-- Head lanes may be enabled: the calibration of start-up has ended (R389); that of a promotion's self-test bars none. -/
def headLanesMay (d : Device) : Bool := startCalDone d || d.red.promo.isSome

/-- Accepted commands without a response: an ASYNC command has its ACCEPTED (R345, R346). -/
def inFlightCount (d : Device) : Nat := (d.mbx.inFlight.filter (fun e => !e.async)).length

/-- Accepted commands of the rings without a response; a relayed or management command holds no slot of them. -/
def ringInFlight (d : Device) : Nat :=
  (d.mbx.inFlight.filter (fun e => !e.async && (match e.origin with | .ring => true | _ => false))).length

/-- Incomplete ASYNC commands (R346). -/
def asyncOpen (d : Device) : Nat := (d.mbx.inFlight.filter (·.async)).length

/-- D_CTL reads commands: ready, in RUN, and not quiesced (R340, R367, R375, R406). -/
def readsCommands (d : Device) : Bool :=
  ready d && d.pwr.state == .run && !quiescing d 1 && d.pwr.phase != 2

/-- A response slot is free for the next command (R340). -/
def slotFree (d : Device) : Bool :=
  decide ((d.mbx.rspTail - d.mbx.rspHead).toNat + ringInFlight d < d.mbx.slots)

/-- FAULT_N is asserted: a trip, unless the unit is FENCED and has released it (R332), a clock fault, BOOT_FAILED or a failed promotion self-test
(R328, R361, R392, Table 16.3). -/
def faultLow (d : Device) : Bool :=
  (d.chip.resetN && d.therm.trip && !fenced d) || d.chip.clockFault || d.chip.bootFailed
    || (paired d && d.red.role == .promoting && d.red.promo.isNone)

/-- SPEED_LIMIT is driven: level 2, or the over-rate condition (R384); a demoted or waiting unit releases it (R309, R332). -/
def speedLimit (d : Device) : Bool := active d && (decide (2 ≤ d.therm.level) || d.feed.overRate)

/-- This device drives HEAD_SAFE_N low: head.safe SET 1, or a trip; a unit of a pair in role STANDBY or FENCED leaves it
released through its own trip (R130). -/
def headSafeDriven (d : Device) : Bool :=
  d.chip.resetN && powered d
    && (d.chip.headSafeSet || (d.therm.trip && !(paired d && (d.red.role == .standby || d.red.role == .fenced))))

/-! Output pins (Tables 15.6 and 19.6) -/

/-- The outputs are driven at all: RESET_N is high and the power good (R416, R417). -/
def pinsLive (d : Device) : Bool := d.chip.resetN && powered d

/-- The pins of a VIO bank are driven: the bank is above 1.50 V (R419). -/
def bankUp (d : Device) (b : Fin 6) : Bool := pinsLive d && !d.chip.vioLow[b]

/-- SPEED_LIMIT as driven, none while high-impedance; a held bank 0 keeps the level of its latch (R371). -/
def speedLimitPin (d : Device) : Option Bool :=
  if bankUp d 1 then some (if d.pwr.held.getLsbD 0 then d.pwr.latched.1 else speedLimit d) else none

/-- FAULT_N is pulled low. -/
def faultPin (d : Device) : Bool :=
  bankUp d 1 && (if d.pwr.held.getLsbD 0 then d.pwr.latched.2.1 else faultLow d)

/-- CAMSW as driven, none while high-impedance (R312). -/
def camswPin (d : Device) : Option Bool :=
  if bankUp d 1 then (if d.pwr.held.getLsbD 0 then d.pwr.latched.2.2 else d.chip.camsw) else none

/-- The WF pins are driven: the unit's role enables them and bank 4 is released (R312, R371, R416). -/
def wfDriven (d : Device) : Bool := pinsLive d && d.chip.wfOn && !d.chip.txOff && !d.pwr.held.getLsbD 4

/-- Camera triggers and strobes reach their pins: bank 1 released, VIO_CAM up (R371, R419). -/
def camPins (d : Device) : Bool := bankUp d 3 && !d.pwr.held.getLsbD 1

/-- The PMBus pins work: bank 2 released, VIO_PMB up (R371, R419). -/
def pmbPins (d : Device) : Bool := bankUp d 4 && !d.pwr.held.getLsbD 2

/-- The flash pins work: bank 3 released, VIO_SPI up (R371, R419), and not high-impedance after a failed boot (R392). -/
def flashPins (d : Device) : Bool := bankUp d 5 && !d.pwr.held.getLsbD 3 && d.nv.stage != .failed

/-- A STANDBY unit, and one that writes the record of its promotion, start no flash erase (R400). -/
def erasesMay (d : Device) : Bool := !(paired d && (d.red.role == .standby || d.red.role == .promoting))

/-- A program waits for an erase: that of a sector from `lo` to `hi`, its own region's, or any at all on a flash without suspend (R394, R397, Table
17.7). -/
def waitsErase (lo hi : Nat) (d : Device) : Bool :=
  (erasesMay d && d.nv.erases.any (fun e => decide (100 + lo ≤ e ∧ e ≤ 100 + hi)))
    || (((erasesMay d && !d.nv.erases.isEmpty) || !d.nv.cmdErases.isEmpty) && !Config.flashSuspends)

/-- THERM_TRIP_N is asserted while a trip holds (R385, R387). -/
def thermTripLow (d : Device) : Bool := d.chip.resetN && d.therm.trip

/-- The SPI flash pins are held: nothing is programmed or erased (Table 15.6). -/
def flashHeld (d : Device) : Bool := d.pwr.held.getLsbD 3

/-- The 7-bit management address 0x58 + 4 × ADDR2 + 2 × ADDR1 + ADDR0 (R420). -/
def mgmtAddr (d : Device) : Nat := 0x58 + d.chip.addr.toNat

/-- ID_PART (Table 18.2). -/
def idPart (d : Device) : Nat := if d.chip.part == .fkb24 then 0xB0180002 else 0xB0280001

/-- STAGE (Table 18.5). -/
def stageNum (d : Device) : Nat :=
  match d.nv.stage with
  | .rom => 0
  | .starting => 1
  | .ready => 2
  | .failed => 3

/-- ID_BOOT (Table 18.5). -/
def idBoot (d : Device) : Nat :=
  stageNum d + 8 * b2n d.nv.slot + 16 * (d.chip.cause.toNat % 8) + 128 * b2n d.chip.modeSz + 256 * b2n d.chip.unitB
    + 512 * mgmtAddr d + 65536 * b2n (!d.dram.ok && d.nv.stage == .ready)

/-- MBX_STATE (Table 18.13). -/
def mbxState (d : Device) : Nat :=
  inFlightCount d % 128 + 256 * (d.mbx.credits % 128) + 65536 * b2n d.mbx.location
    + 131072 * b2n (readsCommands d && slotFree d) + 2 ^ 24 * (asyncOpen d % 32)

/-- Number of a power-state condition (Table 18.19). -/
def condNum : Cond → Nat
  | .on => 0
  | .gated => 1
  | .ret => 2
  | .off => 3

/-- PWR_STATE (Table 18.18). -/
def pwrStateReg (d : Device) : Nat :=
  (if d.pwr.state == .sleep then 1 else 0) + 8 * (if d.pwr.phase == 3 then 0 else d.pwr.phase) + 32 * b2n d.pwr.idle
    + 256 * d.pwr.lastWake.toNat + 4096 * d.pwr.refused.toNat

/-- PWR_DOMAIN (Table 18.19). -/
def pwrDomainReg (d : Device) : Nat :=
  (List.range 9).foldr (fun k a => condNum (d.pwr.cond.getD k .on) * 4 ^ k + a) 0

/-- The low 16 bits of a signed temperature (R409). -/
def temp16 (t : Int) : Nat := (BitVec.ofInt 16 t).toNat

/-- THM_DIE (Table 18.22); a unit that has released SPEED_LIMIT with its role does not hold it (R309, R332). -/
def thmDie (d : Device) : Nat :=
  temp16 d.therm.die + 2 ^ 16 * d.therm.hottest.val + 2 ^ 20 * d.therm.level + 2 ^ 22 * b2n d.therm.trip
    + 2 ^ 23 * b2n d.therm.restarting + 2 ^ 24 * b2n (d.therm.trip && d.therm.sensors)
    + 2 ^ 25 * b2n (active d && decide (2 ≤ d.therm.level)) + 2 ^ 26 * b2n (active d && d.feed.overRate)

/-- Neighbours of each sensor (Table 16.1). -/
def neighbours : Vector (List Nat) 12 :=
  #v[[1, 4], [0, 2, 5], [1, 3, 6], [2, 7], [0, 5, 8], [1, 4, 6, 9], [2, 5, 7, 10], [3, 6, 11], [4, 9], [5, 8, 10], [6, 9, 11],
    [7, 10]]

/-- Whether sensor s is failed; a number beyond TS11 is not. -/
def failedAt (d : Device) (s : Nat) : Bool := d.therm.failed.getD s false

/-- Two neighbours are both failed (R380). -/
def twoFailed (d : Device) : Bool :=
  (List.range 12).any (fun s => failedAt d s && (neighbours.getD s []).any (fun n => failedAt d n))

/-- Sensors that are not failed (R378). -/
def healthyCount (d : Device) : Nat := ((List.range 12).filter (fun s => !failedAt d s)).length

/-- THM_FAILED (Table 18.23). -/
def thmFailed (d : Device) : Nat :=
  (List.range 12).foldr (fun s a => b2n (failedAt d s) * 2 ^ s + a) 0
    + 2 ^ 12 * b2n (twoFailed d) + 2 ^ 13 * b2n (decide (healthyCount d < 4))

/-- Seconds left in the presence window, a begun one counted (R354, Table 18.25). -/
def secondsLeft (d : Device) : Nat :=
  if d.prs.window then (d.prs.openAt + 1200000000000 - d.chip.qtime + 3999999999) / 4000000000 else 0

/-- PRESSED: PRESENCE_N is low, certainly at the end of a 2 s hold; no row says when it rises, so its level is a free value after that (log entry 102). -/
def presencePressed (d : Device) : Bool := d.prs.pressed && (d.prs.openAt == d.chip.qtime || Config.presenceLow d.chip.qtime)

/-- PRS_STATUS (Table 18.25). -/
def prsStatus (d : Device) : Nat :=
  b2n d.prs.window + 2 * b2n d.prs.loopOpen + 4 * b2n d.prs.latch + 8 * b2n (presencePressed d) + 65536 * secondsLeft d

/-- RED_STATUS (Table 18.27; R411: without a pair record every field but UNIT_B is 0). -/
def redStatus (d : Device) : Nat :=
  if paired d then
    1 + 2 * b2n d.chip.unitB + 4 * roleNum d.red.role + 16 * b2n d.red.wlLive + 32 * b2n d.red.hbiLive
      + 64 * b2n d.red.stale + 128 * b2n (d.red.role == .active && d.red.standbyOk)
      + 256 * (match d.red.peer with | some h => roleNum h.role | none => 0) + 1024 * b2n d.red.seen
      + 2048 * b2n (match d.red.peer with | some h => h.trip | none => false)
  else 0

/-- RED_SNAP_AGE (Table 18.29). -/
def snapAge (d : Device) : Nat :=
  match d.red.ackedAt with
  | none => 0xFFFFFFFF
  | some t => min 0xFFFFFFFF ((d.chip.qtime - t) / 4000000)

/-- The DIAG counter at an offset (Table 18.30). -/
def diagReg (g : Diag) (o : Nat) : Option U32 :=
  if o = 0x2000 then some g.violLost
  else if o = 0x2004 then some g.eventLost
  else if o = 0x2008 then some g.relayLate
  else if o = 0x200C then some g.encIllegal[0]
  else if o = 0x2010 then some g.encIllegal[1]
  else if o = 0x2014 then some g.encSlip
  else if o = 0x2018 then some g.posStep
  else if o = 0x201C then some g.pdEarly
  else if o = 0x2020 then some g.pdMismatch
  else if 0x2040 ≤ o ∧ o < 0x2050 then some (g.dramCorr.getD ((o - 0x2040) / 4) 0)
  else if o = 0x2050 then some g.dramUncorr
  else if o = 0x2054 then some g.dramVictim
  else if 0x2060 ≤ o ∧ o < 0x2070 then some (g.csiEcc.getD ((o - 0x2060) / 4) 0)
  else if 0x2100 ≤ o ∧ o < 0x2300 then (laneOf ((o - 0x2100) / 4)).map (fun l => g.laneCode[lanePos l])
  else if 0x2300 ≤ o ∧ o < 0x2500 then (laneOf ((o - 0x2300) / 4)).map (fun l => g.laneTwcrc[lanePos l])
  else none

/-- The value that an aligned 32-bit read of BAR0 returns below the mailbox SRAM (Table 18.1, R403, R405 to R412); an offset that
no register occupies reads 0, and so does the mailbox SRAM where it is not served (log entry 102). -/
def readRegister (d : Device) (o : Nat) : U32 :=
  if o = 0x0000 then w32 (idPart d)
  else if o = 0x0004 then w32 d.chip.uid.toNat
  else if o = 0x0008 then w32 (d.chip.uid.toNat / 2 ^ 32)
  else if o = 0x000C then w32 (idBoot d)
  else if o = 0x0010 then d.nv.version
  else if o = 0x0100 then d.mbx.cmdTail
  else if o = 0x0104 then d.mbx.cmdHead
  else if o = 0x0108 then d.mbx.rspTail
  else if o = 0x010C then d.mbx.rspHead
  else if o = 0x0110 then d.mbx.evtTail
  else if o = 0x0114 then d.mbx.evtHead
  else if o = 0x0118 then w32 (mbxState d)
  else if o = 0x0400 then w32 d.mbx.irqStatus.toNat
  else if o = 0x0404 then w32 d.mbx.irqEnable.toNat
  else if o = 0x0408 then w32 d.mbx.holdoff.toNat
  else if o = 0x0800 then w32 (pwrStateReg d)
  else if o = 0x0804 then w32 (pwrDomainReg d)
  else if o = 0x0808 then w32 (b2n d.pwr.wakeAt.isSome)
  else if o = 0x080C then w32 d.pwr.held.toNat
  else if o = 0x0A00 then w32 (thmDie d)
  else if o = 0x0A04 then w32 (thmFailed d)
  else if 0x0A10 ≤ o ∧ o < 0x0A40 then
    w32 (temp16 (d.therm.reading.getD ((o - 0x0A10) / 4) 0) + 65536 * temp16 (d.therm.site.getD ((o - 0x0A10) / 4) 0))
  else if o = 0x0C00 then w32 (prsStatus d)
  else if o = 0x1000 then w32 (redStatus d)
  else if o = 0x1004 then d.red.epoch
  else if o = 0x1008 then w32 (snapAge d)
  else if 0x3000 ≤ o ∧ o < 0x3400 then w32 (leAt (memRead d.mbx.msixTable (o - 0x3000) 4) 0 4)
  else if o = 0x3400 then w32 d.mbx.msixPending.toNat
  else if o = 0x3404 then w32 (d.mbx.msixPending.toNat / 2 ^ 32)
  else if 0x10000 ≤ o ∧ o < 0x20000 then (if d.pwr.state == .run then w32 (leAt (memRead d.mbx.sram (o - 0x10000) 4) 0 4) else 0)
  else (diagReg d.vlog.diag o).getD 0

end Sys2Proof.Machine
end

