-- ==== Sys2Proof/Machine/Ops.lean ====
section
/-! DEFINITION. The operations the meanings share: fields of numbered resources, interrupts and events, the violation log, DRAM,
responses and the memory of completed commands, the checks of a Mervan command, and sending on the fabric. -/
namespace Sys2Proof.Machine

/-- An outcome that changes the device and leaves the queue alone. -/
def next (s : State) (d : Device) : Host.Outcome State Fault Refusal := .next { s with dev := d }

/-! Fields of numbered resources. -/

/-- A head link changed. -/
def modLink (d : Device) (h : Head) (f : HeadLink → HeadLink) : Device := { d with links := upd d.links h f }
/-- A head adapter's port begins an attempt that lasts at most `max` quarter ns (R275, R279). -/
def AdPort.begin (now max : Nat) (q : AdPort) : AdPort := { q with attempts := q.attempts + 1, trying := true, nextAt := some (now + max) }

/-- Its attempt fails: the next starts 50 µs, 100 ms or 1 s later (R277). -/
def AdPort.fail (now : Nat) (q : AdPort) : AdPort :=
  if q.trying then
    { q with trying := false, nextAt := some (now + if q.attempts < 3 then 200000 else if q.attempts = 3 then 400000000 else 4000000000) }
  else q

/-- Its lane is up: the attempt count restarts (R277). -/
def AdPort.rise (q : AdPort) : AdPort := { q with attempts := 0, trying := false, nextAt := none }

/-- The time of an attempt, or of the pause before the next one, is over (R275, R277); T1 lasts at most 1 ms (Table 11.3). -/
def AdPort.due (now : Nat) (q : AdPort) : AdPort :=
  if q.nextAt.any (fun t => decide (t ≤ now)) then (if q.trying then q.fail now else q.begin now 4000000) else q

/-- A head adapter changed. -/
def modAdapter (d : Device) (h : Head) (f : Adapter → Adapter) : Device := { d with adapters := upd d.adapters h f }
/-- A screener engine changed. -/
def modEngine (d : Device) (h : Head) (f : Engine → Engine) : Device := { d with engines := upd d.engines h f }
/-- A camera port changed. -/
def modCam (d : Device) (p : Port) (f : Cam → Cam) : Device :=
  { d with cams := { d.cams with ports := upd d.cams.ports p f } }
/-- A fabric port changed. -/
def modPort (d : Device) (p : Port) (f : FPort → FPort) : Device :=
  { d with fabric := { d.fabric with ports := upd d.fabric.ports p f } }
/-- A lane changed. -/
def modLane (d : Device) (l : LaneId) (f : Lane → Lane) : Device := { d with lanes := upd d.lanes (lanePos l) f }
/-- A lane. -/
def getLane (d : Device) (l : LaneId) : Lane := d.lanes[lanePos l]
/-- A DAC group changed. -/
def modGroup (d : Device) (g : Group) (f : DacGroup → DacGroup) : Device :=
  { d with drive := { d.drive with groups := upd d.drive.groups g f } }
/-- The drive of a head changed. -/
def modDrive (d : Device) (h : Head) (f : HeadDrive → HeadDrive) : Device :=
  { d with drive := { d.drive with heads := upd d.drive.heads h f } }
/-- A supply's state changed. -/
def modSup (d : Device) (k : Supply) (f : SupState → SupState) : Device :=
  { d with drive := { d.drive with sup := upd d.drive.sup k f } }
/-- A table's banks changed. -/
def modBank (d : Device) (t : Tbl) (f : Bank → Bank) : Device :=
  { d with banks := { d.banks with tbl := upd d.banks.tbl (tblFin t) f } }
/-- A table's banks. -/
def getBank (d : Device) (t : Tbl) : Bank := d.banks.tbl[tblFin t]
/-- A plane ring changed. -/
def modRing (d : Device) (p : Plane) (f : Ring → Ring) : Device :=
  { d with feed := { d.feed with rings := upd d.feed.rings p f } }
/-- A colour of the loop changed. -/
def modColour (d : Device) (k : Plane) (f : Colour → Colour) : Device :=
  { d with loop := { d.loop with colours := upd d.loop.colours k f } }
/-- The owner's side of a colour changed. -/
def modOwner (d : Device) (k : Plane) (f : Owner → Owner) : Device :=
  { d with loop := { d.loop with owner := upd d.loop.owner k f } }
/-- A CRC unit changed. -/
def modCrc (d : Device) (u : Fin 8) (f : CrcUnit → CrcUnit) : Device := { d with crcs := upd d.crcs u f }
/-- The DIAG counters changed. -/
def modDiag (d : Device) (f : Diag → Diag) : Device := { d with vlog := { d.vlog with diag := f d.vlog.diag } }
/-- The MBX block changed. -/
def modMbx (d : Device) (f : Mbx → Mbx) : Device := { d with mbx := f d.mbx }
/-- The fabric block changed. -/
def modFabric (d : Device) (f : Fabric → Fabric) : Device := { d with fabric := f d.fabric }
/-- The redundancy block changed. -/
def modRed (d : Device) (f : Red → Red) : Device := { d with red := f d.red }
/-- Every live counter set changed: every counted event enters all three (R20). -/
def countAll (d : Device) (f : LiveSet → LiveSet) : Device :=
  { d with acct := { d.acct with live := mapAll d.acct.live f } }
/-- The counters of a head in every live set changed. -/
def countHead (d : Device) (h : Head) (f : HeadCtr → HeadCtr) : Device :=
  countAll d (fun s => { s with heads := upd s.heads h f })

/-- A free value and the device with the draw counted (log entry 9). -/
def draw (d : Device) : U64 × Device :=
  (Config.freeValue d.chip.drawn, { d with chip := { d.chip with drawn := d.chip.drawn + 1 } })

/-- n free bytes and the device with the draw counted (log entry 9). -/
def drawBytes (n : Nat) (d : Device) : List U8 × Device :=
  ((List.range n).map (Config.freeByte d.chip.drawn), { d with chip := { d.chip with drawn := d.chip.drawn + 1 } })

/-! Interrupts (R407). -/

/-- The vector of a bit is signalled; PCI Express masking governs delivery: a masked vector sets its pending bit (R404, R407). -/
def signalVector (k : Nat) (d : Device) : Device :=
  if bitOf (memGet d.mbx.msixTable (16 * k + 12)).toNat 0 then
    modMbx d (fun m => { m with msixPending := m.msixPending ||| BitVec.ofNat 64 (2 ^ k) })
  else modMbx d (fun m => { m with vectors := k :: m.vectors })

/-- A set condition of bit k of IRQ_STATUS (Table 18.14): a bit that becomes 1 while enabled signals its vector, the RSP and EVT
vectors after IRQ_HOLDOFF (R407). -/
def setIrq (k : Nat) (d : Device) : Device :=
  if bitOf d.mbx.irqStatus.toNat k then d
  else
    let d := modMbx d (fun m => { m with irqStatus := m.irqStatus ||| BitVec.ofNat 8 (2 ^ k) })
    if bitOf d.mbx.irqEnable.toNat k then
      if k < 2 ∧ d.mbx.holdoff ≠ 0 then
        modMbx d (fun m => if k = 0 then { m with holdRsp := true } else { m with holdEvt := true })
      else signalVector k d
    else d

/-- RED of IRQ_STATUS when ROLE, PEER_ROLE, WL_LIVE or HBI_LIVE of RED_STATUS changes between two devices (Tables 18.14 and 18.27). -/
def noteRed (was d : Device) : Device :=
  if redStatus was / 4 % 16 == redStatus d / 4 % 16 && redStatus was / 256 % 4 == redStatus d / 256 % 4 then d else setIrq 4 d

/-- FAULT of IRQ_STATUS when FAULT_N becomes asserted between two devices (Table 18.14). -/
def noteFault (was : Device) (d : Device) : Device := if faultLow d && !faultLow was then setIrq 6 d else d

/-- The host memory or mailbox SRAM bytes that a ring slot takes (R339): the word that holds PHASE, at byte `at_`, is written last (R342). -/
def putSlot (base : U64) (sramAt at_ : Nat) (bs : List U8) (d : Device) : Device :=
  let word := (bs.drop at_).take 4
  if d.mbx.location then
    { d with chip := { d.chip with hostWrites :=
      (base + BitVec.ofNat 64 at_, word) :: (base + BitVec.ofNat 64 (at_ + 4), bs.drop (at_ + 4)) :: (base, bs.take at_) :: d.chip.hostWrites } }
  else modMbx d (fun m => { m with
    sram := memWrite (memWrite (memWrite m.sram sramAt (bs.take at_)) (sramAt + at_ + 4) (bs.drop (at_ + 4))) (sramAt + at_) word })

/-- The index words at INDEX_BASE, written after the slots they cover (R406). -/
def putIndices (d : Device) : Device :=
  if d.mbx.location then
    { d with chip := { d.chip with hostWrites :=
      (d.mbx.indexBase, wordBytes [d.mbx.cmdHead, d.mbx.rspTail, d.mbx.evtTail]) :: d.chip.hostWrites } }
  else d

/-- PHASE of index i in a ring of n slots: 1 on the first pass, changed at each wrap (R342). -/
def phaseOf (i : U32) (n : Nat) : Bool := (i.toNat / n) % 2 == 0

/-! Events (R348). -/

/-- An event record written at EVT_TAIL, or discarded and counted when the event ring is full (R348). -/
def writeEvent (e : Event) (d : Device) : Device :=
  if decide (d.mbx.evtSlots ≤ (d.mbx.evtTail - d.mbx.evtHead).toNat) then
    modDiag (modMbx d (fun m => { m with lostCount := min 0xFFFF (m.lostCount + 1) }))
      (fun g => { g with eventLost := satAdd g.eventLost 1 })
  else
    let e := { e with phase := phaseOf d.mbx.evtTail d.mbx.evtSlots, lost := BitVec.ofNat 16 d.mbx.lostCount }
    let i := d.mbx.evtTail.toNat % d.mbx.evtSlots
    let d := putSlot (d.mbx.evtBase + BitVec.ofNat 64 (64 * i)) (0xC000 + 64 * i) 24 e.bytes d
    let d := modMbx d (fun m => { m with events := e :: m.events, evtTail := m.evtTail + 1, lostCount := 0 })
    setIrq 1 (putIndices d)

/-! Sending on the fabric (R283, R292 to R298). -/

/-- A port is up: one of its lanes is up or in electrical idle (R282). -/
def portUp (d : Device) (p : Port) : Bool :=
  let a := d.lanes[40 + 2 * p.val]'(by omega)
  let b := d.lanes[40 + 2 * p.val + 1]'(by omega)
  a.state == .up || a.state == .idle || b.state == .up || b.state == .idle

/-- A fabric port is isolated when its partner is, on either lane (R306). -/
def portIsolated (d : Device) (p : Port) : Bool :=
  d.vlog.isolated.contains (2, BitVec.ofNat 16 (2 * p.val)) || d.vlog.isolated.contains (2, BitVec.ofNat 16 (2 * p.val + 1))

/-- The port carries frames. -/
def portOpen (d : Device) (p : Port) : Bool := portUp d p && !portIsolated d p

/-- A received frame has left the buffer of its port: its credits are granted back (R294). -/
def releaseFrame (p : Option Port) (f : DataFrame) (d : Device) : Device :=
  match p with
  | none => d
  | some p =>
    let n := frameCredits f
    let k := vcFin f.vc
    modPort d p (fun q => { q with used := upd q.used k (· - n), gSent := upd q.gSent k (· + w32 n), grantDue := true })

/-! The transmitter of a fabric port (R282, R293) -/

/-- Bytes of the data frames in a port's replay buffer (R298). -/
def replayUsed (q : FPort) : Nat := (q.replay.map (·.length.toNat)).sum

/-- Bytes of a port's transmit buffer that are free: its 64 KiB replay buffer less the frames in it and those that wait for it (R237, R298; log
entry 79). -/
def portRoom (q : FPort) : Nat := replayBytes - (replayUsed q + (q.waiting.map (·.1.length.toNat)).sum)

/-- LENGTH of a link frame (Table 12.2). -/
def linkBytes : LinkTx → Nat
  | .ack _ => 12
  | .nak _ => 12
  | .credit _ => 24
  | .creditInit _ => 16
  | .hello _ => 36
  | .timeReq _ => 16
  | .timeResp _ _ _ => 32
  | .audit _ _ _ => 28
  | .auditReply _ _ => 28

/-- The bytes of a link frame before its CRC (Table 12.2): SUB, byte 1, LENGTH and the payload. -/
def linkFrame (sub : Nat) (rsv : U8) (payload : List U8) : List U8 :=
  [BitVec.ofNat 8 (2 + 16 * sub), rsv] ++ leBytes 2 (8 + payload.length) ++ payload

/-- Four counts of 32 bits. -/
def countBytes (l : List U32) : List U8 := (List.range 4).flatMap (fun k => leBytes 4 (l.getD k 0).toNat)

/-- SUB and payload of a link frame that this node sends, without HELLO (Table 12.2); its reserved bytes are 0 (R11). -/
def linkForm : LinkTx → Nat × List U8
  | .ack n => (0, leBytes 2 n.toNat ++ [0, 0])
  | .nak n => (1, leBytes 2 n.toNat ++ [0, 0])
  | .credit g => (2, countBytes g)
  | .creditInit c => (3, (List.range 4).flatMap (fun k => leBytes 2 (c.getD k 0)))
  | .hello _ => (4, [])
  | .timeReq t => (5, leBytes 8 t)
  | .timeResp t1 t2 t3 => (6, leBytes 8 t1 ++ leBytes 8 t2 ++ leBytes 8 t3)
  | .audit m n c => (7, leBytes 2 m.toNat ++ leBytes 2 n.toNat ++ countBytes c)
  | .auditReply m g => (8, leBytes 2 m.toNat ++ [0, 0] ++ countBytes g)

/-- The CRC of a link frame folds 0 and the sending node's UID (R284). -/
def linkCrc (uid : U64) (body : List U8) : U32 := crcFold 0 (w32 uid.toNat) body

/-- The CRC of a link frame that this node sends; HELLO carries its own (R284). -/
def sentCrc (d : Device) (t : LinkTx) : U32 :=
  match t with
  | .hello m => m.crc
  | t => linkCrc d.chip.uid (linkFrame (linkForm t).1 0 (linkForm t).2)

/-- LENGTH of a frame. -/
def frameBytes : PortFrame → Nat
  | .data f => f.length.toNat
  | .link t _ => linkBytes t

/-- A frame of the first priority, which may preempt any other (R293). -/
def isUrgent : PortFrame → Bool
  | .data f => f.vc == .timing
  | .link (.timeReq _) _ => true
  | .link (.timeResp _ _ _) _ => true
  | .link _ _ => false

/-- Fabric time in units of 1/128 ns. -/
def portNow (d : Device) : Nat := 32 * d.chip.qtime

/-- A UI of a port's lanes in units of 1/128 ns, at 6.4, 12.8 and 25.6 Gbit/s (Tables 11.1 and 12.9). -/
def portUi (q : FPort) : Nat := if q.rate = 4 then 20 else if q.rate = 5 then 10 else 5

/-- A lane of a port. -/
def portLane (p : Port) (k : Fin 2) : LaneId := .fl ⟨2 * p.val + k.val, by omega⟩

/-- A lane of a port can carry frames. -/
def laneCarries (d : Device) (p : Port) (k : Fin 2) : Bool :=
  (getLane d (portLane p k)).state == .up || (getLane d (portLane p k)).state == .idle

/-- The time of a frame on a lane: its bytes and the delimiters, and the bits that stuffing adds, at most one in 25 (R268, R269). -/
def frameTime (d : Device) (p : Port) (k : Fin 2) (f : PortFrame) : Nat :=
  let q := d.fabric.ports[p]
  let bits := 8 * (frameBytes f + 4)
  portUi q * (bits + min (Config.stuffBits (40 + 2 * p.val + k.val) q.out.begun) ((bits + 24) / 25))

/-- The first frame of a channel that waits, when its credits are held and the replay buffer has room for it (R294, R298). -/
def readyFrame (q : FPort) (vc : Vc) : Option (DataFrame × Option Port) :=
  (q.waiting.find? (fun w => w.1.vc == vc)).filter (fun w =>
    decide (frameCredits w.1 ≤ q.held[vcFin vc] ∧ replayUsed q + w.1.length.toNat ≤ replayBytes))

/-- The frame of MEASURE or BULK that is next in the byte-weighted round robin at 3 to 1 (R293; log entry 80). -/
def robinFrame (q : FPort) : Option (DataFrame × Option Port) :=
  match readyFrame q .measure, readyFrame q .bulk with
  | some m, some b => if q.out.robin ≤ 0 then some m else some b
  | some m, none => some m
  | none, b => b

/-- What a port sends next. -/
inductive NextFrame where
  /-- the oldest TIME_REQ or TIME_RESP -/
  | time (t : LinkTx)
  /-- the oldest other link frame -/
  | link (t : LinkTx)
  /-- the first frame to be sent again -/
  | again (f : DataFrame)
  /-- a data frame sent for the first time, and the port in whose buffer it lies -/
  | fresh (f : DataFrame) (src : Option Port)
  deriving DecidableEq, Repr

/-- The frame that a port sends next (R293): TIME_REQ, TIME_RESP and TIMING, other link frames, CONTROL, then MEASURE and BULK. Frames sent
again keep the port sequence, so every data frame follows them (R298; log entry 80). -/
def nextFrame (q : FPort) : Option NextFrame :=
  let fresh := fun (o : Option (DataFrame × Option Port)) => o.map (fun w => NextFrame.fresh w.1 w.2)
  let urgent := match q.out.again with
    | f :: _ => if f.vc == .timing then some (NextFrame.again f) else none
    | [] => fresh (readyFrame q .timing)
  let rest := match q.out.again with
    | f :: _ => some (NextFrame.again f)
    | [] => match readyFrame q .control with
      | some w => fresh (some w)
      | none => fresh (robinFrame q)
  match q.out.times, urgent, q.out.links with
  | t :: _, _, _ => some (.time t)
  | [], some f, _ => some f
  | [], none, t :: _ => some (.link t)
  | [], none, [] => rest

/-- The frame itself, and whether it may preempt another. -/
def NextFrame.urgent : NextFrame → Bool
  | .time _ => true
  | .link _ => false
  | .again f => f.vc == .timing
  | .fresh f _ => f.vc == .timing

/-- The frame in transmission on a lane leaves it free for an urgent one: there is none, or it may be preempted, one level deep (R269, R293). -/
def laneTakes (urgent : Bool) (t : LaneTx) : Bool :=
  t.urgent.isNone && (match t.sending with | none => true | some (f, _) => urgent && !isUrgent f)

/-- The lane that takes a frame: the lowest that is free, or for an urgent one the lowest whose frame it preempts; TIME_REQ goes on the lowest
lane that is up (R282, R293, R299; log entry 80). -/
def laneFor (d : Device) (p : Port) (n : NextFrame) : Option (Fin 2) :=
  let q := d.fabric.ports[p]
  let up := ([0, 1] : List (Fin 2)).filter (laneCarries d p)
  let ks := match n with | .time (.timeReq _) => up.take 1 | _ => up
  match ks.find? (fun k => laneTakes false q.out.lanes[k]) with
  | some k => some k
  | none => ks.find? (fun k => n.urgent && laneTakes true q.out.lanes[k])

/-- A lane in electrical idle sends a wake burst before its next cell or frame, and its transmitter leaves idle (R272). -/
def wakeTx (s : Lane) : Lane :=
  if s.txIdle then { s with txIdle := false, bursts := s.bursts + 1, state := if s.state == .idle && !s.rxIdle then .up else s.state } else s

/-- The time that a frame waits before its start delimiter on a lane: for the wake burst of an idle lane, and where it preempts another frame, for that
frame's delimiter or for the stuffed bit that is due (R269, R272). -/
def frameWait (d : Device) (p : Port) (k : Fin 2) : Nat :=
  let q := d.fabric.ports[p]
  let x := q.out.lanes[k]
  match x.sending with
  | none => if (getLane d (portLane p k)).txIdle then 128000 else 0
  | some (_, r) =>
    let gone := x.whole - r
    if gone < x.lead then x.lead - gone
    else if r ≤ 3 * portUi q then r
    else if Config.stuffDue (40 + 2 * p.val + k.val) q.out.begun then portUi q else 0

/-- A frame begins on a lane of its own, or preempts the one in transmission once that has gone on for the wait (R269, R282). -/
def putFrame (f : PortFrame) (t ui wait : Nat) (x : LaneTx) : LaneTx :=
  match x.sending with
  | none => { x with sending := some (f, wait + t), whole := wait + t, lead := wait + 29 * ui }
  | some (g, r) => { x with sending := if r ≤ wait then none else some (g, r - wait), urgent := some (f, wait + t) }

/-- A frame begins on a lane; a lane in electrical idle leaves it (R272, R282). -/
def beginFrame (p : Port) (k : Fin 2) (f : PortFrame) (d : Device) : Device :=
  let t := frameTime d p k f
  let wait := frameWait d p k
  let d := modPort d p (fun q => { q with
    sent := f :: q.sent
    out := { q.out with begun := q.out.begun + 1, lanes := upd q.out.lanes k (putFrame f t (portUi q) wait) } })
  modLane d (portLane p k) wakeTx

/-- A data frame's first transmission on a port: it takes SEQ and the link's CRC, consumes credits and stays in the replay buffer (R283, R294,
R298); the node's own reserved fields are 0 (R11). -/
def sealFrame (d : Device) (q : FPort) (f : DataFrame) : DataFrame :=
  let f := { f with seq := q.txSeq, rsv := (0, 0, 0) }
  { f with crc := frameCrc d.chip.uid f }

/-- The account of the round robin after a frame: it counts while both channels have frames to send (R293; log entry 80). -/
def robinAfter (q : FPort) (f : DataFrame) : Int :=
  if (readyFrame q .measure).isNone || (readyFrame q .bulk).isNone then 0
  else if f.vc == .measure then q.out.robin + f.length.toNat
  else if f.vc == .bulk then q.out.robin - 3 * f.length.toNat
  else q.out.robin

/-- A data frame leaves the queue of a port for its transmitter. -/
def takeWaiting (f : DataFrame) (src : Option Port) (d : Device) (q : FPort) : FPort :=
  let g := sealFrame d q f
  { q with
    waiting := q.waiting.erase (f, src), txSeq := q.txSeq + 1, replay := q.replay ++ [g]
    held := upd q.held (vcFin f.vc) (· - frameCredits f), cSent := upd q.cSent (vcFin f.vc) (· + w32 (frameCredits f))
    out := { q.out with robin := robinAfter q f } }

/-- What a link frame carries of the moment at which its start delimiter leaves: T1 and T3 (R299), NEXT_SEQ and C_SENT (R295). -/
def stampLink (now : Nat) (q : FPort) : LinkTx → LinkTx
  | .timeReq _ => .timeReq (now / 32)
  | .timeResp t1 t2 _ => .timeResp t1 t2 (now / 32)
  | .audit m _ _ => .audit m q.txSeq q.cSent.toList
  | t => t

/-- The next frame of a port begins on a lane. -/
def sendNext (p : Port) (k : Fin 2) (n : NextFrame) (d : Device) : Device :=
  let q := d.fabric.ports[p]
  let link := fun (t : LinkTx) => let x := stampLink (q.out.since + frameWait d p k) q t; PortFrame.link x (sentCrc d x)
  match n with
  | .time t => beginFrame p k (link t) (modPort d p (fun q => { q with out := { q.out with times := q.out.times.drop 1 } }))
  | .link t => beginFrame p k (link t) (modPort d p (fun q => { q with out := { q.out with links := q.out.links.drop 1 } }))
  | .again f => beginFrame p k (.data f) (modPort d p (fun q => { q with out := { q.out with again := q.out.again.drop 1 } }))
  | .fresh f src => releaseFrame src f (beginFrame p k (.data (sealFrame d q f)) (modPort d p (takeWaiting f src d)))

/-- Frames begin on a port as long as a lane takes the next one, at most `fuel`. -/
def fillPort (p : Port) : Nat → Device → Device
  | 0, d => d
  | fuel + 1, d =>
    match nextFrame d.fabric.ports[p] with
    | none => d
    | some n =>
      match laneFor d p n with
      | none => d
      | some k => fillPort p fuel (sendNext p k n d)

/-- Frames that a port has still to begin. -/
def framesLeft (q : FPort) : Nat := q.waiting.length + q.out.times.length + q.out.links.length + q.out.again.length

/-- A lane of a port with nothing in transmission. -/
def laneQuiet (t : LaneTx) : Bool := t.sending.isNone && t.urgent.isNone

/-- A port with nothing in transmission. -/
def portQuiet (q : FPort) : Bool := q.out.lanes.toList.all laneQuiet

/-- Frames that wait begin as far as lanes, credits and the replay buffer allow (R293, R294, R298). -/
def pumpPort (p : Port) (d : Device) : Device :=
  if portOpen d p && !quiesced d 7 then
    let d := if portQuiet d.fabric.ports[p] then modPort d p (fun q => { q with out := { q.out with since := portNow d } }) else d
    fillPort p (framesLeft d.fabric.ports[p]) d
  else d

/-- The time after which something ends on a lane. -/
def laneRest (t : LaneTx) : Option Nat := match t.urgent, t.sending with | some (_, r), _ => some r | none, s => s.map (·.2)

/-- A lane after a time in which nothing but the frame in hand ends on it. -/
def laneAfter (n : Nat) (t : LaneTx) : LaneTx :=
  let less := fun (o : Option (PortFrame × Nat)) => o.bind (fun e => if e.2 ≤ n then none else some (e.1, e.2 - n))
  if t.urgent.isSome then { t with urgent := less t.urgent } else { t with sending := less t.sending }

/-- The time after which the next frame in transmission on a port ends. -/
def portRest (q : FPort) : Option Nat :=
  (q.out.lanes.toList.filterMap laneRest).foldl (fun m r => some (match m with | some x => min x r | none => r)) none

/-- A port after a time in which frames end only at its end. -/
def portAfter (n : Nat) (q : FPort) : FPort := { q with out := { q.out with since := q.out.since + n, lanes := mapAll q.out.lanes (laneAfter n) } }

/-- A port's transmitter run up to a time, at most `fuel` ends of frames. -/
def runPort (p : Port) (now : Nat) : Nat → Device → Device
  | 0, d => d
  | fuel + 1, d =>
    match portRest d.fabric.ports[p] with
    | none => d
    | some r =>
      let left := now - d.fabric.ports[p].out.since
      if r ≤ left then
        let d := modPort d p (portAfter r)
        runPort p now fuel (fillPort p (framesLeft d.fabric.ports[p]) d)
      else modPort d p (fun q => { portAfter left q with out := { (portAfter left q).out with since := now } })

/-- The fabric ports' transmitters at the present time. -/
def advancePorts (d : Device) : Device :=
  [0, 1, 2, 3].foldl (fun d (p : Port) =>
    if portQuiet d.fabric.ports[p] then d else runPort p (portNow d) (framesLeft d.fabric.ports[p] + 4) d) d

/-- A data frame given to a port: it is sent in its turn (R293, R294). `src` is the port in whose buffer it lies. -/
def forwardOn (src : Option Port) (p : Port) (f : DataFrame) (d : Device) : Device :=
  pumpPort p (modPort d p (fun q => { q with waiting := q.waiting ++ [(f, src)] }))

/-- A frame of this node sent on a port. -/
def sendOnPort (p : Port) (f : DataFrame) (d : Device) : Device := forwardOn none p f d

/-- A link frame given to a port: it is sent in its turn (R293). -/
def giveLink (p : Port) (t : LinkTx) (d : Device) : Device :=
  pumpPort p (modPort d p (fun q =>
    if isUrgent (.link t 0) then { q with out := { q.out with times := q.out.times ++ [t] } }
    else { q with out := { q.out with links := q.out.links ++ [t] } }))

/-- The route table entry of a destination as a number (Table 12.3). -/
def routeOf (d : Device) (dest : Nat) : Nat := (d.fabric.routes.getD dest 0).toNat

/-- The port of a unicast frame: PRIMARY, or ALT when the primary port is not up or is isolated (R292); a frame with DEST 0 goes towards
the root, through the parent port (R287). -/
def routePort (d : Device) (dest : Nat) : Option Port :=
  if dest = 0 then d.fabric.parent.filter (fun p => portOpen d p) else
  let e := routeOf d dest
  let prim : Port := finOf 4 (bitsOf e 0 2)
  let alt : Port := finOf 4 (bitsOf e 3 2)
  if bitOf e 2 && portOpen d prim then some prim
  else if bitOf e 5 && portOpen d alt then some alt else none

/-- A frame sent through every tree port but one (R292). -/
def floodExcept (skip : Option Port) (f : DataFrame) (d : Device) : Device :=
  [0, 1, 2, 3].foldl (fun d (p : Port) =>
    if bitOf (routeOf d 255) p.val && some p != skip && portOpen d p then sendOnPort p f d else d) d

/-- Whether the unit's role lets it send a message of this type (R304, R332): a standby sends pair control, and JOIN, which R287 has every
node send (log entry 60); a fenced unit relay responses only. -/
def mayEmit (d : Device) (msgType : Nat) : Bool :=
  if !paired d then true
  else match d.red.role with
    | .active => true
    | .promoting => msgType == 0x0031 || msgType == 0x0030 || msgType == 0x0040 || msgType == 0x0041 || msgType == 0x0042
    | .standby => msgType == 0x0052 || msgType == 0x0040
    | .fenced => msgType == 0x0030

/-- SRC_SEQ of the next frame to a destination on a channel (Table 12.1), and the device with it counted. -/
def takeSrcSeq (vc : Vc) (dest : U8) (d : Device) : U32 × Device :=
  let key := (vc, dest)
  match d.fabric.sendSeq.find? (fun e => e.1 == key) with
  | some e =>
    (e.2, modFabric d (fun f => { f with sendSeq := f.sendSeq.map (fun x => if x.1 == key then (x.1, x.2 + 1) else x) }))
  | none => (0, modFabric d (fun f => { f with sendSeq := f.sendSeq ++ [(key, 1)] }))

/-- A data frame of this node before a port gives it SEQ and CRC (R283). -/
def mkFrame (d : Device) (vc : Vc) (bcast dict : Bool) (dest : U8) (srcSeq : U32) (msgType : Nat) (payload : List U8) :
    DataFrame :=
  { vc := vc, bcast := bcast, hops := 0, dict := dict, length := BitVec.ofNat 16 (20 + (payload.length + 3) / 4 * 4), seq := 0,
    dest := dest, src := d.fabric.node, srcSeq := srcSeq, msgType := BitVec.ofNat 16 msgType,
    payload := padTo ((payload.length + 3) / 4 * 4) payload, crc := 0 }

/-- A broadcast message (R292); the sender's own delivery is made by the caller. -/
def broadcast (vc : Vc) (msgType : Nat) (payload : List U8) (d : Device) : Device :=
  if mayEmit d msgType && domainTakes d 7 then
    let (n, d) := takeSrcSeq vc 255 d
    floodExcept none (mkFrame d vc true false 255 n msgType payload) d
  else d

/-- A message to a node that has a route; false where there is none (R292). -/
def trySend (vc : Vc) (dict : Bool) (dest : U8) (msgType : Nat) (payload : List U8) (d : Device) : Bool × Device :=
  if mayEmit d msgType && domainTakes d 7 then
    match routePort d dest.toNat with
    | none => (false, d)
    | some p =>
      let (n, d) := takeSrcSeq vc dest d
      (true, sendOnPort p (mkFrame d vc false dict dest n msgType payload) d)
  else (false, d)

/-- The relay payload of Table 14.7. -/
def relayPayload (dir : Nat) (uid : U32) (record : List U8) : List U8 :=
  [BitVec.ofNat 8 dir, 0, 0, 0] ++ leBytes 4 uid.toNat ++ record

/-! The violation log (R25 to R28). -/

/-- The oldest FTIME_FIRST of a log. -/
def oldestFirst (l : List VEntry) : U64 := l.foldl (fun a e => if e.first < a then e.first else a) (BitVec.allOnes 64)

/-- The log without its entry with the oldest FTIME_FIRST (R27). -/
def dropOldest (l : List VEntry) : List VEntry := l.eraseP (fun e => e.first == oldestFirst l)

/-- A violation logged: merged into the entry of the same CODE, BLOCK and SOURCE, or a new entry; a full log loses its oldest entry (R26, R27); GEN
rises by 1 (Table 14.12). True for a new entry. -/
def logViolation (code : U8) (block : BitVec 5) (source : U16) (answer : BitVec 2) (d : Device) : Bool × Device :=
  let same : VEntry → Bool := fun e => e.code == code && e.block == block && e.source == source
  if d.vlog.entries.any same then
    (false, { d with vlog := { d.vlog with
        gen := d.vlog.gen + 1
        entries := d.vlog.entries.map (fun e => if same e then { e with repeats := satAdd e.repeats 1, last := ftime d } else e) } })
  else
    let e : VEntry := { code := code, block := block, answer := answer, isolated := false, source := source, repeats := 0,
                        wpos := d.pos.wpos, first := ftime d, last := ftime d }
    let full := decide (256 ≤ d.vlog.entries.length)
    let d := if full then modDiag d (fun g => { g with violLost := satAdd g.violLost 1 }) else d
    let kept := if full then (dropOldest d.vlog.entries).take 255 else d.vlog.entries
    (true, { d with vlog := { d.vlog with gen := d.vlog.gen + 1, entries := kept ++ [e] } })

/-! Events (R348, R350) -/

/-- The record of the next event, raised at a fabric time and WPOS. EVSEQ counts every event raised. -/
def eventOf (n : EvName) (args : List U32) (ft wp : U64) (d : Device) : Event :=
  { name := n, node := d.fabric.node, relayed := false, phase := false, lost := 0, evseq := d.mbx.evseq, ftime := ft, wpos := wp, args := args.take 4 }

/-- An event written to the device's own rings alone. -/
def ownEvent (n : EvName) (args : List U32) (ft wp : U64) (d : Device) : Device :=
  writeEvent (eventOf n args ft wp d) (modMbx d (fun m => { m with evseq := m.evseq + 1 }))

/-- A frame that relays an event finds no route (R292): it takes its SRC_SEQ and is discarded, NO_ROUTE is logged and EV_FABRIC_UNREACHABLE raised.
DESIGN CHOICE: these events are not relayed themselves (log entry 92). -/
def relayLost (n : U8) (d : Device) : Device :=
  if mayEmit d 0x30 && domainTakes d 7 && n != 0 && n != d.fabric.node then
    let (q, d) := takeSrcSeq .control n d
    let (new, d) := logViolation 0x3C 2 (BitVec.ofNat 16 (2 * bitsOf (routeOf d n.toNat) 0 2)) 0 d
    let d := if new then ownEvent .violation [] (ftime d) d.pos.wpos d else d
    ownEvent .fabricUnreachable [w32 n.toNat, 0x30, q] (ftime d) d.pos.wpos d
  else d

/-- An event relayed, with DIR 2, to every node that announces HOST_EVENTS, by a device that does not hold it (R350). A FENCED unit relays none (R332). -/
def relayEvent (e : Event) (d : Device) : Device :=
  if d.mbx.hostEvents || fenced d then d
  else d.fabric.hostNodes.foldl (fun d n => match trySend .control false n 0x0030 (relayPayload 2 0 e.bytes) d with
    | (true, d) => d
    | (false, d) => relayLost n d) d

/-- The record of an event is written to the device's own rings, and relayed (R348, R350). -/
def recordEvent (n : EvName) (args : List U32) (ft wp : U64) (d : Device) : Device := relayEvent (eventOf n args ft wp d) (ownEvent n args ft wp d)

/-- An event raised (R348). Before the command interface is ready it is kept, to be written after EV_BOOTED (R18, log entry 11). -/
def raise (n : EvName) (args : List U32) (d : Device) : Device :=
  if d.nv.stage == .ready then recordEvent n args (ftime d) d.pos.wpos d
  else modMbx d (fun m => { m with held := m.held ++ [(n, args, ftime d, d.pos.wpos)] })

/-! Violations raised (R25 to R28). -/

/-- A violation logged (R26, R27), with EV_VIOLATION for a new entry. -/
def violation (code : U8) (block : BitVec 5) (source : U16) (answer : BitVec 2) (d : Device) : Device :=
  match logViolation code block source answer d with
  | (true, d) => raise .violation [] d
  | (false, d) => d

/-- A violation of Table 12.7 on a port, under its first lane (R306). -/
def fabViolation (code : U8) (p : Port) (ans : BitVec 2) (d : Device) : Device :=
  violation code 2 (BitVec.ofNat 16 (2 * p.val)) ans d

/-- A message of this node to a node; false when there is no route: the frame that takes its SRC_SEQ is discarded, NO_ROUTE is logged, under the port of
its primary route, and this node, its source, raises EV_FABRIC_UNREACHABLE (R292; log entry 92). -/
def sendTo (vc : Vc) (dict : Bool) (dest : U8) (msgType : Nat) (payload : List U8) (d : Device) : Bool × Device :=
  match trySend vc dict dest msgType payload d with
  | (true, d) => (true, d)
  | (false, d) =>
    if mayEmit d msgType && domainTakes d 7 && dest != 0 && dest != d.fabric.node then
      let (n, d) := takeSrcSeq vc dest d
      (false, raise .fabricUnreachable [w32 dest.toNat, w32 msgType, n]
        (fabViolation 0x3C (finOf 4 (bitsOf (routeOf d dest.toNat) 0 2)) 0 d))
    else (false, d)

/-- UNREACHABLE to the source of a frame (R292, R304). -/
def sendUnreachable (f : DataFrame) (d : Device) : Device :=
  (sendTo .control false f.src 0x0043
    ([f.dest, 0, 0, 0] ++ leBytes 2 f.msgType.toNat ++ [0, 0] ++ leBytes 4 f.srcSeq.toNat) d).2

/-- EV_ACCOUNTING_BREAK with its condition, and BROKEN in every open live set (R13). -/
def accountingBreak (cond : Nat) (d : Device) : Device :=
  raise .accountingBreak [w32 cond] (countAll d (fun s => { s with broken := true }))

/-! DRAM (chapter 10). -/

/-- Usable capacity: 15/16 of the physical capacity (chapter 10). -/
def usable (d : Device) : Nat := d.dram.physical / 16 * 15

/-- A sweep runs: requests are held (R254). -/
def sweeping (d : Device) : Bool := d.dram.work.isSome && !d.dram.holding

/-- Requests are held: during a sweep, in a trip and in self-refresh (R254, R255, R264). -/
def holdsRequests (d : Device) : Bool := sweeping d || d.therm.trip || d.dram.selfRefresh

/-- D_MEM accepts requests: it does not quiesce (Table 15.5). -/
def memTakes (d : Device) : Bool := !quiescing d 4

/-- The DRAM serves requests. -/
def dramServes (d : Device) : Bool := d.dram.ok && !holdsRequests d

/-- The point in training. -/
def workPoint : MemWork → Option (Fin 3)
  | .train ps _ => ps.head?
  | .freq p => some p
  | .seek ps => ps.head?

/-- The training of a point begins: with a record it begins with the verify (R252). -/
def aimAt (w : MemWork) (m : Dram) : Dram :=
  { m with work := some w, tries := 0, verify := match workPoint w with | some p => m.records[p].isSome | none => false }

/-! Rows, banks and check lines (R244, R246, R247, R262, R263) -/

/-- The memory block changed. -/
def modDram (d : Device) (f : Dram → Dram) : Device := { d with dram := f d.dram }

/-- The channel of a device DRAM address, and its channel data address. -/
def channelOf (a : Nat) : Port × Nat := (finOf 4 (a / 512 % 4), a / 512 / 4 * 512 + a % 512)

/-- Ranks of a channel. -/
def ranksOf (d : Device) : Nat := match d.dram.dies with | x :: _ => max 1 x.ranks | [] => 1

/-- Bytes of a rank of a channel. -/
def rankSize (d : Device) : Nat := max 32768 (d.dram.physical / 4 / ranksOf d)

/-- Channel, rank, bank and row of an address of a channel (R246); a row holds 2 KiB of a bank, and a rank has 16 banks (log entry 58). -/
def rowAt (d : Device) (ch : Port) (l : Nat) : BankId × Nat :=
  let row := l % rankSize d / 32768
  ((ch.val, l / rankSize d, Nat.xor (l % rankSize d / 2048 % 16) (row % 16)), row)

/-- Channel, rank, bank and row of a device DRAM address. -/
def rowOf (d : Device) (a : Nat) : BankId × Nat := rowAt d (channelOf a).1 (channelOf a).2

/-- The row of a check line of a channel; the check region lies behind the channel's data (R246, log entry 58). -/
def lineRow (d : Device) (ch : Port) (line : Nat) : BankId × Nat := rowAt d ch (usable d / 4 + 32 * line)

/-- Bank-group mode, 4 groups of 4 banks, at 6400 and 4267 MT/s; 16-bank mode at 3200 MT/s (Table 10.1). -/
def bankGroups (p : Fin 3) : Bool := p != 2

/-- Bytes of a burst on a 16-bit channel: BL32 in bank-group mode, BL16 in 16-bank mode (Table 10.1). -/
def burstBytes (p : Fin 3) : Nat := if bankGroups p then 64 else 32

/-- Rows of a bank. -/
def bankRows (d : Device) : Nat := rankSize d / 32768

/-- The rows that a victim refresh of row r refreshes: r − 2, r − 1, r + 1 and r + 2, without those beyond the bank's ends (R262). -/
def neighbourRows (d : Device) (r : Nat) : List Nat :=
  (if 2 ≤ r then [r - 2] else []) ++ (if 1 ≤ r then [r - 1] else []) ++ [r + 1, r + 2].filter (fun x => decide (x < bankRows d))

/-- A bank is free for a victim refresh: none occupies it, and no forced catch-up its rank (R263, Table 10.6). -/
def bankFree (d : Device) (b : BankId) : Bool :=
  d.dram.victims.all (fun v => v.bank != b) && decide ((d.dram.catchUp[(finOf 4 b.1 : Port)])[(finOf 2 b.2.1 : Fin 2)] ≤ d.chip.qtime)

/-- A victim refresh begins and occupies its bank for a free time of at most 500 ns (R263, log entry 9). -/
def beginVictim (b : BankId) (row : Nat) (d : Device) : Device :=
  let (v, d) := draw d
  modDram d (fun m => { m with
    victims := m.victims ++ [⟨b, row, d.chip.qtime + v.toNat % 2001⟩], victimRows := m.victimRows ++ [(b, neighbourRows d row)] })

/-- The order of banks in the queue of victim refreshes. -/
def bankLe (a b : BankId) : Bool :=
  decide (a.1 < b.1 ∨ (a.1 = b.1 ∧ (a.2.1 < b.2.1 ∨ (a.2.1 = b.2.1 ∧ a.2.2 ≤ b.2.2))))

/-- A victim refresh is due: it begins, or waits in bank order (R263). -/
def dueVictim (b : BankId) (row : Nat) (d : Device) : Device :=
  if bankFree d b then beginVictim b row d
  else modDram d (fun m => { m with victimQueue := sortBy (fun x y => bankLe x.1 y.1) (m.victimQueue ++ [(b, row)]) })

/-! Activations (R262, R263) -/

/-- The first entry with the lowest count of a full row activation table. -/
def lowestRow (t : List (Nat × Nat)) : Nat × Nat :=
  t.foldl (fun m e => if e.2 < m.2 then e else m) (t.headD (0, 0))

/-- One activation of a row in its bank's table of 32 entries, and the row's count (R262). -/
def activate (t : List (Nat × Nat)) (row : Nat) : List (Nat × Nat) × Nat :=
  match t.find? (fun e => e.1 == row) with
  | some e => (t.map (fun x => if x.1 == row then (row, e.2 + 1) else x), e.2 + 1)
  | none =>
    if t.length < 32 then (t ++ [(row, 1)], 1)
    else
      let low := lowestRow t
      (t.map (fun x => if x == low then (row, low.2 + 1) else x), low.2 + 1)

/-- An activation counted towards refresh management: an RFM command when the count reaches what a die's MR27 asks for (R263). -/
def countActivation (ch : Port) (rank : Fin 2) (d : Device) : Device :=
  let n := (d.dram.acts[ch])[rank] + 1
  let asks := match (d.dram.dies[ch.val]?).bind (fun x => x.rfm[rank]) with | some k => decide (k ≤ n) | none => false
  modDram d (fun m => { m with
    acts := upd m.acts ch (fun v => upd v rank (fun _ => bif asks then 0 else n))
    rfms := bif asks then upd m.rfms ch (fun v => upd v rank (· + 1)) else m.rfms })

/-- An activation of a row; a count that reaches THRESHOLD refreshes the row's neighbours, restarts from 0 and is counted in DIAG (R262). -/
def hammer (at_ : BankId × Nat) (d : Device) : Device :=
  let (key, row) := at_
  let t := match d.dram.rows.find? (fun e => e.1 == key) with | some e => e.2 | none => []
  let (t, n) := activate t row
  let hit := decide (d.dram.threshold ≤ n)
  let t := if hit then t.map (fun e => if e.1 == row then (row, 0) else e) else t
  let d := countActivation (finOf 4 key.1) (finOf 2 key.2.1)
    (modDram d (fun m => { m with rows := (key, t) :: m.rows.filter (fun e => e.1 != key) }))
  if hit then dueVictim key row (modDiag d (fun g => { g with dramVictim := satAdd g.dramVictim 1 })) else d

/-! Check lines (R247) -/

/-- A channel's traffic counted. -/
def countTraffic (ch : Port) (f : Traffic → Traffic) (d : Device) : Device := modDram d (fun m => { m with traffic := upd m.traffic ch f })

/-- The check line of block n is cached. -/
def lineCached (d : Device) (n : Nat) : Bool := (d.dram.lines[(finOf 4 (n % 4) : Port)]).any (fun e => e.1 == n / 4)

/-- The check line of block n used: read where it is not cached, and marked where it changes. The line used the longest ago gives way, and is
written back where it has changed; both activate its row (R247, R262; log entry 81). -/
def useLine (change : Bool) (n : Nat) (d : Device) : Device :=
  let ch : Port := finOf 4 (n % 4)
  let all := d.dram.lines[ch]
  let was := match all.find? (fun e => e.1 == n / 4) with | some e => e.2 | none => false
  let d := if lineCached d n then d
    else hammer (lineRow d ch (n / 4)) (countTraffic ch (fun t => { t with lineReads := t.lineReads + 1 }) d)
  let l := (n / 4, was || change) :: all.filter (fun e => e.1 != n / 4)
  let d := ((l.drop 64).filter (·.2)).foldl (fun d e =>
    hammer (lineRow d ch e.1) (countTraffic ch (fun t => { t with lineWrites := t.lineWrites + 1 }) d)) d
  modDram d (fun m => { m with lines := upd m.lines ch (fun _ => l.take 64) })

/-! Accesses (R244, R247, R262) -/

/-- Blocks of 512 bytes of a range. -/
def blocksOf (a n : Nat) : List Nat := if n = 0 then [] else (List.range ((a + n - 1) / 512 - a / 512 + 1)).map (· + a / 512)

/-- Granules of a range. -/
def granulesOf (a n : Nat) : List Nat := if n = 0 then [] else (List.range ((a + n - 1) / 32 - a / 32 + 1)).map (· + a / 32)

/-- A range holds granule g only in part. -/
def inPart (a n g : Nat) : Bool := decide (g * 32 < a ∨ a + n < g * 32 + 32)

/-- Bytes of a range that lie in block b. -/
def partOf (a n b : Nat) : Nat := min (a + n) (512 * b + 512) - max a (512 * b)

/-- The accesses of a request to a range (R247, R262, log entry 58): an activation of each row that it comes to, its bursts and check lines block by
block, and for a write of part of a granule the read of that granule. -/
def touch (write : Bool) (a n : Nat) (d : Device) : Device :=
  let bs := blocksOf a n
  let d := ((bs.map (fun b => rowOf d (512 * b))).eraseDups).foldl (fun d r => hammer r d) d
  let d := bs.foldl (fun d b => useLine write b (countTraffic (channelOf (512 * b)).1 (fun t => { t with
    bursts := t.bursts + (partOf a n b + burstBytes d.dram.point - 1) / burstBytes d.dram.point }) d)) d
  let parts := if write then (granulesOf a n).filter (inPart a n) else []
  parts.foldl (fun d g => countTraffic (channelOf (32 * g)).1 (fun t => { t with bursts := t.bursts + 1 }) d) d

/-- A unit reads a range of DRAM: the accesses that it makes; none reach the controller while it holds requests (R254). -/
def dramSee (a n : Nat) (d : Device) : Device := if holdsRequests d then d else touch false a n d

/-- A range lies wholly below the usable capacity (R430). -/
def inDram (d : Device) (a n : Nat) : Bool := decide (a + n ≤ usable d)

/-- A range lies wholly inside the job store (R430). -/
def inStore (d : Device) (a n : Nat) : Bool := decide (d.mbx.storeBase ≤ a ∧ a + n ≤ d.mbx.storeBase + d.mbx.storeSize)

/-- The first poisoned granule of a range, as a device DRAM address (Table 10.2). -/
def poisonIn (d : Device) (a n : Nat) : Option Nat :=
  (d.dram.poison.find? (fun g => decide (g * 32 < a + n ∧ a < g * 32 + 32))).map (· * 32)

/-- n bytes of DRAM. -/
def dramRead (d : Device) (a n : Nat) : List U8 := memRead d.dram.data a n

/-- A read through BAR2 completes (R247, Table 10.2): with poisoned data and an AER non-fatal error where a granule of it is poisoned. -/
def completeRead (a n : Nat) (d : Device) : Device :=
  let ep := (poisonIn d a n).isSome
  { d with chip := { d.chip with completions := (dramRead d a n, ep) :: d.chip.completions, aer := d.chip.aer + b2n ep } }

/-- A number of n bytes in DRAM. -/
def dramLe (d : Device) (a n : Nat) : Nat := leAt (dramRead d a n) 0 n

/-- An error record appended (R248). -/
def memError (a source kind : Nat) (d : Device) : Device :=
  { d with dram := { d.dram with errors := d.dram.errors ++ [⟨a, a / 512 % 4, source, kind, ftime d⟩] } }

/-- The part of a write that falls into one granule (R248): a part of a poisoned granule is discarded and recorded; a whole granule
replaces the poisoned data and clears the poison. -/
def writeGranule (source a : Nat) (bs : List U8) (d : Device) : Device :=
  let g := a / 32
  if d.dram.poison.contains g then
    if bs.length = 32 then
      { d with dram := { d.dram with data := memWrite d.dram.data a bs, poison := d.dram.poison.filter (· != g) } }
    else memError a source 2 d
  else { d with dram := { d.dram with data := memWrite d.dram.data a bs } }

/-- A write cut at granule boundaries, at most `fuel` granules. -/
def writeGranules (source : Nat) : Nat → Nat → List U8 → Device → Device
  | 0, _, _, d => d
  | fuel + 1, a, bs, d =>
    if bs.isEmpty then d
    else
      let n := 32 - a % 32
      writeGranules source fuel (a + n) (bs.drop n) (writeGranule source a (bs.take n) d)

/-- VALID_THROUGH notes with no range ahead are settled: the repeats below them are mirrored (R316). -/
def settleNotes (r : Red) : Red :=
  let ready := r.mirrorNotes.filter (fun n => n.1 == 0)
  { r with
    mirrorNotes := r.mirrorNotes.filter (fun n => n.1 != 0)
    mirrored := ready.foldl (fun m n => (n.2.1, n.2.2) :: m.filter (fun e => e.1 != n.2.1)) r.mirrored }

/-- n ranges of the mirror ring, all sent, are acknowledged (R316, R318). -/
def popMirror (n : Nat) (d : Device) : Device :=
  modRed d (fun r => settleNotes { r with
    mirrorRing := r.mirrorRing.drop n, mirrorMarks := r.mirrorMarks.drop n
    mirrorNotes := r.mirrorNotes.map (fun x => (x.1 - n, x.2)) })

/-- The whole job store is sent again; the noted VALID_THROUGHs wait for it (R316, R317). -/
def mirrorPass (d : Device) : Device :=
  modRed d (fun r => { r with
    mirrorRing := [(d.mbx.storeBase, d.mbx.storeSize)], mirrorMarks := [], mirrorAt := 0, mirrorNotes := r.mirrorNotes.map (fun n => (1, n.2)) })

/-- A written range of the job store logged for the mirror by an ACTIVE unit of a pair (R316): a ring of 4,096 entries, whose
overflow raises EV_MIRROR_RESYNC and sends the whole job store again. -/
def logMirror (a n : Nat) (d : Device) : Device :=
  if paired d && d.red.role == .active && decide (d.mbx.storeBase < a + n ∧ a < d.mbx.storeBase + d.mbx.storeSize) then
    if 4096 ≤ d.red.mirrorRing.length then
      raise .mirrorResync [] (mirrorPass d)
    else modRed d (fun r => { r with mirrorRing := r.mirrorRing ++ [(a, n)] })
  else d

/-- Bytes written to DRAM by a source of Table 10.5, as the controller performs it. -/
def dramPut (source a : Nat) (bs : List U8) (d : Device) : Device :=
  if bs.isEmpty then d else logMirror a bs.length (writeGranules source (bs.length + 1) a bs (touch true a bs.length d))

/-- Bytes that a source of Table 10.5 writes to DRAM: performed, or held with the other requests while the controller holds them (R254, R264). -/
def dramWrite (source a : Nat) (bs : List U8) (d : Device) : Device :=
  if holdsRequests d then
    { d with dram := { d.dram with waiting := d.dram.waiting ++ [⟨finOf 10 source, a, some bs, 0, []⟩] } }
  else dramPut source a bs d

/-! Responses and the memory of completed commands (R345, R346, R431, R433). -/

/-- Whose memory of completed commands a command belongs to (R346, R349, R352). -/
def keyOf : Origin → RingKey
  | .ring => .own
  | .mgmt => .mgmt
  | .relay _ uid => .uid uid

/-- The UID whose low word R344 folds. -/
def uidOf (d : Device) : Origin → U32
  | .relay _ uid => uid
  | _ => w32 d.chip.uid.toNat

/-- The largest response of a transport and the reason of R431 when one is larger. -/
def responseLimit (d : Device) : Origin → Nat × Reason
  | .ring => (d.mbx.slotSize, .slotSize)
  | .mgmt => (252, .smbusSize)
  | .relay _ _ => (2040, .relaySize)

/-- A response replaced under R431 when its transport does not take it. -/
def fitResponse (d : Device) (o : Origin) (resp : Response) : Response :=
  let lim := responseLimit d o
  if lim.1 < resp.length then
    { resp with status := Status.badLength.code, reason := lim.2, detail := w32 resp.length, results := [] }
  else resp

/-- The response to a command (Table 14.3), replaced under R431 when it does not fit. -/
def mkResponse (d : Device) (o : Origin) (op : U16) (tag : BitVec 6) (seq : U32) (tagless : Bool) (orig : U8) (r : Reply) :
    Response :=
  fitResponse d o {
    opcode := op, tag := tag, status := r.status.code, node := d.fabric.node, tagless := tagless,
    phase := phaseOf d.mbx.rspTail d.mbx.slots, seq := seq, orig := orig, reason := r.reason, detail := r.detail,
    results := r.results }

/-- A response leaves by its transport: written at RSP_TAIL with IRQ_STATUS.RSP, held for the management Block Read, or sent with
DIR 1 to the relaying node (R339, R349, R352), by a FENCED unit only one to a command of group 0x07 (R332). -/
def deliver (o : Origin) (resp : Response) (d : Device) : Device :=
  match o with
  | .ring =>
    let i := d.mbx.rspTail.toNat % d.mbx.slots
    let d := putSlot (d.mbx.rspBase + BitVec.ofNat 64 (d.mbx.slotSize * i)) (0x6000 + d.mbx.slotSize * i) 4
      (resp.bytes (w32 d.chip.uid.toNat)) d
    let d := modMbx d (fun m => { m with responses := resp :: m.responses, rspTail := m.rspTail + 1 })
    setIrq 0 (putIndices d)
  | .mgmt => modMbx d (fun m => { m with mgmtResp := some resp, mgmtState := 2 })
  | .relay src uid =>
    if fenced d && resp.opcode.toNat / 256 != 7 then d else (sendTo .control false src 0x0030 (relayPayload 1 uid (resp.bytes uid)) d).2

/-- A completed command remembered, newest first: the 64 most recent of each ring, 16 of the management transport (R346, R352). -/
def remember (e : Remembered) (d : Device) : Device :=
  let mine := (e :: d.mbx.remembered.filter (fun x => x.key == e.key)).take (if e.key == .mgmt then 16 else 64)
  modMbx d (fun m => { m with remembered := mine ++ m.remembered.filter (fun x => x.key != e.key) })

/-- The event of an ASYNC command whose work is done (R346): its final response is remembered, and EV_COMMAND_DONE carries SEQ, OPCODE and the final
STATUS. -/
def commandDone (e : InFlight) (r : Reply) (d : Device) : Device :=
  let resp := mkResponse d e.origin e.opcode e.tag e.seq false 0 r
  let d := modMbx d (fun m => { m with inFlight := m.inFlight.erase e })
  raise .commandDone [e.seq, w32 e.opcode.toNat, w32 resp.status.toNat] (remember ⟨keyOf e.origin, e.seq, e.opcode, e.length, e.digest, resp⟩ d)

/-- The final response of an accepted command without ASYNC: remembered and delivered (R345, R346). -/
def answer (e : InFlight) (r : Reply) (d : Device) : Device :=
  let resp := mkResponse d e.origin e.opcode e.tag e.seq false 0 r
  deliver e.origin resp (remember ⟨keyOf e.origin, e.seq, e.opcode, e.length, e.digest, resp⟩ d)

/-- The work of an accepted command is done: its final response, or for ASYNC the final status that COMMAND_DONE reports (R346). -/
def finish (e : InFlight) (r : Reply) (d : Device) : Device :=
  if e.async then
    modMbx d (fun m => { m with inFlight := m.inFlight.map (fun x => if x == e then { x with work := .done, final := some r } else x) })
  else answer e r (modMbx d (fun m => { m with inFlight := m.inFlight.erase e }))

/-- The oldest accepted command whose work satisfies a test is done. -/
def finishWork (p : Work → Bool) (r : Reply) (d : Device) : Device :=
  match d.mbx.inFlight.find? (fun e => p e.work) with
  | some e => finish e r d
  | none => d

/-- Every accepted command whose work satisfies a test is done: each has its one response (R18). -/
def finishAll (p : Work → Bool) (r : Reply) (d : Device) : Device :=
  (d.mbx.inFlight.filter (fun e => p e.work)).foldl (fun d e => finish e r d) d

/-- The first place of ROTATION that names a running port (R181). -/
def firstPlace (c : Cams) : Option (Fin 4) := (List.finRange 4).find? (fun i => (c.ports[c.rotation.getD i.val 0]).running)

/-- Some accepted command's work satisfies a test. -/
def hasWork (p : Work → Bool) (d : Device) : Bool := d.mbx.inFlight.any (fun e => p e.work)

/-- The work is a relayed command or a job's closing fence at another node (R350, R357). -/
def Work.isRemote : Work → Bool
  | .relay _ _ => true
  | .fence _ _ _ => true
  | _ => false

/-- The work is a closing fence at a node (R357). -/
def Work.isFenceAt (n : U8) : Work → Bool
  | .fence m _ _ => m == n
  | _ => false

/-- Node and SRC_SEQ of the frame that carries a closing fence (R350, R357). -/
def Work.fenceFrame : Work → Option (U8 × U32)
  | .fence n _ q => some (n, q)
  | _ => none

/-- The node that a relayed command was sent to. -/
def Work.relayNode : Work → Option U8
  | .relay n _ => some n
  | _ => none

/-- The bytes that a closing fence has moved (R357). -/
def Work.moved : Work → Nat
  | .fence _ m _ => m
  | _ => 0

/-- The work is a screen.capture (R86). -/
def Work.isCapture : Work → Bool
  | .capture _ _ _ _ => true
  | _ => false

/-- A journal or firmware program. -/
def FlashWork.isRecord : FlashWork → Bool
  | .journal _ _ => true
  | .firmware _ => true
  | _ => false

/-- The epoch and role of an epoch record (R308). -/
def FlashWork.epochOf : FlashWork → Option (U32 × Role)
  | .epoch e r => some (e, r)
  | _ => none

/-! The checks of a Mervan command. -/

/-- What a command's signature in the tables of the chapters is. -/
structure Sig where
  /-- OPCODE -/
  opcode : U16
  /-- fixed arguments in table order -/
  args : List Arg := []
  /-- one repeated entry -/
  rep : List Arg := []
  /-- gated (Table 14.9) -/
  gated : Bool := false
  /-- Table 14.5: may take longer than 10 ms -/
  slow : Bool := false
  /-- needs DRAM (R390, R385) -/
  dram : Bool := false
  /-- makes no access to DRAM itself, so a sweep does not hold it (R254, R255, R258) -/
  sweeps : Bool := false
  /-- needs a domain that a trip stops: D_DP, D_CAM or D_DAC (R385) -/
  stops : Bool := false
  /-- the domain in which the command begins work: while that quiesces it answers BUSY_STATE (R367; log entry 94) -/
  works : Option (Fin 9) := none
  /-- the DRAM ranges the arguments name: address, bytes, must lie in the job store (R430) -/
  ranges : List Int → List (Nat × Nat × Bool) := fun _ => []
  /-- the command reads those ranges -/
  reads : Bool := false
  /-- words of the results where they follow from the arguments (R431) -/
  results : List Int → Nat := fun _ => 0

/-- What a command's own rule does: it replies, or its reply comes with a later row. -/
inductive Done where
  | reply (r : Reply) (d : Device)
  /-- replies, and the effect `f` follows the response (R338, R370) -/
  | after (r : Reply) (d : Device) (f : Device → Device)
  | later (w : Work) (d : Device)

/-- A reply without results. -/
def ok (d : Device) (results : List U32 := []) : Done := .reply { results := results } d
/-- A negative reply. -/
def no (d : Device) (st : Status) (r : Reason := .none) (detail : Nat := 0) : Done :=
  .reply { status := st, reason := r, detail := w32 detail } d

/-- OPCODEs that the transport accepts in SLEEP (R353). -/
def sleepAdmits (op : U16) (args : List U32) : Bool :=
  op == 0x0001 || op == 0x0006 || op.toNat / 256 == 7 || op == 0x0801 || (op == 0x0800 && args.getD 0 1 == 0)

/-- A poisoned granule met by a command (Table 10.2): BAD_CRC with reason POISONED and its address in the first two words. -/
def poisoned (a : Nat) (d : Device) : Done := .reply { status := .badCrc, reason := .poisoned, results := w64 a } d

/-- The management transport does not take the command in this power state, or at all (R353). -/
def transportRefuses (g : Sig) (c : Cmd) (d : Device) : Bool :=
  c.origin == .mgmt && ((d.pwr.state == .sleep && !sleepAdmits g.opcode c.args) || g.opcode == 0x0002 || g.opcode == 0x0010)

/-- The DRAM ranges that a command reads, met by the controller (R247, R262). -/
def readRanges (g : Sig) (a : List Int) (d : Device) : Device := if g.reads then (g.ranges a).foldl (fun d r => dramSee r.1 r.2.1 d) d else d

/-- R345's checks 5 to 8 once the arguments are read. NO_DRAM comes before the address ranges (R430); Stolzar mode answers every group but four
STOLZAR_MODE (R358), and that, POWER_STATE (R353) and THERMAL (R385) stand before the command's other rules (log entry 44). -/
def checkAndRun (g : Sig) (c : Cmd) (body : Cmd → List Int → Device → Done) (a : List Int) (d : Device) : Done :=
  if g.gated && (d.prs.loopOpen || (d.prs.latch && g.opcode != 0x000B)) then no d .sealBroken
  else if g.gated && !d.prs.window then no d .needsPresence
  else if g.dram && !d.dram.ok then no d .refused .noDram
  else if (g.ranges a).any (fun r => !inDram d r.1 r.2.1 || (r.2.2 && !inStore d r.1 r.2.1)) then no d .badArgument .address
  else if (responseLimit d c.origin).1 < 52 + 4 * g.results a then
    no d .badLength (responseLimit d c.origin).2 (52 + 4 * g.results a)
  else if d.chip.modeSz && !([0x00, 0x08, 0x09, 0x0F].contains (g.opcode.toNat / 256)) then no d .refused .stolzarMode
  else if transportRefuses g c d then no d .refused .powerState
  else if (g.dram || g.stops) && d.therm.trip then no d .refused .thermal
  else if g.works.any (fun k => quiescing d k.val) then no d .busyState
  else body c a (readRanges g a d)

/-- The command is relayed to another node, so this device makes entry checks 1, 2 and 6 only (R349): one of its rings or of the management
transport that names a node other than this one. -/
def relayedOut (c : Cmd) (d : Device) : Bool :=
  (match c.origin with | .relay _ _ => false | _ => true) && c.node != 0 && c.node != 255 && c.node != d.fabric.node

/-- A command that names another node (R349): LENGTH, and ASYNC for a command of Table 14.5; then it goes to that node, unless this unit is FENCED and
sends no such message (R332). -/
def relayCommand (g : Sig) (c : Cmd) (d : Device) : Done :=
  if 2040 < c.length.toNat then no d .badLength .relaySize
  else if g.slow && !c.async then no d .badArgument .asyncRequired
  else if transportRefuses g c d then no d .refused .powerState
  else if fenced d then no d .refused .unreachable
  else
    match sendTo .control false c.node 0x0030 (relayPayload 0 (w32 d.chip.uid.toNat)
        (cmdHeader g.opcode c ++ wordBytes c.args ++ leBytes 4 c.crc.toNat)) d with
    | (true, e) => .later (.relay c.node (takeSrcSeq .control c.node d).1) e
    | (false, e) => no e .refused .unreachable

/-- R345's checks. Group 0x0F is unknown in native mode (R1, R358). -/
def checked (g : Sig) (c : Cmd) (body : Cmd → List Int → Device → Done) (d : Device) : Done :=
  if !d.chip.modeSz && g.opcode.toNat / 256 == 0x0F then no d .badOpcode
  else if c.node = 255 then no d .badArgument .node
  else if relayedOut c d then relayCommand g c d
  else if !argsFit c.args g.args g.rep then no d .badLength .args
  else if c.rsvTag ≠ 0 ∨ c.rsvFlag ≠ 0 ∨ c.rsvNode ≠ 0 ∨ c.rsvWord ≠ 0 then no d .badArgument
  else
    match parseArgs c.args g.args g.rep with
    | .error true => no d .badArgument .field
    | .error false => no d .badArgument
    | .ok a => checkAndRun g c body a d

/-- A TAGLESS answer of Table 14.4, with bytes 0 to 15 of the command as results (R345). -/
def tagless (g : Sig) (c : Cmd) (st : Status) (r : Reason) (d : Device) : Device :=
  deliver c.origin (mkResponse d c.origin g.opcode c.tag c.seq true 0
    { status := st, reason := r, results := bytesWords (cmdHeader g.opcode c) }) d

/-- The DUPLICATE answer of R346: the remembered results, at most those of the first 512 bytes, with the original STATUS, REASON
and DETAIL. A relay target's DUPLICATE is written under the relaying device's tag. -/
def duplicate (g : Sig) (c : Cmd) (m : Remembered) (d : Device) : Device :=
  let cut := decide (512 < m.resp.length)
  deliver c.origin (mkResponse d c.origin g.opcode c.tag c.seq true m.resp.status
    { status := .duplicate, reason := if cut then .truncated else m.resp.reason, detail := m.resp.detail,
      results := m.resp.results.take 116 }) d

/-- SOURCE of a violation of Table 14.4: the TAG field as written (R345). -/
def tagSource (c : Cmd) : U16 := BitVec.ofNat 16 c.tag.toNat

/-- The in-flight entry of a command with given work. -/
def entryOf (g : Sig) (c : Cmd) (w : Work) : InFlight :=
  { origin := c.origin, opcode := g.opcode, tag := c.tag, seq := c.seq, length := c.length, digest := cmdDigest c,
    async := c.async, work := w, final := none }

/-- A command that is done: its response, or with ASYNC and every check passed ACCEPTED and its final status kept (R346). -/
def complete (g : Sig) (c : Cmd) (r : Reply) (d : Device) : Device :=
  if c.async && (r.status == .ok || r.status == .deferred) && !relayedOut c d then
    let d := deliver c.origin (mkResponse d c.origin g.opcode c.tag c.seq false 0 { status := .accepted }) d
    modMbx d (fun m => { m with inFlight := m.inFlight ++ [{ entryOf g c .done with final := some r }] })
  else answer (entryOf g c .done) r d

/-- An accepted command whose work goes on: it stays in flight, and with ASYNC it is answered ACCEPTED at once (R345, R346). -/
def await (g : Sig) (c : Cmd) (w : Work) (d : Device) : Device :=
  if c.async && !relayedOut c d then
    let d := deliver c.origin (mkResponse d c.origin g.opcode c.tag c.seq false 0 { status := .accepted }) d
    modMbx d (fun m => { m with inFlight := m.inFlight ++ [entryOf g c w] })
  else modMbx d (fun m => { m with inFlight := m.inFlight ++ [{ entryOf g c w with async := false }] })

/-- What follows from a command's own rule: its response, its response and then the effect that follows it, or its work. -/
def settle (g : Sig) (c : Cmd) : Done → Device
  | .reply r d => complete g c r d
  | .after r d f => f (complete g c r d)
  | .later w d => await g c w d

/-- The command has passed every check: it is done, or its work goes on. -/
def Done.passes : Done → Bool
  | .reply r _ => r.status == .ok || r.status == .deferred
  | .after r _ _ => r.status == .ok || r.status == .deferred
  | .later _ _ => true

/-- An accepted command is checked and run (R345). Without ASYNC it answers now or stays in flight. With ASYNC a failed check is
answered directly, and a command that passes every check is answered ACCEPTED, its final status following with COMMAND_DONE
(R346); the seventeenth incomplete one that passes them answers ASYNC_FULL and has no effect. -/
def accept (g : Sig) (c : Cmd) (body : Cmd → List Int → Device → Done) (d : Device) : Device :=
  let r := checked g c body d
  if c.async && decide (16 ≤ asyncOpen d) && !relayedOut c d && r.passes then
    answer (entryOf g c .done) { status := .busyState, reason := .asyncFull } d
  else settle g c r

/-- The entry checks of Table 14.4 in order, then acceptance (R345). No credit or tag applies to the management transport (R352),
and a relay target makes checks 3 to 5 only (R349). -/
def enter (g : Sig) (c : Cmd) (body : Cmd → List Int → Device → Done) (d : Device) : Device :=
  let limit : Nat := match c.origin with | .ring => d.mbx.slotSize | .mgmt => 252 | .relay _ _ => 2040
  let relay : Bool := match c.origin with | .relay _ _ => true | _ => false
  let busy : Bool := match c.origin with
    | .ring => decide (d.mbx.credits ≤ ringInFlight d) || d.mbx.inFlight.any (fun e => e.origin == .ring && !e.async && e.tag == c.tag)
    | _ => false
  let seqs := !relayedOut c d
  let known := d.mbx.remembered.find? (fun m => m.key == keyOf c.origin && m.seq == c.seq)
  if !relay && (decide (c.length.toNat < 20) || decide (limit < c.length.toNat) || c.length.toNat % 4 != 0) then
    tagless g c .badLength .none (violation 0x11 0 (tagSource c) 1 d)
  else if !relay && c.crc != cmdCrc g.opcode (uidOf d c.origin) c then
    tagless g c .badCrc .none (violation 0x10 0 (tagSource c) 1 d)
  else if seqs && d.mbx.inFlight.any (fun e => keyOf e.origin == keyOf c.origin && e.seq == c.seq) then
    tagless g c .busyState .inProgress d
  else
    match (if seqs then known else none) with
    | some m =>
      if m.opcode == g.opcode && m.length == c.length && m.digest == cmdDigest c then duplicate g c m d
      else tagless g c .badArgument .seqReused (violation 0x13 0 (tagSource c) 1 d)
    | none =>
      if busy then tagless g c .busyNoTag .none (violation 0x12 0 (tagSource c) 1 d)
      else accept g c body d

/-- The command at the front of its transport is read: a ring command past CMD_HEAD (R339, R340), the command delivered to the
management transport (R352), or a relayed command delivered by MERVAN_RELAY_RECEIVED (R349). None when it must wait. -/
def readFront (c : Cmd) (op : U16) (d : Device) : Option Device :=
  match c.origin with
  | .ring =>
    if readsCommands d && slotFree d && d.mbx.cmdHead != d.mbx.cmdTail then
      some (putIndices (modMbx d (fun m => { m with cmdHead := m.cmdHead + 1 })))
    else none
  | .mgmt =>
    if ready d && d.mbx.mgmtState == 1 && !d.mbx.mgmtRead && !quiescing d 1 && (d.pwr.state == .run || d.pwr.state == .sleep) then
      some (modMbx d (fun m => { m with mgmtRead := true }))
    else none
  | .relay src uid =>
    if readsCommands d && d.mbx.relayIn.contains (src, uid)
        && !(paired d && d.red.role == .fenced && op.toNat / 256 != 7) then
      some (modMbx d (fun m => { m with relayIn := m.relayIn.erase (src, uid) }))
    else none

/-- A command's DRAM accesses are held during a sweep (R254): the command waits until the sweep ends. -/
def waitsForDram (g : Sig) (c : Cmd) (d : Device) : Bool :=
  g.dram && !g.sweeps && d.dram.ok && sweeping d && !d.therm.trip && !relayedOut c d

/-- The device once it has taken the command at the front of its transport; none when the command must wait. -/
def takeFront (g : Sig) (c : Cmd) (d : Device) : Option Device := if waitsForDram g c d then none else readFront c g.opcode d

/-- A Mervan command row: the FKB2 reads the command and handles it; a command that must wait leaves the device as it is. -/
def mervan (g : Sig) (body : Cmd → List Int → Device → Done) (c : Cmd) (s : State) : Host.Outcome State Fault Refusal :=
  match takeFront g c s.dev with
  | none => next s s.dev
  | some d => next s (enter g c body d)

/-- The accepted command with a given SEQ and owner is done. -/
def finishSeq (key : RingKey) (seq : U32) (r : Reply) (d : Device) : Device :=
  match d.mbx.inFlight.find? (fun e => keyOf e.origin == key && e.seq == seq) with
  | some e => finish e r d
  | none => d

/-- A setting of groups 0x01 to 0x0A changed: the CONFIG section of the next snapshot (Table 13.2). -/
def dirty (d : Device) : Device := modRed d (fun r => { r with dirty := r.dirty ||| 1 })

/-- OK for a setting. -/
def done (d : Device) : Done := ok (dirty d)

/-! Jobs and other common questions. -/

/-- A job is RUNNING. -/
def jobRunning (d : Device) : Bool := match d.jobs.running with | some j => j.state == .running | none => false
/-- A job is STAGED or SCHEDULED. -/
def jobStaged (d : Device) : Bool := d.jobs.staged.isSome
/-- A job is SCHEDULED. -/
def jobScheduled (d : Device) : Bool := match d.jobs.staged with | some j => j.state == .scheduled | none => false
/-- The key of the running job; 0 where none runs. -/
def runningKey (d : Device) : JobKey := match d.jobs.running with | some j => if j.state == .running then j.desc.key else 0 | none => 0

/-- JOB_ID running, 0 when none (Table 1.8). -/
def runningId (d : Device) : U32 := match d.jobs.running with | some j => if j.state == .running then j.desc.jobId else 0 | none => 0

/-- Word of a LANE-numbered or other resource in an event argument (R428). -/
def natArg (n : Nat) : U32 := w32 n

end Sys2Proof.Machine
end

