-- ==== Sys2Proof/Machine/Topology.lean ====
section
/-! DEFINITION. The fabric as the root sees it: nodes and links from JOIN, the tree, shortest and alternate routes, route tables and ASSIGN
(R286, R287, R289 to R291). -/
namespace Sys2Proof.Machine

/-- This node's JOIN (Table 12.6). A port names its neighbour once a HELLO has come. -/
def myJoin (d : Device) : Join :=
  { uid := d.chip.uid, reqId := d.fabric.reqId, fixed := BitVec.ofNat 8 d.fabric.fixed
    transit := !(paired d && d.red.role == .standby), standby := paired d && d.red.role == .standby
    ports := (List.finRange 4).map (fun p =>
      let q := d.fabric.ports[p]
      { neighbour := q.nbrUid.getD 0, neighbourPort := (match q.hello with | some h => h.port | none => 0),
        rate := BitVec.ofNat 4 q.rate, up := portOpen d p && q.nbrUid.isSome }) }

/-- The bytes of a JOIN message (Table 12.6). -/
def joinBytes (j : Join) : List U8 :=
  leBytes 8 j.uid.toNat ++ [j.reqId, j.fixed, BitVec.ofNat 8 (b2n j.transit + 2 * b2n j.standby), 0, 0, 0, 0, 0]
    ++ j.ports.flatMap (fun e => leBytes 8 (if e.up then e.neighbour.toNat else 0)
        ++ [BitVec.ofNat 8 e.neighbourPort.toNat, BitVec.ofNat 8 e.rate.toNat, 0, 0])

/-- The nodes that the root knows, itself first. -/
def nodesOf (d : Device) : List Member := ⟨myJoin d, none, d.fabric.node.toNat⟩ :: d.fabric.members

/-- The node at the other end of a port of a node, and its port there; none when the link is down or leads to no known node. -/
def linkFrom (js : List Join) (j : Join) (p : Nat) : Option (Join × Nat) :=
  match j.ports[p]? with
  | some e => if e.up then (js.find? (fun k => k.uid == e.neighbour)).map (fun k => (k, e.neighbourPort.toNat)) else none
  | none => none

/-- The distance of a node in a list of distances. -/
def distIn (ds : List (U64 × Nat)) (u : U64) : Option Nat := (ds.find? (fun e => e.1 == u)).map (·.2)

/-- Distances to node b, one layer of nodes at a time, at most `fuel` layers. With `free` false no node with TRANSIT 0 is an intermediate node
(R291). -/
def spread (js : List Join) (b : U64) (free : Bool) : Nat → Nat → List (U64 × Nat) → List (U64 × Nat)
  | 0, _, ds => ds
  | fuel + 1, k, ds =>
    let far := js.filter (fun j => (distIn ds j.uid).isNone && (List.range 4).any (fun p =>
      match linkFrom js j p with
      | some (n, _) => (distIn ds n.uid).isSome && (free || n.transit || n.uid == b)
      | none => false))
    if far.isEmpty then ds else spread js b free fuel (k + 1) (ds ++ far.map (fun j => (j.uid, k)))

/-- Hops from every node that reaches b (R291). -/
def hopsTo (js : List Join) (b : U64) (free : Bool) : List (U64 × Nat) := spread js b free js.length 1 [(b, 0)]

/-- The ports of node a with the hops from their neighbour to b. -/
def waysTo (js : List Join) (a : Join) (b : U64) : List (Nat × Join × Nat) :=
  let ds := hopsTo js b false
  (List.range 4).filterMap (fun p =>
    match linkFrom js a p with
    | some (n, _) => if n.transit || n.uid == b then (distIn ds n.uid).map (fun k => (p, n, k)) else none
    | none => none)

/-- The way with the fewest hops; of equal ones the first, which has the lowest port number (R291). -/
def bestWay (ws : List (Nat × Join × Nat)) : Option (Nat × Join × Nat) :=
  ws.foldl (fun (m : Option (Nat × Join × Nat)) w => match m with
    | some x => if w.2.2 < x.2.2 then some w else some x | none => some w) none

/-- A hop count as the four bits of P_HOPS and A_HOPS hold it: a path of more hops reads as 15 (Table 12.3, log entry 60). -/
def hopField (k : Nat) : Nat := min 15 k

/-- The route table entry of node a for node b (Table 12.3, R291). Of several alternates the one with the fewest hops is taken (log entry 60).
-/
def routeEntry (js : List Join) (a b : Join) : Nat :=
  if a.uid == b.uid then 2 ^ 15
  else
    let ws := waysTo js a b.uid
    match bestWay ws with
    | none => 0
    | some (p, _, k) =>
      let back := hopsTo js a.uid false
      let alts := ws.filter (fun w => w.1 != p && (match distIn back w.2.1.uid with | some m => decide (w.2.2 < m + (k + 1)) | none => false))
      let prim := p + 4 + 2 ^ 7 * hopField (k + 1)
      match bestWay alts with
      | none => prim
      | some (q, _, m) => prim + 8 * q + 32 + 2 ^ 11 * hopField (m + 1)

/-- The parent port of a node, the node there and its port (R286): the fewest hops to the root, then the lower port number. -/
def parentOf (js : List Join) (root : U64) (a : Join) : Option (Nat × Join × Nat) :=
  let ds := hopsTo js root true
  match distIn ds a.uid with
  | none => none
  | some k => if k = 0 then none else
    (List.range 4).findSome? (fun p => match linkFrom js a p with
      | some (n, r) => if distIn ds n.uid == some (k - 1) then some (p, n, r) else none
      | none => none)

/-- Entry 255 of a node's route table: the ports that are tree links, its parent port, and ROOT (R290). -/
def treeEntry (js : List Join) (root : U64) (a : Join) : Nat :=
  let up := parentOf js root a
  let down := js.filterMap (fun c => match parentOf js root c with
    | some (_, n, r) => if n.uid == a.uid then some r else none | none => none)
  let mask := (List.range 4).foldr (fun p m => b2n ((up.map (·.1)) == some p || down.contains p) * 2 ^ p + m) 0
  mask + 16 * ((up.map (·.1)).getD 0) + 64 * b2n (a.uid == root)

/-- The route table of a node (R290). -/
def routeTable (d : Device) (a : Join) : Vector U16 256 :=
  let ns := nodesOf d
  let js := ns.map (·.join)
  Vector.ofFn (fun i =>
    if i.val = 0 then 0
    else if i.val = 255 then BitVec.ofNat 16 (treeEntry js d.chip.uid a)
    else match ns.find? (fun n => n.node == i.val) with
      | some n => BitVec.ofNat 16 (routeEntry js a n.join)
      | none => 0)

/-- ASSIGN to a node, down the port on which its JOIN arrived (R287). -/
def sendAssign (m : Member) (d : Device) : Device :=
  match m.port with
  | none => d
  | some p =>
    if portOpen d p && mayEmit d 0x0041 then
      let t := routeTable d m.join
      let (n, d) := takeSrcSeq .control 0 d
      sendOnPort p (mkFrame d .control false false 0 n 0x0041
        (leBytes 8 m.join.uid.toNat ++ [BitVec.ofNat 8 m.node, 0] ++ leBytes 2 d.fabric.discGen.toNat ++ [0, 0, 0, 0]
          ++ t.toList.flatMap (fun e => leBytes 2 e.toNat))) d
    else d

/-- The root loads its own routes and sends every other node its table (R287, R289). -/
def loadRoutes (d : Device) : Device :=
  let d := modFabric d (fun f => { f with routes := routeTable d (myJoin d) })
  d.fabric.members.foldl (fun d m => if m.node = 0 then d else sendAssign m d) d

/-- The root has learnt of a changed link (R289): routes are recomputed and reloaded, and EV_FABRIC_CHANGED follows. -/
def rerouted (d : Device) : Device := if d.fabric.root && d.fabric.ready then raise .fabricChanged [] (loadRoutes d) else d

/-- LINK_CHANGE towards the root (R289); the root takes it itself. -/
def reportLink (p : Port) (isUp : Bool) (neighbour : U64) (d : Device) : Device :=
  if d.fabric.root then rerouted d
  else (sendTo .control false 0 0x0042 ([BitVec.ofNat 8 p.val, BitVec.ofNat 8 (b2n isUp), 0, 0, 0, 0, 0, 0] ++ leBytes 8 neighbour.toNat) d).2

/-! Ports -/

/-- The fabric's hardware runs: its domain is on, firmware has enabled the lanes (Table 17.1), and the device is not in Stolzar mode (R359). -/
def linkOn (d : Device) : Bool := domainRuns d 7 && !d.chip.modeSz && (d.nv.stage == .starting || d.nv.stage == .ready)

/-- Discovery and messages run: the command interface is ready (R389). -/
def fabOn (d : Device) : Bool := linkOn d && d.nv.stage == .ready

/-- A port exchanges frames with its neighbour. -/
def portRuns (d : Device) (p : Port) : Bool := linkOn d && portOpen d p

/-- A link frame sent on a port (Table 12.2). -/
def linkSend (p : Port) (t : LinkTx) (d : Device) : Device :=
  if portRuns d p then giveLink p t d else d

/-! Root candidates (R286) -/

/-- Order of two root candidates (R286). -/
def candBetter (a b : RootCand) : Bool :=
  if a.fixed != b.fixed && (a.fixed == 0 || b.fixed == 0) then b.fixed == 0
  else if a.fixed != b.fixed then decide (a.fixed < b.fixed)
  else if a.uid != b.uid then decide (a.uid < b.uid)
  else if a.hops != b.hops then decide (a.hops < b.hops)
  else match a.port, b.port with
    | some x, some y => decide (x < y)
    | none, some _ => true
    | _, none => false

/-- The node's own entry. -/
def ownCand (d : Device) : RootCand := ⟨d.fabric.fixed, d.chip.uid, 0, none⟩

/-- The candidate that a neighbour advertises, taken with ROOT_HOPS + 1; one beyond 10 is ignored. -/
def heardCand (d : Device) (p : Port) : Option RootCand :=
  match d.fabric.ports[p].hello with
  | some h => if portOpen d p && decide (h.rootHops.toNat + 1 ≤ 10) then
      some ⟨h.rootFixedId.toNat, h.rootUid, h.rootHops.toNat + 1, some p⟩ else none
  | none => none

/-- The best candidate. -/
def bestCand (d : Device) : RootCand :=
  ([0, 1, 2, 3].filterMap (heardCand d)).foldl (fun m c => if candBetter c m then c else m) (ownCand d)

/-- Two candidates name the same root. -/
def sameRoot (a b : RootCand) : Bool := a.fixed == b.fixed && a.uid == b.uid

/-! HELLO (R284, R285) -/

/-- The bytes of a HELLO before its CRC (Table 12.2). -/
def helloBody (m : Hello) : List U8 :=
  [0x42, m.rsv.1] ++ leBytes 2 36 ++ leBytes 8 m.uid.toNat
    ++ [m.nodeId, m.reqId,
        BitVec.ofNat 8 (b2n m.fixed + 2 * b2n m.transit + 4 * b2n m.standby + 8 * m.port.toNat + 32 * m.rsv.2.1.toNat), m.rootHops]
    ++ leBytes 8 m.rootUid.toNat ++ [m.rootFixedId, m.rsv.2.2.1] ++ leBytes 2 m.discGen.toNat ++ leBytes 4 m.rsv.2.2.2.toNat

/-- The CRC of a HELLO folds 0 (R284). -/
def helloCrc (m : Hello) : U32 := crcFold 0 0 (helloBody m)

/-- This node's HELLO on a port. -/
def myHello (d : Device) (p : Port) : Hello :=
  let c := match d.fabric.cand with | some c => c | none => ownCand d
  let standby := paired d && d.red.role == .standby
  let m : Hello := {
    uid := d.chip.uid, nodeId := d.fabric.node, reqId := d.fabric.reqId, fixed := d.fabric.fixed != 0, transit := !standby
    standby := standby, port := BitVec.ofNat 2 p.val, rootHops := BitVec.ofNat 8 c.hops, rootUid := c.uid
    rootFixedId := BitVec.ofNat 8 c.fixed, discGen := d.fabric.discGen, crc := 0 }
  { m with crc := helloCrc m }

/-- HELLO on a port. -/
def sendHello (p : Port) (d : Device) : Device := if fabOn d then linkSend p (.hello (myHello d p)) d else d

/-- JOIN towards the root (R287). -/
def sendJoin (d : Device) : Device := (sendTo .control false 0 0x0040 (joinBytes (myJoin d)) d).2

end Sys2Proof.Machine
end

