-- ==== Sys2Proof/Machine/Shared.lean ====
section
/-! DEFINITION. Effects that several families share: latching a period, ending a line token, links going down, the journal, the
presence window, and waking. -/
namespace Sys2Proof.Machine

/-! Latched sets (R20 to R24). -/

/-- Line tokens of a head still pending (R22). -/
def pendingOf (d : Device) (h : Head) : Nat := (d.fire.tokens.filter (fun t => t.head == h)).length

/-- The older set of a kind has been latched and not read (R23). -/
def unreadOlder (d : Device) (k : Fin 3) : Bool := match d.acct.older[k] with | some o => !o.read | none => false

/-- The boundary of period kind k (0 band, 1 repeat, 2 job): its live set is copied into a new latched set numbered `n` and restarts
from zero (R20); the new set replaces the oldest of two, which is lost when the host has not read it (R23). DESIGN CHOICE: that event's item is
the kind (log entry 74). -/
def latchPeriod (k : Fin 3) (n setId : U32) (d : Device) : Device :=
  let d := if unreadOlder d k then
      raise .latchOverrun [w32 k.val] { d with acct := { d.acct with overrun := upd d.acct.overrun k (fun n => n + 1) } }
    else d
  let set : LatchedSet := {
    live := { d.acct.live[k] with number := n }, pendings := Vector.ofFn (fun h => BitVec.ofNat 64 (pendingOf d h)),
    overrun := d.acct.overrun[k], setId := setId, wposClose := d.pos.wpos, ftimeClose := ftime d, jobId := runningId d,
    read := false }
  { d with acct := { d.acct with
      older := upd d.acct.older k (fun _ => d.acct.newest[k])
      newest := upd d.acct.newest k (fun _ => some set)
      live := upd d.acct.live k (fun _ => { wposOpen := d.pos.wpos, ftimeOpen := ftime d }) } }

/-! Line tokens (R16, R109). -/

/-- Position of a skip reason, its code less 1 (Table 4.5). -/
def skipIdx : Skip → Fin 12
  | .thermal => 0
  | .headSafe => 1
  | .headAbsent => 2
  | .noPosition => 3
  | .inhibit => 4
  | .tableNotReady => 5
  | .noData => 6
  | .dataCrc => 7
  | .feedLate => 8
  | .screenLate => 9
  | .sheetLate => 10
  | .overRate => 11

/-- This device owns colour k of the loop and sends its records: it was declared here for this node, and on the measuring node it is
enabled (R198; log entry 33). -/
def ownsColour (d : Device) (k : Plane) : Bool :=
  let c := d.loop.colours[k]
  c.declared && c.node == d.fabric.node.toNat && (c.enabled || !d.mbx.measuring)

/-- Plane k of a job. -/
def planeAt (j : JobDesc) (k : Nat) : PlaneCfg := j.planes.getD k ⟨0, 0, false, false, false, false⟩

/-- A head of a plane whose proxy or strip records of a job are still to send: its ended tokens are kept for them. -/
def tracked (d : Device) (h : Head) (job : JobKey) : Bool :=
  let has := fun (pc : PlaneCfg) => decide (pc.firstHead ≤ h.val ∧ h.val < pc.firstHead + pc.headCount)
  d.loop.owner.toList.any (fun o => (o.runs ++ o.strips).any (fun r => r.job == job && has r.pc))
    || (d.jobs.running.toList ++ d.jobs.staged.toList).any (fun j => j.desc.key == job
      && (List.finRange 8).any (fun k => ownsColour d k && has (planeAt j.desc d.loop.colours[k].plane.val)))

/-- Lines of a head that end: kept for the proxy and strip records (R199, R218). -/
def noteLines (h : Head) (job : JobKey) (lines : List Nat) (fired : Bool) (d : Device) : Device :=
  if tracked d h job then { d with fire := { d.fire with ended := d.fire.ended ++ lines.map (fun l => ⟨h, job, l, fired⟩) } } else d

/-- A token that ends: kept for the proxy records (R199). -/
def noteEnded (t : Token) (fired : Bool) (d : Device) : Device := noteLines t.head t.job [t.line] fired d

/-- A line counted as skipped under one reason, and as scheduled in the same period (R16, R22). -/
def countSkip (h : Head) (r : Skip) (d : Device) : Device :=
  countHead d h (fun c => { c with scheduled := c.scheduled + 1, skipped := upd c.skipped (skipIdx r) (· + 1) })

/-- A token ends skipped (R16). -/
def skipToken (r : Skip) (d : Device) (t : Token) : Device := noteEnded t false (countSkip t.head r d)

/-- Every pending token that satisfies a test is skipped under one reason; a token some of whose rows have fired ends fired, since
rows already fired stay counted (R125, R386). -/
def skipTokens (p : Token → Bool) (r : Skip) (d : Device) : Device :=
  let gone := d.fire.tokens.filter p
  gone.foldl (skipToken r) { d with fire := { d.fire with tokens := d.fire.tokens.filter (fun t => !p t) } }

/-! The configuration journal (R395). -/

/-- Bytes a record takes in its slot, from a 16-byte boundary (Table 17.5). -/
def recordSize (body : List U8) : Nat := ((8 + body.length + 3) / 4 * 4 + 8 + 15) / 16 * 16

/-- A slot whose erase is abandoned or cut off holds nothing that counts (R355, R397, R401); the other checkpoint is then the newest. -/
def spoilSlot (e : Nat) (n : Nv) : Nv :=
  if e < 2 then { n with journal := upd n.journal (finOf 2 e) (fun s => s.map (fun s => { s with valid := false })) }
  else
    let k : Fin 2 := finOf 2 (e - 2)
    let other : Fin 2 := if k = 0 then 1 else 0
    { n with checkpoints := upd n.checkpoints k (fun c => c.map (fun c => (c.1, false)))
             newest := if n.newest == some k then (if n.checkpoints[other].any (·.2) then some other else none) else n.newest }

/-- Before its first program into a blank sector the FKB2 erases it again (R397); a unit that starts no erase programs it as it is (log entry 101). -/
def freshSector (d : Device) (n : Nat) : Device :=
  if d.nv.cleaned.contains n then d
  else { d with nv := { d.nv with cleaned := n :: d.nv.cleaned, erases := if erasesMay d then d.nv.erases ++ [100 + n] else d.nv.erases } }

/-- The sectors from the region's first, of a program of `len` bytes at an offset: those that begin within it (R397). -/
def freshSectors (first at_ len : Nat) (d : Device) : Device :=
  ((List.range ((at_ + len + 65535) / 65536)).filter (fun k => decide (at_ ≤ 65536 * k))).foldl (fun d k => freshSector d (first + k)) d

/-- A flash program queued behind those in progress (R395). -/
def queueProgram (p : FlashWork) (d : Device) : Device := { d with nv := { d.nv with programs := d.nv.programs ++ [p] } }

/-- A record queued for the current slot (R395), at flash sectors 128 and 136 (Table 17.4). -/
def journalAppend (key index : Nat) (body : List U8) (reply : Bool) (d : Device) : Device :=
  let used := match d.nv.journal[d.nv.cur].filter (·.valid) with | some s => s.used | none => 0
  let before := used + (d.nv.programs.map (fun p => match p with | .journal r _ => recordSize r.body | _ => 0)).sum
  queueProgram (.journal ⟨key, index, body, d.nv.rseq, false⟩ reply)
    (freshSectors (128 + 8 * d.nv.cur.val) before (recordSize body + (if before = 0 then 64 else 0)) { d with nv := { d.nv with rseq := d.nv.rseq + 1 } })

/-- A role change recorded in the epoch area (R308, R399), which lies from flash sector 144 (Table 17.4). -/
def recordRole (r : Role) (d : Device) : Device :=
  queueProgram (.epoch d.red.epoch r) (freshSectors 144 (16 * d.nv.epochs.length) 16 d)

/-- The holding record of a key: the committed one with the highest RSEQ (R395); a record of LENGTH 0 clears its key. -/
def journalGet (d : Device) (key index : Nat) : Option (List U8) :=
  match d.nv.journal[d.nv.cur] with
  | none => none
  | some s =>
    match (s.records.filter (fun r => r.committed && r.key == key && r.index == index)).foldl
        (fun (b : Option JRec) r => match b with | some x => if r.rseq < x.rseq then some x else some r | none => some r) none with
    | some r => if r.body.isEmpty then none else some r.body
    | none => none

/-! Discovery (R286, R289). -/

/-- The fixed node number that the journal holds (R288). -/
def journalFixed (d : Device) : Nat := match journalGet d 2 0 with | some b => leAt b 0 4 | none => 0

/-- A discovery begins at this node (R288, R289): a fixed number stored since takes effect, and what JOIN told is forgotten. Routes and the
node's ID stay, so that it keeps forwarding. -/
def beginDiscovery (d : Device) : Device :=
  modFabric d (fun b => { b with ready := false, root := false, fixed := journalFixed d, joinPorts := [], members := [] })

/-- The candidate and the parent port are those of the newest advertisements (R286); a change of root begins a new discovery (R289), and a
change of parent port holds the lock state for 1 ms (R300). -/
def updateCand (d : Device) : Device :=
  let c := bestCand d
  let was := d.fabric.cand
  let changed := match was with | some w => !sameRoot w c | none => true
  let d := if changed && !(d.fabric.root && sameRoot c (ownCand d)) then beginDiscovery d else d
  let c := bestCand d
  modFabric d (fun b => { b with
    cand := some c, parent := c.port, root := b.root && c.port.isNone
    lockHold := if b.parent == c.port then b.lockHold else d.chip.qtime + 4000000 })

/-! The presence window (R354). -/

/-- The window closes (R354, R410). -/
def closeWindow (d : Device) : Device :=
  if d.prs.window then
    raise .presenceClosed [] (setIrq 3 { d with prs := { d.prs with window := false, openAt := 0 } })
  else d

/-! Links going down. -/

/-- Heads whose bit of a mask is set. -/
def headsIn (m : Nat) : List Head := (List.finRange 40).filter (fun h => bitOf m h.val)

/-- The results of head.witness: per named head a flag, 1 for no reply, OTHER_AGE and OTHER_EPOCH (Table 5.12). -/
def witnessWords (named : BitVec 40) (got : List (Head × U32 × U32)) : List U32 :=
  (headsIn named.toNat).flatMap (fun h =>
    match got.find? (fun g => g.1 == h) with
    | some g => [0, g.2.1, g.2.2]
    | none => [1, 0, 0])

/-- A head.witness that still asks a head has its answer, or none (Table 5.12). -/
def Work.told (h : Head) (ans : Option (U32 × U32)) : Work → Work
  | .witness n a g =>
    if a.getLsbD h.val then .witness n (a &&& ~~~(BitVec.ofNat 40 (2 ^ h.val))) (g ++ (ans.toList.map (fun x => (h, x.1, x.2)))) else .witness n a g
  | w => w

/-- The results of a head.witness that no longer waits for a head. -/
def Work.witnessed : Work → Option (List U32)
  | .witness n a g => if a = 0 then some (witnessWords n g) else none
  | _ => none

/-- A head that head.witness asked has replied, or counts as not replying; each head.witness that asked it has that answer, and completes
with the last of its heads (R18, Table 5.12). -/
def unaskWitness (h : Head) (ans : Option (U32 × U32)) (d : Device) : Device :=
  let d := modMbx d (fun m => { m with inFlight := m.inFlight.map (fun e => { e with work := e.work.told h ans }) })
  d.mbx.inFlight.foldl (fun d e => match e.work.witnessed with | some ws => finish e { results := ws } d | none => d) d

/-- What is left in a head lane's transmitter when its head becomes absent: nothing on a lane that is down; else no LINE cell waits, and the
cell in transmission ends (R125). -/
def stopLines (up : Bool) (t : FhlTx) : FhlTx :=
  if up then { t with lines := [], controls := [] }
  else { begun := t.begun }

/-- A head becomes absent (R125): no LINE or FIRE cells, its own fire inhibit, and nothing awaited; its tokens are skipped under
HEAD_ABSENT when they come due (R109). Every head.echo and head.witness that waits for it is answered (R18, Table 5.12). -/
def headAbsent (h : Head) (st : HeadState) (d : Device) : Device :=
  let d := modLink d h (fun l => { l with
    state := st, await := none, queue := [], bring := .idle, mapsAcked := false, mapsDue := false, configured := false,
    absentInhibit := l.absentInhibit || l.state == .present, out := stopLines (st == .linked) l.out })
  unaskWitness h none (finishAll (· == .echo h) { status := .refused } d)

/-- Compressor 0 is stalled while it holds a message back (R237). -/
def noteStall (d : Device) : Device :=
  let waits := !d.cz.held.isEmpty
  { d with cz := { d.cz with enc := upd d.cz.enc 0 (fun e =>
      { e with stalled := waits, stalls := if waits && !e.stalled then e.stalls + 1 else e.stalls }) } }

/-- The messages that a unit has not yet sent as it becomes FENCED are dropped: its frames that wait in the ports but relay responses, and what waits for
WL or for room in a transmit buffer (R309, R332). -/
def dropUnsent (d : Device) : Device :=
  let stays : DataFrame × Option Port → Bool := fun w => w.2.isSome || w.1.src != d.fabric.node || w.1.msgType == 0x30
  let d := modFabric d (fun b => { b with ports := mapAll b.ports (fun q => { q with waiting := q.waiting.filter stays }) })
  noteStall { d with cz := { d.cz with held := [] }, red := { d.red with waiting := [], handover := none } }

/-- An ACTIVE or PROMOTING unit demotes itself to FENCED (R332): every head cell and fabric message stops, SPEED_LIMIT and FAULT_N are released with the
role, CAMSW and the WF pins go high-impedance, and EV_DEMOTED follows. -/
def demote (d : Device) : Device :=
  if paired d && (d.red.role == .active || d.red.role == .promoting) then
    let d := (List.finRange 40).foldl (fun d h =>
      if d.links[h].state == .present || d.links[h].state == .linked then headAbsent h .linked d else d) d
    let d := dropUnsent d
    raise .demoted [] (recordRole .fenced (noteRed d { d with
      red := { d.red with role := .fenced, promo := none, drill := d.red.drill.filter id, drillPromo := false, standbyOk := false
                          resume := [] }
      chip := { d.chip with wfOn := false, camsw := none } }))
  else d

/-- The sequence and credit state of a port at its start (R294, R298): frames in the replay buffer are discarded, credits come with
CREDIT_INIT. -/
def freshPort (q : FPort) : FPort :=
  { q with txSeq := 0, rxSeq := 0, naking := false, ackDue := false, replay := [], replays := 0,
           peerConfig := Vector.replicate 4 0, held := Vector.replicate 4 0, cSent := Vector.replicate 4 0,
           gRcvd := Vector.replicate 4 0, cRcvd := Vector.replicate 4 0, gSent := Vector.replicate 4 0,
           used := Vector.replicate 4 0, grantDue := false, audit := none, auditRx := none, degraded := false, out := { begun := q.out.begun } }

/-- Dictionary streams carried by a link restart at both ends, their slots and counts kept (R240): a message of them that is half sent is
lost (Table 9.8). -/
def resetDicts (l : LinkId) (d : Device) : Device :=
  let on : Dict → Bool := fun s => s.link == some l
  let z : Dict → Dict := fun s => if on s then { s with entries := [], prev := none, resetNext := true, stored := false } else s
  noteStall { d with cz := { d.cz with
    encSlots := d.cz.encSlots.map z, decSlots := d.cz.decSlots.map z, unslotted := d.cz.unslotted.filter (fun s => !on s)
    held := d.cz.held.filter (fun m => !(m.begun.isSome && m.link == some l)) } }

/-- Fabric lanes of a port (R282). -/
def laneA (p : Port) : LaneId := .fl ⟨2 * p.val, by omega⟩
/-- The second lane of a port. -/
def laneB (p : Port) : LaneId := .fl ⟨2 * p.val + 1, by omega⟩
/-- The port of a fabric lane. -/
def portOfLane (k : Fin 8) : Port := ⟨k.val / 2, by omega⟩

/-- The buffer of a port is gone: frames that wait elsewhere no longer lie in it (R298). -/
def untag (p : Port) (d : Device) : Device :=
  let f : Option Port → Option Port := fun o => if o == some p then none else o
  modFabric d (fun b => { b with
    ports := mapAll b.ports (fun q => { q with waiting := q.waiting.map (fun w => (w.1, f w.2)) })
    flows := b.flows.map (fun x => { x with held := x.held.map (fun h => (f h.1, h.2)) }) })

/-- A frame of this node was lost on its way (R292, R350, R357): EV_FABRIC_UNREACHABLE, and what waited for it ends. A relayed command is the one whose
frame it was; a lost job data write shows in the forager.copy that sent it, or in its fence. -/
def frameLost (dest : U8) (msgType : U16) (srcSeq : U32) (d : Device) : Device :=
  let d := raise .fabricUnreachable [w32 dest.toNat, w32 msgType.toNat, srcSeq] d
  let r : Reply := { status := .refused, reason := .unreachable }
  let gone : Reply := { status := .refused, reason := .dataLost }
  if msgType = 0x46 then
    finishWork (· == .ping dest) r (modFabric d (fun b => { b with pings := b.pings.filter (fun e => e.1 != dest) }))
  else if msgType = 0x30 then
    finishWork (fun w => w.fenceFrame == some (dest, srcSeq)) gone (finishWork (· == .relay dest srcSeq) r d)
  else if msgType = 0x50 then
    finishAll (Work.isFenceAt dest) gone (modMbx d (fun m => { m with fjobs := m.fjobs.map (fun j =>
      if j.node == dest then { j with lost := true } else j) }))
  else d

/-- A frame that waited for a port that went down takes the alternate; a broadcast is discarded, and a frame without a route logged and answered
UNREACHABLE (R292). -/
def rerouteFrame (p : Port) (d : Device) (w : DataFrame × Option Port) : Device :=
  if w.1.bcast then releaseFrame w.2 w.1 d
  else match routePort d w.1.dest.toNat with
    | some q => forwardOn w.2 q w.1 d
    | none =>
      let d := fabViolation 0x3C p 0 (releaseFrame w.2 w.1 d)
      if w.1.src == d.fabric.node then frameLost w.1.dest w.1.msgType w.1.srcSeq d else sendUnreachable w.1 d

/-- The state of a port that is down (R294, R298): its neighbour and sequence state forgotten, its buffers empty; frames that waited for it
are sent another way. -/
def resetPort (p : Port) (d : Device) : Device :=
  let w := d.fabric.ports[p].waiting.map (fun x => (x.1, if x.2 == some p then none else x.2))
  let d := untag p (modPort d p (fun q => { freshPort q with nbrUid := none, hello := none, waiting := [] }))
  w.foldl (rerouteFrame p) d

/-- A port has gone down (R289, R298): its frames are lost and its neighbour forgotten; the candidate is taken anew, the root hears of it by
LINK_CHANGE, and HELLO goes out at once on the other ports. -/
def portDown (p : Port) (d : Device) : Device :=
  let nbr := (d.fabric.ports[p].nbrUid).getD 0
  let d := resetPort p (resetDicts (.port p) d)
  if fabOn d then
    let d := updateCand d
    let d := if d.fabric.ready then reportLink p false nbr d else d
    [0, 1, 2, 3].foldl (fun d (q : Port) => sendHello q d) d
  else d

/-- The waggle link has gone down: sequenced frames are lost, streams restart, and a snapshot in transit is lost (R240, R320,
Table 13.9). -/
def waggleDown (d : Device) : Device :=
  let d := noteStall { d with cz := { d.cz with held := d.cz.held.filter (fun m => m.peer != 255) } }
  modRed (resetDicts .waggle d) (fun r => { r with
    txSeq := 0, rxSeq := 0, naking := false, ackDue := false, replay := [], replays := 0, waiting := [], handover := none, fullDue := true,
    building := [], mirrorMarks := [], mirrorAt := 0, snapMarks := [] })

/-- A port runs on one lane while its other is down and in no attempt: EV_FABRIC_DEGRADED, once until both are up (R282, log entry 90). -/
def noteDegraded (p : Port) (d : Device) : Device :=
  let q := d.fabric.ports[p]
  let down := fun (k : Fin 2) => !laneCarries d p k && (getLane d (portLane p k)).phase.isNone
  if laneCarries d p 0 && laneCarries d p 1 then (if q.degraded then modPort d p (fun q => { q with degraded := false }) else d)
  else if portUp d p && (down 0 || down 1) && !q.degraded then raise .fabricDegraded [w32 p.val] (modPort d p (fun q => { q with degraded := true }))
  else d

/-- The lowest lane of a port has changed: on the parent port the time exchanges change lane, and the lock state holds for 1 ms (R300). -/
def holdLock (k : Fin 8) (d : Device) : Device :=
  if d.fabric.parent == some (portOfLane k) && k.val % 2 == 0 then modFabric d (fun f => { f with lockHold := d.chip.qtime + 4000000 }) else d

/-- A lane that leaves up: what its link makes of it (R125, R282, R289, R320); the adapter of a head lane makes attempts again (R279). -/
def linkFell (l : LaneId) (d : Device) : Device :=
  match l with
  | .hl h =>
    let d := modAdapter d h (fun a => { a with ports := upd a.ports (if unitB d then 1 else 0) (fun q => { q.rise with nextAt := some d.chip.qtime }) })
    if d.links[h].state == .isolated then d else headAbsent h .down d
  | .fl k =>
    let p := portOfLane k
    if portUp d p then
      let d := modPort d p (fun q => { q with out := { q.out with lanes := upd q.out.lanes ⟨k.val % 2, by omega⟩ (fun _ => {}) } })
      pumpPort p (noteDegraded p (holdLock k d))
    else portDown p d
  | .wl => waggleDown d

/-- A cell or frame has been received on a lane: its receiver is no longer in electrical idle (R272). -/
def rxActive (l : LaneId) (d : Device) : Device :=
  modLane d l (fun s => if s.rxIdle then
    { s with rxIdle := false, state := if s.state == .idle && !s.txIdle then .up else s.state } else s)

/-- A frame has been received on a lane of a port. -/
def portActive (p : Port) (k : Fin 2) (d : Device) : Device := rxActive (portLane p k) d

/-- The lane's domain runs (Table 15.4); Stolzar mode powers HL0 to HL15 only (R359). -/
def lanePower (d : Device) (l : LaneId) : Bool :=
  hasLane d l && (match l with
    | .hl h => domainRuns d 6 && !(d.chip.modeSz && decide (16 ≤ h.val))
    | _ => domainRuns d 7 && !d.chip.modeSz)

/-- What enables a lane beside its own ENABLE: head.link, fabric.config, or the pair record (R307). -/
def linkEnabled (d : Device) (l : LaneId) : Bool :=
  match l with
  | .hl h => d.links[h].enable
  | .fl k => d.fabric.ports[portOfLane k].enable
  | .wl => paired d

/-- A lane begins with the first of three attempts (R277). -/
def restartLane (s : Lane) : Lane :=
  { s with state := .training, phase := none, attempts := 0, locked := false, gotWord := false, gotReady := 0, frozen := false,
           txIdle := false, rxIdle := false, test := none, txUp := false, rxUp := false, codeTimes := [] }

/-- A peppercorn test that lane.prbs asked for ends without its counts: the command answers REFUSED (log entry 63). -/
def abandonTest (l : LaneId) (d : Device) : Device :=
  match (getLane d l).test with
  | some (_, _, true) => finishWork (· == .prbs l) { status := .refused } (modLane d l (fun s => { s with test := none }))
  | _ => d

/-- The lane goes down, abandons any attempt and begins with the first of three attempts (lane.retrain, R28). -/
def retrainLane (l : LaneId) (d : Device) : Device :=
  let was := (getLane d l).state
  if was == .disabled then d
  else
    let d := modLane (abandonTest l d) l restartLane
    if was == .up || was == .idle then linkFell l d else d

/-- A peppercorn test begins (R280, R281): the lane goes down; in far mode it trains with TEST set and the test follows, in loopback mode the
test runs at once. -/
def startTest (l : LaneId) (loopback : Bool) (ms : Nat) (d : Device) : Device :=
  let d := retrainLane l d
  modLane d l (fun s => { s with
    deferred := none, test := some (loopback, ms, true), state := if loopback then .test else s.state })

/-- Peppercorn tests that lane.prbs deferred begin once no job is RUNNING or SCHEDULED and the throttle level is 0 (R281, R383). -/
def runTests (d : Device) : Device :=
  if d.therm.level == 0 && !jobRunning d && !jobScheduled d then
    (((List.finRange 40).map LaneId.hl ++ (List.finRange 8).map LaneId.fl) ++ [LaneId.wl]).foldl (fun (d : Device) (l : LaneId) =>
      match (getLane d l).deferred with
      | some (loop, ms) => if (getLane d l).state == .disabled then modLane d l (fun s => { s with deferred := none }) else startTest l loop ms d
      | none => d) d
  else d

/-- Re-initialise link (R28): as lane.retrain; on a lane that is not up it does nothing (chapter 11). -/
def reinitLane (l : LaneId) (d : Device) : Device :=
  if (getLane d l).state == .up || (getLane d l).state == .idle then retrainLane l d else d

/-- Re-initialisation of a fabric port: both of its lanes (R28, R306), counted for PORT_FLAP. -/
def reinitPort (p : Port) (d : Device) : Device :=
  modPort (reinitLane (laneB p) (reinitLane (laneA p) d)) p (fun q => { q with reinits := q.reinits + 1 })

/-- A partner is isolated (R28 answer 3): its entries are marked ISOLATED and EV_PARTNER_ISOLATED names BLOCK and SOURCE. What its link
makes of it is the caller's. -/
def isolatePartner (block : BitVec 5) (source : U16) (d : Device) : Device :=
  if d.vlog.isolated.contains (block, source) then d
  else raise .partnerIsolated [w32 block.toNat, w32 source.toNat] { d with vlog := { d.vlog with
    isolated := d.vlog.isolated ++ [(block, source)]
    entries := d.vlog.entries.map (fun e =>
      if e.block == block && e.source == source && e.answer == 3 then { e with isolated := true } else e) } }

/-! Waking (R369, R372). -/

/-- A head lane in electrical idle leaves it with a wake burst (R369, R372). -/
def leaveIdle (i : Nat) (l : Lane) : Lane := if i < 40 then wakeTx l else l

/-- Head lanes that D_LANEH idled leave electrical idle (R369, Table 15.10). -/
def wakeHeadLanes (d : Device) : Device := { d with lanes := Vector.ofFn (fun (i : Fin 49) => leaveIdle i.val d.lanes[i]) }

/-- A pwr.state request refused in phase 1 or while its checkpoint is written (R369): quiesced domains resume, no pad is latched, and
the request answers REFUSED with the reason and the domain; a role change's own entry has no response. -/
def refuseEntry (r : Reason) (dom : Option Nat) (d : Device) : Device :=
  let d := if quiesced d 6 then wakeHeadLanes d else d
  let d := setIrq 5 { d with pwr := { d.pwr with
    phase := 0, todo := [], quiesced := [], own := false,
    refused := match dom with | some k => BitVec.ofNat 4 k | none => d.pwr.refused } }
  finishWork (fun w => w == .pwr) { status := .refused, reason := r, detail := w32 (dom.getD 0) } d

/-- A camera port's correction tables, line buffer and trigger queue after D_CAM was without power (Tables 1.7 and 15.4). -/
def blankCam (c : Cam) : Cam := { c with tables := {}, tablesNew := none, buffer := [], trigQ := [], inFrame := false, band := none, dropping := false }

/-- What D_CAM holds once it has been without power, in SLEEP and below (R364, Table 15.4): camera tables, line buffers and the loop's accumulator are
rewritten; the corrections, the history and the solve queue lie in DRAM or with the control cores (log entry 100). -/
def camWasOff (d : Device) : Device :=
  { d with
    cams := { d.cams with ports := mapAll d.cams.ports blankCam }
    loop := { d.loop with acc := [], lum := [], rejects := 0, slow := 0, sweep := none } }

/-- A CRC unit whose context was not retained (R376, Table 1.7): its configuration is kept (log entry 100). -/
def blankCrc (u : CrcUnit) : CrcUnit := { u with raw := 0, bytes := 0, segments := 0, seq := 0 }

/-- What the SRAM that was not retained holds after DEEP SLEEP (R376): rewritten with valid check bits, here 0; the dictionary slots
are never retained. -/
def rewriteSram (retain : BitVec 4) (d : Device) : Device :=
  let d := noteStall { d with cz := { d.cz with encSlots := [], decSlots := [], unslotted := [], held := [] } }
  let d := if retain.getLsbD 0 then d else modMbx d (fun m => { m with sram := [] })
  let d := if retain.getLsbD 1 then d
    else { d with banks := { d.banks with tbl := Vector.replicate 6 {}, queue := [], sets := [] }, drive := { d.drive with zeroed := true } }
  let d := if retain.getLsbD 2 then d
    else { d with banks := { d.banks with
      loop := [], loopTrim := Vector.replicate 40 0, hostTrim := Vector.replicate 40 0, hostTrimNew := Vector.replicate 40 none } }
  let d := if retain.getLsbD 3 then d else { d with engines := mapAll d.engines (fun e => { e with err := [], lfsr := 1 }) }
  let t : Banks := {}
  let d := { d with
    banks := { d.banks with timing := t.timing, timingNew := none, timingSet := false }
    crcs := mapAll d.crcs blankCrc }
  { d with feed := { d.feed with rings := Vector.replicate 8 {}, tiles := [], tileWork := [], tilePlace := {}, tileHeld := false }, engines := mapAll d.engines (fun e => { e with buf := [], skips := [] }) }

/-- The DRAM leaves self-refresh and verifies the record of its point, or trains it (R252, R264); the points below it follow when it
fails (R251). -/
def resumeDram (d : Device) : Device :=
  if d.dram.ok then
    let p := d.dram.point
    let ps := p :: ([0, 1, 2] : List (Fin 3)).filter (fun q => q != p && !d.dram.failed[q])
    { d with dram := aimAt (.seek ps) { d.dram with selfRefresh := false, widths := [], late := false } }
  else { d with dram := { d.dram with selfRefresh := false } }

/-- Condition of a domain in a power state (Table 15.4); D_AON stays on but in OFF. -/
def condIn (t : PState) (k : Nat) : Cond :=
  match t with
  | .run => .on
  | .sleep => if k = 1 then .ret else if k = 2 ∨ k = 8 then .gated else if k = 3 ∨ k = 5 then .off else .on
  | .deep => if k = 0 then .on else if k = 1 ∨ k = 2 ∨ k = 4 then .ret else .off
  | .off => .off

/-- The transmitters of the head lanes that are up enter electrical idle, those whose receivers are in it too (R272, R311, Table 15.5). -/
def idleHeadLanes (d : Device) : Device :=
  { d with lanes := Vector.ofFn (fun (i : Fin 49) =>
    let l := d.lanes[i]; if i.val < 40 ∧ (l.state == .up ∨ l.state == .idle) then { l with state := .idle, txIdle := true } else l) }

/-- The fabric logic after D_LANEF was without power: the fabric is discovered anew, and REQ_ID, the fixed number, DISC_GEN and the counts, which the
control cores hold, are kept (R287, R364, log entry 100). -/
def fabricOff (f : Fabric) : Fabric :=
  { node := 0, reqId := f.reqId, fixed := f.fixed, discGen := f.discGen, ports := f.ports, late := f.late, gaps := f.gaps, lastMaster := f.lastMaster }

/-- Every lane goes down with its domain in DEEP and OFF; links, ports, the fabric and the peer lane with it (R364). An isolated head stays isolated
(R29). -/
def lanesOff (d : Device) : Device :=
  let d := (List.finRange 40).foldl (fun d h => if (getLane d (.hl h)).state == .up || (getLane d (.hl h)).state == .idle then
    headAbsent h (if d.links[h].state == .isolated then .isolated else .down) (modLane d (.hl h) restartLane) else d) d
  let d := [0, 1, 2, 3].foldl (fun d (p : Port) => resetPort p (resetDicts (.port p) d)) d
  waggleDown { d with fabric := fabricOff d.fabric, lanes := mapAll d.lanes (fun l => if l.state == .disabled then l else restartLane l) }

/-- The DRAM in DEEP, where it refreshes itself, and in OFF, where it loses its content. -/
def dramOff (deep : Bool) (d : Device) : Device :=
  if deep then { d with dram := { d.dram with selfRefresh := true, relock := none, owed := mapAll d.dram.owed (fun _ => Vector.replicate 2 0) } }
  else { d with dram := { dies := d.dram.dies }, nv := { d.nv with failedStarts := 0 } }

/-- Phase 2 has ended (R370, R371): banks latched, domains switched, DRAM in self-refresh for DEEP SLEEP, lanes and the host link down where
their domains go off. -/
def enterState (d : Device) : Device :=
  let t := d.pwr.target
  let latched := if d.pwr.held.getLsbD 0 then d.pwr.latched else (speedLimit d, faultLow d, d.chip.camsw)
  let d := { d with
    pwr := { d.pwr with
      state := t, phase := 0, phaseAt := none, todo := [], quiesced := [], own := false, idle := false,
      held := d.pwr.held ||| 0b11111, latched := latched, cond := Vector.ofFn (fun k => condIn t k.val) }
    drive := { d.drive with zeroed := d.drive.zeroed || condIn t 5 == .off } }
  match t with
  | .sleep => idleHeadLanes d
  | .run => d
  | _ =>
    let d := lanesOff d
    let d := { d with chip := { d.chip with pcieUp := false }, nv := { d.nv with orderly := true, stopAt := ftime d } }
    dramOff (t == .deep) d

/-- The device wakes from SLEEP or DEEP SLEEP (R372): every domain is powered and clocked, lanes that were down train, and
EV_POWER_WAKE names the state left and the source. Held pads stay held until released (R371). A stop after this one is no entry to DEEP
SLEEP (R402). -/
def wakeUp (source : Nat) (d : Device) : Device :=
  let left := d.pwr.state
  let d := camWasOff (if left == .deep then rewriteSram d.pwr.retain d else d)
  let d := { d with
    pwr := { d.pwr with state := .run, phase := 0, cond := runCond d, quiesced := [], todo := [], own := false,
                        lastWake := BitVec.ofNat 4 source, wakeAt := none }
    nv := if left == .deep then { d.nv with orderly := false } else d.nv
    lanes := if left == .deep then mapAll d.lanes (fun l => if l.state == .disabled then l else restartLane l)
      else (wakeHeadLanes d).lanes }
  let d := if left == .deep && !d.therm.trip then resumeDram d else d
  raise .powerWake [w32 (match left with | .run => 0 | .sleep => 2 | .deep => 3 | .off => 4), w32 source] (setIrq 5 d)

/-- A wake source (R363, R369, Table 15.8): in phase 1, or while the checkpoint of the request is written, it refuses the entry; in
phase 2, whose end is free, the entry completes and the wake runs at once; in SLEEP and DEEP SLEEP it wakes the device. -/
def wakeSource (source : Nat) (d : Device) : Device :=
  let d := if d.pwr.phase == 2 then enterState d else d
  if d.pwr.phase == 1 || d.pwr.phase == 3 then
    refuseEntry .wake (if d.pwr.phase == 1 then d.pwr.todo.head? else none) d
  else if d.pwr.state == .sleep || d.pwr.state == .deep then wakeUp source d
  else d

/-! Roles on the fabric (R351). -/

/-- The payload of a role assignment (Table 14.8). -/
def rolePayload (d : Device) : List U8 :=
  let p := paired d
  leBytes 4 (if p then d.red.epoch.toNat else 0)
    ++ [BitVec.ofNat 8 (b2n (d.pos.role == .master) + 2 * b2n (d.pos.role == .deputy) + 4 * b2n d.mbx.measuring
          + 8 * b2n d.mbx.hostEvents),
        BitVec.ofNat 8 (b2n p + 2 * b2n (p && d.chip.unitB)), 0, 0]
    ++ leBytes 8 d.chip.uid.toNat ++ leBytes 8 (match d.red.pair with | some r => if p then r.peer.toNat else 0 | none => 0)

/-- A role assignment broadcast on CONTROL (R351); a standby sends none. -/
def sendRoles (d : Device) : Device :=
  if paired d && d.red.role == .standby then d else broadcast .control 0x0031 (rolePayload d) d

end Sys2Proof.Machine
end

