-- ==== Sys2Proof/Machine/Cells.lean ====
section
/-! DEFINITION. FHL cells: their bytes and CRC (R113, R114), what the FKB2's transmitter sends, and the bring-up of a head (R124). -/
namespace Sys2Proof.Machine

/-- R114's CRC: the fold value is the line number or SEQ, the head number and the unit. -/
def cellCrc (lo : U32) (head : Nat) (unit : Bool) (body : List U8) : U32 := crcFold lo (w32 (head + 256 * b2n unit)) body

/-- A LINE cell before its CRC (Table 5.3). -/
def lineBody (c : LineCell) : List U8 :=
  [BitVec.ofNat 8 (1 + 16 * c.wave.toNat),
   BitVec.ofNat 8 (b2n c.isNull + 2 * b2n c.mapBank + 4 * c.dropBitsM1.toNat + 16 * c.rowsM1.toNat + 64 * c.rsv.toNat)]
    ++ leBytes 2 c.length.toNat ++ leBytes 4 c.lineNo.toNat ++ leBytes 4 c.epoch.toNat ++ leBytes 4 c.jobId.toNat ++ c.codes

/-- A FIRE cell before its CRC (Table 5.4). -/
def fireBody (c : FireCell) : List U8 :=
  [BitVec.ofNat 8 (2 + 16 * c.row.toNat + 64 * c.rsv.1.toNat), c.rsv.2.1] ++ leBytes 2 c.length.toNat ++ leBytes 4 c.lineNo.toNat
    ++ leBytes 4 c.epoch.toNat ++ leBytes 4 c.jobId.toNat ++ leBytes 2 c.slip.toNat ++ leBytes 2 c.rsv.2.2.toNat

/-- A CONTROL cell before its CRC (Table 5.5). -/
def controlBody (c : ControlCell) : List U8 :=
  [BitVec.ofNat 8 (c.typ.toNat + 16 * c.subtype.toNat), c.rsv.1] ++ leBytes 2 c.length.toNat ++ leBytes 2 c.seq.toNat
    ++ leBytes 2 c.rsv.2.toNat ++ leBytes 4 c.epoch.toNat ++ c.payload

/-- A STATUS cell before its CRC (Tables 5.5 and 5.7). -/
def statusBody (c : StatusCell) : List U8 :=
  [BitVec.ofNat 8 (c.typ.toNat + 16 * c.subtype.toNat), c.rsv] ++ leBytes 2 c.length.toNat ++ leBytes 2 c.seq.toNat ++ leBytes 2 c.echoSeq.toNat
    ++ leBytes 4 c.highest.toNat ++ c.payload

/-- The whole bytes of a STATUS cell (R433). -/
def statusBytes (c : StatusCell) : List U8 := (statusBody c) ++ leBytes 4 c.crc.toNat

/-- CRC of a LINE cell on the lane of head `h` of unit `u`. -/
def lineCrc (h : Nat) (u : Bool) (c : LineCell) : U32 := cellCrc c.lineNo h u (lineBody c)
/-- CRC of a FIRE cell. -/
def fireCrc (h : Nat) (u : Bool) (c : FireCell) : U32 := cellCrc c.lineNo h u (fireBody c)
/-- CRC of a CONTROL cell; IDENT folds 0x3F for the head number. -/
def controlCrc (h : Nat) (u : Bool) (c : ControlCell) : U32 :=
  cellCrc (w32 c.seq.toNat) (if c.subtype = 0 then 0x3F else h) u (controlBody c)
/-- CRC of a STATUS cell; IDENT folds 0x3F for the head number. -/
def statusCrc (h : Nat) (u : Bool) (c : StatusCell) : U32 :=
  cellCrc (w32 c.seq.toNat) (if c.subtype = 1 then 0x3F else h) u (statusBody c)

/-- LENGTH of a CONTROL subtype (Table 5.6); 0 for a reserved one. -/
def controlLength (sub : Nat) : Nat :=
  match sub with
  | 0 => 16
  | 1 => 24
  | 2 => 20
  | 3 => 16
  | 4 => 16
  | 5 => 52
  | 6 => 16
  | _ => 0

/-- LENGTH of a STATUS subtype (Table 5.7); 0 for a reserved one. -/
def statusLength (sub : Nat) : Nat :=
  match sub with
  | 0 => 48
  | 1 => 32
  | 2 => 24
  | 3 => 20
  | _ => 0

/-- A lane of a head carries cells: it is trained (chapter 11). -/
def headLaneUp (d : Device) (h : Head) : Bool :=
  (getLane d (.hl h)).state == .up || (getLane d (.hl h)).state == .idle

/-- A head exchanges cells: its lane carries them and it is not isolated (R28). -/
def headTalks (d : Device) (h : Head) : Bool := headLaneUp d h && d.links[h].state != .isolated

/-! The transmitter of a head lane (R115, R117) -/

/-- A UI of a head lane in units of 10 ps: 400, 320, 250 and 200 ps at the four rates (Table 5.12). -/
def uiTime (l : HeadLink) : Nat := #[40, 32, 25, 20].getD l.rate.toNat 40

/-- Fabric time in units of 10 ps. -/
def txNow (d : Device) : Nat := 25 * d.chip.qtime

/-- LENGTH of a cell. -/
def cellBytes : TxCell → Nat
  | .line c => c.length.toNat
  | .fire c => c.length.toNat
  | .control c => c.length.toNat

/-- The time that the next cell takes on a lane: its bytes and 4 bytes of delimiters, with the bits that stuffing adds, at most one in 25
(R112, R122, Table 5.8; log entry 73). -/
def cellTime (h : Head) (l : HeadLink) (c : TxCell) : Nat :=
  let bits := 8 * (cellBytes c + 4)
  uiTime l * (bits + min (Config.stuffBits h.val l.out.begun) ((bits + 24) / 25))

/-- A cell begins on a lane. -/
def beginCell (h : Head) (c : TxCell) (l : HeadLink) : HeadLink :=
  { l with out := { l.out with sending := some (c, cellTime h l c), whole := cellTime h l c, begun := l.out.begun + 1 }, tx := c :: l.tx }

/-- The next cell that waits begins: LINE cells in commit order, and a CONTROL cell only when no LINE cell is queued (R115). -/
def nextCell (h : Head) (l : HeadLink) : HeadLink :=
  match l.out.lines, l.out.controls with
  | c :: rest, _ => beginCell h (.line c) { l with out := { l.out with lines := rest } }
  | [], c :: rest => beginCell h (.control c) { l with out := { l.out with controls := rest } }
  | [], [] => l

/-- LINE and CONTROL cells sent one after the other over a time that no FIRE cell takes, at most `fuel` beginnings and ends. -/
def runCells (h : Head) : Nat → Nat → HeadLink → HeadLink
  | 0, _, l => l
  | fuel + 1, t, l =>
    match l.out.sending with
    | some (c, r) =>
      if r ≤ t then runCells h fuel (t - r) { l with out := { l.out with sending := none } }
      else { l with out := { l.out with sending := some (c, r - t) } }
    | none => if l.out.lines.isEmpty && l.out.controls.isEmpty then l else runCells h fuel t (nextCell h l)

/-- A lane's transmitter brought up to a time: the cell in transmission has stood still while FIRE cells were sent (R115), and FIRE cells
whose end has passed are completely sent (R140). -/
def advanceTx (h : Head) (now : Nat) (l : HeadLink) : HeadLink :=
  let l := if l.out.fireEnd ≤ now then
      runCells h (2 * (l.out.lines.length + l.out.controls.length) + 2) (now - max l.out.since l.out.fireEnd) l
    else l
  { l with
    fireSent := l.fireSent + (l.out.fires.filter (fun t => decide (t ≤ now))).length
    out := { l.out with since := now, fires := l.out.fires.filter (fun t => decide (now < t)) } }

/-- The time that a FIRE cell due within a cell in transmission waits: inside the start delimiter of 29 UI, inside the end delimiter of 3 UI, or
before a stuffed bit that is due (R269, Table 11.7). -/
def delimiterWait (h : Head) (l : HeadLink) : Nat :=
  match l.out.sending with
  | none => 0
  | some (_, r) =>
    let gone := l.out.whole - r
    if gone < 29 * uiTime l then 29 * uiTime l - gone
    else if r ≤ 3 * uiTime l then r
    else if Config.stuffDue h.val l.out.begun then uiTime l else 0

/-- The time that a FIRE cell due now waits: for the FIRE cell being sent, or for a delimiter or stuffed bit (R117, R269). -/
def fireWait (h : Head) (now : Nat) (l : HeadLink) : Nat :=
  if now < l.out.fireEnd then l.out.fireEnd - now else delimiterWait h l

/-- The cell in transmission goes on for a time in which it ends at the latest. -/
def goOn (t : Nat) (x : FhlTx) : FhlTx := { x with sending := x.sending.bind (fun e => if e.2 ≤ t then none else some (e.1, e.2 - t)) }

/-- A cell given to a transmitter at a time: a FIRE cell begins at once, after its wait (R117, R269); LINE and CONTROL cells wait their turn
(R115). -/
def giveCell (h : Head) (now : Nat) (c : TxCell) (l : HeadLink) : HeadLink :=
  let l := advanceTx h now l
  match c with
  | .fire _ =>
    let wait := fireWait h now l
    let done := now + wait + cellTime h l c
    let out := if now < l.out.fireEnd then l.out else goOn wait l.out
    { l with out := { out with fireEnd := done, fires := l.out.fires ++ [done], begun := l.out.begun + 1 }, tx := c :: l.tx }
  | .line x => advanceTx h now { l with out := { l.out with lines := l.out.lines ++ [x] } }
  | .control x => advanceTx h now { l with out := { l.out with controls := l.out.controls ++ [x] } }

/-- The LINE cell of a line has not been completely sent: it waits or is in transmission (R118). -/
def lineUnsent (job line : U32) (l : HeadLink) : Bool :=
  let mine : LineCell → Bool := fun c => !c.isNull && c.jobId == job && c.lineNo == line
  l.out.lines.any mine || (match l.out.sending with | some (.line c, _) => mine c | _ => false)

/-- A transmitter with nothing in transmission and nothing waiting. -/
def txIdleNow (l : HeadLink) : Bool := l.out.sending.isNone && l.out.lines.isEmpty && l.out.controls.isEmpty && l.out.fires.isEmpty

/-- The transmitters of the head lanes at the present time. -/
def advanceAll (d : Device) : Device :=
  if d.links.toList.all txIdleNow then d
  else { d with links := updAll d.links (fun h l => if txIdleNow l then l else advanceTx h (txNow d) l) }

/-- A lane in electrical idle sends a wake burst of 1.0 µs before its next cell: nothing is in transmission until its end (R272). -/
def wakeFirst (now : Nat) (l : HeadLink) : HeadLink := { l with out := { l.out with fireEnd := max l.out.fireEnd (now + 100000) } }

/-- A cell handed to a head lane's transmitter at a time; a lane in electrical idle leaves it (R272, R273). A D_LANEH that quiesces queues none
(Table 15.5). -/
def sendCellAt (now : Nat) (h : Head) (c : TxCell) (d : Device) : Device :=
  if d.chip.txOff || quiescing d 6 then d
  else
    let give := fun l => giveCell h now c (if (getLane d (.hl h)).txIdle then wakeFirst now l else l)
    modLane (modLink d h give) (.hl h) wakeTx

/-- A cell handed to a head lane's transmitter at the present time. -/
def sendCell (h : Head) (c : TxCell) (d : Device) : Device := sendCellAt (txNow d) h c d

/-- A CONTROL cell with the next SEQ, awaiting its reply (R119). -/
def emitControl (h : Head) (sub : BitVec 4) (payload : List U8) (d : Device) : Device :=
  let l := d.links[h]
  let c : ControlCell := { subtype := sub, length := BitVec.ofNat 16 (16 + payload.length), seq := l.seq + 1, epoch := d.red.epoch,
                           payload := payload, crc := 0 }
  let c := { c with crc := controlCrc h.val (unitB d) c }
  sendCell h (.control c) (modLink d h (fun l => { l with seq := c.seq, await := some (c, 0) }))

/-- A CONTROL cell sent, or queued while another awaits its reply: at most one per lane awaits (R119). A quiesced D_LANEH sends none until it
resumes (Table 15.5), and a unit that waits or is fenced none but what its role allows (Table 13.1). -/
def sendControl (h : Head) (sub : BitVec 4) (payload : List U8) (d : Device) : Device :=
  if !mayControl d sub then d
  else if d.links[h].await.isSome || quiescing d 6 then modLink d h (fun l => { l with queue := l.queue ++ [(sub, payload)] })
  else emitControl h sub payload d

/-- CONTROL cells that waited for D_LANEH to resume are sent (R369). -/
def resumeControl (h : Head) (d : Device) : Device :=
  match d.links[h].await, d.links[h].queue with
  | none, (sub, pay) :: rest => if quiescing d 6 then d else emitControl h sub pay (modLink d h (fun l => { l with queue := rest }))
  | _, _ => d

/-- Head lanes on which a CONTROL cell waits and none awaits its reply. -/
def controlsWait (d : Device) : Bool := d.links.toList.any (fun l => l.await.isNone && !l.queue.isEmpty)

/-- INHIBIT with SET (Table 5.6). -/
def sendInhibit (h : Head) (set : Bool) (d : Device) : Device := sendControl h 2 [BitVec.ofNat 8 (b2n set), 0, 0, 0] d

/-- Fire inhibit holds for a head: line.inhibit, R155, R160, the supply inhibit (R164), or R125's own (Table 4.5). -/
def inhibited (d : Device) (h : Head) : Bool :=
  d.fire.inhibit.getLsbD h.val || d.fire.supply.getLsbD h.val || d.links[h].absentInhibit

/-- MAP of a table in a waveform image (Table 6.3). -/
def waveMapOf (img : Mem) (h : Head) (t : Nat) : List U8 := memRead img (640 + (16 * h.val + t) * 64 + 12) 32

/-- WAVE_MAP for the 16 tables of an image into a pulse-map bank (R124, R126). -/
def sendMaps (h : Head) (img : Mem) (bank : Bool) (d : Device) : Device :=
  (List.range 16).foldl (fun d t =>
    sendControl h 5 ([BitVec.ofNat 8 (b2n bank), BitVec.ofNat 8 t, 0, 0] ++ waveMapOf img h t) d) d

/-- The waveform shadow bank holds content (R124). -/
def waveShadowFull (d : Device) : Bool := (getBank d .wave).loaded

/-- CONFIG with this unit's epoch: NOZZLES and STATUS_PERIOD, which the manual leaves to the FKB2 within 10 to 1,000 µs (log entry
15). -/
def sendConfig (h : Head) (d : Device) : Device :=
  sendControl h 1 (leBytes 2 d.links[h].nozzles ++ leBytes 2 250 ++ [0, 0, 0, 0]) d

/-- Bring-up begins on a trained head lane with IDENT (R124); an isolated head has none before its release (R28, R29). -/
def startBring (h : Head) (d : Device) : Device :=
  if d.links[h].state == .isolated then d
  else sendControl h 0 [] (modLink d h (fun l => { l with
    state := .linked, bring := .ident, await := none, queue := [], mapBank := false, mapsAcked := false, mapsDue := false, configured := false,
    shadowSent := false, statusSeq := none, delay := none, out := { begun := l.out.begun } }))

/-- FIRED_ROWS of a REPORT (Table 5.7). -/
def firedRows (c : StatusCell) : Nat := leAt c.payload 4 6

/-- Maps that step 4 did not send go to the head's other pulse-map bank after it: those of an image that is in force by now, or of a shadow bank that
has filled (R124, R126). -/
def lateShadow (h : Head) (d : Device) : Device :=
  if d.links[h].mapsDue then sendMaps h (getBank d .wave).active (!d.links[h].mapBank) d
  else if waveShadowFull d && !d.links[h].mapsAcked then sendMaps h (getBank d .wave).shadow (!d.links[h].mapBank) d
  else d

/-- A head becomes PRESENT (R124 steps 6 and 7): EV_HEAD_PRESENT, and INHIBIT SET 0 unless its fire inhibit holds, a thermal trip holds
(R386) or the device fires no job (R57, R330). Tokens from before its absence end HEAD_ABSENT: it fires from the next commit point (R125). -/
def presentHead (h : Head) (d : Device) : Device :=
  let d := skipTokens (fun t => t.head == h) .headAbsent d
  let d := modLink d h (fun l => { l with bring := .idle, state := .present, absentInhibit := false })
  let d := raise .headPresent [w32 h.val] d
  lateShadow h (if inhibited d h || d.therm.trip || d.jobs.lost then d else sendInhibit h false d)

/-- Bring-up goes on to its last steps: on an ACTIVE unit, or a promoting one whose self-test has passed (R327, R328). -/
def completes (d : Device) : Bool :=
  active d || (d.red.role == .promoting && (d.red.promo == some .load || d.red.promo == some .resume))

/-- The step of bring-up after the last cell of the present one is acknowledged (R124); a promoting unit stops after step 5 until its
self-test passes (R327, R328). -/
def bringNext (h : Head) (c : StatusCell) (d : Device) : Device :=
  match d.links[h].bring with
  | .echo =>
    let d := modLink d h (fun l => { l with bring := .maps, shadowSent := waveShadowFull d })
    let d := sendMaps h (getBank d .wave).active false d
    if waveShadowFull d then sendMaps h (getBank d .wave).shadow true d else d
  | .maps => sendConfig h (modLink d h (fun l => { l with bring := .config, mapsAcked := l.shadowSent && waveShadowFull d && !l.mapsDue }))
  | .config =>
    let d := modLink d h (fun l => { l with bring := .inhibit, configured := true, base := firedRows c, fireSent := 0 })
    if completes d then presentHead h d else d
  | _ => d

/-- A CONTROL cell whose reply has come was completely sent. -/
def sentControl (k : ControlCell) (t : FhlTx) : FhlTx :=
  { t with
    controls := t.controls.filter (fun c => c.seq != k.seq)
    sending := t.sending.filter (fun x => match x.1 with | .control c => c.seq != k.seq | _ => true) }

/-- The cell answered is the last of its bring-up step: the ECHO, the last WAVE_MAP, the CONFIG (R124). Other cells may wait behind it. -/
def endsStep (k : ControlCell) (l : HeadLink) : Bool :=
  let lastMap := k.subtype == 5 && !l.queue.any (fun e => e.1 == 5)
  match l.bring with
  | .echo => k.subtype == 6
  | .maps => lastMap
  | .config => k.subtype == 1
  | .idle => l.state == .present && lastMap
  | _ => false

/-- A reply to the CONTROL cell awaited: the next queued cell is sent, and the bring-up step moves on, or the maps of a PRESENT head are acknowledged,
with the last cell of either (R119, R124, R126). -/
def controlReplied (h : Head) (c : StatusCell) (d : Device) : Device :=
  match d.links[h].await with
  | some (k, _) =>
    if k.seq == c.echoSeq then
      let ends := endsStep k d.links[h]
      let d := modLink d h (fun l => { l with await := none, out := sentControl k l.out })
      let d := match d.links[h].queue with
        | (sub, pay) :: rest => emitControl h sub pay (modLink d h (fun l => { l with queue := rest }))
        | [] => d
      if !ends then d
      else if d.links[h].bring == .idle then modLink d h (fun l => { l with mapsAcked := true })
      else bringNext h c d
    else d
  | none => d

/-- One of the counts of Table 5.10 codes (head.status). -/
def countViol (h : Head) (k : Fin 10) (d : Device) : Device := modLink d h (fun l => { l with viol := upd l.viol k (· + 1) })

/-- An FHL violation 0x20 + k with its count (R141). -/
def fhlViolation (h : Head) (k : Fin 10) (ans : BitVec 2) (d : Device) : Device :=
  violation (BitVec.ofNat 8 (0x20 + k.val)) 1 (BitVec.ofNat 16 h.val) ans (countViol h k d)

/-- Checks of a received STATUS cell (R113, R114, R141): CRC_FAIL, BAD_CELL and STATUS_SEQ discard it. A standby unit discards every one
but a WITNESS reply (R311). -/
def takeStatus (h : Head) (sub : Nat) (c : StatusCell) (d : Device) : Option Device × Device :=
  let l := d.links[h]
  let d := rxActive (.hl h) d
  if !headLaneUp d h || l.state == .isolated || l.state == .down then (none, d)
  else if paired d && d.red.role == .standby && sub != 2 then (none, modLink d h (fun l => { l with statusSeq := some c.seq }))
  else if c.crc != statusCrc h.val (unitB d) c then (none, fhlViolation h 0 0 d)
  else if c.typ != 4 || c.subtype.toNat != sub || c.length.toNat != statusLength sub || c.payload.length + 16 != statusLength sub then
    (none, fhlViolation h 2 0 d)
  else
    let gap := match l.statusSeq with | some q => c.seq != q + 1 | none => false
    let d := modLink d h (fun l => { l with statusSeq := some c.seq })
    if gap then (none, fhlViolation h 3 0 d) else (some d, d)

end Sys2Proof.Machine
end

