-- ==== Sys2Proof/Machine/Adapter.lean ====
section
/-! DEFINITION. The head adapter (R119 to R121, R127, R129, R131, R133 to R139). -/
namespace Sys2Proof.Machine

/-- A port of an adapter changed. -/
def modAdPort (h : Head) (port : Bool) (f : AdPort → AdPort) (d : Device) : Device :=
  modAdapter d h (fun a => { a with ports := upd a.ports (if port then 1 else 0) f })

/-- A port of an adapter. -/
def adPort (d : Device) (h : Head) (port : Bool) : AdPort := d.adapters[h].ports[(if port then 1 else 0 : Fin 2)]

/-- HEAD_SAFE_N is low at the adapters (R130, R131). -/
def adapterSafe (d : Device) (h : Head) : Bool := d.adapters[h].safe || d.chip.headSafeLow || headSafeDriven d

/-- The adapter is powered and has the port (R138). -/
def adFacts (d : Device) (h : Head) (port : Bool) : Option AdapterFacts :=
  match d.adapters[h].facts with
  | some f => if port && !f.dual then none else some f
  | none => none

/-- Saturating 16-bit count. -/
def sat16 (n : Nat) : Nat := min 65535 (n + 1)

/-- The payload of a REPORT (Table 5.7). -/
def reportPayload (a : Adapter) (q : AdPort) : List U8 :=
  leBytes 2 a.temp.toNat
    ++ [BitVec.ofNat 8 (b2n a.inhibited + 2 * b2n a.configured + 4 * b2n q.safeSeen + 8 * b2n q.epochReject + 16 * b2n a.hot
          + 32 * b2n a.fault + 64 * b2n q.overflow),
        BitVec.ofNat 8 (min 255 a.held.length)]
    ++ leBytes 6 a.firedRows ++ [BitVec.ofNat 8 a.lastRow.toNat, 0] ++ leBytes 4 a.lastJob.toNat ++ leBytes 4 a.lastLine.toNat
    ++ leBytes 4 a.lastEpoch.toNat ++ leBytes 2 q.crcErrors ++ leBytes 2 q.discards ++ [0, 0, 0, 0]

/-- The payload of IDENT (Table 5.7). -/
def identPayload (f : AdapterFacts) (port : Bool) : List U8 :=
  [BitVec.ofNat 8 (f.headId.toNat + 64 * b2n f.dual + 128 * b2n port), BitVec.ofNat 8 (f.bitsOk.toNat + 16 * f.ratesOk.toNat)]
    ++ leBytes 2 f.maxNozzles.toNat ++ leBytes 2 f.lineDepth.toNat ++ [BitVec.ofNat 8 f.rowsMaxM1.toNat, 0]
    ++ leBytes 4 f.fixedLatency.toNat ++ leBytes 4 f.version.toNat

/-- A STATUS cell sent on a port with its next SEQ (Table 5.7). -/
def sendStatus (h : Head) (port : Bool) (id : Nat) (sub : BitVec 4) (echo : U16) (payload : List U8) (d : Device) :
    StatusCell × Device :=
  let q := adPort d h port
  let c : StatusCell := { subtype := sub, length := BitVec.ofNat 16 (16 + payload.length), seq := q.seq + 1, echoSeq := echo,
                          highest := d.adapters[h].highest, payload := payload, crc := 0 }
  let c := { c with crc := statusCrc id port c }
  (c, modAdPort h port (fun q => { q with seq := c.seq, tx := c :: q.tx }) d)

/-- A REPORT on a port; the flags that it carries since the previous REPORT restart (Table 5.7, log entry 18), SAFE_SEEN as 1 while the net
is still low. DESIGN CHOICE: OVERFLOW is kept per port, clears with the port's REPORT, and is reported at once on the port that the cell came on (R121,
log entry 98). -/
def sendReport (h : Head) (port : Bool) (id : Nat) (echo : U16) (d : Device) : StatusCell × Device :=
  let (c, d) := sendStatus h port id 0 echo (reportPayload d.adapters[h] (adPort d h port)) d
  (c, modAdPort h port (fun q => { q with safeSeen := d.adapters[h].safe, epochReject := false, overflow := false }) d)

/-- A cell discarded and counted in DISCARDS (R133). -/
def discardCell (h : Head) (port : Bool) (d : Device) : Device := modAdPort h port (fun q => { q with discards := sat16 q.discards }) d

/-- A cell failing its CRC (R133). -/
def badCrcCell (h : Head) (port : Bool) (d : Device) : Device :=
  modAdPort h port (fun q => { q with crcErrors := sat16 q.crcErrors }) d

/-- An unsolicited REPORT after EPOCH_REJECT or OVERFLOW becomes set, while CONFIGURED is 1 (R121). -/
def urgentReport (h : Head) (port : Bool) (id : Nat) (d : Device) : Device :=
  if d.adapters[h].configured then (sendReport h port id 0xFFFF d).2 else d

/-- A cell with an EPOCH below HIGHEST_EPOCH: discarded, counted, EPOCH_REJECT set (R127). -/
def rejectEpoch (h : Head) (port : Bool) (id : Nat) (d : Device) : Device :=
  urgentReport h port id (modAdPort h port (fun q => { q with epochReject := true }) (discardCell h port d))

/-- A cell with an EPOCH above HIGHEST_EPOCH raises it: held lines discarded, and with them their firings not yet triggered, since no line of a lower
epoch fires after it; CONFIGURED cleared, INHIBITED set (R127). -/
def raiseEpoch (h : Head) (epoch : U32) (d : Device) : Device :=
  if d.adapters[h].highest < epoch then
    modAdapter d h (fun a => { a with highest := epoch, held := [], due := [], configured := false, inhibited := true })
  else d

/-- Power-up (R139): the adapter begins its first attempt to train on each of its ports (R277, R279). -/
def execAdapterPowerUp (h : Head) (facts : AdapterFacts) (s : State) : Host.Outcome State Fault Refusal :=
  next s (modAdapter s.dev h (fun _ => {
    facts := some facts
    ports := Vector.ofFn (fun p => if p.val = 0 ∨ facts.dual then ({} : AdPort).begin s.dev.chip.qtime 4000000 else {}) }))

/-- R134: a non-NULL LINE cell is held when it is later than the last held line of its job and there is room. -/
def holdLine (h : Head) (port : Bool) (f : AdapterFacts) (c : LineCell) (d : Device) : Device :=
  let a := d.adapters[h]
  let fresh := match a.lastHeld with
    | some (j, l) => j != c.jobId || laterThan c.lineNo l
    | none => true
  if !fresh then discardCell h port d
  else if f.lineDepth.toNat ≤ a.held.length then
    urgentReport h port f.headId.toNat (modAdPort h port (fun q => { q with overflow := true }) (discardCell h port d))
  else if adapterSafe d h then d
  else modAdapter d h (fun a => { a with held := a.held ++ [⟨c, 0⟩], lastHeld := some (c.jobId, c.lineNo) })

/-- A LINE cell's format as R133 asks. -/
def lineFormOk (a : Adapter) (f : AdapterFacts) (c : LineCell) : Bool :=
  decide (c.rowsM1.toNat ≤ f.rowsMaxM1.toNat)
    && (if c.isNull then c.length == 20
        else c.length.toNat == 20 + a.nozzles * (c.dropBitsM1.toNat + 1) / 8 && c.codes.length + 20 == c.length.toNat)

/-- A LINE cell arrives (R127, R133, R134). -/
def execAdapterLineCell (h : Head) (port : Bool) (cell : LineCell) (s : State) : Host.Outcome State Fault Refusal :=
  let d := s.dev
  match adFacts d h port with
  | none => next s d
  | some f =>
    let id := f.headId.toNat
    if cell.crc != lineCrc id port cell then next s (badCrcCell h port d)
    else if cell.epoch < d.adapters[h].highest then next s (rejectEpoch h port id d)
    else
      let d := raiseEpoch h cell.epoch d
      if !d.adapters[h].configured || !lineFormOk d.adapters[h] f cell then next s (discardCell h port d)
      else
        let d := modAdPort h port (fun q => { q with lastLine := some (d.chip.qtime, cell.epoch) }) d
        if cell.isNull then next s d else next s (holdLine h port f cell d)

/-- Code of a nozzle in packed drop codes, nozzle 0 at bit 0 (Table 5.3). -/
def codeAt (bits : Nat) (codes : List U8) (n : Nat) : Nat :=
  (List.range bits).foldr (fun k a => bitsOf (byteAt codes ((n * bits + k) / 8)) ((n * bits + k) % 8) 1 + 2 * a) 0

/-- Row r dead in a held line that is earlier in the same job or of another job (R136). -/
def killRow (r : BitVec 2) (c : FireCell) (x : HeldLine) : HeldLine :=
  if x.cell.jobId != c.jobId || laterThan c.lineNo x.cell.lineNo then { x with gone := x.gone ||| BitVec.ofNat 4 (2 ^ r.toNat) } else x

/-- A held line each of whose rows has fired or is dead is dropped (R136). -/
def rowsLeft (x : HeldLine) : Bool := (List.range (x.cell.rowsM1.toNat + 1)).any (fun r => !x.gone.getLsbD r)

/-- The pulses of the nozzles of a row of a held line (R135). -/
def firingPulses (a : Adapter) (x : HeldLine) (r : Nat) : List (Nat × U16) :=
  let bits := x.cell.dropBitsM1.toNat + 1
  let rows := x.cell.rowsM1.toNat + 1
  let map := (a.maps[(if x.cell.mapBank then 1 else 0 : Fin 2)][finOf 16 x.cell.wave.toNat]).getD []
  (List.range a.nozzles).filterMap (fun n =>
    let code := codeAt bits x.cell.codes n
    if n % rows = r ∧ code ≠ 0 then some (n, map.getD code 0) else none)

/-- The held line that a FIRE cell fires; none where the cell is discarded: the adapter is not configured, inhibited or safe, the cell has
another length or an earlier EPOCH, no such line is held, or its row is not one of the line or has gone (R127, R133, R135, R136). -/
def fireLine (h : Head) (cell : FireCell) (d : Device) : Option HeldLine :=
  let a := d.adapters[h]
  let r := cell.row.toNat
  if !a.configured || cell.length != 24 || cell.epoch != a.highest || a.inhibited || adapterSafe d h then none
  else (a.held.find? (fun x => x.cell.jobId == cell.jobId && x.cell.lineNo == cell.lineNo && x.cell.epoch == a.highest)).filter
    (fun x => decide (r ≤ x.cell.rowsM1.toNat) && !x.gone.getLsbD r)

/-- A row of a held line accepted for its TRIG (R135): the row has gone, and every earlier line's row is dead (R136). -/
def takeFire (h : Head) (cell : FireCell) (x : HeldLine) (d : Device) : Device :=
  let r := cell.row.toNat
  let fire : Firing := { row := cell.row, job := cell.jobId, line := cell.lineNo, epoch := cell.epoch, wave := x.cell.wave,
                         mapBank := x.cell.mapBank, pulses := firingPulses d.adapters[h] x r }
  modAdapter d h (fun a => { a with
    due := a.due ++ [fire]
    held := ((a.held.map (fun y => if y == x then { y with gone := y.gone ||| BitVec.ofNat 4 (2 ^ r) } else killRow cell.row cell y))).filter
      rowsLeft })

/-- A FIRE cell arrives (R127, R133, R135, R136). -/
def execAdapterFireCell (h : Head) (port : Bool) (cell : FireCell) (s : State) : Host.Outcome State Fault Refusal :=
  let d := s.dev
  match adFacts d h port with
  | none => next s d
  | some f =>
    if cell.crc != fireCrc f.headId.toNat port cell then next s (badCrcCell h port d)
    else if cell.epoch < d.adapters[h].highest then next s (rejectEpoch h port f.headId.toNat d)
    else
      match fireLine h cell (raiseEpoch h cell.epoch d) with
      | none => next s (discardCell h port (raiseEpoch h cell.epoch d))
      | some x => next s (takeFire h cell x (raiseEpoch h cell.epoch d))

/-- The head's firing is triggered FIXED_LATENCY after the fire marker of the oldest firing accepted (R137, R139). -/
def execAdapterFireTrigger (h : Head) (s : State) : Host.Outcome State Fault Refusal :=
  match s.dev.adapters[h].due with
  | [] => next s s.dev
  | f :: rest =>
    next s (modAdapter s.dev h (fun a => { a with
      due := rest, firings := f :: a.firings, firedRows := (a.firedRows + 1) % 2 ^ 48, lastRow := f.row, lastJob := f.job,
      lastLine := f.line, lastEpoch := f.epoch }))

/-- NOZZLES and STATUS_PERIOD of a CONFIG are ones that Table 5.6 and MAX_NOZZLES allow; another CONFIG is answered and not accepted (log
entry 70). -/
def configOk (f : AdapterFacts) (p : List U8) : Bool :=
  let n := leAt p 0 2
  let t := leAt p 2 2
  decide (512 ≤ n) && decide (n ≤ 6144) && n % 256 == 0 && decide (n ≤ f.maxNozzles.toNat) && decide (10 ≤ t) && decide (t ≤ 1000)

/-- What a CONTROL cell of Table 5.6 does to the adapter (R136: CONFIG and INHIBIT with SET 1 drop every held line). -/
def applyControl (h : Head) (f : AdapterFacts) (c : ControlCell) (d : Device) : Device :=
  let p := c.payload
  match c.subtype.toNat with
  | 1 =>
    if configOk f p then
      modAdapter d h (fun a => { a with configured := true, nozzles := leAt p 0 2, period := leAt p 2 2, held := [] })
    else d
  | 2 =>
    if bitOf (byteAt p 0) 0 then modAdapter d h (fun a => { a with inhibited := true, held := [] })
    else modAdapter d h (fun a => { a with inhibited := false })
  | 5 =>
    let bank : Fin 2 := if bitOf (byteAt p 0) 0 then 1 else 0
    let map : List U16 := (List.range 16).map (fun k => BitVec.ofNat 16 (leAt p (4 + 2 * k) 2))
    modAdapter d h (fun a => { a with maps := upd a.maps bank (fun m => upd m (finOf 16 (byteAt p 1 % 16)) (fun _ => some map)) })
  | _ => d

/-- OTHER_AGE and OTHER_EPOCH of a WITNESS reply (Table 5.7, R129); the epoch of no cell and an age beyond its 32 bits are free values (log
entry 9). -/
def witnessPayload (h : Head) (port : Bool) (d : Device) : List U8 × Device :=
  match (adPort d h (!port)).lastLine with
  | none =>
    let (v, d) := draw d
    (leBytes 4 0xFFFFFFFF ++ leBytes 4 v.toNat, d)
  | some (t, e) =>
    let age := (d.chip.qtime - t) / 4000
    if age < 0xFFFFFFFF then (leBytes 4 age ++ leBytes 4 e.toNat, d)
    else
      let (v, d) := draw d
      (leBytes 4 v.toNat ++ leBytes 4 e.toNat, d)

/-- The reply to an applied CONTROL cell (Table 5.6): TURN and the EPOCH of no cell are values that the manual does not state (log entry
9). -/
def replyTo (h : Head) (port : Bool) (f : AdapterFacts) (c : ControlCell) (d : Device) : StatusCell × Device :=
  let id := f.headId.toNat
  match c.subtype.toNat with
  | 0 => sendStatus h port id 1 c.seq (identPayload f port) d
  | 4 =>
    let (p, d) := witnessPayload h port d
    sendStatus h port id 2 c.seq p d
  | 6 =>
    let (v, d) := draw d
    sendStatus h port id 3 c.seq (leBytes 4 v.toNat) d
  | _ => sendReport h port id c.seq d

/-- A CONTROL cell under the epoch rule "not lower" of Table 5.6 (R120): CONFIG, WAVE_MAP, and INHIBIT with SET 0. -/
def notLower (c : ControlCell) : Bool :=
  c.subtype == 1 || c.subtype == 5 || (c.subtype == 2 && !bitOf (byteAt c.payload 0) 0)

/-- A CONTROL cell that repeats none: applied under its epoch rule and answered, its reply kept for a repeat (R119, R120, R127). -/
def newControl (h : Head) (port : Bool) (f : AdapterFacts) (cell : ControlCell) (d : Device) : Device :=
  if notLower cell && decide (cell.epoch < d.adapters[h].highest) then rejectEpoch h port f.headId.toNat d
  else
    let d := applyControl h f cell (if notLower cell then raiseEpoch h cell.epoch d else d)
    modAdPort h port (fun q => { q with lastCtrl := some (cell.seq, (replyTo h port f cell d).1) }) (replyTo h port f cell d).2

/-- A CONTROL cell, or one of unknown TYPE, arrives: a repeat is answered again, an applied cell is answered once (R119, R120, R127, R133). -/
def execAdapterControlCell (h : Head) (port : Bool) (cell : ControlCell) (s : State) : Host.Outcome State Fault Refusal :=
  let d := s.dev
  match adFacts d h port with
  | none => next s d
  | some f =>
    let id := f.headId.toNat
    if cell.crc != controlCrc id port cell then next s (badCrcCell h port d)
    else if cell.typ != 3 || cell.length.toNat != controlLength cell.subtype.toNat || cell.payload.length + 16 != cell.length.toNat then
      next s (discardCell h port d)
    else
      match ((adPort d h port).lastCtrl.filter (fun x => x.1 == cell.seq)) with
      | some x => next s (sendStatus h port id x.2.subtype cell.seq x.2.payload d).2
      | none => next s (newControl h port f cell d)

/-- HEAD_SAFE_N low for 50 ns (R131): firings not triggered stop, held lines are discarded, SAFE_SEEN is set. -/
def execAdapterHeadSafe (h : Head) (s : State) : Host.Outcome State Fault Refusal :=
  if (s.dev.adapters[h]).facts.isSome then
    next s (modAdapter s.dev h (fun a => { a with
      safe := true, due := [], held := [], ports := mapAll a.ports (fun q => { q with safeSeen := true }) }))
  else next s s.dev

/-- A configured adapter reports on each trained port (R121). The lane of the other unit is outside the model, so port B of a dual adapter,
or A for unit B, is taken as trained (log entry 18). -/
def reportPorts (h : Head) (f : AdapterFacts) (d : Device) : Device :=
  if d.adapters[h].configured then
    let mine := unitB d
    let d := if headLaneUp d h then (sendReport h mine f.headId.toNat 0xFFFF d).2 else d
    if f.dual then (sendReport h (!mine) f.headId.toNat 0xFFFF d).2 else d
  else d

/-- The adapter's reading of its head: a REPORT when STATUS_PERIOD has passed, and within 20 µs after HOT or HEAD_FAULT becomes set (R121; the
reading is an operand of this row, log entry 71). -/
def execAdapterReportTimer (r : HeadReading) (s : State) : Host.Outcome State Fault Refusal :=
  let a := s.dev.adapters[r.head]
  match a.facts with
  | none => next s s.dev
  | some f =>
    let d := modAdapter s.dev r.head (fun a => { a with temp := r.temp, hot := r.hot, fault := r.fault })
    if r.periodic || (r.hot && !a.hot) || (r.fault && !a.fault) then next s (reportPorts r.head f d) else next s d

end Sys2Proof.Machine
end

