-- ==== Sys2Proof/Machine/Banks.lean ====
section
/-! DEFINITION. The banks of the DRAM (R244, R247, R255, R263): training records, where a granule's check bits lie, and time for victim refreshes and
a relock. -/
namespace Sys2Proof.Machine

/-! Training records (R252) -/

/-- A training record as the journal holds it: the fields in order, a byte each (Table 17.6; log entry 81). -/
def trainBytes (r : TrainRec) : List U8 :=
  r.command.toList ++ r.offsets.toList ++ r.read.toList ++ r.write.toList ++ r.widths.toList

/-- The training record that a journal body of 48 bytes holds. -/
def trainOf (b : List U8) : Option TrainRec :=
  let at_ (n k : Nat) : Vector U8 n := Vector.ofFn (fun i => byteAt b (k + i.val))
  if b.length = 48 then some ⟨at_ 8 0, at_ 16 8, at_ 8 24, at_ 8 32, at_ 8 40⟩ else none

/-! Check bits (R246, R247) -/

/-- Base of a channel's check region, the upper 1/16 of the channel. -/
def checkBase (d : Device) : Nat := d.dram.physical / 4 / 16 * 15

/-- Where the check bits of the granule at channel data address L lie in its channel (R246). -/
def checkAddress (d : Device) (l : Nat) : Nat := checkBase d + l / 16

/-- The check bits of granule g: of its data and its channel data address (R247). The check region holds these but where a check fails. -/
def checkOf (d : Device) (g : Nat) : U16 := Config.checkBits (dramRead d (32 * g) 32) (channelOf (32 * g)).2

/-- The check line of block n: the check bits of its 16 granules (R246). -/
def checkLine (d : Device) (n : Nat) : List U16 := (List.range 16).map (fun i => checkOf d (16 * n + i))

/-- The check region of a channel read at granule i of the channel: the inverse of `checkAddress` over the channel's blocks. -/
def checkRegion (d : Device) (ch : Port) (i : Nat) : U16 := checkOf d (16 * (4 * (i / 16) + ch.val) + i % 16)

/-! Time (R255, R263) -/

/-- Time passes for the victim refreshes: those at their end free their banks, and those that wait begin where their bank is free (R263). -/
def advanceVictims (d : Device) : Device :=
  if d.dram.victims.isEmpty && d.dram.victimQueue.isEmpty then d
  else
    let q := d.dram.victimQueue
    let d := modDram d (fun m => { m with victims := m.victims.filter (fun v => decide (d.chip.qtime < v.until_)), victimQueue := [] })
    q.foldl (fun d e => dueVictim e.1 e.2 d) d

/-- The PHY has relocked at the new point: the DRAM leaves self-refresh, and its training follows (R255). -/
def advanceRelock (d : Device) : Device :=
  match d.dram.relock with
  | some t => if t ≤ d.chip.qtime then modDram d (fun m => { m with relock := none, selfRefresh := false }) else d
  | none => d

end Sys2Proof.Machine
end

