-- ==== Sys2Proof/Machine/Codec.lean ====
section
/-! DEFINITION. The FKZ block (R223 to R231) and the adaptive-dictionary method (R235 to R239). -/
namespace Sys2Proof.Machine

/-! FKZ blocks -/

/-- Outcomes of decompression in the order of Table 9.3; `ok` carries the original bytes. -/
inductive Fkz where
  | header
  | table
  | expansion
  | distance
  | overrun
  | short
  | check
  | ok (bytes : List U8)
  deriving DecidableEq, Repr

/-- METHOD of a block header (Table 9.2). -/
def fkzMethod (b : List U8) : Nat := byteAt b 2 % 16
/-- ORIG_LEN (Table 9.2). -/
def fkzOrig (b : List U8) : Nat := leAt b 4 4
/-- COMP_LEN (Table 9.2). -/
def fkzComp (b : List U8) : Nat := leAt b 8 4
/-- Bytes a block occupies, rounded up to a multiple of 32 (R223). -/
def fkzSize (b : List U8) : Nat := (32 + fkzComp b + 31) / 32 * 32

/-- The block check of R224 on the 32 header bytes. -/
def fkzHeaderOk (b : List U8) : Bool :=
  leAt b 0 2 == 0x4B46 && byteAt b 2 < 2 && byteAt b 3 == 0 && decide (1 ≤ fkzOrig b ∧ fkzOrig b ≤ 65536)
    && (if fkzMethod b = 0 then fkzComp b == fkzOrig b else decide (156 ≤ fkzComp b ∧ fkzComp b < fkzOrig b))
    && leAt b 16 4 == (crc32c (b.take 16)).toNat && leAt b 20 12 == 0

/-- The 309 code lengths and nibble 309 of a code table section (R226). -/
def fkzNibble (p : List U8) (k : Nat) : Nat := bitsOf (byteAt p (k / 2)) (4 * (k % 2)) 4
/-- Code lengths of the literal/length alphabet. -/
def litLens (p : List U8) : List Nat := (List.range 277).map (fkzNibble p)
/-- Code lengths of the distance alphabet. -/
def distLens (p : List U8) : List Nat := (List.range 32).map (fun k => fkzNibble p (277 + k))

/-- Symbols of a length in symbol order. -/
def symsOf (lens : List Nat) (n : Nat) : List Nat := (List.range lens.length).filter (fun k => lens.getD k 0 == n)

/-- The first code of length n: codes of one length follow one another and double at each increase of length (R226). -/
def firstCode (lens : List Nat) : Nat → Nat
  | 0 => 0
  | n + 1 => 2 * (firstCode lens n + (if n = 0 then 0 else (symsOf lens n).length))

/-- The Kraft sum in units of 2^-15. -/
def kraft (lens : List Nat) : Nat := (lens.map (fun n => if n = 0 then 0 else 2 ^ (15 - n))).sum
/-- Used symbols. -/
def usedSyms (lens : List Nat) : List Nat := lens.filter (· != 0)
/-- A valid alphabet (R227). -/
def alphabetOk (lens : List Nat) : Bool := kraft lens == 2 ^ 15 || usedSyms lens == [1]
/-- The Table check of Table 9.3 (R226, R227). -/
def tablesOk (p : List U8) : Bool :=
  fkzNibble p 309 == 0 && alphabetOk (litLens p) && (litLens p).getD 256 0 != 0
    && (alphabetOk (distLens p) || (usedSyms (distLens p)).isEmpty)

/-- What reading one symbol or number gives. -/
inductive BitRead where
  | got (v pos : Nat)
  | noSymbol
  | pastEnd
  deriving DecidableEq, Repr

/-- Bit k of the coded data, byte by byte from bit 0 upwards (R228). -/
def codedBit (data : List U8) (k : Nat) : Nat := bitsOf (byteAt data (k / 8)) (k % 8) 1

/-- Reads a symbol: bits most significant first until a code of the alphabet is met; `fuel` bounds its length. -/
def readSym (lens : List Nat) (data : List U8) (stop : Nat) : Nat → Nat → Nat → Nat → BitRead
  | 0, _, _, _ => .noSymbol
  | fuel + 1, pos, n, code =>
    if lens.foldl max 0 ≤ n then .noSymbol
    else if stop ≤ pos then .pastEnd
    else
      let code := 2 * code + codedBit data pos
      let n := n + 1
      let f := firstCode lens n
      let syms := symsOf lens n
      if f ≤ code ∧ code < f + syms.length then .got (syms.getD (code - f) 0) (pos + 1)
      else readSym lens data stop fuel (pos + 1) n code

/-- Reads n extra bits, least significant first (R228). -/
def readExtra (data : List U8) (stop pos n : Nat) : BitRead :=
  if stop < pos + n then .pastEnd
  else .got ((List.range n).foldr (fun k a => codedBit data (pos + k) + 2 * a) 0) (pos + n)

/-- Extra bits of an index (R229). -/
def extraBits (i : Nat) : Nat := if i < 4 then 0 else i / 2 - 1
/-- The value of an index with its extra bits (R229). -/
def indexValue (i x : Nat) : Nat := if i < 4 then i else (2 + i % 2) * 2 ^ (i / 2 - 1) + x

/-- Reads an index with its extra bits. -/
def readValue (data : List U8) (stop pos i : Nat) : BitRead :=
  match readExtra data stop pos (extraBits i) with
  | .got x p => .got (indexValue i x) p
  | r => r

/-- A match copied one byte at a time onto the output, newest byte first (R229). -/
def copyMatch : Nat → Nat → List U8 → List U8
  | 0, _, out => out
  | n + 1, dist, out => copyMatch n dist (out.getD (dist - 1) 0 :: out)

/-- A decompressor reaches the end of a block, or suspends at a place in it (R232). -/
inductive DecRun where
  | ended (r : Fkz)
  | held (at_ : DecPlace)
  deriving DecidableEq, Repr

/-- What the next symbol of the coded data is: a literal, the end of the block, or a match with its length and distance (R228, R229), each
with the bit position after it; or the outcome that ends the block there. -/
inductive Symbol where
  | literal (b : U8) (pos : Nat)
  | endOfBlock (pos : Nat)
  | copy (len dist pos : Nat)
  | bad (r : Fkz)
  deriving DecidableEq, Repr

/-- The next symbol, with the checks of Table 9.3 made at it; `done` bytes have been produced. -/
def nextSymbol (ll dl : List Nat) (data : List U8) (orig pos done : Nat) : Symbol :=
  let stop := 8 * data.length
  match readSym ll data stop 16 pos 0 0 with
  | .noSymbol => .bad .distance
  | .pastEnd => .bad .overrun
  | .got sym pos =>
    if sym < 256 then (if orig ≤ done then .bad .expansion else .literal (BitVec.ofNat 8 sym) pos)
    else if sym = 256 then .endOfBlock pos
    else
      match readValue data stop pos (sym - 257) with
      | .noSymbol => .bad .distance
      | .pastEnd => .bad .overrun
      | .got v pos =>
        if orig < done + (v + 4) then .bad .expansion
        else
          match readSym dl data stop 16 pos 0 0 with
          | .noSymbol => .bad .distance
          | .pastEnd => .bad .overrun
          | .got ds pos =>
            match readValue data stop pos ds with
            | .noSymbol => .bad .distance
            | .pastEnd => .bad .overrun
            | .got w pos => if done < w + 1 then .bad .distance else .copy (v + 4) (w + 1) pos

/-- The checks at symbol 256: ORIG_LEN bytes, and after the symbol the padding of the last byte alone (Table 9.3, R228). -/
def endOf (data : List U8) (orig pos : Nat) (out : List U8) : Fkz :=
  if out.length ≠ orig ∨ (pos + 7) / 8 ≠ data.length ∨ (List.range (8 * data.length - pos)).any (fun k => codedBit data (pos + k) != 0) then
    .short
  else .ok out.reverse

/-- The coded data decoded from a place on, while its destination has room for another byte (R232). Each symbol but the last writes a byte
at least and takes two turns at most, so 2 × (ORIG_LEN + 1) turns are the most. -/
def decodeRun (ll dl : List Nat) (data : List U8) (orig : Nat) : Nat → Nat → DecPlace → DecRun
  | 0, _, at_ => .held at_
  | fuel + 1, room, at_ =>
    let n := min at_.copy.1 room
    if at_.copy.1 ≠ 0 then
      let next : DecPlace := { at_ with copy := (at_.copy.1 - n, at_.copy.2), out := copyMatch n at_.copy.2 at_.out }
      if n < at_.copy.1 then .held next else decodeRun ll dl data orig fuel (room - n) next
    else
      match nextSymbol ll dl data orig at_.pos at_.out.length with
      | .bad r => .ended r
      | .endOfBlock pos => .ended (endOf data orig pos at_.out)
      | .literal b pos => if room = 0 then .held at_ else decodeRun ll dl data orig fuel (room - 1) { at_ with pos := pos, out := b :: at_.out }
      | .copy len dist pos => decodeRun ll dl data orig fuel room { at_ with pos := pos, copy := (len, dist) }

/-- The last check of Table 9.3. -/
def checkOutput (b : List U8) : Fkz → Fkz
  | .ok o => if (crc32c o).toNat == leAt b 12 4 then .ok o else .check
  | r => r

/-- Decompression of a block, given with its header, from a place on while its destination has room (Table 9.3, R232). -/
def fkzRun (b : List U8) (room : Nat) (at_ : DecPlace) : DecRun :=
  let pay := (b.drop 32).take (fkzComp b)
  if !fkzHeaderOk b then .ended .header
  else if fkzMethod b = 0 then
    if room < pay.length - at_.out.length then .held { at_ with out := ((pay.drop at_.out.length).take room).reverse ++ at_.out }
    else .ended (checkOutput b (.ok pay))
  else if !tablesOk pay then .ended .table
  else match decodeRun (litLens pay) (distLens pay) (pay.drop 155) (fkzOrig b) (2 * (fkzOrig b + 1)) room at_ with
    | .ended r => .ended (checkOutput b r)
    | .held p => .held p

/-- Decompression of a block into a destination with room for all of it (Table 9.3): ORIG_LEN bytes are the most that it writes (R231), so
it does not suspend. -/
def fkzDecode (b : List U8) : Fkz :=
  match fkzRun b (fkzOrig b) {} with
  | .ended r => r
  | .held _ => .expansion

/-- Position of an outcome in Table 9.3, OK last. -/
def Fkz.num : Fkz → Fin 8
  | .header => 0
  | .table => 1
  | .expansion => 2
  | .distance => 3
  | .overrun => 4
  | .short => 5
  | .check => 6
  | .ok _ => 7

/-- A block written from original bytes: the header of Table 9.2 and the payload. -/
def fkzBlock (method : Nat) (orig payload : List U8) : List U8 :=
  let h := leBytes 2 0x4B46 ++ [BitVec.ofNat 8 method, 0] ++ leBytes 4 orig.length ++ leBytes 4 payload.length
    ++ leBytes 4 (crc32c orig).toNat
  let b := h ++ leBytes 4 (crc32c h).toNat ++ List.replicate 12 0 ++ payload
  padTo ((b.length + 31) / 32 * 32) b

/-- cz.compress of one block (R233): METHOD 1 when the device's own bytes (R427) form a valid smaller block, else METHOD 0; ORIG_LEN
156 or less is always METHOD 0. -/
def fkzCompress (orig : List U8) (depth : Nat) : List U8 :=
  let p := Config.compressBlock orig depth
  let b := fkzBlock 1 orig p
  if 156 < orig.length ∧ fkzDecode b = .ok orig then b else fkzBlock 0 orig orig

/-- A decompressor that the real-time feed leaves free, the highest; decompressor 7 while the feed has all of them (Table 9.1; log entry 38). -/
def freeEngine (d : Device) : Fin 8 :=
  ((List.finRange 8).reverse.find? (fun k => d.feed.rings[k].fetching.isNone || d.feed.rings[k].suspended)).getD 7

/-- Decompressors that the real-time feed keeps busy. -/
def busyEngines (d : Device) : Nat :=
  ((List.finRange 8).filter (fun k => d.feed.rings[k].fetching.isSome && !d.feed.rings[k].suspended)).length

/-- A decompressor's counters for one block (cz.status). -/
def countDec (k : Fin 8) (inBytes : Nat) (r : Fkz) (d : Device) : Device :=
  let n := match r with | .ok o => o.length | _ => 0
  { d with cz := { d.cz with dec := upd d.cz.dec k (fun e => { e with
      bytesIn := e.bytesIn + BitVec.ofNat 64 inBytes, bytesOut := e.bytesOut + BitVec.ofNat 64 n, blocks := e.blocks + 1,
      outcomes := upd e.outcomes r.num (· + 1) }) } }

/-! The adaptive-dictionary method -/

/-- string(c) of R235, newest byte first; an entry names a code below its own. -/
def dictString (es : List (U16 × U8)) : Nat → Nat → List U8
  | 0, _ => []
  | fuel + 1, c =>
    if c < 256 then [BitVec.ofNat 8 c]
    else match es[c - 258]? with
      | some (p, b) => b :: dictString es fuel p.toNat
      | none => []

/-- The bytes of a code in order. -/
def codeBytes (es : List (U16 × U8)) (c : Nat) : List U8 := (dictString es (es.length + 1) c).reverse

/-- The decoder of R235 over the codes of one message: the dictionary and the output, or none when it desyncs. FLUSH ends the message, and
a payload holds one message (R236): codes after it, or a payload without it, are none of the encoder's, and desync (log entry 79). -/
def dictDecode : List Nat → List (U16 × U8) → Option Nat → List U8 → Option (List (U16 × U8) × List U8)
  | [], _, _, _ => none
  | c :: cs, es, prev, out =>
    if c = 256 then dictDecode cs [] none out
    else if c = 257 then (if cs.isEmpty then some (es, out) else none)
    else
      let next := 258 + es.length
      match (if c < next then some (codeBytes es c)
             else match prev with
               | some p => if c = next then some (codeBytes es p ++ (codeBytes es p).take 1) else none
               | none => none) with
      | none => none
      | some st =>
        match prev with
        | none => dictDecode cs es (some c) (out ++ st)
        | some p =>
          if next = 65536 then none
          else dictDecode cs (es ++ [(BitVec.ofNat 16 p, st.getD 0 0)]) (some c) (out ++ st)

/-- 16-bit little-endian code words of a payload. -/
def codeWords (p : List U8) : List Nat := (List.range (p.length / 2)).map (fun k => leAt p (2 * k) 2)

/-- The code of a string followed by a byte, when the dictionary has it. -/
def dictFind (es : List (U16 × U8)) (c : Nat) (b : U8) : Option Nat :=
  (es.findIdx? (fun e => e.1.toNat == c && e.2 == b)).map (· + 258)

/-- The encoder of R235 and R236 over the rest of a message with the code of its current string: codes newest first, dictionary. After a
code that brings the decoder's next_free to 65,536 the next one is RESET, also before FLUSH. -/
def dictEncode : List U8 → Nat → List (U16 × U8) → List Nat → List Nat × List (U16 × U8)
  | [], c, es, acc => if 258 + es.length = 65536 then (257 :: 256 :: c :: acc, []) else (257 :: c :: acc, es)
  | b :: bs, c, es, acc =>
    match dictFind es c b with
    | some k => dictEncode bs k es acc
    | none =>
      if 258 + es.length = 65536 then dictEncode bs b.toNat [] (256 :: c :: acc)
      else dictEncode bs b.toNat (es ++ [(BitVec.ofNat 16 c, b)]) (c :: acc)

/-- A dictionary message's bytes: the prefix of Table 9.4 and the payload. -/
def dictBytes (cls : BitVec 2) (stored : Bool) (orig payload : List U8) : List U8 :=
  [BitVec.ofNat 8 (cls.toNat + 4 * b2n stored), 0] ++ leBytes 2 orig.length ++ leBytes 2 payload.length ++ [0, 0]
    ++ leBytes 4 (crc32c orig).toNat ++ payload

/-- The encoder slot of a stream, assigned when one of the two is free (R238). -/
def encSlot (peer : U8) (cls : BitVec 2) (d : Device) : Option Dict × Device :=
  match d.cz.encSlots.find? (fun s => s.peer == peer && s.cls == cls) with
  | some s => (some s, d)
  | none =>
    if d.cz.encSlots.length < 2 then
      let s : Dict := { peer := peer, cls := cls, entries := [], prev := none }
      (some s, { d with cz := { d.cz with encSlots := d.cz.encSlots ++ [s] } })
    else (none, d)

/-- An encoder slot changed. -/
def modEnc (peer : U8) (cls : BitVec 2) (f : Dict → Dict) (d : Device) : Device :=
  { d with cz := { d.cz with encSlots := d.cz.encSlots.map (fun s => if s.peer == peer && s.cls == cls then f s else s) } }

/-- The link that carries a stream to a peer: WL, or the port of its route (R240). -/
def streamLink (d : Device) (peer : U8) : Option LinkId :=
  if peer = 255 then some .waggle else (routePort d peer.toNat).map LinkId.port

/-- Compressor 0 has taken a message of a dictionary stream (Table 9.1, cz.status). -/
def countEnc (inBytes outBytes : Nat) (d : Device) : Device :=
  { d with cz := { d.cz with enc := upd d.cz.enc 0 (fun e => { e with
      bytesIn := e.bytesIn + BitVec.ofNat 64 inBytes, bytesOut := e.bytesOut + BitVec.ofNat 64 outBytes }) } }

/-- One record or piece made a dictionary message of a stream (R236, R238): RESET first where the slot asks it; STORED without a slot
or after NO_SLOT. -/
def dictSend (peer : U8) (cls : BitVec 2) (orig : List U8) (d : Device) : List U8 × Device :=
  match encSlot peer cls d with
  | (none, d) => (dictBytes cls true orig orig, { d with cz := { d.cz with noEnc := bumpNoSlot peer cls d.cz.noEnc } })
  | (some s, d) =>
    if s.stored then (dictBytes cls true orig orig, modEnc peer cls (fun s => { s with noSlot := s.noSlot + 1 }) d)
    else
      match orig with
      | [] => ([], d)
      | b :: bs =>
        let es := if s.resetNext then [] else s.entries
        let (codes, es) := dictEncode bs b.toNat es (if s.resetNext then [256] else [])
        let pay := codes.reverse.flatMap (leBytes 2)
        let link := streamLink d peer
        (dictBytes cls false orig pay, countEnc orig.length pay.length (modEnc peer cls (fun s => { s with
          entries := es, resetNext := false, link := link
          resets := s.resets + BitVec.ofNat 64 (codes.filter (· == 256)).length }) d))
where
  bumpNoSlot (peer : U8) (cls : BitVec 2) (l : List (U8 × BitVec 2 × Nat)) : List (U8 × BitVec 2 × Nat) :=
    if l.any (fun e => e.1 == peer && e.2.1 == cls) then
      l.map (fun e => if e.1 == peer && e.2.1 == cls then (e.1, e.2.1, e.2.2 + 1) else e)
    else l ++ [(peer, cls, 1)]

end Sys2Proof.Machine
end

