-- ==== Sys2Proof/Machine/Boot.lean ====
section
/-! DEFINITION. Reset, start-up and the non-volatile store (chapter 17), supplies and clock faults (R361, R417, R419). -/
namespace Sys2Proof.Machine

/-! Reset -/

/-- The checkpoint slot that does not hold the newest committed checkpoint (R401). -/
def checkpointSlot (n : Nv) : Fin 2 := match n.newest with | some 0 => 1 | _ => 0

/-- A checkpoint being written is cut off: its slot holds it without a commit word (R401, Table 17.8). -/
def cutCheckpoint (n : Nv) : Nv :=
  match n.writing with
  | some c => { n with checkpoints := upd n.checkpoints (checkpointSlot n) (fun _ => some (c, false)), writing := none }
  | none => n

/-- An erase that was begun and has a free outcome (R397, log entry 101): the oldest in the background, else that of sys.nv_erase. -/
def erasing (n : Nv) : Option Nat := (n.erases ++ n.cmdErases.map (·.1)).head?

/-- Flash contents as a reset leaves them, where `lost` says whether a slot whose erase is cut off still counts: the record being programmed is torn (R397, Table 17.7), a checkpoint being written is cut off, and an image being
written leaves its slot invalid (R393).
-/
def cutFlash (lost : Bool) (n : Nv) : Nv :=
  let n := cutCheckpoint n
  let n := match (erasing n).filter (fun e => lost && decide (e < 4)) with | some e => spoilSlot e n | none => n
  let torn := n.programs.filterMap (fun p => match p with | .journal r _ => some r | _ => none)
  let add : JSlot → JSlot := fun s => match torn with
    | [] => s
    | r :: _ => { s with records := s.records ++ [r], used := s.used + recordSize r.body }
  let fwCut := n.programs.any (fun p => match p with | .firmware _ => true | _ => false)
  { n with
    journal := upd n.journal n.cur (fun s => s.map add)
    fw := if fwCut then upd n.fw (if n.slot then 0 else 1) (fun _ => none) else n.fw
    programs := [], due := false, erases := [], cmdErases := [], compacting := false }

/-- The epoch of the newest committed record (R399). -/
def recordedEpoch (n : Nv) : U32 := match n.epochs.find? (fun e => e.2.2) with | some e => e.1 | none => 0

/-- The device in reset: every field at its reset value but what is fused, outside the device or non-volatile. The head adapters are
devices of their own. DRAM contents do not outlive a reset in this model (log entry 4). -/
def inReset (cause : U8) (d : Device) : Device :=
  let cut := (erasing d.nv).isSome
  let n := cutFlash (cut && (Config.freeValue d.chip.drawn).getLsbD 0) d.nv
  { chip := { part := d.chip.part, uid := d.chip.uid, minSvn := d.chip.minSvn, modeSz := d.chip.modeSz, unitB := d.chip.unitB,
              addr := d.chip.addr, resetN := d.chip.resetN, pwrGood := d.chip.pwrGood, vioLow := d.chip.vioLow, txOff := !powered d, xoOk := d.chip.xoOk,
              lastClockFault := d.chip.lastClockFault, cause := cause, headSafeLow := d.chip.headSafeLow,
              drawn := if cut then d.chip.drawn + 1 else d.chip.drawn }
    adapters := d.adapters
    therm := { offsets := d.therm.offsets }
    dram := { dies := d.dram.dies }
    red := { epoch := recordedEpoch n }
    nv := { fw := n.fw, failedStarts := n.failedStarts, goodBoots := n.goodBoots, journal := n.journal, cur := n.cur,
            epochs := n.epochs, checkpoints := n.checkpoints, newest := n.newest, orderly := n.orderly,
            stopAt := if n.orderly || d.nv.stage != .ready then n.stopAt else ftime d } }

/-- Dies of Table 10.1, the same in all four channels (R245). -/
def geometryOk (dies : List DieInfo) : Bool :=
  match dies with
  | [a, b, c, e] =>
    [b, c, e].all (fun x => x.gbit == a.gbit && x.byteMode == a.byteMode && x.ranks == a.ranks && x.inTable)
      && a.inTable && [2, 4, 6, 8, 12, 16].contains a.gbit && (a.ranks == 1 || a.ranks == 2)
  | _ => false

/-- Physical capacity in bytes of the dies found (R245, Table 10.1). -/
def capacityOf (dies : List DieInfo) : Nat :=
  match dies with
  | a :: _ => 4 * (a.gbit * 2 ^ 27 * (if a.byteMode then 2 else 1) * a.ranks)
  | [] => 0

/-- Capacities that Table 10.1 supports: 4 to 32 GiB. -/
def capacityOk (n : Nat) : Bool := decide (4 * 2 ^ 30 ≤ n ∧ n ≤ 32 * 2 ^ 30)

/-- The training record of a point: that of the retained SRAM, else that of the journal (R252, Table 17.6). -/
def savedRecord (d : Device) (p : Fin 3) : Option TrainRec :=
  match d.dram.records[p] with
  | some r => some r
  | none => (journalGet d 4 p.val).bind trainOf

/-- The journal slot chosen at boot: the higher SLOT_SEQ among the valid ones (R397). -/
def chooseSlot (n : Nv) : Option (Fin 2) :=
  match n.journal[0], n.journal[1] with
  | some a, some b =>
    if a.valid && b.valid then (if a.seq < b.seq then some 1 else some 0) else if a.valid then some 0 else if b.valid then some 1 else none
  | some a, none => if a.valid then some 0 else none
  | none, some b => if b.valid then some 1 else none
  | none, none => none

/-- The journal scan (R397): torn records are ignored and counted, and the next append starts at a page boundary. With no valid slot
every key takes its default and EV_NV_EMPTY follows. -/
def scanJournal (d : Device) : Device :=
  match chooseSlot d.nv with
  | none => raise .nvEmpty [] { d with nv := { d.nv with cur := 0, torn := 0, journal := upd d.nv.journal 0 (fun _ => none) } }
  | some k =>
    let recs := match d.nv.journal[k] with | some s => s.records | none => []
    let torn := (recs.filter (fun r => !r.committed)).length
    let top := recs.foldl (fun a r => if a < r.rseq then r.rseq else a) (0 : U32)
    { d with nv := { d.nv with
        cur := k, torn := torn, rseq := top + 1
        journal := upd d.nv.journal k (fun s => s.map (fun s => { s with used := (s.used + 255) / 256 * 256 })) } }

/-- Settings that the journal's holding records give at boot (Table 17.6, R307, R288, R354, R401). -/
def loadJournal (d : Device) : Device :=
  let num : Nat → Nat → Nat := fun k dflt => match journalGet d k 0 with | some b => leAt b 0 4 | none => dflt
  let pair : Option PairRec := match journalGet d 1 0 with
    | some b => some ⟨BitVec.ofNat 64 (leAt b 0 8), byteAt b 8 == 1⟩ | none => none
  { d with
    nv := { d.nv with interval := num 7 1800, dramCap := num 5 0, bootCount := w32 (num 8 0) }
    prs := { d.prs with latch := num 6 0 == 1 }
    fabric := { d.fabric with fixed := num 2 0, reqId := BitVec.ofNat 8 (num 3 0) }
    red := { d.red with pair := pair } }

/-- The boot sequence starts (R388): the journal and the epoch area are scanned; the geometry is read (R245) and, when it is supported, training of
6400 MT/s begins from the journal's records (R251). -/
def startBoot (d : Device) : Device :=
  let d := loadJournal (scanJournal d)
  let good := geometryOk d.dram.dies && capacityOk (capacityOf d.dram.dies)
  if good then
    let m := { d.dram with physical := capacityOf d.dram.dies, records := Vector.ofFn (fun p => savedRecord d p) }
    { d with dram := aimAt (.seek [0, 1, 2]) m }
  else raise .dramGeometry [] d

/-- RESET_N rises with PWR_GOOD high and XO running: straps are sampled and the boot sequence starts (R1, R307, R388, R420). -/
def execResetNRise (straps : Straps) (dies : List DieInfo) (s : State) : Host.Outcome State Fault Refusal :=
  let d := s.dev
  if d.chip.resetN then next s d
  else
    let d := { d with
      chip := { d.chip with resetN := true, modeSz := straps.modeSz, unitB := straps.unitB, addr := straps.addr }
      dram := { d.dram with dies := dies } }
    if alive d then next s (startBoot d) else next s d

/-- RESET_N falls: the device is reset; held pads return to their reset state (R416, Table 15.8). Commands in flight end without a
response (R18). A power-on that is due stays so (R415, R417). -/
def execResetNFall (s : State) : Host.Outcome State Fault Refusal :=
  let d := s.dev
  if d.chip.resetN then
    let d := inReset (if powered d then 1 else 0) d
    next s { d with chip := { d.chip with resetN := false } }
  else next s d

/-- PWR_GOOD low for 1 µs, or VIO_AON low: transmitters off, WF pins high-impedance, and reset until the power is good again, with cause 0, with
RESET_N low too, since the next start is a power-on (R415, R417, R418); the count of failed starts is lost with the power (R391). -/
def powerLost (d : Device) : Device :=
  let d := inReset 0 d
  { d with chip := { d.chip with txOff := true }, nv := { d.nv with failedStarts := 0 } }

/-- The power is good again: the boot sequence starts when RESET_N is high (R388, R417). -/
def powerBack (d : Device) : Device :=
  let d := { d with chip := { d.chip with txOff := !powered d } }
  if alive d then startBoot d else d

/-- PWR_GOOD low (R417). -/
def execPwrGoodLow (s : State) : Host.Outcome State Fault Refusal :=
  let d := s.dev
  if d.chip.pwrGood then
    let d := powerLost d
    next s { d with chip := { d.chip with pwrGood := false } }
  else next s d

/-- PWR_GOOD high again (R388, R417). -/
def execPwrGoodHigh (s : State) : Host.Outcome State Fault Refusal :=
  let d := s.dev
  if d.chip.pwrGood then next s d else next s (powerBack { d with chip := { d.chip with pwrGood := true } })

/-- The level of a bank's monitor (R419). -/
def setBank (bank : Fin 6) (low : Bool) (d : Device) : Device := { d with chip := { d.chip with vioLow := upd d.chip.vioLow bank (fun _ => low) } }

/-- A VIO bank falls below 1.50 V for 10 µs (R419): outputs high-impedance, EV_VIO_LOW, and a supply out of range (R13). VIO_AON acts
as PWR_GOOD low (R417). -/
def execVioLow (bank : Fin 6) (s : State) : Host.Outcome State Fault Refusal :=
  let d := s.dev
  if d.chip.vioLow[bank] then next s d
  else if bank = 0 then next s (setBank 0 true (powerLost d))
  else if alive d then next s (accountingBreak 0 (raise .vioLow [w32 bank.val, 0] (setBank bank true d)))
  else next s (setBank bank true d)

/-- A VIO bank returns above 1.55 V for 1 ms: restored, EV_VIO_LOW marked so (R419); the end of a loss of VIO_AON is PWR_GOOD high again (R417). -/
def execVioRestored (bank : Fin 6) (s : State) : Host.Outcome State Fault Refusal :=
  let d := s.dev
  if !d.chip.vioLow[bank] then next s d
  else if bank = 0 then next s (powerBack (setBank 0 false d))
  else if alive d then next s (raise .vioLow [w32 bank.val, 1] (setBank bank false d))
  else next s (setBank bank false d)

/-- A clock fault: XO absent for 10 µs, or PLL lock lost while it is enabled (R361): lane transmitters and WF pins off, FAULT_N low. -/
def execClockFault (pll : Bool) (s : State) : Host.Outcome State Fault Refusal :=
  let d := s.dev
  if alive d && d.pwr.state != .off && !(pll && d.pwr.state == .deep) then
    let d' := { d with chip := { d.chip with
      clockFault := true, lastClockFault := some pll, txOff := true, wfOn := false, xoOk := pll } }
    next s (noteFault d d')
  else next s d

/-- 1 ms after a clock fault the device is reset as RESET_N would, with cause 2; while XO stays absent it stays in reset (R361). -/
def execClockFaultReset (s : State) : Host.Outcome State Fault Refusal :=
  let d := s.dev
  if d.chip.clockFault then
    let d := inReset 2 d
    if alive d then next s (startBoot d) else next s d
  else next s d

/-- XO runs again: a device held in reset by its absence starts (R361, R388). -/
def execXoRestored (s : State) : Host.Outcome State Fault Refusal :=
  let d := s.dev
  if d.chip.xoOk then next s d
  else
    let d := { d with chip := { d.chip with xoOk := true } }
    if d.chip.clockFault then next s d else if alive d then next s (startBoot d) else next s d

/-! Boot ROM and firmware -/

/-- MAGIC, STEPPING and SVN of an image (R391). -/
def imageFieldsOk (d : Device) (i : Option FwImage) : Bool :=
  match i with
  | some i => i.magic == 0x32464B46 && i.stepping == 0xB0 && decide (d.chip.minSvn ≤ i.svn)
  | none => false

/-- The boot ROM accepts the image (R391): its fields, its LENGTH (Table 17.2), and HASH and SIGNATURE of the image's bytes. -/
def imageOk (d : Device) (i : Option FwImage) : Bool :=
  imageFieldsOk d i && i.any (fun i => decide (1 ≤ i.length ∧ i.length ≤ 4193792) && Config.imageHashOk i.bytes && Config.imageSignatureOk i.bytes)

/-- The slot with the higher IMAGE_SEQ is tried first (R391). -/
def firstSlot (d : Device) : Bool :=
  match d.nv.fw[0], d.nv.fw[1] with
  | some a, some b => decide (a.imageSeq < b.imageSeq)
  | none, some _ => true
  | _, _ => false

/-- The image of a slot. -/
def slotImage (d : Device) (slot : Bool) : Option FwImage := if slot then d.nv.fw[1] else d.nv.fw[0]

/-- Lanes that firmware enables as it starts (Table 17.1): the fabric lanes, and WL in a pair; Stolzar mode has neither (R359). -/
def enableFabricLanes (d : Device) : Device :=
  if d.chip.modeSz then d
  else { d with lanes := Vector.ofFn (fun (i : Fin 49) =>
    let l := d.lanes[i]
    if 40 ≤ i.val ∧ i.val < 48 ∧ l.enable then restartLane l else l) }

/-- The calibration of every core of the variant's groups begins with the spare: at start-up (R153, R161, Table 17.1) and in the self-test of a
promotion (R328), which `boot` tells apart. -/
def startCal (boot : Bool) (d : Device) : Device :=
  { d with drive := { d.drive with groups := updAll d.drive.groups (fun g x =>
    if hasGroup d g.val then { x with atStart := boot, start := x.spare :: x.pinMap.toList, cal := some (x.spare, none) } else x) } }

/-- The slot that the boot ROM tries next (R391): the one with the higher IMAGE_SEQ first, but last when it has failed two starts. -/
def trySlot (d : Device) : Bool :=
  if decide (2 ≤ d.nv.failedStarts) == (d.nv.refused == 0) then !firstSlot d else firstSlot d

/-- WL is enabled in a pair (R307, Table 17.1). -/
def enableWl (d : Device) : Device := if paired d && (getLane d .wl).enable then modLane d .wl restartLane else d

/-- The image of a slot starts: fabric lanes and WL are enabled, and the DAC calibration begins (Table 17.1). -/
def startImage (slot : Bool) (i : FwImage) (d : Device) : Device :=
  startCal true (enableWl (enableFabricLanes { d with nv := { d.nv with stage := .starting, slot := slot, version := i.version, svn := i.svn } }))

/-- The boot ROM has read and checked the image in the slot that it tries (R391): it is started, or the other slot is tried; when neither is accepted,
BOOT_FAILED (R392). -/
def execBootImageVerified (slot : Bool) (s : State) : Host.Outcome State Fault Refusal :=
  let d := s.dev
  if alive d && d.nv.stage == .rom && slot == trySlot d then
    match (slotImage d slot).filter (fun i => imageOk d (some i)) with
    | some i => next s (startImage slot i d)
    | none =>
      if d.nv.refused = 0 then next s { d with nv := { d.nv with refused := 1 } }
      else next s (noteFault d (setIrq 7 { d with nv := { d.nv with stage := .failed }, chip := { d.chip with bootFailed := true } }))
  else next s d

/-- Firmware has not made the command interface ready within 1 s of starting: the boot watchdog resets the device with cause 3 and a
failed start of the first slot is counted (R391). -/
def execBootWatchdog (s : State) : Host.Outcome State Fault Refusal :=
  let d := s.dev
  if alive d && d.nv.stage == .starting then
    let n := if d.nv.slot == firstSlot d then d.nv.failedStarts + 1 else d.nv.failedStarts
    let d := inReset 3 d
    next s (startBoot { d with nv := { d.nv with failedStarts := n } })
  else next s d

/-- The per-nozzle totals as FKZ blocks of 64 KiB, nozzle by nozzle, 8 bytes each (R223, R401, log entry 101). -/
def totalBlocks (m : IMem) : List (List U8) :=
  (List.range 30).map (fun b => fkzCompress ((List.range 8192).flatMap (fun k => leInt 8 (iGet m (8192 * b + k)))) 16)

/-- The totals that the blocks of a checkpoint give (R402). -/
def totalsOf (bs : List (List U8)) : IMem :=
  let b := bs.flatMap (fun x => match fkzDecode x with | .ok o => o | _ => [])
  (List.range 245760).foldl (fun m k => iSet m k (BitVec.ofNat 64 (leAt b (8 * k) 8)).toInt) []

/-- The newest committed checkpoint. -/
def newestCheckpoint (d : Device) : Option Checkpoint :=
  match d.nv.newest with
  | some k => (match d.nv.checkpoints[k] with | some x => if x.2 then some x.1 else none | none => none)
  | none => none

/-- Drop totals from the newest committed checkpoint; EV_DROPS_GAP when the stop was not an orderly entry to OFF or DEEP SLEEP, with
the seconds between the checkpoint and the stop (R402). -/
def loadDrops (d : Device) : Device :=
  let c := newestCheckpoint d
  let d := { d with fire := { d.fire with drops := match c with | some x => totalsOf x.drops | none => [] } }
  if d.nv.orderly then d
  else
    let ns := d.nv.stopAt.toNat - (match c with | some x => x.ftime.toNat | none => 0)
    raise .dropsGap (gapTime ns)
      { d with nv := { d.nv with gap := some (ns, match c with | some x => x.rows | none => List.replicate 40 0) } }

/-- MIN_SVN rises to the running image's SVN on the third consecutive boot of that image that reaches EV_BOOTED (R393). -/
def raiseMinSvn (d : Device) : Device :=
  let image := slotImage d d.nv.slot
  let n := if d.nv.goodBoots.1 == image then d.nv.goodBoots.2 + 1 else 1
  let d := { d with nv := { d.nv with goodBoots := (image, n) } }
  if 3 ≤ n ∧ d.chip.minSvn < d.nv.svn then { d with chip := { d.chip with minSvn := d.nv.svn } } else d

/-- Head lanes are enabled after EV_BOOTED and the DAC calibration (R389): those of the variant, in Stolzar mode HL0 to HL15 (R359). -/
def enableHeadLanes (d : Device) : Device :=
  { d with lanes := Vector.ofFn (fun (i : Fin 49) =>
    let l := d.lanes[i]
    if l.enable && (d.links.getD i.val {}).enable && decide (i.val < 40) && hasHead d i.val && !(d.chip.modeSz && decide (16 ≤ i.val)) then restartLane l else l) }

/-- The epoch and the role with which a device starts (R310, R399); the stop that follows is no orderly one (R402), and without a pair record its WF pins
are driven (R312). -/
def bootRole (d : Device) : Device :=
  { d with
    red := { d.red with epoch := recordedEpoch d.nv, role := if d.red.pair.isSome then .standby else .active }
    nv := { d.nv with orderly := false }
    chip := { d.chip with wfOn := !paired d, txOff := false } }

/-- The command interface becomes ready (R388): EV_BOOTED is the first event, the events held back follow with the time and WPOS at which they were
raised (R348), and the start-up steps of R389, R393, R399 and R402 take place. -/
def bootUp (d : Device) : Device :=
  let held := d.mbx.held
  let d := { d with nv := { d.nv with stage := .ready }, mbx := { d.mbx with held := [] }, pwr := { d.pwr with cond := runCond d } }
  let slotSeq := match d.nv.journal[d.nv.cur] with | some s => s.seq | none => 0
  let d := raise .booted
    [w32 d.chip.cause.toNat, w32 (b2n d.nv.slot), slotSeq, w32 (if d.dram.ok then d.dram.point.val else 0xFF), w32 d.nv.torn] d
  let d := held.foldl (fun d e => recordEvent e.1 e.2.1 e.2.2.1 e.2.2.2 d) d
  let d := raiseMinSvn (loadDrops d)
  let d := noteRed d (bootRole d)
  let d := if d.nv.dramCap != 0 && d.dram.physical != 0 && d.nv.dramCap * 2 ^ 20 != d.dram.physical then raise .dramGeometry [] d else d
  setIrq 7 (journalAppend 8 0 (leBytes 4 (d.nv.bootCount.toNat + 1)) false (if startCalDone d then enableHeadLanes d else d))

/-- The command interface becomes ready: firmware has started and DRAM is trained or unavailable (Table 17.7). -/
def execBooted (s : State) : Host.Outcome State Fault Refusal :=
  let d := s.dev
  if alive d && d.nv.stage == .starting && d.dram.work.isNone then next s (bootUp d) else next s d

/-! Flash -/

/-- The record programmed in the current slot with its COMMIT word (R395); a journal without a valid slot starts one. -/
def putRecord (r : JRec) (d : Device) : Device :=
  let r := { r with committed := true }
  { d with nv := { d.nv with journal := upd d.nv.journal d.nv.cur (fun s =>
    let s := (s.filter (·.valid)).getD ⟨1, true, [], 64⟩
    some { s with records := s.records ++ [r], used := s.used + recordSize r.body }) } }

/-- What a committed record changes at once: CHECKPOINT_S (R401), DRAM_CAP (R245), BOOT_COUNT. -/
def afterRecord (r : JRec) (d : Device) : Device :=
  if r.key = 7 then { d with nv := { d.nv with interval := leAt r.body 0 4 } }
  else if r.key = 5 then { d with nv := { d.nv with dramCap := leAt r.body 0 4 } }
  else if r.key = 8 then { d with nv := { d.nv with bootCount := w32 (leAt r.body 0 4) } }
  else d

/-- A programmed image verified under R391 (R393): OK, or BAD_CRC and the slot invalid. -/
def putImage (i : FwImage) (d : Device) : Device :=
  let k : Fin 2 := if d.nv.slot then 0 else 1
  let good := imageOk d (some i)
  let d := { d with nv := { d.nv with fw := upd d.nv.fw k (fun _ => if good then some i else none) } }
  finishWork (· == .fwUpdate) (if good then {} else { status := .badCrc }) d

/-- The oldest journal or firmware program in progress completes (R393, R395). -/
def execFlashProgramDone (s : State) : Host.Outcome State Fault Refusal :=
  let d := s.dev
  match (if !flashPins d || waitsErase 128 143 d then none else d.nv.programs.find? FlashWork.isRecord) with
  | none => next s d
  | some p =>
    let d := { d with nv := { d.nv with programs := d.nv.programs.eraseP FlashWork.isRecord } }
    match p with
    | .journal r reply =>
      let d := afterRecord r (putRecord r d)
      next s (if reply then finishWork (· == .flash) {} d else d)
    | .firmware i => next s (putImage i d)
    | _ => next s d

/-- Bytes of a slot after compaction. -/
def slotSizeOf (rs : List JRec) : Nat := 64 + (rs.map (fun r => recordSize r.body)).sum

/-- Less than 64 KiB of the current slot remains: compaction begins with the erase of the other slot (R396). -/
def execJournalCompaction (s : State) : Host.Outcome State Fault Refusal :=
  let d := s.dev
  match d.nv.journal[d.nv.cur] with
  | none => next s d
  | some sl =>
    if ready d && erasesMay d && d.nv.cmdErases.isEmpty && !d.nv.compacting && decide (524288 < sl.used + 65536) then
      let other := if d.nv.cur = 0 then 1 else 0
      next s { d with nv := { d.nv with compacting := true, erases := d.nv.erases ++ [other] } }
    else next s d

/-- Steps 2 to 4 of compaction (R396): the holding records under a header of the next SLOT_SEQ; then the old slot is erased. -/
def compact (d : Device) : Device :=
  match d.nv.journal[d.nv.cur] with
  | none => d
  | some sl =>
    let k : Fin 2 := if d.nv.cur = 0 then 1 else 0
    let recs := holding sl
    { d with nv := { d.nv with
        compacting := false, cur := k
        journal := upd d.nv.journal k (fun _ => some ⟨sl.seq + 1, true, recs, slotSizeOf recs⟩)
        erases := d.nv.erases ++ [d.nv.cur.val] } }
where
  holding (s : JSlot) : List JRec := s.records.filter (fun r => r.committed && !r.body.isEmpty
    && s.records.all (fun x => !(x.committed && x.key == r.key && x.index == r.index && decide (r.rseq < x.rseq))))

/-- The flash sectors of an erase (Table 17.4). -/
def erasedSectors (e : Nat) : List Nat :=
  if e < 2 then (List.range 8).map (128 + 8 * e + ·) else if e < 4 then (List.range 32).map (160 + 32 * (e - 2) + ·)
  else if e = 4 then (List.range 16).map (144 + ·) else [e - 100]

/-- What a completed erase makes of its slot (R396, R398, R399, R401): it is blank, and compaction goes on. -/
def eraseSlot (e : Nat) (d : Device) : Device :=
  let d := { d with nv := { d.nv with cleaned := (erasedSectors e ++ d.nv.cleaned).dedup } }
  if e < 2 then
    let k : Fin 2 := finOf 2 e
    let d := { d with nv := { d.nv with journal := upd d.nv.journal k (fun _ => none) } }
    if d.nv.compacting && k != d.nv.cur then compact d else d
  else if e < 4 then
    let k : Fin 2 := finOf 2 (e - 2)
    { d with nv := { d.nv with
        checkpoints := upd d.nv.checkpoints k (fun _ => none)
        newest := if d.nv.newest == some k then none else d.nv.newest } }
  else d

/-- An erase completes, those in the background before those of sys.nv_erase, which answers after its last one (R396, R398, R399, R401). -/
def execFlashEraseDone (s : State) : Host.Outcome State Fault Refusal :=
  let d := s.dev
  if !flashPins d then next s d
  else
    match (if erasesMay d then d.nv.erases else []), d.nv.cmdErases with
    | e :: rest, _ => next s (eraseSlot e { d with nv := { d.nv with erases := rest } })
    | [], (e, last) :: rest =>
      let d := eraseSlot e { d with nv := { d.nv with cmdErases := rest } }
      next s (if last then finishWork (· == .erase) {} d else d)
    | [], [] => next s d

/-- The slot of the next checkpoint is blank, and erased since reset (R397, R401); a unit that starts no erase asks only for a blank one (R400). -/
def slotBlank (d : Device) : Bool :=
  let k := checkpointSlot d.nv
  (d.nv.checkpoints[k]).isNone && (!erasesMay d || d.nv.cleaned.contains (160 + 32 * k.val))

/-- The slot of a new checkpoint is queued for an erase unless it is blank or one is queued: a checkpoint was cut off in it, or the erase after
the last one was (R401), or it has not been erased since reset (R397). -/
def blankSlot (d : Device) : Device :=
  let k := checkpointSlot d.nv
  if !slotBlank d && !d.nv.erases.contains (k + 2) && d.nv.cmdErases.all (fun e => e.1 != k.val + 2) then
    { d with nv := { d.nv with erases := d.nv.erases ++ [k.val + 2] } }
  else d

/-- A checkpoint can be captured: a unit that starts no erase needs a blank slot (R400, log entry 101). -/
def mayCapture (d : Device) : Bool := erasesMay d || slotBlank d

/-- A checkpoint captured (R401): totals, FIRED_ROWS of each head's latest REPORT, the running job and its line, the epoch and the
fabric time. -/
def captureCheckpoint (d : Device) : Device :=
  let rows := (List.range 40).map (fun h => match (d.links.getD h {}).report with | some c => leAt c.payload 4 6 | none => 0)
  let c : Checkpoint := { drops := totalBlocks d.fire.drops, rows := rows, job := runningId d, line := d.jobs.firstLine, epoch := d.red.epoch,
                          ftime := ftime d }
  let d := blankSlot d
  { d with nv := { d.nv with writing := some c, due := false, programs := d.nv.programs ++ [.checkpoint c] } }

/-- CHECKPOINT_S of fabric time has passed (R401): the checkpoint is captured at the next repeat boundary, at once when no boundaries
run. -/
def execCheckpointTimer (s : State) : Host.Outcome State Fault Refusal :=
  let d := s.dev
  if ready d && d.pwr.state == .run && d.nv.writing.isNone && flashPins d && mayCapture d then
    if d.jobs.boundaries then next s { d with nv := { d.nv with due := true } } else next s (captureCheckpoint d)
  else next s d

/-- The checkpoint's commit word is programmed: it is the newest, in the slot that did not hold the newest, and the other slot is
erased in the background (R401). -/
def commitCheckpoint (c : Checkpoint) (d : Device) : Device :=
  let k := checkpointSlot d.nv
  { d with nv := { d.nv with
      checkpoints := upd d.nv.checkpoints k (fun _ => some (c, true)), newest := some k, writing := none
      programs := d.nv.programs.filter (fun p => match p with | .checkpoint _ => false | _ => true)
      erases := d.nv.erases ++ [if k = 0 then 3 else 2] } }

end Sys2Proof.Machine
end

