-- ==== Sys2Proof/Machine/Waggle.lean ====
section
/-! DEFINITION. The waggle link between the units of a pair (R319, R320): frames sent, and the acceptance of frames received. -/
namespace Sys2Proof.Machine

/-- WL carries frames: its lane is trained and the peer is not isolated (R320, Table 13.6 0x44). -/
def waggleUp (d : Device) : Bool :=
  paired d && ((getLane d .wl).state == .up || (getLane d .wl).state == .idle) && !d.vlog.isolated.contains (3, 0)

/-- LENGTH of a waggle frame (Table 13.4). -/
def wagLength (payload : List U8) : Nat := 20 + (payload.length + 3) / 4 * 4

/-- The bytes of a frame before its CRC (Table 13.4). -/
def wagBody (kind : Nat) (f : WaggleFrame) : List U8 :=
  [BitVec.ofNat 8 (kind + 16 * f.rsv.1.toNat), f.rsv.2.1] ++ leBytes 2 f.length.toNat ++ leBytes 2 f.seq.toNat ++ leBytes 2 f.rsv.2.2.1.toNat
    ++ leBytes 4 f.epoch.toNat ++ leBytes 4 f.rsv.2.2.2.toNat ++ f.payload

/-- A frame that this unit sends: its LENGTH, SEQ, epoch and CRC, which folds SEQ and this unit's UID, for a HEARTBEAT 0 (R319, Table 13.4). -/
def wagFrame (d : Device) (kind : Nat) (seq : U16) (payload : List U8) : WaggleFrame :=
  let f : WaggleFrame := { length := BitVec.ofNat 16 (wagLength payload), seq := seq, epoch := d.red.epoch
                           payload := padTo (wagLength payload - 20) payload, crc := 0 }
  { f with crc := crcFold (w32 seq.toNat) (if kind = 1 then 0 else w32 d.chip.uid.toNat) (wagBody kind f) }

/-- Frames handed to the lane, the last one first; a lane in electrical idle leaves it (R272). -/
def wagPut (fs : List (Nat × WaggleFrame)) (d : Device) : Device := modLane (modRed d (fun r => { r with tx := fs ++ r.tx })) .wl wakeTx

/-- An unsequenced frame sent (Table 13.5). -/
def wagSend (kind : Nat) (payload : List U8) (d : Device) : Device := if waggleUp d then wagPut [(kind, wagFrame d kind 0 payload)] d else d

/-- Bytes of the frames not yet acknowledged (R320). -/
def wagUnacked (d : Device) : Nat := (d.red.replay.map (fun f => f.2.length.toNat)).sum

/-- A sequenced frame handed to the lane: it takes SEQ and stays in the replay buffer (R320). -/
def wagTransmit (kind : Nat) (payload : List U8) (d : Device) : Device :=
  let f := wagFrame d kind d.red.txSeq payload
  wagPut [(kind, f)] (modRed d (fun r => { r with txSeq := r.txSeq + 1, replay := r.replay ++ [(kind, f)] }))

/-- A frame keeps the unacknowledged bytes within 64 KiB (R320). -/
def wagFits (d : Device) (payload : List U8) : Bool := decide (wagUnacked d + wagLength payload ≤ 65536)

/-- The SEQ that the next sequenced frame handed over will carry. -/
def wagNextSeq (d : Device) : U16 := d.red.txSeq + BitVec.ofNat 16 d.red.waiting.length

/-- A sequenced frame sent, or waiting in order behind the 64 KiB limit (R320); a FENCED unit sends none (Table 13.1). -/
def wagSeq (kind : Nat) (payload : List U8) (d : Device) : Device :=
  if !waggleUp d || fenced d then d
  else if d.red.waiting.isEmpty && wagFits d payload then wagTransmit kind payload d
  else modRed d (fun r => { r with waiting := r.waiting ++ [(kind, payload)] })

/-- Waiting frames sent as far as the limit reaches, at most `fuel`. -/
def wagDrain : Nat → Device → Device
  | 0, d => d
  | fuel + 1, d =>
    match d.red.waiting with
    | [] => d
    | (k, p) :: rest =>
      if wagFits d p then wagDrain fuel (wagTransmit k p (modRed d (fun r => { r with waiting := rest }))) else d

/-- Waiting frames are sent once frames are acknowledged (R320). -/
def pumpWaggle (d : Device) : Device := if waggleUp d then wagDrain d.red.waiting.length d else d

/-- The UID that a receiver folds: that of the peer's latest HEARTBEAT (R319). -/
def peerUid (d : Device) : U64 :=
  match d.red.peer with
  | some h => h.uid
  | none => match d.red.pair with | some r => r.peer | none => 0

/-- A sequenced frame's CRC (R319). -/
def wagCrcOk (d : Device) (kind : Nat) (f : WaggleFrame) : Bool :=
  f.crc == crcFold (w32 f.seq.toNat) (w32 (peerUid d).toNat) (wagBody kind f)

/-- An ACK, NAK or NEED_FULL received on WL passes R319: the fold is 0 and the peer's UID. -/
def wagEndOk (d : Device) (kind : Nat) (payload : List U8) (x : FrameEnd) : Bool :=
  let f : WaggleFrame := { length := BitVec.ofNat 16 (20 + payload.length), seq := x.seq, epoch := x.epoch, payload := payload, crc := x.crc
                           rsv := (x.rsvW.1, x.rsv.1, x.rsvW.2.1, x.rsvW.2.2) }
  x.crc == crcFold 0 (w32 (peerUid d).toNat) (wagBody kind f)

/-- A negative response to a sequenced frame: NAK at the first, and the frames that follow are discarded until the frame wanted comes
(R298, R320, R321). -/
def wagNak (code : U8) (d : Device) : Device :=
  if d.red.naking then d
  else wagSend 3 (leBytes 2 d.red.rxSeq.toNat ++ [0, 0]) (violation code 3 0 1 (modRed d (fun r => { r with naking := true })))

/-- A frame of KIND k that no row takes: CRC_FAIL, or BAD_FRAME when its CRC is right (R319, R321, log entry 83). -/
def strangeFrame (k : BitVec 4) (f : WaggleFrame) (d : Device) : Device :=
  if f.crc != crcFold 0 (w32 (peerUid d).toNat) (wagBody k.toNat f) then violation 0x40 3 0 1 d else violation 0x43 3 0 0 d

/-- A sequenced frame received on WL (R319 to R321): whether it is taken, in order and whole, and the device with its CRC_FAIL, SEQ_GAP
or BAD_FRAME. An ACK is owed for a frame taken. -/
def takeWaggle (kind : Nat) (lengthOk : Bool) (f : WaggleFrame) (d : Device) : Bool × Device :=
  let d := rxActive .wl d
  if !waggleUp d then (false, d)
  else if f.other.isSome then (false, strangeFrame (f.other.getD 0) f d)
  else if !wagCrcOk d kind f then (false, wagNak 0x40 d)
  else if f.seq != d.red.rxSeq then (false, wagNak 0x41 d)
  else
    let d := modRed d (fun r => { r with rxSeq := r.rxSeq + 1, naking := false, ackDue := true })
    if f.length.toNat != 20 + f.payload.length || decide (2068 < f.length.toNat) || f.length.toNat % 4 != 0 || !lengthOk then (false, violation 0x43 3 0 0 d) else (true, d)

end Sys2Proof.Machine
end

