-- ==== Sys2Proof/Machine/Streams.lean ====
section
/-! DEFINITION. Dictionary streams as a sender keeps them (R236 to R240): messages sent, and messages held back while the transmit buffer of
a fabric port or of the waggle link has no room (R237). -/
namespace Sys2Proof.Machine

/-- Bytes free in the transmit buffer that a stream to a peer uses: that of WL, or of the port of its route (R237, R320). Without a route the
message is not held back. -/
def streamRoom (d : Device) (peer : U8) : Nat :=
  if peer = 255 then replayBytes - (wagUnacked d + (d.red.waiting.map (fun w => wagLength w.2)).sum)
  else match routePort d peer.toNat with
    | some p => portRoom d.fabric.ports[p]
    | none => replayBytes

/-- A whole dictionary message handed over (R199, R317): a STATE frame on WL, whose commit piece is remembered for its acknowledgement, or a
frame of BULK or MEASURE. -/
def emitMessage (m : CzHeld) (bytes : List U8) (d : Device) : Device :=
  if m.peer = 255 then
    wagSeq 4 bytes (match m.snap with | some n => modRed d (fun r => { r with snapMarks := r.snapMarks ++ [(n, wagNextSeq d)] }) | none => d)
  else if m.cls = 1 then (sendTo .bulk true m.peer 0x0051 bytes d).2
  else (sendTo .measure true m.peer 0x0060 bytes d).2

/-- The compressor begins a message, unless it has. -/
def beginMessage (m : CzHeld) (d : Device) : CzHeld × Device :=
  match m.begun with
  | some _ => (m, d)
  | none =>
    let (bytes, d) := dictSend m.peer m.cls m.orig d
    ({ m with begun := some (bytes, bytes.length), link := streamLink d m.peer }, d)

/-- The bytes of a begun message go into the room that there is, in whole code words of 2 bytes (R237): what is left of the room, and the
message when some of it is held back. A whole message is handed over. -/
def feedMessage (room : Nat) (m : CzHeld) (d : Device) : Nat × Option CzHeld × Device :=
  match m.begun with
  | none => (room, some m, d)
  | some (bytes, left) =>
    if left ≤ room then (room - left, none, emitMessage m bytes d)
    else (0, some { m with begun := some (bytes, left - room / 2 * 2) }, d)

/-- The oldest messages of a stream class go on into the room of its transmit buffer, at most `fuel`; while D_DP quiesces none begins (Table 15.5). -/
def feedStream (cls : BitVec 2) : Nat → Nat → Device → Device
  | 0, _, d => d
  | fuel + 1, room, d =>
    match d.cz.held.find? (fun m => m.cls == cls) with
    | none => d
    | some m =>
      if m.begun.isNone && quiescing d 2 then d
      else
      let rest := d.cz.held.erase m
      let (m', d) := beginMessage m d
      match feedMessage room m' d with
      | (room, none, d) => feedStream cls fuel room { d with cz := { d.cz with held := rest } }
      | (_, some m', d) => { d with cz := { d.cz with held := m' :: rest } }

/-- One record or piece of a stream sent (R199, R315): at once where the transmit buffer has room for its message and no message of its class
is held back; else it waits in order, and compressor 0 stalls (R237). -/
def streamSend (peer : U8) (cls : BitVec 2) (orig : List U8) (snap : Option U32) (d : Device) : Device :=
  let m : CzHeld := { peer := peer, cls := cls, orig := orig, snap := snap, begun := none }
  let d' := { d with cz := { d.cz with held := d.cz.held ++ [m] } }
  if fenced d then d
  else if d.cz.held.any (fun x => x.cls == cls) then noteStall d'
  else noteStall (feedStream cls 1 (streamRoom d peer - 20) d')

/-- HANDOVER follows the last message of its full snapshot (R337). -/
def sendHandover (d : Device) : Device :=
  match d.red.handover with
  | some n => if d.cz.held.any (fun m => m.cls == 1) then d else wagSeq 7 (leBytes 4 n.toNat) (modRed d (fun r => { r with handover := none }))
  | none => d

end Sys2Proof.Machine
end

