-- ==== Sys2Proof/Machine/Cz.lean ====
section
/-! DEFINITION. Dictionary streams as a receiver takes them (R235 to R240), and the compression and CRC commands (Table 9.9). -/
namespace Sys2Proof.Machine

/-! Dictionary streams -/

/-- What a receiver keeps of a stream changed. -/
def modDec (peer : U8) (cls : BitVec 2) (f : Dict → Dict) (d : Device) : Device :=
  let g : Dict → Dict := fun s => if s.peer == peer && s.cls == cls then f s else s
  { d with cz := { d.cz with decSlots := d.cz.decSlots.map g, unslotted := d.cz.unslotted.map g } }

/-- What a receiver keeps of a stream: its decoder slot, or that it desynced without one. -/
def decOf (d : Device) (peer : U8) (cls : BitVec 2) : Option Dict :=
  (d.cz.decSlots ++ d.cz.unslotted).find? (fun s => s.peer == peer && s.cls == cls)

/-- A stream notice to the sender of a stream (R238, R239): on WL a STREAM_NOTICE frame, over the fabric 0x0044 or 0x0045, and for saved
state a pair control message (R318). -/
def sendNotice (peer : U8) (resync : Bool) (cls : BitVec 2) (d : Device) : Device :=
  let d := { d with cz := { d.cz with notices := (peer, resync, cls) :: d.cz.notices } }
  let c : U8 := BitVec.ofNat 8 cls.toNat
  if peer = 255 then wagSend 9 [BitVec.ofNat 8 (b2n resync), c, 0, 0] d
  else if cls = 1 then (sendTo .bulk false peer 0x0052 [3, BitVec.ofNat 8 (b2n resync), c, 0, 0, 0, 0, 0] d).2
  else (sendTo .control false peer (if resync then 0x0045 else 0x0044) [c] d).2

/-- The violation of a desync (Table 9.5): 0x3E on a fabric port, 0x4E on the waggle link. -/
def desyncViolation (l : LinkId) (d : Device) : Device :=
  match l with
  | .port p => violation 0x3E 2 (BitVec.ofNat 16 (2 * p.val)) 0 d
  | .waggle => violation 0x4E 3 0 0 d

/-- A decoder desyncs (R239): the message is discarded, the stream, also one of STORED messages without a slot, waits for RESET, and RESYNC
is sent. -/
def desync (m : DictMessage) (d : Device) : Device :=
  let d := if (decOf d m.peer m.cls).isSome then d
    else { d with cz := { d.cz with unslotted := d.cz.unslotted ++ [{ peer := m.peer, cls := m.cls, entries := [], link := some m.port }] } }
  sendNotice m.peer true m.cls (desyncViolation m.port (modDec m.peer m.cls (fun s => { s with desync := true, desyncs := s.desyncs + 1 }) d))

/-- A message of a stream without a slot is discarded and counted (R238). -/
def discardNoSlot (m : DictMessage) (d : Device) : Device :=
  { d with cz := { d.cz with noSlot := dictSend.bumpNoSlot m.peer m.cls d.cz.noSlot } }

/-- The output of a message equals ORIG_LEN and ORIG_CRC (R239). -/
def outputOk (m : DictMessage) (out : List U8) : Bool :=
  out.length == m.origLen.toNat && decide (1 ≤ out.length ∧ out.length ≤ 16384) && crc32c out == m.origCrc

/-- A decompressor has served a received message (Table 9.1, cz.status). -/
def countStream (inBytes outBytes : Nat) (d : Device) : Device :=
  { d with cz := { d.cz with dec := upd d.cz.dec (freeEngine d) (fun e => { e with
      bytesIn := e.bytesIn + BitVec.ofNat 64 inBytes, bytesOut := e.bytesOut + BitVec.ofNat 64 outBytes }) } }

/-- A message decoded in its slot. -/
def decodeIn (m : DictMessage) (codes : List Nat) (s : Dict) (d : Device) : Option (List U8) × Device :=
  let n : U64 := BitVec.ofNat 64 (codes.filter (· == 256)).length
  match dictDecode codes s.entries none [] with
  | some (es, out) =>
    let d := countStream (2 * codes.length) out.length d
    if outputOk m out then
      (some out, modDec m.peer m.cls (fun s => { s with entries := es, desync := false, resets := s.resets + n, link := some m.port }) d)
    else (none, desync m d)
  | none => (none, desync m (countStream (2 * codes.length) 0 d))

/-- A dictionary message received (R235 to R239): its original bytes, or none when it is discarded. A desynced stream discards each message,
STORED ones too, until one begins with RESET (R239). -/
def dictReceive (m : DictMessage) (d : Device) : Option (List U8) × Device :=
  let payload := m.payload.take m.payLen.toNat
  let codes := codeWords payload
  let begins := !m.stored && codes.head? == some 256
  let slot := d.cz.decSlots.find? (fun s => s.peer == m.peer && s.cls == m.cls)
  if (decOf d m.peer m.cls).any (·.desync) && !begins then (none, modDec m.peer m.cls (fun s => { s with discards := s.discards + 1 }) d)
  else if m.stored then (if outputOk m payload then (some payload, d) else (none, desync m d))
  else
    match slot with
    | some s => decodeIn m codes s d
    | none =>
      if !begins then (none, discardNoSlot m d)
      else if d.cz.decSlots.length < 4 then
        let s : Dict := (decOf d m.peer m.cls).getD { peer := m.peer, cls := m.cls, entries := [], prev := none, link := some m.port }
        decodeIn m codes s { d with cz := { d.cz with decSlots := d.cz.decSlots ++ [s], unslotted := d.cz.unslotted.erase s } }
      else (none, sendNotice m.peer false m.cls (discardNoSlot m d))

/-- A dictionary message as it stands in a frame (Table 9.4): none when the frame is too short. Reserved bits are ignored (R11). -/
def parseDict (peer : U8) (port : LinkId) (b : List U8) : Option DictMessage :=
  if b.length < 12 ∨ b.length < 12 + leAt b 4 2 then none
  else some {
    peer := peer, cls := BitVec.ofNat 2 (byteAt b 0), stored := bitOf (byteAt b 0) 2, origLen := BitVec.ofNat 16 (leAt b 2 2),
    payLen := BitVec.ofNat 16 (leAt b 4 2), origCrc := w32 (leAt b 8 4), payload := (b.drop 12).take (leAt b 4 2), port := port }

/-- A record of class 0 that its stream delivered lies ready for its own row (R199, R200, R218). -/
def keepRecord (m : DictMessage) : Option (List U8) × Device → Device
  | (some b, d) => if m.cls = 0 then { d with cz := { d.cz with inbox := d.cz.inbox ++ [(m.peer, b)] } } else d
  | (none, d) => d

/-- DICT_MESSAGE_RECEIVED: the effects of a message on its stream; what its record says is its own row's (R235, R239). -/
def execDictMessageReceived (m : DictMessage) (s : State) : Host.Outcome State Fault Refusal :=
  let d := s.dev
  if ready d && (domainOn d 2 || m.cls == 1) then next s (keepRecord m (dictReceive m d)) else next s d

/-- A stream notice arrives (R238, R239): RESYNC makes the next message begin with RESET, NO_SLOT makes the messages STORED. -/
def takeNotice (peer : U8) (resync : Bool) (cls : BitVec 2) (d : Device) : Device :=
  modEnc peer cls (fun s => if resync then { s with resetNext := true } else { s with stored := true }) d

/-- STREAM_NOTICE_RECEIVED. -/
def execStreamNoticeReceived (peer : U8) (resync : Bool) (cls : BitVec 2) (s : State) : Host.Outcome State Fault Refusal :=
  if ready s.dev then next s (takeNotice peer resync cls s.dev) else next s s.dev

/-- COMPRESSOR_RESUME (R237): the transmit buffer of a stalled stream has room for a whole code word, 2 bytes; its messages go on as far as the
room reaches, and HANDOVER follows its snapshot's (R337). Dictionary streams run on compressor 0 (Table 9.1). -/
def execCompressorResume (cls : BitVec 2) (room : Nat) (s : State) : Host.Outcome State Fault Refusal :=
  let d := s.dev
  if !domainOn d 2 || !d.cz.enc[(0 : Fin 2)].stalled || decide (room < 2) then next s d
  else next s (sendHandover (noteStall (feedStream cls d.cz.held.length room d)))

/-! cz.compress and cz.decompress -/

/-- The largest bytes that cz.compress writes of LEN bytes (R234): each block's 32 bytes and its original bytes, rounded up to 32. -/
def worstCase (len : Nat) : Nat :=
  len / 65536 * 65568 + (if len % 65536 = 0 then 0 else (32 + len % 65536 + 31) / 32 * 32)

/-- A free engine takes the oldest cz.compress without one: compressor 1 first (Table 9.1); from throttle level 1 on only one engine serves them
(R383). -/
def assignEngine (d : Device) : Device :=
  let used := d.cz.jobs.filterMap (·.engine)
  let free := if 0 < d.therm.level ∧ !used.isEmpty then [] else ([1, 0] : List (Fin 2)).filter (fun e => !used.contains e)
  match free with
  | [] => d
  | e :: _ => { d with cz := { d.cz with jobs := give e d.cz.jobs } }
where
  give (e : Fin 2) : List CzJob → List CzJob
    | [] => []
    | j :: js => if j.engine.isNone then { j with engine := some e } :: js else j :: give e js

/-- cz.compress (R234). -/
def execCzCompress (c : Cmd) (s : State) : Host.Outcome State Fault Refusal :=
  mervan
    { opcode := 0x0A00, slow := true, dram := true, stops := true, works := some 2
      args := [.addr, .wide 1 (2 ^ 32) 1, .wide 0 (2 ^ 64 - 1) 32, .addr, .num 1 64, .addr]
      ranges := fun a => [(argN a 0, argN a 1, false), (argN a 2, argN a 3, false)]
        ++ (if argN a 5 = 0 then [] else [(argN a 5, 8 + 8 * ((argN a 1 + 65535) / 65536), false)]) }
    (fun c a d =>
      if argN a 3 < worstCase (argN a 1) then no d .badLength
      else .later .compress (assignEngine { d with cz := { d.cz with jobs := d.cz.jobs ++ [
        { key := keyOf c.origin, seq := c.seq, engine := none, src := argN a 0, left := argN a 1, dest := argN a 2, depth := argN a 4,
          index := argN a 5, written := 0, method0 := 0, blocks := [] }] } })) c s

/-- The plane block index of the blocks written (Table 2.5). -/
def indexBytes (blocks : List Nat) : List U8 := leBytes 4 blocks.length ++ [0, 0, 0, 0] ++ blocks.flatMap (leBytes 8)

/-- A cz.compress ends with a reply, and its engine turns to the next. -/
def endCompress (j : CzJob) (r : Reply) (d : Device) : Device :=
  assignEngine (finishSeq j.key j.seq r { d with cz := { d.cz with jobs := d.cz.jobs.erase j } })

/-- One block of a cz.compress written (R233, R234): METHOD 1, or METHOD 0 where that does not fit. -/
def compressBlock (e : Fin 2) (j : CzJob) (d : Device) : Device :=
  let n := min 65536 j.left
  match poisonIn d j.src n with
  | some a => endCompress j { status := .badCrc, reason := .poisoned, results := w64 a } d
  | none =>
    let b := fkzCompress (dramRead d j.src n) j.depth
    let m0 := b2n (fkzMethod b == 0)
    let d := dramWrite 7 j.dest b (dramSee j.src n d)
    let d := { d with cz := { d.cz with enc := upd d.cz.enc e (fun x => { x with
      bytesIn := x.bytesIn + BitVec.ofNat 64 n, bytesOut := x.bytesOut + BitVec.ofNat 64 b.length, blocks := x.blocks + 1,
      fallback := x.fallback + BitVec.ofNat 64 m0 }) } }
    let k := { j with src := j.src + n, left := j.left - n, dest := j.dest + b.length, written := j.written + b.length,
                      method0 := j.method0 + m0, blocks := j.blocks ++ [j.dest] }
    let d := { d with cz := { d.cz with jobs := d.cz.jobs.map (fun x => if x == j then k else x) } }
    if k.left = 0 then
      let d := if k.index = 0 then d else dramWrite 7 k.index (indexBytes k.blocks) d
      endCompress k { results := put64 [w32 k.blocks.length] k.written ++ [w32 k.method0] } d
    else d

/-- A compressor is at the service of cz.compress: a dictionary stream that is due on compressor 0 goes first (Tables 9.1 and 9.8), and from throttle
level 1 on only the engine of the oldest command runs (R383). -/
def engineFree (engine : Fin 2) (d : Device) : Bool :=
  (engine != 0 || d.cz.held.isEmpty) && (d.therm.level == 0 || d.cz.jobs.findSome? (·.engine) == some engine)

/-- A compressor finishes a block of cz.compress. -/
def execBlockCompressed (engine : Fin 2) (s : State) : Host.Outcome State Fault Refusal :=
  let d := s.dev
  match d.cz.jobs.find? (fun j => j.engine == some engine) with
  | none => next s d
  | some j => if domainOn d 2 && dramServes d && engineFree engine d then next s (compressBlock engine j d) else next s d

/-- What an outcome of Table 9.3 answers. -/
def fkzReply (orig : Nat) : Fkz → Reply
  | .header => { status := .badArgument, reason := .block }
  | .table => { status := .badArgument, reason := .format }
  | .expansion => { status := .expansionLimit }
  | .distance => { status := .badArgument, reason := .format }
  | .overrun => { status := .badLength }
  | .short => { status := .badLength }
  | .check => { status := .badCrc }
  | .ok _ => { results := [w32 orig] }

/-- Bytes written to DEST with an outcome: the original bytes; none where the outcome is detected before any output; otherwise the manual
does not say what the ORIG_LEN bytes hold, and they are free (log entry 9). -/
def outputOf (r : Fkz) (orig : Nat) (d : Device) : List U8 × Device :=
  match r with
  | .ok b => (b, d)
  | .header => ([], d)
  | .table => ([], d)
  | _ => drawBytes orig d

/-- CLK_DP cycles of a block through a decompressor, 4 bytes of output per cycle, and 64 more for cz.decompress to start (Table 9.1). -/
def blockCycles (orig : Nat) : Nat := (orig + 3) / 4 + 64

/-- The oldest cz.decompress without a history buffer takes one of the two that is free (R232). -/
def startDecs (d : Device) : Device :=
  { d with cz := { d.cz with decs := give (2 - (d.cz.decs.filter (·.left.isSome)).length) d.cz.decs } }
where
  give : Nat → List CzDec → List CzDec
    | _, [] => []
    | n, j :: js =>
      match j.left, n with
      | none, k + 1 => { j with left := some (blockCycles (fkzOrig j.block)) } :: give k js
      | _, _ => j :: give n js

/-- A cz.decompress ends: its bytes are written and it answers the outcome of Table 9.3; its history buffer is free (R230 to R232). -/
def endDecompress (j : CzDec) (d : Device) : Device :=
  let r := fkzDecode j.block
  let d := countDec (freeEngine d) j.block.length r { d with cz := { d.cz with decs := d.cz.decs.erase j } }
  let (out, d) := outputOf r (fkzOrig j.block) d
  finishSeq j.key j.seq (fkzReply (fkzOrig j.block) r) (dramWrite 7 j.dest out (startDecs d))

/-- The cz.decompress commands that hold a history buffer, each with a decompressor that the real-time feed leaves free, the oldest first
(Table 9.1); from throttle level 1 on one engine serves them (R383). -/
def servedDecs (d : Device) : List CzDec :=
  (d.cz.decs.filter (·.left.isSome)).take (if d.therm.level = 0 then 8 - busyEngines d else min 1 (8 - busyEngines d))

/-- One cycle of CLK_DP for the cz.decompress commands (Table 9.1); from throttle level 1 on every second one counts (R383). -/
def tickDecs (d : Device) : Device :=
  if d.cz.decs.isEmpty || !domainOn d 2 || !dramServes d || (0 < d.therm.level && d.chip.qtime / 5 % 2 == 1) then d
  else
    let now := servedDecs d
    let d := { d with cz := { d.cz with decs := d.cz.decs.map (fun j => if now.contains j then { j with left := j.left.map (· - 1) } else j) } }
    (d.cz.decs.filter (fun j => j.left == some 0)).foldl (fun d j => endDecompress j d) d

/-- cz.decompress (R230, R231): once its argument and block are found fit it waits for a history buffer (R232). -/
def execCzDecompress (c : Cmd) (s : State) : Host.Outcome State Fault Refusal :=
  mervan
    { opcode := 0x0A01, slow := true, dram := true, stops := true, works := some 2
      args := [.wide 0 (2 ^ 64 - 1) 32, .addr, .addr]
      ranges := fun a => [(argN a 0, 32, false), (argN a 1, argN a 2, false)]
      results := fun _ => 1 }
    (fun c a d =>
      let src := argN a 0
      let head := dramRead d src 32
      if (poisonIn d src 32).isSome then poisoned ((poisonIn d src 32).getD 0) d
      else if argN a 2 < fkzOrig head then no d .badLength
      else if fkzHeaderOk head && !inDram d src (fkzSize head) then no d .badArgument .address
      else
        let n := if fkzHeaderOk head then 32 + fkzComp head else 32
        match poisonIn d src n with
        | some p => poisoned p d
        | none =>
          let d := dramSee src n d
          .later .decompress (startDecs { d with cz := { d.cz with decs := d.cz.decs ++ [
            { key := keyOf c.origin, seq := c.seq, block := dramRead d src n, dest := argN a 1, left := none }] } })) c s

/-- cz.dict_reset (R236, Table 9.8): the stream's next message begins with RESET; NO_SLOT ends. -/
def execCzDictReset (c : Cmd) (s : State) : Host.Outcome State Fault Refusal :=
  mervan { opcode := 0x0A02, stops := true, args := [.num 1 255, .num 0 1] }
    (fun _ a d =>
      ok (modEnc (BitVec.ofNat 8 (argN a 0)) (BitVec.ofNat 2 (argN a 1)) (fun s => { s with resetNext := true, stored := false }) d)) c s

/-- An engine's record of cz.status: bytes in and out, blocks, METHOD 0 fallbacks, the outcomes of Table 9.3, stalls. -/
def engineWords (e : CzEngine) : List U32 :=
  ([e.bytesIn, e.bytesOut, e.blocks, e.fallback] ++ e.outcomes.toList ++ [e.stalls]).flatMap (fun v => w64 v.toNat)

/-- The streams of cz.status: those of the two encoder slots, then of the four decoder slots, each with resets, desyncs, NO_SLOT and
discards; a free slot is 0. Streams without a slot add to NO_SLOT of both and to the discards of the last (log entry 39). -/
def streamWords (d : Device) : List U32 :=
  let rec_ := fun (l : List Dict) (n : Nat) => (List.range n).flatMap (fun k =>
    match l[k]? with
    | some s => [s.resets, s.desyncs, s.noSlot, s.discards].flatMap (fun v => w64 v.toNat)
    | none => List.replicate 8 0)
  rec_ d.cz.encSlots 2 ++ rec_ d.cz.decSlots 4 ++ w64 (d.cz.noEnc.map (·.2.2)).sum ++ w64 ((d.cz.noSlot.map (·.2.2)).sum + (d.cz.unslotted.map (·.discards.toNat)).sum)

/-- cz.status (Table 9.9): decompressors 0 to 7, compressors 0 and 1, then the streams. -/
def execCzStatus (c : Cmd) (s : State) : Host.Outcome State Fault Refusal :=
  mervan { opcode := 0x0A03, stops := true, results := fun _ => 312 }
    (fun _ _ d => ok d (d.cz.dec.toList.flatMap engineWords ++ d.cz.enc.toList.flatMap engineWords ++ streamWords d)) c s

/-! CRC units (R241 to R243) -/

/-- Bits of a value reversed over w bits. -/
def reflect (w v : Nat) : Nat := (List.range w).foldl (fun a k => a + (if bitOf v k then 2 ^ (w - 1 - k) else 0)) 0

/-- One byte through a register of `width` bits, most significant bit first. -/
def crcStep (width poly : Nat) (reflIn : Bool) (raw : Nat) (b : U8) : Nat :=
  let v := if reflIn then reflect 8 b.toNat else b.toNat
  (List.range 8).foldl (fun r _ =>
    let r' := r * 2 % 2 ^ width
    if bitOf r (width - 1) then Nat.xor r' poly else r') (Nat.xor raw (v * 2 ^ (width - 8)))

/-- VALUE: RAW after REFLECT_OUT and INVERT (R243). -/
def crcValue (u : CrcUnit) : Nat :=
  let v := if u.reflOut then reflect u.width u.raw.toNat else u.raw.toNat
  if u.invert then 2 ^ u.width - 1 - v % 2 ^ u.width else v

/-- The fold bytes before a segment (R242). -/
def foldBytes (u : CrcUnit) (address : U64) : List U8 :=
  if u.fold = 1 then leBytes 8 address.toNat else if u.fold = 2 then leBytes 4 u.seq.toNat else []

/-- The address window of attach points 0 and 5 (Table 9.6). -/
def inWindow (u : CrcUnit) (address : U64) : Bool :=
  u.size == 0 || decide (u.base ≤ address.toNat ∧ address.toNat < u.base + u.size)

/-- The attach point of a segment (Table 9.6). -/
def segAttach : Segment → Nat
  | .write _ => 0
  | .frame p _ _ => 1 + p.val
  | .dram _ _ => 5
  | .cell rx _ _ _ => 6 + b2n rx

/-- The address of a segment (Table 9.7). -/
def segAddress : Segment → U64
  | .write a => a
  | .frame _ _ n => BitVec.ofNat 64 n.toNat
  | .dram _ a => a
  | .cell _ _ _ n => BitVec.ofNat 64 n.toNat

/-- A unit's own attach point, lane, window and masks admit a segment (Tables 9.6 and 9.7). -/
def admits (u : CrcUnit) (seg : Segment) : Bool :=
  u.attach == segAttach seg && match seg with
    | .write a => inWindow u a
    | .frame _ vc _ => u.vcs.getLsbD (vcNum vc)
    | .dram source a => inWindow u a && u.sources.getLsbD source.val
    | .cell _ h typ _ => u.lane == h.val && u.types.getLsbD typ.toNat

/-- A segment folded into a unit (R242); BYTES counts the segment's own bytes. -/
def foldSegment (address : U64) (bytes : List U8) (u : CrcUnit) : CrcUnit :=
  { u with
    raw := BitVec.ofNat 64 ((foldBytes u address ++ bytes).foldl (crcStep u.width u.poly.toNat u.reflIn) u.raw.toNat)
    bytes := u.bytes + BitVec.ofNat 64 bytes.length, segments := u.segments + 1, seq := if u.fold = 2 then u.seq + 1 else u.seq }

/-- CRC_SEGMENT (R242): a segment passes an attach point, and the unit folds it when its filters admit it (log entry 79). -/
def execCrcSegment (u : Fin 8) (seg : Segment) (bytes : List U8) (s : State) : Host.Outcome State Fault Refusal :=
  let d := s.dev
  if domainOn d 2 && d.crcs[u].enabled && admits d.crcs[u] seg then next s (modCrc d u (foldSegment (segAddress seg) bytes)) else next s d

/-- crc.config (R241, Table 9.6). -/
def execCrcConfig (c : Cmd) (s : State) : Host.Outcome State Fault Refusal :=
  mervan
    { opcode := 0x0A10, stops := true
      args := [.num 0 7, .num 0 7, .num 0 39, .addr, .addr, .num 0 31, .num 0 15, .any, .num 8 64, .addr, .addr, .flag, .flag, .flag,
               .num 0 2, .any] }
    (fun _ a d =>
      let u : Fin 8 := finOf 8 (argN a 0)
      if (argN a 1 = 6 ∨ argN a 1 = 7) ∧ !hasHead d (argN a 2) then no d .badArgument
      else if 2 ^ argN a 8 ≤ argN a 9 ∨ 2 ^ argN a 8 ≤ argN a 10 then no d .badArgument .field
      else if d.crcs[u].enabled then no d .busyState
      else done (modCrc d u (fun x => { x with
        attach := argN a 1, lane := argN a 2, base := argN a 3, size := argN a 4, sources := BitVec.ofNat 5 (argN a 5)
        vcs := BitVec.ofNat 4 (argN a 6), types := w32 (argN a 7), width := argN a 8, poly := BitVec.ofNat 64 (argN a 9)
        init := BitVec.ofNat 64 (argN a 10), invert := argB a 11, reflIn := argB a 12, reflOut := argB a 13, fold := argN a 14
        foldSeq := w32 (argN a 15) }))) c s

/-- crc.read (R243): RAW, VALUE, BYTES, SEGMENTS, next sequence. -/
def execCrcRead (c : Cmd) (s : State) : Host.Outcome State Fault Refusal :=
  mervan { opcode := 0x0A11, stops := true, args := [.num 0 7], results := fun _ => 9 }
    (fun _ a d =>
      let u := d.crcs[finOf 8 (argN a 0)]
      ok d (w64 u.raw.toNat ++ w64 (crcValue u) ++ w64 u.bytes.toNat ++ w64 u.segments.toNat ++ [u.seq])) c s

/-- crc.write (R243). -/
def execCrcWrite (c : Cmd) (s : State) : Host.Outcome State Fault Refusal :=
  mervan { opcode := 0x0A12, stops := true, args := [.num 0 7, .addr, .addr, .addr, .any] }
    (fun _ a d => ok (modCrc d (finOf 8 (argN a 0)) (fun u => { u with
      raw := BitVec.ofNat 64 (argN a 1), bytes := BitVec.ofNat 64 (argN a 2), segments := BitVec.ofNat 64 (argN a 3)
      seq := w32 (argN a 4) }))) c s

/-- A unit enabled loads INIT and FOLD_SEQ (Table 9.9). -/
def enableUnit (on : Bool) (u : CrcUnit) : CrcUnit :=
  if on then (if u.enabled then u else { u with enabled := true, raw := u.init, seq := u.foldSeq }) else { u with enabled := false }

/-- crc.enable (Table 9.9). -/
def execCrcEnable (c : Cmd) (s : State) : Host.Outcome State Fault Refusal :=
  mervan { opcode := 0x0A13, stops := true, args := [.num 0 255, .flag] }
    (fun _ a d => done { d with crcs := updAll d.crcs (fun k u => if bitOf (argN a 0) k.val then enableUnit (argB a 1) u else u) }) c s

end Sys2Proof.Machine
end

