-- ==== Sys2Proof/Machine/Web.lean ====
section
/-! DEFINITION. Web position arithmetic (R87 to R96), job and repeat descriptors (Tables 2.3 and 2.4), the head directory (Table 3.5) and
the line-fire timer's shared parts. -/
namespace Sys2Proof.Machine

/-! Speed and travel -/

/-- Speed in µm/s, truncated towards minus infinity (R88, Table 12.4). -/
def speedUm (d : Device) : Int := if d.pos.speed.time = 0 then 0 else d.pos.speed.travel * 4000000 / d.pos.speed.time

/-- Travel in nm of a time in ns at the current speed. -/
def travelIn (d : Device) (ns : Nat) : Int :=
  if d.pos.speed.time = 0 then 0 else d.pos.speed.travel * (4 * ns : Int) / d.pos.speed.time

/-- The web counts as stopped: speed below MIN_SPEED (R89). -/
def stopped (d : Device) : Bool :=
  decide (d.pos.speed.travel * 4000000 < (d.pos.minSpeed : Int) * d.pos.speed.time) || (d.pos.speed.time == 0 && d.pos.minSpeed != 0)

/-- The high-water WPOS has reached a position (R90). -/
def reached (d : Device) (w : Nat) : Bool := decide (w ≤ d.pos.hwpos.toNat)

/-- The high-water WPOS plus the travel of a time reaches a position (R95, R96); nothing does while WPOS lies below the high-water WPOS (R90). -/
def reachedWith (d : Device) (ns : Nat) (w : Int) : Bool :=
  decide (d.pos.hwpos ≤ d.pos.wpos) && decide (w ≤ (d.pos.hwpos.toNat : Int) + travelIn d ns)

/-- WPOS follows the web: a source drives it, or samples of it come (R91, R106, R108). -/
def webKnown (d : Device) : Bool := !d.pos.frozen && !d.pos.relock && (d.pos.role == .master || d.pos.valid)

/-- A valid WPOS (R57, R91, R106, R108). -/
def posValid (d : Device) : Bool := webKnown d && !d.jobs.lost

/-- Offset of line j of a repeat from its start (R93). -/
def lineAt (d : Device) (j : Nat) : Nat := j * 25400000 / d.pos.lpi
/-- The line pitch rounded up (R96). -/
def pitchUp (d : Device) : Nat := (25400000 + d.pos.lpi - 1) / d.pos.lpi

/-- Fire position of line j of a repeat that starts at S on row r of a head (R94). -/
def firePos (d : Device) (h : Head) (start j r : Nat) : Nat :=
  start + lineAt d j + d.banks.timing[h].headOffset + (if r = 0 then 0 else d.banks.timing[h].rowOffset.getD r 0)

/-- Lines of a repeat, at most n, whose commit point lies at or below a position (R96, R102, R106). -/
def linesPast (d : Device) (h : Head) (start n : Nat) (at_ : Int) : Nat :=
  let x : Int := at_ + pitchUp d - start - d.banks.timing[h].headOffset
  if x < 0 then 0 else min n (((x.toNat + 1) * d.pos.lpi + 25400000 - 1) / 25400000)

/-! Descriptors -/

/-- A plane of a job descriptor (Table 2.3). -/
def readPlane (b : List U8) (k : Nat) : PlaneCfg :=
  let w := leAt b (32 + 4 * k) 4
  ⟨bitsOf w 0 6, bitsOf w 6 6, bitOf w 12, bitOf w 13, bitOf w 14, bitOf w 15⟩

/-- The job descriptor of 64 bytes (Table 2.3). DESIGN CHOICE: bit 3 at offset 8, which the table does not give, is reserved (log entry 97). -/
def readJob (b : List U8) : JobDesc :=
  let fl := leAt b 8 4
  let n := bitsOf fl 4 4
  { jobId := w32 (leAt b 0 4), repeatCount := leAt b 4 4, sheet := bitOf fl 0, cycle := bitOf fl 1, resetLoop := bitOf fl 2,
    maxLineRate := leAt b 12 4, repeatList := leAt b 16 8, tableSet := leAt b 24 8, planes := (List.range (min n 8)).map (readPlane b),
    rsvOk := !bitOf fl 3 && bitsOf fl 8 24 == 0 && decide (1 ≤ n ∧ n ≤ 8)
      && (List.range (min n 8)).all (fun k => bitsOf (leAt b (32 + 4 * k) 4) 16 16 == 0) }

/-- The repeat descriptor of 96 bytes (Table 2.4). -/
def readRepeat (b : List U8) : RepeatDesc :=
  let fl := leAt b 10 2
  { lines := leAt b 0 4, pitch := leAt b 4 4, tileCount := leAt b 8 2, checkStrip := bitOf fl 0, blank := bitOf fl 1,
    tableSet := leAt b 16 8, tileList := leAt b 24 8, planeIndex := (List.range 8).map (fun k => leAt b (32 + 8 * k) 8),
    rsvOk := bitsOf fl 2 14 == 0 && leAt b 12 4 == 0 }

/-- The descriptor of the repeat begun after n others of a job: as it was when it fell due, else as it stands in DRAM; beyond the last
one without CYCLE, the last (R32, R34). -/
def repDesc (d : Device) (j : JobDesc) (n : Nat) : RepeatDesc :=
  match d.feed.descs.find? (fun e => e.1 == j.key && e.2.1 == n) with
  | some e => e.2.2
  | none =>
    let k := if j.cycle then n % max 1 j.repeatCount else min n (j.repeatCount - 1)
    readRepeat (dramRead d (j.repeatList + 96 * k) 96)

/-- Index in the repeat list of the repeat begun after n others (R32, R34). -/
def repIndex (j : JobDesc) (n : Nat) : Nat := if j.cycle then n % max 1 j.repeatCount else n

/-- The plane that a head belongs to (R35, R59). -/
def planeOf (j : JobDesc) (h : Nat) : Option (Plane × PlaneCfg) :=
  (j.planes.zipIdx.find? (fun e => decide (e.1.firstHead ≤ h ∧ h < e.1.firstHead + e.1.headCount))).map
    (fun e => (finOf 8 e.2, e.1))

/-- Heads of a job's planes. -/
def planedHeads (j : JobDesc) : List Head := (List.finRange 40).filter (fun h => (planeOf j h.val).isSome)

/-- Heads of one plane. -/
def headsOf (p : PlaneCfg) : List Head :=
  (List.finRange 40).filter (fun h => decide (p.firstHead ≤ h.val ∧ h.val < p.firstHead + p.headCount))

/-- Lines of a repeat's nozzle-check strip: CHECK_PITCH × CHECK_RUN (R216). -/
def stripLines (d : Device) : Nat := d.loop.checkPitch * d.loop.checkRun

/-- The next repeat boundary at or beyond a WPOS, walking on from repeat n that starts at s (R32, R52). -/
def boundaryFrom (d : Device) (j : JobDesc) (w : Nat) : Nat → Nat → Nat → Nat
  | 0, _, s => s
  | fuel + 1, n, s => if w ≤ s then s else boundaryFrom d j w fuel (n + 1) (s + max 1 (repDesc d j n).pitch)

/-- A requested WPOS rounded up to a repeat boundary of the running job (R52); every pitch is 1 mm at least. -/
def roundUp (d : Device) (j : JobDesc) (w : Nat) : Nat :=
  boundaryFrom d j w ((w - d.jobs.repStart.toNat) / 1000000 + 2) d.jobs.begun d.jobs.repStart.toNat

/-! The head directory (Table 3.5) -/

/-- A head directory entry. -/
structure DirEntry where
  mode     : Nat
  bits     : Nat
  reversed : Bool
  mask     : Nat
  maskLog  : Nat
  column0  : Nat
  levels   : Nat
  array    : Nat
  arrayW   : Nat
  arrayH   : Nat
  xPhase   : Nat
  yPhase   : Nat
  rsvOk    : Bool
  deriving DecidableEq, Repr

/-- A head directory entry from its 32 bytes. -/
def readDir (b : List U8) : DirEntry :=
  let b0 := byteAt b 0
  { mode := bitsOf b0 0 2, bits := bitsOf b0 2 2 + 1, reversed := bitOf b0 4, mask := bitsOf (byteAt b 1) 0 4,
    maskLog := bitsOf (byteAt b 1) 4 4, column0 := leAt b 4 4, levels := leAt b 8 8, array := leAt b 16 4, arrayW := leAt b 20 2,
    arrayH := leAt b 22 2, xPhase := leAt b 24 2, yPhase := leAt b 26 2,
    rsvOk := bitsOf b0 5 3 == 0 && leAt b 2 2 == 0 && leAt b 28 4 == 0 }

/-- The directory entry of a head in a threshold store image. -/
def dirOf (img : Mem) (h : Nat) : DirEntry := readDir (memRead img (32 * h) 32)

/-- Lowest print column of a head (R60); a reversed head may reach below column 0. -/
def colLow (e : DirEntry) (nozzles : Nat) : Int := if e.reversed then (e.column0 : Int) + 1 - nozzles else e.column0
/-- Highest print column of a head (R60). -/
def colHigh (e : DirEntry) (nozzles : Nat) : Int := if e.reversed then e.column0 else (e.column0 : Int) + nozzles - 1
/-- Print column of a nozzle (R60); a column below 0 is outside the plane. -/
def columnOf (e : DirEntry) (n : Nat) : Int := if e.reversed then (e.column0 : Int) - n else (e.column0 : Int) + n

/-- Print columns of a plane: up to the highest column of its heads (R35, R60, log entry 17). -/
def planeColumns (d : Device) (dir : Head → DirEntry) (p : PlaneCfg) : Nat :=
  (headsOf p).foldl (fun m h => max m (colHigh (dir h) d.links[h].nozzles + 1).toNat) 0

/-- Samples of a contone line of a plane of so many print columns (R35). -/
def lineSamples (p : PlaneCfg) (cols : Nat) : Nat := if p.across600 then (cols + 1) / 2 else cols
/-- Bytes of n samples in a plane's format (R35). -/
def sampleBytes (p : PlaneCfg) (n : Nat) : Nat := if p.bits12 then (n + 1) / 2 * 3 else n
/-- Padded bytes of a contone line (R35). -/
def lineBytes (p : PlaneCfg) (cols : Nat) : Nat := (sampleBytes p (lineSamples p cols) + 31) / 32 * 32
/-- Contone lines of a repeat of so many print lines (R35). -/
def contoneLines (p : PlaneCfg) (lines : Nat) : Nat := if p.upsample2 then (lines + 1) / 2 else lines
/-- Sample i of packed samples (R35). -/
def sampleAt (p : PlaneCfg) (bs : List U8) (i : Nat) : Nat :=
  if p.bits12 then bitsOf (leAt bs (i / 2 * 3) 3) (12 * (i % 2)) 12 else byteAt bs i

/-! Line tokens -/

/-- The conditions of Table 4.5 that hold for a head whatever its line, lowest code first. -/
def headSkip (d : Device) (h : Head) : Option Skip :=
  if d.therm.trip then some .thermal
  else if d.chip.headSafeLow || headSafeDriven d then some .headSafe
  else if d.links[h].state != .present then some .headAbsent
  else if !posValid d then some .noPosition
  else if inhibited d h then some .inhibit
  else none

/-- Of two conditions of Table 4.5 the one with the lower code (R109). -/
def lowerSkip (a b : Option Skip) : Option Skip :=
  match a, b with
  | some x, some y => if skipIdx y < skipIdx x then b else a
  | none, _ => b
  | _, none => a

/-- Repeat n of a job is valid (R42); after a promotion only the mirrored repeats are (R330). -/
def repeatValid (j : Job) (n : Nat) : Bool := decide (repIndex j.desc n < j.validThrough)

/-- A head that waits for its resume repeat may take up a repeat (R329): its F(0, 0) lies far enough on, and it is mirrored. -/
def resumes (d : Device) (j : JobDesc) (n start : Nat) (h : Head) : Bool :=
  match d.red.resume.find? (fun e => e.1 == h) with
  | none => true
  | some e => decide (e.2 ≤ firePos d h start 0 0) && d.jobs.running.toList.any (fun x => x.desc.key == j.key && repeatValid x n)

/-- The segment of lines that a repeat gives a head of a plane (R32, R216). -/
def mkSeg (d : Device) (j : JobDesc) (n start base : Nat) (h : Head) (late : Bool) (notice : Option Nat) : Option Seg :=
  match planeOf j h.val with
  | none => none
  | some (p, _) =>
    let r := repDesc d j n
    let g : Seg := {
      job := j.key, rep := n, start := start, base := base, lines := r.lines
      strips := if r.checkStrip then stripLines d else 0, blank := r.blank, plane := p, late := late
      lateTo := match notice with | some hw => linesPast d h start r.lines (hw + travelIn d d.banks.timing[h].fireAdvance) | none => 0
      j := 0, s := 0 }
    if resumes d j n start h then some g else none

/-- A head's segments changed. -/
def modCursor (d : Device) (h : Head) (f : Cursor → Cursor) : Device :=
  { d with fire := { d.fire with cursor := upd d.fire.cursor h f } }

/-- Segments of a head that still have lines to commit. -/
def segsOf (d : Device) (h : Head) : List Seg := d.fire.cursor[h].segs.filter (fun s => decide (s.j < s.lines + s.strips))

/-- Every head drops its lines not yet committed (R92, R108, R386); their proxy and strip records are never complete. -/
def dropLines (d : Device) : Device :=
  { d with fire := { d.fire with cursor := Vector.replicate 40 {}, ended := [] }
           engines := mapAll d.engines (fun e => { e with buf := [], skips := [] })
           loop := { d.loop with owner := mapAll d.loop.owner (fun o => { o with runs := [], proxyLine := 0, strips := [] }) } }

/-- A failed or ended capture answers REFUSED (R434). -/
def failCaptures (p : Head → JobKey → U32 → Bool) (r : Reason) (d : Device) : Device :=
  (d.mbx.inFlight.filter (fun e => match e.work with | .capture h j l _ => p h j l | _ => false)).foldl
    (fun d e => finish e { status := .refused, reason := r } d) d

/-- A line of a head ends without codes, or the head's screening has passed it: a capture of a line that is not later fails LINE_PASSED
(R9, R434). -/
def lineGone (h : Head) (job : JobKey) (line : Nat) (d : Device) : Device :=
  failCaptures (fun h' j l => h' == h && j == job && !laterThan l (w32 line)) .linePassed d

/-- The output buffer and the noted skips of a head without the lines from one on, so many. -/
def forgetLines (h : Head) (job : JobKey) (line n : Nat) (d : Device) : Device :=
  let mine : JobKey → Nat → Bool := fun j l => j == job && decide (line ≤ l ∧ l < line + n)
  modEngine d h (fun e => { e with
    buf := e.buf.filter (fun b => !mine b.job b.line)
    skips := e.skips.filter (fun x => !mine x.1 x.2.1) })

/-- The first n lines of the segment at the front are skipped uncommitted, and the segment moves on: what was screened of them is dropped,
and a capture that waits for one of them fails (R109, R434). DESIGN CHOICE: a line screened before its skip leaves the error line buffer and the
generator as its screening left them (R74, log entry 97). -/
def skipFront (h : Head) (r : Skip) (n : Nat) (d : Device) : Device :=
  match segsOf d h with
  | [] => d
  | g :: rest =>
    let d := modCursor d h (fun c => { c with segs := { g with j := g.j + n, s := max g.s (g.j + n) } :: rest })
    let d := countHead d h (fun c => { c with
      scheduled := c.scheduled + BitVec.ofNat 64 n, skipped := upd c.skipped (skipIdx r) (· + BitVec.ofNat 64 n) })
    lineGone h g.job (g.base + g.j + (n - 1)) (forgetLines h g.job (g.base + g.j) n
      (noteLines h g.job ((List.range n).map (fun k => g.base + g.j + k)) false d))

/-- A shadow bank emptied. -/
def emptyShadow (t : Tbl) (d : Device) : Device := modBank d t (fun b => { b with shadow := [], pending := none, loaded := false })

/-- The table sets of a job's repeats have no boundary to come: their loads and images are given up, so that the banks are free (R48). -/
def dropSets (d : Device) : Device :=
  let isRep : LoadReq → Bool := fun r => match r.what with | .rep _ _ => true | _ => false
  let d := { d with banks := { d.banks with sets := [], queue := d.banks.queue.filter (fun r => !isRep r) } }
  [Tbl.comb, .sub, .wave, .thresh, .stitch, .ed].foldl (fun d t =>
    if ((getBank d t).pending.toList.any isRep) then emptyShadow t d else d) d

/-- The pending head timing table takes effect, as it does at once while no job is RUNNING (R98). -/
def takeTiming (d : Device) : Device :=
  match d.banks.timingNew with
  | some v => { d with banks := { d.banks with timing := v, timingNew := none } }
  | none => d

/-- The running job ends at once; its lines not yet committed are dropped (R92, R108, R386). -/
def endJob (d : Device) : Device :=
  match d.jobs.running with
  | some j =>
    if j.state == .running then
      failCaptures (fun _ _ _ => true) .jobEnded
        (dropLines { takeTiming (dropSets d) with jobs := { d.jobs with running := some { j with state := .ended }, boundaries := false, stopAt := none } })
    else d
  | none => d

/-- REPEAT_PITCH of a sheet by its number in the job that it belongs to. -/
def sheetPitch (d : Device) (start : Nat) (number : Nat) : Nat :=
  let incoming := match d.jobs.change with | some c => decide (c.w.toNat ≤ start) | none => false
  match (if incoming then d.jobs.staged else d.jobs.running) with
  | some j => (repDesc d j.desc number).pitch
  | none => 0

/-- The sheets opened and not yet begun numbered anew: those before W in the running job, from the one after the present sheet on, and those
at or beyond W in the incoming job (R102, R103); the last sheet's REPEAT_PITCH is that of its new place (R100). -/
def renumberSheets (d : Device) : Device :=
  if d.sheet.opened.isEmpty then d
  else
    let out := fun (o : U64 × U32 × U64) => match d.jobs.change with | some c => decide (o.1 < c.w) | none => true
    let first := match d.jobs.running with | some j => if j.state == .running && j.desc.sheet then d.jobs.begun + 1 else 0 | none => 0
    let number := fun (n : Nat) (l : List (U64 × U32 × U64)) => l.zipIdx.map (fun e => (e.1.1, w32 (n + e.2), e.1.2.2))
    let opened := number first (d.sheet.opened.filter out) ++ number 0 (d.sheet.opened.filter (fun o => !out o))
    { d with sheet := { d.sheet with
      opened := opened, number := w32 (first + (d.sheet.opened.filter out).length)
      lastSheet := d.sheet.lastSheet.map (fun l => match opened.find? (fun o => o.1 == l.1) with
        | some o => (l.1, sheetPitch d l.1.toNat o.2.1.toNat)
        | none => l) } }

/-- A scheduled job returns to STAGED (Table 2.1); the sheets opened beyond W are the running job's. -/
def unschedule (d : Device) : Device :=
  renumberSheets { d with jobs := { d.jobs with
      change := none
      staged := d.jobs.staged.map (fun j => { j with state := .staged }) } }

/-- Position is lost for good: pending tokens skip under NO_POSITION, the running job ends and a scheduled job returns to STAGED (R91,
R92, R108). -/
def positionFails (d : Device) : Device := unschedule (endJob (skipTokens (fun _ => true) .noPosition d))

/-- The boundary at which a scheduled change takes place: W, or in sheet mode the first opened sheet at or beyond W (R103); none before
that sheet opens. -/
def changeStart (d : Device) (c : Change) : Option Nat :=
  let sheets := (match d.jobs.staged with | some j => j.desc.sheet | none => false)
    || (match d.jobs.running with | some j => j.state == .running && j.desc.sheet | none => false)
  if sheets then ((d.sheet.opened.map (fun o => o.1.toNat)).filter (fun s => decide (c.w.toNat ≤ s))).head? else some c.w.toNat

/-! Readiness (R53, R125) -/

/-- Waveform head record fields of an image (Table 6.2): SEL_MODE, WAVE_A, WAVE_B, WAVE_CHECK, TABLE_MASK. -/
def waveRecord (img : Mem) (h : Nat) : Nat × Nat × Nat × Nat × Nat :=
  let b := memRead img (16 * h) 16
  (bitsOf (byteAt b 0) 0 2, bitsOf (byteAt b 1) 0 4, bitsOf (byteAt b 1) 4 4, bitsOf (byteAt b 2) 0 4, leAt b 4 2)

/-- The threshold store image that a staged job will use: the shadow one when it holds it, else the active one. -/
def stagedThresh (d : Device) : Mem :=
  let b := getBank d .thresh
  match b.pending with
  | some r => if r.what == .job then b.shadow else b.active
  | none => b.active

/-- IDENT payload field of a head (Table 5.7); 0 before an IDENT. -/
def identAt (d : Device) (h : Head) (o n : Nat) : Nat := match d.links[h].ident with | some c => leAt c.payload o n | none => 0

/-- Lane-fit (R122): REQ is at most the trained lane rate. -/
def laneFit (d : Device) (h : Head) (bits rate : Nat) : Bool :=
  let l := d.links[h]
  let c := l.nozzles * bits / 8
  let rows := d.banks.timing[h].rowsM1 + 1
  let lane := #[2500000000, 3125000000, 4000000000, 5000000000].getD l.rate.toNat 0
  decide (832 * (c + 24 + 28 * rows + 68) * rate ≤ 100 * lane)

/-- The largest ROW_OFFSET of a timing entry. -/
def maxRow (t : Timing) : Nat := t.rowOffset.toList.foldl max 0

/-- Depth-fit (R123), over the active and pending timing entries. -/
def depthFit (d : Device) (h : Head) : Bool :=
  let m := max (maxRow d.banks.timing[h]) (match d.banks.timingNew with | some v => maxRow v[h] | none => 0)
  decide ((m * d.pos.lpi + 25400000 - 1) / 25400000 + 2 ≤ identAt d h 4 2)

/-- R125's conditions on the heads of a job. -/
def headsFit (d : Device) (j : JobDesc) : Bool :=
  (planedHeads j).all (fun h =>
    let bits := (dirOf (stagedThresh d) h.val).bits
    d.links[h].state == .present && laneFit d h bits j.maxLineRate && depthFit d h && bitOf (identAt d h 1 1) (bits - 1)
      && decide (d.banks.timing[h].rowsM1 ≤ identAt d h 6 1 % 4))

/-- Every shadow bank that the job's table set names is loaded and passed its CRC (R53). -/
def banksReady (d : Device) : Bool :=
  (List.finRange 6).all (fun t =>
    let b := d.banks.tbl[t]
    match b.pending with | some r => b.loaded && (r.what == .job || r.what == .hostJob) | none => false)
    && !d.banks.queue.any (fun r => r.what == .job)

/-- Every supply that feeds a head of a job's planes is on (R164). -/
def suppliesOn (d : Device) (j : JobDesc) : Bool :=
  d.drive.supplies.zipIdx.all (fun e =>
    !(planedHeads j).any (fun h => e.1.mask.getLsbD h.val) || (d.drive.sup.getD e.2 {}).on)

/-- Why a device is not ready for a job, numbered from 0 in this order: it holds no stage for it, its banks (R53), its repeats (R53), its
heads (R125), a trip (R386), its supplies (R164), held pads (R371), a deferred training (R254). None when it is ready. The reason codes
are log entry 30's. DESIGN CHOICE: a job of one repeat needs that one only (log entry 74). -/
def notReady (d : Device) (jobId : U32) : Option Nat :=
  match d.jobs.staged with
  | none => some 0
  | some j =>
    if j.desc.jobId != jobId then some 0
    else if !banksReady d then some 1
    else if j.validThrough < min 2 j.desc.repeatCount then some 2
    else if !headsFit d j.desc then some 3
    else if d.therm.trip then some 4
    else if !suppliesOn d j.desc then some 5
    else if d.pwr.held &&& 0b10111 ≠ 0 then some 6
    else if !d.dram.ok || !d.dram.deferred.isEmpty || d.dram.holding || d.dram.late then some 7
    else none

/-- The node that holds the position-master role (R351). -/
def masterNode (d : Device) : Option U8 :=
  if d.pos.role == .master then some d.fabric.node else (d.fabric.holders[0]).map (·.node)

/-- A node's report in the master's schedule (R54). -/
def setReady (node : U8) (isReady : Bool) (d : Device) : Device :=
  { d with jobs := { d.jobs with change := d.jobs.change.map (fun c =>
    { c with ready := if isReady then (if c.ready.contains node then c.ready else c.ready ++ [node]) else c.ready.filter (· != node) }) } }

/-- The device sends ready or not ready for a job to the position master (R53). -/
def reportReady (jobId : U32) (d : Device) : Device :=
  let r := notReady d jobId
  if d.pos.role == .master then setReady d.fabric.node r.isNone d
  else match masterNode d with
    | none => d
    | some n =>
      match r with
      | none => (sendTo .control false n 0x0020 (leBytes 4 jobId.toNat) d).2
      | some k => (sendTo .control false n 0x0021 (leBytes 4 jobId.toNat ++ leBytes 4 k) d).2

/-- The device sends ready again when it becomes ready, and not ready when it ceases to be (R53). -/
def noteReady (was d : Device) : Device :=
  match d.jobs.change with
  | some c => if (notReady was c.jobId).isNone != (notReady d c.jobId).isNone && active d then reportReady c.jobId d else d
  | none => d

/-! The colour loop's dead time (R196, R212) -/

/-- The reference camera port: the lowest-numbered running port (R21); before any runs, the lowest of PORT_MASK (log entry 34). -/
def refPort (d : Device) : Port :=
  match [0, 1, 2, 3].find? (fun (p : Port) => d.cams.ports[p].running) with
  | some p => p
  | none => ([0, 1, 2, 3].find? (fun (p : Port) => d.loop.portMask.getLsbD p.val)).getD 0

/-- Colours enabled on the measuring node. -/
def enabledColours (d : Device) : List Plane := (List.finRange 8).filter (fun k => d.loop.colours[k].enabled)

/-- Dead distance D_k: CAM_OFFSET of the reference port minus the smallest HEAD_OFFSET (R196); none before a span record. -/
def deadDistance (d : Device) (k : Plane) : Option Int :=
  d.loop.colours[k].span.map (fun r => (d.cams.ports[refPort d].cfg.camOffset : Int) - r.minHeadOffset.toNat)

/-- The web speed is below D_k ÷ DEAD_MAX. -/
def tooSlow (d : Device) (k : Plane) : Bool :=
  match deadDistance d k with
  | none => false
  | some dk =>
    if d.pos.speed.time = 0 then decide (0 < dk)
    else decide (d.pos.speed.travel * 4000000 * d.loop.deadMax < dk * d.pos.speed.time)

/-- The hold of each enabled colour begins or ends with EV_LOOP_HELD (R212). -/
def holdLoop (d : Device) : Device :=
  if !d.mbx.measuring then d
  else (enabledColours d).foldl (fun d k =>
    let slow := tooSlow d k
    let d := if slow then { d with loop := { d.loop with slow := d.loop.slow ||| BitVec.ofNat 8 (2 ^ k.val) } } else d
    if slow != d.loop.colours[k].held then
      raise .loopHeld [w32 k.val, w32 (b2n slow)] (modColour d k (fun c => { c with held := slow }))
    else d) d

end Sys2Proof.Machine
end

