-- ==== Sys2Proof/Machine/Position.lean ====
section
/-! DEFINITION. Web position (R86 to R92), product detect (R99 to R103), WPOS across the fabric (R104 to R108) and the tick of CLK_DP. -/
namespace Sys2Proof.Machine

/-! WPOS between counts and samples -/

/-- Encoders are counted and WPOS is kept: the device is started and in RUN. -/
def posOn (d : Device) : Bool := ready d && d.pwr.state == .run

/-- Messages from the fabric reach this device: a standby unit discards all but BULK (R304). -/
def hears (d : Device) : Bool := ready d && domainRuns d 7 && !(paired d && d.red.role == .standby)

/-- Travel in nm at the current speed over a time in quarter nanoseconds, rounded down (log entry 76). -/
def travelOver (p : Pos) (q : Int) : Int := if p.speed.time = 0 then 0 else p.speed.travel * q / p.speed.time

/-- WPOS of the next forward count less that of the last (R87). -/
def nextCountStep (p : Pos) : Nat := (p.frac + p.countNum) / max 1 p.countDen

/-- WPOS before the difference of R105 still to remove: interpolated between counts, at most 1 nm below the next count and forward only
(R88, R90, R92), or extrapolated from the newest sample (R105). -/
def basePos (d : Device) : Int :=
  let p := d.pos
  if p.role == .follower then
    match p.sample with
    | some s => if p.frozen then p.wpos.toNat else s.wpos.toNat + travelOver p ((d.chip.qtime : Int) - 4 * s.ftime.toNat)
    | none => p.wpos.toNat
  else
    match p.countAt with
    | some t =>
      if p.frozen then p.countWpos.toNat
      else p.countWpos.toNat + min (max 0 (travelOver p ((d.chip.qtime : Int) - t))) ((nextCountStep p : Int) - 1 |> max 0)
    | none => p.countWpos.toNat

/-- The difference of R105 not yet removed: it goes evenly over 10 µs. -/
def leftOver (d : Device) : Int :=
  d.pos.residual * max 0 (40000 - ((d.chip.qtime : Int) - d.pos.sampleAt)) / 40000

/-- WPOS refreshed for the present time; the high-water WPOS follows it upwards (R88, R90, R105). -/
def refreshPos (d : Device) : Device :=
  let w : U64 := BitVec.ofInt 64 (basePos d - leftOver d)
  { d with pos := { d.pos with wpos := w, hwpos := if d.pos.hwpos < w then w else d.pos.hwpos
                               reversed := d.pos.reversed && decide (w < d.pos.hwpos) } }

/-- Quarter nanoseconds of a CLK_DP cycle: 1.25 ns, slewed towards the parent's time by a quarter nanosecond once in 2,000 cycles, which is 100 ppm
(R300). -/
def tickStep (d : Device) : Nat × Fabric :=
  let t := d.chip.qtime
  let f := d.fabric
  if t < f.slewAt then (5, f)
  else if 0 < f.slew then (6, { f with slew := f.slew - 1, slewAt := t + 10001 })
  else if f.slew < 0 then (4, { f with slew := f.slew + 1, slewAt := t + 9999 })
  else (5, f)

/-- The attempts to train that the head adapters make by themselves (R277, R279): each on the port of this unit's lane. DESIGN CHOICE: the port of the
other unit stays in its first attempt, because no row brings that unit's signals (log entry 63). -/
def adaptersTry (d : Device) : Device :=
  { d with adapters := mapAll d.adapters (fun a =>
      if a.facts.any (fun f => !unitB d || f.dual) then { a with ports := upd a.ports (if unitB d then 1 else 0) (AdPort.due d.chip.qtime) } else a) }

/-- One cycle of CLK_DP (R88): fabric time counts, and WPOS is interpolated or extrapolated. Time-driven rows are commands of their
own (log entry 2). -/
def tickCore (d : Device) : Device :=
  if alive d && (d.pwr.state == .run || d.pwr.state == .sleep) then
    let (n, f) := tickStep d
    let d := { d with chip := { d.chip with qtime := d.chip.qtime + n }, fabric := f }
    let d := advanceVictims (advanceRelock (tickDecs (advancePorts (advanceAll d))))
    let d := if d.lanes.toList.any (fun l => l.deferred.isSome) then runTests d else d
    let d := if d.adapters.toList.any (fun a => a.facts.isSome) then adaptersTry d else d
    let d := if controlsWait d then (List.finRange 40).foldl (fun d h => resumeControl h d) d else d
    if posOn d then refreshPos d else d
  else d

/-! Encoders (R87 to R92) -/

/-- Encoder use by ENC_MODE (Table 4.1). -/
def encUsed (p : Pos) (e : Fin 2) : Bool := if p.encMode = 0 then e == 0 else if p.encMode = 2 then e == 1 else true

/-- The primary encoder of an ENC_MODE. -/
def primaryOf (mode : Nat) : Fin 2 := if mode = 2 then 1 else 0

/-- The other encoder. -/
def otherEnc (e : Fin 2) : Fin 2 := if e = 0 then 1 else 0

/-- WPOS of the counts moved by one count, the remainder kept as a fraction of COUNT_DEN (R87). -/
def moveCount (fwd : Bool) (p : Pos) : Pos :=
  let t : Int := if fwd then (p.frac : Int) + p.countNum else (p.frac : Int) - p.countNum
  { p with countWpos := BitVec.ofInt 64 (p.countWpos.toNat + t / (max 1 p.countDen : Nat)), frac := (t % (max 1 p.countDen : Nat)).toNat }

/-- Speed over the count intervals held (R88); below two counts it is 0. A speed held at a failover stays until the average is full
(R92). -/
def speedOf (p : Pos) : Speed :=
  if p.holdSpeed then p.speed
  else
    match p.counts, p.counts.getLast? with
    | (w, t) :: _, some (w0, t0) => { travel := (w.toNat : Int) - w0.toNat, time := t - t0 }
    | _, _ => {}

/-- A count of the driving encoder (R87, R88, R92). -/
def driveCount (fwd : Bool) (d : Device) : Device :=
  let p := moveCount fwd d.pos
  let n := 2 ^ p.speedLog2 + 1
  let p := { p with counts := ((p.countWpos, d.chip.qtime) :: p.counts).take n, countAt := some d.chip.qtime }
  let p := { p with holdSpeed := p.holdSpeed && decide (p.counts.length < n) }
  refreshPos { d with pos := { p with speed := speedOf p } }

/-- EV_WEB_REVERSE at the first count more than REVERSE_TOL below the high-water WPOS (R90). -/
def checkReverse (d : Device) : Device :=
  if d.pos.role == .master && !d.pos.reversed && decide (d.pos.wpos.toNat + d.pos.reverseTol < d.pos.hwpos.toNat) then
    raise .webReverse [] { d with pos := { d.pos with reversed := true } }
  else d

/-- An illegal transition of an encoder: counted in DIAG, and its time kept (Table 4.2). -/
def illegalEdge (enc : Fin 2) (d : Device) : Device :=
  modDiag { d with pos := { d.pos with encs := upd d.pos.encs enc (fun e => { e with illegal := (d.chip.qtime :: e.illegal).take 4 }) } }
    (fun g => { g with encIllegal := upd g.encIllegal enc (fun v => satAdd v 1) })

/-- Four illegal transitions of an encoder lie in 1 ms (Table 4.2). -/
def illegalBurst (e : Enc) : Bool :=
  match e.illegal with
  | [t, _, _, u] => decide (t ≤ u + 4000000)
  | _ => false

/-- The encoder and product-detect inputs are read: VIO_ENC is up (R419, log entry 82), and the position block runs. -/
def encPins (d : Device) : Bool := posOn d && !d.chip.vioLow[2]

/-- An encoder's inputs change (R87, R91): an edge is decoded as a count, an illegal transition is counted in DIAG. Followers ignore their
encoder inputs. A faulted encoder is judged on, but it no longer drives WPOS (R92). -/
def execEncoderCount (enc : Fin 2) (edge : EncEdge) (s : State) : Host.Outcome State Fault Refusal :=
  let d := s.dev
  if !encPins d || d.pos.role == .follower || !encUsed d.pos enc then next s d
  else if edge == .both then next s (illegalEdge enc d)
  else
    let fwd := (edge == .bLeads) == d.pos.invert[enc]
    let one : Int := if fwd then 1 else -1
    let d := { d with pos := { d.pos with encs := updAll d.pos.encs (fun k e =>
      if k = enc then { e with window := e.window + one, since := e.since + one, quiet := 0 } else { e with quiet := e.quiet + one }) } }
    if enc == d.pos.driving && !d.pos.frozen && !d.pos.relock then next s (holdLoop (checkReverse (driveCount fwd d))) else next s d

/-- WPOS frozen: the driving encoder is faulted and no healthy check remains (R91, R92). -/
def freezePos (d : Device) : Device :=
  raise .encoderFault []
    (positionFails { d with pos := { d.pos with
      frozen := true, countWpos := d.pos.wpos, frac := 0, counts := [], countAt := none, speed := {}, holdSpeed := false } })

/-- The driving encoder has faulted: failover to a healthy check encoder, from the last value of WPOS and at the speed held, or WPOS frozen
(R91, R92). -/
def drivingFaulted (enc : Fin 2) (d : Device) : Device :=
  if d.pos.encMode = 1 ∧ !d.pos.encs[otherEnc enc].faulted then
    raise .encoderFailover [] { d with pos := { d.pos with
      driving := otherEnc enc, counts := [], countWpos := d.pos.wpos, frac := 0, countAt := some d.chip.qtime, holdSpeed := true } }
  else freezePos d

/-- Travel of net counts (R87). -/
def countTravel (p : Pos) (n : Int) : Int := n * p.countNum / (max 1 p.countDen : Nat)

/-- In ENC_MODE 1 the other encoder has counted 1 mm of travel while this one counted none (Table 4.2). -/
def encoderLost (p : Pos) (enc : Fin 2) : Bool := p.encMode == 1 && decide (1000000 ≤ (countTravel p p.encs[enc].quiet).natAbs)

/-- An encoder is faulted by four illegal transitions in 1 ms or by loss (Table 4.2). A deputy, which goes on with its primary, raises the events
that a position master raises and does no more. -/
def execEncoderFaulted (enc : Fin 2) (why : EncFault) (s : State) : Host.Outcome State Fault Refusal :=
  let d := s.dev
  let shown := match why with | .illegal => illegalBurst d.pos.encs[enc] | .loss => encoderLost d.pos enc
  if !posOn d || d.pos.role == .follower || !encUsed d.pos enc || !shown || d.pos.encs[enc].faulted then next s d
  else
    let drives := if d.pos.role == .deputy && d.pos.encs[d.pos.driving].faulted then otherEnc d.pos.driving else d.pos.driving
    let d := { d with pos := { d.pos with encs := upd d.pos.encs enc (fun e => { e with faulted := true }) } }
    if enc != drives then next s d
    else if d.pos.role == .master then next s (drivingFaulted enc d)
    else if d.pos.encMode = 1 ∧ !d.pos.encs[otherEnc enc].faulted then next s (raise .encoderFailover [] d)
    else next s (raise .encoderFault [] d)

/-- Two travels over a window of the primary differ by more than ENC_TOL, in units of 0.01 % (Table 4.2). -/
def travelsDiffer (p : Pos) (a b : Int) : Bool := decide (p.encTol * a.natAbs < 10000 * (a - b).natAbs)

/-- A 10 mm window of the primary ends (R91): EV_ENCODER_DISAGREE at the first failing window of a run. In ENC_MODE 1 the two encoders are
compared, and a deputy compares its own travel with the position master's samples, while they come (R107). -/
def execEncoderWindowEnd (s : State) : Host.Outcome State Fault Refusal :=
  let d := s.dev
  let own := primaryOf d.pos.encMode
  let a := countTravel d.pos d.pos.encs[own].window
  let both := d.pos.encMode == 1
  let deputy := d.pos.role == .deputy
  if !posOn d || d.pos.role == .follower || !(both || deputy) || decide (a.natAbs < 10000000) then next s d
  else
    let fail := both && travelsDiffer d.pos a (countTravel d.pos d.pos.encs[otherEnc own].window)
    let heard := d.pos.valid && !d.pos.deputyOn && d.pos.sample.isSome && decide (d.chip.qtime < d.pos.sampleAt + 200000)
    let off := deputy && (if heard then travelsDiffer d.pos a d.pos.sampleWindow else d.pos.offSamples)
    let was := d.pos
    let d := { d with pos := { d.pos with
      encs := mapAll d.pos.encs (fun e => { e with window := 0 }), sampleWindow := 0, disagreeing := fail, offSamples := off } }
    let d := if fail && !was.disagreeing then raise .encoderDisagree [] d else d
    next s (if off && !was.offSamples then raise .encoderDisagree [] d else d)

/-- An index pulse ends an index period (R91): every failing period is counted, the first of a run raises EV_ENCODER_SLIP. -/
def execIndexPulse (enc : Fin 2) (s : State) : Host.Outcome State Fault Refusal :=
  let d := s.dev
  let e := d.pos.encs[enc]
  if !encPins d || d.pos.role == .follower || !encUsed d.pos enc || d.pos.indexPitch == 0 then next s d
  else
    let fail := e.indexed && decide (d.pos.indexTol < ((e.since.natAbs : Int) - d.pos.indexPitch).natAbs)
    let d := { d with pos := { d.pos with encs := upd d.pos.encs enc (fun e =>
      { e with since := 0, indexed := true, slipping := fail }) } }
    let d := if fail then modDiag d (fun g => { g with encSlip := satAdd g.encSlip 1 }) else d
    next s (if fail && !e.slipping then raise .encoderSlip [] d else d)

/-- No count for STALL_MS (R89): speed 0, WPOS held at the last count. -/
def execEncoderStall (s : State) : Host.Outcome State Fault Refusal :=
  let d := s.dev
  if !posOn d || d.pos.role == .follower then next s d
  else next s (holdLoop (refreshPos { d with pos := { d.pos with speed := {}, counts := [], countAt := none, holdSpeed := false } }))

/-! Product detect -/

/-- The number of a sheet that opens at S and the device with it counted: within the job that the sheet belongs to (R102, R103). -/
def takeSheetNumber (start : Nat) (d : Device) : U32 × Device :=
  match d.jobs.change with
  | some c =>
    if c.w.toNat ≤ start then (w32 (d.sheet.opened.filter (fun o => decide (c.w.toNat ≤ o.1.toNat))).length, d)
    else (d.sheet.number, { d with sheet := { d.sheet with number := d.sheet.number + 1 } })
  | none => (d.sheet.number, { d with sheet := { d.sheet with number := d.sheet.number + 1 } })

/-- A sheet placed in the list of those whose start the web has not reached. -/
def placeSheet (start : U64) (number : U32) (d : Device) : Device :=
  { d with sheet := { d.sheet with opened := d.sheet.opened ++ [(start, number, d.pos.hwpos)] } }

/-- An accepted edge opens a sheet that starts at S (R100, R101, R102), or is ignored as early. -/
def openSheet (input : Fin 2) (start : Nat) (d : Device) : Device :=
  let early := match d.sheet.lastSheet with | some (l, p) => decide (start < l.toNat + p) | none => false
  if early then raise .sheetEarly [] (modDiag d (fun g => { g with pdEarly := satAdd g.pdEarly 1 }))
  else
    let (n, d) := takeSheetNumber start d
    let d := placeSheet (BitVec.ofNat 64 start) n d
    let d := { d with sheet := { d.sheet with
      lastSheet := some (BitVec.ofNat 64 start, sheetPitch d start n.toNat)
      confirm := if d.sheet.sel = 2 then d.sheet.confirm ++ [BitVec.ofNat 64 start] else d.sheet.confirm } }
    broadcast .timing 0x0003 (leBytes 8 start ++ [BitVec.ofNat 8 input.val, 0, 0, 0] ++ leBytes 4 n.toNat) d

/-- Sheets open: a sheet-mode job runs, or one is scheduled. -/
def sheetsRun (d : Device) : Bool :=
  (match d.jobs.running with | some j => j.state == .running && j.desc.sheet | none => false)
    || (match d.jobs.staged with | some j => j.state == .scheduled && j.desc.sheet | none => false)

/-- A product-detect edge (R99 to R102): ignored while WPOS lies below the high-water WPOS (R90), with the wrong polarity, within
PD_DEBOUNCE of the last accepted one, or with no sheet-mode job. DESIGN CHOICE: an edge that R100 ignores as early starts PD_DEBOUNCE all the
same, and a PD1 edge that comes before its PD0 edge confirms no sheet (log entry 84). -/
def execPdEdge (input : Fin 2) (rising : Bool) (s : State) : Host.Outcome State Fault Refusal :=
  let d := s.dev
  let used := if d.sheet.sel = 0 then input == 0 else if d.sheet.sel = 1 then input == 1 else true
  let near := match d.sheet.lastEdge[input] with | some w => decide (d.pos.wpos.toNat < w.toNat + d.sheet.debounce) | none => false
  if !encPins d || !active d || d.pos.role != .master || !used || rising != d.sheet.edge[input] || near
      || decide (d.pos.wpos < d.pos.hwpos) || !sheetsRun d then next s d
  else
    let start := d.pos.wpos.toNat + d.sheet.distance[input]
    let d := { d with sheet := { d.sheet with lastEdge := upd d.sheet.lastEdge input (fun _ => some d.pos.wpos) } }
    if d.sheet.sel = 2 ∧ input = 1 then
      next s { d with sheet := { d.sheet with
        confirm := d.sheet.confirm.eraseP (fun c => decide (((c.toNat : Int) - start).natAbs ≤ d.sheet.tol)) } }
    else next s (openSheet input start d)

/-- The web has travelled PD_TOL beyond the PD0 start with no PD1 edge (R101). -/
def execPdConfirmTimeout (s : State) : Host.Outcome State Fault Refusal :=
  let d := s.dev
  match d.sheet.confirm with
  | c :: rest =>
    if posOn d && reached d (c.toNat + d.sheet.tol) then
      next s (raise .pdMismatch [] (modDiag { d with sheet := { d.sheet with confirm := rest } }
        (fun g => { g with pdMismatch := satAdd g.pdMismatch 1 })))
    else next s d
  | [] => next s d

/-- A sheet-open notice from the position master (R102). -/
def execSheetOpenNoticeReceived (start : U64) (_input : U8) (number : U32) (s : State) : Host.Outcome State Fault Refusal :=
  if hears s.dev && s.dev.pos.role != .master then next s (placeSheet start number s.dev) else next s s.dev

/-! Samples -/

/-- The payload of a WPOS sample (Table 12.4). -/
def samplePayload (m : WposSample) : List U8 :=
  leBytes 8 m.ftime.toNat ++ leBytes 8 m.wpos.toNat ++ leBytes 8 m.hwpos.toNat ++ leBytes 4 m.speed.toNat ++ leBytes 4 m.minSpeed.toNat
    ++ leBytes 2 m.lpi.toNat
    ++ [BitVec.ofNat 8 (b2n m.stopped + 2 * b2n m.reverse + 4 * b2n m.fault + 8 * b2n m.deputy), 0, 0, 0, 0, 0]

/-- The WPOS sample of this device (R104). -/
def mkSample (d : Device) : WposSample :=
  { ftime := BitVec.ofNat 64 (d.chip.qtime / 40000 * 10000), wpos := d.pos.wpos, hwpos := d.pos.hwpos, speed := i32 (speedUm d),
    minSpeed := w32 d.pos.minSpeed, lpi := BitVec.ofNat 16 d.pos.lpi, stopped := stopped d,
    reverse := decide (d.pos.wpos < d.pos.hwpos), fault := d.pos.frozen, deputy := d.pos.role == .deputy }

/-- The position master, or a deputy that has taken over, broadcasts WPOS samples. -/
def broadcasts (d : Device) : Bool :=
  posOn d && active d && ((d.pos.role == .master && !d.pos.relock) || (d.pos.role == .deputy && d.pos.deputyOn))

/-- A multiple of 10 µs of fabric time: a WPOS sample is broadcast (R104, R107). -/
def execWposSampleBroadcast (s : State) : Host.Outcome State Fault Refusal :=
  let d := s.dev
  if broadcasts d then
    let m := mkSample d
    next s (broadcast .timing 0x0001 (samplePayload m) { d with pos := { d.pos with sent := m :: d.pos.sent } })
  else next s d

/-- Locked to the root's fabric time; an unlocked node treats samples as not received (R300). -/
def timeLocked (d : Device) : Bool := d.fabric.root || d.fabric.locked

/-- A sample is taken: by a follower from the position master, or from a deputy when none from the master came for 50 µs; by a deputy
from the master only (R105, R107); by a promoted position master from the deputy while it relocks (R108). -/
def takesSample (d : Device) (m : WposSample) : Bool :=
  let deputyOk := match d.pos.sample with
    | some l => l.deputy || decide (d.pos.sampleAt + 200000 ≤ d.chip.qtime)
    | none => true
  hears d && posOn d && timeLocked d
    && match d.pos.role with
      | .master => d.pos.relock && m.deputy && !m.fault
      | .deputy => !m.deputy
      | .follower => !m.deputy || deputyOk

/-- LPI and MIN_SPEED against the position master's: EV_POSITION_CONFIG when they come to differ (R86). DESIGN CHOICE: a deputy does what the rule
says of a follower (log entry 84). -/
def checkSampleConfig (m : WposSample) (d : Device) : Device :=
  let differs := d.pos.role != .master && decide (m.lpi.toNat ≠ d.pos.lpi ∨ m.minSpeed.toNat ≠ d.pos.minSpeed)
  let was := d.pos.mismatch
  let d := { d with pos := { d.pos with mismatch := differs } }
  if differs && !was then raise .positionConfig [] d else d

/-- Speed of a sample (Table 12.4). -/
def sampleSpeed (m : WposSample) : Speed := { travel := m.speed.toInt, time := 4000000 }

/-- The WPOS that a sample gives at the present time. -/
def sampleNow (d : Device) (m : WposSample) : Int :=
  m.wpos.toNat + m.speed.toInt * ((d.chip.qtime : Int) - 4 * m.ftime.toNat) / 4000000

/-- A sample without FAULT moves WPOS: a difference of at most 1,000 nm goes over 10 µs, a larger one at once, counted as a step
(R105); the first sample of all, and a relocking master's, set it. Camera triggers count on from the first (R170). A deputy's comparison of R107
goes on from its own travel where samples return. -/
def followSample (m : WposSample) (d : Device) : Device :=
  let fresh := d.pos.sample.isNone || d.pos.relock
  let at_ := sampleNow d m
  let diff : Int := at_ - d.pos.wpos.toNat
  let small := !fresh && decide (diff.natAbs ≤ 1000)
  let d := if !fresh && !small then modDiag d (fun g => { g with posStep := satAdd g.posStep 1 }) else d
  let first := d.pos.sample.isNone
  let hw := if first then m.hwpos else if d.pos.hwpos < m.hwpos then m.hwpos else d.pos.hwpos
  let travel : Int := match d.pos.sample with | some l => (m.wpos.toNat : Int) - l.wpos.toNat | none => 0
  let own := countTravel d.pos d.pos.encs[primaryOf d.pos.encMode].window
  let window := if first || !d.pos.valid || d.pos.deputyOn then own else d.pos.sampleWindow + travel
  let p : Pos := { d.pos with
    sample := some m, sampleAt := d.chip.qtime, residual := if small then diff else 0, valid := true,
    frozen := (d.pos.role != PosRole.follower) && d.pos.frozen,
    deputyOn := d.pos.deputyOn && m.deputy, hwpos := hw, sampleWindow := if d.pos.role == .deputy then window else 0 }
  let p : Pos := if p.role == .follower then { p with speed := sampleSpeed m, counts := [], countAt := none }
    else
      let by_ := BitVec.ofInt 64 diff
      let set := p.counts.isEmpty || fresh
      { p with countWpos := if set then BitVec.ofInt 64 at_ else p.countWpos + by_
               countAt := if set then some d.chip.qtime else p.countAt
               counts := if fresh then [] else p.counts.map (fun c => (c.1 + by_, c.2))
               speed := if fresh || p.counts.length < 2 then sampleSpeed m else p.speed, relock := false }
  let d := refreshPos { d with pos := p }
  if first then { d with cams := { d.cams with ports := mapAll d.cams.ports (fun c => { c with trigAt := d.pos.hwpos }) } } else d

/-- Lines whose commit points lie at or below the returned high-water WPOS are skipped under NO_POSITION on every head (R106); those of a sheet whose
notice came too late for them are SHEET_LATE first (Table 4.6); those of repeats that began in the loss follow at their commit (`commitSkip`).
DESIGN CHOICE: R106's reason stands here and for the tokens of EV_POSITION_LOST, also where a condition of a lower code holds (log entry 84). -/
def skipPassed (d : Device) : Device :=
  let d := { d with pos := { d.pos with skipTo := some d.pos.hwpos } }
  (List.finRange 40).foldl (fun d h => passSegs h (2 * d.fire.cursor[h].segs.length) d) d
where
  passSegs (h : Head) : Nat → Device → Device
    | 0, d => d
    | fuel + 1, d =>
      match segsOf d h with
      | [] => d
      | g :: _ =>
        let n := linesPast d h g.start (g.lines + g.strips) d.pos.hwpos.toNat
        if g.j < min n g.lateTo then passSegs h fuel (skipFront h .sheetLate (min n g.lateTo - g.j) d)
        else if n ≤ g.j then d else passSegs h fuel (skipFront h .noPosition (n - g.j) d)

/-- The sample proves that no abort for W was missed (R56): it comes from the position master and lies at or beyond the abort deadline,
2 ms of travel before W. -/
def proveChange (m : WposSample) (d : Device) : Device :=
  { d with jobs := { d.jobs with change := d.jobs.change.map (fun c =>
    let past : Bool := match changeStart d c with | some w => decide ((w : Int) - travelIn d 2000000 ≤ m.wpos.toNat) | none => false
    if c.go && !m.deputy && past && !c.barred then { c with proof := true } else c) } }

/-- A device that lost a change learns from the position master's samples which job runs (R57): the incoming one, unless an abort has come. It
resumes at a repeat boundary that follows. DESIGN CHOICE: no message carries the running job, and the model takes it from these (log entry 97). -/
def learnJob (m : WposSample) (d : Device) : Device :=
  if d.jobs.lost && !m.deputy then
    let id : U32 × Bool := match d.jobs.change with
      | some c => if !c.aborted && (c.proof || decide (c.w ≤ m.wpos)) then (c.jobId, true) else (runningId d, false)
      | none => (runningId d, false)
    if d.jobs.masterJob == some id then d
    else { d with jobs := { d.jobs with masterJob := some id, masterAt := d.pos.hwpos.toNat } }
  else d

/-- A promoting unit that has relocked to WPOS takes role ACTIVE once that is recorded (R308, R327 steps 8 and 9). The high-water WPOS at the end of
the relock decides where its heads resume (R329). -/
def lockPromotion (d : Device) : Device :=
  let locked := !d.pos.frozen && (if d.pos.role == .master then !d.pos.relock else d.pos.valid)
  let asked := d.nv.programs.any (fun p => match p with | .epoch _ r => r == Role.active | _ => false)
  if paired d && d.red.role == .promoting && d.red.promo == some .resume && locked && !asked then
    recordRole .active { d with red := { d.red with lockHw := d.pos.hwpos } }
  else d

/-- The first sample that carries FAULT: position is lost for good, and a deputy does not take over (R92). Where it ends a loss of samples, they have
returned (R106). -/
def faultSample (lost : Bool) (m : WposSample) (d : Device) : Device :=
  let d := { d with pos := { d.pos with
    sample := some m, sampleAt := d.chip.qtime, residual := 0, deputyOn := false, wpos := m.wpos, countWpos := m.wpos, valid := true
    hwpos := if d.pos.hwpos < m.hwpos then m.hwpos else d.pos.hwpos } }
  let d := if lost then raise .positionRegained [] (skipPassed d) else d
  if d.pos.frozen then d
  else positionFails { d with pos := { d.pos with frozen := true, valid := true, speed := {}, counts := [], countAt := none } }

/-- A WPOS sample arrives (R105 to R108). -/
def execWposSampleReceived (sample : WposSample) (s : State) : Host.Outcome State Fault Refusal :=
  let d := s.dev
  if !takesSample d sample then next s d
  else
    let d := checkSampleConfig sample d
    let lostBefore := d.pos.role != .master && d.pos.sample.isSome && !d.pos.valid
    if sample.fault then next s (faultSample lostBefore sample d)
    else
      let thawed := d.pos.role == .deputy && d.pos.frozen && (match d.pos.sample with | some l => l.fault | none => false)
      let d := if thawed then { d with pos := { d.pos with frozen := false } } else d
      let d := learnJob sample (proveChange sample (followSample sample d))
      next s (lockPromotion (holdLoop (if lostBefore then raise .positionRegained [] (skipPassed d) else d)))

/-- No sample for 100 µs (R106): a follower commits no further line and skips every pending token under NO_POSITION. DESIGN CHOICE: a follower
that has never had a sample has lost none (log entry 84). -/
def execPositionLost (s : State) : Host.Outcome State Fault Refusal :=
  let d := s.dev
  if posOn d && d.pos.role != .master && d.pos.valid && !d.pos.deputyOn then
    next s (raise .positionLost [] (skipTokens (fun _ => true) .noPosition
      { d with pos := { d.pos with valid := false } }))
  else next s d

/-- A deputy has heard no sample from the position master for 50 µs and begins to broadcast its own (R107); not after a FAULT sample
(R92). -/
def execDeputyTakeover (s : State) : Host.Outcome State Fault Refusal :=
  let d := s.dev
  if posOn d && active d && d.pos.role == .deputy && !d.pos.deputyOn && !d.pos.frozen && d.pos.valid then
    next s (raise .positionDeputy [] { d with pos := { d.pos with deputyOn := true } })
  else next s d

/-! Over-rate (R37) -/

/-- The line rate has exceeded MAX_LINE_RATE by more than 2 % for longer than 1 ms. -/
def execOverRateDetect (rate : Nat) (s : State) : Host.Outcome State Fault Refusal :=
  let d := s.dev
  let tooMuch : Bool := match d.jobs.running with
    | some j => j.state == .running && decide (102 * j.desc.maxLineRate < 100 * rate)
    | none => false
  if posOn d && tooMuch && !d.feed.overRate then next s (raise .overRate [] { d with feed := { d.feed with overRate := true } })
  else next s d

/-- The rate has been at or below MAX_LINE_RATE for 10 ms. -/
def execSpeedLimitRelease (s : State) : Host.Outcome State Fault Refusal :=
  next s { s.dev with feed := { s.dev.feed with overRate := false } }

/-! Commands -/

/-- A job is RUNNING or SCHEDULED. -/
def jobActive (d : Device) : Bool := jobRunning d || jobScheduled d

/-- The role of a POS_ROLE word. -/
def roleOfNum (n : Nat) : PosRole := if n = 1 then .master else if n = 2 then .deputy else .follower

/-- A change of position role: a new position master or deputy continues from the WPOS that it holds (R87); a new follower waits for a
sample. -/
def setPosRole (r : PosRole) (p : Pos) : Pos :=
  if r == p.role then p
  else { p with role := r, countWpos := p.wpos, frac := 0, counts := [], countAt := none, speed := {}, residual := 0, sample := none
                valid := false, deputyOn := false, relock := false, reversed := false, sampleWindow := 0, skipTo := none }

/-- The fields of Table 4.1 in force; encoder faults are cleared, and the checks of Table 4.2 begin anew (R86, R87, R92). -/
def setPosConfig (a : List Int) (d : Device) : Device :=
  let p := setPosRole (roleOfNum (argN a 0)) d.pos
  let newScale := decide (p.countNum ≠ argN a 3 ∨ p.countDen ≠ argN a 4)
  let p := { p with
    encMode := argN a 1, invert := #v[bitOf (argN a 2) 0, bitOf (argN a 2) 1], countNum := argN a 3, countDen := argN a 4
    frac := if newScale then 0 else p.frac, speedLog2 := argN a 5, counts := p.counts.take (2 ^ argN a 5 + 1), stallMs := argN a 6
    minSpeed := argN a 7, indexPitch := argN a 8, indexTol := argN a 9, encTol := argN a 10, reverseTol := argN a 11, lpi := argN a 12
    encs := Vector.replicate 2 {}, driving := primaryOf (argN a 1), frozen := p.role == PosRole.follower && p.frozen, disagreeing := false
    offSamples := false, sampleWindow := 0, holdSpeed := false }
  let changed := p.role != d.pos.role
  let d := match p.sample with
    | some m => checkSampleConfig m { d with pos := p }
    | none => { d with pos := { p with mismatch := false } }
  if changed then sendRoles d else d

/-- pos.config (R86, Table 4.1). -/
def execPosConfig (c : Cmd) (s : State) : Host.Outcome State Fault Refusal :=
  mervan { opcode := 0x0110
           args := [.num 0 2, .num 0 2, .num 0 3, .num 1 (2 ^ 32 - 1), .num 1 (2 ^ 32 - 1), .num 0 8, .num 1 1000, .num 0 100000, .any,
                    .num 0 255, .num 1 1000, .num 0 100000000, .num 300 2400] }
    (fun _ a d =>
      if 65536 * argN a 4 < argN a 3 then no d .badArgument .field
      else if d.pos.role != .follower && jobActive d then no d .busyState
      else done (setPosConfig a d)) c s

/-- Source of WPOS: master 0, deputy 1, none 2 (Table 4.7). -/
def posSource (d : Device) : Nat :=
  if d.pos.role == .master then (if d.pos.relock then 2 else 0)
  else if d.pos.role == .deputy && d.pos.deputyOn then 1
  else match d.pos.sample with | some m => if d.pos.valid then b2n m.deputy else 2 | none => 2

/-- pos.status (Table 4.7): encoder state is the driving encoder, fault flags are ENC0 faulted, ENC1 faulted, WPOS frozen (log entry
28). -/
def execPosStatus (c : Cmd) (s : State) : Host.Outcome State Fault Refusal :=
  mervan { opcode := 0x0111, results := fun _ => 9 }
    (fun _ _ d => ok d (w64 d.pos.wpos.toNat ++ w64 d.pos.hwpos.toNat ++
      [i32 (speedUm d), w32 (match d.pos.role with | .follower => 0 | .master => 1 | .deputy => 2), w32 (posSource d),
       w32 d.pos.driving.val,
       w32 (b2n d.pos.encs[(0 : Fin 2)].faulted + 2 * b2n d.pos.encs[(1 : Fin 2)].faulted + 4 * b2n d.pos.frozen)])) c s

/-- WPOS and the high-water WPOS set (R87, R90); travel measured from earlier edges and counts is kept. -/
def setWpos (v : U64) (d : Device) : Device :=
  let by_ := v - d.pos.wpos
  { d with
    pos := { d.pos with wpos := v, hwpos := v, countWpos := d.pos.countWpos + by_, frac := 0, reversed := false, relock := false, skipTo := none
                        counts := d.pos.counts.map (fun c => (c.1 + by_, c.2)) }
    sheet := { d.sheet with lastEdge := d.sheet.lastEdge.map (fun e => e.map (· + by_))
                            lastSheet := d.sheet.lastSheet.map (fun e => (e.1 + by_, e.2)) }
    cams := { d.cams with ports := mapAll d.cams.ports (fun c => { c with trigAt := v }) }
    acct := { d.acct with lastNotice := none } }

/-- pos.set (R87). -/
def execPosSet (c : Cmd) (s : State) : Host.Outcome State Fault Refusal :=
  mervan { opcode := 0x0112, args := [.addr] }
    (fun _ a d =>
      if d.pos.role != .master then no d .refused .notPositionMaster
      else if jobActive d then no d .refused .jobActive
      else ok (lockPromotion (setWpos (BitVec.ofNat 64 (argN a 0)) d))) c s

/-- sheet.config (R99, Table 4.4): PD_EDGE carries one bit per input, PD_DISTANCE one 64-bit argument per input (log entry 29). -/
def execSheetConfig (c : Cmd) (s : State) : Host.Outcome State Fault Refusal :=
  mervan { opcode := 0x0113
           args := [.num 0 2, .num 0 3, .wide 0 10000000000 1, .wide 0 10000000000 1, .num 0 100000000, .num 0 10000000] }
    (fun _ a d =>
      if jobRunning d && (match d.jobs.running with | some j => j.desc.sheet | none => false) then no d .busyState
      else done { d with sheet := { d.sheet with
        sel := argN a 0, edge := #v[bitOf (argN a 1) 0, bitOf (argN a 1) 1], distance := #v[argN a 2, argN a 3], debounce := argN a 4
        tol := argN a 5 } }) c s

end Sys2Proof.Machine
end

