-- ==== Sys2Proof/Machine/Tables.lean ====
section
/-! DEFINITION. Shadow banks (R47 to R50, R82, R83), the checks on table images (Tables 3.6 and 6.4) and the amplitude trim (R150 to
R152). -/
namespace Sys2Proof.Machine

/-! Checks on images -/

/-- A check on images in DRAM: the data that it reads, as addresses and lengths, and how it fails (R41). -/
structure ImageCheck where
  reads : List (Nat × Nat)
  fails : Option (Status × Reason)

/-- How checks on images end early: at poisoned data that the next check reads, or with the first check that fails (R41). -/
inductive ImageEnd where
  | poison (a : Nat)
  | fail (st : Status) (r : Reason)
  deriving DecidableEq, Repr

/-- The first check, in order, that meets poisoned data or fails. -/
def imageFault (d : Device) : List ImageCheck → Option ImageEnd
  | [] => none
  | c :: cs =>
    match c.reads.findSome? (fun r => poisonIn d r.1 r.2) with
    | some g => some (.poison g)
    | none => match c.fails with | some f => some (.fail f.1 f.2) | none => imageFault d cs

/-- What a command answers whose checks end early. -/
def answerImage (e : ImageEnd) (d : Device) : Done := match e with | .poison g => poisoned g d | .fail st r => no d st r

/-- A row of Table 3.6 or 6.4 that answers BAD_ARGUMENT. -/
def badIf (reads : List (Nat × Nat)) (b : Bool) (r : Reason) : ImageCheck := ⟨reads, if b then some (.badArgument, r) else none⟩

/-! Images -/

/-- Length of a table's image (Tables 3.4 and 6.1); the substitution and threshold images have their own. -/
def imageLen (t : Tbl) : Nat :=
  match t with
  | .comb => 983040
  | .sub => 0
  | .wave => 1352320
  | .thresh => 0
  | .stitch => 65536
  | .ed => 640

/-- A table set descriptor of 128 bytes (Table 3.4): SET_ID, PRESENT, and per table address, length and CRC. -/
structure TableSet where
  setId   : U32
  present : Nat
  rsvOk   : Bool
  subCount : Nat
  addr    : Tbl → Nat
  len     : Tbl → Nat
  crc     : Tbl → U32

/-- Table 3.4 read from its bytes. -/
def readSet (b : List U8) : TableSet :=
  { setId := w32 (leAt b 0 4), present := leAt b 4 4 % 64, subCount := leAt b 20 4,
    rsvOk := leAt b 4 4 < 64 && leAt b 88 40 == 0 && decide (1280 ≤ leAt b 56 4 ∧ leAt b 56 4 ≤ 2097152 ∨ !bitOf (leAt b 4 4) 3),
    addr := fun t => match t with
      | .comb => leAt b 8 8
      | .sub => leAt b 24 8
      | .wave => leAt b 40 8
      | .thresh => leAt b 48 8
      | .stitch => leAt b 64 8
      | .ed => leAt b 80 8
    len := fun t => match t with
      | .sub => leAt b 20 4 * 8
      | .thresh => leAt b 56 4
      | t => imageLen t
    crc := fun t => match t with
      | .comb => w32 (leAt b 16 4)
      | .sub => w32 (leAt b 32 4)
      | .wave => w32 (leAt b 36 4)
      | .thresh => w32 (leAt b 60 4)
      | .stitch => w32 (leAt b 72 4)
      | .ed => w32 (leAt b 76 4) }

/-- The six tables in PRESENT order. -/
def allTbls : List Tbl := [.comb, .sub, .wave, .thresh, .stitch, .ed]
/-- Tables that a set names. -/
def namedTbls (s : TableSet) : List Tbl := allTbls.filter (fun t => bitOf s.present (tblFin t).val)

/-- Little-endian field of a sparse image. -/
def memLe (m : Mem) (a n : Nat) : Nat := leAt (memRead m a n) 0 n
/-- Signed little-endian field of a sparse image. -/
def memInt (m : Mem) (a n : Nat) : Int := leIntAt (memRead m a n) 0 n

/-! Substitution entries (Table 3.2) -/

/-- A substitution entry. -/
structure SubEntry where
  nozzle  : Nat
  head    : Nat
  handoff : Bool
  weights : List Nat
  rsvOk   : Bool
  deriving DecidableEq, Repr

/-- A substitution entry from its 8 bytes. -/
def readSub (b : List U8) : SubEntry :=
  { nozzle := leAt b 0 2 % 8192, head := byteAt b 2 % 64, handoff := bitOf (byteAt b 3) 0,
    weights := [byteAt b 4, byteAt b 5, byteAt b 6, byteAt b 7],
    rsvOk := leAt b 0 2 < 8192 && byteAt b 2 < 64 && byteAt b 3 < 2 }

/-- Entries of a substitution image of n bytes. -/
def subEntries (read : Nat → Nat → List U8) (n : Nat) : List SubEntry := (List.range (n / 8)).map (fun k => readSub (read (8 * k) 8))

/-- Entries of the active substitution bank. -/
def activeSubs (d : Device) : List SubEntry :=
  let b := getBank d .sub
  subEntries (memRead b.active) b.activeLen

/-- Sorted by HEAD, then NOZZLE, none twice (R66). -/
def subSorted : List SubEntry → Bool
  | a :: b :: r => decide (a.head * 8192 + a.nozzle < b.head * 8192 + b.nozzle) && subSorted (b :: r)
  | _ => true

/-- Entries of a substitution image of so many entries at an address of DRAM; none are read of one that is too long. -/
def subsAt (d : Device) (a count : Nat) : List SubEntry :=
  subEntries (fun o k => dramRead d (a + o) k) (if count ≤ 16384 then 8 * count else 0)

/-- The substitution rows of Table 3.6: SUB_ORDER, then SUB_RANGE; an entry that names a fused-off head is refused (R3). -/
def subChecks (d : Device) (a count : Nat) : List ImageCheck :=
  [badIf [] (decide (16384 < count)) .subOrder, badIf [(a, 8 * count)] (!subSorted (subsAt d a count)) .subOrder,
   badIf [] ((subsAt d a count).any (fun e => !hasHead d e.head || decide (d.links[finOf 40 e.head].nozzles ≤ e.nozzle))) .subRange]

/-- Every reserved field of the substitution entries is 0 (Table 3.2). -/
def subFieldsOk (d : Device) (a count : Nat) : Bool := (subsAt d a count).all (·.rsvOk)

/-! Waveform images (Tables 6.1 to 6.4) -/

/-- A waveform table's header and samples in an image. -/
structure WaveTable where
  length  : Nat
  qStart  : Nat
  qLen    : Nat
  rest    : Int
  pulses  : Nat
  check   : Nat
  rsvOk   : Bool
  map     : List Nat
  samples : List Int
  deriving DecidableEq, Repr

/-- A waveform table read from an image (Tables 6.1 and 6.3). -/
def readWave (read : Nat → Nat → List U8) (h t : Nat) : WaveTable :=
  let b := read (640 + (16 * h + t) * 64) 64
  let n := leAt b 0 2
  let sm := read (41600 + (16 * h + t) * 2048) (2 * min n 1024)
  { length := n, qStart := leAt b 2 2, qLen := leAt b 4 2, rest := leIntAt b 6 2, pulses := byteAt b 8 % 32, check := leAt b 10 2,
    rsvOk := byteAt b 8 < 32 && byteAt b 9 == 0 && leAt b 44 20 == 0,
    map := (List.range 16).map (fun k => leAt b (12 + 2 * k) 2),
    samples := (List.range (min n 1024)).map (fun k => leIntAt sm (2 * k) 2) }

/-- Tables that a head record's TABLE_MASK names. -/
def maskTables (mask : Nat) : List Nat := (List.range 16).filter (bitOf mask)

/-- The FIELD row of Table 6.4 for one table (Table 6.3). -/
def waveFieldOk (w : WaveTable) : Bool :=
  w.rsvOk && decide (2 ≤ w.length ∧ w.length ≤ 1024 ∧ 1 ≤ w.pulses ∧ w.pulses ≤ 16 ∧ w.check < w.length)
    && (w.qLen == 0 || decide (60 ≤ w.qLen ∧ w.qLen + w.qStart ≤ w.length))

/-- Largest magnitude of the samples and REST. -/
def wavePeak (w : WaveTable) : Nat := w.samples.foldl (fun m x => max m x.natAbs) w.rest.natAbs

/-- LIMIT for Table 6.4: the lower of the active and the pending one (R152). -/
def waveLimitOf (d : Device) (h : Head) : Nat :=
  min d.banks.limit[h] (match d.banks.limitNew[h] with | some v => v | none => d.banks.limit[h])

/-- MIN_FIRE_PERIOD for Table 6.4, the shorter of the active and pending entries. -/
def firePeriodOf (d : Device) (h : Head) : Nat :=
  min d.banks.timing[h].minPeriod (match d.banks.timingNew with | some v => v[h].minPeriod | none => d.banks.timing[h].minPeriod)

/-- The checks of Table 6.4 in order, on the image at an address of DRAM, over the heads of the variant (R148); `planed` are the heads of the job
that the image serves. -/
def waveChecks (d : Device) (planed : List Head) (a : Nat) (crc : U32) : List ImageCheck :=
  let read := fun o k => dramRead d (a + o) k
  let heads := (List.finRange 40).filter (fun h => hasHead d h.val)
  let recOf := fun (h : Head) => read (16 * h.val) 16
  let maskOf := fun (h : Head) => leAt (recOf h) 4 2
  let tabs := fun (h : Head) => (maskTables (maskOf h)).map (readWave read h.val)
  let recOk := fun (h : Head) =>
    let b := recOf h
    byteAt b 0 < 2 && byteAt b 2 < 16 && byteAt b 3 == 0 && leAt b 6 10 == 0
  let selected := fun (h : Head) =>
    let b := recOf h
    [byteAt b 1 % 16] ++ (if byteAt b 0 == 1 then [byteAt b 1 / 16] else []) ++ [byteAt b 2 % 16]
  let any := fun (p : Head → WaveTable → Bool) => heads.any (fun h => (tabs h).any (p h))
  let headers := heads.flatMap (fun h => (maskTables (maskOf h)).map (fun t => (a + 640 + (16 * h.val + t) * 64, 64)))
  let samples := fun (part : WaveTable → Nat × Nat) => heads.flatMap (fun h => (maskTables (maskOf h)).map (fun t =>
    let p := part (readWave read h.val t)
    (a + 41600 + (16 * h.val + t) * 2048 + 2 * p.1, 2 * p.2)))
  [badIf (heads.map (fun h => (a + 16 * h.val, 16)) ++ headers) (heads.any (fun h => !recOk h || !(tabs h).all waveFieldOk)) .field,
   badIf [] (heads.any (fun h => if maskOf h = 0 then planed.contains h else (selected h).any (fun t => !bitOf (maskOf h) t))) .waveSelect,
   badIf (samples (fun w => (w.qStart, w.qLen))) (any (fun _ w => (List.range w.qLen).any (fun k => w.samples.getD (w.qStart + k) 0 != w.rest))) .quiet,
   badIf [] (any (fun _ w => w.map.getD 0 0 != 0 || w.map.any (fun m => decide (2 ^ w.pulses ≤ m)))) .waveMap,
   badIf [] (any (fun h w => decide (firePeriodOf d h < 20 * w.length))) .waveLength,
   badIf (samples (fun w => (0, w.length))) (any (fun h w => decide (waveLimitOf d h < wavePeak w))) .waveLimit,
   ⟨[(a, imageLen .wave)], if crc32c (read 0 (imageLen .wave)) != crc then some (.badCrc, .none) else none⟩]

/-! Threshold store, stitching and error diffusion (Table 3.6) -/

/-- HEAD_MODE of Table 3.6: MODE 0 or 3, or a DROP_BITS_M1 other than the job's. -/
def checkModes (planed : List Head) (dir : Head → DirEntry) (job : Head → Option Nat) : Bool :=
  planed.all (fun h => ((dir h).mode == 1 || (dir h).mode == 2) && (match job h with | some b => b == (dir h).bits | none => true))

/-- Width of the overlap of two column ranges, not above 0 when they do not overlap. -/
def overlapOf (a b : Int × Int) : Int := min a.2 b.2 + 1 - max a.1 b.1

/-- GEOMETRY of Table 3.6 (R62): in each plane the heads in print-column order overlap their neighbours by at most 128 columns, and no
other head. -/
def checkGeometry (d : Device) (planes : List PlaneCfg) (dir : Head → DirEntry) : Bool :=
  planes.all (fun p =>
    let span := fun (h : Head) => (colLow (dir h) d.links[h].nozzles, colHigh (dir h) d.links[h].nozzles)
    let hs := headsOf p
    let before := fun (a b : Head) => decide ((span a).1 < (span b).1 ∨ ((span a).1 = (span b).1 ∧ a.val < b.val))
    let between := fun (a b : Head) => hs.any (fun c => before a c && before c b)
    hs.all (fun a => hs.all (fun b =>
      if before a b then decide (overlapOf (span a) (span b) ≤ 0) || (!between a b && decide (overlapOf (span a) (span b) ≤ 128)) else true)))

/-- ARRAY of Table 3.6 (R70, R72); an ARRAY_OFFSET that is no multiple of 32 falls under FIELD. -/
def checkArray (len : Nat) (e : DirEntry) : Bool :=
  e.mode != 1 ||
    (decide (8 ≤ e.arrayW ∧ e.arrayW ≤ 256) && e.arrayW % 8 == 0 && decide (1 ≤ e.arrayH ∧ e.arrayH ≤ 256)
      && decide (e.xPhase < e.arrayW ∧ e.yPhase < e.arrayH) && decide (e.array + e.arrayW * e.arrayH * (2 ^ e.bits - 1) * 2 ≤ len))

/-- LEVEL_MAP of Table 3.6 (R75). -/
def checkLevels (e : DirEntry) : Bool :=
  bitsOf e.levels 0 4 == 0
    && (List.range (2 ^ e.bits)).all (fun q => q == 0 || decide (1 ≤ bitsOf e.levels (4 * q) 4 ∧ bitsOf e.levels (4 * q) 4 < 2 ^ e.bits))

/-- Error-diffusion record of a head (Table 3.3): weights R, DB, D, DF, SERPENTINE, NOISE, SEED. -/
structure EdRecord where
  wR : Nat
  wDB : Nat
  wD : Nat
  wDF : Nat
  serpentine : Bool
  noise : Nat
  seed : U32
  rsvOk : Bool
  deriving DecidableEq, Repr

/-- An error-diffusion record from its 16 bytes. -/
def readEd (b : List U8) : EdRecord :=
  ⟨leAt b 0 2, leAt b 2 2, leAt b 4 2, leAt b 6 2, bitOf (byteAt b 8) 0, byteAt b 9, w32 (leAt b 12 4),
   byteAt b 8 < 2 && leAt b 10 2 == 0⟩

/-- The directory in a threshold image at an address of DRAM. -/
def dirAt (d : Device) (base : Nat) (h : Head) : DirEntry := readDir (dramRead d (base + 32 * h.val) 32)

/-- The rows HEAD_MODE to LEVEL_MAP of Table 3.6 on the threshold store image at an address; they read the entries of the planed heads. -/
def threshChecks (d : Device) (planes : List PlaneCfg) (planed : List Head) (a len : Nat) (job : Head → Option Nat) : List ImageCheck :=
  let dir := dirAt d a
  [badIf (planed.map (fun h => (a + 32 * h.val, 32))) (!checkModes planed dir job) .headMode,
   badIf [] (!checkGeometry d planes dir) .geometry,
   badIf [] (!planed.all (fun h => checkArray len (dir h))) .array,
   badIf [] (!planed.all (fun h => checkLevels (dir h))) .levelMap]

/-! Loading and swapping -/

/-- A request for every table that a set names (R48). -/
def loadsOf (s : TableSet) (what : LoadFor) : List LoadReq :=
  (namedTbls s).map (fun t => ⟨t, s.addr t, s.len t, s.crc t, s.setId, what⟩)

/-- The FKB2's own loads wait their turn (R48). -/
def queueLoads (l : List LoadReq) (d : Device) : Device := { d with banks := { d.banks with queue := d.banks.queue ++ l } }

/-- A swap exchanges the two banks of a table (chapter 2). -/
def swapBank (t : Tbl) (d : Device) : Device :=
  modBank d t (fun b => match b.pending with
    | some r => { active := b.shadow, activeLen := r.len, activeSet := r.setId, shadow := b.active, pending := none, loaded := false }
    | none => b)

/-- The other pulse-map bank serves a head's lines from a waveform swap on (R126); a PRESENT head whose maps are not acknowledged keeps its bank and is
late, as is a head that step 4 of its bring-up has not sent the maps of the image. Before step 4 no bank holds maps (R124). -/
def swapMaps (l : HeadLink) : HeadLink :=
  let sent := if l.state == .present then l.mapsAcked && !l.mapsDue else l.shadowSent
  let early := l.state != .present && !(l.bring == .maps || l.bring == .config || l.bring == .inhibit)
  if early then l
  else if sent then { l with mapBank := !l.mapBank, mapsAcked := false, mapsDue := false, shadowSent := false }
  else { l with mapsDue := true, mapsAcked := l.mapsAcked && !l.mapsDue }

/-- A table is swapped: with the waveforms go the pulse maps, those of a head that is late for the second time once more, and drive leaves s = 0 (R126,
R144). A changed comb or substitution bank
enters the next snapshot (Table 13.2). -/
def swapTable (t : Tbl) (d : Device) : Device :=
  let d := swapBank t d
  if t == .wave then
    let again := (List.finRange 40).filter (fun h => d.links[h].state == .present && d.links[h].mapsDue)
    let d := { d with
      drive := { d.drive with zeroed := d.therm.trip || d.pwr.state != .run }
      links := mapAll d.links swapMaps }
    again.foldl (fun d h => sendMaps h (getBank d .wave).active (!d.links[h].mapBank) d) d
  else if t == .comb then modRed d (fun r => { r with dirty := r.dirty ||| 2 })
  else if t == .sub then modRed d (fun r => { r with dirty := r.dirty ||| 4 })
  else d

/-- Heads whose maps came late take their other pulse-map bank at the first boundary after the acknowledgement, and the maps of an image that has been
loaded meanwhile go into the bank left (R126). -/
def lateMaps (d : Device) : Device :=
  let hs := (List.finRange 40).filter (fun h => d.links[h].mapsDue && d.links[h].mapsAcked)
  let d := hs.foldl (fun d h => modLink d h (fun l => { l with mapBank := !l.mapBank, mapsAcked := false, mapsDue := false })) d
  if waveShadowFull d then hs.foldl (fun d h => sendMaps h (getBank d .wave).shadow (!d.links[h].mapBank) d) d else d

/-- A table's shadow bank holds a loaded image asked for by a purpose. -/
def loadedFor (d : Device) (p : LoadFor → Bool) (t : Tbl) : Bool :=
  let b := getBank d t
  b.loaded && (match b.pending with | some r => p r.what | none => false)

/-- The new pulse maps of every PRESENT head are acknowledged (R126). -/
def mapsReady (d : Device) : Bool := d.links.toList.all (fun l => l.state != .present || (l.mapsAcked && !l.mapsDue))

/-- A load of a repeat's set is complete: the shadow bank holds its image (R49). -/
def reqLoaded (d : Device) (r : LoadReq) : Bool := (getBank d r.tbl).loaded && (getBank d r.tbl).pending == some r

/-- A repeat's set can be swapped in: every table that it names is loaded, and with new waveforms their maps are acknowledged (R49, R126). -/
def setLoaded (d : Device) (loads : List LoadReq) : Bool :=
  loads.all (reqLoaded d) && (!loads.any (fun r => r.tbl == .wave) || mapsReady d)

/-- The loads of a late set that failed are asked for again, for the next boundary's attempt (R49). -/
def askAgain (loads : List LoadReq) (d : Device) : Device :=
  queueLoads (loads.filter (fun r => (getBank d r.tbl).pending != some r && !d.banks.queue.contains r)) d

/-- The pulse maps of a loaded waveform image go into the other pulse-map bank of every PRESENT head (R126); one that waits for a late swap gets them
after it. -/
def sendNewMaps (d : Device) : Device :=
  (List.finRange 40).foldl (fun d h =>
    if d.links[h].state == .present && !d.links[h].mapsDue then
      sendMaps h (getBank d .wave).shadow (!d.links[h].mapBank) (modLink d h (fun l => { l with mapsAcked := false }))
    else d) d

/-- The load of a shadow bank from DRAM ends (R82): CRC-32C, or poisoned data (Table 10.2), decides; a host's load answers. Both are taken over the
whole image, the entries of fused-off heads with it (R3, log entry 96). -/
def finishLoad (t : Tbl) (d : Device) : Device :=
  let b := getBank d t
  match b.pending with
  | none => d
  | some r =>
    let d := dramSee r.addr r.len d
    let img := dramRead d r.addr r.len
    let host := r.what == .hostJob || r.what == .hostRepeat
    if (poisonIn d r.addr r.len).isSome || crc32c img != r.crc then
      let d := raise .tableCrc ([if host then 0 else r.setId, w32 (tblFin t).val] ++ w64 r.addr) (emptyShadow t d)
      if host then finishWork (· == .bankLoad t) { status := .badCrc } d else d
    else
      let d := modBank d t (fun b => { b with shadow := memWrite [] 0 img, loaded := true })
      let d := if t == .wave then sendNewMaps d else d
      let d := if t == .sub && host then modRed d (fun r => { r with dirty := r.dirty ||| 4 }) else d
      if host then finishWork (· == .bankLoad t) {} d else d

/-- The shadow bank is free and the FKB2 starts a load that waits (R48). -/
def execShadowBankLoad (t : Tbl) (s : State) : Host.Outcome State Fault Refusal :=
  let d := s.dev
  match d.banks.queue.find? (fun r => r.tbl == t) with
  | none => next s d
  | some r =>
    if (getBank d t).pending.isSome || !dramServes d then next s d
    else next s (modBank { d with banks := { d.banks with queue := d.banks.queue.erase r } } t
      (fun b => { b with pending := some r, loaded := false }))

/-- A shadow-bank load completes (R82); readiness may change (R53). A lost device whose banks become ready resumes at a boundary still to come
(R57). -/
def execShadowBankLoadDone (t : Tbl) (s : State) : Host.Outcome State Fault Refusal :=
  let d := s.dev
  if (getBank d t).pending.isSome && !(getBank d t).loaded && dramServes d then
    let e := finishLoad t d
    next s (noteReady d { e with jobs := { e.jobs with masterAt := if e.jobs.lost then max e.jobs.masterAt e.pos.hwpos.toNat else e.jobs.masterAt } })
  else next s d

/-! Amplitude trim (R150, R151) -/

/-- A scaled sample (R150); the division rounds down. -/
def scaled (rest s t : Int) : Int := rest + (s - rest) * (65536 + t) / 65536

/-- Every scaled sample of the tables stays within LIMIT. -/
def trimFits (ws : List WaveTable) (limit : Nat) (t : Int) : Bool :=
  ws.all (fun w => w.samples.all (fun s => decide ((scaled w.rest s t).natAbs ≤ limit)))

/-- The largest magnitude up to `hi` of the sign that fits, by halving: `lo` fits, `hi` does not. -/
def trimSearch (ws : List WaveTable) (limit : Nat) (sign : Int) : Nat → Nat → Nat → Nat
  | 0, lo, _ => lo
  | fuel + 1, lo, hi =>
    if hi ≤ lo + 1 then lo
    else
      let m := (lo + hi) / 2
      if trimFits ws limit (sign * m) then trimSearch ws limit sign fuel m hi else trimSearch ws limit sign fuel lo m

/-- The effective trim T (R150). -/
def effTrim (d : Device) (h : Head) : Int := clampI (-16384) 16384 (d.banks.loopTrim[h] + d.banks.hostTrim[h])

/-- Selected tables of a head in the active bank (R151). -/
def selectedWaves (d : Device) (h : Head) : List WaveTable :=
  let img := (getBank d .wave).active
  let (mode, a, b, ck, mask) := waveRecord img h.val
  if mask = 0 then [] else ([a] ++ (if mode = 1 then [b] else []) ++ [ck]).map (readWave (memRead img) h.val)

/-- The applied T of a head at a boundary (R151): T, or the largest of its sign that keeps every sample within LIMIT. -/
def appliedTrim (d : Device) (h : Head) : Int :=
  let t := effTrim d h
  let ws := selectedWaves d h
  if trimFits ws d.banks.limit[h] t then t
  else
    let sign : Int := if t < 0 then -1 else 1
    sign * trimSearch ws d.banks.limit[h] sign 16 0 t.natAbs

/-- A head's trim and LIMIT at a repeat boundary (R150 to R152): pending HOST_TRIM and LIMIT take effect, one T is applied, and a
limited T is counted and reported when it first applies or changes. -/
def trimHead (d : Device) (h : Head) : Device :=
  let d := { d with banks := { d.banks with
    hostTrim := upd d.banks.hostTrim h (fun v => (d.banks.hostTrimNew[h]).getD v)
    hostTrimNew := upd d.banks.hostTrimNew h (fun _ => none)
    limit := upd d.banks.limit h (fun v => (d.banks.limitNew[h]).getD v)
    limitNew := upd d.banks.limitNew h (fun _ => none) } }
  let t := appliedTrim d h
  let limited := t != effTrim d h
  let news := limited && (!d.banks.limitedAt[h] || t != d.banks.applied[h])
  let d := { d with banks := { d.banks with applied := upd d.banks.applied h (fun _ => t), limitedAt := upd d.banks.limitedAt h (fun _ => limited) } }
  let d := modDrive d h (fun x => { x with
    trimLimited := if limited then x.trimLimited + 1 else x.trimLimited
    waveDelay := x.waveDelayNew.getD x.waveDelay, waveDelayNew := none })
  if news then raise .trimLimited [w32 h.val, i32 t] d else d

/-- Every head's trim at a repeat boundary. -/
def trimAll (d : Device) : Device := (List.finRange 40).foldl trimHead d

end Sys2Proof.Machine
end

