-- ==== Sys2Proof/Machine/Screen.lean ====
section
/-! DEFINITION. The screener (chapter 3): the per-nozzle chain, contone from the plane rings, and the screening commands. -/
namespace Sys2Proof.Machine

/-! Contone -/

/-- Why a line has no contone. -/
inductive Lack where
  | late
  | crc
  deriving DecidableEq, Repr

/-- Bytes lo to lo + n − 1 of a plane's data of a repeat from its ring's blocks, 65,536 bytes each (Table 2.5, R45, R46). -/
def ringBytes (r : Ring) (job : JobKey) (rep lo n : Nat) : Except Lack (List U8) :=
  let idxs := (List.range (n / 65536 + 2)).map (· + lo / 65536)
  let need := idxs.filter (fun i => decide (i * 65536 < lo + n))
  let found := need.map (fun i => r.blocks.find? (fun b => b.job == job && b.rep == rep && b.idx == i))
  if found.any (fun f => match f with | some b => !b.ok | none => false) then .error .crc
  else if found.any (·.isNone) then .error .late
  else
    let bytes := found.flatMap (fun f => match f with | some b => b.data | none => [])
    .ok (((bytes.drop (lo - lo / 65536 * 65536)).take n))

/-- Samples of one contone line after the tiles of its plane (R35, R39). A tile of the line that is not yet in the tile area leaves the line
late, like a block that is not in the ring (R45; log entry 79). -/
def contoneLine (d : Device) (pc : PlaneCfg) (p : Plane) (job : JobKey) (rep m cols : Nat) : Except Lack (List Nat) :=
  let lb := lineBytes pc cols
  match ringBytes d.feed.rings[p] job rep (m * lb) lb with
  | .error e => .error e
  | .ok bs =>
    if d.feed.tileWork.any (fun t => t.1.job == job && t.1.rep == rep && t.1.plane == p && decide (t.1.y ≤ m ∧ m < t.1.y + t.1.height)) then
      .error .late
    else
    let n := if pc.bits12 then lb / 3 * 2 else lb
    let base := (List.range n).map (sampleAt pc bs)
    let tiles := d.feed.tiles.filter (fun t => t.job == job && t.rep == rep && t.plane == p && t.ok && decide (t.y ≤ m ∧ m < t.y + t.height))
    .ok ((sortBy (fun a b => decide (a.idx ≤ b.idx)) tiles).foldl (composite pc m) base)
where
  composite (pc : PlaneCfg) (m : Nat) (line : List Nat) (t : TileData) : List Nat :=
    line.zipIdx.map (fun e =>
      if t.x ≤ e.2 ∧ e.2 < t.x + t.width then
        let v := sampleAt pc t.data ((m - t.y) * t.width + (e.2 - t.x))
        if t.mode = 0 then v else if t.mode = 1 then (if v = 0 then e.1 else v) else max e.1 v
      else e.1)

/-- The contone samples of print line j of a repeat (R35): with UPSAMPLE2, line m for 2m, and for 2m + 1 line m or the mean with line
m + 1. -/
def printLine (d : Device) (pc : PlaneCfg) (p : Plane) (g : Seg) (j cols : Nat) : Except Lack (List Nat) :=
  let m := if pc.upsample2 then j / 2 else j
  match contoneLine d pc p g.job g.rep m cols with
  | .error e => .error e
  | .ok a =>
    if pc.upsample2 && pc.interp && j % 2 == 1 && decide (m + 1 < contoneLines pc g.lines) then
      match contoneLine d pc p g.job g.rep (m + 1) cols with
      | .error e => .error e
      | .ok b => .ok ((a.zip b).map (fun e => (e.1 + e.2 + 1) / 2))
    else .ok a

/-! The chain (R60 to R76) -/

/-- Widening to the working density (R61). -/
def widen (pc : PlaneCfg) (s : Nat) : Nat := if pc.bits12 then s * 16 + s / 256 else s * 257

/-- Sample of a nozzle (R60). -/
def nozzleSample (pc : PlaneCfg) (line : List Nat) (e : DirEntry) (n : Nat) : Nat :=
  let c := columnOf e n
  if c < 0 then 0 else line.getD (if pc.across600 then c.toNat / 2 else c.toNat) 0

/-- What the engine counts on a line (Table 3.8). -/
structure ChainCount where
  comb : Nat := 0
  loop : Nat := 0
  clamp : Nat := 0
  dropped : Nat := 0
  handoff : Nat := 0
  ed : Nat := 0
  deriving DecidableEq, Repr

/-- The comb and loop steps of a nozzle (R63 to R65): the density and whether each clamped. -/
def combLoop (d : Device) (h : Head) (n v : Nat) : Nat × Bool × Bool :=
  let o := (h.val * 6144 + n) * 4
  let img := (getBank d .comb).active
  let x : Int := Int.tdiv ((v : Int) * memLe img o 2) 16384 + memInt img (o + 2) 2
  let a := clampI 0 65535 x
  let y : Int := Int.tdiv (a * (262144 + iGet d.banks.loop (1536 * h.val + n / 4))) 262144
  let b := clampI 0 65535 y
  (b.toNat, a != x, b != y)

/-- The other head of the plane that covers a print column (R62), and its nozzle there. -/
def partnerAt (d : Device) (pc : PlaneCfg) (dir : Head → DirEntry) (h : Head) (c : Int) : Option (Head × Nat) :=
  match (headsOf pc).find? (fun k => k != h && decide (colLow (dir k) d.links[k].nozzles ≤ c
      ∧ c ≤ colHigh (dir k) d.links[k].nozzles)) with
  | some k => some (k, (if (dir k).reversed then ((dir k).column0 : Int) - c else c - (dir k).column0).toNat)
  | none => none

/-- The entry of a nozzle in a substitution list. -/
def subOf (subs : List SubEntry) (h : Head) (n : Nat) : Option SubEntry := subs.find? (fun e => e.head == h.val && e.nozzle == n)

/-- A failed nozzle hands its column to the partner (R68). -/
def handsOff (d : Device) (pc : PlaneCfg) (dir : Head → DirEntry) (subs : List SubEntry) (h : Head) (n : Nat) : Bool :=
  match subOf subs h n with
  | some e =>
    e.handoff && (match partnerAt d pc dir h (columnOf (dir h) n) with
      | some (k, m) => (subOf subs k m).isNone
      | none => false)
  | none => false

/-- Substitution (R67, R68) on the densities of a head: each neighbour's shares added and clamped, the failed nozzle to 0. -/
def substitute (subs : List SubEntry) (h : Head) (hands : Nat → Bool) (ds : Array Nat) : Array Nat × ChainCount :=
  let mine := subs.filter (fun e => e.head == h.val && !hands e.nozzle)
  let shares := mine.flatMap (fun e =>
    ([(-2 : Int), -1, 1, 2].zip e.weights).filterMap (fun (o, w) => if w = 0 then none else some ((e.nozzle : Int) + o, ds.getD e.nozzle 0 * w / 128)))
  let good := fun (t : Int) => 0 ≤ t && decide (t < ds.size) && (subOf subs h t.toNat).isNone
  let added := (shares.filter (fun s => good s.1)).foldl (fun (a : Array Nat) s => a.setIfInBounds s.1.toNat (a.getD s.1.toNat 0 + s.2)) ds
  let zeroed := mine.foldl (fun (a : Array Nat) e => a.setIfInBounds e.nozzle 0) added
  let tooMuch := (zeroed.toList.filter (fun v => decide (65535 < v))).length
  (zeroed.map (fun v => min v 65535),
   { clamp := tooMuch, dropped := (shares.filter (fun s => !good s.1)).length,
     handoff := (subs.filter (fun e => e.head == h.val && hands e.nozzle)).length })

/-- The level in threshold-array mode (R70 to R72). -/
def thresholdLevel (img : Mem) (e : DirEntry) (l : Nat) (n dens : Nat) : Nat :=
  if dens = 0 then 0
  else
    let x := ((columnOf e n + e.xPhase) % (max 1 e.arrayW : Int)).toNat
    let y := (l % 2 ^ 32 + e.yPhase) % max 1 e.arrayH
    let k := 2 ^ e.bits - 1
    let at_ := e.array + (y * e.arrayW + x) * k * 2
    ((List.range k).filter (fun t => decide (memLe img (at_ + 2 * t) 2 ≤ dens))).length

/-- One advance of the noise generator (R73). -/
def lfsrNext (s : U32) : U32 :=
  let f := b2n (s.getLsbD 31) ^^^ b2n (s.getLsbD 21) ^^^ b2n (s.getLsbD 1) ^^^ b2n (s.getLsbD 0)
  (s <<< 1) ||| w32 f

/-- noise() of R73 from the state after the nozzle's own advance. -/
def noiseOf (s : U32) (noise : Nat) : Int := ((s.toNat / 65536 * (2 * (noise * 64) + 1) / 65536 : Nat) : Int) - (noise * 64 : Nat)

/-- sat18 of R73. -/
def sat18 (v : Int) : Int := clampI (-131071) 131071 v

/-- State of the error-diffusion pass over a line (R73). -/
structure EdState where
  lfsr  : U32
  right : Int
  next  : IMem
  levels : IMem
  sats  : Nat
  deriving DecidableEq, Repr

/-- A value added to an error line buffer entry; a nozzle beyond the head is dropped (R73). -/
def addErr (m : IMem) (count : Nat) (n : Int) (v : Int) : IMem :=
  if 0 ≤ n ∧ n < count then iSet m n.toNat (iGet m n.toNat + v) else m

/-- R73 for one nozzle. -/
def edStep (r : EdRecord) (bits count : Nat) (line : IMem) (ds : Array Nat) (dir : Int) (st : EdState) (n : Nat) : EdState :=
  let s := lfsrNext st.lfsr
  let q : Int := 2 ^ bits - 1
  let dens := ds.getD n 0
  let v : Int := dens + iGet line n + st.right
  let level : Int := if dens = 0 then 0 else clampI 0 q (Int.tdiv ((v + noiseOf s r.noise) * q + 32767) 65535)
  let raw : Int := if dens = 0 then 0 else v - Int.tdiv (level * 65535) q
  let err := sat18 raw
  let tap := fun (w : Nat) => Int.tdiv (err * w) 32768
  let nx := addErr (addErr (addErr st.next count (n - dir) (tap r.wDB)) count n (tap r.wD)) count (n + dir) (tap r.wDF)
  { lfsr := s, right := tap r.wR, next := nx, levels := iSet st.levels n level, sats := st.sats + b2n (err != raw) }

/-- The error-diffusion pass: levels, next error line, generator state, saturations (R73, R74). -/
def edLine (r : EdRecord) (bits count l : Nat) (line : IMem) (lfsr : U32) (ds : Array Nat) : EdState :=
  let down := r.serpentine && l % 2 == 1
  let order := if down then (List.range count).reverse else List.range count
  order.foldl (edStep r bits count line ds (if down then -1 else 1)) { lfsr := lfsr, right := 0, next := [], levels := [], sats := 0 }

/-- Whether the head fires a print column of an overlap zone (R68, R76). -/
def stitchPass (d : Device) (pc : PlaneCfg) (dir : Head → DirEntry) (subs : List SubEntry) (h : Head) (l n : Nat) : Bool :=
  let c := columnOf (dir h) n
  match partnerAt d pc dir h c with
  | none => true
  | some (k, m) =>
    if handsOff d pc dir subs k m then true
    else
      let nz := fun (x : Head) => d.links[x].nozzles
      let meLeft := decide (colLow (dir h) (nz h) < colLow (dir k) (nz k)
        ∨ (colLow (dir h) (nz h) = colLow (dir k) (nz k) ∧ h.val < k.val))
      let left := if meLeft then h else k
      let i := (c - max (colLow (dir h) (nz h)) (colLow (dir k) (nz k))).toNat
      let row := l % 2 ^ (dir left).maskLog
      let bit := bitOf (memGet (getBank d .stitch).active ((dir left).mask * 4096 + row * 16 + i / 8)).toNat (i % 8)
      if meLeft then !bit else bit

/-- Result of screening a line: the codes, counts, and the engine's error line and generator after it. -/
structure Screening where
  codes : List Nat
  count : ChainCount
  err   : IMem
  lfsr  : U32
  deriving DecidableEq, Repr

/-- One line of one head through the chain of R63, from the densities after widening. `l` is the job's line number.
DESIGN CHOICE: a BLANK line counts no SUB_DROPPED and no HANDOFF (log entry 75). -/
def chain (d : Device) (pc : PlaneCfg) (h : Head) (l : Nat) (blank : Bool) (samples : List Nat) : Screening :=
  let img := (getBank d .thresh).active
  let dir : Head → DirEntry := fun k => dirOf img k.val
  let e := dir h
  let count := d.links[h].nozzles
  let subs := activeSubs d
  let cl := (List.range count).map (fun n => if blank then (0, false, false) else combLoop d h n (widen pc (nozzleSample pc samples e n)))
  let hands : Nat → Bool := handsOff d pc dir subs h
  let (ds, k) := if blank then ((cl.map (·.1)).toArray, {}) else substitute subs h hands (cl.map (·.1)).toArray
  let ed := edLine (readEd (memRead (getBank d .ed).active (16 * h.val) 16)) e.bits count l d.engines[h].err d.engines[h].lfsr ds
  let level : Nat → Nat := fun n => if e.mode = 2 then (iGet ed.levels n).toNat else thresholdLevel img e l n (ds.getD n 0)
  let code : Nat → Nat := fun n =>
    if blank then 0
    else if (subOf subs h n).isSome then 0
    else if stitchPass d pc dir subs h l n then bitsOf e.levels (4 * level n) 4 else 0
  { codes := (List.range count).map code
    count := { k with comb := (cl.filter (·.2.1)).length, loop := (cl.filter (·.2.2)).length, ed := if e.mode = 2 then ed.sats else 0 }
    err := if e.mode = 2 then ed.next else d.engines[h].err
    lfsr := if e.mode = 2 then ed.lfsr else ((List.range count).foldl (fun s _ => lfsrNext s) d.engines[h].lfsr) }

/-- Codes of a nozzle-check strip line (R77, R216). -/
def stripCodes (d : Device) (h : Head) (j : Nat) : List Nat :=
  let bits := (dirOf (getBank d .thresh).active h.val).bits
  let full := 2 ^ bits - 1
  let code := if d.loop.checkCode = 0 ∨ full < d.loop.checkCode then full else d.loop.checkCode
  (List.range d.links[h].nozzles).map (fun n => if n % max 1 d.loop.checkPitch = j / max 1 d.loop.checkRun then code else 0)

/-- Codes packed as a LINE cell and screen.capture carry them, nozzle 0 at bit 0 (Table 5.3). -/
def packCodes (bits : Nat) (codes : List Nat) : List U8 :=
  let arr := codes.toArray
  (List.range ((codes.length * bits + 7) / 8)).map (fun k =>
    BitVec.ofNat 8 ((List.range 8).foldr (fun b a => bitsOf (arr.getD ((8 * k + b) / bits) 0) ((8 * k + b) % bits) 1 + 2 * a) 0))

/-! The line to screen -/

/-- The boundary after the present repeat of the running job: the number of the repeat or sheet that begins there, its start, and for a sheet the
high-water WPOS of its notice. -/
def boundaryAhead (d : Device) (j : JobDesc) : Option (Nat × Nat × Option Nat) :=
  if j.sheet then (d.sheet.opened.head?).map (fun o => (o.2.1.toNat, o.1.toNat, some o.2.2.toNat))
  else if d.jobs.boundaries then some (d.jobs.begun + 1, d.jobs.repStart.toNat + d.jobs.repPitch, none)
  else none

/-- The repeat or sheet that follows in the running job, before its boundary: none after the last repeat without CYCLE, or where a stop or a
scheduled change may take that boundary. -/
def nextSeg (d : Device) (h : Head) : Option Seg :=
  match d.jobs.running with
  | none => none
  | some j =>
    match boundaryAhead d j.desc with
    | none => none
    | some (n, start, notice) =>
      let taken := (match d.jobs.stopAt with | some w => w.toNat ≤ start | none => false)
        || (match d.jobs.change with | some c => decide (c.w.toNat ≤ start) | none => false)
      if j.state != .running || taken || (!j.desc.cycle && decide (j.desc.repeatCount ≤ n))
          || d.fire.cursor[h].ahead == some (j.desc.key, n) then none
      else
        let cur := repDesc d j.desc d.jobs.begun
        mkSeg d j.desc n start (d.jobs.firstLine + cur.lines + (if cur.checkStrip then stripLines d else 0)) h false notice

/-- A head with nothing left to screen takes up the repeat that follows, since a line may be due before its repeat begins (R96). -/
def pullSeg (h : Head) (d : Device) : Device :=
  if (segsOf d h).any (fun g => decide (g.s < g.lines + g.strips)) then d
  else match nextSeg d h with
    | some g => modCursor d h (fun c => { segs := c.segs ++ [g], ahead := some (g.job, g.rep) })
    | none => d

/-- The segment and line that a head screens next. -/
def toScreen (d : Device) (h : Head) : Option Seg := (segsOf d h).find? (fun g => decide (g.s < g.lines + g.strips))

/-- A head's screening moves past a line. -/
def stepScreen (h : Head) (g : Seg) (d : Device) : Device :=
  modCursor d h (fun c => { c with segs := c.segs.map (fun x => if x.job == g.job && x.rep == g.rep then { x with s := g.s + 1 } else x) })

/-- The descriptor of the job of a segment. -/
def jobDescOf (d : Device) (id : JobKey) : Option JobDesc :=
  (((d.jobs.running.map (·.desc)).toList ++ (d.jobs.staged.map (·.desc)).toList ++ (d.jobs.outgoing.map (·.desc)).toList).find? (·.key == id))

/-- A block that some head of its plane has yet to screen. -/
def blockNeeded (d : Device) (pc : PlaneCfg) (lb : Nat) (b : RingBlock) : Bool :=
  (headsOf pc).any (fun h =>
    match (d.fire.cursor[h].segs).find? (fun g => g.job == b.job && g.rep == b.rep) with
    | some g => decide ((if pc.upsample2 then g.s / 2 else g.s) * lb < b.first + b.len) && decide (g.s < g.lines)
    | none =>
      (match d.jobs.running with | some j => j.desc.key == b.job && decide (d.jobs.begun < b.rep) | none => false)
        || (match d.jobs.staged with | some j => j.desc.key == b.job | none => false))

/-- Blocks whose lines every head of the plane has screened leave the ring (R232). -/
def pruneRing (p : Plane) (pc : PlaneCfg) (lb : Nat) (d : Device) : Device :=
  modRing d p (fun r => { r with blocks := r.blocks.filter (blockNeeded d pc lb) })

/-- The order in which the jobs in the rings print: the outgoing one, the running one, the staged one. -/
def jobOrder (d : Device) (id : JobKey) : Nat :=
  if id == runningKey d then 1 else match d.jobs.staged with | some j => if j.desc.key == id then 2 else 0 | none => 0

/-- The threshold store image with which a job's lines are screened: the staged job's own once it is loaded. -/
def threshFor (d : Device) (k : JobKey) : Mem :=
  if d.jobs.staged.any (fun j => j.desc.key == k) then stagedThresh d else (getBank d .thresh).active

/-- Lead of a plane in µs at the current line rate, from a contone byte position, the lines of each job by its own format (R44); none while the
web does not move. -/
def leadOf (d : Device) (p : Plane) (pc : PlaneCfg) (job : JobKey) (rep at_ lb : Nat) : Option Nat :=
  let after := (d.feed.rings[p].blocks.filter (fun b => decide (jobOrder d job < jobOrder d b.job)
    || (b.job == job && (decide (rep < b.rep) || (b.rep == rep && decide (at_ < b.first + b.len))))))
  let bytes := fun (k : JobKey) => ((after.filter (fun b => b.job == k)).map (fun b =>
    if b.job == job && b.rep == rep then b.first + b.len - max at_ b.first else b.len)).sum
  let other := ((after.map (·.job)).eraseDups.filter (· != job)).map (fun k => match jobDescOf d k with
    | some j =>
      let c := planeAt j p.val
      bytes k / max 1 (lineBytes c (planeColumns d (fun h => dirOf (threshFor d k) h.val) c)) * (if c.upsample2 then 2 else 1)
    | none => 0)
  let lines := bytes job / max 1 lb * (if pc.upsample2 then 2 else 1) + other.sum
  let v := speedUm d
  if v ≤ 0 then none else some (lines * 25400000000 / d.pos.lpi / v.toNat)

/-- The lead of a plane: that of the head of the plane which has screened furthest, the least of its heads; none where that head screens a later
job than `job`. DESIGN CHOICE: the spec names no head where HEAD_OFFSETs differ (log entry 84). -/
def planeLead (d : Device) (p : Plane) (pc : PlaneCfg) (job : JobKey) (lb : Nat) : Option Nat :=
  let at_ := (List.finRange 40).filterMap (fun h => (toScreen d h).filter (fun g => g.plane == p))
  if at_.any (fun g => decide (jobOrder d job < jobOrder d g.job)) then none
  else ((at_.filter (fun g => g.job == job)).filterMap (fun g =>
    leadOf d p pc job g.rep ((if pc.upsample2 then g.s / 2 else g.s) * lb) lb)).foldl (fun m n => some (match m with | some x => min x n | none => n)) none

/-- The starvation forecast (R44): EV_FEED_LOW below FEED_WARN, again only after twice FEED_WARN. -/
def forecast (p : Plane) (pc : PlaneCfg) (g : Seg) (lb : Nat) (d : Device) : Device :=
  let warn := match d.jobs.running with | some j => j.feedWarn | none => 100
  match planeLead d p pc g.job lb with
  | none => d
  | some us =>
    if us < warn ∧ d.feed.rings[p].armed then
      raise .feedLow [w32 p.val, w32 us] (modRing d p (fun r => { r with armed := false }))
    else if 2 * warn ≤ us then modRing d p (fun r => { r with armed := true })
    else d

/-- Counters of a screened line (Table 3.8). -/
def countChain (h : Head) (k : ChainCount) (d : Device) : Device :=
  countHead d h (fun c => { c with
    combClamp := c.combClamp + BitVec.ofNat 64 k.comb, loopClamp := c.loopClamp + BitVec.ofNat 64 k.loop,
    subClamp := c.subClamp + BitVec.ofNat 64 k.clamp, subDropped := c.subDropped + BitVec.ofNat 64 k.dropped,
    handoff := c.handoff + BitVec.ofNat 64 k.handoff, edClamp := c.edClamp + BitVec.ofNat 64 k.ed })

/-- A screened line enters the engine's output buffer; a capture that waits for it is served (R84, R434). -/
def putScreened (h : Head) (g : Seg) (sc : Screening) (d : Device) : Device :=
  let line := g.base + g.s
  let bits := (dirOf (getBank d .thresh).active h.val).bits
  let d := modEngine d h (fun e => { e with
    err := sc.err, lfsr := sc.lfsr, fresh := e.fresh && g.job != runningKey d, last := some (g.job, line), mode := (dirOf (getBank d .thresh).active h.val).mode,
    buf := e.buf ++ [⟨g.job, line, sc.codes⟩] })
  let mine : Work → Bool := fun w => match w with
    | .capture h' j l _ => h' == h && j == g.job && l == w32 line
    | _ => false
  let d := (d.mbx.inFlight.filter (fun e => mine e.work)).foldl (fun d e =>
    match e.work with
    | .capture _ _ _ dest => finish e {} (dramWrite 5 dest (packCodes bits sc.codes) d)
    | _ => d) d
  lineGone h g.job line d

/-- The reason for which a line is not screened on a head is kept for its commit. -/
def noteSkip (h : Head) (job : JobKey) (line : Nat) (r : Skip) (d : Device) : Device :=
  modEngine d h (fun e => { e with skips := e.skips ++ [(job, line, r)] })

/-- A line that is not screened (R42, R45, R46, R49). -/
def skipScreen (h : Head) (g : Seg) (r : Skip) (d : Device) : Device :=
  lineGone h g.job (g.base + g.s) (noteSkip h g.job (g.base + g.s) r (stepScreen h g d))

/-- A line whose contone is not in the plane ring when a head must screen it is skipped on every head of the plane that has yet to screen it
(R45). -/
def lateOnPlane (pc : PlaneCfg) (g : Seg) (d : Device) : Device :=
  let line := g.base + g.s
  (headsOf pc).foldl (fun d k =>
    let past := d.fire.cursor[k].segs.any (fun x => x.job == g.job && x.rep == g.rep && decide (g.s < x.s))
    let noted := d.engines[k].skips.any (fun e => e.1 == g.job && e.2.1 == line)
    if past || noted then d else noteSkip k g.job line .feedLate d) d

/-- The contone line that a printed line feeds from is kept, composited, for the proxy of an owned colour (R198): a 12-bit sample as its
upper 8 bits. -/
def keepProxy (p : Plane) (pc : PlaneCfg) (g : Seg) (cols : Nat) (d : Device) : Device :=
  let m := if pc.upsample2 then g.s / 2 else g.s
  if (List.finRange 8).any (fun k => ownsColour d k && d.loop.colours[k].plane == p)
      && !d.feed.rings[p].proxy.any (fun e => e.1 == g.job && e.2.1 == g.rep && e.2.2.1 == m) then
    match contoneLine d pc p g.job g.rep m cols with
    | .ok l => modRing d p (fun r => { r with
        proxy := r.proxy ++ [(g.job, g.rep, m, l.map (fun s => BitVec.ofNat 8 (if pc.bits12 then s / 16 else s)))] })
    | .error _ => d
  else d

/-- SEED of a head in the active error-diffusion image, 0 replaced by 1 (R73). -/
def seedOf (d : Device) (h : Head) : U32 :=
  let s := (readEd (memRead (getBank d .ed).active (16 * h.val) 16)).seed
  if s = 0 then 1 else s

/-- The noise generator of a head starts from SEED with the running job's first line (R73). -/
def seedFirst (h : Head) (g : Seg) (d : Device) : Device :=
  if d.engines[h].fresh && g.job == runningKey d then modEngine d h (fun e => { e with lfsr := seedOf d h }) else d

/-- A screener engine begins the next line of its head (R59, R63, R77, R78, R84). DESIGN CHOICE: the strip lines of a repeat skipped under NO_DATA,
and those of a BLANK repeat, print their check pattern (R42, R78, R216, log entry 97). -/
def screenNext (h : Head) (d : Device) : Device :=
  let d := pullSeg h d
  match toScreen d h with
  | none => d
  | some g =>
    match jobDescOf d g.job with
    | none => d
    | some j =>
      match planeOf j h.val with
      | none => d
      | some (p, pc) =>
        let dir : Head → DirEntry := fun k => dirOf (getBank d .thresh).active k.val
        let cols := planeColumns d dir pc
        let lb := lineBytes pc cols
        let tidy := fun (d : Device) => pruneRing p pc lb d
        let noted := d.engines[h].skips.any (fun e => e.1 == g.job && e.2.1 == g.base + g.s)
        let d := seedFirst h g d
        if noted then tidy (lineGone h g.job (g.base + g.s) (stepScreen h g d))
        else if g.late then tidy (skipScreen h g .tableNotReady d)
        else if g.s < g.lines && d.feed.noData.contains (g.job, g.rep) then tidy (skipScreen h g .noData d)
        else if g.lines ≤ g.s then
          stepScreen h g (putScreened h g
            { codes := stripCodes d h (g.s - g.lines), count := {}, err := d.engines[h].err, lfsr := d.engines[h].lfsr } d)
        else if g.blank then
          let sc := chain d pc h (g.base + g.s) true []
          stepScreen h g (countChain h sc.count (putScreened h g sc d))
        else
          let d := forecast p pc g lb d
          match printLine d pc p g g.s cols with
          | .error .crc => tidy (skipScreen h g .dataCrc d)
          | .error .late => tidy (lineGone h g.job (g.base + g.s) (stepScreen h g (lateOnPlane pc g d)))
          | .ok samples =>
            let sc := chain d pc h (g.base + g.s) false samples
            tidy (stepScreen h g (countChain h sc.count (putScreened h g sc (keepProxy p pc g cols d))))

/-- Screened lines that a head holds (R84): those in the engine's output buffer, and the line whose LINE cell is being sent or still waits for the
lane. -/
def linesHeld (d : Device) (h : Head) : Nat :=
  let out := (advanceTx h (txNow d) d.links[h]).out
  d.engines[h].buf.length + (out.lines.filter (fun c => !c.isNull)).length
    + (match out.sending with | some (.line c, _) => b2n (!c.isNull) | _ => 0)

/-- SCREEN_LINE (R63, R84): the engine has room for a line. -/
def execScreenLine (h : Head) (s : State) : Host.Outcome State Fault Refusal :=
  let d := s.dev
  if domainOn d 2 && decide (linesHeld d h < 2) then next s (screenNext h d) else next s d

/-! Commands -/

/-- Results of screen.status for a head (Table 3.7): MODE, DROP_BITS, the SET_IDs of the active tables, the last screened line, and the
engine state, taken as the lines in its output buffer (log entry 19). DESIGN CHOICE: a head that has screened no line gives line 0 (log
entry 75). -/
def screenWords (d : Device) (h : Head) : List U32 :=
  let e := dirOf (getBank d .thresh).active h.val
  if !hasHead d h.val then List.replicate 10 0
  else
    [w32 e.mode, w32 e.bits] ++ d.banks.tbl.toList.map (·.activeSet)
      ++ [w32 (match d.engines[h].last with | some x => x.2 | none => 0), w32 d.engines[h].buf.length]

/-- screen.status (Table 3.7). -/
def execScreenStatus (c : Cmd) (s : State) : Host.Outcome State Fault Refusal :=
  mervan { opcode := 0x0300, stops := true, args := [.one ((List.range 40).map Int.ofNat ++ [255])]
           results := fun a => if argN a 0 = 255 then 400 else 10 }
    (fun _ a d =>
      if argN a 0 = 255 then ok d ((List.finRange 40).flatMap (screenWords d))
      else if !hasHead d (argN a 0) then no d .badArgument
      else ok d (screenWords d (finOf 40 (argN a 0)))) c s

/-- A host's load of one table with APPLY = JOB (R83, R149): REFUSED without a staged job or after go, BUSY_STATE while an image for a
repeat boundary waits; it replaces the staged job's image. DESIGN CHOICE: BUSY_STATE too while an earlier host load of the bank is unanswered
(log entry 75). -/
def loadForJob (t : Tbl) (addr len : Nat) (crc : U32) (d : Device) : Done :=
  match d.jobs.staged with
  | none => no d .refused .noStagedJob
  | some j =>
    let go := match d.jobs.change with | some c => c.go | none => false
    let b := getBank d t
    let waitsRepeat := match b.pending with | some r => (match r.what with | .hostRepeat => true | .rep _ _ => true | _ => false) | none => false
    if go then no d .refused .tooLate
    else if waitsRepeat || hasWork (· == .bankLoad t) d then no d .busyState
    else
      let setId := w32 (leAt (dramRead d j.desc.tableSet 4) 0 4)
      let was := d
      let d := { d with banks := { d.banks with queue := d.banks.queue.filter (fun r => !(r.tbl == t && r.what == .job)) } }
      let d := modBank d t (fun b => { b with pending := some ⟨t, addr, len, crc, setId, .hostJob⟩, loaded := false })
      .later (.bankLoad t) (noteReady was (dirty d))

/-- A host's load of one table with APPLY = REPEAT (R48, R83, R149). -/
def loadForRepeat (t : Tbl) (addr len : Nat) (crc : U32) (d : Device) : Done :=
  if (getBank d t).pending.isSome then no d .busyState
  else
    .later (.bankLoad t) (dirty (modBank d t (fun b => { b with pending := some ⟨t, addr, len, crc, 0, .hostRepeat⟩, loaded := false })))

/-- sub.load (R83, Table 3.6). DESIGN CHOICE: the checks of the image come before NO_STAGED_JOB, TOO_LATE and BUSY_STATE (log entry 75). -/
def execSubLoad (c : Cmd) (s : State) : Host.Outcome State Fault Refusal :=
  mervan { opcode := 0x0301, works := some 2, reads := true, dram := true, args := [.addr, .any, .any, .flag]
           ranges := fun a => [(argN a 0, 8 * argN a 1, true)] }
    (fun _ a d =>
      match imageFault d (subChecks d (argN a 0) (argN a 1) ++ [badIf [] (!subFieldsOk d (argN a 0) (argN a 1)) .field]) with
      | some e => answerImage e d
      | none =>
        if argB a 3 then loadForRepeat .sub (argN a 0) (8 * argN a 1) (w32 (argN a 2)) d
        else loadForJob .sub (argN a 0) (8 * argN a 1) (w32 (argN a 2)) d) c s

/-- sub.read (Table 3.7): entries FIRST to FIRST + COUNT − 1 of the active bank, as many as it has. -/
def execSubRead (c : Cmd) (s : State) : Host.Outcome State Fault Refusal :=
  mervan { opcode := 0x0302, dram := true, args := [.addr, .num 0 16384, .num 0 16384], results := fun _ => 1
           ranges := fun a => [(argN a 0, 8 * argN a 2, false)] }
    (fun _ a d =>
      let b := getBank d .sub
      let n := min (argN a 2) (b.activeLen / 8 - argN a 1)
      ok (dramWrite 5 (argN a 0) (memRead b.active (8 * argN a 1) (8 * n)) d) [w32 n]) c s

/-- The number of the first line after the present repeat of the running job (R32). -/
def nextFirst (d : Device) : Nat :=
  match d.jobs.running with
  | some j =>
    let r := repDesc d j.desc d.jobs.begun
    d.jobs.firstLine + r.lines + (if r.checkStrip then stripLines d else 0)
  | none => d.jobs.firstLine

/-- screen.capture (R434). A head with nothing left to screen has passed every line of the present repeat. -/
def execScreenCapture (c : Cmd) (s : State) : Host.Outcome State Fault Refusal :=
  mervan { opcode := 0x0303, dram := true, args := [.head, .any, .addr]
           ranges := fun a => if hasHead s.dev (argN a 0) then
             [(argN a 2, s.dev.links[finOf 40 (argN a 0)].nozzles * (dirOf (getBank s.dev .thresh).active (argN a 0)).bits / 8, false)] else [] }
    (fun _ a d =>
      let h : Head := finOf 40 (argN a 0)
      if !hasHead d (argN a 0) then no d .badArgument
      else if !jobRunning d then no d .refused .noJob
      else
        let job := runningKey d
        let gone := fun (line : Nat) => !laterThan (w32 (argN a 1)) (w32 line)
        let passed := d.engines[h].last.any (fun e => e.1 == job && gone e.2)
          || d.engines[h].skips.any (fun e => e.1 == job && e.2.1 == lineNear e.2.1 (w32 (argN a 1)))
          || (match toScreen d h with
            | some g => g.job == job && decide (0 < g.base + g.s) && gone (g.base + g.s - 1)
            | none => d.jobs.running.any (fun j => (planeOf j.desc h.val).isSome) && decide (0 < nextFirst d) && gone (nextFirst d - 1))
        if passed then no d .refused .linePassed
        else .later (.capture h job (w32 (argN a 1)) (argN a 2)) d) c s

/-- A screen.capture without ASYNC whose line was not screened within 10 ms answers TOO_EARLY (R434). -/
def execCaptureTimeout (seq : U32) (s : State) : Host.Outcome State Fault Refusal :=
  let d := s.dev
  match d.mbx.inFlight.find? (fun e => e.seq == seq && !e.async && e.work.isCapture) with
  | some e => next s (finish e { status := .refused, reason := .tooEarly } d)
  | none => next s d

end Sys2Proof.Machine
end

