-- ==== Sys2Proof/Machine/Firing.lean ====
section
/-! DEFINITION. The line-fire timer (R93 to R98, R109 to R111, R116 to R118, R146, R147): committing lines, firing rows, and the head
timing table. -/
namespace Sys2Proof.Machine

/-! Fire inhibit (R111, R155) -/

/-- Fire inhibit set for the heads of a mask, with INHIBIT SET 1 to the adapters that carry cells. -/
def inhibitHeads (hs : List Head) (d : Device) : Device :=
  hs.foldl (fun d h =>
    let d := { d with fire := { d.fire with inhibit := d.fire.inhibit ||| BitVec.ofNat 40 (2 ^ h.val) } }
    if d.links[h].state == .present then sendInhibit h true d else d) d

/-- Fire inhibit cleared for heads, from the next commit point on: a token pending under it stays barred (R111). INHIBIT SET 0 goes to those that
nothing else inhibits. -/
def releaseHeads (hs : List Head) (d : Device) : Device :=
  hs.foldl (fun d h =>
    let held := d.fire.inhibit.getLsbD h.val
    let d := { d with fire := { d.fire with
      inhibit := d.fire.inhibit &&& ~~~(BitVec.ofNat 40 (2 ^ h.val))
      tokens := d.fire.tokens.map (fun t => if held && t.head == h then { t with barred := true } else t) } }
    if d.links[h].state == .present && !inhibited d h then sendInhibit h false d else d) d

/-- Heads whose bit of a 64-bit mask is set. -/
def maskHeads (m : Nat) : List Head := (List.finRange 40).filter (fun h => bitOf m h.val)

/-- line.inhibit (R111, Table 4.7). -/
def execLineInhibit (c : Cmd) (s : State) : Host.Outcome State Fault Refusal :=
  mervan { opcode := 0x0115, args := [.wide 0 (2 ^ 40 - 1) 1, .flag] }
    (fun _ a d =>
      if (maskHeads (argN a 0)).any (fun h => !hasHead d h.val) then no d .badArgument
      else done (if argB a 1 then inhibitHeads (maskHeads (argN a 0)) d else releaseHeads (maskHeads (argN a 0)) d)) c s

/-! The head timing table (Table 4.3, R98) -/

/-- A head timing entry from its 32 bytes, and whether its fields are in range. -/
def readTiming (b : List U8) : Timing × Bool :=
  let rows := bitsOf (byteAt b 16) 0 2
  let off := fun r => leAt b (16 + 4 * r) 4
  let t : Timing := { headOffset := leAt b 0 8, fireAdvance := leAt b 8 4, minPeriod := leAt b 12 4, rowsM1 := rows
                      rowOffset := #v[0, off 1, off 2, off 3] }
  (t, decide (t.headOffset ≤ 100000000000 ∧ t.fireAdvance ≤ 20000 ∧ 1000 ≤ t.minPeriod ∧ t.minPeriod ≤ 1000000)
    && bitsOf (byteAt b 16) 2 6 == 0 && leAt b 17 3 == 0
    && [1, 2, 3].all (fun r => decide (off r ≤ 10000000) && (decide (r ≤ rows) || off r == 0)))

/-- Two offsets differ by at most 1,000,000 nm (R98). -/
def stepOk (a b : Nat) : Bool := decide (((a : Int) - b).natAbs ≤ 1000000)

/-- No offset of an entry moves by more than R98 allows. -/
def timingStepOk (old new : Timing) : Bool :=
  stepOk old.headOffset new.headOffset
    && [1, 2, 3].all (fun r => stepOk (old.rowOffset.getD r 0) (new.rowOffset.getD r 0))

/-- line.config (R98, Table 4.7): the step limit applies once a table has been set (log entry 12). The entries of fused-off heads are neither
read nor checked (R3). -/
def execLineConfig (c : Cmd) (s : State) : Host.Outcome State Fault Refusal :=
  mervan { opcode := 0x0114, dram := true, args := [.addr], ranges := fun a => [(argN a 0, 1280, false)] }
    (fun _ a d =>
      let d := dramSee (argN a 0) (32 * headCount d) d
      let read := fun (h : Head) => readTiming (dramRead d (argN a 0 + 32 * h.val) 32)
      let heads := (List.finRange 40).filter (fun h => hasHead d h.val)
      match heads.findSome? (fun h => poisonIn d (argN a 0 + 32 * h.val) 32) with
      | some g => poisoned g d
      | none =>
        if heads.any (fun h => !(read h).2) then no d .badArgument .field
        else if d.banks.timingSet && heads.any (fun h => !timingStepOk d.banks.timing[h] (read h).1) then no d .badArgument .offsetStep
        else if d.banks.timingNew.isSome then no d .busyState
        else
          let v : Vector Timing 40 := Vector.ofFn (fun h => if hasHead d h.val then (read h).1 else d.banks.timing[h])
          let b := { d.banks with timingSet := true }
          let e := { d with banks := if jobRunning d then { b with timingNew := some v } else { b with timing := v } }
          done (noteReady d e)) c s

/-! Commit -/

/-- The commit point of a head's next line is reached while the web is not stopped and a position is held (R89, R96, R106). -/
def commitDue (d : Device) (h : Head) (g : Seg) : Bool :=
  posOn d && !stopped d && !d.pos.frozen && !d.pos.relock && (d.pos.role == .master || d.pos.valid)
    && reachedWith d d.banks.timing[h].fireAdvance ((firePos d h g.start g.j 0 : Int) - pitchUp d)

/-- The condition with the lowest code of Table 4.5 that holds for a line at its commit point (R109). A line of a sheet whose notice came late is
SHEET_LATE before the NO_POSITION of R106 applies (Table 4.6), and is not SCREEN_LATE: its commit point came before it was known (R102). -/
def commitSkip (d : Device) (h : Head) (g : Seg) : Option Skip :=
  let line := g.base + g.j
  let lost := match d.pos.skipTo with
    | some w => decide (g.lateTo ≤ g.j) && decide ((firePos d h g.start g.j 0 : Int) - pitchUp d ≤ w.toNat)
    | none => false
  match lowerSkip (headSkip d h) (if lost then some .noPosition else none) with
  | some r => some r
  | none =>
    if g.late then some .tableNotReady
    else
      match d.engines[h].skips.find? (fun e => e.1 == g.job && e.2.1 == line) with
      | some e => some e.2.2
      | none =>
        if d.feed.noData.contains (g.job, g.rep) && decide (g.j < g.lines) then some .noData
        else if g.j < g.lateTo then some .sheetLate
        else if !d.engines[h].buf.any (fun b => b.job == g.job && b.line == line) then some .screenLate
        else none

/-- The waveform table of a line (R146). -/
def waveOf (d : Device) (h : Head) (strip : Bool) (line : Nat) : BitVec 4 :=
  let (mode, a, b, ck, _) := waveRecord (getBank d .wave).active h.val
  BitVec.ofNat 4 (if strip then ck else if mode = 1 ∧ line % 2 = 1 then b else a)

/-- The LINE cell of a token (Table 5.3, R116). -/
def lineCellOf (d : Device) (t : Token) : LineCell :=
  let codes := packCodes t.dropBits t.codes
  let c : LineCell := {
    wave := t.wave, isNull := false, mapBank := t.mapBank, dropBitsM1 := BitVec.ofNat 2 (t.dropBits - 1)
    rowsM1 := BitVec.ofNat 2 (t.fireAt.length - 1), length := BitVec.ofNat 16 (20 + codes.length), lineNo := w32 t.line
    epoch := d.red.epoch, jobId := jobIdOf t.job, codes := codes, crc := 0 }
  { c with crc := lineCrc t.head.val (unitB d) c }

/-- The token of a head's next line with the fire positions of its rows (R94, R98). -/
def tokenOf (d : Device) (h : Head) (g : Seg) (codes : List Nat) : Token :=
  let strip := decide (g.lines ≤ g.j)
  { head := h, job := g.job, line := g.base + g.j, rep := g.rep
    fireAt := (List.range (d.banks.timing[h].rowsM1 + 1)).map (firePos d h g.start g.j)
    fired := 0, wave := waveOf d h strip (g.base + g.j), mapBank := d.links[h].mapBank
    dropBits := (dirOf (getBank d .thresh).active h.val).bits, blank := g.blank, strip := strip, codes := codes }

/-- A table of a head in the active waveform bank. -/
def activeWave (d : Device) (h : Head) (t : Nat) : WaveTable := readWave (memRead (getBank d .wave).active) h.val t

/-- A line is committed: its token is pending, its waveform table is selected and its LINE cell starts (R96, R116, R146). -/
def commitLine (h : Head) (g : Seg) (codes : List Nat) (d : Device) : Device :=
  let t := tokenOf d h g codes
  let c := lineCellOf d t
  let d := forgetLines h g.job (g.base + g.j) 1 d
  let d := modCursor d h (fun k => { k with segs := (segsOf d h).mapIdx (fun i x => if i = 0 then { x with j := x.j + 1, s := max x.s (x.j + 1) } else x) })
  let d := countHead { d with fire := { d.fire with tokens := d.fire.tokens ++ [t] } } h (fun k => { k with screened := k.screened + 1 })
  let d := modDrive d h (fun x => { x with rest := some (activeWave d h t.wave.toNat).rest })
  sendCell h (.line c) (modLink d h (fun l => if d.jobs.running.any (fun x => x.desc.key == g.job) then { l with lastLine := c.lineNo } else l))

/-- LINE_COMMIT (R96, R109): the line at a head's commit point is committed, or skipped under the lowest code of Table 4.5. -/
def execLineCommit (h : Head) (s : State) : Host.Outcome State Fault Refusal :=
  let d := pullSeg h s.dev
  match segsOf d h with
  | [] => next s s.dev
  | g :: _ =>
    if !commitDue d h g then next s s.dev
    else
      let line := g.base + g.j
      match commitSkip d h g with
      | some r => next s (skipFront h r 1 d)
      | none =>
        match d.engines[h].buf.find? (fun b => b.job == g.job && b.line == line) with
        | some b => next s (commitLine h g b.codes d)
        | none => next s d

/-! Fire -/

/-- The oldest token of a head whose row has not fired. -/
def tokenForRow (d : Device) (h : Head) (row : BitVec 2) : Option Token :=
  d.fire.tokens.find? (fun t => t.head == h && decide (row.toNat < t.fireAt.length) && !t.fired.getLsbD row.toNat)

/-- When a cycle ends, in quarter ns: a sample takes 20 ns (R142, R147). -/
def cycleEnd (c : WaveCycle) : Nat := c.start + 80 * c.samples.length

/-- The cycle that a head's pin plays now (R147). -/
def cycleNow (d : Device) (h : Head) : Option WaveCycle :=
  d.drive.heads[h].cycles.find? (fun c => decide (c.start ≤ d.chip.qtime ∧ d.chip.qtime < cycleEnd c))

/-- The fire instant falls too soon: within MIN_FIRE_PERIOD of the row's last one (R97), or for row 0 before the cycle on the pin has
ended (R147). -/
def tooSoon (d : Device) (h : Head) (row : BitVec 2) (at_ : Nat) : Bool :=
  let near := match (d.fire.prev[h]).getD row.toNat none with
    | some t => decide (at_ < t + 4 * d.banks.timing[h].minPeriod)
    | none => false
  near || (row == 0 && d.drive.heads[h].cycles.any (fun c => decide (at_ < cycleEnd c)))

/-- The fire marker of a row: the UI on which the prediction falls within its CLK_DP cycle of 1.25 ns (R117), which the travel beyond the fire
position gives (log entry 85). -/
def fireMark (d : Device) (h : Head) (row : BitVec 2) (t : Token) : Nat :=
  let ui := uiTime d.links[h]
  let past := (d.pos.hwpos.toNat : Int) + travelIn d d.banks.timing[h].fireAdvance - (t.fireAt.getD row.toNat 0 : Nat)
  let lag := if d.pos.speed.travel ≤ 0 then 124 else min 124 (past * (25 * d.pos.speed.time : Nat) / d.pos.speed.travel).toNat
  txNow d + (124 - lag) / ui * ui

/-- SLIP of a FIRE cell with a marker: the UI that it waits, 0 when it begins at once (R117, R269). -/
def slipOf (d : Device) (h : Head) (mark : Nat) : Nat :=
  let l := advanceTx h mark d.links[h]
  (fireWait h mark l + uiTime l - 1) / uiTime l

/-- The FIRE cell of a row (Table 5.4). -/
def fireCellOf (d : Device) (t : Token) (row : BitVec 2) (slip : U16) : FireCell :=
  let c : FireCell := { row := row, length := 24, lineNo := w32 t.line, epoch := d.red.epoch, jobId := jobIdOf t.job, slip := slip, crc := 0 }
  { c with crc := fireCrc t.head.val (unitB d) c }

/-- The pin's waveform cycle at a row's FIRE cell (R147, R150): row 0 starts one cycle WAVE_DELAY after the fire marker; a later row that is sent
while the pin plays a cycle of another table counts WAVE_MISMATCH. DESIGN CHOICE: a line committed before a swap of the waveform bank plays its
table of the bank active when it fires (log entry 84). -/
def playCycle (t : Token) (row : BitVec 2) (d : Device) : Device :=
  if row = 0 then
    let w := activeWave d t.head t.wave.toNat
    modDrive d t.head (fun x => { x with
      lastStart := some (d.chip.qtime + 4 * x.waveDelay)
      cycles := x.cycles.filter (fun c => decide (d.chip.qtime < cycleEnd c))
        ++ [⟨t.wave, d.chip.qtime + 4 * x.waveDelay, w.samples.map (fun v => scaled w.rest v d.banks.applied[t.head]), (w.qStart, w.qLen), w.check,
          x.lastStart⟩] })
  else if (cycleNow d t.head).any (fun c => c.table != t.wave) then
    modDrive d t.head (fun x => { x with waveMismatch := x.waveMismatch + 1 })
  else d

/-- Drops of the nozzles of a row that fire: each nozzle with a code other than 0 counts one (R17, R313). -/
def countDrops (t : Token) (row : BitVec 2) (m : IMem) : IMem :=
  t.codes.zipIdx.foldl (fun m e =>
    if e.1 ≠ 0 ∧ e.2 % t.fireAt.length = row.toNat then iSet m (6144 * t.head.val + e.2) (iGet m (6144 * t.head.val + e.2) + 1) else m) m

/-- A row's FIRE cell is sent; with the last row the token has fired (R95, R109, R110). DESIGN CHOICE: the previous fire instant of R97 is that of
a row for which a FIRE cell was sent (log entry 84). -/
def fireRow (t : Token) (row : BitVec 2) (d : Device) : Device :=
  let h := t.head
  let at_ := d.chip.qtime + 4 * d.banks.timing[h].fireAdvance
  let mark := fireMark d h row t
  let d := sendCellAt mark h (.fire (fireCellOf d t row (BitVec.ofNat 16 (slipOf d h mark)))) (playCycle t row d)
  let fired := t.fired ||| BitVec.ofNat 4 (2 ^ row.toNat)
  let all := (List.range t.fireAt.length).all (fun r => fired.getLsbD r)
  let d := { d with fire := { d.fire with
    prev := upd d.fire.prev h (fun v => upd v row.toFin (fun _ => some at_))
    drops := countDrops t row d.fire.drops
    tokens := if all then d.fire.tokens.erase t else d.fire.tokens.map (fun x => if x == t then { x with fired := fired } else x) } }
  if all then noteEnded t true (countHead d h (fun k => { k with scheduled := k.scheduled + 1, fired := k.fired + 1 })) else d

/-- A token ends skipped before its next FIRE cell (R109). -/
def dropToken (t : Token) (r : Skip) (d : Device) : Device :=
  skipToken r { d with fire := { d.fire with tokens := d.fire.tokens.erase t } } t

/-- Row r of a token comes before row r' of another among FIRE cells due together: by fire position, then row, then head (R117). -/
def firesBefore (t : Token) (r : Nat) (t' : Token) (r' : Nat) : Bool :=
  let p := t.fireAt.getD r 0
  let p' := t'.fireAt.getD r' 0
  decide (p < p') || (p == p' && (decide (r < r') || (r == r' && decide (t.head < t'.head))))

/-- The predicted fire instant of a row of a token has come (R95). -/
def rowDue (d : Device) (t : Token) (r : Nat) : Bool := reachedWith d d.banks.timing[t.head].fireAdvance (t.fireAt.getD r 0 : Nat)

/-- The FIRE cell of a row is the next among those that are due together (R117). -/
def firesNext (d : Device) (t : Token) (r : Nat) : Bool :=
  d.fire.tokens.all (fun x => (List.range x.fireAt.length).all (fun k =>
    x.fired.getLsbD k || !firesBefore x k t r || !rowDue d x k))

/-- FIRE_CELL_START (R95, R109): the predicted fire instant of a row comes due, and its turn among those due together (R117). A line whose LINE
cell has not been completely sent is not fired (R118). -/
def execFireCellStart (h : Head) (row : BitVec 2) (s : State) : Host.Outcome State Fault Refusal :=
  let d := s.dev
  match tokenForRow d h row with
  | none => next s d
  | some t =>
    if !posOn d || !rowDue d t row.toNat || !firesNext d t row.toNat then next s d
    else
      match lowerSkip (headSkip d h) (if t.barred then some .inhibit else none) with
      | some r => next s (dropToken t r d)
      | none =>
        if tooSoon d h row (d.chip.qtime + 4 * d.banks.timing[h].fireAdvance)
            || lineUnsent (jobIdOf t.job) (w32 t.line) (advanceTx h (txNow d) d.links[h]) then next s (dropToken t .overRate d)
        else next s (fireRow t row d)

/-- 250 µs without a LINE cell on the lane of a PRESENT head (R116): a NULL LINE cell. -/
def execNullLineKeepalive (h : Head) (s : State) : Host.Outcome State Fault Refusal :=
  let d := s.dev
  if d.links[h].state != .present then next s d
  else
    let c : LineCell := {
      wave := 0, isNull := true, mapBank := d.links[h].mapBank
      dropBitsM1 := BitVec.ofNat 2 ((dirOf (getBank d .thresh).active h.val).bits - 1)
      rowsM1 := BitVec.ofNat 2 d.banks.timing[h].rowsM1, length := 20, lineNo := d.links[h].lastLine, epoch := d.red.epoch
      jobId := runningId d, codes := [], crc := 0 }
    next s (sendCell h (.line { c with crc := lineCrc h.val (unitB d) c }) d)

end Sys2Proof.Machine
end

