-- ==== Sys2Proof/Machine/Staging.lean ====
section
/-! DEFINITION. Staging a job (R36 to R42, Tables 2.3 to 2.7, R81, R148, R217) and the job commands that act on this device alone. -/
namespace Sys2Proof.Machine

/-- How a check of job.stage or job.append ends early: a status, reason and detail, or poisoned data (R41). -/
inductive StageFail where
  | bad (st : Status) (r : Reason) (detail : Nat)
  | poison (a : Nat)

/-- A check fails. -/
def failWith (st : Status) (r : Reason) (detail : Nat := 0) : Except StageFail Unit := .error (.bad st r detail)

/-- A condition of a check. -/
def ensure (b : Bool) (st : Status) (r : Reason) : Except StageFail Unit := if b then .ok () else failWith st r

/-- A structure at an address lies in the job store and is aligned (chapter 2). -/
def need (d : Device) (a n align : Nat) : Except StageFail Unit := ensure (inStore d a n && a % align == 0) .badArgument .address

/-- Data read for a check; poisoned data ends it (R41). -/
def getData (d : Device) (a n : Nat) : Except StageFail (List U8) :=
  match poisonIn d a n with
  | some g => .error (.poison g)
  | none => .ok (dramRead d a n)

/-- A list of checks in order. -/
def allOk {α : Type} (f : α → Except StageFail Unit) : List α → Except StageFail Unit
  | [] => .ok ()
  | x :: xs => match f x with | .error e => .error e | .ok _ => allOk f xs

/-- Values read in order. -/
def collect {α β : Type} (f : α → Except StageFail β) : List α → Except StageFail (List β)
  | [] => .ok []
  | x :: xs =>
    match f x with
    | .error e => .error e
    | .ok y => match collect f xs with | .error e => .error e | .ok ys => .ok (y :: ys)

/-! What the checks read -/

/-- A tile list entry (Table 2.6). -/
structure TileEntry where
  x : Nat
  y : Nat
  width : Nat
  height : Nat
  plane : Nat
  mode : Nat
  block : Nat
  rsvOk : Bool

/-- A tile list entry from its 32 bytes. -/
def readTile (b : List U8) : TileEntry :=
  { x := leAt b 0 4, y := leAt b 4 4, width := leAt b 8 2, height := leAt b 10 2, plane := bitsOf (byteAt b 12) 0 3
    mode := bitsOf (byteAt b 13) 0 2, block := leAt b 16 8
    rsvOk := bitsOf (byteAt b 12) 3 5 == 0 && bitsOf (byteAt b 13) 2 6 == 0 && leAt b 14 2 == 0 && leAt b 24 8 == 0 }

/-- A block by its plane, address and header. -/
structure BlockRef where
  plane : Nat
  addr : Nat
  header : List U8

/-- A repeat as its checks read it. -/
structure RepeatInfo where
  desc : RepeatDesc
  blocks : List BlockRef
  tiles : List (TileEntry × List U8)
  idxOk : Bool

/-- A block's header; the whole block lies in the job store (chapter 2). -/
def readBlock (d : Device) (plane a : Nat) : Except StageFail BlockRef := do
  need d a 32 32
  let h ← getData d a 32
  if fkzHeaderOk h then need d a (fkzSize h) 32
  return ⟨plane, a, h⟩

/-- A plane's block index (Table 2.5): its reserved field, and its blocks. -/
def readIndex (d : Device) (k a : Nat) : Except StageFail (Bool × List BlockRef) := do
  need d a 8 1
  let h ← getData d a 8
  let n := leAt h 0 4
  need d a (8 + 8 * n) 1
  let ix ← getData d (a + 8) (8 * n)
  let bs ← collect (fun i => readBlock d k (leAt ix (8 * i) 8)) (List.range n)
  return (leAt h 4 4 == 0, bs)

/-- The ADDRESS row of Table 2.7 on repeat k of a job, and what it reads. -/
def readRepeatInfo (d : Device) (j : JobDesc) (k : Nat) : Except StageFail RepeatInfo := do
  let b ← getData d (j.repeatList + 96 * k) 96
  let r := readRepeat b
  if r.tableSet ≠ 0 then need d r.tableSet 128 64
  let planes := if r.blank then [] else List.range j.planes.length
  let ix ← collect (fun p => readIndex d p (r.planeIndex.getD p 0)) planes
  let n := min r.tileCount 256
  if n ≠ 0 then need d r.tileList (32 * n) 1
  let tl ← if n ≠ 0 then getData d r.tileList (32 * n) else pure []
  let tiles ← collect (fun i => do
    let t := readTile ((tl.drop (32 * i)).take 32)
    let blk ← readBlock d t.plane t.block
    return (t, blk.header)) (List.range n)
  return ⟨r, ix.flatMap (·.2), tiles, ix.all (·.1)⟩

/-! Table 2.7 -/

/-- The FIELD row on the job descriptor (Table 2.3). -/
def jobFieldsOk (j : JobDesc) : Bool :=
  j.rsvOk && decide (1 ≤ j.repeatCount ∧ j.repeatCount ≤ 1048576 ∧ 1 ≤ j.maxLineRate ∧ j.maxLineRate ≤ 120000)
    && j.planes.all (fun p => decide (1 ≤ p.headCount ∧ p.headCount ≤ 40))

/-- The FIELD row on a repeat, its block indexes and tiles (Tables 2.4 to 2.6); a tile of a plane that the job lacks breaks it. -/
def repeatFieldsOk (j : JobDesc) (r : RepeatInfo) : Bool :=
  r.desc.rsvOk && r.idxOk && decide (1 ≤ r.desc.lines ∧ r.desc.lines ≤ 16777215 ∧ 1000000 ≤ r.desc.pitch ∧ r.desc.tileCount ≤ 256)
    && r.tiles.all (fun t => t.1.rsvOk && decide (1 ≤ t.1.width ∧ 1 ≤ t.1.height ∧ t.1.mode ≠ 3 ∧ t.1.plane < j.planes.length))

/-- The HEADS row: every head of a plane exists, and no two planes share one. -/
def headsOk (d : Device) (j : JobDesc) : Bool :=
  j.planes.all (fun p => (List.range p.headCount).all (fun i => hasHead d (p.firstHead + i)))
    && (List.range j.planes.length).all (fun a => (List.range j.planes.length).all (fun b =>
      decide (a = b) ||
        (let p := j.planes.getD a ⟨0, 0, false, false, false, false⟩
         let q := j.planes.getD b ⟨0, 0, false, false, false, false⟩
         decide (p.firstHead + p.headCount ≤ q.firstHead ∨ q.firstHead + q.headCount ≤ p.firstHead))))

/-- The PITCH row (R33). -/
def pitchOk (d : Device) (r : RepeatInfo) : Bool := decide (r.desc.lines * 25400000 ≤ r.desc.pitch * d.pos.lpi)

/-- The STRIP check (R217). -/
def stripOk (d : Device) (r : RepeatInfo) : Bool :=
  !r.desc.checkStrip || decide (stripLines d * 25400000 + 2000000 * d.pos.lpi + r.desc.lines * 25400000 ≤ r.desc.pitch * d.pos.lpi)

/-- The INDEX row (Table 2.5): blocks of 65,536 bytes but the last, and the plane's length in all. -/
def indexOk (j : JobDesc) (cols : Nat → Nat) (r : RepeatInfo) : Bool :=
  r.desc.blank || (List.range j.planes.length).all (fun k =>
    let lens := (r.blocks.filter (fun b => b.plane == k)).map (fun b => fkzOrig b.header)
    lens.sum == contoneLines (planeAt j k) r.desc.lines * lineBytes (planeAt j k) (cols k) && lens.dropLast.all (· == 65536))

/-- The TILE row (R38). -/
def tileOk (j : JobDesc) (cols : Nat → Nat) (r : RepeatInfo) : Bool :=
  r.tiles.all (fun t =>
    let p := planeAt j t.1.plane
    decide (t.1.x + t.1.width ≤ lineSamples p (cols t.1.plane) ∧ t.1.y + t.1.height ≤ contoneLines p r.desc.lines)
      && fkzOrig t.2 == sampleBytes p (t.1.width * t.1.height))

/-- The BLOCK row (R224). -/
def blockOk (r : RepeatInfo) : Bool := r.blocks.all (fun b => fkzHeaderOk b.header) && r.tiles.all (fun t => fkzHeaderOk t.2)

/-- Original bytes of a tile. -/
def tileBytes (j : JobDesc) (t : TileEntry) : Nat := sampleBytes (planeAt j t.plane) (t.width * t.height)

/-- The contone supply of plane k in bytes per second, doubled (R36). -/
def planeSupply2 (j : JobDesc) (cols : Nat → Nat) (k : Nat) : Nat :=
  lineBytes (planeAt j k) (cols k) * j.maxLineRate * (if (planeAt j k).upsample2 then 1 else 2)

/-- The supply of a job's planes, and its fullest repeat, the first one of several, after those already known (R36, log entries 31 and 97). -/
def supplyOf (j : JobDesc) (cols : Nat → Nat) (known : Nat × Nat) (rs : List RepeatInfo) : JobSupply :=
  { planes := ((List.range j.planes.length).map (planeSupply2 j cols)).sum / 2
    most := rs.foldl (fun (m : Nat × Nat) r =>
      let n := (r.tiles.map (fun t => tileBytes j t.1)).sum
      if m.1 < n then (n, r.desc.pitch) else m) known }

/-- The contone supply of a job in bytes per second: with the tiles of its fullest repeat over the time of that repeat's length at MAX_LINE_RATE (R36). -/
def supplyRate (d : Device) (j : JobDesc) (p : JobSupply) : Nat :=
  p.planes + p.most.1 * j.maxLineRate * 25400000 / max 1 (p.most.2 * d.pos.lpi)

/-- The contone admission limit of a frequency point (Table 10.4, R256). -/
def admission (p : Fin 3) : Nat := if p = 0 then 20000000000 else if p = 1 then 13330000000 else 10000000000

/-- The TILE_AREA row (R40): at the first line of each tile, where the total can peak. DESIGN CHOICE: contone line numbers are compared as they
stand, with UPSAMPLE2 or without (log entry 74). -/
def tileAreaOk (j : JobDesc) (r : RepeatInfo) : Bool :=
  r.tiles.all (fun t => decide (((r.tiles.filter (fun u => decide (u.1.y ≤ t.1.y ∧ t.1.y < u.1.y + u.1.height))).map
    (fun u => tileBytes j u.1)).sum ≤ 1048576))

/-! Tables 3.6 and 6.4 on a table set (R81, R148) -/

/-- The FIELD row of Table 3.6 on the directory and error-diffusion entries of planed heads. -/
def setFieldsOk (d : Device) (s : TableSet) (planed : List Head) : Bool :=
  planed.all (fun h =>
    let e := dirAt d (s.addr .thresh) h
    (!bitOf s.present 3 || (e.rsvOk && decide (e.maskLog ≤ 8) && (e.mode != 1 || e.array % 32 == 0)
        && (List.range 16).all (fun q => decide (q < 2 ^ e.bits) || bitsOf e.levels (4 * q) 4 == 0)))
      && (!bitOf s.present 5 || (readEd (dramRead d (s.addr .ed + 16 * h.val) 16)).rsvOk))

/-- The ED_WEIGHTS row of Table 3.6. -/
def edWeightsOk (d : Device) (s : TableSet) (planed : List Head) : Bool :=
  planed.all (fun h =>
    let e := readEd (dramRead d (s.addr .ed + 16 * h.val) 16)
    decide (e.wR + e.wDB + e.wD + e.wDF ≤ 32768))

/-- The checks of Table 3.6 and then of Table 6.4 on the images of a table set. -/
def setChecks (d : Device) (j : JobDesc) (s : TableSet) (isRepeat : Bool) (bits : Head → Option Nat) : List ImageCheck :=
  let planed := planedHeads j
  let has := fun (t : Tbl) (l : List ImageCheck) => if bitOf s.present (tblFin t).val then l else []
  [badIf [] (if isRepeat then bitOf s.present 0 || bitOf s.present 1 || bitOf s.present 5 else s.present != 63) .setContent]
    ++ has .sub (subChecks d (s.addr .sub) s.subCount)
    ++ has .thresh (threshChecks d j.planes planed (s.addr .thresh) (s.len .thresh) bits)
    ++ has .ed [badIf (planed.map (fun h => (s.addr .ed + 16 * h.val, 16))) (!edWeightsOk d s planed) .edWeights]
    ++ [badIf [] (!setFieldsOk d s planed || (bitOf s.present 1 && !subFieldsOk d (s.addr .sub) s.subCount)) .field]
    ++ has .wave (waveChecks d planed (s.addr .wave) (s.crc .wave))

/-- The checks of R81 and R148 on one table set: ADDRESS, FIELD, then Table 3.6, then Table 6.4. `bits` gives the job's DROP_BITS of a
head for a repeat's set. -/
def checkSet (d : Device) (j : JobDesc) (addr : Nat) (isRepeat : Bool) (bits : Head → Option Nat) : Except StageFail Unit := do
  need d addr 128 64
  let b ← getData d addr 128
  let s := readSet b
  allOk (fun t => if t == .sub && decide (16384 < s.subCount) then .ok () else need d (s.addr t) (s.len t) 1) (namedTbls s)
  ensure s.rsvOk .badArgument .field
  match imageFault d (setChecks d j s isRepeat bits) with
  | some (.poison g) => .error (.poison g)
  | some (.fail st r) => failWith st r
  | none => .ok ()

/-! The checks together -/

/-- The head directory that gives a job's plane widths: the one in force for the running job, else that of its table set in DRAM; none
when the set gives none (R35, R60, log entry 17). Poisoned data ends the check that needs it (R41). -/
def jobDirectory (d : Device) (j : JobDesc) (isRunning : Bool) : Except StageFail (Option (Head → DirEntry)) :=
  if isRunning then .ok (some (fun h => dirOf (getBank d .thresh).active h.val))
  else if !inStore d j.tableSet 128 then .ok none
  else do
    let s := readSet (← getData d j.tableSet 128)
    if bitOf s.present 3 && inStore d (s.addr .thresh) 1280 then
      allOk (fun h => (getData d (s.addr .thresh + 32 * h.val) 32).map (fun _ => ())) (planedHeads j)
      return some (dirAt d (s.addr .thresh))
    else return none

/-- The checks of Table 2.7 in order, then those of the table sets (R41, R42, R81, R148), on repeats lo to hi − 1 of a job. `first` is
job.stage's own checks. DESIGN CHOICE: where there are several new table sets, each set's descriptor, Table 3.6 and Table 6.4 come before the next
set's (log entry 84). -/
def checkJob (d : Device) (j : JobDesc) (first isRunning : Bool) (lo hi : Nat) : Except StageFail Unit := do
  need d j.repeatList (96 * (if 1 ≤ j.repeatCount ∧ j.repeatCount ≤ 1048576 then j.repeatCount else hi)) 64
  if first then need d j.tableSet 128 64
  let rs ← collect (fun i => readRepeatInfo d j (lo + i)) (List.range (hi - lo))
  if first then ensure (jobFieldsOk j) .badArgument .field
  ensure (rs.all (repeatFieldsOk j)) .badArgument .field
  if first then ensure (headsOk d j) .badArgument .heads
  ensure (rs.all (pitchOk d)) .badArgument .pitch
  ensure (rs.all (stripOk d)) .badArgument .strip
  let dir ← jobDirectory d j isRunning
  match dir with
  | some f => do
    let cols := fun k => planeColumns d f (planeAt j k)
    ensure (rs.all (indexOk j cols)) .badLength .index
    ensure (rs.all (tileOk j cols)) .badLength .tile
    ensure (rs.all blockOk) .badArgument .block
    let supply := supplyRate d j (supplyOf j cols (0, 1) rs)
    if admission d.dram.point < supply then failWith .badArgument .overSupply (supply / 1000000)
  | none => ensure (rs.all blockOk) .badArgument .block
  ensure (rs.all (tileAreaOk j)) .badArgument .tileArea
  if first then ensure (!jobStaged d) .busyState .none
  if first then checkSet d j j.tableSet false (fun _ => none)
  allOk (fun r => if r.desc.tableSet = 0 then .ok ()
    else checkSet d j r.desc.tableSet true (fun h => dir.map (fun f => (f h).bits))) rs

/-- What a failed check answers. -/
def stageFailed (e : StageFail) (d : Device) : Done :=
  match e with
  | .bad st r n => no d st r n
  | .poison a => poisoned a d

/-! What the checks leave -/

/-- The supply of a job with its repeats lo to hi − 1 added to what is known of it (R36, R256). -/
def addSupply (d : Device) (j : JobDesc) (isRunning : Bool) (known : JobSupply) (lo hi : Nat) : JobSupply :=
  let rs := (List.range (hi - lo)).filterMap (fun i => (readRepeatInfo d j (lo + i)).toOption)
  match jobDirectory d j isRunning with
  | .ok (some f) => supplyOf j (fun k => planeColumns d f (planeAt j k)) known.most rs
  | _ => known

/-- The header of a block, where it lies in the job store. -/
def blockReads (d : Device) (a : Nat) : List (Nat × Nat) := if inStore d a 32 then [(a, 32)] else []

/-- A block index and the headers of its blocks, as far as they lie in the job store. -/
def indexReads (d : Device) (a : Nat) : List (Nat × Nat) :=
  let n := leAt (dramRead d a 4) 0 4
  if !inStore d a 8 then []
  else if !inStore d (a + 8) (8 * n) then [(a, 8)]
  else [(a, 8), (a + 8, 8 * n)] ++ (List.range n).flatMap (fun i => blockReads d (leAt (dramRead d (a + 8 + 8 * i) 8) 0 8))

/-- What the ADDRESS row of Table 2.7 reads of repeat k of a job. -/
def repeatReads (d : Device) (j : JobDesc) (k : Nat) : List (Nat × Nat) :=
  let r := readRepeat (dramRead d (j.repeatList + 96 * k) 96)
  let n := min r.tileCount 256
  let tiles := if inStore d r.tileList (32 * n) then
      (r.tileList, 32 * n) :: (List.range n).flatMap (fun i => blockReads d (readTile (dramRead d (r.tileList + 32 * i) 32)).block)
    else []
  (j.repeatList + 96 * k, 96) :: (if r.blank then [] else (List.range j.planes.length).flatMap (fun p => indexReads d (r.planeIndex.getD p 0))) ++ tiles

/-- What the checks of a table set read: its descriptor, and the images that Tables 3.6 and 6.4 have checks for. -/
def setReads (d : Device) (a : Nat) : List (Nat × Nat) :=
  if inStore d a 128 then
    let s := readSet (dramRead d a 128)
    (a, 128) :: ((namedTbls s).filter (fun t => t != .comb && t != .stitch && inStore d (s.addr t) (s.len t))).map (fun t => (s.addr t, s.len t))
  else []

/-- What the checks of repeats lo to hi − 1 of a job read of the job store (R41, R247). DESIGN CHOICE: a check that fails counts as having read
all of it (log entry 81). -/
def checkReads (d : Device) (j : JobDesc) (first isRunning : Bool) (lo hi : Nat) : List (Nat × Nat) :=
  let ks := (List.range (hi - lo)).map (lo + ·)
  let s := readSet (dramRead d j.tableSet 128)
  let dir := if isRunning || !inStore d j.tableSet 128 || !bitOf s.present 3 || !inStore d (s.addr .thresh) 1280 then []
    else (planedHeads j).map (fun h => (s.addr .thresh + 32 * h.val, 32))
  ks.flatMap (repeatReads d j) ++ dir ++ (if first then setReads d j.tableSet else [])
    ++ ks.flatMap (fun k =>
      let t := (readRepeat (dramRead d (j.repeatList + 96 * k) 96)).tableSet
      if t = 0 then [] else setReads d t)

/-- A job and its repeats have been checked (R247, R262). -/
def seeChecks (j : JobDesc) (first isRunning : Bool) (lo hi : Nat) (d : Device) : Device :=
  (checkReads d j first isRunning lo hi).foldl (fun d r => dramSee r.1 r.2 d) d

/-! Commands -/

/-- The loads of a staged job's table set asked for (R48, R53). -/
def stageLoads (j : JobDesc) (d : Device) : Device := queueLoads (loadsOf (readSet (dramRead d j.tableSet 128)) .job) d

/-- A note of a raised VALID_THROUGH behind the ranges written before it, for the mirror (R316). -/
def noteMirror (id : JobKey) (n : Nat) (d : Device) : Device :=
  if paired d && d.red.role == .active then
    modRed d (fun r => settleNotes { r with mirrorNotes := r.mirrorNotes ++ [(r.mirrorRing.length, id, n)] })
  else d

/-- job.stage (R41, R42, R86, Table 2.11). DESIGN CHOICE: a VALID_THROUGH above REPEAT_COUNT counts as REPEAT_COUNT (log entry 74). -/
def execJobStage (c : Cmd) (s : State) : Host.Outcome State Fault Refusal :=
  mervan { opcode := 0x0100, works := some 2, reads := true, slow := true, dram := true, stops := true, args := [.addr, .any, .num 20 1000]
           ranges := fun a => [(argN a 0, 64, true)] }
    (fun _ a d =>
      if d.pos.mismatch then no d .badArgument .lpi
      else if argN a 0 % 64 ≠ 0 then no d .badArgument .address
      else
        match getData d (argN a 0) 64 with
        | .error e => stageFailed e d
        | .ok b =>
          let j := readJob b
          let hi := min (argN a 1) j.repeatCount
          match checkJob d j true false 0 hi with
          | .error e => stageFailed e (seeChecks j true false 0 hi d)
          | .ok _ =>
            let j := { j with serial := d.jobs.serial + 1 }
            let x : Job := { addr := argN a 0, desc := j, state := .staged, validThrough := hi, feedWarn := argN a 2, released := 0
                             supply := addSupply d j false {} 0 hi }
            let e := { d with jobs := { d.jobs with serial := j.serial, staged := some x } }
            ok (noteReady d (noteMirror j.key hi (stageLoads j (seeChecks j true false 0 hi e))))) c s

/-- VALID_THROUGH of a job raised, with the supply that its repeats ask for. -/
def raiseValid (id : JobKey) (n : Nat) (p : JobSupply) (d : Device) : Device :=
  let up := fun (j : Job) => if j.desc.key == id then { j with validThrough := n, supply := p } else j
  { d with jobs := { d.jobs with running := d.jobs.running.map up, staged := d.jobs.staged.map up } }

/-- The held job with an ID, staged before running, and whether it runs. -/
def heldJob (d : Device) (id : U32) : Option (Job × Bool) :=
  match d.jobs.staged.filter (fun j => j.desc.jobId == id) with
  | some j => some (j, false)
  | none => (d.jobs.running.filter (fun j => j.desc.jobId == id && j.state == .running)).map (fun j => (j, true))

/-- job.append (R42, Table 2.11); a VALID_THROUGH that is not above the present one validates nothing. -/
def execJobAppend (c : Cmd) (s : State) : Host.Outcome State Fault Refusal :=
  mervan { opcode := 0x0102, slow := true, dram := true, stops := true, args := [.any, .any] }
    (fun _ a d =>
      match heldJob d (w32 (argN a 0)) with
      | none => no d .refused .noJob
      | some (j, isRunning) =>
        let hi := min (argN a 1) j.desc.repeatCount
        if hi ≤ j.validThrough then ok d
        else
          match checkJob d j.desc false isRunning j.validThrough hi with
          | .error e => stageFailed e (seeChecks j.desc false isRunning j.validThrough hi d)
          | .ok _ =>
            let p := addSupply d j.desc isRunning j.supply j.validThrough hi
            let e := seeChecks j.desc false isRunning j.validThrough hi d
            ok (noteReady d (noteMirror j.desc.key hi (raiseValid j.desc.key hi p e)))) c s

/-- Travel of 50 ms at the current speed, 0 while the web does not move forward (R52, Table 2.11). -/
def lead50 (d : Device) : Nat := (travelIn d 50000000).toNat

/-- job.stop (Table 2.11): the job ends at its next repeat boundary at least 50 ms of travel ahead, and the WPOS is returned; with a
change scheduled, at its next repeat boundary (Table 2.10). -/
def execJobStop (c : Cmd) (s : State) : Host.Outcome State Fault Refusal :=
  mervan { opcode := 0x0104, args := [.any], results := fun _ => 2 }
    (fun _ a d =>
      match d.jobs.running with
      | none => no d .refused .noJob
      | some j =>
        if j.state != .running || j.desc.jobId != w32 (argN a 0) then no d .refused .noJob
        else
          let w := roundUp d j.desc (if jobScheduled d then d.pos.hwpos.toNat + 1 else d.pos.hwpos.toNat + lead50 d)
          let at_ := match d.jobs.stopAt with | some x => min x.toNat w | none => w
          ok { d with jobs := { d.jobs with stopAt := some (BitVec.ofNat 64 at_) } } (w64 at_)) c s

/-- Number of a job state (Table 2.1); 4 for a slot without a job (log entry 32). -/
def jobStateNum : Option Job → Nat
  | none => 4
  | some j => match j.state with | .staged => 0 | .scheduled => 1 | .running => 2 | .ended => 3

/-- RELEASED_THROUGH (R43): none of a CYCLE job's repeats before it ends; then those from the first on that the feed has fetched and that no head needs
fetched once more. -/
def releasedThrough (d : Device) : Nat :=
  match d.jobs.running with
  | none => 0
  | some j =>
    if !j.desc.cycle then j.released
    else if j.state != .ended then 0
    else ((List.range (d.feed.outEnd - j.released)).map (fun i => (j.released + i) % max 1 j.desc.repeatCount)).foldl min
      (min j.released j.desc.repeatCount)

/-- job.status (Table 2.11). -/
def execJobStatus (c : Cmd) (s : State) : Host.Outcome State Fault Refusal :=
  mervan { opcode := 0x0105, results := fun _ => 7 }
    (fun _ _ d =>
      let id := fun (j : Option Job) => match j with | some x => x.desc.jobId | none => 0
      ok d [id d.jobs.running, id d.jobs.staged, w32 (jobStateNum d.jobs.running), w32 (jobStateNum d.jobs.staged), w32 d.jobs.rep,
            w32 (releasedThrough d), w32 (match d.jobs.change with | some x => x.postponements | none => 0)]) c s

end Sys2Proof.Machine
end

