-- ==== Sys2Proof/Machine/Loop.lean ====
section
/-! DEFINITION. The in-image colour loop (chapter 8): proxy, span, strip and correction records, accumulation, the solve of a loop band,
and the loop commands. -/
namespace Sys2Proof.Machine

/-! Who is who -/

/-- The measuring node (R351). -/
def measuringNode (d : Device) : Option U8 :=
  if d.mbx.measuring then some d.fabric.node else (d.fabric.holders[2]).map (·.node)

/-- Counters of a colour on the measuring node changed in every live set (R221). -/
def countLoop (k : Plane) (f : LoopCtr → LoopCtr) (d : Device) : Device :=
  countAll d (fun s => { s with node := upd s.node k f })

/-! Spans (R195, R200) -/

/-- The span record of an owned colour, from the running job's plane, the head directory and the head timing table (Table 8.4). -/
def mkSpan (k : Plane) (reset : Bool) (d : Device) : Option SpanRecord :=
  match d.jobs.running with
  | none => none
  | some j =>
    let pc := planeAt j.desc d.loop.colours[k].plane.val
    let hs := headsOf pc
    if j.state != .running || hs.isEmpty then none
    else
      let off := hs.foldl (fun m h => min m d.banks.timing[h].headOffset) (d.banks.timing[hs.headD 0].headOffset)
      some { colour := k, reset := reset, jobId := j.desc.jobId, minHeadOffset := BitVec.ofNat 64 off
             heads := hs.map (fun h =>
               let e := dirOf (getBank d .thresh).active h.val
               ⟨h, i32 (colLow e d.links[h].nozzles), i32 (colHigh e d.links[h].nozzles)⟩) }

/-- Bytes of a span record (Table 8.4). -/
def spanBytes (r : SpanRecord) : List U8 :=
  [2, BitVec.ofNat 8 (r.colour.val + 8 * b2n r.reset), BitVec.ofNat 8 r.heads.length, 0] ++ leBytes 4 r.jobId.toNat
    ++ leBytes 8 r.minHeadOffset.toNat
    ++ r.heads.flatMap (fun e => [BitVec.ofNat 8 e.head.val, 0, 0, 0] ++ leBytes 4 e.firstCol.toNat ++ leBytes 4 e.lastCol.toNat)

/-- The span record that bytes hold (Table 8.4); reserved bits are ignored (R11). -/
def readSpan (b : List U8) : SpanRecord :=
  { colour := finOf 8 (byteAt b 1 % 8), reset := bitOf (byteAt b 1) 3, jobId := w32 (leAt b 4 4), minHeadOffset := BitVec.ofNat 64 (leAt b 8 8)
    heads := (List.range (byteAt b 2)).map (fun j => ⟨finOf 40 (byteAt b (16 + 12 * j)), w32 (leAt b (20 + 12 * j) 4), w32 (leAt b (24 + 12 * j) 4)⟩) }

/-- Bytes that are a span record. -/
def isSpan (r : SpanRecord) (b : List U8) : Bool := byteAt b 0 == 2 && readSpan b == r

/-- The measuring node takes a span record: with RESET the colour's corrections, trims and targets become 0 (R200). -/
def takeSpan (r : SpanRecord) (d : Device) : Device :=
  modColour d r.colour (fun c =>
    let c := { c with span := some r }
    if r.reset then { c with c := [], trim := Vector.replicate 40 0, tau := Vector.replicate 40 0 } else c)

/-- A record of class 0 sent to the measuring node on MEASURE as a dictionary message (R199, R235); the model's trace keeps it. -/
def sendRecord (rec_ : List U8) (dest : U8) (d : Device) : Device :=
  let d := streamSend dest 0 rec_ none d
  { d with loop := { d.loop with sent := (dest, rec_) :: d.loop.sent } }

/-- The record of a row among those that have reached this node, with its sender: a record that its stream discarded is none of them (R239).
-/
def inboxHas (f : List U8 → Bool) (d : Device) : Option (U8 × List U8) := d.cz.inbox.find? (fun e => f e.2)

/-- A record taken by its row. -/
def takeInbox (e : U8 × List U8) (d : Device) : Device := { d with cz := { d.cz with inbox := d.cz.inbox.erase e } }

/-- Span records of the owned colours (R200). -/
def sendSpans (reset : Bool) (d : Device) : Device :=
  ((List.finRange 8).filter (ownsColour d)).foldl (fun d k =>
    match mkSpan k reset d with
    | none => d
    | some r =>
      if d.mbx.measuring then takeSpan r d
      else match measuringNode d with
        | some n => sendRecord (spanBytes r) n d
        | none => d) d

/-- SPAN_RECORD_RECEIVED (R200). -/
def execSpanRecordReceived (r : SpanRecord) (s : State) : Host.Outcome State Fault Refusal :=
  match inboxHas (isSpan r) s.dev with
  | some e => next s (if s.dev.mbx.measuring then takeSpan r (takeInbox e s.dev) else takeInbox e s.dev)
  | none => next s s.dev

/-- Loop bins of web columns lo to hi that lie at or above column 0 (R195). -/
def binsOf (lo hi : Int) : List Nat :=
  if hi < 0 then [] else (List.range ((hi / 4).toNat + 1)).filter (fun b => decide (lo ≤ 4 * b + 3))

/-- Web columns of a head entry of a span record. -/
def headCols (c : Colour) (e : SpanHead) : Int × Int := ((e.firstCol.toNat : Int) + c.colShift, (e.lastCol.toNat : Int) + c.colShift)

/-- A head's span covers a loop bin: one of the bin's web columns lies within it. -/
def spanCovers (c : Colour) (b : Nat) (e : SpanHead) : Bool :=
  let s := headCols c e
  decide (s.1 ≤ 4 * b + 3 ∧ (4 * b : Int) ≤ s.2)

/-- Heads whose spans cover a bin. -/
def coverHeads (c : Colour) (b : Nat) : List SpanHead := match c.span with | some r => r.heads.filter (spanCovers c b) | none => []

/-- A head's own bins (R200). -/
def ownBin (c : Colour) (h : SpanHead) (b : Nat) : Bool :=
  let s := headCols c h
  decide (s.1 ≤ 4 * b ∧ (4 * b + 3 : Int) ≤ s.2)
    && (match c.span with | some r => r.heads.all (fun e => e.head == h.head || !spanCovers c b e) | none => false)

/-- Lowest and highest web column of a colour's plane, when its span record is known. -/
def colourCols (c : Colour) : Option (Int × Int) :=
  match c.span with
  | none => none
  | some r =>
    match r.heads with
    | [] => none
    | e :: es => some (es.foldl (fun a x => (min a.1 (headCols c x).1, max a.2 (headCols c x).2)) (headCols c e))

/-! The appearance proxy (R198, R199, R201) -/

/-- Print lines per proxy line. -/
def proxyStep (d : Device) : Nat := max 1 (d.pos.lpi / 150)

/-- Proxy samples of print lines lo to lo + n − 1 of a repeat, as its plane printed them (R198). -/
def proxySamples (d : Device) (p : Plane) (r : PrintRun) (lo n : Nat) : List U8 :=
  let pc := r.pc
  let lines := (List.range n).map (fun i =>
    let m := if pc.upsample2 then (lo + i) / 2 else lo + i
    match (d.feed.rings[p].proxy).find? (fun e => e.1 == r.job && e.2.1 == r.rep && e.2.2.1 == m) with
    | some e => e.2.2.2
    | none => [])
  (List.range ((r.cols + 7) / 8)).map (fun i =>
    if r.blank then 0
    else
      let sum := (lines.map (fun l => ((List.range 8).map (fun c => byteAt l (if pc.across600 then (8 * i + c) / 2 else 8 * i + c))).sum)).sum
      BitVec.ofInt 8 (roundDiv sum (8 * n)))

/-- Bytes of a proxy record, padded to a multiple of 32 (Table 8.3). -/
def proxyBytes (r : ProxyRecord) : List U8 :=
  let b := [1, BitVec.ofNat 8 (r.colour.val + 8 * b2n r.trimLimited)] ++ leBytes 2 r.samples.length ++ leBytes 4 r.jobId.toNat
    ++ leBytes 4 r.cgen.toNat ++ [BitVec.ofNat 8 r.nlines.toNat, 0, 0, 0] ++ leBytes 8 r.pos.toNat ++ leBytes 8 r.firedMask.toNat
    ++ r.samples
  padTo ((b.length + 31) / 32 * 32) b

/-- Bytes that a proxy record takes of the proxy buffer (R201). -/
def proxySize (r : ProxyRecord) : Nat := (32 + r.samples.length + 31) / 32 * 32

/-- The newest records whose sizes fit the proxy buffer, given newest first. -/
def fitProxies : Nat → List ProxyRecord → List ProxyRecord
  | _, [] => []
  | room, r :: rs => if proxySize r ≤ room then r :: fitProxies (room - proxySize r) rs else []

/-- The measuring node stores a proxy record; a full buffer loses its oldest records (R201). CGEN is the newest the owner reported. -/
def takeProxy (r : ProxyRecord) (d : Device) : Device :=
  let d := modColour d r.colour (fun c => { c with reported := r.cgen })
  { d with loop := { d.loop with proxies := (fitProxies d.loop.proxy.2 (r :: d.loop.proxies.reverse)).reverse } }

/-- The proxy record that bytes hold (Table 8.3); reserved bits are ignored (R11). -/
def readProxy (b : List U8) : ProxyRecord :=
  { colour := finOf 8 (byteAt b 1 % 8), trimLimited := bitOf (byteAt b 1) 3, jobId := w32 (leAt b 4 4), cgen := w32 (leAt b 8 4)
    nlines := BitVec.ofNat 5 (byteAt b 12), pos := BitVec.ofNat 64 (leAt b 16 8), firedMask := BitVec.ofNat 40 (leAt b 24 8)
    samples := (b.drop 32).take (leAt b 2 2) }

/-- Bytes that are a proxy record. -/
def isProxy (r : ProxyRecord) (b : List U8) : Bool := byteAt b 0 == 1 && readProxy b == r

/-- PROXY_RECORD_RECEIVED (R201): a record that has reached this node; one discarded by its stream leaves its cells under NO_PROXY (R239). -/
def execProxyRecordReceived (r : ProxyRecord) (s : State) : Host.Outcome State Fault Refusal :=
  match inboxHas (isProxy r) s.dev with
  | some e => next s (if s.dev.mbx.measuring then takeProxy r (takeInbox e s.dev) else takeInbox e s.dev)
  | none => next s s.dev

/-- The line has ended, with what became of it. -/
def lineEnd (d : Device) (h : Head) (job : JobKey) (line : Nat) : Option Bool :=
  (d.fire.ended.find? (fun e => e.head == h && e.job == job && e.line == line)).map (·.fired)

/-- FIRED_MASK over print lines: a head's bit is 1 only when all of its tokens fired (R199). -/
def firedMask (d : Device) (hs : List Head) (job : JobKey) (lines : List Nat) : BitVec 40 :=
  BitVec.ofNat 40 ((hs.filter (fun h => lines.all (fun l => lineEnd d h job l == some true))).map (fun h => 2 ^ h.val)).sum

/-- Every token of some print lines has ended on every head. -/
def allEnded (d : Device) (hs : List Head) (job : JobKey) (lines : List Nat) : Bool :=
  hs.all (fun h => lines.all (fun l => (lineEnd d h job l).isSome))

/-- Ended tokens of some lines of some heads are no longer needed. -/
def dropEnded (hs : List Head) (job : JobKey) (lines : List Nat) (d : Device) : Device :=
  { d with fire := { d.fire with ended := d.fire.ended.filter (fun e => !(hs.contains e.head && e.job == job && lines.contains e.line)) } }

/-- An owned colour's plane in the job that the device runs or ran last. -/
def colourPlane (d : Device) (k : Plane) : PlaneCfg :=
  match d.jobs.running with
  | some j => planeAt j.desc d.loop.colours[k].plane.val
  | none => ⟨0, 0, false, false, false, false⟩

/-- The next proxy line of an owned colour, with the measuring node it goes to: its run and its first and last print line, once every token
that it covers has ended (R198). -/
def nextProxy (colour : Plane) (d : Device) : Option (PrintRun × Nat × Nat × U8) :=
  match ownsColour d colour, d.loop.owner[colour].runs.head?, measuringNode d with
  | true, some r, some n =>
    let lo := d.loop.owner[colour].proxyLine * proxyStep d
    let hi := min r.lines (lo + proxyStep d)
    if hi ≤ lo || !allEnded d (headsOf r.pc) r.job ((List.range (hi - lo)).map (· + (r.base + lo))) then none
    else some (r, lo, hi, n)
  | _, _, _ => none

/-- The proxy record of print lines lo to hi − 1 of a run (R199, Table 8.3). -/
def proxyOf (colour : Plane) (r : PrintRun) (lo hi : Nat) (d : Device) : ProxyRecord :=
  { colour := colour, trimLimited := r.limited, jobId := jobIdOf r.job, cgen := r.cgen
    nlines := BitVec.ofNat 5 (hi - lo), pos := BitVec.ofNat 64 (r.start + lineAt d lo)
    firedMask := firedMask d (headsOf r.pc) r.job ((List.range (hi - lo)).map (· + (r.base + lo)))
    samples := proxySamples d d.loop.colours[colour].plane r lo (hi - lo) }

/-- What a proxy line used is dropped, and the owner goes to the next one (R198). -/
def dropProxy (colour : Plane) (r : PrintRun) (lo hi : Nat) (d : Device) : Device :=
  let d := dropEnded (headsOf r.pc) r.job ((List.range (hi - lo)).map (· + (r.base + lo))) d
  let d := modRing d d.loop.colours[colour].plane (fun g => { g with
    proxy := g.proxy.filter (fun e => !(e.1 == r.job && e.2.1 == r.rep && decide ((if r.pc.upsample2 then 2 * e.2.2.1 + 2 else e.2.2.1 + 1) ≤ hi))) })
  modOwner d colour (fun o => if hi = r.lines then { o with runs := o.runs.tail, proxyLine := 0 } else { o with proxyLine := o.proxyLine + 1 })

/-- PROXY_RECORD_SEND (R198, R199): the next proxy line of a colour goes to the measuring node. -/
def execProxyRecordSend (colour : Plane) (s : State) : Host.Outcome State Fault Refusal :=
  match nextProxy colour s.dev with
  | some (r, lo, hi, n) =>
    let q := proxyOf colour r lo hi s.dev
    let d := dropProxy colour r lo hi s.dev
    next s (if d.mbx.measuring then takeProxy q d else sendRecord (proxyBytes q) n d)
  | none => next s s.dev

/-- A repeat or sheet that begins is followed by its colours' owner (R198, R218), with what is in force for its lines: the plane, the GEN of
the corrections and whether R151 limits a head's trim (R199). -/
def startRuns (j : JobDesc) (r : PrintRun) (d : Device) : Device :=
  ((List.finRange 8).filter (ownsColour d)).foldl (fun d k =>
    let pc := planeAt j d.loop.colours[k].plane.val
    let r := { r with
      pc := pc, cols := planeColumns d (fun h => dirOf (getBank d .thresh).active h.val) pc
      limited := (headsOf pc).any (fun h => d.banks.limitedAt[h]), cgen := d.loop.owner[k].gen }
    modOwner d k (fun o => { o with
      runs := if r.lines = 0 then o.runs else o.runs ++ [r]
      strips := if r.strips = 0 then o.strips else o.strips ++ [r] })) d

/-! Strips (R216 to R219) -/

/-- Bytes of a strip record (R218); its layout beyond KIND is log entry 35's. -/
def stripBytes (r : StripRecord) : List U8 :=
  [4, BitVec.ofNat 8 r.colour.val, BitVec.ofNat 8 r.checkPitch, BitVec.ofNat 8 r.checkRun] ++ leBytes 4 r.jobId.toNat ++ leBytes 4 r.rep.toNat
    ++ [0, 0, 0, 0] ++ leBytes 8 r.pos.toNat ++ leBytes 8 r.firedMask.toNat

/-- The strip record that bytes hold. -/
def readStrip (b : List U8) : StripRecord :=
  { colour := finOf 8 (byteAt b 1), jobId := w32 (leAt b 4 4), rep := w32 (leAt b 8 4), pos := BitVec.ofNat 64 (leAt b 16 8)
    checkPitch := byteAt b 2, checkRun := byteAt b 3, firedMask := BitVec.ofNat 40 (leAt b 24 8) }

/-- Bytes that are a strip record. -/
def isStrip (r : StripRecord) (b : List U8) : Bool := byteAt b 0 == 4 && readStrip b == r

/-- STRIP_RECORD_SEND (R218): the strip record after the strip's last token has ended; on the measuring node itself it is at hand at once. -/
def execStripRecordSend (colour : Plane) (s : State) : Host.Outcome State Fault Refusal :=
  let d := s.dev
  let o := d.loop.owner[colour]
  match ownsColour d colour, o.strips, measuringNode d with
  | true, r :: rest, some n =>
    let hs := headsOf r.pc
    let lines := (List.range r.strips).map (· + (r.base + r.lines))
    if !allEnded d hs r.job lines then next s d
    else
      let b := stripBytes {
        colour := colour, jobId := jobIdOf r.job, rep := w32 r.rep, pos := BitVec.ofNat 64 (r.start + lineAt d r.lines), checkPitch := d.loop.checkPitch
        checkRun := d.loop.checkRun, firedMask := firedMask d hs r.job lines }
      let d := modOwner (dropEnded hs r.job lines d) colour (fun o => { o with strips := rest })
      next s (if d.mbx.measuring then { d with cz := { d.cz with inbox := d.cz.inbox ++ [(n, b)] } } else sendRecord b n d)
  | _, _, _ => next s d

/-- The camera lines of run q of a strip on a port: those whose line positions lie in the run, less the first and the last (R218). -/
def runLines (d : Device) (r : StripRecord) (p : Port) (q : Nat) : List LumLine :=
  let lo := r.pos.toNat + lineAt d (q * r.checkRun)
  let hi := r.pos.toNat + lineAt d ((q + 1) * r.checkRun)
  ((d.loop.lum.filter (fun l => l.port == p && decide (lo ≤ l.pos ∧ l.pos < hi))).drop 1).dropLast

/-- The pixel of a port that covers a web column (R172). -/
def pixelAt (c : CamCfg) (web : Int) : Option Nat :=
  let off := if c.reversed then (c.column0 : Int) - web else web - c.column0
  let x := (off / (max 1 c.pixelStep : Nat)).toNat
  if 0 ≤ off ∧ x < c.width then some x else none

/-- Mean luminance of a pixel over lines; none of no lines. -/
def lumMean (x : Nat) (ls : List LumLine) : Option Rat :=
  if ls.isEmpty then none else some (((ls.map (fun l => (l.values.getD x 0 : Rat))).sum) / (ls.length : Int))

/-- A nozzle as the strip analysis sees it (R218): its head, number, port, pixel and run, and its darkness. -/
structure NozzleMark where
  head     : Head
  nozzle   : Nat
  port     : Port
  pixel    : Nat
  run      : Nat
  darkness : Rat
  deriving DecidableEq, Repr

/-- Darkness of a nozzle on a port (R218): the pixel's mean luminance in the other runs less that in its own. -/
def markOn (d : Device) (r : StripRecord) (e : SpanHead) (n : Nat) (web : Int) (p : Port) : Option NozzleMark :=
  let q := n % max 1 r.checkPitch
  let others := ((List.range r.checkPitch).filter (· != q)).flatMap (runLines d r p)
  match pixelAt (d.cams.ports[p]).cfg web with
  | none => none
  | some x => match lumMean x others, lumMean x (runLines d r p q) with
    | some a, some b => some ⟨e.head, n, p, x, q, a - b⟩
    | _, _ => none

/-- The nozzles of a head of a colour, on the first port of PORT_MASK that sees each. Whether a head's nozzles run towards lower columns is
an operand of the row: the span record does not tell (log entry 78). -/
def headMarks (d : Device) (r : StripRecord) (reversed : BitVec 40) (e : SpanHead) : List NozzleMark :=
  let s := headCols d.loop.colours[r.colour] e
  (List.range ((s.2 - s.1).toNat + 1)).filterMap (fun (n : Nat) =>
    let web := if reversed.getLsbD e.head.val then s.2 - n else s.1 + n
    ([0, 1, 2, 3].filter (fun (p : Port) => d.loop.portMask.getLsbD p.val)).findSome? (markOn d r e n web))

/-- Insertion into an ascending list. -/
def insertRat (v : Rat) : List Rat → List Rat
  | [] => [v]
  | a :: as => if v ≤ a then v :: a :: as else a :: insertRat v as

/-- Median: the middle value, or the mean of the two middle ones (log entry 78). -/
def medianOf (vs : List Rat) : Rat :=
  let s := vs.foldl (fun l v => insertRat v l) []
  (s.getD ((s.length - 1) / 2) 0 + s.getD (s.length / 2) 0) / 2

/-- The class of a nozzle against the median darkness of its head (R218). -/
def classOf (d : Device) (darkness median : Rat) : Option NozzleClass :=
  if 100 * darkness < d.loop.checkMissing * median then some .missing
  else if 100 * darkness < d.loop.checkWeak * median then some .weak
  else none

/-- The median darkness of the head of a mark. -/
def headMedian (ms : List NozzleMark) (h : Head) : Rat := medianOf ((ms.filter (fun m => m.head == h)).map (·.darkness))

/-- Two nozzles of the colour fall in one pixel in one run (R218). -/
def sharesPixel (a b : NozzleMark) : Bool :=
  a.port == b.port && a.pixel == b.pixel && a.run == b.run && !(a.head == b.head && a.nozzle == b.nozzle)

/-- The result of a nozzle: the class of its own mark or of one that shares its pixel, MISSING before WEAK (R218, R219). -/
def nozzleResult (d : Device) (r : StripRecord) (ms : List NozzleMark) (m : NozzleMark) : Option CheckResult :=
  let own := headMedian ms m.head
  let cls := (ms.filter (fun o => o == m || sharesPixel m o)).map (fun o => classOf d o.darkness (headMedian ms o.head))
  let worst : Option NozzleClass :=
    if cls.contains (some .missing) then some .missing else if cls.contains (some .weak) then some .weak else none
  worst.map (fun k =>
    { head := m.head, nozzle := m.nozzle, cls := k, shared := ms.any (sharesPixel m)
      share := if own = 0 then (Config.freeValue d.chip.drawn).toNat % 65536 else (m.darkness * 1000 / own).floor, rep := r.rep, job := r.jobId })

/-- A strip analysed (R218, R219): results of its MISSING and WEAK nozzles. A strip with a run line excluded under BAND or with no line of its
runs, or with a head whose FIRED_MASK is 0, is skipped and counted. -/
def analyseStrip (r : StripRecord) (reversed : BitVec 40) (d : Device) : Device :=
  let spans : List SpanHead := match d.loop.colours[r.colour].span with | some x => x.heads | none => []
  let barred := [0, 1, 2, 3].any (fun (p : Port) => d.loop.portMask.getLsbD p.val
    && (List.range r.checkPitch).any (fun q => (runLines d r p q).any (·.barred)))
  let ms := spans.flatMap (headMarks d r reversed)
  if barred || ms.isEmpty || spans.any (fun e => !r.firedMask.getLsbD e.head.val) then
    countLoop r.colour (fun c => { c with stripSkipped := c.stripSkipped + 1 }) d
  else
    let found := ms.filterMap (nozzleResult d r ms)
    let count := fun k => w32 (found.filter (fun x => x.cls == k)).length
    raise .nozzleCheck [w32 r.colour.val, count .missing, count .weak]
      { d with chip := { d.chip with drawn := d.chip.drawn + 1 }, loop := { d.loop with checks := d.loop.checks ++ found } }

/-- STRIP_ANALYSIS (R218, R219): the measuring node analyses a strip whose record has reached it. -/
def execStripAnalysis (r : StripRecord) (reversed : BitVec 40) (s : State) : Host.Outcome State Fault Refusal :=
  match (if domainOn s.dev 3 then inboxHas (isStrip r) s.dev else none) with
  | some e => next s (if s.dev.mbx.measuring then analyseStrip r reversed (takeInbox e s.dev) else takeInbox e s.dev)
  | none => next s s.dev

/-! Accumulation (R204 to R207) -/

/-- A measurement-class cell as the pipeline produces it. -/
structure Cell where
  port   : Port
  bin    : Nat
  pos    : Nat
  xyz    : List Int
  /-- the first condition of BAND, SAFFRON, CLIP in Table 8.6 that holds -/
  barred : Option (Fin 10)
  deriving DecidableEq, Repr

/-- A colour's plane covers a bin's web columns: the span of one of its heads does. -/
def colourCovers (c : Colour) (b : Nat) : Bool := !(coverHeads c b).isEmpty

/-- The proxy record of a colour that covers a line position. -/
def proxyFor (d : Device) (k : Plane) (pos : Nat) : Option ProxyRecord :=
  d.loop.proxies.find? (fun r => r.colour == k && decide (r.pos.toNat ≤ pos ∧ pos < r.pos.toNat + lineAt d r.nlines.toNat))

/-- CURVE of a model image (Table 8.5). -/
def curveOf (img : List U8) (k v : Nat) : Nat := leAt img (32 + (256 * k + v) * 2) 2

/-- What CGEN names: the correction of a bin and the trims of the heads; CGEN 0 is all-zero corrections (Table 8.3). -/
def historyOf (c : Colour) (g : U32) : Option (IMem × List Int) :=
  if g = 0 then some ([], List.replicate 40 0) else (c.history.find? (fun e => e.1 == g)).map (fun e => (e.2.1, e.2.2))

/-- What a colour that covers a cell brings to it (R204 steps 1 and 2): its proxy record's sample through CURVE, times m_k of the corrections
that CGEN names, clamped at 1. -/
def coverageOf (d : Device) (k : Plane) (x : Cell) (r : ProxyRecord) : Rat :=
  let c := d.loop.colours[k]
  let (cb, tr) := (historyOf c r.cgen).getD ([], [])
  let hs := coverHeads c x.bin
  let t : Rat := ((hs.map (fun h => tr.getD h.head.val 0)).sum : Int) / (hs.length : Int)
  let m : Rat := (1 + (iGet cb x.bin : Rat) / 262144) * (1 + mkRat c.ampSens 256 * t / 65536)
  let v := byteAt r.samples (((4 * x.bin : Int) - c.colShift) / 8).toNat
  let a : Rat := (curveOf (d.loop.model.getD []) k.val v : Int) * m / 65535
  if 1 < a then 1 else a

/-- The coverages of the colours that cover a cell. -/
def coverages (d : Device) (ks : List Plane) (x : Cell) : List (Plane × Rat) :=
  ks.filterMap (fun k => (proxyFor d k x.pos).map (fun r => (k, coverageOf d k x r)))

/-- The close sweep has not yet come to a bin (R207): it goes through the bins in ascending order and takes a free time of at most 250 µs
(log entries 9 and 78). -/
def unswept (d : Device) (b : Nat) : Bool :=
  match d.loop.sweep with
  | some (t, n) => decide ((d.chip.qtime - t) * d.loop.bins < (b + 1) * n)
  | none => false

/-- The first condition of Table 8.6 after CLIP that a cell meets, over the colours that cover it. -/
def cellExcluded (d : Device) (ks : List Plane) (x : Cell) : Option (Fin 10) :=
  let recs := ks.map (fun k => (k, proxyFor d k x.pos))
  let some_ := recs.filterMap (fun e => e.2.map (fun r => (e.1, r)))
  let col := fun (k : Plane) => d.loop.colours[k]
  if recs.any (fun e => e.2.isNone) then some 3
  else if some_.any (fun e => match (col e.1).span with | some s => s.jobId != e.2.jobId | none => true) then some 4
  else if some_.any (fun e => (coverHeads (col e.1) x.bin).any (fun h => !e.2.firedMask.getLsbD h.head.val)) then some 5
  else if some_.any (fun e => e.2.trimLimited) then some 6
  else if some_.any (fun e => (historyOf (col e.1) e.2.cgen).isNone) then some 7
  else if 4 < ((coverages d ks x).filter (fun e => e.2 != 0)).length then some 8
  else if unswept d x.bin then some 9
  else none

/-! The model engine (R203) -/

/-- The exact value of a finite binary32 word; an infinity or NaN reads as 2^128, beyond every limit. -/
def f32 (w : U32) : Rat :=
  let e := bitsOf w.toNat 23 8
  let m := bitsOf w.toNat 0 23
  let v : Nat := if e = 0 then m else (2 ^ 23 + m) * 2 ^ (e - 1)
  if e = 255 then 2 ^ 128 else mkRat (if bitOf w.toNat 31 then -(v : Int) else v) (2 ^ 149)

/-- The largest binary32 word, of those that are not negative, whose value passes a test that every smaller value passes too. -/
def floor32 (le : Rat → Bool) : U32 :=
  BitVec.ofNat 32 ((List.range 31).foldl (fun w i =>
    let v := w + 2 ^ (30 - i)
    if v < 0x7F800000 && le (f32 (BitVec.ofNat 32 v)) then v else w) 0)

/-- The binary32 word of a value: the word that holds it, else one of the two about it, which of them is free (log entries 9 and 78). -/
def round32 (of_ : List Nat) (q : Rat) : U32 :=
  let a : Rat := if q < 0 then -q else q
  let lo := floor32 (fun x => decide (x ≤ a))
  let w := if f32 lo = a || !Config.roundUp of_ q then lo else lo + 1
  if q < 0 then w ||| 0x80000000 else w

/-- The binary32 word of 1 ÷ √v (R208), in the same way. -/
def invSqrt32 (of_ : List Nat) (v : Rat) : U32 :=
  let lo := floor32 (fun x => decide (x * x * v ≤ 1))
  if f32 lo * f32 lo * v = 1 || !Config.roundUp of_ v then lo else lo + 1

/-- x to the power m ÷ 256 (R203): exact where the exponent is whole, else a binary32 value in the same way. -/
def power (x : Rat) (m : Nat) : Rat :=
  if m % 256 = 0 then x ^ (m / 256)
  else
    let lo := floor32 (fun y => decide (y ^ 256 ≤ x ^ m))
    f32 (if f32 lo ^ 256 = x ^ m || !Config.roundUp [m] x then lo else lo + 1)

/-- A colorant of nonzero coverage on the model's grid: its index, the interval i[k] that holds its coverage, f[k] and the interval's
width. -/
structure GridPos where
  k : Nat
  i : Nat
  f : Rat
  w : Rat

/-- NODES of a model image. -/
def gridNodes (img : List U8) : Nat := byteAt img 1 % 8

/-- Coverage of a node, 0 to 1. -/
def nodePos (img : List U8) (i : Nat) : Rat := mkRat (leAt img (4 + 2 * i) 2) 65535

/-- The interval of a coverage, the last one closed. -/
def gridPos (img : List U8) (k : Nat) (a : Rat) : GridPos :=
  let i := ((List.range (gridNodes img - 1)).filter (fun i => decide (nodePos img i ≤ a))).length - 1
  let w := nodePos img (i + 1) - nodePos img i
  ⟨k, i, (a - nodePos img i) / w, w⟩

/-- Component j of the node of an index (Table 8.5). -/
def nodeAt (img : List U8) (j i : Nat) : Rat := (leAt img (32 + 512 * (byteAt img 0 % 16) + 8 * i + 2 * j) 2 : Int)

/-- s[j] of R203: the sum over the corners that the nonzero colorants span, from a node index on. With `by_` a colorant, its factors are
those of dweight. -/
def cornerSum (img : List U8) (j : Nat) (by_ : Option Nat) : List GridPos → Nat → Rat
  | [], i => nodeAt img j i
  | g :: gs, i =>
    let lo := cornerSum img j by_ gs (i + g.i * gridNodes img ^ g.k)
    let hi := cornerSum img j by_ gs (i + (g.i + 1) * gridNodes img ^ g.k)
    if by_ = some g.k then hi - lo else (1 - g.f) * lo + g.f * hi

/-- Prediction of a cell from its coverages (R203): xyz[j] and jac[k][j] for each colour. -/
def predict (img : List U8) (as : List (Plane × Rat)) : List Rat × List (Plane × List Rat) :=
  let on := as.filter (fun e => e.2 != 0)
  let gs := on.map (fun e => gridPos img e.1.val e.2)
  let n := mkRat (leAt img 2 2) 256
  let s := [0, 1, 2].map (fun j => cornerSum img j none gs 0)
  let xyz := s.map (fun v => 65535 * power (v / 65535) (leAt img 2 2))
  let slope := (s.zip xyz).map (fun e => if e.1 = 0 then Config.slopeAtZero n else e.2 / e.1)
  (xyz, (on.zip gs).map (fun e => (e.1.1, [0, 1, 2].map (fun j =>
    e.1.2 * n * slope.getD j 0 * (cornerSum img j (some e.1.1.val) gs 0 / e.2.w)))))

/-- Place of N[k][l], k ≤ l, in the upper triangle row by row (Table 8.7). -/
def triIdx (k l : Nat) : Nat := 8 * k - k * (k - 1) / 2 + (l - k)

/-- An entry with no cell. -/
def BinAcc.empty (b : Nat) : BinAcc := ⟨b, Vector.replicate 36 0, Vector.replicate 8 0, 0⟩

/-- A cell's terms added to an entry (R204 step 4). -/
def addCell (d : Device) (as : List (Plane × Rat)) (x : Cell) (a : BinAcc) : BinAcc :=
  let (xyz, jac) := predict (d.loop.model.getD []) as
  let w : Rat := 1 / ((d.loop.noiseA : Int) + (d.loop.noiseB : Int) * xyz.getD 1 0 / 256)
  let at_ := fun (k j : Nat) => match jac.find? (fun e => e.1.val == k) with | some e => e.2.getD j 0 | none => 0
  let sum3 := fun (f : Nat → Rat) => f 0 + f 1 + f 2
  { a with
    n := Vector.ofFn (fun i => a.n[i] + ((List.range 8).flatMap (fun k => (List.range 8).map (fun l =>
      if k ≤ l ∧ triIdx k l = i.val then w * sum3 (fun j => at_ k j * at_ l j) else 0))).sum)
    y := Vector.ofFn (fun k => a.y[k] + w * sum3 (fun j => at_ k.val j * ((x.xyz.getD j 0 : Rat) - xyz.getD j 0)))
    cover := a.cover ||| BitVec.ofNat 4 (2 ^ x.port.val) }

/-- The entry of a bin changed in the accumulator. -/
def modBin (b : Nat) (f : BinAcc → BinAcc) : List BinAcc → List BinAcc
  | [] => [f (.empty b)]
  | a :: as => if b < a.bin then f (.empty b) :: a :: as else if b = a.bin then f a :: as else a :: modBin b f as

/-- The binary32 words of an entry, N and then Y (Table 8.7). -/
def entryWords (a : BinAcc) : List U32 :=
  (a.n.toList ++ a.y.toList).zipIdx.map (fun e => round32 [a.bin, e.2] e.1)

/-- A cell of a port in PORT_MASK enters the open loop band (R204), or is excluded under the first reason of Table 8.6, for the enabled
colours that cover it. -/
def accumulateCell (x : Cell) (d : Device) : Device :=
  let ks := (enabledColours d).filter (fun k => colourCovers d.loop.colours[k] x.bin)
  if !d.mbx.measuring || !d.loop.portMask.getLsbD x.port.val || ks.isEmpty || d.loop.bins ≤ x.bin then d
  else
    match x.barred.or (cellExcluded d ks x) with
    | some r => ks.foldl (fun d k => countLoop k (fun c => { c with excluded := upd c.excluded r (· + 1) }) d) d
    | none =>
      ks.foldl (fun d k => countLoop k (fun c => { c with used := c.used + 1 }) d)
        { d with loop := { d.loop with acc := modBin x.bin (addCell d (coverages d ks x) x) d.loop.acc } }

/-- Proxy records that the line position of every port in PORT_MASK has passed are discarded (R201). -/
def dropPassed (posOf : Port → Nat) (d : Device) : Device :=
  let low := ([0, 1, 2, 3].filter (fun (p : Port) => d.loop.portMask.getLsbD p.val)).map posOf
  match low with
  | [] => d
  | p :: ps =>
    let m := ps.foldl min p
    { d with loop := { d.loop with proxies := d.loop.proxies.filter (fun r => decide (m < r.pos.toNat + lineAt d r.nlines.toNat)) } }

/-! The solve (R208 to R213) -/

/-- Rounding to the nearest integer, halves away from zero (R210). -/
def roundRat (q : Rat) : Int := roundDiv q.num q.den

/-- Clamp of a rational. -/
def clampQ (lo hi v : Rat) : Rat := if v < lo then lo else if hi < v then hi else v

/-- What a loop band says of a colour in a bin (R208). -/
inductive BinEst where
  | frozen (r : Fin 6)
  | est (delta sigma : U32)
  deriving DecidableEq, Repr

/-- The word n[k][k] of a bin's entry (Table 8.7). -/
def diagWord (terms : List U32) (k : Nat) : U32 := terms.getD (triIdx k k) 0

/-- n[k][l] of a bin's entry. -/
def nAt (terms : List U32) (k l : Nat) : Rat := f32 (terms.getD (triIdx (min k l) (max k l)) 0)

/-- The solution of a system of n equations, given as rows of coefficients with their right-hand side last, by elimination. -/
def solveLin : Nat → List (List Rat) → List Rat
  | n + 1, (p :: r) :: rs =>
    let rest := rs.map (fun q => match q with | h :: t => (t.zip r).map (fun e => e.1 - h / p * e.2) | [] => [])
    let xs := solveLin n rest
    ((r.getLastD 0 - ((r.zip xs).map (fun e => e.1 * e.2)).sum) / p) :: xs
  | _, _ => []

/-- inv(n[set][set]) × v. -/
def solveSet (terms : List U32) (set : List Nat) (v : Nat → Rat) : List Rat :=
  solveLin set.length (set.map (fun i => set.map (nAt terms i) ++ [v i]))

/-- What a result of R208 is computed of. -/
def operands (terms : List U32) (set : List Nat) (k : Nat) : List Nat := terms.map (·.toNat) ++ set ++ [k]

/-- d of R208, the Schur complement of a colour on the observable set, as a binary32 word. -/
def schurOf (terms : List U32) (set : List Nat) (k : Nat) : U32 :=
  let x := solveSet terms set (fun i => nAt terms i k)
  round32 (operands terms set k) (nAt terms k k - ((set.zip x).map (fun e => nAt terms k e.1 * e.2)).sum)

/-- n[k][k] is zero. -/
def diagZero (terms : List U32) (k : Nat) : Bool := (diagWord terms k).toNat % 2 ^ 31 == 0

/-- Insertion by n[k][k], largest first; sums of squares are not negative, so their binary32 words order them. -/
def insertColour (terms : List U32) (k : Plane) : List Plane → List Plane
  | [] => [k]
  | l :: ls =>
    let a := (diagWord terms k.val).toNat % 2 ^ 31
    let b := (diagWord terms l.val).toNat % 2 ^ 31
    if b < a || (a == b && Config.tieFirst k.val l.val) then k :: l :: ls else l :: insertColour terms k ls

/-- R208's pass over the colours in order: the observable set with the d of each colour, and the freezes. -/
def observable (d : Device) (n : List U32) : List Plane → List (Nat × U32) → List (Plane × Fin 6) → List (Nat × U32) × List (Plane × Fin 6)
  | [], set, fr => (set, fr)
  | k :: ks, set, fr =>
    let w := schurOf n (set.map (·.1)) k.val
    let s := mkRat d.loop.sigmaMax 10000
    if diagZero n k.val then observable d n ks set (fr ++ [(k, 0)])
    else if f32 w < mkRat d.loop.obsRatio 100 * nAt n k.val k.val then observable d n ks set (fr ++ [(k, 1)])
    else if f32 w * s * s < 1 then observable d n ks set (fr ++ [(k, 2)])
    else observable d n ks (set ++ [(k.val, w)]) fr

/-- The estimate of an observable colour (R208): δ of the solution on the set, and σ = 1 ÷ √d; one beyond ±50 % is frozen. -/
def estimateOf (terms : List U32) (set : List (Nat × U32)) (k : Plane) (w : U32) : BinEst :=
  let ks := set.map (·.1)
  let x := solveSet terms ks (fun i => f32 (terms.getD (36 + i) 0))
  let delta := round32 (operands terms ks (8 + k.val)) (x.getD ((ks.findIdx? (· == k.val)).getD 0) 0)
  if f32 delta < -1 / 2 || 1 / 2 < f32 delta then .frozen 3 else .est delta (invSqrt32 (operands terms ks k.val) (f32 w))

/-- The estimates of a bin for the enabled colours (R206, R208, R212): DEAD_TIME freezes a colour everywhere, PORT_REJECT every colour of
the bin, then R208 decides (precedence: log entry 36). -/
def solveBin (d : Device) (sb : SolveBand) (ks : List Plane) (b : Nat) : List (Plane × BinEst) :=
  let acc := (sb.bins.find? (fun a => a.bin == b)).getD (.empty b)
  let terms := entryWords acc
  let (set, fr) := observable d terms (ks.foldl (fun l k => insertColour terms k l) []) [] []
  ks.map (fun k =>
    (k, if sb.held.getLsbD k.val then .frozen 5
        else if sb.reject &&& acc.cover ≠ 0 then .frozen 4
        else match fr.find? (fun e => e.1 == k), set.find? (fun e => e.1 == k.val) with
          | some e, _ => .frozen e.2
          | none, some e => estimateOf terms set k e.2
          | none, none => .frozen 0))

/-- The estimates of one colour by bin. -/
abbrev Ests := List (Nat × BinEst)

/-- AMP_SENS as a fraction. -/
def ampOf (c : Colour) : Rat := mkRat c.ampSens 256

/-- The weighted mean of δ over a head's observable own bins, when at least 25 % of them are observable (R210). -/
def headMean (c : Colour) (es : Ests) (h : SpanHead) : Option Rat :=
  let own := es.filter (fun e => ownBin c h e.1)
  let obs := own.filterMap (fun e => match e.2 with | .est x s => some (f32 x, f32 s) | .frozen _ => none)
  if own.isEmpty || obs.isEmpty || decide (4 * obs.length < own.length) then none
  else
    let w := fun (e : Rat × Rat) => 1 / (e.2 * e.2)
    some ((obs.map (fun e => w e * e.1)).sum / (obs.map w).sum)

/-- The trim of one head (R210). -/
def trimHeadLoop (k : Plane) (es : Ests) (d : Device) (h : SpanHead) : Device :=
  let c := d.loop.colours[k]
  match headMean c es h with
  | none => d
  | some db =>
    let tau := c.tau[h.head]
    let eps : Rat := (1 + db) * (1 + ampOf c * tau) - 1
    let want : Rat := (1 / (1 + db) - 1) / ampOf c
    let beyond : Bool := decide (mkRat 8 100 < eps) || decide (eps < mkRat (-8) 100)
    let tau' : Rat := if beyond then clampQ (-(1 / 4)) (1 / 4) want else tau
    let d := if beyond && tau' != want then countLoop k (fun x => { x with trimClamp := x.trimClamp + 1 }) d else d
    let d := if beyond then
        raise .loopEscalate [w32 k.val, w32 h.head.val, i32 (roundRat (eps * 65536)), i32 (roundRat (tau' * 65536))] d
      else d
    modColour d k (fun c => { c with
      tau := upd c.tau h.head (fun _ => tau')
      trim := upd c.trim h.head (fun t => t + roundRat (mkRat d.loop.gain 1000 * (65536 * tau' - t))) })

/-- The update of one bin of a colour (R211). -/
def updateBin (k : Plane) (d : Device) (e : Nat × BinEst) : Device :=
  let c := d.loop.colours[k]
  match e.2 with
  | .frozen r => countLoop k (fun x => { x with frozen := upd x.frozen r (· + 1) }) d
  | .est w _ =>
    let hs := coverHeads c e.1
    let t : Rat := if hs.isEmpty then 0 else (hs.map (fun h => c.tau[h.head])).sum / (hs.length : Int)
    let raw := roundRat (262144 * (1 / ((1 + f32 w) * (1 + ampOf c * t)) - 1))
    let cs := clampI (-32768) 32767 raw
    let d := if cs ≠ raw then countLoop k (fun x => { x with corrClamp := x.corrClamp + 1 }) d else d
    modColour (countLoop k (fun x => { x with updated := x.updated + 1 }) d) k (fun c => { c with
      c := iSet c.c e.1 (iGet c.c e.1 + roundRat (mkRat d.loop.gain 1000 * (cs - iGet c.c e.1))) })

/-- The GEN after another: 1 to 2^32 − 1, wrapping past 0 (Table 8.9). -/
def nextGen (g : U32) : U32 := if g + 1 = 0 then 1 else g + 1

/-- The correction record of a colour (R213, Table 8.9). -/
def mkCorr (d : Device) (k : Plane) (band : U32) : CorrRecord :=
  let c := d.loop.colours[k]
  let bins := match colourCols c with | some (lo, hi) => (binsOf lo hi).filter (fun b => decide (b < d.loop.bins)) | none => []
  { colour := k, gen := c.gen, band := band, jobId := match c.span with | some r => r.jobId | none => 0
    firstBin := w32 (bins.headD 0)
    trims := match c.span with | some r => r.heads.map (fun h => (h.head, c.trim[h.head])) | none => []
    bins := bins.map (iGet c.c) }

/-- Bytes of a correction record (Table 8.9). -/
def corrBytes (r : CorrRecord) : List U8 :=
  [3, BitVec.ofNat 8 r.colour.val, BitVec.ofNat 8 r.trims.length, 0] ++ leBytes 4 r.gen.toNat ++ leBytes 4 r.band.toNat
    ++ leBytes 4 r.jobId.toNat ++ leBytes 4 r.firstBin.toNat ++ leBytes 4 r.bins.length
    ++ r.trims.flatMap (fun t => [BitVec.ofNat 8 t.1.val, 0] ++ leBytes 2 (BitVec.ofInt 16 t.2).toNat)
    ++ r.bins.flatMap (fun c => leBytes 2 (BitVec.ofInt 16 c).toNat)

/-- The owning device receives a whole correction record: one of another job is discarded and counted (R214). -/
def takeCorrection (r : CorrRecord) (d : Device) : Device :=
  if r.jobId = runningId d ∧ jobRunning d then modOwner d r.colour (fun o => { o with rx := (r, d.chip.qtime) :: o.rx })
  else countAll d (fun s => { s with discarded := upd s.discarded r.colour (· + 1) })

/-- CORRECTION_RECORD_RECEIVED (R214). -/
def execCorrectionRecordReceived (r : CorrRecord) (s : State) : Host.Outcome State Fault Refusal := next s (takeCorrection r s.dev)

/-- A correction record sent to the owner in fragments of 2,044 record bytes (R213, R305). -/
def sendCorr (k : Plane) (r : CorrRecord) (d : Device) : Device :=
  let dest := BitVec.ofNat 8 d.loop.colours[k].node
  let b := corrBytes r
  let n := (b.length + 2043) / 2044
  if dest = d.fabric.node then takeCorrection r d
  else
    let d := (List.range n).foldl (fun d i =>
      (sendTo .measure false dest 0x0061 ([BitVec.ofNat 8 i, BitVec.ofNat 8 n, 0, 0] ++ (b.drop (2044 * i)).take 2044) d).2) d
    { d with loop := { d.loop with sent := (dest, b) :: d.loop.sent } }

/-- The generation of a colour as the correction history of WORK_BASE holds it: c, then LOOP_TRIM, in the 48 KiB of its GEN modulo 128 (R213;
the places: log entry 78). -/
def storeHistory (k : Plane) (d : Device) : Device :=
  let c := d.loop.colours[k]
  if d.dram.ok then
    dramWrite 5 (d.loop.workBase + 49152 * (128 * k.val + c.gen.toNat % 128))
      ((List.range 23622).flatMap (fun b => leBytes 2 (BitVec.ofInt 16 (iGet c.c b)).toNat)
        ++ c.trim.toList.flatMap (fun t => leBytes 2 (BitVec.ofInt 16 t).toNat)) d
  else d

/-- One colour's part of a solved loop band: trims first, then bins, GEN, history and the record (R210 to R213). -/
def solveColour (band : U32) (k : Plane) (es : Ests) (d : Device) : Device :=
  let hs := match d.loop.colours[k].span with | some r => r.heads | none => []
  let d := hs.foldl (trimHeadLoop k es) d
  let d := es.foldl (updateBin k) d
  let d := modColour d k (fun c =>
    let g := nextGen c.gen
    { c with
      gen := g, history := ((g, c.c, c.trim.toList) :: c.history).take 128
      estimates := es.foldl (fun m e => match e.2 with | .est x _ => iSet m e.1 x.toNat | .frozen _ => m) []
      sigmas := es.foldl (fun m e => match e.2 with | .est _ x => iSet m e.1 x.toNat | .frozen _ => m) []
      freezes := es.foldl (fun m e => match e.2 with | .frozen r => iSet m e.1 (r.val + 1) | .est _ _ => m) [] })
  sendCorr k (mkCorr d k band) (storeHistory k d)

/-- The swept entries and cover masks as the solve queue of WORK_BASE holds them, in the half that the count of sweeps names (R207; the
places: log entry 78). -/
def storeSweep (d : Device) : Device :=
  let entry := fun (b : Nat) => (d.loop.acc.find? (fun a => a.bin == b)).getD (.empty b)
  if d.dram.ok then
    dramWrite 5 (d.loop.workBase + 50331648 + 4194304 * (d.loop.sweeps % 2))
      ((List.range d.loop.bins).flatMap (fun b => (entryWords (entry b)).flatMap (fun w => leBytes 4 w.toNat))
        ++ (List.range d.loop.bins).map (fun b => (entry b).cover.setWidth 8)) d
  else d

/-- The older waiting loop band is dropped (R209): every bin is frozen under NO_DATA, and its records go out all the same (R213). -/
def dropBand (d : Device) : Device :=
  match d.loop.queue with
  | [] => d
  | q :: rest =>
    (enabledColours d).foldl (fun d k =>
      solveColour q.band k ((List.range d.loop.bins).map (fun b => (b, .frozen 0)))
        (countLoop k (fun c => { c with solveOverrun := c.solveOverrun + 1 }) d))
      { d with loop := { d.loop with queue := rest } }

/-- A loop band closes: the accumulator is swept into the solve queue of two, and a third band drops the older one that waits (R207,
R209). -/
def closeLoopBand (band : U32) (d : Device) : Device :=
  if !d.mbx.measuring then d
  else
    let held := d.loop.slow ||| BitVec.ofNat 8 (((List.finRange 8).filter (fun k => d.loop.colours[k].held)).map (fun k => 2 ^ k.val)).sum
    let q : SolveBand := ⟨band, d.loop.acc, d.loop.rejects, held⟩
    let used := !(enabledColours d).isEmpty
    let d := if used && decide (2 ≤ d.loop.queue.length) then dropBand d else d
    let d := if used then storeSweep d else d
    let (v, d) := draw d
    { d with loop := { d.loop with
        queue := if used then d.loop.queue ++ [q] else d.loop.queue, acc := [], rejects := 0, slow := 0
        sweep := some (d.chip.qtime, 1 + v.toNat % 1000000), sweeps := d.loop.sweeps + 1 } }

/-- LOOP_SOLVE_DONE (R208 to R213): the oldest waiting loop band is solved. -/
def execLoopSolveDone (s : State) : Host.Outcome State Fault Refusal :=
  let on := domainOn s.dev 3
  let d := if on then holdLoop s.dev else s.dev
  match (if on then d.loop.queue else []) with
  | [] => next s d
  | q :: rest =>
    let ks := enabledColours d
    let now := BitVec.ofNat 8 ((ks.filter (fun k => d.loop.colours[k].held)).map (fun k => 2 ^ k.val)).sum
    let sb := { q with held := q.held ||| now }
    let all := (List.range d.loop.bins).map (fun b => (b, solveBin d sb ks b))
    let d := { d with loop := { d.loop with queue := rest } }
    next s (ks.foldl (fun d k =>
      solveColour q.band k (all.filterMap (fun e => (e.2.find? (fun x => x.1 == k)).map (fun x => (e.1, x.2)))) d) d)

/-! The owner's side at a boundary (R214) -/

/-- Correction of nozzle bin j of a head: the mean over its four nozzles' loop bins, rounded (R214). -/
def nozzleBin (d : Device) (k : Plane) (r : CorrRecord) (h : Head) (j : Nat) : Int :=
  let e := dirOf (getBank d .thresh).active h.val
  let at_ := fun (n : Nat) =>
    let web := columnOf e n + d.loop.colours[k].colShift
    let b := web / 4 - r.firstBin.toNat
    if web < 0 ∨ b < 0 then 0 else r.bins.getD b.toNat 0
  roundDiv (((List.range 4).map (fun i => at_ (4 * j + i))).sum) 4

/-- A correction record fills the loop correction bank and the heads' LOOP_TRIM (R214). -/
def fillLoop (k : Plane) (r : CorrRecord) (d : Device) : Device :=
  (headsOf (colourPlane d k)).foldl (fun d h =>
    let vals := (List.range (d.links[h].nozzles / 4)).map (nozzleBin d k r h)
    { d with banks := { d.banks with
        loop := iWrite d.banks.loop (1536 * h.val) vals
        loopTrim := match r.trims.find? (fun t => t.1 == h) with
          | some t => upd d.banks.loopTrim h (fun _ => t.2)
          | none => d.banks.loopTrim } }) d

/-- A colour's corrections at a repeat boundary (R214): the newest record of the running job whose last byte came at least 100 µs before it is
applied; records of another job are discarded. -/
def applyColour (k : Plane) (d : Device) : Device :=
  let own := d.loop.owner[k].rx.filter (fun e => e.1.jobId == runningId d)
  let others := d.loop.owner[k].rx.length - own.length
  let d := countAll d (fun s => { s with discarded := upd s.discarded k (· + BitVec.ofNat 64 others) })
  match own.find? (fun e => decide (e.2 + 400000 ≤ d.chip.qtime)) with
  | some e =>
    let later := own.filter (fun x => decide (d.chip.qtime < x.2 + 400000))
    let d := modOwner (fillLoop k e.1 d) k (fun o => { o with rx := later, gen := e.1.gen })
    countAll d (fun s => { s with applied := upd s.applied k (· + 1) })
  | none => modOwner d k (fun o => { o with rx := own })

/-- Corrections applied at a repeat boundary. -/
def applyCorrections (d : Device) : Device :=
  (List.finRange 8).foldl (fun d k => if d.loop.owner[k].rx.isEmpty then d else applyColour k d) d

/-! Commands (Table 8.11) -/

/-- loop.config. -/
def execLoopConfig (c : Cmd) (s : State) : Host.Outcome State Fault Refusal :=
  mervan { opcode := 0x0500, dram := true
           args := [.num 1 23622, .num 1 15, .num 1 300, .num 1 500, .num 1 100, .num 1 65535, .num 0 65535, .num 100 2000,
                    .wide 0 (2 ^ 64 - 4096) 4096, .mul 0 (2 ^ 32 - 4096) 4096, .wide 0 (2 ^ 64 - 4096) 4096]
           ranges := fun a => [(argN a 8, argN a 9, false), (argN a 10, 58720256, false)] }
    (fun _ a d =>
      if !(enabledColours d).isEmpty then no d .busyState
      else done { d with loop := { d.loop with
        bins := argN a 0, portMask := BitVec.ofNat 4 (argN a 1), gain := argN a 2, sigmaMax := argN a 3, obsRatio := argN a 4
        noiseA := argN a 5, noiseB := argN a 6, deadMax := argN a 7, proxy := (argN a 8, argN a 9), workBase := argN a 10 } }) c s

/-- loop.colour. -/
def execLoopColour (c : Cmd) (s : State) : Host.Outcome State Fault Refusal :=
  mervan { opcode := 0x0501, stops := true, args := [.colour, .num 1 254, .colour, .mul (-2147483648) 2147483647 4, .num 16 1024] }
    (fun _ a d =>
      let k : Plane := finOf 8 (argN a 0)
      if d.loop.colours[k].enabled then no d .busyState
      else done (modColour d k (fun x => { x with
        declared := true, node := argN a 1, plane := finOf 8 (argN a 2), colShift := argI a 3, ampSens := argN a 4 }))) c s

/-- The fields of a colorant model image are in range, and every declared colour is a colorant of it (R202, Table 8.5). -/
def modelOk (d : Device) (img : List U8) : Bool :=
  let cn := bitsOf (byteAt img 0) 0 4
  let nn := bitsOf (byteAt img 1) 0 3
  let pos := (List.range 5).map (fun i => leAt img (4 + 2 * i) 2)
  decide (1 ≤ cn ∧ cn ≤ 8 ∧ 2 ≤ nn ∧ nn ≤ 5) && bitsOf (byteAt img 0) 4 4 == 0 && bitsOf (byteAt img 1) 3 5 == 0
    && decide (256 ≤ leAt img 2 2 ∧ leAt img 2 2 ≤ 2560)
    && pos.getD 0 1 == 0 && pos.getD (nn - 1) 0 == 65535
    && (List.range (nn - 1)).all (fun i => decide (pos.getD i 0 < pos.getD (i + 1) 0)) && (pos.drop nn).all (· == 0)
    && leAt img 14 18 == 0 && img.length == 32 + 512 * cn + 8 * nn ^ cn
    && (List.range (nn ^ cn)).all (fun i => leAt img (32 + 512 * cn + 8 * i + 6) 2 == 0)
    && (List.finRange 8).all (fun k => !d.loop.colours[k].declared || decide (k.val < cn))

/-- The colorant model swap (R202, Table 2.9). -/
def swapModel (d : Device) : Device :=
  match d.loop.modelNew with
  | some m => { d with loop := { d.loop with model := some m, modelNew := none } }
  | none => d

/-- model.load (R202). -/
def execModelLoad (c : Cmd) (s : State) : Host.Outcome State Fault Refusal :=
  mervan { opcode := 0x0502, reads := true, dram := true, args := [.addr, .any, .any], ranges := fun a => [(argN a 0, argN a 1, false)] }
    (fun _ a d =>
      let img := dramRead d (argN a 0) (argN a 1)
      match poisonIn d (argN a 0) (argN a 1) with
      | some g => poisoned g d
      | none =>
        if d.loop.modelNew.isSome then no d .busyState
        else if !modelOk d img then no d .badArgument .field
        else if (crc32c img).toNat ≠ argN a 2 then no d .badCrc
        else
          let d := { d with loop := { d.loop with modelNew := some img } }
          done (if jobRunning d then d else swapModel d)) c s

/-- Why loop.enable refuses a colour (R196), in the rule's order. -/
def enableFails (d : Device) (k : Plane) : Option Reason :=
  let ports := [0, 1, 2, 3].filter (fun (p : Port) => d.loop.portMask.getLsbD p.val)
  let cfg := fun (p : Port) => d.cams.ports[p].cfg
  let ref := cfg (refPort d)
  let c := d.loop.colours[k]
  let band := ref.bandLines * ref.trigPitch
  if ports.any (fun p => (cfg p).pixelStep != 2
      || !((cfg p).column0 % 4 == 0 || ((cfg p).reversed && (cfg p).column0 % 4 == 3))
      || ((cfg p).reversed && (cfg p).column0 % 4 != 3)
      || (cfg p).trigPitch != ref.trigPitch || (cfg p).bandLines != ref.bandLines) then some .port
  else if !([300, 600, 1200, 2400] : List Nat).contains d.pos.lpi then some .lpi
  else if (match colourCols c with | some (lo, hi) => decide (lo < 0 ∨ (4 * d.loop.bins : Int) ≤ hi) | none => false) then some .columns
  else if (match deadDistance d k with | some x => decide ((120 * band : Int) < x) | none => false) then some .deadDistance
  else if (match d.loop.model with | some m => decide (bitsOf (byteAt m 0) 0 4 ≤ k.val) | none => true) || !c.declared then some .model
  else none

/-- loop.enable (R196, R200). -/
def execLoopEnable (c : Cmd) (s : State) : Host.Outcome State Fault Refusal :=
  mervan { opcode := 0x0503, stops := true, args := [.num 0 255, .flag] }
    (fun _ a d =>
      let ks := (List.finRange 8).filter (fun k => bitOf (argN a 0) k.val)
      if !d.mbx.measuring then no d .refused .notMeasuringNode
      else if argB a 1 then
        -- the span records of this node's own colours are current at loop.enable (R200)
        let e := ks.foldl (fun e k => if d.loop.colours[k].node = d.fabric.node.toNat then
            (match mkSpan k false e with | some r => takeSpan r e | none => e) else e) d
        match ks.findSome? (enableFails e) with
        | some r => no d .badArgument r
        | none =>
          let e := ks.foldl (fun e k => modColour e k (fun x => { x with enabled := true })) e
          done (holdLoop (sendSpans false e))
      else done (ks.foldl (fun e k => modColour e k (fun x => { x with enabled := false, held := false })) d)) c s

/-- loop.status (Table 8.11): state as 0 not declared, 1 declared, 2 enabled; trim targets in units of 1/65,536; counters of the job's
live set (log entry 37). -/
def execLoopStatus (c : Cmd) (s : State) : Host.Outcome State Fault Refusal :=
  mervan { opcode := 0x0504, stops := true, args := [.colour], results := fun _ => 92 }
    (fun _ a d =>
      let k : Plane := finOf 8 (argN a 0)
      let x := d.loop.colours[k]
      let n := d.acct.live[2].node[k]
      let ws := [w32 (if x.enabled then 2 else b2n x.declared), x.gen, x.reported] ++ x.tau.toList.map (fun t => i32 (roundRat (65536 * t)))
        ++ [w32 (b2n x.held)]
      let cs := [n.used] ++ n.excluded.toList ++ [n.updated] ++ n.frozen.toList
        ++ [n.corrClamp, n.trimClamp, n.solveOverrun, n.stripSkipped, d.acct.live[2].discarded[k], d.acct.live[2].applied[k]]
      ok d (cs.foldl (fun ws v => put64 ws v.toNat) ws)) c s

/-- Bytes of loop.read for one bin: corrections as signed 16-bit, freeze reasons as a byte (position in Table 8.8, 255 observable),
estimates and standard errors as binary32 (log entry 37). -/
def readBin (x : Colour) (what b : Nat) : List U8 :=
  if what = 0 then leBytes 2 (BitVec.ofInt 16 (iGet x.c b)).toNat
  else if what = 1 then leBytes 4 (iGet x.estimates b).toNat
  else if what = 2 then [BitVec.ofInt 8 (iGet x.freezes b - 1)]
  else leBytes 4 (iGet x.sigmas b).toNat

/-- loop.read (Table 8.11). -/
def execLoopRead (c : Cmd) (s : State) : Host.Outcome State Fault Refusal :=
  mervan { opcode := 0x0505, dram := true, args := [.colour, .num 0 3, .addr]
           ranges := fun a => [(argN a 2, s.dev.loop.bins * (if argN a 1 = 0 then 2 else if argN a 1 = 2 then 1 else 4), false)] }
    (fun _ a d =>
      let x := d.loop.colours[(finOf 8 (argN a 0) : Plane)]
      ok (dramWrite 5 (argN a 2) ((List.range d.loop.bins).flatMap (readBin x (argN a 1))) d)) c s

/-- loop.reset (Table 8.11): c in the heads' spans, their LOOP_TRIM and trim targets become 0. HEAD_MASK names heads of the colour's owner, so a
fused-off head of this device is named only where it is the owner (R3, log entry 96). -/
def execLoopReset (c : Cmd) (s : State) : Host.Outcome State Fault Refusal :=
  mervan { opcode := 0x0506, stops := true, args := [.colour, .wide 0 (2 ^ 40 - 1) 1] }
    (fun _ a d =>
      let hs := maskHeads (argN a 1)
      if hs.any (fun h => !hasHead d h.val && d.loop.colours[(finOf 8 (argN a 0) : Plane)].node == d.fabric.node.toNat) then no d .badArgument
      else ok (modColour d (finOf 8 (argN a 0)) (fun x =>
        let spans := match x.span with | some r => r.heads.filter (fun (e : SpanHead) => hs.contains e.head) | none => []
        { x with
          c := x.c.filter (fun e => !spans.any (spanCovers x e.1))
          trim := updAll x.trim (fun h t => if hs.contains h then 0 else t)
          tau := updAll x.tau (fun h t => if hs.contains h then 0 else t) }))) c s

/-- loop.check_config (R216, R218). -/
def execLoopCheckConfig (c : Cmd) (s : State) : Host.Outcome State Fault Refusal :=
  mervan { opcode := 0x0507, stops := true, args := [.one [8, 16, 32], .mul 4 32 2, .num 0 15, .num 5 90, .num 10 95] }
    (fun _ a d =>
      if jobActive d then no d .busyState
      else done { d with loop := { d.loop with
        checkPitch := argN a 0, checkRun := argN a 1, checkCode := argN a 2, checkMissing := argN a 3, checkWeak := argN a 4 } }) c s

/-- The 16 bytes of a check result (R219; the places of its fields: log entry 35). -/
def checkBytes (r : CheckResult) : List U8 :=
  [BitVec.ofNat 8 r.head.val, BitVec.ofNat 8 ((if r.cls == .weak then 1 else 0) + 2 * b2n r.shared)] ++ leBytes 2 r.nozzle
    ++ leBytes 2 (BitVec.ofInt 16 (clampI (-32768) 32767 r.share)).toNat ++ [0, 0] ++ leBytes 4 r.rep.toNat ++ leBytes 4 r.job.toNat

/-- loop.check_read (R219). -/
def execLoopCheckRead (c : Cmd) (s : State) : Host.Outcome State Fault Refusal :=
  mervan { opcode := 0x0508, dram := true, args := [.addr, .any], results := fun _ => 1
           ranges := fun a => [(argN a 0, 16 * argN a 1, false)] }
    (fun _ a d =>
      let out := d.loop.checks.take (argN a 1)
      ok (dramWrite 5 (argN a 0) (out.flatMap checkBytes) { d with loop := { d.loop with checks := d.loop.checks.drop (argN a 1) } })
        [w32 out.length]) c s

end Sys2Proof.Machine
end

