-- ==== Sys2Proof/Machine/Change.lean ====
section
/-! DEFINITION. The flying job change up to its change WPOS (R51 to R56, R103): job.commit, job.cancel, and the messages schedule, ready,
go, acknowledgement, abort and cancel. -/
namespace Sys2Proof.Machine

/-- The active devices of the fabric: those that announced roles, and this one (R54, log entry 16). -/
def activeNodes (d : Device) : List U8 := (d.fabric.announced.filter (· != d.fabric.node)) ++ [d.fabric.node]

/-- A schedule broadcast (Table 12.5). -/
def sendSchedule (c : Change) (d : Device) : Device :=
  broadcast .timing 0x0010 (leBytes 4 c.jobId.toNat ++ [0, 0, 0, 0] ++ leBytes 8 c.w.toNat ++ leBytes 4 c.postponements) d

/-- Payload of go and abort. -/
def goPayload (c : Change) : List U8 := leBytes 4 c.jobId.toNat ++ [0, 0, 0, 0] ++ leBytes 8 c.w.toNat

/-- A schedule held: the job it names becomes SCHEDULED (Table 2.1). -/
def holdSchedule (c : Change) (d : Device) : Device :=
  renumberSheets { d with jobs := { d.jobs with
      change := some c
      staged := d.jobs.staged.map (fun j => if j.desc.jobId == c.jobId then { j with state := .scheduled } else j) } }

/-- The two repeat pitches of R52 step 2: of the running job, or of the new job's repeat 0 when none runs. DESIGN CHOICE: where the running
job's repeats differ in pitch, those of the present repeat and of the next (log entry 84). -/
def leadPitches (d : Device) (j : JobDesc) : Nat :=
  match d.jobs.running with
  | some r =>
    if r.state == .running then (repDesc d r.desc d.jobs.begun).pitch + (repDesc d r.desc (d.jobs.begun + 1)).pitch
    else 2 * (repDesc d j 0).pitch
  | none => 2 * (repDesc d j 0).pitch

/-- Repeat boundaries of a web-mode job run, so W is rounded up to one (R52). DESIGN CHOICE: those of an ended job that continue (R34) count
too (log entry 74). -/
def boundaryJob (d : Device) : Option JobDesc :=
  match d.jobs.running with
  | some r => if d.jobs.boundaries && !(r.state == .running && r.desc.sheet) then some r.desc else none
  | none => none

/-- W of a request (R52): rounded up, and for 0 the earliest that keeps the lead. -/
def changeW (d : Device) (j : JobDesc) (request : Nat) : Nat :=
  let w := if request = 0 then d.pos.wpos.toNat + max (leadPitches d j) (lead50 d) else request
  match boundaryJob d with | some r => roundUp d r w | none => w

/-- job.commit (R51, R52, Table 2.11). -/
def execJobCommit (c : Cmd) (s : State) : Host.Outcome State Fault Refusal :=
  mervan { opcode := 0x0101, args := [.any, .addr], results := fun _ => 2 }
    (fun _ a d =>
      let id := w32 (argN a 0)
      match d.jobs.staged with
      | none => no d .refused (if d.pos.role != .master then .notPositionMaster else .noStagedJob)
      | some j =>
        if d.pos.role != .master then no d .refused .notPositionMaster
        else if d.jobs.change.isSome then no d .busyState
        else if j.desc.jobId != id then no d .refused .noStagedJob
        else
          let w := changeW d j.desc (argN a 1)
          if w < d.pos.wpos.toNat + max (leadPitches d j.desc) (lead50 d) then no d .badArgument .tooClose
          else
            let x : Change := { jobId := id, w := BitVec.ofNat 64 w, postponements := 0, go := false, aborted := false, proof := false,
                                ready := [], acks := [] }
            ok (reportReady id (sendSchedule x (holdSchedule x d))) (w64 w)) c s

/-- The loads of the staged job are given up: its shadow images, its waiting requests, and a host's load for it, which answers
(Table 2.1). -/
def dropJobLoads (d : Device) : Device :=
  let d := { d with banks := { d.banks with queue := d.banks.queue.filter (fun r => r.what != .job && r.what != .hostJob) } }
  allTbls.foldl (fun d t =>
    match (getBank d t).pending with
    | some r =>
      if r.what == .job then emptyShadow t d
      else if r.what == .hostJob then finishWork (· == .bankLoad t) { status := .refused, reason := .noStagedJob } (emptyShadow t d)
      else d
    | none => d) d

/-- job.cancel (Tables 2.1, 2.10, 2.11): a scheduled job returns to STAGED on every device, before go only; a staged one is dropped, and a
device that was ready for it by a schedule it holds is so no longer (R53). -/
def execJobCancel (c : Cmd) (s : State) : Host.Outcome State Fault Refusal :=
  mervan { opcode := 0x0103, args := [.any] }
    (fun _ a d =>
      let id := w32 (argN a 0)
      match d.jobs.staged.filter (fun j => j.desc.jobId == id) with
      | none => no d .refused .noJob
      | some j =>
        if j.state == .scheduled then
          match d.jobs.change with
          | some x =>
            if d.pos.role != .master then no d .refused .notPositionMaster
            else if x.go then no d .refused .tooLate
            else ok (broadcast .timing 0x0013 (leBytes 4 id.toNat) (unschedule d))
          | none => ok (unschedule d)
        else ok (noteReady d (dropJobLoads { d with jobs := { d.jobs with staged := none } }))) c s

/-- A schedule from the position master (R53): the device answers ready or not ready. A device that has still a lost change to make good keeps that
one, and holds the new schedule once it prints again (R57). -/
def execScheduleReceived (jobId : U32) (w : U64) (postponements : U8) (s : State) : Host.Outcome State Fault Refusal :=
  let d := s.dev
  if !ready d || !active d || d.pos.role == .master then next s d
  else
    let x : Change := { jobId := jobId, w := w, postponements := postponements.toNat, go := false, aborted := false, proof := false,
                        ready := [], acks := [] }
    next s (reportReady jobId (if d.jobs.lost && d.jobs.change.any (fun c => c.jobId != jobId)
      then { d with jobs := { d.jobs with nextChange := some x } } else holdSchedule x d))

/-- Ready or not ready from a device (R53, R54). -/
def execReadyReceived (node : U8) (jobId : U32) (isReady : Bool) (_reason : U32) (s : State) : Host.Outcome State Fault Refusal :=
  let d := s.dev
  match d.jobs.change with
  | some c => next s (if d.pos.role == .master && c.jobId == jobId then setReady node isReady d else d)
  | none => next s d

/-- The next W of a postponed change (R54): the next repeat boundary of the running job, or one repeat pitch on. -/
def laterW (d : Device) (w : Nat) : Nat :=
  match boundaryJob d with
  | some r => roundUp d r (w + 1)
  | none =>
    match d.jobs.running with
    | some r => if r.state == .running then w + max 1 d.jobs.repPitch else w + laterPitch d
    | none => w + laterPitch d
where
  laterPitch (d : Device) : Nat := match d.jobs.staged with | some j => max 1 (repDesc d j.desc 0).pitch | none => 1

/-- A postponement, or after eight of one commit its cancellation (R54, R55). `names` are the devices that are not ready. -/
def postpone (c : Change) (names : List U8) (d : Device) : Device :=
  if 8 ≤ c.postponements then
    raise .jobChangeCancelled [c.jobId] (broadcast .timing 0x0013 (leBytes 4 c.jobId.toNat) (unschedule d))
  else
    let x : Change := { c with w := BitVec.ofNat 64 (laterW d c.w.toNat), postponements := c.postponements + 1, go := false, aborted := false,
                               proof := false, barred := false, acks := [] }
    raise .jobChangePostponed (names.map (fun n => w32 n.toNat)) (sendSchedule x (renumberSheets { d with jobs := { d.jobs with change := some x } }))

/-- The decision point, 5 ms of travel before W (R54): go, or a postponement. -/
def execDecisionPoint (s : State) : Host.Outcome State Fault Refusal :=
  let d := s.dev
  match d.jobs.change with
  | none => next s d
  | some c =>
    if !posOn d || !active d || d.pos.role != .master || c.go || !reachedWith d 5000000 c.w.toNat then next s d
    else
      let late := (activeNodes d).filter (fun n => if n == d.fabric.node then (notReady d c.jobId).isSome else !c.ready.contains n)
      if late.isEmpty then
        let x : Change := { c with go := true, aborted := false, acks := [d.fabric.node] }
        next s (broadcast .timing 0x0011 (goPayload x) { d with jobs := { d.jobs with change := some x } })
      else next s (postpone c late d)

/-- Go for W (R55): acknowledged to the position master. -/
def execGoReceived (jobId : U32) (w : U64) (s : State) : Host.Outcome State Fault Refusal :=
  let d := s.dev
  match d.jobs.change, masterNode d with
  | some c, some m =>
    if !active d || d.pos.role == .master || c.jobId != jobId || c.w != w then next s d
    else
      let d := { d with jobs := { d.jobs with change := some { c with go := true } } }
      next s (sendTo .control false m 0x0022 (goPayload c) d).2
  | _, _ => next s d

/-- A go acknowledgement (R55). -/
def execGoAckReceived (node : U8) (jobId : U32) (w : U64) (s : State) : Host.Outcome State Fault Refusal :=
  let d := s.dev
  match d.jobs.change with
  | some c =>
    if d.pos.role == .master && c.go && c.jobId == jobId && c.w == w && !c.acks.contains node then
      next s { d with jobs := { d.jobs with change := some { c with acks := c.acks ++ [node] } } }
    else next s d
  | none => next s d

/-- The abort deadline, 2 ms of travel before W (R55, R103): with every acknowledgement the position master's own samples prove the
change; otherwise it broadcasts abort and postpones. -/
def execAbortDeadline (s : State) : Host.Outcome State Fault Refusal :=
  let d := s.dev
  match d.jobs.change with
  | none => next s d
  | some c =>
    let due : Bool := match changeStart d c with | some w => reachedWith d 2000000 w | none => false
    if !posOn d || d.pos.role != .master || !c.go || c.proof || !due then next s d
    else
      let missing := (activeNodes d).filter (fun n => !c.acks.contains n)
      if missing.isEmpty then next s { d with jobs := { d.jobs with change := some { c with proof := true } } }
      else next s (postpone c missing (broadcast .timing 0x0012 (goPayload c) d))

/-- An abort for W (R55, R56). -/
def execAbortReceived (jobId : U32) (w : U64) (s : State) : Host.Outcome State Fault Refusal :=
  let d := s.dev
  match d.jobs.change with
  | some c =>
    if d.pos.role != .master && c.jobId == jobId && c.w == w then
      next s { d with jobs := { d.jobs with change := some { c with go := false, aborted := true, proof := false } } }
    else next s d
  | none => next s d

/-- The position master cancels a change (R54): the job returns to STAGED. -/
def execCancelReceived (jobId : U32) (s : State) : Host.Outcome State Fault Refusal :=
  let d := s.dev
  match d.jobs.change with
  | some c =>
    let d := { d with jobs := { d.jobs with nextChange := d.jobs.nextChange.filter (fun x => x.jobId != jobId) } }
    next s (if d.pos.role != .master && c.jobId == jobId then unschedule d else d)
  | none => next s d

end Sys2Proof.Machine
end

