-- ==== Sys2Proof/Machine/Feed.lean ====
section
/-! DEFINITION. The real-time feed (R42, R43, R46, R230, R232, R429): when a repeat falls due, block fetches into the plane rings, and
decompression. -/
namespace Sys2Proof.Machine

/-- The repeat's printed lines and strip, which its colours' owner follows (R198, R218); `startRuns` says how each plane prints it. -/
def runOf (d : Device) (j : JobDesc) (n start base : Nat) : PrintRun :=
  let r := repDesc d j n
  { job := j.key, rep := n, start := start, base := base, lines := r.lines, strips := if r.checkStrip then stripLines d else 0, blank := r.blank
    pc := ⟨0, 0, false, false, false, false⟩, cols := 0, limited := false, cgen := 0 }

/-- Line numbers that a repeat takes: its lines and its strip (R32, log entry 14). -/
def linesOf (d : Device) (j : JobDesc) (n : Nat) : Nat := (runOf d j n 0 0).lines + (runOf d j n 0 0).strips

/-- The first boundary of the incoming job of a lost change at or beyond where the device learnt of it: its number, start and first line
number (R57). -/
def incomingAt (d : Device) (j : JobDesc) : Nat → Nat → Nat → Nat → Nat × Nat × Nat
  | 0, n, s, b => (n, s, b)
  | fuel + 1, n, s, b =>
    if d.jobs.masterAt ≤ s then (n, s, b)
    else
      let r := repDesc d j n
      incomingAt d j fuel (n + 1) (s + max 1 r.pitch) (b + linesOf d j n)

/-- A lost device resumes the incoming job at its next boundary when its banks hold that job's tables (R57). -/
def resumeIncoming (d : Device) : Option (Job × Nat × Nat × Nat) :=
  match d.jobs.lost, d.jobs.masterJob, d.jobs.staged, d.jobs.change with
  | true, some (id, true), some x, some c =>
    if x.desc.jobId != id || !banksReady d then none
    else if x.desc.sheet then
      (d.sheet.opened.find? (fun o => decide (max c.w.toNat d.jobs.masterAt ≤ o.1.toNat))).map (fun o => (x, o.2.1.toNat, o.1.toNat, 0))
    else
      let (n, s, b) := incomingAt d x.desc ((d.jobs.masterAt - c.w.toNat) / 1000000 + 2) 0 c.w.toNat 0
      some (x, n, s, b)
  | _, _, _, _ => none

/-- The staged job may be fetched: the device holds go for its change WPOS with the proof of R56 (R429). -/
def incomingOpen (d : Device) : Bool := match d.jobs.change with | some c => c.go && c.proof && !d.jobs.lost | none => false

/-- The running job's descriptor, while it runs. -/
def runningDesc (d : Device) : Option JobDesc := (d.jobs.running.filter (fun j => j.state == .running)).map (·.desc)

/-- Start of repeat n of the running job from the present repeat on. -/
def startOf (d : Device) (j : JobDesc) (n : Nat) : Nat :=
  d.jobs.repStart.toNat + ((List.range (n - d.jobs.begun)).map (fun i => (repDesc d j (d.jobs.begun + i)).pitch)).sum

/-- Repeats of the running job before the change start (R429): counted by boundaries, or in sheet mode the sheets opened for it. -/
def outLimit (d : Device) (j : JobDesc) : Option Nat :=
  match d.jobs.change with
  | none => none
  | some c =>
    match changeStart d c with
    | none => none
    | some w =>
      if j.sheet then some d.sheet.number.toNat
      else
        let n := d.jobs.begun + 1 + ((List.range ((w - d.jobs.repStart.toNat) / 1000000 + 1)).filter
          (fun i => decide (startOf d j (d.jobs.begun + 1 + i) < w))).length
        some (if j.cycle then n else min n j.repeatCount)

/-- Repeat n of a job exists: the job cycles, or has so many repeats. -/
def hasRepeat (j : JobDesc) (n : Nat) : Bool := j.cycle || decide (n < j.repeatCount)

/-- The last repeat of a job that fell due (R42). -/
def dueOf (d : Device) (id : JobKey) : Option Nat := (d.feed.due.find? (fun e => e.1 == id)).map (·.2)

/-- Repeat n of a job has fallen due (R42). -/
def hasFallen (d : Device) (j : JobDesc) (n : Nat) : Bool := match dueOf d j.key with | some x => decide (n ≤ x) | none => false

/-- Blocks of plane k of repeat n of a job: none of a BLANK repeat or one skipped under NO_DATA. -/
def blockCount (d : Device) (j : JobDesc) (k n : Nat) : Nat :=
  let r := repDesc d j n
  if r.blank || d.feed.noData.contains (j.key, n) || j.planes.length ≤ k then 0 else dramLe d (r.planeIndex.getD k 0) 4

/-- A ring's next block, past repeats without blocks that have fallen due; `fuel` bounds the repeats passed. -/
def ringAt (d : Device) (j : JobDesc) (k : Nat) : Nat → Nat → Nat → Nat × Nat
  | 0, n, i => (n, i)
  | fuel + 1, n, i =>
    if hasFallen d j n && decide (blockCount d j k n ≤ i) then ringAt d j k fuel (n + 1) 0 else (n, i)

/-- A place of a ring in a job moved on past the repeats that have no blocks for it. -/
def ringOn (d : Device) (j : JobDesc) (p : Plane) (e : Nat × Nat) : Nat × Nat :=
  ringAt d j p.val (match dueOf d j.key with | some x => x + 2 - e.1 | none => 0) e.1 e.2

/-- A plane ring's place in the running job; a ring that the job has not used yet starts where the job's feed began. -/
def runPlace (d : Device) (j : JobDesc) (p : Plane) : Nat × Nat :=
  let r := d.feed.rings[p]
  ringOn d j p (if r.feedJob == j.key then r.next else (d.feed.first, 0))

/-- The job after the running one and the repeat at which its feed begins: the staged one when R429 lets it be fetched, or the incoming job that a
lost device resumes at a boundary to come (R57). -/
def incomingNext (d : Device) : Option (JobDesc × Nat) :=
  if incomingOpen d then d.jobs.staged.map (fun j => (j.desc, 0)) else (resumeIncoming d).map (fun x => (x.1.desc, x.2.1))

/-- The job after the running one, when it may be fetched. -/
def incomingDesc (d : Device) : Option JobDesc := (incomingNext d).map (·.1)

/-- A plane ring's place in the incoming job: at its start once the plane's outgoing blocks are all fetched, with no running job, or on a device
that fires no line of the outgoing one (R57, R429). -/
def inPlace (d : Device) (i : JobDesc) (n : Nat) (p : Plane) : Option (Nat × Nat) :=
  let r := d.feed.rings[p]
  if r.feedJob == i.key then some (ringOn d i p r.next)
  else match runningDesc d with
    | none => some (ringOn d i p (n, 0))
    | some o =>
      if d.jobs.lost then some (ringOn d i p (n, 0))
      else match outLimit d o with
        | some m => if m ≤ (runPlace d o p).1 || decide (o.planes.length ≤ p.val) then some (ringOn d i p (n, 0)) else none
        | none => none

/-- Some head of plane k has lines of the outgoing job still to screen. -/
def outgoingLeft (d : Device) (k : Plane) : Bool :=
  d.fire.cursor.toList.any (fun c => c.segs.any (fun g => g.plane == k && g.job != runningKey d && decide (g.s < g.lines + g.strips)))

/-- A ring that has still blocks of the outgoing job to fetch after the change: its place in that job (R429). -/
def outPlace (d : Device) (p : Plane) : Option (JobDesc × Nat × Nat) :=
  match d.jobs.outgoing.map (·.desc) with
  | none => none
  | some o =>
    let r := d.feed.rings[p]
    if r.feedJob != o.key || o.key == runningKey d || !outgoingLeft d p then none
    else
      let e := ringOn d o p r.next
      if e.1 < d.feed.outEnd then some (o, e) else none

/-- The job and place that a ring fetches from next: the rest of the outgoing job, then the running job, and the incoming one once its plane's
outgoing blocks are all fetched (R429). -/
def fetchPlace (d : Device) (p : Plane) : Option (JobDesc × Nat × Nat) :=
  match outPlace d p with
  | some x => some x
  | none =>
    match (incomingNext d).bind (fun i => (inPlace d i.1 i.2 p).map (fun e => (i.1, e))) with
    | some i => some i
    | none => (runningDesc d).map (fun j => (j, runPlace d j p))

/-- The repeat after the last one of a job that fell due, or the first of its feed. -/
def dueAfter (d : Device) (j : JobDesc) (first : Nat) : Option (JobDesc × Nat) :=
  let n := match dueOf d j.key with | some x => x + 1 | none => first
  if hasRepeat j n then some (j, n) else none

/-- The repeat of the outgoing job before the change that has not fallen due while a ring has still to fetch it (R429). -/
def dueOutgoing (d : Device) : Option (JobDesc × Nat) :=
  match d.jobs.outgoing.map (·.desc) with
  | none => none
  | some o =>
    if (List.finRange 8).any (fun p => (outPlace d p).isSome) then (dueAfter d o 0).filter (fun x => decide (x.2 < d.feed.outEnd)) else none

/-- The repeat that falls due next (R42, R429): those of the outgoing job before the change, then those of the incoming one. -/
def dueNext (d : Device) : Option (JobDesc × Nat) :=
  match dueOutgoing d with
  | some x => some x
  | none =>
    let inc := (incomingNext d).bind (fun i => dueAfter d i.1 i.2)
    match runningDesc d with
    | none => inc
    | some j =>
      let n := match dueOf d j.key with | some x => x + 1 | none => d.feed.first
      let passed := d.jobs.lost || (match outLimit d j with | some m => decide (m ≤ n) | none => false)
      if (incomingDesc d).isSome && passed then inc else dueAfter d j d.feed.first

/-! Ring shares (R429) -/

/-- The threshold image of a job: the running job's is active. -/
def threshOf (d : Device) (j : JobDesc) : Mem :=
  if (runningDesc d).map (·.key) == some j.key then (getBank d .thresh).active else stagedThresh d

/-- Contone supply of plane k of a job (R36, R429). -/
def planeSupply (d : Device) (j : JobDesc) (k : Nat) : Nat :=
  if k < j.planes.length then planeSupply2 j (fun i => planeColumns d (fun h => dirOf (threshOf d j) h.val) (planeAt j i)) k else 0

/-- The supplies that divide the rings. -/
def ringSupply (d : Device) (k : Plane) : Nat :=
  let own := match runningDesc d with | some j => planeSupply d j k.val | none => 0
  let inc := match d.jobs.change with
    | some c => if c.go then (match d.jobs.staged with | some j => planeSupply d j.desc k.val | none => 0) else 0
    | none => 0
  own + inc

/-- The share of ring k of the 5 MiB, in bytes. -/
def ringShare (d : Device) (k : Plane) : Nat :=
  let s := fun (i : Plane) => ringSupply d i + (if outgoingLeft d k then d.feed.outSupply[i] else 0)
  let total := ((List.finRange 8).map s).sum
  if total = 0 then 0 else 5242880 * s k / total

/-- Bytes that a ring holds, the output of the block being decompressed among them: its history (R232). -/
def ringUsed (r : Ring) : Nat := (r.blocks.map (·.data.length)).sum + r.place.out.length

/-- Bytes that a ring may still take: of its share, and of the 5 MiB that all rings divide, since after a new division space passes from one ring
to another only as it falls free (R429). -/
def ringRoom (d : Device) (k : Plane) : Nat :=
  min (ringShare d k - ringUsed d.feed.rings[k]) (5242880 - (d.feed.rings.toList.map ringUsed).sum)

/-- A ring has 64 KiB free. -/
def ringFree (d : Device) (k : Plane) : Bool := decide (65536 ≤ ringRoom d k)

/-! Falling due (R42) -/

/-- A plane ring of the job has reached the repeat and has 64 KiB free; a job none of whose planes waits for blocks reaches it too. -/
def dueReached (d : Device) (j : JobDesc) (n : Nat) : Bool :=
  let planes := (List.finRange 8).filter (fun p => decide (p.val < j.planes.length))
  planes.any (fun p => ringFree d p && d.feed.rings[p].fetching.isNone
    && (match fetchPlace d p with | some (i, e) => i.key == j.key && e == (n, 0) | none => false))

/-- Tile i of a repeat's tile list, without its data, and the address of its block; none where the entry or the repeat's descriptor is poisoned,
which fails the tile (Tables 2.6 and 10.2). -/
def tileEntry (d : Device) (j : JobDesc) (n : Nat) (r : RepeatDesc) (i : Nat) : TileData × Option Nat :=
  let a := r.tileList + 32 * i
  let t := readTile (dramRead d a 32)
  ({ job := j.key, rep := n, idx := i, plane := finOf 8 t.plane, x := t.x, y := t.y, width := t.width, height := t.height, mode := t.mode
     ok := false, data := [] }, if r.bad || (poisonIn d a 32).isSome then none else some t.block)

/-- The tiles of a repeat in the order in which their first lines come; R40 bounds what one line needs (log entry 79). -/
def tilesOf (d : Device) (j : JobDesc) (n : Nat) (r : RepeatDesc) : List (TileData × Option Nat) :=
  sortBy (fun a b => decide (a.1.y < b.1.y ∨ (a.1.y = b.1.y ∧ a.1.idx ≤ b.1.idx))) ((List.range r.tileCount).map (tileEntry d j n r))

/-- The number by which an event names a repeat of a held job: its index in the repeat list, like the k of R42 (log entry 74). -/
def repName (d : Device) (id : JobKey) (n : Nat) : Nat :=
  match (d.jobs.running.toList ++ d.jobs.staged.toList ++ d.jobs.outgoing.toList).find? (fun j => j.desc.key == id) with
  | some j => repIndex j.desc n
  | none => n

/-- The block at an address, with its header. -/
def blockAt (d : Device) (a : Nat) : List U8 := dramRead d a (fkzSize (dramRead d a 32))

/-- A tile that has been decompressed is in the tile area, or is left out and counted (R40, R46). -/
def putTile (t : TileData) (bytes : Nat) (r : Fkz) (d : Device) : Device :=
  let tile := { t with ok := (match r with | .ok _ => true | _ => false), data := match r with | .ok o => o | _ => [] }
  let d := countDec t.plane bytes r { d with feed := { d.feed with tiles := d.feed.tiles ++ [tile] } }
  if tile.ok then d
  else
    raise .blockCrc [jobIdOf t.job, w32 (repName d t.job t.rep), w32 t.plane.val, w32 (0x80000000 + t.idx)]
      (countAll d (fun s => { s with tiles := upd s.tiles t.plane (· + 1) }))

/-- The bytes of a tile's block, and whether the poison of Table 10.2 fails it. -/
def tileBlock (d : Device) : Option Nat → List U8 × Bool
  | none => ([], true)
  | some a => (blockAt d a, (poisonIn d a (fkzSize (dramRead d a 32))).isSome)

/-- What the fetch of a tile's block reads. -/
def seeTile (a : Option Nat) (d : Device) : Device := match a with | some a => dramSee a (fkzSize (dramRead d a 32)) d | none => d

/-- Some head of a tile's plane has yet to screen a line that the tile spans. -/
def tileNeeded (d : Device) (t : TileData) : Bool :=
  match jobDescOf d t.job with
  | none => false
  | some j =>
    let pc := planeAt j t.plane.val
    (headsOf pc).any (fun h =>
      match (d.fire.cursor[h].segs).find? (fun g => g.job == t.job && g.rep == t.rep) with
      | some g => decide ((if pc.upsample2 then g.s / 2 else g.s) < t.y + t.height ∧ g.s < g.lines)
      | none => (match d.jobs.running with | some x => x.desc.key != t.job || decide (d.jobs.begun < t.rep) | none => true))

/-- Bytes free in the 1 MiB of the tile area (R40). -/
def tileRoom (d : Device) : Nat :=
  1048576 - (((d.feed.tiles.filter (tileNeeded d)).map (·.data.length)).sum + d.feed.tilePlace.out.length)

/-- Tiles decompressed into the tile area one after the other; where it has no free byte the decompressor suspends (R40, R232). Tiles
wait while the controller holds requests (R254). At most `fuel` tiles. -/
def runTiles : Nat → Device → Device
  | 0, d => d
  | fuel + 1, d =>
    if !dramServes d then d
    else match d.feed.tileWork with
    | [] => d
    | (t, a) :: rest =>
      let (blk, bad) := tileBlock d a
      match (if bad then DecRun.ended .check else fkzRun blk (tileRoom d) d.feed.tilePlace) with
      | .held p =>
        { d with feed := { d.feed with tilePlace := p, tileHeld := true }
                 cz := { d.cz with dec := upd d.cz.dec t.plane (fun e => { e with stalls := e.stalls + 1, stalled := true }) } }
      | .ended r =>
        runTiles fuel (putTile t blk.length r { seeTile a d with feed := { d.feed with tileWork := rest, tilePlace := {}, tileHeld := false } })

/-- RELEASED_THROUGH of the running job (R43): repeats that every plane ring has fetched and whose tiles are in the tile area, or passed under
NO_DATA. A ring that has fetched nothing of
the job stands where the job's feed began. -/
def noteReleased (d : Device) : Device :=
  match d.jobs.running with
  | none => d
  | some j =>
    let fallen := match dueOf d j.desc.key with | some x => x + 1 | none => 0
    let at_ := fun (p : Plane) =>
      let e := runPlace d j.desc p
      let r := d.feed.rings[p]
      if d.jobs.staged.any (fun x => x.desc.key == r.feedJob) then fallen
      else if r.feedJob == j.desc.key && r.fetching.isSome then min e.1 r.next.1 else e.1
    let tiled := (d.feed.tileWork.filter (fun t => t.1.job == j.desc.key)).foldl (fun m t => min m t.1.rep) fallen
    let n := ((List.finRange 8).filter (fun p => decide (p.val < j.desc.planes.length))).foldl (fun m p => min m (at_ p)) tiled
    { d with jobs := { d.jobs with running := some { j with released := max j.released n } } }

/-- The table set of a repeat asked for, once (R48, R49). -/
def loadRepeatSet (j : JobDesc) (n : Nat) (d : Device) : Device :=
  let r := repDesc d j n
  if r.tableSet = 0 || d.banks.sets.any (fun s => s.1 == j.key && s.2.1 == n) then d
  else
    let l := loadsOf (readSet (dramRead d r.tableSet 128)) (.rep j.key n)
    queueLoads l { dramSee r.tableSet 128 d with banks := { d.banks with sets := d.banks.sets ++ [(j.key, n, l)] } }

/-- The table set of the repeat after n is asked for when that repeat has already fallen due; one that falls due later asks for it then
(R48, R49). -/
def nextSet (x : Job) (n : Nat) (d : Device) : Device :=
  match dueOf d x.desc.key with
  | some u =>
    if decide (n + 1 ≤ u) && !d.feed.noData.contains (x.desc.key, n + 1) then loadRepeatSet x.desc (n + 1) d else d
  | none => d

/-- Repeat n of a job falls due: the feed decides once whether it is valid; its tiles are loaded, and its table set is asked for when the repeat
before it is the present one (R42, R48, R49). EV_JOB_UNDERRUN names the repeat by its index in the list, the k of R42. -/
def fallDue (j : JobDesc) (n : Nat) (d : Device) : Device :=
  let valid := (d.jobs.running.toList ++ d.jobs.staged.toList ++ d.jobs.outgoing.toList).any (fun x => x.desc.key == j.key && repeatValid x n)
  let d := { d with feed := { d.feed with due := (j.key, n) :: d.feed.due.filter (fun e => e.1 != j.key) } }
  if valid then
    let r := { repDesc d j n with bad := (poisonIn d (j.repeatList + 96 * repIndex j n) 96).isSome }
    let d := { d with feed := { d.feed with descs := d.feed.descs ++ [(j.key, n, r)] } }
    let ts := tilesOf d j n r
    let d := dramSee r.tileList (32 * r.tileCount) (dramSee (j.repeatList + 96 * repIndex j n) 96 d)
    let was := d.feed.tileHeld
    let d := { d with feed := { d.feed with tileWork := d.feed.tileWork ++ ts } }
    let d := if was then d else runTiles ts.length d
    noteReleased (if (runningDesc d).map (·.key) == some j.key && d.jobs.begun + 1 == n then loadRepeatSet j n d else d)
  else
    noteReleased (raise .jobUnderrun [j.jobId, w32 (repIndex j n)] { d with feed := { d.feed with noData := d.feed.noData ++ [(j.key, n)] } })

/-- REPEAT_DUE (R42): the feed decides once whether the repeat is valid. -/
def execRepeatDue (s : State) : Host.Outcome State Fault Refusal :=
  let d := s.dev
  if !domainTakes d 2 || !dramServes d then next s d
  else match dueNext d with
    | none => next s d
    | some (j, n) =>
      next s (if dueReached d j n then fallDue j n d else d)

/-! Blocks -/

/-- Poison that fails block i of plane k of a repeat before it is read (Table 10.2): that of the repeat's descriptor, of BLOCK_COUNT, or of the
block's entry in the index. -/
def entryBad (d : Device) (r : RepeatDesc) (k i : Nat) : Bool :=
  let ix := r.planeIndex.getD k 0
  r.bad || (poisonIn d ix 4).isSome || (poisonIn d (ix + 8 + 8 * i) 8).isSome

/-- The block that a ring requests: its bytes as read, or none of them where the poison of Table 10.2 fails it. -/
def blockOf (d : Device) (j : JobDesc) (n k i : Nat) : RingBlock × List U8 :=
  let r := repDesc d j n
  let a := dramLe d (r.planeIndex.getD k 0 + 8 + 8 * i) 8
  let size := fkzSize (dramRead d a 32)
  let b : RingBlock := { job := j.key, rep := n, idx := i, first := 65536 * i, len := 65536, ok := false, data := [] }
  if entryBad d r k i then (b, [])
  else ({ b with len := fkzOrig (dramRead d a 32), ok := (poisonIn d a size).isNone }, dramRead d a size)

/-- What the fetch of block i of plane k of a repeat reads: its entry of the index, and the block. -/
def seeBlock (j : JobDesc) (n k i : Nat) (d : Device) : Device :=
  let ix := (repDesc d j n).planeIndex.getD k 0
  let a := dramLe d (ix + 8 + 8 * i) 8
  dramSee a (fkzSize (dramRead d a 32)) (dramSee (ix + 8 + 8 * i) 8 d)

/-- BLOCK_FETCH (R42, R429): a plane ring has 64 KiB free and the feed requests its next block, of a repeat that has fallen due. -/
def execBlockFetch (plane : Plane) (s : State) : Host.Outcome State Fault Refusal :=
  let d := s.dev
  let r := d.feed.rings[plane]
  if !domainTakes d 2 || !dramServes d || r.fetching.isSome || !ringFree d plane then next s d
  else match fetchPlace d plane with
    | none => next s d
    | some (j, n, i) =>
      if !hasFallen d j n || blockCount d j plane.val n ≤ i then next s d
      else
        next s (noteReleased (modRing (seeBlock j n plane.val i d) plane (fun r =>
          { r with fetching := some (blockOf d j n plane.val i), place := {}, feedJob := j.key, next := (n, i + 1) })))

/-- A block of a plane ring has ended (R46, R230): its lines lie in the ring, or its output is discarded and EV_BLOCK_CRC names it. -/
def endBlock (plane : Plane) (b : RingBlock) (bytes : Nat) (out : Fkz) (d : Device) : Device :=
  let d := countDec plane bytes out d
  let done : RingBlock := match out with
    | .ok o => { b with ok := true, data := o }
    | _ => { b with ok := false, data := [] }
  let d := noteReleased (modRing d plane (fun r => { r with fetching := none, place := {}, blocks := r.blocks ++ [done] }))
  if done.ok then d else raise .blockCrc [jobIdOf b.job, w32 (repName d b.job b.rep), w32 plane.val, w32 b.idx] d

/-- BLOCK_DECOMPRESSED (R46, R230, R232): the fetched block goes on from its place to its end and has its outcome; a decompressor whose ring
has no free byte suspends and keeps its place. -/
def execBlockDecompressed (plane : Plane) (s : State) : Host.Outcome State Fault Refusal :=
  let d := s.dev
  let r := d.feed.rings[plane]
  match r.fetching with
  | none => next s d
  | some (b, bytes) =>
    if !domainOn d 2 || r.suspended then next s d
    else match (if b.ok then fkzRun bytes (ringRoom d plane) r.place else .ended .check) with
      | .held p =>
        next s { modRing d plane (fun r => { r with suspended := true, place := p }) with
          cz := { d.cz with dec := upd d.cz.dec plane (fun e => { e with stalls := e.stalls + 1, stalled := true }) } }
      | .ended out => next s (endBlock plane b bytes.length out d)

/-- The suspended decompressor of the tile area goes on (R232). -/
def resumeTiles (d : Device) : Device := noteReleased (runTiles d.feed.tileWork.length { d with feed := { d.feed with tileHeld := false } })

/-- DECOMPRESSOR_RESUME (R232): space frees, and the suspended decompressor of a ring, or of a tile of that plane, goes on from where it
stopped; engine k serves plane k (log entry 38). -/
def execDecompressorResume (engine : Fin 8) (free : Nat) (s : State) : Host.Outcome State Fault Refusal :=
  let d := s.dev
  let tile := d.feed.tileHeld && d.feed.tileWork.head?.any (fun t => t.1.plane == engine)
  if !domainOn d 2 || free = 0 || !(d.feed.rings[engine].suspended || tile) then next s d
  else
    let d := { modRing d engine (fun r => { r with suspended := false }) with
      cz := { d.cz with dec := upd d.cz.dec engine (fun e => { e with stalled := false }) } }
    next s (if tile then resumeTiles d else d)

end Sys2Proof.Machine
end

