-- ==== Sys2Proof/Machine/Settings.lean ====
section
/-! DEFINITION. Section 2 of the saved state, CONFIG (Table 13.2): the image of the settings of groups 0x01 to 0x0A, and reading it. The manual
gives the section's content and no layout; the layout is this model's (log entry 40). -/
namespace Sys2Proof.Machine

/-! Values as bytes: how one is written, and how it is read from the front of the bytes -/

/-- How values of a type are written and read. -/
structure Codec (α : Type) where
  put : α → List U8
  get : List U8 → α × List U8

/-- A number: its length in bytes, and its bytes. -/
def natC : Codec Nat where
  put v := let n := v.log2 / 8 + 1; BitVec.ofNat 8 n :: leBytes n v
  get b := (leAt b 1 (byteAt b 0), b.drop (1 + byteAt b 0))

/-- A value read and written through another one. -/
def viaC (c : Codec α) (fwd : β → α) (back : α → β) : Codec β where
  put v := c.put (fwd v)
  get b := let (v, r) := c.get b; (back v, r)

/-- A truth value. -/
def boolC : Codec Bool := viaC natC b2n (· == 1)

/-- A bit vector. -/
def bitsC (w : Nat) : Codec (BitVec w) := viaC natC BitVec.toNat (BitVec.ofNat w)

/-- A pair. -/
def pairC (c : Codec α) (e : Codec β) : Codec (α × β) where
  put v := c.put v.1 ++ e.put v.2
  get b := let (x, r) := c.get b; let (y, r) := e.get r; ((x, y), r)

/-- A signed number. -/
def intC : Codec Int :=
  viaC (pairC boolC natC) (fun v => (decide (v < 0), v.natAbs)) (fun v => if v.1 then -(v.2 : Int) else v.2)

/-- n values. -/
def readMany (c : Codec α) : Nat → List U8 → List α × List U8
  | 0, b => ([], b)
  | n + 1, b => let (x, r) := c.get b; let (xs, r) := readMany c n r; (x :: xs, r)

/-- A list: its length, and its values. -/
def listC (c : Codec α) : Codec (List α) where
  put l := natC.put l.length ++ l.flatMap c.put
  get b := let (n, r) := natC.get b; readMany c (min n r.length) r

/-- A vector; z stands for a value that the bytes do not hold. -/
def vecC (n : Nat) (z : α) (c : Codec α) : Codec (Vector α n) where
  put v := v.toList.flatMap c.put
  get b := let (l, r) := readMany c n b; (Vector.ofFn (fun i => l.getD i.val z), r)

/-- A value that may be absent. -/
def optC (c : Codec α) : Codec (Option α) where
  put v := match v with | none => [0] | some x => 1 :: c.put x
  get b := if byteAt b 0 = 0 then (none, b.drop 1) else let (x, r) := c.get (b.drop 1); (some x, r)

/-- Words of 16 bits: how many, and the words. -/
def wordsC : Codec (List Nat) where
  put l := natC.put l.length ++ l.flatMap (leBytes 2)
  get b :=
    let (n, r) := natC.get b
    let a := r.toArray
    ((List.range (min n a.size)).map (fun i => (a.getD (2 * i) 0).toNat + 256 * (a.getD (2 * i + 1) 0).toNat), r.drop (2 * n))

/-- Three values. -/
def tripleC (a : Codec α) (b : Codec β) (c : Codec γ) : Codec (α × β × γ) := pairC a (pairC b c)

/-- The field of a record that a value holds. -/
structure Part (σ : Type) where
  put : σ → List U8
  get : List U8 → σ → σ × List U8

/-- A field, by how it is read from its record and set in it. -/
def part (c : Codec α) (of : σ → α) (set : α → σ → σ) : Part σ where
  put s := c.put (of s)
  get b s := let (v, r) := c.get b; (set v s, r)

/-- A record: its fields one after the other, read into z. -/
def recordC (z : σ) (ps : List (Part σ)) : Codec σ where
  put s := ps.flatMap (fun p => p.put s)
  get b := ps.foldl (fun e p => p.get e.2 e.1) (z, b)

/-- Fields of every element of a vector. -/
def parts (of : σ → Vector α n) (set : Vector α n → σ → σ) (ps : List (Part α)) : Part σ where
  put s := (of s).toList.flatMap (fun v => ps.flatMap (fun p => p.put v))
  get b s :=
    let e := (List.finRange n).foldl (fun (e : Vector α n × List U8) i =>
      let f := ps.foldl (fun (f : α × List U8) p => p.get f.2 f.1) (e.1[i], e.2)
      (upd e.1 i (fun _ => f.1), f.2)) (of s, b)
    (set e.1 s, e.2)

/-! The records -/

/-- The encoders' settings. -/
def posParts : List (Part Pos) := [
  part natC (·.encMode) (fun v p => { p with encMode := v }),
  part (vecC 2 false boolC) (·.invert) (fun v p => { p with invert := v }),
  part natC (·.countNum) (fun v p => { p with countNum := v }),
  part natC (·.countDen) (fun v p => { p with countDen := v }),
  part natC (·.speedLog2) (fun v p => { p with speedLog2 := v }),
  part natC (·.stallMs) (fun v p => { p with stallMs := v }),
  part natC (·.minSpeed) (fun v p => { p with minSpeed := v }),
  part natC (·.indexPitch) (fun v p => { p with indexPitch := v }),
  part natC (·.indexTol) (fun v p => { p with indexTol := v }),
  part natC (·.encTol) (fun v p => { p with encTol := v }),
  part natC (·.reverseTol) (fun v p => { p with reverseTol := v }),
  part natC (·.lpi) (fun v p => { p with lpi := v })]

/-- Product detect. -/
def sheetParts : List (Part Sheet) := [
  part natC (·.sel) (fun v p => { p with sel := v }),
  part (vecC 2 true boolC) (·.edge) (fun v p => { p with edge := v }),
  part (vecC 2 0 natC) (·.distance) (fun v p => { p with distance := v }),
  part natC (·.debounce) (fun v p => { p with debounce := v }),
  part natC (·.tol) (fun v p => { p with tol := v })]

/-- An entry of the head timing table. -/
def timingC : Codec Timing :=
  viaC (pairC (pairC natC natC) (pairC (pairC natC natC) (vecC 4 0 natC)))
    (fun t => ((t.headOffset, t.fireAdvance), (t.minPeriod, t.rowsM1), t.rowOffset))
    (fun v => ⟨v.1.1, v.1.2, v.2.1.1, v.2.1.2, v.2.2⟩)

/-- The head timing table, the tables waiting for a boundary, and the screening limits. -/
def bankParts : List (Part Banks) :=
  let z : Timing := ⟨0, 0, 1000, 0, Vector.replicate 4 0⟩
  [ part (vecC 40 z timingC) (·.timing) (fun v b => { b with timing := v }),
    part (optC (vecC 40 z timingC)) (·.timingNew) (fun v b => { b with timingNew := v }),
    part boolC (·.timingSet) (fun v b => { b with timingSet := v }),
    part (vecC 40 32767 natC) (·.limit) (fun v b => { b with limit := v }),
    part (vecC 40 none (optC natC)) (·.limitNew) (fun v b => { b with limitNew := v }),
    part (vecC 40 none (optC intC)) (·.hostTrimNew) (fun v b => { b with hostTrimNew := v }) ]

/-- The settings of a head's link (Table 5.12). -/
def linkParts : List (Part HeadLink) := [
  part boolC (·.enable) (fun v l => { l with enable := v }),
  part (bitsC 2) (·.rate) (fun v l => { l with rate := v }),
  part natC (·.nozzles) (fun v l => { l with nozzles := v })]

/-- The drive of a head (Table 6.7). -/
def headDriveParts : List (Part HeadDrive) := [
  part natC (·.waveDelay) (fun v h => { h with waveDelay := v }),
  part (optC natC) (·.waveDelayNew) (fun v h => { h with waveDelayNew := v }),
  part natC (·.senseGain) (fun v h => { h with senseGain := v }),
  part natC (·.senseOffset) (fun v h => { h with senseOffset := v }),
  part natC (·.senseTol) (fun v h => { h with senseTol := v }),
  part natC (·.isenMax) (fun v h => { h with isenMax := v }),
  part natC (·.thermLo) (fun v h => { h with thermLo := v }),
  part natC (·.thermHi) (fun v h => { h with thermHi := v })]

/-- A head supply (Table 6.10). -/
def supplyC : Codec SupplyCfg := recordC ⟨0, 0, 0, 0, 0, 0, 0, false⟩ [
  part natC (·.addr) (fun v s => { s with addr := v }),
  part natC (·.page) (fun v s => { s with page := v }),
  part (bitsC 40) (·.mask) (fun v s => { s with mask := v }),
  part natC (·.order) (fun v s => { s with order := v }),
  part natC (·.onDelay) (fun v s => { s with onDelay := v }),
  part natC (·.pgTimeout) (fun v s => { s with pgTimeout := v }),
  part natC (·.vout) (fun v s => { s with vout := v }),
  part boolC (·.pec) (fun v s => { s with pec := v })]

/-- Rotation, the head supplies and their limits. -/
def driveParts : List (Part Drive) := [
  parts (·.heads) (fun v d => { d with heads := v }) headDriveParts,
  parts (·.groups) (fun v d => { d with groups := v }) [
    part boolC (·.rotate) (fun v g => { g with rotate := v }),
    part natC (·.interval) (fun v g => { g with interval := v })],
  part (listC supplyC) (·.supplies) (fun v d => { d with supplies := v }),
  part natC (·.busRate) (fun v d => { d with busRate := v }),
  parts (·.sup) (fun v d => { d with sup := v }) [
    part (optC natC) (·.voutMax) (fun v s => { s with voutMax := v }),
    part (optC natC) (·.ovLimit) (fun v s => { s with ovLimit := v }),
    part (optC natC) (·.ocLimit) (fun v s => { s with ocLimit := v })]]

/-- cam.config. -/
def camCfgC : Codec CamCfg := recordC {} [
  part natC (·.lanes) (fun v c => { c with lanes := v }),
  part natC (·.laneRate) (fun v c => { c with laneRate := v }),
  part natC (·.dtype) (fun v c => { c with dtype := v }),
  part natC (·.vc) (fun v c => { c with vc := v }),
  part natC (·.width) (fun v c => { c with width := v }),
  part natC (·.bandLines) (fun v c => { c with bandLines := v }),
  part natC (·.trigPitch) (fun v c => { c with trigPitch := v }),
  part natC (·.maxRate) (fun v c => { c with maxRate := v }),
  part natC (·.trigWidth) (fun v c => { c with trigWidth := v }),
  part natC (·.latencyMax) (fun v c => { c with latencyMax := v }),
  part natC (·.strobeDelay) (fun v c => { c with strobeDelay := v }),
  part natC (·.strobeWidth) (fun v c => { c with strobeWidth := v }),
  part natC (·.camOffset) (fun v c => { c with camOffset := v }),
  part natC (·.column0) (fun v c => { c with column0 := v }),
  part natC (·.pixelStep) (fun v c => { c with pixelStep := v }),
  part boolC (·.reversed) (fun v c => { c with reversed := v }),
  part natC (·.mosaic) (fun v c => { c with mosaic := v }),
  part (pairC natC natC) (·.ob) (fun v c => { c with ob := v }),
  part (pairC natC natC) (·.safWhite) (fun v c => { c with safWhite := v }),
  part (pairC natC natC) (·.safBlack) (fun v c => { c with safBlack := v }),
  part boolC (·.cciPort) (fun v c => { c with cciPort := v }),
  part natC (·.cciAddr) (fun v c => { c with cciAddr := v }),
  part natC (·.k) (fun v c => { c with k := v })]

/-- A setting set (R177). -/
def settingSetC : Codec SettingSet := recordC ⟨0, [], [], [], [], []⟩ [
  part (bitsC 32) (·.setId) (fun v s => { s with setId := v }),
  part (listC (tripleC natC natC natC)) (·.writes) (fun v s => { s with writes := v }),
  part (listC natC) (·.wbGain) (fun v s => { s with wbGain := v }),
  part (listC natC) (·.target) (fun v s => { s with target := v }),
  part (listC intC) (·.matrix) (fun v s => { s with matrix := v }),
  part (listC natC) (·.tone) (fun v s => { s with tone := v })]

/-- The focus servo (R189). -/
def focusC : Codec Focus := recordC {} [
  part boolC (·.on) (fun v f => { f with on := v }),
  part natC (·.reg) (fun v f => { f with reg := v }),
  part natC (·.width) (fun v f => { f with width := v }),
  part natC (·.posMin) (fun v f => { f with posMin := v }),
  part natC (·.posMax) (fun v f => { f with posMax := v }),
  part natC (·.step) (fun v f => { f with step := v }),
  part natC (·.dither) (fun v f => { f with dither := v }),
  part natC (·.k) (fun v f => { f with k := v }),
  part (pairC natC natC) (·.zones) (fun v f => { f with zones := v }),
  part intC (·.pos) (fun v f => { f with pos := v }),
  part (optC natC) (·.plus) (fun v f => { f with plus := v }),
  part (optC natC) (·.minus) (fun v f => { f with minus := v }),
  part (listC (tripleC intC natC boolC)) (·.written) (fun v f => { f with written := v })]

/-- Correction tables (Table 7.4). -/
def camTablesC : Codec CamTables :=
  viaC (tripleC wordsC wordsC wordsC) (fun t => (t.black, t.shade, t.defects)) (fun v => ⟨v.1, v.2.1, v.2.2⟩)

/-- The settings and calibration of a camera port, with what waits for a band open; a queued set is read as one whose writes have not begun. -/
def camParts : List (Part Cam) := [
  part camCfgC (·.cfg) (fun v c => { c with cfg := v }),
  part boolC (·.running) (fun v c => { c with running := v }),
  part (optC settingSetC) (·.set) (fun v c => { c with set := v }),
  part boolC (·.accepted) (fun v c => { c with accepted := v }),
  part (optC natC) (·.ctx) (fun v c => { c with ctx := v }),
  part focusC (·.focus) (fun v c => { c with focus := v }),
  part camTablesC (·.tables) (fun v c => { c with tables := v }),
  part intC (·.obRef) (fun v c => { c with obRef := v }),
  part (listC natC) (·.gain) (fun v c => { c with gain := v }),
  part (bitsC 32) (·.calSeq) (fun v c => { c with calSeq := v }),
  part (optC (pairC settingSetC natC)) (fun c => c.queued.map (fun q => (q.set, q.ctx)))
    (fun v c => { c with queued := v.map (fun q => ⟨q.1, q.2, false, none, q.1.writes.length, none⟩) }),
  part (optC camTablesC) (·.tablesNew) (fun v c => { c with tablesNew := v }),
  part natC (·.calNew) (fun v c => { c with calNew := v }),
  part (optC (listC (pairC natC natC))) (·.gainNew) (fun v c => { c with gainNew := v }),
  part (optC (pairC (listC natC) intC)) (·.darkNew) (fun v c => { c with darkNew := v })]

/-- A port number. -/
def portC : Codec Port := viaC natC Fin.val (finOf 4)

/-- A stream or the raw tap (Table 7.5). -/
def streamParts : List (Part Stream) := [
  part boolC (·.enable) (fun v c => { c with enable := v }),
  part portC (·.port) (fun v c => { c with port := v }),
  part natC (·.source) (fun v c => { c with source := v }),
  part natC (·.tapPoint) (fun v c => { c with tapPoint := v }),
  part natC (·.tapEvery) (fun v c => { c with tapEvery := v }),
  part natC (·.x0) (fun v c => { c with x0 := v }),
  part natC (·.width) (fun v c => { c with width := v }),
  part natC (·.y0) (fun v c => { c with y0 := v }),
  part natC (·.height) (fun v c => { c with height := v }),
  part natC (·.scaleX) (fun v c => { c with scaleX := v }),
  part natC (·.scaleY) (fun v c => { c with scaleY := v }),
  part natC (·.format) (fun v c => { c with format := v }),
  part natC (·.ringAddr) (fun v c => { c with ringAddr := v }),
  part natC (·.ringSize) (fun v c => { c with ringSize := v }),
  part natC (·.used) (fun v c => { c with used := v }),
  part natC (·.at_) (fun v c => { c with at_ := v }),
  part natC (·.drop) (fun v c => { c with drop := v })]

/-- The cameras. -/
def camsParts : List (Part Cams) := [
  parts (·.ports) (fun v c => { c with ports := v }) camParts,
  part boolC (·.bandMode) (fun v c => { c with bandMode := v }),
  part natC (·.stripe) (fun v c => { c with stripe := v }),
  part (listC portC) (·.rotation) (fun v c => { c with rotation := v }),
  parts (·.streams) (fun v c => { c with streams := v }) streamParts,
  part natC (·.partialMin) (fun v c => { c with partialMin := v })]

/-- The quality loop. -/
def loopParts : List (Part Loop) := [
  part natC (·.bins) (fun v l => { l with bins := v }),
  part (bitsC 4) (·.portMask) (fun v l => { l with portMask := v }),
  part natC (·.gain) (fun v l => { l with gain := v }),
  part natC (·.sigmaMax) (fun v l => { l with sigmaMax := v }),
  part natC (·.obsRatio) (fun v l => { l with obsRatio := v }),
  part (optC (viaC wordsC (·.map BitVec.toNat) (·.map (BitVec.ofNat 8)))) (·.model) (fun v l => { l with model := v }),
  part (optC (viaC wordsC (·.map BitVec.toNat) (·.map (BitVec.ofNat 8)))) (·.modelNew) (fun v l => { l with modelNew := v }),
  part natC (·.noiseA) (fun v l => { l with noiseA := v }),
  part natC (·.noiseB) (fun v l => { l with noiseB := v }),
  part natC (·.deadMax) (fun v l => { l with deadMax := v }),
  part (pairC natC natC) (·.proxy) (fun v l => { l with proxy := v }),
  part natC (·.workBase) (fun v l => { l with workBase := v }),
  part natC (·.checkPitch) (fun v l => { l with checkPitch := v }),
  part natC (·.checkRun) (fun v l => { l with checkRun := v }),
  part natC (·.checkCode) (fun v l => { l with checkCode := v }),
  part natC (·.checkMissing) (fun v l => { l with checkMissing := v }),
  part natC (·.checkWeak) (fun v l => { l with checkWeak := v }),
  parts (·.colours) (fun v l => { l with colours := v }) [
    part boolC (·.declared) (fun v c => { c with declared := v }),
    part natC (·.node) (fun v c => { c with node := v }),
    part (viaC natC Fin.val (finOf 8)) (·.plane) (fun v c => { c with plane := v }),
    part intC (·.colShift) (fun v c => { c with colShift := v }),
    part natC (·.ampSens) (fun v c => { c with ampSens := v }),
    part boolC (·.enabled) (fun v c => { c with enabled := v })]]

/-- A fabric port. -/
def portParts : List (Part FPort) := [
  part boolC (·.enable) (fun v p => { p with enable := v }),
  part natC (·.rate) (fun v p => { p with rate := v }),
  part intC (·.asym) (fun v p => { p with asym := v }),
  part (vecC 4 0 natC) (·.config) (fun v p => { p with config := v })]

/-- A lane. -/
def laneParts : List (Part Lane) := [
  part boolC (·.enable) (fun v l => { l with enable := v }),
  part natC (·.preset) (fun v l => { l with preset := v }),
  part natC (·.swing) (fun v l => { l with swing := v }),
  part boolC (·.txInv) (fun v l => { l with txInv := v }),
  part boolC (·.rxInv) (fun v l => { l with rxInv := v }),
  part natC (·.idleTime) (fun v l => { l with idleTime := v })]

/-- The thermal thresholds. -/
def thermParts : List (Part Therm) := [
  part intC (·.l1Hi) (fun v t => { t with l1Hi := v }),
  part intC (·.l1Lo) (fun v t => { t with l1Lo := v }),
  part intC (·.l2Hi) (fun v t => { t with l2Hi := v }),
  part intC (·.l2Lo) (fun v t => { t with l2Lo := v }),
  part natC (·.slowPct) (fun v t => { t with slowPct := v })]

/-- The memory's point, weights, threshold and scrub. -/
def dramParts : List (Part Dram) := [
  part natC (·.point.val) (fun v m => { m with point := finOf 3 v }),
  part (vecC 10 0 natC) (·.weights) (fun v m => { m with weights := v }),
  part natC (·.threshold) (fun v m => { m with threshold := v }),
  part natC (·.scrubHours) (fun v m => { m with scrubHours := v }),
  part boolC (·.scrubOn) (fun v m => { m with scrubOn := v })]

/-- A CRC unit. -/
def crcParts : List (Part CrcUnit) := [
  part boolC (·.enabled) (fun v u => { u with enabled := v }),
  part natC (·.attach) (fun v u => { u with attach := v }),
  part natC (·.lane) (fun v u => { u with lane := v }),
  part natC (·.base) (fun v u => { u with base := v }),
  part natC (·.size) (fun v u => { u with size := v }),
  part (bitsC 5) (·.sources) (fun v u => { u with sources := v }),
  part (bitsC 4) (·.vcs) (fun v u => { u with vcs := v }),
  part (bitsC 32) (·.types) (fun v u => { u with types := v }),
  part natC (·.width) (fun v u => { u with width := v }),
  part (bitsC 64) (·.poly) (fun v u => { u with poly := v }),
  part (bitsC 64) (·.init) (fun v u => { u with init := v }),
  part boolC (·.invert) (fun v u => { u with invert := v }),
  part boolC (·.reflIn) (fun v u => { u with reflIn := v }),
  part boolC (·.reflOut) (fun v u => { u with reflOut := v }),
  part natC (·.fold) (fun v u => { u with fold := v }),
  part (bitsC 32) (·.foldSeq) (fun v u => { u with foldSeq := v }),
  part (bitsC 64) (·.raw) (fun v u => { u with raw := v }),
  part (bitsC 64) (·.bytes) (fun v u => { u with bytes := v }),
  part (bitsC 64) (·.segments) (fun v u => { u with segments := v }),
  part (bitsC 32) (·.seq) (fun v u => { u with seq := v })]

/-- A unit of the device, by the fields of it that are settings. -/
def unitPart (of : Device → σ) (set : σ → Device → Device) (ps : List (Part σ)) : Part Device where
  put d := ps.flatMap (fun p => p.put (of d))
  get b d := let e := ps.foldl (fun (e : σ × List U8) p => p.get e.2 e.1) (of d, b); (set e.1 d, e.2)

/-- Section 2: the declared job store, then the settings unit by unit (R313, R316). -/
def settingParts : List (Part Device) := [
  part natC (·.mbx.storeBase) (fun v d => { d with mbx := { d.mbx with storeBase := v } }),
  part natC (·.mbx.storeSize) (fun v d => { d with mbx := { d.mbx with storeSize := v } }),
  unitPart (·.pos) (fun v d => { d with pos := v }) posParts,
  unitPart (·.sheet) (fun v d => { d with sheet := v }) sheetParts,
  part (bitsC 40) (·.fire.inhibit) (fun v d => { d with fire := { d.fire with inhibit := v } }),
  unitPart (·.banks) (fun v d => { d with banks := v }) bankParts,
  parts (·.links) (fun v d => { d with links := v }) linkParts,
  part boolC (·.chip.headSafeSet) (fun v d => { d with chip := { d.chip with headSafeSet := v } }),
  unitPart (·.drive) (fun v d => { d with drive := v }) driveParts,
  unitPart (·.cams) (fun v d => { d with cams := v }) camsParts,
  unitPart (·.loop) (fun v d => { d with loop := v }) loopParts,
  parts (·.fabric.ports) (fun v d => { d with fabric := { d.fabric with ports := v } }) portParts,
  parts (·.lanes) (fun v d => { d with lanes := v }) laneParts,
  part boolC (·.pwr.idleOn) (fun v d => { d with pwr := { d.pwr with idleOn := v } }),
  unitPart (·.therm) (fun v d => { d with therm := v }) thermParts,
  unitPart (·.dram) (fun v d => { d with dram := v }) dramParts,
  parts (·.crcs) (fun v d => { d with crcs := v }) crcParts,
  part natC (·.acct.noticePitch) (fun v d => { d with acct := { d.acct with noticePitch := v } })]

/-- The image of section 2 (Table 13.2). -/
def settingsBytes (d : Device) : List U8 := settingParts.flatMap (fun p => p.put d)

/-- A device with the settings of an image of section 2. -/
def settingsOf (b : List U8) : Device := (settingParts.foldl (fun (e : Device × List U8) p => p.get e.2 e.1) ({}, b)).1

end Sys2Proof.Machine
end

