-- ==== Sys2Proof/Machine/Snap.lean ====
section
/-! DEFINITION. Saved state and the job mirror on the active unit of a pair (R313 to R318): what the sections hold, taking a snapshot,
and sending the mirror. The byte layouts of the sections are this model's (log entry 40). -/

namespace Sys2Proof.Machine

/-! Paths to the standby (R317) -/

/-- The node of the peer: from its role assignment or BULK frames, or the root's own record of its UID. -/
def peerNode (d : Device) : Option U8 :=
  match d.fabric.peerNode with
  | some n => some n
  | none =>
    match d.red.pair with
    | some p => (d.fabric.members.find? (fun m => m.join.uid == p.peer && m.node != 0)).map (fun m => BitVec.ofNat 8 m.node)
    | none => none

/-- Where saved state and the mirror travel (R317). -/
inductive SavePath where
  | wl
  | node (n : U8)
  | none
  deriving DecidableEq, Repr

/-- WL while it is up and not silent; else the fabric while it has a route to the peer (R317, R326). -/
def pathOf (d : Device) : SavePath :=
  if waggleUp d && d.red.wlLive then .wl
  else match peerNode d with
    | some n => if (routePort d n.toNat).isSome then .node n else .none
    | none => .none

/-! Sections (Table 13.2) -/

/-- MIRRORED_THROUGH of a job (R316). -/
def mirroredOf (d : Device) (id : JobKey) : Nat := match d.red.mirrored.find? (fun e => e.1 == id) with | some e => e.2 | none => 0

/-- A job as section 0 holds it: JOB_ID, state, descriptor address, VALID_THROUGH, MIRRORED_THROUGH, FEED_WARN. -/
def jobBytes (d : Device) (j : Option Job) : List U8 :=
  match j with
  | none => leBytes 4 0 ++ [4, 0, 0, 0] ++ List.replicate 20 0
  | some j => leBytes 4 j.desc.jobId.toNat ++ [BitVec.ofNat 8 (jobStateNum (some j)), 0, 0, 0] ++ leBytes 8 j.addr
      ++ leBytes 4 j.validThrough ++ leBytes 4 (mirroredOf d j.desc.key) ++ leBytes 4 j.feedWarn

/-- The image that a shadow bank holds or is being loaded with. -/
def pendingImage (d : Device) (b : Bank) (r : LoadReq) : List U8 := if b.loaded then memRead b.shadow 0 r.len else dramRead d r.addr r.len

/-- What an image pending under sub.load serves, as section 0 holds it: 0 none, 1 APPLY = JOB, 2 APPLY = REPEAT. One still being loaded is pending too,
unless its check fails (R82, log entry 40). -/
def pendingKind (d : Device) (b : Bank) : Nat :=
  match b.pending with
  | some r =>
    if !b.loaded && ((poisonIn d r.addr r.len).isSome || crc32c (pendingImage d b r) != r.crc) then 0
    else if r.what == .hostJob then 1 else if r.what == .hostRepeat then 2 else 0
  | none => 0

/-- Section 0, POSITION: the jobs, the boundary, the comb and substitution banks' lengths, and the job that still prints behind the last change
(R335, log entry 84). -/
def positionBytes (d : Device) : List U8 :=
  let j := d.jobs
  let sub := getBank d .sub
  let kind := pendingKind d sub
  jobBytes d j.running ++ jobBytes d j.staged ++ leBytes 4 j.begun ++ leBytes 4 j.rep ++ leBytes 8 j.repStart.toNat
    ++ leBytes 4 j.firstLine ++ leBytes 4 j.repPitch
    ++ [BitVec.ofNat 8 (match j.change with | some c => c.postponements | none => 0), BitVec.ofNat 8 (b2n j.boundaries), BitVec.ofNat 8 kind, 0]
    ++ leBytes 8 (match j.change with | some c => c.w.toNat | none => 0) ++ leBytes 4 d.sheet.number.toNat
    ++ leBytes 4 (getBank d .comb).activeSet.toNat ++ leBytes 4 sub.activeSet.toNat ++ leBytes 4 sub.activeLen
    ++ leBytes 4 (match sub.pending with | some r => if kind = 0 then 0 else r.len | none => 0)
    ++ (match j.outgoing with
      | some o => leBytes 4 1 ++ leBytes 8 o.addr ++ leBytes 4 j.outLast.1 ++ leBytes 8 j.outLast.2.1 ++ leBytes 4 j.outLast.2.2.1
          ++ leBytes 8 j.outLast.2.2.2
      | none => List.replicate 36 0)

/-- Section 1, EPOCH: the epoch, the pair's fabric roles and the deputy's node. -/
def epochBytes (d : Device) : List U8 :=
  leBytes 4 d.red.epoch.toNat
    ++ [BitVec.ofNat 8 (b2n (d.pos.role == .master) + 2 * b2n (d.pos.role == .deputy) + 4 * b2n d.mbx.measuring + 8 * b2n d.mbx.hostEvents),
        match d.fabric.holders[1] with | some h => h.node | none => 0, 0, 0]

/-- Section 4, SUB: the active bank and an image pending under sub.load. -/
def subBytes (d : Device) : List U8 :=
  let b := getBank d .sub
  memRead b.active 0 b.activeLen ++ (match b.pending with
    | some r => if pendingKind d b = 0 then [] else pendingImage d b r
    | none => [])

/-- Section 5, LOOP: the bank, both trims, and the applied GEN of each plane's colour (R215). -/
def loopBytes (d : Device) : List U8 :=
  (List.range 61440).flatMap (fun k => leInt 2 (iGet d.banks.loop k)) ++ d.banks.loopTrim.toList.flatMap (leInt 2)
    ++ d.banks.hostTrim.toList.flatMap (leInt 2) ++ d.loop.owner.toList.flatMap (fun o => leBytes 4 o.gen.toNat)

/-- FIRED_ROWS of a head's latest REPORT. -/
def rowsAt (d : Device) (h : Head) : Nat := match d.links[h].report with | some c => leAt c.payload 4 6 | none => 0

/-- Section 6, DROPS. -/
def dropBytes (d : Device) : List U8 :=
  (List.range 245760).flatMap (fun k => leInt 8 (iGet d.fire.drops k)) ++ (List.finRange 40).flatMap (fun h => leBytes 8 (rowsAt d h))

/-- Section 7, SCREEN: error line buffers and LFSR states; before the job's first line the generator stands at SEED (R73). -/
def screenBytes (d : Device) : List U8 :=
  (List.finRange 40).flatMap (fun h => (List.range 6144).flatMap (fun n => leInt 3 (iGet d.engines[h].err n)))
    ++ (List.finRange 40).flatMap (fun h => leBytes 4 (if d.engines[h].fresh then seedOf d h else d.engines[h].lfsr).toNat)

/-- A number as its length in bytes and its bytes. -/
def natBytes (v : Nat) : List U8 := let n := v.log2 / 8 + 1; leBytes 2 n ++ leBytes n v

/-- A fraction as its sign, numerator and denominator. -/
def ratBytes (q : Rat) : List U8 := BitVec.ofNat 8 (b2n (decide (q.num < 0))) :: natBytes q.num.natAbs ++ natBytes q.den

/-- A colour in section 8: GEN, c, LOOP_TRIM and the trim targets (R215), and the newest span record, with which the loop goes on (log
entry 78). -/
def colourBytes (c : Colour) : List U8 :=
  leBytes 4 c.gen.toNat ++ (List.range 23622).flatMap (fun b => leInt 2 (iGet c.c b)) ++ c.trim.toList.flatMap (leInt 2)
    ++ c.tau.toList.flatMap ratBytes ++ (match c.span with | some r => 1 :: spanBytes r | none => [0])

/-- Section 8, LOOP_NODE (R215). -/
def loopNodeBytes (d : Device) : List U8 := d.loop.colours.toList.flatMap colourBytes

/-- A section's bytes. -/
def sectionBytes (d : Device) (k : Nat) : List U8 :=
  match k with
  | 0 => positionBytes d
  | 1 => epochBytes d
  | 2 => settingsBytes d
  | 3 => memRead (getBank d .comb).active 0 983040
  | 4 => subBytes d
  | 5 => loopBytes d
  | 6 => dropBytes d
  | 7 => screenBytes d
  | _ => loopNodeBytes d

/-- Sections of a snapshot (Table 13.2): every one, or those that a delta carries; LOOP_NODE on the measuring node only. -/
def sectionsOf (d : Device) (full : Bool) : List Nat :=
  [0, 1] ++ (if full || d.red.dirty.getLsbD 0 || settingsBytes d != d.red.config then [2] else []) ++ (if full || d.red.dirty.getLsbD 1 then [3] else [])
    ++ (if full || d.red.dirty.getLsbD 2 then [4] else []) ++ [5, 6, 7] ++ (if d.mbx.measuring then [8] else [])

/-! Pieces (Table 13.3) -/

/-- A piece's bytes. -/
def pieceBytes (p : StatePiece) : List U8 :=
  [BitVec.ofNat 8 (p.sect.toNat + 16 * b2n p.full), 0, 0, 0] ++ leBytes 4 p.snap.toNat ++ leBytes 4 p.offset.toNat
    ++ leBytes 4 p.data.length ++ p.data

/-- The first piece of a message's bytes. Reserved bits are ignored (R11). -/
def readPiece (b : List U8) : StatePiece :=
  { sect := BitVec.ofNat 4 (byteAt b 0), full := bitOf (byteAt b 0) 4, snap := w32 (leAt b 4 4), offset := w32 (leAt b 8 4)
    data := (b.drop 16).take (leAt b 12 4) }

/-- The pieces of a message, at most `fuel`, and whether its bytes are pieces throughout (R315). -/
def readPieces : Nat → List U8 → List StatePiece × Bool
  | 0, b => ([], b.isEmpty)
  | fuel + 1, b =>
    if b.isEmpty then ([], true)
    else if b.length < 16 ∨ b.length < 16 + leAt b 12 4 then ([], false)
    else
      let (ps, whole) := readPieces fuel (b.drop (16 + leAt b 12 4))
      (readPiece b :: ps, whole)

/-- Most data bytes of one piece, so that its dictionary message fits a frame of either path. -/
def pieceData : Nat := 1000

/-- The pieces of one section; a section without bytes has one piece without data. -/
def sectionPieces (full : Bool) (snap : U32) (k : Nat) (bs : List U8) : List StatePiece :=
  (List.range (max 1 ((bs.length + pieceData - 1) / pieceData))).map (fun i =>
    { sect := BitVec.ofNat 4 k, full := full, snap := snap, offset := w32 (pieceData * i), data := (bs.drop (pieceData * i)).take pieceData })

/-- The commit piece: BASE_SNAP, SECTION_MASK, PIECES, the boundary's WPOS and the repeat number. -/
def commitPiece (full : Bool) (snap base : U32) (mask pieces : Nat) (wpos : U64) (rep : Nat) : StatePiece :=
  { sect := 15, full := full, snap := snap, offset := 0
    data := leBytes 4 base.toNat ++ leBytes 2 mask ++ [0, 0] ++ leBytes 4 pieces ++ [0, 0, 0, 0] ++ leBytes 8 wpos.toNat ++ leBytes 4 rep
      ++ [0, 0, 0, 0] }

/-- The boundary WPOS of a snapshot: where the present repeat started; while no job runs, the WPOS at which it is taken (R314). -/
def snapWpos (d : Device) : U64 := if jobRunning d then d.jobs.repStart else d.pos.wpos

/-- Every piece of a snapshot, the commit piece last. -/
def piecesOf (d : Device) (full : Bool) (snap base : U32) : List StatePiece :=
  let ks := sectionsOf d full
  let ps := ks.flatMap (fun k => sectionPieces full snap k (sectionBytes d k))
  ps ++ [commitPiece full snap base ((ks.map (2 ^ ·)).sum) ps.length (snapWpos d) d.jobs.rep]

/-! Taking a snapshot -/

/-- STATE frames of the last snapshot wait to be sent (R314). -/
def stateWaits (d : Device) : Bool :=
  d.cz.held.any (fun m => m.cls == 1) || match pathOf d with
  | .wl => d.red.waiting.any (fun f => f.1 == 4)
  | .node n => match routePort d n.toNat with | some p => d.fabric.ports[p].waiting.any (fun f => f.1.msgType == 0x0051) | none => false
  | .none => false

/-- One piece sent as a dictionary message of class 1 (R315, R317). -/
def sendPiece (d : Device) (p : StatePiece) : Device :=
  let snap := if p.sect == 15 then some p.snap else none
  match pathOf d with
  | .wl => streamSend 255 1 (pieceBytes p) snap d
  | .node n => streamSend n 1 (pieceBytes p) snap d
  | .none => d

/-- The peer of the stream of saved state. -/
def savePeer (d : Device) : U8 := match pathOf d with | .node n => n | _ => 255

/-- A snapshot of the device as it stands (R313 to R315). A full one begins its stream anew. -/
def takeSnapshot (full : Bool) (d : Device) : Device :=
  let n := d.red.snap + 1
  let base := if full then n else d.red.fullSnap
  let ps := piecesOf d full n base
  let d := if full then modEnc (savePeer d) 1 (fun s => { s with resetNext := true }) d else d
  let d := ps.foldl sendPiece d
  modRed d (fun r => { r with
    snap := n, fullSnap := base, lastSnap := some (d.pos.wpos, d.chip.qtime), lastFull := if full then some d.chip.qtime else r.lastFull
    fullDue := r.fullDue && !full, dirty := 0, config := settingsBytes d })

/-- The unit sends saved state: ACTIVE in a pair, with a path, and no frames of the previous snapshot waiting. -/
def saves (d : Device) : Bool := paired d && d.red.role == .active && pathOf d != .none && !stateWaits d

/-- The next snapshot is a full one: asked for, the first, or 10 s after the last (R314). -/
def fullNext (d : Device) : Bool :=
  d.red.fullDue || (match d.red.lastFull with | some t => decide (t + 40000000000 ≤ d.chip.qtime) | none => true)

/-- The snapshot of a repeat boundary: at least 20 ms after that of the last (R314). -/
def snapshotAtBoundary (d : Device) : Device :=
  let due := match d.red.lastSnap with | some (_, t) => decide (t + 80000000 ≤ d.chip.qtime) | none => true
  if saves d && (due || d.red.fullDue) then takeSnapshot (fullNext d) d else d

/-! The mirror (R316) -/

/-- The part of a logged range that is sent, on 4-byte boundaries inside the job store: its address and length. -/
def mirrorSpan (d : Device) (e : Nat × Nat) : Nat × Nat :=
  let lo := max d.mbx.storeBase (e.1 / 4 * 4)
  let hi := min (d.mbx.storeBase + d.mbx.storeSize) ((e.1 + e.2 + 3) / 4 * 4)
  (lo, hi - lo)

/-- One MIRROR frame of the oldest range not wholly sent, while its path takes it; whether it went on. A frame of poisoned data is not sent, and its
part of the range counts with the frame before it (Table 10.2, log entry 88). -/
def mirrorStep (d : Device) : Bool × Device :=
  match d.red.mirrorRing[d.red.mirrorMarks.length]? with
  | none => (false, d)
  | some e =>
    let (a, n) := mirrorSpan d e
    let at_ := a + d.red.mirrorAt
    let k := min 2040 (n - d.red.mirrorAt)
    let last := decide (n ≤ d.red.mirrorAt + k)
    let bytes := leBytes 8 at_ ++ dramRead d at_ k
    let mark := fun (m : Nat) (d : Device) => modRed d (fun r =>
      if last then { r with mirrorMarks := r.mirrorMarks ++ [m], mirrorAt := 0 } else { r with mirrorAt := r.mirrorAt + k })
    let bad := (poisonIn d at_ k).isSome
    match pathOf d with
    | .wl =>
      if bad then (true, mark (d.red.txSeq - 1).toNat (dramSee at_ k d))
      else if d.red.waiting.isEmpty && wagFits d bytes then (true, wagSeq 5 bytes (mark d.red.txSeq.toNat (dramSee at_ k d))) else (false, d)
    | .node dest =>
      match routePort d dest.toNat with
      | some p =>
        if bad then (true, mark ((takeSrcSeq .bulk dest d).1 - 1).toNat (dramSee at_ k d))
        else if 20 + (bytes.length + 3) / 4 * 4 ≤ portRoom d.fabric.ports[p] then
          let seq := (takeSrcSeq .bulk dest d).1
          (true, (sendTo .bulk false dest 0x0050 bytes (mark seq.toNat (dramSee at_ k d))).2)
        else (false, d)
      | none => (false, d)
    | .none => (false, d)

/-- The mirror sent as far as its path takes it, at most `fuel` frames. -/
def mirrorRun : Nat → Device → Device
  | 0, d => d
  | fuel + 1, d => match mirrorStep d with | (true, d) => mirrorRun fuel d | (false, d) => d

/-- MIRROR_SEND (R316). -/
def pumpMirror (d : Device) : Device :=
  if paired d && d.red.role == .active && !holdsRequests d then mirrorRun 64 d else d

/-- Saved state and the mirror change over between WL and the fabric (R317): the new path begins with a full snapshot and a full mirror
pass; without a path the unit is STALE. -/
def refreshPath (d : Device) : Device :=
  if paired d && d.red.role == .active then
    match pathOf d with
    | .none => modRed d (fun r => { r with stale := true })
    | .node _ =>
      if d.red.viaFabric && !d.red.stale then d
      else pumpMirror (mirrorPass (modRed d (fun r => { r with viaFabric := true, stale := false, fullDue := true, snapMarks := [] })))
    | .wl =>
      if !d.red.viaFabric && !d.red.stale then d
      else pumpMirror (mirrorPass (modRed d (fun r => { r with viaFabric := false, stale := false, fullDue := true, snapMarks := [] })))
  else d

/-- A snapshot is acknowledged by the standby (R317, R333): its age restarts. -/
def snapAcked (n : U32) (d : Device) : Device :=
  if d.red.acked == some n then d else modRed d (fun r => { r with acked := some n, ackedAt := some d.chip.qtime })

end Sys2Proof.Machine
end

