-- ==== Sys2Proof/Machine/Boundary.lean ====
section
/-! DEFINITION. Boundaries: the change WPOS (R56 to R58), repeat and sheet boundaries (R32, R34, R47 to R50), band boundaries (R20, R21,
R176), and the swaps, latches and snapshots that fall on them. -/
namespace Sys2Proof.Machine

/-! What every boundary does -/

/-- The pending head timing table takes effect, and span records follow it (R98, R200). -/
def swapTiming (d : Device) : Device :=
  if d.banks.timingNew.isSome then sendSpans false (takeTiming d) else d

/-- A head whose MODE the swaps of a boundary changed begins with a zero error line buffer (R74). -/
def clearModes (was d : Device) : Device :=
  { d with engines := updAll d.engines (fun h e =>
    if (dirOf (getBank was .thresh).active h.val).mode == (dirOf (getBank d .thresh).active h.val).mode then e else { e with err := [] }) }

/-- Heads whose new pulse maps were not acknowledged: their lines of this repeat are late (R126). -/
def headLate (d : Device) (h : Head) : Bool := d.links[h].mapsDue

/-- The segment of a repeat given to a head; one that began ahead of its boundary is marked when the repeat is late, and a head that waited
for its resume repeat has it (R96, R329). -/
def giveSeg (j : JobDesc) (n start base : Nat) (late : Bool) (notice : Option Nat) (d : Device) (h : Head) : Device :=
  let late := late || headLate d h
  let ahead := d.fire.cursor[h].ahead == some (j.key, n)
  let waits := d.red.resume.any (fun e => e.1 == h)
  if ahead then
    let d := if waits then modRed d (fun r => { r with
        resume := r.resume.filter (fun e => e.1 != h), resumeLines := r.resumeLines ++ [(h, base, firePos d h start 0 0)] }) else d
    modCursor d h (fun c => {
      segs := c.segs.map (fun g => if g.job == j.key && g.rep == n then { g with late := g.late || late } else g), ahead := none })
  else
    match mkSeg d j n start base h late notice with
    | none => d
    | some g =>
      let d := if waits then modRed d (fun r => { r with
          resume := r.resume.filter (fun e => e.1 != h), resumeLines := r.resumeLines ++ [(h, base, firePos d h start 0 0)] }) else d
      modCursor d h (fun c => { segs := c.segs ++ [g], ahead := none })

/-- What no head needs any more of repeats past: descriptors, tiles and NO_DATA marks of repeats that no segment names and that lie before
the present one. -/
def prunePast (d : Device) : Device :=
  let used := fun (id : JobKey) (n : Nat) =>
    d.fire.cursor.toList.any (fun c => c.segs.any (fun g => g.job == id && g.rep == n && decide (g.j < g.lines + g.strips)))
      || (match d.jobs.running with | some j => j.desc.key == id && decide (d.jobs.begun ≤ n) | none => false)
      || (match d.jobs.staged with | some j => j.desc.key == id | none => false)
  let work := d.feed.tileWork.filter (fun t => used t.1.job t.1.rep)
  let same := work.head? == d.feed.tileWork.head?
  { d with
    feed := { d.feed with
      descs := d.feed.descs.filter (fun e => used e.1 e.2.1), tiles := d.feed.tiles.filter (fun t => used t.job t.rep)
      tileWork := work, tilePlace := if same then d.feed.tilePlace else {}, tileHeld := d.feed.tileHeld && !work.isEmpty
      noData := d.feed.noData.filter (fun e => used e.1 e.2)
      due := d.feed.due.filter (fun e => (d.jobs.running.toList ++ d.jobs.staged.toList).any (fun j => j.desc.key == e.1)
        || d.jobs.outgoing.any (fun j => j.desc.key == e.1)) }
    fire := { d.fire with cursor := d.fire.cursor.map (fun c => { c with segs := c.segs.filter (fun g => decide (g.j < g.lines + g.strips)) }) } }

/-- The checkpoint and the snapshot that wait for a boundary (R314, R401). -/
def captureAt (d : Device) : Device :=
  let d := if d.nv.due && mayCapture d then captureCheckpoint d else d
  pumpMirror (snapshotAtBoundary d)

/-! The change WPOS -/

/-- The error line buffers and noise generators at the change WPOS (R73, R74). Lines of the outgoing job that a head screens later advance the
generator, so it starts from SEED again with the new job's first line. -/
def seedEngines (d : Device) : Device := { d with engines := updAll d.engines (fun h e => { e with err := [], lfsr := seedOf d h, fresh := true }) }

/-- RESET_LOOP: loop corrections, LOOP_TRIM and the applied GEN become 0 (Table 2.9, Table 8.3). DESIGN CHOICE: of the amplitude trim of R50 the
host's share, HOST_TRIM, carries over all the same (log entry 97). -/
def resetLoop (d : Device) : Device :=
  { d with banks := { d.banks with loop := [], loopTrim := Vector.replicate 40 0 }
           loop := { d.loop with owner := mapAll d.loop.owner (fun o => { o with gen := 0 }) } }

/-- Lines of the outgoing job stay before a position; what it had begun at or beyond it is dropped, and what was screened of it (R57). -/
def cutOutgoing (start : Nat) (d : Device) : Device :=
  let gone := fun (h : Head) (job : JobKey) (line : Nat) =>
    d.fire.cursor[h].segs.any (fun g => decide (start ≤ g.start) && g.job == job && decide (g.base ≤ line ∧ line < g.base + g.lines + g.strips))
  { d with
    fire := { d.fire with cursor := d.fire.cursor.map (fun c => { segs := c.segs.filter (fun g => decide (g.start < start)), ahead := none }) }
    engines := updAll d.engines (fun h e => { e with
      buf := e.buf.filter (fun b => !gone h b.job b.line), skips := e.skips.filter (fun x => !gone h x.1 x.2.1) }) }

/-- The outgoing job's contone supplies, for the division of the rings, and its repeats before the boundary (R429); those of a job that has
ended stay while a head has lines of it to screen. -/
def noteSupply (outEnd : Nat) (d : Device) : Device :=
  match runningDesc d with
  | some o => { d with feed := { d.feed with
      outSupply := Vector.ofFn (fun k => planeSupply d o k.val), outEnd := if d.jobs.lost then 0 else outEnd } }
  | none =>
    if (List.finRange 8).any (outgoingLeft d) then d
    else { d with feed := { d.feed with outSupply := Vector.replicate 8 0, outEnd := 0 } }

/-- The repeats of the running job before its change. -/
def repeatsBefore (d : Device) : Nat := ((runningDesc d).bind (outLimit d)).getD 0

/-- The running job becomes the outgoing one at a boundary (R34, R57); an ended one already is. -/
def leaveRunning (at_ : Nat) (j : Jobs) : Jobs :=
  match j.running with
  | some r =>
    if r.state == .running then { j with outgoing := some r, outLast := (j.begun, j.repStart.toNat, j.firstLine, at_) } else { j with outgoing := some r }
  | none => j

/-- Fire inhibit held over a lost change or a promotion ends for the heads that nothing else inhibits. -/
def liftLost (d : Device) : Device :=
  if d.jobs.lost then
    (List.finRange 40).foldl (fun d h => if d.links[h].state == .present && !inhibited d h then sendInhibit h false d else d)
      { d with jobs := { d.jobs with lost := false, masterJob := none } }
  else d

/-- Images that the host loaded for the next repeat boundary are swapped in (R83, R149). A waveform image whose pulse maps are not acknowledged
is late: the old banks stay active and the swap is attempted at the next boundary (R49, R126). -/
def swapHost (d : Device) : Bool × Device :=
  let late := loadedFor d (· == .hostRepeat) .wave && !mapsReady d
  (late, allTbls.foldl (fun d t => if loadedFor d (· == .hostRepeat) t && !(late && t == .wave) then swapTable t d else d) d)

/-- One table set of a repeat swapped in, when it is complete (R49). -/
def swapSet (d : Device) (s : JobKey × Nat × List LoadReq) : Device :=
  if setLoaded d s.2.2 then
    s.2.2.foldl (fun d r => swapTable r.tbl d) { d with banks := { d.banks with sets := d.banks.sets.erase s } }
  else d

/-- The table set of repeat n, and those of earlier repeats that were late, swapped in as far as they are complete; late while one is not (R49):
then the old banks stay active, EV_TABLE_LATE is raised, and a failed load is asked for again. -/
def swapRepeat (j : JobDesc) (n : Nat) (d : Device) : Bool × Device :=
  let mine : JobKey × Nat × List LoadReq → Bool := fun s => s.1 == j.key && decide (s.2.1 ≤ n)
  let d := if d.feed.noData.contains (j.key, n) then d else loadRepeatSet j n d
  let d := (d.banks.sets.filter mine).foldl swapSet d
  let left := d.banks.sets.filter mine
  if left.isEmpty then (false, d) else (true, raise .tableLate [] (left.foldl (fun d s => askAgain s.2.2 d) d))

/-- The position from which a device prints no line of the outgoing job at a change: W, also where it resumes at a later boundary (R57). -/
def changeCut (start : Nat) (d : Device) : Nat := match d.jobs.change with | some c => min c.w.toNat start | none => start

/-- The job `x` becomes the running one with repeat n at `start`, whose line 0 has number `base`. -/
def installJob (x : Job) (n start base : Nat) (d : Device) : Device :=
  let opened := (d.sheet.opened.filter (fun o => decide (start < o.1.toNat))).zipIdx.map (fun e => (e.1.1, w32 (n + 1 + e.2), e.1.2.2))
  { d with
    jobs := { leaveRunning (changeCut start d) d.jobs with
      running := some { x with state := .running }, staged := none, change := d.jobs.nextChange, nextChange := none
      rep := if x.desc.cycle then n % max 1 x.desc.repeatCount else n
      begun := n, repStart := BitVec.ofNat 64 start, repPitch := (repDesc d x.desc n).pitch, firstLine := base
      boundaries := !x.desc.sheet, stopAt := none, tableLate := false }
    sheet := { d.sheet with opened := opened, number := w32 (n + 1 + opened.length) }
    links := mapAll d.links (fun l => { l with lastLine := 0 })
    feed := { d.feed with first := n }
    red := { d.red with resume := [] } }

/-- The flying job change at a boundary (R47, R50, R58): banks, then images that the host loaded for a boundary (Table 3.9), sets, line numbers,
and the first repeat. -/
def doChange (x : Job) (n start base : Nat) (d : Device) : Device :=
  let was := d
  let d := dropSets (noteSupply (repeatsBefore d) d)
  let d := allTbls.foldl (fun d t => if loadedFor d (fun p => p == .job || p == .hostJob) t then swapTable t d else d) d
  let (hostLate, d) := swapHost d
  let d := if d.mbx.measuring then swapModel d else d
  let d := latchPeriod 1 (w32 d.jobs.begun) 0 d
  let d := latchPeriod 2 (match was.jobs.running with | some j => j.desc.jobId | none => 0) 0 d
  let d := failCaptures (fun _ _ _ => true) .jobEnded d
  let d := if x.desc.resetLoop then resetLoop d else d
  let d := installJob x n start base (cutOutgoing (changeCut start d) d)
  let d := takeTiming (clearModes was (trimAll (applyCorrections d)))
  let d := sendSpans x.desc.resetLoop (seedEngines (lateMaps d))
  let d := liftLost d
  let d := if (planedHeads x.desc).any (headLate d) || hostLate then raise .tableLate [] d else d
  let (setLate, d) := swapRepeat x.desc n d
  let late := hostLate || setLate
  let d := { d with jobs := { d.jobs with tableLate := late } }
  let notice := if x.desc.sheet then (was.sheet.opened.find? (fun o => o.1.toNat == start)).map (fun o => o.2.2.toNat) else none
  let d := startRuns x.desc (runOf d x.desc n start base) d
  let d := (planedHeads x.desc).foldl (giveSeg x.desc n start base late notice) d
  captureAt (prunePast (raise .jobChanged [] (noteReleased (nextSet x n d))))

/-- A device that holds go without the proof at W fires neither job (R57). -/
def loseChange (d : Device) : Device :=
  let d := { d with jobs := { d.jobs with lost := true, masterJob := none } }
  let d := (List.finRange 40).foldl (fun d h => if d.links[h].state == .present then sendInhibit h true d else d) d
  raise .jobChangeLost [] d

/-- CHANGE_WPOS (R56, R103): the high-water WPOS reaches the change start of a device that holds go. -/
def execChangeWpos (s : State) : Host.Outcome State Fault Refusal :=
  let d := s.dev
  match d.jobs.change with
  | none => next s d
  | some c =>
    match changeStart d c with
    | none => next s d
    | some w =>
      if !posOn d || !active d || !reached d w || !c.go || d.jobs.lost then next s d
      else match d.jobs.staged.filter (fun j => j.desc.jobId == c.jobId), c.proof with
        | some x, true => next s (doChange x 0 w 0 d)
        | _, _ => next s (loseChange d)

/-! Repeat and sheet boundaries -/

/-- A change with go takes place at or before a position. -/
def changeTakes (d : Device) (start : Nat) : Bool :=
  match d.jobs.change with
  | some c => c.go && !d.jobs.lost && (match changeStart d c with | some w => decide (w ≤ start) | none => false)
  | none => false

/-- The next boundary: the number of the repeat that begins there, its start and for a sheet the high-water WPOS of its notice. -/
def nextBoundary (d : Device) : Option (Nat × Nat × Option Nat) :=
  match d.jobs.running with
  | none => none
  | some j =>
    if j.state != .running && j.desc.sheet then none else boundaryAhead d j.desc

/-- The boundary's handover drill, which waited for the running job to end with none scheduled (R337). -/
def drillAtEnd (d : Device) : Device :=
  if d.red.drill == some false && !jobScheduled d then
    let d := takeSnapshot true d
    sendHandover (modRed d (fun r => { r with drill := some true, handover := some r.snap }))
  else d

/-- The running job ends at a boundary; in web mode boundaries go on (R34). Heads behind it still print its last lines, which the feed goes on
to fetch. -/
def endAtBoundary (x : Job) (start : Nat) (d : Device) : Device :=
  let d := failCaptures (fun _ _ _ => true) .jobEnded (dropSets (cutOutgoing start (noteSupply (d.jobs.begun + 1) d)))
  drillAtEnd { d with jobs := { leaveRunning start d.jobs with
    running := some { x with state := .ended }, stopAt := none, boundaries := !x.desc.sheet, repStart := BitVec.ofNat 64 start } }

/-- Repeat n of the running job begins. -/
def beginRepeat (x : Job) (n start : Nat) (notice : Option Nat) (d : Device) : Device :=
  let base := d.jobs.firstLine + linesOf d x.desc d.jobs.begun
  let was := d
  let (hostLate, d) := swapHost d
  let (setLate, d) := swapRepeat x.desc n d
  let late := hostLate || setLate
  let d := if hostLate && !setLate then raise .tableLate [] d else d
  let d := { d with
    jobs := { d.jobs with
      rep := if x.desc.cycle then n % max 1 x.desc.repeatCount else n
      begun := n, repStart := BitVec.ofNat 64 start, repPitch := (repDesc d x.desc n).pitch, firstLine := base, tableLate := late }
    sheet := { d.sheet with opened := if notice.isSome then d.sheet.opened.drop 1 else d.sheet.opened } }
  let d := clearModes was (swapTiming (trimAll (applyCorrections (lateMaps d))))
  let d := startRuns x.desc (runOf d x.desc n start base) d
  let d := (planedHeads x.desc).foldl (giveSeg x.desc n start base late notice) d
  nextSet x n d

/-- A boundary after the job has ended: swaps, corrections, trims and timing only. -/
def idleBoundary (start : Nat) (notice : Option Nat) (d : Device) : Device :=
  let was := d
  let d := { (swapHost d).2 with
    jobs := { d.jobs with repStart := BitVec.ofNat 64 start, begun := d.jobs.begun + 1 }
    sheet := { d.sheet with opened := if notice.isSome then d.sheet.opened.drop 1 else d.sheet.opened } }
  clearModes was (swapTiming (trimAll (applyCorrections (lateMaps d))))

/-- A boundary of the running job, or after it has ended (R20, R32, R34, R47). -/
def passBoundary (x : Job) (start n : Nat) (notice : Option Nat) (d : Device) : Device :=
  let d := latchPeriod 1 (w32 d.jobs.begun) 0 d
  let stop := match d.jobs.stopAt with | some w => decide (w.toNat ≤ start) | none => false
  let d :=
    if x.state != .running then idleBoundary start notice d
    else if stop || !hasRepeat x.desc n then idleBoundary start notice (endAtBoundary x start d)
    else beginRepeat x n start notice d
  captureAt (prunePast d)

/-- The lost device's own job runs on at the position master: it resumes at this boundary (R57). -/
def resumeOutgoing (start : Nat) (d : Device) : Device :=
  if d.jobs.lost && d.jobs.masterJob == some (runningId d, false) && jobRunning d && decide (d.jobs.masterAt ≤ start) then
    match d.jobs.nextChange with
    | some c => liftLost (holdSchedule c { d with jobs := { d.jobs with nextChange := none } })
    | none => liftLost d
  else d

/-- REPEAT_BOUNDARY (R32, R47, R103). -/
def execRepeatBoundary (s : State) : Host.Outcome State Fault Refusal :=
  let d := s.dev
  if !posOn d || !active d then next s d
  else match resumeIncoming d with
    | some (x, n, w, b) => if reached d w then next s (doChange x n w b d) else next s d
    | none =>
      match d.jobs.running, nextBoundary d with
      | some x, some (n, start, notice) =>
        if !reached d start || changeTakes d start then next s d
        else next s (passBoundary x start n notice (resumeOutgoing start d))
      | _, _ => next s d

/-! Band boundaries (R20, R21, R176) -/

/-- A band-close notice: the band number and close WPOS are recorded (R21). -/
def noteBandClose (band : U32) (w : U64) (d : Device) : Device :=
  { d with acct := { d.acct with bandClose := d.acct.bandClose ++ [(band, w)] } }

/-- BAND_CLOSE_NOTICE_RECEIVED (R21). -/
def execBandCloseNoticeReceived (band : U32) (w : U64) (s : State) : Host.Outcome State Fault Refusal :=
  if hears s.dev then next s (noteBandClose band w s.dev) else next s s.dev

/-- The fabric has no measuring node, or one whose camera ports are all stopped (R21, R176). No message of the spec tells another node's
device that: for a measuring node elsewhere it is a free value (log entry 74). -/
def noMeasuring (d : Device) : Bool × Device :=
  match measuringNode d with
  | none => (true, d)
  | some n =>
    if n == d.fabric.node then (d.cams.ports.toList.all (fun c => !c.running), d)
    else
      let (v, d) := draw d
      (bitOf v.toNat 0, d)

/-- BAND_NOTICE_PITCH (R21, R176): the position master issues a band-close notice each NOTICE_PITCH of the high-water WPOS; a multiple
passed while there is a measuring node has none. -/
def execBandNoticePitch (s : State) : Host.Outcome State Fault Refusal :=
  let d := s.dev
  let p := d.acct.noticePitch * 1000000
  let last := match d.acct.lastNotice with | some w => w.toNat | none => d.pos.hwpos.toNat / max 1 p * p
  if !posOn d || !active d || d.pos.role != .master then next s d
  else if d.acct.lastNotice.isNone then next s { d with acct := { d.acct with lastNotice := some (BitVec.ofNat 64 last) } }
  else if d.acct.noticePitch = 0 || d.pos.hwpos.toNat < last + p then next s d
  else
    let w := BitVec.ofNat 64 (d.pos.hwpos.toNat - (d.pos.hwpos.toNat - last) % p)
    let n := d.acct.noticeNo
    match noMeasuring { d with acct := { d.acct with lastNotice := some w } } with
    | (false, d) => next s d
    | (true, d) =>
      let d := noteBandClose n w { d with acct := { d.acct with noticeNo := n + 1 } }
      next s (broadcast .timing 0x0002 (leBytes 4 n.toNat ++ [0, 0, 0, 0] ++ leBytes 8 w.toNat) d)

/-- AUDIT on every port that is up, with no AUDIT outstanding (R295). -/
def sendAudits (d : Device) : Device :=
  [0, 1, 2, 3].foldl (fun d (p : Port) =>
    if portOpen d p && (d.fabric.ports[p].audit).isNone then
      giveLink p (.audit (d.fabric.ports[p].mark + 1) 0 []) (modPort d p (fun q => { q with mark := q.mark + 1, audit := some 0 }))
    else d) d

/-- SET_ID of the band set on the measuring node: that of the reference port's band, 0xFFFF_FFFF when it is UNCERTAIN (Tables 1.8 and 7.6,
R177); 0 before a band. DESIGN CHOICE: the record is the reference port's newest when the band set latches, also while every port is stopped and
when a later band has closed since (log entry 84). -/
def bandSetId (d : Device) : U32 :=
  if d.mbx.measuring then (match (d.cams.ports[refPort d]).newest with | some r => r.setId.getD 0xFFFFFFFF | none => 0) else 0

/-- BAND_BOUNDARY (R20, R21, R295): WPOS reaches the oldest close; the band set is latched and the fabric credits are audited. -/
def execBandBoundary (s : State) : Host.Outcome State Fault Refusal :=
  let d := s.dev
  match d.acct.bandClose with
  | [] => next s d
  | (n, w) :: rest =>
    if !posOn d || !reached d w.toNat then next s d
    else next s (sendAudits (latchPeriod 0 n (bandSetId d) { d with acct := { d.acct with bandClose := rest } }))

end Sys2Proof.Machine
end

