-- ==== Sys2Proof/Machine/Pipeline.lean ====
section
/-! DEFINITION. The image pipeline (R168, R184 to R188): corrections, the measurement and inspection classes, band statistics, stream
records, and what a band close does (R173 to R176, R189 to R193). -/
namespace Sys2Proof.Machine

/-! Roundings. Where the manual divides and does not say how it rounds, the step up is a free bit (log entry 9). -/

/-- num ÷ den rounded down or up, free between the two; exact where it is exact. -/
def rnd (k i : Nat) (num : Int) (den : Nat) : Int :=
  num / (den : Int) + (if num % (den : Int) = 0 then 0 else ((Config.freeByte k i).toNat % 2 : Nat))

/-- A division of R185's code: a nonnegative dividend rounds down; a negative one is free. -/
def codeDiv (k i : Nat) (num : Int) (den : Nat) : Int := if 0 ≤ num then num / (den : Int) else rnd k i num den

/-! Corrections (Table 7.4) -/

/-- Bits of a RAWn sample (Table 7.1). -/
def rawBits (c : CamCfg) : Nat := 8 + 2 * (c.dtype - 0x2A)

/-- The 16-bit input values of a line (R168). -/
def inputs (c : CamCfg) (l : CamLine) : List Int := l.pixels.map (fun v => ((v.toNat % 2 ^ rawBits c * 2 ^ (16 - rawBits c) : Nat) : Int))

/-- Mosaic position 2 × line phase + column phase of column x of band line y (Table 7.2 MOSAIC). -/
def mosaicAt (c : CamCfg) (y x : Nat) : Nat := 2 * ((y + c.mosaic / 2) % 2) + (x + c.mosaic) % 2

/-- A column range of a region. -/
def inRange (r : Nat × Nat) (x : Nat) : Bool := decide (r.1 ≤ x ∧ x < r.1 + r.2)

/-- Sum and number of the optical black samples of a line. -/
def obOf (c : CamCfg) (v : List Int) : Int × Nat := let s := (v.drop c.ob.1).take c.ob.2; (s.sum, s.length)

/-- The stages of a line: input, after black level, after defective pixels, after shading, and the pixels filled with 0 (R184). -/
structure Corrected where
  stages : List (List Int)
  fills  : Nat

/-- The nearest unlisted sample of a column's mosaic colour on one side, up to 8 columns away. -/
def nearest (listed : Nat → Bool) (v : Array Int) (x : Nat) (left : Bool) : Option Int :=
  [2, 4, 6, 8].findSome? (fun o =>
    if left then (if o ≤ x ∧ !listed (x - o) then v[x - o]? else none)
    else (if !listed (x + o) then v[x + o]? else none))

/-- The corrections of Table 7.4 on a kept line. -/
def correct (c : Cam) (l : CamLine) : Corrected :=
  let v := inputs c.cfg l
  let ob := obOf c.cfg v
  let dark : Int := if ob.2 = 0 then 0 else rnd l.draw 200000 ob.1 ob.2 - c.obRef
  let s1 := v.zipIdx.map (fun e => e.1 - (c.tables.black.getD e.2 0 : Nat) - dark)
  let a := s1.toArray
  let listed : Nat → Bool := fun x => c.tables.defects.contains x
  let fill := fun (x : Nat) (s : Int) =>
    if !listed x then (s, 0)
    else match nearest listed a x true, nearest listed a x false with
      | some p, some q => (rnd l.draw (20000 + x) (p + q) 2, 0)
      | some p, none => (p, 0)
      | none, some q => (q, 0)
      | none, none => (0, 1)
  let f := s1.zipIdx.map (fun e => fill e.2 e.1)
  let s2 := f.map (·.1)
  let s3 := s2.zipIdx.map (fun e => rnd l.draw (40000 + e.2) (e.1 * (c.tables.shade.getD e.2 16384 : Nat)) 16384)
  { stages := [v, s1, s2, s3], fills := (f.map (·.2)).sum }

/-- A line after shading. -/
def shadedLine (c : Cam) (l : CamLine) : List Int := (correct c l).stages.getD 3 []

/-! The measurement class (R185) -/

/-- tone(): linear interpolation between the points of component j, the last of which stands for 65,535; no curve is the identity. -/
def toneOf (s : SettingSet) (k i j a : Nat) : Nat :=
  if s.tone.isEmpty then a
  else
    let p := s.tone.getD (257 * j + a / 256) 0
    let q := s.tone.getD (257 * j + a / 256 + 1) 0
    let w := if a / 256 = 255 then 255 else 256
    (rnd k i ((p * (w - a % 256) + q * (a % 256) : Nat) : Int) w).toNat

/-- X, Y, Z of a cell from its four shaded values by mosaic position, and the components clamped. -/
def cellXyz (c : Cam) (s : SettingSet) (k i : Nat) (v : List Int) : List Int × Nat :=
  let w := (List.range 4).map (fun p => codeDiv k (60000 + 4 * i + p) (v.getD p 0 * (c.gain.getD p 0 : Nat)) 16384)
  let comp := fun (j : Nat) =>
    let a := ((List.range 4).map (fun p => w.getD p 0 * s.matrix.getD (3 * p + j) 0)).sum
    let q := codeDiv k (130000 + 3 * i + j) a 4096
    let t := clampI 0 65535 q
    ((toneOf s k (160000 + 3 * i + j) j t.toNat : Nat), if t = q then 0 else 1)
  let r := [comp 0, comp 1, comp 2]
  (r.map (fun e => (e.1 : Int)), (r.map (·.2)).sum)

/-- Cells of line pair j of a band (R185): X, Y, Z and clamps, cell by cell across the web. -/
def pairCells (c : Cam) (j : Nat) (a b : CamLine) : List (List Int × Nat) :=
  match c.set with
  | none => []
  | some s =>
    let x := (shadedLine c a).toArray
    let y := (shadedLine c b).toArray
    (List.range (c.cfg.width / 2)).map (fun i =>
      let four := [(2 * j, 2 * i, x), (2 * j, 2 * i + 1, x), (2 * j + 1, 2 * i, y), (2 * j + 1, 2 * i + 1, y)]
      let at_ := fun (p : Nat) => match four.find? (fun f => mosaicAt c.cfg f.1 f.2.1 == p) with
        | some f => f.2.2.getD f.2.1 0
        | none => 0
      cellXyz c s a.draw i ((List.range 4).map at_))

/-- Line position of a trigger WPOS (R172). -/
def linePosition (c : CamCfg) (trig : U64) : U64 := trig - BitVec.ofNat 64 c.camOffset

/-- The lowest print column of cell i (R172). -/
def cellColumn (c : CamCfg) (i : Nat) : Int :=
  if c.reversed then (c.column0 : Int) - (2 * i + 2) * c.pixelStep + 1 else c.column0 + 2 * i * c.pixelStep

/-- The cells of a line pair enter the loop band open on the measuring node (R197, R204, Table 8.6). -/
def pairIntoLoop (p : Port) (b : CamBand) (j : Nat) (x y : CamLine) (d : Device) : Device :=
  let c := d.cams.ports[p]
  if !d.mbx.measuring || !d.loop.portMask.getLsbD p.val then d
  else
    (pairCells c j x y).zipIdx.foldl (fun d e =>
      let col := cellColumn c.cfg e.2
      let saf := [2 * e.2, 2 * e.2 + 1].any (fun x => inRange c.cfg.safWhite x || inRange c.cfg.safBlack x)
      let barred : Option (Fin 10) :=
        if b.dark || b.notServed || b.setId.isNone || b.cal then some 0
        else if saf then some 1
        else if e.1.2 ≠ 0 then some 2
        else none
      if col < 0 then d
      else accumulateCell ⟨p, (col / 4).toNat, (linePosition c.cfg x.trig).toNat, e.1.1, barred⟩ d) d

/-- The pipeline takes the oldest buffered line of a port: corrections and both classes (R184); the second line of a pair completes its
cells. -/
def takeLine (p : Port) (d : Device) : Device :=
  let c := d.cams.ports[p]
  match c.buffer, c.band with
  | l :: rest, some b =>
    let n := b.kept.length
    let d := modCam d p (fun c => { c with
      buffer := rest, band := some { b with kept := b.kept ++ [l] }, linePos := linePosition c.cfg l.trig })
    let d := if n % 2 = 1 then
        match b.kept[n - 1]? with
        | some e => pairIntoLoop p b (n / 2) e l d
        | none => d
      else d
    if d.mbx.measuring then dropPassed (fun q => (d.cams.ports[q]).linePos.toNat) d else d
  | _, _ => d

/-- The port whose line the pipeline takes next (R181): in stripe mode STRIPE lines of one port, then of the next in port order; a port with
no line waiting is passed over (log entry 77). In band mode the served port. -/
def lineTurn (d : Device) : Option Port :=
  let waits : Port → Bool := fun p => !(d.cams.ports[p]).buffer.isEmpty
  if d.cams.bandMode then (if waits d.cams.served then some d.cams.served else none)
  else
    let first := if d.cams.taken < d.cams.stripe then 0 else 1
    ((List.range 5).drop first |>.map (fun n => (finOf 4 ((d.cams.turn.val + n) % 4) : Port))).find? waits

/-- The pipeline takes a line of the port whose turn it is. -/
def takeTurn (p : Port) (d : Device) : Device :=
  let n := if d.cams.turn = p ∧ d.cams.taken < d.cams.stripe then d.cams.taken + 1 else 1
  takeLine p { d with cams := { d.cams with turn := p, taken := n } }

/-- PIPELINE_LINE (R181, R184, R185). -/
def execPipelineLine (p : Port) (s : State) : Host.Outcome State Fault Refusal :=
  if domainOn s.dev 3 && lineTurn s.dev == some p then next s (takeTurn p s.dev) else next s s.dev

/-! Band statistics (R188, R193, Table 7.6) -/

/-- Whether a mosaic position is green (log entry 43). -/
def isGreen (p : Nat) : Bool := p == 1 || p == 2

/-- SHARP of a zone (R188) over a band's shaded lines. -/
def sharpOf (c : CamCfg) (k : Nat) (lines : List (List Int)) (z : Nat) : Nat :=
  let w := max 1 (c.width / 16)
  let terms := lines.zipIdx.map (fun e =>
    let a := e.1.toArray
    ((List.range c.width).filter (fun x => min 15 (x / w) == z && isGreen (mosaicAt c e.2 x))).map (fun x =>
      let g := a.getD x 0
      (((match a[x + 2]? with | some h => (h - g) * (h - g) | none => 0) : Int).toNat, (g * g).toNat)))
  let num := (terms.flatMap (fun t => t.map (·.1))).sum
  let den := (terms.flatMap (fun t => t.map (·.2))).sum
  if den = 0 then 0 else min 0xFFFFFFFF (rnd k (300000 + z) ((num * 2 ^ 24 : Nat) : Int) den).toNat

/-- Mean of a saffron region per mosaic position after shading (Table 7.6); a region without samples reads 0. -/
def regionMean (c : CamCfg) (k i : Nat) (r : Nat × Nat) (lines : List (List Int)) (p : Nat) : Nat :=
  let vs := lines.zipIdx.flatMap (fun e => e.1.zipIdx.filterMap (fun f =>
    if inRange r f.2 && mosaicAt c e.2 f.2 == p then some f.1 else none))
  if vs.isEmpty then 0 else (clampI 0 65535 (rnd k (310000 + i + p) vs.sum vs.length)).toNat

/-- What a band's statistics state. -/
structure BandStats where
  partial_ : Bool
  white    : List Nat
  black    : List Nat
  clip     : Nat
  fills    : Nat
  sharp    : List Nat
  ob       : Nat

/-- The statistics of a closing band (R188, R193). DESIGN CHOICE: PARTIAL goes by the lines kept, as R173 says, also where a frame start closes the
band (R174, log entry 84). -/
def bandStats (c : Cam) (b : CamBand) (k : Nat) : BandStats :=
  let cs := b.kept.map (correct c)
  let lines := cs.map (fun x => x.stages.getD 3 [])
  let ob := b.kept.map (fun l => obOf c.cfg (inputs c.cfg l))
  let obN := (ob.map (·.2)).sum
  let pairs := (List.range (b.kept.length / 2)).flatMap (fun j =>
    match b.kept[2 * j]?, b.kept[2 * j + 1]? with
    | some x, some y => pairCells c j x y
    | _, _ => [])
  { partial_ := decide (b.lines < c.cfg.bandLines)
    white := (List.range 4).map (fun p => if c.cfg.safWhite.2 = 0 then 0 else regionMean c.cfg k 0 c.cfg.safWhite lines p)
    black := (List.range 4).map (fun p => if c.cfg.safWhite.2 = 0 then 0 else regionMean c.cfg k 10 c.cfg.safBlack lines p)
    clip := (pairs.map (·.2)).sum
    fills := (cs.map (·.fills)).sum
    sharp := (List.range 16).map (sharpOf c.cfg k lines)
    ob := if obN = 0 then 0 else (rnd k 320000 (ob.map (·.1)).sum obN).toNat }

/-- The focus position that applied to a band (R189), with its dither sign: the newest written that applies by then. -/
def focusAt (f : Focus) (band : Nat) : Option (Int × Bool) := (f.written.find? (fun e => decide (e.2.1 ≤ band))).map (fun e => (e.1, e.2.2))

/-- FOCUS_POS of a band; 0 before any position is written. -/
def focusPos (f : Focus) (band : Nat) : Int := match focusAt f band with | some e => e.1 | none => 0

/-- The record of Table 7.6. A band without kept lines has no first and last line: those positions are free (log entry 9). -/
def statsBytes (d : Device) (p : Port) (c : Cam) (b : CamBand) (x : BandStats) (drop : Bool) (k : Nat) : List U8 :=
  let pos := fun (l : Option CamLine) (i : Nat) => match l with
    | some l => leBytes 8 (linePosition c.cfg l.trig).toNat
    | none => (List.range 8).map (fun n => Config.freeByte k (330000 + 8 * i + n))
  leBytes 4 b.number.toNat ++ [BitVec.ofNat 8 p.val,
      BitVec.ofNat 8 (b2n x.partial_ + 2 * b2n b.long + 4 * b2n b.dark + 8 * b2n b.notServed + 16 * b2n b.setId.isNone + 32 * b2n b.cal
        + 64 * b2n drop), 0, 0]
    ++ leBytes 4 (match b.setId with | some i => i.toNat | none => 0xFFFFFFFF) ++ leBytes 4 b.lines ++ leBytes 4 b.dropped ++ leBytes 4 c.skipped
    ++ pos b.kept.head? 0 ++ pos b.kept.getLast? 1 ++ leBytes 8 (ftime d).toNat ++ leBytes 4 c.calSeq.toNat
    ++ leBytes 2 (BitVec.ofInt 16 (focusPos c.focus b.number.toNat)).toNat ++ [0, 0]
    ++ x.white.flatMap (leBytes 2) ++ x.black.flatMap (leBytes 2) ++ leBytes 4 x.clip ++ leBytes 4 x.fills ++ x.sharp.flatMap (leBytes 4)
    ++ leBytes 2 x.ob ++ leBytes 2 (min 65535 c.orphan) ++ List.replicate 12 0

/-! Streams and the raw tap (R186, R187) -/

/-- Red, green or blue of a mosaic position (log entry 43). -/
def colourOfPos (p : Nat) : Nat := [0, 1, 1, 2].getD p 1

/-- The samples n columns to either side of a pixel along its line, and n lines to either side across; none where one does not exist. -/
def aside (wb : Array (Array Int)) (y x n : Nat) (along : Bool) : Option (Int × Int) :=
  let at_ := fun (y x : Nat) => (wb[y]?).bind (fun l => l[x]?)
  if along then
    if x < n then none else match at_ y (x - n), at_ y (x + n) with | some a, some b => some (a, b) | _, _ => none
  else
    if y < n then none else match at_ (y - n) x, at_ (y + n) x with | some a, some b => some (a, b) | _, _ => none

/-- How much the pixel's own mosaic colour changes in a direction: between its nearest samples on the two sides. -/
def ownChange (wb : Array (Array Int)) (y x : Nat) (along : Bool) : Option Nat :=
  (aside wb y x 2 along).map (fun e => (e.1 - e.2).natAbs)

/-- A colour missing at a pixel (R186): the mean of its two nearest samples along the line or across the lines, in the direction in which
the own colour changes less, of all four on a tie, and in the one direction that holds the colour where the other does not. Where neither
does, or a sample lies beyond the band's edge, the manual states no value and it is free (log entry 9). -/
def missingColour (c : CamCfg) (wb : Array (Array Int)) (k y x q : Nat) : Int :=
  let holds := fun (y x : Nat) => colourOfPos (mosaicAt c y x) == q
  let free := Config.inspectColour (wb.toList.map Array.toList) y x q
  let mean2 := fun (e : Option (Int × Int)) => match e with | some (a, b) => rnd k (410000 + 3 * x + q) (a + b) 2 | none => free
  let along := aside wb y x 1 true
  let across := aside wb y x 1 false
  match holds y (x + 1), holds (y + 1) x with
  | true, true =>
    (match ownChange wb y x true, ownChange wb y x false with
     | some a, some b =>
       if a < b then mean2 along
       else if b < a then mean2 across
       else (match along, across with
         | some (s, t), some (u, v) => rnd k (410000 + 3 * x + q) (s + t + u + v) 4
         | _, _ => free)
     | _, _ => free)
  | true, false => mean2 along
  | false, true => mean2 across
  | false, false => free

/-- The inspection class's RGB at every pixel of every kept line (R186): the pixel's own colour after the set's WB_GAIN, and the missing ones. -/
def rgbLines (c : Cam) (k : Nat) (lines : List (List Int)) : List (List (List Int)) :=
  let gain := match c.set with | some s => s.wbGain | none => []
  let wb := lines.zipIdx.map (fun e => e.1.zipIdx.map (fun f =>
    rnd k (400000 + f.2) (f.1 * (gain.getD (mosaicAt c.cfg e.2 f.2) 0 : Nat)) 16384))
  let arr := (wb.map List.toArray).toArray
  wb.zipIdx.map (fun e => e.1.zipIdx.map (fun f =>
    let own := colourOfPos (mosaicAt c.cfg e.2 f.2)
    [0, 1, 2].map (fun q => clampI 0 65535 (if q = own then f.1 else missingColour c.cfg arr (k + e.2) e.2 f.2 q))))

/-- Inspection luminance (R + 2G + B) ÷ 4 (Table 7.5). -/
def lumOf (k i : Nat) (rgb : List Int) : Int := rnd k (500000 + i) (rgb.getD 0 0 + 2 * rgb.getD 1 0 + rgb.getD 2 0) 4

/-- The lines of a stream's source that its crop along the web takes, each sample a list of components, and the band line of each; Y0 and
HEIGHT are lines of the band (Table 7.5). DESIGN CHOICE: a line of cells is taken when the first of its two band lines is, and the column profile
is that of the lines taken (log entry 99). -/
def sourceLines (c : Cam) (b : CamBand) (t : Stream) (tap : Bool) (k : Nat) : List (Nat × List (List Int)) :=
  let cs := b.kept.map (correct c)
  let shaded := cs.map (fun x => x.stages.getD 3 [])
  let crop := fun (l : List (Nat × List (List Int))) => l.filter (fun e => decide (t.y0 ≤ e.1 ∧ (t.height = 0 ∨ e.1 < t.y0 + t.height)))
  let number := fun (l : List (List (List Int))) => crop (l.zipIdx.map (fun e => (e.2, e.1)))
  if tap then number (cs.map (fun x => (x.stages.getD t.tapPoint []).map (fun v => [v])))
  else if t.source = 0 then
    crop ((List.range (b.kept.length / 2)).map (fun j =>
      (2 * j, match b.kept[2 * j]?, b.kept[2 * j + 1]? with
        | some x, some y => (pairCells c j x y).map (·.1)
        | _, _ => [])))
  else
    let rgb := rgbLines c k shaded
    if t.source = 1 then number rgb
    else
      let lum := rgb.map (fun l => l.zipIdx.map (fun e => lumOf k e.2 e.1))
      let lines := number (lum.map (fun l => l.map (fun v => [v])))
      if t.source = 2 then lines
      else match lines with
        | [] => []
        | l :: _ => [(l.1, (List.range c.cfg.width).map (fun x =>
            [rnd k (600000 + x) ((lines.map (fun e => ((e.2.getD x []).headD 0))).sum) lines.length]))]

/-- Box average over SCALE_X × SCALE_Y samples of cropped lines (Table 7.5). -/
def boxLines (t : Stream) (k : Nat) (ls : List (Nat × List (List Int))) : List (Nat × List (List Int)) :=
  let sx := max 1 t.scaleX
  let sy := max 1 t.scaleY
  let w := (ls.map (fun l => l.2.length)).foldl max 0
  (List.range (ls.length / sy)).map (fun r =>
    let rows := (ls.drop (r * sy)).take sy
    (((rows.head?).map (·.1)).getD 0, (List.range (w / sx)).map (fun q =>
      let cell := rows.flatMap (fun l => (l.2.drop (q * sx)).take sx)
      let n := (cell.map List.length).foldl max 0
      (List.range n).map (fun j => if cell.isEmpty then 0 else rnd k (700000 + 4 * q + j) ((cell.map (fun s => s.getD j 0)).sum) cell.length))))

/-- A sample's bytes (FORMAT): the upper 8 of its 16 bits, or 16 bits. The raw tap is signed; where a value does not fit 16 signed bits the
manual states no sample and it is free (log entry 9). -/
def sampleBytesOf (format : Nat) (tap : Bool) (k i : Nat) (v : Int) : List U8 :=
  let fits := !tap || decide (-32768 ≤ v ∧ v ≤ 32767)
  let w := if fits then (BitVec.ofInt 16 v).toNat else (Config.freeByte k i).toNat + 256 * (Config.freeByte k (i + 1)).toNat
  if format = 1 then leBytes 2 w else leBytes 1 (w / 256)

/-- The band record of a stream (R187). -/
def bandRecord (p : Port) (c : Cam) (b : CamBand) (n : Nat) (t : Stream) (k : Nat) : List U8 :=
  let src := sourceLines c b t (n == 3) k
  let rows := src.map (fun l => (l.1, (l.2.drop t.x0).take t.width))
  let out := boxLines t k rows
  let w := (out.map (fun l => l.2.length)).foldl max 0
  let pos := match (out.head?).bind (fun l => b.kept[l.1]?) with
    | some l => leBytes 8 (linePosition c.cfg l.trig).toNat
    | none => (List.range 8).map (fun j => Config.freeByte k (340000 + j))
  let line := fun (l : Nat × List (List Int)) =>
    let bs := (l.2.flatten.zipIdx).flatMap (fun e => sampleBytesOf t.format (n == 3) k (800000 + 2 * e.2) e.1)
    padTo ((bs.length + 31) / 32 * 32) bs
  leBytes 4 b.number.toNat ++ [BitVec.ofNat 8 p.val, BitVec.ofNat 8 n, BitVec.ofNat 8 t.format, 0]
    ++ leBytes 4 (match b.setId with | some i => i.toNat | none => 0xFFFFFFFF) ++ leBytes 4 out.length ++ leBytes 4 w ++ [0, 0, 0, 0] ++ pos
    ++ out.flatMap line

/-- Bytes written to a stream's ring from its next offset on, going round at its end (R187). -/
def ringWrite (t : Stream) (bs : List U8) (d : Device) : Device :=
  let first := bs.take (t.ringSize - t.at_)
  dramWrite 4 t.ringAddr (bs.drop first.length) (dramWrite 4 (t.ringAddr + t.at_) first d)

/-- A stream's record of a closing band: written when the ring has room for all of it, else counted in STREAM_DROP (R187); the raw tap takes
one band in TAP_EVERY. True when it was dropped. -/
def streamBand (p : Port) (c : Cam) (b : CamBand) (k : Nat) (n : Fin 4) (d : Device) : Bool × Device :=
  let t := d.cams.streams[n]
  if !t.enable || t.port != p || (n == 3 && b.number.toNat % max 1 t.tapEvery != 0) then (false, d)
  else
    let bs := bandRecord p c b n.val t k
    if d.dram.ok && decide (t.used + bs.length ≤ t.ringSize) then
      let d := ringWrite t bs d
      (false, { d with cams := { d.cams with streams := upd d.cams.streams n (fun t =>
        { t with used := t.used + bs.length, at_ := (t.at_ + bs.length) % max 1 t.ringSize }) } })
    else (true, { d with cams := { d.cams with streams := upd d.cams.streams n (fun t => { t with drop := t.drop + 1 }) } })

/-! Camera I2C queues (R169) -/

/-- Index of a camera I2C host port. -/
def cciIdx (b : Bool) : Fin 2 := if b then 1 else 0

/-- Whose setting-set write, focus write or host transaction an operation is. -/
def opPort : CciOp → Port
  | .setWrite p _ _ _ _ => p
  | .focus p _ _ _ _ => p
  | .host p _ _ _ _ => p

/-- Operations appended to a port's bus. -/
def cciAppend (p : Port) (ops : List CciOp) (d : Device) : Device :=
  { d with cams := { d.cams with cci := upd d.cams.cci (cciIdx (d.cams.ports[p]).cfg.cciPort) (fun q => q ++ ops.map (fun o => (o, 0))) } }

/-- Setting-set writes are queued ahead of the port's focus writes; the transaction in progress stays first (R169). -/
def cciSetWrites (p : Port) (ops : List CciOp) (d : Device) : Device :=
  let isFocus : CciOp × Nat → Bool := fun o => match o.1 with | .focus q _ _ _ _ => q == p | _ => false
  let put := fun (q : List (CciOp × Nat)) =>
    match q with
    | [] => ops.map (fun o => (o, 0))
    | h :: rest =>
      let at_ := (rest.findIdx? isFocus).getD rest.length
      h :: rest.take at_ ++ ops.map (fun o => (o, 0)) ++ rest.drop at_
  { d with cams := { d.cams with cci := upd d.cams.cci (cciIdx (d.cams.ports[p]).cfg.cciPort) put } }

/-- SOURCE of a camera I2C violation: host port in [15:8], address in [7:0] (Table 1.4). -/
def cciSource (c : CamCfg) : U16 := BitVec.ofNat 16 (256 * b2n c.cciPort + c.cciAddr)

/-- A port's sensor is isolated (0x67). -/
def sensorIsolated (d : Device) (p : Port) : Bool := d.vlog.isolated.contains (7, cciSource (d.cams.ports[p]).cfg)

/-! What follows a band close -/

/-- The position of a dither sign, held between POS_MIN and POS_MAX (R189). -/
def ditherPos (f : Focus) (up : Bool) : Int := clampI f.posMin f.posMax (if up then f.pos + f.dither else f.pos - f.dither)

/-- The focus position of a dither sign is written to the sensor (R189); nothing is to an isolated one (R28). -/
def focusWrite (p : Port) (up : Bool) (d : Device) : Device :=
  let f := (d.cams.ports[p]).focus
  if sensorIsolated d p then d
  else cciAppend p [.focus p f.reg f.width (ditherPos f up) up] d

/-- The focus servo at a band close (R189). -/
def focusStep (p : Port) (b : CamBand) (x : BandStats) (d : Device) : Device :=
  let f := (d.cams.ports[p]).focus
  let applied := focusAt f b.number.toNat
  let up := applied == some (ditherPos f true, true)
  if !f.on || !(up || applied == some (ditherPos f false, false)) then d
  else
    let bad := x.partial_ || b.dark || b.notServed || b.setId.isNone
    let s := ((x.sharp.drop f.zones.1).take (f.zones.2 + 1 - f.zones.1)).sum
    let plus := if up && !bad then some s else f.plus
    let minus := if !up && !bad then some s else f.minus
    let f := match plus, minus with
      | some a, some c =>
        { f with pos := clampI f.posMin f.posMax (if c < a then f.pos + f.step else f.pos - f.step), plus := none, minus := none }
      | _, _ => { f with plus := plus, minus := minus }
    focusWrite p (!up) (modCam d p (fun c => { c with focus := f }))

/-- A white calibration's conditions on its two runs (R190). -/
def whiteAccepts (a b target : List Nat) : Bool :=
  (List.range 4).all (fun p =>
    let x := a.getD p 0
    let y := b.getD p 0
    let t := target.getD p 0
    decide (1000 * ((x : Int) - y).natAbs ≤ x + y ∧ 6554 ≤ x ∧ x ≤ 62259 ∧ 6554 ≤ y ∧ y ≤ 62259
      ∧ 95 * (x + y) ≤ 200 * t ∧ 200 * t ≤ 105 * (x + y)))

/-- The white calibration at a band close (R190): the second run of the same set decides; a periodic one begins PERIOD bands after the
last began. -/
def whiteStep (p : Port) (b : CamBand) (x : BandStats) (k : Nat) (d : Device) : Device :=
  let c := d.cams.ports[p]
  match c.white with
  | none => d
  | some w =>
    if w.wait ≠ 0 then modCam d p (fun c => { c with white := some { w with wait := w.wait - 1 } })
    else
    let w := { w with age := w.age + 1 }
    let d := modCam d p (fun c => { c with white := some w })
    if x.partial_ || b.dark || b.notServed || b.setId.isNone then d
    else match w.runs with
      | r :: _ =>
        if w.setId != b.setId then modCam d p (fun c => { c with white := some { w with setId := b.setId, runs := [x.white] } })
        else
          let target := match c.set with | some s => s.target | none => []
          let ratios := (List.range 4).map (fun p => (2 * target.getD p 0, r.getD p 0 + x.white.getD p 0))
          let good := whiteAccepts r x.white target
          let d := modCam d p (fun c => { c with white := if w.period = 0 then none else some { w with wait := w.period - w.age, age := 0, setId := none, runs := [] } })
          let d := if good then
              [0, 1, 2, 3].foldl (fun d (q : Port) =>
                if q == p || w.lead.getLsbD q.val then modCam d q (fun c => { c with gainNew := some ratios, calNew := c.calNew + 1 }) else d) d
            else if w.period = 0 then d
            else raise .calDisagree [w32 p.val] d
          if w.period = 0 then
            finishWork (· == .whiteCal p) (if good then
              { results := ratios.zipIdx.map (fun e => w32 (rnd k (350000 + e.2) ((e.1.1 * 16384 : Nat) : Int) e.1.2).toNat) }
              else { status := .calDisagree }) d
          else d
      | [] => modCam d p (fun c => { c with white := some { w with setId := b.setId, runs := [x.white] } })

/-- Column sums, lines, and sum and number of the optical black samples of a dark run (R191). -/
def darkRun (c : Cam) (b : CamBand) : List Nat × Nat × Nat × Nat :=
  let ls : List (List Int) := b.kept.map (inputs c.cfg)
  let ob := ls.map (obOf c.cfg)
  ((List.range c.cfg.width).map (fun x => Int.toNat ((ls.map (fun (l : List Int) => l.getD x 0)).sum)), ls.length,
    Int.toNat ((ob.map (fun (e : Int × Nat) => e.1)).sum), (ob.map (fun (e : Int × Nat) => e.2)).sum)

/-- The first test of R191 that two dark runs fail, by its place in the list. -/
def darkFails (t : DarkCal) (a b : List Nat × Nat × Nat × Nat) : Option Nat :=
  let n := max 1 (a.2.1 * b.2.1)
  let w := a.1.length
  let far := fun (x y : Nat) => ((x * b.2.1 : Nat) - (y * a.2.1 : Nat) : Int).natAbs
  if (a.1.zip b.1).any (fun e => decide (t.tol * n < far e.1 e.2)) then some 0
  else if t.tol * n * w < 4 * far a.1.sum b.1.sum then some 1
  else if a.1.any (fun x => decide (t.max * a.2.1 < x)) || b.1.any (fun x => decide (t.max * b.2.1 < x)) then some 2
  else none

/-- The result of a dark calibration (R191). -/
def darkResult (p : Port) (t : DarkCal) (a b : List Nat × Nat × Nat × Nat) (k : Nat) (d : Device) : Device :=
  let c := d.cams.ports[p]
  let d := modCam d p (fun c => { c with dark := none })
  match darkFails t a b with
  | some r => finishWork (· == .darkCal p) { status := .calDisagree, detail := w32 r } d
  | none =>
    let n := max 1 (2 * a.2.1 * b.2.1)
    let black := (a.1.zip b.1).zipIdx.map (fun e => (rnd k e.2 ((e.1.1 * b.2.1 + e.1.2 * a.2.1 : Nat) : Int) n).toNat)
    let full := (List.range 16384).map (fun x => if x < black.length then black.getD x 0 else c.tables.black.getD x 0)
    let obRef : Int := if a.2.2.2 = 0 ∨ b.2.2.2 = 0 then c.obRef
      else rnd k 20000 ((a.2.2.1 * b.2.2.2 + b.2.2.1 * a.2.2.2 : Nat) : Int) (2 * a.2.2.2 * b.2.2.2)
    let w := max 1 c.cfg.width
    let old := rnd k 20001 ((((List.range c.cfg.width).map (fun x => c.tables.black.getD x 0)).sum : Nat) : Int) w
    let new := rnd k 20002 ((black.sum : Nat) : Int) w
    finishWork (· == .darkCal p) { results := [i32 old, i32 new] } (modCam d p (fun c => { c with darkNew := some (full, obRef), calNew := c.calNew + 1 }))

/-- A dark calibration at a band close (R191): the decay band and two runs, restarted up to three times when a run, or the band
from whose open the calibration starts, is partial. -/
def darkStep (p : Port) (b : CamBand) (x : BandStats) (k : Nat) (d : Device) : Device :=
  let c := d.cams.ports[p]
  match c.dark with
  | none => d
  | some t =>
    if t.stage = 0 || !b.dark then d
    else if x.partial_ then
      if t.restarts < 3 then modCam d p (fun c => { c with dark := some { t with stage := 0, restarts := t.restarts + 1, runs := [] } })
      else finishWork (· == .darkCal p) { status := .refused, reason := .noBands } (modCam d p (fun c => { c with dark := none }))
    else if t.stage = 1 then modCam d p (fun c => { c with dark := some { t with stage := 2 } })
    else match t.runs with
      | [] => modCam d p (fun c => { c with dark := some { t with stage := 3, runs := [darkRun c b] } })
      | r :: _ => darkResult p t r (darkRun c b) k d

/-- The next place of ROTATION after the served one that names a running port, in band mode (R181). -/
def nextServed (d : Device) : Fin 4 :=
  let order : List (Fin 4) := [1, 2, 3, 0].map (fun n => d.cams.place + n)
  (order.find? (fun i => (d.cams.ports[d.cams.rotation.getD i.val 0]).running)).getD d.cams.place

/-- A band that the loop must not use: R175 fails. -/
def bandUnfit (d : Device) (c : Cam) (b : CamBand) (x : BandStats) : Bool :=
  (x.partial_ && decide (b.lines * 100 < d.cams.partialMin * c.cfg.bandLines)) || b.dark || b.notServed || b.setId.isNone

/-- The band-close notice of the reference port (R21, R176) and the close of the loop band (R197, R207). -/
def bandNotice (p : Port) (c : Cam) (b : CamBand) (d : Device) : Device :=
  if !d.mbx.measuring || refPort d != p then d
  else
    let w := (match b.lastTrig with | some t => t | none => d.pos.hwpos) + BitVec.ofNat 64 c.cfg.trigPitch
    let d := noteBandClose b.number w d
    let d := broadcast .timing 0x0002 (leBytes 4 b.number.toNat ++ [0, 0, 0, 0] ++ leBytes 8 w.toNat) d
    closeLoopBand b.number d

/-- The older record of a port has not been read. -/
def unreadStats (c : Cam) : Bool := match c.older with | some o => !o.read | none => false

/-- The statistics record becomes the newest of the port's two (R193, R23). -/
def latchStats (p : Port) (r : CamStats) (d : Device) : Device :=
  let lost := unreadStats d.cams.ports[p]
  let d := modCam d p (fun c => { c with
    older := c.newest, newest := some r, overrun := if unreadStats c then c.overrun + 1 else c.overrun, skipped := 0, orphan := 0 })
  if lost then raise .latchOverrun [3, w32 p.val] d else d

/-- The streams of a band that ends: whether a line of one was dropped. -/
def streamBands (p : Port) (c : Cam) (b : CamBand) (k : Nat) (d : Device) : Bool × Device :=
  (List.finRange 4).foldl (fun (e : Bool × Device) (n : Fin 4) => let (f, d) := streamBand p c b k n e.2; (e.1 || f, d)) (false, d)

/-- On the measuring node the inspection luminance of a loop port's band is kept for the strip analysis (R218). -/
def noteLum (p : Port) (c : Cam) (b : CamBand) (k : Nat) (d : Device) : Device :=
  if !d.mbx.measuring || !d.loop.portMask.getLsbD p.val then d
  else
    let barred := b.dark || b.notServed || b.setId.isNone || b.cal
    let lum := (rgbLines c k (b.kept.map (shadedLine c))).map (fun l => l.zipIdx.map (fun e => lumOf k e.2 e.1))
    let lines : List LumLine := (b.kept.zip lum).map (fun e => ⟨p, (linePosition c.cfg e.1.trig).toNat, barred, e.2⟩)
    { d with loop := { d.loop with lum := d.loop.lum ++ lines } }

/-- The statistics, the loop's use of a band and the adjustments that follow its end. -/
def settleBand (p : Port) (c : Cam) (b : CamBand) (x : BandStats) (k : Nat) (drop : Bool) (d : Device) : Device :=
  let d := latchStats p ⟨b.setId, b.dropped, statsBytes d p c b x drop k, false⟩ (modCam d p (fun c => { c with band := none, buffer := [] }))
  let d := if bandUnfit d c b x then { d with loop := { d.loop with rejects := d.loop.rejects ||| BitVec.ofNat 4 (2 ^ p.val) } } else d
  let d := focusStep p b x (darkStep p b x k (whiteStep p b x k (bandNotice p c b (noteLum p c b k d))))
  if d.cams.bandMode && d.cams.served == p && !b.notServed then
    { d with cams := { d.cams with served := d.cams.rotation.getD (nextServed d).val 0, place := nextServed d, serveAtStart := true } }
  else d

/-- A port's open band closes (R173): its buffered lines pass the pipeline, then its stream records, its statistics record, the loop's
and the host's notices, the calibrations, the focus servo, and the turn of the next port in band mode. -/
def closeBand (p : Port) (long : Bool) (d : Device) : Device :=
  match (d.cams.ports[p]).band with
  | none => d
  | some _ =>
    let d := (d.cams.ports[p]).buffer.foldl (fun d _ => takeLine p d) d
    let c := d.cams.ports[p]
    match c.band with
    | none => d
    | some b =>
      let b := { b with long := long }
      let k := d.chip.drawn
      let y := streamBands p c b k { d with chip := { d.chip with drawn := k + 1 } }
      settleBand p c b (bandStats c b k) k y.1 y.2

end Sys2Proof.Machine
end

