-- ==== Sys2Proof/Machine/Camera.lean ====
section
/-! DEFINITION. The camera ports (chapter 7): configuration and the camera commands, triggers and bands, setting sets over camera I2C, and
the violations of Table 7.7. -/
namespace Sys2Proof.Machine

/-! Violations (R194, Table 7.7) -/

/-- A CSI-2 violation of a port, counted by its place in Table 7.7. -/
def camViolation (p : Port) (k : Fin 13) (code : U8) (ans : BitVec 2) (d : Device) : Device :=
  violation code 4 (BitVec.ofNat 16 p.val) ans (modCam d p (fun c => { c with viol := upd c.viol k (· + 1) }))

/-- A camera I2C violation of a port's sensor. -/
def cciViolation (p : Port) (k : Fin 13) (code : U8) (ans : BitVec 2) (d : Device) : Device :=
  violation code 7 (cciSource (d.cams.ports[p]).cfg) ans (modCam d p (fun c => { c with viol := upd c.viol k (· + 1) }))

/-- A port receives: it runs, D_CAM is on, and no D-PHY reset is under way. -/
def camOn (d : Device) (p : Port) : Bool := domainOn d 3 && (d.cams.ports[p]).running && !(d.cams.ports[p]).waitLp11

/-! Setting sets (R177 to R180) -/

/-- A setting set's writes from its write list (Table 7.3): none when one is malformed. -/
def readWrites (b : List U8) (n : Nat) : Option (List (Nat × Nat × Nat)) :=
  (List.range n).mapM (fun i =>
    let w := byteAt b (8 * i + 2)
    if (w = 1 ∨ w = 2 ∨ w = 4) ∧ byteAt b (8 * i + 3) = 0 then some (leAt b (8 * i) 2, w, leAt b (8 * i + 4) 4) else none)

/-- A setting set read from its descriptor (Table 7.3), or the answer that refuses it. -/
def readSettings (d : Device) (addr : Nat) : Except (Status × Reason × Option Nat) SettingSet :=
  let b := dramRead d addr 128
  let n := byteAt b 4
  let list := leAt b 8 8
  let tone := leAt b 56 8
  let id := w32 (leAt b 0 4)
  if (poisonIn d addr 128).isSome then .error (.badCrc, .poisoned, poisonIn d addr 128)
  else if id = 0 ∨ id = 0xFFFFFFFF ∨ 64 < n ∨ leAt b 5 3 ≠ 0 ∨ leAt b 68 60 ≠ 0 then .error (.badArgument, .field, none)
  else if !inDram d list (8 * n) || (tone ≠ 0 && !inDram d tone 1542) then .error (.badArgument, .address, none)
  else if (poisonIn d list (8 * n)).isSome then .error (.badCrc, .poisoned, poisonIn d list (8 * n))
  else if tone ≠ 0 ∧ (poisonIn d tone 1542).isSome then .error (.badCrc, .poisoned, poisonIn d tone 1542)
  else
    let curve := if tone = 0 then [] else dramRead d tone 1542
    match readWrites (dramRead d list (8 * n)) n with
    | none => .error (.badArgument, .field, none)
    | some ws =>
      if tone ≠ 0 ∧ crc32c curve ≠ w32 (leAt b 64 4) then .error (.badCrc, .none, none)
      else .ok {
        setId := id, writes := ws, wbGain := (List.range 4).map (fun p => leAt b (16 + 2 * p) 2)
        target := (List.range 4).map (fun p => leAt b (24 + 2 * p) 2), matrix := (List.range 12).map (fun i => leIntAt b (32 + 2 * i) 2)
        tone := (List.range (curve.length / 2)).map (fun i => leAt curve (2 * i) 2) }

/-- Contexts in use (chapter 7): of running ports, and of queued sets. -/
def contexts (d : Device) : List Nat :=
  d.cams.ports.toList.flatMap (fun c => c.ctx.toList ++ (c.queued.map (·.ctx)).toList)

/-- The lowest free context. -/
def freeCtx (d : Device) : Nat := ((List.range 8).find? (fun k => !(contexts d).contains k)).getD 0

/-- The CCI writes of a set. -/
def writeOps (p : Port) (current : Bool) (s : SettingSet) : List CciOp := s.writes.map (fun w => .setWrite p current w.1 w.2.1 w.2.2)

/-- A band number has come to another, in 32 bits. -/
def bandReached (n first : U32) : Bool := decide ((n - first).toNat < 2 ^ 31)

/-- Every write of a port's queued set is complete (R177): the band from which it applies, and cam.settings answers. Where that band has
opened before the writes were complete, it is the next to open (log entry 77). -/
def settingsWritten (p : Port) (d : Device) : Device :=
  let c := d.cams.ports[p]
  match c.queued with
  | none => d
  | some q =>
    let k := w32 c.cfg.k
    let b : U32 := q.band.getD (match c.band with | some b => b.number | none => c.nextBand - 1)
    let early : Bool := match c.band with | some o => o.number == b && decide (2 * o.received < c.cfg.bandLines) | none => false
    let fresh := !c.running || (q.band.isNone && c.band.isNone && c.nextBand == 0)
    let due : U32 := if early then b + 1 + k else b + 2 + k
    let first : U32 := if fresh then 0 else if bandReached c.nextBand due then c.nextBand else due
    let d := modCam d p (fun c => { c with queued := some { q with applies := some first, band := if fresh then none else some b } })
    finishWork (· == .camSettings p) { results := [first] } d

/-- The writes of a port's queued set begin (R177). -/
def beginSettings (p : Port) (band : Option U32) (d : Device) : Device :=
  match (d.cams.ports[p]).queued with
  | none => d
  | some q =>
    let d := modCam d p (fun c => { c with queued := some { q with begun := true, band := band, left := q.set.writes.length } })
    if q.set.writes.isEmpty then settingsWritten p d else cciSetWrites p (writeOps p false q.set) d

/-- A port's setting-set writes taken off its bus. -/
def dropWrites (p : Port) (f : CciOp → Bool) (d : Device) : Device :=
  { d with cams := { d.cams with cci := d.cams.cci.map (fun q => q.filter (fun o => !(opPort o.1 == p && f o.1))) } }

/-- Whether an operation writes a setting. -/
def isSetWrite : CciOp → Bool
  | .setWrite _ _ _ _ _ => true
  | _ => false

/-- The queued set is abandoned after a failed write (R180): bands are UNCERTAIN until a later set applies. -/
def settingsFailed (p : Port) (set : U32) (index : Nat) (d : Device) : Device :=
  let d := modCam (dropWrites p isSetWrite d) p (fun c => { c with queued := none, uncertain := true })
  raise .camSettingsFailed [w32 p.val, set, w32 index] (finishWork (· == .camSettings p) { status := .refused } d)

/-- cam.settings (R177). -/
def execCamSettings (c : Cmd) (s : State) : Host.Outcome State Fault Refusal :=
  mervan { opcode := 0x0402, works := some 3, reads := true, slow := true, dram := true, stops := true, args := [.port, .wide 0 (2 ^ 64 - 1) 64]
           ranges := fun a => [(argN a 1, 128, false)] }
    (fun _ a d =>
      let p : Port := finOf 4 (argN a 0)
      if (d.cams.ports[p]).queued.isSome then no d .busyState
      else if sensorIsolated d p then no d .refused
      else match readSettings d (argN a 1) with
      | .error (st, r, g) => (match g with | some g => poisoned g d | none => no d st r)
      | .ok set =>
        let b := dramRead d (argN a 1) 128
        let d := dramSee (leAt b 56 8) (if leAt b 56 8 = 0 then 0 else 1542) (dramSee (leAt b 8 8) (8 * set.writes.length) d)
        let d := modCam (dirty d) p (fun c => { c with
          accepted := true, queued := some ⟨set, freeCtx d, false, none, set.writes.length, none⟩ })
        if (d.cams.ports[p]).running then .later (.camSettings p) d
        else if set.writes.isEmpty then
          ok (modCam d p (fun c => { c with queued := c.queued.map (fun q => { q with begun := true, applies := some 0 }) })) [0]
        else .later (.camSettings p) (beginSettings p none d)) c s

/-! Configuration commands -/

/-- Line bytes of a port (chapter 7). -/
def camLineBytes (c : CamCfg) : Nat := ((c.width * rawBits c + 7) / 8 + 31) / 32 * 32

/-- cam.config (Table 7.2). -/
def execCamConfig (c : Cmd) (s : State) : Host.Outcome State Fault Refusal :=
  mervan { opcode := 0x0400, stops := true
           args := [.port, .one [1, 2, 4], .num 80 2500, .num 0x2A 0x2D, .num 0 3, .mul 64 16384 2, .mul 64 16384 2, .num 1000 1000000,
             .num 1000 200000, .num 100 10000, .num 1 1000, .mul 0 100000 10, .mul 0 100000 10, .wide 0 100000000000 1, .any, .one [1, 2, 4],
             .flag, .num 0 3, .num 0 16383, .num 0 64, .num 0 16383, .num 0 512, .num 0 16383, .num 0 512, .flag, .num 0 127, .num 0 3] }
    (fun _ a d =>
      let p : Port := finOf 4 (argN a 0)
      if (d.cams.ports[p]).running then no d .busyState
      else if argN a 6 % d.cams.stripe ≠ 0 then no d .badArgument .field
      else
        let cfg : CamCfg := {
          lanes := argN a 1, laneRate := argN a 2, dtype := argN a 3, vc := argN a 4, width := argN a 5, bandLines := argN a 6
          trigPitch := argN a 7, maxRate := argN a 8, trigWidth := argN a 9, latencyMax := argN a 10, strobeDelay := argN a 11
          strobeWidth := argN a 12, camOffset := argN a 13, column0 := argN a 14, pixelStep := argN a 15, reversed := argB a 16
          mosaic := argN a 17, ob := (argN a 18, argN a 19), safWhite := (argN a 20, argN a 21), safBlack := (argN a 22, argN a 23)
          cciPort := argB a 24, cciAddr := argN a 25, k := argN a 26 }
        done (modCam d p (fun c => { c with cfg := cfg }))) c s

/-- Cycles that a port takes of the pipeline (R182). -/
def camCycles (d : Device) (c : CamCfg) : Nat := ((c.width + 3) / 4 + 16 + 256 / d.cams.stripe) * c.maxRate

/-- The reason for which cam.run refuses a set of ports (R182). -/
def camAdmission (d : Device) (ports : List Port) : Option Reason :=
  let cfgs := ports.map (fun p => (d.cams.ports[p]).cfg)
  let cycles := cfgs.map (camCycles d)
  let bytes := cfgs.map camLineBytes
  let load := if d.cams.bandMode then cycles.foldl max 0 else cycles.sum
  let buf := 2 * d.cams.stripe * (if d.cams.bandMode then bytes.foldl max 0 else bytes.sum)
  if 800000000 < load then some .overPixel
  else if 1179648 < buf then some .lineBuffer
  else if cfgs.any (fun c => decide (c.lanes * c.laneRate * 1000000 < 8 * camLineBytes c * c.maxRate)) then some .overLane
  else none

/-- A port stops: its open band ends. A queued set whose writes have not begun is written at once, and any queued set applies from the first band of
the next run (R177). -/
def stopPort (p : Port) (d : Device) : Device :=
  let d := modCam (closeBand p false d) p (fun c => { c with
    running := false, inFrame := false, dropping := false, trigQ := [], buffer := [], waitLp11 := false
    queued := c.queued.map (fun q => { q with band := none, applies := q.applies.map (fun _ => 0) }) })
  match (d.cams.ports[p]).queued with
  | some q => if q.begun then d else beginSettings p none d
  | none => d

/-- A port starts (R173, R177): its bands number from 0, and the focus position in place applies from the first. -/
def startPort (p : Port) (d : Device) : Device :=
  if (d.cams.ports[p]).running then d
  else modCam d p (fun c => { c with
    running := true, nextBand := 0, band := none, inFrame := false, dropping := false, trigQ := [], trigAt := d.pos.hwpos, lastTrig := none
    skipped := 0, orphan := 0, silent := 0, buffer := [], strobeOff := false
    focus := { c.focus with written := c.focus.written.take 1 |>.map (fun e => (e.1, 0, e.2.2)) }
    ctx := match c.ctx with | some k => some k | none => some (freeCtx d) })

/-- In band mode the first running port of ROTATION is served when the served one does not run (R181). -/
def serveFirst (d : Device) : Device :=
  if d.cams.bandMode && !(d.cams.ports[d.cams.served]).running then
    match firstPlace d.cams with
    | some i => { d with cams := { d.cams with served := d.cams.rotation.getD i.val 0, place := i, serveAtStart := true } }
    | none => d
  else d

/-- cam.run (R182). No data is exchanged with an isolated sensor, so its port does not start (R28, log entry 87). -/
def execCamRun (c : Cmd) (s : State) : Host.Outcome State Fault Refusal :=
  mervan { opcode := 0x0401, stops := true, works := some 3, args := [.num 0 15, .flag] }
    (fun _ a d =>
      let ps : List Port := (List.finRange 4).filter (fun p => bitOf (argN a 0) p.val)
      if d.pwr.held.getLsbD 1 then no d .refused .padsHeld
      else if !argB a 1 then done (serveFirst (ps.foldl (fun d p => stopPort p d) d))
      else
        let all := (List.finRange 4).filter (fun p => (d.cams.ports[p]).running || ps.contains p)
        match camAdmission d all with
        | some r => no d .badArgument r
        | none =>
          if ps.any (fun p => !(d.cams.ports[p]).accepted) then no d .refused .noSettings
          else if ps.any (sensorIsolated d) then no d .refused
          else done (serveFirst (ps.foldl (fun d p => startPort p d) d))) c s

/-- cam.schedule (R181). -/
def execCamSchedule (c : Cmd) (s : State) : Host.Outcome State Fault Refusal :=
  mervan { opcode := 0x0403, stops := true, args := [.flag, .one [4, 8, 16, 32, 64], .num 0 255] }
    (fun _ a d =>
      if d.cams.ports.toList.any (·.running) then no d .busyState
      else
        done { d with cams := { d.cams with
          bandMode := argB a 0, stripe := argN a 1, rotation := (List.range 4).map (fun i => finOf 4 (argN a 2 / 4 ^ i % 4))
          served := finOf 4 (argN a 2 % 4), place := 0, serveAtStart := true } }) c s

/-- cam.stream (Table 7.5). -/
def execCamStream (c : Cmd) (s : State) : Host.Outcome State Fault Refusal :=
  mervan { opcode := 0x0404, dram := true, stops := true
           args := [.num 0 3, .port, .num 0 3, .num 0 3, .num 1 65535, .any, .any, .any, .any, .one [1, 2, 4, 8, 16, 32, 64],
             .one [1, 2, 4, 8, 16, 32, 64], .flag, .wide 0 (2 ^ 64 - 1) 4096, .wide 65536 (2 ^ 32) 1, .flag]
           ranges := fun a => [(argN a 12, argN a 13, false)] }
    (fun _ a d =>
      if argN a 0 = 3 ∧ (argN a 9 ≠ 1 ∨ argN a 10 ≠ 1) then no d .badArgument .field
      else
        done { d with cams := { d.cams with streams := upd d.cams.streams (finOf 4 (argN a 0)) (fun _ =>
          { enable := argB a 14, port := finOf 4 (argN a 1), source := argN a 2, tapPoint := argN a 3, tapEvery := argN a 4, x0 := argN a 5
            width := argN a 6, y0 := argN a 7, height := argN a 8, scaleX := argN a 9, scaleY := argN a 10, format := argN a 11
            ringAddr := argN a 12, ringSize := argN a 13 }) } }) c s

/-- cam.release (R187). -/
def execCamRelease (c : Cmd) (s : State) : Host.Outcome State Fault Refusal :=
  mervan { opcode := 0x0405, stops := true, args := [.num 0 3, .any] }
    (fun _ a d =>
      if (d.cams.streams[(finOf 4 (argN a 0) : Fin 4)]).used < argN a 1 then no d .badArgument
      else ok { d with cams := { d.cams with
        streams := upd d.cams.streams (finOf 4 (argN a 0)) (fun t => { t with used := t.used - argN a 1 }) } }) c s

/-- Strictly ascending. -/
def ascending : List Nat → Bool
  | a :: b :: r => decide (a < b) && ascending (b :: r)
  | _ => true

/-- cam.tables (R184): BLACK_COL, SHADE and the defect list, each with its CRC-32C, for the next band open. -/
def execCamTables (c : Cmd) (s : State) : Host.Outcome State Fault Refusal :=
  mervan { opcode := 0x0406, reads := true, dram := true, stops := true, args := [.port, .addr, .addr, .addr, .num 0 512, .any, .any, .any]
           ranges := fun a => [(argN a 1, 32768, false), (argN a 2, 32768, false), (argN a 3, 2 * argN a 4, false)] }
    (fun _ a d =>
      let words := fun (addr n : Nat) => let b := dramRead d addr (2 * n); (List.range n).map (fun i => leAt b (2 * i) 2)
      let defects := words (argN a 3) (argN a 4)
      match (poisonIn d (argN a 1) 32768).or ((poisonIn d (argN a 2) 32768).or (poisonIn d (argN a 3) (2 * argN a 4))) with
      | some g => poisoned g d
      | none =>
        if !ascending defects then no d .badArgument .field
        else if crc32c (dramRead d (argN a 1) 32768) ≠ w32 (argN a 5) ∨ crc32c (dramRead d (argN a 2) 32768) ≠ w32 (argN a 6)
            ∨ crc32c (dramRead d (argN a 3) (2 * argN a 4)) ≠ w32 (argN a 7) then no d .badCrc
        else
          done (modCam d (finOf 4 (argN a 0)) (fun c => { c with
            tablesNew := some ⟨words (argN a 1) 16384, words (argN a 2) 16384, defects⟩, calNew := c.calNew + 1 }))) c s

/-- cam.dark_cal (R191). -/
def execCamDarkCal (c : Cmd) (s : State) : Host.Outcome State Fault Refusal :=
  mervan { opcode := 0x0407, slow := true, stops := true, args := [.port, .num 16 4096, .num 256 32767], results := fun _ => 2 }
    (fun _ a d =>
      let p : Port := finOf 4 (argN a 0)
      let c := d.cams.ports[p]
      if c.dark.isSome then no d .busyState
      else if !c.running then no d .refused .noBands
      else .later (.darkCal p) (modCam d p (fun c => { c with dark := some ⟨argN a 1, argN a 2, 0, 0, []⟩ }))) c s

/-- cam.white_cal (R190). -/
def execCamWhiteCal (c : Cmd) (s : State) : Host.Outcome State Fault Refusal :=
  mervan { opcode := 0x0408, slow := true, stops := true, args := [.port, .any, .num 0 15], results := fun a => if argN a 1 = 0 then 4 else 0 }
    (fun _ a d =>
      let p : Port := finOf 4 (argN a 0)
      let c := d.cams.ports[p]
      if c.cfg.safWhite.2 = 0 then no d .badArgument
      else if hasWork (· == .whiteCal p) d then no d .busyState
      else
        let d := modCam d p (fun c => { c with white := some ⟨argN a 1, BitVec.ofNat 4 (argN a 2), 0, 0, none, []⟩ })
        if argN a 1 = 0 then .later (.whiteCal p) d else ok d) c s

/-- cam.focus (R189). An isolated sensor takes no data, so MODE 1 is refused (R28, log entry 87). -/
def execCamFocus (c : Cmd) (s : State) : Host.Outcome State Fault Refusal :=
  mervan { opcode := 0x0409, works := some 3, stops := true
           args := [.port, .flag, .num 0 65535, .one [1, 2, 4], .any, .any, .any, .any, .num 0 3, .num 0 15, .num 0 15] }
    (fun _ a d =>
      let p : Port := finOf 4 (argN a 0)
      if argN a 5 < argN a 4 ∨ argN a 10 < argN a 9 then no d .badArgument .field
      else if !argB a 1 then done (modCam d p (fun c => { c with focus := { c.focus with on := false } }))
      else if sensorIsolated d p then no d .refused
      else
        let d := modCam d p (fun c => { c with focus := { c.focus with
          on := true, reg := argN a 2, width := argN a 3, posMin := argN a 4, posMax := argN a 5, step := argN a 6, dither := argN a 7
          k := argN a 8, zones := (argN a 9, argN a 10), pos := clampI (argI a 4) (argI a 5) c.focus.pos, plus := none, minus := none } })
        done (focusWrite p true d)) c s

/-- cam.band (R175, R176). -/
def execCamBand (c : Cmd) (s : State) : Host.Outcome State Fault Refusal :=
  mervan { opcode := 0x040A, stops := true, args := [.num 1 100, .num 1 10000] }
    (fun _ a d => done { d with cams := { d.cams with partialMin := argN a 0 }, acct := { d.acct with noticePitch := argN a 1 } }) c s

/-- cam.stats (R193). -/
def execCamStats (c : Cmd) (s : State) : Host.Outcome State Fault Refusal :=
  mervan { opcode := 0x040B, stops := true, args := [.port, .flag], results := fun _ => 40 }
    (fun _ a d =>
      let p : Port := finOf 4 (argN a 0)
      let c := d.cams.ports[p]
      match (if argB a 1 then c.older else c.newest) with
      | none => no d .refused .notLatched
      | some r =>
        let bs := r.bytes.take 16 ++ leBytes 4 r.dropped ++ r.bytes.drop 20
        ok (modCam d p (fun c => if argB a 1 then { c with older := some { r with read := true } }
          else { c with newest := some { r with read := true } })) (bytesWords bs)) c s

/-- cam.cci (R169): one register read or write on a stopped port. -/
def execCamCci (c : Cmd) (s : State) : Host.Outcome State Fault Refusal :=
  mervan { opcode := 0x040C, stops := true, works := some 3, args := [.port, .num 0 65535, .one [1, 2, 4], .any, .flag]
           results := fun a => if argN a 4 = 1 then 1 else 0 }
    (fun _ a d =>
      let p : Port := finOf 4 (argN a 0)
      if d.pwr.held.getLsbD 1 then no d .refused .padsHeld
      else if (d.cams.ports[p]).running then no d .busyState
      else if sensorIsolated d p then no d .refused
      else .later (.cci p) (cciAppend p [.host p (argN a 1) (argN a 2) (argN a 3) (argB a 4)] d)) c s

/-- cam.status (R171): state, contexts in use, queued set, the counts of Table 7.7's codes, trigger queue depth. -/
def execCamStatus (c : Cmd) (s : State) : Host.Outcome State Fault Refusal :=
  mervan { opcode := 0x040D, stops := true, args := [.port], results := fun _ => 31 }
    (fun _ a d =>
      let c := d.cams.ports[(finOf 4 (argN a 0) : Port)]
      let used := c.ctx.toList ++ (c.queued.map (·.ctx)).toList
      let ws := [w32 (b2n c.running), w32 ((used.map (2 ^ ·)).sum), match c.queued with | some q => q.set.setId | none => 0]
      ok d (c.viol.toList.foldl put64 ws ++ [w32 c.trigQ.length])) c s

/-! Triggers (R170, R171, R192) -/

/-- A trigger pulse at a WPOS: it enters the trigger queue, or counts as an orphan when the queue is full; the strobe follows it unless a
dark calibration holds it off (R170, R171, R191). While the pins are held or VIO_CAM is low triggers stop (Table 19.14). -/
def issueTrigger (p : Port) (w : U64) (d : Device) : Device :=
  if !camPins d then d
  else modCam d p (fun c => { c with
    lastTrig := some d.chip.qtime, silent := c.silent + 1, trigs := (w, c.cfg.strobeWidth != 0 && !c.strobeOff) :: c.trigs
    trigQ := if c.trigQ.length < 256 then c.trigQ ++ [(w, d.chip.qtime)] else c.trigQ
    orphan := if c.trigQ.length < 256 then c.orphan else c.orphan + 1 })

/-- CAM_TRIGGER (R170): the high-water WPOS passes a multiple of TRIG_PITCH; none while WPOS lies below it, or while a position is lost (R106,
Table 7.8). -/
def execCamTrigger (p : Port) (s : State) : Host.Outcome State Fault Refusal :=
  let d := s.dev
  let c := d.cams.ports[p]
  let m := (c.trigAt.toNat / max 1 c.cfg.trigPitch + 1) * c.cfg.trigPitch
  if !domainOn d 3 || !c.running || !reached d m || !webKnown d || decide (d.pos.wpos < d.pos.hwpos) then next s d
  else
    let d := modCam d p (fun c => { c with trigAt := BitVec.ofNat 64 m })
    let soon : Bool := match c.lastTrig with | some t => decide ((d.chip.qtime - t) * c.cfg.maxRate < 4000000000) | none => false
    next s (if soon then modCam d p (fun c => { c with skipped := c.skipped + 1 }) else issueTrigger p (BitVec.ofNat 64 m) d)

/-- A port runs a calibration (R190, R191). -/
def calibrating (c : Cam) : Bool := c.dark.isSome || (match c.white with | some w => w.wait == 0 | none => false)

/-- CAL_TIMER_TRIGGER (R192): while the web is stopped, the internal timer triggers a port that runs a calibration, at the held
WPOS; its band is flagged CAL. -/
def execCalTimerTrigger (p : Port) (s : State) : Host.Outcome State Fault Refusal :=
  let d := s.dev
  if domainOn d 3 && (d.cams.ports[p]).running && stopped d && calibrating d.cams.ports[p] then
    next s (modCam (issueTrigger p d.pos.wpos d) p (fun c => { c with band := c.band.map (fun b => { b with cal := true }) }))
  else next s d

/-! Bands (R173 to R181) -/

/-- What takes effect at a band open (R179, R184, R190, R191): tables, a dark calibration's and a white calibration's result, and a set. -/
def applyAtOpen (p : Port) (n : U32) (d : Device) : Device :=
  let c := d.cams.ports[p]
  let k := d.chip.drawn
  let news : Option SettingSet := match c.queued with
    | some q => (match q.applies with | some f => if bandReached n f then some q.set else none | none => none)
    | none => none
  let ctx := match c.queued with | some q => some q.ctx | none => c.ctx
  let tables := c.tablesNew.getD c.tables
  let tables := match c.darkNew with | some (b, _) => { tables with black := b } | none => tables
  let set := news.or c.set
  let wb := match set with | some s => s.wbGain | none => []
  let gain := match c.gainNew with
    | some r => wb.zipIdx.map (fun e =>
        let q := r.getD e.2 (1, 1)
        (rnd k e.2 ((e.1 * q.1 : Nat) : Int) (max 1 q.2)).toNat)
    | none => if news.isSome then wb else c.gain
  let d := { d with chip := { d.chip with drawn := k + 1 } }
  modCam d p (fun c => { c with
    tables := tables, obRef := match c.darkNew with | some (_, o) => o | none => c.obRef
    gain := gain, set := set, calSeq := c.calSeq + w32 c.calNew, calNew := 0, tablesNew := none, darkNew := none, gainNew := none
    ctx := if news.isSome then ctx else c.ctx, queued := if news.isSome then none else c.queued
    uncertain := c.uncertain && news.isNone })

/-- A dark calibration that waits begins at this band open, unless a set is queued (R191, Table 7.8). -/
def darkOpens (waited : Bool) (c : Cam) : Cam :=
  match c.dark with
  | some t => if t.stage = 0 ∧ !waited then { c with dark := some { t with stage := 1 } } else c
  | none => c

/-- A band opens UNCERTAIN (R177, R180): after a failed write, or because the queued set's writes, begun at band b, were not complete before
half of it, from band b + 1 + K until the set applies (log entry 77). -/
def bandUnsure (c : Cam) (n : U32) : Bool :=
  c.uncertain || (match c.queued with
    | some q => (match q.band with | some b => bandReached n (b + 1 + w32 c.cfg.k) | none => false)
    | none => false)

/-- A band opens (R173, R179): its number, set and flags, STROBEn off or on (R191); the queued set's writes begin (R177). -/
def openBand (p : Port) (d : Device) : Device :=
  let waited := (d.cams.ports[p]).queued.isSome
  let n := (d.cams.ports[p]).nextBand
  let d := modCam (applyAtOpen p n d) p (darkOpens waited)
  let c := d.cams.ports[p]
  let dark : Bool := match c.dark with | some t => decide (1 ≤ t.stage) | none => false
  let unsure := bandUnsure c n
  let off := d.cams.bandMode && d.cams.served != p
  let b : CamBand := {
    number := n, setId := if unsure then none else c.set.map (·.setId), dark := dark, notServed := off
    cal := stopped d && calibrating c }
  let d := modCam d p (fun c => { c with band := some b, nextBand := n + 1, dropping := false, inFrame := true, strobeOff := dark })
  let d := if d.cams.bandMode && d.cams.served == p then { d with cams := { d.cams with serveAtStart := false } } else d
  match c.queued with
  | some q => if q.begun then d else beginSettings p (some n) d
  | none => d

/-- What a packet's start and header lead to (R167, Table 7.7): an ECC error corrected is counted in DIAG. -/
def csiHeader (p : Port) (syncOk hdrOk corrected expected : Bool) (accept other : Device → Device) (d : Device) : Device :=
  if !syncOk then camViolation p 9 0x59 0 d
  else if !hdrOk then camViolation p 0 0x50 0 d
  else
    let d := if corrected then modDiag d (fun g => { g with csiEcc := upd g.csiEcc p (satAdd · 1) }) else d
    if expected then accept d else other (camViolation p 6 0x56 0 d)

/-- A short packet of a receiving port: one of another virtual channel is a violation. -/
def shortPacket (pkt : ShortPacket) (accept : Port → Device → Device) (s : State) : Host.Outcome State Fault Refusal :=
  let d := s.dev
  let p := pkt.port
  if !camOn d p then next s d
  else next s (csiHeader p pkt.syncOk pkt.hdrOk pkt.hdrCorrected (decide (pkt.vc.toNat = (d.cams.ports[p]).cfg.vc)) (accept p) id d)

/-- A frame start (R171, R173, R174). -/
def frameStart (p : Port) (d : Device) : Device :=
    let late := fun (e : U64 × Nat) => decide (e.2 + 4000 * (d.cams.ports[p]).cfg.latencyMax < d.chip.qtime)
    let d := modCam d p (fun c => { c with trigQ := c.trigQ.filter (fun e => !late e), orphan := c.orphan + (c.trigQ.filter late).length })
    let d := match (d.cams.ports[p]).band with
      | some b => closeBand p false (if b.notServed then d else camViolation p 5 0x55 0 d)
      | none => d
    openBand p d

/-- CSI_FRAME_START (R167, R171, R173, R174). -/
def execCsiFrameStart (pkt : ShortPacket) (s : State) : Host.Outcome State Fault Refusal := shortPacket pkt frameStart s

/-- A frame end comes before BAND_LINES lines of a band that the port serves (R174). -/
def shortBand (c : Cam) : Bool :=
  match c.band with
  | some b => decide (b.received < c.cfg.bandLines) && !b.notServed
  | none => false

/-- A frame end (R173, R174). -/
def frameEnd (p : Port) (d : Device) : Device :=
  modCam (closeBand p false (if shortBand d.cams.ports[p] then camViolation p 3 0x53 0 d else d)) p (fun c => { c with inFrame := false })

/-- CSI_FRAME_END (R167, R173, R174). -/
def execCsiFrameEnd (pkt : ShortPacket) (s : State) : Host.Outcome State Fault Refusal := shortPacket pkt frameEnd s

/-- A line received in an open band: dropped, or kept in the camera line buffer. -/
def bandLine (p : Port) (trig : U64) (kept : Option CamLine) (crc : Bool) (d : Device) : Device :=
  modCam d p (fun c => { c with
    buffer := c.buffer ++ kept.toList
    band := c.band.map (fun b => { b with
      received := b.received + 1, lastTrig := some trig, lines := b.lines + kept.toList.length
      dropped := if kept.isSome then b.dropped else b.dropped + 1, crcBad := b.crcBad + b2n crc }) })

/-- Lines after the band closed LONG, up to the next frame start, count in its DROPPED (R174). -/
def lateLine (p : Port) (d : Device) : Device :=
  modCam d p (fun c => { c with newest := c.newest.map (fun r => { r with dropped := r.dropped + 1 }) })

/-- The trigger WPOS of a long packet: the oldest entry of the queue (R171); where the queue is empty the manual states none, and it is free
(log entry 9). -/
def takeTrigger (p : Port) (d : Device) : U64 × Device :=
  match (d.cams.ports[p]).trigQ with
  | e :: rest => (e.1, modCam d p (fun c => { c with trigQ := rest }))
  | [] => draw d

/-- A long packet inside a frame of the port's data type and channel (R171, R173, R174, R181, R183). -/
def framePacket (p : Port) (pkt : LongPacket) (d : Device) : Device :=
  let (w, d) := takeTrigger p d
  let c := d.cams.ports[p]
  match c.band with
  | none => if c.dropping then lateLine p d else d
  | some b =>
    if c.cfg.bandLines ≤ b.received then
      let d := closeBand p true (bandLine p w none false (if b.notServed then d else camViolation p 4 0x54 0 d))
      modCam d p (fun c => { c with dropping := true })
    else if b.notServed then bandLine p w none false d
    else if !pkt.crcOk then bandLine p w none true (camViolation p 1 0x51 0 d)
    else if pkt.words ≠ c.cfg.width * rawBits c.cfg / 8 then bandLine p w none false (camViolation p 2 0x52 0 d)
    else if 2 * d.cams.stripe ≤ c.buffer.length then bandLine p w none false (camViolation p 6 0x56 0 d)
    else
      let k := d.chip.drawn
      bandLine p w (some ⟨pkt.pixels, w, k⟩) false { d with chip := { d.chip with drawn := k + 1 } }

/-- CSI_LONG_PACKET (R167, R171 to R174, Table 7.7): every long packet shows that the sensor is not silent; one that follows the end of a
frame cut LONG counts in that band's DROPPED (R174). -/
def execCsiLongPacket (p : Port) (pkt : LongPacket) (s : State) : Host.Outcome State Fault Refusal :=
  let d := s.dev
  let c := d.cams.ports[p]
  let mine : Bool := pkt.dtype.toNat == c.cfg.dtype && pkt.vc.toNat == c.cfg.vc
  let heard := fun d => modCam d p (fun c => { c with silent := 0 })
  let outside := fun d => if mine && c.dropping then lateLine p (heard d) else heard d
  if !camOn d p then next s d
  else next s (csiHeader p pkt.syncOk pkt.hdrOk pkt.hdrCorrected (mine && c.inFrame) (fun d => framePacket p pkt (heard d)) outside d)

/-! Re-initialisation and isolation (R194) -/

/-- A camera port is re-initialised (R194): its D-PHY receiver is reset, the open band closes as partial, and its writes wait for LP-11. -/
def camReinit (p : Port) (d : Device) : Device :=
  modCam (dropWrites p isSetWrite (closeBand p false d)) p (fun c => { c with
    waitLp11 := true, inFrame := false, dropping := false, silent := 0, buffer := [] })

/-- CSI_CRC_BURST (Table 7.7): more than 64 lines of one band failed CRC-16. -/
def execCsiCrcBurst (p : Port) (s : State) : Host.Outcome State Fault Refusal :=
  let d := s.dev
  let burst : Bool := match (d.cams.ports[p]).band with | some b => decide (64 < b.crcBad) | none => false
  if camOn d p && burst then next s (camReinit p (camViolation p 7 0x57 2 d)) else next s d

/-- SENSOR_SILENT (Table 7.7): 4 × BAND_LINES triggers without a long packet. -/
def execSensorSilent (p : Port) (s : State) : Host.Outcome State Fault Refusal :=
  let d := s.dev
  if camOn d p && decide (4 * (d.cams.ports[p]).cfg.bandLines ≤ (d.cams.ports[p]).silent) then
    next s (camReinit p (camViolation p 8 0x58 2 d))
  else next s d

/-- LP11_DETECTED (R194): LP-11 on every lane after the reset; the current set is written again, and a queued set's writes restart from the
first. An isolated sensor is written nothing (R28). -/
def execLp11Detected (p : Port) (s : State) : Host.Outcome State Fault Refusal :=
  let d := s.dev
  let c := d.cams.ports[p]
  if !domainOn d 3 || !c.waitLp11 then next s d
  else
    let d := modCam d p (fun c => { c with waitLp11 := false })
    if sensorIsolated d p then next s d
    else
    let d := match c.set with | some s => cciSetWrites p (writeOps p true s) d | none => d
    next s (match c.queued with
      | some q => if q.begun && q.applies.isNone then beginSettings p none d else d
      | none => d)

/-- The data bytes of a camera register write, most significant first (R169). -/
def cciBytes (width : Nat) (v : Int) : List U8 := (leBytes width (v % 2 ^ (8 * width)).toNat).reverse

/-- What a transaction does on its bus (R169): a write of WIDTH bytes at auto-incrementing indices, or a read of as many. -/
def cciAct (d : Device) (bus : Bool) (op : CciOp) : CciAct :=
  let addr := (d.cams.ports[opPort op]).cfg.cciAddr
  match op with
  | .setWrite _ _ reg w v => .write bus addr reg (cciBytes w v)
  | .focus _ reg w v _ => .write bus addr reg (cciBytes w v)
  | .host _ reg w v false => .write bus addr reg (cciBytes w v)
  | .host _ reg w _ true => .read bus addr reg w

/-- An act of the camera I2C host ports enters their trace. -/
def cciTrace (a : CciAct) (d : Device) : Device := { d with cams := { d.cams with cciSent := a :: d.cams.cciSent } }

/-- The transaction at the head of a bus has succeeded (R169). -/
def cciSucceeds (op : CciOp) (v : U32) (d : Device) : Device :=
  match op with
  | .setWrite p false _ _ _ =>
    let d := modCam d p (fun c => { c with queued := c.queued.map (fun q => { q with left := q.left - 1 }) })
    (match (d.cams.ports[p]).queued with
     | some q => if q.left = 0 && q.applies.isNone then settingsWritten p d else d
     | none => d)
  | .setWrite _ true _ _ _ => d
  | .focus p _ _ x up => modCam d p (fun c => { c with focus := { c.focus with
      written := (x, c.nextBand.toNat + c.focus.k, up) :: c.focus.written.take 15 } })
  | .host p _ w _ read => finishWork (· == .cci p) { results := if read then [w32 (v.toNat % 2 ^ (8 * w))] else [] } d

/-- The transaction at the head of a bus has failed after its retries (R180). -/
def cciFails (bus : Bool) (op : CciOp) (d : Device) : Device :=
  match op with
  | .setWrite p false _ _ _ =>
    (match (d.cams.ports[p]).queued with
     | some q => settingsFailed p q.set.setId (q.set.writes.length - q.left) d
     | none => d)
  | .setWrite p true _ _ _ =>
    let isCurrent : CciOp → Bool := fun o => match o with | .setWrite _ true _ _ _ => true | _ => false
    let left := ((d.cams.cci[cciIdx bus]).filter (fun o => opPort o.1 == p && isCurrent o.1)).length
    let d := modCam (dropWrites p isCurrent d) p (fun c => { c with uncertain := true })
    (match (d.cams.ports[p]).set with
     | some s => raise .camSettingsFailed [w32 p.val, s.setId, w32 (s.writes.length - left - 1)] d
     | none => d)
  | .focus _ _ _ _ _ => d
  | .host p _ _ _ _ => finishWork (· == .cci p) { status := .refused } d

/-- The head of a bus taken off. -/
def cciPop (bus : Bool) (d : Device) : Device := { d with cams := { d.cams with cci := upd d.cams.cci (cciIdx bus) (fun q => q.drop 1) } }

/-- CCI_TRANSACTION_DONE (R169, Table 7.7): a transaction that is not acknowledged is retried twice; none is while
the pins do not work (R371, R419), and one with an isolated sensor is not made (R28). -/
def execCciTransactionDone (bus : Bool) (result : BusResult) (s : State) : Host.Outcome State Fault Refusal :=
  let d := s.dev
  match d.cams.cci[cciIdx bus] with
  | [] => next s d
  | (op, tries) :: _ =>
    if !domainOn d 3 then next s d
    else if sensorIsolated d (opPort op) then next s (cciFails bus op (cciPop bus d))
    else match (if camPins d then result else .nak) with
    | .ok v => next s (cciSucceeds op v (cciPop bus (cciTrace (cciAct d bus op) d)))
    | _ =>
      let d := cciViolation (opPort op) 10 0x65 0 d
      if tries < 2 then
        next s { d with cams := { d.cams with cci := upd d.cams.cci (cciIdx bus) (fun q => (op, tries + 1) :: q.drop 1) } }
      else next s (cciFails bus op (cciPop bus d))

/-- CCI_STRETCH (Table 7.7, R194): the bus is recovered as R166 says, and the transaction at its head is made again. -/
def execCciStretch (bus : Bool) (s : State) : Host.Outcome State Fault Refusal :=
  let d := s.dev
  match d.cams.cci[cciIdx bus] with
  | (op, _) :: _ => if domainOn d 3 then next s (cciTrace (.recover bus) (cciViolation (opPort op) 11 0x66 2 d)) else next s d
  | [] => next s d

/-- CCI_SILENT (Table 7.7): no successful transaction with a sensor for 100 ms while writes are pending isolates it; its port stops. -/
def execCciSilent (p : Port) (s : State) : Host.Outcome State Fault Refusal :=
  let d := s.dev
  let bus := (d.cams.ports[p]).cfg.cciPort
  if domainOn d 3 && !sensorIsolated d p && (d.cams.cci[cciIdx bus]).any (fun o => opPort o.1 == p) then
    let d := isolatePartner 7 (cciSource (d.cams.ports[p]).cfg) (cciViolation p 12 0x67 3 d)
    let d := match (d.cams.ports[p]).queued with
      | some q => if q.applies.isNone then settingsFailed p q.set.setId (q.set.writes.length - q.left) d else d
      | none => d
    let d := dropWrites p (fun _ => true) d
    let d := finishAll (· == .cci p) { status := .refused } d
    next s (serveFirst (raise .camPortStopped [w32 p.val] (stopPort p d)))
  else next s d

end Sys2Proof.Machine
end

