-- ==== Sys2Proof/Machine/HeadLink.lean ====
section
/-! DEFINITION. The head link on the FKB2's side (chapter 5): its commands, the STATUS cells it receives and its timeouts. -/
namespace Sys2Proof.Machine

/-- Every head of a mask is on the variant (R3). -/
def maskFused (d : Device) (m : Nat) : Bool := (headsIn m).any (fun h => !hasHead d h.val)

/-- A head is in a plane of the running, staged or scheduled job (Table 5.12). -/
def headInJob (d : Device) (h : Head) : Bool :=
  (match d.jobs.running with | some j => j.state == .running && (planeOf j.desc h.val).isSome | none => false)
    || (match d.jobs.staged with | some j => (planeOf j.desc h.val).isSome | none => false)

/-- head.link for one head: a newly enabled lane trains, a disabled one goes down, and a new rate retrains a lane (Table 5.12). -/
def setLink (rate nozzles : Nat) (enable : Bool) (d : Device) (h : Head) : Device :=
  let was := d.links[h]
  let st := (getLane d (.hl h)).state
  let d := modLink d h (fun l => { l with rate := BitVec.ofNat 2 rate, nozzles := nozzles, enable := enable })
  if !enable then
    let d := if st == .up || st == .idle then linkFell (.hl h) d else abandonTest (.hl h) d
    modLane d (.hl h) (fun s => { s with state := .disabled, phase := none, test := none })
  else if st == .disabled then (if (getLane d (.hl h)).enable && headLanesMay d then modLane d (.hl h) restartLane else d)
  else if was.rate.toNat != rate then retrainLane (.hl h) d
  else d

/-- head.link (R122, Table 5.12). -/
def execHeadLink (c : Cmd) (s : State) : Host.Outcome State Fault Refusal :=
  mervan { opcode := 0x0200, args := [.wide 0 (2 ^ 40 - 1) 1, .num 0 3, .mul 512 6144 256, .flag] }
    (fun _ a d =>
      if maskFused d (argN a 0) then no d .badArgument
      else if (headsIn (argN a 0)).any (headInJob d) then no d .busyState
      else done ((headsIn (argN a 0)).foldl (setLink (argN a 1) (argN a 2) (argB a 3)) d)) c s

/-- Position of a head state in Table 5.9. -/
def headStateNum : HeadState → Nat
  | .down => 0
  | .linked => 1
  | .present => 2
  | .isolated => 3

/-- The results of head.status (Table 5.12, R433). DESIGN CHOICE: the order and widths of its words (log entry 76). -/
def headStatusWords (d : Device) (h : Head) : List U32 :=
  let l := d.links[h]
  let cell : Nat → Option StatusCell → List U32 := fun n c =>
    match c with | some c => bytesWords (padTo n (statusBytes c)) | none => List.replicate (n / 4) 0
  let (lf, df) := match d.jobs.staged with
    | some j => (laneFit d h (dirOf (stagedThresh d) h.val).bits j.desc.maxLineRate, depthFit d h)
    | none => (false, false)
  l.viol.toList.foldl put64
    ([w32 (headStateNum l.state), w32 l.rate.toNat] ++ cell 32 l.ident ++ cell 48 l.report
      ++ [w32 (match l.delay with | some x => x.2.2 | none => 0), w32 (b2n lf + 2 * b2n df)])

/-- head.status (Table 5.12). -/
def execHeadStatus (c : Cmd) (s : State) : Host.Outcome State Fault Refusal :=
  mervan { opcode := 0x0201, args := [.head], results := fun _ => 44 }
    (fun _ a d =>
      if !hasHead d (argN a 0) then no d .badArgument else ok d (headStatusWords d (finOf 40 (argN a 0)))) c s

/-- head.echo: ECHO to the adapter; the reply completes the command (R137, Table 5.12). -/
def execHeadEcho (c : Cmd) (s : State) : Host.Outcome State Fault Refusal :=
  mervan { opcode := 0x0202, args := [.head], results := fun _ => 3 }
    (fun _ a d =>
      let h : Head := finOf 40 (argN a 0)
      if !hasHead d (argN a 0) then no d .badArgument
      else if !mayControl d 6 || (d.links[h].state != .linked && d.links[h].state != .present) then no d .refused
      else .later (.echo h) (sendControl h 6 [] d)) c s

/-- head.safe drives HEAD_SAFE_N low or releases it (R130). -/
def execHeadSafe (c : Cmd) (s : State) : Host.Outcome State Fault Refusal :=
  mervan { opcode := 0x0203, args := [.flag] }
    (fun _ a d => ok { d with chip := { d.chip with headSafeSet := argB a 0 } }) c s

/-- head.witness: WITNESS to the named heads; it completes with the last reply or after 100 µs (R129, Table 5.12). -/
def execHeadWitness (c : Cmd) (s : State) : Host.Outcome State Fault Refusal :=
  mervan { opcode := 0x0204, args := [.wide 0 (2 ^ 40 - 1) 1], results := fun a => 3 * (headsIn (argN a 0)).length }
    (fun _ a d =>
      if maskFused d (argN a 0) then no d .badArgument
      else if !mayControl d 4 then no d .refused
      else
        let up := (headsIn (argN a 0)).filter (headTalks d)
        let m := up.foldl (fun m h => m ||| BitVec.ofNat 40 (2 ^ h.val)) (0 : BitVec 40)
        let named := BitVec.ofNat 40 (argN a 0)
        let d := up.foldl (fun d h => sendControl h 4 [] (modLink d h (fun l => { l with witness := none }))) d
        if m = 0 then ok d (witnessWords named []) else .later (.witness named m []) d) c s

/-! STATUS cells received -/

/-- A head isolated or re-initialised over a violation of Table 5.10. -/
def fhlReinit (h : Head) (k : Fin 10) (d : Device) : Device := reinitLane (.hl h) (fhlViolation h k 2 d)

/-- A REPORT whose EPOCH_REJECT is set or whose HIGHEST_EPOCH is above the unit's epoch: EV_EPOCH_REJECTED, a PRESENT head is absent, and a
unit of a pair demotes itself (R128, R332). A head that is LINKED is absent already, and its bring-up goes on (R125). -/
def epochRejected (h : Head) (c : StatusCell) (d : Device) : Device :=
  let top := if d.red.highest < c.highest then c.highest else d.red.highest
  let d := modRed d (fun r => { r with highest := top })
  demote (raise .epochRejected [w32 h.val] (if d.links[h].state == .present then headAbsent h .linked d else d))

/-- FIRE cells completely sent on a head's lane since its base (R140). -/
def firesSent (d : Device) (h : Head) : Nat :=
  let l := d.links[h]
  l.fireSent + (l.out.fires.filter (fun t => decide (t ≤ txNow d))).length

/-- The checks of a REPORT beside its epoch: OVER_FIRE, DISCARD_SEEN and LOST_CONFIG (R140, Table 5.10). -/
def checkReport (h : Head) (c : StatusCell) (was : Option StatusCell) (d : Device) : Device :=
  let l := d.links[h]
  let d := if l.configured && decide (l.base + firesSent d h < firedRows c) then fhlViolation h 7 3 d else d
  let d := match was with
    | some p => if decide (leAt p.payload 26 2 < leAt c.payload 26 2) && !bitOf (byteAt c.payload 2) 3 then fhlViolation h 8 0 d else d
    | none => d
  if l.configured && !bitOf (byteAt c.payload 2) 1 && !decide (d.red.epoch < c.highest) then fhlReinit h 9 d else d

/-- A STATUS REPORT arrives (R140): kept, checked, and taken as the reply it may be. -/
def execStatusReportReceived (h : Head) (cell : StatusCell) (s : State) : Host.Outcome State Fault Refusal :=
  match takeStatus h 0 cell s.dev with
  | (none, d) => next s d
  | (some _, d) =>
    let was := d.links[h].report
    let d := modLink d h (fun l => { l with report := some cell })
    let d := if d.red.reconciling && d.red.firstReports[h].isNone then
        modRed d (fun r => { r with firstReports := upd r.firstReports h (fun _ => some cell) })
      else d
    let d := checkReport h cell was d
    let rejected := bitOf (byteAt cell.payload 2) 3 || decide (d.red.epoch < cell.highest)
    next s (noteReady s.dev (controlReplied h cell (if rejected then epochRejected h cell d else d)))

/-- A STATUS IDENT reply arrives: HEAD_ID, NOZZLES and the lane rate are checked (R124). -/
def execStatusIdentReceived (h : Head) (cell : StatusCell) (s : State) : Host.Outcome State Fault Refusal :=
  match takeStatus h 1 cell s.dev with
  | (none, d) => next s d
  | (some _, d) =>
    let expected := match d.links[h].await with | some (k, _) => k.subtype == 0 && k.seq == cell.echoSeq | none => false
    if !expected then next s d
    else
      let d := modLink d h (fun l => { l with ident := some cell, await := none })
      if byteAt cell.payload 0 % 64 != h.val then next s (fhlViolation h 6 3 d)
      else if leAt cell.payload 2 2 < d.links[h].nozzles ∨ !bitOf (byteAt cell.payload 1) (4 + d.links[h].rate.toNat) then
        next s (raise .headUnfit [w32 h.val] (modLink d h (fun l => { l with bring := .unfit })))
      else next s (emitControl h 6 [] (modLink d h (fun l => { l with bring := .echo })))

/-- A STATUS ECHO reply arrives: the one-way delay is (round trip − TURN) ÷ 2 (R124); it completes head.echo. -/
def execStatusEchoReceived (h : Head) (cell : StatusCell) (roundTrip : U32) (s : State) : Host.Outcome State Fault Refusal :=
  match takeStatus h 3 cell s.dev with
  | (none, d) => next s d
  | (some _, d) =>
    let expected := match d.links[h].await with | some (k, _) => k.subtype == 6 && k.seq == cell.echoSeq | none => false
    if !expected then next s d
    else
      let turn := leAt cell.payload 0 4
      let delay := (roundTrip.toNat - turn) / 2
      let d := modLink d h (fun l => { l with delay := some (roundTrip.toNat, turn, delay) })
      let d := if d.links[h].bring == .echo then d
        else finishWork (· == .echo h) { results := [roundTrip, w32 turn, w32 delay] } d
      next s (controlReplied h cell d)

/-- A STATUS WITNESS reply arrives with OTHER_AGE and OTHER_EPOCH (R129, R324). -/
def execStatusWitnessReceived (h : Head) (cell : StatusCell) (s : State) : Host.Outcome State Fault Refusal :=
  match takeStatus h 2 cell s.dev with
  | (none, d) => next s d
  | (some _, d) =>
    let age := w32 (leAt cell.payload 0 4)
    let ep := w32 (leAt cell.payload 4 4)
    let d := modLink d h (fun l => { l with witness := some (age, ep) })
    let top := fun (a b : U32) => if a < b then b else a
    let d := modRed d (fun r => { r with highest := top (top r.highest ep) cell.highest })
    next s (unaskWitness h (some (age, ep)) (controlReplied h cell d))

/-- No reply within 100 µs (R119): the cell is resent with its SEQ, at most twice; then NO_REPLY, and the lane is re-initialised. A
head that head.witness asked counts as not replying after the first 100 µs, and one that head.echo asked after the last. A unit
whose role sends no such cell resends none (R308). -/
def execControlReplyTimeout (h : Head) (s : State) : Host.Outcome State Fault Refusal :=
  match s.dev.links[h].await with
  | none => next s s.dev
  | some (k, n) =>
    let d := if k.subtype == 4 then unaskWitness h none s.dev else s.dev
    if !mayControl d k.subtype then next s d
    else if n < 2 then next s (sendCell h (.control k) (modLink d h (fun l => { l with await := some (k, n + 1) })))
    else
      let d := finishAll (· == .echo h) { status := .refused } d
      next s (noteReady s.dev (fhlReinit h 4 (modLink d h (fun l => { l with await := none, queue := [] }))))

/-- No REPORT for 10 STATUS_PERIODs while CONFIGURED: STATUS_SILENT (Table 5.10). -/
def execStatusSilent (h : Head) (s : State) : Host.Outcome State Fault Refusal :=
  if s.dev.links[h].configured && headLaneUp s.dev h then next s (noteReady s.dev (fhlReinit h 5 s.dev)) else next s s.dev

/-- More than 8 CRC failures on the lane within 1 ms: CRC_BURST (Table 5.10). -/
def execFhlCrcBurst (h : Head) (s : State) : Host.Outcome State Fault Refusal :=
  if headLaneUp s.dev h && s.dev.links[h].state != .isolated then next s (noteReady s.dev (fhlReinit h 1 s.dev)) else next s s.dev

/-- HEAD_SAFE_N is low behind the 100 ns filter (R132): tokens are skipped under HEAD_SAFE from now on, and of the LINE cells that wait only NULL
ones are still sent. -/
def execHeadSafeNFall (s : State) : Host.Outcome State Fault Refusal :=
  let d := s.dev
  next s { d with
    chip := { d.chip with headSafeLow := true }
    links := mapAll d.links (fun l => { l with out := { l.out with lines := l.out.lines.filter (·.isNull) } }) }

/-- HEAD_SAFE_N is released (R132): tokens with rows still to fire are HEAD_SAFE, and firing resumes from the next commit point (Table
4.6); the adapters accept LINE cells as usual (R131). -/
def execHeadSafeNRise (s : State) : Host.Outcome State Fault Refusal :=
  let d := s.dev
  let d := { d with adapters := mapAll d.adapters (fun a => { a with safe := false }) }
  if d.chip.headSafeLow then
    next s { (skipTokens (fun _ => true) .headSafe d) with chip := { d.chip with headSafeLow := false } }
  else next s d

end Sys2Proof.Machine
end

