-- ==== Sys2Proof/Machine/Power.lean ====
section
/-! DEFINITION. Power states (chapter 15). -/
namespace Sys2Proof.Machine

/-- The stop order of R367, by the domain numbers of Table 15.4. -/
def stopOrder : List Nat := [3, 5, 2, 6, 7, 1, 8, 4]

/-- A domain refuses to quiesce: D_MEM during a training sweep (R369). -/
def mayQuiesce (d : Device) : Bool := !(d.pwr.todo.head? == some 4 && d.dram.work.isSome && !d.dram.holding)

/-- A domain has drained (R367, Table 15.5). What is in progress for a time of its own is followed for D_CTL, D_CAM, D_DP, D_MEM, the lanes and
D_PCIE; a PMBus transaction takes no time here (log entry 82). -/
def drained (d : Device) (k : Nat) : Bool :=
  match k with
  | 1 => d.mbx.inFlight.all (fun e => e.work == .pwr) && d.nv.programs.isEmpty
  | 2 => d.feed.rings.toList.all (fun r => r.fetching.isNone) && d.feed.tileWork.isEmpty
      && d.cz.jobs.isEmpty && d.cz.decs.isEmpty && d.cz.held.all (fun m => m.begun.isNone)
  | 3 => d.cams.cci.toList.all (·.isEmpty)
  | 4 => d.dram.waiting.isEmpty && !sweeping d && d.dram.owed.toList.all (fun v => v.toList.all (fun n => decide (n ≤ 0)))
  | 6 => (List.finRange 40).all (fun h =>
      let l := advanceTx h (txNow d) d.links[h]
      txIdleNow l && l.await.isNone)
  | 7 => (advancePorts d).fabric.ports.toList.all (fun q => portQuiet q && framesLeft q == 0 && q.replay.isEmpty && !q.grantDue && q.used.toList.all (· == 0))
      && d.cz.held.isEmpty && d.red.replay.isEmpty && d.red.waiting.isEmpty && !d.red.ackDue
  | 8 => d.mbx.buffers.isEmpty && d.mbx.fjobs.isEmpty && d.dram.waiting.all (fun r => r.source != 1)
  | _ => true

/-- D_DAC abandons a calibration in progress with its old trims (R162, Table 15.5): a commanded one answers REFUSED (log entry 94), that of start-up or
of a promotion begins its core again. -/
def quiesceDac (d : Device) : Device :=
  let d := { d with drive := { d.drive with groups := mapAll d.drive.groups (fun g =>
    { g with cal := if g.start.isEmpty then none else g.cal.map (fun c => (c.1, none)) }) } }
  finishAll (fun w => match w with | .dacCal _ _ _ => true | _ => false) { status := .refused } d

/-- A domain begins to quiesce (Table 15.5). -/
def quiesce (d : Device) : Device :=
  let d := { d with pwr := { d.pwr with drainAt := d.chip.qtime } }
  match d.pwr.todo with
  | 5 :: _ => quiesceDac d
  | _ => d

/-- A domain has quiesced; the head lanes enter electrical idle with D_LANEH (Table 15.5). -/
def quiet (k : Nat) (rest : List Nat) (d : Device) : Device :=
  let d := { d with pwr := { d.pwr with
    quiesced := k :: d.pwr.quiesced, todo := rest, took := upd d.pwr.took (finOf 9 k) (fun _ => d.chip.qtime - d.pwr.drainAt) } }
  if k = 6 then idleHeadLanes d else d

/-- The next domain of the stop order begins to quiesce, or refuses with TRAINING (R367, R369). -/
def nextDomain (d : Device) : Device :=
  if mayQuiesce d then quiesce d else refuseEntry .training (some 4) d

/-- Phase 1 starts (R367). -/
def startPhase1 (d : Device) : Device :=
  let d := wakeCores d
  nextDomain { d with pwr := { d.pwr with
    phase := 1, quiesced := [], took := Vector.replicate 9 0, todo := stopOrder.filter (fun k => condIn d.pwr.target k != .on) } }

/-- The ASYNC requests whose work is done report it with EV_COMMAND_DONE before D_PCIE stops (R346, R370). -/
def reportDone (d : Device) : Device :=
  (d.mbx.inFlight.filter (·.async)).foldl (fun d e => match e.final with | some r => commandDone e r d | none => d) d

/-- Every domain has quiesced (R370): the response OK is written, that of an ASYNC request with its event, then phase 2 begins; it ends within a free
time of at most 100 µs (log entry 100). -/
def allQuiesced (d : Device) : Device :=
  let (v, d) := draw (reportDone (finishWork (· == .pwr) {} d))
  { d with pwr := { d.pwr with phase := 2, phaseAt := some (d.chip.qtime + v.toNat % 400001) } }

/-- Phase 2 ends, and a wake from SLEEP that PWR_WAKE has started reaches RUN, at their times (R370, R408). -/
def powerStep (d : Device) : Device :=
  let d := if d.pwr.phase == 2 && d.pwr.phaseAt.all (fun t => decide (t ≤ d.chip.qtime)) then enterState d else d
  if d.pwr.state == .sleep && d.pwr.wakeAt.any (fun t => decide (t ≤ d.chip.qtime)) then wakeUp 4 d else d

/-- The domain whose turn it is has drained (R367, Table 15.5). -/
def execDomainDrained (s : State) : Host.Outcome State Fault Refusal :=
  let d := s.dev
  match d.pwr.todo with
  | [] => next s d
  | k :: rest =>
    if d.pwr.phase == 1 && drained d k && !d.therm.trip then
      let d := quiet k rest d
      if rest.isEmpty then next s (allQuiesced d) else next s (nextDomain d)
    else next s d

/-- 1 ms has passed and the domain has not drained: DRAIN_TIMEOUT, with its number (R368). -/
def execDrainTimeout (s : State) : Host.Outcome State Fault Refusal :=
  let d := s.dev
  if d.pwr.phase == 1 then next s (refuseEntry .drainTimeout d.pwr.todo.head? d) else next s d

/-- What refuses a request for a low-power state before any domain stops (R366). -/
def stopRefusal (d : Device) : Option Reason :=
  if jobStaged d || jobRunning d then some .jobActive
  else if d.cams.ports.toList.any (·.running) then some .camRunning
  else if paired d && d.red.role == .active then some .pairActive
  else if d.therm.trip then some .thermal
  else none

/-- What refuses a pwr.state request (R366): one through the rings for a state without the link needs LINK_DOWN_OK. -/
def entryRefusal (c : Cmd) (a : List Int) (d : Device) : Option Reason :=
  (stopRefusal d).or (if 2 ≤ argN a 0 ∧ c.origin = .ring ∧ argN a 2 = 0 then some .linkDown else none)

/-- pwr.state (R366, R367, R375): TARGET, RETAIN, LINK_DOWN_OK. TARGET RUN wakes a device in SLEEP through the management transport. -/
def execPwrState (c : Cmd) (s : State) : Host.Outcome State Fault Refusal :=
  mervan { opcode := 0x0800, slow := true, args := [.num 0 3, .num 0 15, .flag] }
    (fun c a d =>
      if d.pwr.phase != 0 then no d .busyState
      else if argN a 0 = 0 then (if d.pwr.state == .sleep then .after {} d (wakeUp 3) else ok d)
      else
        match entryRefusal c a d with
        | some r => .reply { status := .refused, reason := r } (setIrq 5 d)
        | none =>
          let t : PState := if argN a 0 = 1 then .sleep else if argN a 0 = 2 then .deep else .off
          let d := { d with pwr := { d.pwr with
            target := t, retain := BitVec.ofNat 4 (argN a 1), viaMgmt := c.origin == .mgmt, own := false } }
          if t == .sleep || !mayCapture d then .later .pwr (startPhase1 d)
          else .later .pwr (captureCheckpoint { d with pwr := { d.pwr with phase := 3 } })) c s

/-- A checkpoint can be programmed: the flash pins work, and its slot is blank (R401, log entry 83). -/
def checkpointFits (d : Device) : Bool :=
  flashPins d && slotBlank d && !waitsErase 160 223 d && d.nv.cmdErases.all (fun e => e.1 != (checkpointSlot d.nv).val + 2)

/-- The checkpoint being written commits (R401); a request for DEEP SLEEP or OFF that waited for it enters phase 1 (R366). -/
def execCheckpointCommitted (s : State) : Host.Outcome State Fault Refusal :=
  let d := s.dev
  match (if !checkpointFits d then none else d.nv.writing) with
  | none => next s d
  | some c =>
    let d := commitCheckpoint c d
    if d.pwr.phase == 3 then next s (startPhase1 d) else next s d

/-- A role change requests SLEEP through the same protocol (R363, R366); one that the protocol refuses leaves the unit in RUN (log entry 94). -/
def roleSleep (d : Device) : Device :=
  if d.pwr.phase == 0 && d.pwr.state == .run && (stopRefusal d).isNone then
    startPhase1 { d with pwr := { d.pwr with target := .sleep, own := true } }
  else d

/-- The condition and the quiesce time of the nine domains (Table 15.9), the time in ns (log entry 94). -/
def condWords (d : Device) : List U32 :=
  (List.finRange 9).flatMap (fun k => [w32 (condNum d.pwr.cond[k]), w32 (d.pwr.took[k] / 4)])

/-- pwr.status (Table 15.9), the IDLE residency in ns (log entry 94). -/
def execPwrStatus (c : Cmd) (s : State) : Host.Outcome State Fault Refusal :=
  mervan { opcode := 0x0801, results := fun _ => 24 }
    (fun _ _ d =>
      let st := match d.pwr.state with | .run => if d.pwr.idle then 1 else 0 | .sleep => 2 | .deep => 3 | .off => 4
      let rest := if d.pwr.idle then d.pwr.residency + (d.chip.qtime - d.pwr.idleAt) else d.pwr.residency
      ok d (put64 (w32 st :: condWords d ++ [w32 d.pwr.held.toNat, w32 d.pwr.lastWake.toNat,
        w32 (match d.chip.lastClockFault with | none => 0 | some false => 1 | some true => 2)]) (rest / 4))) c s

/-- pwr.idle (R365). -/
def execPwrIdle (c : Cmd) (s : State) : Host.Outcome State Fault Refusal :=
  mervan { opcode := 0x0802, args := [.flag] }
    (fun _ a d =>
      let d := if argB a 0 then d else wakeCores d
      done { d with pwr := { d.pwr with idleOn := argB a 0 } }) c s

/-- All four control cores wait with no work: CLK_CTL is gated (R365), D_CTL GATED (Table 15.4). -/
def execIdleEntry (s : State) : Host.Outcome State Fault Refusal :=
  let d := s.dev
  if ready d && d.pwr.state == .run && d.pwr.idleOn && !d.pwr.idle && d.mbx.inFlight.isEmpty && d.mbx.cmdHead == d.mbx.cmdTail
      && d.mbx.relayIn.isEmpty && d.mbx.mgmtState != 1 && d.pwr.phase == 0 then
    next s { d with pwr := { d.pwr with
      idle := true, idles := d.pwr.idles + 1, idleAt := d.chip.qtime, cond := d.pwr.cond.set 1 .gated } }
  else next s d

/-- An interrupt or event of the control cores ends IDLE (R363, R365). -/
def execIdleExit (s : State) : Host.Outcome State Fault Refusal := next s (wakeCores s.dev)

/-- WAKE_N low for 10 µs (R374): a full boot from OFF, a wake from SLEEP or DEEP SLEEP, a refusal of an entry in phase 1; no effect in
RUN. -/
def execWakeNLow (s : State) : Host.Outcome State Fault Refusal :=
  let d := if s.dev.pwr.phase == 2 then enterState s.dev else s.dev
  if !alive s.dev then next s s.dev
  else if d.pwr.state == .off then
    next s (startBoot (inReset 0 d))
  else next s (wakeSource 1 d)

end Sys2Proof.Machine
end

