-- ==== Sys2Proof/Machine/Promotion.lean ====
section
/-! DEFINITION. A promotion's effect on the device (R327 to R330, R335): loading the committed image, the resume plan, and the re-screening of
the drop counts. -/
namespace Sys2Proof.Machine

/-! The committed image -/

/-- A section of a snapshot. -/
def sectionOf (s : Snap) (k : Nat) : List U8 := match s.sections.find? (fun e => e.1 == k) with | some e => e.2 | none => []

/-- Numbers of n bytes, `count` of them, from an offset of a section. -/
def natsAt (b : List U8) (o n count : Nat) : List Nat :=
  let a := (b.drop o).toArray
  (List.range count).map (fun i => (List.range n).foldr (fun k v => (a.getD (n * i + k) 0).toNat + 256 * v) 0)

/-- The signed reading of an n-byte number. -/
def signedOf (n v : Nat) : Int := if v < 256 ^ n / 2 then (v : Int) else (v : Int) - 256 ^ n

/-- Signed numbers of n bytes. -/
def intsAt (b : List U8) (o n count : Nat) : List Int := (natsAt b o n count).map (signedOf n)

/-- The settings of groups 0x01 to 0x0A of an image of section 2 (R313). A fabric port takes its settings at its next training, a lane its ENABLE at its
next attempt (Table 11.5), and a frequency point that differs is changed to under R255 (log entry 94). -/
def withSettings (x d : Device) : Device :=
  let q := x.pos
  { d with
    pos := { d.pos with
      encMode := q.encMode, invert := q.invert, countNum := q.countNum, countDen := q.countDen, speedLog2 := q.speedLog2
      stallMs := q.stallMs, minSpeed := q.minSpeed, indexPitch := q.indexPitch, indexTol := q.indexTol, encTol := q.encTol
      reverseTol := q.reverseTol, lpi := q.lpi, driving := primaryOf q.encMode }
    sheet := { d.sheet with
      sel := x.sheet.sel, edge := x.sheet.edge, distance := x.sheet.distance, debounce := x.sheet.debounce, tol := x.sheet.tol }
    fire := { d.fire with inhibit := x.fire.inhibit }
    banks := { d.banks with
      timing := x.banks.timing, timingNew := x.banks.timingNew, timingSet := x.banks.timingSet, limit := x.banks.limit
      limitNew := x.banks.limitNew, hostTrimNew := x.banks.hostTrimNew }
    links := updAll d.links (fun h l => { l with enable := x.links[h].enable, rate := x.links[h].rate, nozzles := x.links[h].nozzles })
    chip := { d.chip with headSafeSet := x.chip.headSafeSet }
    drive := { d.drive with
      heads := updAll d.drive.heads (fun h v =>
        let w := x.drive.heads[h]
        { v with waveDelay := w.waveDelay, waveDelayNew := w.waveDelayNew, senseGain := w.senseGain, senseOffset := w.senseOffset
                 senseTol := w.senseTol, isenMax := w.isenMax, thermLo := w.thermLo, thermHi := w.thermHi })
      groups := updAll d.drive.groups (fun g v =>
        { v with rotate := x.drive.groups[g].rotate, interval := x.drive.groups[g].interval })
      supplies := x.drive.supplies, busRate := x.drive.busRate
      sup := updAll d.drive.sup (fun k v =>
        { v with voutMax := x.drive.sup[k].voutMax, ovLimit := x.drive.sup[k].ovLimit, ocLimit := x.drive.sup[k].ocLimit }) }
    cams := { d.cams with
      ports := updAll d.cams.ports (fun p c =>
        let y := x.cams.ports[p]
        { c with cfg := y.cfg, running := y.running, set := y.set, accepted := y.accepted, ctx := y.ctx, focus := y.focus
                 tables := y.tables, obRef := y.obRef, gain := y.gain, calSeq := y.calSeq, queued := y.queued, tablesNew := y.tablesNew
                 calNew := y.calNew, gainNew := y.gainNew, darkNew := y.darkNew })
      bandMode := x.cams.bandMode, stripe := x.cams.stripe, rotation := x.cams.rotation
      place := (firstPlace x.cams).getD 0, served := x.cams.rotation.getD ((firstPlace x.cams).getD 0).val 0, serveAtStart := true
      streams := x.cams.streams
      partialMin := x.cams.partialMin }
    loop := { d.loop with
      bins := x.loop.bins, portMask := x.loop.portMask, gain := x.loop.gain, sigmaMax := x.loop.sigmaMax, obsRatio := x.loop.obsRatio
      model := x.loop.model, modelNew := x.loop.modelNew, noiseA := x.loop.noiseA, noiseB := x.loop.noiseB, deadMax := x.loop.deadMax, proxy := x.loop.proxy, workBase := x.loop.workBase
      checkPitch := x.loop.checkPitch, checkRun := x.loop.checkRun, checkCode := x.loop.checkCode, checkMissing := x.loop.checkMissing
      checkWeak := x.loop.checkWeak
      colours := updAll d.loop.colours (fun k c =>
        let y := x.loop.colours[k]
        { c with declared := y.declared, node := y.node, plane := y.plane, colShift := y.colShift, ampSens := y.ampSens
                 enabled := y.enabled }) }
    fabric := { d.fabric with ports := updAll d.fabric.ports (fun p f =>
      let y := x.fabric.ports[p]
      { f with pendingCfg := some (y.enable, y.rate, y.asym, y.config.toList) }) }
    lanes := updAll d.lanes (fun i l =>
      let y := x.lanes[i]
      { l with enable := y.enable, preset := y.preset, swing := y.swing, txInv := y.txInv, rxInv := y.rxInv, idleTime := y.idleTime })
    pwr := { d.pwr with idleOn := x.pwr.idleOn }
    therm := { d.therm with l1Hi := x.therm.l1Hi, l1Lo := x.therm.l1Lo, l2Hi := x.therm.l2Hi, l2Lo := x.therm.l2Lo, slowPct := x.therm.slowPct }
    dram := { d.dram with
      deferred := d.dram.deferred ++ (if x.dram.point = d.dram.point ∨ d.dram.failed[x.dram.point] then [] else [.freq x.dram.point])
      weights := x.dram.weights, threshold := x.dram.threshold, scrubHours := x.dram.scrubHours, scrubOn := x.dram.scrubOn }
    crcs := x.crcs
    acct := { d.acct with noticePitch := x.acct.noticePitch }
    mbx := { d.mbx with storeBase := x.mbx.storeBase, storeSize := x.mbx.storeSize } }

/-- A number of `natBytes`, and what follows it. -/
def readNat (b : List U8) : Nat × List U8 := let n := leAt b 0 2; (leAt b 2 n, b.drop (2 + n))

/-- n fractions of `ratBytes`, and what follows them. -/
def readRats : Nat → List U8 → List Rat × List U8
  | 0, b => ([], b)
  | n + 1, b =>
    let (num, r) := readNat (b.drop 1)
    let (den, r) := readNat r
    let (qs, r) := readRats n r
    (mkRat (if byteAt b 0 = 1 then -(num : Int) else num) den :: qs, r)

/-- A colour of section 8, and what follows it; the saved state carries no history (R215). -/
def readColour (c : Colour) (b : List U8) : Colour × List U8 :=
  let (taus, r) := readRats 40 (b.drop 47328)
  let c := { c with
    gen := w32 (leAt b 0 4), history := [], c := iWrite [] 0 (intsAt b 4 2 23622), trim := Vector.ofFn (fun h => (intsAt b 47248 2 40).getD h.val 0)
    tau := Vector.ofFn (fun h => taus.getD h.val 0) }
  if byteAt r 0 = 0 then ({ c with span := none }, r.drop 1)
  else ({ c with span := some (readSpan (r.drop 1)) }, r.drop (17 + 12 * byteAt r 3))

/-- The saved state of one colour taken from the front of the bytes (R215, Table 13.2). -/
def restoreColour (e : Device × List U8) (k : Plane) : Device × List U8 :=
  let y := readColour e.1.loop.colours[k] e.2
  (modColour e.1 k (fun _ => y.1), y.2)

/-- The measuring node's state of an image of section 8 (R215), which carries no accumulator: its bins, the loop bands that wait and the records and
lines they would be built of begin anew. -/
def withLoopNode (b : List U8) (d : Device) : Device :=
  ((List.finRange 8).foldl restoreColour ({ d with loop := { d.loop with
    acc := [], queue := [], sweep := none, rejects := 0, slow := 0, proxies := [], lum := [] } }, b)).1

/-- A job of section 0: its descriptor is read from the mirrored job store, and only mirrored repeats are valid (R330). -/
def savedJob (d : Device) (b : List U8) (o : Nat) : Option Job :=
  let st : Option JobState := match byteAt b (o + 4) with
    | 0 => some .staged
    | 1 => some .scheduled
    | 2 => some .running
    | 3 => some .ended
    | _ => none
  st.map (fun st =>
    let a := leAt b (o + 8) 8
    { addr := a, desc := readJob (dramRead d a 64), state := st, validThrough := min (leAt b (o + 16) 4) (leAt b (o + 20) 4)
      feedWarn := leAt b (o + 24) 4, released := 0 })

/-- A bank with an image in force. -/
def activeImage (img : List U8) (setId : U32) (b : Bank) : Bank :=
  { b with active := memWrite [] 0 img, activeLen := img.length, activeSet := setId }

/-- A waveform, threshold, stitching or error-diffusion image of a table set of the mirrored job store in force (R327 step 7). -/
def installSet (addr : Nat) (d : Device) : Device :=
  let s := readSet (dramRead d addr 128)
  if addr = 0 then d
  else ((namedTbls s).filter (fun t => t != .comb && t != .sub)).foldl
    (fun d t => modBank (dramSee (s.addr t) (s.len t) d) t (activeImage (dramRead d (s.addr t) (s.len t)) s.setId)) (dramSee addr 128 d)

/-- The banks that the running job's set and the sets of its repeats begun so far give. -/
def installSets (j : JobDesc) (begun : Nat) (d : Device) : Device :=
  let from_ := begun + 1 - j.repeatCount
  (List.range (begun + 1 - from_)).foldl (fun d i => installSet (repDesc d j (from_ + i)).tableSet d) (installSet j.tableSet d)

/-- Sections 3 and 4: the comb bank, the substitution bank and an image pending under sub.load. -/
def withComb (s : Snap) (p : List U8) (d : Device) : Device :=
  let sub := sectionOf s 4
  let n := leAt p 104 4
  let m := leAt p 108 4
  let kind := byteAt p 82
  let d := modBank d .comb (activeImage (sectionOf s 3) (w32 (leAt p 96 4)))
  modBank d .sub (fun b =>
    let b := activeImage (sub.take n) (w32 (leAt p 100 4)) b
    if kind = 0 then b
    else { b with shadow := memWrite [] 0 ((sub.drop n).take m), loaded := true
                  pending := some ⟨.sub, 0, m, 0, 0, if kind = 1 then LoadFor.hostJob else LoadFor.hostRepeat⟩ })

/-- Section 5: the loop correction bank, both trims and the applied GENs. -/
def withLoop (b : List U8) (d : Device) : Device :=
  { d with
    banks := { d.banks with
      loop := iWrite [] 0 (intsAt b 0 2 61440)
      loopTrim := Vector.ofFn (fun h => (intsAt b 122880 2 40).getD h.val 0)
      hostTrim := Vector.ofFn (fun h => (intsAt b 122960 2 40).getD h.val 0) }
    loop := { d.loop with owner := updAll d.loop.owner (fun k o => { o with gen := w32 ((natsAt b 123040 4 8).getD k.val 0) }) } }

/-- Section 6: the drop totals. -/
def withDrops (b : List U8) (d : Device) : Device :=
  { d with fire := { d.fire with drops := iWrite [] 0 (intsAt b 0 8 245760) } }

/-- FIRED_ROWS of a head in section 6. -/
def savedRows (s : Snap) (h : Head) : Nat := leAt ((sectionOf s 6).drop (1966080 + 8 * h.val)) 0 8

/-- Section 7: error line buffers and LFSR states. -/
def withScreen (b : List U8) (d : Device) : Device :=
  { d with engines := updAll d.engines (fun h e => { e with
      err := iWrite [] 0 (intsAt b (18432 * h.val) 3 6144), lfsr := w32 ((natsAt b (737280 + 4 * h.val) 4 1).getD 0 0)
      last := none, buf := [], skips := [], fresh := false }) }

/-- Sections 0 and 1: the jobs, the repeat and the pair's fabric roles (R330). A job that runs is held back until the position master shows
that it runs there (R57), unless this pair is the position master. -/
def withPosition (p ep : List U8) (d : Device) : Device :=
  let roles := byteAt ep 4
  let deputy := byteAt ep 5
  let numbered := fun (n : U32) (j : Job) => { j with desc := { j.desc with serial := n } }
  let run := (savedJob d p 0).map (numbered (d.jobs.serial + 1))
  let st := ((savedJob d p 28).map (numbered (d.jobs.serial + 2))).map (fun j =>
    { j with supply := addSupply d j.desc false {} 0 j.validThrough })
  let runs := match run with | some j => j.state == .running | none => false
  let change : Option Change := match st with
    | some j => if j.state == .scheduled then
        some { jobId := j.desc.jobId, w := BitVec.ofNat 64 (leAt p 84 8), postponements := byteAt p 80, go := false, aborted := false
               proof := false, ready := [], acks := [] } else none
    | none => none
  { d with
    jobs := {
      running := run, staged := st, serial := d.jobs.serial + 2, change := change, rep := leAt p 60 4, begun := leAt p 56 4, repStart := BitVec.ofNat 64 (leAt p 64 8)
      firstLine := leAt p 72 4, repPitch := leAt p 76 4, boundaries := byteAt p 81 == 1, lost := runs && !bitOf roles 0 }
    sheet := { d.sheet with number := w32 (leAt p 92 4), opened := [], confirm := [] }
    pos := { d.pos with
      role := if bitOf roles 0 then .master else if bitOf roles 1 then .deputy else .follower
      valid := false, sample := none, counts := [], speed := {}, frozen := false, deputyOn := false, relock := bitOf roles 0 }
    mbx := { d.mbx with measuring := bitOf roles 2, hostEvents := bitOf roles 3 }
    fabric := { d.fabric with holders := upd d.fabric.holders 1 (fun h => if deputy = 0 then h else some ⟨BitVec.ofNat 8 deputy, 0⟩) } }

/-- The feed, the tokens and the banks start again, with the table set of the running job. -/
def installRunning (d : Device) : Device :=
  let d := { d with
    feed := {}, fire := { d.fire with tokens := [], cursor := Vector.replicate 40 {}, ended := [] }
    banks := { d.banks with tbl := Vector.replicate 6 {}, queue := [] } }
  match d.jobs.running with | some j => installSets j.desc d.jobs.begun d | none => d

/-- R327 step 7: banks and configuration from the committed image, and the other banks from the mirrored job store. -/
def loadImage (s : Snap) (d : Device) : Device :=
  let p := sectionOf s 0
  let d := if (sectionOf s 2).isEmpty then d else withSettings (settingsOf (sectionOf s 2)) d
  let d := if (sectionOf s 8).isEmpty then d else withLoopNode (sectionOf s 8) d
  let d := installRunning (withPosition p (sectionOf s 1) d)
  let d := withScreen (sectionOf s 7) (withDrops (sectionOf s 6) (withLoop (sectionOf s 5) (withComb s p d)))
  let d := { d with drive := { d.drive with zeroed := d.therm.trip || (getBank d .wave).activeLen == 0 } }
  match d.jobs.staged with | some j => stageLoads j.desc d | none => d

/-! The resume plan (R329) -/

/-- The repeats begun from repeat n at s with line base b up to a high-water WPOS: number, start and line number of line 0. -/
def repeatsTo (d : Device) (j : JobDesc) (hw : Nat) : Nat → Nat → Nat → Nat → List (Nat × Nat × Nat)
  | 0, n, s, b => [(n, s, b)]
  | fuel + 1, n, s, b =>
    let e := s + max 1 (repDesc d j n).pitch
    if e ≤ hw ∧ hasRepeat j (n + 1) then (n, s, b) :: repeatsTo d j hw fuel (n + 1) e (b + linesOf d j n) else [(n, s, b)]

/-- The plane rings begin at repeat n of a job, which falls due. -/
def feedFrom (j : JobDesc) (n : Nat) (d : Device) : Device :=
  fallDue j n { d with feed := { d.feed with first := n, rings := Vector.replicate 8 { feedJob := j.key, next := (n, 0) } } }

/-- Each head of the running job resumes at the first repeat, from that of the snapshot on, whose F(0, 0) lies at or beyond the high-water
WPOS at the end of step 8 plus the travel of 50 ms and that is mirrored (R329); heads whose repeat is still to come wait for it. -/
def resumePlan (d : Device) : Device :=
  match d.jobs.running with
  | none => d
  | some x =>
    if x.state != .running then d
    else
      let j := x.desc
      let limit := ((d.red.lockHw.toNat : Int) + travelIn d 50000000).toNat
      let hs := planedHeads j
      let d := modRed d (fun r => { r with resume := hs.map (fun h => (h, limit)), resumeLines := [] })
      if j.sheet then feedFrom j (d.jobs.begun + 1) d
      else
        let s := d.jobs.repStart.toNat
        let rs := repeatsTo d j d.pos.hwpos.toNat ((d.pos.hwpos.toNat - s) / 1000000 + 1) d.jobs.begun s d.jobs.firstLine
        let l := rs.getLast?.getD (d.jobs.begun, s, d.jobs.firstLine)
        let d := { d with jobs := { d.jobs with
          begun := l.1, rep := if j.cycle then l.1 % max 1 j.repeatCount else l.1, repStart := BitVec.ofNat 64 l.2.1
          firstLine := l.2.2, repPitch := (repDesc d j l.1).pitch } }
        let d := rs.foldl (fun d e => hs.foldl (giveSeg j e.1 e.2.1 e.2.2 false none) d) d
        let first := (d.fire.cursor.toList.flatMap (fun c => c.segs.map (·.rep))).foldl min (l.1 + 1)
        feedFrom j first d

/-! Reconciliation (R335) -/

/-- Every block of a plane of a repeat, decompressed from the mirrored job store. -/
def storedRing (d : Device) (j : JobDesc) (n : Nat) (p : Plane) : Ring :=
  let ix := (repDesc d j n).planeIndex.getD p.val 0
  { blocks := (List.range (dramLe d ix 4)).map (fun i =>
      let (b, bytes) := blockOf d j n p.val i
      match (if b.ok then fkzDecode bytes else .check) with
      | .ok o => { b with ok := true, data := o }
      | _ => { b with ok := false, data := [] })
    feedJob := j.key }

/-- The device with the contone of one repeat in its rings and tile area. -/
def withRepeat (d : Device) (j : JobDesc) (n : Nat) : Device :=
  let r := repDesc d j n
  let d := { d with feed := { d.feed with
    rings := Vector.ofFn (fun p => if r.blank || j.planes.length ≤ p.val then {} else storedRing d j n p)
    tiles := [], tileWork := [], tilePlace := {}, tileHeld := false } }
  (tilesOf d j n r).foldl (fun d t =>
    let (blk, bad) := tileBlock d t.2
    putTile t.1 blk.length (if bad then .check else fkzDecode blk) d) d

/-- Drops of a head's nozzle codes on the rows of a list. -/
def addDrops (h : Head) (rowCount : Nat) (rows : List Nat) (codes : List Nat) (m : IMem) : IMem :=
  codes.zipIdx.foldl (fun m e =>
    if e.1 ≠ 0 ∧ rows.contains (e.2 % max 1 rowCount) then iSet m (6144 * h.val + e.2) (iGet m (6144 * h.val + e.2) + 1) else m) m

/-- One line of a head re-screened: the engines after it and the drops added. -/
def rescreenLine (h : Head) (j : JobDesc) (g : Seg) (rows : List Nat) (d : Device) : Device :=
  match planeOf j h.val with
  | none => d
  | some (p, pc) =>
    let cols := planeColumns d (fun k => dirOf (getBank d .thresh).active k.val) pc
    let rowCount := d.banks.timing[h].rowsM1 + 1
    let put := fun (sc : Screening) =>
      let d := modEngine d h (fun e => { e with err := sc.err, lfsr := sc.lfsr })
      { d with fire := { d.fire with drops := addDrops h rowCount rows sc.codes d.fire.drops } }
    if g.lines ≤ g.s then
      put { codes := stripCodes d h (g.s - g.lines), count := {}, err := d.engines[h].err, lfsr := d.engines[h].lfsr }
    else if g.blank then put (chain d pc h (g.base + g.s) true [])
    else match printLine d pc p g g.s cols with
      | .error _ => d
      | .ok samples => put (chain d pc h (g.base + g.s) false samples)

/-- The rows of line i of a repeat at `start` that a head fires at or beyond a boundary, up to row `row` of the last line (R335): DROPS of the
snapshot holds those before it. -/
def rowsFrom (d : Device) (h : Head) (start i w : Nat) (row : Option Nat) : List Nat :=
  (List.range (d.banks.timing[h].rowsM1 + 1)).filter (fun r =>
    decide (w ≤ firePos d h start i r) && (match row with | some k => decide (r ≤ k) | none => true))

/-- The repeat from which a head still fires lines at or beyond a boundary, walking back from repeat n at `start` whose line 0 has number `base`;
at most `fuel` repeats. In sheet mode too the start of a repeat is taken one REPEAT_PITCH before the next one's (R100, log entry 84). -/
def walkBack (d : Device) (h : Head) (j : JobDesc) (w : Nat) : Nat → Nat → Nat → Nat → Nat × Nat × Nat
  | 0, n, start, base => (n, start, base)
  | fuel + 1, n, start, base =>
    if n = 0 then (n, start, base)
    else
      let r := repDesc d j (n - 1)
      let total := linesOf d j (n - 1)
      if total = 0 || (rowsFrom d h (start - r.pitch) (total - 1) w none).isEmpty then (n, start, base)
      else walkBack d h j w fuel (n - 1) (start - r.pitch) (base - total)

/-- A head's lines that it fires at or beyond the boundary `w`, through a last line and row where one is given, of repeats before `stop` where one is
given, re-screened repeat by repeat, at most `fuel` repeats: the device with the drops added, and the lines and rows counted. -/
def rescreen (h : Head) (j : JobDesc) (w : Nat) (last : Option (Nat × Nat)) (stop : Option Nat) :
    Nat → Nat → Nat → Nat → Device × Nat × Nat → Device × Nat × Nat
  | 0, _, _, _, x => x
  | fuel + 1, n, start, base, (d, lines, rows) =>
    if last.any (fun l => decide (l.1 < base)) || stop.any (fun e => decide (e ≤ start)) then (d, lines, rows)
    else
      let r := repDesc d j n
      let e := withRepeat d j n
      let g : Seg := { job := j.key, rep := n, start := start, base := base, lines := r.lines, strips := if r.checkStrip then stripLines d else 0
                       blank := r.blank, plane := match planeOf j h.val with | some x => x.1 | none => 0, late := false, lateTo := 0, j := 0, s := 0 }
      let total := g.lines + g.strips
      let todo := ((List.range (match last with | some l => min total (l.1 + 1 - base) | none => total)).map (fun i =>
        (i, rowsFrom d h start i w (last.bind (fun l => if base + i = l.1 then some l.2 else none))))).filter (fun x => !x.2.isEmpty)
      let e := todo.foldl (fun e x => rescreenLine h j { g with s := x.1 } x.2 e) e
      let y := ({ d with engines := e.engines, fire := { d.fire with drops := e.fire.drops } },
                lines + todo.length, rows + (todo.map (fun x => x.2.length)).sum)
      if hasRepeat j (n + 1) ∧ 0 < total then rescreen h j w last stop fuel (n + 1) (start + r.pitch) (base + total) y else y

/-- What a head's first REPORT after the epoch raise says: LAST_ROW, LAST_JOB_ID, LAST_LINE_NO, FIRED_ROWS (Table 5.7). -/
def lastFired (c : StatusCell) : Nat × U32 × Nat × Nat :=
  (byteAt c.payload 10 % 4, w32 (leAt c.payload 12 4), leAt c.payload 16 4, leAt c.payload 4 6)

/-- Repeats of a job that a head may have fired since the snapshot: from repeat n at `start`, whose line 0 has number `base`, up to the boundary at
which the job ended, or on. -/
structure Reprint where
  job   : JobDesc
  n     : Nat
  start : Nat
  base  : Nat
  stop  : Option Nat

/-- The job that still printed behind the last change or end at the snapshot's boundary, as section 0 holds it: its last repeat and the end. -/
def savedOut (t : Device) (p : List U8) : Option Reprint :=
  if leAt p 112 4 = 0 then none
  else some ⟨readJob (dramRead t (leAt p 116 8) 64), leAt p 124 4, leAt p 128 8, leAt p 136 4, some (leAt p 140 8)⟩

/-- What a head may have fired since the snapshot, oldest first: the outgoing job's lines, the running job's, and the staged job's from the change
scheduled in the snapshot on, or else from the end of the present repeat (R57, R335; log entry 84). -/
def reprints (s : Snap) (t : Device) : List Reprint :=
  let running := t.jobs.running.filter (fun j => j.state == .running)
  let w := match t.jobs.change, running with
    | some c, _ => some c.w.toNat
    | none, some j => some (t.jobs.repStart.toNat + (repDesc t j.desc t.jobs.begun).pitch)
    | none, none => none
  (savedOut t (sectionOf s 0)).toList
    ++ running.toList.map (fun j => ⟨j.desc, t.jobs.begun, t.jobs.repStart.toNat, t.jobs.firstLine, w⟩)
    ++ (match t.jobs.staged, w with | some j, some w => [⟨j.desc, 0, w, 0, none⟩] | _, _ => [])

/-- The parts before the last one whose job has a JOB_ID, each to its end, and that one; where none has, every part that has an end, of which a head
that has fired since then printed all (R17, log entry 84). -/
def upToJob (job : U32) (ps : List Reprint) : List Reprint × Option Reprint :=
  match (ps.zipIdx.filter (fun x => x.1.job.jobId == job)).getLast? with
  | some (p, k) => (ps.take k, some { p with stop := none })
  | none => (ps.filter (fun p => p.stop.isSome), none)

/-- One part re-screened: to its end, or through the last line and row. A job that began after the snapshot starts with the error line buffer and
generator of a change (R73, R74). -/
def rescreenPart (h : Head) (w : Nat) (last : Option (Nat × Nat)) (p : Reprint) (x : Device × Nat × Nat) : Device × Nat × Nat :=
  let d := if w < p.start ∧ p.n = 0 then modEngine x.1 h (fun e => { e with err := [], lfsr := seedOf x.1 h }) else x.1
  let (n, start, base) := walkBack d h p.job w p.n p.n p.start p.base
  let fuel := match last, p.stop with
    | some l, _ => l.1 + 1 - base
    | none, some e => (e - start) / 1000000 + 1
    | none, none => 0
  rescreen h p.job w last p.stop fuel n start base (d, x.2)

/-- One head reconciled: the device with its drops added, and its record (R335). `t` is the device as the committed image gives it. A head that has
fired no row since adds nothing. -/
def reconcileHead (s : Snap) (t : Device) (acc : IMem × List (Nat × Nat × Nat)) (h : Head) (d : Device) : IMem × List (Nat × Nat × Nat) :=
  match d.red.firstReports[h] with
  | some c =>
    let (row, job, line, rows) := lastFired c
    let (parts, last) := upToJob job (reprints s t)
    let w := t.jobs.repStart.toNat
    if last.isNone && rows == savedRows s h then (acc.1, acc.2 ++ [(0, 0, line + 1)])
    else
      let x := parts.foldl (fun x p => rescreenPart h w none p x) ({ t with fire := { t.fire with drops := acc.1 } }, 0, 0)
      let (e, lines, counted) := match last with
        | some p => rescreenPart h w (some (lineNear p.base (w32 line), row)) p x
        | none => x
      (e.fire.drops, acc.2 ++ [(lines, counted - (rows - savedRows s h), line + 1)])
  | none => (acc.1, acc.2 ++ [(0, 0, 0)])

/-- R335: every head re-screened; the drops that result are added to the totals. -/
def reconcile (s : Snap) (d : Device) : Device :=
  let t := loadImage s d
  let base := t.fire.drops
  let (drops, recs) := (List.finRange 40).foldl (fun acc h => reconcileHead s t acc h d) (base, [])
  let sum := (drops.map (fun e => e.1)).foldl (fun m k => iSet m k (iGet m k + iGet drops k - iGet base k)) d.fire.drops
  { d with
    fire := { d.fire with drops := sum }
    red := { d.red with reconciling := false, reconciled := some recs } }

end Sys2Proof.Machine
end

