-- ==== Sys2Proof/Machine/Red.lean ====
section
/-! DEFINITION. Redundant pairs (chapter 13): heartbeats, detection, promotion, demotion, saved state on the standby, drills, and the
commands of group 0x07. -/
namespace Sys2Proof.Machine

/-! Roles -/

/-- A unit of a pair whose control cores run (R309). -/
def pairUp (d : Device) : Bool := paired d && ready d

/-- The unit holds a role, taken under R310 or since. -/
def inRole (d : Device) (r : Role) : Bool := pairUp d && d.red.roleSet && d.red.role == r

/-- The role last recorded (R308, R399). -/
def lastRole (d : Device) : Option Role := (d.nv.epochs.find? (fun e => e.2.2)).map (·.2.1)

/-- Heads that exchange cells: their lanes are up and they are not isolated (R28). -/
def upHeads (d : Device) : List Head := (List.finRange 40).filter (headTalks d)

/-- The heads of a list as a mask. -/
def maskOf (hs : List Head) : BitVec 40 := hs.foldl (fun m h => m ||| BitVec.ofNat 40 (2 ^ h.val)) 0

/-- Bring-up of every head whose lane is up (R124). -/
def bringAll (d : Device) : Device := (upHeads d).foldl (fun d h => startBring h d) d

/-- Role ACTIVE at start-up (R310, R312). -/
def takeActive (d : Device) : Device :=
  sendRoles (bringAll (noteRed d { d with
    red := { d.red with role := .active, roleSet := true, promo := none, fullDue := true, dirty := 0b111, standbyOk := false, acked := none, ackedAt := none }
    chip := { d.chip with wfOn := true, camsw := some d.chip.unitB } }))

/-- A unit that is to be ACTIVE takes the role once that is recorded; one recorded ACTIVE already takes it at once (R308, R310). -/
def goActive (d : Device) : Device :=
  if lastRole d == some .active then takeActive d
  else recordRole .active (noteRed d (modRed d (fun r => { r with role := .standby, roleSet := true })))

/-- A pair control message to the peer over the fabric (R318). -/
def sendPair (payload : List U8) (d : Device) : Device :=
  match peerNode d with
  | some n => (sendTo .bulk false n 0x0052 payload d).2
  | none => d

/-- NEED_FULL on WL, or as pair control (R315, R318). -/
def sendNeedFull (mirror : Bool) (d : Device) : Device :=
  if waggleUp d then wagSend 6 [] d else sendPair [0, BitVec.ofNat 8 (b2n mirror), 0, 0, 0, 0, 0, 0] d

/-- Role STANDBY (R310, R311): recorded, and the unit enters SLEEP. -/
def goStandby (d : Device) : Device :=
  let d := if lastRole d == some .standby then d else recordRole .standby d
  roleSleep (noteRed d (modRed d (fun r => { r with role := .standby, roleSet := true })))

/-- A FENCED unit becomes STANDBY (R333, R337): its jobs are the active unit's now, so none keeps it from SLEEP (log entry 94), and it asks for a full
snapshot. -/
def readmit (d : Device) : Device :=
  let d := unschedule (endJob d)
  let d := { d with jobs := { d.jobs with staged := none } }
  let d := modRed d (fun r => { r with committed := none, building := [], promo := none, drill := none, ackedAt := none })
  goStandby (sendNeedFull true (noteRed d (modRed d (fun r => { r with role := .standby }))))

/-! Heartbeats (R322, R323) -/

/-- The bytes of a HEARTBEAT's payload (Table 13.5). -/
def beatPayload (h : Heartbeat) : List U8 :=
  leBytes 8 h.uid.toNat ++ [BitVec.ofNat 8 (roleNum h.role),
    BitVec.ofNat 8 (b2n h.healthy + 2 * b2n h.trip + 4 * b2n h.hbiLive + 8 * b2n h.stale + 16 * h.rsv.2.1.toNat)]
    ++ leBytes 2 h.rsv.2.2.toNat ++ leBytes 4 h.snap.toNat ++ leBytes 8 h.ftime.toNat ++ leBytes 4 h.jobId.toNat ++ leBytes 4 h.staleAge.toNat

/-- The CRC of a HEARTBEAT folds zeros (R319). -/
def beatCrc (h : Heartbeat) : U32 :=
  crcFold 0 0 (wagBody 1 { length := h.length, seq := 0, epoch := h.epoch, payload := beatPayload h, crc := 0, rsv := h.rsv.1 })

/-- SNAP of this unit's HEARTBEAT: the newest committed on a standby, the newest sent on an active unit (Table 13.5). -/
def snapOf (d : Device) : U32 :=
  if d.red.role == .active then d.red.snap else match d.red.committed with | some s => s.number | none => 0

/-- The control cores and the line-fire timer report to the watcher each cycle in which they run: the cores in RUN once booted, the timer with
D_DP clocked (R322, log entry 13). -/
def reportWatch (d : Device) : Device :=
  let now := d.chip.qtime
  let cores := ready d && d.pwr.state == .run
  modRed d (fun r => { r with coresAt := if cores then now else r.coresAt, timerAt := if cores && domainOn d 2 && !d.therm.trip then now else r.timerAt })

/-- The heartbeat source is healthy (R322): on an ACTIVE unit the control cores and the line-fire timer have each reported to the watcher within the last
1 ms; a trip, which stops the timer's clock, stops no heartbeat. In every other role the watcher itself runs. -/
def beatSource (d : Device) : Bool :=
  d.red.role != .active || d.therm.trip
    || (decide (d.chip.qtime ≤ d.red.coresAt + 4000000) && decide (d.chip.qtime ≤ d.red.timerAt + 4000000))

/-- This unit's HEARTBEAT. -/
def myBeat (d : Device) : Heartbeat :=
  let m : Heartbeat := {
    epoch := d.red.epoch, uid := d.chip.uid, role := d.red.role, healthy := beatSource d, trip := d.therm.trip, hbiLive := d.red.hbiLive
    stale := d.red.stale, snap := snapOf d, ftime := ftime d, jobId := runningId d, staleAge := w32 (snapAge d), length := 52, crc := 0 }
  { m with crc := beatCrc m }

/-- The always-on island of a unit of a pair watches the peer's heartbeats (R311, R322). -/
def watches (d : Device) : Bool := pairUp d && d.pwr.state != .off

/-- The heartbeats run: in the always-on island, while their source is healthy (R322). -/
def beats (d : Device) : Bool := watches d && beatSource d

/-- HEARTBEAT_TIMER (R322). -/
def execHeartbeatTimer (s : State) : Host.Outcome State Fault Refusal :=
  let d := s.dev
  if beats d then next s (wagSend 1 (beatPayload (myBeat d)) d) else next s d

/-- HBO_EDGE_TIMER (R322). -/
def execHboEdgeTimer (s : State) : Host.Outcome State Fault Refusal :=
  let d := s.dev
  if beats d then next s { d with chip := { d.chip with hbo := !d.chip.hbo } } else next s d

/-- A path delivers: EV_HEARTBEAT_PATH again when it recovers (R323, R325). Code 0 is WL, 1 HBI. -/
def pathLives (hbi : Bool) (d : Device) : Device :=
  let raised := if hbi then d.red.hbiRaised else d.red.wlRaised
  let d := noteRed d (modRed d fun r =>
    if hbi then { r with hbiLive := true, hbiRaised := false, lostRaised := false } else { r with wlLive := true, wlRaised := false, lostRaised := false })
  let d := if raised then raise .heartbeatPath [w32 (b2n hbi)] d else d
  refreshPath d

/-- The standby is available (R326, R333): it is in role STANDBY without a trip (Table 16.4), and has committed the newest full snapshot. -/
def standbyReady (role : Role) (trip : Bool) (snap : U32) (r : Red) : Bool :=
  role == .standby && !trip && (r.standbyOk || (!r.fullDue && r.fullSnap != 0 && decide (r.fullSnap ≤ snap)))

/-- What a valid HEARTBEAT changes: the newest report of the peer, ROLE_CONFLICT (Table 13.6) and demotion (R332), and the end of a drill
(R337). -/
def takeBeat (hb : Heartbeat) (d : Device) : Device :=
  let d := noteRed d (modRed d (fun r => { r with peer := some hb, seen := true, standbyOk := standbyReady hb.role hb.trip hb.snap r }))
  let d := pathLives false d
  let conflict := d.red.role == .active && hb.role == .active && hb.epoch == d.red.epoch
  let d := if conflict then violation 0x45 3 0 0 d else d
  let preferred := match d.red.pair with | some p => p.preferred | none => false
  let higher := decide (d.red.epoch < hb.epoch) && (hb.role == .active || hb.role == .promoting)
  let d := if (conflict && !preferred) || higher then demote d else d
  if d.red.role == .fenced && d.red.drill == some true && hb.role == .active then readmit (finishWork (· == .drill) {} d) else d

/-- HEARTBEAT_RECEIVED (R319, R321, R323). -/
def execHeartbeatReceived (hb : Heartbeat) (s : State) : Host.Outcome State Fault Refusal :=
  let d := rxActive .wl s.dev
  if !watches d || !waggleUp d then next s d
  else if hb.crc != beatCrc hb then next s (violation 0x40 3 0 1 d)
  else if hb.length != 52 then next s (violation 0x43 3 0 0 d)
  else if (match d.red.pair with | some p => p.peer != hb.uid | none => true) then next s (violation 0x44 3 0 3 d)
  else next s (noteFault d (takeBeat hb d))

/-- HBI_EDGE (R323). -/
def execHbiEdge (s : State) : Host.Outcome State Fault Refusal :=
  if watches s.dev then next s (pathLives true s.dev) else next s s.dev

/-! Detection (R323 to R326) -/

/-- WITNESS on every head lane that is up (R324). -/
def askWitness (d : Device) : Device :=
  let hs := upHeads d
  let d := modRed d (fun r => { r with asked := some (maskOf hs) })
  hs.foldl (fun d h => sendControl h 4 [] (modLink d h (fun l => { l with witness := none }))) d

/-- EV_PEER_PATHS_LOST, again only after a path has recovered (R325). -/
def pathsLost (d : Device) : Device :=
  if d.red.lostRaised then d else raise .peerPathsLost [] (modRed d (fun r => { r with lostRaised := true }))

/-- Both paths are silent at once (R324, R326). -/
def bothSilent (d : Device) : Device :=
  if inRole d .active then refreshPath (pathsLost (modRed d (fun r => { r with standbyOk := false })))
  else if inRole d .standby then askWitness d
  else d

/-- PATH_SILENT (R323): nothing for 2 ms on a live path. -/
def execPathSilent (hbi : Bool) (s : State) : Host.Outcome State Fault Refusal :=
  let d := s.dev
  let live := if hbi then d.red.hbiLive else d.red.wlLive
  let other := if hbi then d.red.wlLive else d.red.hbiLive
  if !watches d || !live then next s d
  else
    let d := noteRed d (modRed d (fun r => if hbi then { r with hbiLive := false } else { r with wlLive := false }))
    if other then
      let d := modRed d (fun r => if hbi then { r with hbiRaised := true } else { r with wlRaised := true })
      next s (refreshPath (raise .heartbeatPath [w32 (b2n hbi)] d))
    else next s (bothSilent d)

/-! Promotion (R327) -/

/-- The epoch of a promotion: one more than the highest of the unit's own, its committed snapshot's and those received. -/
def nextEpoch (d : Device) : U32 :=
  let c := match d.red.committed with | some s => leAt (sectionOf s 1) 0 4 | none => 0
  w32 (1 + max d.red.epoch.toNat (max c d.red.highest.toNat))

/-- Steps 1, 3 and 4 of R327, and the request of step 2's record; bank 3 is released for it (R400). The failure WPOS estimate has no stated
computation: a free value (log entry 9). -/
def startPromotion (drill : Bool) (d : Device) : Device :=
  let (w, d) := draw d
  let roles := match d.red.committed with | some s => byteAt (sectionOf s 1) 4 | none => 0
  let d := noteRed d (modRed d fun r => { r with
    epoch := nextEpoch d, role := .promoting, promo := some .record, drillPromo := drill, building := [], asked := none, drill := none
    reconciling := true, reconciled := none, firstReports := Vector.replicate 40 none, resume := [], resumeLines := [], failWpos := w
    viaFabric := false, stale := false })
  let d := { d with
    pos := { d.pos with role := if bitOf roles 0 then .master else if bitOf roles 1 then .deputy else .follower, relock := bitOf roles 0
                        valid := false }
    mbx := { d.mbx with measuring := bitOf roles 2, hostEvents := bitOf roles 3 }
    pwr := { d.pwr with held := d.pwr.held &&& 0b10111 } }
  recordRole .promoting (wakeSource (if drill then 6 else 5) d)

/-- Role ACTIVE after a promotion: its live sets start anew, and the supplies are adopted (R312, R327 step 9, R336). -/
def takeOver (d : Device) : Device :=
  let fresh : LiveSet := { broken := true, wposOpen := d.pos.wpos, ftimeOpen := ftime d }
  { d with
    red := { d.red with role := .active, promo := none, fullDue := true, dirty := 0b111, standbyOk := false, drillPromo := false
                        acked := none, ackedAt := none }
    acct := { d.acct with live := Vector.replicate 3 fresh }
    drive := { d.drive with adopt := BitVec.allOnes 16, adoptDue := true } }

/-- The promoted unit is ACTIVE (R327 step 9): the heads resume, and it reports for a scheduled job (R330). -/
def promoted (d : Device) : Device :=
  let drill := d.red.drillPromo
  let d := sendRoles (resumePlan (noteRed d (takeOver d)))
  let d := match d.jobs.change with | some c => reportReady c.jobId d | none => d
  if drill then raise .drillPassed [] d else raise .promoted ([d.red.epoch] ++ w64 d.red.failWpos.toNat) d

/-- Steps 5 and 6 of R327: the committed record lets the unit fence the heads and announce the pair's roles. -/
def fence (d : Device) : Device := sendRoles (bringAll (startCal false (modRed d (fun r => { r with promo := some .selfTest }))))

/-- Records of one half of the epoch area (R399): 512 KiB of 16 bytes. -/
def epochHalf : Nat := 32768

/-- The oldest epoch record in progress commits (R399): one that finds the half full is the first of the other half, and the full half is
erased. -/
def commitEpoch (e : U32) (r : Role) (d : Device) : Device :=
  let rest := d.nv.programs.eraseP (fun p => p.epochOf.isSome)
  if epochHalf ≤ d.nv.epochs.length then
    { d with nv := { d.nv with programs := rest, epochs := [(e, r, true)], erases := d.nv.erases ++ [4] } }
  else { d with nv := { d.nv with programs := rest, epochs := (e, r, true) :: d.nv.epochs } }

/-- EPOCH_RECORD_COMMITTED (R308, R327 step 2, R400). -/
def execEpochRecordCommitted (s : State) : Host.Outcome State Fault Refusal :=
  let d := s.dev
  match (if !flashPins d || waitsErase 144 159 d then none else d.nv.programs.findSome? FlashWork.epochOf) with
  | none => next s d
  | some (e, r) =>
    let d := commitEpoch e r d
    if r == .promoting && d.red.role == .promoting && d.red.promo == some .record then next s (fence d)
    else if r == .active && d.red.role == .promoting && d.red.promo == some .resume then next s (promoted d)
    else if r == .active && inRole d .standby then next s (takeActive d)
    else next s d

/-- A majority of the reachable heads reports OTHER_AGE of at least 1,000 µs (R324). -/
def witnessed (d : Device) (asked : BitVec 40) : Bool :=
  let ages := (headsIn asked.toNat).filterMap (fun h => d.links[h].witness)
  decide (ages.length < 2 * (ages.filter (fun w => decide (1000 ≤ w.1.toNat))).length)

/-- WITNESS_DECISION (R324, R325). A standby whose trip holds does not promote (Table 16.4). -/
def execWitnessDecision (s : State) : Host.Outcome State Fault Refusal :=
  let d := s.dev
  match d.red.asked with
  | none => next s d
  | some m =>
    if !inRole d .standby then next s d
    else
      let d := modRed d (fun r => { r with asked := none })
      if witnessed d m && !d.red.wlLive && !d.red.hbiLive && !d.therm.trip then next s (startPromotion false d) else next s (pathsLost d)

/-- WITNESS_REQUERY (R325). -/
def execWitnessRequery (s : State) : Host.Outcome State Fault Refusal :=
  let d := s.dev
  if inRole d .standby && !d.red.wlLive && !d.red.hbiLive && d.red.asked.isNone && d.red.promo.isNone then next s (askWitness d) else next s d

/-- Code of a failed self-test: its place in R328's list. -/
def testCode : SelfTest → U32
  | .sram => 0
  | .screen => 1
  | .dac => 2

/-- Pulse maps of the loaded waveform bank, for the heads whose bring-up sent those of the bank before it (R124, R327 step 7). -/
def resendMaps (d : Device) : Device :=
  (upHeads d).foldl (fun d h =>
    let l := d.links[h]
    if l.state == .present || l.bring == .maps || l.bring == .config then sendMaps h (getBank d .wave).active l.mapBank d else d) d

/-- No deputy holds the position while the pair was the master: the running job ends (R108, R331). -/
def noSource (d : Device) : Bool := d.pos.role == .master && (d.fabric.holders[1]).isNone

/-- Lanes that the settings loaded enable begin to train (Table 11.5), a head lane once the start-up calibration lets it (R389). -/
def startLanes (d : Device) : Device :=
  { d with lanes := Vector.ofFn (fun i =>
      let x := d.lanes[i]
      match laneOf i.val with
      | some l => if x.state == .disabled && x.enable && linkEnabled d l && lanePower d l
          && (match l with | .hl _ => headLanesMay d | _ => true) then restartLane x else x
      | none => x) }

/-- Steps 6 and 7 of R327 after a pass: pins enabled (R328), banks and configuration loaded, heads PRESENT; step 8 begins. -/
def selfTestPassed (d : Device) : Device :=
  let d := { d with chip := { d.chip with wfOn := true, camsw := some d.chip.unitB }, pwr := { d.pwr with held := 0 } }
  let d := match d.red.committed with | some s => startLanes (loadImage s d) | none => d
  let d := modRed d (fun r => { r with promo := some .resume })
  let d := resendMaps d
  let d := (List.finRange 40).foldl (fun d h => if d.links[h].bring == .inhibit then presentHead h d else d) d
  if noSource d then recordRole .active (positionFails (modRed d (fun r => { r with lockHw := d.pos.hwpos }))) else lockPromotion d

/-- Some core's last calibration failed (R158, R328). -/
def coreFailed (d : Device) : Bool :=
  startCalDone d && (List.finRange 5).any (fun g => hasGroup d g.val && (d.drive.groups[g].fails).toList.any (fun n => n != 0))

/-- PROMOTION_SELF_TEST_DONE (R328, R337). On a standby it is the test of a drill, before any epoch is raised. It passes only once every core
is calibrated, and fails with any core's calibration (R158). A standby whose trip holds fails it, since no core can be calibrated; a promoting unit's
waits for the restart (Table 16.4). -/
def execPromotionSelfTestDone (failed : Option SelfTest) (s : State) : Host.Outcome State Fault Refusal :=
  let d := s.dev
  let failed := if failed.isNone && (coreFailed d || (d.red.role == .standby && d.therm.trip)) then some .dac else failed
  if d.red.promo != some .selfTest || !pairUp d || (failed.isNone && (!startCalDone d || d.therm.trip)) then next s d
  else if d.red.role == .standby then
    match failed with
    | none => next s (startPromotion true (wagSeq 8 (List.replicate 8 0) d))
    | some t => next s (roleSleep (wagSeq 8 ([1, 0, 0, 0] ++ leBytes 4 (testCode t).toNat)
        (modRed d (fun r => { r with promo := none, drillPromo := false }))))
  else if d.red.role == .promoting then
    match failed with
    | none => next s (selfTestPassed d)
    | some t => next s (noteFault d (raise .promotionFailed [testCode t] (modRed d (fun r => { r with promo := none }))))
  else next s d

/-- RECONCILIATION_DONE (R335). -/
def execReconciliationDone (s : State) : Host.Outcome State Fault Refusal :=
  let d := s.dev
  match d.red.committed with
  | none => next s d
  | some sn =>
    if inRole d .active && d.red.reconciling then next s (raise .reconciled [] (reconcile sn d)) else next s d

/-! The role at start-up (R310) -/

/-- ROLE_LISTEN_EXPIRY (R310). With HBI edges and no HEARTBEAT the peer lives and its role is unknown: STANDBY (log entry 41). -/
def execRoleListenExpiry (s : State) : Host.Outcome State Fault Refusal :=
  let d := s.dev
  if !pairUp d || d.red.roleSet then next s d
  else match d.red.peer with
    | some hb =>
      if hb.role == .active || hb.role == .promoting then next s (goStandby d)
      else
        let preferred := match d.red.pair with | some p => p.preferred | none => false
        if decide (hb.epoch < d.red.epoch) || (hb.epoch == d.red.epoch && preferred) then next s (goActive d) else next s (goStandby d)
    | none =>
      if d.red.hbiLive then next s (goStandby d)
      else if lastRole d == some .active then next s (goActive d)
      else next s (bothSilent (goStandby d))

/-! Saved state on the standby (R315 to R318) -/

/-- The bytes of a section in the building area, from its pieces in order. -/
def builtSection (ps : List StatePiece) (k : Nat) : List U8 := (ps.filter (fun p => p.sect.toNat == k)).flatMap (·.data)

/-- The pieces of a section follow one another from offset 0. -/
def contiguous : Nat → List StatePiece → Bool
  | _, [] => true
  | at_, p :: ps => decide (p.offset.toNat = at_) && contiguous (at_ + p.data.length) ps

/-- The snapshot that a commit piece applies, over the committed image (R315); none when pieces are missing or the base differs. -/
def commitOf (d : Device) (c : StatePiece) : Option Snap :=
  let base := w32 (leAt c.data 0 4)
  let mask := leAt c.data 4 2
  let ps := d.red.building.filter (fun p => p.snap == c.snap && p.full == c.full)
  let ks := (List.range 9).filter (bitOf mask)
  let whole := c.data.length == 32 && ps.length == leAt c.data 8 4 && ks.all (fun k =>
    ps.any (fun p => p.sect.toNat == k) && contiguous 0 (ps.filter (fun p => p.sect.toNat == k)))
  let baseOk := if c.full then base == c.snap else (match d.red.committed with | some s => s.base == base | none => false)
  let old := if c.full then [] else match d.red.committed with | some s => s.sections.filter (fun e => !ks.contains e.1) | none => []
  if whole && baseOk then
    some { number := c.snap, full := c.full, base := base, sections := ks.map (fun k => (k, builtSection ps k)) ++ old
           wpos := BitVec.ofNat 64 (leAt c.data 16 8), rep := leAt c.data 24 4 }
  else none

/-- STATE_ORDER: the snapshot being built is discarded, and the standby asks for a full one (R315, Table 13.6). -/
def stateDisorder (d : Device) : Device := sendNeedFull false (violation 0x46 3 0 1 (modRed d (fun r => { r with building := [] })))

/-- A commit: the snapshot applied in one step and acknowledged, or STATE_ORDER and NEED_FULL (R315, R318). -/
def commitSnap (viaFabric : Bool) (c : StatePiece) (d : Device) : Device :=
  match commitOf d c with
  | some s =>
    let d := modRed d (fun r => { r with committed := some s, building := [], ackedAt := some d.chip.qtime })
    let d := if (sectionOf s 2).isEmpty then d
      else
        let x := settingsOf (sectionOf s 2)
        modMbx d (fun m => { m with storeBase := x.mbx.storeBase, storeSize := x.mbx.storeSize })
    if viaFabric then sendPair ([1, 0, 0, 0] ++ leBytes 4 s.number.toNat) d else d
  | none => stateDisorder d

/-- A piece in the building area; the first of another snapshot begins it anew. -/
def takePiece (viaFabric : Bool) (p : StatePiece) (d : Device) : Device :=
  if p.sect == 15 then commitSnap viaFabric p d
  else modRed d (fun r => { r with building := r.building.filter (fun q => q.snap == p.snap) ++ [p] })

/-- A STATE message as its dictionary stream gives it: BAD_FRAME when it is not class 1 (Table 13.6). Its data is a sequence of pieces; where it is not, a
piece is missing, which is STATE_ORDER at once (R315, log entry 94). -/
def takeState (viaFabric : Bool) (peer : U8) (link : LinkId) (payload : List U8) (d : Device) : Device :=
  match parseDict peer link payload with
  | none => violation 0x43 3 0 0 d
  | some m =>
    if m.cls != 1 then violation 0x43 3 0 0 d
    else match dictReceive m d with
      | (none, d) => d
      | (some bytes, d) =>
        let (ps, whole) := readPieces bytes.length bytes
        let d := ps.foldl (fun d p => takePiece viaFabric p d) d
        if whole then d else stateDisorder d

/-- STATE_FRAME_RECEIVED (R315, R317), on WL or over the fabric; a unit that is not STANDBY freezes its image (R327 step 4). -/
def execStateFrameReceived (f : WaggleFrame) (viaFabric : Bool) (s : State) : Host.Outcome State Fault Refusal :=
  let d := s.dev
  if viaFabric then
    if inRole d .standby then next s (takeState true ((peerNode d).getD 0) (.port ((routePort d ((peerNode d).getD 0).toNat).getD 0)) f.payload d)
    else next s d
  else if !pairUp d then next s d
  else match takeWaggle 4 true f d with
    | (false, d) => next s d
    | (true, d) => if inRole d .standby then next s (takeState false 255 .waggle f.payload d) else next s d

/-- MIRROR_FRAME_RECEIVED (R316, Table 13.6): written to the same DRAM addresses inside the job store. -/
def execMirrorFrameReceived (f : WaggleFrame) (addr : U64) (data : List U8) (s : State) : Host.Outcome State Fault Refusal :=
  let d := s.dev
  if !pairUp d then next s d
  else match takeWaggle 5 (f.payload == leBytes 8 addr.toNat ++ data && decide (data.length ≤ 2040)) f d with
    | (false, d) => next s d
    | (true, d) =>
      if !inRole d .standby then next s d
      else if inStore d addr.toNat data.length then next s (dramWrite 3 addr.toNat data d)
      else next s (violation 0x47 3 0 0 d)

/-- MIRROR_ACK_TIMER (R318). -/
def execMirrorAckTimer (s : State) : Host.Outcome State Fault Refusal :=
  let d := s.dev
  match d.red.mirrorSeq with
  | some q =>
    if inRole d .standby && d.red.mirrorAckDue then
      next s (sendPair ([2, 0, 0, 0] ++ leBytes 4 q.toNat) (modRed d (fun r => { r with mirrorAckDue := false })))
    else next s d
  | none => next s d

/-! Saved state on the active unit -/

/-- NEED_FULL answered with a full snapshot, at once while no job runs, else at the next boundary, and a full mirror pass when asked
(R315, R318, R333). -/
def answerFull (mirror : Bool) (d : Device) : Device :=
  let d := modRed d (fun r => { r with fullDue := true })
  let d := if mirror then mirrorPass d else d
  pumpMirror (if !jobRunning d && saves d then takeSnapshot true d else d)

/-- NEED_FULL_RECEIVED (R315, R319, R333), on WL with the frame's end. DESIGN CHOICE: on WL, whose frame has no field for it, each one asks for a full
mirror pass too (log entry 94). -/
def execNeedFullReceived (mirror : Bool) (wl : Option FrameEnd) (s : State) : Host.Outcome State Fault Refusal :=
  let d := match wl with | some _ => rxActive .wl s.dev | none => s.dev
  if wl.any (fun x => !wagEndOk d 6 [] x) then next s (if waggleUp d then violation 0x40 3 0 1 d else d)
  else if inRole d .active then next s (answerFull (mirror || wl.isSome) d) else next s d

/-- A committed snapshot is known to the active unit (R318, R333). -/
def noteAck (n : U32) (d : Device) : Device :=
  let (role, trip) := match d.red.peer with | some h => (h.role, h.trip) | none => (.standby, false)
  let d := snapAcked n d
  modRed d (fun r => { r with standbyOk := standbyReady role trip n r && (r.wlLive || r.hbiLive) })

/-- PAIR_CONTROL_RECEIVED (R318). -/
def execPairControlReceived (m : PairControl) (s : State) : Host.Outcome State Fault Refusal :=
  let d := s.dev
  if !inRole d .active then next s d
  else match m with
    | .needFull mirror => next s (answerFull mirror (if mirror then raise .mirrorResync [] d else d))
    | .stateAck n => next s (noteAck n d)
    | .mirrorAck q =>
      let n := (d.red.mirrorMarks.takeWhile (fun k => decide ((q - w32 k).toNat < 2 ^ 31))).length
      next s (pumpMirror (popMirror n d))
    | .streamNotice resync cls => next s (takeNotice ((peerNode d).getD 0) resync (BitVec.ofNat 2 cls.toNat) d)

/-- SNAPSHOT_TIMER (R314, R337): while no job runs. -/
def execSnapshotTimer (s : State) : Host.Outcome State Fault Refusal :=
  let d := s.dev
  if inRole d .active && !jobRunning d && saves d then
    if d.red.drill == some false && !jobScheduled d then next s (pumpMirror (drillAtEnd d))
    else next s (pumpMirror (takeSnapshot (fullNext d) d))
  else next s d

/-- STALE_TIMER (R317). -/
def execStaleTimer (s : State) : Host.Outcome State Fault Refusal :=
  let d := s.dev
  if inRole d .active && pathOf d == .none then
    next s (raise .savedStateStale [w32 (snapAge d)] (modRed d (fun r => { r with stale := true })))
  else next s d

/-- One cycle of CLK_DP, in which phase 2 or a wake may end (R370, R408), a path to the standby that has come or gone is followed too (R317), and a unit of a pair reports to its
watcher (R322). -/
def tick (d : Device) : Device :=
  let d := powerStep (tickCore d)
  refreshPath (if paired d then reportWatch d else d)

/-! Drills (R337) -/

/-- HANDOVER_RECEIVED: the standby wakes and tests itself. -/
def execHandoverReceived (f : WaggleFrame) (_snap : U32) (s : State) : Host.Outcome State Fault Refusal :=
  let d := s.dev
  if !pairUp d then next s d
  else match takeWaggle 7 (f.payload.length == 4) f d with
    | (false, d) => next s d
    | (true, d) =>
      if inRole d .standby && d.red.promo.isNone then
        next s (wakeSource 6 (startCal false (modRed d (fun r => { r with promo := some .selfTest, drillPromo := true }))))
      else next s d

/-- The reason of a refused drill: the failing test. -/
def testReason (n : Nat) : Reason := if n = 0 then .selfTestSram else if n = 1 then .selfTestScreen else .selfTestDac

/-- HANDOVER_REPLY_RECEIVED: accepted, the unit prints nothing and waits to be demoted; refused, it keeps printing. -/
def execHandoverReplyReceived (f : WaggleFrame) (accepted : Bool) (reason : U32) (s : State) : Host.Outcome State Fault Refusal :=
  let d := s.dev
  if !pairUp d then next s d
  else match takeWaggle 8 (f.payload.length == 8) f d with
    | (false, d) => next s d
    | (true, d) =>
      if inRole d .active && d.red.drill == some true && !accepted then
        next s (finishWork (· == .drill) { status := .refused, reason := testReason reason.toNat }
          (raise .drillFailed [reason] (modRed d (fun r => { r with drill := none }))))
      else next s d

/-! Commands (Table 13.10) -/

/-- F(0, 0) for a head of the first repeat, from repeat n at `start` on, that reaches a limit, at most `fuel` repeats on. -/
def resumeAhead (d : Device) (j : JobDesc) (h : Head) (limit : Nat) : Nat → Nat → Nat → Nat
  | 0, _, start => firePos d h start 0 0
  | fuel + 1, n, start =>
    if limit ≤ firePos d h start 0 0 ∨ !hasRepeat j (n + 1) then firePos d h start 0 0
    else resumeAhead d j h limit fuel (n + 1) (start + max 1 (repDesc d j n).pitch)

/-- The resume WPOS of a head (R327, R329): of its resume repeat once it has it, and before that of the repeat that will be it, as far as the job's
descriptors tell; in sheet mode the least position at which it can resume. 0 for a head that resumes nothing (log entry 95). -/
def resumeWpos (d : Device) (h : Head) : Nat :=
  match d.red.resumeLines.find? (fun e => e.1 == h), d.red.resume.find? (fun e => e.1 == h), d.jobs.running with
  | some e, _, _ => e.2.2
  | none, some e, some x =>
    if x.desc.sheet then e.2
    else resumeAhead d x.desc h e.2 (e.2 / 1000000 + 1) d.jobs.begun d.jobs.repStart.toNat
  | none, _, _ => 0

/-- red.status (R309), with the resume WPOS of each head, which EV_PROMOTED's arguments have no room for (R327, R428; log entry 95). -/
def execRedStatus (c : Cmd) (s : State) : Host.Outcome State Fault Refusal :=
  mervan { opcode := 0x0700, results := fun _ => 94 }
    (fun _ _ d =>
      let own := match d.red.pair with | some p => p.peer.toNat | none => 0
      let peer := match d.red.peer with | some h => (h.uid.toNat, roleNum h.role) | none => (own, 0)
      let snap := if d.red.role == .active then d.red.acked else d.red.committed.map (·.number)
      ok d ((List.finRange 40).foldl (fun ws h => put64 ws (resumeWpos d h)) ([w32 (roleNum d.red.role), d.red.epoch] ++ w64 peer.1
        ++ [w32 peer.2, w32 (b2n d.red.wlLive), w32 (b2n d.red.hbiLive), snap.getD 0, w32 (snapAge d), w32 (b2n d.red.stale),
            w32 (mirroredOf d (runningKey d)), w32 (b2n (d.red.role == .active && d.red.standbyOk)), w32 (b2n (paired d))]))) c s

/-- red.assign (R308): the pair record, in force from the next start-up; CLEAR 1 removes it. -/
def execRedAssign (c : Cmd) (s : State) : Host.Outcome State Fault Refusal :=
  mervan { opcode := 0x0701, gated := true, slow := true, args := [.addr, .flag, .flag] }
    (fun _ a d =>
      if d.pwr.held.getLsbD 3 then no d .refused .padsHeld
      else .later .flash (journalAppend 1 0
        (if argB a 2 then [] else leBytes 8 (argN a 0) ++ [BitVec.ofNat 8 (argN a 1)]) true d)) c s

/-- red.promote (R334); a standby whose trip holds does not promote (Table 16.4). -/
def execRedPromote (c : Cmd) (s : State) : Host.Outcome State Fault Refusal :=
  mervan { opcode := 0x0702, gated := true, results := fun _ => 1 }
    (fun _ _ d =>
      let live := d.red.wlLive || d.red.hbiLive
      let peerActive := match d.red.peer with | some h => h.role == .active | none => false
      if live && peerActive then no d .refused .peerActive
      else if !inRole d .standby || d.red.promo.isSome then no d .refused
      else if d.therm.trip then no d .refused .thermal
      else
        let d := startPromotion false d
        ok d [d.red.epoch]) c s

/-- red.drill (R337). -/
def execRedDrill (c : Cmd) (s : State) : Host.Outcome State Fault Refusal :=
  mervan { opcode := 0x0703, slow := true }
    (fun _ _ d =>
      if !inRole d .active || !d.red.standbyOk || d.red.stale then no d .refused .noStandby
      else if d.red.drill.isSome then no d .busyState
      else
        let d := modRed d (fun r => { r with drill := some false })
        if jobRunning d || jobScheduled d then .reply { status := .deferred } d
        else .later .drill (drillAtEnd d)) c s

/-- red.readmit (R333); a FENCED unit whose readmission is refused goes to SLEEP (Table 13.1). -/
def execRedReadmit (c : Cmd) (s : State) : Host.Outcome State Fault Refusal :=
  mervan { opcode := 0x0704 }
    (fun _ _ d =>
      if !inRole d .fenced then no d .refused
      else if !(match d.red.peer with | some h => h.role == .active | none => false) then
        .after { status := .refused, reason := .peerNotActive } d roleSleep
      else .after {} d readmit) c s

/-- The reconciliation record (R335): per head the re-screened lines, the uncertain rows, and the lines from LAST_LINE_NO to the resume
line. -/
def reconcileWords (d : Device) (rs : List (Nat × Nat × Nat)) : List U32 :=
  (rs.zip (List.finRange 40)).flatMap (fun e =>
    let lost := match d.red.resumeLines.find? (fun x => x.1 == e.2) with | some x => x.2.1 - e.1.2.2 | none => 0
    [w32 e.1.1, w32 e.1.2.1, w32 lost])

/-- red.reconcile (R335, Table 13.10). -/
def execRedReconcile (c : Cmd) (s : State) : Host.Outcome State Fault Refusal :=
  mervan { opcode := 0x0705, dram := true, args := [.addr], ranges := fun a => [(argN a 0, 480, false)] }
    (fun _ a d =>
      match d.red.reconciled with
      | none => no d .refused
      | some rs => ok (dramWrite 8 (argN a 0) (wordBytes (reconcileWords d rs)) d)) c s

end Sys2Proof.Machine
end

