-- ==== Sys2Proof/Machine/Fabric.lean ====
section
/-! DEFINITION. Fabric links (chapter 12): link frames, credits and their audit, replay, delivery and forwarding of data frames, fabric time,
and the violations of neighbours. -/
namespace Sys2Proof.Machine

/-! Ports -/

/-- CRC_FAIL or BAD_FRAME found in a frame as its lane delivers it: SOURCE is the lane (R306, log entry 91). -/
def laneViolation (code : U8) (p : Port) (k : Fin 2) (ans : BitVec 2) (d : Device) : Device :=
  violation code 2 (BitVec.ofNat 16 (2 * p.val + k.val)) ans d

/-- A link frame taken on a port, with its lane's receiver active, or CRC_FAIL and the frame discarded (R284, R306): the UID folded is the one that the
neighbour announced, 0 before any. -/
def takeLink (p : Port) (sub : Nat) (payload : List U8) (x : FrameEnd) (d : Device) : Bool × Device :=
  let d := portActive p x.lane d
  if x.crc == linkCrc ((d.fabric.ports[p].nbrUid).getD 0) (linkFrame sub x.rsv.1 payload) then (true, d)
  else (false, laneViolation 0x30 p x.lane 1 d)

/-- A violation answered by re-initialising the port (R28, R306). -/
def fabReinit (code : U8) (p : Port) (d : Device) : Device := reinitPort p (fabViolation code p 2 d)

/-- A sequence number is not later than another, modulo 2^16. -/
def seqLe (a b : U16) : Bool := decide ((b - a).toNat < 2 ^ 15)

/-! Credits (R294, R295) -/

/-- Cumulative grants of the receiver added to the credits held; a count older than one already received adds nothing (R294). -/
def takeGrants (granted : Vector U32 4) (q : FPort) : FPort :=
  { q with
    held := updAll q.held (fun k h => let n := (granted[k] - q.gRcvd[k]).toNat; if n < 2 ^ 31 then h + n else h)
    gRcvd := updAll q.gRcvd (fun k g => if (granted[k] - g).toNat < 2 ^ 31 then granted[k] else g) }

/-- CREDIT_RECEIVED (R294). -/
def execCreditReceived (p : Port) (granted : Vector U32 4) (x : FrameEnd) (s : State) : Host.Outcome State Fault Refusal :=
  let d := s.dev
  if !portRuns d p then next s d
  else match takeLink p 2 (countBytes granted.toList) x d with
    | (false, d) => next s d
    | (true, d) => next s (pumpMirror (pumpPort p (modPort d p (takeGrants granted))))

/-- CREDIT_INIT_RECEIVED (R294): the sender holds exactly the credits announced. -/
def execCreditInitReceived (p : Port) (config : Vector U16 4) (x : FrameEnd) (s : State) : Host.Outcome State Fault Refusal :=
  let d := s.dev
  if !portRuns d p then next s d
  else match takeLink p 3 (config.toList.flatMap (fun n => leBytes 2 n.toNat)) x d with
    | (false, d) => next s d
    | (true, d) =>
      next s (pumpMirror (pumpPort p (modPort d p (fun q => { q with
        peerConfig := mapAll config (·.toNat), held := mapAll config (·.toNat), cSent := Vector.replicate 4 0, gRcvd := Vector.replicate 4 0
        audit := none }))))

/-- CREDIT_GRANT_TIMER (R294). -/
def execCreditGrantTimer (p : Port) (s : State) : Host.Outcome State Fault Refusal :=
  let d := s.dev
  if portRuns d p && d.fabric.ports[p].grantDue then
    next s (linkSend p (.credit d.fabric.ports[p].gSent.toList) (modPort d p (fun q => { q with grantDue := false })))
  else next s d

/-- The receiver's counts agree with an AUDIT (R295). -/
def auditOkR (q : FPort) (cSent : List U32) : Bool :=
  (List.finRange 4).all (fun k => q.cRcvd[k] == cSent.getD k.val 0 && q.used[k] == (q.cRcvd[k] - q.gSent[k]).toNat)

/-- The sender's counts agree with an AUDIT_REPLY (R295). -/
def auditOkS (q : FPort) (granted : Vector U32 4) : Bool :=
  (List.finRange 4).all (fun k => w32 q.held[k] == w32 q.peerConfig[k] - q.cSent[k] + granted[k])

/-- AUDIT_REPLY, which also grants as CREDIT does. -/
def auditReply (p : Port) (mark : U16) (d : Device) : Device :=
  linkSend p (.auditReply mark d.fabric.ports[p].gSent.toList) (modPort d p (fun q => { q with grantDue := false }))

/-- The receiver's check of an AUDIT, its reply, and CREDIT_AUDIT when it fails (R295, R15). -/
def checkAudit (p : Port) (mark : U16) (cSent : List U32) (d : Device) : Device :=
  let good := auditOkR d.fabric.ports[p] cSent
  let d := auditReply p mark (modPort d p (fun q => { q with auditRx := none }))
  if good then d else fabReinit 0x34 p d

/-- AUDIT_RECEIVED (R295): checked once every SEQ before NEXT_SEQ has been received; one that comes after frames beyond NEXT_SEQ is only
answered, since its counts are past (log entry 61). -/
def execAuditReceived (p : Port) (mark nextSeq : U16) (cSent : Vector U32 4) (x : FrameEnd) (s : State) : Host.Outcome State Fault Refusal :=
  let d := s.dev
  if !portRuns d p then next s d
  else match takeLink p 7 (leBytes 2 mark.toNat ++ leBytes 2 nextSeq.toNat ++ countBytes cSent.toList) x d with
    | (false, d) => next s d
    | (true, d) =>
      let r := d.fabric.ports[p].rxSeq
      if r == nextSeq then next s (checkAudit p mark cSent.toList d)
      else if seqLe r nextSeq then next s (modPort d p (fun q => { q with auditRx := some (mark, nextSeq, cSent.toList) }))
      else next s (auditReply p mark d)

/-- AUDIT_REPLY_RECEIVED (R295): also a CREDIT frame; a reply to an older MARK is nothing more. -/
def execAuditReplyReceived (p : Port) (mark : U16) (granted : Vector U32 4) (x : FrameEnd) (s : State) : Host.Outcome State Fault Refusal :=
  let d := s.dev
  if !portRuns d p then next s d
  else match takeLink p 8 (leBytes 2 mark.toNat ++ leBytes 2 x.rsv.2.toNat ++ countBytes granted.toList) x d with
    | (false, d) => next s d
    | (true, d) =>
      let d := modPort d p (takeGrants granted)
      let q := d.fabric.ports[p]
      if q.audit.isSome && q.mark == mark then
        let d := modPort d p (fun q => { q with gRcvd := granted, audit := none })
        if auditOkS q granted then next s (pumpMirror (pumpPort p d)) else next s (fabReinit 0x34 p d)
      else next s (pumpMirror (pumpPort p d))

/-- AUDIT_RESEND (R295): after three resends, CREDIT_AUDIT. -/
def execAuditResend (p : Port) (s : State) : Host.Outcome State Fault Refusal :=
  let d := s.dev
  match d.fabric.ports[p].audit with
  | some n =>
    if !portRuns d p then next s d
    else if n < 3 then
      next s (linkSend p (.audit d.fabric.ports[p].mark 0 []) (modPort d p (fun q => { q with audit := some (n + 1) })))
    else next s (fabReinit 0x34 p (modPort d p (fun q => { q with audit := none })))
  | none => next s d

/-! Replay (R298, R320) -/

/-- Marks of the mirror ring that an acknowledgement on WL covers (R316). -/
def marksCovered (ack : U16) (marks : List Nat) : Nat := (marks.takeWhile (fun k => seqLe (BitVec.ofNat 16 k) ack)).length

/-- An ACK on WL: frames leave the replay buffer, mirrored ranges and snapshots are acknowledged (R316, R317, R320). -/
def waggleAcked (ack : U16) (d : Device) : Device :=
  let d := modRed d (fun r => { r with replay := r.replay.filter (fun f => !seqLe f.2.seq ack) })
  let d := if d.red.viaFabric then d else popMirror (marksCovered ack d.red.mirrorMarks) d
  let seen := d.red.snapMarks.filter (fun m => seqLe m.2 ack)
  let d := modRed d (fun r => { r with snapMarks := r.snapMarks.filter (fun m => !seqLe m.2 ack) })
  let d := match seen.getLast? with | some m => noteAck m.1 d | none => d
  pumpMirror (pumpWaggle d)

/-- An ACK or NAK taken on WL, or CRC_FAIL (R319, R321). -/
def takeShort (kind : Nat) (seq : U16) (x : FrameEnd) (d : Device) : Bool × Device :=
  let d := rxActive .wl d
  if wagEndOk d kind (leBytes 2 seq.toNat ++ leBytes 2 x.rsv.2.toNat) x then (true, d) else (false, violation 0x40 3 0 1 d)

/-- ACK_RECEIVED (R298, R320): the frames up to ACK_SEQ leave the replay buffer. -/
def execAckReceived (l : LinkId) (ackSeq : U16) (x : FrameEnd) (s : State) : Host.Outcome State Fault Refusal :=
  let d := s.dev
  match l with
  | .port p =>
    if !portRuns d p then next s d
    else match takeLink p 0 (leBytes 2 ackSeq.toNat ++ leBytes 2 x.rsv.2.toNat) x d with
      | (false, d) => next s d
      | (true, d) =>
        next s (pumpMirror (pumpPort p (modPort d p (fun q => { q with
          replay := q.replay.filter (fun f => !seqLe f.seq ackSeq)
          out := { q.out with again := q.out.again.filter (fun f => !seqLe f.seq ackSeq) } }))))
  | .waggle =>
    if !waggleUp d then next s d
    else match takeShort 2 ackSeq x d with
      | (false, d) => next s d
      | (true, d) => next s (waggleAcked ackSeq d)

/-- Frames of a port sent again from a SEQ on; nothing to send is no replay. -/
def replayPort (p : Port) (from_ : U16) (d : Device) : Device :=
  let fs := d.fabric.ports[p].replay.filter (fun f => seqLe from_ f.seq)
  if fs.isEmpty then d
  else pumpPort p (modPort d p (fun q => { q with
    out := { q.out with again := fs }, replays := q.replays + 1, replayCount := q.replayCount + fs.length }))

/-- Frames of WL sent again from a SEQ on; a FENCED unit sends none (Table 13.1). -/
def replayWaggle (from_ : U16) (d : Device) : Device :=
  let fs := d.red.replay.filter (fun f => seqLe from_ f.2.seq)
  if fs.isEmpty || fenced d then d
  else wagPut fs.reverse (modRed d (fun r => { r with replays := r.replays + 1 }))

/-- NAK_RECEIVED (R298, R320): the sender replays from NAK_SEQ. -/
def execNakReceived (l : LinkId) (nakSeq : U16) (x : FrameEnd) (s : State) : Host.Outcome State Fault Refusal :=
  let d := s.dev
  match l with
  | .port p =>
    if !portRuns d p then next s d
    else match takeLink p 1 (leBytes 2 nakSeq.toNat ++ leBytes 2 x.rsv.2.toNat) x d with
      | (false, d) => next s d
      | (true, d) => next s (replayPort p nakSeq d)
  | .waggle =>
    if !waggleUp d then next s d
    else match takeShort 3 nakSeq x d with
      | (false, d) => next s d
      | (true, d) => next s (replayWaggle nakSeq d)

/-- REPLAY_TIMEOUT (R298, R320): no ACK for 10 µs; the oldest unacknowledged frame and those after it are sent again. -/
def execReplayTimeout (l : LinkId) (s : State) : Host.Outcome State Fault Refusal :=
  let d := s.dev
  match l with
  | .port p =>
    match d.fabric.ports[p].replay with
    | f :: _ => if portRuns d p then next s (replayPort p f.seq d) else next s d
    | [] => next s d
  | .waggle =>
    match d.red.replay with
    | f :: _ => if waggleUp d then next s (replayWaggle f.2.seq d) else next s d
    | [] => next s d

/-- ACK_TIMER (R298, R320): the last SEQ received in order. -/
def execAckTimer (l : LinkId) (s : State) : Host.Outcome State Fault Refusal :=
  let d := s.dev
  match l with
  | .port p =>
    if portRuns d p && d.fabric.ports[p].ackDue then
      next s (linkSend p (.ack (d.fabric.ports[p].rxSeq - 1)) (modPort d p (fun q => { q with ackDue := false })))
    else next s d
  | .waggle =>
    if waggleUp d && d.red.ackDue then
      next s (wagSend 2 (leBytes 2 (d.red.rxSeq - 1).toNat ++ [0, 0]) (modRed d (fun r => { r with ackDue := false })))
    else next s d

/-- REPLAY_BUDGET (R298, R320): a ninth replay within 100 µs re-initialises the link. -/
def execReplayBudget (l : LinkId) (s : State) : Host.Outcome State Fault Refusal :=
  let d := s.dev
  match l with
  | .port p =>
    if portRuns d p && decide (9 ≤ d.fabric.ports[p].replays) then
      next s (fabReinit 0x32 p (modPort d p (fun q => { q with replays := 0 })))
    else next s d
  | .waggle =>
    if waggleUp d && decide (9 ≤ d.red.replays) then
      next s (refreshPath (reinitLane .wl (violation 0x42 3 0 2 (modRed d (fun r => { r with replays := 0 })))))
    else next s d

/-! Messages delivered at this node (R303 to R305) -/

/-- The virtual channel of a MSG_TYPE (Table 12.6); none for an unknown one. -/
def msgVc (t : Nat) : Option Vc :=
  if t = 0x01 ∨ t = 0x02 ∨ t = 0x03 ∨ t = 0x10 ∨ t = 0x11 ∨ t = 0x12 ∨ t = 0x13 then some .timing
  else if t = 0x20 ∨ t = 0x21 ∨ t = 0x22 ∨ t = 0x30 ∨ t = 0x31 ∨ (0x40 ≤ t ∧ t ≤ 0x46) then some .control
  else if t = 0x50 ∨ t = 0x51 ∨ t = 0x52 then some .bulk
  else if t = 0x60 ∨ t = 0x61 then some .measure
  else none

/-- LENGTH, MSG_TYPE and VC of a frame agree with Tables 12.1 and 12.6 (0x35). -/
def frameOk (f : DataFrame) : Bool :=
  f.length.toNat == 20 + f.payload.length && decide (f.length.toNat ≤ 2068) && f.length.toNat % 4 == 0
    && msgVc f.msgType.toNat == some f.vc

/-- A frame comes from the active unit of the pair (R318). -/
def fromActive (d : Device) (src : U8) : Bool := peerNode d == some src

/-- A job data write (R304): inside the job store it is written; elsewhere it is discarded and answered UNREACHABLE. A standby owes the
mirror's acknowledgement for one of the active unit (R318); a promoting unit's mirror is frozen (R327 step 4). -/
def takeJobData (f : DataFrame) (d : Device) : Device :=
  let a := leAt f.payload 0 8
  let bs := f.payload.drop 8
  if paired d && d.red.role == .promoting && fromActive d f.src then d
  else if d.dram.ok && inStore d a bs.length && inDram d a bs.length then
    let d := dramWrite 3 a bs d
    if inRole d .standby && fromActive d f.src then modRed d (fun r => { r with mirrorSeq := some f.srcSeq, mirrorAckDue := true }) else d
  else sendUnreachable f d

/-- An echo (fabric.ping): the reply to a ping of this node completes it with the round trip; a request is sent back. -/
def takeEcho (f : DataFrame) (d : Device) : Device :=
  let t := leAt f.payload 0 8
  if d.fabric.pings.contains (f.src, t) then
    finishWork (· == .ping f.src) { results := [w32 ((ftime d).toNat - t)] }
      (modFabric d (fun b => { b with pings := b.pings.erase (f.src, t) }))
  else (sendTo .control false f.src 0x0046 f.payload d).2

/-- A fragment of a correction record (R305): fragments come in order, FRAG 0 begins a new record, and a record missing any is discarded
whole. The record that the last one completes is CORRECTION_RECORD_RECEIVED's. -/
def takeFragment (f : DataFrame) (d : Device) : Device :=
  let i := byteAt f.payload 0
  let n := byteAt f.payload 1
  let bs := f.payload.drop 4
  let others := d.fabric.frags.filter (fun e => e.1 != f.src)
  let whole := decide (1 ≤ n ∧ i < n) && (i + 1 == n || bs.length == 2044)
  let had := if i = 0 then some [] else
    (d.fabric.frags.find? (fun e => e.1 == f.src && e.2.1 == i && e.2.2.1 == n)).map (·.2.2.2)
  match (if whole then had else none) with
  | some old => modFabric d (fun b => { b with frags := others ++ (if i + 1 = n then [] else [(f.src, i + 1, n, old ++ bs)]) })
  | none => modFabric d (fun b => { b with frags := others })

/-- What a message delivered at this node does beside its own row (Table 12.6). -/
def takeMessage (f : DataFrame) (d : Device) : Device :=
  let t := f.msgType.toNat
  if t = 0x50 then takeJobData f d
  else if t = 0x46 then takeEcho f d
  else if t = 0x51 ∨ t = 0x52 then (if paired d then modFabric d (fun b => { b with peerNode := some f.src }) else d)
  else if t = 0x61 then takeFragment f d
  else d

/-! Delivery in order (R296) -/

/-- The destination kind of a frame (R296). -/
def destKind (f : DataFrame) : DestKind := if f.bcast then .all else if f.dest = 0 then .root else .own

/-- A flow is that of a source, VC and destination kind. -/
def isFlow (src : U8) (vc : Vc) (dest : DestKind) (x : SrcFlow) : Bool := x.src == src && x.vc == vc && x.dest == dest

/-- A flow changed. -/
def modFlow (d : Device) (src : U8) (vc : Vc) (dest : DestKind) (g : SrcFlow → SrcFlow) : Device :=
  modFabric d (fun b => { b with flows := b.flows.map (fun x => if isFlow src vc dest x then g x else x) })

/-- A frame delivered: its message, then its buffer is free (R294). -/
def deliverFrame (src : Option Port) (f : DataFrame) (d : Device) : Device := releaseFrame src f (takeMessage f d)

/-- Held frames delivered while the next SRC_SEQ is among them, at most `fuel`. -/
def drainFlow (src : U8) (vc : Vc) (dest : DestKind) : Nat → Device → Device
  | 0, d => d
  | fuel + 1, d =>
    match d.fabric.flows.find? (isFlow src vc dest) with
    | none => d
    | some x =>
      match x.held.find? (fun h => h.2.srcSeq == x.next) with
      | none => d
      | some h =>
        drainFlow src vc dest fuel
          (deliverFrame h.1 h.2 (modFlow d src vc dest (fun x => { x with next := x.next + 1, held := x.held.erase h })))

/-- A frame for this node, in SRC_SEQ order (R296): one ahead of a gap is held with its credits, an older one is LATE. The first frame of a
flow begins it (log entry 61), and frames of nodes without an ID, which all carry SRC 0, are of no flow (R287). -/
def deliverInOrder (p : Port) (f : DataFrame) (d : Device) : Device :=
  if f.src = 0 then deliverFrame (some p) f d
  else match d.fabric.flows.find? (isFlow f.src f.vc (destKind f)) with
  | none =>
    deliverFrame (some p) f (modFabric d (fun b => { b with
      flows := b.flows ++ [{ src := f.src, vc := f.vc, dest := destKind f, next := f.srcSeq + 1, held := [] }] }))
  | some x =>
    if f.srcSeq == x.next then
      let d := modFlow d f.src f.vc (destKind f) (fun x => { x with next := x.next + 1 })
      drainFlow f.src f.vc (destKind f) x.held.length (deliverFrame (some p) f d)
    else if (f.srcSeq - x.next).toNat < 2 ^ 31 ∧ !(x.held.any (fun h => h.2.srcSeq == f.srcSeq)) then
      modFlow d f.src f.vc (destKind f) (fun x => { x with held := x.held ++ [(some p, f)] })
    else releaseFrame (some p) f (modFabric d (fun b => { b with late := b.late + 1 }))

/-- A gap in the TIMING frames of the position master (R297): a device that holds go for a W not yet reached holds no proof for it. -/
def timingGap (p : Option Port) (d : Device) : Device :=
  let d := fabViolation 0x38 (p.getD 0) 0 d
  match d.jobs.change with
  | some c => if c.go && !reached d c.w.toNat then { d with jobs := { d.jobs with change := some { c with proof := false, barred := true } } } else d
  | none => d

/-- What a lost frame means above the fabric (R297, R305, R318). -/
def gapEffects (src : U8) (vc : Vc) (p : Option Port) (d : Device) : Device :=
  match vc with
  | .timing => if masterNode d == some src then timingGap p d else d
  | .control => d
  | .bulk => if inRole d .standby && fromActive d src then sendNeedFull true (modRed d (fun r => { r with building := [] })) else d
  | .measure => modFabric d (fun b => { b with frags := b.frags.filter (fun e => e.1 != src) })

/-- SRC_SEQ_GAP_TIMEOUT (R296): the gap is declared lost and counted, and the held frames are delivered. -/
def execSrcSeqGapTimeout (src : U8) (vc : Vc) (dest : DestKind) (s : State) : Host.Outcome State Fault Refusal :=
  let d := s.dev
  match d.fabric.flows.find? (isFlow src vc dest) with
  | none => next s d
  | some x =>
    match x.held with
    | [] => next s d
    | h :: hs =>
      let low := hs.foldl (fun (m : Option Port × DataFrame) g =>
        if (g.2.srcSeq - x.next).toNat < (m.2.srcSeq - x.next).toNat then g else m) h
      let d := modFabric d (fun b => { b with gaps := b.gaps + 1 })
      let d := match low.1 with | some p => modPort d p (fun q => { q with gapCount := q.gapCount + 1 }) | none => d
      let d := gapEffects src vc low.1 d
      next s (drainFlow src vc dest x.held.length (modFlow d src vc dest (fun x => { x with next := low.2.srcSeq })))

/-! Data frames -/

/-- A negative response to a data frame: NAK at the first, and the frames that follow are discarded until the one wanted comes (R298). -/
def nakData (p : Port) (logged : Device → Device) (d : Device) : Device :=
  if d.fabric.ports[p].naking then d
  else linkSend p (.nak d.fabric.ports[p].rxSeq) (logged (modPort d p (fun q => { q with naking := true })))

/-- A frame without a route: NO_ROUTE, UNREACHABLE to its source, and its buffer is free (R292). -/
def noRoute (p : Port) (f : DataFrame) (d : Device) : Device :=
  releaseFrame (some p) f (sendUnreachable f (fabViolation 0x3C p 0 d))

/-- A frame that does not end here goes on through a port with HOPS one higher, or has no route (R283, R292). -/
def passOn (p : Port) (out : Option Port) (f : DataFrame) (d : Device) : Device :=
  match out with
  | some o => forwardOn (some p) o { f with hops := f.hops + 1 } d
  | none => noRoute p f d

/-- The port on which a UID's JOIN arrived, recorded (R287). -/
def noteJoinPort (u : U64) (p : Port) (d : Device) : Device :=
  modFabric d (fun b => { b with joinPorts := (u, p) :: b.joinPorts.filter (fun e => e.1 != u) })

/-- ASSIGN, which the root sends down: it is for this node, or goes on down the port on which its node's JOIN arrived (R287). It ends at one node of many
with DEST 0, so SRC_SEQ orders nothing there. -/
def passAssign (p : Port) (f : DataFrame) (d : Device) : Device :=
  let u : U64 := BitVec.ofNat 64 (leAt f.payload 0 8)
  match (if u == d.chip.uid then none else d.fabric.joinPorts.find? (fun e => e.1 == u && e.2 != p && portOpen d e.2)) with
  | some e => passOn p (some e.2) f d
  | none => releaseFrame (some p) f d

/-- A frame with DEST 0 (R287): it goes out through the parent port, and JOIN leaves a record of its port; the root takes it. -/
def takeDestZero (p : Port) (f : DataFrame) (d : Device) : Device :=
  if f.msgType = 0x41 then passAssign p f d
  else if d.fabric.root then deliverInOrder p f d
  else if d.fabric.parent == some p then noRoute p f d
  else passOn p (routePort d 0) f (if f.msgType = 0x40 then noteJoinPort (BitVec.ofNat 64 (leAt f.payload 0 8)) p d else d)

/-- A frame accepted on a port is delivered, forwarded or discarded (R292, R303, R304). -/
def routeFrame (p : Port) (k : Fin 2) (f : DataFrame) (d : Device) : Device :=
  let standby := paired d && d.red.role == .standby
  if standby && !(f.vc == .bulk && !f.bcast && f.dest == d.fabric.node) then releaseFrame (some p) f d
  else if !frameOk f then releaseFrame (some p) f (laneViolation 0x35 p k 0 d)
  else if f.hops = 15 then releaseFrame (some p) f (fabViolation 0x3A p 0 d)
  else if f.bcast then deliverInOrder p f (floodExcept (some p) { f with hops := f.hops + 1 } d)
  else if f.dest = 0 then takeDestZero p f d
  else if f.dest = d.fabric.node then deliverInOrder p f d
  else if f.dest = 255 then noRoute p f d
  else passOn p (routePort d f.dest.toNat) f d

/-- A frame in port sequence: counted, acknowledged later, checked against the credits, and a waiting AUDIT is checked (R294, R295, R298). -/
def acceptFrame (p : Port) (k : Fin 2) (f : DataFrame) (d : Device) : Device :=
  let n := frameCredits f
  let c := vcFin f.vc
  let tooMuch := decide (d.fabric.ports[p].config[c] < d.fabric.ports[p].used[c] + n)
  let d := modPort d p (fun q => { q with
    rxSeq := q.rxSeq + 1, naking := false, ackDue := true, cRcvd := upd q.cRcvd c (· + w32 n), used := upd q.used c (· + n) })
  if tooMuch then fabReinit 0x33 p d
  else
    let d := match d.fabric.ports[p].auditRx with
      | some (mark, nextSeq, cs) => if nextSeq == d.fabric.ports[p].rxSeq then checkAudit p mark cs d else d
      | none => d
    if portRuns d p then routeFrame p k f d else d

/-- A frame that no row takes: CRC_FAIL, or BAD_FRAME when its CRC is right; the CRC of a HELLO (SUB 4) folds 0 (R284, R306, log entry 83). -/
def badFrame (p : Port) (k : Fin 2) (f : DataFrame) (d : Device) : Device :=
  let hello := f.kind == 2 && f.vc == .timing && f.bcast && f.rsv.1 == 0
  if f.crc != frameCrc (if hello then 0 else (d.fabric.ports[p].nbrUid).getD 0) f then laneViolation 0x30 p k 1 d else laneViolation 0x35 p k 0 d

/-- DATA_FRAME_RECEIVED (R283, R284, R292, R298): a frame that fails its CRC or its port sequence is answered NAK. -/
def execDataFrameReceived (p : Port) (k : Fin 2) (f : DataFrame) (s : State) : Host.Outcome State Fault Refusal :=
  let d := s.dev
  if !fabOn d || !portRuns d p then next s d
  else
    let d := portActive p k d
    if f.kind != 1 then next s (badFrame p k f d)
    else if f.crc != frameCrc ((d.fabric.ports[p].nbrUid).getD 0) f then next s (nakData p (laneViolation 0x30 p k 1) d)
    else if f.seq != d.fabric.ports[p].rxSeq then next s (nakData p (fabViolation 0x31 p 1) d)
    else next s (acceptFrame p k f d)

/-- UNREACHABLE_RECEIVED (R292, R350, R357); CONTROL frames that reach a standby are discarded (R304). -/
def execUnreachableReceived (dest : U8) (msgType : U16) (srcSeq : U32) (s : State) : Host.Outcome State Fault Refusal :=
  let d := s.dev
  if !fabOn d || (paired d && d.red.role == .standby) then next s d else next s (frameLost dest msgType srcSeq d)

/-! Fabric time (R299, R300) -/

/-- TIME_REQ_TIMER (R299). -/
def execTimeReqTimer (s : State) : Host.Outcome State Fault Refusal :=
  let d := s.dev
  match d.fabric.parent with
  | some p => if fabOn d && !d.fabric.root then next s (linkSend p (.timeReq d.chip.qtime) d) else next s d
  | none => next s d

/-- TIME_REQ_RECEIVED (R299): times in quarter nanoseconds; T3 is the present. -/
def execTimeReqReceived (p : Port) (t1 t2 : Int) (x : FrameEnd) (s : State) : Host.Outcome State Fault Refusal :=
  let d := s.dev
  if !(fabOn d && portRuns d p) then next s d
  else match takeLink p 5 (leInt 8 t1) x d with
    | (false, d) => next s d
    | (true, d) => next s (linkSend p (.timeResp t1.toNat t2.toNat d.chip.qtime) d)

/-- The delay of an exchange in ps, from times in quarter nanoseconds (R299). -/
def timeDelay (t1 t2 t3 t4 asym : Int) : Int := ((t4 - t1) - (t3 - t2)) * 125 - asym

/-- The offset of an exchange in ps (R299). -/
def timeOffset (t1 t2 t3 t4 : Int) : Int := ((t1 - t2) + (t4 - t3)) * 125

/-- The delay differs from the mean of the previous 16 by more than 50 ns (R299). -/
def isOutlier (ds : List Int) (delay : Int) : Bool :=
  ds.length == 16 && decide (800000 < (16 * delay - ds.sum).natAbs)

/-- The lock state after an exchange (R300); it is held for 1 ms after a change of parent port or lane. -/
def lockAfter (o : Int) (d : Device) : Device :=
  let n := if o.natAbs < 5000 then d.fabric.goodTimes + 1 else 0
  let d := modFabric d (fun b => { b with goodTimes := n })
  if d.chip.qtime < d.fabric.lockHold then d
  else if !d.fabric.locked && decide (10 ≤ n) then raise .timeLocked [] (modFabric d (fun b => { b with locked := true }))
  else if d.fabric.locked && decide (20000 < o.natAbs) then raise .timeUnlocked [] (modFabric d (fun b => { b with locked := false }))
  else d

/-- The offset is taken off: by a step at the first exchange before the fabric is ready, else by slewing (R300). -/
def adjustTime (o : Int) (d : Device) : Device :=
  if d.fabric.stepped then modFabric d (fun b => { b with slew := -(roundDiv o 250) })
  else modFabric { d with chip := { d.chip with qtime := ((d.chip.qtime : Int) - roundDiv o 250).toNat } }
    (fun b => { b with stepped := true, slew := 0, slewAt := 0 })

/-- TIME_RESP_RECEIVED (R299, R300). -/
def execTimeRespReceived (p : Port) (t1 t2 t3 t4 : Int) (x : FrameEnd) (s : State) : Host.Outcome State Fault Refusal :=
  let d := s.dev
  if !fabOn d || !portRuns d p || d.fabric.root || d.fabric.parent != some p then next s d
  else match takeLink p 6 (leInt 8 t1 ++ leInt 8 t2 ++ leInt 8 t3) x d with
    | (false, d) => next s d
    | (true, d) =>
      let q := d.fabric.ports[p]
      let delay := timeDelay t1 t2 t3 t4 q.asym
      let o := timeOffset t1 t2 t3 t4
      if isOutlier q.delays delay then next s (fabViolation 0x39 p 0 d)
      else next s (lockAfter o (adjustTime o (modPort d p (fun q => { q with
        delays := (delay :: q.delays).take 16, delay := delay, offset := o }))))

/-- TIME_UNLOCK_TIMEOUT (R300). -/
def execTimeUnlockTimeout (s : State) : Host.Outcome State Fault Refusal :=
  let d := s.dev
  if fabOn d && d.fabric.locked && !d.fabric.root && decide (d.fabric.lockHold ≤ d.chip.qtime) then
    next s (raise .timeUnlocked [] (modFabric d (fun b => { b with locked := false, goodTimes := 0 })))
  else next s d

/-! Neighbours (R306) -/

/-- NEIGHBOUR_SILENT: no HELLO for 3 ms on an up port. -/
def execNeighbourSilent (p : Port) (s : State) : Host.Outcome State Fault Refusal :=
  if fabOn s.dev && portRuns s.dev p then next s (fabReinit 0x3B p s.dev) else next s s.dev

/-- PORT_FLAP: more than 8 re-initialisations in 10 s; the count starts anew. -/
def execPortFlap (p : Port) (s : State) : Host.Outcome State Fault Refusal :=
  let d := s.dev
  if linkOn d && decide (8 < d.fabric.ports[p].reinits) then
    next s (fabViolation 0x3D p 3 (modPort d p (fun q => { q with reinits := 0 })))
  else next s d

/-- N of an isolating code (Tables 5.10, 6.11, 7.7, 12.7 and 13.6). -/
def isolateAfter (code : U8) : Nat := if code = 0x3D then 3 else 0

/-- What a link makes of its partner's isolation (R28): an isolated head is absent, an isolated fabric port leaves routing to the
alternates, and an isolated WL is unused. -/
def leaveLink (block : BitVec 5) (source : U16) (d : Device) : Device :=
  if block = 1 then
    if h : source.toNat < 40 then headAbsent ⟨source.toNat, h⟩ .isolated d else d
  else if block = 2 then
    if h : source.toNat < 8 then portDown (portOfLane ⟨source.toNat, h⟩) d else d
  else if block = 3 then refreshPath (waggleDown d)
  else d

/-- PARTNER_ISOLATED (R28): REPEATS of an isolating entry has reached N. -/
def execPartnerIsolated (block : BitVec 5) (source : U16) (s : State) : Host.Outcome State Fault Refusal :=
  let d := s.dev
  let due := d.vlog.entries.any (fun e =>
    e.block == block && e.source == source && e.answer == 3 && decide (isolateAfter e.code ≤ e.repeats.toNat))
  if due && !d.vlog.isolated.contains (block, source) then
    next s (noteReady d (leaveLink block source (isolatePartner block source d)))
  else next s d

end Sys2Proof.Machine
end

