-- ==== Sys2Proof/Machine/Discovery.lean ====
section
/-! DEFINITION. Swarm discovery (R285 to R289), role assignments (R351), the fabric commands (Table 12.9), and the PCIe link (R403). -/
namespace Sys2Proof.Machine

/-- HELLO_TIMER (R285). -/
def execHelloTimer (p : Port) (s : State) : Host.Outcome State Fault Refusal := next s (sendHello p s.dev)

/-- A HELLO taken on its port (R285 to R287, R289): the candidate is updated, a newer DISC_GEN from the parent begins a discovery, each HELLO
of the parent is answered with a JOIN towards the root (log entry 60), and a link that is new to a ready fabric is reported to the root. -/
def takeHello (p : Port) (m : Hello) (d : Device) : Device :=
  let first := d.fabric.ports[p].nbrUid.isNone
  let d := modPort d p (fun q => { q with nbrUid := some m.uid, hello := some m })
  let was := d.fabric.cand
  let d := updateCand d
  let moved := match was, d.fabric.cand with | some a, some b => !sameRoot a b | _, _ => true
  let newer := decide (0 < (m.discGen - d.fabric.discGen).toNat ∧ (m.discGen - d.fabric.discGen).toNat < 2 ^ 15)
  let up := d.fabric.parent == some p
  let d := if up && newer then beginDiscovery d else d
  let d := if up && (newer || moved) then modFabric d (fun b => { b with discGen := m.discGen }) else d
  let d := if d.fabric.ready && first then reportLink p true m.uid d else d
  if up then sendJoin d else d

/-- HELLO_RECEIVED: a CRC failure is discarded (0x30); a new UID while the port is up is WRONG_NEIGHBOUR (R284, R306). -/
def execHelloReceived (p : Port) (k : Fin 2) (m : Hello) (s : State) : Host.Outcome State Fault Refusal :=
  let d := s.dev
  if !fabOn d || !portRuns d p then next s d
  else
    let d := portActive p k d
    if m.crc != helloCrc m then next s (laneViolation 0x30 p k 1 d)
    else match d.fabric.ports[p].nbrUid with
      | some u => if u == m.uid then next s (takeHello p m d) else next s (fabReinit 0x36 p d)
      | none => next s (takeHello p m d)

/-- ROOT_ELECTION_TIMEOUT (R286): 10 ms as its own candidate with no better advertisement. -/
def execRootElectionTimeout (s : State) : Host.Outcome State Fault Refusal :=
  let d := s.dev
  let d' := updateCand d
  if fabOn d && !d'.fabric.root && sameRoot (bestCand d') (ownCand d') then
    next s (modFabric d' (fun b => { b with root := true, discGen := b.discGen + 1 }))
  else next s d

/-! JOIN, IDs and ASSIGN (R287) -/

/-- A JOIN at the root: a node of the ready fabric gets its ID and routes again; a new node begins a new discovery (R289). -/
def rootJoin (p : Port) (m : Join) (d : Device) : Device :=
  match d.fabric.members.find? (fun x => x.join.uid == m.uid) with
  | some x =>
    let d := modFabric d (fun b => { b with
      members := b.members.map (fun y => if y.join.uid == m.uid then { y with join := m, port := some p } else y) })
    if !d.fabric.ready then d
    else if x.join.ports != m.ports || x.join.transit != m.transit then rerouted d
    else if x.node = 0 then d else sendAssign { x with join := m, port := some p } d
  | none =>
    let add := fun (d : Device) => modFabric d (fun b => { b with members := b.members ++ [⟨m, some p, 0⟩] })
    if d.fabric.ready then add (noteJoinPort m.uid p (beginDiscovery d)) else add d

/-- JOIN_RECEIVED (R287): the message of a DATA_FRAME_RECEIVED, whose row carries the frame on; the root records it, and any other node that is not a
standby the port on which it came. -/
def execJoinReceived (p : Port) (m : Join) (s : State) : Host.Outcome State Fault Refusal :=
  let d := s.dev
  if !fabOn d || !portRuns d p || (paired d && d.red.role == .standby) then next s d
  else if d.fabric.root then next s (rootJoin p m (noteJoinPort m.uid p d))
  else next s (if d.fabric.parent == some p then d else noteJoinPort m.uid p d)

/-- Members in ascending UID order. -/
def byUid (ms : List Member) : List Member := sortBy (fun a b => decide (a.join.uid ≤ b.join.uid)) ms

/-- Node IDs by R287's three rules: (UID, ID), 0 for a node that receives none. -/
def assignIds (ms : List Member) : List (U64 × Nat) :=
  let ms := byUid ms
  let first := fun (p : Member → Nat) (m : Member) => !ms.any (fun x => p x == p m && decide (x.join.uid < m.join.uid))
  let fixed := (ms.filter (fun m => m.join.fixed != 0)).map (fun m =>
    (m.join.uid, if first (fun x => x.join.fixed.toNat) m then m.join.fixed.toNat else 0))
  let rest := ms.filter (fun m => m.join.fixed == 0)
  let asks := fun (m : Member) => if m.join.fixed == 0 then m.join.reqId.toNat else 0
  let kept := rest.filter (fun m => m.join.reqId != 0 && m.join.reqId != 255 && !(fixed.any (fun e => e.2 == m.join.reqId.toNat)) && first asks m)
  let held := fixed ++ kept.map (fun m => (m.join.uid, m.join.reqId.toNat))
  (rest.filter (fun m => !(kept.any (fun k => k.join.uid == m.join.uid)))).foldl (fun ids m =>
    let free := ((List.range 254).map (· + 1)).find? (fun n => !(ids.any (fun e => e.2 == n)))
    ids ++ [(m.join.uid, free.getD 0)]) held

/-- The ID given to a UID. -/
def idOf (ids : List (U64 × Nat)) (u : U64) : Nat := match ids.find? (fun e => e.1 == u) with | some e => e.2 | none => 0

/-- A node takes its ID, and the journal keeps it when it changed (Table 17.6); from here on its roles are announced anew (R351). -/
def takeNode (n : U8) (d : Device) : Device :=
  let stored := match journalGet d 3 0 with | some b => leAt b 0 4 | none => 0
  let d := if stored = n.toNat then d else journalAppend 3 0 (leBytes 4 n.toNat) false d
  modFabric d (fun b => { b with node := n, reqId := n, ready := true, stepped := true, announced := [] })

/-- The claims of one fixed number that lost (0x37). -/
def conflicts (ms : List Member) (ids : List (U64 × Nat)) : Nat :=
  (ms.filter (fun m => m.join.fixed != 0 && idOf ids m.join.uid == 0)).length

/-- ID_ASSIGNMENT (R287): IDs, routes and ASSIGN, then EV_FABRIC_READY with the number of nodes that have an ID. -/
def execIdAssignment (s : State) : Host.Outcome State Fault Refusal :=
  let d := s.dev
  if !fabOn d || !d.fabric.root || d.fabric.ready then next s d
  else
    let ms := nodesOf d
    let ids := assignIds ms
    let d := (List.range (conflicts ms ids)).foldl (fun d _ => raise .fabricConflict [] (fabViolation 0x37 0 0 d)) d
    let d := modFabric d (fun b => { b with members := b.members.map (fun m => { m with node := idOf ids m.join.uid }) })
    let d := loadRoutes (takeNode (BitVec.ofNat 8 (idOf ids d.chip.uid)) d)
    next s (sendRoles (raise .fabricReady [w32 (ids.filter (fun e => e.2 != 0)).length] d))

/-- ASSIGN_RECEIVED (R287): the message of a DATA_FRAME_RECEIVED, whose row carries another node's on; this node's ID, DISC_GEN and routes. -/
def execAssignReceived (p : Port) (uid : U64) (nodeId : U8) (discGen : U16) (routes : List U16) (s : State) :
    Host.Outcome State Fault Refusal :=
  let d := s.dev
  if !fabOn d || !portRuns d p || d.fabric.root then next s d
  else if uid == d.chip.uid then
    let was := d.fabric.ready
    let d := takeNode nodeId (modFabric d (fun b => { b with
      discGen := discGen, routes := Vector.ofFn (fun i => routes.getD i.val 0) }))
    next s (refreshPath (if was then modFabric d (fun b => { b with announced := s.dev.fabric.announced }) else sendRoles d))
  else next s d

/-- LINK_CHANGE_RECEIVED (R289): the root recomputes and reloads every node's routes; a standby discards it (R304). -/
def execLinkChangeReceived (node : U8) (port : Port) (isUp : Bool) (neighbour : U64) (s : State) : Host.Outcome State Fault Refusal :=
  let d := s.dev
  if !fabOn d || !d.fabric.root || (paired d && d.red.role == .standby) then next s d
  else
    let back := fun (u : U64) => (nodesOf d).findSome? (fun m =>
      if m.join.uid == neighbour then
        m.join.ports.zipIdx.findSome? (fun e => if e.1.up && e.1.neighbour == u then some e.2 else none)
      else none)
    next s (rerouted (modFabric d (fun b => { b with members := b.members.map (fun m =>
      if m.node == node.toNat then { m with join := { m.join with ports := m.join.ports.zipIdx.map (fun e =>
        if e.2 == port.val then
          { e.1 with up := isUp, neighbour := neighbour
                     neighbourPort := match back m.join.uid with | some k => BitVec.ofNat 2 k | none => e.1.neighbourPort }
        else e.1) } } else m) })))

/-! Roles (R351) -/

/-- ROLE_ASSIGNMENT_TIMER. -/
def execRoleAssignmentTimer (s : State) : Host.Outcome State Fault Refusal :=
  if fabOn s.dev then next s (sendRoles s.dev) else next s s.dev

/-- This device holds a role: 0 position master, 1 deputy, 2 measuring node. -/
def holdsRole (d : Device) (k : Fin 3) : Bool :=
  if k = 0 then d.pos.role == .master else if k = 1 then d.pos.role == .deputy else d.mbx.measuring

/-- The epoch that this device announces. -/
def ownEpoch (d : Device) : U32 := if paired d then d.red.epoch else 0

/-- The device drops a role (R351). -/
def dropRole (k : Fin 3) (d : Device) : Device :=
  if k = 2 then modMbx d (fun m => { m with measuring := false }) else { d with pos := setPosRole .follower d.pos }

/-- An announcement that claims role k against the holder, which may be this device (R351): a higher EPOCH wins, at equal EPOCH the lower
node ID. A device that loses drops the role and raises EV_ROLE_CONFLICT; the pair's fenced unit loses it to its promoted peer without one
(log entry 62). -/
def claimRole (m : RoleMsg) (d : Device) (k : Fin 3) : Device :=
  let wins := fun (h : Holder) => decide (h.epoch < m.epoch) || (h.epoch == m.epoch && decide (m.src ≤ h.node))
  let set := fun (d : Device) => modFabric d (fun b => { b with holders := upd b.holders k (fun _ => some ⟨m.src, m.epoch⟩) })
  if holdsRole d k then
    if wins ⟨d.fabric.node, ownEpoch d⟩ && m.src != d.fabric.node then
      let peer := match d.red.pair with | some p => paired d && p.peer == m.uid | none => false
      let d := sendRoles (set (dropRole k d))
      if peer then d else raise .roleConflict [] d
    else d
  else match d.fabric.holders[k] with
    | some h => if h.node == m.src || wins h then set d else d
    | none => set d

/-- A holder that announces itself without the role holds it no longer. -/
def leaveRole (m : RoleMsg) (d : Device) (k : Fin 3) : Device :=
  match d.fabric.holders[k] with
  | some h => if h.node == m.src then modFabric d (fun b => { b with holders := upd b.holders k (fun _ => none) }) else d
  | none => d

/-- A unit of a pair that was the position master has been promoted and the fabric has no deputy: the promoted unit announces the role with a higher
epoch than its peer announced it with, whether or not that holder has been removed since (R108, R351). -/
def masterWithoutSource (m : RoleMsg) (d : Device) : Bool :=
  m.posMaster && !m.deputy && m.paired && d.pos.role != .deputy && (d.fabric.holders[(1 : Fin 3)]).isNone
    && (match d.fabric.lastMaster with | some h => h.1 == m.peerUid && decide (h.2 < m.epoch) | none => false)

/-- The last position master announced; an older epoch of the same pair does not replace a newer one (R108). -/
def noteMaster (m : RoleMsg) (d : Device) : Device :=
  let stale := match d.fabric.lastMaster with | some h => (h.1 == m.peerUid || h.1 == m.uid) && decide (m.epoch < h.2) | none => false
  if m.posMaster && !stale then modFabric d (fun b => { b with lastMaster := some (m.uid, m.epoch) }) else d

/-- A role assignment taken (R351): the sender is an active device, its roles are claimed, and an announcement of this unit's peer with a
higher epoch demotes the unit (R332). -/
def takeRoles (m : RoleMsg) (d : Device) : Device :=
  let peer := match d.red.pair with | some p => paired d && p.peer == m.uid | none => false
  let d := modFabric d (fun b => { b with
    announced := if b.announced.contains m.src then b.announced else b.announced ++ [m.src]
    hostNodes := if m.hostEvents then (if b.hostNodes.contains m.src then b.hostNodes else b.hostNodes ++ [m.src])
      else b.hostNodes.filter (· != m.src)
    peerNode := if peer then some m.src else b.peerNode })
  let d := if peer && decide (d.red.epoch < m.epoch) then demote d else d
  let d := noteMaster m (if masterWithoutSource m d then positionFails d else d)
  let one := fun (d : Device) (k : Fin 3) (claims : Bool) => if claims then claimRole m d k else leaveRole m d k
  one (one (one d 0 m.posMaster) 1 m.deputy) 2 m.measuring

/-- ROLE_ASSIGNMENT_RECEIVED (R332, R351); CONTROL frames that reach a standby are discarded (R304). -/
def execRoleAssignmentReceived (m : RoleMsg) (s : State) : Host.Outcome State Fault Refusal :=
  let d := s.dev
  if fabOn d && !(paired d && d.red.role == .standby) && m.src != d.fabric.node then next s (noteFault d (takeRoles m d)) else next s d

/-- ROLE_HOLDER_TIMEOUT (R351): a holder silent for 300 ms is removed. -/
def execRoleHolderTimeout (role : Fin 3) (s : State) : Host.Outcome State Fault Refusal :=
  let d := s.dev
  match d.fabric.holders[role] with
  | some h =>
    if h.node == d.fabric.node && holdsRole d role then next s d
    else next s (modFabric d (fun b => { b with holders := upd b.holders role (fun _ => none) }))
  | none => next s d

/-! Commands (Table 12.9) -/

/-- A port's configuration taken at its training (Table 12.9). -/
def applyPortCfg (p : Port) (d : Device) : Device :=
  modPort d p (fun q => match q.pendingCfg with
    | some (e, r, a, c) => { q with
        enable := e, rate := r, asym := a, config := Vector.ofFn (fun k => c.getD k.val 0), pendingCfg := none }
    | none => q)

/-- A disabled port that is enabled has no later training to wait for: the change applies at once, and its lanes begin to train. -/
def enablePort (p : Port) (d : Device) : Device :=
  [laneA p, laneB p].foldl (fun d l =>
    if (getLane d l).state == .disabled && (getLane d l).enable then modLane d l restartLane else d) (applyPortCfg p d)

/-- fabric.config (Table 12.9): PORT, ENABLE, RATE, DELAY_ASYM, CONFIG of the four channels. -/
def execFabricConfig (c : Cmd) (s : State) : Host.Outcome State Fault Refusal :=
  mervan { opcode := 0x0600
           args := [.port, .flag, .one [4, 5, 6], .num (-(2 ^ 31)) (2 ^ 31 - 1), .num 0 1024, .num 0 1024, .num 0 1024, .num 0 1024] }
    (fun _ a d =>
      let cfg := [argN a 4, argN a 5, argN a 6, argN a 7]
      if 1024 < cfg.sum then no d .badArgument .field
      else
        let p : Port := finOf 4 (argN a 0)
        let d := modPort d p (fun q => { q with pendingCfg := some (argB a 1, argN a 2, argI a 3, cfg) })
        done (if !d.fabric.ports[p].enable && argB a 1 then enablePort p d else d)) c s

/-- The words of a port in fabric.status: state, neighbour, delay and offset in ps, lock, credits held and granted, replay and gap counts. -/
def portWords (d : Device) (ws : List U32) (p : Port) : List U32 :=
  let q := d.fabric.ports[p]
  put64 (put64 (put64 (ws ++ [w32 (if !q.enable then 0 else if portIsolated d p then 3 else if portUp d p then 2 else 1)]) ((q.nbrUid).getD 0).toNat
    ++ [i32 q.delay, i32 q.offset, w32 (b2n (d.fabric.parent == some p && d.fabric.locked))] ++ q.held.toList.map w32 ++ q.gSent.toList)
    q.replayCount) q.gapCount

/-- fabric.status (Table 12.9): parent port 0xFF for none. -/
def execFabricStatus (c : Cmd) (s : State) : Host.Outcome State Fault Refusal :=
  mervan { opcode := 0x0601, results := fun _ => 88 }
    (fun _ _ d =>
      let root := match d.fabric.cand with | some c => c.uid | none => d.chip.uid
      let ws := put64 (put64 [w32 d.fabric.node.toNat] d.chip.uid.toNat) root.toNat
        ++ [w32 d.fabric.discGen.toNat, w32 (match d.fabric.parent with | some p => p.val | none => 0xFF)]
      ok d ([0, 1, 2, 3].foldl (portWords d) ws)) c s

/-- fabric.routes (R290): the 512-byte route table copied to DRAM. -/
def execFabricRoutes (c : Cmd) (s : State) : Host.Outcome State Fault Refusal :=
  mervan { opcode := 0x0602, dram := true, args := [.addr], ranges := fun a => [(argN a 0, 512, false)] }
    (fun _ a d => ok (dramWrite 3 (argN a 0) (d.fabric.routes.toList.flatMap (fun e => leBytes 2 e.toNat)) d)) c s

/-- fabric.fix_id (R288): the number goes to the journal, and OK follows its commit. -/
def execFabricFixId (c : Cmd) (s : State) : Host.Outcome State Fault Refusal :=
  mervan { opcode := 0x0603, gated := true, slow := true, args := [.num 0 254] }
    (fun _ a d =>
      if flashHeld d then no d .refused .padsHeld
      else .later .flash (journalAppend 2 0 (leBytes 4 (argN a 0)) true d)) c s

/-- fabric.discover (R289): a new discovery starts from this node, which is its own candidate until the next HELLOs. -/
def execFabricDiscover (c : Cmd) (s : State) : Host.Outcome State Fault Refusal :=
  mervan { opcode := 0x0604 }
    (fun _ _ d =>
      let d := beginDiscovery d
      ok (modFabric d (fun b => { b with
        cand := some (ownCand d), parent := none, ports := mapAll b.ports (fun q => { q with hello := none }) }))) c s

/-- fabric.ping (Table 12.9): an echo request to NODE; NODE of this device answers at once. -/
def execFabricPing (c : Cmd) (s : State) : Host.Outcome State Fault Refusal :=
  mervan { opcode := 0x0605, args := [.num 1 254], results := fun _ => 1 }
    (fun _ a d =>
      let n : U8 := BitVec.ofNat 8 (argN a 0)
      if n = d.fabric.node then ok d [0]
      else
        let t := (ftime d).toNat
        match sendTo .control false n 0x0046 (leBytes 8 t) d with
        | (true, d) => .later (.ping n) (modFabric d (fun b => { b with pings := b.pings ++ [(n, t)] }))
        | (false, d) => no d .refused .unreachable) c s

/-! The host link -/

/-- PCIE_LINK_UP (R403): the link is up once the device runs and the host has released it. -/
def execPcieLinkUp (s : State) : Host.Outcome State Fault Refusal :=
  let d := s.dev
  if alive d && (d.pwr.state == .run || d.pwr.state == .sleep) then next s { d with chip := { d.chip with pcieUp := true } } else next s d

end Sys2Proof.Machine
end

