-- ==== Sys2Proof/Machine/Forager.lean ====
section
/-! DEFINITION. The forager engine's copies (R357): pieces issued in their order, and the end of a copy. -/
namespace Sys2Proof.Machine

/-- A copy cut into pieces of at most 512 bytes. -/
def cutCopy (desc : Nat) (dir : Bool) : Nat → Nat → Nat → Nat → List (Nat × Nat × Nat × Nat × Bool)
  | 0, _, _, _ => []
  | fuel + 1, host, dev, len =>
    if len = 0 then [] else (host, dev, min len 512, desc, dir) :: cutCopy desc dir fuel (host + 512) (dev + 512) (len - 512)

/-- A piece of DRAM posted to the host. -/
def postWrite (host dev len : Nat) (d : Device) : Device :=
  let d := dramSee dev len d
  let d := { d with chip := { d.chip with hostWrites := (BitVec.ofNat 64 host, dramRead d dev len) :: d.chip.hostWrites } }
  modMbx d (fun m => { m with foragerBytes := m.foragerBytes + BitVec.ofNat 64 len })

/-- The lowest free forager buffer (R357: 64 of them). -/
def freeBuffer (d : Device) : Option (Fin 64) :=
  (List.finRange 64).find? (fun b => d.mbx.buffers.all (fun r => r.buffer != b))

/-- A read is one of a forager.copy: the one of its ring and SEQ. -/
def readOf (j : ForagerJob) (r : ForagerRead) : Bool := r.seq == j.seq && r.key == j.key

/-- The next piece of a forager.copy goes on (R357): a posted write at once, a host read in a free buffer. A poisoned granule in a posted write
ends the command's issuing (Table 10.2). -/
def issuePiece (j : ForagerJob) (x : Nat × Nat × Nat × Nat × Bool) (b : Fin 64) (d : Device) : Device :=
  let (host, dev, len, desc, dir) := x
  let put := fun (f : ForagerJob → ForagerJob) (d : Device) => modMbx d (fun m => { m with
    fjobs := m.fjobs.map (fun y => if y.seq == j.seq && y.key == j.key then f { y with todo := y.todo.drop 1 } else y) })
  if dir then
    match poisonIn d dev len with
    | some g => put (fun y => { y with poison := some g }) d
    | none => put (fun y => { y with moved := y.moved + len }) (postWrite host dev len d)
  else put id (modMbx d (fun m => { m with buffers := m.buffers ++ [⟨b, j.key, j.seq, desc, host, dev, len⟩] }))

/-- A forager.copy issues no more pieces: it has none, or one of them has failed. -/
def ForagerJob.issued (j : ForagerJob) : Bool := j.todo.isEmpty || j.fail.isSome || j.poison.isSome

/-- The pieces of the forager's copies issued in order while buffers are free (R357): each read owns one buffer until its data is written. A piece
to the host waits while the controller holds requests (R254, R264). -/
def issueReads : Nat → Device → Device
  | 0, d => d
  | fuel + 1, d =>
    match d.mbx.fjobs.find? (fun j => !j.issued) with
    | none => d
    | some j =>
      match j.todo with
      | x :: _ =>
        if x.2.2.2.2 then (if holdsRequests d then d else issueReads fuel (issuePiece j x 0 d))
        else match freeBuffer d with
          | some b => issueReads fuel (issuePiece j x b d)
          | none => d
      | [] => d

/-- All that the forager can issue now. -/
def issueAll (d : Device) : Device := issueReads (d.mbx.fjobs.map (fun j => j.todo.length)).sum d

/-- A forager.copy whose reads have all been issued and drained ends (R357): OK with the bytes moved, REFUSED with reason HOST_READ
and the buffers freed on error, BAD_CRC with the poisoned granule (Table 10.2), or for another node the mem.fence that shows whether a frame was lost. -/
def endForager (j : ForagerJob) (d : Device) : Device :=
  if j.issued && !d.mbx.buffers.any (readOf j) then
    let d := modMbx d (fun m => { m with fjobs := m.fjobs.filter (fun x => !(x.seq == j.seq && x.key == j.key)) })
    match j.fail, j.poison with
    | some k, _ => finishSeq j.key j.seq { status := .refused, reason := .hostRead, detail := w32 k, results := [w32 j.freed] } d
    | none, some g => finishSeq j.key j.seq { status := .badCrc, reason := .poisoned, results := w64 g } d
    | none, none =>
      if j.node = 0 then finishSeq j.key j.seq { results := w64 j.moved } d
      else if j.lost || fenced d then finishSeq j.key j.seq { status := .refused, reason := .dataLost } d
      else
        let fence : Cmd := { origin := .ring, tag := 0, rsvTag := 0, async := false, rsvFlag := 0, length := 24, node := j.node,
                             rsvNode := 0, seq := j.seq, rsvWord := 0, args := [8], crc := 0 }
        let rec' := cmdHeader 0x0903 fence ++ wordBytes fence.args ++
          leBytes 4 (cmdCrc 0x0903 (w32 d.chip.uid.toNat) fence).toNat
        let q := (takeSrcSeq .control j.node d).1
        match sendTo .control false j.node 0x0030 (relayPayload 0 (w32 d.chip.uid.toNat) rec') d with
        | (true, d) => modMbx d (fun m => { m with inFlight := m.inFlight.map (fun e =>
            if e.seq == j.seq && keyOf e.origin == j.key then { e with work := .fence j.node j.moved q } else e) })
        | (false, d) => finishSeq j.key j.seq { status := .refused, reason := .dataLost } d
  else d

/-- The copies go on after a hold, and those that it kept from ending end (R254, R264). -/
def resumeForager (d : Device) : Device :=
  let d := issueAll d
  d.mbx.fjobs.foldl (fun d j => endForager j d) d

/-- The pieces of a list that only writes to the host, in their order, until one meets poisoned data (R357, Table 10.2). -/
def postAll : List (Nat × Nat × Nat × Nat × Bool) → Device → Option Nat × Device
  | [], d => (none, d)
  | x :: xs, d =>
    match poisonIn d x.2.1 x.2.2.1 with
    | some g => (some g, d)
    | none => postAll xs (postWrite x.1 x.2.1 x.2.2.1 d)

/-- A forager.copy begins (R357): what it can issue at once is issued, and it is answered when poisoned data stops it before any read. -/
def startForager (j : ForagerJob) (d : Device) : Done :=
  let d := issueAll (modMbx d (fun m => { m with fjobs := m.fjobs ++ [j] }))
  match (d.mbx.fjobs.find? (fun x => x.seq == j.seq && x.key == j.key)).bind (fun x => if d.mbx.buffers.any (readOf x) then none else x.poison) with
  | some g => poisoned g (modMbx d (fun m => { m with fjobs := m.fjobs.filter (fun x => !(x.seq == j.seq && x.key == j.key)) }))
  | none => .later .forager d

end Sys2Proof.Machine
end

