-- ==== Sys2Proof/Machine/Dram.lean ====
section
/-! DEFINITION. The LPDDR5 memory subsystem (chapter 10): requests, error handling, training, frequency points, refresh, row hammer. -/
namespace Sys2Proof.Machine

/-- The controller is clocked and its DRAM in use. -/
def memOn (d : Device) : Bool := alive d && d.dram.ok && d.pwr.cond[4] == .on

/-! Requests (R246 to R248, R257 to R259, R262) -/

/-- A corrected error (R248): counted in DIAG by channel and for EV_DRAM_CORRECTED, and recorded. -/
def correctedError (a source : Nat) (d : Device) : Device :=
  let ch : Port := finOf 4 (a / 512 % 4)
  let d := modDiag d (fun g => { g with dramCorr := upd g.dramCorr ch (fun n => satAdd n 1) })
  memError a source 0 (modDram d (fun m => { m with corrected := (m.corrected.1 + 1, a) }))

/-- An uncorrectable error (R248): the granules covered are poisoned, and EV_DRAM_UNCORRECTED carries address, channel and source. -/
def uncorrectableError (gs : List Nat) (a source : Nat) (d : Device) : Device :=
  let d := modDiag d (fun g => { g with dramUncorr := satAdd g.dramUncorr 1 })
  let new := gs.filter (fun g => !d.dram.poison.contains g)
  let d := modDram d (fun m => { m with poison := sortBy (fun x y => decide (x ≤ y)) (new ++ m.poison) })
  raise .dramUncorrected (w64 a ++ [w32 (a / 512 % 4), w32 source]) (memError a source 1 d)

/-- What the check of granule g shows (R247, R248): a single-bit error is corrected; a double error, and a granule of another address, poisons it;
an error in its check line poisons the sixteen granules that the line covers. -/
def checkFault (f : CheckFault) (g source : Nat) (d : Device) : Device :=
  match f with
  | .single => correctedError (g * 32) source d
  | .double => uncorrectableError [g] (g * 32) source d
  | .misread => uncorrectableError [g] (g * 32) source d
  | .line => uncorrectableError ((List.range 16).map (g / 16 * 16 + ·)) (g / 16 * 512) source d

/-- Bytes of a request. -/
def reqSize (r : DramReq) : Nat := match r.write with | some b => b.length | none => r.len

/-- A request reads granule g: to return it, or because it writes part of it (R247). -/
def reqReads (r : DramReq) (g : Nat) : Bool := r.write.isNone || inPart r.addr (reqSize r) g

/-- The faults that a request meets: those of the granules that it reads, and those of check lines that are not cached (R247, R248). -/
def faultsOf (d : Device) (r : DramReq) : List (Nat × CheckFault) :=
  r.checks.filterMap (fun e => match (granulesOf r.addr (reqSize r))[e.1]? with
    | some g => if (if e.2 == .line then !lineCached d (g / 16) else reqReads r g) then some (g, e.2) else none
    | none => none)

/-- A request served (R247, R248, R257, R262): the faults that it meets, its accesses, and the write or, for the host, the completion of the read. -/
def serve (r : DramReq) (d : Device) : Device :=
  let d := (faultsOf d r).foldl (fun d e => checkFault e.2 e.1 r.source.val d) d
  match r.write with
  | some b => pumpMirror (dramPut r.source.val r.addr b d)
  | none =>
    let d := touch false r.addr r.len d
    if r.source == 1 then completeRead r.addr r.len d else d

/-- DRAM_REQUEST (R259): served in the order of its source, or held while a sweep or a trip lasts. -/
def execDramRequest (r : DramReq) (s : State) : Host.Outcome State Fault Refusal :=
  let d := s.dev
  if memOn d && memTakes d && inDram d r.addr (reqSize r) then
    if holdsRequests d then next s (modDram d (fun m => { m with waiting := m.waiting ++ [r] })) else next s (serve r d)
  else next s d

/-- A fence on named sources waits for their held writes (R258). -/
def fenceWaits (d : Device) (mask : Nat) : Bool := d.dram.waiting.any (fun r => r.write.isSome && bitOf mask r.source.val)

/-- The first n requests of a source taken out of a list: those, and the rest. -/
def takeSource (k : Nat) : Nat → List DramReq → List DramReq × List DramReq
  | _, [] => ([], [])
  | 0, rs => ([], rs)
  | n + 1, r :: rs =>
    if r.source.val = k then let (a, b) := takeSource k n rs; (r :: a, b) else let (a, b) := takeSource k (n + 1) rs; (a, r :: b)

/-- Weighted round robin over sources 1 to 9, at most `fuel` rounds: a source's weight is the requests that it has served in a round (R259, log
entry 58). -/
def roundRobin (weights : Vector Nat 10) : Nat → List DramReq → List DramReq
  | 0, rs => rs
  | fuel + 1, rs =>
    if rs.isEmpty then []
    else
      let t := (List.range 10).foldl (fun (e : List DramReq × List DramReq) k =>
        let (a, b) := takeSource k (max 1 (weights.getD k 1)) e.2; (e.1 ++ a, b)) ([], rs)
      t.1 ++ roundRobin weights fuel t.2

/-- The order in which waiting requests are served (R257, R259): the real-time feed first, then the other sources by their weights, those of one source
in the order of their issue. -/
def servedOrder (d : Device) (rs : List DramReq) : List DramReq :=
  rs.filter (fun r => r.source == 0) ++ roundRobin d.dram.weights rs.length (rs.filter (fun r => r.source != 0))

/-- The end of a hold: every request held is served, in that order, the tiles and the forager's copies go on, and the fences that waited answer
OK (R254, R258). -/
def releaseRequests (d : Device) : Device :=
  let w := servedOrder d d.dram.waiting
  let d := modDram d (fun m => { m with waiting := [] })
  let d := if d.dram.ok then w.foldl (fun d r => serve r d) d else d
  let d := resumeForager (if d.feed.tileHeld || d.feed.tileWork.isEmpty then d else resumeTiles d)
  (d.mbx.inFlight.filter (fun e => match e.work with | .memFence _ => true | _ => false)).foldl (fun d e => finish e {} d) d

/-! Training (R250 to R256) -/

/-- Work on a frequency point begins. A change puts the DRAM in self-refresh until the PHY has relocked, which takes a free time of at most
100 µs (R255, log entry 9). -/
def startMemWork (w : MemWork) (late : Bool) (d : Device) : Device :=
  let d := modDram d (fun m => aimAt w { m with late := late, widths := [] })
  match w with
  | .freq _ =>
    let (v, d) := draw d
    modDram d (fun m => { m with selfRefresh := true, relock := some (d.chip.qtime + v.toNat % 400001) })
  | _ => d

/-- Training keeps off: a job is RUNNING or SCHEDULED (R254). -/
def printing (d : Device) : Bool := jobRunning d || jobScheduled d

/-- The widest run of passing steps of a sweep: its first step and its length; of equal ones the first (R250, log entry 81). -/
def widestRun (m : BitVec 128) : Nat × Nat :=
  ((List.range 128).foldl (fun (acc : (Nat × Nat) × Nat) k =>
    let run := if m.getLsbD k then acc.2 + 1 else 0
    (if acc.1.2 < run then (k + 1 - run, run) else acc.1, run)) ((0, 0), 0)).1

/-- The centre of a run, rounded down (R250). -/
def centreOf (r : Nat × Nat) : Nat := r.1 + (r.2 - 1) / 2

/-- The eye width of a byte lane: the lesser of its runs in the two sweeps (log entry 81). -/
def eyeWidth (r : TrainResult) (k : Fin 8) : Nat := min (widestRun r.read[k]).2 (widestRun r.write[k]).2

/-- Every byte lane found passing runs of at least 16 steps (R251). -/
def lanesPass (r : TrainResult) : Bool := (List.finRange 8).all (fun k => decide (16 ≤ eyeWidth r k))

/-- The record that a full training makes (R250). -/
def recordOf (r : TrainResult) : TrainRec :=
  { command := r.command, offsets := r.offsets
    read := Vector.ofFn (fun k => BitVec.ofNat 8 (centreOf (widestRun r.read[k])))
    write := Vector.ofFn (fun k => BitVec.ofNat 8 (centreOf (widestRun r.write[k])))
    widths := Vector.ofFn (fun k => BitVec.ofNat 8 (eyeWidth r k)) }

/-- A stored delay and the steps ±2 from it pass (Table 10.3). -/
def passesAt (m : BitVec 128) (v : U8) : Bool := decide (2 ≤ v.toNat) && m.getLsbD (v.toNat - 2) && m.getLsbD v.toNat && m.getLsbD (v.toNat + 2)

/-- The verify of a stored record passes: every byte lane at its stored read and write delays (Table 10.3). -/
def verifies (r : TrainResult) (t : TrainRec) : Bool :=
  (List.finRange 8).all (fun k => passesAt r.read[k] t.read[k] && passesAt r.write[k] t.write[k])

/-- A command's training or change ends with its reply; a deferred one was answered before. -/
def answerWork (w : MemWork) (r : Reply) (d : Device) : Device :=
  if d.dram.late then d
  else match w with
    | .train _ _ => finishWork (· == .memTrain) r d
    | .freq _ => finishWork (· == .memFreq) r d
    | .seek _ => d

/-- The sweep ends (R254, R255): EV_DRAM_TRAINED for deferred work, held requests served, and a queued mem.freq begins or is deferred. -/
def endSweep (d : Device) : Device :=
  let late := d.dram.late
  let d := modDram d (fun m => { m with work := none, late := false, tries := 0 })
  let d := if late then raise .dramTrained [] d else d
  let d := releaseRequests d
  match d.dram.queued with
  | none => d
  | some p =>
    let d := modDram d (fun m => { m with queued := none })
    if printing d then
      finishWork (· == .memFreq) { status := .deferred } (modDram d (fun m => { m with deferred := m.deferred ++ [.freq p] }))
    else startMemWork (.freq p) false d

/-- The points below which the controller falls when its point fails: those that have not failed, the highest first (R251). -/
def pointsLeft (d : Device) : List (Fin 3) := ([0, 1, 2] : List (Fin 3)).filter (fun q => !d.dram.failed[q])

/-- The point in training has passed (R251, R252, R255). `new` is its new record, none when the verify passed. -/
def pointPasses (w : MemWork) (p : Fin 3) (new : Option TrainResult) (d : Device) : Device :=
  let d := modDram d (fun m => { m with
    records := match new with | some r => upd m.records p (fun _ => some (recordOf r)) | none => m.records
    baseline := match new with | some r => r.baseline | none => m.baseline
    failed := upd m.failed p (fun _ => false), tries := 0, drift := Vector.replicate 8 0 })
  match w with
  | .train ps save =>
    let d := match d.dram.records[p] with
      | some t =>
        modDram (if save then journalAppend 4 p.val (trainBytes t) false d else d)
          (fun m => { m with widths := m.widths ++ t.widths.toList.map (·.toNat) })
      | none => d
    let d := modDram d (aimAt (.train (ps.drop 1) save))
    if (ps.drop 1).isEmpty then endSweep (answerWork w { results := d.dram.widths.map w32 } d) else d
  | .freq _ => endSweep (answerWork w {} (modDram d (fun m => { m with point := p })))
  | .seek _ =>
    let d := modDram d (fun m => { m with point := p, ok := true })
    endSweep (if p ≠ 0 ∧ d.dram.failed[(0 : Fin 3)] then raise .dramDegraded [] d else d)

/-- The point in training has failed three full trainings (R251): a command answers POINT_FAILED; the controller runs at the highest point
that has not failed, and with none left the DRAM is unavailable. -/
def pointFails (w : MemWork) (p : Fin 3) (d : Device) : Device :=
  let d := modDram d (fun m => { m with failed := upd m.failed p (fun _ => true), tries := 0 })
  let d := answerWork w { status := .refused, reason := .pointFailed } d
  let fall : Device → Device := fun d => match pointsLeft d with
    | [] => endSweep (raise .dramTrainFail [] (modDram d (fun m => { m with ok := false })))
    | ps => modDram d (aimAt (.seek ps))
  match w with
  | .train _ _ => if d.dram.point = p then fall d else endSweep d
  | .freq _ => fall d
  | .seek ps => if (ps.drop 1).isEmpty then fall d else modDram d (aimAt (.seek (ps.drop 1)))

/-- TRAINING_DONE (R250 to R255): the steps of Table 10.3 on the point in work have ended. A point with a record is at its verify first: when it
passes the record stays in force, and when it fails a full training follows. -/
def execTrainingDone (r : TrainResult) (s : State) : Host.Outcome State Fault Refusal :=
  let d := s.dev
  match d.dram.work with
  | none => next s d
  | some w =>
    if alive d && sweeping d && !d.therm.trip && !d.dram.selfRefresh && workPoint w == some r.point then
      let e :=
        if d.dram.verify then
          if (d.dram.records[r.point]).any (verifies r) then pointPasses w r.point none d else modDram d (fun m => { m with verify := false })
        else if lanesPass r then pointPasses w r.point (some r) d
        else if d.dram.tries + 1 < 3 then modDram d (fun m => { m with tries := m.tries + 1 })
        else pointFails w r.point d
      next s (noteReady d e)
    else next s d

/-- DEFERRED_TRAINING_START (R254): no job runs and none is scheduled; a training also waits for throttle level 0 (R383). -/
def execDeferredTrainingStart (s : State) : Host.Outcome State Fault Refusal :=
  let d := s.dev
  let may := match d.dram.deferred.head? with
    | some (.train _ _) => d.therm.level == 0
    | some _ => true
    | none => false
  if memOn d && may && !d.dram.holding && d.dram.work.isNone && !printing d && !d.therm.trip then
    next s (raise .dramTraining [] (modDram d (fun m => { m with holding := true })))
  else next s d

/-- TRAINING_HOLD_EXPIRY (R254): 10 ms later the requests are held and the sweep starts. -/
def execTrainingHoldExpiry (s : State) : Host.Outcome State Fault Refusal :=
  let d := s.dev
  if d.dram.holding && memOn d && memTakes d && !d.therm.trip then
    match d.dram.deferred with
    | w :: rest => next s (noteReady d (startMemWork w true (modDram d (fun m => { m with holding := false, deferred := rest }))))
    | [] => next s (noteReady d (modDram d (fun m => { m with holding := false })))
  else next s d

/-! Refresh, temperature, tracking, scrubbing (R249, R253, R260 to R263) -/

/-- The multiplier of a rank: the highest that its dies report (R260). -/
def rankMult (d : Device) (mc : Port) (rank : Fin 2) : Nat :=
  max (d.dram.mult[mc])[(finOf 4 (2 * rank.val) : Fin 4)] (d.dram.mult[mc])[(finOf 4 (2 * rank.val + 1) : Fin 4)]

/-- REFRESH_DUE (R260): while the feed waits the refresh is postponed, and the eighth owed issues all eight, which occupies the rank for a free time
of at most 2.24 µs (log entry 9); otherwise owed ones are repaid and others pulled in, up to 8 ahead. tREFI follows the multiplier from
here on (Table 10.6). -/
def execRefreshDue (mc : Port) (rank : Fin 2) (feedWaiting : Bool) (s : State) : Host.Outcome State Fault Refusal :=
  let d := s.dev
  if memOn d && !d.dram.selfRefresh then
    let owed := d.dram.owed[mc][rank] + 1
    let forced := feedWaiting && decide (8 ≤ owed)
    let (left, n) : Int × Int := if feedWaiting then (if 8 ≤ owed then (0, owed) else (owed, 0)) else (-8, owed + 8)
    let d := modDram d (fun m => { m with
      owed := upd m.owed mc (fun v => upd v rank (fun _ => left))
      refreshed := upd m.refreshed mc (fun v => upd v rank (fun k => k + n.toNat))
      interval := upd m.interval mc (fun v => upd v rank (fun _ => 3904 / rankMult d mc rank)) })
    if forced then
      let (v, d) := draw d
      next s (modDram d (fun m => { m with catchUp := upd m.catchUp mc (fun x => upd x rank (fun _ => d.chip.qtime + v.toNat % 8961)) }))
    else next s d
  else next s d

/-- REFRESH_WINDOW (R262): every row activation table is emptied. -/
def execRefreshWindow (s : State) : Host.Outcome State Fault Refusal :=
  let d := s.dev
  if memOn d && !d.dram.selfRefresh then next s (modDram d (fun m => { m with rows := [] })) else next s d

/-- A die that is there (R245). -/
def hasDie (d : Device) (x : DieId) : Bool :=
  match d.dram.dies[x.mc.val]? with
  | some i => decide (x.die.val / 2 < i.ranks) && (i.byteMode || x.die.val % 2 == 0)
  | none => false

/-- MR4_READ of a die (R260, R261): the refresh multiplier, or EV_DRAM_HOT and the 4× rate above the die's range. -/
def execMr4Read (die : DieId) (multiplier : Fin 5) (hot : Bool) (s : State) : Host.Outcome State Fault Refusal :=
  let d := s.dev
  let put : Nat → Device := fun v => modDram d (fun m => { m with mult := upd m.mult die.mc (fun x => upd x die.die (fun _ => v)) })
  if memOn d && !d.dram.selfRefresh && hasDie d die then
    if hot then next s (raise .dramHot [] (put 4))
    else if multiplier = 1 ∨ multiplier = 2 ∨ multiplier = 4 then next s (put multiplier.val)
    else next s d
  else next s d

/-- DQS_TRACKING (R253): the write DQ delay of a byte lane moves by at most one step towards the drift; EV_DRAM_DRIFT when it has moved more
than 6 steps from its trained value. -/
def execDqsTracking (lane : Fin 8) (drift : Int) (s : State) : Host.Outcome State Fault Refusal :=
  let d := s.dev
  if memOn d && !d.dram.selfRefresh && !sweeping d then
    let was := d.dram.drift[lane]
    let now := was + (if was < drift then 1 else if drift < was then -1 else 0)
    let e := modDram d (fun m => { m with drift := upd m.drift lane (fun _ => now) })
    next s (if was.natAbs ≤ 6 ∧ 6 < now.natAbs then raise .dramDrift [] e else e)
  else next s d

/-- SCRUB_READ (R249): the next granule of the usable capacity; the scrubber pauses at throttle level 1 and above (R383). -/
def execScrubRead (corrected : Bool) (fault : Option CheckFault) (s : State) : Host.Outcome State Fault Refusal :=
  let d := s.dev
  if memOn d && memTakes d && d.dram.scrubOn && d.therm.level == 0 && !holdsRequests d && decide (0 < usable d) then
    let g := d.dram.scrubAt
    let d := modDram d (fun m => { m with scrubAt := (m.scrubAt + 1) % (usable d / 32) })
    let c : List (Nat × CheckFault) := if corrected then [(0, .single)] else []
    next s (serve ⟨9, g * 32, none, 32, c ++ fault.toList.map ((0, ·))⟩ d)
  else next s d

/-- DRAM_CORRECTED_REPORT (R248): the count since the last event and the last address. -/
def execDramCorrectedReport (s : State) : Host.Outcome State Fault Refusal :=
  let d := s.dev
  if alive d && decide (0 < d.dram.corrected.1) then
    next s (raise .dramCorrected ([w32 d.dram.corrected.1] ++ w64 d.dram.corrected.2)
      (modDram d (fun m => { m with corrected := (0, 0) })))
  else next s d

/-! Commands (Table 10.7) -/

/-- A counter as two words (R433). -/
def ctr32 (n : U32) : List U32 := [n, 0]

/-- mem.status (Table 10.7): the items in the table's order (log entry 58). -/
def execMemStatus (c : Cmd) (s : State) : Host.Outcome State Fault Refusal :=
  mervan { opcode := 0x0900, results := fun _ => 84 }
    (fun _ _ d =>
      let geo := (List.range 4).flatMap (fun k => match d.dram.dies[k]? with
        | some x => [w32 x.gbit, w32 (b2n x.byteMode), w32 x.ranks] | none => [0, 0, 0])
      let recs := d.dram.records.toList.flatMap (fun r => match r with
        | some t => w32 1 :: bytesWords (trainBytes t) | none => List.replicate 13 0)
      let ws := geo ++ w64 (usable d)
        ++ [w32 d.dram.point.val, w32 ((List.range 3).foldr (fun p a => b2n (d.dram.failed.getD p false) * 2 ^ p + a) 0)]
        ++ recs ++ d.dram.drift.toList.map i32 ++ d.dram.owed.toList.flatMap (fun v => v.toList.map i32) ++ [0]
        ++ d.vlog.diag.dramCorr.toList.flatMap ctr32 ++ ctr32 d.vlog.diag.dramUncorr ++ ctr32 d.vlog.diag.dramVictim
      ok d ws) c s

/-- The contone supply of the staged or scheduled job, over the repeats that the host has declared, as their checks found it (R36, R256). -/
def stagedSupply (d : Device) : Nat := match d.jobs.staged with | none => 0 | some j => supplyRate d j.desc j.supply

/-- mem.freq (R255, R256). -/
def execMemFreq (c : Cmd) (s : State) : Host.Outcome State Fault Refusal :=
  mervan { opcode := 0x0901, slow := true, dram := true, sweeps := true, args := [.num 0 2] }
    (fun _ a d =>
      let p : Fin 3 := finOf 3 (argN a 0)
      if d.dram.failed[p] then no d .refused .pointFailed
      else if admission p < stagedSupply d then no d .badArgument .overSupply (stagedSupply d / 1000000)
      else if d.dram.work.isSome || d.dram.holding then
        if d.dram.queued.isSome then no d .busyState
        else .later .memFreq (modDram d (fun m => { m with queued := some p }))
      else if printing d then
        .reply { status := .deferred } (noteReady d (modDram d (fun m => { m with deferred := m.deferred ++ [.freq p] })))
      else .later .memFreq (startMemWork (.freq p) false d)) c s

/-- mem.train (R254, R383): POINT_MASK, SAVE. A second one during a sweep answers BUSY_STATE (log entry 58). -/
def execMemTrain (c : Cmd) (s : State) : Host.Outcome State Fault Refusal :=
  mervan { opcode := 0x0902, slow := true, dram := true, sweeps := true, args := [.num 0 7, .flag]
           results := fun a => 8 * ((List.range 3).filter (fun p => bitOf (argN a 0) p)).length }
    (fun _ a d =>
      let ps := ([0, 1, 2] : List (Fin 3)).filter (fun p => bitOf (argN a 0) p.val)
      let w : MemWork := .train ps (argB a 1)
      if ps.isEmpty then ok d
      else if d.dram.work.isSome || d.dram.holding then no d .busyState
      else if printing d || decide (1 ≤ d.therm.level) then
        .reply { status := .deferred } (noteReady d (modDram d (fun m => { m with deferred := m.deferred ++ [w] })))
      else .later .memTrain (startMemWork w false d)) c s

/-- mem.fence (R258): every write accepted before the command is complete but those held; it answers when they are. -/
def execMemFence (c : Cmd) (s : State) : Host.Outcome State Fault Refusal :=
  mervan { opcode := 0x0903, dram := true, sweeps := true, args := [.num 0 1023] }
    (fun _ a d => if fenceWaits d (argN a 0) then .later (.memFence (BitVec.ofNat 10 (argN a 0))) d else ok d) c s

/-- mem.qos (R259): the weights of sources 1 to 9. -/
def execMemQos (c : Cmd) (s : State) : Host.Outcome State Fault Refusal :=
  mervan { opcode := 0x0904, args := List.replicate 9 (.num 1 15) }
    (fun _ a d => done (modDram d (fun m => { m with
      weights := updAll m.weights (fun k w => if k.val = 0 then w else argN a (k.val - 1)) }))) c s

/-- mem.rowhammer (R262). -/
def execMemRowhammer (c : Cmd) (s : State) : Host.Outcome State Fault Refusal :=
  mervan { opcode := 0x0905, args := [.num 256 16384] }
    (fun _ a d => done (modDram d (fun m => { m with threshold := argN a 0 }))) c s

/-- mem.scrub (R249). -/
def execMemScrub (c : Cmd) (s : State) : Host.Outcome State Fault Refusal :=
  mervan { opcode := 0x0906, args := [.num 1 168, .flag] }
    (fun _ a d => done (modDram d (fun m => { m with scrubHours := argN a 0, scrubOn := argB a 1 }))) c s

/-- An error record as mem.errors copies it: address, channel, source, kind, a padding word, fabric time (Table 10.7, R433). -/
def memErrorBytes (e : MemError) : List U8 := wordBytes (w64 e.addr ++ [w32 e.channel, w32 e.source, w32 e.kind, 0]) ++ leBytes 8 e.ftime.toNat

/-- mem.errors (R248): the oldest records are copied and leave the list. -/
def execMemErrors (c : Cmd) (s : State) : Host.Outcome State Fault Refusal :=
  mervan { opcode := 0x0907, dram := true, args := [.addr, .any], results := fun _ => 1
           ranges := fun a => [(argN a 0, 32 * argN a 1, false)] }
    (fun _ a d =>
      let out := d.dram.errors.take (argN a 1)
      ok (dramWrite 8 (argN a 0) (out.flatMap memErrorBytes) (modDram d (fun m => { m with errors := m.errors.drop (argN a 1) })))
        [w32 out.length]) c s

end Sys2Proof.Machine
end

