-- ==== Sys2Proof/Machine/Drive.lean ====
section
/-! DEFINITION. Drive waveforms and the rotating spare (R142 to R162): loading and trimming waveforms, handovers, calibration and
monitoring; and the head supplies over PMBus (R163 to R166). -/
namespace Sys2Proof.Machine

/-! Waveform commands (R147 to R152) -/

/-- wave.load (R148, R149): the image is checked for the heads of the job it serves, then placed in the shadow bank. -/
def execWaveLoad (c : Cmd) (s : State) : Host.Outcome State Fault Refusal :=
  mervan { opcode := 0x0210, works := some 2, reads := true, dram := true, stops := true, args := [.addr, .any, .flag]
           ranges := fun a => [(argN a 0, imageLen .wave, true)] }
    (fun _ a d =>
      let job := if argB a 2 then d.jobs.running else d.jobs.staged
      let planed := match job with | some j => planedHeads j.desc | none => []
      match imageFault d (waveChecks d planed (argN a 0) (w32 (argN a 1))) with
      | some e => answerImage e d
      | none =>
        if argB a 2 then loadForRepeat .wave (argN a 0) (imageLen .wave) (w32 (argN a 1)) d
        else loadForJob .wave (argN a 0) (imageLen .wave) (w32 (argN a 1)) d) c s

/-- wave.trim (R150): HOST_TRIM from the next repeat boundary. -/
def execWaveTrim (c : Cmd) (s : State) : Host.Outcome State Fault Refusal :=
  mervan { opcode := 0x0211, args := [.head, .num (-32768) 32767] }
    (fun _ a d =>
      if !hasHead d (argN a 0) then no d .badArgument
      else done { d with banks := { d.banks with hostTrimNew := upd d.banks.hostTrimNew (finOf 40 (argN a 0)) (fun _ => some (argI a 1)) } }) c s

/-- Tables present in a head's record of a waveform image. -/
def presentWaves (img : Mem) (h : Head) : List WaveTable := (maskTables (waveRecord img h.val).2.2.2.2).map (readWave (memRead img) h.val)

/-- A LIMIT is too low for a head: a sample or REST of a table present in the active bank, or in an image waiting in the shadow bank, is
larger (R152). -/
def limitTooLow (d : Device) (limit : Nat) (h : Head) : Bool :=
  let b := getBank d .wave
  (presentWaves b.active h ++ (if b.loaded then presentWaves b.shadow h else [])).any (fun w => decide (limit < wavePeak w))

/-- wave.limits (R152): LIMIT of each head named, from the next repeat boundary. -/
def execWaveLimits (c : Cmd) (s : State) : Host.Outcome State Fault Refusal :=
  mervan { opcode := 0x0212, gated := true, stops := true, args := [.wide 0 (2 ^ 40 - 1) 1, .num 1024 32767] }
    (fun _ a d =>
      let hs := maskHeads (argN a 0)
      if hs.any (fun h => !hasHead d h.val) then no d .badArgument
      else if hs.any (limitTooLow d (argN a 1)) then no d .badArgument .waveLimit
      else done { d with banks := { d.banks with
        limitNew := updAll d.banks.limitNew (fun h v => if hs.contains h then some (argN a 1) else v) } }) c s

/-- wave.config (Table 6.7, R147): WAVE_DELAY from the next repeat boundary while a job runs, the rest from the next monitoring visit. -/
def execWaveConfig (c : Cmd) (s : State) : Host.Outcome State Fault Refusal :=
  mervan { opcode := 0x0213
           args := [.head, .num 0 20000, .num 256 16384, .num 0 1200, .num 1 4095, .num 0 16383, .num 0 16383, .num 0 16383] }
    (fun _ a d =>
      if !hasHead d (argN a 0) then no d .badArgument
      else
        done (modDrive d (finOf 40 (argN a 0)) (fun x => { x with
          waveDelay := if jobRunning d then x.waveDelay else argN a 1
          waveDelayNew := if jobRunning d then some (argN a 1) else none
          senseGain := argN a 2, senseOffset := argN a 3, senseTol := argN a 4, isenMax := argN a 5
          thermLo := argN a 6, thermHi := argN a 7 }))) c s

/-! Quiet pins (R156) -/

/-- The head of pin j of group g (R142). -/
def pinHead (g : Group) (j : Fin 8) : Head := ⟨8 * g.val + j.val, by omega⟩

/-- The table that a head plays next: of its oldest pending token whose row 0 has not fired, else of its last cycle. -/
def waveNow (d : Device) (h : Head) : Option Nat :=
  match d.fire.tokens.find? (fun t => t.head == h && !t.fired.getLsbD 0) with
  | some t => some t.wave.toNat
  | none => (d.drive.heads[h].cycles.getLast?).map (fun c => c.table.toNat)

/-- A head that counts as quiet throughout: no line committed and no cycle for 10 µs, or its lane down (R156, Table 6.12). -/
def quietHead (d : Device) (h : Head) : Bool :=
  d.links[h].state == .down
    || (!d.fire.tokens.any (fun t => t.head == h)
        && d.drive.heads[h].cycles.all (fun c => decide (cycleEnd c + 40000 ≤ d.chip.qtime)))

/-- Every DAC core outputs s = 0: before the first bank swap, in a trip, and while D_DAC has quiesced (R144, R162, Table 15.5). -/
def coresZero (d : Device) : Bool := d.drive.zeroed || quiesced d 5

/-- Level of a pin between cycles (R144): REST of the table last selected for its head, before any selection of the head's WAVE_A (log entry 64), 0
for a head without waveforms. -/
def restLevel (d : Device) (h : Head) : Int :=
  let (_, a, _, _, mask) := waveRecord (getBank d .wave).active h.val
  if coresZero d then 0
  else match d.drive.heads[h].rest with
    | some r => r
    | none => if mask = 0 then 0 else (activeWave d h a).rest

/-- The level that a head's pin holds now, in units of 1.0 V ÷ 32,768 (R144, R147, R162). -/
def pinLevel (d : Device) (h : Head) : Int :=
  if coresZero d then 0
  else match cycleNow d h with
    | some c => c.samples.getD ((d.chip.qtime - c.start) / 80) 0
    | none => restLevel d h

/-- The level of a WF pin, none while it is high-impedance (R312, R371, R416, R423); the fused-off outputs of an FKB2-24-I stay powered down
(R4). -/
def wfPin (d : Device) (h : Head) : Option Int := if wfDriven d && hasHead d h.val then some (pinLevel d h) else none

/-- The line period is at least a cycle of n samples plus 100 µs (R156). -/
def slowLines (d : Device) (n : Nat) : Bool :=
  decide (d.pos.speed.travel ≤ 0)
    || decide ((d.pos.lpi : Int) * d.pos.speed.travel * (80 * n + 400000 : Nat) ≤ 25400000 * (d.pos.speed.time : Int))

/-- A pin may be handed over: inside its quiet interval, at REST between slow lines, or while its head is quiet (R156). -/
def handoverOk (d : Device) (g : Group) (j : Fin 8) : Bool :=
  let h := pinHead g j
  quietHead d h || coresZero d
    || (match waveNow d h with
        | none => true
        | some t => let w := activeWave d h t; w.qLen != 0 || slowLines d w.length)

/-- The spare of a group has followed its pin since an instant (R157): since the start of the cycle before the handover. -/
def followed (d : Device) (g : Group) (since : Option Nat) : Bool := since.any (fun t => decide (d.drive.groups[g].since ≤ t))

/-- The moment of a handover (R156, R157): while no cycle plays on a quiet pin, 20 samples into the quiet interval of a cycle, or at REST between the
cycles of slow lines. The spare has followed the pin since the start of the cycle before that one (log entry 86). -/
def handoverNow (d : Device) (g : Group) (j : Fin 8) : Bool :=
  let h := pinHead g j
  match cycleNow d h with
  | some c => coresZero d || (c.quiet.2 != 0 && (d.chip.qtime - c.start) / 80 == c.quiet.1 + 20 && followed d g c.before)
  | none =>
    quietHead d h || coresZero d
      || (match waveNow d h with
          | none => true
          | some t => let w := activeWave d h t; w.qLen == 0 && slowLines d w.length && followed d g d.drive.heads[h].lastStart)

/-! Calibration (R158 to R161) -/

/-- A pin passes from its core to the spare, and the core released is calibrated (R157, R158). -/
def passPin (j : Fin 8) (x : DacGroup) : DacGroup :=
  { x with pinMap := upd x.pinMap j (fun _ => x.spare), spare := x.pinMap[j], handovers := x.handovers + 1
           released := some j, cal := some (x.pinMap[j], none) }

/-- The spare of a group is suspect (R159). -/
def spareSuspect (x : DacGroup) : Bool := x.suspect[x.spare]

/-- The pin that a core drives (R143). -/
def pinOf (x : DacGroup) (k : Core) : Option (Fin 8) := (List.finRange 8).find? (fun j => x.pinMap[j] == k)

/-- The words of dac.calibrate's results, core by core ascending, from the chunks kept as they came: core, old OFFSET_TRIM and GAIN_TRIM, new
ones. -/
def calResults (chunks : List U32) : List U32 :=
  (List.range 9).flatMap (fun k =>
    match (List.range (chunks.length / 5)).find? (fun i => chunks.getD (5 * i) 0 == w32 k) with
    | some i => (chunks.drop (5 * i + 1)).take 4
    | none => [])

/-- The dac.calibrate in progress on a group: its cores still to calibrate and its results. -/
def calWork (d : Device) (g : Group) : Option (InFlight × List Core × List U32) :=
  d.mbx.inFlight.findSome? (fun e => match e.work with | .dacCal g' cs rs => if g' == g then some (e, cs, rs) else none | _ => none)

/-- The in-flight dac.calibrate of a group with other work. -/
def setCalWork (g : Group) (cs : List Core) (rs : List U32) (d : Device) : Device :=
  modMbx d (fun m => { m with inFlight := m.inFlight.map (fun e =>
    match e.work with | .dacCal g' _ _ => if g' == g then { e with work := .dacCal g cs rs } else e | _ => e) })

/-- The pins whose cores were to be replaced after a deviation no longer wait: the spare is suspect (R160). -/
def dropReplace (g : Group) (d : Device) : Device :=
  (d.drive.groups[g].replace).foldl (fun d j => modDrive d (pinHead g j) (fun x => { x with deviated := false }))
    (modGroup d g (fun x => { x with replace := [] }))

/-- A handover begins to wait for its quiet interval: the spare follows the pin from now on (R157). -/
def awaitHandover (g : Group) (j : Fin 8) (k : HoKind) (d : Device) : Device :=
  modGroup d g (fun x => { x with waiting := some (j, k), since := d.chip.qtime })

/-- A waiting handover does not come to a spare that has become suspect (R159): a commanded calibration is refused as at its start (R161), a pin to be
replaced keeps its core and deviates again (R160). -/
def dropHandover (g : Group) (d : Device) : Device :=
  match d.drive.groups[g].waiting with
  | none => d
  | some (j, kind) =>
    if !spareSuspect d.drive.groups[g] then d
    else
      let d := modDrive (modGroup d g (fun x => { x with waiting := none })) (pinHead g j) (fun y => { y with deviated := false })
      if kind == .commanded then finishWork (fun w => match w with | .dacCal g' _ _ => g' == g | _ => false) { status := .noQuietInterval } d else d

/-- What a group does next when no calibration is under way (R159 to R161): the spare of a commanded calibration at once, and with no handover
waiting a replacement, the next core of a commanded calibration, or the replacement of a suspect core that drives a pin. -/
def advanceCal (g : Group) (d : Device) : Device :=
  let d := if d.drive.groups[g].cal.isNone then dropHandover g d else d
  let x := d.drive.groups[g]
  let spareNext := match calWork d g with | some (_, k :: _, _) => (pinOf x k).isNone | _ => false
  if x.cal.isSome || !x.start.isEmpty then d
  else if spareNext then modGroup d g (fun x => { x with cal := some (x.spare, none) })
  else if x.waiting.isSome then d
  else
    match x.replace with
    | j :: rest =>
      if spareSuspect x then dropReplace g d
      else awaitHandover g j .replacement (modGroup d g (fun x => { x with replace := rest }))
    | [] =>
      match calWork d g with
      | some (e, [], rs) => finish e { results := calResults rs } d
      | some (e, k :: _, _) =>
        match pinOf x k with
        | none => d
        | some j =>
          if spareSuspect x || !handoverOk d g j then finish e { status := .noQuietInterval } d
          else awaitHandover g j .commanded d
      | none =>
        match (List.finRange 8).find? (fun j => x.suspect[x.pinMap[j]]) with
        | some j => if spareSuspect x then d else awaitHandover g j .replacement d
        | none => d

/-- The first core of a commanded calibration (R160, R161): the spare begins at once where its group calibrates nothing, a driving core waits for its
handover where none waits before it. -/
def beginCal (g : Group) (cores : List Core) (d : Device) : Device :=
  let d := if d.drive.groups[g].cal.isNone then dropHandover g d else d
  let x := d.drive.groups[g]
  if x.cal.isSome || !x.start.isEmpty then d
  else
    match cores.head?.bind (pinOf x) with
    | none => modGroup d g (fun x => { x with cal := some (x.spare, none) })
    | some j => if x.waiting.isSome || !x.replace.isEmpty then d else awaitHandover g j .commanded d

/-- dac.calibrate (R161): the spare at once, a driving core after its pin has been handed to the spare; all nine with the spare first. A
second one on a group answers BUSY_STATE. -/
def execDacCalibrate (c : Cmd) (s : State) : Host.Outcome State Fault Refusal :=
  mervan { opcode := 0x0214, works := some 5, slow := true, stops := true, args := [.num 0 4, .one [0, 1, 2, 3, 4, 5, 6, 7, 8, 15]]
           results := fun a => if argN a 1 = 15 then 36 else 4 }
    (fun _ a d =>
      let g : Group := finOf 5 (argN a 0)
      let x := d.drive.groups[g]
      if !hasGroup d g.val then no d .badArgument
      else if (calWork d g).isSome then no d .busyState
      else
        let cores : List Core := if argN a 1 = 15 then x.spare :: x.pinMap.toList else [finOf 9 (argN a 1)]
        let lone := argN a 1 ≠ 15
        match pinOf x (finOf 9 (argN a 1)) with
        | some j =>
          if lone ∧ (spareSuspect x || !handoverOk d g j) then no d .noQuietInterval
          else .later (.dacCal g cores []) (beginCal g cores d)
        | none => .later (.dacCal g cores []) (beginCal g cores d)) c s

/-- dac.status (R143): pin map, trims, suspect flags, HANDOVERS, CAL_FAIL, NO_QUIET, and per pin WAVE_MISMATCH, TRIM_LIMITED and the latest
readings. -/
def execDacStatus (c : Cmd) (s : State) : Host.Outcome State Fault Refusal :=
  mervan { opcode := 0x0215, stops := true, args := [.num 0 4], results := fun _ => 90 }
    (fun _ a d =>
      let g : Group := finOf 5 (argN a 0)
      let x := d.drive.groups[g]
      let hs := (List.finRange 8).map (fun j => d.drive.heads[pinHead g j])
      if !hasGroup d g.val then no d .badArgument
      else
        let ws := x.pinMap.toList.map (fun k => w32 k.val)
          ++ (List.finRange 9).flatMap (fun k => [i32 x.offset[k], i32 x.gain[k]])
          ++ [w32 ((List.finRange 9).foldr (fun k n => b2n x.suspect[k] * 2 ^ k.val + n) 0)]
        let ws := ([x.handovers, x.calFail, x.noQuiet] ++ hs.map (·.waveMismatch) ++ hs.map (·.trimLimited)).foldl
          (fun ws v => put64 ws v.toNat) ws
        ok d (ws ++ hs.flatMap (fun y => [w32 y.latest.1, w32 y.latest.2.1, w32 y.latest.2.2]))) c s

/-- dac.rotation (R156): CAL_INTERVAL in units of 0.1 s, and ENABLE. -/
def execDacRotation (c : Cmd) (s : State) : Host.Outcome State Fault Refusal :=
  mervan { opcode := 0x0216, stops := true, args := [.num 0 4, .num 1 36000, .flag] }
    (fun _ a d =>
      if !hasGroup d (argN a 0) then no d .badArgument
      else done (modGroup d (finOf 5 (argN a 0)) (fun x => { x with interval := argN a 1, rotate := argB a 2 }))) c s

/-! The rotating spare (R156, R157, R160) -/

/-- The next pin of the rotation from pin j on: a pin that allows no handover is passed over and counted in NO_QUIET, and the pin that the
spare released last is skipped (R156). -/
def rotateFrom (d : Device) (g : Group) : Nat → Nat → U32 → Option (Fin 8) × U32
  | 0, _, n => (none, n)
  | fuel + 1, j, n =>
    let p : Fin 8 := ⟨j % 8, by omega⟩
    if d.drive.groups[g].released == some p then rotateFrom d g fuel (j + 1) n
    else if handoverOk d g p then (some p, n)
    else rotateFrom d g fuel (j + 1) (satAdd n 1)

/-- ROTATION_TIMER (R156): CAL_INTERVAL elapses in a group. A group whose spare is suspect or in use does not rotate (R159). -/
def execRotationTimer (g : Group) (s : State) : Host.Outcome State Fault Refusal :=
  let d := s.dev
  let x := d.drive.groups[g]
  if hasGroup d g.val && domainTakes d 5 && x.rotate && !spareSuspect x && x.cal.isNone && x.waiting.isNone && x.start.isEmpty then
    let (p, n) := rotateFrom d g 8 x.nextPin.val x.noQuiet
    let d := modGroup d g (fun x => { x with noQuiet := n, nextPin := match p with | some j => j + 1 | none => x.nextPin })
    next s (match p with | some j => awaitHandover g j .rotation d | none => d)
  else next s d

/-- HANDOVER (R157): inside the pin's quiet interval the switch passes the pin to the spare; the core released is calibrated (R158). A pin whose
core deviated has had it replaced (R160), whatever the handover was for, and its SENSE visits are counted anew. -/
def execHandover (g : Group) (s : State) : Host.Outcome State Fault Refusal :=
  let d := s.dev
  let x := d.drive.groups[g]
  match x.waiting with
  | none => next s d
  | some (j, _) =>
    if domainTakes d 5 && x.cal.isNone && !spareSuspect x && handoverNow d g j then
      next s (modDrive (modGroup d g (fun x => { passPin j x with waiting := none, replace := x.replace.filter (· != j) })) (pinHead g j)
        (fun y => { y with replaced := y.replaced || y.deviated, deviated := false, senseBad := 0 }))
    else next s d

/-- The mean of two trims; where it falls between two steps the manual does not say which it takes, and the step is free (log entry 9). -/
def meanTrim (a b : Int) (d : Device) : Int × Device :=
  if (a + b) % 2 = 0 then ((a + b) / 2, d)
  else
    let (v, d) := draw d
    ((a + b) / 2 + (if v.getLsbD 0 then 1 else 0), d)

/-- The two runs agree and the new trims are in range and near the old ones; the last limit does not apply at start-up (R158), but in the self-test
of a promotion it does (R328). -/
def calAccepts (x : DacGroup) (k : Core) (startUp : Bool) (a b : CalRun) (off gain : Int) : Bool :=
  decide ((a.offset - b.offset).natAbs ≤ 8 ∧ (a.gain - b.gain).natAbs ≤ 10)
    && decide (-2048 ≤ off ∧ off ≤ 2047 ∧ -2048 ≤ gain ∧ gain ≤ 2047)
    && (startUp || decide ((off - x.offset[k]).natAbs ≤ 128 ∧ (gain - x.gain[k]).natAbs ≤ 100))

/-- A core's calibration has failed (R158, R159): its trims stay, CAL_FAIL counts it, and the third failure in a row makes it suspect. -/
def calFails (g : Group) (k : Core) (d : Device) : Device :=
  let n := d.drive.groups[g].fails[k] + 1
  let news := decide (3 ≤ n) && !d.drive.groups[g].suspect[k]
  let d := modGroup d g (fun x => { x with
    calFail := satAdd x.calFail 1, fails := upd x.fails k (fun _ => n)
    suspect := if 3 ≤ n then upd x.suspect k (fun _ => true) else x.suspect })
  if news then raise .dacCoreSuspect [w32 g.val, w32 k.val] d else d

/-- A core's new trims are written (R153, R158); a passing dac.calibrate clears its suspect flag (R159). -/
def calPasses (g : Group) (k : Core) (off gain : Int) (commanded : Bool) (d : Device) : Device :=
  modGroup d g (fun x => { x with
    offset := upd x.offset k (fun _ => off), gain := upd x.gain k (fun _ => gain), fails := upd x.fails k (fun _ => 0)
    suspect := if commanded then upd x.suspect k (fun _ => false) else x.suspect })

/-- The start-up calibration goes on with its next core, which is the spare (R153, R161): a core that drives a pin passes it to the spare first, at once
since no cycle plays (R157). -/
def nextStartCore (x : DacGroup) : DacGroup :=
  match x.start with
  | [] => { x with cal := none }
  | k :: _ =>
    match pinOf x k with
    | some j => passPin j x
    | none => { x with cal := some (k, none) }

/-- A calibration of a core ends with new trims or with none (R158 to R161): the next core of the start-up calibration follows, and the
head lanes are enabled after the last one (R389); a commanded calibration goes on or answers. -/
def calEnds (g : Group) (k : Core) (accepted : Option (Int × Int)) (d : Device) : Device :=
  let x := d.drive.groups[g]
  let startUp := !x.start.isEmpty
  let work := calWork d g
  let mine := !startUp && (match work with | some (_, k' :: _, _) => k' == k | _ => false)
  let old := (x.offset[k], x.gain[k])
  let d := match accepted with
    | some (o, n) => calPasses g k o n mine d
    | none => calFails g k d
  let d := modGroup d g (fun x => nextStartCore { x with start := x.start.drop 1 })
  let d := match work, accepted with
    | some (e, _, _), none => if mine then finish e { status := .calDisagree } d else d
    | some (_, cs, rs), some (o, n) =>
      if mine then setCalWork g (cs.drop 1) (rs ++ [w32 k.val, i32 old.1, i32 old.2, i32 o, i32 n]) d else d
    | none, _ => d
  let d := advanceCal g d
  if startUp && startCalDone d && d.nv.stage == .ready && d.red.promo.isNone then enableHeadLanes d else d

/-- CALIBRATION_RUN_DONE (R158): the first run is kept; after the second the trims are accepted or refused. -/
def execCalibrationRunDone (g : Group) (run : CalRun) (s : State) : Host.Outcome State Fault Refusal :=
  let d := s.dev
  let x := d.drive.groups[g]
  match x.cal with
  | none => next s d
  | some (k, first) =>
    if !domainOn d 5 then next s d
    else match first with
    | none => next s (modGroup d g (fun x => { x with cal := some (k, some run) }))
    | some a =>
      let (off, d) := meanTrim a.offset run.offset d
      let (gain, d) := meanTrim a.gain run.gain d
      next s (calEnds g k (if calAccepts x k (!x.start.isEmpty && x.atStart) a run off gain then some (off, gain) else none) d)

/-! Monitoring (R154, R155) -/

/-- The sample at a pin when SENSE is read (R154): scaled CHECK_INDEX of the head's next cycle, else the REST that it holds. -/
def sensedSample (d : Device) (h : Head) : Int :=
  if coresZero d then 0
  else
    match d.drive.heads[h].cycles.find? (fun c => decide (d.chip.qtime < c.start)) with
    | some c => c.samples.getD c.check 0
    | none =>
      match d.fire.tokens.find? (fun t => t.head == h && !t.fired.getLsbD 0) with
      | some t =>
        let w := activeWave d h t.wave.toNat
        scaled w.rest (w.samples.getD w.check 0) d.banks.applied[h]
      | none => restLevel d h

/-- A SENSE code differs from the expectation by more than SENSE_TOL (R155): codes of 14 bits over 0 to 1.2 V. -/
def senseDeviates (x : HeadDrive) (sample : Int) (code : Nat) : Bool :=
  decide ((x.senseTol * 12000 * 2 ^ 27 : Int)
    < (((code * 12000 * 2 ^ 27 : Nat) : Int) - ((x.senseOffset * 2 ^ 27 : Nat) + 1000 * sample * x.senseGain) * 163840).natAbs)

/-- The third deviating SENSE visit in a row (R155, R160): EV_DRIVE_DEVIATION and a replacement handover; where the core has been replaced
already, the amplifier is at fault. While the replacement waits, the event repeats. -/
def driveDeviation (h : Head) (d : Device) : Device :=
  let g : Group := ⟨h.val / 8, by omega⟩
  let j : Fin 8 := ⟨h.val % 8, by omega⟩
  let d := modDrive d h (fun x => { x with senseBad := 0 })
  let d := raise .driveDeviation [w32 h.val] d
  if d.drive.heads[h].replaced then raise .driveFault [w32 h.val, 0] (inhibitHeads [h] d)
  else if spareSuspect d.drive.groups[g] || d.drive.heads[h].deviated then d
  else
    advanceCal g (modDrive (modGroup d g (fun x => { x with replace := if x.replace.contains j then x.replace else x.replace ++ [j] })) h
      (fun x => { x with deviated := true }))

/-- The third visit in a row with an ISEN code above ISEN_MAX or a THERM code outside its window (R155). -/
def driveFault (h : Head) (input : Nat) (d : Device) : Device :=
  raise .driveFault [w32 h.val, w32 input] (inhibitHeads [h] d)

/-- Monitoring is at a head: it visits the heads of a group in turn (R154, log entry 98). -/
def visitsNow (d : Device) (h : Head) : Bool := d.drive.groups[(⟨h.val / 8, by omega⟩ : Group)].visit.val == h.val % 8

/-- MONITOR_VISIT (R154, R155): SENSE, ISEN and THERM of the head whose turn it is. -/
def execMonitorVisit (h : Head) (sense isen therm : Nat) (s : State) : Host.Outcome State Fault Refusal :=
  let d := s.dev
  if hasHead d h.val && domainOn d 5 && visitsNow d h then
    let x := d.drive.heads[h]
    let bad := senseDeviates x (sensedSample d h) sense
    let sb := if bad then x.senseBad + 1 else 0
    let ib := if x.isenMax < isen then x.isenBad + 1 else 0
    let tb := if therm < x.thermLo ∨ x.thermHi < therm then x.thermBad + 1 else 0
    let d := modGroup d ⟨h.val / 8, by omega⟩ (fun x => { x with visit := x.visit + 1 })
    let d := modDrive d h (fun x => { x with
      latest := (sense, isen, therm), senseBad := sb, isenBad := ib % 3, thermBad := tb % 3, replaced := x.replaced && bad })
    let d := if 3 ≤ sb then driveDeviation h d else d
    let d := if 3 ≤ ib then driveFault h 1 d else d
    next s (if 3 ≤ tb then driveFault h 2 d else d)
  else next s d

/-! Head supplies (R163 to R165) -/

/-- The entry of a supply (R163). -/
def supplyEntry (d : Device) (k : Supply) : Option SupplyCfg := d.drive.supplies[k.val]?

/-- The PMBus host makes transactions: an ACTIVE unit in RUN with its pads released (R312, R371); while VIO_PMB is low they fail (Table 19.14). -/
def pmbTries (d : Device) : Bool := active d && domainTakes d 5 && pinsLive d && !d.pwr.held.getLsbD 2

/-- The PMBus carries transactions: VIO_PMB is up too (R419). -/
def pmbOn (d : Device) : Bool := pmbTries d && pmbPins d

/-- A PMBus partner's SOURCE is its 7-bit address; it is isolated (R28). -/
def supplyIsolated (d : Device) (e : SupplyCfg) : Bool := d.vlog.isolated.contains (5, BitVec.ofNat 16 e.addr)

/-- A PMBus violation (Table 6.11). -/
def pmbViolation (code : U8) (addr : Nat) (ans : BitVec 2) (d : Device) : Device := violation code 5 (BitVec.ofNat 16 addr) ans d

/-- PAGE is written before each access to a paged supply (Table 6.9). -/
def pmbPage (e : SupplyCfg) (d : Device) : Device :=
  if e.page = 255 then d else { d with drive := { d.drive with pmb := .write e.addr 0x00 e.page e.pec :: d.drive.pmb } }

/-- A read of a command of a supply (Table 6.9). -/
def pmbAsk (e : SupplyCfg) (command : Nat) (d : Device) : Device :=
  let d := pmbPage e d
  { d with drive := { d.drive with pmb := .read e.addr command e.pec :: d.drive.pmb } }

/-- One write to a supply, PAGE first when it is paged (Table 6.9). Whether the supply acknowledges is free (log entry 66): a write that it does not is
PMB_NAK, and is retried at the next poll unless a later write of that command comes first (Table 6.11). -/
def pmbSend (k : Supply) (e : SupplyCfg) (d : Device) (w : Nat × Nat) : Device :=
  let d := modSup d k (fun x => { x with retry := x.retry.filter (fun r => r.1 != w.1) })
  let (v, d) := draw d
  if v.getLsbD 0 then pmbViolation 0x60 e.addr 0 (modSup d k (fun x => { x with retry := x.retry ++ [w] }))
  else
    let d := pmbPage e d
    { d with drive := { d.drive with pmb := .write e.addr w.1 w.2 e.pec :: d.drive.pmb } }

/-- A bus recovery (R166): nine SCL pulses, then a STOP. -/
def pmbRecover (d : Device) : Device := { d with drive := { d.drive with pmb := .recover :: d.drive.pmb } }

/-- STATUS_WORD shows a fault: any bit but OFF, BUSY and POWER_GOOD# (log entry 42). -/
def wordFaults (w : U16) : Bool := w &&& 0xF73F != 0
/-- STATUS_WORD shows the supply off. -/
def wordOff (w : U16) : Bool := w.getLsbD 6

/-- The supply inhibit set on every head of a mask (R164, R165). -/
def supplyInhibit (mask : BitVec 40) (d : Device) : Device := { d with fire := { d.fire with supply := d.fire.supply ||| mask } }

/-- A supply has failed (R165): the supply inhibit on its heads, and EV_HV_FAULT with its STATUS_WORD. -/
def supplyFails (k : Supply) (e : SupplyCfg) (d : Device) : Device :=
  raise .hvFault [w32 k.val, w32 d.drive.sup[k].status.toNat]
    (supplyInhibit e.mask (modSup d k (fun x => { x with faulted := true })))

/-- A STATUS_WORD has been read (R165): a promoted unit adopts the state it finds first (R312); a fault, or an on supply turned off,
inhibits the heads. -/
def takeStatusWord (k : Supply) (e : SupplyCfg) (w : U16) (d : Device) : Device :=
  let adopting := d.drive.adopt.getLsbD k.val
  let was := d.drive.sup[k].on
  let d := modSup d k (fun x => { x with status := w, on := if adopting then !wordOff w else x.on && !wordOff w })
  let d := { d with drive := { d.drive with adopt := d.drive.adopt &&& ~~~(BitVec.ofNat 16 (2 ^ k.val)) } }
  if wordFaults w || (was && !adopting && wordOff w) then supplyFails k e d else d

/-- A read of a command and its result: its word, or PMB_NAK or, on a supply with packet error checking, PMB_PEC counted (Table 6.10, R166). -/
def pmbRead (e : SupplyCfg) (command : Nat) (r : BusResult) (f : U16 → Device → Device) (d : Device) : Device :=
  let d := pmbAsk e command d
  match r with
  | .ok v => f (BitVec.ofNat 16 v.toNat) d
  | .nak => pmbViolation 0x60 e.addr 0 d
  | .pec => if e.pec then pmbViolation 0x61 e.addr 0 d else d

/-- A promoted unit's first PMBus transaction (R312): the STATUS_WORD of every supply of its hv.config is read, but of one whose read by `but` follows
at once. What a supply shows, and whether it acknowledges, is free (log entry 66). -/
def adoptSupplies (but : Option Supply) (d : Device) : Device :=
  if !d.drive.adoptDue then d
  else
    d.drive.supplies.zipIdx.foldl (fun d e =>
      if but == some (finOf 16 e.2) || supplyIsolated d e.1 then d
      else
        let (v, d) := draw d
        pmbRead e.1 0x79 (if v.getLsbD 16 then .nak else .ok (v.setWidth 32)) (takeStatusWord (finOf 16 e.2) e.1) d)
      { d with drive := { d.drive with adoptDue := false } }

/-- Writes to a supply; none while the PMBus carries no transactions (R165, R371) or to an isolated supply (R28). -/
def pmbWrite (k : Supply) (e : SupplyCfg) (ws : List (Nat × Nat)) (d : Device) : Device :=
  if !pmbOn d || supplyIsolated d e then d else ws.foldl (pmbSend k e) (adoptSupplies none d)

/-- What a read of VOUT_MODE shows is a mode other than linear: bits 7 to 5 (log entry 98). -/
def otherMode : BusResult → Bool
  | .ok v => v.toNat / 32 % 8 != 0
  | _ => false

/-- VOUT_MODE of every entry read, with what each read gives (Table 6.9, R166); none from an isolated supply (R28). -/
def readModes (es : List SupplyCfg) (modes : List BusResult) (d : Device) : Device :=
  if pmbOn d then
    es.zipIdx.foldl (fun d e => if supplyIsolated d e.1 then d else pmbRead e.1 0x20 (modes.getD e.2 (.ok 0)) (fun _ d => d) d) (adoptSupplies none d)
  else d

/-- hv.config (R3, R163): no fused-off head in a HEAD_MASK, VOUT_MODE of every entry linear, no VOUT above its VOUT_MAX; the entries are loaded and
VOUT_COMMAND written. `modes` is what the read of VOUT_MODE gives at each entry. DESIGN CHOICE: an entry whose read gives no mode passes (log entry
98). -/
def execHvConfig (c : Cmd) (modes : List BusResult) (s : State) : Host.Outcome State Fault Refusal :=
  mervan { opcode := 0x0218, works := some 5, stops := true, args := [.one [100, 400]]
           rep := [.num 0 127, .one ((List.range 32).map (fun (n : Nat) => Int.ofNat n) ++ [255]), .wide 0 (2 ^ 40 - 1) 1, .num 0 15, .num 0 1000, .num 1 1000,
             .any, .flag] }
    (fun _ a d =>
      let es := (entriesOf 8 a.length (a.drop 1)).map (fun l =>
        (⟨argN l 0, argN l 1, BitVec.ofNat 40 (argN l 2), argN l 3, argN l 4, argN l 5, argN l 6, argB l 7⟩ : SupplyCfg))
      if 16 < es.length then no d .badArgument .field
      else if es.any (fun e => (List.finRange 40).any (fun h => e.mask.getLsbD h.val && !hasHead d h.val)) then no d .badArgument
      else if d.pwr.held.getLsbD 2 then no d .refused .padsHeld
      else
      let d := readModes es modes d
      if pmbOn d && es.zipIdx.any (fun e => !supplyIsolated d e.1 && otherMode (modes.getD e.2 (.ok 0))) then no d .badArgument .voutMode
      else if es.zipIdx.any (fun e => (d.drive.sup.getD e.2 {}).voutMax.any (fun m => decide (m < e.1.vout))) then
        no d .badArgument .voutLimit
      else
        let was := d
        let d := { d with drive := { d.drive with supplies := es, busRate := argN a 0 } }
        let d := es.zipIdx.foldl (fun d e => pmbWrite (finOf 16 e.2) e.1 [(0x21, e.1.vout)] d) d
        done (noteReady was d)) c s

/-- Supplies named by a mask in ascending (ORDER, number). -/
def bySteps (d : Device) (mask : Nat) : List Supply :=
  (List.range 16).flatMap (fun o => (List.finRange 16).filter (fun k =>
    bitOf mask k.val && (match supplyEntry d k with | some e => e.order == o | none => false)))

/-- ORDER of a supply. -/
def orderOf (d : Device) (k : Supply) : Nat := match supplyEntry d k with | some e => e.order | none => 0

/-- The supplies of the next ORDER step are turned on: CLEAR_FAULTS, OPERATION 0x80 (R164). -/
def nextStep (d : Device) : Device :=
  match d.drive.seqTodo with
  | [] => d
  | k :: _ =>
    let step := d.drive.seqTodo.filter (fun j => orderOf d j == orderOf d k)
    let d := step.foldl (fun d j =>
      let d := match supplyEntry d j with | some e => pmbWrite j e [(0x03, 0), (0x01, 0x80)] d | none => d
      modSup d j (fun x => { x with faulted := false })) d
    { d with drive := { d.drive with
      seqTodo := d.drive.seqTodo.filter (fun j => !step.contains j), seqWait := step, seqDone := step.reverse ++ d.drive.seqDone } }

/-- Supplies are turned off one by one (R164); where PMBus may not be written, they stay as they are (R165). -/
def turnOff (ks : List Supply) (d : Device) : Device :=
  if !pmbOn d then d
  else ks.foldl (fun d k =>
    let d := match supplyEntry d k with | some e => pmbWrite k e [(0x01, 0x00)] d | none => d
    modSup d k (fun x => { x with on := false })) d

/-- Heads that every supply in whose HEAD_MASK they lie feeds without fault lose the supply inhibit (R165). -/
def clearSupplyInhibit (d : Device) : Device :=
  let good := fun (h : Head) => d.drive.supplies.zipIdx.all (fun e =>
    !e.1.mask.getLsbD h.val
      || (!supplyIsolated d e.1 && (d.drive.sup.getD e.2 {}).on && !wordFaults (d.drive.sup.getD e.2 {}).status))
  (List.finRange 40).foldl (fun d h =>
    if d.fire.supply.getLsbD h.val && good h then
      let d := { d with fire := { d.fire with supply := d.fire.supply &&& ~~~(BitVec.ofNat 40 (2 ^ h.val)) } }
      if d.links[h].state == .present && !inhibited d h then sendInhibit h false d else d
    else d) d

/-- hv.power with ON ends with OK (R164, R165). -/
def sequenceDone (d : Device) : Device :=
  finishWork (· == .hvPower) {}
    (clearSupplyInhibit { d with drive := { d.drive with seqOn := false, seqTodo := [], seqWait := [], seqDone := [] } })

/-- hv.power (R164): ON turns the named supplies on by ascending ORDER and answers when the last reports good; OFF sets the supply inhibit
and turns them off by descending ORDER. -/
def execHvPower (c : Cmd) (s : State) : Host.Outcome State Fault Refusal :=
  mervan { opcode := 0x0219, works := some 5, slow := true, stops := true, args := [.num 0 65535, .flag] }
    (fun _ a d =>
      let ks := bySteps d (argN a 0)
      if (List.range 16).any (fun k => bitOf (argN a 0) k && decide (d.drive.supplies.length ≤ k)) then no d .badArgument .field
      else if d.pwr.held.getLsbD 2 then no d .refused .padsHeld
      else if !pmbOn d then no d .refused
      else if d.drive.seqOn then no d .busyState
      else if argB a 1 then
        if ks.isEmpty then ok (clearSupplyInhibit d)
        else .later .hvPower (nextStep { d with drive := { d.drive with seqOn := true, seqTodo := ks, seqWait := [], seqDone := [] } })
      else
        let fed := ks.foldl (fun m k => match supplyEntry d k with | some e => m ||| e.mask | none => m) (0 : BitVec 40)
        ok (noteReady d (turnOff ks.reverse (supplyInhibit fed d)))) c s

/-- HV_STEP_GOOD (R164): a supply of the present step, with which data exchange has not stopped (R28), shows power good and no fault; when it was the last supply, hv.power answers OK. The
next step follows its ON_DELAY (ON_DELAY_EXPIRY). -/
def execHvStepGood (k : Supply) (s : State) : Host.Outcome State Fault Refusal :=
  let d := s.dev
  if d.drive.seqOn && d.drive.seqWait.contains k && pmbOn d && !d.drive.sup[k].faulted
      && (match supplyEntry d k with | some e => !supplyIsolated d e | none => false) then
    let was := d
    let d := modSup d k (fun x => { x with on := true, status := 0 })
    let d := { d with drive := { d.drive with seqWait := d.drive.seqWait.erase k } }
    next s (noteReady was (if d.drive.seqWait.isEmpty && d.drive.seqTodo.isEmpty then sequenceDone d else d))
  else next s d

/-- ON_DELAY_EXPIRY (R164): ON_DELAY after the previous step reported good, the next ORDER step is turned on. -/
def execOnDelayExpiry (s : State) : Host.Outcome State Fault Refusal :=
  let d := s.dev
  if d.drive.seqOn && d.drive.seqWait.isEmpty && pmbOn d then next s (nextStep d) else next s d

/-- PG_TIMEOUT (R164): a supply has not reported good in time; every supply turned on in this command is turned off in reverse order, with
REFUSED and EV_HV_FAULT. -/
def execPgTimeout (k : Supply) (s : State) : Host.Outcome State Fault Refusal :=
  let d := s.dev
  if d.drive.seqOn && d.drive.seqWait.contains k then
    let was := d
    let d := turnOff d.drive.seqDone d
    let d := { d with drive := { d.drive with seqOn := false, seqTodo := [], seqWait := [], seqDone := [] } }
    let d := raise .hvFault [w32 k.val, w32 d.drive.sup[k].status.toNat] d
    next s (noteReady was (finishWork (· == .hvPower) { status := .refused, reason := .hvSequence } d))
  else next s d

/-- hv.limits (R163): VOUT_MAX, VOUT_OV_FAULT_LIMIT and IOUT_OC_FAULT_LIMIT of a supply. -/
def execHvLimits (c : Cmd) (s : State) : Host.Outcome State Fault Refusal :=
  mervan { opcode := 0x021A, works := some 5, gated := true, stops := true, args := [.num 0 15, .any, .any, .any] }
    (fun _ a d =>
      let k : Supply := finOf 16 (argN a 0)
      if d.pwr.held.getLsbD 2 then no d .refused .padsHeld
      else match supplyEntry d k with
      | none => no d .badArgument .field
      | some e =>
        let d := pmbWrite k e [(0x24, argN a 1), (0x40, argN a 2), (0x46, argN a 3)] d
        done (modSup d k (fun x => { x with
          voutMax := some (argN a 1), ovLimit := some (argN a 2), ocLimit := some (argN a 3) }))) c s

/-- hv.status (R165): state, STATUS_WORD, READ_VOUT, READ_IOUT and READ_TEMPERATURE_1 of every supply. -/
def execHvStatus (c : Cmd) (s : State) : Host.Outcome State Fault Refusal :=
  mervan { opcode := 0x021B, stops := true, results := fun _ => 80 }
    (fun _ _ d => ok d (d.drive.sup.toList.flatMap (fun x =>
      [w32 (b2n x.on), w32 x.status.toNat, w32 x.vout.toNat, w32 x.iout.toNat, w32 x.temp.toNat]))) c s

/-- The writes that a supply did not acknowledge are retried at its poll (Table 6.11). -/
def retryWrites (k : Supply) (e : SupplyCfg) (d : Device) : Device := pmbWrite k e d.drive.sup[k].retry d

/-- PMBUS_STATUS_POLL (R165): the STATUS_WORD of a supply is read. -/
def execPmbusStatusPoll (k : Supply) (result : BusResult) (s : State) : Host.Outcome State Fault Refusal :=
  let d := s.dev
  match supplyEntry d k with
  | some e =>
  if pmbOn d && !supplyIsolated d e then
    let first := if d.drive.adoptDue then adoptSupplies (some k) d else retryWrites k e d
    next s (noteReady d (pmbRead e 0x79 result (takeStatusWord k e) first))
  else next s d
  | none => next s d

/-- PMBUS_TELEMETRY_POLL (Table 6.9): READ_VOUT, READ_IOUT and READ_TEMPERATURE_1 of a supply. -/
def execPmbusTelemetryPoll (k : Supply) (vout iout temp : BusResult) (s : State) : Host.Outcome State Fault Refusal :=
  let d := s.dev
  match supplyEntry d k with
  | some e =>
    if pmbOn d && !supplyIsolated d e then
      let d := adoptSupplies none d
      let d := pmbRead e 0x8B vout (fun w d => modSup d k (fun x => { x with vout := w })) d
      let d := pmbRead e 0x8C iout (fun w d => modSup d k (fun x => { x with iout := w })) d
      next s (pmbRead e 0x8D temp (fun w d => modSup d k (fun x => { x with temp := w })) d)
    else next s d
  | none => next s d

/-- PMB_ALERT (R165): an alert response read, and a STATUS_WORD read of the supply that responds; three reads that none answers while the line stays
low are PMB_ALERT_STUCK, and alerts are ignored until the line has risen (Table 6.11). -/
def execPmbAlert (alert : AlertRead) (result : BusResult) (s : State) : Host.Outcome State Fault Refusal :=
  let d := s.dev
  if !pmbOn d || (d.drive.alertStuck && !alert.fell) then next s d
  else
    let d := adoptSupplies none d
    let d := if alert.fell then { d with drive := { d.drive with alertMiss := 0, alertStuck := false } } else d
    match alert.responder with
    | some k =>
      let d := { d with drive := { d.drive with alertMiss := 0 } }
      match supplyEntry d k with
      | some e => if supplyIsolated d e then next s d else next s (noteReady s.dev (pmbRead e 0x79 result (takeStatusWord k e) d))
      | none => next s d
    | none =>
      let n := d.drive.alertMiss + 1
      if n < 3 then next s { d with drive := { d.drive with alertMiss := n } }
      else next s (pmbViolation 0x64 0x0C 0 { d with drive := { d.drive with alertMiss := 0, alertStuck := true } })

/-- PMB_STRETCH (Table 6.11): SCL held low for more than 35 ms; the bus is recovered (R166). No supply is named, so SOURCE is 0. -/
def execPmbStretch (s : State) : Host.Outcome State Fault Refusal :=
  if pmbOn s.dev then next s (pmbRecover (pmbViolation 0x62 0 2 s.dev)) else next s s.dev

/-- The supplies of an address have failed, rail by rail (R165). -/
def addressFails (addr : Nat) (d : Device) : Device :=
  d.drive.supplies.zipIdx.foldl (fun d e => if e.1.addr == addr then supplyFails (finOf 16 e.2) e.1 d else d) d

/-- PMB_SILENT (Table 6.11): no successful transaction with a supply for 100 ms isolates it, and R165 applies to the heads of all its rails. -/
def execPmbSilent (k : Supply) (s : State) : Host.Outcome State Fault Refusal :=
  let d := s.dev
  match supplyEntry d k with
  | some e =>
    if pmbTries d && !supplyIsolated d e then
      next s (noteReady d (addressFails e.addr (isolatePartner 5 (BitVec.ofNat 16 e.addr) (pmbViolation 0x63 e.addr 3 d))))
    else next s d
  | none => next s d

end Sys2Proof.Machine
end

