-- ==== Sys2Proof/Machine/Lanes.lean ====
section
/-! DEFINITION. Filkan lanes (chapter 11): loss of signal, electrical idle, training, the peppercorn test, and the lane commands. -/
namespace Sys2Proof.Machine

/-! A lane's place -/

/-- The RATE code of a lane (Table 11.1). -/
def laneRate (d : Device) (l : LaneId) : Nat :=
  match l with
  | .hl h => d.links[h].rate.toNat
  | .fl k => d.fabric.ports[portOfLane k].rate
  | .wl => 5

/-- The LINK code of a lane's training words (Table 11.4). -/
def linkCode (l : LaneId) : BitVec 2 :=
  match l with
  | .hl _ => 0
  | .fl _ => 1
  | .wl => 2

/-- A lane is up, in electrical idle or not. -/
def laneUp (s : Lane) : Bool := s.state == .up || s.state == .idle

/-- A lane that is enabled and waits for its next attempt (R275, R277). -/
def laneWaits (s : Lane) : Bool := (s.state == .training || s.state == .backoff) && s.phase.isNone

/-- A lane goes down and begins to train (R270, R273, R274). -/
def laneFalls (l : LaneId) (d : Device) : Device :=
  let was := d
  let d := linkFell l (modLane d l restartLane)
  noteReady was (if l == .wl then refreshPath d else d)

/-! Attempts (R275 to R278) -/

/-- A head adapter that cannot train at the lane's rate (R279). -/
def wrongRate (d : Device) (l : LaneId) : Bool :=
  match l with
  | .hl h => match d.adapters[h].facts with | some f => !f.ratesOk.getLsbD d.links[h].rate.toNat | none => false
  | _ => false

/-- A test that the partner asked for belongs to the attempt whose words carried it (R280). -/
def ownTest (s : Lane) : Option (Bool × Nat × Bool) := s.test.filter (fun t => t.2.2)

/-- The port of a powered head adapter that this unit's lane runs to, where it can train at the lane's rate (R279). -/
def adapterTrains (d : Device) (h : Head) : Bool :=
  match d.adapters[h].facts with | some f => (!unitB d || f.dual) && f.ratesOk.getLsbD d.links[h].rate.toNat | none => false

/-- The port of a powered head adapter at the other end of a lane changed. -/
def modFarPort (l : LaneId) (f : AdPort → AdPort) (d : Device) : Device :=
  match l with
  | .hl h => if d.adapters[h].facts.any (fun f => !unitB d || f.dual) then modAdapter d h (fun a => { a with ports := upd a.ports (if unitB d then 1 else 0) f }) else d
  | _ => d

/-- What a failed attempt makes of its link: the port of a fabric lane may run on its other lane (R282). -/
def linkFails (l : LaneId) (d : Device) : Device := match l with | .fl k => noteDegraded (portOfLane k) d | _ => d

/-- An attempt fails with a reason code of R277; the third raises EV_LANE_DOWN, once until the lane has been up, and the lane backs off. A head
adapter's attempt fails with it (R279). -/
def attemptFails (l : LaneId) (reason : Nat) (d : Device) : Device :=
  let r := if wrongRate d l then 3 else reason
  let s := getLane d l
  let d := linkFails l (modLane (modFarPort l (AdPort.fail d.chip.qtime) d) l (fun s => { s with
    phase := none, locked := false, gotWord := false, gotReady := 0, txUp := false, rxUp := false, test := ownTest s, reason := some r
    state := if 3 ≤ s.attempts then .backoff else .training }))
  if s.attempts < 3 then d
  else
    let d := abandonTest l d
    if s.raised then d else raise .laneDown [w32 (laneNum l), w32 r] (modLane d l (fun s => { s with raised := true }))

/-- An attempt starts in T1 with the configuration in force from here (Table 11.6), and a head adapter joins it at once (R278, R279); a lane
configured off is powered down instead (Table 11.5). -/
def startAttempt (l : LaneId) (d : Device) : Device :=
  let d := match l with
    | .fl k => if portUp d (portOfLane k) then d else applyPortCfg (portOfLane k) d
    | _ => d
  if (getLane d l).enable && linkEnabled d l then
    modFarPort l (fun q => if q.trying then { q with nextAt := some (d.chip.qtime + 40000000) } else q.begin d.chip.qtime 40000000) (modLane d l (fun s => { s with
      state := .training, phase := some .t1, attempts := s.attempts + 1, locked := false, gotWord := false, gotReady := 0, txReady := 0
      txUp := false, rxUp := false, test := ownTest s, inForce := ⟨s.preset, s.swing, s.txInv, s.rxInv⟩ }))
  else modLane (abandonTest l d) l (fun s => { s with state := .disabled, phase := none, test := none })

/-- LANE_ATTEMPT_START (R277): the 50 µs, 100 ms or 1 s have passed. -/
def execLaneAttemptStart (l : LaneId) (s : State) : Host.Outcome State Fault Refusal :=
  let d := s.dev
  if lanePower d l && laneWaits (getLane d l) then next s (startAttempt l d) else next s d

/-- PARTNER_T1_DETECTED (R278). -/
def execPartnerT1Detected (l : LaneId) (s : State) : Host.Outcome State Fault Refusal :=
  let d := s.dev
  if lanePower d l && laneWaits (getLane d l) then next s (startAttempt l d) else next s d

/-- TRAINING_PHASE_TIMEOUT (R275). -/
def execTrainingPhaseTimeout (l : LaneId) (s : State) : Host.Outcome State Fault Refusal :=
  let d := s.dev
  if lanePower d l && (getLane d l).phase.isSome then next s (attemptFails l 1 d) else next s d

/-- The receiver has locked: T1 ends. A signal more than ±200 ppm off the nominal rate fails the attempt (R266, R275). -/
def lockLane (l : LaneId) (ppm : Int) (d : Device) : Device :=
  if wrongRate d l then attemptFails l 3 d
  else if ppm.natAbs ≤ 200 then modLane d l (fun s => { s with locked := true, phase := some .t2 }) else attemptFails l 4 d

/-- CDR_LOCK (Table 11.3). -/
def execCdrLock (x : CdrLock) (s : State) : Host.Outcome State Fault Refusal :=
  let d := s.dev
  if lanePower d x.lane && (getLane d x.lane).phase == some .t1 then next s (lockLane x.lane x.ppm d) else next s d

/-- Bytes 0 to 11 of a training word (Table 11.4). -/
def trainBody (w : TrainWord) : List U8 :=
  [w.kind, BitVec.ofNat 8 (w.link.toNat + 4 * b2n w.ready + 8 * b2n w.test + 16 * w.rsv.1.toNat),
   BitVec.ofNat 8 (w.rate.toNat + 16 * w.rsv.2.1.toNat), w.lane]
    ++ leBytes 4 (w.seed.toNat + 2 ^ 23 * w.rsv.2.2.toNat) ++ leBytes 4 w.testMs.toNat

/-- The training word that this end sends (Table 11.4): READY once a valid word has come (R276), and TEST from the end that asked for a test
(R280). -/
def ownWord (d : Device) (l : LaneId) : TrainWord :=
  let s := getLane d l
  let ms := match s.test with | some (false, ms, true) => some ms | _ => none
  let w : TrainWord := {
    kind := 0xA5, link := linkCode l, ready := s.gotWord, test := ms.isSome, rate := BitVec.ofNat 4 (laneRate d l)
    lane := BitVec.ofNat 8 (laneNum l), seed := s.txSeed, testMs := w32 (ms.getD 0), crc := 0 }
  { w with crc := crc32c (trainBody w) }

/-- A SEED, which is not 0 (Table 11.4). -/
def laneSeed (v : U64) : BitVec 23 := if v.setWidth 23 = 0 then 1 else v.setWidth 23

/-- The training word of a head adapter (R279): LANE 0xFF and LINK 0, and its own SEED, which is free (log entry 9). -/
def adapterWord (d : Device) (l : LaneId) (seed : U64) (q : AdPort) : TrainWord :=
  let w : TrainWord := { kind := 0xA5, link := 0, ready := !q.words.isEmpty, test := false, rate := BitVec.ofNat 4 (laneRate d l), lane := 0xFF
                         seed := laneSeed seed, testMs := 0, crc := 0 }
  { w with crc := crc32c (trainBody w) }

/-- A training word sent, one for each word received (R276; log entry 63); a head adapter answers it with one of its own (R279). -/
def sendWord (l : LaneId) (d : Device) : Device :=
  let w := ownWord d l
  let d := modLane d l (fun s => { s with txWords := w :: s.txWords, txReady := if w.ready then s.txReady + 1 else s.txReady })
  match l with
  | .hl h =>
    let (v, d) := draw d
    if adapterTrains d h then modFarPort l (fun q => { q with words := adapterWord d l v q :: q.words }) d else d
  | _ => d

/-- The receiver has adapted: the setting found is stored, and the manual does not say which it is (log entry 9). T3 begins with a training
word; its SEED is free (R267, log entry 9). -/
def adaptLane (l : LaneId) (d : Device) : Device :=
  let q := Config.adaptedEqualiser d.chip.drawn
  let (v, d) := draw (draw d).2
  sendWord l (modLane d l (fun s => { s with phase := some .t3, equaliser := some q, txSeed := laneSeed v }))

/-- RECEIVER_ADAPTED (Table 11.3): T2 ends. -/
def execReceiverAdapted (l : LaneId) (s : State) : Host.Outcome State Fault Refusal :=
  let d := s.dev
  if !(lanePower d l && (getLane d l).phase == some .t2) then next s d
  else if wrongRate d l then next s (attemptFails l 3 d)
  else next s (adaptLane l d)

/-- A head's lane is up, and CRC_ERRORS of the adapter's port counts from here (Table 5.7): bring-up on a unit that does the work of its heads, else the head is LINKED (R124, R311, R327, R389). -/
def headRises (h : Head) (d : Device) : Device :=
  let d := modAdapter d h (fun a => { a with ports := upd a.ports (if unitB d then 1 else 0) (fun q => { q.rise with crcErrors := 0 }) })
  if d.links[h].state == .isolated then d
  else if active d || (d.red.role == .promoting && d.red.promo.isSome && d.red.promo != some .record) then startBring h d
  else modLink d h (fun l => { l with state := .linked })

/-- A fabric port has come up (R282, R289, R294): HELLO at once on every port, CREDIT_INIT after the HELLO whose UID its CRC folds (R284), and
EV_FABRIC_DEGRADED where it runs on one lane. -/
def portRises (p : Port) (d : Device) : Device :=
  let d := [0, 1, 2, 3].foldl (fun d (q : Port) => sendHello q d) d
  noteDegraded p (linkSend p (.creditInit d.fabric.ports[p].config.toList) d)

/-- What a link makes of a lane that has come up. -/
def linkRises (l : LaneId) (wasUp : Bool) (d : Device) : Device :=
  match l with
  | .hl h => headRises h d
  | .fl k => if wasUp then noteDegraded (portOfLane k) (holdLock k d) else portRises (portOfLane k) d
  | .wl => refreshPath d

/-- The port of a fabric lane is up already. -/
def portWasUp (d : Device) (l : LaneId) : Bool := match l with | .fl k => portUp d (portOfLane k) | _ => false

/-- Both directions are up (R276): EV_LANE_UP, and the attempt count restarts. -/
def laneRises (l : LaneId) (d : Device) : Device :=
  let was := portWasUp d l
  let d := modLane d l (fun s => { s with
    state := .up, phase := none, attempts := 0, raised := false, frozen := false, txIdle := false, rxIdle := false })
  linkRises l was (raise .laneUp [w32 (laneNum l)] d)

/-- The lane is up once both directions are (R276). -/
def joinDirections (l : LaneId) (d : Device) : Device :=
  if (getLane d l).txUp && (getLane d l).rxUp then laneRises l d else d

/-- This end has ended its training words (R276, R280): the peppercorn test that either end asked for begins, or 16 idle-fill cells are sent and the
transmit direction is up. -/
def endTraining (l : LaneId) (d : Device) : Device :=
  if (getLane d l).test.isSome then modLane d l (fun s => { s with state := .test, phase := none })
  else joinDirections l (modLane d l (fun s => { s with txUp := true, fill := s.fill + 16 }))

/-- The data bits that follow a training word's end delimiter: the receive direction is up (R276). -/
def endReceive (l : LaneId) (last : Bool) (d : Device) : Device :=
  if last && (getLane d l).phase == some .t3 then joinDirections l (modLane d l (fun s => { s with rxUp := true })) else d

/-- A training word is answered with one of this end's, until it has ended them (R276). -/
def answerWord (l : LaneId) (d : Device) : Device := if (getLane d l).txUp then d else sendWord l d

/-- A training word that has passed its CRC (R267, R275, R276, R280): T3 ends once two with READY 1 have come one after the other and two have
been sent. -/
def takeWord (l : LaneId) (w : TrainWord) (d : Device) : Device :=
  if w.kind != 0xA5 || w.seed == 0 then answerWord l d
  else if wrongRate d l then attemptFails l 3 d
  else if w.link != linkCode l then attemptFails l 2 d
  else if w.rate.toNat != laneRate d l then attemptFails l 3 d
  else
    let d := answerWord l (modLane d l (fun s => { s with
      seed := w.seed, gotWord := true, gotReady := if w.ready then s.gotReady + 1 else 0
      test := if w.test && s.test.isNone then some (false, w.testMs.toNat, false) else s.test }))
    if 2 ≤ (getLane d l).gotReady ∧ 2 ≤ (getLane d l).txReady ∧ !(getLane d l).txUp then endTraining l d else d

/-- TRAINING_WORD_RECEIVED (R276): one that fails its CRC is discarded and counted. `last` says that data bits, and not another start delimiter, follow
its end delimiter. -/
def execTrainingWordReceived (l : LaneId) (w : TrainWord) (last : Bool) (s : State) : Host.Outcome State Fault Refusal :=
  let d := s.dev
  if !lanePower d l || (getLane d l).phase != some .t3 then next s d
  else if w.crc != crc32c (trainBody w) then
    next s (noteReady d (endReceive l last (answerWord l (modDiag d (fun g => { g with laneTwcrc := upd g.laneTwcrc (lanePos l) (fun n => satAdd n 1) })))))
  else next s (noteReady d (endReceive l last (takeWord l w d)))

/-! The peppercorn pattern (R280) -/

/-- The next bit of the sequence x³¹ + x²⁸ + 1 after 31 bits, newest first. -/
def prbsNext (r : List Bool) : Bool := r.getD 30 false != r.getD 27 false

/-- The first n bits of the pattern: the LFSR starts with all ones, and its last stage is sent uninverted (R280). -/
def peppercorn (n : Nat) : List Bool :=
  ((List.range n).foldl (fun (x : List Bool × List Bool) _ => ((prbsNext x.1 :: x.1).take 31, x.1.getD 30 true :: x.2))
    (List.replicate 31 true, [])).2.reverse

/-- A checker of the pattern: the last 31 bits, newest first, the bits that have agreed, whether it is locked, the bits and errors counted, the numbers
of the bits in error among the last 10,000, and the losses of lock. -/
structure PrbsCheck where
  reg    : List Bool := []
  good   : Nat := 0
  locked : Bool := false
  bits   : Nat := 0
  errors : Nat := 0
  recent : List Nat := []
  losses : Nat := 0

/-- One bit received (R280): before lock the checker takes the bits in, and locks once 31 in a row agree with the sequence (log entry 89); locked, it
runs on by itself and counts, and after more than 1,000 errors in 10,000 bits it locks anew. -/
def PrbsCheck.take (c : PrbsCheck) (b : Bool) : PrbsCheck :=
  if !c.locked then
    let good := if c.reg.length == 31 && c.reg.any id && b == prbsNext c.reg then c.good + 1 else 0
    { c with reg := (b :: c.reg).take 31, good := good, locked := good == 31 }
  else
    let e := prbsNext c.reg
    let n := c.bits + 1
    let recent := (if b == e then [] else [n]) ++ c.recent.filter (fun k => decide (n < k + 10000))
    let c := { c with reg := (e :: c.reg).take 31, bits := n % 2 ^ 48, errors := (c.errors + (if b == e then 0 else 1)) % 2 ^ 48, recent := recent }
    if 1000 < recent.length then { c with reg := [], good := 0, locked := false, recent := [], losses := c.losses + 1 } else c

/-- The counts of the bits received in a test. -/
def prbsCheck (got : List Bool) : PrbsCheck := got.foldl PrbsCheck.take {}

/-- PEPPERCORN_TEST_END (R280, R281): the counts that the checker makes of the bits received answer lane.prbs, and the lane makes a new attempt. -/
def execPeppercornTestEnd (l : LaneId) (got : List Bool) (s : State) : Host.Outcome State Fault Refusal :=
  let d := s.dev
  if (getLane d l).state != .test then next s d
  else
    let c := prbsCheck got
    let rs := w64 c.bits ++ w64 c.errors ++ w64 c.losses
    next s (finishWork (· == .prbs l) { results := rs } (modLane d l restartLane))

/-! Signal and idle (R270 to R274) -/

/-- LOSS_OF_SIGNAL (R274): outside electrical idle the lane goes down; an attempt in progress fails. -/
def execLossOfSignal (l : LaneId) (s : State) : Host.Outcome State Fault Refusal :=
  let d := s.dev
  let x := getLane d l
  if !lanePower d l then next s d
  else if laneUp x && !x.rxIdle then next s (laneFalls l d)
  else if x.phase.isSome then next s (attemptFails l 0 d)
  else next s d

/-- Code errors counted on a lane, each in DIAG, and those of the last 100 µs kept (R270). -/
def countCodes (l : LaneId) (n : Nat) (d : Device) : Device :=
  let now := d.chip.qtime
  modLane (modDiag d (fun g => { g with laneCode := upd g.laneCode (lanePos l) (fun k => satAdd k n) })) l (fun s => { s with
    codeTimes := List.replicate n now ++ s.codeTimes.filter (fun t => decide (now < t + 400000)) })

/-- CODE_ERROR_BURST (R270): code errors of the five kinds at this instant; with more than 64 within 100 µs a lane that is up goes down; those
of training words count too. A cell that holds one is
discarded: no row brings it. In a peppercorn test they are test errors (Table 11.7). -/
def execCodeErrorBurst (l : LaneId) (errors : List CodeError) (s : State) : Host.Outcome State Fault Refusal :=
  let d := s.dev
  let up := laneUp (getLane d l)
  if lanePower d l && (up || (getLane d l).phase == some .t3) then
    let d := countCodes l errors.length d
    if up ∧ 64 < (getLane d l).codeTimes.length then next s (laneFalls l d) else next s d
  else next s d

/-- EQ_FREEZE (R271). -/
def execEqFreeze (l : LaneId) (s : State) : Host.Outcome State Fault Refusal :=
  let d := s.dev
  if lanePower d l && laneUp (getLane d l) then next s (modLane d l (fun s => { s with frozen := true })) else next s d

/-- EQ_RESUME (R271). -/
def execEqResume (l : LaneId) (s : State) : Host.Outcome State Fault Refusal :=
  let d := s.dev
  if lanePower d l && laneUp (getLane d l) then next s (modLane d l (fun s => { s with frozen := false })) else next s d

/-- No cell or frame waits or is in transmission on a lane (R272). -/
def laneEmpty (d : Device) (l : LaneId) : Bool :=
  match l with
  | .hl h => txIdleNow (advanceTx h (txNow d) d.links[h])
  | .fl k =>
    let q := (advancePorts d).fabric.ports[portOfLane k]
    framesLeft q == 0 && laneQuiet q.out.lanes[(⟨k.val % 2, by omega⟩ : Fin 2)]
  | .wl => d.red.waiting.isEmpty

/-- No cell is queued; a head lane whose head belongs to a plane of a job never enters electrical idle (R272). -/
def mayIdle (d : Device) (l : LaneId) : Bool := laneEmpty d l && (match l with | .hl h => !headInJob d h | _ => true)

/-- ELECTRICAL_IDLE_ENTRY (R272): no cell queued for IDLE_TIME. -/
def execElectricalIdleEntry (l : LaneId) (s : State) : Host.Outcome State Fault Refusal :=
  let d := s.dev
  let x := getLane d l
  if lanePower d l && laneUp x && x.idleTime != 0 && mayIdle d l then
    next s (modLane d l (fun s => { s with state := .idle, txIdle := true }))
  else next s d

/-- ELECTRICAL_IDLE_NOTICE (R272). -/
def execElectricalIdleNotice (l : LaneId) (s : State) : Host.Outcome State Fault Refusal :=
  let d := s.dev
  if lanePower d l && laneUp (getLane d l) then next s (modLane d l (fun s => { s with state := .idle, rxIdle := true })) else next s d

/-- WAKE_BURST_TIMER (R273): a burst and the notice. -/
def execWakeBurstTimer (l : LaneId) (s : State) : Host.Outcome State Fault Refusal :=
  let d := s.dev
  if lanePower d l && laneUp (getLane d l) && (getLane d l).txIdle then next s (modLane d l (fun s => { s with bursts := s.bursts + 1 }))
  else next s d

/-- WAKE_BURST_MISSING (R273): no burst for 6 ms is loss of signal. -/
def execWakeBurstMissing (l : LaneId) (s : State) : Host.Outcome State Fault Refusal :=
  let d := s.dev
  if lanePower d l && laneUp (getLane d l) && (getLane d l).rxIdle then next s (laneFalls l d) else next s d

/-! Commands (Table 11.6) -/

/-- The LANE argument, or the answer to one that is missing or fused off. -/
def laneArg (v : Nat) (d : Device) (f : LaneId → Done) : Done :=
  match laneOf v with
  | none => no d .badArgument .field
  | some l => if hasLane d l then f l else no d .badArgument

/-- lane.config (Table 11.5): IDLE_TIME applies at once, the rest at the next attempt; a lane that is enabled begins to train. -/
def execLaneConfig (c : Cmd) (s : State) : Host.Outcome State Fault Refusal :=
  mervan { opcode := 0x0910, args := [.any, .flag, .num 0 7, .num 0 3, .flag, .flag, .num 0 10000] }
    (fun _ a d =>
      if argN a 6 ≠ 0 ∧ argN a 6 < 10 then no d .badArgument .field
      else laneArg (argN a 0) d (fun l =>
        let d := modLane d l (fun s => { s with
          enable := argB a 1, preset := argN a 2, swing := argN a 3, txInv := argB a 4, rxInv := argB a 5, idleTime := argN a 6 })
        let d := if (getLane d l).state == .disabled && argB a 1 && linkEnabled d l && lanePower d l && (match l with | .hl _ => headLanesMay d | _ => true) then modLane d l restartLane else d
        done d)) c s

/-- Number of a lane state (Table 11.6). -/
def laneStateNum : LaneState → Nat
  | .up => 0
  | .training => 1
  | .backoff => 2
  | .idle => 3
  | .disabled => 4
  | .test => 5

/-- lane.status (Table 11.6): state, rate, attempts, reason of the last failure (0xFF none), code errors, frozen flag, equaliser setting. -/
def execLaneStatus (c : Cmd) (s : State) : Host.Outcome State Fault Refusal :=
  mervan { opcode := 0x0911, args := [.any], results := fun _ => 8 }
    (fun _ a d => laneArg (argN a 0) d (fun l =>
      let x := getLane d l
      ok d (put64 [w32 (laneStateNum x.state), w32 (laneRate d l), w32 x.attempts, w32 (x.reason.getD 0xFF)]
        d.vlog.diag.laneCode[lanePos l].toNat ++ [w32 (b2n x.frozen), x.equaliser.getD 0]))) c s

/-- lane.retrain (Table 11.6): a test in progress ends with it (log entry 63). -/
def execLaneRetrain (c : Cmd) (s : State) : Host.Outcome State Fault Refusal :=
  mervan { opcode := 0x0912, args := [.any] }
    (fun _ a d => laneArg (argN a 0) d (fun l =>
      let e := retrainLane l d
      ok (noteReady d (if l == .wl then refreshPath e else e)))) c s

/-- lane.prbs (R281): DEFERRED while a job is RUNNING or SCHEDULED, and at throttle level 1 or more. -/
def execLanePrbs (c : Cmd) (s : State) : Host.Outcome State Fault Refusal :=
  mervan { opcode := 0x0913, slow := true, args := [.any, .flag, .any], results := fun _ => 6 }
    (fun _ a d => laneArg (argN a 0) d (fun l =>
      let x := getLane d l
      if x.state == .disabled || !lanePower d l then no d .badArgument
      else if x.test.isSome || x.deferred.isSome then no d .busyState
      else if jobRunning d || jobScheduled d || d.therm.level != 0 then
        .reply { status := .deferred } (modLane d l (fun s => { s with deferred := some (argB a 1, argN a 2) }))
      else
        let e := startTest l (argB a 1) (argN a 2) d
        .later (.prbs l) (noteReady d (if l == .wl then refreshPath e else e)))) c s

end Sys2Proof.Machine
end

