-- ==== Sys2Proof/Machine/System.lean ====
section
/-! DEFINITION. The system commands of Table 14.12, the forager engine (R357) and the Stolzar commands (Table 14.14). -/
namespace Sys2Proof.Machine

/-! sys.nop, sys.identify, sys.ring, sys.config -/

/-- sys.nop (Table 14.12). -/
def execSysNop (c : Cmd) (s : State) : Host.Outcome State Fault Refusal :=
  mervan { opcode := 0x0000 } (fun _ _ d => ok d) c s

/-- The results of sys.identify (Table 14.12, R433); the boot count is a counter, two words. -/
def identifyWords (d : Device) : List U32 :=
  put64 (w64 d.chip.uid.toNat
    ++ [w32 (idPart d % 65536), w32 (idPart d / 65536 % 256), w32 0xB0, d.nv.version, w32 (b2n d.nv.slot),
        w32 (b2n d.chip.modeSz), w32 d.fabric.node.toNat,
        w32 (b2n (d.pos.role == .master) + 2 * b2n (d.pos.role == .deputy) + 4 * b2n d.mbx.measuring + 8 * b2n d.mbx.hostEvents)])
    d.nv.bootCount.toNat

/-- sys.identify (Table 14.12). -/
def execSysIdentify (c : Cmd) (s : State) : Host.Outcome State Fault Refusal :=
  mervan { opcode := 0x0001 } (fun _ _ d => ok d (identifyWords d)) c s

/-- The largest power of two not above 24,576 ÷ SLOT_SIZE (Table 14.1). -/
def sramSlots (slotSize : Nat) : Nat :=
  if slotSize = 256 then 64 else if slotSize = 512 then 32 else if slotSize = 1024 then 16 else 8

/-- A power of two up to 65,536. -/
def isPow2 (n : Nat) : Bool := (List.range 17).any (fun k => n == 2 ^ k)

/-- Whether the fields of sys.ring keep Table 14.1. -/
def ringOk (a : List Int) : Bool :=
  let loc := argB a 0
  let size := argN a 1
  let slots := argN a 2
  let credits := argN a 3
  decide (credits ≤ slots) && isPow2 slots
    && (if loc then
          argN a 4 % 4096 == 0 && argN a 5 % 4096 == 0 && argN a 6 % 4096 == 0 && argN a 8 % 64 == 0
            && isPow2 (argN a 7) && decide (64 ≤ argN a 7 ∧ argN a 7 ≤ 65536)
        else decide (size ≤ 2048) && slots == sramSlots size)

/-- The rings of an accepted sys.ring: empty, every index at 0 (R338). -/
def newRings (a : List Int) (d : Device) : Device :=
  modMbx d (fun m => { m with
    location := argB a 0, slotSize := argN a 1, slots := argN a 2, credits := argN a 3,
    cmdBase := BitVec.ofNat 64 (argN a 4), rspBase := BitVec.ofNat 64 (argN a 5), evtBase := BitVec.ofNat 64 (argN a 6),
    evtSlots := if argB a 0 then argN a 7 else 256, indexBase := BitVec.ofNat 64 (argN a 8), eventScope := argB a 9,
    cmdTail := 0, cmdHead := 0, rspTail := 0, rspHead := 0, evtTail := 0, evtHead := 0 })

/-- sys.ring (R338): BUSY_STATE while another command is in flight; its response goes to the old ring, and the new rings start
empty. -/
def execSysRing (c : Cmd) (s : State) : Host.Outcome State Fault Refusal :=
  mervan
    { opcode := 0x0002
      args := [.flag, .one [256, 512, 1024, 2048, 4096], .num 8 4096, .num 1 64, .addr, .addr, .addr, .num 0 65536, .addr, .flag] }
    (fun _ a d =>
      if !ringOk a then no d .badArgument .field
      else if inFlightCount d != 0 then no d .busyState
      else .after {} d (newRings a)) c s

/-- sys.config (Table 14.12). -/
def execSysConfig (c : Cmd) (s : State) : Host.Outcome State Fault Refusal :=
  mervan
    { opcode := 0x0003, dram := true
      args := [.wide 0 (2 ^ 64 - 1) 4096, .wide 0 (2 ^ 64 - 1) 4096, .wide 0 (2 ^ 64 - 1) (2 ^ 28)]
      ranges := fun a => [(argN a 0, argN a 1, false), (argN a 2, 2 ^ 28, false)] }
    (fun _ a d =>
      let change := argN a 0 != d.mbx.storeBase || argN a 1 != d.mbx.storeSize
      if change && (jobStaged d || jobRunning d) then no d .busyState
      else done (modMbx d (fun m => { m with storeBase := argN a 0, storeSize := argN a 1, bar2Base := argN a 2 }))) c s

/-! sys.result, sys.latched_read, sys.violation_read, sys.violation_clear, sys.partner_release -/

/-- sys.result (R346). -/
def execSysResult (c : Cmd) (s : State) : Host.Outcome State Fault Refusal :=
  mervan { opcode := 0x0004, args := [.any] }
    (fun c a d =>
      let seq := w32 (argN a 0)
      if seq = c.seq ∨ d.mbx.inFlight.any (fun e => keyOf e.origin == keyOf c.origin && e.seq == seq) then
        no d .busyState .inProgress
      else
        match d.mbx.remembered.find? (fun m => m.key == keyOf c.origin && m.seq == seq) with
        | none => no d .badArgument .unknownSeq
        | some m =>
          .reply { reason := if 512 < m.resp.length then .truncated else .none,
                   results := bytesWords ((m.resp.bytes (uidOf d c.origin)).take 512) } d) c s

/-- A section header of a latched set (Table 1.9). -/
def sectionHead (id entries size : Nat) : List U8 := leBytes 2 id ++ leBytes 2 entries ++ leBytes 2 size ++ [0, 0]

/-- Counters as 8 bytes each. -/
def counters (l : List U64) : List U8 := l.flatMap (fun v => leBytes 8 v.toNat)

/-- The record of a latched set: header of Table 1.8 and the sections of Table 1.9, 8,744 bytes (R24). -/
def latchedBytes (k : Nat) (l : LatchedSet) : List U8 :=
  let v := l.live
  [BitVec.ofNat 8 k, BitVec.ofNat 8 (b2n v.broken)] ++ leBytes 2 5 ++ leBytes 4 l.overrun.toNat ++ leBytes 4 v.number.toNat
    ++ leBytes 4 l.setId.toNat ++ leBytes 8 v.wposOpen.toNat ++ leBytes 8 l.wposClose.toNat ++ leBytes 8 v.ftimeOpen.toNat
    ++ leBytes 8 l.ftimeClose.toNat ++ leBytes 4 8744 ++ leBytes 4 l.jobId.toNat ++ List.replicate 8 0
    ++ sectionHead 1 40 120
    ++ (List.range 40).flatMap (fun h =>
        let e := v.heads.getD h {}
        counters ([e.scheduled, e.fired] ++ e.skipped.toList ++ [l.pendings.getD h 0]))
    ++ sectionHead 2 40 56
    ++ (List.range 40).flatMap (fun h =>
        let e := v.heads.getD h {}
        counters [e.screened, e.combClamp, e.loopClamp, e.subClamp, e.subDropped, e.handoff, e.edClamp])
    ++ sectionHead 3 8 8 ++ counters v.tiles.toList
    ++ sectionHead 4 8 176
    ++ (List.range 8).flatMap (fun k =>
        let e := v.node.getD k {}
        counters ([e.used] ++ e.excluded.toList ++ [e.updated] ++ e.frozen.toList
          ++ [e.corrClamp, e.trimClamp, e.solveOverrun, e.stripSkipped]))
    ++ sectionHead 5 8 16
    ++ (List.range 8).flatMap (fun k => counters [v.discarded.getD k 0, v.applied.getD k 0])

/-- A latched set of kind k, the older or the newest, is marked as read (R23, R24). -/
def markRead (k : Fin 3) (old : Bool) (d : Device) : Device :=
  let seen : Option LatchedSet → Option LatchedSet := fun l => l.map (fun l => { l with read := true })
  { d with acct := if old then { d.acct with older := upd d.acct.older k seen } else { d.acct with newest := upd d.acct.newest k seen } }

/-- sys.latched_read (R24): the set is copied and marked as read. -/
def execSysLatchedRead (c : Cmd) (s : State) : Host.Outcome State Fault Refusal :=
  mervan
    { opcode := 0x0005, dram := true, args := [.num 0 2, .flag, .addr], ranges := fun a => [(argN a 2, 8744, false)]
      results := fun _ => 1 }
    (fun _ a d =>
      let k : Fin 3 := finOf 3 (argN a 0)
      match (if argB a 1 then d.acct.older[k] else d.acct.newest[k]) with
      | none => no d .refused .notLatched
      | some l => ok (markRead k (argB a 1) (dramWrite 8 (argN a 2) (latchedBytes k.val l) d)) [8744]) c s

/-- A violation log entry as bytes (Table 1.3). -/
def ventryBytes (e : VEntry) : List U8 :=
  [e.code, BitVec.ofNat 8 (e.block.toNat + 32 * e.answer.toNat + 128 * b2n e.isolated)] ++ leBytes 2 e.source.toNat
    ++ leBytes 4 e.repeats.toNat ++ leBytes 8 e.wpos.toNat ++ leBytes 8 e.first.toNat ++ leBytes 8 e.last.toNat

/-- Insertion by ascending FTIME_FIRST. -/
def insertByFirst (e : VEntry) : List VEntry → List VEntry
  | [] => [e]
  | x :: l => if x.first ≤ e.first then x :: insertByFirst e l else e :: x :: l

/-- sys.violation_read (Table 14.12). -/
def execSysViolationRead (c : Cmd) (s : State) : Host.Outcome State Fault Refusal :=
  mervan
    { opcode := 0x0006, dram := true, args := [.addr, .any, .any], ranges := fun a => [(argN a 0, 32 * argN a 2, false)]
      results := fun _ => 4 }
    (fun _ a d =>
      let l := ((d.vlog.entries.foldl (fun l e => insertByFirst e l) []).drop (argN a 1)).take (argN a 2)
      ok (dramWrite 8 (argN a 0) (l.flatMap ventryBytes) d)
        (put64 [w32 l.length, d.vlog.gen] d.vlog.diag.violLost.toNat)) c s

/-- sys.violation_clear (R25, Table 14.12). -/
def execSysViolationClear (c : Cmd) (s : State) : Host.Outcome State Fault Refusal :=
  mervan { opcode := 0x0007, args := [.any] }
    (fun _ a d =>
      if argN a 0 ≠ 0 ∧ argN a 0 ≠ d.vlog.gen.toNat then no d .busyState .logChanged
      else ok { d with vlog := { d.vlog with entries := [] } }) c s

/-- The lane of a BLOCK and SOURCE that name one (Table 1.4). -/
def sourceLane (b : BitVec 5) (src : U16) : Option LaneId :=
  if b = 1 then laneOf src.toNat
  else if b = 2 then (if src.toNat < 8 then laneOf (64 + src.toNat) else none)
  else if b = 3 then some .wl else none

/-- A partner is isolated no longer, in the log and out of it (R29). -/
def freePartner (b : BitVec 5) (src : U16) (d : Device) : Device :=
  { d with vlog := { d.vlog with
    isolated := d.vlog.isolated.filter (fun x => x != (b, src))
    entries := d.vlog.entries.map (fun e => if e.block == b && e.source == src && e.isolated then
      { e with isolated := false, repeats := 0 } else e) } }

/-- The partner released (R29): not isolated any more, the entry's REPEATS from zero, its link retrained. -/
def releasePartner (b : BitVec 5) (src : U16) (d : Device) : Device :=
  let d := freePartner b src d
  match sourceLane b src with
  | some (.hl h) => retrainLane (.hl h) (modLink d h (fun l => if l.state == .isolated then { l with state := .down } else l))
  | some (.fl k) => retrainLane (laneB (portOfLane k)) (retrainLane (laneA (portOfLane k)) d)
  | some .wl => retrainLane .wl d
  | none => d

/-- sys.partner_release (R29). -/
def execSysPartnerRelease (c : Cmd) (s : State) : Host.Outcome State Fault Refusal :=
  mervan { opcode := 0x0008, args := [.num 0 31, .num 0 65535] }
    (fun _ a d =>
      let b : BitVec 5 := BitVec.ofNat 5 (argN a 0)
      let src : U16 := BitVec.ofNat 16 (argN a 1)
      if d.vlog.isolated.contains (b, src) then ok (releasePartner b src d) else no d .badArgument .notIsolated) c s

/-! sys.roles, sys.presence, sys.reseal -/

/-- sys.roles (R351): a change of MEASURING waits for no colour to be enabled; the change is announced. -/
def execSysRoles (c : Cmd) (s : State) : Host.Outcome State Fault Refusal :=
  mervan { opcode := 0x0009, args := [.flag, .flag] }
    (fun _ a d =>
      if argB a 0 != d.mbx.measuring && d.loop.colours.toList.any (·.enabled) then no d .busyState
      else
        let changed := argB a 0 != d.mbx.measuring || argB a 1 != d.mbx.hostEvents
        let d := modMbx d (fun m => { m with measuring := argB a 0, hostEvents := argB a 1 })
        ok (if changed then sendRoles d else d)) c s

/-- sys.presence (R354): CLOSE 1 closes the window. -/
def execSysPresence (c : Cmd) (s : State) : Host.Outcome State Fault Refusal :=
  mervan { opcode := 0x000A, args := [.flag], results := fun _ => 4 }
    (fun _ a d =>
      let d := if argB a 0 then closeWindow d else d
      ok d [w32 (b2n d.prs.window), w32 (secondsLeft d), w32 (b2n d.prs.loopOpen), w32 (b2n d.prs.latch)]) c s

/-- sys.reseal (R355): clears the latch in the journal and raises EV_SEAL_RESTORED; it answers once the record is committed. -/
def execSysReseal (c : Cmd) (s : State) : Host.Outcome State Fault Refusal :=
  mervan { opcode := 0x000B, gated := true, slow := true }
    (fun _ _ d =>
      if flashHeld d then no d .refused .padsHeld
      else
        .later .flash (journalAppend 6 0 [0] true (raise .sealRestored [] { d with prs := { d.prs with latch := false } }))) c s

/-! sys.fw_update, sys.nv_erase, sys.peek, sys.nv_status, sys.nv_set -/

/-- The image file at an address: header of Table 17.2 and the bytes after it. -/
def imageAt (d : Device) (a n : Nat) : FwImage :=
  let b := dramRead d a n
  { magic := w32 (leAt b 0 4), imageSeq := w32 (leAt b 4 4), version := w32 (leAt b 8 4), svn := leAt b 12 4,
    length := leAt b 16 4, stepping := BitVec.ofNat 8 (byteAt b 20), bytes := b }

/-- IMAGE_SEQ of the running image. -/
def runningSeq (d : Device) : U32 :=
  match d.nv.fw[b2n d.nv.slot]'(by cases d.nv.slot <;> decide) with | some i => i.imageSeq | none => 0

/-- sys.fw_update (R393): the image is programmed into the slot not booted from, with IMAGE_SEQ one more than the running image's;
the answer comes once it is verified (FLASH_PROGRAM_DONE). -/
def execSysFwUpdate (c : Cmd) (s : State) : Host.Outcome State Fault Refusal :=
  mervan
    { opcode := 0x000C, reads := true, gated := true, slow := true, dram := true, args := [.addr, .num 513 4194304]
      ranges := fun a => [(argN a 0, argN a 1, false)] }
    (fun _ a d =>
      match poisonIn d (argN a 0) (argN a 1) with
      | some g => poisoned g d
      | none =>
        let img := imageAt d (argN a 0) (argN a 1)
        if flashHeld d then no d .refused .padsHeld
        else if img.svn < d.chip.minSvn then no d .badArgument .svn
        else
          .later .fwUpdate { d with nv := { d.nv with
            programs := d.nv.programs ++ [.firmware { img with imageSeq := runningSeq d + 1 }] } }) c s

/-- sys.nv_erase (R398): both journal slots, with SCOPE 1 the checkpoint slots too; REFUSED while a job is RUNNING or SCHEDULED. -/
def execSysNvErase (c : Cmd) (s : State) : Host.Outcome State Fault Refusal :=
  mervan { opcode := 0x000D, gated := true, slow := true, args := [.flag] }
    (fun _ a d =>
      if jobRunning d || jobScheduled d then no d .refused .jobActive
      else if flashHeld d then no d .refused .padsHeld
      else
        .later .erase { d with nv := { d.nv with cmdErases := d.nv.cmdErases ++ (if argB a 0 then [(0, false), (1, false), (2, false), (3, true)] else [(0, false), (1, true)]) } }) c s

/-- sys.peek (Table 14.12): the bytes at a device DRAM address. -/
def execSysPeek (c : Cmd) (s : State) : Host.Outcome State Fault Refusal :=
  mervan
    { opcode := 0x000E, reads := true, dram := true, args := [.addr, .mul 4 1984 4], ranges := fun a => [(argN a 0, argN a 1, false)]
      results := fun a => argN a 1 / 4 }
    (fun _ a d =>
      match poisonIn d (argN a 0) (argN a 1) with
      | some g => poisoned g d
      | none => ok d (bytesWords (dramRead d (argN a 0) (argN a 1)))) c s

/-- A journal record as bytes (Table 17.5). -/
def recordBytes (r : JRec) : List U8 :=
  let h := [BitVec.ofNat 8 r.key, BitVec.ofNat 8 r.index] ++ leBytes 2 r.body.length ++ leBytes 4 r.rseq.toNat ++ r.body
  padTo ((h.length + 3) / 4 * 4) h ++ leBytes 4 (crc32c h).toNat ++ leBytes 4 (if r.committed then 0 else 0xFFFFFFFF)

/-- The holding records of the current slot: for each key and index the committed one of the highest RSEQ, not of LENGTH 0 (R395). -/
def holdingRecords (s : JSlot) : List JRec :=
  s.records.filter (fun r => r.committed && !r.body.isEmpty
    && s.records.all (fun x => !(x.committed && x.key == r.key && x.index == r.index && decide (r.rseq < x.rseq))))

/-- FIRED_ROWS of a head's latest REPORT (Table 5.7: bytes 16 to 21 of the cell). -/
def reportRows (d : Device) (h : Head) : Option Nat := d.links[h].report.map (fun c => leAt c.payload 4 6)

/-- Rows fired in the gap per head (R402): none, UNKNOWN, where the adapter's FIRED_ROWS lies below the checkpointed value, or no REPORT has come yet
(log entry 101). -/
def gapRows (d : Device) (h : Head) : Option Nat :=
  match d.nv.gap with
  | none => some 0
  | some g =>
    match reportRows d h with
    | none => none
    | some n => if n < g.2.getD h.val 0 then none else some (n - g.2.getD h.val 0)

/-- The words of a slot's image: VERSION and SVN, zeros for an empty slot. -/
def imageWords (i : Option FwImage) : List U32 := (i.map (fun i => [i.version, w32 i.svn])).getD [0, 0]

/-- The records of the journal's current slot that sys.nv_status reports. -/
def nvRecords (d : Device) : List JRec := (d.nv.journal[d.nv.cur].map holdingRecords).getD []

/-- What sys.nv_status copies to DEST: the holding records, then the last gap report's rows per head, all ones for a head without one. -/
def nvBody (d : Device) : List U8 :=
  (nvRecords d).flatMap recordBytes
    ++ (List.range 40).flatMap (fun h => ((gapRows d (finOf 40 h)).map (leBytes 8)).getD (List.replicate 8 0xFF))

/-- The results of sys.nv_status (Table 17.8), and the torn records, which EV_BOOTED has no room for (R388, R428). -/
def nvWords (d : Device) : List U32 :=
  let slot := d.nv.journal[d.nv.cur]
  let newest := d.nv.newest.bind (fun k => d.nv.checkpoints[k].map (·.1))
  put64 (put64 [w32 d.nv.cur.val, (slot.map (·.seq)).getD 0, (slot.map (fun s => w32 (524288 - s.used))).getD 0, w32 (nvRecords d).length,
      d.red.epoch] d.nv.epochs.length) ((newest.map (·.ftime.toNat)).getD 0) ++ [(newest.map (·.job)).getD 0]
    ++ gapTime ((d.nv.gap.map (·.1)).getD 0) ++ imageWords d.nv.fw[0] ++ imageWords d.nv.fw[1] ++ [w32 d.chip.minSvn, w32 d.nv.torn]

/-- sys.nv_status (Table 17.8): scalars as results; the holding records and the last gap report's rows per head are copied to DEST
(log entry 26). -/
def execSysNvStatus (c : Cmd) (s : State) : Host.Outcome State Fault Refusal :=
  mervan { opcode := 0x000F, dram := true, args := [.addr], results := fun _ => 19 }
    (fun _ a d =>
      if !inDram d (argN a 0) (nvBody d).length then no d .badArgument .address
      else ok (dramWrite 8 (argN a 0) (nvBody d) d) (nvWords d)) c s

/-- sys.nv_set (R245, R401): DRAM_CAP or CHECKPOINT_S, OK once committed. -/
def execSysNvSet (c : Cmd) (s : State) : Host.Outcome State Fault Refusal :=
  mervan { opcode := 0x0012, slow := true, args := [.one [5, 7], .any] }
    (fun _ a d =>
      if argN a 0 = 7 ∧ ¬(60 ≤ argN a 1 ∧ argN a 1 ≤ 3600) then no d .badArgument .field
      else if flashHeld d then no d .refused .padsHeld
      else .later .flash (journalAppend (argN a 0) 0 (leBytes 4 (argN a 1)) true d)) c s

/-! The forager engine (R357) -/

/-- A forager descriptor: HOST_ADDR, DEV_ADDR, LEN, DIR and whether its reserved bytes are 0. -/
def foragerDesc (b : List U8) (k : Nat) : Nat × Nat × Nat × Bool × Bool :=
  let e := (b.drop (32 * k)).take 32
  (leAt e 0 8, leAt e 8 8, leAt e 16 4, bitOf (byteAt e 20) 0,
    byteAt e 20 / 2 == 0 && (e.drop 21).all (· == 0) && e.length == 32)

/-- forager.copy (R357): DESC_ADDR, COUNT, NODE; the descriptors as the reads of host memory at DESC_ADDR give them, fewer than COUNT where such a
read fails, which is that of the first one missing. The list is executed in its order. -/
def execForagerCopy (c : Cmd) (descs : List U8) (s : State) : Host.Outcome State Fault Refusal :=
  let n := descs.length / 32
  let ds := (List.range n).map (fun k => foragerDesc descs k)
  mervan
    { opcode := 0x0010, slow := true, dram := true, args := [.addr, .any, .num 0 254]
      ranges := fun a => if argN a 2 = 0 then (ds.take (argN a 1)).map (fun x => (x.2.1, x.2.2.1, false)) else [] }
    (fun c a d =>
      let ds := ds.take (argN a 1)
      if n < argN a 1 then
        .reply { status := .refused, reason := .hostRead, detail := w32 n, results := [1] }
          (modMbx d (fun m => { m with foragerErrors := m.foragerErrors + 1 }))
      else if ds.any (fun x => decide (x.2.2.1 < 1 ∨ 2 ^ 31 < x.2.2.1)) then no d .badArgument .field
      else if ds.any (fun x => !x.2.2.2.2) then no d .badArgument
      else if argN a 2 ≠ 0 ∧ ds.any (fun x => x.2.2.2.1) then no d .badArgument .field
      else
        let todo := ds.zipIdx.flatMap (fun e => cutCopy e.2 e.1.2.2.2.1 (e.1.2.2.1 / 512 + 1) e.1.1 e.1.2.1 e.1.2.2.1)
        let j : ForagerJob := { key := keyOf c.origin, seq := c.seq, node := BitVec.ofNat 8 (argN a 2), todo := todo, fail := none
                                freed := 0, moved := 0, lost := false }
        if ds.all (fun x => x.2.2.2.1) ∧ (argN a 2 = 0 ∨ ds.isEmpty) then
          match postAll todo d with
          | (none, d) => ok d (w64 ((ds.map (fun x => x.2.2.1)).sum))
          | (some g, d) => poisoned g d
        else startForager j d) c s

/-- Data of a forager read is written to DRAM, or sent as a job data write to the target node (R357). -/
def foragerWrite (r : ForagerRead) (j : ForagerJob) (b : List U8) (d : Device) : Device :=
  if j.node = 0 then dramWrite 2 r.dest (padTo r.len (b.take r.len)) d
  else (sendTo .bulk false j.node 0x0050 (leBytes 8 r.dest ++ padTo r.len (b.take r.len)) d).2

/-- The counts of a forager command after one of its reads. -/
def foragerStep (r : ForagerRead) (data : Option (List U8)) (j : ForagerJob) : ForagerJob :=
  match data with
  | some _ => { j with moved := j.moved + r.len }
  | none => { j with fail := some (j.fail.getD r.desc), freed := j.freed + 1 }

/-- The data and the counters after a forager read. -/
def foragerTake (r : ForagerRead) (j : ForagerJob) (data : Option (List U8)) (d : Device) : Device :=
  match data with
  | some b => modMbx (foragerWrite r j b d) (fun m => { m with foragerBytes := m.foragerBytes + BitVec.ofNat 64 r.len })
  | none => modMbx d (fun m => { m with foragerErrors := m.foragerErrors + 1 })

/-- A host read of the forager engine ends (R357): its data is written to DRAM, or sent as a job data write to the target node, and
its buffer freed; an error frees the buffer and stops the command's issuing. -/
def execForagerReadDone (buffer : Fin 64) (data : Option (List U8)) (s : State) : Host.Outcome State Fault Refusal :=
  let d := s.dev
  match d.mbx.buffers.find? (fun r => r.buffer == buffer) with
  | none => next s d
  | some r =>
    let d := modMbx d (fun m => { m with buffers := m.buffers.erase r })
    match d.mbx.fjobs.find? (fun j => readOf j r) with
    | none => next s d
    | some j =>
      let j' := foragerStep r data j
      let d := issueAll (modMbx (foragerTake r j data d) (fun m => { m with fjobs := m.fjobs.map (fun x => if x == j then j' else x) }))
      next s (match d.mbx.fjobs.find? (fun x => x.seq == j.seq && x.key == j.key) with | some x => endForager x d | none => d)

/-- forager.status (Table 14.12). -/
def execForagerStatus (c : Cmd) (s : State) : Host.Outcome State Fault Refusal :=
  mervan { opcode := 0x0011, results := fun _ => 6 }
    (fun _ _ d => ok d (put64 (put64 [w32 d.mbx.buffers.length, w32 d.mbx.buffers.length] d.mbx.foragerBytes.toNat)
      d.mbx.foragerErrors.toNat)) c s

/-! Stolzar mode (R358, R359) -/

/-- sz.status (Table 14.14): the emulation state is not stated and is a free value (log entry 9). -/
def execSzStatus (c : Cmd) (s : State) : Host.Outcome State Fault Refusal :=
  mervan { opcode := 0x0F00, results := fun _ => 86 }
    (fun _ _ d =>
      let (v, d') := draw d
      ok d' ((List.range 40).foldl (fun ws h => put64 ws (d.acct.live[2].heads.getD h {}).fired.toNat)
        (put64 (put64 [w32 v.toNat] d.sz.accesses.toNat) d.sz.ignored.toNat))) c s

/-- sz.map (Table 14.14): SZ6 head slot k to head Hn, in the heads that Stolzar mode drives (R359). -/
def execSzMap (c : Cmd) (s : State) : Host.Outcome State Fault Refusal :=
  mervan { opcode := 0x0F01, args := List.replicate 16 (.num 0 15) }
    (fun _ a d =>
      if jobRunning d then no d .busyState
      else ok { d with sz := { d.sz with slotHead := Vector.ofFn (fun k => argN a k.val) } }) c s

/-- An access to the SZ6 register window (R358): counted; a register that is not supported reads 0, and a write to it is ignored and counted (Table
14.13). What a supported register does, and what it reads as, is the SZ6's, not this manual's: a value written is kept, and one read is free (log
entry 9). -/
def execSz6WindowAccess (offset : U16) (write : Option U32) (supported : Bool) (s : State) : Host.Outcome State Fault Refusal :=
  let d := s.dev
  if alive d && d.chip.modeSz && d.chip.pcieUp then
    let d := { d with sz := { d.sz with accesses := d.sz.accesses + 1 } }
    match write with
    | none =>
      let (v, d) := if supported then draw d else (0, d)
      next s { d with chip := { d.chip with completions := (leBytes 4 v.toNat, false) :: d.chip.completions } }
    | some v =>
      if supported then
        next s { d with sz := { d.sz with regs := (offset.toNat, v) :: d.sz.regs.filter (fun r => r.1 != offset.toNat) } }
      else next s { d with sz := { d.sz with ignored := d.sz.ignored + 1 } }
  else next s d

end Sys2Proof.Machine
end

