-- ==== Sys2Proof/Machine/Thermal.lean ====
section
/-! DEFINITION. The thermal guard (chapter 16). Temperatures are in 1/16 °C, as the THM registers give them (R409). -/
namespace Sys2Proof.Machine

/-- The thermal block changed. -/
def modTherm (d : Device) (f : Therm → Therm) : Device := { d with therm := f d.therm }

/-- The conversions run: in every power state but OFF (R377). -/
def thermOn (d : Device) : Bool := alive d && d.pwr.state != .off

/-! Estimates (R377 to R380) -/

/-- A reading below −50 °C or above 150 °C (R378). -/
def openReading (t : Int) : Bool := decide (t < -800 ∨ 2400 < t)

/-- Sensor s gives no reading of its own: it is failed, or has read out of range on two consecutive conversions (R378, Table 16.4). -/
def deadSensor (x : Therm) (s : Nat) : Bool := x.failed.getD s false || decide (2 ≤ x.outOfRange.getD s 0)

/-- The offset OFF(s, n). -/
def offsetOf (x : Therm) (s n : Nat) : Int := (x.offsets.getD s (Vector.replicate 12 0)).getD n 0

/-- The largest of a list of temperatures. -/
def hottestOf : List Int → Option Int
  | [] => none
  | t :: ts => some (ts.foldl max t)

/-- Sensors of a device's state that give readings. -/
def liveSensors (x : Therm) : List Nat := (List.range 12).filter (fun s => !deadSensor x s)

/-- The site temperature of a sensor (R379). With no healthy sensor at all there is no substitute, and the reading stands (R380 trips). -/
def siteOf (x : Therm) (s : Nat) : Int :=
  let at_ := fun (n : Nat) => x.reading.getD n 0
  if !deadSensor x s then at_ s
  else
    match hottestOf (((neighbours.getD s []).filter (fun n => !deadSensor x n)).map (fun n => at_ n + offsetOf x s n)) with
    | some t => t + 80
    | none =>
      match hottestOf ((liveSensors x).map at_) with
      | some t => t + 320
      | none => at_ s

/-- The site temperatures, the die estimate and its site (R379), and what follows from too few healthy sensors (R380). -/
def estimate (x : Therm) : Therm :=
  let sites := Vector.ofFn (fun (s : Fin 12) => siteOf x s.val)
  let die := sites.toList.foldl max sites[0]
  let few := decide ((liveSensors x).length < 4)
  { x with site := sites, die := die, hottest := finOf 12 (sites.toList.findIdx (· == die)),
           sensors := x.sensors || few, tripDue := x.tripDue || (few && !x.trip) }

/-- Consecutive conversions at or above a threshold, counted to two. -/
def countAbove (n : Nat) (die hi : Int) : Nat := if hi ≤ die then min 2 (n + 1) else 0

/-- The LO threshold of a level (R382). -/
def loOf (x : Therm) : Int := if x.level = 2 then x.l2Lo else x.l1Lo

/-- A conversion of every sensor (R377 to R379, R382, R385, R387). -/
def convert (now : Nat) (readings : Vector Int 12) (x : Therm) : Therm :=
  let x := estimate { x with
    reading := readings
    outOfRange := Vector.ofFn (fun s => if openReading readings[s] then min 2 (x.outOfRange[s] + 1) else 0) }
  let trip2 := countAbove x.above.2.2 x.die 2000
  let newTrip := trip2 == 2 && x.above.2.2 != 2
  let cool := x.trip && (liveSensors x).all (fun s => decide (readings.getD s 0 < 1600)) && !newTrip
  { x with
    above := (countAbove x.above.1 x.die x.l1Hi, countAbove x.above.2.1 x.die x.l2Hi, trip2)
    falling := decide (0 < x.level) && decide (x.die < loOf x)
    tripDue := x.tripDue || (newTrip && !x.trip)
    restarting := cool
    since := if cool && !x.restarting then now else x.since }

/-- SENSOR_CONVERSION (R377, R379). -/
def execSensorConversion (readings : Vector Int 12) (s : State) : Host.Outcome State Fault Refusal :=
  let d := s.dev
  if thermOn d then next s (modTherm d (convert d.chip.qtime readings)) else next s d

/-- A sensor becomes failed until the next reset; the event names it and the test: 0 RANGE, 1 DISAGREE (R378). -/
def failSensor (k : Sensor) (test : Nat) (d : Device) : Device :=
  raise .thermalSensorFailed [w32 k.val, w32 test]
    (modTherm d (fun x => estimate { x with failed := upd x.failed k (fun _ => true) }))

/-- SENSOR_FAILED (R378): out of range on two consecutive conversions. -/
def execSensorFailed (k : Sensor) (s : State) : Host.Outcome State Fault Refusal :=
  let d := s.dev
  if thermOn d && !d.therm.failed[k] && decide (2 ≤ d.therm.outOfRange[k]) then next s (failSensor k 0 d) else next s d

/-- Sensor s disagrees with every healthy neighbour, of which there are at least two (R378). -/
def disagrees (x : Therm) (k : Sensor) : Bool :=
  let ns := (neighbours[k]).filter (fun n => !deadSensor x n)
  decide (2 ≤ ns.length)
    && ns.all (fun n => decide (192 < (x.reading[k] - x.reading.getD n 0 - offsetOf x k.val n).natAbs))

/-- SENSOR_DISAGREE_TIMEOUT (R378): it has done so for 1 s. -/
def execSensorDisagreeTimeout (k : Sensor) (s : State) : Host.Outcome State Fault Refusal :=
  let d := s.dev
  if thermOn d && !deadSensor d.therm k.val && disagrees d.therm k then next s (failSensor k 1 d) else next s d

/-! Throttle levels (R382 to R384) -/

/-- The throttle level changes (R382): EV_THERMAL_LEVEL, and at level 2 EV_THERMAL_SPEED with SLOW_PCT of the present speed (R384). -/
def setLevel (n : Nat) (d : Device) : Device :=
  let was := d.therm.level
  let d := modTherm d (fun x => { x with level := n, falling := false })
  let d := if was != n then setIrq 2 (raise .thermalLevel [w32 n, i32 d.therm.die, w32 d.therm.hottest.val] d) else d
  if was < 2 ∧ n = 2 then raise .thermalSpeed [i32 d.therm.die, i32 (speedUm d * d.therm.slowPct / 100)] d else d

/-- The level that two conversions, or two failed neighbours, ask for (R380, R382). -/
def levelDue (d : Device) : Nat :=
  if 2 ≤ d.therm.above.2.1 ∨ twoFailed d then 2 else if 2 ≤ d.therm.above.1 then 1 else 0

/-- THROTTLE_RISE (R380, R382). -/
def execThrottleRise (s : State) : Host.Outcome State Fault Refusal :=
  let d := s.dev
  if thermOn d && decide (d.therm.level < levelDue d) then next s (setLevel (levelDue d) d) else next s d

/-- THROTTLE_FALL (R382): 60 s below the level's LO threshold; two failed neighbours hold level 2 (R380). -/
def execThrottleFall (s : State) : Host.Outcome State Fault Refusal :=
  let d := s.dev
  if thermOn d && d.therm.falling && decide (0 < d.therm.level) && !twoFailed d then next s (setLevel (d.therm.level - 1) d)
  else next s d

/-! The trip (R385, R386) -/

/-- What the trip does to the drive (R162): s = 0, calibrations and waiting handovers abandoned with the old trims; a commanded calibration
answers REFUSED with reason THERMAL. -/
def tripDrive (d : Device) : Device :=
  let quietGroup : DacGroup → DacGroup := fun g => { g with cal := none, waiting := none, replace := [] }
  let d := { d with drive := { d.drive with
    zeroed := true, groups := mapAll d.drive.groups quietGroup, heads := mapAll d.drive.heads (fun y => { y with deviated := false }) } }
  (d.mbx.inFlight.filter (fun e => match e.work with | .dacCal _ _ _ => true | _ => false)).foldl
    (fun d e => finish e { status := .refused, reason := .thermal } d) d

/-- What it does to the DRAM (R264, Table 10.6): self-refresh; a sweep is abandoned and its command answers REFUSED with reason THERMAL. A
search for a point begins again at the restart. -/
def tripDram (d : Device) : Device :=
  let r : Reply := { status := .refused, reason := .thermal }
  let d := if d.dram.work.isSome && !d.dram.late then finishWork (fun w => w == .memTrain || w == .memFreq) r d else d
  let d := if d.dram.queued.isSome then finishWork (· == .memFreq) r d else d
  modDram d (fun m => { m with
    selfRefresh := true, relock := none, holding := false, queued := none, late := false, tries := 0
    work := match m.work with | some (.seek ps) => some (.seek ps) | _ => none })

/-- What it does to the flash (Table 16.3, R397): the record being programmed is torn and stays queued; a checkpoint being written is cut off.
-/
def tripFlash (d : Device) : Device :=
  let torn : JSlot → JSlot := fun s => match d.nv.programs.head? with
    | some (.journal r _) => { s with records := s.records ++ [r], used := s.used + recordSize r.body }
    | _ => s
  let d := { d with nv := cutCheckpoint d.nv }
  { d with nv := { d.nv with
      journal := upd d.nv.journal d.nv.cur (fun s => s.map torn), stopAt := ftime d
      programs := d.nv.programs.filter (fun p => match p with | .checkpoint _ => false | _ => true) } }

/-- What it does to a pwr.state request in phase 1, or waiting for its checkpoint: REFUSED with reason THERMAL; quiesced domains stay so
until the restart (Table 15.8). -/
def tripPower (d : Device) : Device :=
  let d := if d.pwr.phase == 1 || d.pwr.phase == 3 then
      let dom := if d.pwr.phase == 1 then d.pwr.todo.head? else none
      finishWork (· == .pwr) { status := .refused, reason := .thermal, detail := w32 (dom.getD 0) }
        (setIrq 5 { d with pwr := { d.pwr with
          phase := 0, todo := [], own := false, refused := (dom.map (BitVec.ofNat 4)).getD d.pwr.refused } })
    else d
  { d with pwr := { d.pwr with held := d.pwr.held ||| 0b11110 } }

/-- What it does to the jobs (R386): pending tokens skip under THERMAL, the running job ends, a scheduled job returns to STAGED, and the
device reports not ready; on the position master the schedule stands, to be postponed (Table 16.4). -/
def tripJobs (d : Device) : Device :=
  let c := d.jobs.change
  let d := match c with | some x => if active d then reportReady x.jobId d else d | none => d
  let kept := if d.pos.role == .master then d.jobs.change.filter (fun x => !x.go) else none
  let d := unschedule (endJob (skipTokens (fun _ => true) .thermal d))
  { d with jobs := { d.jobs with change := kept } }

/-- The trip sequence of Table 16.3; EV_THERMAL_TRIP names the cause, the die estimate and the hottest site. -/
def tripNow (d : Device) : Device :=
  let e := modTherm d (fun x => { x with trip := true, tripDue := false, restarting := false })
  let e := tripJobs (tripPower (tripFlash (tripDram (tripDrive e))))
  let e := accountingBreak 1 e
  noteFault d (setIrq 2 (raise .thermalTrip [w32 (b2n e.therm.sensors), i32 e.therm.die, w32 e.therm.hottest.val] e))

/-- THERMAL_TRIP (R385). -/
def execThermalTrip (s : State) : Host.Outcome State Fault Refusal :=
  let d := s.dev
  if thermOn d && d.therm.tripDue && !d.therm.trip then next s (tripNow d) else next s d

/-! The restart (R387) -/

/-- The DRAM after the trip (R264): it verifies its point; a search that the trip broke off begins again. -/
def restartDram (d : Device) : Device :=
  if d.dram.ok then resumeDram d else modDram d (fun m => { m with selfRefresh := false })

/-- The start-up calibration that a trip broke off begins again with the core it had reached (R161, R162). -/
def restartDrive (d : Device) : Device :=
  { d with drive := { d.drive with
      zeroed := (getBank d .wave).activeLen == 0 || d.pwr.state != .run
      groups := mapAll d.drive.groups (fun g => { g with cal := g.start.head?.map (fun k => (k, none)) }) } }

/-- The adapters of PRESENT heads that the trip left inhibited in bring-up are released (R124 step 7). -/
def liftTrip (d : Device) : Device :=
  (List.finRange 40).foldl (fun d h =>
    let held := match d.links[h].report with | some c => bitOf (byteAt c.payload 2) 0 | none => false
    if d.links[h].state == .present && held && !inhibited d h && !d.jobs.lost then sendInhibit h false d else d) d

/-- The device restarts in the order of R387; drop counts return to the last committed checkpoint, with the gap reported (R17, R386). -/
def restartNow (d : Device) : Device :=
  let d := modTherm d (fun x => { x with trip := false, tripDue := false, restarting := false, above := (0, 0, 0) })
  let d := if quiesced d 6 then wakeHeadLanes d else d
  let d := restartDrive (restartDram { d with pwr := { d.pwr with quiesced := [] } })
  liftTrip (loadDrops (setIrq 2 (raise .thermalRestart [] (setLevel 2 d))))

/-- THERMAL_RESTART (R387): every healthy sensor has read below 100 °C for 10 s, and the cause is not SENSORS. -/
def execThermalRestart (s : State) : Host.Outcome State Fault Refusal :=
  let d := s.dev
  if thermOn d && d.therm.trip && d.therm.restarting && !d.therm.sensors then next s (restartNow d) else next s d

/-! Commands (Table 16.5) -/

/-- thm.config (R381, Table 16.2): thresholds in °C and SLOW_PCT. -/
def execThmConfig (c : Cmd) (s : State) : Host.Outcome State Fault Refusal :=
  mervan { opcode := 0x0810, args := [.num 80 115, .num 60 113, .num 82 120, .num 62 118, .num 50 95] }
    (fun _ a d =>
      let h1 := argI a 0
      let l1 := argI a 1
      let h2 := argI a 2
      let l2 := argI a 3
      if h1 - 20 ≤ l1 ∧ l1 ≤ h1 - 2 ∧ h1 + 2 ≤ h2 ∧ h2 - 20 ≤ l2 ∧ l2 ≤ h2 - 2 ∧ l1 < l2 then
        done (modTherm d (fun x => { x with
          l1Hi := 16 * h1, l1Lo := 16 * l1, l2Hi := 16 * h2, l2Lo := 16 * l2, slowPct := argN a 4 }))
      else no d .badArgument .field) c s

/-- thm.status (Table 16.5): temperatures in 1/16 °C; the offsets of each sensor in the order of Table 16.1 (log entry 59). -/
def execThmStatus (c : Cmd) (s : State) : Host.Outcome State Fault Refusal :=
  mervan { opcode := 0x0811, results := fun _ => 76 }
    (fun _ _ d =>
      let x := d.therm
      let hold := if x.restarting then (d.chip.qtime - x.since) / 4000000000 else 0
      ok d ([i32 x.die, w32 x.level, w32 (b2n (decide (2 ≤ x.level)) + 2 * b2n d.feed.overRate), w32 (b2n x.trip),
             w32 (b2n (x.trip && x.sensors)), w32 hold]
        ++ (List.range 12).flatMap (fun s =>
          [i32 (x.reading.getD s 0), w32 (b2n (failedAt d s)), i32 (x.site.getD s 0)]
            ++ (neighbours.getD s []).map (fun n => i32 (offsetOf x s n))))) c s

end Sys2Proof.Machine
end

