-- ==== Sys2Proof/Machine/Transport.lean ====
section
/-! DEFINITION. The host's registers, BAR2 and the management transport as they act on the block (chapters 14 and 18), the completion
and relay of commands, and presence and the seal (R354). -/
namespace Sys2Proof.Machine

/-- The host reaches BAR0: the link is up, in RUN or SLEEP (R370, R403). -/
def hostReach (d : Device) : Bool :=
  alive d && d.chip.pcieUp && (d.pwr.state == .run || d.pwr.state == .sleep)

/-- A write to MBX_CMD_TAIL (R340): ignored with violation 0x14 when it would lie more than SLOTS ahead of CMD_HEAD. The doorbell ends IDLE
(R363). -/
def setCmdTail (v : U32) (d : Device) : Device :=
  if d.mbx.slots < (v - d.mbx.cmdHead).toNat then violation 0x14 0 0xFFFF 0 d else wakeCores (modMbx d (fun m => { m with cmdTail := v }))

/-- A write to MBX_RSP_HEAD (R340): ignored with violation 0x15 beyond RSP_TAIL. -/
def setRspHead (v : U32) (d : Device) : Device :=
  if (d.mbx.rspTail - d.mbx.rspHead).toNat < (v - d.mbx.rspHead).toNat then violation 0x15 0 0xFFFF 0 d
  else modMbx d (fun m => { m with rspHead := v })

/-- A write to MBX_EVT_HEAD (Table 18.12): ignored with violation 0x15 beyond EVT_TAIL. -/
def setEvtHead (v : U32) (d : Device) : Device :=
  if (d.mbx.evtTail - d.mbx.evtHead).toNat < (v - d.mbx.evtHead).toNat then violation 0x15 0 0xFFFF 0 d
  else modMbx d (fun m => { m with evtHead := v })

/-- A write to IRQ_STATUS: 1 clears a bit; a bit cleared during its holdoff receives no vector (R407). -/
def clearIrq (v : U32) (d : Device) : Device :=
  modMbx d (fun m => { m with
    irqStatus := m.irqStatus &&& ~~~(v.setWidth 8)
    holdRsp := m.holdRsp && !v.getLsbD 0
    holdEvt := m.holdEvt && !v.getLsbD 1 })

/-- A write of 1 to PWR_WAKE.WAKE (R375, R408, Table 18.32): a wake source of SLEEP alone (Table 15.3), in that state, where RUN is
reached within a free time of at most 2 ms (Table 15.3, log entry 100), and during its entry; ignored otherwise. -/
def writeWake (v : U32) (d : Device) : Device :=
  if !v.getLsbD 0 then d
  else if d.pwr.state == .sleep then
    if d.pwr.wakeAt.isSome then d
    else
      let (t, d) := draw d
      { d with pwr := { d.pwr with wakeAt := some (d.chip.qtime + t.toNat % 8000001) } }
  else if d.pwr.phase != 0 && d.pwr.target == .sleep then wakeSource 4 d
  else d

/-- A write to PWR_PAD_RELEASE (R371, R408): 1 releases a bank; while a trip holds, bits 1 to 4 are ignored. -/
def releasePads (v : U32) (d : Device) : Device :=
  let m : BitVec 5 := if d.therm.trip then v.setWidth 5 &&& 1 else v.setWidth 5
  { d with pwr := { d.pwr with held := d.pwr.held &&& ~~~m } }

/-- A write of 1 to PRS_CLOSE.CLOSE (R410). -/
def writeClose (v : U32) (d : Device) : Device := if v.getLsbD 0 then closeWindow d else d

/-- A write of 1 to DIAG_CLEAR.CLEAR clears every DIAG counter (R412). -/
def writeDiagClear (v : U32) (d : Device) : Device := if v.getLsbD 0 then modDiag d (fun _ => {}) else d

/-- Pending vectors whose mask is gone are delivered (R404: PCI Express). -/
def deliverPending (d : Device) : Device :=
  (List.range 64).foldl (fun d k =>
    if bitOf d.mbx.msixPending.toNat k && !bitOf (memGet d.mbx.msixTable (16 * k + 12)).toNat 0 then
      modMbx d (fun m => { m with msixPending := m.msixPending &&& ~~~(BitVec.ofNat 64 (2 ^ k)), vectors := k :: m.vectors })
    else d) d

/-- One aligned 32-bit write to BAR0 (Table 18.1): RO fields and unoccupied offsets ignore it (R10, R403). -/
def writeRegister (o : Nat) (bs : List U8) (d : Device) : Device :=
  let v := w32 (leAt bs 0 4)
  if o = 0x0100 then setCmdTail v d
  else if o = 0x010C then setRspHead v d
  else if o = 0x0114 then setEvtHead v d
  else if o = 0x0400 then clearIrq v d
  else if o = 0x0404 then modMbx d (fun m => { m with irqEnable := v.setWidth 8 })
  else if o = 0x0408 then modMbx d (fun m => { m with holdoff := v.setWidth 16 })
  else if o = 0x0808 then writeWake v d
  else if o = 0x080C then releasePads v d
  else if o = 0x0C04 then writeClose v d
  else if o = 0x2FFC then writeDiagClear v d
  else if 0x3000 ≤ o ∧ o < 0x3400 then
    deliverPending (modMbx d (fun m => { m with msixTable := memWrite m.msixTable (o - 0x3000) (padTo 4 (bs.take 4)) }))
  else if 0x10000 ≤ o ∧ o < 0x20000 then
    if d.pwr.state == .run then modMbx d (fun m => { m with sram := memWrite m.sram (o - 0x10000) (padTo 4 (bs.take 4)) }) else d
  else d

/-- Aligned words written in ascending order (R404). -/
def writeWords : Nat → Nat → List U8 → Device → Device
  | 0, _, _, d => d
  | fuel + 1, o, bs, d => if bs.isEmpty then d else writeWords fuel (o + 4) (bs.drop 4) (writeRegister o (bs.take 4) d)

/-- A host access changes the device only when the link reaches it (R403). -/
def hostDoes (f : Device → Device) (s : State) : Host.Outcome State Fault Refusal :=
  if hostReach s.dev then next s (f s.dev) else next s s.dev

/-- The command doorbell (R340, R406). -/
def execMbxCmdTailWrite (v : U32) (s : State) : Host.Outcome State Fault Refusal := hostDoes (setCmdTail v) s
/-- The host frees response slots (R339, R340). -/
def execMbxRspHeadWrite (v : U32) (s : State) : Host.Outcome State Fault Refusal := hostDoes (setRspHead v) s
/-- The host frees event slots (R339, Table 18.12). -/
def execMbxEvtHeadWrite (v : U32) (s : State) : Host.Outcome State Fault Refusal := hostDoes (setEvtHead v) s
/-- The host clears interrupt bits (R407). -/
def execIrqStatusWrite (v : U32) (s : State) : Host.Outcome State Fault Refusal := hostDoes (clearIrq v) s

/-- HOLDOFF after a bit's setting its vector is signalled, if the bit and its enable are both still 1 (R407). -/
def execIrqHoldoffExpiry (evt : Bool) (s : State) : Host.Outcome State Fault Refusal :=
  let d := s.dev
  let k := b2n evt
  if (if evt then d.mbx.holdEvt else d.mbx.holdRsp) then
    let d := modMbx d (fun m => if evt then { m with holdEvt := false } else { m with holdRsp := false })
    if bitOf d.mbx.irqStatus.toNat k && bitOf d.mbx.irqEnable.toNat k then next s (signalVector k d) else next s d
  else next s d

/-- A host write to PWR_WAKE (R408). -/
def execPwrWakeWrite (v : U32) (s : State) : Host.Outcome State Fault Refusal := hostDoes (writeWake v) s
/-- A host write to PWR_PAD_RELEASE (R371, R408). -/
def execPwrPadReleaseWrite (v : U32) (s : State) : Host.Outcome State Fault Refusal := hostDoes (releasePads v) s
/-- A host write to PRS_CLOSE (R410). -/
def execPrsCloseWrite (v : U32) (s : State) : Host.Outcome State Fault Refusal := hostDoes (writeClose v) s
/-- A host write to DIAG_CLEAR (R412). -/
def execDiagClearWrite (v : U32) (s : State) : Host.Outcome State Fault Refusal := hostDoes (writeDiagClear v) s
/-- Any other host write to BAR0: registers, MSI-X table, mailbox SRAM (R403, R404). -/
def execRegisterWrite (offset : Nat) (bytes : List U8) (s : State) : Host.Outcome State Fault Refusal :=
  hostDoes (writeWords (bytes.length / 4 + 1) offset bytes) s

/-- An access through BAR2, which maps the 256 MiB from BAR2_BASE (Table 14.12): a write reaches DRAM as source 1, held while a sweep runs (R254);
a read, held in the same way, completes with its data or with poisoned data (Table 10.2). During a trip DRAM serves nothing (R385). -/
def execBar2Access (offset : Nat) (write : Option (List U8)) (len : Nat) (s : State) : Host.Outcome State Fault Refusal :=
  let d := s.dev
  let a := d.mbx.bar2Base + offset
  if hostReach d && d.pwr.state == .run && memTakes d && !quiescing d 8 && d.dram.ok && !d.therm.trip && decide (offset + len ≤ 2 ^ 28) && inDram d a len then
    match write with
    | some b => next s (dramWrite 1 a (b.take len) d)
    | none =>
      if holdsRequests d then next s (modDram d (fun m => { m with waiting := m.waiting ++ [⟨1, a, none, len, []⟩] }))
      else next s (completeRead a len (touch false a len d))
  else next s d

/-! The management transport (R352, R353) -/

/-- A Block Write to 0x40: a PEC mismatch is not acknowledged (0x68), nor is a write while the state is 1 or 2 (0x69); otherwise the
command is delivered and the state becomes 1. In DEEP SLEEP only the address byte is acknowledged. -/
def execMgmtBlockWrite (bytes : List U8) (pecOk : Bool) (s : State) : Host.Outcome State Fault Refusal :=
  let d := s.dev
  if ready d && (d.pwr.state == .run || d.pwr.state == .sleep) then
    if !pecOk then next s (violation 0x68 6 0 1 d)
    else if d.mbx.mgmtState != 0 then next s (violation 0x69 6 0 1 d)
    else if bytes.length ≤ 252 then next s (wakeCores (modMbx d (fun m => { m with mgmtState := 1, mgmtCmd := bytes, mgmtResp := none, mgmtRead := false })))
    else next s d
  else next s d

/-- A Block Read from 0x41 returns the response and sets the state to 0; in DEEP SLEEP no data byte is acknowledged (R353, R373). -/
def execMgmtBlockRead (s : State) : Host.Outcome State Fault Refusal :=
  let d := s.dev
  if ready d && d.mbx.mgmtState == 2 && (d.pwr.state == .run || d.pwr.state == .sleep) then
    next s (modMbx d (fun m => { m with mgmtState := 0, mgmtResp := none, mgmtCmd := [] }))
  else next s d

/-- The address byte on the management bus in DEEP SLEEP: a match acknowledges and wakes the device (R373). The general call and the
alert response address match nothing here. -/
def execMgmtAddressMatch (addr : BitVec 7) (s : State) : Host.Outcome State Fault Refusal :=
  let d := s.dev
  if alive d && addr.toNat == mgmtAddr d && (d.pwr.state == .deep || (d.pwr.phase == 2 && d.pwr.target == .deep)) then next s (wakeSource 2 d)
  else next s d

/-! Completion and relay (R346, R349, R350) -/

/-- An ASYNC command completes: its final response is remembered and EV_COMMAND_DONE carries SEQ, OPCODE and the final STATUS. -/
def execCommandDone (seq : U32) (s : State) : Host.Outcome State Fault Refusal :=
  let d := s.dev
  match d.mbx.inFlight.find? (fun e => e.async && e.seq == seq && e.final.isSome) with
  | none => next s d
  | some e =>
    match e.final with
    | none => next s d
    | some r => next s (commandDone e r d)

/-- A relayed command whose response the target returned: written under the tag held, with TAGLESS 0 (R349), replaced when this device's transport
does not take it (R431). ACCEPTED is no final response, so it is not remembered (R346). -/
def relayAnswer (e : InFlight) (status orig : U8) (reason : List U8) (detail : U32) (results : List U32) (d : Device) :
    Device :=
  let resp := fitResponse d e.origin {
    opcode := e.opcode, tag := e.tag, status := status, node := e.work.relayNode.getD 0, tagless := false,
    phase := phaseOf d.mbx.rspTail d.mbx.slots, seq := e.seq, orig := orig, reason := .raw reason, detail := detail,
    results := results }
  let d := modMbx d (fun m => { m with inFlight := m.inFlight.erase e })
  deliver e.origin resp (if resp.status == Status.accepted.code then d else
    remember ⟨keyOf e.origin, e.seq, e.opcode, e.length, e.digest, resp⟩ d)

/-- A relay message (MSG_TYPE 0x0030, Table 14.7) arrives from node `src`. A command is delivered for the row of its own; a response
answers the tag and SEQ that wait for it, or is discarded and counted (R350); an event is written with EVENT_SCOPE 1 by a HOST_EVENTS holder. -/
def execMervanRelayReceived (src : U8) (body : RelayBody) (s : State) : Host.Outcome State Fault Refusal :=
  let d := s.dev
  if !domainRuns d 7 || (paired d && d.red.role == .standby) then next s d
  else
    match body with
    | .command uid => next s (wakeCores (modMbx d (fun m => { m with relayIn := m.relayIn ++ [(src, uid)] })))
    | .response tag seq status orig reason detail results =>
      match d.mbx.inFlight.find? (fun e => e.work.relayNode == some src && e.tag == tag && e.seq == seq) with
      | some e => next s (relayAnswer e status orig reason detail results d)
      | none =>
        match d.mbx.inFlight.find? (fun e => e.work.isFenceAt src && e.seq == seq) with
        | some e =>
          if status = 0 then next s (finish e { results := w64 e.work.moved } d)
          else next s (finish e { status := .refused, reason := .dataLost } d)
        | none => next s (modDiag d (fun g => { g with relayLate := satAdd g.relayLate 1 }))
    | .event name node evseq ft wp args =>
      if d.mbx.hostEvents && d.mbx.eventScope && d.nv.stage == .ready then
        next s (writeEvent { name := .raw name, node := node, relayed := true, phase := false, lost := 0, evseq := evseq,
                             ftime := ft, wpos := wp, args := args } d)
      else next s d

/-- 8 ms after sending, no response has arrived (R350). -/
def execRelayTimeout (tag : BitVec 6) (s : State) : Host.Outcome State Fault Refusal :=
  let d := s.dev
  match d.mbx.inFlight.find? (fun e => e.tag == tag && e.work.isRemote) with
  | some e =>
    let r : Reason := match e.work with | .fence _ _ _ => .dataLost | _ => .relayTimeout
    next s (finish e { status := .refused, reason := r } d)
  | none => next s d

/-! Presence and the seal (R354) -/

/-- PRESENCE_N has been low for 2 s: the window opens, or an open window starts its 300 s again. -/
def execPresenceHold (s : State) : Host.Outcome State Fault Refusal :=
  let d := s.dev
  if alive d && d.pwr.state != .off then
    let d' := { d with prs := { d.prs with window := true, openAt := d.chip.qtime, pressed := true } }
    if d.prs.window then next s d' else next s (raise .presenceOpen [] (setIrq 3 d'))
  else next s d

/-- 300 s after the last 2 s hold the window closes. -/
def execPresenceWindowExpiry (s : State) : Host.Outcome State Fault Refusal :=
  let d := s.dev
  if d.prs.window then next s (closeWindow d) else next s d

/-- One test of the propolis seal, made every 1 ms outside OFF: consecutive failures and passes are counted. -/
def execSealTest (pass : Bool) (s : State) : Host.Outcome State Fault Refusal :=
  let d := s.dev
  if alive d && d.pwr.state != .off then
    next s { d with prs := { d.prs with
      tests := if pass then (0, min 3 (d.prs.tests.2 + 1)) else (min 3 (d.prs.tests.1 + 1), 0) } }
  else next s d

/-- Gated work that an opened loop abandons: sys.fw_update and sys.nv_erase leave the slot being written or erased invalid, and answer
SEAL_BROKEN (R355). -/
def abandonGated (d : Device) : Device :=
  let fw := hasWork (· == .fwUpdate) d
  let d := if fw then
      { d with nv := { d.nv with
          programs := d.nv.programs.filter (fun p => match p with | .firmware _ => false | _ => true)
          fw := upd d.nv.fw (if d.nv.slot then 0 else 1) (fun _ => none) } }
    else d
  let d := match d.nv.cmdErases with
    | [] => d
    | (e, _) :: _ => { d with nv := { spoilSlot e d.nv with cmdErases := [] } }
  finishAll (· == .erase) { status := .sealBroken } (finishAll (· == .fwUpdate) { status := .sealBroken } d)

/-- The loop becomes open after three consecutive failed tests: the seal-broken latch is set in the journal if it is not set,
EV_SEAL_OPENED is raised, and gated work in progress is abandoned. -/
def execSealLoopOpen (s : State) : Host.Outcome State Fault Refusal :=
  let d := s.dev
  if alive d && decide (3 ≤ d.prs.tests.1) && !d.prs.loopOpen then
    let d' := { d with prs := { d.prs with loopOpen := true, latch := true } }
    let d' := if d.prs.latch then d' else journalAppend 6 0 [1] false d'
    next s (abandonGated (raise .sealOpened [] (setIrq 3 d')))
  else next s d

/-- The loop becomes closed again after three consecutive passing tests; that clears nothing else. -/
def execSealLoopClosed (s : State) : Host.Outcome State Fault Refusal :=
  let d := s.dev
  if alive d && decide (3 ≤ d.prs.tests.2) && d.prs.loopOpen then
    next s { d with prs := { d.prs with loopOpen := false } }
  else next s d

end Sys2Proof.Machine
end

