-- ==== Sys2Proof/Machine/Dispatch.lean ====
section
/-! DEFINITION. What each command does: one arm per constructor of Instr. -/
namespace Sys2Proof.Machine

def exec (i : Instr) (s : State) : Host.Outcome State Fault Refusal :=
  match i with
  | .sysNop c => Sys2Proof.Machine.execSysNop c s
  | .sysIdentify c => Sys2Proof.Machine.execSysIdentify c s
  | .sysRing c => Sys2Proof.Machine.execSysRing c s
  | .sysConfig c => Sys2Proof.Machine.execSysConfig c s
  | .sysResult c => Sys2Proof.Machine.execSysResult c s
  | .sysLatchedRead c => Sys2Proof.Machine.execSysLatchedRead c s
  | .sysViolationRead c => Sys2Proof.Machine.execSysViolationRead c s
  | .sysViolationClear c => Sys2Proof.Machine.execSysViolationClear c s
  | .sysPartnerRelease c => Sys2Proof.Machine.execSysPartnerRelease c s
  | .sysRoles c => Sys2Proof.Machine.execSysRoles c s
  | .sysPresence c => Sys2Proof.Machine.execSysPresence c s
  | .sysReseal c => Sys2Proof.Machine.execSysReseal c s
  | .sysFwUpdate c => Sys2Proof.Machine.execSysFwUpdate c s
  | .sysNvErase c => Sys2Proof.Machine.execSysNvErase c s
  | .sysPeek c => Sys2Proof.Machine.execSysPeek c s
  | .sysNvStatus c => Sys2Proof.Machine.execSysNvStatus c s
  | .sysNvSet c => Sys2Proof.Machine.execSysNvSet c s
  | .foragerCopy c descs => Sys2Proof.Machine.execForagerCopy c descs s
  | .foragerStatus c => Sys2Proof.Machine.execForagerStatus c s
  | .jobStage c => Sys2Proof.Machine.execJobStage c s
  | .jobCommit c => Sys2Proof.Machine.execJobCommit c s
  | .jobAppend c => Sys2Proof.Machine.execJobAppend c s
  | .jobCancel c => Sys2Proof.Machine.execJobCancel c s
  | .jobStop c => Sys2Proof.Machine.execJobStop c s
  | .jobStatus c => Sys2Proof.Machine.execJobStatus c s
  | .posConfig c => Sys2Proof.Machine.execPosConfig c s
  | .posStatus c => Sys2Proof.Machine.execPosStatus c s
  | .posSet c => Sys2Proof.Machine.execPosSet c s
  | .sheetConfig c => Sys2Proof.Machine.execSheetConfig c s
  | .lineConfig c => Sys2Proof.Machine.execLineConfig c s
  | .lineInhibit c => Sys2Proof.Machine.execLineInhibit c s
  | .headLink c => Sys2Proof.Machine.execHeadLink c s
  | .headStatus c => Sys2Proof.Machine.execHeadStatus c s
  | .headEcho c => Sys2Proof.Machine.execHeadEcho c s
  | .headSafe c => Sys2Proof.Machine.execHeadSafe c s
  | .headWitness c => Sys2Proof.Machine.execHeadWitness c s
  | .waveLoad c => Sys2Proof.Machine.execWaveLoad c s
  | .waveTrim c => Sys2Proof.Machine.execWaveTrim c s
  | .waveLimits c => Sys2Proof.Machine.execWaveLimits c s
  | .waveConfig c => Sys2Proof.Machine.execWaveConfig c s
  | .dacCalibrate c => Sys2Proof.Machine.execDacCalibrate c s
  | .dacStatus c => Sys2Proof.Machine.execDacStatus c s
  | .dacRotation c => Sys2Proof.Machine.execDacRotation c s
  | .hvConfig c modes => Sys2Proof.Machine.execHvConfig c modes s
  | .hvPower c => Sys2Proof.Machine.execHvPower c s
  | .hvLimits c => Sys2Proof.Machine.execHvLimits c s
  | .hvStatus c => Sys2Proof.Machine.execHvStatus c s
  | .screenStatus c => Sys2Proof.Machine.execScreenStatus c s
  | .subLoad c => Sys2Proof.Machine.execSubLoad c s
  | .subRead c => Sys2Proof.Machine.execSubRead c s
  | .screenCapture c => Sys2Proof.Machine.execScreenCapture c s
  | .captureTimeout seq => Sys2Proof.Machine.execCaptureTimeout seq s
  | .camConfig c => Sys2Proof.Machine.execCamConfig c s
  | .camRun c => Sys2Proof.Machine.execCamRun c s
  | .camSettings c => Sys2Proof.Machine.execCamSettings c s
  | .camSchedule c => Sys2Proof.Machine.execCamSchedule c s
  | .camStream c => Sys2Proof.Machine.execCamStream c s
  | .camRelease c => Sys2Proof.Machine.execCamRelease c s
  | .camTables c => Sys2Proof.Machine.execCamTables c s
  | .camDarkCal c => Sys2Proof.Machine.execCamDarkCal c s
  | .camWhiteCal c => Sys2Proof.Machine.execCamWhiteCal c s
  | .camFocus c => Sys2Proof.Machine.execCamFocus c s
  | .camBand c => Sys2Proof.Machine.execCamBand c s
  | .camStats c => Sys2Proof.Machine.execCamStats c s
  | .camCci c => Sys2Proof.Machine.execCamCci c s
  | .camStatus c => Sys2Proof.Machine.execCamStatus c s
  | .loopConfig c => Sys2Proof.Machine.execLoopConfig c s
  | .loopColour c => Sys2Proof.Machine.execLoopColour c s
  | .modelLoad c => Sys2Proof.Machine.execModelLoad c s
  | .loopEnable c => Sys2Proof.Machine.execLoopEnable c s
  | .loopStatus c => Sys2Proof.Machine.execLoopStatus c s
  | .loopRead c => Sys2Proof.Machine.execLoopRead c s
  | .loopReset c => Sys2Proof.Machine.execLoopReset c s
  | .loopCheckConfig c => Sys2Proof.Machine.execLoopCheckConfig c s
  | .loopCheckRead c => Sys2Proof.Machine.execLoopCheckRead c s
  | .fabricConfig c => Sys2Proof.Machine.execFabricConfig c s
  | .fabricStatus c => Sys2Proof.Machine.execFabricStatus c s
  | .fabricRoutes c => Sys2Proof.Machine.execFabricRoutes c s
  | .fabricFixId c => Sys2Proof.Machine.execFabricFixId c s
  | .fabricDiscover c => Sys2Proof.Machine.execFabricDiscover c s
  | .fabricPing c => Sys2Proof.Machine.execFabricPing c s
  | .redStatus c => Sys2Proof.Machine.execRedStatus c s
  | .redAssign c => Sys2Proof.Machine.execRedAssign c s
  | .redPromote c => Sys2Proof.Machine.execRedPromote c s
  | .redDrill c => Sys2Proof.Machine.execRedDrill c s
  | .redReadmit c => Sys2Proof.Machine.execRedReadmit c s
  | .redReconcile c => Sys2Proof.Machine.execRedReconcile c s
  | .pwrState c => Sys2Proof.Machine.execPwrState c s
  | .pwrStatus c => Sys2Proof.Machine.execPwrStatus c s
  | .pwrIdle c => Sys2Proof.Machine.execPwrIdle c s
  | .thmConfig c => Sys2Proof.Machine.execThmConfig c s
  | .thmStatus c => Sys2Proof.Machine.execThmStatus c s
  | .memStatus c => Sys2Proof.Machine.execMemStatus c s
  | .memFreq c => Sys2Proof.Machine.execMemFreq c s
  | .memTrain c => Sys2Proof.Machine.execMemTrain c s
  | .memFence c => Sys2Proof.Machine.execMemFence c s
  | .memQos c => Sys2Proof.Machine.execMemQos c s
  | .memRowhammer c => Sys2Proof.Machine.execMemRowhammer c s
  | .memScrub c => Sys2Proof.Machine.execMemScrub c s
  | .memErrors c => Sys2Proof.Machine.execMemErrors c s
  | .laneConfig c => Sys2Proof.Machine.execLaneConfig c s
  | .laneStatus c => Sys2Proof.Machine.execLaneStatus c s
  | .laneRetrain c => Sys2Proof.Machine.execLaneRetrain c s
  | .lanePrbs c => Sys2Proof.Machine.execLanePrbs c s
  | .czCompress c => Sys2Proof.Machine.execCzCompress c s
  | .czDecompress c => Sys2Proof.Machine.execCzDecompress c s
  | .czDictReset c => Sys2Proof.Machine.execCzDictReset c s
  | .czStatus c => Sys2Proof.Machine.execCzStatus c s
  | .crcConfig c => Sys2Proof.Machine.execCrcConfig c s
  | .crcRead c => Sys2Proof.Machine.execCrcRead c s
  | .crcWrite c => Sys2Proof.Machine.execCrcWrite c s
  | .crcEnable c => Sys2Proof.Machine.execCrcEnable c s
  | .szStatus c => Sys2Proof.Machine.execSzStatus c s
  | .szMap c => Sys2Proof.Machine.execSzMap c s
  | .mbxCmdTailWrite v => Sys2Proof.Machine.execMbxCmdTailWrite v s
  | .mbxRspHeadWrite v => Sys2Proof.Machine.execMbxRspHeadWrite v s
  | .mbxEvtHeadWrite v => Sys2Proof.Machine.execMbxEvtHeadWrite v s
  | .irqStatusWrite v => Sys2Proof.Machine.execIrqStatusWrite v s
  | .irqHoldoffExpiry evt => Sys2Proof.Machine.execIrqHoldoffExpiry evt s
  | .pwrWakeWrite v => Sys2Proof.Machine.execPwrWakeWrite v s
  | .pwrPadReleaseWrite v => Sys2Proof.Machine.execPwrPadReleaseWrite v s
  | .prsCloseWrite v => Sys2Proof.Machine.execPrsCloseWrite v s
  | .diagClearWrite v => Sys2Proof.Machine.execDiagClearWrite v s
  | .registerWrite offset bytes => Sys2Proof.Machine.execRegisterWrite offset bytes s
  | .bar2Access offset write len => Sys2Proof.Machine.execBar2Access offset write len s
  | .sz6WindowAccess offset write supported => Sys2Proof.Machine.execSz6WindowAccess offset write supported s
  | .mgmtBlockWrite bytes pecOk => Sys2Proof.Machine.execMgmtBlockWrite bytes pecOk s
  | .mgmtBlockRead => Sys2Proof.Machine.execMgmtBlockRead s
  | .mgmtAddressMatch addr => Sys2Proof.Machine.execMgmtAddressMatch addr s
  | .commandDone seq => Sys2Proof.Machine.execCommandDone seq s
  | .mervanRelayReceived src body => Sys2Proof.Machine.execMervanRelayReceived src body s
  | .relayTimeout tag => Sys2Proof.Machine.execRelayTimeout tag s
  | .resetNRise straps dies => Sys2Proof.Machine.execResetNRise straps dies s
  | .bootImageVerified slot => Sys2Proof.Machine.execBootImageVerified slot s
  | .bootWatchdog => Sys2Proof.Machine.execBootWatchdog s
  | .booted => Sys2Proof.Machine.execBooted s
  | .roleListenExpiry => Sys2Proof.Machine.execRoleListenExpiry s
  | .pwrGoodLow => Sys2Proof.Machine.execPwrGoodLow s
  | .vioLow bank => Sys2Proof.Machine.execVioLow bank s
  | .vioRestored bank => Sys2Proof.Machine.execVioRestored bank s
  | .clockFault pll => Sys2Proof.Machine.execClockFault pll s
  | .clockFaultReset => Sys2Proof.Machine.execClockFaultReset s
  | .wakeNLow => Sys2Proof.Machine.execWakeNLow s
  | .idleEntry => Sys2Proof.Machine.execIdleEntry s
  | .idleExit => Sys2Proof.Machine.execIdleExit s
  | .domainDrained => Sys2Proof.Machine.execDomainDrained s
  | .drainTimeout => Sys2Proof.Machine.execDrainTimeout s
  | .presenceHold => Sys2Proof.Machine.execPresenceHold s
  | .presenceWindowExpiry => Sys2Proof.Machine.execPresenceWindowExpiry s
  | .sealTest pass => Sys2Proof.Machine.execSealTest pass s
  | .sealLoopOpen => Sys2Proof.Machine.execSealLoopOpen s
  | .sealLoopClosed => Sys2Proof.Machine.execSealLoopClosed s
  | .sensorConversion readings => Sys2Proof.Machine.execSensorConversion readings s
  | .sensorFailed k => Sys2Proof.Machine.execSensorFailed k s
  | .sensorDisagreeTimeout k => Sys2Proof.Machine.execSensorDisagreeTimeout k s
  | .throttleRise => Sys2Proof.Machine.execThrottleRise s
  | .throttleFall => Sys2Proof.Machine.execThrottleFall s
  | .thermalTrip => Sys2Proof.Machine.execThermalTrip s
  | .thermalRestart => Sys2Proof.Machine.execThermalRestart s
  | .checkpointTimer => Sys2Proof.Machine.execCheckpointTimer s
  | .checkpointCommitted => Sys2Proof.Machine.execCheckpointCommitted s
  | .flashEraseDone => Sys2Proof.Machine.execFlashEraseDone s
  | .journalCompaction => Sys2Proof.Machine.execJournalCompaction s
  | .epochRecordCommitted => Sys2Proof.Machine.execEpochRecordCommitted s
  | .encoderCount enc edge => Sys2Proof.Machine.execEncoderCount enc edge s
  | .encoderFaulted enc why => Sys2Proof.Machine.execEncoderFaulted enc why s
  | .encoderWindowEnd => Sys2Proof.Machine.execEncoderWindowEnd s
  | .indexPulse enc => Sys2Proof.Machine.execIndexPulse enc s
  | .encoderStall => Sys2Proof.Machine.execEncoderStall s
  | .pdEdge input rising => Sys2Proof.Machine.execPdEdge input rising s
  | .pdConfirmTimeout => Sys2Proof.Machine.execPdConfirmTimeout s
  | .sheetOpenNoticeReceived start input number => Sys2Proof.Machine.execSheetOpenNoticeReceived start input number s
  | .wposSampleBroadcast => Sys2Proof.Machine.execWposSampleBroadcast s
  | .wposSampleReceived sample => Sys2Proof.Machine.execWposSampleReceived sample s
  | .positionLost => Sys2Proof.Machine.execPositionLost s
  | .deputyTakeover => Sys2Proof.Machine.execDeputyTakeover s
  | .overRateDetect rate => Sys2Proof.Machine.execOverRateDetect rate s
  | .speedLimitRelease => Sys2Proof.Machine.execSpeedLimitRelease s
  | .lineCommit h => Sys2Proof.Machine.execLineCommit h s
  | .fireCellStart h row => Sys2Proof.Machine.execFireCellStart h row s
  | .nullLineKeepalive h => Sys2Proof.Machine.execNullLineKeepalive h s
  | .scheduleReceived jobId w postponements => Sys2Proof.Machine.execScheduleReceived jobId w postponements s
  | .readyReceived node jobId ready reason => Sys2Proof.Machine.execReadyReceived node jobId ready reason s
  | .decisionPoint => Sys2Proof.Machine.execDecisionPoint s
  | .goReceived jobId w => Sys2Proof.Machine.execGoReceived jobId w s
  | .goAckReceived node jobId w => Sys2Proof.Machine.execGoAckReceived node jobId w s
  | .abortDeadline => Sys2Proof.Machine.execAbortDeadline s
  | .abortReceived jobId w => Sys2Proof.Machine.execAbortReceived jobId w s
  | .cancelReceived jobId => Sys2Proof.Machine.execCancelReceived jobId s
  | .changeWpos => Sys2Proof.Machine.execChangeWpos s
  | .repeatBoundary => Sys2Proof.Machine.execRepeatBoundary s
  | .bandCloseNoticeReceived band w => Sys2Proof.Machine.execBandCloseNoticeReceived band w s
  | .bandNoticePitch => Sys2Proof.Machine.execBandNoticePitch s
  | .bandBoundary => Sys2Proof.Machine.execBandBoundary s
  | .repeatDue => Sys2Proof.Machine.execRepeatDue s
  | .blockFetch plane => Sys2Proof.Machine.execBlockFetch plane s
  | .blockDecompressed plane => Sys2Proof.Machine.execBlockDecompressed plane s
  | .decompressorResume engine free => Sys2Proof.Machine.execDecompressorResume engine free s
  | .screenLine h => Sys2Proof.Machine.execScreenLine h s
  | .shadowBankLoad t => Sys2Proof.Machine.execShadowBankLoad t s
  | .shadowBankLoadDone t => Sys2Proof.Machine.execShadowBankLoadDone t s
  | .statusReportReceived h cell => Sys2Proof.Machine.execStatusReportReceived h cell s
  | .statusIdentReceived h cell => Sys2Proof.Machine.execStatusIdentReceived h cell s
  | .statusEchoReceived h cell roundTrip => Sys2Proof.Machine.execStatusEchoReceived h cell roundTrip s
  | .statusWitnessReceived h cell => Sys2Proof.Machine.execStatusWitnessReceived h cell s
  | .controlReplyTimeout h => Sys2Proof.Machine.execControlReplyTimeout h s
  | .statusSilent h => Sys2Proof.Machine.execStatusSilent h s
  | .fhlCrcBurst h => Sys2Proof.Machine.execFhlCrcBurst h s
  | .headSafeNFall => Sys2Proof.Machine.execHeadSafeNFall s
  | .headSafeNRise => Sys2Proof.Machine.execHeadSafeNRise s
  | .adapterPowerUp h facts => Sys2Proof.Machine.execAdapterPowerUp h facts s
  | .adapterLineCell h port cell => Sys2Proof.Machine.execAdapterLineCell h port cell s
  | .adapterFireCell h port cell => Sys2Proof.Machine.execAdapterFireCell h port cell s
  | .adapterFireTrigger h => Sys2Proof.Machine.execAdapterFireTrigger h s
  | .adapterControlCell h port cell => Sys2Proof.Machine.execAdapterControlCell h port cell s
  | .adapterHeadSafe h => Sys2Proof.Machine.execAdapterHeadSafe h s
  | .adapterReportTimer h => Sys2Proof.Machine.execAdapterReportTimer h s
  | .rotationTimer g => Sys2Proof.Machine.execRotationTimer g s
  | .handover g => Sys2Proof.Machine.execHandover g s
  | .calibrationRunDone g run => Sys2Proof.Machine.execCalibrationRunDone g run s
  | .monitorVisit h sense isen therm => Sys2Proof.Machine.execMonitorVisit h sense isen therm s
  | .pmbusStatusPoll k result => Sys2Proof.Machine.execPmbusStatusPoll k result s
  | .pmbusTelemetryPoll k vout iout temp => Sys2Proof.Machine.execPmbusTelemetryPoll k vout iout temp s
  | .pmbAlert alert result => Sys2Proof.Machine.execPmbAlert alert result s
  | .hvStepGood k => Sys2Proof.Machine.execHvStepGood k s
  | .pgTimeout k => Sys2Proof.Machine.execPgTimeout k s
  | .pmbStretch => Sys2Proof.Machine.execPmbStretch s
  | .pmbSilent k => Sys2Proof.Machine.execPmbSilent k s
  | .camTrigger p => Sys2Proof.Machine.execCamTrigger p s
  | .sensorSilent p => Sys2Proof.Machine.execSensorSilent p s
  | .csiFrameStart p => Sys2Proof.Machine.execCsiFrameStart p s
  | .csiLongPacket p pkt => Sys2Proof.Machine.execCsiLongPacket p pkt s
  | .csiCrcBurst p => Sys2Proof.Machine.execCsiCrcBurst p s
  | .csiFrameEnd p => Sys2Proof.Machine.execCsiFrameEnd p s
  | .pipelineLine p => Sys2Proof.Machine.execPipelineLine p s
  | .calTimerTrigger p => Sys2Proof.Machine.execCalTimerTrigger p s
  | .cciTransactionDone bus result => Sys2Proof.Machine.execCciTransactionDone bus result s
  | .cciStretch bus => Sys2Proof.Machine.execCciStretch bus s
  | .cciSilent p => Sys2Proof.Machine.execCciSilent p s
  | .proxyRecordSend colour => Sys2Proof.Machine.execProxyRecordSend colour s
  | .proxyRecordReceived r => Sys2Proof.Machine.execProxyRecordReceived r s
  | .spanRecordReceived r => Sys2Proof.Machine.execSpanRecordReceived r s
  | .loopSolveDone => Sys2Proof.Machine.execLoopSolveDone s
  | .correctionRecordReceived r => Sys2Proof.Machine.execCorrectionRecordReceived r s
  | .stripRecordSend colour => Sys2Proof.Machine.execStripRecordSend colour s
  | .stripAnalysis r nozzles => Sys2Proof.Machine.execStripAnalysis r nozzles s
  | .dictMessageReceived m => Sys2Proof.Machine.execDictMessageReceived m s
  | .streamNoticeReceived peer resync cls => Sys2Proof.Machine.execStreamNoticeReceived peer resync cls s
  | .compressorResume cls room => Sys2Proof.Machine.execCompressorResume cls room s
  | .crcSegment u address bytes => Sys2Proof.Machine.execCrcSegment u address bytes s
  | .dramRequest r => Sys2Proof.Machine.execDramRequest r s
  | .refreshDue mc rank feedWaiting => Sys2Proof.Machine.execRefreshDue mc rank feedWaiting s
  | .refreshWindow => Sys2Proof.Machine.execRefreshWindow s
  | .mr4Read mc multiplier hot => Sys2Proof.Machine.execMr4Read mc multiplier hot s
  | .dqsTracking lane drift => Sys2Proof.Machine.execDqsTracking lane drift s
  | .scrubRead corrected uncorrectable => Sys2Proof.Machine.execScrubRead corrected uncorrectable s
  | .dramCorrectedReport => Sys2Proof.Machine.execDramCorrectedReport s
  | .deferredTrainingStart => Sys2Proof.Machine.execDeferredTrainingStart s
  | .trainingHoldExpiry => Sys2Proof.Machine.execTrainingHoldExpiry s
  | .trainingDone r => Sys2Proof.Machine.execTrainingDone r s
  | .lossOfSignal l => Sys2Proof.Machine.execLossOfSignal l s
  | .codeErrorBurst l errors => Sys2Proof.Machine.execCodeErrorBurst l errors s
  | .eqFreeze l => Sys2Proof.Machine.execEqFreeze l s
  | .eqResume l => Sys2Proof.Machine.execEqResume l s
  | .electricalIdleEntry l => Sys2Proof.Machine.execElectricalIdleEntry l s
  | .electricalIdleNotice l => Sys2Proof.Machine.execElectricalIdleNotice l s
  | .wakeBurstTimer l => Sys2Proof.Machine.execWakeBurstTimer l s
  | .wakeBurstMissing l => Sys2Proof.Machine.execWakeBurstMissing l s
  | .laneAttemptStart l => Sys2Proof.Machine.execLaneAttemptStart l s
  | .trainingPhaseTimeout l => Sys2Proof.Machine.execTrainingPhaseTimeout l s
  | .partnerT1Detected l => Sys2Proof.Machine.execPartnerT1Detected l s
  | .trainingWordReceived l w last => Sys2Proof.Machine.execTrainingWordReceived l w last s
  | .peppercornTestEnd l got => Sys2Proof.Machine.execPeppercornTestEnd l got s
  | .helloTimer p => Sys2Proof.Machine.execHelloTimer p s
  | .helloReceived p k m => Sys2Proof.Machine.execHelloReceived p k m s
  | .rootElectionTimeout => Sys2Proof.Machine.execRootElectionTimeout s
  | .joinReceived p m => Sys2Proof.Machine.execJoinReceived p m s
  | .idAssignment => Sys2Proof.Machine.execIdAssignment s
  | .assignReceived p uid nodeId discGen routes => Sys2Proof.Machine.execAssignReceived p uid nodeId discGen routes s
  | .linkChangeReceived node port isUp neighbour => Sys2Proof.Machine.execLinkChangeReceived node port isUp neighbour s
  | .dataFrameReceived p k f => Sys2Proof.Machine.execDataFrameReceived p k f s
  | .unreachableReceived dest msgType srcSeq => Sys2Proof.Machine.execUnreachableReceived dest msgType srcSeq s
  | .creditReceived p granted x => Sys2Proof.Machine.execCreditReceived p granted x s
  | .creditInitReceived p config x => Sys2Proof.Machine.execCreditInitReceived p config x s
  | .creditGrantTimer p => Sys2Proof.Machine.execCreditGrantTimer p s
  | .auditReceived p mark nextSeq cSent x => Sys2Proof.Machine.execAuditReceived p mark nextSeq cSent x s
  | .auditReplyReceived p mark granted x => Sys2Proof.Machine.execAuditReplyReceived p mark granted x s
  | .auditResend p => Sys2Proof.Machine.execAuditResend p s
  | .ackReceived l ackSeq x => Sys2Proof.Machine.execAckReceived l ackSeq x s
  | .nakReceived l nakSeq x => Sys2Proof.Machine.execNakReceived l nakSeq x s
  | .ackTimer l => Sys2Proof.Machine.execAckTimer l s
  | .replayTimeout l => Sys2Proof.Machine.execReplayTimeout l s
  | .replayBudget l => Sys2Proof.Machine.execReplayBudget l s
  | .srcSeqGapTimeout src vc dest => Sys2Proof.Machine.execSrcSeqGapTimeout src vc dest s
  | .timeReqTimer => Sys2Proof.Machine.execTimeReqTimer s
  | .timeReqReceived p t1 t2 x => Sys2Proof.Machine.execTimeReqReceived p t1 t2 x s
  | .timeRespReceived p t1 t2 t3 t4 x => Sys2Proof.Machine.execTimeRespReceived p t1 t2 t3 t4 x s
  | .timeUnlockTimeout => Sys2Proof.Machine.execTimeUnlockTimeout s
  | .neighbourSilent p => Sys2Proof.Machine.execNeighbourSilent p s
  | .portFlap p => Sys2Proof.Machine.execPortFlap p s
  | .partnerIsolated block source => Sys2Proof.Machine.execPartnerIsolated block source s
  | .roleAssignmentTimer => Sys2Proof.Machine.execRoleAssignmentTimer s
  | .roleAssignmentReceived m => Sys2Proof.Machine.execRoleAssignmentReceived m s
  | .roleHolderTimeout role => Sys2Proof.Machine.execRoleHolderTimeout role s
  | .heartbeatTimer => Sys2Proof.Machine.execHeartbeatTimer s
  | .hboEdgeTimer => Sys2Proof.Machine.execHboEdgeTimer s
  | .heartbeatReceived hb => Sys2Proof.Machine.execHeartbeatReceived hb s
  | .hbiEdge => Sys2Proof.Machine.execHbiEdge s
  | .pathSilent hbi => Sys2Proof.Machine.execPathSilent hbi s
  | .witnessDecision => Sys2Proof.Machine.execWitnessDecision s
  | .witnessRequery => Sys2Proof.Machine.execWitnessRequery s
  | .promotionSelfTestDone failed => Sys2Proof.Machine.execPromotionSelfTestDone failed s
  | .reconciliationDone => Sys2Proof.Machine.execReconciliationDone s
  | .stateFrameReceived f viaFabric => Sys2Proof.Machine.execStateFrameReceived f viaFabric s
  | .mirrorFrameReceived f addr data => Sys2Proof.Machine.execMirrorFrameReceived f addr data s
  | .needFullReceived mirror wl => Sys2Proof.Machine.execNeedFullReceived mirror wl s
  | .pairControlReceived m => Sys2Proof.Machine.execPairControlReceived m s
  | .handoverReceived f snap => Sys2Proof.Machine.execHandoverReceived f snap s
  | .handoverReplyReceived f accepted reason => Sys2Proof.Machine.execHandoverReplyReceived f accepted reason s
  | .snapshotTimer => Sys2Proof.Machine.execSnapshotTimer s
  | .staleTimer => Sys2Proof.Machine.execStaleTimer s
  | .mirrorAckTimer => Sys2Proof.Machine.execMirrorAckTimer s
  | .resetNFall => Sys2Proof.Machine.execResetNFall s
  | .pwrGoodHigh => Sys2Proof.Machine.execPwrGoodHigh s
  | .xoRestored => Sys2Proof.Machine.execXoRestored s
  | .foragerReadDone buffer data => Sys2Proof.Machine.execForagerReadDone buffer data s
  | .blockCompressed engine => Sys2Proof.Machine.execBlockCompressed engine s
  | .flashProgramDone => Sys2Proof.Machine.execFlashProgramDone s
  | .onDelayExpiry => Sys2Proof.Machine.execOnDelayExpiry s
  | .cdrLock x => Sys2Proof.Machine.execCdrLock x s
  | .receiverAdapted l => Sys2Proof.Machine.execReceiverAdapted l s
  | .lp11Detected p => Sys2Proof.Machine.execLp11Detected p s
  | .pcieLinkUp => Sys2Proof.Machine.execPcieLinkUp s

end Sys2Proof.Machine
end

