-- ==== Sys2Proof/Safety.lean ====
section
/-! DEFINITION. The terms in which the statements speak: when a Mervan command is accepted and passes the checks of R345, and the invariants
that every step keeps. -/
namespace Sys2Proof.Machine

/-- The largest command of a transport (Tables 14.1 and 14.7, R352). -/
def sizeLimit (d : Device) : Origin → Nat
  | .ring => d.mbx.slotSize
  | .mgmt => 252
  | .relay _ _ => 2040

/-- A command came by relay; the relaying device has made entry checks 1 and 2 (R349). -/
def isRelay : Origin → Bool
  | .relay _ _ => true
  | _ => false

/-- No credit or tag is left for a command of the rings (Table 14.4, checks 6). -/
def noTag (c : Cmd) (d : Device) : Bool :=
  match c.origin with
  | .ring => decide (d.mbx.credits ≤ ringInFlight d) || d.mbx.inFlight.any (fun e => e.origin == .ring && !e.async && e.tag == c.tag)
  | _ => false

/-- LENGTH and CRC of a command pass checks 1 and 2 of Table 14.4. -/
def formOk (g : Sig) (c : Cmd) (d : Device) : Bool :=
  (isRelay c.origin || (decide (20 ≤ c.length.toNat) && decide (c.length.toNat ≤ sizeLimit d c.origin) && c.length.toNat % 4 == 0))
    && (isRelay c.origin || c.crc == cmdCrc g.opcode (uidOf d c.origin) c)

/-- SEQ is neither in flight nor remembered, and a tag and a credit are free (Table 14.4, checks 3 to 6). -/
def seqFree (c : Cmd) (d : Device) : Bool :=
  !(d.mbx.inFlight.any (fun e => keyOf e.origin == keyOf c.origin && e.seq == c.seq))
    && !(d.mbx.remembered.any (fun m => m.key == keyOf c.origin && m.seq == c.seq)) && !noTag c d

/-- The checks of R345 after a command's arguments are read: seal and presence (R355), DRAM and ranges (R430), the response's size (R431), the mode
(R358), the transport (R353), a trip (R385), and a domain that quiesces (R367). -/
def stateOk (g : Sig) (c : Cmd) (a : List Int) (d : Device) : Bool :=
  !(g.gated && (d.prs.loopOpen || (d.prs.latch && g.opcode != 0x000B))) && !(g.gated && !d.prs.window)
    && !(g.dram && !d.dram.ok)
    && !((g.ranges a).any (fun r => !inDram d r.1 r.2.1 || (r.2.2 && !inStore d r.1 r.2.1)))
    && !(decide ((responseLimit d c.origin).1 < 52 + 4 * g.results a))
    && !(d.chip.modeSz && !([0x00, 0x08, 0x09, 0x0F].contains (g.opcode.toNat / 256)))
    && !(transportRefuses g c d) && !((g.dram || g.stops) && d.therm.trip) && !(g.works.any (fun k => quiescing d k.val))

/-- The OPCODE is known: group 0x0F in Stolzar mode only (R1, R358). -/
def modeOk (g : Sig) (d : Device) : Bool := !(!d.chip.modeSz && g.opcode.toNat / 256 == 0x0F)

/-- The argument values of a command for this device that passes the checks of R345 made before and with the arguments. -/
def argsOf (g : Sig) (c : Cmd) : Option (List Int) :=
  if !argsFit c.args g.args g.rep || c.rsvTag != 0 || c.rsvFlag != 0 || c.rsvNode != 0 || c.rsvWord != 0 then none
  else match parseArgs c.args g.args g.rep with
    | .ok a => some a
    | .error _ => none

/-- The command is for this device: NODE is 0, its own ID, or it came by relay (R349). -/
def forHere (c : Cmd) (d : Device) : Bool := c.node != 255 && !relayedOut c d

/-- A command that the device reads and accepts, for this device and with right arguments (Tables 14.2 to 14.4, checks 1 to 4 of R345): the
device once it has been read, and its argument values. -/
def entered (g : Sig) (c : Cmd) (d0 : Device) : Option (Device × List Int) :=
  match takeFront g c d0 with
  | none => none
  | some d =>
    if formOk g c d && seqFree c d && forHere c d && modeOk g d && !(c.async && decide (16 ≤ asyncOpen d)) then (argsOf g c).map (fun a => (d, a)) else none

/-- A command that the device reads, accepts and finds right in every check of Table 14.4 and R345 (Tables 14.2 to 14.5): the device once
it has been read, and the DRAM ranges that it reads with it, and its argument values. What it does then is its own rule's. -/
def accepted (g : Sig) (c : Cmd) (d0 : Device) : Option (Device × List Int) :=
  ((entered g c d0).filter (fun x => stateOk g c x.2 x.1)).map (fun x => (readRanges g x.2 x.1, x.2))

/-- What a command of the tables of the chapters does once it is accepted: its signature, the condition on the command, its arguments and the
device under which it has its own effect, and that effect with its reply. -/
structure Rule where
  sig : Sig
  can : Cmd → List Int → Device → Bool := fun _ _ _ => true
  out : Cmd → List Int → Device → Done

/-- A rule holds of a command in a state: if the command is accepted and meets the rule's condition, it answers the next state of its own
effect. -/
def Rule.HoldsAt (r : Rule) (i : Cmd → Instr) (s : State) : Prop :=
  ∀ (c : Cmd) (d : Device) (a : List Int), accepted r.sig c s.dev = some (d, a) → r.can c a d = true →
    exec (i c) s = .next { s with dev := settle r.sig c (r.out c a d) }

/-- A rule holds of a command in every state. -/
def Rule.Holds (r : Rule) (i : Cmd → Instr) : Prop := ∀ s : State, r.HoldsAt i s

/-- What a row that is no Mervan command does: the condition on the device under which it has its own effect, and that effect. -/
structure Row where
  can : Device → Bool := fun _ => true
  out : Device → Device

/-- A row's rule holds: in every state that meets its condition the row answers the next state of its own effect. -/
def Row.Holds (r : Row) (i : Instr) : Prop :=
  ∀ s : State, r.can s.dev = true → exec i s = .next { s with dev := r.out s.dev }

/-- What a command answers in a state where it is turned away: a reply without any effect of its own. -/
def Rule.TurnsAwayAt (r : Rule) (i : Cmd → Instr) (s : State) (st : Status) (why : Reason) (cond : List Int → Device → Prop) : Prop :=
  ∀ (c : Cmd) (d : Device) (a : List Int), entered r.sig c s.dev = some (d, a) → cond a d →
    exec (i c) s = .next { s with dev := settle r.sig c (no d st why) }

/-- A gated command is refused while the loop is open or the seal-broken latch is set, and otherwise while no presence window is open
(R355). -/
def Rule.NeedsSealAndPresence (r : Rule) (i : Cmd → Instr) : Prop :=
  r.sig.gated = true ∧ ∀ s : State,
    r.TurnsAwayAt i s .sealBroken .none (fun _ d => d.prs.loopOpen = true ∨ (d.prs.latch = true ∧ r.sig.opcode ≠ 0x000B))
    ∧ r.TurnsAwayAt i s .needsPresence .none
        (fun _ d => d.prs.loopOpen = false ∧ (d.prs.latch = true → r.sig.opcode = 0x000B) ∧ d.prs.window = false)

/-- A command whose arguments name a range outside the DRAM, or outside the job store where its rule asks for it, is refused in a state
(R430). -/
def Rule.ChecksRangesAt (r : Rule) (i : Cmd → Instr) (s : State) : Prop :=
  r.TurnsAwayAt i s .badArgument .address (fun a d =>
    (r.sig.gated = true → d.prs.loopOpen = false ∧ d.prs.latch = false ∧ d.prs.window = true) ∧ d.dram.ok = true
      ∧ (r.sig.ranges a).any (fun x => !inDram d x.1 x.2.1 || (x.2.2 && !inStore d x.1 x.2.1)) = true)

/-- A command checks its ranges in every state. -/
def Rule.ChecksRanges (r : Rule) (i : Cmd → Instr) : Prop := ∀ s : State, r.ChecksRangesAt i s

/-- A command of a ring or of the management transport whose CRC is wrong is answered BAD_CRC with TAGLESS set, is logged, and has no effect
of its own (Table 14.4, check 2). -/
def Rule.ChecksCrc (r : Rule) (i : Cmd → Instr) : Prop :=
  ∀ (s : State) (c : Cmd) (d : Device), takeFront r.sig c s.dev = some d → isRelay c.origin = false → 20 ≤ c.length.toNat →
    c.length.toNat ≤ sizeLimit d c.origin → c.length.toNat % 4 = 0 → c.crc ≠ cmdCrc r.sig.opcode (uidOf d c.origin) c →
    exec (i c) s = .next { s with dev := tagless r.sig c .badCrc .none (violation 0x10 0 (tagSource c) 1 d) }

/-- A command that repeats a remembered one is answered DUPLICATE with the remembered results, and has no further effect (R346). -/
def Rule.AnswersRepeats (r : Rule) (i : Cmd → Instr) : Prop :=
  ∀ (s : State) (c : Cmd) (d : Device) (m : Remembered), takeFront r.sig c s.dev = some d → formOk r.sig c d = true →
    relayedOut c d = false → d.mbx.inFlight.any (fun e => keyOf e.origin == keyOf c.origin && e.seq == c.seq) = false →
    d.mbx.remembered.find? (fun m => m.key == keyOf c.origin && m.seq == c.seq) = some m →
    m.opcode = r.sig.opcode → m.length = c.length → m.digest = cmdDigest c →
    exec (i c) s = .next { s with dev := duplicate r.sig c m d }

/-- A command that copies to DRAM changes no byte of DRAM outside the place that its arguments and the device give: an address and a number of
bytes. The DRAM's canonical form is an invariant of every step (Inv.dramForm). -/
def Rule.StoresOnlyAt (r : Rule) (i : Cmd → Instr) (s : State) (place : List Int → Device → Nat × Nat) : Prop :=
  s.dev.dram.data.wf = true → ∀ (c : Cmd) (d : Device) (a : List Int) (t : State), accepted r.sig c s.dev = some (d, a) → exec (i c) s = .next t →
    ∀ x, (x < (place a d).1 ∨ (place a d).1 + (place a d).2 ≤ x) → memGet t.dev.dram.data x = memGet s.dev.dram.data x

/-- No byte of DRAM outside some places, each an address and a number of bytes, differs between two devices. -/
def SameOutside (places : List (Nat × Nat)) (d e : Device) : Prop :=
  ∀ x, (∀ p ∈ places, x < p.1 ∨ p.1 + p.2 ≤ x) → memGet e.dram.data x = memGet d.dram.data x

/-- A row changes no byte of DRAM outside the places named. -/
def StoresWithin (i : Instr) (s : State) (places : List (Nat × Nat)) : Prop :=
  s.dev.dram.data.wf = true → ∀ t : State, exec i s = .next t → SameOutside places s.dev t.dev

/-- The fields of the device, for the statements of what a command leaves unchanged. -/
inductive DevField where
  | chip | mbx | vlog | acct | jobs | feed | banks | engines | pos | sheet | fire | links | adapters | drive
  | cams | loop | cz | crcs | dram | lanes | fabric | red | pwr | therm | prs | nv | sz
  deriving DecidableEq, Repr

/-- Chip without the two fields of the model's own that no rule of the spec names: the count of free values and the trace of host writes (log
entries 9 and 10). -/
def Chip.own (c : Chip) : Chip := { c with drawn := 0, hostWrites := [] }

/-- A field of two devices is the same. -/
def DevField.Same (a b : Device) : DevField → Prop
  | .chip => b.chip.own = a.chip.own
  | .mbx => b.mbx = a.mbx
  | .vlog => b.vlog = a.vlog
  | .acct => b.acct = a.acct
  | .jobs => b.jobs = a.jobs
  | .feed => b.feed = a.feed
  | .banks => b.banks = a.banks
  | .engines => b.engines = a.engines
  | .pos => b.pos = a.pos
  | .sheet => b.sheet = a.sheet
  | .fire => b.fire = a.fire
  | .links => b.links = a.links
  | .adapters => b.adapters = a.adapters
  | .drive => b.drive = a.drive
  | .cams => b.cams = a.cams
  | .loop => b.loop = a.loop
  | .cz => b.cz = a.cz
  | .crcs => b.crcs = a.crcs
  | .dram => b.dram = a.dram
  | .lanes => b.lanes = a.lanes
  | .fabric => b.fabric = a.fabric
  | .red => b.red = a.red
  | .pwr => b.pwr = a.pwr
  | .therm => b.therm = a.therm
  | .prs => b.prs = a.prs
  | .nv => b.nv = a.nv
  | .sz => b.sz = a.sz

/-- Two devices are the same but for some fields. -/
structure Keeps (ch : List DevField) (a b : Device) : Prop where
  same : ∀ f, f ∉ ch → f.Same a b

/-- A row changes at most some fields of the device, and not the queue. -/
def OnlyChanges (ch : List DevField) (i : Instr) : Prop :=
  ∀ s t : State, exec i s = .next t → t.pending = s.pending ∧ Keeps ch s.dev t.dev

/-- Line tokens of a head are conserved: scheduled equals fired plus skipped under every reason (R16, R110). -/
def balanced (c : HeadCtr) : Prop := c.scheduled = c.fired + c.skipped.toList.sum

/-- Line tokens are conserved on every head of a counter set. -/
def setBalanced (l : LiveSet) : Prop := ∀ h : Fin 40, balanced l.heads[h]

/-- What every step keeps: the violation log has at most 256 entries (R25), a partner is isolated once (R29), the DRAM's bytes are in their
canonical form, and line tokens are conserved in every live and latched counter set (R16, R110). -/
structure Inv (d : Device) : Prop where
  logBound : d.vlog.entries.length ≤ 256
  isolatedOnce : d.vlog.isolated.Nodup
  dramForm : d.dram.data.wf = true
  liveBalanced : ∀ k : Fin 3, setBalanced d.acct.live[k]
  newestBalanced : ∀ (k : Fin 3) (l : LatchedSet), d.acct.newest[k] = some l → setBalanced l.live
  olderBalanced : ∀ (k : Fin 3) (l : LatchedSet), d.acct.older[k] = some l → setBalanced l.live

end Sys2Proof.Machine
end

