-- ==== Sys2Proof/Certificates/Slice0/Obligations.lean ====
section
/-! DEFINITION. The statements for the provers. First, for every command, the rule that says where it completes and with what next state; then
the statements over the machine. -/
namespace Sys2Proof.Machine

/-- A host's load of a shadow bank is taken: for the repeat when no load of the bank is pending (R83), for the job when one is staged, no GO has
passed, and no other load of the bank is waited for (R48). -/
def loadFree (t : Tbl) (forRepeat : Bool) (d : Device) : Bool :=
  if forRepeat then (getBank d t).pending.isNone
  else d.jobs.staged.isSome && !(match d.jobs.change with | some c => c.go | none => false)
    && !(match (getBank d t).pending with | some r => (match r.what with | .hostRepeat => true | .rep _ _ => true | _ => false) | none => false)
    && !hasWork (· == .bankLoad t) d

/-- sys.nop (Table 14.12). -/
def sysNopRule : Rule :=
  { sig := { opcode := 0x0000 }
    out := fun _ _ d => ok d }

/-- sys.identify (Table 14.12). -/
def sysIdentifyRule : Rule :=
  { sig := { opcode := 0x0001 }
    out := fun _ _ d => ok d (identifyWords d) }

/-- sys.ring (R338): BUSY_STATE while another command is in flight; its response goes to the old ring, and the new rings start empty. -/
def sysRingRule : Rule :=
  { sig := { opcode := 0x0002
             args := [.flag, .one [256, 512, 1024, 2048, 4096], .num 8 4096, .num 1 64, .addr, .addr, .addr, .num 0 65536, .addr, .flag] }
    can := fun _ a d => ringOk a && !(inFlightCount d != 0)
    out := fun _ a d => .after {} d (newRings a) }

/-- sys.config (Table 14.12). -/
def sysConfigRule : Rule :=
  { sig := { opcode := 0x0003, dram := true
             args := [.wide 0 (2 ^ 64 - 1) 4096, .wide 0 (2 ^ 64 - 1) 4096, .wide 0 (2 ^ 64 - 1) (2 ^ 28)]
             ranges := fun a => [(argN a 0, argN a 1, false), (argN a 2, 2 ^ 28, false)] }
    can := fun _ a d =>
      let change := argN a 0 != d.mbx.storeBase || argN a 1 != d.mbx.storeSize
      !(change && (jobStaged d || jobRunning d))
    out := fun _ a d =>
      done (modMbx d (fun m => { m with storeBase := argN a 0, storeSize := argN a 1, bar2Base := argN a 2 })) }

/-- sys.result (R346). -/
def sysResultRule : Rule :=
  { sig := { opcode := 0x0004, args := [.any] }
    can := fun c a d =>
      let seq := w32 (argN a 0)
      !decide (seq = c.seq ∨ d.mbx.inFlight.any (fun e => keyOf e.origin == keyOf c.origin && e.seq == seq)) && (d.mbx.remembered.find? (fun m => m.key == keyOf c.origin && m.seq == w32 (argN a 0))).isSome
    out := fun c a d =>
      let seq := w32 (argN a 0)
      match d.mbx.remembered.find? (fun m => m.key == keyOf c.origin && m.seq == seq) with
      | none => no d .badArgument .unknownSeq
      | some m =>
        .reply { reason := if 512 < m.resp.length then .truncated else .none,
                 results := bytesWords ((m.resp.bytes (uidOf d c.origin)).take 512) } d }

/-- sys.latched_read (R24): the set is copied and marked as read. -/
def sysLatchedReadRule : Rule :=
  { sig := { opcode := 0x0005, dram := true, args := [.num 0 2, .flag, .addr], ranges := fun a => [(argN a 2, 8744, false)]
             results := fun _ => 1 }
    can := fun _ a d => (if argB a 1 then d.acct.older[finOf 3 (argN a 0)] else d.acct.newest[finOf 3 (argN a 0)]).isSome
    out := fun _ a d =>
      let k : Fin 3 := finOf 3 (argN a 0)
      match (if argB a 1 then d.acct.older[k] else d.acct.newest[k]) with
      | none => no d .refused .notLatched
      | some l =>
        let seen : Option LatchedSet := some { l with read := true }
        let d := dramWrite 8 (argN a 2) (latchedBytes k.val l) d
        ok { d with acct := if argB a 1 then { d.acct with older := upd d.acct.older k (fun _ => seen) }
                            else { d.acct with newest := upd d.acct.newest k (fun _ => seen) } } [8744] }

/-- sys.violation_read (Table 14.12). -/
def sysViolationReadRule : Rule :=
  { sig := { opcode := 0x0006, dram := true, args := [.addr, .any, .any], ranges := fun a => [(argN a 0, 32 * argN a 2, false)]
             results := fun _ => 4 }
    out := fun _ a d =>
      let l := ((d.vlog.entries.foldl (fun l e => insertByFirst e l) []).drop (argN a 1)).take (argN a 2)
      ok (dramWrite 8 (argN a 0) (l.flatMap ventryBytes) d)
        (put64 [w32 l.length, d.vlog.gen] d.vlog.diag.violLost.toNat) }

/-- sys.violation_clear (R25, Table 14.12). -/
def sysViolationClearRule : Rule :=
  { sig := { opcode := 0x0007, args := [.any] }
    can := fun _ a d => !decide (argN a 0 ≠ 0 ∧ argN a 0 ≠ d.vlog.gen.toNat)
    out := fun _ _ d => ok { d with vlog := { d.vlog with entries := [] } } }

/-- sys.partner_release (R29). -/
def sysPartnerReleaseRule : Rule :=
  { sig := { opcode := 0x0008, args := [.num 0 31, .num 0 65535] }
    can := fun _ a d => d.vlog.isolated.contains (BitVec.ofNat 5 (argN a 0), BitVec.ofNat 16 (argN a 1))
    out := fun _ a d =>
      let b : BitVec 5 := BitVec.ofNat 5 (argN a 0)
      let src : U16 := BitVec.ofNat 16 (argN a 1)
      if d.vlog.isolated.contains (b, src) then ok (releasePartner b src d) else no d .badArgument .notIsolated }

/-- sys.roles (R351): a change of MEASURING waits for no colour to be enabled; the change is announced. -/
def sysRolesRule : Rule :=
  { sig := { opcode := 0x0009, args := [.flag, .flag] }
    can := fun _ a d => !(argB a 0 != d.mbx.measuring && d.loop.colours.toList.any (·.enabled))
    out := fun _ a d =>
      let changed := argB a 0 != d.mbx.measuring || argB a 1 != d.mbx.hostEvents
      let d := modMbx d (fun m => { m with measuring := argB a 0, hostEvents := argB a 1 })
      ok (if changed then sendRoles d else d) }

/-- sys.presence (R354): CLOSE 1 closes the window. -/
def sysPresenceRule : Rule :=
  { sig := { opcode := 0x000A, args := [.flag], results := fun _ => 4 }
    out := fun _ a d =>
      let d := if argB a 0 then closeWindow d else d
      ok d [w32 (b2n d.prs.window), w32 (secondsLeft d), w32 (b2n d.prs.loopOpen), w32 (b2n d.prs.latch)] }

/-- sys.reseal (R355): clears the latch in the journal and raises EV_SEAL_RESTORED; it answers once the record is committed. -/
def sysResealRule : Rule :=
  { sig := { opcode := 0x000B, gated := true, slow := true }
    can := fun _ _ d => !(flashHeld d)
    out := fun _ _ d => .later .flash (journalAppend 6 0 [0] true (raise .sealRestored [] { d with prs := { d.prs with latch := false } })) }

/-- sys.fw_update (R393): the image is programmed into the slot not booted from, with IMAGE_SEQ one more than the running image's; the
answer comes once it is verified (FLASH_PROGRAM_DONE). -/
def sysFwUpdateRule : Rule :=
  { sig := { opcode := 0x000C, reads := true, gated := true, slow := true, dram := true, args := [.addr, .num 513 4194304]
             ranges := fun a => [(argN a 0, argN a 1, false)] }
    can := fun _ a d => (poisonIn d (argN a 0) (argN a 1)).isNone && !flashHeld d && decide (d.chip.minSvn ≤ (imageAt d (argN a 0) (argN a 1)).svn)
    out := fun _ a d =>
      match poisonIn d (argN a 0) (argN a 1) with
      | some g => poisoned g d
      | none =>
        let img := imageAt d (argN a 0) (argN a 1)
        if flashHeld d then no d .refused .padsHeld
        else if img.svn < d.chip.minSvn then no d .badArgument .svn
        else
          .later .fwUpdate { d with nv := { d.nv with
            programs := d.nv.programs ++ [.firmware { img with imageSeq := runningSeq d + 1 }] } } }

/-- sys.nv_erase (R398): both journal slots, with SCOPE 1 the checkpoint slots too; REFUSED while a job is RUNNING or SCHEDULED. -/
def sysNvEraseRule : Rule :=
  { sig := { opcode := 0x000D, gated := true, slow := true, args := [.flag] }
    can := fun _ _ d => !(jobRunning d || jobScheduled d) && !(flashHeld d)
    out := fun _ a d => .later .erase { d with nv := { d.nv with cmdErases := d.nv.cmdErases ++ (if argB a 0 then [(0, false), (1, false), (2, false), (3, true)] else [(0, false), (1, true)]) } } }

/-- sys.peek (Table 14.12): the bytes at a device DRAM address. -/
def sysPeekRule : Rule :=
  { sig := { opcode := 0x000E, reads := true, dram := true, args := [.addr, .mul 4 1984 4], ranges := fun a => [(argN a 0, argN a 1, false)]
             results := fun a => argN a 1 / 4 }
    can := fun _ a d => (poisonIn d (argN a 0) (argN a 1)).isNone
    out := fun _ a d =>
      match poisonIn d (argN a 0) (argN a 1) with
      | some g => poisoned g d
      | none => ok d (bytesWords (dramRead d (argN a 0) (argN a 1))) }

/-- sys.nv_status (Table 17.8): scalars as results; the holding records and the last gap report's rows per head are copied to DEST. -/
def sysNvStatusRule : Rule :=
  { sig := { opcode := 0x000F, dram := true, args := [.addr], results := fun _ => 19 }
    can := fun _ a d => inDram d (argN a 0) (nvBody d).length
    out := fun _ a d => ok (dramWrite 8 (argN a 0) (nvBody d) d) (nvWords d) }

/-- sys.nv_set (R245, R401): DRAM_CAP or CHECKPOINT_S, OK once committed. -/
def sysNvSetRule : Rule :=
  { sig := { opcode := 0x0012, slow := true, args := [.one [5, 7], .any] }
    can := fun _ a d => !decide (argN a 0 = 7 ∧ ¬(60 ≤ argN a 1 ∧ argN a 1 ≤ 3600)) && !(flashHeld d)
    out := fun _ a d => .later .flash (journalAppend (argN a 0) 0 (leBytes 4 (argN a 1)) true d) }

/-- forager.copy (R357): DESC_ADDR, COUNT, NODE; the descriptors as the host memory at DESC_ADDR holds them. -/
def foragerCopyRule (descs : List U8) : Rule :=
  let n := descs.length / 32
  let ds := (List.range n).map (fun k => foragerDesc descs k)
  { sig := { opcode := 0x0010, slow := true, dram := true, args := [.addr, .any, .num 0 254]
             ranges := fun a => if argN a 2 = 0 then (ds.take (argN a 1)).map (fun x => (x.2.1, x.2.2.1, false)) else [] }
    can := fun _ a d =>
      let ds := ds.take (argN a 1)
      !decide (n < argN a 1) && !(ds.any (fun x => decide (x.2.2.1 < 1 ∨ 2 ^ 31 < x.2.2.1))) && !(ds.any (fun x => !x.2.2.2.2))
        && !decide (argN a 2 ≠ 0 ∧ ds.any (fun x => x.2.2.2.1)) && ((ds.filter (fun x => x.2.2.2.1)).findSome? (fun x => poisonIn d x.2.1 x.2.2.1)).isNone
    out := fun c a d =>
      let ds := ds.take (argN a 1)
      let todo := ds.zipIdx.flatMap (fun e => cutCopy e.2 e.1.2.2.2.1 (e.1.2.2.1 / 512 + 1) e.1.1 e.1.2.1 e.1.2.2.1)
      let j : ForagerJob := { key := keyOf c.origin, seq := c.seq, node := BitVec.ofNat 8 (argN a 2), todo := todo, fail := none
                              freed := 0, moved := 0, lost := false }
      if ds.all (fun x => x.2.2.2.1) ∧ (argN a 2 = 0 ∨ ds.isEmpty) then
        (match postAll todo d with
        | (none, d) => ok d (w64 ((ds.map (fun x => x.2.2.1)).sum))
        | (some g, d) => poisoned g d)
      else startForager j d }

/-- forager.status (Table 14.12). -/
def foragerStatusRule : Rule :=
  { sig := { opcode := 0x0011, results := fun _ => 6 }
    out := fun _ _ d =>
      ok d (put64 (put64 [w32 d.mbx.buffers.length, w32 d.mbx.buffers.length] d.mbx.foragerBytes.toNat)
           d.mbx.foragerErrors.toNat) }

/-- sz.status (Table 14.14): the emulation state is not stated and is a free value. -/
def szStatusRule : Rule :=
  { sig := { opcode := 0x0F00, results := fun _ => 86 }
    out := fun _ _ d =>
      let (v, d') := draw d
      ok d' ((List.range 40).foldl (fun ws h => put64 ws (d.acct.live[2].heads.getD h {}).fired.toNat)
        (put64 (put64 [w32 v.toNat] d.sz.accesses.toNat) d.sz.ignored.toNat)) }

/-- sz.map (Table 14.14): SZ6 head slot k to head Hn, in the heads that Stolzar mode drives (R359). -/
def szMapRule : Rule :=
  { sig := { opcode := 0x0F01, args := List.replicate 16 (.num 0 15) }
    can := fun _ _ d => !(jobRunning d)
    out := fun _ a d => ok { d with sz := { d.sz with slotHead := Vector.ofFn (fun k => argN a k.val) } } }

/-- The command doorbell (R340, R406). -/
def mbxCmdTailWriteRule (v : U32) : Row := { can := hostReach, out := setCmdTail v }

/-- The host frees response slots (R339, R340). -/
def mbxRspHeadWriteRule (v : U32) : Row := { can := hostReach, out := setRspHead v }

/-- The host frees event slots (R339, Table 18.12). -/
def mbxEvtHeadWriteRule (v : U32) : Row := { can := hostReach, out := setEvtHead v }

/-- The host clears interrupt bits (R407). -/
def irqStatusWriteRule (v : U32) : Row := { can := hostReach, out := clearIrq v }

/-- HOLDOFF after a bit's setting its vector is signalled, if the bit and its enable are both still 1 (R407). -/
def irqHoldoffExpiryRule (evt : Bool) : Row :=
  { can := fun d =>
      let k := b2n evt
      ((if evt then d.mbx.holdEvt else d.mbx.holdRsp)) &&
      (let d := modMbx d (fun m => if evt then { m with holdEvt := false } else { m with holdRsp := false })
       (bitOf d.mbx.irqStatus.toNat k && bitOf d.mbx.irqEnable.toNat k))
    out := fun d =>
      let k := b2n evt
      let d := modMbx d (fun m => if evt then { m with holdEvt := false } else { m with holdRsp := false })
      (signalVector k d) }

/-- A host write to PWR_WAKE (R408). -/
def pwrWakeWriteRule (v : U32) : Row := { can := hostReach, out := writeWake v }

/-- A host write to PWR_PAD_RELEASE (R371, R408). -/
def pwrPadReleaseWriteRule (v : U32) : Row := { can := hostReach, out := releasePads v }

/-- A host write to PRS_CLOSE (R410). -/
def prsCloseWriteRule (v : U32) : Row := { can := hostReach, out := writeClose v }

/-- A host write to DIAG_CLEAR (R412). -/
def diagClearWriteRule (v : U32) : Row := { can := hostReach, out := writeDiagClear v }

/-- Any other host write to BAR0: registers, MSI-X table, mailbox SRAM (R403, R404). -/
def registerWriteRule (offset : Nat) (bytes : List U8) : Row :=
  { can := hostReach, out := writeWords (bytes.length / 4 + 1) offset bytes }

/-- An access through BAR2, which maps the 256 MiB from BAR2_BASE (Table 14.12): a write reaches DRAM as source 1; a read returns data and
changes nothing, or poisoned data (Table 10.2). During a trip DRAM serves nothing (R385). -/
def bar2AccessRule (offset : Nat) (write : Option (List U8)) (len : Nat) : Row :=
  { can := fun d =>
      let a := d.mbx.bar2Base + offset
      (hostReach d && d.pwr.state == .run && memTakes d && !quiescing d 8 && d.dram.ok && !d.therm.trip && decide (offset + len ≤ 2 ^ 28) && inDram d a len)
    out := fun d =>
      let a := d.mbx.bar2Base + offset
      match write with
      | some b => (dramWrite 1 a (b.take len) d)
      | none =>
        if holdsRequests d then modDram d (fun m => { m with waiting := m.waiting ++ [⟨1, a, none, len, []⟩] })
        else completeRead a len (touch false a len d) }

/-- An access to the SZ6 register window (R358): counted; a write to a register that is not supported is ignored and counted. What a
supported register does is the SZ6's, not this manual's; its value is kept. -/
def sz6WindowAccessRule (offset : U16) (write : Option U32) (supported : Bool) : Row :=
  { can := fun d => (alive d && d.chip.modeSz && d.chip.pcieUp)
    out := fun d =>
      let d := { d with sz := { d.sz with accesses := d.sz.accesses + 1 } }
      match write with
      | none =>
        let (v, d) := if supported then draw d else (0, d)
        { d with chip := { d.chip with completions := (leBytes 4 v.toNat, false) :: d.chip.completions } }
      | some v =>
        if supported then
          { d with sz := { d.sz with regs := (offset.toNat, v) :: d.sz.regs.filter (fun r => r.1 != offset.toNat) } }
        else { d with sz := { d.sz with ignored := d.sz.ignored + 1 } } }

/-- A host read of the forager engine ends (R357): its data is written to DRAM, or sent as a job data write to the target node, and its
buffer freed; an error frees the buffer and stops the command's issuing. -/
def foragerReadDoneRule (buffer : Fin 64) (data : Option (List U8)) : Row :=
  { can := fun d => (d.mbx.buffers.find? (fun r => r.buffer == buffer)).any (fun r => d.mbx.fjobs.any (fun j => readOf j r))
    out := fun d =>
      match d.mbx.buffers.find? (fun r => r.buffer == buffer) with
      | none => d
      | some r =>
        let d := modMbx d (fun m => { m with buffers := m.buffers.erase r })
        match d.mbx.fjobs.find? (fun j => readOf j r) with
        | none => d
        | some j =>
          let j' := foragerStep r data j
          let d := issueAll (modMbx (foragerTake r j data d) (fun m => { m with fjobs := m.fjobs.map (fun x => if x == j then j' else x) }))
          (match d.mbx.fjobs.find? (fun x => x.seq == j.seq && x.key == j.key) with | some x => endForager x d | none => d) }

/-- A Block Write to 0x40: a PEC mismatch is not acknowledged (0x68), nor is a write while the state is 1 or 2 (0x69); otherwise the
command is delivered and the state becomes 1. In DEEP SLEEP only the address byte is acknowledged. -/
def mgmtBlockWriteRule (bytes : List U8) (pecOk : Bool) : Row :=
  { can := fun d => (ready d && (d.pwr.state == .run || d.pwr.state == .sleep)) && pecOk && d.mbx.mgmtState == 0 && decide (bytes.length ≤ 252)
    out := fun d =>
      if !pecOk then (violation 0x68 6 0 1 d)
      else if d.mbx.mgmtState != 0 then (violation 0x69 6 0 1 d)
      else if bytes.length ≤ 252 then (wakeCores (modMbx d (fun m => { m with mgmtState := 1, mgmtCmd := bytes, mgmtResp := none, mgmtRead := false })))
      else d }

/-- A Block Read from 0x41 returns the response and sets the state to 0. -/
def mgmtBlockReadRule : Row :=
  { can := fun d => (ready d && d.mbx.mgmtState == 2 && (d.pwr.state == .run || d.pwr.state == .sleep))
    out := fun d =>
      (modMbx d (fun m => { m with mgmtState := 0, mgmtResp := none, mgmtCmd := [] })) }

/-- The address byte on the management bus in DEEP SLEEP: a match acknowledges and wakes the device (R373). The general call and the alert
response address match nothing here. -/
def mgmtAddressMatchRule (addr : BitVec 7) : Row :=
  { can := fun d => alive d && addr.toNat == mgmtAddr d && (d.pwr.state == .deep || (d.pwr.phase == 2 && d.pwr.target == .deep))
    out := fun d => (wakeSource 2 d) }

/-- An ASYNC command completes: its final response is remembered and EV_COMMAND_DONE carries SEQ, OPCODE and the final STATUS. -/
def commandDoneRule (seq : U32) : Row :=
  { can := fun d => d.mbx.inFlight.any (fun e => e.async && e.seq == seq && e.final.isSome)
    out := fun d =>
      match d.mbx.inFlight.find? (fun e => e.async && e.seq == seq && e.final.isSome) with
      | none => d
      | some e =>
        match e.final with
        | none => d
        | some r => commandDone e r d }

/-- A relay message (MSG_TYPE 0x0030, Table 14.7) arrives from node `src`. A command is delivered for the row of its own; a response
answers the tag that waits for it, or is discarded and counted; an event is written with EVENT_SCOPE 1 by a HOST_EVENTS holder. -/
def mervanRelayReceivedRule (src : U8) (body : RelayBody) : Row :=
  { can := fun d => !(!domainRuns d 7 || (paired d && d.red.role == .standby)) && (match body with | .event _ _ _ _ _ _ => d.mbx.hostEvents && d.mbx.eventScope && d.nv.stage == .ready | _ => true)
    out := fun d =>
      match body with
      | .command uid => (wakeCores (modMbx d (fun m => { m with relayIn := m.relayIn ++ [(src, uid)] })))
      | .response tag seq status orig reason detail results =>
        match d.mbx.inFlight.find? (fun e => e.work.relayNode == some src && e.tag == tag && e.seq == seq) with
        | some e => (relayAnswer e status orig reason detail results d)
        | none =>
          match d.mbx.inFlight.find? (fun e => e.work.isFenceAt src && e.seq == seq) with
          | some e =>
            if status = 0 then (finish e { results := w64 e.work.moved } d)
            else (finish e { status := .refused, reason := .dataLost } d)
          | none => (modDiag d (fun g => { g with relayLate := satAdd g.relayLate 1 }))
      | .event name node evseq ft wp args =>
        if d.mbx.hostEvents && d.mbx.eventScope && d.nv.stage == .ready then
          (writeEvent { name := .raw name, node := node, relayed := true, phase := false, lost := 0, evseq := evseq,
                               ftime := ft, wpos := wp, args := args } d)
        else d }

/-- 8 ms after sending, no response has arrived (R350). -/
def relayTimeoutRule (tag : BitVec 6) : Row :=
  { can := fun d => (d.mbx.inFlight.find? (fun e => e.tag == tag && e.work.isRemote)).isSome
    out := fun d =>
      match d.mbx.inFlight.find? (fun e => e.tag == tag && e.work.isRemote) with
      | some e =>
        let r : Reason := match e.work with | .fence _ _ _ => .dataLost | _ => .relayTimeout
        (finish e { status := .refused, reason := r } d)
      | none => d }

/-- PRESENCE_N has been low for 2 s: the window opens, or an open window starts its 300 s again. -/
def presenceHoldRule : Row :=
  { can := fun d => (alive d && d.pwr.state != .off)
    out := fun d =>
      let d' := { d with prs := { d.prs with window := true, openAt := d.chip.qtime, pressed := true } }
      if d.prs.window then d' else (raise .presenceOpen [] (setIrq 3 d')) }

/-- 300 s after the last 2 s hold the window closes. -/
def presenceWindowExpiryRule : Row :=
  { can := fun d => (d.prs.window)
    out := fun d => (closeWindow d) }

/-- One test of the propolis seal, made every 1 ms outside OFF: consecutive failures and passes are counted. -/
def sealTestRule (pass : Bool) : Row :=
  { can := fun d => (alive d && d.pwr.state != .off)
    out := fun d =>
      { d with prs := { d.prs with
        tests := if pass then (0, min 3 (d.prs.tests.2 + 1)) else (min 3 (d.prs.tests.1 + 1), 0) } } }

/-- The loop becomes open after three consecutive failed tests: the seal-broken latch is set in the journal if it is not set,
EV_SEAL_OPENED is raised, and gated work in progress is abandoned. -/
def sealLoopOpenRule : Row :=
  { can := fun d => (alive d && decide (3 ≤ d.prs.tests.1) && !d.prs.loopOpen)
    out := fun d =>
      let d' := { d with prs := { d.prs with loopOpen := true, latch := true } }
      let d' := if d.prs.latch then d' else journalAppend 6 0 [1] false d'
      (abandonGated (raise .sealOpened [] (setIrq 3 d'))) }

/-- The loop becomes closed again after three consecutive passing tests; that clears nothing else. -/
def sealLoopClosedRule : Row :=
  { can := fun d => (alive d && decide (3 ≤ d.prs.tests.2) && d.prs.loopOpen)
    out := fun d =>
      { d with prs := { d.prs with loopOpen := false } } }

/-- RESET_N rises with PWR_GOOD high and XO running: straps are sampled and the boot sequence starts (R1, R307, R388, R420). -/
def resetNRiseRule (straps : Straps) (dies : List DieInfo) : Row :=
  { can := fun d =>
      !(d.chip.resetN) &&
      (let d := { d with
         chip := { d.chip with resetN := true, modeSz := straps.modeSz, unitB := straps.unitB, addr := straps.addr }
         dram := { d.dram with dies := dies } }
       (alive d))
    out := fun d =>
      let d := { d with
        chip := { d.chip with resetN := true, modeSz := straps.modeSz, unitB := straps.unitB, addr := straps.addr }
        dram := { d.dram with dies := dies } }
      (startBoot d) }

/-- RESET_N falls: the device is reset; held pads return to their reset state (R416, Table 15.8). Commands in flight end without a
response (R18). -/
def resetNFallRule : Row :=
  { can := fun d => (d.chip.resetN)
    out := fun d =>
      let d := inReset (if powered d then 1 else 0) d
      { d with chip := { d.chip with resetN := false } } }

/-- PWR_GOOD low (R417). -/
def pwrGoodLowRule : Row :=
  { can := fun d => d.chip.pwrGood
    out := fun d =>
      let d := powerLost d
      { d with chip := { d.chip with pwrGood := false } } }

/-- PWR_GOOD high again: the boot sequence starts when RESET_N is high (R388, R417). -/
def pwrGoodHighRule : Row :=
  { can := fun d => !d.chip.pwrGood
    out := fun d => powerBack { d with chip := { d.chip with pwrGood := true } } }

/-- A VIO bank falls below 1.50 V for 10 µs (R419): outputs high-impedance, EV_VIO_LOW, and a supply out of range (R13). VIO_AON acts as
PWR_GOOD low (R417). -/
def vioLowRule (bank : Fin 6) : Row :=
  { can := fun d => !d.chip.vioLow[bank]
    out := fun d =>
      if bank = 0 then setBank 0 true (powerLost d)
      else if alive d then accountingBreak 0 (raise .vioLow [w32 bank.val, 0] (setBank bank true d))
      else setBank bank true d }

/-- A VIO bank returns above 1.55 V for 1 ms: restored, EV_VIO_LOW marked so (R419). -/
def vioRestoredRule (bank : Fin 6) : Row :=
  { can := fun d => d.chip.vioLow[bank]
    out := fun d =>
      if bank = 0 then powerBack (setBank 0 false d)
      else if alive d then raise .vioLow [w32 bank.val, 1] (setBank bank false d)
      else setBank bank false d }

/-- A clock fault: XO absent for 10 µs, or PLL lock lost while it is enabled (R361): lane transmitters and WF pins off, FAULT_N low. -/
def clockFaultRule (pll : Bool) : Row :=
  { can := fun d => (alive d && d.pwr.state != .off && !(pll && d.pwr.state == .deep))
    out := fun d =>
      let d' := { d with chip := { d.chip with
        clockFault := true, lastClockFault := some pll, txOff := true, wfOn := false, xoOk := pll } }
      (noteFault d d') }

/-- 1 ms after a clock fault the device is reset as RESET_N would, with cause 2; while XO stays absent it stays in reset (R361). -/
def clockFaultResetRule : Row :=
  { can := fun d =>
      (d.chip.clockFault) &&
      (let d := inReset 2 d
       (alive d))
    out := fun d =>
      let d := inReset 2 d
      (startBoot d) }

/-- XO runs again: a device held in reset by its absence starts (R361, R388). -/
def xoRestoredRule : Row :=
  { can := fun d =>
      !(d.chip.xoOk) &&
      (let d := { d with chip := { d.chip with xoOk := true } }
       !(d.chip.clockFault) && (alive d))
    out := fun d =>
      let d := { d with chip := { d.chip with xoOk := true } }
      (startBoot d) }

/-- BOOT_IMAGE_VERIFIED (R391, R392): an image that the boot ROM accepts starts; one that it refuses has the other slot tried, and with both refused
the chip stops in BOOT_FAILED. -/
def bootImageVerifiedRule (slot : Bool) : Row :=
  { can := fun d => (alive d && d.nv.stage == .rom && slot == trySlot d)
    out := fun d =>
      match (slotImage d slot).filter (fun i => imageOk d (some i)) with
      | some i => startImage slot i d
      | none =>
        if d.nv.refused = 0 then { d with nv := { d.nv with refused := 1 } }
        else noteFault d (setIrq 7 { d with nv := { d.nv with stage := .failed }, chip := { d.chip with bootFailed := true } }) }

/-- Firmware has not made the command interface ready within 1 s of starting: the boot watchdog resets the device with cause 3 and a
failed start of the first slot is counted (R391). -/
def bootWatchdogRule : Row :=
  { can := fun d => (alive d && d.nv.stage == .starting)
    out := fun d =>
      let n := if d.nv.slot == firstSlot d then d.nv.failedStarts + 1 else d.nv.failedStarts
      let d := inReset 3 d
      (startBoot { d with nv := { d.nv with failedStarts := n } }) }

/-- The command interface becomes ready: firmware has started and DRAM is trained or unavailable (Table 17.7). -/
def bootedRule : Row :=
  { can := fun d => (alive d && d.nv.stage == .starting && d.dram.work.isNone)
    out := fun d => (bootUp d) }

/-- The oldest journal or firmware program in progress completes (R393, R395). -/
def flashProgramDoneRule : Row :=
  { can := fun d => flashPins d && !waitsErase 128 143 d && (d.nv.programs.find? FlashWork.isRecord).isSome
    out := fun d =>
      match (if !flashPins d || waitsErase 128 143 d then none else d.nv.programs.find? FlashWork.isRecord) with
      | none => d
      | some p =>
        let d := { d with nv := { d.nv with programs := d.nv.programs.eraseP FlashWork.isRecord } }
        match p with
        | .journal r reply =>
          let d := afterRecord r (putRecord r d)
          (if reply then finishWork (· == .flash) {} d else d)
        | .firmware i => (putImage i d)
        | _ => d }

/-- Less than 64 KiB of the current slot remains: compaction begins with the erase of the other slot (R396). -/
def journalCompactionRule : Row :=
  { can := fun d => ready d && erasesMay d && d.nv.cmdErases.isEmpty && !d.nv.compacting && (match d.nv.journal[d.nv.cur] with | some sl => decide (524288 < sl.used + 65536) | none => false)
    out := fun d =>
      match d.nv.journal[d.nv.cur] with
      | none => d
      | some sl =>
        if ready d && erasesMay d && d.nv.cmdErases.isEmpty && !d.nv.compacting && decide (524288 < sl.used + 65536) then
          let other := if d.nv.cur = 0 then 1 else 0
          { d with nv := { d.nv with compacting := true, erases := d.nv.erases ++ [other] } }
        else d }

/-- An erase completes (R396, R398, R399, R401): the slot is blank; compaction goes on; sys.nv_erase answers after its last erase. -/
def flashEraseDoneRule : Row :=
  { can := fun d => flashPins d && !((if erasesMay d then d.nv.erases else []).isEmpty && d.nv.cmdErases.isEmpty)
    out := fun d =>
      match (if erasesMay d then d.nv.erases else []), d.nv.cmdErases with
      | e :: rest, _ => eraseSlot e { d with nv := { d.nv with erases := rest } }
      | [], (e, last) :: rest =>
        let d := eraseSlot e { d with nv := { d.nv with cmdErases := rest } }
        (if last then finishWork (· == .erase) {} d else d)
      | [], [] => d }

/-- CHECKPOINT_S of fabric time has passed (R401): the checkpoint is captured at the next repeat boundary, at once when no boundaries run.
-/
def checkpointTimerRule : Row :=
  { can := fun d => (ready d && d.pwr.state == .run && d.nv.writing.isNone && flashPins d && mayCapture d)
    out := fun d =>
      if d.jobs.boundaries then { d with nv := { d.nv with due := true } } else (captureCheckpoint d) }

/-- The checkpoint being written commits (R401); a request for DEEP SLEEP or OFF that waited for it enters phase 1 (R366). -/
def checkpointCommittedRule : Row :=
  { can := fun d => checkpointFits d && d.nv.writing.isSome
    out := fun d =>
      match (if !checkpointFits d then none else d.nv.writing) with
      | none => d
      | some c =>
        let d := commitCheckpoint c d
        if d.pwr.phase == 3 then (startPhase1 d) else d }

/-- The domain whose turn it is has drained (R367). D_CTL drains only once every accepted command but pwr.state is answered and the
journal writes are complete (Table 15.5). -/
def domainDrainedRule : Row :=
  { can := fun d => d.pwr.phase == 1 && !d.therm.trip && (match d.pwr.todo with | k :: _ => drained d k | [] => false)
    out := fun d =>
      match d.pwr.todo with
      | [] => d
      | k :: rest =>
        if d.pwr.phase == 1 && drained d k && !d.therm.trip then
          let d := quiet k rest d
          if rest.isEmpty then (allQuiesced d) else (nextDomain d)
        else d }

/-- 1 ms has passed and the domain has not drained: DRAIN_TIMEOUT, with its number (R368). -/
def drainTimeoutRule : Row :=
  { can := fun d => (d.pwr.phase == 1)
    out := fun d => (refuseEntry .drainTimeout d.pwr.todo.head? d) }

/-- pwr.state (R366, R367, R375): TARGET, RETAIN, LINK_DOWN_OK. TARGET RUN wakes a device in SLEEP through the management transport. -/
def pwrStateRule : Rule :=
  { sig := { opcode := 0x0800, slow := true, args := [.num 0 3, .num 0 15, .flag] }
    can := fun c a d => !(d.pwr.phase != 0) && (argN a 0 == 0 || (entryRefusal c a d).isNone)
    out := fun c a d =>
      if argN a 0 = 0 then (if d.pwr.state == .sleep then .after {} d (wakeUp 3) else ok d)
           else
             match entryRefusal c a d with
             | some r => .reply { status := .refused, reason := r } (setIrq 5 d)
             | none =>
               let t : PState := if argN a 0 = 1 then .sleep else if argN a 0 = 2 then .deep else .off
               let d := { d with pwr := { d.pwr with
                 target := t, retain := BitVec.ofNat 4 (argN a 1), viaMgmt := c.origin == .mgmt, own := false } }
               if t == .sleep || !mayCapture d then .later .pwr (startPhase1 d)
          else .later .pwr (captureCheckpoint { d with pwr := { d.pwr with phase := 3 } }) }

/-- pwr.status (Table 15.9). The quiesce times and the IDLE residency are times that the model does not keep: free values. -/
def pwrStatusRule : Rule :=
  { sig := { opcode := 0x0801, results := fun _ => 24 }
    out := fun _ _ d =>
      let st := match d.pwr.state with | .run => if d.pwr.idle then 1 else 0 | .sleep => 2 | .deep => 3 | .off => 4
      let rest := if d.pwr.idle then d.pwr.residency + (d.chip.qtime - d.pwr.idleAt) else d.pwr.residency
      ok d (put64 (w32 st :: condWords d ++ [w32 d.pwr.held.toNat, w32 d.pwr.lastWake.toNat,
        w32 (match d.chip.lastClockFault with | none => 0 | some false => 1 | some true => 2)]) (rest / 4)) }

/-- pwr.idle (R365). -/
def pwrIdleRule : Rule :=
  { sig := { opcode := 0x0802, args := [.flag] }
    out := fun _ a d =>
      let d := if argB a 0 then d else wakeCores d
      done { d with pwr := { d.pwr with idleOn := argB a 0 } } }

/-- All four control cores wait with no work: CLK_CTL is gated (R365). -/
def idleEntryRule : Row :=
  { can := fun d => (ready d && d.pwr.state == .run && d.pwr.idleOn && !d.pwr.idle && d.mbx.inFlight.isEmpty && d.mbx.cmdHead == d.mbx.cmdTail
      && d.mbx.relayIn.isEmpty && d.mbx.mgmtState != 1 && d.pwr.phase == 0)
    out := fun d =>
      { d with pwr := { d.pwr with
        idle := true, idles := d.pwr.idles + 1, idleAt := d.chip.qtime, cond := d.pwr.cond.set 1 .gated } } }

/-- An interrupt of the control cores ends IDLE (R365). -/
def idleExitRule : Row :=
  { out := fun d => wakeCores d }

/-- WAKE_N low for 10 µs (R374): a full boot from OFF, a wake from SLEEP or DEEP SLEEP, a refusal of an entry in phase 1; no effect in
RUN. -/
def wakeNLowRule : Row :=
  { can := fun d => alive d
    out := fun d0 =>
      let d := if d0.pwr.phase == 2 then enterState d0 else d0
      if d.pwr.state == .off then startBoot (inReset 0 d)
      else (wakeSource 1 d) }

/-- An encoder edge (R87, R91): a count of the driving encoder, or an illegal transition, which is counted in DIAG. Followers ignore their
encoder inputs. -/
def encoderCountRule (enc : Fin 2) (edge : EncEdge) : Row :=
  { can := fun d =>
      !(!encPins d || d.pos.role == .follower || !encUsed d.pos enc)
        && (edge == .both || (enc == d.pos.driving && !d.pos.frozen && !d.pos.relock))
    out := fun d =>
      if edge == .both then illegalEdge enc d
      else
        let fwd := (edge == .bLeads) == d.pos.invert[enc]
        let one : Int := if fwd then 1 else -1
        let d := { d with pos := { d.pos with encs := updAll d.pos.encs (fun k e =>
          if k = enc then { e with window := e.window + one, since := e.since + one, quiet := 0 } else { e with quiet := e.quiet + one }) } }
        holdLoop (checkReverse (driveCount fwd d)) }

/-- The driving encoder is faulted by four illegal transitions in 1 ms or by loss (Table 4.2). A deputy raises the events and does no more. -/
def encoderFaultedRule (enc : Fin 2) (why : EncFault) : Row :=
  { can := fun d =>
      let shown := match why with | .illegal => illegalBurst d.pos.encs[enc] | .loss => encoderLost d.pos enc
      !(!posOn d || d.pos.role == .follower || !encUsed d.pos enc || !shown || d.pos.encs[enc].faulted)
        && enc == (if d.pos.role == .deputy && d.pos.encs[d.pos.driving].faulted then otherEnc d.pos.driving else d.pos.driving)
    out := fun d =>
      let d := { d with pos := { d.pos with encs := upd d.pos.encs enc (fun e => { e with faulted := true }) } }
      if d.pos.role == .master then (drivingFaulted enc d)
      else if d.pos.encMode = 1 ∧ !d.pos.encs[otherEnc enc].faulted then (raise .encoderFailover [] d)
      else (raise .encoderFault [] d) }

/-- A 10 mm window of the primary ends (R91): EV_ENCODER_DISAGREE at the first failing window of a run, of the two encoders in ENC_MODE 1, and for a
deputy of its own travel against the samples (R107). -/
def encoderWindowEndRule : Row :=
  { can := fun d =>
      let a := countTravel d.pos d.pos.encs[primaryOf d.pos.encMode].window
      !(!posOn d || d.pos.role == .follower || !(d.pos.encMode == 1 || d.pos.role == .deputy) || decide (a.natAbs < 10000000))
    out := fun d =>
      let own := primaryOf d.pos.encMode
      let a := countTravel d.pos d.pos.encs[own].window
      let fail := d.pos.encMode == 1 && travelsDiffer d.pos a (countTravel d.pos d.pos.encs[otherEnc own].window)
      let heard := d.pos.valid && !d.pos.deputyOn && d.pos.sample.isSome && decide (d.chip.qtime < d.pos.sampleAt + 200000)
      let off := d.pos.role == .deputy && (if heard then travelsDiffer d.pos a d.pos.sampleWindow else d.pos.offSamples)
      let was := d.pos
      let d := { d with pos := { d.pos with
        encs := mapAll d.pos.encs (fun e => { e with window := 0 }), sampleWindow := 0, disagreeing := fail, offSamples := off } }
      let d := if fail && !was.disagreeing then raise .encoderDisagree [] d else d
      if off && !was.offSamples then raise .encoderDisagree [] d else d }

/-- An index pulse ends an index period (R91): every failing period is counted, the first of a run raises EV_ENCODER_SLIP. -/
def indexPulseRule (enc : Fin 2) : Row :=
  { can := fun d =>
      let e := d.pos.encs[enc]
      !(!encPins d || d.pos.role == .follower || !encUsed d.pos enc || d.pos.indexPitch == 0)
    out := fun d =>
      let e := d.pos.encs[enc]
      let fail := e.indexed && decide (d.pos.indexTol < ((e.since.natAbs : Int) - d.pos.indexPitch).natAbs)
      let d := { d with pos := { d.pos with encs := upd d.pos.encs enc (fun e =>
        { e with since := 0, indexed := true, slipping := fail }) } }
      let d := if fail then modDiag d (fun g => { g with encSlip := satAdd g.encSlip 1 }) else d
      (if fail && !e.slipping then raise .encoderSlip [] d else d) }

/-- No count for STALL_MS (R89): speed 0, WPOS held at the last count. -/
def encoderStallRule : Row :=
  { can := fun d => !(!posOn d || d.pos.role == .follower)
    out := fun d => (holdLoop (refreshPos { d with pos := { d.pos with speed := {}, counts := [], countAt := none, holdSpeed := false } })) }

/-- A product-detect edge (R99 to R102): ignored while WPOS lies below the high-water WPOS (R90), with the wrong polarity, within
PD_DEBOUNCE of the last accepted one, or with no sheet-mode job. -/
def pdEdgeRule (input : Fin 2) (rising : Bool) : Row :=
  { can := fun d =>
      let used := if d.sheet.sel = 0 then input == 0 else if d.sheet.sel = 1 then input == 1 else true
      let near := match d.sheet.lastEdge[input] with | some w => decide (d.pos.wpos.toNat < w.toNat + d.sheet.debounce) | none => false
      !(!encPins d || !active d || d.pos.role != .master || !used || rising != d.sheet.edge[input] || near || decide (d.pos.wpos < d.pos.hwpos) || !sheetsRun d)
    out := fun d =>
      let start := d.pos.wpos.toNat + d.sheet.distance[input]
      let d := { d with sheet := { d.sheet with lastEdge := upd d.sheet.lastEdge input (fun _ => some d.pos.wpos) } }
      if d.sheet.sel = 2 ∧ input = 1 then
        { d with sheet := { d.sheet with
          confirm := d.sheet.confirm.eraseP (fun c => decide (((c.toNat : Int) - start).natAbs ≤ d.sheet.tol)) } }
      else (openSheet input start d) }

/-- The web has travelled PD_TOL beyond the PD0 start with no PD1 edge (R101). -/
def pdConfirmTimeoutRule : Row :=
  { can := fun d => (match d.sheet.confirm with | c :: _ => posOn d && reached d (c.toNat + d.sheet.tol) | [] => false)
    out := fun d =>
      match d.sheet.confirm with
      | c :: rest =>
        if posOn d && reached d (c.toNat + d.sheet.tol) then
          (raise .pdMismatch [] (modDiag { d with sheet := { d.sheet with confirm := rest } }
            (fun g => { g with pdMismatch := satAdd g.pdMismatch 1 })))
        else d
      | [] => d }

/-- A sheet-open notice from the position master (R102). -/
def sheetOpenNoticeReceivedRule (start : U64) (_input : U8) (number : U32) : Row :=
  { can := fun d => (hears d && d.pos.role != .master)
    out := fun d => (placeSheet start number d) }

/-- A multiple of 10 µs of fabric time: a WPOS sample is broadcast (R104, R107). -/
def wposSampleBroadcastRule : Row :=
  { can := fun d => (broadcasts d)
    out := fun d =>
      let m := mkSample d
      (broadcast .timing 0x0001 (samplePayload m) { d with pos := { d.pos with sent := m :: d.pos.sent } }) }

/-- A WPOS sample arrives (R105 to R108). -/
def wposSampleReceivedRule (sample : WposSample) : Row :=
  { can := fun d => takesSample d sample
    out := fun d =>
      let d := checkSampleConfig sample d
      let lostBefore := d.pos.role != .master && d.pos.sample.isSome && !d.pos.valid
      if sample.fault then (faultSample lostBefore sample d)
      else
        let thawed := d.pos.role == .deputy && d.pos.frozen && (match d.pos.sample with | some l => l.fault | none => false)
        let d := if thawed then { d with pos := { d.pos with frozen := false } } else d
        let d := learnJob sample (proveChange sample (followSample sample d))
        (lockPromotion (holdLoop (if lostBefore then raise .positionRegained [] (skipPassed d) else d))) }

/-- No sample for 100 µs (R106): a follower commits no further line and skips every pending token under NO_POSITION. -/
def positionLostRule : Row :=
  { can := fun d => (posOn d && d.pos.role != .master && d.pos.valid && !d.pos.deputyOn)
    out := fun d => raise .positionLost [] (skipTokens (fun _ => true) .noPosition { d with pos := { d.pos with valid := false } }) }

/-- A deputy has heard no sample from the position master for 50 µs and begins to broadcast its own (R107); not after a FAULT sample
(R92). -/
def deputyTakeoverRule : Row :=
  { can := fun d => (posOn d && active d && d.pos.role == .deputy && !d.pos.deputyOn && !d.pos.frozen && d.pos.valid)
    out := fun d =>
      (raise .positionDeputy [] { d with pos := { d.pos with deputyOn := true } }) }

/-- The line rate has exceeded MAX_LINE_RATE by more than 2 % for longer than 1 ms. -/
def overRateDetectRule (rate : Nat) : Row :=
  { can := fun d =>
      let tooMuch : Bool := match d.jobs.running with
        | some j => j.state == .running && decide (102 * j.desc.maxLineRate < 100 * rate)
        | none => false
      (posOn d && tooMuch && !d.feed.overRate)
    out := fun d =>
      (raise .overRate [] { d with feed := { d.feed with overRate := true } }) }

/-- The rate has been at or below MAX_LINE_RATE for 10 ms. -/
def speedLimitReleaseRule : Row :=
  { out := fun d => { d with feed := { d.feed with overRate := false } } }

/-- pos.config (R86, Table 4.1). -/
def posConfigRule : Rule :=
  { sig := { opcode := 0x0110
             args := [.num 0 2, .num 0 2, .num 0 3, .num 1 (2 ^ 32 - 1), .num 1 (2 ^ 32 - 1), .num 0 8, .num 1 1000, .num 0 100000, .any,
             .num 0 255, .num 1 1000, .num 0 100000000, .num 300 2400] }
    can := fun _ a d => !decide (65536 * argN a 4 < argN a 3) && !(d.pos.role != .follower && jobActive d)
    out := fun _ a d => done (setPosConfig a d) }

/-- pos.status (Table 4.7): encoder state is the driving encoder, fault flags are ENC0 faulted, ENC1 faulted, WPOS frozen. -/
def posStatusRule : Rule :=
  { sig := { opcode := 0x0111, results := fun _ => 9 }
    out := fun _ _ d =>
      ok d (w64 d.pos.wpos.toNat ++ w64 d.pos.hwpos.toNat ++
           [i32 (speedUm d), w32 (match d.pos.role with | .follower => 0 | .master => 1 | .deputy => 2), w32 (posSource d),
            w32 d.pos.driving.val,
            w32 (b2n d.pos.encs[(0 : Fin 2)].faulted + 2 * b2n d.pos.encs[(1 : Fin 2)].faulted + 4 * b2n d.pos.frozen)]) }

/-- pos.set (R87). -/
def posSetRule : Rule :=
  { sig := { opcode := 0x0112, args := [.addr] }
    can := fun _ _ d => !(d.pos.role != .master) && !(jobActive d)
    out := fun _ a d => ok (lockPromotion (setWpos (BitVec.ofNat 64 (argN a 0)) d)) }

/-- sheet.config (R99, Table 4.4): PD_EDGE carries one bit per input, PD_DISTANCE one 64-bit argument per input. -/
def sheetConfigRule : Rule :=
  { sig := { opcode := 0x0113
             args := [.num 0 2, .num 0 3, .wide 0 10000000000 1, .wide 0 10000000000 1, .num 0 100000000, .num 0 10000000] }
    can := fun _ _ d => !(jobRunning d && (match d.jobs.running with | some j => j.desc.sheet | none => false))
    out := fun _ a d =>
      done { d with sheet := { d.sheet with
             sel := argN a 0, edge := #v[bitOf (argN a 1) 0, bitOf (argN a 1) 1], distance := #v[argN a 2, argN a 3], debounce := argN a 4
             tol := argN a 5 } } }

/-- job.stage (R41, R42, R86, Table 2.11). -/
def jobStageRule : Rule :=
  { sig := { opcode := 0x0100, works := some 2, reads := true, slow := true, dram := true, stops := true, args := [.addr, .any, .num 20 1000]
             ranges := fun a => [(argN a 0, 64, true)] }
    can := fun _ a d => !(d.pos.mismatch) && !decide (argN a 0 % 64 ≠ 0) && (match getData d (argN a 0) 64 with | .ok b => (match checkJob d (readJob b) true false 0 (min (argN a 1) (readJob b).repeatCount) with | .ok _ => true | .error _ => false) | .error _ => false)
    out := fun _ a d =>
      match getData d (argN a 0) 64 with
      | .error e => stageFailed e d
      | .ok b =>
        let j := readJob b
        let hi := min (argN a 1) j.repeatCount
        match checkJob d j true false 0 hi with
        | .error e => stageFailed e (seeChecks j true false 0 hi d)
        | .ok _ =>
          let j := { j with serial := d.jobs.serial + 1 }
          let x : Job := { addr := argN a 0, desc := j, state := .staged, validThrough := hi, feedWarn := argN a 2, released := 0
                           supply := addSupply d j false {} 0 hi }
          let e := { d with jobs := { d.jobs with serial := j.serial, staged := some x } }
          ok (noteReady d (noteMirror j.key hi (stageLoads j (seeChecks j true false 0 hi e)))) }

/-- job.commit (R51, R52, Table 2.11). -/
def jobCommitRule : Rule :=
  { sig := { opcode := 0x0101, args := [.any, .addr], results := fun _ => 2 }
    can := fun _ a d => (match d.jobs.staged with | some j => d.pos.role == .master && d.jobs.change.isNone && j.desc.jobId == w32 (argN a 0) && !decide (changeW d j.desc (argN a 1) < d.pos.wpos.toNat + max (leadPitches d j.desc) (lead50 d)) | none => false)
    out := fun _ a d =>
      let id := w32 (argN a 0)
      match d.jobs.staged with
      | none => no d .refused (if d.pos.role != .master then .notPositionMaster else .noStagedJob)
      | some j =>
        if d.pos.role != .master then no d .refused .notPositionMaster
        else if d.jobs.change.isSome then no d .busyState
        else if j.desc.jobId != id then no d .refused .noStagedJob
        else
          let w := changeW d j.desc (argN a 1)
          if w < d.pos.wpos.toNat + max (leadPitches d j.desc) (lead50 d) then no d .badArgument .tooClose
          else
            let x : Change := { jobId := id, w := BitVec.ofNat 64 w, postponements := 0, go := false, aborted := false, proof := false,
                                ready := [], acks := [] }
            ok (reportReady id (sendSchedule x (holdSchedule x d))) (w64 w) }

/-- job.append (R42, Table 2.11); a VALID_THROUGH that is not above the present one validates nothing. -/
def jobAppendRule : Rule :=
  { sig := { opcode := 0x0102, slow := true, dram := true, stops := true, args := [.any, .any] }
    can := fun _ a d => (match heldJob d (w32 (argN a 0)) with | some (j, r) => decide (min (argN a 1) j.desc.repeatCount ≤ j.validThrough) || (match checkJob d j.desc false r j.validThrough (min (argN a 1) j.desc.repeatCount) with | .ok _ => true | .error _ => false) | none => false)
    out := fun _ a d =>
      match heldJob d (w32 (argN a 0)) with
      | none => no d .refused .noJob
      | some (j, isRunning) =>
        let hi := min (argN a 1) j.desc.repeatCount
        if hi ≤ j.validThrough then ok d
        else
          match checkJob d j.desc false isRunning j.validThrough hi with
          | .error e => stageFailed e (seeChecks j.desc false isRunning j.validThrough hi d)
          | .ok _ =>
            let p := addSupply d j.desc isRunning j.supply j.validThrough hi
            let e := seeChecks j.desc false isRunning j.validThrough hi d
            ok (noteReady d (noteMirror j.desc.key hi (raiseValid j.desc.key hi p e))) }

/-- job.cancel (Tables 2.1, 2.10, 2.11): a scheduled job returns to STAGED on every device, before go only; a staged one is dropped. -/
def jobCancelRule : Rule :=
  { sig := { opcode := 0x0103, args := [.any] }
    can := fun _ a d => (match d.jobs.staged.filter (fun j => j.desc.jobId == w32 (argN a 0)) with | none => false | some j => if j.state == .scheduled then (match d.jobs.change with | some x => d.pos.role == .master && !x.go | none => true) else true)
    out := fun _ a d =>
      let id := w32 (argN a 0)
      match d.jobs.staged.filter (fun j => j.desc.jobId == id) with
      | none => no d .refused .noJob
      | some j =>
        if j.state == .scheduled then
          match d.jobs.change with
          | some x =>
            if d.pos.role != .master then no d .refused .notPositionMaster
            else if x.go then no d .refused .tooLate
            else ok (broadcast .timing 0x0013 (leBytes 4 id.toNat) (unschedule d))
          | none => ok (unschedule d)
        else ok (noteReady d (dropJobLoads { d with jobs := { d.jobs with staged := none } })) }

/-- job.stop (Table 2.11): the job ends at its next repeat boundary at least 50 ms of travel ahead, and the WPOS is returned; with a
change scheduled, at its next repeat boundary (Table 2.10). -/
def jobStopRule : Rule :=
  { sig := { opcode := 0x0104, args := [.any], results := fun _ => 2 }
    can := fun _ a d => (match d.jobs.running with | some j => j.state == .running && j.desc.jobId == w32 (argN a 0) | none => false)
    out := fun _ a d =>
      match d.jobs.running with
      | none => no d .refused .noJob
      | some j =>
        if j.state != .running || j.desc.jobId != w32 (argN a 0) then no d .refused .noJob
        else
          let w := roundUp d j.desc (if jobScheduled d then d.pos.hwpos.toNat + 1 else d.pos.hwpos.toNat + lead50 d)
          let at_ := match d.jobs.stopAt with | some x => min x.toNat w | none => w
          ok { d with jobs := { d.jobs with stopAt := some (BitVec.ofNat 64 at_) } } (w64 at_) }

/-- job.status (Table 2.11). -/
def jobStatusRule : Rule :=
  { sig := { opcode := 0x0105, results := fun _ => 7 }
    out := fun _ _ d =>
      let id := fun (j : Option Job) => match j with | some x => x.desc.jobId | none => 0
      ok d [id d.jobs.running, id d.jobs.staged, w32 (jobStateNum d.jobs.running), w32 (jobStateNum d.jobs.staged), w32 d.jobs.rep,
            w32 (releasedThrough d), w32 (match d.jobs.change with | some x => x.postponements | none => 0)] }

/-- A schedule from the position master (R53): the device answers ready or not ready. -/
def scheduleReceivedRule (jobId : U32) (w : U64) (postponements : U8) : Row :=
  { can := fun d => !(!ready d || !active d || d.pos.role == .master)
      && !(d.jobs.lost && d.jobs.change.any (fun c => c.jobId != jobId))
    out := fun d =>
      let x : Change := { jobId := jobId, w := w, postponements := postponements.toNat, go := false, aborted := false, proof := false,
                          ready := [], acks := [] }
      (reportReady jobId (holdSchedule x d)) }

/-- Ready or not ready from a device (R53, R54). -/
def readyReceivedRule (node : U8) (jobId : U32) (isReady : Bool) (_reason : U32) : Row :=
  { can := fun d => d.pos.role == .master && (match d.jobs.change with | some c => c.jobId == jobId | none => false)
    out := fun d =>
      match d.jobs.change with
      | some c => (if d.pos.role == .master && c.jobId == jobId then setReady node isReady d else d)
      | none => d }

/-- The decision point, 5 ms of travel before W (R54): go, or a postponement. -/
def decisionPointRule : Row :=
  { can := fun d => (match d.jobs.change with | some c => posOn d && active d && d.pos.role == .master && !c.go && reachedWith d 5000000 c.w.toNat | none => false)
    out := fun d =>
      match d.jobs.change with
      | none => d
      | some c =>
        if !posOn d || !active d || d.pos.role != .master || c.go || !reachedWith d 5000000 c.w.toNat then d
        else
          let late := (activeNodes d).filter (fun n => if n == d.fabric.node then (notReady d c.jobId).isSome else !c.ready.contains n)
          if late.isEmpty then
            let x : Change := { c with go := true, aborted := false, acks := [d.fabric.node] }
            (broadcast .timing 0x0011 (goPayload x) { d with jobs := { d.jobs with change := some x } })
          else (postpone c late d) }

/-- Go for W (R55): acknowledged to the position master. -/
def goReceivedRule (jobId : U32) (w : U64) : Row :=
  { can := fun d => active d && d.pos.role != .master && (masterNode d).isSome && (match d.jobs.change with | some c => c.jobId == jobId && c.w == w | none => false)
    out := fun d =>
      match d.jobs.change, masterNode d with
      | some c, some m =>
        if !active d || d.pos.role == .master || c.jobId != jobId || c.w != w then d
        else
          let d := { d with jobs := { d.jobs with change := some { c with go := true } } }
          (sendTo .control false m 0x0022 (goPayload c) d).2
      | _, _ => d }

/-- A go acknowledgement (R55). -/
def goAckReceivedRule (node : U8) (jobId : U32) (w : U64) : Row :=
  { can := fun d => d.pos.role == .master && (match d.jobs.change with | some c => c.go && c.jobId == jobId && c.w == w && !c.acks.contains node | none => false)
    out := fun d =>
      match d.jobs.change with
      | some c =>
        if d.pos.role == .master && c.go && c.jobId == jobId && c.w == w && !c.acks.contains node then
          { d with jobs := { d.jobs with change := some { c with acks := c.acks ++ [node] } } }
        else d
      | none => d }

/-- The abort deadline, 2 ms of travel before W (R55, R103): with every acknowledgement the position master's own samples prove the
change; otherwise it broadcasts abort and postpones. -/
def abortDeadlineRule : Row :=
  { can := fun d => posOn d && d.pos.role == .master && (match d.jobs.change with | some c => c.go && !c.proof && (match changeStart d c with | some w => reachedWith d 2000000 w | none => false) | none => false)
    out := fun d =>
      match d.jobs.change with
      | none => d
      | some c =>
        let due : Bool := match changeStart d c with | some w => reachedWith d 2000000 w | none => false
        if !posOn d || d.pos.role != .master || !c.go || c.proof || !due then d
        else
          let missing := (activeNodes d).filter (fun n => !c.acks.contains n)
          if missing.isEmpty then { d with jobs := { d.jobs with change := some { c with proof := true } } }
          else (postpone c missing (broadcast .timing 0x0012 (goPayload c) d)) }

/-- An abort for W (R55, R56). -/
def abortReceivedRule (jobId : U32) (w : U64) : Row :=
  { can := fun d => d.pos.role != .master && (match d.jobs.change with | some c => c.jobId == jobId && c.w == w | none => false)
    out := fun d =>
      match d.jobs.change with
      | some c =>
        if d.pos.role != .master && c.jobId == jobId && c.w == w then
          { d with jobs := { d.jobs with change := some { c with go := false, aborted := true, proof := false } } }
        else d
      | none => d }

/-- The position master cancels a change (R54): the job returns to STAGED. -/
def cancelReceivedRule (jobId : U32) : Row :=
  { can := fun d => d.pos.role != .master && (match d.jobs.change with | some c => c.jobId == jobId | none => false)
    out := fun d =>
      match d.jobs.change with
      | some c =>
        let d := { d with jobs := { d.jobs with nextChange := d.jobs.nextChange.filter (fun x => x.jobId != jobId) } }
        (if d.pos.role != .master && c.jobId == jobId then unschedule d else d)
      | none => d }

/-- CHANGE_WPOS (R56, R103): the high-water WPOS reaches the change start of a device that holds go. -/
def changeWposRule : Row :=
  { can := fun d => (match d.jobs.change with | some c => (match changeStart d c with | some w => posOn d && active d && reached d w && c.go && !d.jobs.lost | none => false) | none => false)
    out := fun d =>
      match d.jobs.change with
      | none => d
      | some c =>
        match changeStart d c with
        | none => d
        | some w =>
          if !posOn d || !active d || !reached d w || !c.go || d.jobs.lost then d
          else match d.jobs.staged.filter (fun j => j.desc.jobId == c.jobId), c.proof with
            | some x, true => (doChange x 0 w 0 d)
            | _, _ => (loseChange d) }

/-- REPEAT_BOUNDARY (R32, R47, R103). -/
def repeatBoundaryRule : Row :=
  { can := fun d => !(!posOn d || !active d) && (match resumeIncoming d with | some (_, _, w, _) => reached d w | none => (match d.jobs.running, nextBoundary d with | some _, some (_, start, _) => reached d start && !changeTakes d start | _, _ => false))
    out := fun d =>
      match resumeIncoming d with
      | some (x, n, w, b) => doChange x n w b d
      | none =>
        match d.jobs.running, nextBoundary d with
        | some x, some (n, start, notice) => passBoundary x start n notice (resumeOutgoing start d)
        | _, _ => d }

/-- BAND_CLOSE_NOTICE_RECEIVED (R21). -/
def bandCloseNoticeReceivedRule (band : U32) (w : U64) : Row :=
  { can := fun d => (hears d)
    out := fun d => (noteBandClose band w d) }

/-- BAND_NOTICE_PITCH (R21, R176): the position master issues a band-close notice each NOTICE_PITCH of the high-water WPOS. -/
def bandNoticePitchRule : Row :=
  { can := fun d =>
      let p := d.acct.noticePitch * 1000000
      let last := match d.acct.lastNotice with | some w => w.toNat | none => d.pos.hwpos.toNat / max 1 p * p
      let w := BitVec.ofNat 64 (d.pos.hwpos.toNat - (d.pos.hwpos.toNat - last) % p)
      !(!posOn d || !active d || d.pos.role != .master) && d.acct.lastNotice.isSome && d.acct.noticePitch != 0 && !decide (d.pos.hwpos.toNat < last + p)
        && (noMeasuring { d with acct := { d.acct with lastNotice := some w } }).1
    out := fun d =>
      let p := d.acct.noticePitch * 1000000
      let last := match d.acct.lastNotice with | some w => w.toNat | none => d.pos.hwpos.toNat / max 1 p * p
      let w := BitVec.ofNat 64 (d.pos.hwpos.toNat - (d.pos.hwpos.toNat - last) % p)
      let n := d.acct.noticeNo
      let d := (noMeasuring { d with acct := { d.acct with lastNotice := some w } }).2
      let d := noteBandClose n w { d with acct := { d.acct with noticeNo := n + 1 } }
      broadcast .timing 0x0002 (leBytes 4 n.toNat ++ [0, 0, 0, 0] ++ leBytes 8 w.toNat) d }

/-- BAND_BOUNDARY (R20, R21, R295): WPOS reaches the oldest close; the band set is latched and the fabric credits are audited. -/
def bandBoundaryRule : Row :=
  { can := fun d => posOn d && (match d.acct.bandClose with | (_, w) :: _ => reached d w.toNat | [] => false)
    out := fun d =>
      match d.acct.bandClose with
      | [] => d
      | (n, w) :: rest =>
        if !posOn d || !reached d w.toNat then d
        else (sendAudits (latchPeriod 0 n (bandSetId d) { d with acct := { d.acct with bandClose := rest } })) }

/-- The shadow bank is free and the FKB2 starts a load that waits (R48). -/
def shadowBankLoadRule (t : Tbl) : Row :=
  { can := fun d => dramServes d && !(getBank d t).pending.isSome && d.banks.queue.any (fun r => r.tbl == t)
    out := fun d =>
      match d.banks.queue.find? (fun r => r.tbl == t) with
      | none => d
      | some r =>
        modBank { d with banks := { d.banks with queue := d.banks.queue.erase r } } t (fun b => { b with pending := some r, loaded := false }) }

/-- A shadow-bank load completes (R82); readiness may change (R53). -/
def shadowBankLoadDoneRule (t : Tbl) : Row :=
  { can := fun d => (getBank d t).pending.isSome && !(getBank d t).loaded && dramServes d
    out := fun d =>
      let e := finishLoad t d
      noteReady d { e with jobs := { e.jobs with masterAt := if e.jobs.lost then max e.jobs.masterAt e.pos.hwpos.toNat else e.jobs.masterAt } } }

/-- REPEAT_DUE (R42): the feed decides once whether the repeat is valid. -/
def repeatDueRule : Row :=
  { can := fun d => domainTakes d 2 && dramServes d && (match dueNext d with | some (j, n) => dueReached d j n | none => false)
    out := fun d =>
      match dueNext d with
      | none => d
      | some (j, n) => fallDue j n d }

/-- BLOCK_FETCH (R42, R429): a plane ring has 64 KiB free and the feed requests its next block, of a repeat that has fallen due. -/
def blockFetchRule (plane : Plane) : Row :=
  { can := fun d =>
      !(!domainTakes d 2 || !dramServes d || d.feed.rings[plane].fetching.isSome || !ringFree d plane)
        && (match fetchPlace d plane with | some (j, n, i) => hasFallen d j n && !decide (blockCount d j plane.val n ≤ i) | none => false)
    out := fun d =>
      match fetchPlace d plane with
      | none => d
      | some (j, n, i) =>
        noteReleased (modRing (seeBlock j n plane.val i d) plane (fun r =>
          { r with fetching := some (blockOf d j n plane.val i), place := {}, feedJob := j.key, next := (n, i + 1) })) }

/-- BLOCK_DECOMPRESSED (R46, R230, R232): the outcome of the fetched block, where its output ends within the ring's free bytes. -/
def blockDecompressedRule (plane : Plane) : Row :=
  { can := fun d =>
      let r := d.feed.rings[plane]
      match r.fetching with
      | none => false
      | some (b, bytes) => domainOn d 2 && !r.suspended
          && (match (if b.ok then fkzRun bytes (ringRoom d plane) r.place else .ended .check) with | .ended _ => true | .held _ => false)
    out := fun d =>
      let r := d.feed.rings[plane]
      match r.fetching with
      | none => d
      | some (b, bytes) =>
        match (if b.ok then fkzRun bytes (ringRoom d plane) r.place else .ended .check) with
        | .held _ => d
        | .ended out => endBlock plane b bytes.length out d }

/-- DECOMPRESSOR_RESUME (R232): space frees, and the suspended decompressor of a ring or of the tile area goes on from where it stopped. -/
def decompressorResumeRule (engine : Fin 8) (free : Nat) : Row :=
  { can := fun d =>
      let tile := d.feed.tileHeld && d.feed.tileWork.head?.any (fun t => t.1.plane == engine)
      !(!domainOn d 2 || free == 0 || !(d.feed.rings[engine].suspended || tile))
    out := fun d =>
      let tile := d.feed.tileHeld && d.feed.tileWork.head?.any (fun t => t.1.plane == engine)
      let d := { modRing d engine (fun r => { r with suspended := false }) with
        cz := { d.cz with dec := upd d.cz.dec engine (fun e => { e with stalled := false }) } }
      if tile then resumeTiles d else d }

/-- SCREEN_LINE (R63): the engine has room for a line. -/
def screenLineRule (h : Head) : Row :=
  { can := fun d => (domainOn d 2 && decide (linesHeld d h < 2))
    out := fun d => (screenNext h d) }

/-- A screen.capture without ASYNC whose line was not screened within 10 ms answers TOO_EARLY (R434). -/
def captureTimeoutRule (seq : U32) : Row :=
  { can := fun d => (d.mbx.inFlight.find? (fun e => e.seq == seq && !e.async && e.work.isCapture)).isSome
    out := fun d =>
      match d.mbx.inFlight.find? (fun e => e.seq == seq && !e.async && e.work.isCapture) with
      | some e => (finish e { status := .refused, reason := .tooEarly } d)
      | none => d }

/-- screen.status (Table 3.7). -/
def screenStatusRule : Rule :=
  { sig := { opcode := 0x0300, stops := true, args := [.one ((List.range 40).map Int.ofNat ++ [255])]
             results := fun a => if argN a 0 = 255 then 400 else 10 }
    can := fun _ a d => (argN a 0 == 255 || hasHead d (argN a 0))
    out := fun _ a d =>
      if argN a 0 = 255 then ok d ((List.finRange 40).flatMap (screenWords d))
      else if !hasHead d (argN a 0) then no d .badArgument
      else ok d (screenWords d (finOf 40 (argN a 0))) }

/-- sub.load (R83, Table 3.6). -/
def subLoadRule : Rule :=
  { sig := { opcode := 0x0301, works := some 2, reads := true, dram := true, args := [.addr, .any, .any, .flag]
             ranges := fun a => [(argN a 0, 8 * argN a 1, true)] }
    can := fun _ a d =>
      (imageFault d (subChecks d (argN a 0) (argN a 1) ++ [badIf [] (!subFieldsOk d (argN a 0) (argN a 1)) .field])).isNone
        && loadFree .sub (argB a 3) d
    out := fun _ a d =>
      if argB a 3 then loadForRepeat .sub (argN a 0) (8 * argN a 1) (w32 (argN a 2)) d
      else loadForJob .sub (argN a 0) (8 * argN a 1) (w32 (argN a 2)) d }

/-- sub.read (Table 3.7): entries FIRST to FIRST + COUNT − 1 of the active bank, as many as it has. -/
def subReadRule : Rule :=
  { sig := { opcode := 0x0302, dram := true, args := [.addr, .num 0 16384, .num 0 16384], results := fun _ => 1
             ranges := fun a => [(argN a 0, 8 * argN a 2, false)] }
    out := fun _ a d =>
      let b := getBank d .sub
      let n := min (argN a 2) (b.activeLen / 8 - argN a 1)
      ok (dramWrite 5 (argN a 0) (memRead b.active (8 * argN a 1) (8 * n)) d) [w32 n] }

/-- screen.capture (R434). -/
def screenCaptureRule (e : Device) : Rule :=
  { sig := { opcode := 0x0303, dram := true, args := [.head, .any, .addr]
             ranges := fun a => if hasHead e (argN a 0) then
               [(argN a 2, e.links[finOf 40 (argN a 0)].nozzles * (dirOf (getBank e .thresh).active (argN a 0)).bits / 8, false)] else [] }
    can := fun _ a d =>
      let h : Head := finOf 40 (argN a 0)
      let job := runningKey d
      let gone := fun (line : Nat) => !laterThan (w32 (argN a 1)) (w32 line)
      let passed := d.engines[h].last.any (fun e => e.1 == job && gone e.2)
        || d.engines[h].skips.any (fun e => e.1 == job && e.2.1 == lineNear e.2.1 (w32 (argN a 1)))
        || (match toScreen d h with
          | some g => g.job == job && decide (0 < g.base + g.s) && gone (g.base + g.s - 1)
          | none => d.jobs.running.any (fun j => (planeOf j.desc h.val).isSome) && decide (0 < nextFirst d) && gone (nextFirst d - 1))
      hasHead d (argN a 0) && jobRunning d && !passed
    out := fun _ a d => .later (.capture (finOf 40 (argN a 0)) (runningKey d) (w32 (argN a 1)) (argN a 2)) d }

/-- line.inhibit (R111, Table 4.7). -/
def lineInhibitRule : Rule :=
  { sig := { opcode := 0x0115, args := [.wide 0 (2 ^ 40 - 1) 1, .flag] }
    can := fun _ a d => !((maskHeads (argN a 0)).any (fun h => !hasHead d h.val))
    out := fun _ a d => done (if argB a 1 then inhibitHeads (maskHeads (argN a 0)) d else releaseHeads (maskHeads (argN a 0)) d) }

/-- line.config (R98, Table 4.7): the step limit applies once a table has been set. -/
def lineConfigRule : Rule :=
  { sig := { opcode := 0x0114, dram := true, args := [.addr], ranges := fun a => [(argN a 0, 1280, false)] }
    can := fun _ a d =>
      let d := dramSee (argN a 0) (32 * headCount d) d
      ((List.finRange 40).filter (fun h => hasHead d h.val)).all (fun h => (poisonIn d (argN a 0 + 32 * h.val) 32).isNone) && !((List.finRange 40).filter (fun h => hasHead d h.val)).any (fun h => !(readTiming (dramRead d (argN a 0 + 32 * h.val) 32)).2) && !(d.banks.timingSet && ((List.finRange 40).filter (fun h => hasHead d h.val)).any (fun h => !timingStepOk d.banks.timing[h] (readTiming (dramRead d (argN a 0 + 32 * h.val) 32)).1)) && d.banks.timingNew.isNone
    out := fun _ a d =>
      let d := dramSee (argN a 0) (32 * headCount d) d
      let read := fun (h : Head) => readTiming (dramRead d (argN a 0 + 32 * h.val) 32)
      let heads := (List.finRange 40).filter (fun h => hasHead d h.val)
      match heads.findSome? (fun h => poisonIn d (argN a 0 + 32 * h.val) 32) with
      | some g => poisoned g d
      | none =>
        if heads.any (fun h => !(read h).2) then no d .badArgument .field
        else if d.banks.timingSet && heads.any (fun h => !timingStepOk d.banks.timing[h] (read h).1) then no d .badArgument .offsetStep
        else if d.banks.timingNew.isSome then no d .busyState
        else
          let v : Vector Timing 40 := Vector.ofFn (fun h => if hasHead d h.val then (read h).1 else d.banks.timing[h])
          let b := { d.banks with timingSet := true }
          let e := { d with banks := if jobRunning d then { b with timingNew := some v } else { b with timing := v } }
          done (noteReady d e) }

/-- LINE_COMMIT (R96, R109): the line at a head's commit point is committed, or skipped under the lowest code of Table 4.5. -/
def lineCommitRule (h : Head) : Row :=
  { can := fun d => (match segsOf (pullSeg h d) h with | g :: _ => commitDue (pullSeg h d) h g && (commitSkip (pullSeg h d) h g).isNone && (pullSeg h d).engines[h].buf.any (fun b => b.job == g.job && b.line == g.base + g.j) | [] => false)
    out := fun d0 =>
      let d := pullSeg h d0
      match segsOf d h with
      | [] => d0
      | g :: _ =>
        match d.engines[h].buf.find? (fun b => b.job == g.job && b.line == g.base + g.j) with
        | some b => (commitLine h g b.codes d)
        | none => d }

/-- FIRE_CELL_START (R95, R117, R118): the predicted fire instant of a row comes due, it is the next by R117's order, and its LINE cell has been sent. -/
def fireCellStartRule (h : Head) (row : BitVec 2) : Row :=
  { can := fun d =>
      match tokenForRow d h row with
      | some t => posOn d && rowDue d t row.toNat && firesNext d t row.toNat && (headSkip d h).isNone && !t.barred
          && !tooSoon d h row (d.chip.qtime + 4 * d.banks.timing[h].fireAdvance)
          && !lineUnsent (jobIdOf t.job) (w32 t.line) (advanceTx h (txNow d) d.links[h])
      | none => false
    out := fun d =>
      match tokenForRow d h row with
      | none => d
      | some t => fireRow t row d }

/-- 250 µs without a LINE cell on the lane of a PRESENT head (R116): a NULL LINE cell. -/
def nullLineKeepaliveRule (h : Head) : Row :=
  { can := fun d => !(d.links[h].state != .present)
    out := fun d =>
      let c : LineCell := {
        wave := 0, isNull := true, mapBank := d.links[h].mapBank
        dropBitsM1 := BitVec.ofNat 2 ((dirOf (getBank d .thresh).active h.val).bits - 1)
        rowsM1 := BitVec.ofNat 2 d.banks.timing[h].rowsM1, length := 20, lineNo := d.links[h].lastLine, epoch := d.red.epoch
        jobId := runningId d, codes := [], crc := 0 }
      (sendCell h (.line { c with crc := lineCrc h.val (unitB d) c }) d) }

/-- head.link (R122, Table 5.12). -/
def headLinkRule : Rule :=
  { sig := { opcode := 0x0200, args := [.wide 0 (2 ^ 40 - 1) 1, .num 0 3, .mul 512 6144 256, .flag] }
    can := fun _ a d => !(maskFused d (argN a 0)) && !((headsIn (argN a 0)).any (headInJob d))
    out := fun _ a d => done ((headsIn (argN a 0)).foldl (setLink (argN a 1) (argN a 2) (argB a 3)) d) }

/-- head.status (Table 5.12). -/
def headStatusRule : Rule :=
  { sig := { opcode := 0x0201, args := [.head], results := fun _ => 44 }
    can := fun _ a d => hasHead d (argN a 0)
    out := fun _ a d => ok d (headStatusWords d (finOf 40 (argN a 0))) }

/-- head.echo: ECHO to the adapter; the reply completes the command (R137, Table 5.12). -/
def headEchoRule : Rule :=
  { sig := { opcode := 0x0202, args := [.head], results := fun _ => 3 }
    can := fun _ a d =>
      let h : Head := finOf 40 (argN a 0)
      hasHead d (argN a 0) && !(!mayControl d 6 || (d.links[h].state != .linked && d.links[h].state != .present))
    out := fun _ a d =>
      let h : Head := finOf 40 (argN a 0)
      .later (.echo h) (sendControl h 6 [] d) }

/-- head.safe drives HEAD_SAFE_N low or releases it (R130). -/
def headSafeRule : Rule :=
  { sig := { opcode := 0x0203, args := [.flag] }
    out := fun _ a d => ok { d with chip := { d.chip with headSafeSet := argB a 0 } } }

/-- head.witness: WITNESS to the named heads; it completes with the last reply or after 100 µs (R129, Table 5.12). -/
def headWitnessRule : Rule :=
  { sig := { opcode := 0x0204, args := [.wide 0 (2 ^ 40 - 1) 1], results := fun a => 3 * (headsIn (argN a 0)).length }
    can := fun _ a d => !(maskFused d (argN a 0)) && mayControl d 4
    out := fun _ a d =>
      let up := (headsIn (argN a 0)).filter (headTalks d)
      let m := up.foldl (fun m h => m ||| BitVec.ofNat 40 (2 ^ h.val)) (0 : BitVec 40)
      let named := BitVec.ofNat 40 (argN a 0)
      let d := up.foldl (fun d h => sendControl h 4 [] (modLink d h (fun l => { l with witness := none }))) d
      if m = 0 then ok d (witnessWords named []) else .later (.witness named m []) d }

/-- A STATUS REPORT arrives (R140): kept, checked, and taken as the reply it may be. -/
def statusReportReceivedRule (h : Head) (cell : StatusCell) : Row :=
  { can := fun d => (takeStatus h 0 cell d).1.isSome
    out := fun d0 =>
      match takeStatus h 0 cell d0 with
      | (none, d) => d
      | (some _, d) =>
        let was := d.links[h].report
        let d := modLink d h (fun l => { l with report := some cell })
        let d := if d.red.reconciling && d.red.firstReports[h].isNone then
            modRed d (fun r => { r with firstReports := upd r.firstReports h (fun _ => some cell) })
          else d
        let d := checkReport h cell was d
        let rejected := bitOf (byteAt cell.payload 2) 3 || decide (d.red.epoch < cell.highest)
        noteReady d0 (controlReplied h cell (if rejected then epochRejected h cell d else d)) }

/-- A STATUS IDENT reply arrives: HEAD_ID, NOZZLES and the lane rate are checked (R124). -/
def statusIdentReceivedRule (h : Head) (cell : StatusCell) : Row :=
  { can := fun d => (takeStatus h 1 cell d).1.isSome && (match (takeStatus h 1 cell d).2.links[h].await with | some (k, _) => k.subtype == 0 && k.seq == cell.echoSeq | none => false)
    out := fun d0 =>
      match takeStatus h 1 cell d0 with
      | (none, d) => d
      | (some _, d) =>
        let expected := match d.links[h].await with | some (k, _) => k.subtype == 0 && k.seq == cell.echoSeq | none => false
        if !expected then d
        else
          let d := modLink d h (fun l => { l with ident := some cell, await := none })
          if byteAt cell.payload 0 % 64 != h.val then (fhlViolation h 6 3 d)
          else if leAt cell.payload 2 2 < d.links[h].nozzles ∨ !bitOf (byteAt cell.payload 1) (4 + d.links[h].rate.toNat) then
            (raise .headUnfit [w32 h.val] (modLink d h (fun l => { l with bring := .unfit })))
          else (emitControl h 6 [] (modLink d h (fun l => { l with bring := .echo }))) }

/-- A STATUS ECHO reply arrives: the one-way delay is (round trip − TURN) ÷ 2 (R124); it completes head.echo. -/
def statusEchoReceivedRule (h : Head) (cell : StatusCell) (roundTrip : U32) : Row :=
  { can := fun d => (takeStatus h 3 cell d).1.isSome && (match (takeStatus h 3 cell d).2.links[h].await with | some (k, _) => k.subtype == 6 && k.seq == cell.echoSeq | none => false)
    out := fun d0 =>
      match takeStatus h 3 cell d0 with
      | (none, d) => d
      | (some _, d) =>
        let expected := match d.links[h].await with | some (k, _) => k.subtype == 6 && k.seq == cell.echoSeq | none => false
        if !expected then d
        else
          let turn := leAt cell.payload 0 4
          let delay := (roundTrip.toNat - turn) / 2
          let d := modLink d h (fun l => { l with delay := some (roundTrip.toNat, turn, delay) })
          let d := if d.links[h].bring == .echo then d
            else finishWork (· == .echo h) { results := [roundTrip, w32 turn, w32 delay] } d
          (controlReplied h cell d) }

/-- A STATUS WITNESS reply arrives with OTHER_AGE and OTHER_EPOCH (R129, R324). -/
def statusWitnessReceivedRule (h : Head) (cell : StatusCell) : Row :=
  { can := fun d => (takeStatus h 2 cell d).1.isSome
    out := fun d0 =>
      match takeStatus h 2 cell d0 with
      | (none, d) => d
      | (some _, d) =>
        let age := w32 (leAt cell.payload 0 4)
        let ep := w32 (leAt cell.payload 4 4)
        let d := modLink d h (fun l => { l with witness := some (age, ep) })
        let top := fun (a b : U32) => if a < b then b else a
        let d := modRed d (fun r => { r with highest := top (top r.highest ep) cell.highest })
        unaskWitness h (some (age, ep)) (controlReplied h cell d) }

/-- No reply within 100 µs (R119): the cell is resent with its SEQ, at most twice, by a unit whose role sends it (R308); then NO_REPLY, and the lane is re-initialised. A head
that head.witness or head.echo asked counts as not replying. -/
def controlReplyTimeoutRule (h : Head) : Row :=
  { can := fun d => d.links[h].await.any (fun e => mayControl (if e.1.subtype == 4 then unaskWitness h none d else d) e.1.subtype)
    out := fun d0 =>
      match d0.links[h].await with
      | none => d0
      | some (k, n) =>
        let d := if k.subtype == 4 then unaskWitness h none d0 else d0
        if n < 2 then sendCell h (.control k) (modLink d h (fun l => { l with await := some (k, n + 1) }))
        else
          let d := finishAll (· == .echo h) { status := .refused } d
          noteReady d0 (fhlReinit h 4 (modLink d h (fun l => { l with await := none, queue := [] }))) }

/-- No REPORT for 10 STATUS_PERIODs while CONFIGURED: STATUS_SILENT (Table 5.10). -/
def statusSilentRule (h : Head) : Row :=
  { can := fun d => (d.links[h].configured && headLaneUp d h)
    out := fun d => (noteReady d (fhlReinit h 5 d)) }

/-- More than 8 CRC failures on the lane within 1 ms: CRC_BURST (Table 5.10). -/
def fhlCrcBurstRule (h : Head) : Row :=
  { can := fun d => (headLaneUp d h && d.links[h].state != .isolated)
    out := fun d => (noteReady d (fhlReinit h 1 d)) }

/-- HEAD_SAFE_N is low behind the 100 ns filter (R132): tokens are skipped under HEAD_SAFE from now on. -/
def headSafeNFallRule : Row :=
  { out := fun d => { d with
      chip := { d.chip with headSafeLow := true }
      links := mapAll d.links (fun l => { l with out := { l.out with lines := l.out.lines.filter (·.isNull) } }) } }

/-- HEAD_SAFE_N is released (R132): tokens with rows still to fire are HEAD_SAFE, and firing resumes from the next commit point (Table
4.6); the adapters accept LINE cells as usual (R131). -/
def headSafeNRiseRule : Row :=
  { can := fun d =>
      let d := { d with adapters := mapAll d.adapters (fun a => { a with safe := false }) }
      (d.chip.headSafeLow)
    out := fun d =>
      let d := { d with adapters := mapAll d.adapters (fun a => { a with safe := false }) }
      { (skipTokens (fun _ => true) .headSafe d) with chip := { d.chip with headSafeLow := false } } }

/-- Power-up (R139). -/
def adapterPowerUpRule (h : Head) (facts : AdapterFacts) : Row :=
  { out := fun d => (modAdapter d h (fun _ => {
    facts := some facts
    ports := Vector.ofFn (fun p => if p.val = 0 ∨ facts.dual then ({} : AdPort).begin d.chip.qtime 4000000 else {}) })) }

/-- A LINE cell arrives (R127, R133, R134). -/
def adapterLineCellRule (h : Head) (port : Bool) (cell : LineCell) : Row :=
  { can := fun d => (adFacts d h port).any (fun f => cell.crc == lineCrc f.headId.toNat port cell && !decide (cell.epoch < d.adapters[h].highest) && (raiseEpoch h cell.epoch d).adapters[h].configured && lineFormOk (raiseEpoch h cell.epoch d).adapters[h] f cell)
    out := fun d =>
      match adFacts d h port with
      | none => d
      | some f =>
        let id := f.headId.toNat
        if cell.crc != lineCrc id port cell then (badCrcCell h port d)
        else if cell.epoch < d.adapters[h].highest then (rejectEpoch h port id d)
        else
          let d := raiseEpoch h cell.epoch d
          if !d.adapters[h].configured || !lineFormOk d.adapters[h] f cell then (discardCell h port d)
          else
            let d := modAdPort h port (fun q => { q with lastLine := some (d.chip.qtime, cell.epoch) }) d
            if cell.isNull then d else (holdLine h port f cell d) }

/-- A FIRE cell arrives (R127, R133, R135, R136). -/
def adapterFireCellRule (h : Head) (port : Bool) (cell : FireCell) : Row :=
  { can := fun d => (adFacts d h port).any (fun f => cell.crc == fireCrc f.headId.toNat port cell)
      && decide (d.adapters[h].highest ≤ cell.epoch) && (fireLine h cell (raiseEpoch h cell.epoch d)).isSome
    out := fun d =>
      match fireLine h cell (raiseEpoch h cell.epoch d) with
      | some x => takeFire h cell x (raiseEpoch h cell.epoch d)
      | none => d }

/-- The head's firing is triggered FIXED_LATENCY after the fire marker of the oldest firing accepted (R137, R139). -/
def adapterFireTriggerRule (h : Head) : Row :=
  { can := fun d => !d.adapters[h].due.isEmpty
    out := fun d =>
      match d.adapters[h].due with
      | [] => d
      | f :: rest =>
        (modAdapter d h (fun a => { a with
          due := rest, firings := f :: a.firings, firedRows := (a.firedRows + 1) % 2 ^ 48, lastRow := f.row, lastJob := f.job,
          lastLine := f.line, lastEpoch := f.epoch })) }

/-- A CONTROL cell of the right TYPE, length and CRC arrives with a new SEQ: it is applied and answered once (R119, R120, R127, R133). -/
def adapterControlCellRule (h : Head) (port : Bool) (cell : ControlCell) : Row :=
  { can := fun d => (adFacts d h port).any (fun f => cell.crc == controlCrc f.headId.toNat port cell) && cell.typ == 3
      && cell.length.toNat == controlLength cell.subtype.toNat && cell.payload.length + 16 == cell.length.toNat
      && ((adPort d h port).lastCtrl.filter (fun x => x.1 == cell.seq)).isNone
      && !(notLower cell && decide (cell.epoch < d.adapters[h].highest))
    out := fun d =>
      match adFacts d h port with
      | none => d
      | some f =>
        let e := applyControl h f cell (if notLower cell then raiseEpoch h cell.epoch d else d)
        modAdPort h port (fun q => { q with lastCtrl := some (cell.seq, (replyTo h port f cell e).1) }) (replyTo h port f cell e).2 }

/-- A CONTROL cell that repeats the last one accepted on its port (R119): the reply is sent again, and nothing is applied. -/
def adapterControlRepeatRule (h : Head) (port : Bool) (cell : ControlCell) : Row :=
  { can := fun d => (adFacts d h port).any (fun f => cell.crc == controlCrc f.headId.toNat port cell) && cell.typ == 3
      && cell.length.toNat == controlLength cell.subtype.toNat && cell.payload.length + 16 == cell.length.toNat
      && (adPort d h port).lastCtrl.any (fun x => x.1 == cell.seq)
    out := fun d =>
      match adFacts d h port, (adPort d h port).lastCtrl with
      | some f, some x => (sendStatus h port f.headId.toNat x.2.subtype cell.seq x.2.payload d).2
      | _, _ => d }

/-- A cell that a powered adapter does not take (R127, R133): one that fails its CRC counts in CRC_ERRORS; one of a lower EPOCH, a LINE cell of a wrong
form or on an adapter that is not CONFIGURED, a FIRE cell without its line, and a CONTROL cell of a wrong TYPE or length is discarded and counted in
DISCARDS. A higher EPOCH has been raised by then. -/
def DiscardedCells : Prop :=
  ∀ (h : Head) (port : Bool) (s : State) (f : AdapterFacts), adFacts s.dev h port = some f →
    let answers := fun (i : Instr) (d : Device) => exec i s = .next { s with dev := d }
    let low := fun (e : U32) => e < s.dev.adapters[h].highest
    let up := fun (e : U32) => raiseEpoch h e s.dev
    (∀ c : LineCell,
      (c.crc ≠ lineCrc f.headId.toNat port c → answers (.adapterLineCell h port c) (badCrcCell h port s.dev)) ∧
      (c.crc = lineCrc f.headId.toNat port c → low c.epoch → answers (.adapterLineCell h port c) (rejectEpoch h port f.headId.toNat s.dev)) ∧
      (c.crc = lineCrc f.headId.toNat port c → ¬ low c.epoch →
        ((up c.epoch).adapters[h].configured = false ∨ lineFormOk (up c.epoch).adapters[h] f c = false) →
        answers (.adapterLineCell h port c) (discardCell h port (up c.epoch)))) ∧
    (∀ c : FireCell,
      (c.crc ≠ fireCrc f.headId.toNat port c → answers (.adapterFireCell h port c) (badCrcCell h port s.dev)) ∧
      (c.crc = fireCrc f.headId.toNat port c → low c.epoch → answers (.adapterFireCell h port c) (rejectEpoch h port f.headId.toNat s.dev)) ∧
      (c.crc = fireCrc f.headId.toNat port c → ¬ low c.epoch → fireLine h c (up c.epoch) = none →
        answers (.adapterFireCell h port c) (discardCell h port (up c.epoch)))) ∧
    ∀ c : ControlCell,
      let wrong := c.typ ≠ 3 ∨ c.length.toNat ≠ controlLength c.subtype.toNat ∨ c.payload.length + 16 ≠ c.length.toNat
      (c.crc ≠ controlCrc f.headId.toNat port c → answers (.adapterControlCell h port c) (badCrcCell h port s.dev)) ∧
      (c.crc = controlCrc f.headId.toNat port c → wrong → answers (.adapterControlCell h port c) (discardCell h port s.dev)) ∧
      (c.crc = controlCrc f.headId.toNat port c → ¬ wrong → (adPort s.dev h port).lastCtrl.any (fun x => x.1 == c.seq) = false →
        notLower c = true → low c.epoch → answers (.adapterControlCell h port c) (rejectEpoch h port f.headId.toNat s.dev))

/-- HEAD_SAFE_N low for 50 ns (R131): firings not triggered stop, held lines are discarded, SAFE_SEEN is set. -/
def adapterHeadSafeRule (h : Head) : Row :=
  { can := fun d => ((d.adapters[h]).facts.isSome)
    out := fun d =>
      (modAdapter d h (fun a => { a with
        safe := true, due := [], held := [], ports := mapAll a.ports (fun q => { q with safeSeen := true }) })) }

/-- STATUS_PERIOD passes, or HOT or HEAD_FAULT has risen: a configured adapter reports on each trained port (R121; log entries 18 and 71). -/
def adapterReportTimerRule (r : HeadReading) : Row :=
  { can := fun d => d.adapters[r.head].facts.isSome && d.adapters[r.head].configured
      && (r.periodic || (r.hot && !d.adapters[r.head].hot) || (r.fault && !d.adapters[r.head].fault))
    out := fun d =>
      match d.adapters[r.head].facts with
      | none => d
      | some f => reportPorts r.head f (modAdapter d r.head (fun a => { a with temp := r.temp, hot := r.hot, fault := r.fault })) }

/-- wave.load (R148, R149): the image is checked for the heads of the job it serves, then placed in the shadow bank. -/
def waveLoadRule : Rule :=
  { sig := { opcode := 0x0210, works := some 2, reads := true, dram := true, stops := true, args := [.addr, .any, .flag]
             ranges := fun a => [(argN a 0, imageLen .wave, true)] }
    can := fun _ a d =>
      let job := if argB a 2 then d.jobs.running else d.jobs.staged
      let planed := match job with | some j => planedHeads j.desc | none => []
      (imageFault d (waveChecks d planed (argN a 0) (w32 (argN a 1)))).isNone && loadFree .wave (argB a 2) d
    out := fun _ a d =>
      if argB a 2 then loadForRepeat .wave (argN a 0) (imageLen .wave) (w32 (argN a 1)) d
      else loadForJob .wave (argN a 0) (imageLen .wave) (w32 (argN a 1)) d }

/-- wave.trim (R150): HOST_TRIM from the next repeat boundary. -/
def waveTrimRule : Rule :=
  { sig := { opcode := 0x0211, args := [.head, .num (-32768) 32767] }
    can := fun _ a d => hasHead d (argN a 0)
    out := fun _ a d => done { d with banks := { d.banks with hostTrimNew := upd d.banks.hostTrimNew (finOf 40 (argN a 0)) (fun _ => some (argI a 1)) } } }

/-- wave.limits (R152): LIMIT of each head named, from the next repeat boundary. -/
def waveLimitsRule : Rule :=
  { sig := { opcode := 0x0212, gated := true, stops := true, args := [.wide 0 (2 ^ 40 - 1) 1, .num 1024 32767] }
    can := fun _ a d =>
      let hs := maskHeads (argN a 0)
      !(hs.any (fun h => !hasHead d h.val)) && !(hs.any (limitTooLow d (argN a 1)))
    out := fun _ a d =>
      let hs := maskHeads (argN a 0)
      done { d with banks := { d.banks with
             limitNew := updAll d.banks.limitNew (fun h v => if hs.contains h then some (argN a 1) else v) } } }

/-- wave.config (Table 6.7, R147): WAVE_DELAY from the next repeat boundary while a job runs, the rest from the next monitoring visit. -/
def waveConfigRule : Rule :=
  { sig := { opcode := 0x0213
             args := [.head, .num 0 20000, .num 256 16384, .num 0 1200, .num 1 4095, .num 0 16383, .num 0 16383, .num 0 16383] }
    can := fun _ a d => hasHead d (argN a 0)
    out := fun _ a d =>
      done (modDrive d (finOf 40 (argN a 0)) (fun x => { x with
        waveDelay := if jobRunning d then x.waveDelay else argN a 1
        waveDelayNew := if jobRunning d then some (argN a 1) else none
        senseGain := argN a 2, senseOffset := argN a 3, senseTol := argN a 4, isenMax := argN a 5
        thermLo := argN a 6, thermHi := argN a 7 })) }

/-- dac.calibrate (R161): the spare at once, a driving core after its pin has been handed to the spare; all nine with the spare first. A
second one on a group answers BUSY_STATE. -/
def dacCalibrateRule : Rule :=
  { sig := { opcode := 0x0214, works := some 5, slow := true, stops := true, args := [.num 0 4, .one [0, 1, 2, 3, 4, 5, 6, 7, 8, 15]]
             results := fun a => if argN a 1 = 15 then 36 else 4 }
    can := fun _ a d =>
      let g : Group := finOf 5 (argN a 0)
      let x := d.drive.groups[g]
      hasGroup d g.val && !((calWork d g).isSome) && (match pinOf x (finOf 9 (argN a 1)) with | some j => !decide (argN a 1 ≠ 15 ∧ (spareSuspect x || !handoverOk d g j)) | none => true)
    out := fun _ a d =>
      let g : Group := finOf 5 (argN a 0)
      let x := d.drive.groups[g]
      let cores : List Core := if argN a 1 = 15 then x.spare :: x.pinMap.toList else [finOf 9 (argN a 1)]
      let lone := argN a 1 ≠ 15
      match pinOf x (finOf 9 (argN a 1)) with
      | some j =>
        if lone ∧ (spareSuspect x || !handoverOk d g j) then no d .noQuietInterval
        else .later (.dacCal g cores []) (beginCal g cores d)
      | none => .later (.dacCal g cores []) (beginCal g cores d) }

/-- dac.status (R143): pin map, trims, suspect flags, HANDOVERS, CAL_FAIL, NO_QUIET, and per pin WAVE_MISMATCH, TRIM_LIMITED and the
latest readings. -/
def dacStatusRule : Rule :=
  { sig := { opcode := 0x0215, stops := true, args := [.num 0 4], results := fun _ => 90 }
    can := fun _ a d =>
      let g : Group := finOf 5 (argN a 0)
      let x := d.drive.groups[g]
      let hs := (List.finRange 8).map (fun j => d.drive.heads[pinHead g j])
      hasGroup d g.val
    out := fun _ a d =>
      let g : Group := finOf 5 (argN a 0)
      let x := d.drive.groups[g]
      let hs := (List.finRange 8).map (fun j => d.drive.heads[pinHead g j])
      let ws := x.pinMap.toList.map (fun k => w32 k.val)
        ++ (List.finRange 9).flatMap (fun k => [i32 x.offset[k], i32 x.gain[k]])
        ++ [w32 ((List.finRange 9).foldr (fun k n => b2n x.suspect[k] * 2 ^ k.val + n) 0)]
      let ws := ([x.handovers, x.calFail, x.noQuiet] ++ hs.map (·.waveMismatch) ++ hs.map (·.trimLimited)).foldl
        (fun ws v => put64 ws v.toNat) ws
      ok d (ws ++ hs.flatMap (fun y => [w32 y.latest.1, w32 y.latest.2.1, w32 y.latest.2.2])) }

/-- dac.rotation (R156): CAL_INTERVAL in units of 0.1 s, and ENABLE. -/
def dacRotationRule : Rule :=
  { sig := { opcode := 0x0216, stops := true, args := [.num 0 4, .num 1 36000, .flag] }
    can := fun _ a d => hasGroup d (argN a 0)
    out := fun _ a d => done (modGroup d (finOf 5 (argN a 0)) (fun x => { x with interval := argN a 1, rotate := argB a 2 })) }

/-- ROTATION_TIMER (R156): CAL_INTERVAL elapses in a group. A group whose spare is suspect or in use does not rotate (R159). -/
def rotationTimerRule (g : Group) : Row :=
  { can := fun d =>
      let x := d.drive.groups[g]
      (hasGroup d g.val && domainTakes d 5 && x.rotate && !spareSuspect x && x.cal.isNone && x.waiting.isNone && x.start.isEmpty)
    out := fun d =>
      let x := d.drive.groups[g]
      let (p, n) := rotateFrom d g 8 x.nextPin.val x.noQuiet
      let d := modGroup d g (fun x => { x with noQuiet := n, nextPin := match p with | some j => j + 1 | none => x.nextPin })
      (match p with | some j => awaitHandover g j .rotation d | none => d) }

/-- HANDOVER (R156, R157): in the quiet interval of the pin, or at REST, the switch passes the pin to the spare; the core released is calibrated (R158). -/
def handoverRule (g : Group) : Row :=
  { can := fun d =>
      domainTakes d 5 && d.drive.groups[g].cal.isNone && !spareSuspect d.drive.groups[g]
        && (match d.drive.groups[g].waiting with | some (j, _) => handoverNow d g j | none => false)
    out := fun d =>
      match d.drive.groups[g].waiting with
      | none => d
      | some (j, _) =>
        modDrive (modGroup d g (fun x => { passPin j x with waiting := none, replace := x.replace.filter (· != j) })) (pinHead g j)
          (fun y => { y with replaced := y.replaced || y.deviated, deviated := false, senseBad := 0 }) }

/-- CALIBRATION_RUN_DONE (R158): the first run is kept; after the second the trims are accepted or refused. -/
def calibrationRunDoneRule (g : Group) (run : CalRun) : Row :=
  { can := fun d => domainOn d 5 && d.drive.groups[g].cal.isSome
    out := fun d =>
      let x := d.drive.groups[g]
      match x.cal with
      | none => d
      | some (k, first) =>
        if !domainOn d 5 then d
        else match first with
        | none => (modGroup d g (fun x => { x with cal := some (k, some run) }))
        | some a =>
          let (off, d) := meanTrim a.offset run.offset d
          let (gain, d) := meanTrim a.gain run.gain d
          (calEnds g k (if calAccepts x k (!x.start.isEmpty && x.atStart) a run off gain then some (off, gain) else none) d) }

/-- MONITOR_VISIT (R154, R155): SENSE, ISEN and THERM of a head. -/
def monitorVisitRule (h : Head) (sense isen therm : Nat) : Row :=
  { can := fun d => (hasHead d h.val && domainOn d 5 && visitsNow d h)
    out := fun d =>
      let x := d.drive.heads[h]
      let bad := senseDeviates x (sensedSample d h) sense
      let sb := if bad then x.senseBad + 1 else 0
      let ib := if x.isenMax < isen then x.isenBad + 1 else 0
      let tb := if therm < x.thermLo ∨ x.thermHi < therm then x.thermBad + 1 else 0
      let d := modGroup d ⟨h.val / 8, by omega⟩ (fun x => { x with visit := x.visit + 1 })
      let d := modDrive d h (fun x => { x with
        latest := (sense, isen, therm), senseBad := sb, isenBad := ib % 3, thermBad := tb % 3, replaced := x.replaced && bad })
      let d := if 3 ≤ sb then driveDeviation h d else d
      let d := if 3 ≤ ib then driveFault h 1 d else d
      (if 3 ≤ tb then driveFault h 2 d else d) }

/-- hv.config (R163): VOUT_MODE of every entry linear, no VOUT above its VOUT_MAX; the entries are loaded and VOUT_COMMAND written.
`modes` is what the read of VOUT_MODE gives at each entry. -/
def hvConfigRule (modes : List BusResult) : Rule :=
  { sig := { opcode := 0x0218, works := some 5, stops := true, args := [.one [100, 400]]
             rep := [.num 0 127, .one ((List.range 32).map (fun (n : Nat) => Int.ofNat n) ++ [255]), .wide 0 (2 ^ 40 - 1) 1, .num 0 15, .num 0 1000, .num 1 1000,
             .any, .flag] }
    can := fun _ a d =>
      let es := (entriesOf 8 a.length (a.drop 1)).map (fun l =>
        (⟨argN l 0, argN l 1, BitVec.ofNat 40 (argN l 2), argN l 3, argN l 4, argN l 5, argN l 6, argB l 7⟩ : SupplyCfg))
      let e0 := readModes es modes d
      !decide (16 < es.length) && !(es.any (fun e => (List.finRange 40).any (fun h => e.mask.getLsbD h.val && !hasHead d h.val))) && !(d.pwr.held.getLsbD 2) && !(pmbOn d && es.zipIdx.any (fun e => !supplyIsolated e0 e.1 && otherMode (modes.getD e.2 (.ok 0)))) && !(es.zipIdx.any (fun e => (e0.drive.sup.getD e.2 {}).voutMax.any (fun m => decide (m < e.1.vout))))
    out := fun _ a d =>
      let es := (entriesOf 8 a.length (a.drop 1)).map (fun l =>
        (⟨argN l 0, argN l 1, BitVec.ofNat 40 (argN l 2), argN l 3, argN l 4, argN l 5, argN l 6, argB l 7⟩ : SupplyCfg))
      let d := readModes es modes d
      let was := d
      let d := { d with drive := { d.drive with supplies := es, busRate := argN a 0 } }
      let d := es.zipIdx.foldl (fun d e => pmbWrite (finOf 16 e.2) e.1 [(0x21, e.1.vout)] d) d
      done (noteReady was d) }

/-- hv.power (R164): ON turns the named supplies on by ascending ORDER and answers when the last reports good; OFF sets the supply inhibit
and turns them off by descending ORDER. -/
def hvPowerRule : Rule :=
  { sig := { opcode := 0x0219, works := some 5, slow := true, stops := true, args := [.num 0 65535, .flag] }
    can := fun _ a d =>
      !((List.range 16).any (fun k => bitOf (argN a 0) k && decide (d.drive.supplies.length ≤ k))) && !(d.pwr.held.getLsbD 2) && pmbOn d && !(d.drive.seqOn)
    out := fun _ a d =>
      let ks := bySteps d (argN a 0)
      if argB a 1 then
             if ks.isEmpty then ok (clearSupplyInhibit d)
             else .later .hvPower (nextStep { d with drive := { d.drive with seqOn := true, seqTodo := ks, seqWait := [], seqDone := [] } })
           else
             let fed := ks.foldl (fun m k => match supplyEntry d k with | some e => m ||| e.mask | none => m) (0 : BitVec 40)
             ok (noteReady d (turnOff ks.reverse (supplyInhibit fed d))) }

/-- hv.limits (R163): VOUT_MAX, VOUT_OV_FAULT_LIMIT and IOUT_OC_FAULT_LIMIT of a supply. -/
def hvLimitsRule : Rule :=
  { sig := { opcode := 0x021A, works := some 5, gated := true, stops := true, args := [.num 0 15, .any, .any, .any] }
    can := fun _ a d => !(d.pwr.held.getLsbD 2) && (supplyEntry d (finOf 16 (argN a 0))).isSome
    out := fun _ a d =>
      let k : Supply := finOf 16 (argN a 0)
      match supplyEntry d k with
      | none => no d .badArgument .field
      | some e =>
        let d := pmbWrite k e [(0x24, argN a 1), (0x40, argN a 2), (0x46, argN a 3)] d
        done (modSup d k (fun x => { x with
          voutMax := some (argN a 1), ovLimit := some (argN a 2), ocLimit := some (argN a 3) })) }

/-- hv.status (R165): state, STATUS_WORD, READ_VOUT, READ_IOUT and READ_TEMPERATURE_1 of every supply. -/
def hvStatusRule : Rule :=
  { sig := { opcode := 0x021B, stops := true, results := fun _ => 80 }
    out := fun _ _ d =>
      ok d (d.drive.sup.toList.flatMap (fun x =>
           [w32 (b2n x.on), w32 x.status.toNat, w32 x.vout.toNat, w32 x.iout.toNat, w32 x.temp.toNat])) }

/-- HV_STEP_GOOD (R164): a supply of the present step shows power good and no fault; when it was the last supply, hv.power answers OK. The
next step follows its ON_DELAY (ON_DELAY_EXPIRY). -/
def hvStepGoodRule (k : Supply) : Row :=
  { can := fun d => (d.drive.seqOn && d.drive.seqWait.contains k && pmbOn d && !d.drive.sup[k].faulted
        && (match supplyEntry d k with | some e => !supplyIsolated d e | none => false))
    out := fun d =>
      let was := d
      let d := modSup d k (fun x => { x with on := true, status := 0 })
      let d := { d with drive := { d.drive with seqWait := d.drive.seqWait.erase k } }
      (noteReady was (if d.drive.seqWait.isEmpty && d.drive.seqTodo.isEmpty then sequenceDone d else d)) }

/-- ON_DELAY_EXPIRY (R164): ON_DELAY after the previous step reported good, the next ORDER step is turned on. -/
def onDelayExpiryRule : Row :=
  { can := fun d => (d.drive.seqOn && d.drive.seqWait.isEmpty && pmbOn d)
    out := fun d => (nextStep d) }

/-- PG_TIMEOUT (R164): a supply has not reported good in time; every supply turned on in this command is turned off in reverse order, with
REFUSED and EV_HV_FAULT. -/
def pgTimeoutRule (k : Supply) : Row :=
  { can := fun d => (d.drive.seqOn && d.drive.seqWait.contains k)
    out := fun d =>
      let was := d
      let d := turnOff d.drive.seqDone d
      let d := { d with drive := { d.drive with seqOn := false, seqTodo := [], seqWait := [], seqDone := [] } }
      let d := raise .hvFault [w32 k.val, w32 d.drive.sup[k].status.toNat] d
      (noteReady was (finishWork (· == .hvPower) { status := .refused, reason := .hvSequence } d)) }

/-- PMBUS_STATUS_POLL (R165): the STATUS_WORD of a supply is read. -/
def pmbusStatusPollRule (k : Supply) (result : BusResult) : Row :=
  { can := fun d => pmbOn d && (match supplyEntry d k with | some e => !supplyIsolated d e | none => false)
    out := fun d =>
      match supplyEntry d k with
      | some e =>
        let first := if d.drive.adoptDue then adoptSupplies (some k) d else retryWrites k e d
        noteReady d (pmbRead e 0x79 result (takeStatusWord k e) first)
      | none => d }

/-- PMBUS_TELEMETRY_POLL (Table 6.9): READ_VOUT, READ_IOUT and READ_TEMPERATURE_1 of a supply. -/
def pmbusTelemetryPollRule (k : Supply) (vout iout temp : BusResult) : Row :=
  { can := fun d => pmbOn d && (match supplyEntry d k with | some e => !supplyIsolated d e | none => false)
    out := fun d =>
      match supplyEntry d k with
      | some e =>
        if pmbOn d && !supplyIsolated d e then
          let d := adoptSupplies none d
      let d := pmbRead e 0x8B vout (fun w d => modSup d k (fun x => { x with vout := w })) d
          let d := pmbRead e 0x8C iout (fun w d => modSup d k (fun x => { x with iout := w })) d
          (pmbRead e 0x8D temp (fun w d => modSup d k (fun x => { x with temp := w })) d)
        else d
      | none => d }

/-- PMB_ALERT (R165): an alert response read, and a STATUS_WORD read of the supply that responds; three reads that none answers are
PMB_ALERT_STUCK (Table 6.11), after which alerts wait for the line to have fallen again. -/
def pmbAlertRule (alert : AlertRead) (result : BusResult) : Row :=
  { can := fun d => !(!pmbOn d || (d.drive.alertStuck && !alert.fell))
      && (match alert.responder with | some k => (match supplyEntry d k with | some e => !supplyIsolated d e | none => false) | none => true)
    out := fun d0 =>
      let d := adoptSupplies none d0
      let d := if alert.fell then { d with drive := { d.drive with alertMiss := 0, alertStuck := false } } else d
      match alert.responder with
      | some k =>
        let d := { d with drive := { d.drive with alertMiss := 0 } }
        match supplyEntry d k with
        | some e => if supplyIsolated d e then d else noteReady d0 (pmbRead e 0x79 result (takeStatusWord k e) d)
        | none => d
      | none =>
        let n := d.drive.alertMiss + 1
        if n < 3 then { d with drive := { d.drive with alertMiss := n } }
        else pmbViolation 0x64 0x0C 0 { d with drive := { d.drive with alertMiss := 0, alertStuck := true } } }

/-- PMB_STRETCH (Table 6.11): SCL held low for more than 35 ms; the bus is recovered (R166). No supply is named, so SOURCE is 0. -/
def pmbStretchRule : Row :=
  { can := fun d => (pmbOn d)
    out := fun d => pmbRecover (pmbViolation 0x62 0 2 d) }

/-- PMB_SILENT (Table 6.11): no successful transaction with a supply for 100 ms isolates it, and R165 applies to its heads. -/
def pmbSilentRule (k : Supply) : Row :=
  { can := fun d => pmbTries d && (match supplyEntry d k with | some e => !supplyIsolated d e | none => false)
    out := fun d =>
      match supplyEntry d k with
      | some e =>
        if pmbTries d && !supplyIsolated d e then
          (noteReady d (addressFails e.addr (isolatePartner 5 (BitVec.ofNat 16 e.addr) (pmbViolation 0x63 e.addr 3 d))))
        else d
      | none => d }

/-- cam.config (Table 7.2). -/
def camConfigRule : Rule :=
  { sig := { opcode := 0x0400, stops := true
             args := [.port, .one [1, 2, 4], .num 80 2500, .num 0x2A 0x2D, .num 0 3, .mul 64 16384 2, .mul 64 16384 2, .num 1000 1000000,
             .num 1000 200000, .num 100 10000, .num 1 1000, .mul 0 100000 10, .mul 0 100000 10, .wide 0 100000000000 1, .any, .one [1, 2, 4],
             .flag, .num 0 3, .num 0 16383, .num 0 64, .num 0 16383, .num 0 512, .num 0 16383, .num 0 512, .flag, .num 0 127, .num 0 3] }
    can := fun _ a d =>
      let p : Port := finOf 4 (argN a 0)
      !((d.cams.ports[p]).running) && !decide (argN a 6 % d.cams.stripe ≠ 0)
    out := fun _ a d =>
      let p : Port := finOf 4 (argN a 0)
      let cfg : CamCfg := {
        lanes := argN a 1, laneRate := argN a 2, dtype := argN a 3, vc := argN a 4, width := argN a 5, bandLines := argN a 6
        trigPitch := argN a 7, maxRate := argN a 8, trigWidth := argN a 9, latencyMax := argN a 10, strobeDelay := argN a 11
        strobeWidth := argN a 12, camOffset := argN a 13, column0 := argN a 14, pixelStep := argN a 15, reversed := argB a 16
        mosaic := argN a 17, ob := (argN a 18, argN a 19), safWhite := (argN a 20, argN a 21), safBlack := (argN a 22, argN a 23)
        cciPort := argB a 24, cciAddr := argN a 25, k := argN a 26 }
      done (modCam d p (fun c => { c with cfg := cfg })) }

/-- cam.run (R182). -/
def camRunRule : Rule :=
  { sig := { opcode := 0x0401, stops := true, works := some 3, args := [.num 0 15, .flag] }
    can := fun _ a d =>
      let ps : List Port := (List.finRange 4).filter (fun p => bitOf (argN a 0) p.val)
      !(d.pwr.held.getLsbD 1) && (!argB a 1 || ((camAdmission d ((List.finRange 4).filter (fun p => (d.cams.ports[p]).running || ps.contains p))).isNone && !ps.any (fun p => !(d.cams.ports[p]).accepted) && !ps.any (sensorIsolated d)))
    out := fun _ a d =>
      let ps : List Port := (List.finRange 4).filter (fun p => bitOf (argN a 0) p.val)
      if !argB a 1 then done (serveFirst (ps.foldl (fun d p => stopPort p d) d))
           else
             let all := (List.finRange 4).filter (fun p => (d.cams.ports[p]).running || ps.contains p)
             match camAdmission d all with
             | some r => no d .badArgument r
             | none =>
               if ps.any (fun p => !(d.cams.ports[p]).accepted) then no d .refused .noSettings
               else if ps.any (sensorIsolated d) then no d .refused
               else done (serveFirst (ps.foldl (fun d p => startPort p d) d)) }

/-- cam.settings (R177). -/
def camSettingsRule : Rule :=
  { sig := { opcode := 0x0402, works := some 3, reads := true, slow := true, dram := true, stops := true, args := [.port, .wide 0 (2 ^ 64 - 1) 64]
             ranges := fun a => [(argN a 1, 128, false)] }
    can := fun _ a d =>
      let p : Port := finOf 4 (argN a 0)
      !((d.cams.ports[p]).queued.isSome) && !(sensorIsolated d p) && (match readSettings d (argN a 1) with | .ok _ => true | .error _ => false)
    out := fun _ a d =>
      let p : Port := finOf 4 (argN a 0)
      match readSettings d (argN a 1) with
           | .error (st, r, g) => (match g with | some g => poisoned g d | none => no d st r)
           | .ok set =>
             let b := dramRead d (argN a 1) 128
             let d := dramSee (leAt b 56 8) (if leAt b 56 8 = 0 then 0 else 1542) (dramSee (leAt b 8 8) (8 * set.writes.length) d)
             let d := modCam (dirty d) p (fun c => { c with
               accepted := true, queued := some ⟨set, freeCtx d, false, none, set.writes.length, none⟩ })
             if (d.cams.ports[p]).running then .later (.camSettings p) d
             else if set.writes.isEmpty then
               ok (modCam d p (fun c => { c with queued := c.queued.map (fun q => { q with begun := true, applies := some 0 }) })) [0]
             else .later (.camSettings p) (beginSettings p none d) }

/-- cam.schedule (R181). -/
def camScheduleRule : Rule :=
  { sig := { opcode := 0x0403, stops := true, args := [.flag, .one [4, 8, 16, 32, 64], .num 0 255] }
    can := fun _ _ d => !(d.cams.ports.toList.any (·.running))
    out := fun _ a d =>
      done { d with cams := { d.cams with
        bandMode := argB a 0, stripe := argN a 1, rotation := (List.range 4).map (fun i => finOf 4 (argN a 2 / 4 ^ i % 4))
        served := finOf 4 (argN a 2 % 4), place := 0, serveAtStart := true } } }

/-- cam.stream (Table 7.5). -/
def camStreamRule : Rule :=
  { sig := { opcode := 0x0404, dram := true, stops := true
             args := [.num 0 3, .port, .num 0 3, .num 0 3, .num 1 65535, .any, .any, .any, .any, .one [1, 2, 4, 8, 16, 32, 64],
             .one [1, 2, 4, 8, 16, 32, 64], .flag, .wide 0 (2 ^ 64 - 1) 4096, .wide 65536 (2 ^ 32) 1, .flag]
             ranges := fun a => [(argN a 12, argN a 13, false)] }
    can := fun _ a _ => !decide (argN a 0 = 3 ∧ (argN a 9 ≠ 1 ∨ argN a 10 ≠ 1))
    out := fun _ a d =>
      done { d with cams := { d.cams with streams := upd d.cams.streams (finOf 4 (argN a 0)) (fun _ =>
        { enable := argB a 14, port := finOf 4 (argN a 1), source := argN a 2, tapPoint := argN a 3, tapEvery := argN a 4, x0 := argN a 5
          width := argN a 6, y0 := argN a 7, height := argN a 8, scaleX := argN a 9, scaleY := argN a 10, format := argN a 11
          ringAddr := argN a 12, ringSize := argN a 13 }) } } }

/-- cam.release (R187). -/
def camReleaseRule : Rule :=
  { sig := { opcode := 0x0405, stops := true, args := [.num 0 3, .any] }
    can := fun _ a d => !decide ((d.cams.streams[(finOf 4 (argN a 0) : Fin 4)]).used < argN a 1)
    out := fun _ a d =>
      ok { d with cams := { d.cams with
             streams := upd d.cams.streams (finOf 4 (argN a 0)) (fun t => { t with used := t.used - argN a 1 }) } } }

/-- cam.tables (R184): BLACK_COL, SHADE and the defect list, each with its CRC-32C, for the next band open. -/
def camTablesRule : Rule :=
  { sig := { opcode := 0x0406, reads := true, dram := true, stops := true, args := [.port, .addr, .addr, .addr, .num 0 512, .any, .any, .any]
             ranges := fun a => [(argN a 1, 32768, false), (argN a 2, 32768, false), (argN a 3, 2 * argN a 4, false)] }
    can := fun _ a d => ((poisonIn d (argN a 1) 32768).or ((poisonIn d (argN a 2) 32768).or (poisonIn d (argN a 3) (2 * argN a 4)))).isNone && ascending ((List.range (argN a 4)).map (fun i => leAt (dramRead d (argN a 3) (2 * argN a 4)) (2 * i) 2)) && crc32c (dramRead d (argN a 1) 32768) == w32 (argN a 5) && crc32c (dramRead d (argN a 2) 32768) == w32 (argN a 6) && crc32c (dramRead d (argN a 3) (2 * argN a 4)) == w32 (argN a 7)
    out := fun _ a d =>
      let words := fun (addr n : Nat) => let b := dramRead d addr (2 * n); (List.range n).map (fun i => leAt b (2 * i) 2)
      let defects := words (argN a 3) (argN a 4)
      match (poisonIn d (argN a 1) 32768).or ((poisonIn d (argN a 2) 32768).or (poisonIn d (argN a 3) (2 * argN a 4))) with
      | some g => poisoned g d
      | none =>
        if !ascending defects then no d .badArgument .field
        else if crc32c (dramRead d (argN a 1) 32768) ≠ w32 (argN a 5) ∨ crc32c (dramRead d (argN a 2) 32768) ≠ w32 (argN a 6)
            ∨ crc32c (dramRead d (argN a 3) (2 * argN a 4)) ≠ w32 (argN a 7) then no d .badCrc
        else
          done (modCam d (finOf 4 (argN a 0)) (fun c => { c with
            tablesNew := some ⟨words (argN a 1) 16384, words (argN a 2) 16384, defects⟩, calNew := c.calNew + 1 })) }

/-- cam.dark_cal (R191). -/
def camDarkCalRule : Rule :=
  { sig := { opcode := 0x0407, slow := true, stops := true, args := [.port, .num 16 4096, .num 256 32767], results := fun _ => 2 }
    can := fun c a d =>
      let p : Port := finOf 4 (argN a 0)
      let c := d.cams.ports[p]
      !(c.dark.isSome) && c.running
    out := fun _ a d =>
      let p : Port := finOf 4 (argN a 0)
      let c := d.cams.ports[p]
      .later (.darkCal p) (modCam d p (fun c => { c with dark := some ⟨argN a 1, argN a 2, 0, 0, []⟩ })) }

/-- cam.white_cal (R190). -/
def camWhiteCalRule : Rule :=
  { sig := { opcode := 0x0408, slow := true, stops := true, args := [.port, .any, .num 0 15], results := fun a => if argN a 1 = 0 then 4 else 0 }
    can := fun c a d =>
      let p : Port := finOf 4 (argN a 0)
      let c := d.cams.ports[p]
      !decide (c.cfg.safWhite.2 = 0) && !(hasWork (· == .whiteCal p) d)
    out := fun _ a d =>
      let p : Port := finOf 4 (argN a 0)
      let c := d.cams.ports[p]
      let d := modCam d p (fun c => { c with white := some ⟨argN a 1, BitVec.ofNat 4 (argN a 2), 0, 0, none, []⟩ })
      if argN a 1 = 0 then .later (.whiteCal p) d else ok d }

/-- cam.focus (R189). -/
def camFocusRule : Rule :=
  { sig := { opcode := 0x0409, works := some 3, stops := true
             args := [.port, .flag, .num 0 65535, .one [1, 2, 4], .any, .any, .any, .any, .num 0 3, .num 0 15, .num 0 15] }
    can := fun _ a d => !decide (argN a 5 < argN a 4 ∨ argN a 10 < argN a 9) && !(argB a 1 && sensorIsolated d (finOf 4 (argN a 0)))
    out := fun _ a d =>
      let p : Port := finOf 4 (argN a 0)
      if !argB a 1 then done (modCam d p (fun c => { c with focus := { c.focus with on := false } }))
      else if sensorIsolated d p then no d .refused
      else
        done (focusWrite p true (modCam d p (fun c => { c with focus := { c.focus with
          on := true, reg := argN a 2, width := argN a 3, posMin := argN a 4, posMax := argN a 5, step := argN a 6, dither := argN a 7
          k := argN a 8, zones := (argN a 9, argN a 10), pos := clampI (argI a 4) (argI a 5) c.focus.pos, plus := none, minus := none } }))) }

/-- cam.band (R175, R176). -/
def camBandRule : Rule :=
  { sig := { opcode := 0x040A, stops := true, args := [.num 1 100, .num 1 10000] }
    out := fun _ a d => done { d with cams := { d.cams with partialMin := argN a 0 }, acct := { d.acct with noticePitch := argN a 1 } } }

/-- cam.stats (R193). -/
def camStatsRule : Rule :=
  { sig := { opcode := 0x040B, stops := true, args := [.port, .flag], results := fun _ => 40 }
    can := fun _ a d => (if argB a 1 then (d.cams.ports[(finOf 4 (argN a 0) : Port)]).older else (d.cams.ports[(finOf 4 (argN a 0) : Port)]).newest).isSome
    out := fun _ a d =>
      let p : Port := finOf 4 (argN a 0)
      let c := d.cams.ports[p]
      match (if argB a 1 then c.older else c.newest) with
      | none => no d .refused .notLatched
      | some r =>
        let bs := r.bytes.take 16 ++ leBytes 4 r.dropped ++ r.bytes.drop 20
        ok (modCam d p (fun c => if argB a 1 then { c with older := some { r with read := true } }
          else { c with newest := some { r with read := true } })) (bytesWords bs) }

/-- cam.cci (R169): one register read or write on a stopped port. -/
def camCciRule : Rule :=
  { sig := { opcode := 0x040C, stops := true, works := some 3, args := [.port, .num 0 65535, .one [1, 2, 4], .any, .flag]
             results := fun a => if argN a 4 = 1 then 1 else 0 }
    can := fun _ a d =>
      let p : Port := finOf 4 (argN a 0)
      !(d.pwr.held.getLsbD 1) && !((d.cams.ports[p]).running) && !(sensorIsolated d p)
    out := fun _ a d =>
      let p : Port := finOf 4 (argN a 0)
      .later (.cci p) (cciAppend p [.host p (argN a 1) (argN a 2) (argN a 3) (argB a 4)] d) }

/-- cam.status (R171): state, contexts in use, queued set, the counts of Table 7.7's codes, trigger queue depth. -/
def camStatusRule : Rule :=
  { sig := { opcode := 0x040D, stops := true, args := [.port], results := fun _ => 31 }
    out := fun _ a d =>
      let c := d.cams.ports[(finOf 4 (argN a 0) : Port)]
      let used := c.ctx.toList ++ (c.queued.map (·.ctx)).toList
      let ws := [w32 (b2n c.running), w32 ((used.map (2 ^ ·)).sum), match c.queued with | some q => q.set.setId | none => 0]
      ok d (c.viol.toList.foldl put64 ws ++ [w32 c.trigQ.length]) }

/-- CAM_TRIGGER (R170): the high-water WPOS passes a multiple of TRIG_PITCH. -/
def camTriggerRule (p : Port) : Row :=
  { can := fun d =>
      let c := d.cams.ports[p]
      let m := (c.trigAt.toNat / max 1 c.cfg.trigPitch + 1) * c.cfg.trigPitch
      !(!domainOn d 3 || !c.running || !reached d m || !webKnown d || decide (d.pos.wpos < d.pos.hwpos))
    out := fun d =>
      let c := d.cams.ports[p]
      let m := (c.trigAt.toNat / max 1 c.cfg.trigPitch + 1) * c.cfg.trigPitch
      let d := modCam d p (fun c => { c with trigAt := BitVec.ofNat 64 m })
      let soon : Bool := match c.lastTrig with | some t => decide ((d.chip.qtime - t) * c.cfg.maxRate < 4000000000) | none => false
      (if soon then modCam d p (fun c => { c with skipped := c.skipped + 1 }) else issueTrigger p (BitVec.ofNat 64 m) d) }

/-- CAL_TIMER_TRIGGER (R192): while the web is stopped, the internal timer triggers a port that runs a calibration; its band is flagged
CAL. -/
def calTimerTriggerRule (p : Port) : Row :=
  { can := fun d => (domainOn d 3 && (d.cams.ports[p]).running && stopped d && calibrating d.cams.ports[p])
    out := fun d =>
      (modCam (issueTrigger p d.pos.wpos d) p (fun c => { c with band := c.band.map (fun b => { b with cal := true }) })) }

/-- CSI_FRAME_START (R167, R171, R173, R174): a short packet of the port's virtual channel. -/
def csiFrameStartRule (pkt : ShortPacket) : Row :=
  { can := fun d => camOn d pkt.port && pkt.syncOk && pkt.hdrOk && pkt.vc.toNat == (d.cams.ports[pkt.port]).cfg.vc
    out := fun d =>
      csiHeader pkt.port pkt.syncOk pkt.hdrOk pkt.hdrCorrected (decide (pkt.vc.toNat = (d.cams.ports[pkt.port]).cfg.vc)) (fun d =>
        let late := fun (e : U64 × Nat) => decide (e.2 + 4000 * (d.cams.ports[pkt.port]).cfg.latencyMax < d.chip.qtime)
        let d := modCam d pkt.port (fun c => { c with
          trigQ := c.trigQ.filter (fun e => !late e), orphan := c.orphan + (c.trigQ.filter late).length })
        let d := match (d.cams.ports[pkt.port]).band with
          | some b => closeBand pkt.port false (if b.notServed then d else camViolation pkt.port 5 0x55 0 d)
          | none => d
        openBand pkt.port d) id d }

/-- CSI_FRAME_END (R167, R173, R174): a short packet of the port's virtual channel. -/
def csiFrameEndRule (pkt : ShortPacket) : Row :=
  { can := fun d => camOn d pkt.port && pkt.syncOk && pkt.hdrOk && pkt.vc.toNat == (d.cams.ports[pkt.port]).cfg.vc
    out := fun d =>
      csiHeader pkt.port pkt.syncOk pkt.hdrOk pkt.hdrCorrected (decide (pkt.vc.toNat = (d.cams.ports[pkt.port]).cfg.vc))
        (fun d => modCam (closeBand pkt.port false (if shortBand d.cams.ports[pkt.port] then camViolation pkt.port 3 0x53 0 d else d)) pkt.port
          (fun c => { c with inFrame := false })) id d }

/-- CSI_LONG_PACKET (R167, R171 to R174, Table 7.7). -/
def csiLongPacketRule (p : Port) (pkt : LongPacket) : Row :=
  { can := fun d =>
      let c := d.cams.ports[p]
      camOn d p && pkt.syncOk && pkt.hdrOk && pkt.dtype.toNat == c.cfg.dtype && pkt.vc.toNat == c.cfg.vc && c.inFrame
    out := fun d =>
      let c := d.cams.ports[p]
      let mine : Bool := pkt.dtype.toNat == c.cfg.dtype && pkt.vc.toNat == c.cfg.vc
      let heard := fun d => modCam d p (fun c => { c with silent := 0 })
      let outside := fun d => if mine && c.dropping then lateLine p (heard d) else heard d
      csiHeader p pkt.syncOk pkt.hdrOk pkt.hdrCorrected (mine && c.inFrame) (fun d => framePacket p pkt (heard d)) outside d }

/-- CSI_CRC_BURST (Table 7.7): more than 64 lines of one band failed CRC-16. -/
def csiCrcBurstRule (p : Port) : Row :=
  { can := fun d =>
      let burst : Bool := match (d.cams.ports[p]).band with | some b => decide (64 < b.crcBad) | none => false
      (camOn d p && burst)
    out := fun d =>
      (camReinit p (camViolation p 7 0x57 2 d)) }

/-- SENSOR_SILENT (Table 7.7): 4 × BAND_LINES triggers without a long packet. -/
def sensorSilentRule (p : Port) : Row :=
  { can := fun d => (camOn d p && decide (4 * (d.cams.ports[p]).cfg.bandLines ≤ (d.cams.ports[p]).silent))
    out := fun d =>
      (camReinit p (camViolation p 8 0x58 2 d)) }

/-- LP11_DETECTED (R194): LP-11 on every lane after the reset; the current set is written again, and a queued set's writes restart from
the first. -/
def lp11DetectedRule (p : Port) : Row :=
  { can := fun d =>
      let c := d.cams.ports[p]
      !(!domainOn d 3 || !c.waitLp11) && !sensorIsolated d p
    out := fun d =>
      let c := d.cams.ports[p]
      let d := modCam d p (fun c => { c with waitLp11 := false })
      let d := match c.set with | some s => cciSetWrites p (writeOps p true s) d | none => d
      (match c.queued with
        | some q => if q.begun && q.applies.isNone then beginSettings p none d else d
        | none => d) }

/-- CCI_TRANSACTION_DONE (R169, Table 7.7): a transaction that is not acknowledged is retried twice. -/
def cciTransactionDoneRule (bus : Bool) (result : BusResult) : Row :=
  { can := fun d => !(d.cams.cci[cciIdx bus]).isEmpty && domainOn d 3 && (d.cams.cci[cciIdx bus]).head?.any (fun o => !sensorIsolated d (opPort o.1))
    out := fun d =>
      match d.cams.cci[cciIdx bus] with
      | [] => d
      | (op, tries) :: _ =>
        match (if camPins d then result else .nak) with
        | .ok v => cciSucceeds op v (cciPop bus (cciTrace (cciAct d bus op) d))
        | _ =>
          let d := cciViolation (opPort op) 10 0x65 0 d
          if tries < 2 then
            { d with cams := { d.cams with cci := upd d.cams.cci (cciIdx bus) (fun q => (op, tries + 1) :: q.drop 1) } }
          else (cciFails bus op (cciPop bus d)) }

/-- CCI_STRETCH (Table 7.7): the bus is recovered and the pending writes are retried. -/
def cciStretchRule (bus : Bool) : Row :=
  { can := fun d => !(d.cams.cci[cciIdx bus]).isEmpty && domainOn d 3
    out := fun d =>
      match d.cams.cci[cciIdx bus] with
      | (op, _) :: _ => cciTrace (.recover bus) (cciViolation (opPort op) 11 0x66 2 d)
      | [] => d }

/-- CCI_SILENT (Table 7.7): no successful transaction with a sensor for 100 ms while writes are pending isolates it; its port stops. -/
def cciSilentRule (p : Port) : Row :=
  { can := fun d =>
      let bus := (d.cams.ports[p]).cfg.cciPort
      (domainOn d 3 && !sensorIsolated d p && (d.cams.cci[cciIdx bus]).any (fun o => opPort o.1 == p))
    out := fun d =>
      let bus := (d.cams.ports[p]).cfg.cciPort
      let d := isolatePartner 7 (cciSource (d.cams.ports[p]).cfg) (cciViolation p 12 0x67 3 d)
      let d := match (d.cams.ports[p]).queued with
        | some q => if q.applies.isNone then settingsFailed p q.set.setId (q.set.writes.length - q.left) d else d
        | none => d
      let d := dropWrites p (fun _ => true) d
      let d := finishAll (· == .cci p) { status := .refused } d
      (serveFirst (raise .camPortStopped [w32 p.val] (stopPort p d))) }

/-- PIPELINE_LINE (R181, R184, R185). -/
def pipelineLineRule (p : Port) : Row :=
  { can := fun d => domainOn d 3 && lineTurn d == some p
    out := fun d => takeTurn p d }

/-- loop.config. -/
def loopConfigRule : Rule :=
  { sig := { opcode := 0x0500, dram := true
             args := [.num 1 23622, .num 1 15, .num 1 300, .num 1 500, .num 1 100, .num 1 65535, .num 0 65535, .num 100 2000,
             .wide 0 (2 ^ 64 - 4096) 4096, .mul 0 (2 ^ 32 - 4096) 4096, .wide 0 (2 ^ 64 - 4096) 4096]
             ranges := fun a => [(argN a 8, argN a 9, false), (argN a 10, 58720256, false)] }
    can := fun _ _ d => (enabledColours d).isEmpty
    out := fun _ a d =>
      done { d with loop := { d.loop with
             bins := argN a 0, portMask := BitVec.ofNat 4 (argN a 1), gain := argN a 2, sigmaMax := argN a 3, obsRatio := argN a 4
             noiseA := argN a 5, noiseB := argN a 6, deadMax := argN a 7, proxy := (argN a 8, argN a 9), workBase := argN a 10 } } }

/-- loop.colour. -/
def loopColourRule : Rule :=
  { sig := { opcode := 0x0501, stops := true, args := [.colour, .num 1 254, .colour, .mul (-2147483648) 2147483647 4, .num 16 1024] }
    can := fun _ a d =>
      let k : Plane := finOf 8 (argN a 0)
      !(d.loop.colours[k].enabled)
    out := fun _ a d =>
      let k : Plane := finOf 8 (argN a 0)
      done (modColour d k (fun x => { x with
             declared := true, node := argN a 1, plane := finOf 8 (argN a 2), colShift := argI a 3, ampSens := argN a 4 })) }

/-- model.load (R202). -/
def modelLoadRule : Rule :=
  { sig := { opcode := 0x0502, reads := true, dram := true, args := [.addr, .any, .any], ranges := fun a => [(argN a 0, argN a 1, false)] }
    can := fun _ a d => (poisonIn d (argN a 0) (argN a 1)).isNone && d.loop.modelNew.isNone && modelOk d (dramRead d (argN a 0) (argN a 1)) && (crc32c (dramRead d (argN a 0) (argN a 1))).toNat == argN a 2
    out := fun _ a d =>
      let img := dramRead d (argN a 0) (argN a 1)
      match poisonIn d (argN a 0) (argN a 1) with
      | some g => poisoned g d
      | none =>
        if d.loop.modelNew.isSome then no d .busyState
        else if !modelOk d img then no d .badArgument .field
        else if (crc32c img).toNat ≠ argN a 2 then no d .badCrc
        else
          let d := { d with loop := { d.loop with modelNew := some img } }
          done (if jobRunning d then d else swapModel d) }

/-- loop.enable (R196, R200). -/
def loopEnableRule : Rule :=
  { sig := { opcode := 0x0503, stops := true, args := [.num 0 255, .flag] }
    can := fun _ a d =>
      let ks := (List.finRange 8).filter (fun k => bitOf (argN a 0) k.val)
      d.mbx.measuring && (!argB a 1 || (ks.findSome? (enableFails (ks.foldl (fun e k => if d.loop.colours[k].node = d.fabric.node.toNat then (match mkSpan k false e with | some r => takeSpan r e | none => e) else e) d))).isNone)
    out := fun _ a d =>
      let ks := (List.finRange 8).filter (fun k => bitOf (argN a 0) k.val)
      if argB a 1 then
             let e := ks.foldl (fun e k => if d.loop.colours[k].node = d.fabric.node.toNat then
                 (match mkSpan k false e with | some r => takeSpan r e | none => e) else e) d
             match ks.findSome? (enableFails e) with
             | some r => no d .badArgument r
             | none =>
               let e := ks.foldl (fun e k => modColour e k (fun x => { x with enabled := true })) e
               done (holdLoop (sendSpans false e))
           else done (ks.foldl (fun e k => modColour e k (fun x => { x with enabled := false, held := false })) d) }

/-- loop.status (Table 8.11): state as 0 not declared, 1 declared, 2 enabled; trim targets in units of 1/65,536; counters of the job's
live set. -/
def loopStatusRule : Rule :=
  { sig := { opcode := 0x0504, stops := true, args := [.colour], results := fun _ => 92 }
    out := fun _ a d =>
      let k : Plane := finOf 8 (argN a 0)
      let x := d.loop.colours[k]
      let n := d.acct.live[2].node[k]
      let ws := [w32 (if x.enabled then 2 else b2n x.declared), x.gen, x.reported] ++ x.tau.toList.map (fun t => i32 (roundRat (65536 * t)))
        ++ [w32 (b2n x.held)]
      let cs := [n.used] ++ n.excluded.toList ++ [n.updated] ++ n.frozen.toList
        ++ [n.corrClamp, n.trimClamp, n.solveOverrun, n.stripSkipped, d.acct.live[2].discarded[k], d.acct.live[2].applied[k]]
      ok d (cs.foldl (fun ws v => put64 ws v.toNat) ws) }

/-- loop.read (Table 8.11). -/
def loopReadRule (e : Device) : Rule :=
  { sig := { opcode := 0x0505, dram := true, args := [.colour, .num 0 3, .addr]
             ranges := fun a => [(argN a 2, e.loop.bins * (if argN a 1 = 0 then 2 else if argN a 1 = 2 then 1 else 4), false)] }
    out := fun _ a d =>
      let x := d.loop.colours[(finOf 8 (argN a 0) : Plane)]
      ok (dramWrite 5 (argN a 2) ((List.range d.loop.bins).flatMap (readBin x (argN a 1))) d) }

/-- loop.reset (Table 8.11): c in the heads' spans, their LOOP_TRIM and trim targets become 0. -/
def loopResetRule : Rule :=
  { sig := { opcode := 0x0506, stops := true, args := [.colour, .wide 0 (2 ^ 40 - 1) 1] }
    can := fun _ a d =>
      let hs := maskHeads (argN a 1)
      !(hs.any (fun h => !hasHead d h.val && d.loop.colours[(finOf 8 (argN a 0) : Plane)].node == d.fabric.node.toNat))
    out := fun _ a d =>
      let hs := maskHeads (argN a 1)
      ok (modColour d (finOf 8 (argN a 0)) (fun x =>
             let spans := match x.span with | some r => r.heads.filter (fun (e : SpanHead) => hs.contains e.head) | none => []
             { x with
               c := x.c.filter (fun e => !spans.any (spanCovers x e.1))
               trim := updAll x.trim (fun h t => if hs.contains h then 0 else t)
               tau := updAll x.tau (fun h t => if hs.contains h then 0 else t) })) }

/-- loop.check_config (R216, R218). -/
def loopCheckConfigRule : Rule :=
  { sig := { opcode := 0x0507, stops := true, args := [.one [8, 16, 32], .mul 4 32 2, .num 0 15, .num 5 90, .num 10 95] }
    can := fun _ _ d => !(jobActive d)
    out := fun _ a d =>
      done { d with loop := { d.loop with
             checkPitch := argN a 0, checkRun := argN a 1, checkCode := argN a 2, checkMissing := argN a 3, checkWeak := argN a 4 } } }

/-- loop.check_read (R219). -/
def loopCheckReadRule : Rule :=
  { sig := { opcode := 0x0508, dram := true, args := [.addr, .any], results := fun _ => 1
             ranges := fun a => [(argN a 0, 16 * argN a 1, false)] }
    out := fun _ a d =>
      let out := d.loop.checks.take (argN a 1)
      ok (dramWrite 5 (argN a 0) (out.flatMap checkBytes) { d with loop := { d.loop with checks := d.loop.checks.drop (argN a 1) } })
        [w32 out.length] }

/-- SPAN_RECORD_RECEIVED (R200): a record that has reached the measuring node. -/
def spanRecordReceivedRule (r : SpanRecord) : Row :=
  { can := fun d => d.mbx.measuring && (inboxHas (isSpan r) d).isSome
    out := fun d => match inboxHas (isSpan r) d with | some e => takeSpan r (takeInbox e d) | none => d }

/-- PROXY_RECORD_RECEIVED (R201): a record that has reached the measuring node; one its stream discarded never does (R239). -/
def proxyRecordReceivedRule (r : ProxyRecord) : Row :=
  { can := fun d => d.mbx.measuring && (inboxHas (isProxy r) d).isSome
    out := fun d => match inboxHas (isProxy r) d with | some e => takeProxy r (takeInbox e d) | none => d }

/-- PROXY_RECORD_SEND (R198, R199): the next proxy line of a colour goes to the measuring node. -/
def proxyRecordSendRule (colour : Plane) : Row :=
  { can := fun d => (nextProxy colour d).isSome
    out := fun d0 =>
      match nextProxy colour d0 with
      | some (r, lo, hi, n) =>
        let q := proxyOf colour r lo hi d0
        let d := dropProxy colour r lo hi d0
        (if d.mbx.measuring then takeProxy q d else sendRecord (proxyBytes q) n d)
      | none => d0 }

/-- STRIP_RECORD_SEND (R218): the strip record after the strip's last token has ended; its layout beyond KIND is log entry 35's. -/
def stripRecordSendRule (colour : Plane) : Row :=
  { can := fun d => ownsColour d colour && (measuringNode d).isSome
      && (match d.loop.owner[colour].strips with
          | r :: _ => allEnded d (headsOf r.pc) r.job ((List.range r.strips).map (· + (r.base + r.lines))) | [] => false)
    out := fun d =>
      match d.loop.owner[colour].strips, measuringNode d with
      | r :: rest, some n =>
        let hs := headsOf r.pc
        let lines := (List.range r.strips).map (· + (r.base + r.lines))
        let b := stripBytes {
          colour := colour, jobId := jobIdOf r.job, rep := w32 r.rep, pos := BitVec.ofNat 64 (r.start + lineAt d r.lines), checkPitch := d.loop.checkPitch
          checkRun := d.loop.checkRun, firedMask := firedMask d hs r.job lines }
        let d := modOwner (dropEnded hs r.job lines d) colour (fun o => { o with strips := rest })
        if d.mbx.measuring then { d with cz := { d.cz with inbox := d.cz.inbox ++ [(n, b)] } } else sendRecord b n d
      | _, _ => d }

/-- The heads of the colour of a strip (R218). -/
def stripSpans (r : StripRecord) (d : Device) : List SpanHead := match d.loop.colours[r.colour].span with | some x => x.heads | none => []

/-- A strip that is analysed (R218): no run of its lines is excluded under BAND, it has marks, and every head of its colour fired all of it. -/
def stripUsable (r : StripRecord) (reversed : BitVec 40) (d : Device) : Bool :=
  !([0, 1, 2, 3].any (fun (p : Port) => d.loop.portMask.getLsbD p.val && (List.range r.checkPitch).any (fun q => (runLines d r p q).any (·.barred)))
    || ((stripSpans r d).flatMap (headMarks d r reversed)).isEmpty || (stripSpans r d).any (fun e => !r.firedMask.getLsbD e.head.val))

/-- STRIP_ANALYSIS (R218, R219): the measuring node analyses a strip whose record has reached it: results of the MISSING and WEAK nozzles. -/
def stripAnalysisRule (r : StripRecord) (reversed : BitVec 40) : Row :=
  { can := fun d => domainOn d 3 && d.mbx.measuring && (match inboxHas (isStrip r) d with | some e => stripUsable r reversed (takeInbox e d) | none => false)
    out := fun d =>
      match inboxHas (isStrip r) d with
      | none => d
      | some e =>
        let d := takeInbox e d
        let ms := (stripSpans r d).flatMap (headMarks d r reversed)
        let found := ms.filterMap (nozzleResult d r ms)
        let count := fun k => w32 (found.filter (fun x => x.cls == k)).length
        raise .nozzleCheck [w32 r.colour.val, count .missing, count .weak]
          { d with chip := { d.chip with drawn := d.chip.drawn + 1 }, loop := { d.loop with checks := d.loop.checks ++ found } } }

/-- CORRECTION_RECORD_RECEIVED (R214). -/
def correctionRecordReceivedRule (r : CorrRecord) : Row :=
  { out := fun d => (takeCorrection r d) }

/-- LOOP_SOLVE_DONE (R208 to R213): the oldest waiting loop band is solved. -/
def loopSolveDoneRule : Row :=
  { can := fun d => domainOn d 3 && !(holdLoop d).loop.queue.isEmpty
    out := fun d0 =>
      let d := d0
      let d := holdLoop d0
      match d.loop.queue with
      | [] => d
      | q :: rest =>
        let ks := enabledColours d
        let now := BitVec.ofNat 8 ((ks.filter (fun k => d.loop.colours[k].held)).map (fun k => 2 ^ k.val)).sum
        let sb := { q with held := q.held ||| now }
        let all := (List.range d.loop.bins).map (fun b => (b, solveBin d sb ks b))
        let d := { d with loop := { d.loop with queue := rest } }
        (ks.foldl (fun d k =>
          solveColour q.band k (all.filterMap (fun e => (e.2.find? (fun x => x.1 == k)).map (fun x => (e.1, x.2)))) d) d) }

/-- DICT_MESSAGE_RECEIVED: the effects of a message on its stream; what its record says is its own row's (R235, R239). -/
def dictMessageReceivedRule (m : DictMessage) : Row :=
  { can := fun d => (ready d && (domainOn d 2 || m.cls == 1))
    out := fun d => keepRecord m (dictReceive m d) }

/-- STREAM_NOTICE_RECEIVED. -/
def streamNoticeReceivedRule (peer : U8) (resync : Bool) (cls : BitVec 2) : Row :=
  { can := fun d => (ready d)
    out := fun d => (takeNotice peer resync cls d) }

/-- The transmit buffer of a stalled compressor has room for a whole code word, 2 bytes (R237): the messages held go on. -/
def compressorResumeRule (cls : BitVec 2) (room : Nat) : Row :=
  { can := fun d => !(!domainOn d 2 || !d.cz.enc[(0 : Fin 2)].stalled || decide (room < 2))
    out := fun d => sendHandover (noteStall (feedStream cls d.cz.held.length room d)) }

/-- cz.compress (R234). -/
def czCompressRule : Rule :=
  { sig := { opcode := 0x0A00, slow := true, dram := true, stops := true, works := some 2
             args := [.addr, .wide 1 (2 ^ 32) 1, .wide 0 (2 ^ 64 - 1) 32, .addr, .num 1 64, .addr]
             ranges := fun a => [(argN a 0, argN a 1, false), (argN a 2, argN a 3, false)]
             ++ (if argN a 5 = 0 then [] else [(argN a 5, 8 + 8 * ((argN a 1 + 65535) / 65536), false)]) }
    can := fun _ a _ => !decide (argN a 3 < worstCase (argN a 1))
    out := fun c a d =>
      .later .compress (assignEngine { d with cz := { d.cz with jobs := d.cz.jobs ++ [
             { key := keyOf c.origin, seq := c.seq, engine := none, src := argN a 0, left := argN a 1, dest := argN a 2, depth := argN a 4,
               index := argN a 5, written := 0, method0 := 0, blocks := [] }] } }) }

/-- A compressor finishes a block of cz.compress. -/
def blockCompressedRule (engine : Fin 2) : Row :=
  { can := fun d => d.cz.jobs.any (fun j => j.engine == some engine) && domainOn d 2 && dramServes d && engineFree engine d
    out := fun d =>
      match d.cz.jobs.find? (fun j => j.engine == some engine) with
      | none => d
      | some j => compressBlock engine j d }

/-- cz.decompress (R230 to R232): the block is read and waits for a history buffer; it answers when its output has ended. -/
def czDecompressRule : Rule :=
  { sig := { opcode := 0x0A01, slow := true, dram := true, stops := true, works := some 2
             args := [.wide 0 (2 ^ 64 - 1) 32, .addr, .addr]
             ranges := fun a => [(argN a 0, 32, false), (argN a 1, argN a 2, false)]
             results := fun _ => 1 }
    can := fun _ a d =>
      let src := argN a 0
      let head := dramRead d src 32
      !((poisonIn d src 32).isSome) && !decide (argN a 2 < fkzOrig head) && !(fkzHeaderOk head && !inDram d src (fkzSize head))
        && (poisonIn d src (if fkzHeaderOk head then 32 + fkzComp head else 32)).isNone
    out := fun c a d =>
      let src := argN a 0
      let head := dramRead d src 32
      let n := if fkzHeaderOk head then 32 + fkzComp head else 32
      let d := dramSee src n d
      .later .decompress (startDecs { d with cz := { d.cz with decs := d.cz.decs ++ [
        { key := keyOf c.origin, seq := c.seq, block := dramRead d src n, dest := argN a 1, left := none }] } }) }

/-- cz.dict_reset (R236, Table 9.8): the stream's next message begins with RESET; NO_SLOT ends. -/
def czDictResetRule : Rule :=
  { sig := { opcode := 0x0A02, stops := true, args := [.num 1 255, .num 0 1] }
    out := fun _ a d => ok (modEnc (BitVec.ofNat 8 (argN a 0)) (BitVec.ofNat 2 (argN a 1)) (fun s => { s with resetNext := true, stored := false }) d) }

/-- cz.status (Table 9.9): decompressors 0 to 7, compressors 0 and 1, then the streams. -/
def czStatusRule : Rule :=
  { sig := { opcode := 0x0A03, stops := true, results := fun _ => 312 }
    out := fun _ _ d => ok d (d.cz.dec.toList.flatMap engineWords ++ d.cz.enc.toList.flatMap engineWords ++ streamWords d) }

/-- CRC_SEGMENT (R242, Table 9.7): a segment that the unit's filters and window admit passes its attach point. -/
def crcSegmentRule (u : Fin 8) (seg : Segment) (bytes : List U8) : Row :=
  { can := fun d => (domainOn d 2 && d.crcs[u].enabled && admits d.crcs[u] seg)
    out := fun d => (modCrc d u (foldSegment (segAddress seg) bytes)) }

/-- crc.config (R241, Table 9.6). -/
def crcConfigRule : Rule :=
  { sig := { opcode := 0x0A10, stops := true
             args := [.num 0 7, .num 0 7, .num 0 39, .addr, .addr, .num 0 31, .num 0 15, .any, .num 8 64, .addr, .addr, .flag, .flag, .flag,
             .num 0 2, .any] }
    can := fun _ a d =>
      let u : Fin 8 := finOf 8 (argN a 0)
      !decide ((argN a 1 = 6 ∨ argN a 1 = 7) ∧ !hasHead d (argN a 2)) && !decide (2 ^ argN a 8 ≤ argN a 9 ∨ 2 ^ argN a 8 ≤ argN a 10) && !(d.crcs[u].enabled)
    out := fun _ a d =>
      let u : Fin 8 := finOf 8 (argN a 0)
      done (modCrc d u (fun x => { x with
             attach := argN a 1, lane := argN a 2, base := argN a 3, size := argN a 4, sources := BitVec.ofNat 5 (argN a 5)
             vcs := BitVec.ofNat 4 (argN a 6), types := w32 (argN a 7), width := argN a 8, poly := BitVec.ofNat 64 (argN a 9)
             init := BitVec.ofNat 64 (argN a 10), invert := argB a 11, reflIn := argB a 12, reflOut := argB a 13, fold := argN a 14
             foldSeq := w32 (argN a 15) })) }

/-- crc.read (R243): RAW, VALUE, BYTES, SEGMENTS, next sequence. -/
def crcReadRule : Rule :=
  { sig := { opcode := 0x0A11, stops := true, args := [.num 0 7], results := fun _ => 9 }
    out := fun _ a d =>
      let u := d.crcs[finOf 8 (argN a 0)]
      ok d (w64 u.raw.toNat ++ w64 (crcValue u) ++ w64 u.bytes.toNat ++ w64 u.segments.toNat ++ [u.seq]) }

/-- crc.write (R243). -/
def crcWriteRule : Rule :=
  { sig := { opcode := 0x0A12, stops := true, args := [.num 0 7, .addr, .addr, .addr, .any] }
    out := fun _ a d =>
      ok (modCrc d (finOf 8 (argN a 0)) (fun u => { u with
           raw := BitVec.ofNat 64 (argN a 1), bytes := BitVec.ofNat 64 (argN a 2), segments := BitVec.ofNat 64 (argN a 3)
           seq := w32 (argN a 4) })) }

/-- crc.enable (Table 9.9). -/
def crcEnableRule : Rule :=
  { sig := { opcode := 0x0A13, stops := true, args := [.num 0 255, .flag] }
    out := fun _ a d => done { d with crcs := updAll d.crcs (fun k u => if bitOf (argN a 0) k.val then enableUnit (argB a 1) u else u) } }

/-- mem.status (Table 10.7): the items in the table's order. -/
def memStatusRule : Rule :=
  { sig := { opcode := 0x0900, results := fun _ => 84 }
    out := fun _ _ d =>
      let geo := (List.range 4).flatMap (fun k => match d.dram.dies[k]? with
        | some x => [w32 x.gbit, w32 (b2n x.byteMode), w32 x.ranks] | none => [0, 0, 0])
      let recs := d.dram.records.toList.flatMap (fun r => match r with
        | some t => w32 1 :: bytesWords (trainBytes t) | none => List.replicate 13 0)
      let ws := geo ++ w64 (usable d)
        ++ [w32 d.dram.point.val, w32 ((List.range 3).foldr (fun p a => b2n (d.dram.failed.getD p false) * 2 ^ p + a) 0)]
        ++ recs ++ d.dram.drift.toList.map i32 ++ d.dram.owed.toList.flatMap (fun v => v.toList.map i32) ++ [0]
        ++ d.vlog.diag.dramCorr.toList.flatMap ctr32 ++ ctr32 d.vlog.diag.dramUncorr ++ ctr32 d.vlog.diag.dramVictim
      ok d ws }

/-- mem.freq (R255, R256). -/
def memFreqRule : Rule :=
  { sig := { opcode := 0x0901, slow := true, dram := true, sweeps := true, args := [.num 0 2] }
    can := fun _ a d =>
      let p : Fin 3 := finOf 3 (argN a 0)
      !(d.dram.failed[p]) && !decide (admission p < stagedSupply d) && (!(d.dram.work.isSome || d.dram.holding) || d.dram.queued.isNone)
    out := fun _ a d =>
      let p : Fin 3 := finOf 3 (argN a 0)
      if d.dram.work.isSome || d.dram.holding then
             if d.dram.queued.isSome then no d .busyState
             else .later .memFreq (modDram d (fun m => { m with queued := some p }))
           else if printing d then
             .reply { status := .deferred } (noteReady d (modDram d (fun m => { m with deferred := m.deferred ++ [.freq p] })))
           else .later .memFreq (startMemWork (.freq p) false d) }

/-- mem.train (R254, R383): POINT_MASK, SAVE. A second one during a sweep answers BUSY_STATE. -/
def memTrainRule : Rule :=
  { sig := { opcode := 0x0902, slow := true, dram := true, sweeps := true, args := [.num 0 7, .flag]
             results := fun a => 8 * ((List.range 3).filter (fun p => bitOf (argN a 0) p)).length }
    can := fun _ a d => ((([0, 1, 2] : List (Fin 3)).filter (fun p => bitOf (argN a 0) p.val)).isEmpty || !(d.dram.work.isSome || d.dram.holding))
    out := fun _ a d =>
      let ps := ([0, 1, 2] : List (Fin 3)).filter (fun p => bitOf (argN a 0) p.val)
      let w : MemWork := .train ps (argB a 1)
      if ps.isEmpty then ok d
      else if d.dram.work.isSome || d.dram.holding then no d .busyState
      else if printing d || decide (1 ≤ d.therm.level) then
        .reply { status := .deferred } (noteReady d (modDram d (fun m => { m with deferred := m.deferred ++ [w] })))
      else .later .memTrain (startMemWork w false d) }

/-- mem.fence (R258): every write accepted before the command is complete but those held; it answers when they are. -/
def memFenceRule : Rule :=
  { sig := { opcode := 0x0903, dram := true, sweeps := true, args := [.num 0 1023] }
    out := fun _ a d => if fenceWaits d (argN a 0) then .later (.memFence (BitVec.ofNat 10 (argN a 0))) d else ok d }

/-- mem.qos (R259): the weights of sources 1 to 9. -/
def memQosRule : Rule :=
  { sig := { opcode := 0x0904, args := List.replicate 9 (.num 1 15) }
    out := fun _ a d =>
      done (modDram d (fun m => { m with
           weights := updAll m.weights (fun k w => if k.val = 0 then w else argN a (k.val - 1)) })) }

/-- mem.rowhammer (R262). -/
def memRowhammerRule : Rule :=
  { sig := { opcode := 0x0905, args := [.num 256 16384] }
    out := fun _ a d => done (modDram d (fun m => { m with threshold := argN a 0 })) }

/-- mem.scrub (R249). -/
def memScrubRule : Rule :=
  { sig := { opcode := 0x0906, args := [.num 1 168, .flag] }
    out := fun _ a d => done (modDram d (fun m => { m with scrubHours := argN a 0, scrubOn := argB a 1 })) }

/-- mem.errors (R248): the oldest records are copied and leave the list. -/
def memErrorsRule : Rule :=
  { sig := { opcode := 0x0907, dram := true, args := [.addr, .any], results := fun _ => 1
             ranges := fun a => [(argN a 0, 32 * argN a 1, false)] }
    out := fun _ a d =>
      let out := d.dram.errors.take (argN a 1)
      ok (dramWrite 8 (argN a 0) (out.flatMap memErrorBytes) (modDram d (fun m => { m with errors := m.errors.drop (argN a 1) })))
        [w32 out.length] }

/-- DRAM_REQUEST (R259): served in the order of its source, or held while a sweep or a trip lasts. -/
def dramRequestRule (r : DramReq) : Row :=
  { can := fun d => memOn d && memTakes d && inDram d r.addr (reqSize r)
    out := fun d =>
      if holdsRequests d then (modDram d (fun m => { m with waiting := m.waiting ++ [r] })) else (serve r d) }

/-- TRAINING_DONE (R250 to R255): the outcome of the point in work. A point with a record is at its verify first; when it fails a full training
follows, and of three full trainings that fail the point fails. -/
def trainingDoneRule (r : TrainResult) : Row :=
  { can := fun d => alive d && sweeping d && !d.therm.trip && !d.dram.selfRefresh
      && (match d.dram.work with | some w => workPoint w == some r.point | none => false)
    out := fun d =>
      match d.dram.work with
      | none => d
      | some w =>
        noteReady d (
          if d.dram.verify then
            if (d.dram.records[r.point]).any (verifies r) then pointPasses w r.point none d else modDram d (fun m => { m with verify := false })
          else if lanesPass r then pointPasses w r.point (some r) d
          else if d.dram.tries + 1 < 3 then modDram d (fun m => { m with tries := m.tries + 1 })
          else pointFails w r.point d) }

/-- DEFERRED_TRAINING_START (R254): no job runs and none is scheduled; a training also waits for throttle level 0 (R383). -/
def deferredTrainingStartRule : Row :=
  { can := fun d =>
      let may := match d.dram.deferred.head? with
        | some (.train _ _) => d.therm.level == 0
        | some _ => true
        | none => false
      (memOn d && may && !d.dram.holding && d.dram.work.isNone && !printing d && !d.therm.trip)
    out := fun d =>
      (raise .dramTraining [] (modDram d (fun m => { m with holding := true }))) }

/-- TRAINING_HOLD_EXPIRY (R254): 10 ms later the requests are held and the sweep starts. -/
def trainingHoldExpiryRule : Row :=
  { can := fun d => (d.dram.holding && memOn d && memTakes d && !d.therm.trip)
    out := fun d =>
      match d.dram.deferred with
      | w :: rest => noteReady d (startMemWork w true (modDram d (fun m => { m with holding := false, deferred := rest })))
      | [] => noteReady d (modDram d (fun m => { m with holding := false })) }

/-- REFRESH_DUE (R260): while the feed waits the refresh is postponed, and the eighth owed issues all eight; otherwise owed ones are
repaid and others pulled in, up to 8 ahead. -/
def refreshDueRule (mc : Port) (rank : Fin 2) (feedWaiting : Bool) : Row :=
  { can := fun d => (memOn d && !d.dram.selfRefresh)
    out := fun d =>
      let owed := d.dram.owed[mc][rank] + 1
      let forced := feedWaiting && decide (8 ≤ owed)
      let (left, n) : Int × Int := if feedWaiting then (if 8 ≤ owed then (0, owed) else (owed, 0)) else (-8, owed + 8)
      let d := modDram d (fun m => { m with
        owed := upd m.owed mc (fun v => upd v rank (fun _ => left))
        refreshed := upd m.refreshed mc (fun v => upd v rank (fun k => k + n.toNat))
        interval := upd m.interval mc (fun v => upd v rank (fun _ => 3904 / rankMult d mc rank)) })
      if forced then
        let (v, d) := draw d
        modDram d (fun m => { m with catchUp := upd m.catchUp mc (fun x => upd x rank (fun _ => d.chip.qtime + v.toNat % 8961)) })
      else d }

/-- REFRESH_WINDOW (R262): every row activation table is emptied. -/
def refreshWindowRule : Row :=
  { can := fun d => (memOn d && !d.dram.selfRefresh)
    out := fun d => (modDram d (fun m => { m with rows := [] })) }

/-- MR4_READ (R260, R261): the refresh multiplier, or EV_DRAM_HOT and the 4× rate above the die's range. -/
def mr4ReadRule (die : DieId) (multiplier : Fin 5) (hot : Bool) : Row :=
  { can := fun d => memOn d && !d.dram.selfRefresh && hasDie d die && (hot || multiplier == 1 || multiplier == 2 || multiplier == 4)
    out := fun d =>
      let put : Nat → Device := fun v => modDram d (fun m => { m with mult := upd m.mult die.mc (fun x => upd x die.die (fun _ => v)) })
      if hot then raise .dramHot [] (put 4) else put multiplier.val }

/-- DQS_TRACKING (R253): the write DQ delay of a byte lane moves by at most one step towards the drift; EV_DRAM_DRIFT when it has moved
more than 6 steps from its trained value. -/
def dqsTrackingRule (lane : Fin 8) (drift : Int) : Row :=
  { can := fun d => (memOn d && !d.dram.selfRefresh && !sweeping d)
    out := fun d =>
      let was := d.dram.drift[lane]
      let now := was + (if was < drift then 1 else if drift < was then -1 else 0)
      let e := modDram d (fun m => { m with drift := upd m.drift lane (fun _ => now) })
      (if was.natAbs ≤ 6 ∧ 6 < now.natAbs then raise .dramDrift [] e else e) }

/-- SCRUB_READ (R249): the next granule of the usable capacity; the scrubber pauses at throttle level 1 and above (R383). -/
def scrubReadRule (corrected : Bool) (fault : Option CheckFault) : Row :=
  { can := fun d => (memOn d && memTakes d && d.dram.scrubOn && d.therm.level == 0 && !holdsRequests d && decide (0 < usable d))
    out := fun d =>
      let g := d.dram.scrubAt
      let d := modDram d (fun m => { m with scrubAt := (m.scrubAt + 1) % (usable d / 32) })
      let c : List (Nat × CheckFault) := if corrected then [(0, .single)] else []
      serve ⟨9, g * 32, none, 32, c ++ fault.toList.map ((0, ·))⟩ d }

/-- DRAM_CORRECTED_REPORT (R248): the count since the last event and the last address. -/
def dramCorrectedReportRule : Row :=
  { can := fun d => (alive d && decide (0 < d.dram.corrected.1))
    out := fun d =>
      (raise .dramCorrected ([w32 d.dram.corrected.1] ++ w64 d.dram.corrected.2)
        (modDram d (fun m => { m with corrected := (0, 0) }))) }

/-- LANE_ATTEMPT_START (R277): the 50 µs, 100 ms or 1 s have passed. -/
def laneAttemptStartRule (l : LaneId) : Row :=
  { can := fun d => (lanePower d l && laneWaits (getLane d l))
    out := fun d => (startAttempt l d) }

/-- PARTNER_T1_DETECTED (R278). -/
def partnerT1DetectedRule (l : LaneId) : Row :=
  { can := fun d => (lanePower d l && laneWaits (getLane d l))
    out := fun d => (startAttempt l d) }

/-- TRAINING_PHASE_TIMEOUT (R275). -/
def trainingPhaseTimeoutRule (l : LaneId) : Row :=
  { can := fun d => (lanePower d l && (getLane d l).phase.isSome)
    out := fun d => (attemptFails l 1 d) }

/-- CDR_LOCK (Table 11.3): T1 ends. -/
def cdrLockRule (x : CdrLock) : Row :=
  { can := fun d => (lanePower d x.lane && (getLane d x.lane).phase == some .t1)
    out := fun d => lockLane x.lane x.ppm d }

/-- RECEIVER_ADAPTED (Table 11.3): T2 ends, and the setting found is stored; the manual does not say which it is. -/
def receiverAdaptedRule (l : LaneId) : Row :=
  { can := fun d => (lanePower d l && (getLane d l).phase == some .t2) && !wrongRate d l
    out := fun d =>
      adaptLane l d }

/-- TRAINING_WORD_RECEIVED (R276): one that fails its CRC is discarded and counted. -/
def trainingWordReceivedRule (l : LaneId) (w : TrainWord) (last : Bool) : Row :=
  { can := fun d => !(!lanePower d l || (getLane d l).phase != some .t3)
    out := fun d =>
      if w.crc != crc32c (trainBody w) then
        noteReady d (endReceive l last (answerWord l (modDiag d (fun g => { g with laneTwcrc := upd g.laneTwcrc (lanePos l) (fun n => satAdd n 1) }))))
      else (noteReady d (endReceive l last (takeWord l w d))) }

/-- PEPPERCORN_TEST_END (R280, R281): the counts, in 48 bits, answer lane.prbs, and the lane makes a new attempt. -/
def peppercornTestEndRule (l : LaneId) (got : List Bool) : Row :=
  { can := fun d => !((getLane d l).state != .test)
    out := fun d =>
      let c := prbsCheck got
      let rs := w64 c.bits ++ w64 c.errors ++ w64 c.losses
      (finishWork (· == .prbs l) { results := rs } (modLane d l restartLane)) }

/-- LOSS_OF_SIGNAL (R274): outside electrical idle the lane goes down; an attempt in progress fails. -/
def lossOfSignalRule (l : LaneId) : Row :=
  { can := fun d =>
      let x := getLane d l
      lanePower d l && ((laneUp x && !x.rxIdle) || x.phase.isSome)
    out := fun d =>
      let x := getLane d l
      if laneUp x && !x.rxIdle then (laneFalls l d)
      else if x.phase.isSome then (attemptFails l 0 d)
      else d }

/-- CODE_ERROR_BURST (R270): the 65th code error within 100 µs; in a peppercorn test they are test errors (Table 11.7). -/
def codeErrorBurstRule (l : LaneId) (errors : List CodeError) : Row :=
  { can := fun d => (lanePower d l && (laneUp (getLane d l) || (getLane d l).phase == some .t3))
    out := fun d =>
      let up := laneUp (getLane d l)
      let d := countCodes l errors.length d
      if up ∧ 64 < (getLane d l).codeTimes.length then laneFalls l d else d }

/-- EQ_FREEZE (R271). -/
def eqFreezeRule (l : LaneId) : Row :=
  { can := fun d => (lanePower d l && laneUp (getLane d l))
    out := fun d => (modLane d l (fun s => { s with frozen := true })) }

/-- EQ_RESUME (R271). -/
def eqResumeRule (l : LaneId) : Row :=
  { can := fun d => (lanePower d l && laneUp (getLane d l))
    out := fun d => (modLane d l (fun s => { s with frozen := false })) }

/-- ELECTRICAL_IDLE_ENTRY (R272): no cell queued for IDLE_TIME. -/
def electricalIdleEntryRule (l : LaneId) : Row :=
  { can := fun d =>
      let x := getLane d l
      (lanePower d l && laneUp x && x.idleTime != 0 && mayIdle d l)
    out := fun d =>
      (modLane d l (fun s => { s with state := .idle, txIdle := true })) }

/-- ELECTRICAL_IDLE_NOTICE (R272). -/
def electricalIdleNoticeRule (l : LaneId) : Row :=
  { can := fun d => (lanePower d l && laneUp (getLane d l))
    out := fun d => (modLane d l (fun s => { s with state := .idle, rxIdle := true })) }

/-- WAKE_BURST_TIMER (R273): a burst and the notice. -/
def wakeBurstTimerRule (l : LaneId) : Row :=
  { can := fun d => (lanePower d l && laneUp (getLane d l) && (getLane d l).txIdle)
    out := fun d =>
      (modLane d l (fun s => { s with bursts := s.bursts + 1 })) }

/-- WAKE_BURST_MISSING (R273): no burst for 6 ms is loss of signal. -/
def wakeBurstMissingRule (l : LaneId) : Row :=
  { can := fun d => (lanePower d l && laneUp (getLane d l) && (getLane d l).rxIdle)
    out := fun d => (laneFalls l d) }

/-- lane.config (Table 11.5): IDLE_TIME applies at once, the rest at the next attempt; a lane that is enabled begins to train. -/
def laneConfigRule : Rule :=
  { sig := { opcode := 0x0910, args := [.any, .flag, .num 0 7, .num 0 3, .flag, .flag, .num 0 10000] }
    can := fun _ a d => !decide (argN a 6 ≠ 0 ∧ argN a 6 < 10) && (laneOf (argN a 0)).any (hasLane d)
    out := fun _ a d =>
      laneArg (argN a 0) d (fun l =>
             let d := modLane d l (fun s => { s with
               enable := argB a 1, preset := argN a 2, swing := argN a 3, txInv := argB a 4, rxInv := argB a 5, idleTime := argN a 6 })
             let d := if (getLane d l).state == .disabled && argB a 1 && linkEnabled d l && lanePower d l && (match l with | .hl _ => headLanesMay d | _ => true) then modLane d l restartLane else d
             done d) }

/-- lane.status (Table 11.6): state, rate, attempts, reason of the last failure (0xFF none), code errors, frozen flag, equaliser setting.
-/
def laneStatusRule : Rule :=
  { sig := { opcode := 0x0911, args := [.any], results := fun _ => 8 }
    can := fun _ a d => (laneOf (argN a 0)).any (hasLane d)
    out := fun _ a d =>
      laneArg (argN a 0) d (fun l =>
           let x := getLane d l
           ok d (put64 [w32 (laneStateNum x.state), w32 (laneRate d l), w32 x.attempts, w32 (x.reason.getD 0xFF)]
             d.vlog.diag.laneCode[lanePos l].toNat ++ [w32 (b2n x.frozen), x.equaliser.getD 0])) }

/-- lane.retrain (Table 11.6): a test in progress ends with it. -/
def laneRetrainRule : Rule :=
  { sig := { opcode := 0x0912, args := [.any] }
    can := fun _ a d => (laneOf (argN a 0)).any (hasLane d)
    out := fun _ a d =>
      laneArg (argN a 0) d (fun l =>
           let e := retrainLane l d
           ok (noteReady d (if l == .wl then refreshPath e else e))) }

/-- lane.prbs (R281): DEFERRED while a job is RUNNING or SCHEDULED, and at throttle level 1 or more. -/
def lanePrbsRule : Rule :=
  { sig := { opcode := 0x0913, slow := true, args := [.any, .flag, .any], results := fun _ => 6 }
    can := fun _ a d => (laneOf (argN a 0)).any (fun l => hasLane d l && (getLane d l).state != .disabled && lanePower d l && (getLane d l).test.isNone && (getLane d l).deferred.isNone)
    out := fun _ a d =>
      laneArg (argN a 0) d (fun l =>
           let x := getLane d l
           if x.state == .disabled || !lanePower d l then no d .badArgument
           else if x.test.isSome || x.deferred.isSome then no d .busyState
           else if jobRunning d || jobScheduled d || d.therm.level != 0 then
             .reply { status := .deferred } (modLane d l (fun s => { s with deferred := some (argB a 1, argN a 2) }))
           else
             let e := startTest l (argB a 1) (argN a 2) d
             .later (.prbs l) (noteReady d (if l == .wl then refreshPath e else e))) }

/-- CREDIT_RECEIVED (R294). -/
def creditReceivedRule (p : Port) (granted : Vector U32 4) (x : FrameEnd) : Row :=
  { can := fun d => portRuns d p && (takeLink p 2 (countBytes granted.toList) x d).1
    out := fun d =>
      let d := (takeLink p 2 (countBytes granted.toList) x d).2
      (pumpMirror (pumpPort p (modPort d p (takeGrants granted)))) }

/-- CREDIT_INIT_RECEIVED (R294): the sender holds exactly the credits announced. -/
def creditInitReceivedRule (p : Port) (config : Vector U16 4) (x : FrameEnd) : Row :=
  { can := fun d => portRuns d p && (takeLink p 3 (config.toList.flatMap (fun n => leBytes 2 n.toNat)) x d).1
    out := fun d =>
      let d := (takeLink p 3 (config.toList.flatMap (fun n => leBytes 2 n.toNat)) x d).2
      (pumpMirror (pumpPort p (modPort d p (fun q => { q with
        peerConfig := mapAll config (·.toNat), held := mapAll config (·.toNat), cSent := Vector.replicate 4 0, gRcvd := Vector.replicate 4 0
        audit := none })))) }

/-- CREDIT_GRANT_TIMER (R294). -/
def creditGrantTimerRule (p : Port) : Row :=
  { can := fun d => (portRuns d p && d.fabric.ports[p].grantDue)
    out := fun d =>
      (linkSend p (.credit d.fabric.ports[p].gSent.toList) (modPort d p (fun q => { q with grantDue := false }))) }

/-- AUDIT_RECEIVED (R295): checked once every SEQ before NEXT_SEQ has been received; one that comes after frames beyond NEXT_SEQ is only
answered, since its counts are past. -/
def auditReceivedRule (p : Port) (mark nextSeq : U16) (cSent : Vector U32 4) (x : FrameEnd) : Row :=
  { can := fun d => portRuns d p && (takeLink p 7 (leBytes 2 mark.toNat ++ leBytes 2 nextSeq.toNat ++ countBytes cSent.toList) x d).1
    out := fun d =>
      let d := (takeLink p 7 (leBytes 2 mark.toNat ++ leBytes 2 nextSeq.toNat ++ countBytes cSent.toList) x d).2
      let r := d.fabric.ports[p].rxSeq
      if r == nextSeq then (checkAudit p mark cSent.toList d)
      else if seqLe r nextSeq then (modPort d p (fun q => { q with auditRx := some (mark, nextSeq, cSent.toList) }))
      else (auditReply p mark d) }

/-- AUDIT_REPLY_RECEIVED (R295): also a CREDIT frame; a reply to an older MARK is nothing more. -/
def auditReplyReceivedRule (p : Port) (mark : U16) (granted : Vector U32 4) (x : FrameEnd) : Row :=
  { can := fun d => portRuns d p && (takeLink p 8 (leBytes 2 mark.toNat ++ leBytes 2 x.rsv.2.toNat ++ countBytes granted.toList) x d).1
    out := fun d =>
      let d := (takeLink p 8 (leBytes 2 mark.toNat ++ leBytes 2 x.rsv.2.toNat ++ countBytes granted.toList) x d).2
      let d := modPort d p (takeGrants granted)
      let q := d.fabric.ports[p]
      if q.audit.isSome && q.mark == mark then
        let d := modPort d p (fun q => { q with gRcvd := granted, audit := none })
        if auditOkS q granted then (pumpMirror (pumpPort p d)) else (fabReinit 0x34 p d)
      else (pumpMirror (pumpPort p d)) }

/-- AUDIT_RESEND (R295): after three resends, CREDIT_AUDIT. -/
def auditResendRule (p : Port) : Row :=
  { can := fun d => portRuns d p && d.fabric.ports[p].audit.isSome
    out := fun d =>
      match d.fabric.ports[p].audit with
      | some n =>
        if n < 3 then linkSend p (.audit d.fabric.ports[p].mark 0 []) (modPort d p (fun q => { q with audit := some (n + 1) }))
        else fabReinit 0x34 p (modPort d p (fun q => { q with audit := none }))
      | none => d }

/-- ACK_RECEIVED (R298, R320): the frames up to ACK_SEQ leave the replay buffer. -/
def ackReceivedRule (l : LinkId) (ackSeq : U16) (x : FrameEnd) : Row :=
  { can := fun d => match l with
      | .port p => portRuns d p && (takeLink p 0 (leBytes 2 ackSeq.toNat ++ leBytes 2 x.rsv.2.toNat) x d).1
      | .waggle => waggleUp d && (takeShort 2 ackSeq x d).1
    out := fun d =>
      match l with
      | .port p =>
        let d := (takeLink p 0 (leBytes 2 ackSeq.toNat ++ leBytes 2 x.rsv.2.toNat) x d).2
        pumpMirror (pumpPort p (modPort d p (fun q => { q with
          replay := q.replay.filter (fun f => !seqLe f.seq ackSeq)
          out := { q.out with again := q.out.again.filter (fun f => !seqLe f.seq ackSeq) } })))
      | .waggle => (waggleAcked ackSeq (takeShort 2 ackSeq x d).2) }

/-- NAK_RECEIVED (R298, R320): the sender replays from NAK_SEQ. -/
def nakReceivedRule (l : LinkId) (nakSeq : U16) (x : FrameEnd) : Row :=
  { can := fun d => match l with
      | .port p => portRuns d p && (takeLink p 1 (leBytes 2 nakSeq.toNat ++ leBytes 2 x.rsv.2.toNat) x d).1
      | .waggle => waggleUp d && (takeShort 3 nakSeq x d).1
    out := fun d =>
      match l with
      | .port p => (replayPort p nakSeq (takeLink p 1 (leBytes 2 nakSeq.toNat ++ leBytes 2 x.rsv.2.toNat) x d).2)
      | .waggle => (replayWaggle nakSeq (takeShort 3 nakSeq x d).2) }

/-- REPLAY_TIMEOUT (R298, R320): no ACK for 10 µs; the oldest unacknowledged frame and those after it are sent again. -/
def replayTimeoutRule (l : LinkId) : Row :=
  { can := fun d => (match l with | .port p => portRuns d p && !d.fabric.ports[p].replay.isEmpty | .waggle => waggleUp d && !d.red.replay.isEmpty)
    out := fun d =>
      match l with
      | .port p =>
        match d.fabric.ports[p].replay with
        | f :: _ => if portRuns d p then (replayPort p f.seq d) else d
        | [] => d
      | .waggle =>
        match d.red.replay with
        | f :: _ => if waggleUp d then (replayWaggle f.2.seq d) else d
        | [] => d }

/-- ACK_TIMER (R298, R320): the last SEQ received in order. -/
def ackTimerRule (l : LinkId) : Row :=
  { can := fun d => (match l with | .port p => portRuns d p && d.fabric.ports[p].ackDue | .waggle => waggleUp d && d.red.ackDue)
    out := fun d =>
      match l with
      | .port p =>
        if portRuns d p && d.fabric.ports[p].ackDue then
          (linkSend p (.ack (d.fabric.ports[p].rxSeq - 1)) (modPort d p (fun q => { q with ackDue := false })))
        else d
      | .waggle =>
        if waggleUp d && d.red.ackDue then
          (wagSend 2 (leBytes 2 (d.red.rxSeq - 1).toNat ++ [0, 0]) (modRed d (fun r => { r with ackDue := false })))
        else d }

/-- REPLAY_BUDGET (R298, R320): a ninth replay within 100 µs re-initialises the link. -/
def replayBudgetRule (l : LinkId) : Row :=
  { can := fun d => (match l with | .port p => portRuns d p && decide (9 ≤ d.fabric.ports[p].replays) | .waggle => waggleUp d && decide (9 ≤ d.red.replays))
    out := fun d =>
      match l with
      | .port p =>
        if portRuns d p && decide (9 ≤ d.fabric.ports[p].replays) then
          (fabReinit 0x32 p (modPort d p (fun q => { q with replays := 0 })))
        else d
      | .waggle =>
        if waggleUp d && decide (9 ≤ d.red.replays) then
          (refreshPath (reinitLane .wl (violation 0x42 3 0 2 (modRed d (fun r => { r with replays := 0 })))))
        else d }

/-- SRC_SEQ_GAP_TIMEOUT (R296): the gap is declared lost and counted, and the held frames are delivered. -/
def srcSeqGapTimeoutRule (src : U8) (vc : Vc) (dest : DestKind) : Row :=
  { can := fun d => (match d.fabric.flows.find? (isFlow src vc dest) with | some x => !x.held.isEmpty | none => false)
    out := fun d =>
      match d.fabric.flows.find? (isFlow src vc dest) with
      | none => d
      | some x =>
        match x.held with
        | [] => d
        | h :: hs =>
          let low := hs.foldl (fun (m : Option Port × DataFrame) g =>
            if (g.2.srcSeq - x.next).toNat < (m.2.srcSeq - x.next).toNat then g else m) h
          let d := modFabric d (fun b => { b with gaps := b.gaps + 1 })
          let d := match low.1 with | some p => modPort d p (fun q => { q with gapCount := q.gapCount + 1 }) | none => d
          let d := gapEffects src vc low.1 d
          (drainFlow src vc dest x.held.length (modFlow d src vc dest (fun x => { x with next := low.2.srcSeq }))) }

/-- DATA_FRAME_RECEIVED (R283, R284, R292, R298): a frame that fails its CRC or its port sequence is answered NAK. -/
def dataFrameReceivedRule (p : Port) (k : Fin 2) (f : DataFrame) : Row :=
  { can := fun d => !(!fabOn d || !portRuns d p)
    out := fun d =>
      let d := portActive p k d
      if f.kind != 1 then (badFrame p k f d)
      else if f.crc != frameCrc ((d.fabric.ports[p].nbrUid).getD 0) f then (nakData p (laneViolation 0x30 p k 1) d)
      else if f.seq != d.fabric.ports[p].rxSeq then (nakData p (fabViolation 0x31 p 1) d)
      else (acceptFrame p k f d) }

/-- UNREACHABLE_RECEIVED (R292, R350, R357). -/
def unreachableReceivedRule (dest : U8) (msgType : U16) (srcSeq : U32) : Row :=
  { can := fun d => !(!fabOn d || (paired d && d.red.role == .standby))
    out := fun d => (frameLost dest msgType srcSeq d) }

/-- TIME_REQ_TIMER (R299). -/
def timeReqTimerRule : Row :=
  { can := fun d => fabOn d && !d.fabric.root && d.fabric.parent.isSome
    out := fun d =>
      match d.fabric.parent with
      | some p => if fabOn d && !d.fabric.root then (linkSend p (.timeReq d.chip.qtime) d) else d
      | none => d }

/-- TIME_REQ_RECEIVED (R299): times in quarter nanoseconds; T3 is the present. -/
def timeReqReceivedRule (p : Port) (t1 t2 : Int) (x : FrameEnd) : Row :=
  { can := fun d => (fabOn d && portRuns d p) && (takeLink p 5 (leInt 8 t1) x d).1
    out := fun d => (linkSend p (.timeResp t1.toNat t2.toNat (takeLink p 5 (leInt 8 t1) x d).2.chip.qtime) (takeLink p 5 (leInt 8 t1) x d).2) }

/-- TIME_RESP_RECEIVED (R299, R300). -/
def timeRespReceivedRule (p : Port) (t1 t2 t3 t4 : Int) (x : FrameEnd) : Row :=
  { can := fun d => !(!fabOn d || !portRuns d p || d.fabric.root || d.fabric.parent != some p)
      && (takeLink p 6 (leInt 8 t1 ++ leInt 8 t2 ++ leInt 8 t3) x d).1
    out := fun d =>
      let d := (takeLink p 6 (leInt 8 t1 ++ leInt 8 t2 ++ leInt 8 t3) x d).2
      let q := d.fabric.ports[p]
      let delay := timeDelay t1 t2 t3 t4 q.asym
      let o := timeOffset t1 t2 t3 t4
      if isOutlier q.delays delay then (fabViolation 0x39 p 0 d)
      else (lockAfter o (adjustTime o (modPort d p (fun q => { q with
        delays := (delay :: q.delays).take 16, delay := delay, offset := o })))) }

/-- TIME_UNLOCK_TIMEOUT (R300). -/
def timeUnlockTimeoutRule : Row :=
  { can := fun d => (fabOn d && d.fabric.locked && !d.fabric.root && decide (d.fabric.lockHold ≤ d.chip.qtime))
    out := fun d =>
      (raise .timeUnlocked [] (modFabric d (fun b => { b with locked := false, goodTimes := 0 }))) }

/-- NEIGHBOUR_SILENT: no HELLO for 3 ms on an up port. -/
def neighbourSilentRule (p : Port) : Row :=
  { can := fun d => (fabOn d && portRuns d p)
    out := fun d => (fabReinit 0x3B p d) }

/-- PORT_FLAP: more than 8 re-initialisations in 10 s; the count starts anew. -/
def portFlapRule (p : Port) : Row :=
  { can := fun d => (linkOn d && decide (8 < d.fabric.ports[p].reinits))
    out := fun d =>
      (fabViolation 0x3D p 3 (modPort d p (fun q => { q with reinits := 0 }))) }

/-- PARTNER_ISOLATED (R28): REPEATS of an isolating entry has reached N. -/
def partnerIsolatedRule (block : BitVec 5) (source : U16) : Row :=
  { can := fun d =>
      let due := d.vlog.entries.any (fun e =>
        e.block == block && e.source == source && e.answer == 3 && decide (isolateAfter e.code ≤ e.repeats.toNat))
      (due && !d.vlog.isolated.contains (block, source))
    out := fun d =>
      (noteReady d (leaveLink block source (isolatePartner block source d))) }

/-- HELLO_TIMER (R285). -/
def helloTimerRule (p : Port) : Row :=
  { out := fun d => (sendHello p d) }

/-- HELLO_RECEIVED: a CRC failure is discarded (0x30); a new UID while the port is up is WRONG_NEIGHBOUR (R284, R306). -/
def helloReceivedRule (p : Port) (k : Fin 2) (m : Hello) : Row :=
  { can := fun d => !(!fabOn d || !portRuns d p)
    out := fun d =>
      let d := portActive p k d
      if m.crc != helloCrc m then (laneViolation 0x30 p k 1 d)
      else match d.fabric.ports[p].nbrUid with
        | some u => if u == m.uid then (takeHello p m d) else (fabReinit 0x36 p d)
        | none => (takeHello p m d) }

/-- ROOT_ELECTION_TIMEOUT (R286): 10 ms as its own candidate with no better advertisement. -/
def rootElectionTimeoutRule : Row :=
  { can := fun d =>
      let d' := updateCand d
      (fabOn d && !d'.fabric.root && sameRoot (bestCand d') (ownCand d'))
    out := fun d =>
      let d' := updateCand d
      (modFabric d' (fun b => { b with root := true, discGen := b.discGen + 1 })) }

/-- JOIN_RECEIVED (R287): recorded by the root, forwarded by any other node that is not a standby. -/
def joinReceivedRule (p : Port) (m : Join) : Row :=
  { can := fun d => !(!fabOn d || !portRuns d p || (paired d && d.red.role == .standby)) && (d.fabric.root || d.fabric.parent != some p)
    out := fun d =>
      if d.fabric.root then (rootJoin p m (noteJoinPort m.uid p d))
      else (if d.fabric.parent == some p then d else noteJoinPort m.uid p d) }

/-- ID_ASSIGNMENT (R287): IDs, routes and ASSIGN, then EV_FABRIC_READY with the number of nodes that have an ID. -/
def idAssignmentRule : Row :=
  { can := fun d => !(!fabOn d || !d.fabric.root || d.fabric.ready)
    out := fun d =>
      let ms := nodesOf d
      let ids := assignIds ms
      let d := (List.range (conflicts ms ids)).foldl (fun d _ => raise .fabricConflict [] (fabViolation 0x37 0 0 d)) d
      let d := modFabric d (fun b => { b with members := b.members.map (fun m => { m with node := idOf ids m.join.uid }) })
      let d := loadRoutes (takeNode (BitVec.ofNat 8 (idOf ids d.chip.uid)) d)
      (sendRoles (raise .fabricReady [w32 (ids.filter (fun e => e.2 != 0)).length] d)) }

/-- A data frame counted on its port, and an AUDIT that waited for it checked (R294, R295, R298). -/
def countedFrame (p : Port) (f : DataFrame) (d : Device) : Device :=
  let d := modPort d p (fun q => { q with
    rxSeq := q.rxSeq + 1, naking := false, ackDue := true
    cRcvd := upd q.cRcvd (vcFin f.vc) (· + w32 (frameCredits f)), used := upd q.used (vcFin f.vc) (· + frameCredits f) })
  match d.fabric.ports[p].auditRx with
  | some (mark, nextSeq, cs) => if nextSeq == d.fabric.ports[p].rxSeq then checkAudit p mark cs d else d
  | none => d

/-- The port on which the JOIN of an ASSIGN's node arrived, other than the ASSIGN's own (R287). -/
def assignPort (p : Port) (f : DataFrame) (d : Device) : Option Port :=
  (d.fabric.joinPorts.find? (fun e => e.1 == BitVec.ofNat 64 (leAt f.payload 0 8) && e.2 != p && portOpen d e.2)).map (·.2)

/-- ASSIGN of another node (R287): a frame with DEST 0 and MSG_TYPE 0x41 in port sequence goes on, with HOPS one higher, down the port on which the
JOIN of its node arrived. -/
def assignForwardedRule (p : Port) (k : Fin 2) (f : DataFrame) : Row :=
  { can := fun d0 =>
      let a := portActive p k d0
      let d := countedFrame p f a
      fabOn d0 && portRuns d0 p && f.kind == 1 && f.crc == frameCrc ((a.fabric.ports[p].nbrUid).getD 0) f && f.seq == a.fabric.ports[p].rxSeq
        && decide (a.fabric.ports[p].used[vcFin f.vc] + frameCredits f ≤ a.fabric.ports[p].config[vcFin f.vc]) && portRuns d p
        && !(paired d && d.red.role == .standby) && frameOk f && f.hops != 15 && !f.bcast && f.dest == 0 && f.msgType == 0x41
        && BitVec.ofNat 64 (leAt f.payload 0 8) != d.chip.uid && (assignPort p f d).isSome
    out := fun d0 =>
      let d := countedFrame p f (portActive p k d0)
      match assignPort p f d with
      | some o => forwardOn (some p) o { f with hops := f.hops + 1 } d
      | none => d }

/-- ASSIGN_RECEIVED (R287): this node's ID, DISC_GEN and routes, or another's sent down the port on which its JOIN arrived. -/
def assignReceivedRule (p : Port) (uid : U64) (nodeId : U8) (discGen : U16) (routes : List U16) : Row :=
  { can := fun d => !(!fabOn d || !portRuns d p || d.fabric.root) && uid == d.chip.uid
    out := fun d0 =>
      let was := d0.fabric.ready
      let d := takeNode nodeId (modFabric d0 (fun b => { b with
        discGen := discGen, routes := Vector.ofFn (fun i => routes.getD i.val 0) }))
      (refreshPath (if was then modFabric d (fun b => { b with announced := d0.fabric.announced }) else sendRoles d)) }

/-- LINK_CHANGE_RECEIVED (R289): the root recomputes and reloads every node's routes. -/
def linkChangeReceivedRule (node : U8) (port : Port) (isUp : Bool) (neighbour : U64) : Row :=
  { can := fun d => !(!fabOn d || !d.fabric.root || (paired d && d.red.role == .standby))
    out := fun d =>
      let back := fun (u : U64) => (nodesOf d).findSome? (fun m =>
        if m.join.uid == neighbour then
          m.join.ports.zipIdx.findSome? (fun e => if e.1.up && e.1.neighbour == u then some e.2 else none)
        else none)
      (rerouted (modFabric d (fun b => { b with members := b.members.map (fun m =>
        if m.node == node.toNat then { m with join := { m.join with ports := m.join.ports.zipIdx.map (fun e =>
          if e.2 == port.val then
            { e.1 with up := isUp, neighbour := neighbour
                       neighbourPort := match back m.join.uid with | some k => BitVec.ofNat 2 k | none => e.1.neighbourPort }
          else e.1) } } else m) }))) }

/-- ROLE_ASSIGNMENT_TIMER. -/
def roleAssignmentTimerRule : Row :=
  { can := fun d => (fabOn d)
    out := fun d => (sendRoles d) }

/-- ROLE_ASSIGNMENT_RECEIVED (R332, R351); CONTROL frames that reach a standby are discarded (R304). -/
def roleAssignmentReceivedRule (m : RoleMsg) : Row :=
  { can := fun d => (fabOn d && !(paired d && d.red.role == .standby) && m.src != d.fabric.node)
    out := fun d => (noteFault d (takeRoles m d)) }

/-- ROLE_HOLDER_TIMEOUT (R351): a holder silent for 300 ms is removed. -/
def roleHolderTimeoutRule (role : Fin 3) : Row :=
  { can := fun d => (match d.fabric.holders[role] with | some h => !(h.node == d.fabric.node && holdsRole d role) | none => false)
    out := fun d =>
      match d.fabric.holders[role] with
      | some h =>
        if h.node == d.fabric.node && holdsRole d role then d
        else (modFabric d (fun b => { b with holders := upd b.holders role (fun _ => none) }))
      | none => d }

/-- PCIE_LINK_UP (R403): the link is up once the device runs and the host has released it. -/
def pcieLinkUpRule : Row :=
  { can := fun d => (alive d && (d.pwr.state == .run || d.pwr.state == .sleep))
    out := fun d => { d with chip := { d.chip with pcieUp := true } } }

/-- fabric.config (Table 12.9): PORT, ENABLE, RATE, DELAY_ASYM, CONFIG of the four channels. -/
def fabricConfigRule : Rule :=
  { sig := { opcode := 0x0600
             args := [.port, .flag, .one [4, 5, 6], .num (-(2 ^ 31)) (2 ^ 31 - 1), .num 0 1024, .num 0 1024, .num 0 1024, .num 0 1024] }
    can := fun _ a _ =>
      let cfg := [argN a 4, argN a 5, argN a 6, argN a 7]
      !decide (1024 < cfg.sum)
    out := fun _ a d =>
      let cfg := [argN a 4, argN a 5, argN a 6, argN a 7]
      let p : Port := finOf 4 (argN a 0)
      let d := modPort d p (fun q => { q with pendingCfg := some (argB a 1, argN a 2, argI a 3, cfg) })
      done (if !d.fabric.ports[p].enable && argB a 1 then enablePort p d else d) }

/-- fabric.status (Table 12.9): parent port 0xFF for none. -/
def fabricStatusRule : Rule :=
  { sig := { opcode := 0x0601, results := fun _ => 88 }
    out := fun _ _ d =>
      let root := match d.fabric.cand with | some c => c.uid | none => d.chip.uid
      let ws := put64 (put64 [w32 d.fabric.node.toNat] d.chip.uid.toNat) root.toNat
        ++ [w32 d.fabric.discGen.toNat, w32 (match d.fabric.parent with | some p => p.val | none => 0xFF)]
      ok d ([0, 1, 2, 3].foldl (portWords d) ws) }

/-- fabric.routes (R290): the 512-byte route table copied to DRAM. -/
def fabricRoutesRule : Rule :=
  { sig := { opcode := 0x0602, dram := true, args := [.addr], ranges := fun a => [(argN a 0, 512, false)] }
    out := fun _ a d => ok (dramWrite 3 (argN a 0) (d.fabric.routes.toList.flatMap (fun e => leBytes 2 e.toNat)) d) }

/-- fabric.fix_id (R288): the number goes to the journal, and OK follows its commit. -/
def fabricFixIdRule : Rule :=
  { sig := { opcode := 0x0603, gated := true, slow := true, args := [.num 0 254] }
    can := fun _ _ d => !(flashHeld d)
    out := fun _ a d => .later .flash (journalAppend 2 0 (leBytes 4 (argN a 0)) true d) }

/-- fabric.discover (R289): a new discovery starts from this node, which is its own candidate until the next HELLOs. -/
def fabricDiscoverRule : Rule :=
  { sig := { opcode := 0x0604 }
    out := fun _ _ d =>
      let d := beginDiscovery d
      ok (modFabric d (fun b => { b with
        cand := some (ownCand d), parent := none, ports := mapAll b.ports (fun q => { q with hello := none }) })) }

/-- fabric.ping (Table 12.9): an echo request to NODE; NODE of this device answers at once. -/
def fabricPingRule : Rule :=
  { sig := { opcode := 0x0605, args := [.num 1 254], results := fun _ => 1 }
    can := fun _ a d => (BitVec.ofNat 8 (argN a 0) == d.fabric.node || (sendTo .control false (BitVec.ofNat 8 (argN a 0)) 0x0046 (leBytes 8 (ftime d).toNat) d).1)
    out := fun _ a d =>
      let n : U8 := BitVec.ofNat 8 (argN a 0)
      if n = d.fabric.node then ok d [0]
      else
        let t := (ftime d).toNat
        match sendTo .control false n 0x0046 (leBytes 8 t) d with
        | (true, d) => .later (.ping n) (modFabric d (fun b => { b with pings := b.pings ++ [(n, t)] }))
        | (false, d) => no d .refused .unreachable }

/-- HEARTBEAT_TIMER (R322). -/
def heartbeatTimerRule : Row :=
  { can := fun d => (beats d)
    out := fun d => (wagSend 1 (beatPayload (myBeat d)) d) }

/-- HBO_EDGE_TIMER (R322). -/
def hboEdgeTimerRule : Row :=
  { can := fun d => (beats d)
    out := fun d => { d with chip := { d.chip with hbo := !d.chip.hbo } } }

/-- HEARTBEAT_RECEIVED (R319, R321, R323). -/
def heartbeatReceivedRule (hb : Heartbeat) : Row :=
  { can := fun d => !(!watches (rxActive .wl d) || !waggleUp (rxActive .wl d))
    out := fun d =>
      let d := rxActive .wl d
      if hb.crc != beatCrc hb then (violation 0x40 3 0 1 d)
      else if hb.length != 52 then (violation 0x43 3 0 0 d)
      else if (match d.red.pair with | some p => p.peer != hb.uid | none => true) then (violation 0x44 3 0 3 d)
      else (noteFault d (takeBeat hb d)) }

/-- HBI_EDGE (R323). -/
def hbiEdgeRule : Row :=
  { can := fun d => (watches d)
    out := fun d => (pathLives true d) }

/-- PATH_SILENT (R323): nothing for 2 ms on a live path. -/
def pathSilentRule (hbi : Bool) : Row :=
  { can := fun d =>
      let live := if hbi then d.red.hbiLive else d.red.wlLive
      !(!watches d || !live)
    out := fun d =>
      let other := if hbi then d.red.wlLive else d.red.hbiLive
      let d := noteRed d (modRed d (fun r => if hbi then { r with hbiLive := false } else { r with wlLive := false }))
      if other then
        let d := modRed d (fun r => if hbi then { r with hbiRaised := true } else { r with wlRaised := true })
        (refreshPath (raise .heartbeatPath [w32 (b2n hbi)] d))
      else (bothSilent d) }

/-- EPOCH_RECORD_COMMITTED (R308, R327 step 2, R400). -/
def epochRecordCommittedRule : Row :=
  { can := fun d => flashPins d && !waitsErase 144 159 d && (d.nv.programs.findSome? FlashWork.epochOf).isSome
    out := fun d =>
      match (if !flashPins d || waitsErase 144 159 d then none else d.nv.programs.findSome? FlashWork.epochOf) with
      | none => d
      | some (e, r) =>
        let d := commitEpoch e r d
        if r == .promoting && d.red.role == .promoting && d.red.promo == some .record then (fence d)
        else if r == .active && d.red.role == .promoting && d.red.promo == some .resume then (promoted d)
        else if r == .active && inRole d .standby then (takeActive d)
        else d }

/-- WITNESS_DECISION (R324, R325). -/
def witnessDecisionRule : Row :=
  { can := fun d => inRole d .standby && d.red.asked.isSome
    out := fun d =>
      match d.red.asked with
      | none => d
      | some m =>
        if !inRole d .standby then d
        else
          let d := modRed d (fun r => { r with asked := none })
          if witnessed d m && !d.red.wlLive && !d.red.hbiLive && !d.therm.trip then (startPromotion false d) else (pathsLost d) }

/-- WITNESS_REQUERY (R325). -/
def witnessRequeryRule : Row :=
  { can := fun d => (inRole d .standby && !d.red.wlLive && !d.red.hbiLive && d.red.asked.isNone && d.red.promo.isNone)
    out := fun d => (askWitness d) }

/-- PROMOTION_SELF_TEST_DONE (R328, R337). On a standby it is the test of a drill, before any epoch is raised. -/
def promotionSelfTestDoneRule (failed : Option SelfTest) : Row :=
  { can := fun d =>
      let failed := if failed.isNone && (coreFailed d || (d.red.role == .standby && d.therm.trip)) then some .dac else failed
      !(d.red.promo != some .selfTest || !pairUp d || (failed.isNone && (!startCalDone d || d.therm.trip))) && (d.red.role == .standby || d.red.role == .promoting)
    out := fun d =>
      let failed := if failed.isNone && (coreFailed d || (d.red.role == .standby && d.therm.trip)) then some .dac else failed
      if d.red.role == .standby then
        match failed with
        | none => (startPromotion true (wagSeq 8 (List.replicate 8 0) d))
        | some t => (roleSleep (wagSeq 8 ([1, 0, 0, 0] ++ leBytes 4 (testCode t).toNat)
            (modRed d (fun r => { r with promo := none, drillPromo := false }))))
      else if d.red.role == .promoting then
        match failed with
        | none => (selfTestPassed d)
        | some t => (noteFault d (raise .promotionFailed [testCode t] (modRed d (fun r => { r with promo := none }))))
      else d }

/-- RECONCILIATION_DONE (R335). -/
def reconciliationDoneRule : Row :=
  { can := fun d => inRole d .active && d.red.reconciling && d.red.committed.isSome
    out := fun d =>
      match d.red.committed with
      | none => d
      | some sn =>
        if inRole d .active && d.red.reconciling then (raise .reconciled [] (reconcile sn d)) else d }

/-- ROLE_LISTEN_EXPIRY (R310). With HBI edges and no HEARTBEAT the peer lives and its role is unknown: STANDBY. -/
def roleListenExpiryRule : Row :=
  { can := fun d => !(!pairUp d || d.red.roleSet)
    out := fun d =>
      match d.red.peer with
      | some hb =>
        if hb.role == .active || hb.role == .promoting then (goStandby d)
        else
          let preferred := match d.red.pair with | some p => p.preferred | none => false
          if decide (hb.epoch < d.red.epoch) || (hb.epoch == d.red.epoch && preferred) then (goActive d) else (goStandby d)
      | none =>
        if d.red.hbiLive then (goStandby d)
        else if lastRole d == some .active then (goActive d)
        else (bothSilent (goStandby d)) }

/-- STATE_FRAME_RECEIVED (R315, R317), on WL or over the fabric; a unit that is not STANDBY freezes its image (R327 step 4). -/
def stateFrameReceivedRule (f : WaggleFrame) (viaFabric : Bool) : Row :=
  { can := fun d => (if viaFabric then inRole d .standby else pairUp d && (takeWaggle 4 true f d).1 && inRole (takeWaggle 4 true f d).2 .standby)
    out := fun d =>
      if viaFabric then
        if inRole d .standby then (takeState true ((peerNode d).getD 0) (.port ((routePort d ((peerNode d).getD 0).toNat).getD 0)) f.payload d)
        else d
      else if !pairUp d then d
      else match takeWaggle 4 true f d with
        | (false, d) => d
        | (true, d) => if inRole d .standby then (takeState false 255 .waggle f.payload d) else d }

/-- MIRROR_FRAME_RECEIVED (R316, Table 13.6): written to the same DRAM addresses inside the job store. -/
def mirrorFrameReceivedRule (f : WaggleFrame) (addr : U64) (data : List U8) : Row :=
  { can := fun d => pairUp d && (let t := takeWaggle 5 (f.payload == leBytes 8 addr.toNat ++ data && decide (data.length ≤ 2040)) f d; t.1 && inRole t.2 .standby)
    out := fun d =>
      match takeWaggle 5 (f.payload == leBytes 8 addr.toNat ++ data && decide (data.length ≤ 2040)) f d with
      | (false, d) => d
      | (true, d) =>
        if !inRole d .standby then d
        else if inStore d addr.toNat data.length then (dramWrite 3 addr.toNat data d)
        else (violation 0x47 3 0 0 d) }

/-- MIRROR_ACK_TIMER (R318). -/
def mirrorAckTimerRule : Row :=
  { can := fun d => inRole d .standby && d.red.mirrorAckDue && d.red.mirrorSeq.isSome
    out := fun d =>
      match d.red.mirrorSeq with
      | some q =>
        if inRole d .standby && d.red.mirrorAckDue then
          (sendPair ([2, 0, 0, 0] ++ leBytes 4 q.toNat) (modRed d (fun r => { r with mirrorAckDue := false })))
        else d
      | none => d }

/-- NEED_FULL_RECEIVED (R315, R333). -/
def needFullReceivedRule (mirror : Bool) (wl : Option FrameEnd) : Row :=
  { can := fun d =>
      let d := match wl with | some _ => rxActive .wl d | none => d
      !(wl.any (fun x => !wagEndOk d 6 [] x)) && inRole d .active
    out := fun d => answerFull (mirror || wl.isSome) (match wl with | some _ => rxActive .wl d | none => d) }

/-- PAIR_CONTROL_RECEIVED (R318). -/
def pairControlReceivedRule (m : PairControl) : Row :=
  { can := fun d => inRole d .active
    out := fun d =>
      match m with
      | .needFull mirror => (answerFull mirror (if mirror then raise .mirrorResync [] d else d))
      | .stateAck n => (noteAck n d)
      | .mirrorAck q =>
        let n := (d.red.mirrorMarks.takeWhile (fun k => decide ((q - w32 k).toNat < 2 ^ 31))).length
        (pumpMirror (popMirror n d))
      | .streamNotice resync cls => (takeNotice ((peerNode d).getD 0) resync (BitVec.ofNat 2 cls.toNat) d) }

/-- SNAPSHOT_TIMER (R314, R337): while no job runs. -/
def snapshotTimerRule : Row :=
  { can := fun d => (inRole d .active && !jobRunning d && saves d)
    out := fun d =>
      if d.red.drill == some false && !jobScheduled d then (pumpMirror (drillAtEnd d))
      else (pumpMirror (takeSnapshot (fullNext d) d)) }

/-- STALE_TIMER (R317). -/
def staleTimerRule : Row :=
  { can := fun d => (inRole d .active && pathOf d == .none)
    out := fun d =>
      (raise .savedStateStale [w32 (snapAge d)] (modRed d (fun r => { r with stale := true }))) }

/-- HANDOVER_RECEIVED: the standby wakes and tests itself. -/
def handoverReceivedRule (f : WaggleFrame) (_snap : U32) : Row :=
  { can := fun d => pairUp d && (let t := takeWaggle 7 (f.payload.length == 4) f d; t.1 && inRole t.2 .standby && t.2.red.promo.isNone)
    out := fun d =>
      match takeWaggle 7 (f.payload.length == 4) f d with
      | (false, d) => d
      | (true, d) =>
        if inRole d .standby && d.red.promo.isNone then
          (wakeSource 6 (startCal false (modRed d (fun r => { r with promo := some .selfTest, drillPromo := true }))))
        else d }

/-- HANDOVER_REPLY_RECEIVED: accepted, the unit prints nothing and waits to be demoted; refused, it keeps printing. -/
def handoverReplyReceivedRule (f : WaggleFrame) (accepted : Bool) (reason : U32) : Row :=
  { can := fun d => pairUp d && (takeWaggle 8 (f.payload.length == 8) f d).1
    out := fun d =>
      match takeWaggle 8 (f.payload.length == 8) f d with
      | (false, d) => d
      | (true, d) =>
        if inRole d .active && d.red.drill == some true && !accepted then
          (finishWork (· == .drill) { status := .refused, reason := testReason reason.toNat }
            (raise .drillFailed [reason] (modRed d (fun r => { r with drill := none }))))
        else d }

/-- red.status (R309). -/
def redStatusRule : Rule :=
  { sig := { opcode := 0x0700, results := fun _ => 94 }
    out := fun _ _ d =>
      let own := match d.red.pair with | some p => p.peer.toNat | none => 0
      let peer := match d.red.peer with | some h => (h.uid.toNat, roleNum h.role) | none => (own, 0)
      let snap := if d.red.role == .active then d.red.acked else d.red.committed.map (·.number)
      ok d ((List.finRange 40).foldl (fun ws h => put64 ws (resumeWpos d h)) ([w32 (roleNum d.red.role), d.red.epoch] ++ w64 peer.1
        ++ [w32 peer.2, w32 (b2n d.red.wlLive), w32 (b2n d.red.hbiLive), snap.getD 0, w32 (snapAge d), w32 (b2n d.red.stale),
            w32 (mirroredOf d (runningKey d)), w32 (b2n (d.red.role == .active && d.red.standbyOk)), w32 (b2n (paired d))])) }

/-- red.assign (R308): the pair record, in force from the next start-up; CLEAR 1 removes it. -/
def redAssignRule : Rule :=
  { sig := { opcode := 0x0701, gated := true, slow := true, args := [.addr, .flag, .flag] }
    can := fun _ _ d => !(d.pwr.held.getLsbD 3)
    out := fun _ a d =>
      .later .flash (journalAppend 1 0
             (if argB a 2 then [] else leBytes 8 (argN a 0) ++ [BitVec.ofNat 8 (argN a 1)]) true d) }

/-- red.promote (R334). -/
def redPromoteRule : Rule :=
  { sig := { opcode := 0x0702, gated := true, results := fun _ => 1 }
    can := fun _ _ d =>
      let live := d.red.wlLive || d.red.hbiLive
      let peerActive := match d.red.peer with | some h => h.role == .active | none => false
      !(live && peerActive) && !(!inRole d .standby || d.red.promo.isSome) && !d.therm.trip
    out := fun _ _ d =>
      let d := startPromotion false d
      ok d [d.red.epoch] }

/-- red.drill (R337). -/
def redDrillRule : Rule :=
  { sig := { opcode := 0x0703, slow := true }
    can := fun _ _ d => !(!inRole d .active || !d.red.standbyOk || d.red.stale) && !(d.red.drill.isSome)
    out := fun _ _ d =>
      let d := modRed d (fun r => { r with drill := some false })
      if jobRunning d || jobScheduled d then .reply { status := .deferred } d
      else .later .drill (drillAtEnd d) }

/-- red.readmit (R333). -/
def redReadmitRule : Rule :=
  { sig := { opcode := 0x0704 }
    can := fun _ _ d => inRole d .fenced && (match d.red.peer with | some h => h.role == .active | none => false)
    out := fun _ _ d => .after {} d readmit }

/-- red.reconcile (R335, Table 13.10). -/
def redReconcileRule : Rule :=
  { sig := { opcode := 0x0705, dram := true, args := [.addr], ranges := fun a => [(argN a 0, 480, false)] }
    can := fun _ _ d => d.red.reconciled.isSome
    out := fun _ a d =>
      match d.red.reconciled with
      | none => no d .refused
      | some rs => ok (dramWrite 8 (argN a 0) (wordBytes (reconcileWords d rs)) d) }

/-- SENSOR_CONVERSION (R377, R379). -/
def sensorConversionRule (readings : Vector Int 12) : Row :=
  { can := fun d => (thermOn d)
    out := fun d => (modTherm d (convert d.chip.qtime readings)) }

/-- SENSOR_FAILED (R378): out of range on two consecutive conversions. -/
def sensorFailedRule (k : Sensor) : Row :=
  { can := fun d => (thermOn d && !d.therm.failed[k] && decide (2 ≤ d.therm.outOfRange[k]))
    out := fun d => (failSensor k 0 d) }

/-- SENSOR_DISAGREE_TIMEOUT (R378): it has done so for 1 s. -/
def sensorDisagreeTimeoutRule (k : Sensor) : Row :=
  { can := fun d => (thermOn d && !deadSensor d.therm k.val && disagrees d.therm k)
    out := fun d => (failSensor k 1 d) }

/-- THROTTLE_RISE (R380, R382). -/
def throttleRiseRule : Row :=
  { can := fun d => (thermOn d && decide (d.therm.level < levelDue d))
    out := fun d => (setLevel (levelDue d) d) }

/-- THROTTLE_FALL (R382): 60 s below the level's LO threshold; two failed neighbours hold level 2 (R380). -/
def throttleFallRule : Row :=
  { can := fun d => (thermOn d && d.therm.falling && decide (0 < d.therm.level) && !twoFailed d)
    out := fun d =>
      (setLevel (d.therm.level - 1) d) }

/-- THERMAL_TRIP (R385). -/
def thermalTripRule : Row :=
  { can := fun d => (thermOn d && d.therm.tripDue && !d.therm.trip)
    out := fun d => (tripNow d) }

/-- THERMAL_RESTART (R387): every healthy sensor has read below 100 °C for 10 s, and the cause is not SENSORS. -/
def thermalRestartRule : Row :=
  { can := fun d => (thermOn d && d.therm.trip && d.therm.restarting && !d.therm.sensors)
    out := fun d => (restartNow d) }

/-- thm.config (R381, Table 16.2): thresholds in °C and SLOW_PCT. -/
def thmConfigRule : Rule :=
  { sig := { opcode := 0x0810, args := [.num 80 115, .num 60 113, .num 82 120, .num 62 118, .num 50 95] }
    can := fun _ a _ => decide (argI a 0 - 20 ≤ argI a 1 ∧ argI a 1 ≤ argI a 0 - 2 ∧ argI a 0 + 2 ≤ argI a 2 ∧ argI a 2 - 20 ≤ argI a 3 ∧ argI a 3 ≤ argI a 2 - 2 ∧ argI a 1 < argI a 3)
    out := fun _ a d =>
      let h1 := argI a 0
      let l1 := argI a 1
      let h2 := argI a 2
      let l2 := argI a 3
      if h1 - 20 ≤ l1 ∧ l1 ≤ h1 - 2 ∧ h1 + 2 ≤ h2 ∧ h2 - 20 ≤ l2 ∧ l2 ≤ h2 - 2 ∧ l1 < l2 then
        done (modTherm d (fun x => { x with
          l1Hi := 16 * h1, l1Lo := 16 * l1, l2Hi := 16 * h2, l2Lo := 16 * l2, slowPct := argN a 4 }))
      else no d .badArgument .field }

/-- thm.status (Table 16.5): temperatures in 1/16 °C; the offsets of each sensor in the order of Table 16.1. -/
def thmStatusRule : Rule :=
  { sig := { opcode := 0x0811, results := fun _ => 76 }
    out := fun _ _ d =>
      let x := d.therm
      let hold := if x.restarting then (d.chip.qtime - x.since) / 4000000000 else 0
      ok d ([i32 x.die, w32 x.level, w32 (b2n (decide (2 ≤ x.level)) + 2 * b2n d.feed.overRate), w32 (b2n x.trip),
             w32 (b2n (x.trip && x.sensors)), w32 hold]
        ++ (List.range 12).flatMap (fun s =>
          [i32 (x.reading.getD s 0), w32 (b2n (failedAt d s)), i32 (x.site.getD s 0)]
            ++ (neighbours.getD s []).map (fun n => i32 (offsetOf x s n)))) }

end Sys2Proof.Machine

open Sys2Proof Sys2Proof.Machine

/-- Every accepted system command of Table 14.12 about identity, rings, configuration, results, the logs, roles, presence and the seal
answers the next state of its own effect. -/
def Obligations.SystemCommandsComplete : Prop :=
  sysNopRule.Holds .sysNop ∧ sysIdentifyRule.Holds .sysIdentify ∧ sysRingRule.Holds .sysRing ∧ sysConfigRule.Holds .sysConfig ∧
    sysResultRule.Holds .sysResult ∧ sysLatchedReadRule.Holds .sysLatchedRead ∧ sysViolationReadRule.Holds .sysViolationRead ∧
    sysViolationClearRule.Holds .sysViolationClear ∧ sysPartnerReleaseRule.Holds .sysPartnerRelease ∧ sysRolesRule.Holds .sysRoles ∧
    sysPresenceRule.Holds .sysPresence ∧ sysResealRule.Holds .sysReseal

/-- Every accepted firmware, flash, DRAM and forager command of Table 14.12 and Stolzar command of Table 14.14 answers the next state of
its own effect. -/
def Obligations.StorageCommandsComplete : Prop :=
  sysFwUpdateRule.Holds .sysFwUpdate ∧ sysNvEraseRule.Holds .sysNvErase ∧ sysPeekRule.Holds .sysPeek ∧
    sysNvStatusRule.Holds .sysNvStatus ∧ sysNvSetRule.Holds .sysNvSet ∧
    (∀ (descs : List U8), (foragerCopyRule descs).Holds (.foragerCopy · descs)) ∧ foragerStatusRule.Holds .foragerStatus ∧
    szStatusRule.Holds .szStatus ∧ szMapRule.Holds .szMap

/-- Every host access to BAR0, BAR2 and the SZ6 window, the interrupt holdoff and the forager read answer the next state of their own
effect (R357, R358, R403 to R412). -/
def Obligations.HostAccessesComplete : Prop :=
  (∀ v, (mbxCmdTailWriteRule v).Holds (.mbxCmdTailWrite v)) ∧ (∀ v, (mbxRspHeadWriteRule v).Holds (.mbxRspHeadWrite v)) ∧
    (∀ v, (mbxEvtHeadWriteRule v).Holds (.mbxEvtHeadWrite v)) ∧ (∀ v, (irqStatusWriteRule v).Holds (.irqStatusWrite v)) ∧
    (∀ (evt : Bool), (irqHoldoffExpiryRule evt).Holds (.irqHoldoffExpiry evt)) ∧ (∀ v, (pwrWakeWriteRule v).Holds (.pwrWakeWrite v)) ∧
    (∀ v, (pwrPadReleaseWriteRule v).Holds (.pwrPadReleaseWrite v)) ∧ (∀ v, (prsCloseWriteRule v).Holds (.prsCloseWrite v)) ∧
    (∀ v, (diagClearWriteRule v).Holds (.diagClearWrite v)) ∧
    (∀ (offset : Nat) (bytes : List U8), (registerWriteRule offset bytes).Holds (.registerWrite offset bytes)) ∧
    (∀ (offset : Nat) (write : Option (List U8)) (len : Nat), (bar2AccessRule offset write len).Holds (.bar2Access offset write len)) ∧
    (∀ (offset : U16) (write : Option U32) (supported : Bool), (sz6WindowAccessRule offset write supported).Holds (.sz6WindowAccess offset write supported)) ∧
    (∀ (buffer : Fin 64) (data : Option (List U8)), (foragerReadDoneRule buffer data).Holds (.foragerReadDone buffer data))

/-- The rows of the management transport, of relaying and of asynchronous completion answer the next state of their own effect (R346,
R349, R350, R352). -/
def Obligations.TransportsComplete : Prop :=
  (∀ (bytes : List U8) (pecOk : Bool), (mgmtBlockWriteRule bytes pecOk).Holds (.mgmtBlockWrite bytes pecOk)) ∧
    mgmtBlockReadRule.Holds .mgmtBlockRead ∧ (∀ (addr : BitVec 7), (mgmtAddressMatchRule addr).Holds (.mgmtAddressMatch addr)) ∧
    (∀ (seq : U32), (commandDoneRule seq).Holds (.commandDone seq)) ∧
    (∀ (src : U8) (body : RelayBody), (mervanRelayReceivedRule src body).Holds (.mervanRelayReceived src body)) ∧
    (∀ (tag : BitVec 6), (relayTimeoutRule tag).Holds (.relayTimeout tag))

/-- The rows of presence and of the propolis seal answer the next state of their own effect (R354, R355). -/
def Obligations.PresenceAndSealComplete : Prop :=
  presenceHoldRule.Holds .presenceHold ∧ presenceWindowExpiryRule.Holds .presenceWindowExpiry ∧
    (∀ (pass : Bool), (sealTestRule pass).Holds (.sealTest pass)) ∧ sealLoopOpenRule.Holds .sealLoopOpen ∧
    sealLoopClosedRule.Holds .sealLoopClosed

/-- Reset, supply and clock rows answer the next state of their own effect (R361, R416, R417, R419). -/
def Obligations.ResetAndSupplyComplete : Prop :=
  (∀ (straps : Straps) (dies : List DieInfo), (resetNRiseRule straps dies).Holds (.resetNRise straps dies)) ∧
    resetNFallRule.Holds .resetNFall ∧ pwrGoodLowRule.Holds .pwrGoodLow ∧ pwrGoodHighRule.Holds .pwrGoodHigh ∧
    (∀ (bank : Fin 6), (vioLowRule bank).Holds (.vioLow bank)) ∧ (∀ (bank : Fin 6), (vioRestoredRule bank).Holds (.vioRestored bank)) ∧
    (∀ (pll : Bool), (clockFaultRule pll).Holds (.clockFault pll)) ∧ clockFaultResetRule.Holds .clockFaultReset ∧
    xoRestoredRule.Holds .xoRestored

/-- Boot and flash rows answer the next state of their own effect (R18, R391 to R402). -/
def Obligations.BootAndFlashComplete : Prop :=
  (∀ (slot : Bool), (bootImageVerifiedRule slot).Holds (.bootImageVerified slot)) ∧ bootWatchdogRule.Holds .bootWatchdog ∧
    bootedRule.Holds .booted ∧ flashProgramDoneRule.Holds .flashProgramDone ∧ journalCompactionRule.Holds .journalCompaction ∧
    flashEraseDoneRule.Holds .flashEraseDone ∧ checkpointTimerRule.Holds .checkpointTimer ∧
    checkpointCommittedRule.Holds .checkpointCommitted

/-- Power rows and commands answer the next state of their own effect (R363 to R374). -/
def Obligations.PowerComplete : Prop :=
  domainDrainedRule.Holds .domainDrained ∧ drainTimeoutRule.Holds .drainTimeout ∧ pwrStateRule.Holds .pwrState ∧
    pwrStatusRule.Holds .pwrStatus ∧ pwrIdleRule.Holds .pwrIdle ∧ idleEntryRule.Holds .idleEntry ∧ idleExitRule.Holds .idleExit ∧
    wakeNLowRule.Holds .wakeNLow

/-- Encoder rows answer the next state of their own effect (R87 to R93). -/
def Obligations.EncodersComplete : Prop :=
  (∀ (enc : Fin 2) (edge : EncEdge), (encoderCountRule enc edge).Holds (.encoderCount enc edge)) ∧
    (∀ (enc : Fin 2) (why : EncFault), (encoderFaultedRule enc why).Holds (.encoderFaulted enc why)) ∧
    encoderWindowEndRule.Holds .encoderWindowEnd ∧ (∀ (enc : Fin 2), (indexPulseRule enc).Holds (.indexPulse enc)) ∧
    encoderStallRule.Holds .encoderStall

/-- Sheet and position rows and commands answer the next state of their own effect (R88, R90, R99 to R108). -/
def Obligations.PositionComplete : Prop :=
  (∀ (input : Fin 2) (rising : Bool), (pdEdgeRule input rising).Holds (.pdEdge input rising)) ∧
    pdConfirmTimeoutRule.Holds .pdConfirmTimeout ∧
    (∀ (start : U64) (_input : U8) (number : U32), (sheetOpenNoticeReceivedRule start _input number).Holds (.sheetOpenNoticeReceived start _input number)) ∧
    wposSampleBroadcastRule.Holds .wposSampleBroadcast ∧
    (∀ (sample : WposSample), (wposSampleReceivedRule sample).Holds (.wposSampleReceived sample)) ∧
    positionLostRule.Holds .positionLost ∧ deputyTakeoverRule.Holds .deputyTakeover ∧
    (∀ (rate : Nat), (overRateDetectRule rate).Holds (.overRateDetect rate)) ∧ speedLimitReleaseRule.Holds .speedLimitRelease ∧
    posConfigRule.Holds .posConfig ∧ posStatusRule.Holds .posStatus ∧ posSetRule.Holds .posSet ∧ sheetConfigRule.Holds .sheetConfig

/-- The job commands answer the next state of their own effect (R38 to R43, R51 to R56, Table 2.11). -/
def Obligations.JobCommandsComplete : Prop :=
  jobStageRule.Holds .jobStage ∧ jobCommitRule.Holds .jobCommit ∧ jobAppendRule.Holds .jobAppend ∧ jobCancelRule.Holds .jobCancel ∧
    jobStopRule.Holds .jobStop ∧ jobStatusRule.Holds .jobStatus

/-- The rows of the job change protocol answer the next state of their own effect (R51 to R57). -/
def Obligations.JobChangeComplete : Prop :=

    (∀ (jobId : U32) (w : U64) (postponements : U8), (scheduleReceivedRule jobId w postponements).Holds (.scheduleReceived jobId w postponements)) ∧
    (∀ (node : U8) (jobId : U32) (isReady : Bool) (_reason : U32), (readyReceivedRule node jobId isReady _reason).Holds (.readyReceived node jobId isReady _reason)) ∧
    decisionPointRule.Holds .decisionPoint ∧ (∀ (jobId : U32) (w : U64), (goReceivedRule jobId w).Holds (.goReceived jobId w)) ∧
    (∀ (node : U8) (jobId : U32) (w : U64), (goAckReceivedRule node jobId w).Holds (.goAckReceived node jobId w)) ∧
    abortDeadlineRule.Holds .abortDeadline ∧ (∀ (jobId : U32) (w : U64), (abortReceivedRule jobId w).Holds (.abortReceived jobId w)) ∧
    (∀ (jobId : U32), (cancelReceivedRule jobId).Holds (.cancelReceived jobId))

/-- The change WPOS, repeat and band boundaries and the shadow banks answer the next state of their own effect (R20 to R24, R47 to R50,
R57). -/
def Obligations.BoundariesComplete : Prop :=
  changeWposRule.Holds .changeWpos ∧ repeatBoundaryRule.Holds .repeatBoundary ∧
    (∀ (band : U32) (w : U64), (bandCloseNoticeReceivedRule band w).Holds (.bandCloseNoticeReceived band w)) ∧
    bandNoticePitchRule.Holds .bandNoticePitch ∧ bandBoundaryRule.Holds .bandBoundary ∧
    (∀ (t : Tbl), (shadowBankLoadRule t).Holds (.shadowBankLoad t)) ∧
    (∀ (t : Tbl), (shadowBankLoadDoneRule t).Holds (.shadowBankLoadDone t))

/-- The rows of the feed and of screening and the screening commands answer the next state of their own effect (R38 to R45, R63 to R84, R232, R429, R434,
Table 3.7).
-/
def Obligations.FeedAndScreenComplete : Prop :=
  repeatDueRule.Holds .repeatDue ∧ (∀ (plane : Plane), (blockFetchRule plane).Holds (.blockFetch plane)) ∧
    (∀ (plane : Plane), (blockDecompressedRule plane).Holds (.blockDecompressed plane)) ∧
    (∀ (engine : Fin 8) (free : Nat), (decompressorResumeRule engine free).Holds (.decompressorResume engine free)) ∧
    (∀ (h : Head), (screenLineRule h).Holds (.screenLine h)) ∧ (∀ (seq : U32), (captureTimeoutRule seq).Holds (.captureTimeout seq)) ∧
    screenStatusRule.Holds .screenStatus ∧ subLoadRule.Holds .subLoad ∧ subReadRule.Holds .subRead ∧
    (∀ s : State, (screenCaptureRule s.dev).HoldsAt .screenCapture s)

/-- Line commands, commits, FIRE cells and keepalives answer the next state of their own effect (R94 to R98, R110 to R116). -/
def Obligations.FiringComplete : Prop :=
  lineInhibitRule.Holds .lineInhibit ∧ lineConfigRule.Holds .lineConfig ∧ (∀ (h : Head), (lineCommitRule h).Holds (.lineCommit h)) ∧
    (∀ (h : Head) (row : BitVec 2), (fireCellStartRule h row).Holds (.fireCellStart h row)) ∧
    (∀ (h : Head), (nullLineKeepaliveRule h).Holds (.nullLineKeepalive h))

/-- The head-link commands and rows answer the next state of their own effect (R119 to R132, R140, R141, Table 5.10). -/
def Obligations.HeadLinksComplete : Prop :=
  headLinkRule.Holds .headLink ∧ headStatusRule.Holds .headStatus ∧ headEchoRule.Holds .headEcho ∧ headSafeRule.Holds .headSafe ∧
    headWitnessRule.Holds .headWitness ∧
    (∀ (h : Head) (cell : StatusCell), (statusReportReceivedRule h cell).Holds (.statusReportReceived h cell)) ∧
    (∀ (h : Head) (cell : StatusCell), (statusIdentReceivedRule h cell).Holds (.statusIdentReceived h cell)) ∧
    (∀ (h : Head) (cell : StatusCell) (roundTrip : U32), (statusEchoReceivedRule h cell roundTrip).Holds (.statusEchoReceived h cell roundTrip)) ∧
    (∀ (h : Head) (cell : StatusCell), (statusWitnessReceivedRule h cell).Holds (.statusWitnessReceived h cell)) ∧
    (∀ (h : Head), (controlReplyTimeoutRule h).Holds (.controlReplyTimeout h)) ∧
    (∀ (h : Head), (statusSilentRule h).Holds (.statusSilent h)) ∧ (∀ (h : Head), (fhlCrcBurstRule h).Holds (.fhlCrcBurst h)) ∧
    headSafeNFallRule.Holds .headSafeNFall ∧ headSafeNRiseRule.Holds .headSafeNRise

/-- The rows of a head adapter answer the next state of their own effect; a repeated CONTROL cell is answered again, and the cells that an adapter
discards are counted (R119 to R139). -/
def Obligations.AdaptersComplete : Prop :=
  (∀ (h : Head) (facts : AdapterFacts), (adapterPowerUpRule h facts).Holds (.adapterPowerUp h facts)) ∧
    (∀ (h : Head) (port : Bool) (cell : LineCell), (adapterLineCellRule h port cell).Holds (.adapterLineCell h port cell)) ∧
    (∀ (h : Head) (port : Bool) (cell : FireCell), (adapterFireCellRule h port cell).Holds (.adapterFireCell h port cell)) ∧
    (∀ (h : Head), (adapterFireTriggerRule h).Holds (.adapterFireTrigger h)) ∧
    (∀ (h : Head) (port : Bool) (cell : ControlCell), (adapterControlCellRule h port cell).Holds (.adapterControlCell h port cell)) ∧
    (∀ (h : Head) (port : Bool) (cell : ControlCell), (adapterControlRepeatRule h port cell).Holds (.adapterControlCell h port cell)) ∧
    DiscardedCells ∧ (∀ (h : Head), (adapterHeadSafeRule h).Holds (.adapterHeadSafe h)) ∧
    (∀ (r : HeadReading), (adapterReportTimerRule r).Holds (.adapterReportTimer r))

/-- Waveform and DAC commands and rows answer the next state of their own effect (R143 to R162). -/
def Obligations.WaveformsComplete : Prop :=
  waveLoadRule.Holds .waveLoad ∧ waveTrimRule.Holds .waveTrim ∧ waveLimitsRule.Holds .waveLimits ∧ waveConfigRule.Holds .waveConfig ∧
    dacCalibrateRule.Holds .dacCalibrate ∧ dacStatusRule.Holds .dacStatus ∧ dacRotationRule.Holds .dacRotation ∧
    (∀ (g : Group), (rotationTimerRule g).Holds (.rotationTimer g)) ∧ (∀ (g : Group), (handoverRule g).Holds (.handover g)) ∧
    (∀ (g : Group) (run : CalRun), (calibrationRunDoneRule g run).Holds (.calibrationRunDone g run)) ∧
    (∀ (h : Head) (sense isen therm : Nat), (monitorVisitRule h sense isen therm).Holds (.monitorVisit h sense isen therm))

/-- The drive supply commands and rows answer the next state of their own effect (R163 to R166). -/
def Obligations.SuppliesComplete : Prop :=
  (∀ (modes : List BusResult), (hvConfigRule modes).Holds (.hvConfig · modes)) ∧ hvPowerRule.Holds .hvPower ∧
    hvLimitsRule.Holds .hvLimits ∧ hvStatusRule.Holds .hvStatus ∧ (∀ (k : Supply), (hvStepGoodRule k).Holds (.hvStepGood k)) ∧
    onDelayExpiryRule.Holds .onDelayExpiry ∧ (∀ (k : Supply), (pgTimeoutRule k).Holds (.pgTimeout k)) ∧
    (∀ (k : Supply) (result : BusResult), (pmbusStatusPollRule k result).Holds (.pmbusStatusPoll k result)) ∧
    (∀ (k : Supply) (vout iout temp : BusResult), (pmbusTelemetryPollRule k vout iout temp).Holds (.pmbusTelemetryPoll k vout iout temp)) ∧
    (∀ (alert : AlertRead) (result : BusResult), (pmbAlertRule alert result).Holds (.pmbAlert alert result)) ∧
    pmbStretchRule.Holds .pmbStretch ∧ (∀ (k : Supply), (pmbSilentRule k).Holds (.pmbSilent k))

/-- The camera commands answer the next state of their own effect (R167 to R193). -/
def Obligations.CameraCommandsComplete : Prop :=
  camConfigRule.Holds .camConfig ∧ camRunRule.Holds .camRun ∧ camSettingsRule.Holds .camSettings ∧ camScheduleRule.Holds .camSchedule ∧
    camStreamRule.Holds .camStream ∧ camReleaseRule.Holds .camRelease ∧ camTablesRule.Holds .camTables ∧
    camDarkCalRule.Holds .camDarkCal ∧ camWhiteCalRule.Holds .camWhiteCal ∧ camFocusRule.Holds .camFocus ∧ camBandRule.Holds .camBand ∧
    camStatsRule.Holds .camStats ∧ camCciRule.Holds .camCci ∧ camStatusRule.Holds .camStatus

/-- The camera rows answer the next state of their own effect (R168 to R194). -/
def Obligations.CameraRowsComplete : Prop :=
  (∀ (p : Port), (camTriggerRule p).Holds (.camTrigger p)) ∧ (∀ (p : Port), (calTimerTriggerRule p).Holds (.calTimerTrigger p)) ∧
    (∀ (pkt : ShortPacket), (csiFrameStartRule pkt).Holds (.csiFrameStart pkt)) ∧ (∀ (pkt : ShortPacket), (csiFrameEndRule pkt).Holds (.csiFrameEnd pkt)) ∧
    (∀ (p : Port) (pkt : LongPacket), (csiLongPacketRule p pkt).Holds (.csiLongPacket p pkt)) ∧
    (∀ (p : Port), (csiCrcBurstRule p).Holds (.csiCrcBurst p)) ∧ (∀ (p : Port), (sensorSilentRule p).Holds (.sensorSilent p)) ∧
    (∀ (p : Port), (lp11DetectedRule p).Holds (.lp11Detected p)) ∧
    (∀ (bus : Bool) (result : BusResult), (cciTransactionDoneRule bus result).Holds (.cciTransactionDone bus result)) ∧
    (∀ (bus : Bool), (cciStretchRule bus).Holds (.cciStretch bus)) ∧ (∀ (p : Port), (cciSilentRule p).Holds (.cciSilent p)) ∧
    (∀ (p : Port), (pipelineLineRule p).Holds (.pipelineLine p))

/-- The loop commands answer the next state of their own effect (Table 8.11, R195 to R219). -/
def Obligations.LoopCommandsComplete : Prop :=
  loopConfigRule.Holds .loopConfig ∧ loopColourRule.Holds .loopColour ∧ modelLoadRule.Holds .modelLoad ∧
    loopEnableRule.Holds .loopEnable ∧ loopStatusRule.Holds .loopStatus ∧ (∀ s : State, (loopReadRule s.dev).HoldsAt .loopRead s) ∧
    loopResetRule.Holds .loopReset ∧ loopCheckConfigRule.Holds .loopCheckConfig ∧ loopCheckReadRule.Holds .loopCheckRead

/-- The rows of the quality loop answer the next state of their own effect (R196 to R219). -/
def Obligations.LoopRowsComplete : Prop :=
  (∀ (r : SpanRecord), (spanRecordReceivedRule r).Holds (.spanRecordReceived r)) ∧
    (∀ (r : ProxyRecord), (proxyRecordReceivedRule r).Holds (.proxyRecordReceived r)) ∧
    (∀ (colour : Plane), (proxyRecordSendRule colour).Holds (.proxyRecordSend colour)) ∧
    (∀ (colour : Plane), (stripRecordSendRule colour).Holds (.stripRecordSend colour)) ∧
    (∀ (r : StripRecord) (reversed : BitVec 40), (stripAnalysisRule r reversed).Holds (.stripAnalysis r reversed)) ∧
    (∀ (r : CorrRecord), (correctionRecordReceivedRule r).Holds (.correctionRecordReceived r)) ∧ loopSolveDoneRule.Holds .loopSolveDone

/-- Compression and CRC unit commands and rows answer the next state of their own effect (R222 to R243, R427). -/
def Obligations.CompressionComplete : Prop :=
  (∀ (m : DictMessage), (dictMessageReceivedRule m).Holds (.dictMessageReceived m)) ∧
    (∀ (peer : U8) (resync : Bool) (cls : BitVec 2), (streamNoticeReceivedRule peer resync cls).Holds (.streamNoticeReceived peer resync cls)) ∧
    (∀ (cls : BitVec 2) (room : Nat), (compressorResumeRule cls room).Holds (.compressorResume cls room)) ∧
    czCompressRule.Holds .czCompress ∧ (∀ (engine : Fin 2), (blockCompressedRule engine).Holds (.blockCompressed engine)) ∧
    czDecompressRule.Holds .czDecompress ∧ czDictResetRule.Holds .czDictReset ∧ czStatusRule.Holds .czStatus ∧
    (∀ (u : Fin 8) (seg : Segment) (bytes : List U8), (crcSegmentRule u seg bytes).Holds (.crcSegment u seg bytes)) ∧
    crcConfigRule.Holds .crcConfig ∧ crcReadRule.Holds .crcRead ∧ crcWriteRule.Holds .crcWrite ∧ crcEnableRule.Holds .crcEnable

/-- The memory commands answer the next state of their own effect (R248, R249, R254 to R262, Table 10.7). -/
def Obligations.DramCommandsComplete : Prop :=
  memStatusRule.Holds .memStatus ∧ memFreqRule.Holds .memFreq ∧ memTrainRule.Holds .memTrain ∧ memFenceRule.Holds .memFence ∧
    memQosRule.Holds .memQos ∧ memRowhammerRule.Holds .memRowhammer ∧ memScrubRule.Holds .memScrub ∧ memErrorsRule.Holds .memErrors

/-- The DRAM rows answer the next state of their own effect (R246 to R262). -/
def Obligations.DramRowsComplete : Prop :=
  (∀ (r : DramReq), (dramRequestRule r).Holds (.dramRequest r)) ∧ (∀ (r : TrainResult), (trainingDoneRule r).Holds (.trainingDone r)) ∧
    deferredTrainingStartRule.Holds .deferredTrainingStart ∧ trainingHoldExpiryRule.Holds .trainingHoldExpiry ∧
    (∀ (mc : Port) (rank : Fin 2) (feedWaiting : Bool), (refreshDueRule mc rank feedWaiting).Holds (.refreshDue mc rank feedWaiting)) ∧
    refreshWindowRule.Holds .refreshWindow ∧
    (∀ (die : DieId) (multiplier : Fin 5) (hot : Bool), (mr4ReadRule die multiplier hot).Holds (.mr4Read die multiplier hot)) ∧
    (∀ (lane : Fin 8) (drift : Int), (dqsTrackingRule lane drift).Holds (.dqsTracking lane drift)) ∧
    (∀ (corrected : Bool) (fault : Option CheckFault), (scrubReadRule corrected fault).Holds (.scrubRead corrected fault)) ∧
    dramCorrectedReportRule.Holds .dramCorrectedReport

/-- Lane rows and commands answer the next state of their own effect (R265 to R281). -/
def Obligations.LanesComplete : Prop :=
  (∀ (l : LaneId), (laneAttemptStartRule l).Holds (.laneAttemptStart l)) ∧
    (∀ (l : LaneId), (partnerT1DetectedRule l).Holds (.partnerT1Detected l)) ∧
    (∀ (l : LaneId), (trainingPhaseTimeoutRule l).Holds (.trainingPhaseTimeout l)) ∧
    (∀ (x : CdrLock), (cdrLockRule x).Holds (.cdrLock x)) ∧ (∀ (l : LaneId), (receiverAdaptedRule l).Holds (.receiverAdapted l)) ∧
    (∀ (l : LaneId) (w : TrainWord) (last : Bool), (trainingWordReceivedRule l w last).Holds (.trainingWordReceived l w last)) ∧
    (∀ (l : LaneId) (got : List Bool), (peppercornTestEndRule l got).Holds (.peppercornTestEnd l got)) ∧
    (∀ (l : LaneId), (lossOfSignalRule l).Holds (.lossOfSignal l)) ∧
    (∀ (l : LaneId) (errors : List CodeError), (codeErrorBurstRule l errors).Holds (.codeErrorBurst l errors)) ∧ (∀ (l : LaneId), (eqFreezeRule l).Holds (.eqFreeze l)) ∧
    (∀ (l : LaneId), (eqResumeRule l).Holds (.eqResume l)) ∧
    (∀ (l : LaneId), (electricalIdleEntryRule l).Holds (.electricalIdleEntry l)) ∧
    (∀ (l : LaneId), (electricalIdleNoticeRule l).Holds (.electricalIdleNotice l)) ∧
    (∀ (l : LaneId), (wakeBurstTimerRule l).Holds (.wakeBurstTimer l)) ∧
    (∀ (l : LaneId), (wakeBurstMissingRule l).Holds (.wakeBurstMissing l)) ∧ laneConfigRule.Holds .laneConfig ∧
    laneStatusRule.Holds .laneStatus ∧ laneRetrainRule.Holds .laneRetrain ∧ lanePrbsRule.Holds .lanePrbs

/-- Credits, audits, acknowledgement and replay answer the next state of their own effect (R283, R294 to R298). -/
def Obligations.FabricLinksComplete : Prop :=
  (∀ (p : Port) (granted : Vector U32 4) (x : FrameEnd), (creditReceivedRule p granted x).Holds (.creditReceived p granted x)) ∧
    (∀ (p : Port) (config : Vector U16 4) (x : FrameEnd), (creditInitReceivedRule p config x).Holds (.creditInitReceived p config x)) ∧
    (∀ (p : Port), (creditGrantTimerRule p).Holds (.creditGrantTimer p)) ∧
    (∀ (p : Port) (mark nextSeq : U16) (cSent : Vector U32 4) (x : FrameEnd), (auditReceivedRule p mark nextSeq cSent x).Holds (.auditReceived p mark nextSeq cSent x)) ∧
    (∀ (p : Port) (mark : U16) (granted : Vector U32 4) (x : FrameEnd), (auditReplyReceivedRule p mark granted x).Holds (.auditReplyReceived p mark granted x)) ∧
    (∀ (p : Port), (auditResendRule p).Holds (.auditResend p)) ∧
    (∀ (l : LinkId) (ackSeq : U16) (x : FrameEnd), (ackReceivedRule l ackSeq x).Holds (.ackReceived l ackSeq x)) ∧
    (∀ (l : LinkId) (nakSeq : U16) (x : FrameEnd), (nakReceivedRule l nakSeq x).Holds (.nakReceived l nakSeq x)) ∧
    (∀ (l : LinkId), (replayTimeoutRule l).Holds (.replayTimeout l)) ∧ (∀ (l : LinkId), (ackTimerRule l).Holds (.ackTimer l)) ∧
    (∀ (l : LinkId), (replayBudgetRule l).Holds (.replayBudget l))

/-- Data frames, order, fabric time and faults of the fabric answer the next state of their own effect (R28, R292, R296, R297, R299 to R306).
-/
def Obligations.FabricMessagesComplete : Prop :=
  (∀ (src : U8) (vc : Vc) (dest : DestKind), (srcSeqGapTimeoutRule src vc dest).Holds (.srcSeqGapTimeout src vc dest)) ∧
    (∀ (p : Port) (k : Fin 2) (f : DataFrame), (dataFrameReceivedRule p k f).Holds (.dataFrameReceived p k f)) ∧
    (∀ (dest : U8) (msgType : U16) (srcSeq : U32), (unreachableReceivedRule dest msgType srcSeq).Holds (.unreachableReceived dest msgType srcSeq)) ∧
    timeReqTimerRule.Holds .timeReqTimer ∧
    (∀ (p : Port) (t1 t2 : Int) (x : FrameEnd), (timeReqReceivedRule p t1 t2 x).Holds (.timeReqReceived p t1 t2 x)) ∧
    (∀ (p : Port) (t1 t2 t3 t4 : Int) (x : FrameEnd), (timeRespReceivedRule p t1 t2 t3 t4 x).Holds (.timeRespReceived p t1 t2 t3 t4 x)) ∧
    timeUnlockTimeoutRule.Holds .timeUnlockTimeout ∧ (∀ (p : Port), (neighbourSilentRule p).Holds (.neighbourSilent p)) ∧
    (∀ (p : Port), (portFlapRule p).Holds (.portFlap p)) ∧
    (∀ (block : BitVec 5) (source : U16), (partnerIsolatedRule block source).Holds (.partnerIsolated block source))

/-- Discovery, roles and the PCIe link answer the next state of their own effect, another node's ASSIGN going on down its JOIN port (R286 to R291, R351,
R403). -/
def Obligations.DiscoveryComplete : Prop :=
  (∀ (p : Port), (helloTimerRule p).Holds (.helloTimer p)) ∧
    (∀ (p : Port) (k : Fin 2) (m : Hello), (helloReceivedRule p k m).Holds (.helloReceived p k m)) ∧
    rootElectionTimeoutRule.Holds .rootElectionTimeout ∧ (∀ (p : Port) (m : Join), (joinReceivedRule p m).Holds (.joinReceived p m)) ∧
    idAssignmentRule.Holds .idAssignment ∧
    (∀ (p : Port) (uid : U64) (nodeId : U8) (discGen : U16) (routes : List U16), (assignReceivedRule p uid nodeId discGen routes).Holds (.assignReceived p uid nodeId discGen routes)) ∧
    (∀ (p : Port) (k : Fin 2) (f : DataFrame), (assignForwardedRule p k f).Holds (.dataFrameReceived p k f)) ∧
    (∀ (node : U8) (port : Port) (isUp : Bool) (neighbour : U64), (linkChangeReceivedRule node port isUp neighbour).Holds (.linkChangeReceived node port isUp neighbour)) ∧
    roleAssignmentTimerRule.Holds .roleAssignmentTimer ∧
    (∀ (m : RoleMsg), (roleAssignmentReceivedRule m).Holds (.roleAssignmentReceived m)) ∧
    (∀ (role : Fin 3), (roleHolderTimeoutRule role).Holds (.roleHolderTimeout role)) ∧ pcieLinkUpRule.Holds .pcieLinkUp

/-- The fabric commands answer the next state of their own effect (Table 12.9). -/
def Obligations.FabricCommandsComplete : Prop :=
  fabricConfigRule.Holds .fabricConfig ∧ fabricStatusRule.Holds .fabricStatus ∧ fabricRoutesRule.Holds .fabricRoutes ∧
    fabricFixIdRule.Holds .fabricFixId ∧ fabricDiscoverRule.Holds .fabricDiscover ∧ fabricPingRule.Holds .fabricPing

/-- Heartbeats, the witness, the role at boot and promotion answer the next state of their own effect (R307 to R311, R322 to R334). -/
def Obligations.PairWatchComplete : Prop :=
  heartbeatTimerRule.Holds .heartbeatTimer ∧ hboEdgeTimerRule.Holds .hboEdgeTimer ∧
    (∀ (hb : Heartbeat), (heartbeatReceivedRule hb).Holds (.heartbeatReceived hb)) ∧ hbiEdgeRule.Holds .hbiEdge ∧
    (∀ (hbi : Bool), (pathSilentRule hbi).Holds (.pathSilent hbi)) ∧ epochRecordCommittedRule.Holds .epochRecordCommitted ∧
    witnessDecisionRule.Holds .witnessDecision ∧ witnessRequeryRule.Holds .witnessRequery ∧
    (∀ (failed : Option SelfTest), (promotionSelfTestDoneRule failed).Holds (.promotionSelfTestDone failed)) ∧
    reconciliationDoneRule.Holds .reconciliationDone ∧ roleListenExpiryRule.Holds .roleListenExpiry

/-- State frames, mirror frames, pair control, snapshots and drills answer the next state of their own effect (R313 to R321, R337). -/
def Obligations.PairStateComplete : Prop :=
  (∀ (f : WaggleFrame) (viaFabric : Bool), (stateFrameReceivedRule f viaFabric).Holds (.stateFrameReceived f viaFabric)) ∧
    (∀ (f : WaggleFrame) (addr : U64) (data : List U8), (mirrorFrameReceivedRule f addr data).Holds (.mirrorFrameReceived f addr data)) ∧
    mirrorAckTimerRule.Holds .mirrorAckTimer ∧ (∀ (mirror : Bool) (wl : Option FrameEnd), (needFullReceivedRule mirror wl).Holds (.needFullReceived mirror wl)) ∧
    (∀ (m : PairControl), (pairControlReceivedRule m).Holds (.pairControlReceived m)) ∧ snapshotTimerRule.Holds .snapshotTimer ∧
    staleTimerRule.Holds .staleTimer ∧
    (∀ (f : WaggleFrame) (_snap : U32), (handoverReceivedRule f _snap).Holds (.handoverReceived f _snap)) ∧
    (∀ (f : WaggleFrame) (accepted : Bool) (reason : U32), (handoverReplyReceivedRule f accepted reason).Holds (.handoverReplyReceived f accepted reason))

/-- The redundancy commands answer the next state of their own effect (Table 13.10). -/
def Obligations.RedCommandsComplete : Prop :=
  redStatusRule.Holds .redStatus ∧ redAssignRule.Holds .redAssign ∧ redPromoteRule.Holds .redPromote ∧ redDrillRule.Holds .redDrill ∧
    redReadmitRule.Holds .redReadmit ∧ redReconcileRule.Holds .redReconcile

/-- Thermal rows and commands answer the next state of their own effect (R377 to R387). -/
def Obligations.ThermalComplete : Prop :=
  (∀ (readings : Vector Int 12), (sensorConversionRule readings).Holds (.sensorConversion readings)) ∧
    (∀ (k : Sensor), (sensorFailedRule k).Holds (.sensorFailed k)) ∧
    (∀ (k : Sensor), (sensorDisagreeTimeoutRule k).Holds (.sensorDisagreeTimeout k)) ∧ throttleRiseRule.Holds .throttleRise ∧
    throttleFallRule.Holds .throttleFall ∧ thermalTripRule.Holds .thermalTrip ∧ thermalRestartRule.Holds .thermalRestart ∧
    thmConfigRule.Holds .thmConfig ∧ thmStatusRule.Holds .thmStatus

/-- The rows of chapters 14, 15, 17 and 18: commands of the system, storage, transports, presence, reset, boot and power, change no field
of the device but those named for each, and leave the queue alone. -/
def Obligations.SystemRowsFrame : Prop :=
  OnlyChanges [.nv] .journalCompaction ∧ OnlyChanges [.nv] .checkpointTimer ∧
    (∀ offset write supported, OnlyChanges [.chip, .sz] (.sz6WindowAccess offset write supported)) ∧
    (∀ v, OnlyChanges [.mbx] (.irqStatusWrite v)) ∧ (∀ evt, OnlyChanges [.mbx] (.irqHoldoffExpiry evt)) ∧
    OnlyChanges [.mbx] .mgmtBlockRead ∧ (∀ pass, OnlyChanges [.prs] (.sealTest pass)) ∧ OnlyChanges [.prs] .sealLoopClosed ∧
    (∀ v, OnlyChanges [.pwr] (.pwrPadReleaseWrite v)) ∧ OnlyChanges [.pwr] .idleEntry ∧ OnlyChanges [.pwr] .idleExit ∧
    (∀ v, OnlyChanges [.vlog] (.diagClearWrite v)) ∧ (∀ pll, OnlyChanges [.chip, .mbx] (.clockFault pll)) ∧
    (∀ tag, OnlyChanges [.mbx, .vlog, .lanes, .fabric] (.relayTimeout tag)) ∧ OnlyChanges [.mbx, .vlog, .lanes, .fabric, .nv] .flashProgramDone ∧
    OnlyChanges [.mbx, .vlog, .lanes, .fabric, .nv] .flashEraseDone ∧ OnlyChanges [.mbx, .vlog, .lanes, .fabric, .pwr] .drainTimeout ∧
    (∀ c, OnlyChanges [.mbx, .vlog, .lanes, .fabric] (.sysNop c)) ∧ (∀ c, OnlyChanges [.mbx, .vlog, .lanes, .fabric] (.sysIdentify c)) ∧
    (∀ c, OnlyChanges [.mbx, .vlog, .lanes, .fabric] (.sysRing c)) ∧ (∀ c, OnlyChanges [.mbx, .vlog, .lanes, .fabric] (.sysResult c)) ∧
    (∀ c, OnlyChanges [.mbx, .vlog, .lanes, .fabric] (.sysViolationClear c)) ∧ (∀ c, OnlyChanges [.mbx, .vlog, .lanes, .fabric] (.sysRoles c)) ∧
    (∀ c, OnlyChanges [.mbx, .vlog, .dram, .lanes, .fabric] (.sysPeek c)) ∧
    (∀ c descs, OnlyChanges [.mbx, .vlog, .dram, .lanes, .fabric] (.foragerCopy c descs)) ∧
    (∀ c, OnlyChanges [.mbx, .vlog, .lanes, .fabric] (.foragerStatus c)) ∧ (∀ c, OnlyChanges [.mbx, .vlog, .lanes, .fabric] (.szStatus c)) ∧
    (∀ v, OnlyChanges [.mbx, .vlog, .lanes, .fabric, .pwr] (.mbxCmdTailWrite v)) ∧
    (∀ v, OnlyChanges [.mbx, .vlog, .lanes, .fabric] (.mbxRspHeadWrite v)) ∧
    (∀ v, OnlyChanges [.mbx, .vlog, .lanes, .fabric] (.mbxEvtHeadWrite v)) ∧
    (∀ bytes pecOk, OnlyChanges [.mbx, .vlog, .lanes, .fabric, .pwr] (.mgmtBlockWrite bytes pecOk)) ∧
    (∀ seq, OnlyChanges [.mbx, .vlog, .lanes, .fabric] (.commandDone seq)) ∧
    (∀ src body, OnlyChanges [.mbx, .vlog, .lanes, .fabric, .pwr] (.mervanRelayReceived src body)) ∧
    (∀ c, OnlyChanges [.mbx, .vlog, .lanes, .fabric] (.pwrStatus c)) ∧
    (∀ c, OnlyChanges [.mbx, .vlog, .dram, .lanes, .fabric, .nv] (.sysFwUpdate c)) ∧
    (∀ c, OnlyChanges [.mbx, .vlog, .lanes, .fabric, .nv] (.sysNvErase c)) ∧ (∀ c, OnlyChanges [.mbx, .vlog, .lanes, .fabric, .nv] (.sysNvSet c)) ∧
    (∀ c, OnlyChanges [.mbx, .vlog, .lanes, .fabric, .sz] (.szMap c)) ∧ (∀ c, OnlyChanges [.mbx, .vlog, .lanes, .fabric, .prs] (.sysPresence c)) ∧
    (∀ v, OnlyChanges [.mbx, .vlog, .lanes, .fabric, .prs] (.prsCloseWrite v)) ∧ OnlyChanges [.mbx, .vlog, .lanes, .fabric, .prs] .presenceHold ∧
    OnlyChanges [.mbx, .vlog, .lanes, .fabric, .prs] .presenceWindowExpiry ∧ (∀ c, OnlyChanges [.mbx, .vlog, .lanes, .fabric, .red] (.sysConfig c)) ∧
    (∀ bank, OnlyChanges [.chip, .mbx, .vlog, .dram, .lanes, .fabric, .red, .prs, .nv] (.vioRestored bank)) ∧
    (∀ c, OnlyChanges [.mbx, .vlog, .lanes, .fabric, .prs, .nv] (.sysReseal c)) ∧
    OnlyChanges [.mbx, .vlog, .lanes, .fabric, .prs, .nv] .sealLoopOpen ∧
    (∀ slot, OnlyChanges [.chip, .mbx, .drive, .lanes, .nv] (.bootImageVerified slot)) ∧
    OnlyChanges [.mbx, .vlog, .drive, .lanes, .fabric, .pwr, .nv] .checkpointCommitted ∧
    (∀ c, OnlyChanges [.mbx, .vlog, .lanes, .fabric, .red, .pwr] (.pwrIdle c)) ∧
    (∀ c, OnlyChanges [.mbx, .vlog, .dram, .lanes, .fabric, .red] (.sysViolationRead c)) ∧
    (∀ c, OnlyChanges [.mbx, .vlog, .dram, .lanes, .fabric, .red] (.sysNvStatus c)) ∧
    (∀ offset write len, OnlyChanges [.chip, .mbx, .vlog, .dram, .lanes, .fabric, .red] (.bar2Access offset write len)) ∧
    (∀ straps dies, OnlyChanges [.chip, .mbx, .vlog, .dram, .lanes, .fabric, .red, .prs, .nv] (.resetNRise straps dies)) ∧
    OnlyChanges [.chip, .mbx, .vlog, .dram, .lanes, .fabric, .red, .prs, .nv] .pwrGoodHigh ∧
    OnlyChanges [.chip, .mbx, .vlog, .dram, .lanes, .fabric, .red, .prs, .nv] .xoRestored ∧
    (∀ c, OnlyChanges [.mbx, .vlog, .acct, .dram, .lanes, .fabric, .red] (.sysLatchedRead c)) ∧
    (∀ c, OnlyChanges [.mbx, .vlog, .links, .adapters, .cz, .lanes, .fabric, .red] (.sysPartnerRelease c)) ∧
    (∀ buffer data, OnlyChanges [.mbx, .vlog, .dram, .lanes, .fabric, .red] (.foragerReadDone buffer data)) ∧
    OnlyChanges [.chip, .mbx, .vlog, .fire, .lanes, .fabric, .red, .pwr, .nv] .booted ∧
    OnlyChanges [.mbx, .vlog, .drive, .lanes, .fabric, .pwr] .domainDrained ∧
    (∀ v, OnlyChanges [.chip, .mbx, .vlog, .feed, .banks, .engines, .links, .drive, .cams, .loop, .cz, .crcs, .dram, .lanes, .fabric, .red, .pwr, .nv] (.pwrWakeWrite v)) ∧
    (∀ addr, OnlyChanges [.chip, .mbx, .vlog, .feed, .banks, .engines, .links, .drive, .cams, .loop, .cz, .crcs, .dram, .lanes, .fabric, .red, .pwr, .nv] (.mgmtAddressMatch addr)) ∧
    (∀ c, OnlyChanges [.mbx, .vlog, .feed, .banks, .engines, .drive, .cams, .loop, .cz, .crcs, .dram, .lanes, .fabric, .pwr, .nv] (.pwrState c)) ∧
    (∀ offset bytes, OnlyChanges [.chip, .mbx, .vlog, .feed, .banks, .engines, .links, .drive, .cams, .loop, .cz, .crcs, .dram, .lanes, .fabric, .red, .pwr, .prs, .nv] (.registerWrite offset bytes)) ∧
    OnlyChanges [.chip, .mbx, .vlog, .acct, .jobs, .feed, .banks, .engines, .pos, .sheet, .fire, .links, .drive, .cams, .loop, .cz, .crcs, .dram,
      .lanes, .fabric, .red, .pwr, .therm, .prs, .nv, .sz] .resetNFall ∧
    OnlyChanges [.chip, .mbx, .vlog, .acct, .jobs, .feed, .banks, .engines, .pos, .sheet, .fire, .links, .drive, .cams, .loop, .cz, .crcs, .dram,
      .lanes, .fabric, .red, .pwr, .therm, .prs, .nv, .sz] .pwrGoodLow ∧
    (∀ bank, OnlyChanges [.chip, .mbx, .vlog, .acct, .jobs, .feed, .banks, .engines, .pos, .sheet, .fire, .links, .drive, .cams, .loop, .cz, .crcs,
      .dram, .lanes, .fabric, .red, .pwr, .therm, .prs, .nv, .sz] (.vioLow bank)) ∧
    OnlyChanges [.chip, .mbx, .vlog, .acct, .jobs, .feed, .banks, .engines, .pos, .sheet, .fire, .links, .drive, .cams, .loop, .cz, .crcs, .dram,
      .lanes, .fabric, .red, .pwr, .therm, .prs, .nv, .sz] .clockFaultReset ∧
    OnlyChanges [.chip, .mbx, .vlog, .acct, .jobs, .feed, .banks, .engines, .pos, .sheet, .fire, .links, .drive, .cams, .loop, .cz, .crcs, .dram,
      .lanes, .fabric, .red, .pwr, .therm, .prs, .nv, .sz] .bootWatchdog ∧
    OnlyChanges [.chip, .mbx, .vlog, .acct, .jobs, .feed, .banks, .engines, .pos, .sheet, .fire, .links, .drive, .cams, .loop, .cz, .crcs, .dram,
      .lanes, .fabric, .red, .pwr, .therm, .prs, .nv, .sz] .wakeNLow

/-- The rows of chapters 1 to 4: position, jobs, boundaries, the feed, screening and firing, change no field of the device but those named
for each, and leave the queue alone. -/
def Obligations.PrintingRowsFrame : Prop :=
  (∀ band w, OnlyChanges [.acct] (.bandCloseNoticeReceived band w)) ∧ OnlyChanges [.feed] .speedLimitRelease ∧
    (∀ node jobId ready reason, OnlyChanges [.jobs] (.readyReceived node jobId ready reason)) ∧
    (∀ node jobId w, OnlyChanges [.jobs] (.goAckReceived node jobId w)) ∧ (∀ jobId w, OnlyChanges [.jobs] (.abortReceived jobId w)) ∧
    (∀ jobId, OnlyChanges [.jobs, .sheet] (.cancelReceived jobId)) ∧ (∀ t, OnlyChanges [.banks] (.shadowBankLoad t)) ∧
    (∀ start input number, OnlyChanges [.sheet] (.sheetOpenNoticeReceived start input number)) ∧
    (∀ engine free, OnlyChanges [.mbx, .vlog, .acct, .jobs, .feed, .cz, .dram, .lanes, .fabric] (.decompressorResume engine free)) ∧
    (∀ plane, OnlyChanges [.vlog, .jobs, .feed, .dram] (.blockFetch plane)) ∧
    (∀ seq, OnlyChanges [.mbx, .vlog, .lanes, .fabric] (.captureTimeout seq)) ∧
    OnlyChanges [.pos, .lanes, .fabric] .wposSampleBroadcast ∧ OnlyChanges [.acct, .lanes, .fabric] .bandNoticePitch ∧
    (∀ jobId w postponements, OnlyChanges [.mbx, .vlog, .jobs, .sheet, .lanes, .fabric] (.scheduleReceived jobId w postponements)) ∧
    (∀ jobId w, OnlyChanges [.mbx, .vlog, .jobs, .lanes, .fabric] (.goReceived jobId w)) ∧
    (∀ h, OnlyChanges [.links, .lanes] (.nullLineKeepalive h)) ∧
    (∀ c, OnlyChanges [.mbx, .vlog, .lanes, .fabric] (.posStatus c)) ∧ (∀ c, OnlyChanges [.mbx, .vlog, .lanes, .fabric] (.jobStatus c)) ∧
    (∀ c, OnlyChanges [.mbx, .vlog, .lanes, .fabric] (.screenStatus c)) ∧ (∀ c, OnlyChanges [.mbx, .vlog, .lanes, .fabric] (.screenCapture c)) ∧
    OnlyChanges [.mbx, .vlog, .pos, .lanes, .fabric] .encoderWindowEnd ∧ (∀ enc, OnlyChanges [.mbx, .vlog, .pos, .lanes, .fabric] (.indexPulse enc)) ∧
    OnlyChanges [.mbx, .vlog, .pos, .lanes, .fabric] .deputyTakeover ∧ OnlyChanges [.mbx, .vlog, .acct, .lanes, .fabric] .bandBoundary ∧
    (∀ rate, OnlyChanges [.mbx, .vlog, .feed, .lanes, .fabric] (.overRateDetect rate)) ∧
    (∀ c, OnlyChanges [.mbx, .vlog, .jobs, .sheet, .lanes, .fabric] (.jobCommit c)) ∧
    (∀ c, OnlyChanges [.mbx, .vlog, .jobs, .lanes, .fabric] (.jobStop c)) ∧
    OnlyChanges [.mbx, .vlog, .jobs, .sheet, .lanes, .fabric] .decisionPoint ∧
    OnlyChanges [.mbx, .vlog, .jobs, .sheet, .lanes, .fabric] .abortDeadline ∧
    (∀ input rising, OnlyChanges [.mbx, .vlog, .sheet, .lanes, .fabric] (.pdEdge input rising)) ∧
    OnlyChanges [.mbx, .vlog, .sheet, .lanes, .fabric] .pdConfirmTimeout ∧
    (∀ c, OnlyChanges [.mbx, .vlog, .pos, .lanes, .fabric, .red] (.posConfig c)) ∧
    (∀ c, OnlyChanges [.mbx, .vlog, .dram, .lanes, .fabric, .red] (.subRead c)) ∧
    (∀ c, OnlyChanges [.mbx, .vlog, .jobs, .dram, .lanes, .fabric, .red] (.jobAppend c)) ∧
    (∀ enc edge, OnlyChanges [.mbx, .vlog, .pos, .loop, .lanes, .fabric] (.encoderCount enc edge)) ∧
    OnlyChanges [.mbx, .vlog, .pos, .loop, .lanes, .fabric] .encoderStall ∧
    (∀ c, OnlyChanges [.mbx, .vlog, .sheet, .lanes, .fabric, .red] (.sheetConfig c)) ∧
    (∀ c, OnlyChanges [.mbx, .vlog, .jobs, .banks, .sheet, .lanes, .fabric] (.jobCancel c)) ∧
    (∀ h row, OnlyChanges [.acct, .fire, .links, .drive, .lanes] (.fireCellStart h row)) ∧
    OnlyChanges [.mbx, .vlog, .acct, .pos, .fire, .lanes, .fabric] .positionLost ∧
    (∀ c, OnlyChanges [.mbx, .vlog, .jobs, .banks, .dram, .lanes, .fabric, .red] (.jobStage c)) ∧
    (∀ c, OnlyChanges [.mbx, .vlog, .jobs, .banks, .dram, .lanes, .fabric, .red] (.subLoad c)) ∧
    (∀ c, OnlyChanges [.mbx, .vlog, .jobs, .banks, .dram, .lanes, .fabric, .red] (.lineConfig c)) ∧
    (∀ plane, OnlyChanges [.mbx, .vlog, .jobs, .feed, .cz, .lanes, .fabric] (.blockDecompressed plane)) ∧
    (∀ c, OnlyChanges [.mbx, .vlog, .fire, .links, .lanes, .fabric, .red] (.lineInhibit c)) ∧
    (∀ h, OnlyChanges [.mbx, .vlog, .acct, .engines, .fire, .links, .drive, .lanes, .fabric] (.lineCommit h)) ∧
    (∀ c, OnlyChanges [.mbx, .vlog, .acct, .pos, .sheet, .cams, .lanes, .fabric, .red, .nv] (.posSet c)) ∧
    OnlyChanges [.mbx, .vlog, .acct, .jobs, .feed, .banks, .cz, .dram, .lanes, .fabric] .repeatDue ∧
    (∀ t, OnlyChanges [.mbx, .vlog, .jobs, .banks, .links, .dram, .lanes, .fabric, .red] (.shadowBankLoadDone t)) ∧
    (∀ h, OnlyChanges [.mbx, .vlog, .acct, .feed, .engines, .fire, .dram, .lanes, .fabric, .red] (.screenLine h)) ∧
    (∀ enc why, OnlyChanges [.mbx, .vlog, .acct, .jobs, .banks, .engines, .pos, .sheet, .fire, .loop, .lanes, .fabric] (.encoderFaulted enc why)) ∧
    (∀ sample, OnlyChanges [.mbx, .vlog, .acct, .jobs, .banks, .engines, .pos, .sheet, .fire, .cams, .loop, .lanes, .fabric, .red,
      .nv] (.wposSampleReceived sample)) ∧
    OnlyChanges [.mbx, .vlog, .acct, .jobs, .feed, .banks, .engines, .sheet, .fire, .links, .drive, .loop, .cz, .dram, .lanes, .fabric, .red,
      .nv] .changeWpos ∧
    OnlyChanges [.mbx, .vlog, .acct, .jobs, .feed, .banks, .engines, .sheet, .fire, .links, .drive, .loop, .cz, .dram, .lanes, .fabric, .red,
      .nv] .repeatBoundary

/-- The rows of chapters 5 and 6: head links, adapters, waveforms and drive supplies, change no field of the device but those named for
each, and leave the queue alone. -/
def Obligations.HeadAndDriveRowsFrame : Prop :=
  OnlyChanges [.chip, .links] .headSafeNFall ∧ (∀ g, OnlyChanges [.drive] (.rotationTimer g)) ∧ (∀ g, OnlyChanges [.drive] (.handover g)) ∧
    OnlyChanges [.mbx, .vlog, .fire, .drive, .lanes, .fabric] .onDelayExpiry ∧ (∀ h facts, OnlyChanges [.adapters] (.adapterPowerUp h facts)) ∧
    (∀ h port cell, OnlyChanges [.adapters] (.adapterLineCell h port cell)) ∧
    (∀ h port cell, OnlyChanges [.adapters] (.adapterFireCell h port cell)) ∧ (∀ h, OnlyChanges [.adapters] (.adapterFireTrigger h)) ∧
    (∀ h port cell, OnlyChanges [.adapters] (.adapterControlCell h port cell)) ∧ (∀ h, OnlyChanges [.adapters] (.adapterHeadSafe h)) ∧
    (∀ r, OnlyChanges [.adapters] (.adapterReportTimer r)) ∧ (∀ c, OnlyChanges [.mbx, .vlog, .lanes, .fabric] (.headStatus c)) ∧
    (∀ c, OnlyChanges [.mbx, .vlog, .lanes, .fabric] (.dacStatus c)) ∧ (∀ c, OnlyChanges [.mbx, .vlog, .lanes, .fabric] (.hvStatus c)) ∧
    OnlyChanges [.mbx, .vlog, .drive, .lanes, .fabric] .pmbStretch ∧ (∀ c, OnlyChanges [.chip, .mbx, .vlog, .lanes, .fabric] (.headSafe c)) ∧
    (∀ c, OnlyChanges [.mbx, .vlog, .drive, .lanes, .fabric] (.dacCalibrate c)) ∧
    (∀ k vout iout temp, OnlyChanges [.mbx, .vlog, .fire, .drive, .lanes, .fabric] (.pmbusTelemetryPoll k vout iout temp)) ∧
    OnlyChanges [.chip, .acct, .fire, .adapters] .headSafeNRise ∧
    (∀ c, OnlyChanges [.mbx, .vlog, .banks, .lanes, .fabric, .red] (.waveTrim c)) ∧
    (∀ c, OnlyChanges [.mbx, .vlog, .banks, .lanes, .fabric, .red] (.waveLimits c)) ∧
    (∀ c, OnlyChanges [.mbx, .vlog, .drive, .lanes, .fabric, .red] (.waveConfig c)) ∧
    (∀ c, OnlyChanges [.mbx, .vlog, .drive, .lanes, .fabric, .red] (.dacRotation c)) ∧
    (∀ c, OnlyChanges [.mbx, .vlog, .fire, .drive, .lanes, .fabric, .red] (.hvLimits c)) ∧
    (∀ k, OnlyChanges [.mbx, .vlog, .jobs, .fire, .drive, .lanes, .fabric] (.pgTimeout k)) ∧
    (∀ g run, OnlyChanges [.mbx, .vlog, .drive, .lanes, .fabric] (.calibrationRunDone g run)) ∧
    (∀ c, OnlyChanges [.mbx, .vlog, .links, .lanes, .fabric] (.headEcho c)) ∧
    (∀ h cell, OnlyChanges [.mbx, .vlog, .links, .lanes, .fabric] (.statusIdentReceived h cell)) ∧
    (∀ h cell roundTrip, OnlyChanges [.mbx, .vlog, .acct, .fire, .links, .lanes, .fabric] (.statusEchoReceived h cell roundTrip)) ∧
    (∀ c, OnlyChanges [.mbx, .vlog, .jobs, .banks, .dram, .lanes, .fabric, .red] (.waveLoad c)) ∧
    (∀ c modes, OnlyChanges [.mbx, .vlog, .jobs, .fire, .drive, .lanes, .fabric, .red] (.hvConfig c modes)) ∧
    (∀ k result, OnlyChanges [.mbx, .vlog, .jobs, .fire, .drive, .lanes, .fabric] (.pmbusStatusPoll k result)) ∧
    (∀ alert result, OnlyChanges [.mbx, .vlog, .jobs, .fire, .drive, .lanes, .fabric] (.pmbAlert alert result)) ∧
    (∀ k, OnlyChanges [.mbx, .vlog, .jobs, .fire, .drive, .lanes, .fabric] (.pmbSilent k)) ∧
    (∀ c, OnlyChanges [.mbx, .vlog, .links, .lanes, .fabric] (.headWitness c)) ∧
    (∀ h cell, OnlyChanges [.mbx, .vlog, .acct, .fire, .links, .lanes, .fabric, .red] (.statusWitnessReceived h cell)) ∧
    (∀ c, OnlyChanges [.mbx, .vlog, .links, .adapters, .cz, .lanes, .fabric, .red] (.headLink c)) ∧
    (∀ k, OnlyChanges [.mbx, .vlog, .jobs, .fire, .links, .drive, .lanes, .fabric] (.hvStepGood k)) ∧
    (∀ h sense isen therm, OnlyChanges [.mbx, .vlog, .fire, .links, .drive, .lanes, .fabric] (.monitorVisit h sense isen therm)) ∧
    (∀ h, OnlyChanges [.mbx, .vlog, .jobs, .links, .adapters, .cz, .lanes, .fabric, .red] (.controlReplyTimeout h)) ∧
    (∀ h, OnlyChanges [.mbx, .vlog, .jobs, .links, .adapters, .cz, .lanes, .fabric, .red] (.statusSilent h)) ∧
    (∀ h, OnlyChanges [.mbx, .vlog, .jobs, .links, .adapters, .cz, .lanes, .fabric, .red] (.fhlCrcBurst h)) ∧
    (∀ c, OnlyChanges [.mbx, .vlog, .jobs, .fire, .links, .drive, .lanes, .fabric] (.hvPower c)) ∧
    (∀ h cell, OnlyChanges [.chip, .mbx, .vlog, .acct, .jobs, .fire, .links, .adapters, .cz, .lanes, .fabric, .red, .nv] (.statusReportReceived h cell))

/-- The rows of chapters 7 and 8: cameras and the colour loop, change no field of the device but those named for each, and leave the queue
alone. -/
def Obligations.CameraAndLoopRowsFrame : Prop :=
  (∀ p, OnlyChanges [.cams] (.camTrigger p)) ∧ (∀ p, OnlyChanges [.cams] (.calTimerTrigger p)) ∧
    (∀ r, OnlyChanges [.loop, .cz] (.spanRecordReceived r)) ∧ (∀ r, OnlyChanges [.loop, .cz] (.proxyRecordReceived r)) ∧
    (∀ r, OnlyChanges [.acct, .loop] (.correctionRecordReceived r)) ∧ (∀ p, OnlyChanges [.acct, .cams, .loop] (.pipelineLine p)) ∧
    (∀ p, OnlyChanges [.mbx, .vlog, .cams, .lanes, .fabric] (.lp11Detected p)) ∧ (∀ c, OnlyChanges [.mbx, .vlog, .lanes, .fabric] (.camStatus c)) ∧
    (∀ c, OnlyChanges [.mbx, .vlog, .lanes, .fabric] (.loopStatus c)) ∧
    (∀ colour, OnlyChanges [.mbx, .vlog, .fire, .loop, .cz, .lanes, .fabric, .red] (.stripRecordSend colour)) ∧
    (∀ c, OnlyChanges [.mbx, .vlog, .cams, .lanes, .fabric] (.camRelease c)) ∧
    (∀ c, OnlyChanges [.mbx, .vlog, .cams, .lanes, .fabric] (.camDarkCal c)) ∧
    (∀ c, OnlyChanges [.mbx, .vlog, .cams, .lanes, .fabric] (.camWhiteCal c)) ∧
    (∀ c, OnlyChanges [.mbx, .vlog, .cams, .lanes, .fabric] (.camStats c)) ∧ (∀ c, OnlyChanges [.mbx, .vlog, .cams, .lanes, .fabric] (.camCci c)) ∧
    (∀ bus result, OnlyChanges [.mbx, .vlog, .cams, .lanes, .fabric] (.cciTransactionDone bus result)) ∧
    (∀ bus, OnlyChanges [.mbx, .vlog, .cams, .lanes, .fabric] (.cciStretch bus)) ∧
    (∀ c, OnlyChanges [.mbx, .vlog, .loop, .lanes, .fabric] (.loopReset c)) ∧
    (∀ colour, OnlyChanges [.mbx, .vlog, .feed, .fire, .loop, .cz, .lanes, .fabric, .red] (.proxyRecordSend colour)) ∧
    (∀ c, OnlyChanges [.mbx, .vlog, .cams, .lanes, .fabric, .red] (.camConfig c)) ∧
    (∀ c, OnlyChanges [.mbx, .vlog, .cams, .dram, .lanes, .fabric, .red] (.camSettings c)) ∧
    (∀ c, OnlyChanges [.mbx, .vlog, .cams, .lanes, .fabric, .red] (.camSchedule c)) ∧
    (∀ c, OnlyChanges [.mbx, .vlog, .cams, .lanes, .fabric, .red] (.camStream c)) ∧
    (∀ c, OnlyChanges [.mbx, .vlog, .cams, .dram, .lanes, .fabric, .red] (.camTables c)) ∧
    (∀ c, OnlyChanges [.mbx, .vlog, .dram, .lanes, .fabric, .red] (.loopRead c)) ∧
    (∀ c, OnlyChanges [.mbx, .vlog, .loop, .lanes, .fabric, .red] (.loopConfig c)) ∧
    (∀ c, OnlyChanges [.mbx, .vlog, .loop, .lanes, .fabric, .red] (.loopColour c)) ∧
    (∀ c, OnlyChanges [.mbx, .vlog, .loop, .dram, .lanes, .fabric, .red] (.modelLoad c)) ∧
    (∀ c, OnlyChanges [.mbx, .vlog, .loop, .lanes, .fabric, .red] (.loopCheckConfig c)) ∧
    (∀ r reversed, OnlyChanges [.mbx, .vlog, .acct, .loop, .cz, .lanes, .fabric] (.stripAnalysis r reversed)) ∧
    OnlyChanges [.mbx, .vlog, .acct, .loop, .dram, .lanes, .fabric, .red] .loopSolveDone ∧
    (∀ c, OnlyChanges [.mbx, .vlog, .loop, .cz, .lanes, .fabric, .red] (.loopEnable c)) ∧
    (∀ c, OnlyChanges [.mbx, .vlog, .cams, .lanes, .fabric, .red] (.camFocus c)) ∧
    (∀ c, OnlyChanges [.mbx, .vlog, .acct, .cams, .lanes, .fabric, .red] (.camBand c)) ∧
    (∀ c, OnlyChanges [.mbx, .vlog, .loop, .dram, .lanes, .fabric, .red] (.loopCheckRead c)) ∧
    (∀ c, OnlyChanges [.mbx, .vlog, .acct, .cams, .loop, .dram, .lanes, .fabric, .red] (.camRun c)) ∧
    (∀ pkt, OnlyChanges [.mbx, .vlog, .acct, .cams, .loop, .dram, .lanes, .fabric, .red] (.csiFrameStart pkt)) ∧
    (∀ pkt, OnlyChanges [.mbx, .vlog, .acct, .cams, .loop, .dram, .lanes, .fabric, .red] (.csiFrameEnd pkt)) ∧
    (∀ p pkt, OnlyChanges [.mbx, .vlog, .acct, .cams, .loop, .dram, .lanes, .fabric, .red] (.csiLongPacket p pkt)) ∧
    (∀ p, OnlyChanges [.mbx, .vlog, .acct, .cams, .loop, .dram, .lanes, .fabric, .red] (.csiCrcBurst p)) ∧
    (∀ p, OnlyChanges [.mbx, .vlog, .acct, .cams, .loop, .dram, .lanes, .fabric, .red] (.sensorSilent p)) ∧
    (∀ p, OnlyChanges [.mbx, .vlog, .acct, .cams, .loop, .dram, .lanes, .fabric, .red] (.cciSilent p))

/-- The rows of chapters 9 to 12: compression, memory, lanes and the fabric, change no field of the device but those named for each, and
leave the queue alone. -/
def Obligations.MemoryAndFabricRowsFrame : Prop :=
  (∀ peer resync cls, OnlyChanges [.cz] (.streamNoticeReceived peer resync cls)) ∧ OnlyChanges [.chip] .pcieLinkUp ∧
    (∀ u seg bytes, OnlyChanges [.crcs] (.crcSegment u seg bytes)) ∧ OnlyChanges [.mbx, .vlog, .jobs, .dram, .lanes, .fabric] .trainingHoldExpiry ∧
    (∀ mc rank feedWaiting, OnlyChanges [.dram] (.refreshDue mc rank feedWaiting)) ∧ OnlyChanges [.dram] .refreshWindow ∧
    (∀ x, OnlyChanges [.mbx, .vlog, .adapters, .lanes, .fabric] (.cdrLock x)) ∧
    (∀ l, OnlyChanges [.mbx, .vlog, .adapters, .lanes, .fabric] (.receiverAdapted l)) ∧
    (∀ l, OnlyChanges [.lanes] (.eqFreeze l)) ∧ (∀ l, OnlyChanges [.lanes] (.eqResume l)) ∧
    (∀ l, OnlyChanges [.lanes] (.electricalIdleEntry l)) ∧ (∀ l, OnlyChanges [.lanes] (.electricalIdleNotice l)) ∧
    (∀ l, OnlyChanges [.lanes] (.wakeBurstTimer l)) ∧ (∀ p, OnlyChanges [.lanes, .fabric] (.creditGrantTimer p)) ∧
    OnlyChanges [.lanes, .fabric] .timeReqTimer ∧ (∀ p, OnlyChanges [.lanes, .fabric] (.helloTimer p)) ∧ OnlyChanges [.fabric] .rootElectionTimeout ∧
    OnlyChanges [.lanes, .fabric] .roleAssignmentTimer ∧ (∀ role, OnlyChanges [.fabric] (.roleHolderTimeout role)) ∧
    (∀ p uid nodeId discGen routes, OnlyChanges [.mbx, .vlog, .dram, .lanes, .fabric, .red, .nv] (.assignReceived p uid nodeId discGen routes)) ∧
    (∀ l, OnlyChanges [.lanes, .fabric, .red] (.replayTimeout l)) ∧ (∀ l, OnlyChanges [.lanes, .fabric, .red] (.ackTimer l)) ∧
    (∀ p t1 t2 x, OnlyChanges [.mbx, .vlog, .lanes, .fabric] (.timeReqReceived p t1 t2 x)) ∧
    (∀ cls room, OnlyChanges [.mbx, .vlog, .cz, .lanes, .fabric, .red] (.compressorResume cls room)) ∧
    (∀ c, OnlyChanges [.mbx, .vlog, .lanes, .fabric] (.czStatus c)) ∧ (∀ c, OnlyChanges [.mbx, .vlog, .lanes, .fabric] (.crcRead c)) ∧
    (∀ c, OnlyChanges [.mbx, .vlog, .lanes, .fabric] (.memStatus c)) ∧ (∀ c, OnlyChanges [.mbx, .vlog, .lanes, .fabric] (.memFence c)) ∧
    (∀ c, OnlyChanges [.mbx, .vlog, .lanes, .fabric] (.laneStatus c)) ∧
    (∀ dest msgType srcSeq, OnlyChanges [.mbx, .vlog, .lanes, .fabric] (.unreachableReceived dest msgType srcSeq)) ∧
    OnlyChanges [.mbx, .vlog, .lanes, .fabric] .timeUnlockTimeout ∧ (∀ p, OnlyChanges [.mbx, .vlog, .lanes, .fabric] (.portFlap p)) ∧
    (∀ p m, OnlyChanges [.mbx, .vlog, .lanes, .fabric] (.joinReceived p m)) ∧
    (∀ node port isUp neighbour, OnlyChanges [.mbx, .vlog, .lanes, .fabric] (.linkChangeReceived node port isUp neighbour)) ∧
    (∀ c, OnlyChanges [.mbx, .vlog, .lanes, .fabric] (.fabricStatus c)) ∧ (∀ c, OnlyChanges [.mbx, .vlog, .lanes, .fabric] (.fabricDiscover c)) ∧
    (∀ c, OnlyChanges [.mbx, .vlog, .lanes, .fabric] (.fabricPing c)) ∧
    (∀ p granted x, OnlyChanges [.mbx, .vlog, .dram, .lanes, .fabric, .red] (.creditReceived p granted x)) ∧
    (∀ p config x, OnlyChanges [.mbx, .vlog, .dram, .lanes, .fabric, .red] (.creditInitReceived p config x)) ∧
    (∀ l ackSeq x, OnlyChanges [.mbx, .vlog, .dram, .lanes, .fabric, .red] (.ackReceived l ackSeq x)) ∧
    (∀ l nakSeq x, OnlyChanges [.mbx, .vlog, .lanes, .fabric, .red] (.nakReceived l nakSeq x)) ∧
    (∀ l, OnlyChanges [.mbx, .vlog, .adapters, .lanes, .fabric] (.laneAttemptStart l)) ∧
    (∀ l, OnlyChanges [.mbx, .vlog, .adapters, .lanes, .fabric] (.partnerT1Detected l)) ∧
    (∀ l got, OnlyChanges [.mbx, .vlog, .lanes, .fabric] (.peppercornTestEnd l got)) ∧
    (∀ c, OnlyChanges [.mbx, .vlog, .cz, .lanes, .fabric] (.czDictReset c)) ∧ OnlyChanges [.mbx, .vlog, .lanes, .fabric, .nv] .idAssignment ∧
    (∀ c, OnlyChanges [.mbx, .vlog, .lanes, .fabric, .nv] (.fabricFixId c)) ∧ (∀ c, OnlyChanges [.mbx, .vlog, .crcs, .lanes, .fabric] (.crcWrite c)) ∧
    OnlyChanges [.mbx, .vlog, .dram, .lanes, .fabric] .deferredTrainingStart ∧
    (∀ die multiplier hot, OnlyChanges [.mbx, .vlog, .dram, .lanes, .fabric] (.mr4Read die multiplier hot)) ∧
    (∀ lane drift, OnlyChanges [.mbx, .vlog, .dram, .lanes, .fabric] (.dqsTracking lane drift)) ∧
    (∀ corrected fault, OnlyChanges [.chip, .mbx, .vlog, .dram, .lanes, .fabric, .red] (.scrubRead corrected fault)) ∧
    OnlyChanges [.mbx, .vlog, .dram, .lanes, .fabric] .dramCorrectedReport ∧
    (∀ l, OnlyChanges [.mbx, .vlog, .adapters, .lanes, .fabric] (.trainingPhaseTimeout l)) ∧
    (∀ m, OnlyChanges [.mbx, .vlog, .cz, .lanes, .fabric, .red] (.dictMessageReceived m)) ∧
    (∀ c, OnlyChanges [.mbx, .vlog, .cz, .lanes, .fabric] (.czCompress c)) ∧
    (∀ c, OnlyChanges [.mbx, .vlog, .crcs, .lanes, .fabric, .red] (.crcConfig c)) ∧
    (∀ c, OnlyChanges [.mbx, .vlog, .crcs, .lanes, .fabric, .red] (.crcEnable c)) ∧
    (∀ c, OnlyChanges [.mbx, .vlog, .dram, .lanes, .fabric, .red] (.memQos c)) ∧
    (∀ c, OnlyChanges [.mbx, .vlog, .dram, .lanes, .fabric, .red] (.memRowhammer c)) ∧
    (∀ c, OnlyChanges [.mbx, .vlog, .dram, .lanes, .fabric, .red] (.memScrub c)) ∧
    (∀ c, OnlyChanges [.mbx, .vlog, .dram, .lanes, .fabric, .red] (.memErrors c)) ∧
    (∀ r, OnlyChanges [.chip, .mbx, .vlog, .dram, .lanes, .fabric, .red] (.dramRequest r)) ∧
    (∀ c, OnlyChanges [.mbx, .vlog, .dram, .lanes, .fabric, .red] (.fabricRoutes c)) ∧
    (∀ c, OnlyChanges [.mbx, .vlog, .jobs, .dram, .lanes, .fabric] (.memFreq c)) ∧
    (∀ c, OnlyChanges [.mbx, .vlog, .jobs, .dram, .lanes, .fabric] (.memTrain c)) ∧
    (∀ c, OnlyChanges [.mbx, .vlog, .lanes, .fabric, .red] (.laneConfig c)) ∧
    (∀ c, OnlyChanges [.mbx, .vlog, .lanes, .fabric, .red] (.fabricConfig c)) ∧
    (∀ p t1 t2 t3 t4 x, OnlyChanges [.chip, .mbx, .vlog, .lanes, .fabric] (.timeRespReceived p t1 t2 t3 t4 x)) ∧
    (∀ c, OnlyChanges [.mbx, .vlog, .cz, .dram, .lanes, .fabric] (.czDecompress c)) ∧
    (∀ src vc dest, OnlyChanges [.mbx, .vlog, .jobs, .dram, .lanes, .fabric, .red] (.srcSeqGapTimeout src vc dest)) ∧
    (∀ engine, OnlyChanges [.mbx, .vlog, .cz, .dram, .lanes, .fabric, .red] (.blockCompressed engine)) ∧
    (∀ r, OnlyChanges [.chip, .mbx, .vlog, .acct, .jobs, .feed, .cz, .dram, .lanes, .fabric, .red, .nv] (.trainingDone r)) ∧
    (∀ block source, OnlyChanges [.mbx, .vlog, .jobs, .links, .cz, .dram, .lanes, .fabric, .red] (.partnerIsolated block source)) ∧
    (∀ p mark nextSeq cSent x, OnlyChanges [.mbx, .vlog, .links, .adapters, .cz, .lanes, .fabric, .red] (.auditReceived p mark nextSeq cSent x)) ∧
    (∀ p mark granted x, OnlyChanges [.mbx, .vlog, .links, .adapters, .cz, .dram, .lanes, .fabric, .red] (.auditReplyReceived p mark granted x)) ∧
    (∀ p, OnlyChanges [.mbx, .vlog, .links, .adapters, .cz, .lanes, .fabric, .red] (.auditResend p)) ∧
    (∀ l, OnlyChanges [.mbx, .vlog, .links, .adapters, .cz, .dram, .lanes, .fabric, .red] (.replayBudget l)) ∧
    (∀ p, OnlyChanges [.mbx, .vlog, .links, .adapters, .cz, .lanes, .fabric, .red] (.neighbourSilent p)) ∧
    (∀ p k m, OnlyChanges [.mbx, .vlog, .links, .adapters, .cz, .lanes, .fabric, .red] (.helloReceived p k m)) ∧
    (∀ l w last, OnlyChanges [.mbx, .vlog, .jobs, .links, .adapters, .dram, .lanes, .fabric, .red] (.trainingWordReceived l w last)) ∧
    (∀ m, OnlyChanges [.chip, .mbx, .vlog, .acct, .jobs, .banks, .engines, .pos, .sheet, .fire, .links, .loop, .cz, .lanes, .fabric, .red, .nv] (.roleAssignmentReceived m)) ∧
    (∀ l, OnlyChanges [.mbx, .vlog, .jobs, .links, .adapters, .cz, .dram, .lanes, .fabric, .red] (.lossOfSignal l)) ∧
    (∀ l errors, OnlyChanges [.mbx, .vlog, .jobs, .links, .adapters, .cz, .dram, .lanes, .fabric, .red] (.codeErrorBurst l errors)) ∧
    (∀ l, OnlyChanges [.mbx, .vlog, .jobs, .links, .adapters, .cz, .dram, .lanes, .fabric, .red] (.wakeBurstMissing l)) ∧
    (∀ c, OnlyChanges [.mbx, .vlog, .jobs, .links, .adapters, .cz, .dram, .lanes, .fabric, .red] (.laneRetrain c)) ∧
    (∀ c, OnlyChanges [.mbx, .vlog, .jobs, .links, .adapters, .cz, .dram, .lanes, .fabric, .red] (.lanePrbs c)) ∧
    (∀ p k f, OnlyChanges [.mbx, .vlog, .links, .adapters, .cz, .dram, .lanes, .fabric, .red] (.dataFrameReceived p k f))

/-- The rows of chapters 13 and 16: the redundant pair and the thermal guard, change no field of the device but those named for each, and
leave the queue alone. -/
def Obligations.PairAndThermalRowsFrame : Prop :=
  OnlyChanges [.lanes, .red] .heartbeatTimer ∧ OnlyChanges [.chip] .hboEdgeTimer ∧
    (∀ readings, OnlyChanges [.therm] (.sensorConversion readings)) ∧ OnlyChanges [.mbx, .vlog, .lanes, .fabric, .red] .mirrorAckTimer ∧
    (∀ mirror wl, OnlyChanges [.mbx, .vlog, .cz, .dram, .lanes, .fabric, .red] (.needFullReceived mirror wl)) ∧
    OnlyChanges [.mbx, .vlog, .cz, .dram, .lanes, .fabric, .red] .snapshotTimer ∧
    (∀ c, OnlyChanges [.mbx, .vlog, .lanes, .fabric] (.redStatus c)) ∧ (∀ c, OnlyChanges [.mbx, .vlog, .lanes, .fabric] (.thmStatus c)) ∧
    (∀ c, OnlyChanges [.mbx, .vlog, .lanes, .fabric, .nv] (.redAssign c)) ∧ OnlyChanges [.mbx, .vlog, .dram, .lanes, .fabric, .red] .hbiEdge ∧
    OnlyChanges [.mbx, .vlog, .lanes, .fabric, .red] .staleTimer ∧ (∀ k, OnlyChanges [.mbx, .vlog, .lanes, .fabric, .therm] (.sensorFailed k)) ∧
    (∀ k, OnlyChanges [.mbx, .vlog, .lanes, .fabric, .therm] (.sensorDisagreeTimeout k)) ∧
    OnlyChanges [.mbx, .vlog, .lanes, .fabric, .therm] .throttleRise ∧ OnlyChanges [.mbx, .vlog, .lanes, .fabric, .therm] .throttleFall ∧
    (∀ m, OnlyChanges [.mbx, .vlog, .cz, .dram, .lanes, .fabric, .red] (.pairControlReceived m)) ∧
    (∀ c, OnlyChanges [.mbx, .vlog, .cz, .lanes, .fabric, .red] (.redDrill c)) ∧
    (∀ c, OnlyChanges [.mbx, .vlog, .dram, .lanes, .fabric, .red] (.redReconcile c)) ∧
    (∀ c, OnlyChanges [.mbx, .vlog, .lanes, .fabric, .red, .therm] (.thmConfig c)) ∧
    (∀ f accepted reason, OnlyChanges [.mbx, .vlog, .lanes, .fabric, .red] (.handoverReplyReceived f accepted reason)) ∧
    OnlyChanges [.links, .lanes, .red] .witnessRequery ∧
    (∀ f viaFabric, OnlyChanges [.mbx, .vlog, .cz, .lanes, .fabric, .red] (.stateFrameReceived f viaFabric)) ∧
    (∀ f addr data, OnlyChanges [.mbx, .vlog, .dram, .lanes, .fabric, .red] (.mirrorFrameReceived f addr data)) ∧
    (∀ hbi, OnlyChanges [.mbx, .vlog, .links, .dram, .lanes, .fabric, .red] (.pathSilent hbi)) ∧
    OnlyChanges [.mbx, .vlog, .fire, .links, .drive, .dram, .lanes, .fabric, .pwr, .therm, .nv] .thermalRestart ∧
    OnlyChanges [.chip, .mbx, .vlog, .links, .drive, .dram, .lanes, .fabric, .red, .pwr, .nv] .roleListenExpiry ∧
    (∀ c, OnlyChanges [.mbx, .vlog, .jobs, .banks, .engines, .sheet, .fire, .drive, .loop, .lanes, .fabric, .red, .pwr, .nv] (.redReadmit c)) ∧
    (∀ hb, OnlyChanges [.chip, .mbx, .vlog, .jobs, .banks, .engines, .sheet, .fire, .links, .drive, .loop, .cz, .dram, .lanes, .fabric, .red, .pwr, .nv] (.heartbeatReceived hb)) ∧
    OnlyChanges [.mbx, .vlog, .acct, .jobs, .banks, .engines, .sheet, .fire, .drive, .loop, .dram, .lanes, .fabric, .pwr, .therm, .nv] .thermalTrip ∧
    (∀ f snap, OnlyChanges [.chip, .mbx, .vlog, .feed, .banks, .engines, .links, .drive, .cams, .loop, .cz, .crcs, .dram, .lanes, .fabric, .red, .pwr, .nv] (.handoverReceived f snap)) ∧
    OnlyChanges [.chip, .mbx, .vlog, .acct, .jobs, .feed, .banks, .fire, .links, .drive, .cz, .dram, .lanes, .fabric, .red,
      .nv] .epochRecordCommitted ∧
    OnlyChanges [.chip, .mbx, .vlog, .feed, .banks, .engines, .pos, .links, .drive, .cams, .loop, .cz, .crcs, .dram, .lanes, .fabric, .red, .pwr, .nv] .witnessDecision ∧
    (∀ c, OnlyChanges [.chip, .mbx, .vlog, .feed, .banks, .engines, .pos, .links, .drive, .cams, .loop, .cz, .crcs, .dram, .lanes, .fabric, .red, .pwr, .nv] (.redPromote c)) ∧
    OnlyChanges [.chip, .mbx, .vlog, .acct, .jobs, .feed, .banks, .engines, .pos, .sheet, .fire, .links, .drive, .cams, .loop, .crcs, .dram,
      .lanes, .fabric, .red, .pwr, .therm] .reconciliationDone ∧
    (∀ failed, OnlyChanges [.chip, .mbx, .vlog, .acct, .jobs, .feed, .banks, .engines, .pos, .sheet, .fire, .links, .drive, .cams, .loop, .cz,
      .crcs, .dram, .lanes, .fabric, .red, .pwr, .therm, .nv] (.promotionSelfTestDone failed))

/-- A Mervan command whose CRC is wrong is answered BAD_CRC with TAGLESS set and its first 16 bytes as results, is logged as violation
0x10, and has no other effect (R344, R345, Table 14.4). -/
def Obligations.WrongCrcHasNoEffect : Prop :=
  sysNopRule.ChecksCrc .sysNop ∧ sysIdentifyRule.ChecksCrc .sysIdentify ∧ sysRingRule.ChecksCrc .sysRing ∧
    sysConfigRule.ChecksCrc .sysConfig ∧ sysResultRule.ChecksCrc .sysResult ∧ sysLatchedReadRule.ChecksCrc .sysLatchedRead ∧
    sysViolationReadRule.ChecksCrc .sysViolationRead ∧ sysViolationClearRule.ChecksCrc .sysViolationClear ∧
    sysPartnerReleaseRule.ChecksCrc .sysPartnerRelease ∧ sysRolesRule.ChecksCrc .sysRoles ∧ sysPresenceRule.ChecksCrc .sysPresence ∧
    sysResealRule.ChecksCrc .sysReseal ∧ sysFwUpdateRule.ChecksCrc .sysFwUpdate ∧ sysNvEraseRule.ChecksCrc .sysNvErase ∧
    sysPeekRule.ChecksCrc .sysPeek ∧ sysNvStatusRule.ChecksCrc .sysNvStatus ∧ sysNvSetRule.ChecksCrc .sysNvSet ∧
    (∀ (descs : List U8), (foragerCopyRule descs).ChecksCrc (.foragerCopy · descs)) ∧ foragerStatusRule.ChecksCrc .foragerStatus ∧
    szStatusRule.ChecksCrc .szStatus ∧ szMapRule.ChecksCrc .szMap ∧ pwrStateRule.ChecksCrc .pwrState ∧
    pwrStatusRule.ChecksCrc .pwrStatus ∧ pwrIdleRule.ChecksCrc .pwrIdle ∧ posConfigRule.ChecksCrc .posConfig ∧
    posStatusRule.ChecksCrc .posStatus ∧ posSetRule.ChecksCrc .posSet ∧ sheetConfigRule.ChecksCrc .sheetConfig ∧
    jobStageRule.ChecksCrc .jobStage ∧ jobCommitRule.ChecksCrc .jobCommit ∧ jobAppendRule.ChecksCrc .jobAppend ∧
    jobCancelRule.ChecksCrc .jobCancel ∧ jobStopRule.ChecksCrc .jobStop ∧ jobStatusRule.ChecksCrc .jobStatus ∧
    screenStatusRule.ChecksCrc .screenStatus ∧ subLoadRule.ChecksCrc .subLoad ∧ subReadRule.ChecksCrc .subRead ∧
    (∀ e : Device, (screenCaptureRule e).ChecksCrc .screenCapture) ∧ lineInhibitRule.ChecksCrc .lineInhibit ∧
    lineConfigRule.ChecksCrc .lineConfig ∧ headLinkRule.ChecksCrc .headLink ∧ headStatusRule.ChecksCrc .headStatus ∧
    headEchoRule.ChecksCrc .headEcho ∧ headSafeRule.ChecksCrc .headSafe ∧ headWitnessRule.ChecksCrc .headWitness ∧
    waveLoadRule.ChecksCrc .waveLoad ∧ waveTrimRule.ChecksCrc .waveTrim ∧ waveLimitsRule.ChecksCrc .waveLimits ∧
    waveConfigRule.ChecksCrc .waveConfig ∧ dacCalibrateRule.ChecksCrc .dacCalibrate ∧ dacStatusRule.ChecksCrc .dacStatus ∧
    dacRotationRule.ChecksCrc .dacRotation ∧ (∀ (modes : List BusResult), (hvConfigRule modes).ChecksCrc (.hvConfig · modes)) ∧
    hvPowerRule.ChecksCrc .hvPower ∧ hvLimitsRule.ChecksCrc .hvLimits ∧ hvStatusRule.ChecksCrc .hvStatus ∧
    camConfigRule.ChecksCrc .camConfig ∧ camRunRule.ChecksCrc .camRun ∧ camSettingsRule.ChecksCrc .camSettings ∧
    camScheduleRule.ChecksCrc .camSchedule ∧ camStreamRule.ChecksCrc .camStream ∧ camReleaseRule.ChecksCrc .camRelease ∧
    camTablesRule.ChecksCrc .camTables ∧ camDarkCalRule.ChecksCrc .camDarkCal ∧ camWhiteCalRule.ChecksCrc .camWhiteCal ∧
    camFocusRule.ChecksCrc .camFocus ∧ camBandRule.ChecksCrc .camBand ∧ camStatsRule.ChecksCrc .camStats ∧
    camCciRule.ChecksCrc .camCci ∧ camStatusRule.ChecksCrc .camStatus ∧ loopConfigRule.ChecksCrc .loopConfig ∧
    loopColourRule.ChecksCrc .loopColour ∧ modelLoadRule.ChecksCrc .modelLoad ∧ loopEnableRule.ChecksCrc .loopEnable ∧
    loopStatusRule.ChecksCrc .loopStatus ∧ (∀ e : Device, (loopReadRule e).ChecksCrc .loopRead) ∧ loopResetRule.ChecksCrc .loopReset ∧
    loopCheckConfigRule.ChecksCrc .loopCheckConfig ∧ loopCheckReadRule.ChecksCrc .loopCheckRead ∧
    czCompressRule.ChecksCrc .czCompress ∧ czDecompressRule.ChecksCrc .czDecompress ∧ czDictResetRule.ChecksCrc .czDictReset ∧
    czStatusRule.ChecksCrc .czStatus ∧ crcConfigRule.ChecksCrc .crcConfig ∧ crcReadRule.ChecksCrc .crcRead ∧
    crcWriteRule.ChecksCrc .crcWrite ∧ crcEnableRule.ChecksCrc .crcEnable ∧ memStatusRule.ChecksCrc .memStatus ∧
    memFreqRule.ChecksCrc .memFreq ∧ memTrainRule.ChecksCrc .memTrain ∧ memFenceRule.ChecksCrc .memFence ∧
    memQosRule.ChecksCrc .memQos ∧ memRowhammerRule.ChecksCrc .memRowhammer ∧ memScrubRule.ChecksCrc .memScrub ∧
    memErrorsRule.ChecksCrc .memErrors ∧ laneConfigRule.ChecksCrc .laneConfig ∧ laneStatusRule.ChecksCrc .laneStatus ∧
    laneRetrainRule.ChecksCrc .laneRetrain ∧ lanePrbsRule.ChecksCrc .lanePrbs ∧ fabricConfigRule.ChecksCrc .fabricConfig ∧
    fabricStatusRule.ChecksCrc .fabricStatus ∧ fabricRoutesRule.ChecksCrc .fabricRoutes ∧ fabricFixIdRule.ChecksCrc .fabricFixId ∧
    fabricDiscoverRule.ChecksCrc .fabricDiscover ∧ fabricPingRule.ChecksCrc .fabricPing ∧ redStatusRule.ChecksCrc .redStatus ∧
    redAssignRule.ChecksCrc .redAssign ∧ redPromoteRule.ChecksCrc .redPromote ∧ redDrillRule.ChecksCrc .redDrill ∧
    redReadmitRule.ChecksCrc .redReadmit ∧ redReconcileRule.ChecksCrc .redReconcile ∧ thmConfigRule.ChecksCrc .thmConfig ∧
    thmStatusRule.ChecksCrc .thmStatus

/-- A Mervan command that repeats a completed one is answered DUPLICATE with the remembered results and has no other effect (R345, R346).
-/
def Obligations.RepeatIsAnsweredFromMemory : Prop :=
  sysNopRule.AnswersRepeats .sysNop ∧ sysIdentifyRule.AnswersRepeats .sysIdentify ∧ sysRingRule.AnswersRepeats .sysRing ∧
    sysConfigRule.AnswersRepeats .sysConfig ∧ sysResultRule.AnswersRepeats .sysResult ∧
    sysLatchedReadRule.AnswersRepeats .sysLatchedRead ∧ sysViolationReadRule.AnswersRepeats .sysViolationRead ∧
    sysViolationClearRule.AnswersRepeats .sysViolationClear ∧ sysPartnerReleaseRule.AnswersRepeats .sysPartnerRelease ∧
    sysRolesRule.AnswersRepeats .sysRoles ∧ sysPresenceRule.AnswersRepeats .sysPresence ∧ sysResealRule.AnswersRepeats .sysReseal ∧
    sysFwUpdateRule.AnswersRepeats .sysFwUpdate ∧ sysNvEraseRule.AnswersRepeats .sysNvErase ∧ sysPeekRule.AnswersRepeats .sysPeek ∧
    sysNvStatusRule.AnswersRepeats .sysNvStatus ∧ sysNvSetRule.AnswersRepeats .sysNvSet ∧
    (∀ (descs : List U8), (foragerCopyRule descs).AnswersRepeats (.foragerCopy · descs)) ∧
    foragerStatusRule.AnswersRepeats .foragerStatus ∧ szStatusRule.AnswersRepeats .szStatus ∧ szMapRule.AnswersRepeats .szMap ∧
    pwrStateRule.AnswersRepeats .pwrState ∧ pwrStatusRule.AnswersRepeats .pwrStatus ∧ pwrIdleRule.AnswersRepeats .pwrIdle ∧
    posConfigRule.AnswersRepeats .posConfig ∧ posStatusRule.AnswersRepeats .posStatus ∧ posSetRule.AnswersRepeats .posSet ∧
    sheetConfigRule.AnswersRepeats .sheetConfig ∧ jobStageRule.AnswersRepeats .jobStage ∧ jobCommitRule.AnswersRepeats .jobCommit ∧
    jobAppendRule.AnswersRepeats .jobAppend ∧ jobCancelRule.AnswersRepeats .jobCancel ∧ jobStopRule.AnswersRepeats .jobStop ∧
    jobStatusRule.AnswersRepeats .jobStatus ∧ screenStatusRule.AnswersRepeats .screenStatus ∧ subLoadRule.AnswersRepeats .subLoad ∧
    subReadRule.AnswersRepeats .subRead ∧ (∀ e : Device, (screenCaptureRule e).AnswersRepeats .screenCapture) ∧
    lineInhibitRule.AnswersRepeats .lineInhibit ∧ lineConfigRule.AnswersRepeats .lineConfig ∧ headLinkRule.AnswersRepeats .headLink ∧
    headStatusRule.AnswersRepeats .headStatus ∧ headEchoRule.AnswersRepeats .headEcho ∧ headSafeRule.AnswersRepeats .headSafe ∧
    headWitnessRule.AnswersRepeats .headWitness ∧ waveLoadRule.AnswersRepeats .waveLoad ∧ waveTrimRule.AnswersRepeats .waveTrim ∧
    waveLimitsRule.AnswersRepeats .waveLimits ∧ waveConfigRule.AnswersRepeats .waveConfig ∧
    dacCalibrateRule.AnswersRepeats .dacCalibrate ∧ dacStatusRule.AnswersRepeats .dacStatus ∧
    dacRotationRule.AnswersRepeats .dacRotation ∧ (∀ (modes : List BusResult), (hvConfigRule modes).AnswersRepeats (.hvConfig · modes)) ∧
    hvPowerRule.AnswersRepeats .hvPower ∧ hvLimitsRule.AnswersRepeats .hvLimits ∧ hvStatusRule.AnswersRepeats .hvStatus ∧
    camConfigRule.AnswersRepeats .camConfig ∧ camRunRule.AnswersRepeats .camRun ∧ camSettingsRule.AnswersRepeats .camSettings ∧
    camScheduleRule.AnswersRepeats .camSchedule ∧ camStreamRule.AnswersRepeats .camStream ∧ camReleaseRule.AnswersRepeats .camRelease ∧
    camTablesRule.AnswersRepeats .camTables ∧ camDarkCalRule.AnswersRepeats .camDarkCal ∧ camWhiteCalRule.AnswersRepeats .camWhiteCal ∧
    camFocusRule.AnswersRepeats .camFocus ∧ camBandRule.AnswersRepeats .camBand ∧ camStatsRule.AnswersRepeats .camStats ∧
    camCciRule.AnswersRepeats .camCci ∧ camStatusRule.AnswersRepeats .camStatus ∧ loopConfigRule.AnswersRepeats .loopConfig ∧
    loopColourRule.AnswersRepeats .loopColour ∧ modelLoadRule.AnswersRepeats .modelLoad ∧ loopEnableRule.AnswersRepeats .loopEnable ∧
    loopStatusRule.AnswersRepeats .loopStatus ∧ (∀ e : Device, (loopReadRule e).AnswersRepeats .loopRead) ∧
    loopResetRule.AnswersRepeats .loopReset ∧ loopCheckConfigRule.AnswersRepeats .loopCheckConfig ∧
    loopCheckReadRule.AnswersRepeats .loopCheckRead ∧ czCompressRule.AnswersRepeats .czCompress ∧
    czDecompressRule.AnswersRepeats .czDecompress ∧ czDictResetRule.AnswersRepeats .czDictReset ∧
    czStatusRule.AnswersRepeats .czStatus ∧ crcConfigRule.AnswersRepeats .crcConfig ∧ crcReadRule.AnswersRepeats .crcRead ∧
    crcWriteRule.AnswersRepeats .crcWrite ∧ crcEnableRule.AnswersRepeats .crcEnable ∧ memStatusRule.AnswersRepeats .memStatus ∧
    memFreqRule.AnswersRepeats .memFreq ∧ memTrainRule.AnswersRepeats .memTrain ∧ memFenceRule.AnswersRepeats .memFence ∧
    memQosRule.AnswersRepeats .memQos ∧ memRowhammerRule.AnswersRepeats .memRowhammer ∧ memScrubRule.AnswersRepeats .memScrub ∧
    memErrorsRule.AnswersRepeats .memErrors ∧ laneConfigRule.AnswersRepeats .laneConfig ∧ laneStatusRule.AnswersRepeats .laneStatus ∧
    laneRetrainRule.AnswersRepeats .laneRetrain ∧ lanePrbsRule.AnswersRepeats .lanePrbs ∧
    fabricConfigRule.AnswersRepeats .fabricConfig ∧ fabricStatusRule.AnswersRepeats .fabricStatus ∧
    fabricRoutesRule.AnswersRepeats .fabricRoutes ∧ fabricFixIdRule.AnswersRepeats .fabricFixId ∧
    fabricDiscoverRule.AnswersRepeats .fabricDiscover ∧ fabricPingRule.AnswersRepeats .fabricPing ∧
    redStatusRule.AnswersRepeats .redStatus ∧ redAssignRule.AnswersRepeats .redAssign ∧ redPromoteRule.AnswersRepeats .redPromote ∧
    redDrillRule.AnswersRepeats .redDrill ∧ redReadmitRule.AnswersRepeats .redReadmit ∧ redReconcileRule.AnswersRepeats .redReconcile ∧
    thmConfigRule.AnswersRepeats .thmConfig ∧ thmStatusRule.AnswersRepeats .thmStatus

/-- A structure that the checks of a job name lies outside the job store or is misaligned, and what leads to it is sound: the repeat list, for
job.stage the job's table set, a repeat's own table set, or the head of a plane's block index (Tables 2.3 to 2.5, 2.7). -/
def StructureOut (d : Device) (j : JobDesc) (first : Bool) (lo hi : Nat) : Prop :=
  let bad := fun a n align => (inStore d a n && a % align == 0) = false
  bad j.repeatList (96 * (if 1 ≤ j.repeatCount ∧ j.repeatCount ≤ 1048576 then j.repeatCount else hi)) 64 ∨
    (first = true ∧ bad j.tableSet 128 64) ∨
    ∃ (k : Nat) (b : List U8), lo ≤ k ∧ k < hi ∧ (∀ i, lo ≤ i → i < k → ∃ r, readRepeatInfo d j i = .ok r) ∧
      getData d (j.repeatList + 96 * k) 96 = .ok b ∧
      let r := readRepeat b
      ((r.tableSet ≠ 0 ∧ bad r.tableSet 128 64) ∨
        (r.blank = false ∧ ∃ p, p < j.planes.length ∧ (∀ q, q < p → ∃ x, readIndex d q (r.planeIndex.getD q 0) = .ok x) ∧
          inStore d (r.planeIndex.getD p 0) 8 = false))

/-- The ranges that a structure at an address, or the device, gives (R430): sys.nv_status beyond DRAM for its length, cz.decompress for its block's
length, and job.stage and job.append for a structure that the job names. The last two have counted the reads of their checks. -/
def StructureRangesTurnAway : Prop :=
  ∀ (s : State) (c : Cmd) (d : Device) (a : List Int),
    (accepted sysNvStatusRule.sig c s.dev = some (d, a) → inDram d (argN a 0) (nvBody d).length = false →
      exec (.sysNvStatus c) s = .next { s with dev := settle sysNvStatusRule.sig c (no d .badArgument .address) }) ∧
    (accepted czDecompressRule.sig c s.dev = some (d, a) →
      let head := dramRead d (argN a 0) 32
      poisonIn d (argN a 0) 32 = none → fkzOrig head ≤ argN a 2 → fkzHeaderOk head = true → inDram d (argN a 0) (fkzSize head) = false →
      exec (.czDecompress c) s = .next { s with dev := settle czDecompressRule.sig c (no d .badArgument .address) }) ∧
    (∀ b, accepted jobStageRule.sig c s.dev = some (d, a) → d.pos.mismatch = false → argN a 0 % 64 = 0 → getData d (argN a 0) 64 = .ok b →
      let j := readJob b
      let hi := min (argN a 1) j.repeatCount
      StructureOut d j true 0 hi →
      exec (.jobStage c) s = .next { s with dev := settle jobStageRule.sig c (no (seeChecks j true false 0 hi d) .badArgument .address) }) ∧
    ∀ j r, accepted jobAppendRule.sig c s.dev = some (d, a) → heldJob d (w32 (argN a 0)) = some (j, r) →
      let hi := min (argN a 1) j.desc.repeatCount
      j.validThrough < hi → StructureOut d j.desc false j.validThrough hi →
      exec (.jobAppend c) s = .next { s with dev := settle jobAppendRule.sig c (no (seeChecks j.desc false r j.validThrough hi d) .badArgument .address) }

/-- The gated commands of Table 14.9 answer SEAL_BROKEN and NEEDS_PRESENCE as R355 states, and a command whose DRAM range lies outside the
usable capacity, or outside the job store where its rule asks for it, answers BAD_ARGUMENT with reason ADDRESS (R430), whether its arguments give
the range or a structure at an address does; none of them has another effect then, but that the checks of job.stage and job.append have read. -/
def Obligations.GatesAndRangesTurnAway : Prop :=
  sysResealRule.NeedsSealAndPresence .sysReseal ∧ sysFwUpdateRule.NeedsSealAndPresence .sysFwUpdate ∧
    sysNvEraseRule.NeedsSealAndPresence .sysNvErase ∧ waveLimitsRule.NeedsSealAndPresence .waveLimits ∧
    hvLimitsRule.NeedsSealAndPresence .hvLimits ∧ fabricFixIdRule.NeedsSealAndPresence .fabricFixId ∧
    redAssignRule.NeedsSealAndPresence .redAssign ∧ redPromoteRule.NeedsSealAndPresence .redPromote ∧
    sysConfigRule.ChecksRanges .sysConfig ∧ sysLatchedReadRule.ChecksRanges .sysLatchedRead ∧
    sysViolationReadRule.ChecksRanges .sysViolationRead ∧ sysFwUpdateRule.ChecksRanges .sysFwUpdate ∧
    sysPeekRule.ChecksRanges .sysPeek ∧ (∀ (descs : List U8), (foragerCopyRule descs).ChecksRanges (.foragerCopy · descs)) ∧
    jobStageRule.ChecksRanges .jobStage ∧ subLoadRule.ChecksRanges .subLoad ∧ subReadRule.ChecksRanges .subRead ∧
    (∀ s : State, (screenCaptureRule s.dev).ChecksRangesAt .screenCapture s) ∧ lineConfigRule.ChecksRanges .lineConfig ∧
    waveLoadRule.ChecksRanges .waveLoad ∧ camSettingsRule.ChecksRanges .camSettings ∧ camStreamRule.ChecksRanges .camStream ∧
    camTablesRule.ChecksRanges .camTables ∧ loopConfigRule.ChecksRanges .loopConfig ∧ modelLoadRule.ChecksRanges .modelLoad ∧
    (∀ s : State, (loopReadRule s.dev).ChecksRangesAt .loopRead s) ∧ loopCheckReadRule.ChecksRanges .loopCheckRead ∧
    czCompressRule.ChecksRanges .czCompress ∧ czDecompressRule.ChecksRanges .czDecompress ∧ memErrorsRule.ChecksRanges .memErrors ∧
    fabricRoutesRule.ChecksRanges .fabricRoutes ∧ redReconcileRule.ChecksRanges .redReconcile ∧ StructureRangesTurnAway

/-- A step takes the command at the front of the queue and is exec of it on the device and the queue's rest (log entry 2). -/
def Obligations.StepRunsTheFrontCommand : Prop :=
  ∀ (c : Instr) (s : State) (rest : List Instr), s.pending = c :: rest → Machine.step s = exec c { s with pending := rest }

/-- On an empty queue a step is one cycle of CLK_DP: the model's own choice (log entry 2). The cycle is `tick`, and the queue stays empty. -/
def Obligations.EmptyQueueLetsATickPass : Prop :=
  ∀ s : State, s.pending = [] → Machine.step s = .next { s with dev := tick s.dev }

/-- Every command answers a next state, whatever the device, and leaves the queue as it is: the block stops on none of its commands. -/
def Obligations.EveryCommandAnswersANextState : Prop :=
  ∀ (c : Instr) (s : State), ∃ d, exec c s = .next { s with dev := d }

/-- The invariant holds at reset. -/
def Obligations.ResetMeetsTheInvariant : Prop := Inv State.reset.dev

/-- Every step keeps the invariant: the violation log never holds more than 256 entries (R25), a partner is isolated once (R29), the DRAM's
bytes keep their canonical form, and in every live and every latched counter set, for every head, lines scheduled equal lines fired plus lines
skipped (R16, R110). -/
def Obligations.EveryStepKeepsTheInvariant : Prop :=
  ∀ s t : State, Inv s.dev → Machine.step s = .next t → Inv t.dev

/-- What reset leaves of the values that the spec states: the index registers 0 (R406), no interrupt (Tables 18.14 and 18.15), SLOT_SIZE 256, SLOTS
and CREDITS 64 (Table 14.1), WPOS 2^40 nm and POS_ROLE follower (R87, Table 4.1), an empty log, no latched set, and every head adapter INHIBITED, not
CONFIGURED, with HIGHEST_EPOCH and FIRED_ROWS 0 and no line held (R139). -/
def Obligations.ResetValues : Prop :=
  let d := State.reset.dev
  State.reset.pending = [] ∧ d.mbx.cmdHead = 0 ∧ d.mbx.cmdTail = 0 ∧ d.mbx.rspHead = 0 ∧ d.mbx.rspTail = 0 ∧ d.mbx.evtHead = 0 ∧
    d.mbx.evtTail = 0 ∧ d.mbx.irqStatus = 0 ∧ d.mbx.irqEnable = 0 ∧ d.mbx.slotSize = 256 ∧ d.mbx.slots = 64 ∧ d.mbx.credits = 64 ∧
    d.pos.wpos = 2 ^ 40 ∧ d.pos.role = .follower ∧ d.vlog.entries = [] ∧ d.vlog.isolated = [] ∧
    (∀ k : Fin 3, d.acct.newest[k] = none ∧ d.acct.older[k] = none) ∧
    ∀ h : Head, d.adapters[h].inhibited = true ∧ d.adapters[h].configured = false ∧ d.adapters[h].highest = 0 ∧ d.adapters[h].firedRows = 0 ∧
      d.adapters[h].held = []

/-- R9: line number a is later than b when (a - b) mod 2^32 lies between 1 and 2^31 - 1, so in a job of up to 2^31 lines the later line is the
one further on. -/
def Obligations.LineOrderIsModular : Prop :=
  (∀ a b : U32, laterThan a b = true ↔ 1 ≤ (a - b).toNat ∧ (a - b).toNat ≤ 2 ^ 31 - 1) ∧
    ∀ length m n : Nat, length ≤ 2 ^ 31 → m < length → n < length →
      (laterThan (BitVec.ofNat 32 m) (BitVec.ofNat 32 n) = true ↔ n < m)

/-- R26 and R27: a violation of the CODE, BLOCK and SOURCE of an entry is merged into it, and raises no event; any other enters the log as a new
entry and raises EV_VIOLATION, in a full log in place of an entry with the oldest FTIME_FIRST, which counts in DIAG_VIOL_LOST and leaves its partner
isolated. The log is the same after EV_VIOLATION, unless the event's own relay to another node finds no route (R292). -/
def Obligations.ViolationsEnterTheLog : Prop :=
  ∀ (code : U8) (block : BitVec 5) (source : U16) (answer : BitVec 2) (d : Device),
    let same : VEntry → Bool := fun e => e.code == code && e.block == block && e.source == source
    let t := violation code block source answer d
    t.vlog.isolated = d.vlog.isolated ∧
      (d.vlog.entries.any same = true →
        t = { d with vlog := { d.vlog with
          gen := d.vlog.gen + 1
          entries := d.vlog.entries.map (fun e => if same e then { e with repeats := satAdd e.repeats 1, last := ftime d } else e) } }) ∧
      (d.vlog.entries.any same = false → ∃ (e : VEntry) (d1 : Device),
        e.code = code ∧ e.block = block ∧ e.source = source ∧ e.answer = answer ∧ e.repeats = 0 ∧ e.wpos = d.pos.wpos ∧ e.first = ftime d ∧
        e.last = ftime d ∧ t = raise .violation [] d1 ∧ (d.mbx.hostEvents = true ∨ d.fabric.hostNodes = [] → t.vlog.entries = d1.vlog.entries) ∧
        (d.vlog.entries.length < 256 → d1.vlog.entries = d.vlog.entries ++ [e] ∧ d1.vlog.diag = d.vlog.diag) ∧
        (d.vlog.entries.length = 256 → ∃ l o r, d.vlog.entries = l ++ o :: r ∧ (∀ x ∈ d.vlog.entries, o.first ≤ x.first) ∧
          d1.vlog.entries = l ++ r ++ [e] ∧ d1.vlog.diag.violLost = satAdd d.vlog.diag.violLost 1))

/-- R51: a device that is not the position master answers job.commit REFUSED with reason NOT_POSITION_MASTER. -/
def Obligations.OnlyThePositionMasterCommits : Prop :=
  ∀ (s : State) (c : Cmd) (d : Device) (a : List Int), accepted jobCommitRule.sig c s.dev = some (d, a) → d.pos.role ≠ .master →
    exec (.jobCommit c) s = .next { s with dev := settle jobCommitRule.sig c (no d .refused .notPositionMaster) }

/-- R61: an 8-bit sample s widens to s × 257, a 12-bit sample to (s << 4) | (s >> 8); both lie in 0 to 65,535, and full tone is 65,535. -/
def Obligations.SamplesWiden : Prop :=
  ∀ pc : PlaneCfg,
    (pc.bits12 = false → (∀ s, s < 256 → widen pc s = s * 257 ∧ widen pc s ≤ 65535) ∧ widen pc 255 = 65535) ∧
    (pc.bits12 = true → (∀ s, s < 4096 → widen pc s = (s <<< 4 ||| s >>> 8) ∧ widen pc s ≤ 65535) ∧ widen pc 4095 = 65535)

/-- At a boundary of a period kind the live set is copied into a new latched set and restarts from zero, the set latched before becomes the
older one, and the sets of the other kinds stay (R20, R23). -/
def Obligations.BoundariesCopyAndRestart : Prop :=
  ∀ (k : Fin 3) (n setId : U32) (d : Device),
    let t := latchPeriod k n setId d
    (∃ l : LatchedSet, t.acct.newest[k] = some l ∧ l.live = { d.acct.live[k] with number := n } ∧ l.setId = setId ∧ l.read = false) ∧
      t.acct.older[k] = d.acct.newest[k] ∧ t.acct.live[k] = { wposOpen := d.pos.wpos, ftimeOpen := ftime d } ∧
      ∀ j : Fin 3, j ≠ k → t.acct.live[j] = d.acct.live[j] ∧ t.acct.newest[j] = d.acct.newest[j] ∧ t.acct.older[j] = d.acct.older[j]

/-- A row of a head adapter changes no other adapter: only its own registers, held lines and traces (and the count of free values). -/
def Obligations.AdapterRowsFrame : Prop :=
  ∀ (h : Head) (s t : State),
    ((∃ facts, exec (.adapterPowerUp h facts) s = .next t) ∨ (∃ port cell, exec (.adapterLineCell h port cell) s = .next t) ∨
      (∃ port cell, exec (.adapterFireCell h port cell) s = .next t) ∨ exec (.adapterFireTrigger h) s = .next t ∨
      (∃ port cell, exec (.adapterControlCell h port cell) s = .next t) ∨ exec (.adapterHeadSafe h) s = .next t ∨
      (∃ r : HeadReading, r.head = h ∧ exec (.adapterReportTimer r) s = .next t)) →
    t = { s with dev := { s.dev with adapters := t.dev.adapters, chip := { s.dev.chip with drawn := t.dev.chip.drawn } } } ∧
      ∀ k : Head, k ≠ h → t.dev.adapters[k] = s.dev.adapters[k]

/-- HIGHEST_EPOCH of an adapter never falls on any row but power-up, and a LINE or FIRE cell, or a CONTROL cell under the rule "not lower", with an
EPOCH below it leaves HIGHEST_EPOCH, the held lines, the firings accepted, CONFIGURED, INHIBITED and the waveform maps as they were (R127). -/
def Obligations.HighestEpochNeverFalls : Prop :=
  (∀ (h : Head) (s t : State),
    ((∃ port cell, exec (.adapterLineCell h port cell) s = .next t) ∨ (∃ port cell, exec (.adapterFireCell h port cell) s = .next t) ∨
      exec (.adapterFireTrigger h) s = .next t ∨ (∃ port cell, exec (.adapterControlCell h port cell) s = .next t) ∨
      exec (.adapterHeadSafe h) s = .next t ∨ (∃ r : HeadReading, r.head = h ∧ exec (.adapterReportTimer r) s = .next t)) →
    s.dev.adapters[h].highest ≤ t.dev.adapters[h].highest) ∧
  ∀ (h : Head) (port : Bool) (s t : State),
    ((∃ cell : LineCell, exec (.adapterLineCell h port cell) s = .next t ∧ cell.epoch < s.dev.adapters[h].highest) ∨
      (∃ cell : FireCell, exec (.adapterFireCell h port cell) s = .next t ∧ cell.epoch < s.dev.adapters[h].highest) ∨
      (∃ cell : ControlCell, exec (.adapterControlCell h port cell) s = .next t ∧ notLower cell = true ∧
        cell.epoch < s.dev.adapters[h].highest)) →
    t.dev.adapters[h].highest = s.dev.adapters[h].highest ∧ t.dev.adapters[h].held = s.dev.adapters[h].held ∧
      t.dev.adapters[h].due = s.dev.adapters[h].due ∧ t.dev.adapters[h].configured = s.dev.adapters[h].configured ∧
      t.dev.adapters[h].inhibited = s.dev.adapters[h].inhibited ∧ t.dev.adapters[h].maps = s.dev.adapters[h].maps

/-- A FIRE cell adds at most one firing, and only while the adapter is configured, not INHIBITED and HEAD_SAFE_N is high, for a row of a held
line with the cell's JOB_ID and LINE_NO whose EPOCH and the cell's are HIGHEST_EPOCH and that has neither fired nor died (R135). -/
def Obligations.FiringNeedsEveryCondition : Prop :=
  ∀ (h : Head) (port : Bool) (cell : FireCell) (s t : State), exec (.adapterFireCell h port cell) s = .next t →
    t.dev.adapters[h].due = s.dev.adapters[h].due ∨
      ∃ (x : HeldLine) (f : Firing), x ∈ s.dev.adapters[h].held ∧ t.dev.adapters[h].due = s.dev.adapters[h].due ++ [f] ∧
        x.cell.jobId = cell.jobId ∧ x.cell.lineNo = cell.lineNo ∧ x.cell.epoch = s.dev.adapters[h].highest ∧
        cell.epoch = s.dev.adapters[h].highest ∧ cell.row.toNat ≤ x.cell.rowsM1.toNat ∧ x.gone.getLsbD cell.row.toNat = false ∧
        s.dev.adapters[h].configured = true ∧ s.dev.adapters[h].inhibited = false ∧ adapterSafe s.dev h = false ∧
        f.row = cell.row ∧ f.job = cell.jobId ∧ f.line = cell.lineNo ∧ f.epoch = cell.epoch ∧ f.wave = x.cell.wave ∧
        f.mapBank = x.cell.mapBank ∧ f.pulses = firingPulses s.dev.adapters[h] x cell.row.toNat

/-- A write to DRAM changes no byte outside its range. While requests are held it changes no byte and waits with the others (R254); otherwise,
where no granule of the range is poisoned, the range then reads the written bytes, and nothing is poisoned or recorded (R248). The canonical form of
the DRAM's bytes is the invariant of EveryStepKeepsTheInvariant. -/
def Obligations.DramWriteFrame : Prop :=
  ∀ (source a : Nat) (bs : List U8) (d : Device), d.dram.data.wf = true →
    let t := dramWrite source a bs d
    (∀ x, x < a ∨ a + bs.length ≤ x → memGet t.dram.data x = memGet d.dram.data x) ∧
      (holdsRequests d = true → t.dram.data = d.dram.data ∧ t.dram.waiting = d.dram.waiting ++ [⟨finOf 10 source, a, some bs, 0, []⟩]) ∧
      (holdsRequests d = false → (∀ g ∈ d.dram.poison, ¬ (a / 32 ≤ g ∧ 32 * g < a + bs.length)) →
        dramRead t a bs.length = bs ∧ t.dram.poison = d.dram.poison ∧ t.dram.errors = d.dram.errors)

/-- The rows that write to DRAM change no byte outside the places named: a host write through BAR2, a request of a source, a mirror frame, a forager
read of host memory, and a block of cz.compress with the index that it may end. cz.decompress and a decompressor that goes on write nothing then. -/
def StoringRowsFrame : Prop :=
  (∀ offset write len s, StoresWithin (.bar2Access offset write len) s [(s.dev.mbx.bar2Base + offset, len)]) ∧
    (∀ r s, StoresWithin (.dramRequest r) s [(r.addr, reqSize r)]) ∧
    (∀ f addr data s, StoresWithin (.mirrorFrameReceived f addr data) s [(addr.toNat, data.length)]) ∧
    (∀ buffer data s, StoresWithin (.foragerReadDone buffer data) s
      (((s.dev.mbx.buffers.find? (fun r => r.buffer == buffer)).toList).map (fun r => (r.dest, r.len)))) ∧
    (∀ engine s, StoresWithin (.blockCompressed engine) s (match s.dev.cz.jobs.find? (fun j => j.engine == some engine) with
      | some j => [(j.dest, (fkzCompress (dramRead s.dev j.src (min 65536 j.left)) j.depth).length)]
          ++ (if j.left ≤ 65536 ∧ j.index ≠ 0 then [(j.index, 8 + 8 * (j.blocks.length + 1))] else [])
      | none => [])) ∧
    (∀ c s, StoresWithin (.czDecompress c) s []) ∧ ∀ engine free s, StoresWithin (.decompressorResume engine free) s []

/-- The parts of longer rows that write to DRAM change no byte outside the places named: the bytes of a cz.decompress that ends, of a job data write
(DATA_FRAME_RECEIVED), of the captures that a screened line serves (SCREEN_LINE), of a camera stream's ring (the rows that close a band), and of a
colour's correction history. -/
def StoringPartsFrame : Prop :=
  ∀ d : Device, d.dram.data.wf = true →
    (∀ j, SameOutside [(j.dest, (outputOf (fkzDecode j.block) (fkzOrig j.block)
      (countDec (freeEngine d) j.block.length (fkzDecode j.block) { d with cz := { d.cz with decs := d.cz.decs.erase j } })).1.length)] d
      (endDecompress j d)) ∧
    (∀ f, SameOutside [(leAt f.payload 0 8, f.payload.length - 8)] d (takeJobData f d)) ∧
    (∀ h g sc, SameOutside (d.mbx.inFlight.filterMap (fun e => match e.work with
      | .capture k j l dest => if k = h ∧ j = g.job ∧ l = w32 (g.base + g.s) then
          some (dest, (packCodes (dirOf (getBank d .thresh).active h.val).bits sc.codes).length) else none
      | _ => none)) d (putScreened h g sc d)) ∧
    (∀ p c b k n, SameOutside [(d.cams.streams[n].ringAddr, d.cams.streams[n].ringSize)] d (streamBand p c b k n d).2) ∧
    ∀ k : Plane, SameOutside [(d.loop.workBase + 49152 * (128 * k.val + d.loop.colours[k].gen.toNat % 128), 49152)] d (storeHistory k d)

/-- The commands that copy to DRAM change no byte of DRAM outside what they write: 8,744 bytes of a latched set, 32 bytes for each violation
read, the records of sys.nv_status, 8 bytes for each substitution read, the route table, the results of the loop and of its check, the memory errors
and the reconciliation's words; nor do the other rows that write to DRAM, and the parts of longer rows that do. -/
def Obligations.StoringCommandsFrame : Prop :=
  StoringRowsFrame ∧ StoringPartsFrame ∧ ∀ s : State,
    sysLatchedReadRule.StoresOnlyAt .sysLatchedRead s (fun a _ => (argN a 2, 8744)) ∧
      sysViolationReadRule.StoresOnlyAt .sysViolationRead s (fun a _ => (argN a 0, 32 * argN a 2)) ∧
      sysNvStatusRule.StoresOnlyAt .sysNvStatus s (fun a d => (argN a 0, (nvBody d).length)) ∧
      subReadRule.StoresOnlyAt .subRead s (fun a _ => (argN a 0, 8 * argN a 2)) ∧
      fabricRoutesRule.StoresOnlyAt .fabricRoutes s (fun a _ => (argN a 0, 512)) ∧
      (loopReadRule s.dev).StoresOnlyAt .loopRead s
        (fun a d => (argN a 2, d.loop.bins * (if argN a 1 = 0 then 2 else if argN a 1 = 2 then 1 else 4))) ∧
      loopCheckReadRule.StoresOnlyAt .loopCheckRead s (fun a _ => (argN a 0, 16 * argN a 1)) ∧
      memErrorsRule.StoresOnlyAt .memErrors s (fun a _ => (argN a 0, 32 * argN a 1)) ∧
      redReconcileRule.StoresOnlyAt .redReconcile s (fun a _ => (argN a 0, 480))
end

