-- ==== Sys2Proof/Laws/Adapters.lean ====
section
/-! SUPPORT. One lemma per operation of a head adapter: it changes no other adapter and no other part of the device. -/
namespace Sys2Proof.Machine

/-- Two devices differ at most in one adapter and the count of free values. -/
structure OnlyAdapter (h : Head) (a b : Device) : Prop where
  eq : b = { a with adapters := b.adapters, chip := { a.chip with drawn := b.chip.drawn } }
  other : ∀ k, k ≠ h → b.adapters[k] = a.adapters[k]

theorem OnlyAdapter.refl (h : Head) (d : Device) : OnlyAdapter h d d := ⟨rfl, fun _ _ => rfl⟩

theorem OnlyAdapter.trans {h : Head} {a b c : Device} (x : OnlyAdapter h a b) (y : OnlyAdapter h b c) : OnlyAdapter h a c := by
  refine ⟨?_, fun k hk => (y.other k hk).trans (x.other k hk)⟩
  have h1 := x.eq; have h2 := y.eq
  rw [h2]; rw [h1]

theorem modAdapter_only (h : Head) (f : Adapter → Adapter) (a d : Device) (x : OnlyAdapter h a d) : OnlyAdapter h a (modAdapter d h f) :=
    by
  refine x.trans ⟨rfl, fun k hk => ?_⟩
  have hk : h.val ≠ k.val := fun e => hk (Fin.ext e.symm)
  simp [modAdapter, upd, hk]

theorem ite_only {h : Head} {a x y : Device} {c : Prop} [Decidable c] (h1 : OnlyAdapter h a x) (h2 : OnlyAdapter h a y) : OnlyAdapter h a
    (if c then x else y) := by split <;> assumption

theorem draw_only (h : Head) (a d : Device) (x : OnlyAdapter h a d) : OnlyAdapter h a (draw d).2 := x.trans ⟨rfl, fun _ _ => rfl⟩

theorem modAdPort_only (h : Head) (p : Bool) (f : AdPort → AdPort) (a d : Device) (x : OnlyAdapter h a d) : OnlyAdapter h a (modAdPort h p
    f d) := by
  unfold modAdPort; exact modAdapter_only _ _ _ _ x

theorem pair_only {h : Head} {α : Type} {p : α × Device} {x : α} {a d : Device} (e : p = (x, d)) (k : OnlyAdapter h a p.2) : OnlyAdapter h
    a d := by subst e; exact k


theorem ite_snd_only {h : Head} {a : Device} {α : Type} {x y : α × Device} {c : Prop} [Decidable c] (h1 : OnlyAdapter h a x.2) (h2 :
    OnlyAdapter h a y.2) : OnlyAdapter h a (if c then x else y).2 := by split <;> assumption

theorem sendStatus_only (h : Head) (port : Bool) (id : Nat) (sub : BitVec 4) (echo : U16) (payload : List U8) (a d : Device) (x :
    OnlyAdapter h a d) : OnlyAdapter h a (sendStatus h port id sub echo payload d).2 := modAdPort_only _ _ _ _ _ x

theorem sendReport_only (h : Head) (port : Bool) (id : Nat) (echo : U16) (a d : Device) (x : OnlyAdapter h a d) : OnlyAdapter h a
    (sendReport h port id echo d).2 := by
  unfold sendReport; exact modAdPort_only _ _ _ _ _ (sendStatus_only _ _ _ _ _ _ _ _ x)

theorem discardCell_only (h : Head) (p : Bool) (a d : Device) (x : OnlyAdapter h a d) : OnlyAdapter h a (discardCell h p d) :=
    modAdPort_only _ _ _ _ _ x

theorem badCrcCell_only (h : Head) (p : Bool) (a d : Device) (x : OnlyAdapter h a d) : OnlyAdapter h a (badCrcCell h p d) :=
    modAdPort_only _ _ _ _ _ x

theorem urgentReport_only (h : Head) (port : Bool) (id : Nat) (a d : Device) (x : OnlyAdapter h a d) : OnlyAdapter h a (urgentReport h
    port id d) := by
  unfold urgentReport; exact ite_only (sendReport_only _ _ _ _ _ _ x) x

theorem rejectEpoch_only (h : Head) (port : Bool) (id : Nat) (a d : Device) (x : OnlyAdapter h a d) : OnlyAdapter h a (rejectEpoch h port
    id d) :=
  urgentReport_only _ _ _ _ _ (modAdPort_only _ _ _ _ _ (discardCell_only _ _ _ _ x))

theorem raiseEpoch_only (h : Head) (e : U32) (a d : Device) (x : OnlyAdapter h a d) : OnlyAdapter h a (raiseEpoch h e d) := by
  unfold raiseEpoch; exact ite_only (modAdapter_only _ _ _ _ x) x

theorem holdLine_only (h : Head) (port : Bool) (f : AdapterFacts) (c : LineCell) (a d : Device) (x : OnlyAdapter h a d) : OnlyAdapter h a
    (holdLine h port f c d) := by
  unfold holdLine
  repeat' (first | with_reducible assumption | with_reducible apply ite_only | with_reducible apply discardCell_only | with_reducible
      apply urgentReport_only | with_reducible apply modAdPort_only | with_reducible apply modAdapter_only)

theorem takeFire_only (h : Head) (cell : FireCell) (y : HeldLine) (a d : Device) (x : OnlyAdapter h a d) : OnlyAdapter h a (takeFire h
    cell y d) := modAdapter_only _ _ _ _ x

theorem applyControl_only (h : Head) (f : AdapterFacts) (c : ControlCell) (a d : Device) (x : OnlyAdapter h a d) : OnlyAdapter h a
    (applyControl h f c d) := by
  unfold applyControl
  dsimp only
  repeat' (first | with_reducible assumption | with_reducible apply ite_only | with_reducible apply modAdapter_only | split)

theorem witnessPayload_only (h : Head) (port : Bool) (a d : Device) (x : OnlyAdapter h a d) : OnlyAdapter h a (witnessPayload h port d).2
    := by
  unfold witnessPayload
  dsimp only
  repeat' (first | with_reducible assumption | with_reducible apply draw_only | with_reducible apply ite_snd_only | split)

theorem replyTo_only (h : Head) (port : Bool) (f : AdapterFacts) (c : ControlCell) (a d : Device) (x : OnlyAdapter h a d) : OnlyAdapter h
    a (replyTo h port f c d).2 := by
  unfold replyTo
  dsimp only
  repeat' (first | with_reducible assumption | with_reducible apply draw_only | with_reducible apply sendStatus_only | with_reducible
      apply sendReport_only | with_reducible apply witnessPayload_only | split)

theorem newControl_only (h : Head) (port : Bool) (f : AdapterFacts) (c : ControlCell) (a d : Device) (x : OnlyAdapter h a d) : OnlyAdapter
    h a (newControl h port f c d) := by
  unfold newControl
  dsimp only
  repeat' (first | with_reducible assumption | with_reducible apply ite_only | with_reducible apply rejectEpoch_only | with_reducible
      apply modAdPort_only | with_reducible apply replyTo_only | with_reducible apply applyControl_only | with_reducible apply
      raiseEpoch_only)

end Sys2Proof.Machine
end

