-- ==== Sys2Proof/Laws/Commands.lean ====
section
/-! SUPPORT. What the shared operations over Mervan commands can do: every one answers a next state, and one that passes its checks runs its
own rule. -/
namespace Sys2Proof.Machine

/-- A Mervan command always answers a next state with the queue unchanged. -/
theorem mervan_next (g : Sig) (body : Cmd → List Int → Device → Done) (c : Cmd) (s : State) :
    ∃ d, mervan g body c s = next s d := by
  unfold mervan
  split <;> exact ⟨_, rfl⟩

/-- A command with right arguments in a right state runs its own rule. -/
theorem checkAndRun_ok {g : Sig} {c : Cmd} {a : List Int} {d : Device} (body : Cmd → List Int → Device → Done)
    (h : stateOk g c a d = true) : checkAndRun g c body a d = body c a (readRanges g a d) := by
  simp only [stateOk, Bool.and_eq_true, Bool.not_eq_true', decide_eq_false_iff_not] at h
  obtain ⟨⟨⟨⟨⟨⟨⟨⟨h1, h2⟩, h3⟩, h4⟩, h5⟩, h6⟩, h7⟩, h8⟩, h9⟩ := h
  simp only [checkAndRun, h1, h2, h3, h4, h5, h6, h7, h8, h9, Bool.false_eq_true, if_false]

/-- A command for this device passes R345's checks 2 to 4. -/
theorem checked_args {g : Sig} {c : Cmd} {a : List Int} {d : Device} (body : Cmd → List Int → Device → Done)
    (hn : forHere c d = true) (hm : modeOk g d = true) (ha : argsOf g c = some a) : checked g c body d = checkAndRun g c body a d := by
  simp only [forHere, Bool.and_eq_true, Bool.not_eq_true', bne_iff_ne, ne_eq] at hn
  obtain ⟨h255, hr⟩ := hn
  simp only [modeOk, Bool.not_eq_true'] at hm
  unfold argsOf at ha
  split at ha
  · cases ha
  · rename_i hf
    split at ha
    · rename_i b hp
      cases ha
      simp only [Bool.or_eq_true, Bool.not_eq_true', bne_iff_ne, ne_eq, not_or] at hf
      obtain ⟨⟨⟨⟨h1, h2⟩, h3⟩, h4⟩, h5⟩ := hf
      have h1 : argsFit c.args g.args g.rep = true := by simpa using h1
      have hz : ¬ (c.rsvTag ≠ 0 ∨ c.rsvFlag ≠ 0 ∨ c.rsvNode ≠ 0 ∨ c.rsvWord ≠ 0) := by tauto
      unfold checked
      rw [if_neg (by rw [hm]; exact Bool.false_ne_true), if_neg h255, if_neg (by rw [hr]; exact Bool.false_ne_true)]
      simp only [h1, Bool.not_true, Bool.false_eq_true, if_false]
      rw [if_neg hz, hp]
    · cases ha

/-- No relaying for a command of this device. -/
theorem relayedOut_here {c : Cmd} {d : Device} (h : forHere c d = true) : relayedOut c d = false := by
  simp only [forHere, Bool.and_eq_true, Bool.not_eq_true'] at h
  exact h.2

/-- A command that passes the entry checks is accepted (Table 14.4). -/
theorem enter_ok {g : Sig} {c : Cmd} {d : Device} (body : Cmd → List Int → Device → Done)
    (hf : formOk g c d = true) (hq : seqFree c d = true) (hh : forHere c d = true) : enter g c body d = accept g c body d := by
  have hr := relayedOut_here hh
  simp only [formOk, Bool.and_eq_true] at hf
  obtain ⟨h1, h2⟩ := hf
  simp only [seqFree, Bool.and_eq_true, Bool.not_eq_true'] at hq
  obtain ⟨⟨q1, q2⟩, q3⟩ := hq
  have hk : (d.mbx.remembered.find? (fun m => m.key == keyOf c.origin && m.seq == c.seq)) = none := by
    rw [List.find?_eq_none]
    intro m hm hb
    rw [List.any_eq_false] at q2
    exact q2 m hm hb
  unfold enter
  simp only [hr, hk, q1, Bool.not_false, Bool.true_and, Bool.false_eq_true, if_false, if_true]
  cases ho : c.origin <;>
    simp_all [isRelay, sizeLimit, noTag]
  rw [if_neg (by omega), if_neg]
  rintro (h | ⟨x, hx, ⟨hxo, hxa⟩, hxt⟩)
  · omega
  · exact q3.2 x hx hxo hxa hxt

/-- A command that is entered goes to the checks of R345 that follow its arguments. -/
theorem mervan_entered {g : Sig} {c : Cmd} {s : State} {d : Device} {a : List Int} (body : Cmd → List Int → Device → Done)
    (h : entered g c s.dev = some (d, a)) : mervan g body c s = next s (settle g c (checkAndRun g c body a d)) := by
  unfold entered at h
  unfold mervan
  split at h
  · cases h
  · rename_i d1 hd
    try rw [hd]
    split at h
    · rename_i hc
      simp only [Bool.and_eq_true, Bool.not_eq_true'] at hc
      obtain ⟨⟨⟨⟨hf, hq⟩, hh⟩, hm⟩, hz⟩ := hc
      simp only [Option.map_eq_some_iff, Prod.mk.injEq] at h
      obtain ⟨a1, ha, rfl, rfl⟩ := h
      show next s (enter g c body d1) = _
      rw [enter_ok body hf hq hh]
      unfold accept
      simp only [hz, Bool.false_and, Bool.false_eq_true, if_false, checked_args body hh hm ha]
    · cases h

/-- A command that is accepted and passes every check runs its own rule, and its outcome is settled. -/
theorem mervan_accepted {g : Sig} {c : Cmd} {s : State} {d : Device} {a : List Int} (body : Cmd → List Int → Device → Done)
    (h : accepted g c s.dev = some (d, a)) : mervan g body c s = next s (settle g c (body c a d)) := by
  simp only [accepted, Option.map_eq_some_iff, Option.filter_eq_some_iff, Prod.mk.injEq] at h
  obtain ⟨x, ⟨h1, h2⟩, rfl, rfl⟩ := h
  rw [mervan_entered body h1, checkAndRun_ok body h2]

/-- A rule holds in a state once its effect is the meaning's under the rule's condition. -/
theorem Rule.holdsAt_of {r : Rule} {i : Cmd → Instr} {s : State} {body : Cmd → List Int → Device → Done}
    (he : ∀ c, exec (i c) s = mervan r.sig body c s) (hb : ∀ c a d, r.can c a d = true → body c a d = r.out c a d) : r.HoldsAt i s := by
  intro c d a h hc
  rw [he, mervan_accepted body h, hb c a d hc]
  rfl

/-- A rule holds once its effect is the meaning's under the rule's condition. -/
theorem Rule.holds_of {r : Rule} {i : Cmd → Instr} {body : Cmd → List Int → Device → Done}
    (he : ∀ c s, exec (i c) s = mervan r.sig body c s) (hb : ∀ c a d, r.can c a d = true → body c a d = r.out c a d) : r.Holds i :=
  fun s => Rule.holdsAt_of (fun c => he c s) hb

/-- A command that is entered and fails the first check of R345 that its condition names is turned away. -/
theorem Rule.turnsAwayAt_of {r : Rule} {i : Cmd → Instr} {s : State} {st : Status} {why : Reason} {cond : List Int → Device → Prop}
    {body : Cmd → List Int → Device → Done} (he : ∀ c, exec (i c) s = mervan r.sig body c s)
    (hb : ∀ c a d, cond a d → checkAndRun r.sig c body a d = no d st why) :
    r.TurnsAwayAt i s st why cond := by
  intro c d a h hc
  rw [he, mervan_entered body h, hb c a d hc]
  rfl

/-- A gated command checks the seal and the presence window first. -/
theorem Rule.needsSealAndPresence_of {r : Rule} {i : Cmd → Instr} {body : Cmd → List Int → Device → Done} (hg : r.sig.gated = true)
    (he : ∀ c s, exec (i c) s = mervan r.sig body c s) : r.NeedsSealAndPresence i := by
  refine ⟨hg, fun s => ⟨turnsAwayAt_of (fun c => he c s) (fun c a d h => ?_), turnsAwayAt_of (fun c => he c s) (fun c a d h => ?_)⟩⟩
  · rcases h with h | ⟨h1, h2⟩
    · simp [checkAndRun, hg, h]
    · have h2 : (r.sig.opcode != 0x000B) = true := by simpa using h2
      unfold checkAndRun
      rw [if_pos (by simp only [hg, h1, h2, Bool.true_and, Bool.or_true])]
  · obtain ⟨h1, h2, h3⟩ := h
    cases hl : d.prs.latch with
    | false => simp [checkAndRun, hg, h1, h3, hl]
    | true => simp [checkAndRun, hg, h1, h3, h2 hl]

/-- A command checks the ranges that its arguments name before its own rule. -/
theorem Rule.checksRangesAt_of {r : Rule} {i : Cmd → Instr} {s : State} {body : Cmd → List Int → Device → Done}
    (he : ∀ c, exec (i c) s = mervan r.sig body c s) : r.ChecksRangesAt i s := by
  refine turnsAwayAt_of he (fun c a d h => ?_)
  obtain ⟨h1, h2, h4⟩ := h
  unfold checkAndRun
  rw [if_neg, if_neg, if_neg (by simp [h2]), if_pos h4]
  · intro h
    simp only [Bool.and_eq_true] at h
    have := h1 h.1
    simp_all
  · intro h
    simp only [Bool.and_eq_true] at h
    have := h1 h.1
    simp_all

/-- Taking a command rests on its opcode and on its use of DRAM. -/
theorem takeFront_congr {g r : Sig} {c : Cmd} {a d : Device} (h : g.opcode = r.opcode ∧ g.dram = r.dram ∧ g.sweeps = r.sweeps)
    (e : takeFront r c a = some d) : takeFront g c a = some d := by
  rw [← e, takeFront, takeFront, waitsForDram, waitsForDram, h.1, h.2.1, h.2.2]

/-- A command checks its CRC. -/
theorem Rule.checksCrc_of {r : Rule} {i : Cmd → Instr} {body : State → Cmd → List Int → Device → Done} {g : State → Sig}
    (he : ∀ c s, exec (i c) s = mervan (g s) (body s) c s) (hg : ∀ s, (g s).opcode = r.sig.opcode ∧ (g s).dram = r.sig.dram ∧ (g s).sweeps = r.sig.sweeps := by
      exact fun _ => ⟨rfl, rfl, rfl⟩)
    : r.ChecksCrc i := by
  intro s c d hd hr h20 hl h4 hc
  have ho := (hg s).1
  have hd' := takeFront_congr (hg s) hd
  rw [he]
  unfold mervan
  rw [hd']
  show next s (enter (g s) c (body s) d) = _
  have ht : tagless (g s) = tagless r.sig := by
    funext c st why d
    simp only [tagless, cmdHeader, ho]
  have hl' : ∀ n, sizeLimit d c.origin = n → c.length.toNat ≤ n := fun n h => h ▸ hl
  have hc' : (c.crc != cmdCrc (g s).opcode (uidOf d c.origin) c) = true := by rw [ho]; simpa using hc
  unfold enter
  rcases hor : c.origin with _ | _ | ⟨_, _⟩ <;> simp_all [sizeLimit, isRelay, next, Nat.not_lt.mpr]

/-- A command that repeats a remembered one is answered from memory. -/
theorem Rule.answersRepeats_of {r : Rule} {i : Cmd → Instr} {body : State → Cmd → List Int → Device → Done} {g : State → Sig}
    (he : ∀ c s, exec (i c) s = mervan (g s) (body s) c s) (hg : ∀ s, (g s).opcode = r.sig.opcode ∧ (g s).dram = r.sig.dram ∧ (g s).sweeps = r.sig.sweeps := by
      exact fun _ => ⟨rfl, rfl, rfl⟩)
    : r.AnswersRepeats i := by
  intro s c d m hd hf hr hi hm ho hl hdg
  have hog := (hg s).1
  have hd' := takeFront_congr (hg s) hd
  rw [he]
  unfold mervan
  rw [hd']
  show next s (enter (g s) c (body s) d) = _
  have ht : duplicate (g s) = duplicate r.sig := by
    funext c m d
    simp only [duplicate, hog]
  have hf' : formOk (g s) c d = true := by
    unfold formOk at hf ⊢
    rw [hog]
    exact hf
  have h1 : (!isRelay c.origin && (decide (c.length.toNat < 20) || decide (sizeLimit d c.origin < c.length.toNat) || c.length.toNat % 4 != 0)) = false := by
    simp only [formOk, Bool.and_eq_true, Bool.or_eq_true] at hf'
    rcases hf'.1 with h | h
    · simp [h]
    · simp_all [Nat.not_lt.mpr]
  have h2 : (!isRelay c.origin && c.crc != cmdCrc (g s).opcode (uidOf d c.origin) c) = false := by
    simp only [formOk, Bool.and_eq_true, Bool.or_eq_true] at hf'
    rcases hf'.2 with h | h
    · simp [h]
    · simp_all
  unfold enter
  rcases hor : c.origin with _ | _ | ⟨_, _⟩ <;> simp_all [sizeLimit, isRelay, next]
  all_goals rw [if_neg (by omega), if_neg (fun ⟨x, hx, hk, hq⟩ => hi x hx hk hq)]

end Sys2Proof.Machine
end

