-- ==== Sys2Proof/Laws/Frame.lean ====
section
/-! SUPPORT. How the shared shapes of the model's text (an update of some fields, a choice, a fold, a pair, the outcome of a command) leave the
other fields of the device as they are. The files beside this one say for every operation which fields it may change. -/
namespace Sys2Proof.Machine

/-- Every field of the first list is in the second. -/
def within (a b : List DevField) : Bool := a.all b.contains

theorem within_trans {a b c : List DevField} (h : within a b = true) (k : within b c = true) : within a c = true :=
  List.all_eq_true.mpr fun f hf => List.all_eq_true.mp k f (by simpa using List.all_eq_true.mp h f hf)

theorem Keeps.refl (ch : List DevField) (d : Device) : Keeps ch d d := ⟨fun f _ => by cases f <;> rfl⟩

theorem DevField.Same.trans {f : DevField} {a b c : Device} (h : f.Same a b) (k : f.Same b c) : f.Same a c := by
  cases f <;> exact Eq.trans k h

/-- A step that changes fewer fields. -/
theorem Keeps.step {c ch : List DevField} {a d e : Device} (hg : Keeps c d e) (hc : within c ch = true) (h : Keeps ch a d) :
    Keeps ch a e := by
  refine ⟨fun f hf => (h.same f hf).trans (hg.same f fun hm => hf ?_)⟩
  have := List.all_eq_true.mp hc f hm
  simpa using this

theorem Keeps.trans {ch : List DevField} {a d e : Device} (h : Keeps ch a d) (hg : Keeps ch d e) : Keeps ch a e :=
  ⟨fun f hf => (h.same f hf).trans (hg.same f hf)⟩

theorem keeps_ite {ch : List DevField} {c : Prop} [Decidable c] {a x y : Device} (hx : Keeps ch a x) (hy : Keeps ch a y) :
    Keeps ch a (if c then x else y) := by
  split <;> assumption

theorem keeps_ite_snd {ch : List DevField} {α : Type} {c : Prop} [Decidable c] {a : Device} {x y : α × Device} (hx : Keeps ch a x.2)
    (hy : Keeps ch a y.2) : Keeps ch a (if c then x else y).2 := by
  split <;> assumption

theorem keeps_foldl {ch : List DevField} {α : Type} {l : List α} {f : Device → α → Device} {a d : Device}
    (hf : ∀ d x, Keeps ch d (f d x)) (h : Keeps ch a d) : Keeps ch a (l.foldl f d) := by
  induction l generalizing d with
  | nil => exact h
  | cons x l ih => exact ih (h.trans (hf _ _))

theorem keeps_foldl_snd {ch : List DevField} {α β : Type} {l : List α} {f : β × Device → α → β × Device} {a : Device} {p : β × Device}
    (hf : ∀ p x, Keeps ch p.2 (f p x).2) (h : Keeps ch a p.2) : Keeps ch a (l.foldl f p).2 := by
  induction l generalizing p with
  | nil => exact h
  | cons x l ih => exact ih (h.trans (hf _ _))

theorem keeps_ite_fst {ch : List DevField} {α : Type} {c : Prop} [Decidable c] {a : Device} {x y : Device × α} (hx : Keeps ch a x.1)
    (hy : Keeps ch a y.1) : Keeps ch a (if c then x else y).1 := by
  split <;> assumption

theorem keeps_foldl_fst {ch : List DevField} {α β : Type} {l : List α} {f : Device × β → α → Device × β} {a : Device} {p : Device × β}
    (hf : ∀ p x, Keeps ch p.1 (f p x).1) (h : Keeps ch a p.1) : Keeps ch a (l.foldl f p).1 := by
  induction l generalizing p with
  | nil => exact h
  | cons x l ih => exact ih (h.trans (hf _ _))

theorem keeps_pair {ch : List DevField} {α : Type} {p : α × Device} {x : α} {a d : Device} (e : p = (x, d)) (h : Keeps ch a p.2) :
    Keeps ch a d := by
  subst e
  exact h

/-- The device of an option keeps what is not listed. -/
def OptKeeps (ch : List DevField) (a : Device) : Option Device → Prop
  | some d => Keeps ch a d
  | none => True

/-- The devices of a command's own outcome keep what is not listed. -/
def DoneKeeps (ch : List DevField) (a : Device) : Done → Prop
  | .reply _ d => Keeps ch a d
  | .after _ d f => Keeps ch a d ∧ ∀ e, Keeps ch e (f e)
  | .later _ d => Keeps ch a d

section
variable {c ch : List DevField} {a d : Device}

theorem optKeeps_some (h : Keeps ch a d) : OptKeeps ch a (some d) := h
theorem optKeeps_none : OptKeeps ch a none := trivial
theorem keeps_opt {o : Option Device} (e : o = some d) (h : OptKeeps ch a o) : Keeps ch a d := by
  subst e
  exact h
theorem optKeeps_step {o : Option Device} (hg : OptKeeps c d o) (hc : within c ch = true) (h : Keeps ch a d) : OptKeeps ch a o := by
  cases o with
  | none => trivial
  | some e => exact Keeps.step (e := e) hg hc h

theorem no_doneKeeps (d : Device) (st : Status) (r : Reason) (n : Nat) : DoneKeeps ch d (no d st r n) := Keeps.refl _ _

theorem doneKeeps_ite {p : Prop} [Decidable p] {x y : Done} (hx : DoneKeeps ch a x) (hy : DoneKeeps ch a y) :
    DoneKeeps ch a (if p then x else y) := by
  split <;> assumption
theorem doneKeeps_reply {r : Reply} (h : Keeps ch a d) : DoneKeeps ch a (.reply r d) := h
theorem doneKeeps_later {w : Work} (h : Keeps ch a d) : DoneKeeps ch a (.later w d) := h
theorem doneKeeps_after {r : Reply} {f : Device → Device} (h : Keeps ch a d) (hf : ∀ e, Keeps ch e (f e)) :
    DoneKeeps ch a (.after r d f) := ⟨h, hf⟩
theorem doneKeeps_trans {x : Done} (h : Keeps ch a d) (hg : DoneKeeps ch d x) : DoneKeeps ch a x := by
  cases x with
  | reply r e => exact h.trans (e := e) hg
  | after r e f => exact ⟨h.trans hg.1, hg.2⟩
  | later w e => exact h.trans (e := e) hg
theorem doneKeeps_step {x : Done} (hg : DoneKeeps c d x) (hc : within c ch = true) (h : Keeps ch a d) : DoneKeeps ch a x := by
  cases x with
  | reply r e => exact Keeps.step (e := e) hg hc h
  | after r e f => exact ⟨Keeps.step hg.1 hc h, fun e => Keeps.step (hg.2 e) hc (Keeps.refl _ _)⟩
  | later w e => exact Keeps.step (e := e) hg hc h
end

section
variable (d : Device) (chip : Chip) (mbx : Mbx) (vlog : Vlog) (acct : Acct) (jobs : Jobs) (feed : Feed) (banks : Banks) (engines :
    Vector Engine 40) (pos : Pos) (sheet : Sheet) (fire : Fire) (links : Vector HeadLink 40) (adapters : Vector Adapter 40) (drive :
    Drive) (cams : Cams) (loop : Loop) (cz : Cz) (crcs : Vector CrcUnit 8) (dram : Dram) (lanes : Vector Lane 49) (fabric : Fabric) (red
    : Red) (pwr : Pwr) (therm : Therm) (prs : Prs) (nv : Nv) (sz : Sz)

/-- A device of which the last field stays. -/
def restSz : Device :=
  Device.mk chip mbx vlog acct jobs feed banks engines pos sheet fire links adapters drive cams loop cz crcs dram lanes fabric red
    pwr therm prs nv d.sz
/-- A device of which the first field stays. -/
def restChip : Device :=
  Device.mk d.chip mbx vlog acct jobs feed banks engines pos sheet fire links adapters drive cams loop cz crcs dram lanes fabric
    red pwr therm prs nv sz

theorem restSz_fold : Device.mk chip mbx vlog acct jobs feed banks engines pos sheet fire links adapters drive cams loop cz crcs
      dram lanes fabric red pwr therm prs nv d.sz =
    restSz d chip mbx vlog acct jobs feed banks engines pos sheet fire links adapters drive cams loop cz crcs dram lanes fabric red
      pwr therm prs nv := rfl
theorem restChip_fold : Device.mk d.chip mbx vlog acct jobs feed banks engines pos sheet fire links adapters drive cams loop cz crcs
      dram lanes fabric red pwr therm prs nv sz =
    restChip d mbx vlog acct jobs feed banks engines pos sheet fire links adapters drive cams loop cz crcs dram lanes fabric red pwr
      therm prs nv sz := rfl

theorem keeps_sz {ch : List DevField} {a : Device} (h : Keeps ch a d)
    (e : Keeps ch d (Device.mk chip mbx vlog acct jobs feed banks engines pos sheet fire links adapters drive cams loop cz crcs dram lanes
      fabric red pwr therm prs nv d.sz)) :
    Keeps ch a (restSz d chip mbx vlog acct jobs feed banks engines pos sheet fire links adapters drive cams loop cz crcs dram lanes
      fabric red pwr therm prs nv) :=
  h.trans e
theorem keeps_chip {ch : List DevField} {a : Device} (h : Keeps ch a d)
    (e : Keeps ch d (Device.mk d.chip mbx vlog acct jobs feed banks engines pos sheet fire links adapters drive cams loop cz crcs dram lanes
      fabric red pwr therm prs nv sz)) :
    Keeps ch a (restChip d mbx vlog acct jobs feed banks engines pos sheet fire links adapters drive cams loop cz crcs dram lanes fabric
      red pwr therm prs nv sz) :=
  h.trans e
end

end Sys2Proof.Machine
end

