-- ==== Sys2Proof/Laws/FrameOps.lean ====
section
/-! SUPPORT. One lemma per operation over a device: the fields that the shared operations may change. -/
namespace Sys2Proof.Machine

/-! Flags.lean -/

theorem wakeCores_keeps {ch : List DevField} {a : Device} (d : Device) (hc : within [.pwr] ch = true) (hk : Keeps ch a d) : Keeps ch a
    (wakeCores d) := by
  refine Keeps.step ?_ hc hk
  unfold wakeCores
  repeat' (first
      | with_reducible exact Keeps.refl _ _ | with_reducible assumption | intro _ | with_reducible apply keeps_ite | dsimp only
      | (rw [restSz_fold]; refine keeps_sz (h := ?_) (e := ⟨fun f hf => by cases f <;> first | exact absurd (by decide) hf | dsimp only [DevField.Same, Chip.own]⟩) ..))

/-! Ops.lean -/

theorem modLink_keeps {ch : List DevField} {a : Device} (d : Device) (h : Head) (f : HeadLink → HeadLink) (hc : within [.links] ch = true)
    (hk : Keeps ch a d) : Keeps ch a (modLink d h f) := by
  refine Keeps.step ?_ hc hk
  unfold modLink
  repeat' (first
      | with_reducible exact Keeps.refl _ _ | with_reducible assumption | intro _
      | (rw [restSz_fold]; refine keeps_sz (h := ?_) (e := ⟨fun f hf => by cases f <;> first | exact absurd (by decide) hf | dsimp only [DevField.Same, Chip.own]⟩) ..))

theorem modAdapter_keeps {ch : List DevField} {a : Device} (d : Device) (h : Head) (f : Adapter → Adapter) (hc : within [.adapters] ch =
    true) (hk : Keeps ch a d) : Keeps ch a (modAdapter d h f) := by
  refine Keeps.step ?_ hc hk
  unfold modAdapter
  repeat' (first
      | with_reducible exact Keeps.refl _ _ | with_reducible assumption | intro _
      | (rw [restSz_fold]; refine keeps_sz (h := ?_) (e := ⟨fun f hf => by cases f <;> first | exact absurd (by decide) hf | dsimp only [DevField.Same, Chip.own]⟩) ..))

theorem modEngine_keeps {ch : List DevField} {a : Device} (d : Device) (h : Head) (f : Engine → Engine) (hc : within [.engines] ch = true)
    (hk : Keeps ch a d) : Keeps ch a (modEngine d h f) := by
  refine Keeps.step ?_ hc hk
  unfold modEngine
  repeat' (first
      | with_reducible exact Keeps.refl _ _ | with_reducible assumption | intro _
      | (rw [restSz_fold]; refine keeps_sz (h := ?_) (e := ⟨fun f hf => by cases f <;> first | exact absurd (by decide) hf | dsimp only [DevField.Same, Chip.own]⟩) ..))

theorem modCam_keeps {ch : List DevField} {a : Device} (d : Device) (p : Port) (f : Cam → Cam) (hc : within [.cams] ch = true) (hk : Keeps
    ch a d) : Keeps ch a (modCam d p f) := by
  refine Keeps.step ?_ hc hk
  unfold modCam
  repeat' (first
      | with_reducible exact Keeps.refl _ _ | with_reducible assumption | intro _ | dsimp only
      | (rw [restSz_fold]; refine keeps_sz (h := ?_) (e := ⟨fun f hf => by cases f <;> first | exact absurd (by decide) hf | dsimp only [DevField.Same, Chip.own]⟩) ..))

theorem modPort_keeps {ch : List DevField} {a : Device} (d : Device) (p : Port) (f : FPort → FPort) (hc : within [.fabric] ch = true) (hk
    : Keeps ch a d) : Keeps ch a (modPort d p f) := by
  refine Keeps.step ?_ hc hk
  unfold modPort
  repeat' (first
      | with_reducible exact Keeps.refl _ _ | with_reducible assumption | intro _ | dsimp only
      | (rw [restSz_fold]; refine keeps_sz (h := ?_) (e := ⟨fun f hf => by cases f <;> first | exact absurd (by decide) hf | dsimp only [DevField.Same, Chip.own]⟩) ..))

theorem modLane_keeps {ch : List DevField} {a : Device} (d : Device) (l : LaneId) (f : Lane → Lane) (hc : within [.lanes] ch = true) (hk :
    Keeps ch a d) : Keeps ch a (modLane d l f) := by
  refine Keeps.step ?_ hc hk
  unfold modLane
  repeat' (first
      | with_reducible exact Keeps.refl _ _ | with_reducible assumption | intro _
      | (rw [restSz_fold]; refine keeps_sz (h := ?_) (e := ⟨fun f hf => by cases f <;> first | exact absurd (by decide) hf | dsimp only [DevField.Same, Chip.own]⟩) ..))

theorem modGroup_keeps {ch : List DevField} {a : Device} (d : Device) (g : Sys2Proof.Group) (f : DacGroup → DacGroup) (hc : within
    [.drive] ch = true) (hk : Keeps ch a d) : Keeps ch a (modGroup d g f) := by
  refine Keeps.step ?_ hc hk
  unfold modGroup
  repeat' (first
      | with_reducible exact Keeps.refl _ _ | with_reducible assumption | intro _ | dsimp only
      | (rw [restSz_fold]; refine keeps_sz (h := ?_) (e := ⟨fun f hf => by cases f <;> first | exact absurd (by decide) hf | dsimp only [DevField.Same, Chip.own]⟩) ..))

theorem modDrive_keeps {ch : List DevField} {a : Device} (d : Device) (h : Head) (f : HeadDrive → HeadDrive) (hc : within [.drive] ch =
    true) (hk : Keeps ch a d) : Keeps ch a (modDrive d h f) := by
  refine Keeps.step ?_ hc hk
  unfold modDrive
  repeat' (first
      | with_reducible exact Keeps.refl _ _ | with_reducible assumption | intro _ | dsimp only
      | (rw [restSz_fold]; refine keeps_sz (h := ?_) (e := ⟨fun f hf => by cases f <;> first | exact absurd (by decide) hf | dsimp only [DevField.Same, Chip.own]⟩) ..))

theorem modSup_keeps {ch : List DevField} {a : Device} (d : Device) (k : Supply) (f : SupState → SupState) (hc : within [.drive] ch =
    true) (hk : Keeps ch a d) : Keeps ch a (modSup d k f) := by
  refine Keeps.step ?_ hc hk
  unfold modSup
  repeat' (first
      | with_reducible exact Keeps.refl _ _ | with_reducible assumption | intro _ | dsimp only
      | (rw [restSz_fold]; refine keeps_sz (h := ?_) (e := ⟨fun f hf => by cases f <;> first | exact absurd (by decide) hf | dsimp only [DevField.Same, Chip.own]⟩) ..))

theorem modBank_keeps {ch : List DevField} {a : Device} (d : Device) (t : Tbl) (f : Bank → Bank) (hc : within [.banks] ch = true) (hk :
    Keeps ch a d) : Keeps ch a (modBank d t f) := by
  refine Keeps.step ?_ hc hk
  unfold modBank
  repeat' (first
      | with_reducible exact Keeps.refl _ _ | with_reducible assumption | intro _ | dsimp only
      | (rw [restSz_fold]; refine keeps_sz (h := ?_) (e := ⟨fun f hf => by cases f <;> first | exact absurd (by decide) hf | dsimp only [DevField.Same, Chip.own]⟩) ..))

theorem modRing_keeps {ch : List DevField} {a : Device} (d : Device) (p : Plane) (f : Machine.Ring → Machine.Ring) (hc : within [.feed] ch
    = true) (hk : Keeps ch a d) : Keeps ch a (modRing d p f) := by
  refine Keeps.step ?_ hc hk
  unfold modRing
  repeat' (first
      | with_reducible exact Keeps.refl _ _ | with_reducible assumption | intro _ | dsimp only
      | (rw [restSz_fold]; refine keeps_sz (h := ?_) (e := ⟨fun f hf => by cases f <;> first | exact absurd (by decide) hf | dsimp only [DevField.Same, Chip.own]⟩) ..))

theorem modColour_keeps {ch : List DevField} {a : Device} (d : Device) (k : Plane) (f : Colour → Colour) (hc : within [.loop] ch = true)
    (hk : Keeps ch a d) : Keeps ch a (modColour d k f) := by
  refine Keeps.step ?_ hc hk
  unfold modColour
  repeat' (first
      | with_reducible exact Keeps.refl _ _ | with_reducible assumption | intro _ | dsimp only
      | (rw [restSz_fold]; refine keeps_sz (h := ?_) (e := ⟨fun f hf => by cases f <;> first | exact absurd (by decide) hf | dsimp only [DevField.Same, Chip.own]⟩) ..))

theorem modOwner_keeps {ch : List DevField} {a : Device} (d : Device) (k : Plane) (f : Owner → Owner) (hc : within [.loop] ch = true) (hk
    : Keeps ch a d) : Keeps ch a (modOwner d k f) := by
  refine Keeps.step ?_ hc hk
  unfold modOwner
  repeat' (first
      | with_reducible exact Keeps.refl _ _ | with_reducible assumption | intro _ | dsimp only
      | (rw [restSz_fold]; refine keeps_sz (h := ?_) (e := ⟨fun f hf => by cases f <;> first | exact absurd (by decide) hf | dsimp only [DevField.Same, Chip.own]⟩) ..))

theorem modCrc_keeps {ch : List DevField} {a : Device} (d : Device) (u : Fin 8) (f : CrcUnit → CrcUnit) (hc : within [.crcs] ch = true)
    (hk : Keeps ch a d) : Keeps ch a (modCrc d u f) := by
  refine Keeps.step ?_ hc hk
  unfold modCrc
  repeat' (first
      | with_reducible exact Keeps.refl _ _ | with_reducible assumption | intro _
      | (rw [restSz_fold]; refine keeps_sz (h := ?_) (e := ⟨fun f hf => by cases f <;> first | exact absurd (by decide) hf | dsimp only [DevField.Same, Chip.own]⟩) ..))

theorem modDiag_keeps {ch : List DevField} {a : Device} (d : Device) (f : Diag → Diag) (hc : within [.vlog] ch = true) (hk : Keeps ch a d)
    : Keeps ch a (modDiag d f) := by
  refine Keeps.step ?_ hc hk
  unfold modDiag
  repeat' (first
      | with_reducible exact Keeps.refl _ _ | with_reducible assumption | intro _ | dsimp only
      | (rw [restSz_fold]; refine keeps_sz (h := ?_) (e := ⟨fun f hf => by cases f <;> first | exact absurd (by decide) hf | dsimp only [DevField.Same, Chip.own]⟩) ..))

theorem modMbx_keeps {ch : List DevField} {a : Device} (d : Device) (f : Mbx → Mbx) (hc : within [.mbx] ch = true) (hk : Keeps ch a d) :
    Keeps ch a (modMbx d f) := by
  refine Keeps.step ?_ hc hk
  unfold modMbx
  repeat' (first
      | with_reducible exact Keeps.refl _ _ | with_reducible assumption | intro _
      | (rw [restSz_fold]; refine keeps_sz (h := ?_) (e := ⟨fun f hf => by cases f <;> first | exact absurd (by decide) hf | dsimp only [DevField.Same, Chip.own]⟩) ..))

theorem modFabric_keeps {ch : List DevField} {a : Device} (d : Device) (f : Fabric → Fabric) (hc : within [.fabric] ch = true) (hk : Keeps
    ch a d) : Keeps ch a (modFabric d f) := by
  refine Keeps.step ?_ hc hk
  unfold modFabric
  repeat' (first
      | with_reducible exact Keeps.refl _ _ | with_reducible assumption | intro _
      | (rw [restSz_fold]; refine keeps_sz (h := ?_) (e := ⟨fun f hf => by cases f <;> first | exact absurd (by decide) hf | dsimp only [DevField.Same, Chip.own]⟩) ..))

theorem modRed_keeps {ch : List DevField} {a : Device} (d : Device) (f : Red → Red) (hc : within [.red] ch = true) (hk : Keeps ch a d) :
    Keeps ch a (modRed d f) := by
  refine Keeps.step ?_ hc hk
  unfold modRed
  repeat' (first
      | with_reducible exact Keeps.refl _ _ | with_reducible assumption | intro _
      | (rw [restSz_fold]; refine keeps_sz (h := ?_) (e := ⟨fun f hf => by cases f <;> first | exact absurd (by decide) hf | dsimp only [DevField.Same, Chip.own]⟩) ..))

theorem countAll_keeps {ch : List DevField} {a : Device} (d : Device) (f : LiveSet → LiveSet) (hc : within [.acct] ch = true) (hk : Keeps
    ch a d) : Keeps ch a (countAll d f) := by
  refine Keeps.step ?_ hc hk
  unfold countAll
  repeat' (first
      | with_reducible exact Keeps.refl _ _ | with_reducible assumption | intro _ | dsimp only
      | (rw [restSz_fold]; refine keeps_sz (h := ?_) (e := ⟨fun f hf => by cases f <;> first | exact absurd (by decide) hf | dsimp only [DevField.Same, Chip.own]⟩) ..))

theorem countHead_keeps {ch : List DevField} {a : Device} (d : Device) (h : Head) (f : HeadCtr → HeadCtr) (hc : within [.acct] ch = true)
    (hk : Keeps ch a d) : Keeps ch a (countHead d h f) := by
  refine Keeps.step ?_ hc hk
  unfold countHead
  repeat' (first | with_reducible exact Keeps.refl _ _ | with_reducible assumption | intro _ | with_reducible apply countAll_keeps | decide)

theorem draw_keeps {ch : List DevField} {a : Device} (d : Device) (hc : within [] ch = true) (hk : Keeps ch a d) : Keeps ch a (draw d).2
    := by
  refine Keeps.step ?_ hc hk
  unfold draw
  repeat' (first
      | with_reducible exact Keeps.refl _ _ | with_reducible assumption | intro _ | dsimp only
      | (rw [restSz_fold]; refine keeps_sz (h := ?_) (e := ⟨fun f hf => by cases f <;> first | exact absurd (by decide) hf | dsimp only [DevField.Same, Chip.own]⟩) ..))

theorem drawBytes_keeps {ch : List DevField} {a : Device} (n : ℕ) (d : Device) (hc : within [] ch = true) (hk : Keeps ch a d) : Keeps ch a
    (drawBytes n d).2 := by
  refine Keeps.step ?_ hc hk
  unfold drawBytes
  repeat' (first
      | with_reducible exact Keeps.refl _ _ | with_reducible assumption | intro _ | dsimp only
      | (rw [restSz_fold]; refine keeps_sz (h := ?_) (e := ⟨fun f hf => by cases f <;> first | exact absurd (by decide) hf | dsimp only [DevField.Same, Chip.own]⟩) ..))

theorem signalVector_keeps {ch : List DevField} {a : Device} (k : ℕ) (d : Device) (hc : within [.mbx] ch = true) (hk : Keeps ch a d) :
    Keeps ch a (signalVector k d) := by
  refine Keeps.step ?_ hc hk
  unfold signalVector
  repeat' (first
      | with_reducible exact Keeps.refl _ _ | with_reducible assumption | intro _ | with_reducible apply modMbx_keeps
      | with_reducible apply keeps_ite | decide)

theorem setIrq_keeps {ch : List DevField} {a : Device} (k : ℕ) (d : Device) (hc : within [.mbx] ch = true) (hk : Keeps ch a d) : Keeps ch
    a (setIrq k d) := by
  refine Keeps.step ?_ hc hk
  unfold setIrq
  repeat' (first
      | with_reducible exact Keeps.refl _ _ | with_reducible assumption | intro _ | with_reducible apply modMbx_keeps
      | with_reducible apply signalVector_keeps | with_reducible apply keeps_ite | dsimp only | decide)

theorem noteRed_keeps {ch : List DevField} {a : Device} (was d : Device) (hc : within [.mbx] ch = true) (hk : Keeps ch a d) : Keeps ch a
    (noteRed was d) := by
  refine Keeps.step ?_ hc hk
  unfold noteRed
  repeat' (first
      | with_reducible exact Keeps.refl _ _ | with_reducible assumption | intro _ | with_reducible apply setIrq_keeps
      | with_reducible apply keeps_ite | decide)

theorem noteFault_keeps {ch : List DevField} {a : Device} (was d : Device) (hc : within [.mbx] ch = true) (hk : Keeps ch a d) : Keeps ch a
    (noteFault was d) := by
  refine Keeps.step ?_ hc hk
  unfold noteFault
  repeat' (first
      | with_reducible exact Keeps.refl _ _ | with_reducible assumption | intro _ | with_reducible apply setIrq_keeps
      | with_reducible apply keeps_ite | decide)

theorem putSlot_keeps {ch : List DevField} {a : Device} (base : U64) (sramAt at_ : ℕ) (bs : List U8) (d : Device) (hc : within [.mbx] ch =
    true) (hk : Keeps ch a d) : Keeps ch a (putSlot base sramAt at_ bs d) := by
  refine Keeps.step ?_ hc hk
  unfold putSlot
  repeat' (first
      | with_reducible exact Keeps.refl _ _ | with_reducible assumption | intro _ | with_reducible apply modMbx_keeps
      | with_reducible apply keeps_ite | dsimp only
      | (rw [restSz_fold]; refine keeps_sz (h := ?_) (e := ⟨fun f hf => by cases f <;> first | exact absurd (by decide) hf | dsimp only [DevField.Same, Chip.own]⟩) ..)
      | decide)

theorem putIndices_keeps {ch : List DevField} {a : Device} (d : Device) (hc : within [] ch = true) (hk : Keeps ch a d) : Keeps ch a
    (putIndices d) := by
  refine Keeps.step ?_ hc hk
  unfold putIndices
  repeat' (first
      | with_reducible exact Keeps.refl _ _ | with_reducible assumption | intro _ | with_reducible apply keeps_ite | dsimp only
      | (rw [restSz_fold]; refine keeps_sz (h := ?_) (e := ⟨fun f hf => by cases f <;> first | exact absurd (by decide) hf | dsimp only [DevField.Same, Chip.own]⟩) ..))

theorem writeEvent_keeps {ch : List DevField} {a : Device} (e : Event) (d : Device) (hc : within [.mbx, .vlog] ch = true) (hk : Keeps ch a
    d) : Keeps ch a (writeEvent e d) := by
  refine Keeps.step ?_ hc hk
  unfold writeEvent
  repeat' (first
      | with_reducible exact Keeps.refl _ _ | with_reducible assumption | intro _ | with_reducible apply modDiag_keeps
      | with_reducible apply modMbx_keeps | with_reducible apply putSlot_keeps | with_reducible apply setIrq_keeps
      | with_reducible apply putIndices_keeps | with_reducible apply keeps_ite | dsimp only | decide)

theorem releaseFrame_keeps {ch : List DevField} {a : Device} (p : Option Port) (f : DataFrame) (d : Device) (hc : within [.fabric] ch =
    true) (hk : Keeps ch a d) : Keeps ch a (releaseFrame p f d) := by
  refine Keeps.step ?_ hc hk
  unfold releaseFrame
  repeat' (first
      | with_reducible exact Keeps.refl _ _ | with_reducible assumption | intro _ | with_reducible apply modPort_keeps | split | dsimp only
      | decide)

theorem beginFrame_keeps {ch : List DevField} {a : Device} (p : Port) (k : Fin 2) (f : PortFrame) (d : Device) (hc : within [.lanes,
    .fabric] ch = true) (hk : Keeps ch a d) : Keeps ch a (beginFrame p k f d) := by
  refine Keeps.step ?_ hc hk
  unfold beginFrame
  repeat' (first
      | with_reducible exact Keeps.refl _ _ | with_reducible assumption | intro _ | with_reducible apply modPort_keeps
      | with_reducible apply modLane_keeps | dsimp only | decide)

theorem sendNext_keeps {ch : List DevField} {a : Device} (p : Port) (k : Fin 2) (n : NextFrame) (d : Device) (hc : within [.lanes,
    .fabric] ch = true) (hk : Keeps ch a d) : Keeps ch a (sendNext p k n d) := by
  refine Keeps.step ?_ hc hk
  unfold sendNext
  repeat' (first
      | with_reducible exact Keeps.refl _ _ | with_reducible assumption | intro _ | with_reducible apply beginFrame_keeps
      | with_reducible apply modPort_keeps | with_reducible apply releaseFrame_keeps | split | dsimp only | decide)

theorem fillPort_keeps {ch : List DevField} {a : Device} (p : Port) (fuel : ℕ) (d : Device) (hc : within [.lanes, .fabric] ch = true) (hk
    : Keeps ch a d) : Keeps ch a (fillPort p fuel d) := by
  refine Keeps.step ?_ hc hk
  clear hk hc a
  induction fuel generalizing p d with
  | zero => exact Keeps.refl _ _
  | succ k ih =>
    unfold fillPort
    repeat' (first
        | with_reducible exact Keeps.refl _ _ | with_reducible assumption | intro _ | with_reducible refine Keeps.trans ?_ (ih ..)
        | with_reducible apply sendNext_keeps | split | dsimp only | decide)

theorem pumpPort_keeps {ch : List DevField} {a : Device} (p : Port) (d : Device) (hc : within [.lanes, .fabric] ch = true) (hk : Keeps ch
    a d) : Keeps ch a (pumpPort p d) := by
  refine Keeps.step ?_ hc hk
  unfold pumpPort
  repeat' (first
      | with_reducible exact Keeps.refl _ _ | with_reducible assumption | intro _ | with_reducible apply modPort_keeps
      | with_reducible apply fillPort_keeps | with_reducible apply keeps_ite | dsimp only | decide)

theorem runPort_keeps {ch : List DevField} {a : Device} (p : Port) (now fuel : ℕ) (d : Device) (hc : within [.lanes, .fabric] ch = true)
    (hk : Keeps ch a d) : Keeps ch a (runPort p now fuel d) := by
  refine Keeps.step ?_ hc hk
  clear hk hc a
  induction fuel generalizing p now d with
  | zero => exact Keeps.refl _ _
  | succ k ih =>
    unfold runPort
    repeat' (first
        | with_reducible exact Keeps.refl _ _ | with_reducible assumption | intro _ | with_reducible refine Keeps.trans ?_ (ih ..)
        | with_reducible apply modPort_keeps | with_reducible apply fillPort_keeps | with_reducible apply keeps_ite | split | dsimp only
        | decide)

theorem advancePorts_keeps {ch : List DevField} {a : Device} (d : Device) (hc : within [.lanes, .fabric] ch = true) (hk : Keeps ch a d) :
    Keeps ch a (advancePorts d) := by
  refine Keeps.step ?_ hc hk
  unfold advancePorts
  repeat' (first
      | with_reducible exact Keeps.refl _ _ | with_reducible assumption | intro _ | with_reducible apply runPort_keeps
      | with_reducible apply keeps_ite | with_reducible apply keeps_foldl | decide)

theorem forwardOn_keeps {ch : List DevField} {a : Device} (src : Option Port) (p : Port) (f : DataFrame) (d : Device) (hc : within
    [.lanes, .fabric] ch = true) (hk : Keeps ch a d) : Keeps ch a (forwardOn src p f d) := by
  refine Keeps.step ?_ hc hk
  unfold forwardOn
  repeat' (first
      | with_reducible exact Keeps.refl _ _ | with_reducible assumption | intro _ | with_reducible apply pumpPort_keeps
      | with_reducible apply modPort_keeps | decide)

theorem sendOnPort_keeps {ch : List DevField} {a : Device} (p : Port) (f : DataFrame) (d : Device) (hc : within [.lanes, .fabric] ch =
    true) (hk : Keeps ch a d) : Keeps ch a (sendOnPort p f d) := by
  refine Keeps.step ?_ hc hk
  unfold sendOnPort
  repeat' (first
      | with_reducible exact Keeps.refl _ _ | with_reducible assumption | intro _ | with_reducible apply forwardOn_keeps | decide)

theorem giveLink_keeps {ch : List DevField} {a : Device} (p : Port) (t : LinkTx) (d : Device) (hc : within [.lanes, .fabric] ch = true)
    (hk : Keeps ch a d) : Keeps ch a (giveLink p t d) := by
  refine Keeps.step ?_ hc hk
  unfold giveLink
  repeat' (first
      | with_reducible exact Keeps.refl _ _ | with_reducible assumption | intro _ | with_reducible apply pumpPort_keeps
      | with_reducible apply modPort_keeps | dsimp only | decide)

theorem floodExcept_keeps {ch : List DevField} {a : Device} (skip : Option Port) (f : DataFrame) (d : Device) (hc : within [.lanes,
    .fabric] ch = true) (hk : Keeps ch a d) : Keeps ch a (floodExcept skip f d) := by
  refine Keeps.step ?_ hc hk
  unfold floodExcept
  repeat' (first
      | with_reducible exact Keeps.refl _ _ | with_reducible assumption | intro _ | with_reducible apply sendOnPort_keeps
      | with_reducible apply keeps_ite | with_reducible apply keeps_foldl | decide)

theorem takeSrcSeq_keeps {ch : List DevField} {a : Device} (vc : Vc) (dest : U8) (d : Device) (hc : within [.fabric] ch = true) (hk :
    Keeps ch a d) : Keeps ch a (takeSrcSeq vc dest d).2 := by
  refine Keeps.step ?_ hc hk
  unfold takeSrcSeq
  repeat' (first
      | with_reducible exact Keeps.refl _ _ | with_reducible assumption | intro _ | with_reducible apply modFabric_keeps | split
      | dsimp only | decide)

theorem broadcast_keeps {ch : List DevField} {a : Device} (vc : Vc) (msgType : ℕ) (payload : List U8) (d : Device) (hc : within [.lanes,
    .fabric] ch = true) (hk : Keeps ch a d) : Keeps ch a (broadcast vc msgType payload d) := by
  refine Keeps.step ?_ hc hk
  unfold broadcast
  repeat' (first
      | with_reducible exact Keeps.refl _ _ | with_reducible assumption | intro _ | with_reducible apply takeSrcSeq_keeps
      | with_reducible apply floodExcept_keeps | with_reducible apply keeps_ite | split
      | with_reducible refine keeps_pair (by with_reducible assumption) ?_ | dsimp only | decide)

theorem trySend_keeps {ch : List DevField} {a : Device} (vc : Vc) (dict : Bool) (dest : U8) (msgType : ℕ) (payload : List U8) (d : Device)
    (hc : within [.lanes, .fabric] ch = true) (hk : Keeps ch a d) : Keeps ch a (trySend vc dict dest msgType payload d).2 := by
  refine Keeps.step ?_ hc hk
  unfold trySend
  repeat' (first
      | with_reducible exact Keeps.refl _ _ | with_reducible assumption | intro _ | with_reducible apply takeSrcSeq_keeps
      | with_reducible apply sendOnPort_keeps | with_reducible apply keeps_ite_snd | split
      | with_reducible refine keeps_pair (by with_reducible assumption) ?_ | dsimp only | decide)

theorem logViolation_keeps {ch : List DevField} {a : Device} (code : U8) (block : BitVec 5) (source : U16) (answer : BitVec 2) (d :
    Device) (hc : within [.vlog] ch = true) (hk : Keeps ch a d) : Keeps ch a (logViolation code block source answer d).2 := by
  refine Keeps.step ?_ hc hk
  unfold logViolation
  repeat' (first
      | with_reducible exact Keeps.refl _ _ | with_reducible assumption | intro _ | with_reducible apply modDiag_keeps
      | with_reducible apply keeps_ite | with_reducible apply keeps_ite_snd | dsimp only
      | (rw [restSz_fold]; refine keeps_sz (h := ?_) (e := ⟨fun f hf => by cases f <;> first | exact absurd (by decide) hf | dsimp only [DevField.Same, Chip.own]⟩) ..)
      | decide)

theorem ownEvent_keeps {ch : List DevField} {a : Device} (n : EvName) (args : List U32) (ft wp : U64) (d : Device) (hc : within [.mbx,
    .vlog] ch = true) (hk : Keeps ch a d) : Keeps ch a (ownEvent n args ft wp d) := by
  refine Keeps.step ?_ hc hk
  unfold ownEvent
  repeat' (first
      | with_reducible exact Keeps.refl _ _ | with_reducible assumption | intro _ | with_reducible apply writeEvent_keeps
      | with_reducible apply modMbx_keeps | decide)

theorem relayLost_keeps {ch : List DevField} {a : Device} (n : U8) (d : Device) (hc : within [.mbx, .vlog, .fabric] ch = true) (hk : Keeps
    ch a d) : Keeps ch a (relayLost n d) := by
  refine Keeps.step ?_ hc hk
  unfold relayLost
  repeat' (first
      | with_reducible exact Keeps.refl _ _ | with_reducible assumption | intro _ | with_reducible apply takeSrcSeq_keeps
      | with_reducible apply logViolation_keeps | with_reducible apply ownEvent_keeps | with_reducible apply keeps_ite | split
      | with_reducible refine keeps_pair (by with_reducible assumption) ?_ | dsimp only | decide)

theorem relayEvent_keeps {ch : List DevField} {a : Device} (e : Event) (d : Device) (hc : within [.mbx, .vlog, .lanes, .fabric] ch = true)
    (hk : Keeps ch a d) : Keeps ch a (relayEvent e d) := by
  refine Keeps.step ?_ hc hk
  unfold relayEvent
  repeat' (first
      | with_reducible exact Keeps.refl _ _ | with_reducible assumption | intro _ | with_reducible apply trySend_keeps
      | with_reducible apply relayLost_keeps | with_reducible apply keeps_ite | with_reducible apply keeps_foldl | split
      | with_reducible refine keeps_pair (by with_reducible assumption) ?_ | dsimp only | decide)

theorem recordEvent_keeps {ch : List DevField} {a : Device} (n : EvName) (args : List U32) (ft wp : U64) (d : Device) (hc : within [.mbx,
    .vlog, .lanes, .fabric] ch = true) (hk : Keeps ch a d) : Keeps ch a (recordEvent n args ft wp d) := by
  refine Keeps.step ?_ hc hk
  unfold recordEvent
  repeat' (first
      | with_reducible exact Keeps.refl _ _ | with_reducible assumption | intro _ | with_reducible apply relayEvent_keeps
      | with_reducible apply ownEvent_keeps | decide)

theorem raise_keeps {ch : List DevField} {a : Device} (n : EvName) (args : List U32) (d : Device) (hc : within [.mbx, .vlog, .lanes,
    .fabric] ch = true) (hk : Keeps ch a d) : Keeps ch a (raise n args d) := by
  refine Keeps.step ?_ hc hk
  unfold raise
  repeat' (first
      | with_reducible exact Keeps.refl _ _ | with_reducible assumption | intro _ | with_reducible apply recordEvent_keeps
      | with_reducible apply modMbx_keeps | with_reducible apply keeps_ite | decide)

theorem violation_keeps {ch : List DevField} {a : Device} (code : U8) (block : BitVec 5) (source : U16) (answer : BitVec 2) (d : Device)
    (hc : within [.mbx, .vlog, .lanes, .fabric] ch = true) (hk : Keeps ch a d) : Keeps ch a (violation code block source answer d) := by
  refine Keeps.step ?_ hc hk
  unfold violation
  repeat' (first
      | with_reducible exact Keeps.refl _ _ | with_reducible assumption | intro _ | with_reducible apply logViolation_keeps
      | with_reducible apply raise_keeps | split | with_reducible refine keeps_pair (by with_reducible assumption) ?_ | dsimp only | decide)

theorem fabViolation_keeps {ch : List DevField} {a : Device} (code : U8) (p : Port) (ans : BitVec 2) (d : Device) (hc : within [.mbx,
    .vlog, .lanes, .fabric] ch = true) (hk : Keeps ch a d) : Keeps ch a (fabViolation code p ans d) := by
  refine Keeps.step ?_ hc hk
  unfold fabViolation
  repeat' (first
      | with_reducible exact Keeps.refl _ _ | with_reducible assumption | intro _ | with_reducible apply violation_keeps | decide)

theorem sendTo_keeps {ch : List DevField} {a : Device} (vc : Vc) (dict : Bool) (dest : U8) (msgType : ℕ) (payload : List U8) (d : Device)
    (hc : within [.mbx, .vlog, .lanes, .fabric] ch = true) (hk : Keeps ch a d) : Keeps ch a (sendTo vc dict dest msgType payload d).2 :=
    by
  refine Keeps.step ?_ hc hk
  unfold sendTo
  repeat' (first
      | with_reducible exact Keeps.refl _ _ | with_reducible assumption | intro _ | with_reducible apply trySend_keeps
      | with_reducible apply takeSrcSeq_keeps | with_reducible apply raise_keeps | with_reducible apply fabViolation_keeps
      | with_reducible apply keeps_ite_snd | split | with_reducible refine keeps_pair (by with_reducible assumption) ?_ | dsimp only
      | decide)

theorem sendUnreachable_keeps {ch : List DevField} {a : Device} (f : DataFrame) (d : Device) (hc : within [.mbx, .vlog, .lanes, .fabric]
    ch = true) (hk : Keeps ch a d) : Keeps ch a (sendUnreachable f d) := by
  refine Keeps.step ?_ hc hk
  unfold sendUnreachable
  repeat' (first
      | with_reducible exact Keeps.refl _ _ | with_reducible assumption | intro _ | with_reducible apply sendTo_keeps
      | with_reducible refine keeps_pair (by with_reducible assumption) ?_ | decide)

theorem accountingBreak_keeps {ch : List DevField} {a : Device} (cond : ℕ) (d : Device) (hc : within [.mbx, .vlog, .acct, .lanes, .fabric]
    ch = true) (hk : Keeps ch a d) : Keeps ch a (accountingBreak cond d) := by
  refine Keeps.step ?_ hc hk
  unfold accountingBreak
  repeat' (first
      | with_reducible exact Keeps.refl _ _ | with_reducible assumption | intro _ | with_reducible apply raise_keeps
      | with_reducible apply countAll_keeps | decide)

theorem modDram_keeps {ch : List DevField} {a : Device} (d : Device) (f : Dram → Dram) (hc : within [.dram] ch = true) (hk : Keeps ch a d)
    : Keeps ch a (modDram d f) := by
  refine Keeps.step ?_ hc hk
  unfold modDram
  repeat' (first
      | with_reducible exact Keeps.refl _ _ | with_reducible assumption | intro _
      | (rw [restSz_fold]; refine keeps_sz (h := ?_) (e := ⟨fun f hf => by cases f <;> first | exact absurd (by decide) hf | dsimp only [DevField.Same, Chip.own]⟩) ..))

theorem beginVictim_keeps {ch : List DevField} {a : Device} (b : BankId) (row : ℕ) (d : Device) (hc : within [.dram] ch = true) (hk :
    Keeps ch a d) : Keeps ch a (beginVictim b row d) := by
  refine Keeps.step ?_ hc hk
  unfold beginVictim
  repeat' (first
      | with_reducible exact Keeps.refl _ _ | with_reducible assumption | intro _ | with_reducible apply draw_keeps
      | with_reducible apply modDram_keeps | split | with_reducible refine keeps_pair (by with_reducible assumption) ?_ | dsimp only
      | decide)

theorem dueVictim_keeps {ch : List DevField} {a : Device} (b : BankId) (row : ℕ) (d : Device) (hc : within [.dram] ch = true) (hk : Keeps
    ch a d) : Keeps ch a (dueVictim b row d) := by
  refine Keeps.step ?_ hc hk
  unfold dueVictim
  repeat' (first
      | with_reducible exact Keeps.refl _ _ | with_reducible assumption | intro _ | with_reducible apply beginVictim_keeps
      | with_reducible apply modDram_keeps | with_reducible apply keeps_ite | decide)

theorem countActivation_keeps {cs : List DevField} {a : Device} (ch : Port) (rank : Fin 2) (d : Device) (hc : within [.dram] cs = true)
    (hk : Keeps cs a d) : Keeps cs a (countActivation ch rank d) := by
  refine Keeps.step ?_ hc hk
  unfold countActivation
  repeat' (first
      | with_reducible exact Keeps.refl _ _ | with_reducible assumption | intro _ | with_reducible apply modDram_keeps | split | dsimp only
      | decide)

theorem hammer_keeps {ch : List DevField} {a : Device} (at_ : BankId × ℕ) (d : Device) (hc : within [.vlog, .dram] ch = true) (hk : Keeps
    ch a d) : Keeps ch a (hammer at_ d) := by
  refine Keeps.step ?_ hc hk
  unfold hammer
  repeat' (first
      | with_reducible exact Keeps.refl _ _ | with_reducible assumption | intro _ | with_reducible apply countActivation_keeps
      | with_reducible apply modDram_keeps | with_reducible apply dueVictim_keeps | with_reducible apply modDiag_keeps
      | with_reducible apply keeps_ite | split | dsimp only | decide)

theorem countTraffic_keeps {cs : List DevField} {a : Device} (ch : Port) (f : Traffic → Traffic) (d : Device) (hc : within [.dram] cs =
    true) (hk : Keeps cs a d) : Keeps cs a (countTraffic ch f d) := by
  refine Keeps.step ?_ hc hk
  unfold countTraffic
  repeat' (first | with_reducible exact Keeps.refl _ _ | with_reducible assumption | intro _ | with_reducible apply modDram_keeps | decide)

theorem useLine_keeps {ch : List DevField} {a : Device} (change : Bool) (n : ℕ) (d : Device) (hc : within [.vlog, .dram] ch = true) (hk :
    Keeps ch a d) : Keeps ch a (useLine change n d) := by
  refine Keeps.step ?_ hc hk
  unfold useLine
  repeat' (first
      | with_reducible exact Keeps.refl _ _ | with_reducible assumption | intro _ | with_reducible apply hammer_keeps
      | with_reducible apply countTraffic_keeps | with_reducible apply modDram_keeps | with_reducible apply keeps_ite
      | with_reducible apply keeps_foldl | split | dsimp only | decide)

theorem touch_keeps {ch : List DevField} {a₀ : Device} (write : Bool) (a n : ℕ) (d : Device) (hc : within [.vlog, .dram] ch = true) (hk :
    Keeps ch a₀ d) : Keeps ch a₀ (touch write a n d) := by
  refine Keeps.step ?_ hc hk
  unfold touch
  repeat' (first
      | with_reducible exact Keeps.refl _ _ | with_reducible assumption | intro _ | with_reducible apply hammer_keeps
      | with_reducible apply useLine_keeps | with_reducible apply countTraffic_keeps | with_reducible apply keeps_foldl | dsimp only
      | decide)

theorem dramSee_keeps {ch : List DevField} {a₀ : Device} (a n : ℕ) (d : Device) (hc : within [.vlog, .dram] ch = true) (hk : Keeps ch a₀
    d) : Keeps ch a₀ (dramSee a n d) := by
  refine Keeps.step ?_ hc hk
  unfold dramSee
  repeat' (first
      | with_reducible exact Keeps.refl _ _ | with_reducible assumption | intro _ | with_reducible apply touch_keeps
      | with_reducible apply keeps_ite | decide)

theorem completeRead_keeps {ch : List DevField} {a₀ : Device} (a n : ℕ) (d : Device) (hc : within [.chip] ch = true) (hk : Keeps ch a₀ d)
    : Keeps ch a₀ (completeRead a n d) := by
  refine Keeps.step ?_ hc hk
  unfold completeRead
  repeat' (first
      | with_reducible exact Keeps.refl _ _ | with_reducible assumption | intro _ | dsimp only
      | (rw [restSz_fold]; refine keeps_sz (h := ?_) (e := ⟨fun f hf => by cases f <;> first | exact absurd (by decide) hf | dsimp only [DevField.Same, Chip.own]⟩) ..))

theorem memError_keeps {ch : List DevField} {a₀ : Device} (a source kind : ℕ) (d : Device) (hc : within [.dram] ch = true) (hk : Keeps ch
    a₀ d) : Keeps ch a₀ (memError a source kind d) := by
  refine Keeps.step ?_ hc hk
  unfold memError
  repeat' (first
      | with_reducible exact Keeps.refl _ _ | with_reducible assumption | intro _ | dsimp only
      | (rw [restSz_fold]; refine keeps_sz (h := ?_) (e := ⟨fun f hf => by cases f <;> first | exact absurd (by decide) hf | dsimp only [DevField.Same, Chip.own]⟩) ..))

theorem writeGranule_keeps {ch : List DevField} {a₀ : Device} (source a : ℕ) (bs : List U8) (d : Device) (hc : within [.dram] ch = true)
    (hk : Keeps ch a₀ d) : Keeps ch a₀ (writeGranule source a bs d) := by
  refine Keeps.step ?_ hc hk
  unfold writeGranule
  repeat' (first
      | with_reducible exact Keeps.refl _ _ | with_reducible assumption | intro _ | with_reducible apply memError_keeps
      | with_reducible apply keeps_ite | dsimp only
      | (rw [restSz_fold]; refine keeps_sz (h := ?_) (e := ⟨fun f hf => by cases f <;> first | exact absurd (by decide) hf | dsimp only [DevField.Same, Chip.own]⟩) ..)
      | decide)

theorem writeGranules_keeps {ch : List DevField} {a : Device} (source fuel n : ℕ) (bs : List U8) (d : Device) (hc : within [.dram] ch =
    true) (hk : Keeps ch a d) : Keeps ch a (writeGranules source fuel n bs d) := by
  refine Keeps.step ?_ hc hk
  clear hk hc a
  induction fuel generalizing source n bs d with
  | zero => exact Keeps.refl _ _
  | succ k ih =>
    unfold writeGranules
    repeat' (first
        | with_reducible exact Keeps.refl _ _ | with_reducible assumption | intro _ | with_reducible refine Keeps.trans ?_ (ih ..)
        | with_reducible apply writeGranule_keeps | with_reducible apply keeps_ite | split | dsimp only | decide)

theorem popMirror_keeps {ch : List DevField} {a : Device} (n : ℕ) (d : Device) (hc : within [.red] ch = true) (hk : Keeps ch a d) : Keeps
    ch a (popMirror n d) := by
  refine Keeps.step ?_ hc hk
  unfold popMirror
  repeat' (first | with_reducible exact Keeps.refl _ _ | with_reducible assumption | intro _ | with_reducible apply modRed_keeps | decide)

theorem mirrorPass_keeps {ch : List DevField} {a : Device} (d : Device) (hc : within [.red] ch = true) (hk : Keeps ch a d) : Keeps ch a
    (mirrorPass d) := by
  refine Keeps.step ?_ hc hk
  unfold mirrorPass
  repeat' (first | with_reducible exact Keeps.refl _ _ | with_reducible assumption | intro _ | with_reducible apply modRed_keeps | decide)

theorem logMirror_keeps {ch : List DevField} {a₀ : Device} (a n : ℕ) (d : Device) (hc : within [.mbx, .vlog, .lanes, .fabric, .red] ch =
    true) (hk : Keeps ch a₀ d) : Keeps ch a₀ (logMirror a n d) := by
  refine Keeps.step ?_ hc hk
  unfold logMirror
  repeat' (first
      | with_reducible exact Keeps.refl _ _ | with_reducible assumption | intro _ | with_reducible apply raise_keeps
      | with_reducible apply mirrorPass_keeps | with_reducible apply modRed_keeps | with_reducible apply keeps_ite | decide)

theorem dramPut_keeps {ch : List DevField} {a₀ : Device} (source a : ℕ) (bs : List U8) (d : Device) (hc : within [.mbx, .vlog, .dram,
    .lanes, .fabric, .red] ch = true) (hk : Keeps ch a₀ d) : Keeps ch a₀ (dramPut source a bs d) := by
  refine Keeps.step ?_ hc hk
  unfold dramPut
  repeat' (first
      | with_reducible exact Keeps.refl _ _ | with_reducible assumption | intro _ | with_reducible apply logMirror_keeps
      | with_reducible apply writeGranules_keeps | with_reducible apply touch_keeps | with_reducible apply keeps_ite | decide)

theorem dramWrite_keeps {ch : List DevField} {a₀ : Device} (source a : ℕ) (bs : List U8) (d : Device) (hc : within [.mbx, .vlog, .dram,
    .lanes, .fabric, .red] ch = true) (hk : Keeps ch a₀ d) : Keeps ch a₀ (dramWrite source a bs d) := by
  refine Keeps.step ?_ hc hk
  unfold dramWrite
  repeat' (first
      | with_reducible exact Keeps.refl _ _ | with_reducible assumption | intro _ | with_reducible apply dramPut_keeps
      | with_reducible apply keeps_ite | dsimp only
      | (rw [restSz_fold]; refine keeps_sz (h := ?_) (e := ⟨fun f hf => by cases f <;> first | exact absurd (by decide) hf | dsimp only [DevField.Same, Chip.own]⟩) ..)
      | decide)

theorem deliver_keeps {ch : List DevField} {a : Device} (o : Sys2Proof.Origin) (resp : Response) (d : Device) (hc : within [.mbx, .vlog,
    .lanes, .fabric] ch = true) (hk : Keeps ch a d) : Keeps ch a (deliver o resp d) := by
  refine Keeps.step ?_ hc hk
  unfold deliver
  repeat' (first
      | with_reducible exact Keeps.refl _ _ | with_reducible assumption | intro _ | with_reducible apply putSlot_keeps
      | with_reducible apply modMbx_keeps | with_reducible apply setIrq_keeps | with_reducible apply putIndices_keeps
      | with_reducible apply sendTo_keeps | with_reducible apply keeps_ite | split
      | with_reducible refine keeps_pair (by with_reducible assumption) ?_ | dsimp only | decide)

theorem remember_keeps {ch : List DevField} {a : Device} (e : Remembered) (d : Device) (hc : within [.mbx] ch = true) (hk : Keeps ch a d)
    : Keeps ch a (remember e d) := by
  refine Keeps.step ?_ hc hk
  unfold remember
  repeat' (first
      | with_reducible exact Keeps.refl _ _ | with_reducible assumption | intro _ | with_reducible apply modMbx_keeps | dsimp only | decide)

theorem commandDone_keeps {ch : List DevField} {a : Device} (e : InFlight) (r : Reply) (d : Device) (hc : within [.mbx, .vlog, .lanes,
    .fabric] ch = true) (hk : Keeps ch a d) : Keeps ch a (commandDone e r d) := by
  refine Keeps.step ?_ hc hk
  unfold commandDone
  repeat' (first
      | with_reducible exact Keeps.refl _ _ | with_reducible assumption | intro _ | with_reducible apply modMbx_keeps
      | with_reducible apply raise_keeps | with_reducible apply remember_keeps | dsimp only | decide)

theorem answer_keeps {ch : List DevField} {a : Device} (e : InFlight) (r : Reply) (d : Device) (hc : within [.mbx, .vlog, .lanes, .fabric]
    ch = true) (hk : Keeps ch a d) : Keeps ch a (answer e r d) := by
  refine Keeps.step ?_ hc hk
  unfold answer
  repeat' (first
      | with_reducible exact Keeps.refl _ _ | with_reducible assumption | intro _ | with_reducible apply deliver_keeps
      | with_reducible apply remember_keeps | dsimp only | decide)

theorem finish_keeps {ch : List DevField} {a : Device} (e : InFlight) (r : Reply) (d : Device) (hc : within [.mbx, .vlog, .lanes, .fabric]
    ch = true) (hk : Keeps ch a d) : Keeps ch a (finish e r d) := by
  refine Keeps.step ?_ hc hk
  unfold finish
  repeat' (first
      | with_reducible exact Keeps.refl _ _ | with_reducible assumption | intro _ | with_reducible apply modMbx_keeps
      | with_reducible apply answer_keeps | with_reducible apply keeps_ite | decide)

theorem finishWork_keeps {ch : List DevField} {a : Device} (p : Work → Bool) (r : Reply) (d : Device) (hc : within [.mbx, .vlog, .lanes,
    .fabric] ch = true) (hk : Keeps ch a d) : Keeps ch a (finishWork p r d) := by
  refine Keeps.step ?_ hc hk
  unfold finishWork
  repeat' (first
      | with_reducible exact Keeps.refl _ _ | with_reducible assumption | intro _ | with_reducible apply finish_keeps | split | dsimp only
      | decide)

theorem finishAll_keeps {ch : List DevField} {a : Device} (p : Work → Bool) (r : Reply) (d : Device) (hc : within [.mbx, .vlog, .lanes,
    .fabric] ch = true) (hk : Keeps ch a d) : Keeps ch a (finishAll p r d) := by
  refine Keeps.step ?_ hc hk
  unfold finishAll
  repeat' (first
      | with_reducible exact Keeps.refl _ _ | with_reducible assumption | intro _ | with_reducible apply finish_keeps
      | with_reducible apply keeps_foldl | decide)

theorem ok_keeps {ch : List DevField} {a : Device} (d : Device) (results : optParam (List U32) []) (hc : within [] ch = true) (hk : Keeps
    ch a d) : DoneKeeps ch a (ok d results) := by
  refine doneKeeps_step ?_ hc hk
  unfold ok
  repeat' (first
      | with_reducible exact Keeps.refl _ _ | with_reducible assumption | intro _ | with_reducible apply doneKeeps_ite
      | with_reducible apply doneKeeps_reply)

theorem no_keeps {ch : List DevField} {a : Device} (d : Device) (st : Status) (r : optParam Reason Reason.none) (detail : optParam ℕ 0)
    (hc : within [] ch = true) (hk : Keeps ch a d) : DoneKeeps ch a (no d st r detail) := by
  refine doneKeeps_step ?_ hc hk
  unfold no
  repeat' (first
      | with_reducible exact Keeps.refl _ _ | with_reducible assumption | intro _ | with_reducible apply doneKeeps_ite
      | with_reducible apply doneKeeps_reply)

theorem poisoned_keeps {ch : List DevField} {a₀ : Device} (a : ℕ) (d : Device) (hc : within [] ch = true) (hk : Keeps ch a₀ d) : DoneKeeps
    ch a₀ (poisoned a d) := by
  refine doneKeeps_step ?_ hc hk
  unfold poisoned
  repeat' (first
      | with_reducible exact Keeps.refl _ _ | with_reducible assumption | intro _ | with_reducible apply doneKeeps_ite
      | with_reducible apply doneKeeps_reply)

/-- A command that reads ranges of DRAM changes what the controller notes of the accesses. -/
theorem readRanges_keeps {ch : List DevField} {a₀ : Device} (g : Sig) (a : List ℤ) (d : Device)
    (hd : g.reads = true → within [.vlog, .dram] ch = true) (hk : Keeps ch a₀ d) : Keeps ch a₀ (readRanges g a d) := by
  unfold readRanges
  split
  · next h => exact keeps_foldl (fun d r => dramSee_keeps _ _ _ (hd h) (Keeps.refl _ _)) hk
  · exact hk

theorem checkAndRun_keeps {ch : List DevField} (g : Sig) (c : Cmd) (body : Cmd → List Int → Device → Done) (a : List Int) (d : Device)
    (hd : g.reads = true → within [.vlog, .dram] ch = true) (hb : ∀ c a d, DoneKeeps ch d (body c a d)) :
    DoneKeeps ch d (checkAndRun g c body a d) := by
  unfold checkAndRun
  repeat' (first
      | with_reducible exact no_doneKeeps .. | with_reducible apply doneKeeps_ite
      | exact doneKeeps_trans (readRanges_keeps _ _ _ hd (Keeps.refl _ _)) (hb _ _ _))

theorem relayCommand_keeps {ch : List DevField} {a : Device} (g : Sig) (c : Cmd) (d : Device) (hc : within [.mbx, .vlog, .lanes, .fabric]
    ch = true) (hk : Keeps ch a d) : DoneKeeps ch a (relayCommand g c d) := by
  refine doneKeeps_step ?_ hc hk
  unfold relayCommand
  repeat' (first
      | with_reducible exact Keeps.refl _ _ | with_reducible assumption | intro _ | with_reducible apply no_keeps
      | with_reducible apply sendTo_keeps | with_reducible apply takeSrcSeq_keeps | with_reducible apply doneKeeps_ite
      | with_reducible apply doneKeeps_reply | with_reducible apply doneKeeps_later | split
      | with_reducible refine keeps_pair (by with_reducible assumption) ?_ | dsimp only | decide)

theorem checked_keeps {ch : List DevField} (g : Sig) (c : Cmd) (body : Cmd → List Int → Device → Done) (d : Device)
    (hc : within [.mbx, .vlog, .lanes, .fabric] ch = true) (hd : g.reads = true → within [.vlog, .dram] ch = true)
    (hb : ∀ c a d, DoneKeeps ch d (body c a d)) : DoneKeeps ch d (checked g c body d) := by
  unfold checked
  repeat' (first
      | with_reducible exact no_doneKeeps .. | exact checkAndRun_keeps _ _ _ _ _ hd hb
      | exact relayCommand_keeps _ _ _ (within_trans (by decide) hc) (Keeps.refl _ _) | with_reducible apply doneKeeps_ite | split)

theorem tagless_keeps {ch : List DevField} {a : Device} (g : Sig) (c : Cmd) (st : Status) (r : Reason) (d : Device) (hc : within [.mbx,
    .vlog, .lanes, .fabric] ch = true) (hk : Keeps ch a d) : Keeps ch a (tagless g c st r d) := by
  refine Keeps.step ?_ hc hk
  unfold tagless
  repeat' (first | with_reducible exact Keeps.refl _ _ | with_reducible assumption | intro _ | with_reducible apply deliver_keeps | decide)

theorem duplicate_keeps {ch : List DevField} {a : Device} (g : Sig) (c : Cmd) (m : Remembered) (d : Device) (hc : within [.mbx, .vlog,
    .lanes, .fabric] ch = true) (hk : Keeps ch a d) : Keeps ch a (duplicate g c m d) := by
  refine Keeps.step ?_ hc hk
  unfold duplicate
  repeat' (first
      | with_reducible exact Keeps.refl _ _ | with_reducible assumption | intro _ | with_reducible apply deliver_keeps | dsimp only
      | decide)

theorem complete_keeps {ch : List DevField} {a : Device} (g : Sig) (c : Cmd) (r : Reply) (d : Device) (hc : within [.mbx, .vlog, .lanes,
    .fabric] ch = true) (hk : Keeps ch a d) : Keeps ch a (complete g c r d) := by
  refine Keeps.step ?_ hc hk
  unfold complete
  repeat' (first
      | with_reducible exact Keeps.refl _ _ | with_reducible assumption | intro _ | with_reducible apply deliver_keeps
      | with_reducible apply modMbx_keeps | with_reducible apply answer_keeps | with_reducible apply keeps_ite | dsimp only | decide)

theorem await_keeps {ch : List DevField} {a : Device} (g : Sig) (c : Cmd) (w : Work) (d : Device) (hc : within [.mbx, .vlog, .lanes,
    .fabric] ch = true) (hk : Keeps ch a d) : Keeps ch a (await g c w d) := by
  refine Keeps.step ?_ hc hk
  unfold await
  repeat' (first
      | with_reducible exact Keeps.refl _ _ | with_reducible assumption | intro _ | with_reducible apply deliver_keeps
      | with_reducible apply modMbx_keeps | with_reducible apply keeps_ite | dsimp only | decide)

theorem settle_keeps {ch : List DevField} {a : Device} (g : Sig) (c : Cmd) (x : Done) (hc : within [.mbx, .vlog, .lanes, .fabric] ch = true)
    (h : DoneKeeps ch a x) : Keeps ch a (settle g c x) := by
  unfold settle
  split
  · exact complete_keeps _ _ _ _ hc h
  · exact (complete_keeps _ _ _ _ hc h.1).trans (h.2 _)
  · exact await_keeps _ _ _ _ hc h

theorem accept_keeps {ch : List DevField} (g : Sig) (c : Cmd) (body : Cmd → List Int → Device → Done) (d : Device)
    (hc : within [.mbx, .vlog, .lanes, .fabric] ch = true) (hd : g.reads = true → within [.vlog, .dram] ch = true)
    (hb : ∀ c a d, DoneKeeps ch d (body c a d)) : Keeps ch d (accept g c body d) := by
  unfold accept
  dsimp only
  split
  · exact answer_keeps _ _ _ (within_trans (by decide) hc) (Keeps.refl _ _)
  · exact settle_keeps _ _ _ (within_trans (by decide) hc) (checked_keeps _ _ _ _ (within_trans (by decide) hc) hd hb)

theorem enter_keeps {ch : List DevField} (g : Sig) (c : Cmd) (body : Cmd → List Int → Device → Done) (d : Device)
    (hc : within [.mbx, .vlog, .lanes, .fabric] ch = true) (hd : g.reads = true → within [.vlog, .dram] ch = true)
    (hb : ∀ c a d, DoneKeeps ch d (body c a d)) : Keeps ch d (enter g c body d) := by
  unfold enter
  repeat' (first
      | with_reducible exact Keeps.refl _ _ | exact hc | with_reducible apply tagless_keeps | with_reducible apply violation_keeps
      | with_reducible apply duplicate_keeps | exact accept_keeps _ _ _ _ (within_trans (by decide) hc) hd hb
      | with_reducible apply keeps_ite | exact within_trans (by decide) hc | split)

theorem readFront_keeps {ch : List DevField} {a : Device} (c : Cmd) (op : U16) (d : Device) (hc : within [.mbx] ch = true) (hk : Keeps ch
    a d) : OptKeeps ch a (readFront c op d) := by
  refine optKeeps_step ?_ hc hk
  unfold readFront
  repeat' (first
      | with_reducible exact Keeps.refl _ _ | with_reducible assumption | intro _ | with_reducible apply putIndices_keeps
      | with_reducible apply modMbx_keeps | exact optKeeps_none | with_reducible apply optKeeps_some | split | dsimp only | decide)

theorem takeFront_keeps {ch : List DevField} {a : Device} (g : Sig) (c : Cmd) (d : Device) (hc : within [.mbx] ch = true) (hk : Keeps ch a
    d) : OptKeeps ch a (takeFront g c d) := by
  refine optKeeps_step ?_ hc hk
  unfold takeFront
  repeat' (first
      | with_reducible exact Keeps.refl _ _ | with_reducible assumption | intro _ | with_reducible apply readFront_keeps
      | exact optKeeps_none | with_reducible apply optKeeps_some | split
      | with_reducible refine keeps_opt (by with_reducible assumption) ?_ | decide)

theorem finishSeq_keeps {ch : List DevField} {a : Device} (key : RingKey) (seq : U32) (r : Reply) (d : Device) (hc : within [.mbx, .vlog,
    .lanes, .fabric] ch = true) (hk : Keeps ch a d) : Keeps ch a (finishSeq key seq r d) := by
  refine Keeps.step ?_ hc hk
  unfold finishSeq
  repeat' (first
      | with_reducible exact Keeps.refl _ _ | with_reducible assumption | intro _ | with_reducible apply finish_keeps | split | dsimp only
      | decide)

theorem dirty_keeps {ch : List DevField} {a : Device} (d : Device) (hc : within [.red] ch = true) (hk : Keeps ch a d) : Keeps ch a (dirty
    d) := by
  refine Keeps.step ?_ hc hk
  unfold dirty
  repeat' (first | with_reducible exact Keeps.refl _ _ | with_reducible assumption | intro _ | with_reducible apply modRed_keeps | decide)

theorem done_keeps {ch : List DevField} {a : Device} (d : Device) (hc : within [.red] ch = true) (hk : Keeps ch a d) : DoneKeeps ch a
    (done d) := by
  refine doneKeeps_step ?_ hc hk
  unfold done
  repeat' (first
      | with_reducible exact Keeps.refl _ _ | with_reducible assumption | intro _ | with_reducible apply ok_keeps
      | with_reducible apply dirty_keeps | with_reducible apply doneKeeps_ite | with_reducible apply doneKeeps_reply
      | with_reducible apply doneKeeps_later | decide)

/-! Topology.lean -/

theorem sendAssign_keeps {ch : List DevField} {a : Device} (m : Member) (d : Device) (hc : within [.lanes, .fabric] ch = true) (hk : Keeps
    ch a d) : Keeps ch a (sendAssign m d) := by
  refine Keeps.step ?_ hc hk
  unfold sendAssign
  repeat' (first
      | with_reducible exact Keeps.refl _ _ | with_reducible assumption | intro _ | with_reducible apply takeSrcSeq_keeps
      | with_reducible apply sendOnPort_keeps | with_reducible apply keeps_ite | split
      | with_reducible refine keeps_pair (by with_reducible assumption) ?_ | dsimp only | decide)

theorem loadRoutes_keeps {ch : List DevField} {a : Device} (d : Device) (hc : within [.lanes, .fabric] ch = true) (hk : Keeps ch a d) :
    Keeps ch a (loadRoutes d) := by
  refine Keeps.step ?_ hc hk
  unfold loadRoutes
  repeat' (first
      | with_reducible exact Keeps.refl _ _ | with_reducible assumption | intro _ | with_reducible apply modFabric_keeps
      | with_reducible apply sendAssign_keeps | with_reducible apply keeps_ite | with_reducible apply keeps_foldl | dsimp only | decide)

theorem rerouted_keeps {ch : List DevField} {a : Device} (d : Device) (hc : within [.mbx, .vlog, .lanes, .fabric] ch = true) (hk : Keeps
    ch a d) : Keeps ch a (rerouted d) := by
  refine Keeps.step ?_ hc hk
  unfold rerouted
  repeat' (first
      | with_reducible exact Keeps.refl _ _ | with_reducible assumption | intro _ | with_reducible apply raise_keeps
      | with_reducible apply loadRoutes_keeps | with_reducible apply keeps_ite | decide)

theorem reportLink_keeps {ch : List DevField} {a : Device} (p : Port) (isUp : Bool) (neighbour : U64) (d : Device) (hc : within [.mbx,
    .vlog, .lanes, .fabric] ch = true) (hk : Keeps ch a d) : Keeps ch a (reportLink p isUp neighbour d) := by
  refine Keeps.step ?_ hc hk
  unfold reportLink
  repeat' (first
      | with_reducible exact Keeps.refl _ _ | with_reducible assumption | intro _ | with_reducible apply rerouted_keeps
      | with_reducible apply sendTo_keeps | with_reducible apply keeps_ite
      | with_reducible refine keeps_pair (by with_reducible assumption) ?_ | decide)

theorem linkSend_keeps {ch : List DevField} {a : Device} (p : Port) (t : LinkTx) (d : Device) (hc : within [.lanes, .fabric] ch = true)
    (hk : Keeps ch a d) : Keeps ch a (linkSend p t d) := by
  refine Keeps.step ?_ hc hk
  unfold linkSend
  repeat' (first
      | with_reducible exact Keeps.refl _ _ | with_reducible assumption | intro _ | with_reducible apply giveLink_keeps
      | with_reducible apply keeps_ite | decide)

theorem sendHello_keeps {ch : List DevField} {a : Device} (p : Port) (d : Device) (hc : within [.lanes, .fabric] ch = true) (hk : Keeps ch
    a d) : Keeps ch a (sendHello p d) := by
  refine Keeps.step ?_ hc hk
  unfold sendHello
  repeat' (first
      | with_reducible exact Keeps.refl _ _ | with_reducible assumption | intro _ | with_reducible apply linkSend_keeps
      | with_reducible apply keeps_ite | decide)

theorem sendJoin_keeps {ch : List DevField} {a : Device} (d : Device) (hc : within [.mbx, .vlog, .lanes, .fabric] ch = true) (hk : Keeps
    ch a d) : Keeps ch a (sendJoin d) := by
  refine Keeps.step ?_ hc hk
  unfold sendJoin
  repeat' (first
      | with_reducible exact Keeps.refl _ _ | with_reducible assumption | intro _ | with_reducible apply sendTo_keeps
      | with_reducible refine keeps_pair (by with_reducible assumption) ?_ | decide)

/-! Shared.lean -/

theorem latchPeriod_keeps {ch : List DevField} {a : Device} (k : Fin 3) (n setId : U32) (d : Device) (hc : within [.mbx, .vlog, .acct,
    .lanes, .fabric] ch = true) (hk : Keeps ch a d) : Keeps ch a (latchPeriod k n setId d) := by
  refine Keeps.step ?_ hc hk
  unfold latchPeriod
  repeat' (first
      | with_reducible exact Keeps.refl _ _ | with_reducible assumption | intro _ | with_reducible apply raise_keeps
      | with_reducible apply keeps_ite | dsimp only
      | (rw [restSz_fold]; refine keeps_sz (h := ?_) (e := ⟨fun f hf => by cases f <;> first | exact absurd (by decide) hf | dsimp only [DevField.Same, Chip.own]⟩) ..)
      | decide)

theorem noteLines_keeps {ch : List DevField} {a : Device} (h : Head) (job : JobKey) (lines : List ℕ) (fired : Bool) (d : Device) (hc :
    within [.fire] ch = true) (hk : Keeps ch a d) : Keeps ch a (noteLines h job lines fired d) := by
  refine Keeps.step ?_ hc hk
  unfold noteLines
  repeat' (first
      | with_reducible exact Keeps.refl _ _ | with_reducible assumption | intro _ | with_reducible apply keeps_ite | dsimp only
      | (rw [restSz_fold]; refine keeps_sz (h := ?_) (e := ⟨fun f hf => by cases f <;> first | exact absurd (by decide) hf | dsimp only [DevField.Same, Chip.own]⟩) ..))

theorem noteEnded_keeps {ch : List DevField} {a : Device} (t : Token) (fired : Bool) (d : Device) (hc : within [.fire] ch = true) (hk :
    Keeps ch a d) : Keeps ch a (noteEnded t fired d) := by
  refine Keeps.step ?_ hc hk
  unfold noteEnded
  repeat' (first
      | with_reducible exact Keeps.refl _ _ | with_reducible assumption | intro _ | with_reducible apply noteLines_keeps | decide)

theorem countSkip_keeps {ch : List DevField} {a : Device} (h : Head) (r : Skip) (d : Device) (hc : within [.acct] ch = true) (hk : Keeps
    ch a d) : Keeps ch a (countSkip h r d) := by
  refine Keeps.step ?_ hc hk
  unfold countSkip
  repeat' (first
      | with_reducible exact Keeps.refl _ _ | with_reducible assumption | intro _ | with_reducible apply countHead_keeps | decide)

theorem skipToken_keeps {ch : List DevField} {a : Device} (r : Skip) (d : Device) (t : Token) (hc : within [.acct, .fire] ch = true) (hk :
    Keeps ch a d) : Keeps ch a (skipToken r d t) := by
  refine Keeps.step ?_ hc hk
  unfold skipToken
  repeat' (first
      | with_reducible exact Keeps.refl _ _ | with_reducible assumption | intro _ | with_reducible apply noteEnded_keeps
      | with_reducible apply countSkip_keeps | decide)

theorem skipTokens_keeps {ch : List DevField} {a : Device} (p : Token → Bool) (r : Skip) (d : Device) (hc : within [.acct, .fire] ch =
    true) (hk : Keeps ch a d) : Keeps ch a (skipTokens p r d) := by
  refine Keeps.step ?_ hc hk
  unfold skipTokens
  repeat' (first
      | with_reducible exact Keeps.refl _ _ | with_reducible assumption | intro _ | with_reducible apply skipToken_keeps
      | with_reducible apply keeps_foldl | dsimp only
      | (rw [restSz_fold]; refine keeps_sz (h := ?_) (e := ⟨fun f hf => by cases f <;> first | exact absurd (by decide) hf | dsimp only [DevField.Same, Chip.own]⟩) ..)
      | decide)

theorem freshSector_keeps {ch : List DevField} {a : Device} (d : Device) (n : ℕ) (hc : within [.nv] ch = true) (hk : Keeps ch a d) : Keeps
    ch a (freshSector d n) := by
  refine Keeps.step ?_ hc hk
  unfold freshSector
  repeat' (first
      | with_reducible exact Keeps.refl _ _ | with_reducible assumption | intro _ | with_reducible apply keeps_ite | dsimp only
      | (rw [restSz_fold]; refine keeps_sz (h := ?_) (e := ⟨fun f hf => by cases f <;> first | exact absurd (by decide) hf | dsimp only [DevField.Same, Chip.own]⟩) ..))

theorem freshSectors_keeps {ch : List DevField} {a : Device} (first at_ len : ℕ) (d : Device) (hc : within [.nv] ch = true) (hk : Keeps ch
    a d) : Keeps ch a (freshSectors first at_ len d) := by
  refine Keeps.step ?_ hc hk
  unfold freshSectors
  repeat' (first
      | with_reducible exact Keeps.refl _ _ | with_reducible assumption | intro _ | with_reducible apply freshSector_keeps
      | with_reducible apply keeps_foldl | decide)

theorem queueProgram_keeps {ch : List DevField} {a : Device} (p : FlashWork) (d : Device) (hc : within [.nv] ch = true) (hk : Keeps ch a
    d) : Keeps ch a (queueProgram p d) := by
  refine Keeps.step ?_ hc hk
  unfold queueProgram
  repeat' (first
      | with_reducible exact Keeps.refl _ _ | with_reducible assumption | intro _ | dsimp only
      | (rw [restSz_fold]; refine keeps_sz (h := ?_) (e := ⟨fun f hf => by cases f <;> first | exact absurd (by decide) hf | dsimp only [DevField.Same, Chip.own]⟩) ..))

theorem journalAppend_keeps {ch : List DevField} {a : Device} (key index : ℕ) (body : List U8) (reply : Bool) (d : Device) (hc : within
    [.nv] ch = true) (hk : Keeps ch a d) : Keeps ch a (journalAppend key index body reply d) := by
  refine Keeps.step ?_ hc hk
  unfold journalAppend
  repeat' (first
      | with_reducible exact Keeps.refl _ _ | with_reducible assumption | intro _ | with_reducible apply queueProgram_keeps
      | with_reducible apply freshSectors_keeps | split | dsimp only
      | (rw [restSz_fold]; refine keeps_sz (h := ?_) (e := ⟨fun f hf => by cases f <;> first | exact absurd (by decide) hf | dsimp only [DevField.Same, Chip.own]⟩) ..)
      | decide)

theorem recordRole_keeps {ch : List DevField} {a : Device} (r : Role) (d : Device) (hc : within [.nv] ch = true) (hk : Keeps ch a d) :
    Keeps ch a (recordRole r d) := by
  refine Keeps.step ?_ hc hk
  unfold recordRole
  repeat' (first
      | with_reducible exact Keeps.refl _ _ | with_reducible assumption | intro _ | with_reducible apply queueProgram_keeps
      | with_reducible apply freshSectors_keeps | decide)

theorem beginDiscovery_keeps {ch : List DevField} {a : Device} (d : Device) (hc : within [.fabric] ch = true) (hk : Keeps ch a d) : Keeps
    ch a (beginDiscovery d) := by
  refine Keeps.step ?_ hc hk
  unfold beginDiscovery
  repeat' (first
      | with_reducible exact Keeps.refl _ _ | with_reducible assumption | intro _ | with_reducible apply modFabric_keeps | decide)

theorem updateCand_keeps {ch : List DevField} {a : Device} (d : Device) (hc : within [.fabric] ch = true) (hk : Keeps ch a d) : Keeps ch a
    (updateCand d) := by
  refine Keeps.step ?_ hc hk
  unfold updateCand
  repeat' (first
      | with_reducible exact Keeps.refl _ _ | with_reducible assumption | intro _ | with_reducible apply beginDiscovery_keeps
      | with_reducible apply modFabric_keeps | with_reducible apply keeps_ite | split | dsimp only | decide)

theorem closeWindow_keeps {ch : List DevField} {a : Device} (d : Device) (hc : within [.mbx, .vlog, .lanes, .fabric, .prs] ch = true) (hk
    : Keeps ch a d) : Keeps ch a (closeWindow d) := by
  refine Keeps.step ?_ hc hk
  unfold closeWindow
  repeat' (first
      | with_reducible exact Keeps.refl _ _ | with_reducible assumption | intro _ | with_reducible apply raise_keeps
      | with_reducible apply setIrq_keeps | with_reducible apply keeps_ite | dsimp only
      | (rw [restSz_fold]; refine keeps_sz (h := ?_) (e := ⟨fun f hf => by cases f <;> first | exact absurd (by decide) hf | dsimp only [DevField.Same, Chip.own]⟩) ..)
      | decide)

theorem unaskWitness_keeps {ch : List DevField} {a : Device} (h : Head) (ans : Option (U32 × U32)) (d : Device) (hc : within [.mbx, .vlog,
    .lanes, .fabric] ch = true) (hk : Keeps ch a d) : Keeps ch a (unaskWitness h ans d) := by
  refine Keeps.step ?_ hc hk
  unfold unaskWitness
  repeat' (first
      | with_reducible exact Keeps.refl _ _ | with_reducible assumption | intro _ | with_reducible apply modMbx_keeps
      | with_reducible apply finish_keeps | with_reducible apply keeps_foldl | split | dsimp only | decide)

theorem headAbsent_keeps {ch : List DevField} {a : Device} (h : Head) (st : HeadState) (d : Device) (hc : within [.mbx, .vlog, .links,
    .lanes, .fabric] ch = true) (hk : Keeps ch a d) : Keeps ch a (headAbsent h st d) := by
  refine Keeps.step ?_ hc hk
  unfold headAbsent
  repeat' (first
      | with_reducible exact Keeps.refl _ _ | with_reducible assumption | intro _ | with_reducible apply modLink_keeps
      | with_reducible apply unaskWitness_keeps | with_reducible apply finishAll_keeps | dsimp only | decide)

theorem noteStall_keeps {ch : List DevField} {a : Device} (d : Device) (hc : within [.cz] ch = true) (hk : Keeps ch a d) : Keeps ch a
    (noteStall d) := by
  refine Keeps.step ?_ hc hk
  unfold noteStall
  repeat' (first
      | with_reducible exact Keeps.refl _ _ | with_reducible assumption | intro _ | dsimp only
      | (rw [restSz_fold]; refine keeps_sz (h := ?_) (e := ⟨fun f hf => by cases f <;> first | exact absurd (by decide) hf | dsimp only [DevField.Same, Chip.own]⟩) ..))

theorem dropUnsent_keeps {ch : List DevField} {a : Device} (d : Device) (hc : within [.cz, .fabric, .red] ch = true) (hk : Keeps ch a d) :
    Keeps ch a (dropUnsent d) := by
  refine Keeps.step ?_ hc hk
  unfold dropUnsent
  repeat' (first
      | with_reducible exact Keeps.refl _ _ | with_reducible assumption | intro _ | with_reducible apply modFabric_keeps
      | with_reducible apply noteStall_keeps | dsimp only
      | (rw [restSz_fold]; refine keeps_sz (h := ?_) (e := ⟨fun f hf => by cases f <;> first | exact absurd (by decide) hf | dsimp only [DevField.Same, Chip.own]⟩) ..)
      | decide)

theorem demote_keeps {ch : List DevField} {a : Device} (d : Device) (hc : within [.chip, .mbx, .vlog, .links, .cz, .lanes, .fabric, .red,
    .nv] ch = true) (hk : Keeps ch a d) : Keeps ch a (demote d) := by
  refine Keeps.step ?_ hc hk
  unfold demote
  repeat' (first
      | with_reducible exact Keeps.refl _ _ | with_reducible assumption | intro _ | with_reducible apply headAbsent_keeps
      | with_reducible apply dropUnsent_keeps | with_reducible apply raise_keeps | with_reducible apply recordRole_keeps
      | with_reducible apply noteRed_keeps | with_reducible apply keeps_ite | with_reducible apply keeps_foldl | dsimp only
      | (rw [restSz_fold]; refine keeps_sz (h := ?_) (e := ⟨fun f hf => by cases f <;> first | exact absurd (by decide) hf | dsimp only [DevField.Same, Chip.own]⟩) ..)
      | decide)

theorem resetDicts_keeps {ch : List DevField} {a : Device} (l : LinkId) (d : Device) (hc : within [.cz] ch = true) (hk : Keeps ch a d) :
    Keeps ch a (resetDicts l d) := by
  refine Keeps.step ?_ hc hk
  unfold resetDicts
  repeat' (first
      | with_reducible exact Keeps.refl _ _ | with_reducible assumption | intro _ | with_reducible apply noteStall_keeps | dsimp only
      | (rw [restSz_fold]; refine keeps_sz (h := ?_) (e := ⟨fun f hf => by cases f <;> first | exact absurd (by decide) hf | dsimp only [DevField.Same, Chip.own]⟩) ..)
      | decide)

theorem untag_keeps {ch : List DevField} {a : Device} (p : Port) (d : Device) (hc : within [.fabric] ch = true) (hk : Keeps ch a d) :
    Keeps ch a (untag p d) := by
  refine Keeps.step ?_ hc hk
  unfold untag
  repeat' (first
      | with_reducible exact Keeps.refl _ _ | with_reducible assumption | intro _ | with_reducible apply modFabric_keeps | dsimp only
      | decide)

theorem frameLost_keeps {ch : List DevField} {a : Device} (dest : U8) (msgType : U16) (srcSeq : U32) (d : Device) (hc : within [.mbx,
    .vlog, .lanes, .fabric] ch = true) (hk : Keeps ch a d) : Keeps ch a (frameLost dest msgType srcSeq d) := by
  refine Keeps.step ?_ hc hk
  unfold frameLost
  repeat' (first
      | with_reducible exact Keeps.refl _ _ | with_reducible assumption | intro _ | with_reducible apply raise_keeps
      | with_reducible apply finishWork_keeps | with_reducible apply modFabric_keeps | with_reducible apply finishAll_keeps
      | with_reducible apply modMbx_keeps | with_reducible apply keeps_ite | dsimp only | decide)

theorem rerouteFrame_keeps {ch : List DevField} {a : Device} (p : Port) (d : Device) (w : DataFrame × Option Port) (hc : within [.mbx,
    .vlog, .lanes, .fabric] ch = true) (hk : Keeps ch a d) : Keeps ch a (rerouteFrame p d w) := by
  refine Keeps.step ?_ hc hk
  unfold rerouteFrame
  repeat' (first
      | with_reducible exact Keeps.refl _ _ | with_reducible assumption | intro _ | with_reducible apply releaseFrame_keeps
      | with_reducible apply forwardOn_keeps | with_reducible apply fabViolation_keeps | with_reducible apply frameLost_keeps
      | with_reducible apply sendUnreachable_keeps | with_reducible apply keeps_ite | split | dsimp only | decide)

theorem resetPort_keeps {ch : List DevField} {a : Device} (p : Port) (d : Device) (hc : within [.mbx, .vlog, .lanes, .fabric] ch = true)
    (hk : Keeps ch a d) : Keeps ch a (resetPort p d) := by
  refine Keeps.step ?_ hc hk
  unfold resetPort
  repeat' (first
      | with_reducible exact Keeps.refl _ _ | with_reducible assumption | intro _ | with_reducible apply untag_keeps
      | with_reducible apply modPort_keeps | with_reducible apply rerouteFrame_keeps | with_reducible apply keeps_foldl | dsimp only
      | decide)

theorem portDown_keeps {ch : List DevField} {a : Device} (p : Port) (d : Device) (hc : within [.mbx, .vlog, .cz, .lanes, .fabric] ch =
    true) (hk : Keeps ch a d) : Keeps ch a (portDown p d) := by
  refine Keeps.step ?_ hc hk
  unfold portDown
  repeat' (first
      | with_reducible exact Keeps.refl _ _ | with_reducible assumption | intro _ | with_reducible apply resetPort_keeps
      | with_reducible apply resetDicts_keeps | with_reducible apply updateCand_keeps | with_reducible apply reportLink_keeps
      | with_reducible apply sendHello_keeps | with_reducible apply keeps_ite | with_reducible apply keeps_foldl | dsimp only | decide)

theorem waggleDown_keeps {ch : List DevField} {a : Device} (d : Device) (hc : within [.cz, .red] ch = true) (hk : Keeps ch a d) : Keeps ch
    a (waggleDown d) := by
  refine Keeps.step ?_ hc hk
  unfold waggleDown
  repeat' (first
      | with_reducible exact Keeps.refl _ _ | with_reducible assumption | intro _ | with_reducible apply noteStall_keeps
      | with_reducible apply modRed_keeps | with_reducible apply resetDicts_keeps | dsimp only
      | (rw [restSz_fold]; refine keeps_sz (h := ?_) (e := ⟨fun f hf => by cases f <;> first | exact absurd (by decide) hf | dsimp only [DevField.Same, Chip.own]⟩) ..)
      | decide)

theorem noteDegraded_keeps {ch : List DevField} {a : Device} (p : Port) (d : Device) (hc : within [.mbx, .vlog, .lanes, .fabric] ch =
    true) (hk : Keeps ch a d) : Keeps ch a (noteDegraded p d) := by
  refine Keeps.step ?_ hc hk
  unfold noteDegraded
  repeat' (first
      | with_reducible exact Keeps.refl _ _ | with_reducible assumption | intro _ | with_reducible apply modPort_keeps
      | with_reducible apply raise_keeps | with_reducible apply keeps_ite | dsimp only | decide)

theorem holdLock_keeps {ch : List DevField} {a : Device} (k : Fin 8) (d : Device) (hc : within [.fabric] ch = true) (hk : Keeps ch a d) :
    Keeps ch a (holdLock k d) := by
  refine Keeps.step ?_ hc hk
  unfold holdLock
  repeat' (first
      | with_reducible exact Keeps.refl _ _ | with_reducible assumption | intro _ | with_reducible apply modFabric_keeps
      | with_reducible apply keeps_ite | decide)

theorem linkFell_keeps {ch : List DevField} {a : Device} (l : LaneId) (d : Device) (hc : within [.mbx, .vlog, .links, .adapters, .cz,
    .lanes, .fabric, .red] ch = true) (hk : Keeps ch a d) : Keeps ch a (linkFell l d) := by
  refine Keeps.step ?_ hc hk
  unfold linkFell
  repeat' (first
      | with_reducible exact Keeps.refl _ _ | with_reducible assumption | intro _ | with_reducible apply modAdapter_keeps
      | with_reducible apply headAbsent_keeps | with_reducible apply modPort_keeps | with_reducible apply pumpPort_keeps
      | with_reducible apply noteDegraded_keeps | with_reducible apply holdLock_keeps | with_reducible apply portDown_keeps
      | with_reducible apply waggleDown_keeps | with_reducible apply keeps_ite | split | dsimp only | decide)

theorem rxActive_keeps {ch : List DevField} {a : Device} (l : LaneId) (d : Device) (hc : within [.lanes] ch = true) (hk : Keeps ch a d) :
    Keeps ch a (rxActive l d) := by
  refine Keeps.step ?_ hc hk
  unfold rxActive
  repeat' (first | with_reducible exact Keeps.refl _ _ | with_reducible assumption | intro _ | with_reducible apply modLane_keeps | decide)

theorem portActive_keeps {ch : List DevField} {a : Device} (p : Port) (k : Fin 2) (d : Device) (hc : within [.lanes] ch = true) (hk :
    Keeps ch a d) : Keeps ch a (portActive p k d) := by
  refine Keeps.step ?_ hc hk
  unfold portActive
  repeat' (first | with_reducible exact Keeps.refl _ _ | with_reducible assumption | intro _ | with_reducible apply rxActive_keeps | decide)

theorem abandonTest_keeps {ch : List DevField} {a : Device} (l : LaneId) (d : Device) (hc : within [.mbx, .vlog, .lanes, .fabric] ch =
    true) (hk : Keeps ch a d) : Keeps ch a (abandonTest l d) := by
  refine Keeps.step ?_ hc hk
  unfold abandonTest
  repeat' (first
      | with_reducible exact Keeps.refl _ _ | with_reducible assumption | intro _ | with_reducible apply finishWork_keeps
      | with_reducible apply modLane_keeps | split | dsimp only | decide)

theorem retrainLane_keeps {ch : List DevField} {a : Device} (l : LaneId) (d : Device) (hc : within [.mbx, .vlog, .links, .adapters, .cz,
    .lanes, .fabric, .red] ch = true) (hk : Keeps ch a d) : Keeps ch a (retrainLane l d) := by
  refine Keeps.step ?_ hc hk
  unfold retrainLane
  repeat' (first
      | with_reducible exact Keeps.refl _ _ | with_reducible assumption | intro _ | with_reducible apply modLane_keeps
      | with_reducible apply abandonTest_keeps | with_reducible apply linkFell_keeps | with_reducible apply keeps_ite | dsimp only | decide)

theorem startTest_keeps {ch : List DevField} {a : Device} (l : LaneId) (loopback : Bool) (ms : ℕ) (d : Device) (hc : within [.mbx, .vlog,
    .links, .adapters, .cz, .lanes, .fabric, .red] ch = true) (hk : Keeps ch a d) : Keeps ch a (startTest l loopback ms d) := by
  refine Keeps.step ?_ hc hk
  unfold startTest
  repeat' (first
      | with_reducible exact Keeps.refl _ _ | with_reducible assumption | intro _ | with_reducible apply retrainLane_keeps
      | with_reducible apply modLane_keeps | dsimp only | decide)

theorem runTests_keeps {ch : List DevField} {a : Device} (d : Device) (hc : within [.mbx, .vlog, .links, .adapters, .cz, .lanes, .fabric,
    .red] ch = true) (hk : Keeps ch a d) : Keeps ch a (runTests d) := by
  refine Keeps.step ?_ hc hk
  unfold runTests
  repeat' (first
      | with_reducible exact Keeps.refl _ _ | with_reducible assumption | intro _ | with_reducible apply modLane_keeps
      | with_reducible apply startTest_keeps | with_reducible apply keeps_ite | with_reducible apply keeps_foldl | split | dsimp only
      | decide)

theorem reinitLane_keeps {ch : List DevField} {a : Device} (l : LaneId) (d : Device) (hc : within [.mbx, .vlog, .links, .adapters, .cz,
    .lanes, .fabric, .red] ch = true) (hk : Keeps ch a d) : Keeps ch a (reinitLane l d) := by
  refine Keeps.step ?_ hc hk
  unfold reinitLane
  repeat' (first
      | with_reducible exact Keeps.refl _ _ | with_reducible assumption | intro _ | with_reducible apply retrainLane_keeps
      | with_reducible apply keeps_ite | decide)

theorem reinitPort_keeps {ch : List DevField} {a : Device} (p : Port) (d : Device) (hc : within [.mbx, .vlog, .links, .adapters, .cz,
    .lanes, .fabric, .red] ch = true) (hk : Keeps ch a d) : Keeps ch a (reinitPort p d) := by
  refine Keeps.step ?_ hc hk
  unfold reinitPort
  repeat' (first
      | with_reducible exact Keeps.refl _ _ | with_reducible assumption | intro _ | with_reducible apply modPort_keeps
      | with_reducible apply reinitLane_keeps | decide)

theorem isolatePartner_keeps {ch : List DevField} {a : Device} (block : BitVec 5) (source : U16) (d : Device) (hc : within [.mbx, .vlog,
    .lanes, .fabric] ch = true) (hk : Keeps ch a d) : Keeps ch a (isolatePartner block source d) := by
  refine Keeps.step ?_ hc hk
  unfold isolatePartner
  repeat' (first
      | with_reducible exact Keeps.refl _ _ | with_reducible assumption | intro _ | with_reducible apply raise_keeps
      | with_reducible apply keeps_ite | dsimp only
      | (rw [restSz_fold]; refine keeps_sz (h := ?_) (e := ⟨fun f hf => by cases f <;> first | exact absurd (by decide) hf | dsimp only [DevField.Same, Chip.own]⟩) ..)
      | decide)

theorem wakeHeadLanes_keeps {ch : List DevField} {a : Device} (d : Device) (hc : within [.lanes] ch = true) (hk : Keeps ch a d) : Keeps ch
    a (wakeHeadLanes d) := by
  refine Keeps.step ?_ hc hk
  unfold wakeHeadLanes
  repeat' (first
      | with_reducible exact Keeps.refl _ _ | with_reducible assumption | intro _
      | (rw [restSz_fold]; refine keeps_sz (h := ?_) (e := ⟨fun f hf => by cases f <;> first | exact absurd (by decide) hf | dsimp only [DevField.Same, Chip.own]⟩) ..))

theorem refuseEntry_keeps {ch : List DevField} {a : Device} (r : Reason) (dom : Option ℕ) (d : Device) (hc : within [.mbx, .vlog, .lanes,
    .fabric, .pwr] ch = true) (hk : Keeps ch a d) : Keeps ch a (refuseEntry r dom d) := by
  refine Keeps.step ?_ hc hk
  unfold refuseEntry
  repeat' (first
      | with_reducible exact Keeps.refl _ _ | with_reducible assumption | intro _ | with_reducible apply wakeHeadLanes_keeps
      | with_reducible apply setIrq_keeps | with_reducible apply finishWork_keeps | with_reducible apply keeps_ite | split | dsimp only
      | (rw [restSz_fold]; refine keeps_sz (h := ?_) (e := ⟨fun f hf => by cases f <;> first | exact absurd (by decide) hf | dsimp only [DevField.Same, Chip.own]⟩) ..)
      | decide)

theorem camWasOff_keeps {ch : List DevField} {a : Device} (d : Device) (hc : within [.cams, .loop] ch = true) (hk : Keeps ch a d) : Keeps
    ch a (camWasOff d) := by
  refine Keeps.step ?_ hc hk
  unfold camWasOff
  repeat' (first
      | with_reducible exact Keeps.refl _ _ | with_reducible assumption | intro _ | dsimp only
      | (rw [restSz_fold]; refine keeps_sz (h := ?_) (e := ⟨fun f hf => by cases f <;> first | exact absurd (by decide) hf | dsimp only [DevField.Same, Chip.own]⟩) ..))

theorem rewriteSram_keeps {ch : List DevField} {a : Device} (retain : BitVec 4) (d : Device) (hc : within [.mbx, .feed, .banks, .engines,
    .drive, .cz, .crcs] ch = true) (hk : Keeps ch a d) : Keeps ch a (rewriteSram retain d) := by
  refine Keeps.step ?_ hc hk
  unfold rewriteSram
  repeat' (first
      | with_reducible exact Keeps.refl _ _ | with_reducible assumption | intro _ | with_reducible apply noteStall_keeps
      | with_reducible apply modMbx_keeps | with_reducible apply keeps_ite | dsimp only
      | (rw [restSz_fold]; refine keeps_sz (h := ?_) (e := ⟨fun f hf => by cases f <;> first | exact absurd (by decide) hf | dsimp only [DevField.Same, Chip.own]⟩) ..)
      | decide)

theorem resumeDram_keeps {ch : List DevField} {a : Device} (d : Device) (hc : within [.dram] ch = true) (hk : Keeps ch a d) : Keeps ch a
    (resumeDram d) := by
  refine Keeps.step ?_ hc hk
  unfold resumeDram
  repeat' (first
      | with_reducible exact Keeps.refl _ _ | with_reducible assumption | intro _ | with_reducible apply keeps_ite | dsimp only
      | (rw [restSz_fold]; refine keeps_sz (h := ?_) (e := ⟨fun f hf => by cases f <;> first | exact absurd (by decide) hf | dsimp only [DevField.Same, Chip.own]⟩) ..))

theorem idleHeadLanes_keeps {ch : List DevField} {a : Device} (d : Device) (hc : within [.lanes] ch = true) (hk : Keeps ch a d) : Keeps ch
    a (idleHeadLanes d) := by
  refine Keeps.step ?_ hc hk
  unfold idleHeadLanes
  repeat' (first
      | with_reducible exact Keeps.refl _ _ | with_reducible assumption | intro _ | dsimp only
      | (rw [restSz_fold]; refine keeps_sz (h := ?_) (e := ⟨fun f hf => by cases f <;> first | exact absurd (by decide) hf | dsimp only [DevField.Same, Chip.own]⟩) ..))

theorem lanesOff_keeps {ch : List DevField} {a : Device} (d : Device) (hc : within [.mbx, .vlog, .links, .cz, .lanes, .fabric, .red] ch =
    true) (hk : Keeps ch a d) : Keeps ch a (lanesOff d) := by
  refine Keeps.step ?_ hc hk
  unfold lanesOff
  repeat' (first
      | with_reducible exact Keeps.refl _ _ | with_reducible assumption | intro _ | with_reducible apply headAbsent_keeps
      | with_reducible apply modLane_keeps | with_reducible apply resetPort_keeps | with_reducible apply resetDicts_keeps
      | with_reducible apply waggleDown_keeps | with_reducible apply keeps_ite | with_reducible apply keeps_foldl | dsimp only
      | (rw [restSz_fold]; refine keeps_sz (h := ?_) (e := ⟨fun f hf => by cases f <;> first | exact absurd (by decide) hf | dsimp only [DevField.Same, Chip.own]⟩) ..)
      | decide)

theorem dramOff_keeps {ch : List DevField} {a : Device} (deep : Bool) (d : Device) (hc : within [.dram, .nv] ch = true) (hk : Keeps ch a
    d) : Keeps ch a (dramOff deep d) := by
  refine Keeps.step ?_ hc hk
  unfold dramOff
  repeat' (first
      | with_reducible exact Keeps.refl _ _ | with_reducible assumption | intro _ | with_reducible apply keeps_ite | dsimp only
      | (rw [restSz_fold]; refine keeps_sz (h := ?_) (e := ⟨fun f hf => by cases f <;> first | exact absurd (by decide) hf | dsimp only [DevField.Same, Chip.own]⟩) ..))

theorem enterState_keeps {ch : List DevField} {a : Device} (d : Device) (hc : within [.chip, .mbx, .vlog, .links, .drive, .cz, .dram,
    .lanes, .fabric, .red, .pwr, .nv] ch = true) (hk : Keeps ch a d) : Keeps ch a (enterState d) := by
  refine Keeps.step ?_ hc hk
  unfold enterState
  repeat' (first
      | with_reducible exact Keeps.refl _ _ | with_reducible assumption | intro _ | with_reducible apply idleHeadLanes_keeps
      | with_reducible apply lanesOff_keeps | with_reducible apply dramOff_keeps | split | dsimp only
      | (rw [restSz_fold]; refine keeps_sz (h := ?_) (e := ⟨fun f hf => by cases f <;> first | exact absurd (by decide) hf | dsimp only [DevField.Same, Chip.own]⟩) ..)
      | decide)

theorem wakeUp_keeps {ch : List DevField} {a : Device} (source : ℕ) (d : Device) (hc : within [.mbx, .vlog, .feed, .banks, .engines,
    .drive, .cams, .loop, .cz, .crcs, .dram, .lanes, .fabric, .pwr, .nv] ch = true) (hk : Keeps ch a d) : Keeps ch a (wakeUp source d) :=
    by
  refine Keeps.step ?_ hc hk
  unfold wakeUp
  repeat' (first
      | with_reducible exact Keeps.refl _ _ | with_reducible assumption | intro _ | with_reducible apply camWasOff_keeps
      | with_reducible apply rewriteSram_keeps | with_reducible apply wakeHeadLanes_keeps | with_reducible apply resumeDram_keeps
      | with_reducible apply raise_keeps | with_reducible apply setIrq_keeps | with_reducible apply keeps_ite | split | dsimp only
      | (rw [restSz_fold]; refine keeps_sz (h := ?_) (e := ⟨fun f hf => by cases f <;> first | exact absurd (by decide) hf | dsimp only [DevField.Same, Chip.own]⟩) ..)
      | decide)

theorem wakeSource_keeps {ch : List DevField} {a : Device} (source : ℕ) (d : Device) (hc : within [.chip, .mbx, .vlog, .feed, .banks,
    .engines, .links, .drive, .cams, .loop, .cz, .crcs, .dram, .lanes, .fabric, .red, .pwr, .nv] ch = true) (hk : Keeps ch a d) : Keeps ch
    a (wakeSource source d) := by
  refine Keeps.step ?_ hc hk
  unfold wakeSource
  repeat' (first
      | with_reducible exact Keeps.refl _ _ | with_reducible assumption | intro _ | with_reducible apply enterState_keeps
      | with_reducible apply refuseEntry_keeps | with_reducible apply wakeUp_keeps | with_reducible apply keeps_ite | dsimp only | decide)

theorem sendRoles_keeps {ch : List DevField} {a : Device} (d : Device) (hc : within [.lanes, .fabric] ch = true) (hk : Keeps ch a d) :
    Keeps ch a (sendRoles d) := by
  refine Keeps.step ?_ hc hk
  unfold sendRoles
  repeat' (first
      | with_reducible exact Keeps.refl _ _ | with_reducible assumption | intro _ | with_reducible apply broadcast_keeps
      | with_reducible apply keeps_ite | decide)

/-! Banks.lean -/

theorem advanceVictims_keeps {ch : List DevField} {a : Device} (d : Device) (hc : within [.dram] ch = true) (hk : Keeps ch a d) : Keeps ch
    a (advanceVictims d) := by
  refine Keeps.step ?_ hc hk
  unfold advanceVictims
  repeat' (first
      | with_reducible exact Keeps.refl _ _ | with_reducible assumption | intro _ | with_reducible apply modDram_keeps
      | with_reducible apply dueVictim_keeps | with_reducible apply keeps_ite | with_reducible apply keeps_foldl | dsimp only | decide)

theorem advanceRelock_keeps {ch : List DevField} {a : Device} (d : Device) (hc : within [.dram] ch = true) (hk : Keeps ch a d) : Keeps ch
    a (advanceRelock d) := by
  refine Keeps.step ?_ hc hk
  unfold advanceRelock
  repeat' (first
      | with_reducible exact Keeps.refl _ _ | with_reducible assumption | intro _ | with_reducible apply modDram_keeps
      | with_reducible apply keeps_ite | split | dsimp only | decide)

/-! Cells.lean -/

theorem advanceAll_keeps {ch : List DevField} {a : Device} (d : Device) (hc : within [.links] ch = true) (hk : Keeps ch a d) : Keeps ch a
    (advanceAll d) := by
  refine Keeps.step ?_ hc hk
  unfold advanceAll
  repeat' (first
      | with_reducible exact Keeps.refl _ _ | with_reducible assumption | intro _ | with_reducible apply keeps_ite
      | (rw [restSz_fold]; refine keeps_sz (h := ?_) (e := ⟨fun f hf => by cases f <;> first | exact absurd (by decide) hf | dsimp only [DevField.Same, Chip.own]⟩) ..))

theorem sendCellAt_keeps {ch : List DevField} {a : Device} (now : ℕ) (h : Head) (c : TxCell) (d : Device) (hc : within [.links, .lanes] ch
    = true) (hk : Keeps ch a d) : Keeps ch a (sendCellAt now h c d) := by
  refine Keeps.step ?_ hc hk
  unfold sendCellAt
  repeat' (first
      | with_reducible exact Keeps.refl _ _ | with_reducible assumption | intro _ | with_reducible apply modLane_keeps
      | with_reducible apply modLink_keeps | with_reducible apply keeps_ite | dsimp only | decide)

theorem sendCell_keeps {ch : List DevField} {a : Device} (h : Head) (c : TxCell) (d : Device) (hc : within [.links, .lanes] ch = true) (hk
    : Keeps ch a d) : Keeps ch a (sendCell h c d) := by
  refine Keeps.step ?_ hc hk
  unfold sendCell
  repeat' (first
      | with_reducible exact Keeps.refl _ _ | with_reducible assumption | intro _ | with_reducible apply sendCellAt_keeps | decide)

theorem emitControl_keeps {ch : List DevField} {a : Device} (h : Head) (sub : BitVec 4) (payload : List U8) (d : Device) (hc : within
    [.links, .lanes] ch = true) (hk : Keeps ch a d) : Keeps ch a (emitControl h sub payload d) := by
  refine Keeps.step ?_ hc hk
  unfold emitControl
  repeat' (first
      | with_reducible exact Keeps.refl _ _ | with_reducible assumption | intro _ | with_reducible apply sendCell_keeps
      | with_reducible apply modLink_keeps | dsimp only | decide)

theorem sendControl_keeps {ch : List DevField} {a : Device} (h : Head) (sub : BitVec 4) (payload : List U8) (d : Device) (hc : within
    [.links, .lanes] ch = true) (hk : Keeps ch a d) : Keeps ch a (sendControl h sub payload d) := by
  refine Keeps.step ?_ hc hk
  unfold sendControl
  repeat' (first
      | with_reducible exact Keeps.refl _ _ | with_reducible assumption | intro _ | with_reducible apply modLink_keeps
      | with_reducible apply emitControl_keeps | with_reducible apply keeps_ite | decide)

theorem resumeControl_keeps {ch : List DevField} {a : Device} (h : Head) (d : Device) (hc : within [.links, .lanes] ch = true) (hk : Keeps
    ch a d) : Keeps ch a (resumeControl h d) := by
  refine Keeps.step ?_ hc hk
  unfold resumeControl
  repeat' (first
      | with_reducible exact Keeps.refl _ _ | with_reducible assumption | intro _ | with_reducible apply emitControl_keeps
      | with_reducible apply modLink_keeps | with_reducible apply keeps_ite | split | dsimp only | decide)

theorem sendInhibit_keeps {ch : List DevField} {a : Device} (h : Head) (set : Bool) (d : Device) (hc : within [.links, .lanes] ch = true)
    (hk : Keeps ch a d) : Keeps ch a (sendInhibit h set d) := by
  refine Keeps.step ?_ hc hk
  unfold sendInhibit
  repeat' (first
      | with_reducible exact Keeps.refl _ _ | with_reducible assumption | intro _ | with_reducible apply sendControl_keeps | decide)

theorem sendMaps_keeps {ch : List DevField} {a : Device} (h : Head) (img : Mem) (bank : Bool) (d : Device) (hc : within [.links, .lanes]
    ch = true) (hk : Keeps ch a d) : Keeps ch a (sendMaps h img bank d) := by
  refine Keeps.step ?_ hc hk
  unfold sendMaps
  repeat' (first
      | with_reducible exact Keeps.refl _ _ | with_reducible assumption | intro _ | with_reducible apply sendControl_keeps
      | with_reducible apply keeps_foldl | decide)

theorem sendConfig_keeps {ch : List DevField} {a : Device} (h : Head) (d : Device) (hc : within [.links, .lanes] ch = true) (hk : Keeps ch
    a d) : Keeps ch a (sendConfig h d) := by
  refine Keeps.step ?_ hc hk
  unfold sendConfig
  repeat' (first
      | with_reducible exact Keeps.refl _ _ | with_reducible assumption | intro _ | with_reducible apply sendControl_keeps | decide)

theorem startBring_keeps {ch : List DevField} {a : Device} (h : Head) (d : Device) (hc : within [.links, .lanes] ch = true) (hk : Keeps ch
    a d) : Keeps ch a (startBring h d) := by
  refine Keeps.step ?_ hc hk
  unfold startBring
  repeat' (first
      | with_reducible exact Keeps.refl _ _ | with_reducible assumption | intro _ | with_reducible apply sendControl_keeps
      | with_reducible apply modLink_keeps | with_reducible apply keeps_ite | decide)

theorem lateShadow_keeps {ch : List DevField} {a : Device} (h : Head) (d : Device) (hc : within [.links, .lanes] ch = true) (hk : Keeps ch
    a d) : Keeps ch a (lateShadow h d) := by
  refine Keeps.step ?_ hc hk
  unfold lateShadow
  repeat' (first
      | with_reducible exact Keeps.refl _ _ | with_reducible assumption | intro _ | with_reducible apply sendMaps_keeps
      | with_reducible apply keeps_ite | decide)

theorem presentHead_keeps {ch : List DevField} {a : Device} (h : Head) (d : Device) (hc : within [.mbx, .vlog, .acct, .fire, .links,
    .lanes, .fabric] ch = true) (hk : Keeps ch a d) : Keeps ch a (presentHead h d) := by
  refine Keeps.step ?_ hc hk
  unfold presentHead
  repeat' (first
      | with_reducible exact Keeps.refl _ _ | with_reducible assumption | intro _ | with_reducible apply skipTokens_keeps
      | with_reducible apply modLink_keeps | with_reducible apply raise_keeps | with_reducible apply lateShadow_keeps
      | with_reducible apply sendInhibit_keeps | with_reducible apply keeps_ite | dsimp only | decide)

theorem bringNext_keeps {ch : List DevField} {a : Device} (h : Head) (c : StatusCell) (d : Device) (hc : within [.mbx, .vlog, .acct,
    .fire, .links, .lanes, .fabric] ch = true) (hk : Keeps ch a d) : Keeps ch a (bringNext h c d) := by
  refine Keeps.step ?_ hc hk
  unfold bringNext
  repeat' (first
      | with_reducible exact Keeps.refl _ _ | with_reducible assumption | intro _ | with_reducible apply modLink_keeps
      | with_reducible apply sendMaps_keeps | with_reducible apply sendConfig_keeps | with_reducible apply presentHead_keeps
      | with_reducible apply keeps_ite | split | dsimp only | decide)

theorem controlReplied_keeps {ch : List DevField} {a : Device} (h : Head) (c : StatusCell) (d : Device) (hc : within [.mbx, .vlog, .acct,
    .fire, .links, .lanes, .fabric] ch = true) (hk : Keeps ch a d) : Keeps ch a (controlReplied h c d) := by
  refine Keeps.step ?_ hc hk
  unfold controlReplied
  repeat' (first
      | with_reducible exact Keeps.refl _ _ | with_reducible assumption | intro _ | with_reducible apply modLink_keeps
      | with_reducible apply emitControl_keeps | with_reducible apply bringNext_keeps | with_reducible apply keeps_ite | split | dsimp only
      | decide)

theorem countViol_keeps {ch : List DevField} {a : Device} (h : Head) (k : Fin 10) (d : Device) (hc : within [.links] ch = true) (hk :
    Keeps ch a d) : Keeps ch a (countViol h k d) := by
  refine Keeps.step ?_ hc hk
  unfold countViol
  repeat' (first | with_reducible exact Keeps.refl _ _ | with_reducible assumption | intro _ | with_reducible apply modLink_keeps | decide)

theorem fhlViolation_keeps {ch : List DevField} {a : Device} (h : Head) (k : Fin 10) (ans : BitVec 2) (d : Device) (hc : within [.mbx,
    .vlog, .links, .lanes, .fabric] ch = true) (hk : Keeps ch a d) : Keeps ch a (fhlViolation h k ans d) := by
  refine Keeps.step ?_ hc hk
  unfold fhlViolation
  repeat' (first
      | with_reducible exact Keeps.refl _ _ | with_reducible assumption | intro _ | with_reducible apply violation_keeps
      | with_reducible apply countViol_keeps | decide)

theorem takeStatus_keeps {ch : List DevField} {a : Device} (h : Head) (sub : ℕ) (c : StatusCell) (d : Device) (hc : within [.mbx, .vlog,
    .links, .lanes, .fabric] ch = true) (hk : Keeps ch a d) : Keeps ch a (takeStatus h sub c d).2 := by
  refine Keeps.step ?_ hc hk
  unfold takeStatus
  repeat' (first
      | with_reducible exact Keeps.refl _ _ | with_reducible assumption | intro _ | with_reducible apply rxActive_keeps
      | with_reducible apply modLink_keeps | with_reducible apply fhlViolation_keeps | with_reducible apply keeps_ite_snd | split
      | dsimp only | decide)

/-! Adapter.lean -/

theorem modAdPort_keeps {ch : List DevField} {a : Device} (h : Head) (port : Bool) (f : AdPort → AdPort) (d : Device) (hc : within
    [.adapters] ch = true) (hk : Keeps ch a d) : Keeps ch a (modAdPort h port f d) := by
  refine Keeps.step ?_ hc hk
  unfold modAdPort
  repeat' (first
      | with_reducible exact Keeps.refl _ _ | with_reducible assumption | intro _ | with_reducible apply modAdapter_keeps | decide)

theorem sendStatus_keeps {ch : List DevField} {a : Device} (h : Head) (port : Bool) (id : ℕ) (sub : BitVec 4) (echo : U16) (payload : List
    U8) (d : Device) (hc : within [.adapters] ch = true) (hk : Keeps ch a d) : Keeps ch a (sendStatus h port id sub echo payload d).2 :=
    by
  refine Keeps.step ?_ hc hk
  unfold sendStatus
  repeat' (first
      | with_reducible exact Keeps.refl _ _ | with_reducible assumption | intro _ | with_reducible apply modAdPort_keeps | dsimp only
      | decide)

theorem sendReport_keeps {ch : List DevField} {a : Device} (h : Head) (port : Bool) (id : ℕ) (echo : U16) (d : Device) (hc : within
    [.adapters] ch = true) (hk : Keeps ch a d) : Keeps ch a (sendReport h port id echo d).2 := by
  refine Keeps.step ?_ hc hk
  unfold sendReport
  repeat' (first
      | with_reducible exact Keeps.refl _ _ | with_reducible assumption | intro _ | with_reducible apply sendStatus_keeps
      | with_reducible apply modAdPort_keeps | split | with_reducible refine keeps_pair (by with_reducible assumption) ?_ | dsimp only
      | decide)

theorem discardCell_keeps {ch : List DevField} {a : Device} (h : Head) (port : Bool) (d : Device) (hc : within [.adapters] ch = true) (hk
    : Keeps ch a d) : Keeps ch a (discardCell h port d) := by
  refine Keeps.step ?_ hc hk
  unfold discardCell
  repeat' (first
      | with_reducible exact Keeps.refl _ _ | with_reducible assumption | intro _ | with_reducible apply modAdPort_keeps | decide)

theorem badCrcCell_keeps {ch : List DevField} {a : Device} (h : Head) (port : Bool) (d : Device) (hc : within [.adapters] ch = true) (hk :
    Keeps ch a d) : Keeps ch a (badCrcCell h port d) := by
  refine Keeps.step ?_ hc hk
  unfold badCrcCell
  repeat' (first
      | with_reducible exact Keeps.refl _ _ | with_reducible assumption | intro _ | with_reducible apply modAdPort_keeps | decide)

theorem urgentReport_keeps {ch : List DevField} {a : Device} (h : Head) (port : Bool) (id : ℕ) (d : Device) (hc : within [.adapters] ch =
    true) (hk : Keeps ch a d) : Keeps ch a (urgentReport h port id d) := by
  refine Keeps.step ?_ hc hk
  unfold urgentReport
  repeat' (first
      | with_reducible exact Keeps.refl _ _ | with_reducible assumption | intro _ | with_reducible apply sendReport_keeps
      | with_reducible apply keeps_ite | with_reducible refine keeps_pair (by with_reducible assumption) ?_ | decide)

theorem rejectEpoch_keeps {ch : List DevField} {a : Device} (h : Head) (port : Bool) (id : ℕ) (d : Device) (hc : within [.adapters] ch =
    true) (hk : Keeps ch a d) : Keeps ch a (rejectEpoch h port id d) := by
  refine Keeps.step ?_ hc hk
  unfold rejectEpoch
  repeat' (first
      | with_reducible exact Keeps.refl _ _ | with_reducible assumption | intro _ | with_reducible apply urgentReport_keeps
      | with_reducible apply modAdPort_keeps | with_reducible apply discardCell_keeps | decide)

theorem raiseEpoch_keeps {ch : List DevField} {a : Device} (h : Head) (epoch : U32) (d : Device) (hc : within [.adapters] ch = true) (hk :
    Keeps ch a d) : Keeps ch a (raiseEpoch h epoch d) := by
  refine Keeps.step ?_ hc hk
  unfold raiseEpoch
  repeat' (first
      | with_reducible exact Keeps.refl _ _ | with_reducible assumption | intro _ | with_reducible apply modAdapter_keeps
      | with_reducible apply keeps_ite | decide)

theorem holdLine_keeps {ch : List DevField} {a : Device} (h : Head) (port : Bool) (f : AdapterFacts) (c : LineCell) (d : Device) (hc :
    within [.adapters] ch = true) (hk : Keeps ch a d) : Keeps ch a (holdLine h port f c d) := by
  refine Keeps.step ?_ hc hk
  unfold holdLine
  repeat' (first
      | with_reducible exact Keeps.refl _ _ | with_reducible assumption | intro _ | with_reducible apply discardCell_keeps
      | with_reducible apply urgentReport_keeps | with_reducible apply modAdPort_keeps | with_reducible apply modAdapter_keeps
      | with_reducible apply keeps_ite | split | dsimp only | decide)

theorem takeFire_keeps {ch : List DevField} {a : Device} (h : Head) (cell : FireCell) (x : HeldLine) (d : Device) (hc : within [.adapters]
    ch = true) (hk : Keeps ch a d) : Keeps ch a (takeFire h cell x d) := by
  refine Keeps.step ?_ hc hk
  unfold takeFire
  repeat' (first
      | with_reducible exact Keeps.refl _ _ | with_reducible assumption | intro _ | with_reducible apply modAdapter_keeps | dsimp only
      | decide)

theorem applyControl_keeps {ch : List DevField} {a : Device} (h : Head) (f : AdapterFacts) (c : ControlCell) (d : Device) (hc : within
    [.adapters] ch = true) (hk : Keeps ch a d) : Keeps ch a (applyControl h f c d) := by
  refine Keeps.step ?_ hc hk
  unfold applyControl
  repeat' (first
      | with_reducible exact Keeps.refl _ _ | with_reducible assumption | intro _ | with_reducible apply modAdapter_keeps
      | with_reducible apply keeps_ite | split | dsimp only | decide)

theorem witnessPayload_keeps {ch : List DevField} {a : Device} (h : Head) (port : Bool) (d : Device) (hc : within [] ch = true) (hk :
    Keeps ch a d) : Keeps ch a (witnessPayload h port d).2 := by
  refine Keeps.step ?_ hc hk
  unfold witnessPayload
  repeat' (first
      | with_reducible exact Keeps.refl _ _ | with_reducible assumption | intro _ | with_reducible apply draw_keeps
      | with_reducible apply keeps_ite_snd | split | with_reducible refine keeps_pair (by with_reducible assumption) ?_ | dsimp only
      | decide)

theorem replyTo_keeps {ch : List DevField} {a : Device} (h : Head) (port : Bool) (f : AdapterFacts) (c : ControlCell) (d : Device) (hc :
    within [.adapters] ch = true) (hk : Keeps ch a d) : Keeps ch a (replyTo h port f c d).2 := by
  refine Keeps.step ?_ hc hk
  unfold replyTo
  repeat' (first
      | with_reducible exact Keeps.refl _ _ | with_reducible assumption | intro _ | with_reducible apply sendStatus_keeps
      | with_reducible apply witnessPayload_keeps | with_reducible apply draw_keeps | with_reducible apply sendReport_keeps | split
      | with_reducible refine keeps_pair (by with_reducible assumption) ?_ | dsimp only | decide)

theorem newControl_keeps {ch : List DevField} {a : Device} (h : Head) (port : Bool) (f : AdapterFacts) (cell : ControlCell) (d : Device)
    (hc : within [.adapters] ch = true) (hk : Keeps ch a d) : Keeps ch a (newControl h port f cell d) := by
  refine Keeps.step ?_ hc hk
  unfold newControl
  repeat' (first
      | with_reducible exact Keeps.refl _ _ | with_reducible assumption | intro _ | with_reducible apply rejectEpoch_keeps
      | with_reducible apply applyControl_keeps | with_reducible apply raiseEpoch_keeps | with_reducible apply modAdPort_keeps
      | with_reducible apply replyTo_keeps | with_reducible apply keeps_ite
      | with_reducible refine keeps_pair (by with_reducible assumption) ?_ | dsimp only | decide)

theorem reportPorts_keeps {ch : List DevField} {a : Device} (h : Head) (f : AdapterFacts) (d : Device) (hc : within [.adapters] ch = true)
    (hk : Keeps ch a d) : Keeps ch a (reportPorts h f d) := by
  refine Keeps.step ?_ hc hk
  unfold reportPorts
  repeat' (first
      | with_reducible exact Keeps.refl _ _ | with_reducible assumption | intro _ | with_reducible apply sendReport_keeps
      | with_reducible apply keeps_ite | with_reducible refine keeps_pair (by with_reducible assumption) ?_ | dsimp only | decide)

/-! Codec.lean -/

theorem countDec_keeps {ch : List DevField} {a : Device} (k : Fin 8) (inBytes : ℕ) (r : Fkz) (d : Device) (hc : within [.cz] ch = true)
    (hk : Keeps ch a d) : Keeps ch a (countDec k inBytes r d) := by
  refine Keeps.step ?_ hc hk
  unfold countDec
  repeat' (first
      | with_reducible exact Keeps.refl _ _ | with_reducible assumption | intro _ | split | dsimp only
      | (rw [restSz_fold]; refine keeps_sz (h := ?_) (e := ⟨fun f hf => by cases f <;> first | exact absurd (by decide) hf | dsimp only [DevField.Same, Chip.own]⟩) ..))

theorem encSlot_keeps {ch : List DevField} {a : Device} (peer : U8) (cls : BitVec 2) (d : Device) (hc : within [.cz] ch = true) (hk :
    Keeps ch a d) : Keeps ch a (encSlot peer cls d).2 := by
  refine Keeps.step ?_ hc hk
  unfold encSlot
  repeat' (first
      | with_reducible exact Keeps.refl _ _ | with_reducible assumption | intro _ | with_reducible apply keeps_ite_snd | split | dsimp only
      | (rw [restSz_fold]; refine keeps_sz (h := ?_) (e := ⟨fun f hf => by cases f <;> first | exact absurd (by decide) hf | dsimp only [DevField.Same, Chip.own]⟩) ..))

theorem modEnc_keeps {ch : List DevField} {a : Device} (peer : U8) (cls : BitVec 2) (f : Dict → Dict) (d : Device) (hc : within [.cz] ch =
    true) (hk : Keeps ch a d) : Keeps ch a (modEnc peer cls f d) := by
  refine Keeps.step ?_ hc hk
  unfold modEnc
  repeat' (first
      | with_reducible exact Keeps.refl _ _ | with_reducible assumption | intro _ | dsimp only
      | (rw [restSz_fold]; refine keeps_sz (h := ?_) (e := ⟨fun f hf => by cases f <;> first | exact absurd (by decide) hf | dsimp only [DevField.Same, Chip.own]⟩) ..))

theorem countEnc_keeps {ch : List DevField} {a : Device} (inBytes outBytes : ℕ) (d : Device) (hc : within [.cz] ch = true) (hk : Keeps ch
    a d) : Keeps ch a (countEnc inBytes outBytes d) := by
  refine Keeps.step ?_ hc hk
  unfold countEnc
  repeat' (first
      | with_reducible exact Keeps.refl _ _ | with_reducible assumption | intro _ | dsimp only
      | (rw [restSz_fold]; refine keeps_sz (h := ?_) (e := ⟨fun f hf => by cases f <;> first | exact absurd (by decide) hf | dsimp only [DevField.Same, Chip.own]⟩) ..))

theorem dictSend_keeps {ch : List DevField} {a : Device} (peer : U8) (cls : BitVec 2) (orig : List U8) (d : Device) (hc : within [.cz] ch
    = true) (hk : Keeps ch a d) : Keeps ch a (dictSend peer cls orig d).2 := by
  refine Keeps.step ?_ hc hk
  unfold dictSend
  repeat' (first
      | with_reducible exact Keeps.refl _ _ | with_reducible assumption | intro _ | with_reducible apply encSlot_keeps
      | with_reducible apply modEnc_keeps | with_reducible apply countEnc_keeps | with_reducible apply keeps_ite_snd | split
      | with_reducible refine keeps_pair (by with_reducible assumption) ?_ | dsimp only
      | (rw [restSz_fold]; refine keeps_sz (h := ?_) (e := ⟨fun f hf => by cases f <;> first | exact absurd (by decide) hf | dsimp only [DevField.Same, Chip.own]⟩) ..)
      | decide)

/-! Boot.lean -/

theorem inReset_keeps {ch : List DevField} {a : Device} (cause : U8) (d : Device)
    (hc : within [.chip, .mbx, .vlog, .acct, .jobs, .feed, .banks, .engines, .pos, .sheet, .fire, .links, .drive, .cams, .loop, .cz, .crcs, .dram, .lanes, .fabric, .red, .pwr, .therm, .prs, .nv, .sz] ch = true)
    (hk : Keeps ch a d) : Keeps ch a (inReset cause d) :=
  Keeps.step (c := [.chip, .mbx, .vlog, .acct, .jobs, .feed, .banks, .engines, .pos, .sheet, .fire, .links, .drive, .cams, .loop, .cz, .crcs, .dram, .lanes, .fabric, .red, .pwr, .therm, .prs, .nv, .sz])
    ⟨fun f hf => by cases f <;> first | exact absurd (by decide) hf | rfl⟩ hc hk

theorem scanJournal_keeps {ch : List DevField} {a : Device} (d : Device) (hc : within [.mbx, .vlog, .lanes, .fabric, .nv] ch = true) (hk :
    Keeps ch a d) : Keeps ch a (scanJournal d) := by
  refine Keeps.step ?_ hc hk
  unfold scanJournal
  repeat' (first
      | with_reducible exact Keeps.refl _ _ | with_reducible assumption | intro _ | with_reducible apply raise_keeps | split | dsimp only
      | (rw [restSz_fold]; refine keeps_sz (h := ?_) (e := ⟨fun f hf => by cases f <;> first | exact absurd (by decide) hf | dsimp only [DevField.Same, Chip.own]⟩) ..)
      | decide)

theorem loadJournal_keeps {ch : List DevField} {a : Device} (d : Device) (hc : within [.fabric, .red, .prs, .nv] ch = true) (hk : Keeps ch
    a d) : Keeps ch a (loadJournal d) := by
  refine Keeps.step ?_ hc hk
  unfold loadJournal
  repeat' (first
      | with_reducible exact Keeps.refl _ _ | intro _ | dsimp only
      | (rw [restSz_fold]; refine keeps_sz (h := ?_) (e := ⟨fun f hf => by cases f <;> first | exact absurd (by decide) hf | dsimp only [DevField.Same, Chip.own]⟩) ..))

theorem startBoot_keeps {ch : List DevField} {a : Device} (d : Device) (hc : within [.mbx, .vlog, .dram, .lanes, .fabric, .red, .prs, .nv]
    ch = true) (hk : Keeps ch a d) : Keeps ch a (startBoot d) := by
  refine Keeps.step ?_ hc hk
  unfold startBoot
  repeat' (first
      | with_reducible exact Keeps.refl _ _ | with_reducible assumption | intro _ | with_reducible apply loadJournal_keeps
      | with_reducible apply scanJournal_keeps | with_reducible apply raise_keeps | with_reducible apply keeps_ite | dsimp only
      | (rw [restSz_fold]; refine keeps_sz (h := ?_) (e := ⟨fun f hf => by cases f <;> first | exact absurd (by decide) hf | dsimp only [DevField.Same, Chip.own]⟩) ..)
      | decide)

theorem powerLost_keeps {ch : List DevField} {a : Device} (d : Device) (hc : within [.chip, .mbx, .vlog, .acct, .jobs, .feed, .banks,
    .engines, .pos, .sheet, .fire, .links, .drive, .cams, .loop, .cz, .crcs, .dram, .lanes, .fabric, .red, .pwr, .therm, .prs, .nv, .sz]
    ch = true) (hk : Keeps ch a d) : Keeps ch a (powerLost d) := by
  refine Keeps.step ?_ hc hk
  unfold powerLost
  repeat' (first
      | with_reducible exact Keeps.refl _ _ | with_reducible assumption | intro _ | with_reducible apply inReset_keeps | dsimp only
      | (rw [restSz_fold]; refine keeps_sz (h := ?_) (e := ⟨fun f hf => by cases f <;> first | exact absurd (by decide) hf | dsimp only [DevField.Same, Chip.own]⟩) ..)
      | decide)

theorem powerBack_keeps {ch : List DevField} {a : Device} (d : Device) (hc : within [.chip, .mbx, .vlog, .dram, .lanes, .fabric, .red,
    .prs, .nv] ch = true) (hk : Keeps ch a d) : Keeps ch a (powerBack d) := by
  refine Keeps.step ?_ hc hk
  unfold powerBack
  repeat' (first
      | with_reducible exact Keeps.refl _ _ | with_reducible assumption | intro _ | with_reducible apply startBoot_keeps
      | with_reducible apply keeps_ite | dsimp only
      | (rw [restSz_fold]; refine keeps_sz (h := ?_) (e := ⟨fun f hf => by cases f <;> first | exact absurd (by decide) hf | dsimp only [DevField.Same, Chip.own]⟩) ..)
      | decide)

theorem setBank_keeps {ch : List DevField} {a : Device} (bank : Fin 6) (low : Bool) (d : Device) (hc : within [.chip] ch = true) (hk :
    Keeps ch a d) : Keeps ch a (setBank bank low d) := by
  refine Keeps.step ?_ hc hk
  unfold setBank
  repeat' (first
      | with_reducible exact Keeps.refl _ _ | with_reducible assumption | intro _ | dsimp only
      | (rw [restSz_fold]; refine keeps_sz (h := ?_) (e := ⟨fun f hf => by cases f <;> first | exact absurd (by decide) hf | dsimp only [DevField.Same, Chip.own]⟩) ..))

theorem enableFabricLanes_keeps {ch : List DevField} {a : Device} (d : Device) (hc : within [.lanes] ch = true) (hk : Keeps ch a d) :
    Keeps ch a (enableFabricLanes d) := by
  refine Keeps.step ?_ hc hk
  unfold enableFabricLanes
  repeat' (first
      | with_reducible exact Keeps.refl _ _ | with_reducible assumption | intro _ | with_reducible apply keeps_ite | dsimp only
      | (rw [restSz_fold]; refine keeps_sz (h := ?_) (e := ⟨fun f hf => by cases f <;> first | exact absurd (by decide) hf | dsimp only [DevField.Same, Chip.own]⟩) ..))

theorem startCal_keeps {ch : List DevField} {a : Device} (boot : Bool) (d : Device) (hc : within [.drive] ch = true) (hk : Keeps ch a d) :
    Keeps ch a (startCal boot d) := by
  refine Keeps.step ?_ hc hk
  unfold startCal
  repeat' (first
      | with_reducible exact Keeps.refl _ _ | with_reducible assumption | intro _ | dsimp only
      | (rw [restSz_fold]; refine keeps_sz (h := ?_) (e := ⟨fun f hf => by cases f <;> first | exact absurd (by decide) hf | dsimp only [DevField.Same, Chip.own]⟩) ..))

theorem enableWl_keeps {ch : List DevField} {a : Device} (d : Device) (hc : within [.lanes] ch = true) (hk : Keeps ch a d) : Keeps ch a
    (enableWl d) := by
  refine Keeps.step ?_ hc hk
  unfold enableWl
  repeat' (first
      | with_reducible exact Keeps.refl _ _ | with_reducible assumption | intro _ | with_reducible apply modLane_keeps
      | with_reducible apply keeps_ite | decide)

theorem startImage_keeps {ch : List DevField} {a : Device} (slot : Bool) (i : FwImage) (d : Device) (hc : within [.drive, .lanes, .nv] ch
    = true) (hk : Keeps ch a d) : Keeps ch a (startImage slot i d) := by
  refine Keeps.step ?_ hc hk
  unfold startImage
  repeat' (first
      | with_reducible exact Keeps.refl _ _ | with_reducible assumption | intro _ | with_reducible apply startCal_keeps
      | with_reducible apply enableWl_keeps | with_reducible apply enableFabricLanes_keeps | dsimp only
      | (rw [restSz_fold]; refine keeps_sz (h := ?_) (e := ⟨fun f hf => by cases f <;> first | exact absurd (by decide) hf | dsimp only [DevField.Same, Chip.own]⟩) ..)
      | decide)

theorem loadDrops_keeps {ch : List DevField} {a : Device} (d : Device) (hc : within [.mbx, .vlog, .fire, .lanes, .fabric, .nv] ch = true)
    (hk : Keeps ch a d) : Keeps ch a (loadDrops d) := by
  refine Keeps.step ?_ hc hk
  unfold loadDrops
  repeat' (first
      | with_reducible exact Keeps.refl _ _ | with_reducible assumption | intro _ | with_reducible apply raise_keeps
      | with_reducible apply keeps_ite | split | dsimp only
      | (rw [restSz_fold]; refine keeps_sz (h := ?_) (e := ⟨fun f hf => by cases f <;> first | exact absurd (by decide) hf | dsimp only [DevField.Same, Chip.own]⟩) ..)
      | decide)

theorem raiseMinSvn_keeps {ch : List DevField} {a : Device} (d : Device) (hc : within [.chip, .nv] ch = true) (hk : Keeps ch a d) : Keeps
    ch a (raiseMinSvn d) := by
  refine Keeps.step ?_ hc hk
  unfold raiseMinSvn
  repeat' (first
      | with_reducible exact Keeps.refl _ _ | with_reducible assumption | intro _ | with_reducible apply keeps_ite | dsimp only
      | (rw [restSz_fold]; refine keeps_sz (h := ?_) (e := ⟨fun f hf => by cases f <;> first | exact absurd (by decide) hf | dsimp only [DevField.Same, Chip.own]⟩) ..))

theorem enableHeadLanes_keeps {ch : List DevField} {a : Device} (d : Device) (hc : within [.lanes] ch = true) (hk : Keeps ch a d) : Keeps
    ch a (enableHeadLanes d) := by
  refine Keeps.step ?_ hc hk
  unfold enableHeadLanes
  repeat' (first
      | with_reducible exact Keeps.refl _ _ | with_reducible assumption | intro _ | dsimp only
      | (rw [restSz_fold]; refine keeps_sz (h := ?_) (e := ⟨fun f hf => by cases f <;> first | exact absurd (by decide) hf | dsimp only [DevField.Same, Chip.own]⟩) ..))

theorem bootRole_keeps {ch : List DevField} {a : Device} (d : Device) (hc : within [.chip, .red, .nv] ch = true) (hk : Keeps ch a d) :
    Keeps ch a (bootRole d) := by
  refine Keeps.step ?_ hc hk
  unfold bootRole
  repeat' (first
      | with_reducible exact Keeps.refl _ _ | with_reducible assumption | intro _ | dsimp only
      | (rw [restSz_fold]; refine keeps_sz (h := ?_) (e := ⟨fun f hf => by cases f <;> first | exact absurd (by decide) hf | dsimp only [DevField.Same, Chip.own]⟩) ..))

theorem bootUp_keeps {ch : List DevField} {a : Device} (d : Device) (hc : within [.chip, .mbx, .vlog, .fire, .lanes, .fabric, .red, .pwr,
    .nv] ch = true) (hk : Keeps ch a d) : Keeps ch a (bootUp d) := by
  refine Keeps.step ?_ hc hk
  unfold bootUp
  repeat' (first
      | with_reducible exact Keeps.refl _ _ | with_reducible assumption | intro _ | with_reducible apply raise_keeps
      | with_reducible apply recordEvent_keeps | with_reducible apply raiseMinSvn_keeps | with_reducible apply loadDrops_keeps
      | with_reducible apply noteRed_keeps | with_reducible apply bootRole_keeps | with_reducible apply setIrq_keeps
      | with_reducible apply journalAppend_keeps | with_reducible apply enableHeadLanes_keeps | with_reducible apply keeps_ite
      | with_reducible apply keeps_foldl | split | dsimp only
      | (rw [restSz_fold]; refine keeps_sz (h := ?_) (e := ⟨fun f hf => by cases f <;> first | exact absurd (by decide) hf | dsimp only [DevField.Same, Chip.own]⟩) ..)
      | decide)

theorem putRecord_keeps {ch : List DevField} {a : Device} (r : JRec) (d : Device) (hc : within [.nv] ch = true) (hk : Keeps ch a d) :
    Keeps ch a (putRecord r d) := by
  refine Keeps.step ?_ hc hk
  unfold putRecord
  repeat' (first
      | with_reducible exact Keeps.refl _ _ | with_reducible assumption | intro _ | dsimp only
      | (rw [restSz_fold]; refine keeps_sz (h := ?_) (e := ⟨fun f hf => by cases f <;> first | exact absurd (by decide) hf | dsimp only [DevField.Same, Chip.own]⟩) ..))

theorem afterRecord_keeps {ch : List DevField} {a : Device} (r : JRec) (d : Device) (hc : within [.nv] ch = true) (hk : Keeps ch a d) :
    Keeps ch a (afterRecord r d) := by
  refine Keeps.step ?_ hc hk
  unfold afterRecord
  repeat' (first
      | with_reducible exact Keeps.refl _ _ | with_reducible assumption | intro _ | with_reducible apply keeps_ite | dsimp only
      | (rw [restSz_fold]; refine keeps_sz (h := ?_) (e := ⟨fun f hf => by cases f <;> first | exact absurd (by decide) hf | dsimp only [DevField.Same, Chip.own]⟩) ..))

theorem putImage_keeps {ch : List DevField} {a : Device} (i : FwImage) (d : Device) (hc : within [.mbx, .vlog, .lanes, .fabric, .nv] ch =
    true) (hk : Keeps ch a d) : Keeps ch a (putImage i d) := by
  refine Keeps.step ?_ hc hk
  unfold putImage
  repeat' (first
      | with_reducible exact Keeps.refl _ _ | with_reducible assumption | intro _ | with_reducible apply finishWork_keeps | dsimp only
      | (rw [restSz_fold]; refine keeps_sz (h := ?_) (e := ⟨fun f hf => by cases f <;> first | exact absurd (by decide) hf | dsimp only [DevField.Same, Chip.own]⟩) ..)
      | decide)

theorem compact_keeps {ch : List DevField} {a : Device} (d : Device) (hc : within [.nv] ch = true) (hk : Keeps ch a d) : Keeps ch a
    (compact d) := by
  refine Keeps.step ?_ hc hk
  unfold compact
  repeat' (first
      | with_reducible exact Keeps.refl _ _ | with_reducible assumption | intro _ | split | dsimp only
      | (rw [restSz_fold]; refine keeps_sz (h := ?_) (e := ⟨fun f hf => by cases f <;> first | exact absurd (by decide) hf | dsimp only [DevField.Same, Chip.own]⟩) ..))

theorem eraseSlot_keeps {ch : List DevField} {a : Device} (e : ℕ) (d : Device) (hc : within [.nv] ch = true) (hk : Keeps ch a d) : Keeps
    ch a (eraseSlot e d) := by
  refine Keeps.step ?_ hc hk
  unfold eraseSlot
  repeat' (first
      | with_reducible exact Keeps.refl _ _ | with_reducible assumption | intro _ | with_reducible apply compact_keeps
      | with_reducible apply keeps_ite | dsimp only
      | (rw [restSz_fold]; refine keeps_sz (h := ?_) (e := ⟨fun f hf => by cases f <;> first | exact absurd (by decide) hf | dsimp only [DevField.Same, Chip.own]⟩) ..)
      | decide)

theorem blankSlot_keeps {ch : List DevField} {a : Device} (d : Device) (hc : within [.nv] ch = true) (hk : Keeps ch a d) : Keeps ch a
    (blankSlot d) := by
  refine Keeps.step ?_ hc hk
  unfold blankSlot
  repeat' (first
      | with_reducible exact Keeps.refl _ _ | with_reducible assumption | intro _ | with_reducible apply keeps_ite | dsimp only
      | (rw [restSz_fold]; refine keeps_sz (h := ?_) (e := ⟨fun f hf => by cases f <;> first | exact absurd (by decide) hf | dsimp only [DevField.Same, Chip.own]⟩) ..))

theorem captureCheckpoint_keeps {ch : List DevField} {a : Device} (d : Device) (hc : within [.nv] ch = true) (hk : Keeps ch a d) : Keeps
    ch a (captureCheckpoint d) := by
  refine Keeps.step ?_ hc hk
  unfold captureCheckpoint
  repeat' (first
      | with_reducible exact Keeps.refl _ _ | with_reducible assumption | intro _ | with_reducible apply blankSlot_keeps | split
      | dsimp only
      | (rw [restSz_fold]; refine keeps_sz (h := ?_) (e := ⟨fun f hf => by cases f <;> first | exact absurd (by decide) hf | dsimp only [DevField.Same, Chip.own]⟩) ..)
      | decide)

theorem commitCheckpoint_keeps {ch : List DevField} {a : Device} (c : Checkpoint) (d : Device) (hc : within [.nv] ch = true) (hk : Keeps
    ch a d) : Keeps ch a (commitCheckpoint c d) := by
  refine Keeps.step ?_ hc hk
  unfold commitCheckpoint
  repeat' (first
      | with_reducible exact Keeps.refl _ _ | with_reducible assumption | intro _ | split | dsimp only
      | (rw [restSz_fold]; refine keeps_sz (h := ?_) (e := ⟨fun f hf => by cases f <;> first | exact absurd (by decide) hf | dsimp only [DevField.Same, Chip.own]⟩) ..))

/-! Waggle.lean -/

theorem wagPut_keeps {ch : List DevField} {a : Device} (fs : List (ℕ × WaggleFrame)) (d : Device) (hc : within [.lanes, .red] ch = true)
    (hk : Keeps ch a d) : Keeps ch a (wagPut fs d) := by
  refine Keeps.step ?_ hc hk
  unfold wagPut
  repeat' (first
      | with_reducible exact Keeps.refl _ _ | with_reducible assumption | intro _ | with_reducible apply modLane_keeps
      | with_reducible apply modRed_keeps | decide)

theorem wagSend_keeps {ch : List DevField} {a : Device} (kind : ℕ) (payload : List U8) (d : Device) (hc : within [.lanes, .red] ch = true)
    (hk : Keeps ch a d) : Keeps ch a (wagSend kind payload d) := by
  refine Keeps.step ?_ hc hk
  unfold wagSend
  repeat' (first
      | with_reducible exact Keeps.refl _ _ | with_reducible assumption | intro _ | with_reducible apply wagPut_keeps
      | with_reducible apply keeps_ite | decide)

theorem wagTransmit_keeps {ch : List DevField} {a : Device} (kind : ℕ) (payload : List U8) (d : Device) (hc : within [.lanes, .red] ch =
    true) (hk : Keeps ch a d) : Keeps ch a (wagTransmit kind payload d) := by
  refine Keeps.step ?_ hc hk
  unfold wagTransmit
  repeat' (first
      | with_reducible exact Keeps.refl _ _ | with_reducible assumption | intro _ | with_reducible apply wagPut_keeps
      | with_reducible apply modRed_keeps | dsimp only | decide)

theorem wagSeq_keeps {ch : List DevField} {a : Device} (kind : ℕ) (payload : List U8) (d : Device) (hc : within [.lanes, .red] ch = true)
    (hk : Keeps ch a d) : Keeps ch a (wagSeq kind payload d) := by
  refine Keeps.step ?_ hc hk
  unfold wagSeq
  repeat' (first
      | with_reducible exact Keeps.refl _ _ | with_reducible assumption | intro _ | with_reducible apply wagTransmit_keeps
      | with_reducible apply modRed_keeps | with_reducible apply keeps_ite | decide)

theorem wagDrain_keeps {ch : List DevField} {a : Device} (fuel : ℕ) (d : Device) (hc : within [.lanes, .red] ch = true) (hk : Keeps ch a
    d) : Keeps ch a (wagDrain fuel d) := by
  refine Keeps.step ?_ hc hk
  clear hk hc a
  induction fuel generalizing d with
  | zero => exact Keeps.refl _ _
  | succ k ih =>
    unfold wagDrain
    repeat' (first
        | with_reducible exact Keeps.refl _ _ | with_reducible assumption | intro _ | with_reducible refine Keeps.trans ?_ (ih ..)
        | with_reducible apply wagTransmit_keeps | with_reducible apply modRed_keeps | with_reducible apply keeps_ite | split | dsimp only
        | decide)

theorem pumpWaggle_keeps {ch : List DevField} {a : Device} (d : Device) (hc : within [.lanes, .red] ch = true) (hk : Keeps ch a d) : Keeps
    ch a (pumpWaggle d) := by
  refine Keeps.step ?_ hc hk
  unfold pumpWaggle
  repeat' (first
      | with_reducible exact Keeps.refl _ _ | with_reducible assumption | intro _ | with_reducible apply wagDrain_keeps
      | with_reducible apply keeps_ite | decide)

theorem wagNak_keeps {ch : List DevField} {a : Device} (code : U8) (d : Device) (hc : within [.mbx, .vlog, .lanes, .fabric, .red] ch =
    true) (hk : Keeps ch a d) : Keeps ch a (wagNak code d) := by
  refine Keeps.step ?_ hc hk
  unfold wagNak
  repeat' (first
      | with_reducible exact Keeps.refl _ _ | with_reducible assumption | intro _ | with_reducible apply wagSend_keeps
      | with_reducible apply violation_keeps | with_reducible apply modRed_keeps | with_reducible apply keeps_ite | decide)

theorem strangeFrame_keeps {ch : List DevField} {a : Device} (k : BitVec 4) (f : WaggleFrame) (d : Device) (hc : within [.mbx, .vlog,
    .lanes, .fabric] ch = true) (hk : Keeps ch a d) : Keeps ch a (strangeFrame k f d) := by
  refine Keeps.step ?_ hc hk
  unfold strangeFrame
  repeat' (first
      | with_reducible exact Keeps.refl _ _ | with_reducible assumption | intro _ | with_reducible apply violation_keeps
      | with_reducible apply keeps_ite | decide)

theorem takeWaggle_keeps {ch : List DevField} {a : Device} (kind : ℕ) (lengthOk : Bool) (f : WaggleFrame) (d : Device) (hc : within [.mbx,
    .vlog, .lanes, .fabric, .red] ch = true) (hk : Keeps ch a d) : Keeps ch a (takeWaggle kind lengthOk f d).2 := by
  refine Keeps.step ?_ hc hk
  unfold takeWaggle
  repeat' (first
      | with_reducible exact Keeps.refl _ _ | with_reducible assumption | intro _ | with_reducible apply rxActive_keeps
      | with_reducible apply strangeFrame_keeps | with_reducible apply wagNak_keeps | with_reducible apply modRed_keeps
      | with_reducible apply violation_keeps | with_reducible apply keeps_ite_snd | dsimp only | decide)

/-! Streams.lean -/

theorem emitMessage_keeps {ch : List DevField} {a : Device} (m : CzHeld) (bytes : List U8) (d : Device) (hc : within [.mbx, .vlog, .lanes,
    .fabric, .red] ch = true) (hk : Keeps ch a d) : Keeps ch a (emitMessage m bytes d) := by
  refine Keeps.step ?_ hc hk
  unfold emitMessage
  repeat' (first
      | with_reducible exact Keeps.refl _ _ | with_reducible assumption | intro _ | with_reducible apply wagSeq_keeps
      | with_reducible apply modRed_keeps | with_reducible apply sendTo_keeps | with_reducible apply keeps_ite | split
      | with_reducible refine keeps_pair (by with_reducible assumption) ?_ | dsimp only | decide)

theorem beginMessage_keeps {ch : List DevField} {a : Device} (m : CzHeld) (d : Device) (hc : within [.cz] ch = true) (hk : Keeps ch a d) :
    Keeps ch a (beginMessage m d).2 := by
  refine Keeps.step ?_ hc hk
  unfold beginMessage
  repeat' (first
      | with_reducible exact Keeps.refl _ _ | with_reducible assumption | intro _ | with_reducible apply dictSend_keeps | split
      | with_reducible refine keeps_pair (by with_reducible assumption) ?_ | dsimp only | decide)

theorem feedMessage_keeps {ch : List DevField} {a : Device} (room : ℕ) (m : CzHeld) (d : Device) (hc : within [.mbx, .vlog, .lanes,
    .fabric, .red] ch = true) (hk : Keeps ch a d) : Keeps ch a (feedMessage room m d).2.2 := by
  refine Keeps.step ?_ hc hk
  unfold feedMessage
  repeat' (first
      | with_reducible exact Keeps.refl _ _ | with_reducible assumption | intro _ | with_reducible apply emitMessage_keeps
      | with_reducible apply keeps_ite_snd | split | dsimp only | decide)

theorem feedStream_keeps {ch : List DevField} {a : Device} (cls : BitVec 2) (fuel n : ℕ) (d : Device) (hc : within [.mbx, .vlog, .cz, .lanes, .fabric, .red] ch = true)
    (hk : Keeps ch a d) : Keeps ch a (feedStream cls fuel n d) := by
  refine Keeps.step ?_ hc hk
  clear hk hc a
  induction fuel generalizing n d with
  | zero => exact Keeps.refl _ _
  | succ k ih =>
    unfold feedStream
    split
    · exact Keeps.refl _ _
    · rename_i m _
      have hf := feedMessage_keeps (ch := [.mbx, .vlog, .cz, .lanes, .fabric, .red]) n (beginMessage m d).1 (beginMessage m d).2 (by decide)
        (beginMessage_keeps m d (by decide) (Keeps.refl _ _))
      dsimp only
      split
      · exact Keeps.refl _ _
      split
      · rename_i e
        rw [e] at hf
        exact (hf.trans ⟨fun f h => by cases f <;> first | exact absurd (by decide) h | rfl⟩).trans (ih ..)
      · rename_i e
        rw [e] at hf
        exact hf.trans ⟨fun f h => by cases f <;> first | exact absurd (by decide) h | rfl⟩

theorem streamSend_keeps {ch : List DevField} {a : Device} (peer : U8) (cls : BitVec 2) (orig : List U8) (snap : Option U32) (d : Device)
    (hc : within [.mbx, .vlog, .cz, .lanes, .fabric, .red] ch = true) (hk : Keeps ch a d) : Keeps ch a (streamSend peer cls orig snap d)
    := by
  refine Keeps.step ?_ hc hk
  unfold streamSend
  repeat' (first
      | with_reducible exact Keeps.refl _ _ | with_reducible assumption | intro _ | with_reducible apply noteStall_keeps
      | with_reducible apply feedStream_keeps | with_reducible apply keeps_ite | dsimp only
      | (rw [restSz_fold]; refine keeps_sz (h := ?_) (e := ⟨fun f hf => by cases f <;> first | exact absurd (by decide) hf | dsimp only [DevField.Same, Chip.own]⟩) ..)
      | decide)

theorem sendHandover_keeps {ch : List DevField} {a : Device} (d : Device) (hc : within [.lanes, .red] ch = true) (hk : Keeps ch a d) :
    Keeps ch a (sendHandover d) := by
  refine Keeps.step ?_ hc hk
  unfold sendHandover
  repeat' (first
      | with_reducible exact Keeps.refl _ _ | with_reducible assumption | intro _ | with_reducible apply wagSeq_keeps
      | with_reducible apply modRed_keeps | with_reducible apply keeps_ite | split | dsimp only | decide)

/-! Cz.lean -/

theorem modDec_keeps {ch : List DevField} {a : Device} (peer : U8) (cls : BitVec 2) (f : Dict → Dict) (d : Device) (hc : within [.cz] ch =
    true) (hk : Keeps ch a d) : Keeps ch a (modDec peer cls f d) := by
  refine Keeps.step ?_ hc hk
  unfold modDec
  repeat' (first
      | with_reducible exact Keeps.refl _ _ | with_reducible assumption | intro _ | dsimp only
      | (rw [restSz_fold]; refine keeps_sz (h := ?_) (e := ⟨fun f hf => by cases f <;> first | exact absurd (by decide) hf | dsimp only [DevField.Same, Chip.own]⟩) ..))

theorem sendNotice_keeps {ch : List DevField} {a : Device} (peer : U8) (resync : Bool) (cls : BitVec 2) (d : Device) (hc : within [.mbx,
    .vlog, .cz, .lanes, .fabric, .red] ch = true) (hk : Keeps ch a d) : Keeps ch a (sendNotice peer resync cls d) := by
  refine Keeps.step ?_ hc hk
  unfold sendNotice
  repeat' (first
      | with_reducible exact Keeps.refl _ _ | with_reducible assumption | intro _ | with_reducible apply wagSend_keeps
      | with_reducible apply sendTo_keeps | with_reducible apply keeps_ite
      | with_reducible refine keeps_pair (by with_reducible assumption) ?_ | dsimp only
      | (rw [restSz_fold]; refine keeps_sz (h := ?_) (e := ⟨fun f hf => by cases f <;> first | exact absurd (by decide) hf | dsimp only [DevField.Same, Chip.own]⟩) ..)
      | decide)

theorem desyncViolation_keeps {ch : List DevField} {a : Device} (l : LinkId) (d : Device) (hc : within [.mbx, .vlog, .lanes, .fabric] ch =
    true) (hk : Keeps ch a d) : Keeps ch a (desyncViolation l d) := by
  refine Keeps.step ?_ hc hk
  unfold desyncViolation
  repeat' (first
      | with_reducible exact Keeps.refl _ _ | with_reducible assumption | intro _ | with_reducible apply violation_keeps | split
      | dsimp only | decide)

theorem desync_keeps {ch : List DevField} {a : Device} (m : DictMessage) (d : Device) (hc : within [.mbx, .vlog, .cz, .lanes, .fabric,
    .red] ch = true) (hk : Keeps ch a d) : Keeps ch a (desync m d) := by
  refine Keeps.step ?_ hc hk
  unfold desync
  repeat' (first
      | with_reducible exact Keeps.refl _ _ | with_reducible assumption | intro _ | with_reducible apply sendNotice_keeps
      | with_reducible apply desyncViolation_keeps | with_reducible apply modDec_keeps | with_reducible apply keeps_ite | dsimp only
      | (rw [restSz_fold]; refine keeps_sz (h := ?_) (e := ⟨fun f hf => by cases f <;> first | exact absurd (by decide) hf | dsimp only [DevField.Same, Chip.own]⟩) ..)
      | decide)

theorem discardNoSlot_keeps {ch : List DevField} {a : Device} (m : DictMessage) (d : Device) (hc : within [.cz] ch = true) (hk : Keeps ch
    a d) : Keeps ch a (discardNoSlot m d) := by
  refine Keeps.step ?_ hc hk
  unfold discardNoSlot
  repeat' (first
      | with_reducible exact Keeps.refl _ _ | with_reducible assumption | intro _ | dsimp only
      | (rw [restSz_fold]; refine keeps_sz (h := ?_) (e := ⟨fun f hf => by cases f <;> first | exact absurd (by decide) hf | dsimp only [DevField.Same, Chip.own]⟩) ..))

theorem countStream_keeps {ch : List DevField} {a : Device} (inBytes outBytes : ℕ) (d : Device) (hc : within [.cz] ch = true) (hk : Keeps
    ch a d) : Keeps ch a (countStream inBytes outBytes d) := by
  refine Keeps.step ?_ hc hk
  unfold countStream
  repeat' (first
      | with_reducible exact Keeps.refl _ _ | with_reducible assumption | intro _ | dsimp only
      | (rw [restSz_fold]; refine keeps_sz (h := ?_) (e := ⟨fun f hf => by cases f <;> first | exact absurd (by decide) hf | dsimp only [DevField.Same, Chip.own]⟩) ..))

theorem decodeIn_keeps {ch : List DevField} {a : Device} (m : DictMessage) (codes : List ℕ) (s : Dict) (d : Device) (hc : within [.mbx,
    .vlog, .cz, .lanes, .fabric, .red] ch = true) (hk : Keeps ch a d) : Keeps ch a (decodeIn m codes s d).2 := by
  refine Keeps.step ?_ hc hk
  unfold decodeIn
  repeat' (first
      | with_reducible exact Keeps.refl _ _ | with_reducible assumption | intro _ | with_reducible apply countStream_keeps
      | with_reducible apply modDec_keeps | with_reducible apply desync_keeps | with_reducible apply keeps_ite_snd | split | dsimp only
      | decide)

theorem dictReceive_keeps {ch : List DevField} {a : Device} (m : DictMessage) (d : Device) (hc : within [.mbx, .vlog, .cz, .lanes,
    .fabric, .red] ch = true) (hk : Keeps ch a d) : Keeps ch a (dictReceive m d).2 := by
  refine Keeps.step ?_ hc hk
  unfold dictReceive
  repeat' (first
      | with_reducible exact Keeps.refl _ _ | with_reducible assumption | intro _ | with_reducible apply modDec_keeps
      | with_reducible apply desync_keeps | with_reducible apply decodeIn_keeps | with_reducible apply discardNoSlot_keeps
      | with_reducible apply sendNotice_keeps | with_reducible apply keeps_ite_snd | split
      | with_reducible refine keeps_pair (by with_reducible assumption) ?_ | dsimp only
      | (rw [restSz_fold]; refine keeps_sz (h := ?_) (e := ⟨fun f hf => by cases f <;> first | exact absurd (by decide) hf | dsimp only [DevField.Same, Chip.own]⟩) ..)
      | decide)

theorem takeNotice_keeps {ch : List DevField} {a : Device} (peer : U8) (resync : Bool) (cls : BitVec 2) (d : Device) (hc : within [.cz] ch
    = true) (hk : Keeps ch a d) : Keeps ch a (takeNotice peer resync cls d) := by
  refine Keeps.step ?_ hc hk
  unfold takeNotice
  repeat' (first | with_reducible exact Keeps.refl _ _ | with_reducible assumption | intro _ | with_reducible apply modEnc_keeps | decide)

theorem assignEngine_keeps {ch : List DevField} {a : Device} (d : Device) (hc : within [.cz] ch = true) (hk : Keeps ch a d) : Keeps ch a
    (assignEngine d) := by
  refine Keeps.step ?_ hc hk
  unfold assignEngine
  repeat' (first
      | with_reducible exact Keeps.refl _ _ | with_reducible assumption | intro _ | split | dsimp only
      | (rw [restSz_fold]; refine keeps_sz (h := ?_) (e := ⟨fun f hf => by cases f <;> first | exact absurd (by decide) hf | dsimp only [DevField.Same, Chip.own]⟩) ..))

theorem endCompress_keeps {ch : List DevField} {a : Device} (j : CzJob) (r : Reply) (d : Device) (hc : within [.mbx, .vlog, .cz, .lanes,
    .fabric] ch = true) (hk : Keeps ch a d) : Keeps ch a (endCompress j r d) := by
  refine Keeps.step ?_ hc hk
  unfold endCompress
  repeat' (first
      | with_reducible exact Keeps.refl _ _ | with_reducible assumption | intro _ | with_reducible apply assignEngine_keeps
      | with_reducible apply finishSeq_keeps | dsimp only
      | (rw [restSz_fold]; refine keeps_sz (h := ?_) (e := ⟨fun f hf => by cases f <;> first | exact absurd (by decide) hf | dsimp only [DevField.Same, Chip.own]⟩) ..)
      | decide)

theorem compressBlock_keeps {ch : List DevField} {a : Device} (e : Fin 2) (j : CzJob) (d : Device) (hc : within [.mbx, .vlog, .cz, .dram,
    .lanes, .fabric, .red] ch = true) (hk : Keeps ch a d) : Keeps ch a (compressBlock e j d) := by
  refine Keeps.step ?_ hc hk
  unfold compressBlock
  repeat' (first
      | with_reducible exact Keeps.refl _ _ | with_reducible assumption | intro _ | with_reducible apply endCompress_keeps
      | with_reducible apply dramWrite_keeps | with_reducible apply dramSee_keeps | with_reducible apply keeps_ite | split | dsimp only
      | (rw [restSz_fold]; refine keeps_sz (h := ?_) (e := ⟨fun f hf => by cases f <;> first | exact absurd (by decide) hf | dsimp only [DevField.Same, Chip.own]⟩) ..)
      | decide)

theorem outputOf_keeps {ch : List DevField} {a : Device} (r : Fkz) (orig : ℕ) (d : Device) (hc : within [] ch = true) (hk : Keeps ch a d)
    : Keeps ch a (outputOf r orig d).2 := by
  refine Keeps.step ?_ hc hk
  unfold outputOf
  repeat' (first
      | with_reducible exact Keeps.refl _ _ | with_reducible assumption | intro _ | with_reducible apply drawBytes_keeps | split
      | with_reducible refine keeps_pair (by with_reducible assumption) ?_ | dsimp only | decide)

theorem startDecs_keeps {ch : List DevField} {a : Device} (d : Device) (hc : within [.cz] ch = true) (hk : Keeps ch a d) : Keeps ch a
    (startDecs d) := by
  refine Keeps.step ?_ hc hk
  unfold startDecs
  repeat' (first
      | with_reducible exact Keeps.refl _ _ | with_reducible assumption | intro _ | dsimp only
      | (rw [restSz_fold]; refine keeps_sz (h := ?_) (e := ⟨fun f hf => by cases f <;> first | exact absurd (by decide) hf | dsimp only [DevField.Same, Chip.own]⟩) ..))

theorem endDecompress_keeps {ch : List DevField} {a : Device} (j : CzDec) (d : Device) (hc : within [.mbx, .vlog, .cz, .dram, .lanes,
    .fabric, .red] ch = true) (hk : Keeps ch a d) : Keeps ch a (endDecompress j d) := by
  refine Keeps.step ?_ hc hk
  unfold endDecompress
  repeat' (first
      | with_reducible exact Keeps.refl _ _ | with_reducible assumption | intro _ | with_reducible apply countDec_keeps
      | with_reducible apply outputOf_keeps | with_reducible apply finishSeq_keeps | with_reducible apply dramWrite_keeps
      | with_reducible apply startDecs_keeps | split | with_reducible refine keeps_pair (by with_reducible assumption) ?_ | dsimp only
      | (rw [restSz_fold]; refine keeps_sz (h := ?_) (e := ⟨fun f hf => by cases f <;> first | exact absurd (by decide) hf | dsimp only [DevField.Same, Chip.own]⟩) ..)
      | decide)

theorem tickDecs_keeps {ch : List DevField} {a : Device} (d : Device) (hc : within [.mbx, .vlog, .cz, .dram, .lanes, .fabric, .red] ch =
    true) (hk : Keeps ch a d) : Keeps ch a (tickDecs d) := by
  refine Keeps.step ?_ hc hk
  unfold tickDecs
  repeat' (first
      | with_reducible exact Keeps.refl _ _ | with_reducible assumption | intro _ | with_reducible apply endDecompress_keeps
      | with_reducible apply keeps_ite | with_reducible apply keeps_foldl | dsimp only
      | (rw [restSz_fold]; refine keeps_sz (h := ?_) (e := ⟨fun f hf => by cases f <;> first | exact absurd (by decide) hf | dsimp only [DevField.Same, Chip.own]⟩) ..)
      | decide)

/-! Web.lean -/

theorem modCursor_keeps {ch : List DevField} {a : Device} (d : Device) (h : Head) (f : Cursor → Cursor) (hc : within [.fire] ch = true)
    (hk : Keeps ch a d) : Keeps ch a (modCursor d h f) := by
  refine Keeps.step ?_ hc hk
  unfold modCursor
  repeat' (first
      | with_reducible exact Keeps.refl _ _ | with_reducible assumption | intro _ | dsimp only
      | (rw [restSz_fold]; refine keeps_sz (h := ?_) (e := ⟨fun f hf => by cases f <;> first | exact absurd (by decide) hf | dsimp only [DevField.Same, Chip.own]⟩) ..))

theorem dropLines_keeps {ch : List DevField} {a : Device} (d : Device) (hc : within [.engines, .fire, .loop] ch = true) (hk : Keeps ch a
    d) : Keeps ch a (dropLines d) := by
  refine Keeps.step ?_ hc hk
  unfold dropLines
  repeat' (first
      | with_reducible exact Keeps.refl _ _ | with_reducible assumption | intro _ | dsimp only
      | (rw [restSz_fold]; refine keeps_sz (h := ?_) (e := ⟨fun f hf => by cases f <;> first | exact absurd (by decide) hf | dsimp only [DevField.Same, Chip.own]⟩) ..))

theorem failCaptures_keeps {ch : List DevField} {a : Device} (p : Head → JobKey → U32 → Bool) (r : Reason) (d : Device) (hc : within
    [.mbx, .vlog, .lanes, .fabric] ch = true) (hk : Keeps ch a d) : Keeps ch a (failCaptures p r d) := by
  refine Keeps.step ?_ hc hk
  unfold failCaptures
  repeat' (first
      | with_reducible exact Keeps.refl _ _ | with_reducible assumption | intro _ | with_reducible apply finish_keeps
      | with_reducible apply keeps_foldl | split | dsimp only | decide)

theorem lineGone_keeps {ch : List DevField} {a : Device} (h : Head) (job : JobKey) (line : ℕ) (d : Device) (hc : within [.mbx, .vlog,
    .lanes, .fabric] ch = true) (hk : Keeps ch a d) : Keeps ch a (lineGone h job line d) := by
  refine Keeps.step ?_ hc hk
  unfold lineGone
  repeat' (first
      | with_reducible exact Keeps.refl _ _ | with_reducible assumption | intro _ | with_reducible apply failCaptures_keeps | decide)

theorem forgetLines_keeps {ch : List DevField} {a : Device} (h : Head) (job : JobKey) (line n : ℕ) (d : Device) (hc : within [.engines] ch
    = true) (hk : Keeps ch a d) : Keeps ch a (forgetLines h job line n d) := by
  refine Keeps.step ?_ hc hk
  unfold forgetLines
  repeat' (first
      | with_reducible exact Keeps.refl _ _ | with_reducible assumption | intro _ | with_reducible apply modEngine_keeps | dsimp only
      | decide)

theorem skipFront_keeps {ch : List DevField} {a : Device} (h : Head) (r : Skip) (n : ℕ) (d : Device) (hc : within [.mbx, .vlog, .acct,
    .engines, .fire, .lanes, .fabric] ch = true) (hk : Keeps ch a d) : Keeps ch a (skipFront h r n d) := by
  refine Keeps.step ?_ hc hk
  unfold skipFront
  repeat' (first
      | with_reducible exact Keeps.refl _ _ | with_reducible assumption | intro _ | with_reducible apply modCursor_keeps
      | with_reducible apply countHead_keeps | with_reducible apply lineGone_keeps | with_reducible apply forgetLines_keeps
      | with_reducible apply noteLines_keeps | split | dsimp only | decide)

theorem emptyShadow_keeps {ch : List DevField} {a : Device} (t : Tbl) (d : Device) (hc : within [.banks] ch = true) (hk : Keeps ch a d) :
    Keeps ch a (emptyShadow t d) := by
  refine Keeps.step ?_ hc hk
  unfold emptyShadow
  repeat' (first | with_reducible exact Keeps.refl _ _ | with_reducible assumption | intro _ | with_reducible apply modBank_keeps | decide)

theorem dropSets_keeps {ch : List DevField} {a : Device} (d : Device) (hc : within [.banks] ch = true) (hk : Keeps ch a d) : Keeps ch a
    (dropSets d) := by
  refine Keeps.step ?_ hc hk
  unfold dropSets
  repeat' (first
      | with_reducible exact Keeps.refl _ _ | with_reducible assumption | intro _ | with_reducible apply emptyShadow_keeps
      | with_reducible apply keeps_ite | with_reducible apply keeps_foldl | split | dsimp only
      | (rw [restSz_fold]; refine keeps_sz (h := ?_) (e := ⟨fun f hf => by cases f <;> first | exact absurd (by decide) hf | dsimp only [DevField.Same, Chip.own]⟩) ..)
      | decide)

theorem takeTiming_keeps {ch : List DevField} {a : Device} (d : Device) (hc : within [.banks] ch = true) (hk : Keeps ch a d) : Keeps ch a
    (takeTiming d) := by
  refine Keeps.step ?_ hc hk
  unfold takeTiming
  repeat' (first
      | with_reducible exact Keeps.refl _ _ | with_reducible assumption | intro _ | split | dsimp only
      | (rw [restSz_fold]; refine keeps_sz (h := ?_) (e := ⟨fun f hf => by cases f <;> first | exact absurd (by decide) hf | dsimp only [DevField.Same, Chip.own]⟩) ..))

theorem endJob_keeps {ch : List DevField} {a : Device} (d : Device) (hc : within [.mbx, .vlog, .jobs, .banks, .engines, .fire, .loop,
    .lanes, .fabric] ch = true) (hk : Keeps ch a d) : Keeps ch a (endJob d) := by
  refine Keeps.step ?_ hc hk
  unfold endJob
  repeat' (first
      | with_reducible exact Keeps.refl _ _ | with_reducible assumption | intro _ | with_reducible apply failCaptures_keeps
      | with_reducible apply dropLines_keeps | with_reducible apply takeTiming_keeps | with_reducible apply dropSets_keeps
      | with_reducible apply keeps_ite | split | dsimp only
      | (rw [restSz_fold]; refine keeps_sz (h := ?_) (e := ⟨fun f hf => by cases f <;> first | exact absurd (by decide) hf | dsimp only [DevField.Same, Chip.own]⟩) ..)
      | decide)

theorem renumberSheets_keeps {ch : List DevField} {a : Device} (d : Device) (hc : within [.sheet] ch = true) (hk : Keeps ch a d) : Keeps
    ch a (renumberSheets d) := by
  refine Keeps.step ?_ hc hk
  unfold renumberSheets
  repeat' (first
      | with_reducible exact Keeps.refl _ _ | with_reducible assumption | intro _ | with_reducible apply keeps_ite | split | dsimp only
      | (rw [restSz_fold]; refine keeps_sz (h := ?_) (e := ⟨fun f hf => by cases f <;> first | exact absurd (by decide) hf | dsimp only [DevField.Same, Chip.own]⟩) ..))

theorem unschedule_keeps {ch : List DevField} {a : Device} (d : Device) (hc : within [.jobs, .sheet] ch = true) (hk : Keeps ch a d) :
    Keeps ch a (unschedule d) := by
  refine Keeps.step ?_ hc hk
  unfold unschedule
  repeat' (first
      | with_reducible exact Keeps.refl _ _ | with_reducible assumption | intro _ | with_reducible apply renumberSheets_keeps | dsimp only
      | (rw [restSz_fold]; refine keeps_sz (h := ?_) (e := ⟨fun f hf => by cases f <;> first | exact absurd (by decide) hf | dsimp only [DevField.Same, Chip.own]⟩) ..)
      | decide)

theorem positionFails_keeps {ch : List DevField} {a : Device} (d : Device) (hc : within [.mbx, .vlog, .acct, .jobs, .banks, .engines,
    .sheet, .fire, .loop, .lanes, .fabric] ch = true) (hk : Keeps ch a d) : Keeps ch a (positionFails d) := by
  refine Keeps.step ?_ hc hk
  unfold positionFails
  repeat' (first
      | with_reducible exact Keeps.refl _ _ | with_reducible assumption | intro _ | with_reducible apply unschedule_keeps
      | with_reducible apply endJob_keeps | with_reducible apply skipTokens_keeps | decide)

theorem setReady_keeps {ch : List DevField} {a : Device} (node : U8) (isReady : Bool) (d : Device) (hc : within [.jobs] ch = true) (hk :
    Keeps ch a d) : Keeps ch a (setReady node isReady d) := by
  refine Keeps.step ?_ hc hk
  unfold setReady
  repeat' (first
      | with_reducible exact Keeps.refl _ _ | with_reducible assumption | intro _ | dsimp only
      | (rw [restSz_fold]; refine keeps_sz (h := ?_) (e := ⟨fun f hf => by cases f <;> first | exact absurd (by decide) hf | dsimp only [DevField.Same, Chip.own]⟩) ..))

theorem reportReady_keeps {ch : List DevField} {a : Device} (jobId : U32) (d : Device) (hc : within [.mbx, .vlog, .jobs, .lanes, .fabric]
    ch = true) (hk : Keeps ch a d) : Keeps ch a (reportReady jobId d) := by
  refine Keeps.step ?_ hc hk
  unfold reportReady
  repeat' (first
      | with_reducible exact Keeps.refl _ _ | with_reducible assumption | intro _ | with_reducible apply setReady_keeps
      | with_reducible apply sendTo_keeps | with_reducible apply keeps_ite | split
      | with_reducible refine keeps_pair (by with_reducible assumption) ?_ | dsimp only | decide)

theorem noteReady_keeps {ch : List DevField} {a : Device} (was d : Device) (hc : within [.mbx, .vlog, .jobs, .lanes, .fabric] ch = true)
    (hk : Keeps ch a d) : Keeps ch a (noteReady was d) := by
  refine Keeps.step ?_ hc hk
  unfold noteReady
  repeat' (first
      | with_reducible exact Keeps.refl _ _ | with_reducible assumption | intro _ | with_reducible apply reportReady_keeps
      | with_reducible apply keeps_ite | split | dsimp only | decide)

theorem holdLoop_keeps {ch : List DevField} {a : Device} (d : Device) (hc : within [.mbx, .vlog, .loop, .lanes, .fabric] ch = true) (hk :
    Keeps ch a d) : Keeps ch a (holdLoop d) := by
  refine Keeps.step ?_ hc hk
  unfold holdLoop
  repeat' (first
      | with_reducible exact Keeps.refl _ _ | with_reducible assumption | intro _ | with_reducible apply raise_keeps
      | with_reducible apply modColour_keeps | with_reducible apply keeps_ite | with_reducible apply keeps_foldl | dsimp only
      | (rw [restSz_fold]; refine keeps_sz (h := ?_) (e := ⟨fun f hf => by cases f <;> first | exact absurd (by decide) hf | dsimp only [DevField.Same, Chip.own]⟩) ..)
      | decide)

end Sys2Proof.Machine
end

