-- ==== Sys2Proof/Laws/FramePrint.lean ====
section
/-! SUPPORT. One lemma per operation over a device: the fields that the operations of printing: tables, screening, position, firing, jobs, the loop may change. -/
namespace Sys2Proof.Machine

/-! Tables.lean -/

theorem answerImage_keeps {ch : List DevField} {a : Device} (e : ImageEnd) (d : Device) (hc : within [] ch = true) (hk : Keeps ch a d) :
    DoneKeeps ch a (answerImage e d) := by
  refine doneKeeps_step ?_ hc hk
  unfold answerImage
  repeat' (first
      | with_reducible exact Keeps.refl _ _ | with_reducible assumption | intro _ | with_reducible apply poisoned_keeps
      | with_reducible apply no_keeps | with_reducible apply doneKeeps_ite | with_reducible apply doneKeeps_reply
      | with_reducible apply doneKeeps_later | split | dsimp only | decide)

theorem queueLoads_keeps {ch : List DevField} {a : Device} (l : List LoadReq) (d : Device) (hc : within [.banks] ch = true) (hk : Keeps ch
    a d) : Keeps ch a (queueLoads l d) := by
  refine Keeps.step ?_ hc hk
  unfold queueLoads
  repeat' (first
      | with_reducible exact Keeps.refl _ _ | with_reducible assumption | intro _ | dsimp only
      | (rw [restSz_fold]; refine keeps_sz (h := ?_) (e := ⟨fun f hf => by cases f <;> first | exact absurd (by decide) hf | dsimp only [DevField.Same, Chip.own]⟩) ..))

theorem swapBank_keeps {ch : List DevField} {a : Device} (t : Tbl) (d : Device) (hc : within [.banks] ch = true) (hk : Keeps ch a d) :
    Keeps ch a (swapBank t d) := by
  refine Keeps.step ?_ hc hk
  unfold swapBank
  repeat' (first
      | with_reducible exact Keeps.refl _ _ | with_reducible assumption | intro _ | with_reducible apply modBank_keeps | split
      | dsimp only | decide)

theorem swapTable_keeps {ch : List DevField} {a : Device} (t : Tbl) (d : Device) (hc : within [.banks, .links, .drive, .lanes, .red] ch =
    true) (hk : Keeps ch a d) : Keeps ch a (swapTable t d) := by
  refine Keeps.step ?_ hc hk
  unfold swapTable
  repeat' (first
      | with_reducible exact Keeps.refl _ _ | with_reducible assumption | intro _ | with_reducible apply swapBank_keeps
      | with_reducible apply sendMaps_keeps | with_reducible apply modRed_keeps | with_reducible apply keeps_ite
      | with_reducible apply keeps_foldl | dsimp only
      | (rw [restSz_fold]; refine keeps_sz (h := ?_) (e := ⟨fun f hf => by cases f <;> first | exact absurd (by decide) hf | dsimp only [DevField.Same, Chip.own]⟩) ..)
      | decide)

theorem lateMaps_keeps {ch : List DevField} {a : Device} (d : Device) (hc : within [.links, .lanes] ch = true) (hk : Keeps ch a d) : Keeps
    ch a (lateMaps d) := by
  refine Keeps.step ?_ hc hk
  unfold lateMaps
  repeat' (first
      | with_reducible exact Keeps.refl _ _ | with_reducible assumption | intro _ | with_reducible apply modLink_keeps
      | with_reducible apply sendMaps_keeps | with_reducible apply keeps_ite | with_reducible apply keeps_foldl | dsimp only | decide)

theorem askAgain_keeps {ch : List DevField} {a : Device} (loads : List LoadReq) (d : Device) (hc : within [.banks] ch = true) (hk : Keeps
    ch a d) : Keeps ch a (askAgain loads d) := by
  refine Keeps.step ?_ hc hk
  unfold askAgain
  repeat' (first
      | with_reducible exact Keeps.refl _ _ | with_reducible assumption | intro _ | with_reducible apply queueLoads_keeps | decide)

theorem sendNewMaps_keeps {ch : List DevField} {a : Device} (d : Device) (hc : within [.links, .lanes] ch = true) (hk : Keeps ch a d) :
    Keeps ch a (sendNewMaps d) := by
  refine Keeps.step ?_ hc hk
  unfold sendNewMaps
  repeat' (first
      | with_reducible exact Keeps.refl _ _ | with_reducible assumption | intro _ | with_reducible apply sendMaps_keeps
      | with_reducible apply modLink_keeps | with_reducible apply keeps_ite | with_reducible apply keeps_foldl | decide)

theorem finishLoad_keeps {ch : List DevField} {a : Device} (t : Tbl) (d : Device) (hc : within [.mbx, .vlog, .banks, .links, .dram,
    .lanes, .fabric, .red] ch = true) (hk : Keeps ch a d) : Keeps ch a (finishLoad t d) := by
  refine Keeps.step ?_ hc hk
  unfold finishLoad
  repeat' (first
      | with_reducible exact Keeps.refl _ _ | with_reducible assumption | intro _ | with_reducible apply dramSee_keeps
      | with_reducible apply raise_keeps | with_reducible apply emptyShadow_keeps | with_reducible apply finishWork_keeps
      | with_reducible apply modBank_keeps | with_reducible apply sendNewMaps_keeps | with_reducible apply modRed_keeps
      | with_reducible apply keeps_ite | split | dsimp only | decide)

theorem trimHead_keeps {ch : List DevField} {a : Device} (d : Device) (h : Head) (hc : within [.mbx, .vlog, .banks, .drive, .lanes,
    .fabric] ch = true) (hk : Keeps ch a d) : Keeps ch a (trimHead d h) := by
  refine Keeps.step ?_ hc hk
  unfold trimHead
  repeat' (first
      | with_reducible exact Keeps.refl _ _ | with_reducible assumption | intro _ | with_reducible apply modDrive_keeps
      | with_reducible apply raise_keeps | with_reducible apply keeps_ite | dsimp only
      | (rw [restSz_fold]; refine keeps_sz (h := ?_) (e := ⟨fun f hf => by cases f <;> first | exact absurd (by decide) hf | dsimp only [DevField.Same, Chip.own]⟩) ..)
      | decide)

theorem trimAll_keeps {ch : List DevField} {a : Device} (d : Device) (hc : within [.mbx, .vlog, .banks, .drive, .lanes, .fabric] ch =
    true) (hk : Keeps ch a d) : Keeps ch a (trimAll d) := by
  refine Keeps.step ?_ hc hk
  unfold trimAll
  repeat' (first
      | with_reducible exact Keeps.refl _ _ | with_reducible assumption | intro _ | with_reducible apply trimHead_keeps
      | with_reducible apply keeps_foldl | decide)

/-! Screen.lean -/

theorem pullSeg_keeps {ch : List DevField} {a : Device} (h : Head) (d : Device) (hc : within [.fire] ch = true) (hk : Keeps ch a d) :
    Keeps ch a (pullSeg h d) := by
  refine Keeps.step ?_ hc hk
  unfold pullSeg
  repeat' (first
      | with_reducible exact Keeps.refl _ _ | with_reducible assumption | intro _ | with_reducible apply modCursor_keeps
      | with_reducible apply keeps_ite | split | dsimp only | decide)

theorem stepScreen_keeps {ch : List DevField} {a : Device} (h : Head) (g : Seg) (d : Device) (hc : within [.fire] ch = true) (hk : Keeps
    ch a d) : Keeps ch a (stepScreen h g d) := by
  refine Keeps.step ?_ hc hk
  unfold stepScreen
  repeat' (first
      | with_reducible exact Keeps.refl _ _ | with_reducible assumption | intro _ | with_reducible apply modCursor_keeps | decide)

theorem pruneRing_keeps {ch : List DevField} {a : Device} (p : Plane) (pc : PlaneCfg) (lb : ℕ) (d : Device) (hc : within [.feed] ch =
    true) (hk : Keeps ch a d) : Keeps ch a (pruneRing p pc lb d) := by
  refine Keeps.step ?_ hc hk
  unfold pruneRing
  repeat' (first
      | with_reducible exact Keeps.refl _ _ | with_reducible assumption | intro _ | with_reducible apply modRing_keeps | decide)

theorem forecast_keeps {ch : List DevField} {a : Device} (p : Plane) (pc : PlaneCfg) (g : Seg) (lb : ℕ) (d : Device) (hc : within [.mbx,
    .vlog, .feed, .lanes, .fabric] ch = true) (hk : Keeps ch a d) : Keeps ch a (forecast p pc g lb d) := by
  refine Keeps.step ?_ hc hk
  unfold forecast
  repeat' (first
      | with_reducible exact Keeps.refl _ _ | with_reducible assumption | intro _ | with_reducible apply raise_keeps
      | with_reducible apply modRing_keeps | with_reducible apply keeps_ite | split | dsimp only | decide)

theorem countChain_keeps {ch : List DevField} {a : Device} (h : Head) (k : ChainCount) (d : Device) (hc : within [.acct] ch = true) (hk :
    Keeps ch a d) : Keeps ch a (countChain h k d) := by
  refine Keeps.step ?_ hc hk
  unfold countChain
  repeat' (first
      | with_reducible exact Keeps.refl _ _ | with_reducible assumption | intro _ | with_reducible apply countHead_keeps | decide)

theorem putScreened_keeps {ch : List DevField} {a : Device} (h : Head) (g : Seg) (sc : Screening) (d : Device) (hc : within [.mbx, .vlog,
    .engines, .dram, .lanes, .fabric, .red] ch = true) (hk : Keeps ch a d) : Keeps ch a (putScreened h g sc d) := by
  refine Keeps.step ?_ hc hk
  unfold putScreened
  repeat' (first
      | with_reducible exact Keeps.refl _ _ | with_reducible assumption | intro _ | with_reducible apply modEngine_keeps
      | with_reducible apply finish_keeps | with_reducible apply dramWrite_keeps | with_reducible apply lineGone_keeps
      | with_reducible apply keeps_foldl | split | dsimp only | decide)

theorem noteSkip_keeps {ch : List DevField} {a : Device} (h : Head) (job : JobKey) (line : ℕ) (r : Skip) (d : Device) (hc : within
    [.engines] ch = true) (hk : Keeps ch a d) : Keeps ch a (noteSkip h job line r d) := by
  refine Keeps.step ?_ hc hk
  unfold noteSkip
  repeat' (first
      | with_reducible exact Keeps.refl _ _ | with_reducible assumption | intro _ | with_reducible apply modEngine_keeps | decide)

theorem skipScreen_keeps {ch : List DevField} {a : Device} (h : Head) (g : Seg) (r : Skip) (d : Device) (hc : within [.mbx, .vlog,
    .engines, .fire, .lanes, .fabric] ch = true) (hk : Keeps ch a d) : Keeps ch a (skipScreen h g r d) := by
  refine Keeps.step ?_ hc hk
  unfold skipScreen
  repeat' (first
      | with_reducible exact Keeps.refl _ _ | with_reducible assumption | intro _ | with_reducible apply lineGone_keeps
      | with_reducible apply noteSkip_keeps | with_reducible apply stepScreen_keeps | decide)

theorem lateOnPlane_keeps {ch : List DevField} {a : Device} (pc : PlaneCfg) (g : Seg) (d : Device) (hc : within [.engines] ch = true) (hk
    : Keeps ch a d) : Keeps ch a (lateOnPlane pc g d) := by
  refine Keeps.step ?_ hc hk
  unfold lateOnPlane
  repeat' (first
      | with_reducible exact Keeps.refl _ _ | with_reducible assumption | intro _ | with_reducible apply noteSkip_keeps
      | with_reducible apply keeps_ite | with_reducible apply keeps_foldl | dsimp only | decide)

theorem keepProxy_keeps {ch : List DevField} {a : Device} (p : Plane) (pc : PlaneCfg) (g : Seg) (cols : ℕ) (d : Device) (hc : within
    [.feed] ch = true) (hk : Keeps ch a d) : Keeps ch a (keepProxy p pc g cols d) := by
  refine Keeps.step ?_ hc hk
  unfold keepProxy
  repeat' (first
      | with_reducible exact Keeps.refl _ _ | with_reducible assumption | intro _ | with_reducible apply modRing_keeps
      | with_reducible apply keeps_ite | split | dsimp only | decide)

theorem seedFirst_keeps {ch : List DevField} {a : Device} (h : Head) (g : Seg) (d : Device) (hc : within [.engines] ch = true) (hk : Keeps
    ch a d) : Keeps ch a (seedFirst h g d) := by
  refine Keeps.step ?_ hc hk
  unfold seedFirst
  repeat' (first
      | with_reducible exact Keeps.refl _ _ | with_reducible assumption | intro _ | with_reducible apply modEngine_keeps
      | with_reducible apply keeps_ite | decide)

theorem screenNext_keeps {ch : List DevField} {a : Device} (h : Head) (d : Device) (hc : within [.mbx, .vlog, .acct, .feed, .engines,
    .fire, .dram, .lanes, .fabric, .red] ch = true) (hk : Keeps ch a d) : Keeps ch a (screenNext h d) := by
  refine Keeps.step ?_ hc hk
  unfold screenNext
  repeat' (first
      | with_reducible exact Keeps.refl _ _ | with_reducible assumption | intro _ | with_reducible apply pullSeg_keeps
      | with_reducible apply pruneRing_keeps | with_reducible apply seedFirst_keeps | with_reducible apply lineGone_keeps
      | with_reducible apply stepScreen_keeps | with_reducible apply skipScreen_keeps | with_reducible apply putScreened_keeps
      | with_reducible apply countChain_keeps | with_reducible apply forecast_keeps | with_reducible apply lateOnPlane_keeps
      | with_reducible apply keepProxy_keeps | with_reducible apply keeps_ite | split | dsimp only | decide)

theorem loadForJob_keeps {ch : List DevField} {a : Device} (t : Tbl) (addr len : ℕ) (crc : U32) (d : Device) (hc : within [.mbx, .vlog,
    .jobs, .banks, .lanes, .fabric, .red] ch = true) (hk : Keeps ch a d) : DoneKeeps ch a (loadForJob t addr len crc d) := by
  refine doneKeeps_step ?_ hc hk
  unfold loadForJob
  repeat' (first
      | with_reducible exact Keeps.refl _ _ | with_reducible assumption | intro _ | with_reducible apply no_keeps
      | with_reducible apply modBank_keeps | with_reducible apply noteReady_keeps | with_reducible apply dirty_keeps
      | with_reducible apply doneKeeps_ite | with_reducible apply doneKeeps_reply | with_reducible apply doneKeeps_later | split
      | dsimp only
      | (rw [restSz_fold]; refine keeps_sz (h := ?_) (e := ⟨fun f hf => by cases f <;> first | exact absurd (by decide) hf | dsimp only [DevField.Same, Chip.own]⟩) ..)
      | decide)

theorem loadForRepeat_keeps {ch : List DevField} {a : Device} (t : Tbl) (addr len : ℕ) (crc : U32) (d : Device) (hc : within [.banks,
    .red] ch = true) (hk : Keeps ch a d) : DoneKeeps ch a (loadForRepeat t addr len crc d) := by
  refine doneKeeps_step ?_ hc hk
  unfold loadForRepeat
  repeat' (first
      | with_reducible exact Keeps.refl _ _ | with_reducible assumption | intro _ | with_reducible apply no_keeps
      | with_reducible apply dirty_keeps | with_reducible apply modBank_keeps | with_reducible apply doneKeeps_ite
      | with_reducible apply doneKeeps_reply | with_reducible apply doneKeeps_later | decide)

/-! Position.lean -/

theorem refreshPos_keeps {ch : List DevField} {a : Device} (d : Device) (hc : within [.pos] ch = true) (hk : Keeps ch a d) : Keeps ch a
    (refreshPos d) := by
  refine Keeps.step ?_ hc hk
  unfold refreshPos
  repeat' (first
      | with_reducible exact Keeps.refl _ _ | with_reducible assumption | intro _ | dsimp only
      | (rw [restSz_fold]; refine keeps_sz (h := ?_) (e := ⟨fun f hf => by cases f <;> first | exact absurd (by decide) hf | dsimp only [DevField.Same, Chip.own]⟩) ..))

theorem adaptersTry_keeps {ch : List DevField} {a : Device} (d : Device) (hc : within [.adapters] ch = true) (hk : Keeps ch a d) : Keeps
    ch a (adaptersTry d) := by
  refine Keeps.step ?_ hc hk
  unfold adaptersTry
  repeat' (first
      | with_reducible exact Keeps.refl _ _ | with_reducible assumption | intro _
      | (rw [restSz_fold]; refine keeps_sz (h := ?_) (e := ⟨fun f hf => by cases f <;> first | exact absurd (by decide) hf | dsimp only [DevField.Same, Chip.own]⟩) ..))

theorem tickCore_keeps {ch : List DevField} {a : Device} (d : Device) (hc : within [.chip, .mbx, .vlog, .pos, .links, .adapters, .cz,
    .dram, .lanes, .fabric, .red] ch = true) (hk : Keeps ch a d) : Keeps ch a (tickCore d) := by
  refine Keeps.step ?_ hc hk
  unfold tickCore
  repeat' (first
      | with_reducible exact Keeps.refl _ _ | with_reducible assumption | intro _ | with_reducible apply advanceVictims_keeps
      | with_reducible apply advanceRelock_keeps | with_reducible apply tickDecs_keeps | with_reducible apply advancePorts_keeps
      | with_reducible apply advanceAll_keeps | with_reducible apply runTests_keeps | with_reducible apply adaptersTry_keeps
      | with_reducible apply resumeControl_keeps | with_reducible apply refreshPos_keeps | with_reducible apply keeps_ite
      | with_reducible apply keeps_foldl | split | dsimp only
      | (rw [restSz_fold]; refine keeps_sz (h := ?_) (e := ⟨fun f hf => by cases f <;> first | exact absurd (by decide) hf | dsimp only [DevField.Same, Chip.own]⟩) ..)
      | decide)

theorem driveCount_keeps {ch : List DevField} {a : Device} (fwd : Bool) (d : Device) (hc : within [.pos] ch = true) (hk : Keeps ch a d) :
    Keeps ch a (driveCount fwd d) := by
  refine Keeps.step ?_ hc hk
  unfold driveCount
  repeat' (first
      | with_reducible exact Keeps.refl _ _ | with_reducible assumption | intro _ | with_reducible apply refreshPos_keeps | dsimp only
      | (rw [restSz_fold]; refine keeps_sz (h := ?_) (e := ⟨fun f hf => by cases f <;> first | exact absurd (by decide) hf | dsimp only [DevField.Same, Chip.own]⟩) ..)
      | decide)

theorem checkReverse_keeps {ch : List DevField} {a : Device} (d : Device) (hc : within [.mbx, .vlog, .pos, .lanes, .fabric] ch = true) (hk
    : Keeps ch a d) : Keeps ch a (checkReverse d) := by
  refine Keeps.step ?_ hc hk
  unfold checkReverse
  repeat' (first
      | with_reducible exact Keeps.refl _ _ | with_reducible assumption | intro _ | with_reducible apply raise_keeps
      | with_reducible apply keeps_ite | dsimp only
      | (rw [restSz_fold]; refine keeps_sz (h := ?_) (e := ⟨fun f hf => by cases f <;> first | exact absurd (by decide) hf | dsimp only [DevField.Same, Chip.own]⟩) ..)
      | decide)

theorem illegalEdge_keeps {ch : List DevField} {a : Device} (enc : Fin 2) (d : Device) (hc : within [.vlog, .pos] ch = true) (hk : Keeps
    ch a d) : Keeps ch a (illegalEdge enc d) := by
  refine Keeps.step ?_ hc hk
  unfold illegalEdge
  repeat' (first
      | with_reducible exact Keeps.refl _ _ | with_reducible assumption | intro _ | with_reducible apply modDiag_keeps | dsimp only
      | (rw [restSz_fold]; refine keeps_sz (h := ?_) (e := ⟨fun f hf => by cases f <;> first | exact absurd (by decide) hf | dsimp only [DevField.Same, Chip.own]⟩) ..)
      | decide)

theorem freezePos_keeps {ch : List DevField} {a : Device} (d : Device) (hc : within [.mbx, .vlog, .acct, .jobs, .banks, .engines, .pos,
    .sheet, .fire, .loop, .lanes, .fabric] ch = true) (hk : Keeps ch a d) : Keeps ch a (freezePos d) := by
  refine Keeps.step ?_ hc hk
  unfold freezePos
  repeat' (first
      | with_reducible exact Keeps.refl _ _ | with_reducible assumption | intro _ | with_reducible apply raise_keeps
      | with_reducible apply positionFails_keeps | dsimp only
      | (rw [restSz_fold]; refine keeps_sz (h := ?_) (e := ⟨fun f hf => by cases f <;> first | exact absurd (by decide) hf | dsimp only [DevField.Same, Chip.own]⟩) ..)
      | decide)

theorem drivingFaulted_keeps {ch : List DevField} {a : Device} (enc : Fin 2) (d : Device) (hc : within [.mbx, .vlog, .acct, .jobs, .banks,
    .engines, .pos, .sheet, .fire, .loop, .lanes, .fabric] ch = true) (hk : Keeps ch a d) : Keeps ch a (drivingFaulted enc d) := by
  refine Keeps.step ?_ hc hk
  unfold drivingFaulted
  repeat' (first
      | with_reducible exact Keeps.refl _ _ | with_reducible assumption | intro _ | with_reducible apply raise_keeps
      | with_reducible apply freezePos_keeps | with_reducible apply keeps_ite | dsimp only
      | (rw [restSz_fold]; refine keeps_sz (h := ?_) (e := ⟨fun f hf => by cases f <;> first | exact absurd (by decide) hf | dsimp only [DevField.Same, Chip.own]⟩) ..)
      | decide)

theorem takeSheetNumber_keeps {ch : List DevField} {a : Device} (start : ℕ) (d : Device) (hc : within [.sheet] ch = true) (hk : Keeps ch a
    d) : Keeps ch a (takeSheetNumber start d).2 := by
  refine Keeps.step ?_ hc hk
  unfold takeSheetNumber
  repeat' (first
      | with_reducible exact Keeps.refl _ _ | with_reducible assumption | intro _ | with_reducible apply keeps_ite_snd | split
      | dsimp only
      | (rw [restSz_fold]; refine keeps_sz (h := ?_) (e := ⟨fun f hf => by cases f <;> first | exact absurd (by decide) hf | dsimp only [DevField.Same, Chip.own]⟩) ..))

theorem placeSheet_keeps {ch : List DevField} {a : Device} (start : U64) (number : U32) (d : Device) (hc : within [.sheet] ch = true) (hk
    : Keeps ch a d) : Keeps ch a (placeSheet start number d) := by
  refine Keeps.step ?_ hc hk
  unfold placeSheet
  repeat' (first
      | with_reducible exact Keeps.refl _ _ | with_reducible assumption | intro _ | dsimp only
      | (rw [restSz_fold]; refine keeps_sz (h := ?_) (e := ⟨fun f hf => by cases f <;> first | exact absurd (by decide) hf | dsimp only [DevField.Same, Chip.own]⟩) ..))

theorem openSheet_keeps {ch : List DevField} {a : Device} (input : Fin 2) (start : ℕ) (d : Device) (hc : within [.mbx, .vlog, .sheet,
    .lanes, .fabric] ch = true) (hk : Keeps ch a d) : Keeps ch a (openSheet input start d) := by
  refine Keeps.step ?_ hc hk
  unfold openSheet
  repeat' (first
      | with_reducible exact Keeps.refl _ _ | with_reducible assumption | intro _ | with_reducible apply raise_keeps
      | with_reducible apply modDiag_keeps | with_reducible apply takeSheetNumber_keeps | with_reducible apply placeSheet_keeps
      | with_reducible apply broadcast_keeps | with_reducible apply keeps_ite | split
      | with_reducible refine keeps_pair (by with_reducible assumption) ?_ | dsimp only
      | (rw [restSz_fold]; refine keeps_sz (h := ?_) (e := ⟨fun f hf => by cases f <;> first | exact absurd (by decide) hf | dsimp only [DevField.Same, Chip.own]⟩) ..)
      | decide)

theorem checkSampleConfig_keeps {ch : List DevField} {a : Device} (m : WposSample) (d : Device) (hc : within [.mbx, .vlog, .pos, .lanes,
    .fabric] ch = true) (hk : Keeps ch a d) : Keeps ch a (checkSampleConfig m d) := by
  refine Keeps.step ?_ hc hk
  unfold checkSampleConfig
  repeat' (first
      | with_reducible exact Keeps.refl _ _ | with_reducible assumption | intro _ | with_reducible apply raise_keeps
      | with_reducible apply keeps_ite | dsimp only
      | (rw [restSz_fold]; refine keeps_sz (h := ?_) (e := ⟨fun f hf => by cases f <;> first | exact absurd (by decide) hf | dsimp only [DevField.Same, Chip.own]⟩) ..)
      | decide)

theorem followSample_keeps {ch : List DevField} {a : Device} (m : WposSample) (d : Device) (hc : within [.vlog, .pos, .cams] ch = true) (hk :
    Keeps ch a d) : Keeps ch a (followSample m d) := by
  refine Keeps.step ?_ hc hk
  unfold followSample
  repeat' (first
      | with_reducible exact Keeps.refl _ _ | with_reducible assumption | intro _ | with_reducible apply modDiag_keeps
      | with_reducible apply refreshPos_keeps | with_reducible apply keeps_ite | dsimp only
      | (rw [restSz_fold]; refine keeps_sz (h := ?_) (e := ⟨fun f hf => by cases f <;> first | exact absurd (by decide) hf | dsimp only [DevField.Same, Chip.own]⟩) ..)
      | decide)

theorem skipPassed.passSegs_keeps {ch : List DevField} {a : Device} (h : Head) (fuel : ℕ) (d : Device) (hc : within [.mbx, .vlog, .acct,
    .engines, .fire, .lanes, .fabric] ch = true) (hk : Keeps ch a d) : Keeps ch a (skipPassed.passSegs h fuel d) := by
  refine Keeps.step ?_ hc hk
  clear hk hc a
  induction fuel generalizing h d with
  | zero => exact Keeps.refl _ _
  | succ k ih =>
    unfold skipPassed.passSegs
    repeat' (first
        | with_reducible exact Keeps.refl _ _ | with_reducible assumption | intro _ | with_reducible refine Keeps.trans ?_ (ih ..)
        | with_reducible apply skipFront_keeps | with_reducible apply keeps_ite | split | dsimp only | decide)

theorem skipPassed_keeps {ch : List DevField} {a : Device} (d : Device) (hc : within [.mbx, .vlog, .acct, .engines, .pos, .fire, .lanes,
    .fabric] ch = true) (hk : Keeps ch a d) : Keeps ch a (skipPassed d) := by
  refine Keeps.step ?_ hc hk
  unfold skipPassed
  repeat' (first
      | with_reducible exact Keeps.refl _ _ | with_reducible assumption | intro _ | with_reducible apply skipPassed.passSegs_keeps
      | with_reducible apply keeps_foldl | dsimp only
      | (rw [restSz_fold]; refine keeps_sz (h := ?_) (e := ⟨fun f hf => by cases f <;> first | exact absurd (by decide) hf | dsimp only [DevField.Same, Chip.own]⟩) ..)
      | decide)

theorem proveChange_keeps {ch : List DevField} {a : Device} (m : WposSample) (d : Device) (hc : within [.jobs] ch = true) (hk : Keeps ch a
    d) : Keeps ch a (proveChange m d) := by
  refine Keeps.step ?_ hc hk
  unfold proveChange
  repeat' (first
      | with_reducible exact Keeps.refl _ _ | with_reducible assumption | intro _ | split | dsimp only
      | (rw [restSz_fold]; refine keeps_sz (h := ?_) (e := ⟨fun f hf => by cases f <;> first | exact absurd (by decide) hf | dsimp only [DevField.Same, Chip.own]⟩) ..))

theorem learnJob_keeps {ch : List DevField} {a : Device} (m : WposSample) (d : Device) (hc : within [.jobs] ch = true) (hk : Keeps ch a d)
    : Keeps ch a (learnJob m d) := by
  refine Keeps.step ?_ hc hk
  unfold learnJob
  repeat' (first
      | with_reducible exact Keeps.refl _ _ | with_reducible assumption | intro _ | with_reducible apply keeps_ite | split | dsimp only
      | (rw [restSz_fold]; refine keeps_sz (h := ?_) (e := ⟨fun f hf => by cases f <;> first | exact absurd (by decide) hf | dsimp only [DevField.Same, Chip.own]⟩) ..))

theorem lockPromotion_keeps {ch : List DevField} {a : Device} (d : Device) (hc : within [.red, .nv] ch = true) (hk : Keeps ch a d) : Keeps
    ch a (lockPromotion d) := by
  refine Keeps.step ?_ hc hk
  unfold lockPromotion
  repeat' (first
      | with_reducible exact Keeps.refl _ _ | with_reducible assumption | intro _ | with_reducible apply recordRole_keeps
      | with_reducible apply keeps_ite | split | dsimp only
      | (rw [restSz_fold]; refine keeps_sz (h := ?_) (e := ⟨fun f hf => by cases f <;> first | exact absurd (by decide) hf | dsimp only [DevField.Same, Chip.own]⟩) ..)
      | decide)

theorem faultSample_keeps {ch : List DevField} {a : Device} (lost : Bool) (m : WposSample) (d : Device) (hc : within [.mbx, .vlog, .acct,
    .jobs, .banks, .engines, .pos, .sheet, .fire, .loop, .lanes, .fabric] ch = true) (hk : Keeps ch a d) : Keeps ch a (faultSample lost m
    d) := by
  refine Keeps.step ?_ hc hk
  unfold faultSample
  repeat' (first
      | with_reducible exact Keeps.refl _ _ | with_reducible assumption | intro _ | with_reducible apply raise_keeps
      | with_reducible apply skipPassed_keeps | with_reducible apply positionFails_keeps | with_reducible apply keeps_ite | dsimp only
      | (rw [restSz_fold]; refine keeps_sz (h := ?_) (e := ⟨fun f hf => by cases f <;> first | exact absurd (by decide) hf | dsimp only [DevField.Same, Chip.own]⟩) ..)
      | decide)

theorem setPosConfig_keeps {ch : List DevField} {a₀ : Device} (a : List ℤ) (d : Device) (hc : within [.mbx, .vlog, .pos, .lanes, .fabric]
    ch = true) (hk : Keeps ch a₀ d) : Keeps ch a₀ (setPosConfig a d) := by
  refine Keeps.step ?_ hc hk
  unfold setPosConfig
  repeat' (first
      | with_reducible exact Keeps.refl _ _ | with_reducible assumption | intro _ | with_reducible apply checkSampleConfig_keeps
      | with_reducible apply sendRoles_keeps | with_reducible apply keeps_ite | split | dsimp only
      | (rw [restSz_fold]; refine keeps_sz (h := ?_) (e := ⟨fun f hf => by cases f <;> first | exact absurd (by decide) hf | dsimp only [DevField.Same, Chip.own]⟩) ..)
      | decide)

theorem setWpos_keeps {ch : List DevField} {a : Device} (v : U64) (d : Device) (hc : within [.acct, .pos, .sheet, .cams] ch = true) (hk :
    Keeps ch a d) : Keeps ch a (setWpos v d) := by
  refine Keeps.step ?_ hc hk
  unfold setWpos
  repeat' (first
      | with_reducible exact Keeps.refl _ _ | with_reducible assumption | intro _ | dsimp only
      | (rw [restSz_fold]; refine keeps_sz (h := ?_) (e := ⟨fun f hf => by cases f <;> first | exact absurd (by decide) hf | dsimp only [DevField.Same, Chip.own]⟩) ..))

/-! Firing.lean -/

theorem inhibitHeads_keeps {ch : List DevField} {a : Device} (hs : List Head) (d : Device) (hc : within [.fire, .links, .lanes] ch = true)
    (hk : Keeps ch a d) : Keeps ch a (inhibitHeads hs d) := by
  refine Keeps.step ?_ hc hk
  unfold inhibitHeads
  repeat' (first
      | with_reducible exact Keeps.refl _ _ | with_reducible assumption | intro _ | with_reducible apply sendInhibit_keeps
      | with_reducible apply keeps_ite | with_reducible apply keeps_foldl | dsimp only
      | (rw [restSz_fold]; refine keeps_sz (h := ?_) (e := ⟨fun f hf => by cases f <;> first | exact absurd (by decide) hf | dsimp only [DevField.Same, Chip.own]⟩) ..)
      | decide)

theorem releaseHeads_keeps {ch : List DevField} {a : Device} (hs : List Head) (d : Device) (hc : within [.fire, .links, .lanes] ch = true)
    (hk : Keeps ch a d) : Keeps ch a (releaseHeads hs d) := by
  refine Keeps.step ?_ hc hk
  unfold releaseHeads
  repeat' (first
      | with_reducible exact Keeps.refl _ _ | with_reducible assumption | intro _ | with_reducible apply sendInhibit_keeps
      | with_reducible apply keeps_ite | with_reducible apply keeps_foldl | dsimp only
      | (rw [restSz_fold]; refine keeps_sz (h := ?_) (e := ⟨fun f hf => by cases f <;> first | exact absurd (by decide) hf | dsimp only [DevField.Same, Chip.own]⟩) ..)
      | decide)

theorem commitLine_keeps {ch : List DevField} {a : Device} (h : Head) (g : Seg) (codes : List ℕ) (d : Device) (hc : within [.acct,
    .engines, .fire, .links, .drive, .lanes] ch = true) (hk : Keeps ch a d) : Keeps ch a (commitLine h g codes d) := by
  refine Keeps.step ?_ hc hk
  unfold commitLine
  repeat' (first
      | with_reducible exact Keeps.refl _ _ | with_reducible assumption | intro _ | with_reducible apply forgetLines_keeps
      | with_reducible apply modCursor_keeps | with_reducible apply countHead_keeps | with_reducible apply modDrive_keeps
      | with_reducible apply sendCell_keeps | with_reducible apply modLink_keeps | dsimp only
      | (rw [restSz_fold]; refine keeps_sz (h := ?_) (e := ⟨fun f hf => by cases f <;> first | exact absurd (by decide) hf | dsimp only [DevField.Same, Chip.own]⟩) ..)
      | decide)

theorem playCycle_keeps {ch : List DevField} {a : Device} (t : Token) (row : BitVec 2) (d : Device) (hc : within [.drive] ch = true) (hk :
    Keeps ch a d) : Keeps ch a (playCycle t row d) := by
  refine Keeps.step ?_ hc hk
  unfold playCycle
  repeat' (first
      | with_reducible exact Keeps.refl _ _ | with_reducible assumption | intro _ | with_reducible apply modDrive_keeps
      | with_reducible apply keeps_ite | dsimp only | decide)

theorem fireRow_keeps {ch : List DevField} {a : Device} (t : Token) (row : BitVec 2) (d : Device) (hc : within [.acct, .fire, .links,
    .drive, .lanes] ch = true) (hk : Keeps ch a d) : Keeps ch a (fireRow t row d) := by
  refine Keeps.step ?_ hc hk
  unfold fireRow
  repeat' (first
      | with_reducible exact Keeps.refl _ _ | with_reducible assumption | intro _ | with_reducible apply sendCellAt_keeps
      | with_reducible apply playCycle_keeps | with_reducible apply noteEnded_keeps | with_reducible apply countHead_keeps
      | with_reducible apply keeps_ite | dsimp only
      | (rw [restSz_fold]; refine keeps_sz (h := ?_) (e := ⟨fun f hf => by cases f <;> first | exact absurd (by decide) hf | dsimp only [DevField.Same, Chip.own]⟩) ..)
      | decide)

theorem dropToken_keeps {ch : List DevField} {a : Device} (t : Token) (r : Skip) (d : Device) (hc : within [.acct, .fire] ch = true) (hk :
    Keeps ch a d) : Keeps ch a (dropToken t r d) := by
  refine Keeps.step ?_ hc hk
  unfold dropToken
  repeat' (first
      | with_reducible exact Keeps.refl _ _ | with_reducible assumption | intro _ | with_reducible apply skipToken_keeps | dsimp only
      | (rw [restSz_fold]; refine keeps_sz (h := ?_) (e := ⟨fun f hf => by cases f <;> first | exact absurd (by decide) hf | dsimp only [DevField.Same, Chip.own]⟩) ..)
      | decide)

/-! Staging.lean -/

theorem stageFailed_keeps {ch : List DevField} {a : Device} (e : StageFail) (d : Device) (hc : within [] ch = true) (hk : Keeps ch a d) :
    DoneKeeps ch a (stageFailed e d) := by
  refine doneKeeps_step ?_ hc hk
  unfold stageFailed
  repeat' (first
      | with_reducible exact Keeps.refl _ _ | with_reducible assumption | intro _ | with_reducible apply no_keeps
      | with_reducible apply poisoned_keeps | with_reducible apply doneKeeps_ite | with_reducible apply doneKeeps_reply
      | with_reducible apply doneKeeps_later | split | dsimp only | decide)

theorem seeChecks_keeps {ch : List DevField} {a : Device} (j : JobDesc) (first isRunning : Bool) (lo hi : ℕ) (d : Device) (hc : within
    [.vlog, .dram] ch = true) (hk : Keeps ch a d) : Keeps ch a (seeChecks j first isRunning lo hi d) := by
  refine Keeps.step ?_ hc hk
  unfold seeChecks
  repeat' (first
      | with_reducible exact Keeps.refl _ _ | with_reducible assumption | intro _ | with_reducible apply dramSee_keeps
      | with_reducible apply keeps_foldl | decide)

theorem stageLoads_keeps {ch : List DevField} {a : Device} (j : JobDesc) (d : Device) (hc : within [.banks] ch = true) (hk : Keeps ch a d)
    : Keeps ch a (stageLoads j d) := by
  refine Keeps.step ?_ hc hk
  unfold stageLoads
  repeat' (first
      | with_reducible exact Keeps.refl _ _ | with_reducible assumption | intro _ | with_reducible apply queueLoads_keeps | decide)

theorem noteMirror_keeps {ch : List DevField} {a : Device} (id : JobKey) (n : ℕ) (d : Device) (hc : within [.red] ch = true) (hk : Keeps
    ch a d) : Keeps ch a (noteMirror id n d) := by
  refine Keeps.step ?_ hc hk
  unfold noteMirror
  repeat' (first
      | with_reducible exact Keeps.refl _ _ | with_reducible assumption | intro _ | with_reducible apply modRed_keeps
      | with_reducible apply keeps_ite | decide)

theorem raiseValid_keeps {ch : List DevField} {a : Device} (id : JobKey) (n : ℕ) (p : JobSupply) (d : Device) (hc : within [.jobs] ch =
    true) (hk : Keeps ch a d) : Keeps ch a (raiseValid id n p d) := by
  refine Keeps.step ?_ hc hk
  unfold raiseValid
  repeat' (first
      | with_reducible exact Keeps.refl _ _ | with_reducible assumption | intro _ | dsimp only
      | (rw [restSz_fold]; refine keeps_sz (h := ?_) (e := ⟨fun f hf => by cases f <;> first | exact absurd (by decide) hf | dsimp only [DevField.Same, Chip.own]⟩) ..))

/-! Loop.lean -/

theorem countLoop_keeps {ch : List DevField} {a : Device} (k : Plane) (f : LoopCtr → LoopCtr) (d : Device) (hc : within [.acct] ch = true)
    (hk : Keeps ch a d) : Keeps ch a (countLoop k f d) := by
  refine Keeps.step ?_ hc hk
  unfold countLoop
  repeat' (first
      | with_reducible exact Keeps.refl _ _ | with_reducible assumption | intro _ | with_reducible apply countAll_keeps | decide)

theorem takeSpan_keeps {ch : List DevField} {a : Device} (r : SpanRecord) (d : Device) (hc : within [.loop] ch = true) (hk : Keeps ch a d)
    : Keeps ch a (takeSpan r d) := by
  refine Keeps.step ?_ hc hk
  unfold takeSpan
  repeat' (first
      | with_reducible exact Keeps.refl _ _ | with_reducible assumption | intro _ | with_reducible apply modColour_keeps | dsimp only
      | decide)

theorem sendRecord_keeps {ch : List DevField} {a : Device} (rec_ : List U8) (dest : U8) (d : Device) (hc : within [.mbx, .vlog, .loop,
    .cz, .lanes, .fabric, .red] ch = true) (hk : Keeps ch a d) : Keeps ch a (sendRecord rec_ dest d) := by
  refine Keeps.step ?_ hc hk
  unfold sendRecord
  repeat' (first
      | with_reducible exact Keeps.refl _ _ | with_reducible assumption | intro _ | with_reducible apply streamSend_keeps | dsimp only
      | (rw [restSz_fold]; refine keeps_sz (h := ?_) (e := ⟨fun f hf => by cases f <;> first | exact absurd (by decide) hf | dsimp only [DevField.Same, Chip.own]⟩) ..)
      | decide)

theorem takeInbox_keeps {ch : List DevField} {a : Device} (e : U8 × List U8) (d : Device) (hc : within [.cz] ch = true) (hk : Keeps ch a
    d) : Keeps ch a (takeInbox e d) := by
  refine Keeps.step ?_ hc hk
  unfold takeInbox
  repeat' (first
      | with_reducible exact Keeps.refl _ _ | with_reducible assumption | intro _ | dsimp only
      | (rw [restSz_fold]; refine keeps_sz (h := ?_) (e := ⟨fun f hf => by cases f <;> first | exact absurd (by decide) hf | dsimp only [DevField.Same, Chip.own]⟩) ..))

theorem sendSpans_keeps {ch : List DevField} {a : Device} (reset : Bool) (d : Device) (hc : within [.mbx, .vlog, .loop, .cz, .lanes,
    .fabric, .red] ch = true) (hk : Keeps ch a d) : Keeps ch a (sendSpans reset d) := by
  refine Keeps.step ?_ hc hk
  unfold sendSpans
  repeat' (first
      | with_reducible exact Keeps.refl _ _ | with_reducible assumption | intro _ | with_reducible apply takeSpan_keeps
      | with_reducible apply sendRecord_keeps | with_reducible apply keeps_ite | with_reducible apply keeps_foldl | split | dsimp only
      | decide)

theorem takeProxy_keeps {ch : List DevField} {a : Device} (r : ProxyRecord) (d : Device) (hc : within [.loop] ch = true) (hk : Keeps ch a
    d) : Keeps ch a (takeProxy r d) := by
  refine Keeps.step ?_ hc hk
  unfold takeProxy
  repeat' (first
      | with_reducible exact Keeps.refl _ _ | with_reducible assumption | intro _ | with_reducible apply modColour_keeps | dsimp only
      | (rw [restSz_fold]; refine keeps_sz (h := ?_) (e := ⟨fun f hf => by cases f <;> first | exact absurd (by decide) hf | dsimp only [DevField.Same, Chip.own]⟩) ..)
      | decide)

theorem dropEnded_keeps {ch : List DevField} {a : Device} (hs : List Head) (job : JobKey) (lines : List ℕ) (d : Device) (hc : within
    [.fire] ch = true) (hk : Keeps ch a d) : Keeps ch a (dropEnded hs job lines d) := by
  refine Keeps.step ?_ hc hk
  unfold dropEnded
  repeat' (first
      | with_reducible exact Keeps.refl _ _ | with_reducible assumption | intro _ | dsimp only
      | (rw [restSz_fold]; refine keeps_sz (h := ?_) (e := ⟨fun f hf => by cases f <;> first | exact absurd (by decide) hf | dsimp only [DevField.Same, Chip.own]⟩) ..))

theorem dropProxy_keeps {ch : List DevField} {a : Device} (colour : Plane) (r : PrintRun) (lo hi : ℕ) (d : Device) (hc : within [.feed,
    .fire, .loop] ch = true) (hk : Keeps ch a d) : Keeps ch a (dropProxy colour r lo hi d) := by
  refine Keeps.step ?_ hc hk
  unfold dropProxy
  repeat' (first
      | with_reducible exact Keeps.refl _ _ | with_reducible assumption | intro _ | with_reducible apply dropEnded_keeps
      | with_reducible apply modRing_keeps | with_reducible apply modOwner_keeps | dsimp only | decide)

theorem startRuns_keeps {ch : List DevField} {a : Device} (j : JobDesc) (r : PrintRun) (d : Device) (hc : within [.loop] ch = true) (hk :
    Keeps ch a d) : Keeps ch a (startRuns j r d) := by
  refine Keeps.step ?_ hc hk
  unfold startRuns
  repeat' (first
      | with_reducible exact Keeps.refl _ _ | with_reducible assumption | intro _ | with_reducible apply modOwner_keeps
      | with_reducible apply keeps_foldl | dsimp only | decide)

theorem analyseStrip_keeps {ch : List DevField} {a : Device} (r : StripRecord) (reversed : BitVec 40) (d : Device) (hc : within [.mbx,
    .vlog, .acct, .loop, .lanes, .fabric] ch = true) (hk : Keeps ch a d) : Keeps ch a (analyseStrip r reversed d) := by
  refine Keeps.step ?_ hc hk
  unfold analyseStrip
  repeat' (first
      | with_reducible exact Keeps.refl _ _ | with_reducible assumption | intro _ | with_reducible apply countLoop_keeps
      | with_reducible apply raise_keeps | with_reducible apply keeps_ite | split | dsimp only
      | (rw [restSz_fold]; refine keeps_sz (h := ?_) (e := ⟨fun f hf => by cases f <;> first | exact absurd (by decide) hf | dsimp only [DevField.Same, Chip.own]⟩) ..)
      | decide)

theorem accumulateCell_keeps {ch : List DevField} {a : Device} (x : Cell) (d : Device) (hc : within [.acct, .loop] ch = true) (hk : Keeps
    ch a d) : Keeps ch a (accumulateCell x d) := by
  refine Keeps.step ?_ hc hk
  unfold accumulateCell
  repeat' (first
      | with_reducible exact Keeps.refl _ _ | with_reducible assumption | intro _ | with_reducible apply countLoop_keeps
      | with_reducible apply keeps_ite | with_reducible apply keeps_foldl | split | dsimp only
      | (rw [restSz_fold]; refine keeps_sz (h := ?_) (e := ⟨fun f hf => by cases f <;> first | exact absurd (by decide) hf | dsimp only [DevField.Same, Chip.own]⟩) ..)
      | decide)

theorem dropPassed_keeps {ch : List DevField} {a : Device} (posOf : Port → ℕ) (d : Device) (hc : within [.loop] ch = true) (hk : Keeps ch
    a d) : Keeps ch a (dropPassed posOf d) := by
  refine Keeps.step ?_ hc hk
  unfold dropPassed
  repeat' (first
      | with_reducible exact Keeps.refl _ _ | with_reducible assumption | intro _ | split | dsimp only
      | (rw [restSz_fold]; refine keeps_sz (h := ?_) (e := ⟨fun f hf => by cases f <;> first | exact absurd (by decide) hf | dsimp only [DevField.Same, Chip.own]⟩) ..))

theorem trimHeadLoop_keeps {ch : List DevField} {a : Device} (k : Plane) (es : Ests) (d : Device) (h : SpanHead) (hc : within [.mbx,
    .vlog, .acct, .loop, .lanes, .fabric] ch = true) (hk : Keeps ch a d) : Keeps ch a (trimHeadLoop k es d h) := by
  refine Keeps.step ?_ hc hk
  unfold trimHeadLoop
  repeat' (first
      | with_reducible exact Keeps.refl _ _ | with_reducible assumption | intro _ | with_reducible apply countLoop_keeps
      | with_reducible apply raise_keeps | with_reducible apply modColour_keeps | with_reducible apply keeps_ite | split | dsimp only
      | decide)

theorem updateBin_keeps {ch : List DevField} {a : Device} (k : Plane) (d : Device) (e : ℕ × BinEst) (hc : within [.acct, .loop] ch = true)
    (hk : Keeps ch a d) : Keeps ch a (updateBin k d e) := by
  refine Keeps.step ?_ hc hk
  unfold updateBin
  repeat' (first
      | with_reducible exact Keeps.refl _ _ | with_reducible assumption | intro _ | with_reducible apply countLoop_keeps
      | with_reducible apply modColour_keeps | with_reducible apply keeps_ite | split | dsimp only | decide)

theorem takeCorrection_keeps {ch : List DevField} {a : Device} (r : CorrRecord) (d : Device) (hc : within [.acct, .loop] ch = true) (hk :
    Keeps ch a d) : Keeps ch a (takeCorrection r d) := by
  refine Keeps.step ?_ hc hk
  unfold takeCorrection
  repeat' (first
      | with_reducible exact Keeps.refl _ _ | with_reducible assumption | intro _ | with_reducible apply modOwner_keeps
      | with_reducible apply countAll_keeps | with_reducible apply keeps_ite | decide)

theorem sendCorr_keeps {ch : List DevField} {a : Device} (k : Plane) (r : CorrRecord) (d : Device) (hc : within [.mbx, .vlog, .acct,
    .loop, .lanes, .fabric] ch = true) (hk : Keeps ch a d) : Keeps ch a (sendCorr k r d) := by
  refine Keeps.step ?_ hc hk
  unfold sendCorr
  repeat' (first
      | with_reducible exact Keeps.refl _ _ | with_reducible assumption | intro _ | with_reducible apply takeCorrection_keeps
      | with_reducible apply sendTo_keeps | with_reducible apply keeps_ite | with_reducible apply keeps_foldl
      | with_reducible refine keeps_pair (by with_reducible assumption) ?_ | dsimp only
      | (rw [restSz_fold]; refine keeps_sz (h := ?_) (e := ⟨fun f hf => by cases f <;> first | exact absurd (by decide) hf | dsimp only [DevField.Same, Chip.own]⟩) ..)
      | decide)

theorem storeHistory_keeps {ch : List DevField} {a : Device} (k : Plane) (d : Device) (hc : within [.mbx, .vlog, .dram, .lanes, .fabric,
    .red] ch = true) (hk : Keeps ch a d) : Keeps ch a (storeHistory k d) := by
  refine Keeps.step ?_ hc hk
  unfold storeHistory
  repeat' (first
      | with_reducible exact Keeps.refl _ _ | with_reducible assumption | intro _ | with_reducible apply dramWrite_keeps
      | with_reducible apply keeps_ite | dsimp only | decide)

theorem solveColour_keeps {ch : List DevField} {a : Device} (band : U32) (k : Plane) (es : Ests) (d : Device) (hc : within [.mbx, .vlog,
    .acct, .loop, .dram, .lanes, .fabric, .red] ch = true) (hk : Keeps ch a d) : Keeps ch a (solveColour band k es d) := by
  refine Keeps.step ?_ hc hk
  unfold solveColour
  repeat' (first
      | with_reducible exact Keeps.refl _ _ | with_reducible assumption | intro _ | with_reducible apply trimHeadLoop_keeps
      | with_reducible apply updateBin_keeps | with_reducible apply modColour_keeps | with_reducible apply sendCorr_keeps
      | with_reducible apply storeHistory_keeps | with_reducible apply keeps_foldl | split | dsimp only | decide)

theorem storeSweep_keeps {ch : List DevField} {a : Device} (d : Device) (hc : within [.mbx, .vlog, .dram, .lanes, .fabric, .red] ch =
    true) (hk : Keeps ch a d) : Keeps ch a (storeSweep d) := by
  refine Keeps.step ?_ hc hk
  unfold storeSweep
  repeat' (first
      | with_reducible exact Keeps.refl _ _ | with_reducible assumption | intro _ | with_reducible apply dramWrite_keeps
      | with_reducible apply keeps_ite | dsimp only | decide)

theorem dropBand_keeps {ch : List DevField} {a : Device} (d : Device) (hc : within [.mbx, .vlog, .acct, .loop, .dram, .lanes, .fabric,
    .red] ch = true) (hk : Keeps ch a d) : Keeps ch a (dropBand d) := by
  refine Keeps.step ?_ hc hk
  unfold dropBand
  repeat' (first
      | with_reducible exact Keeps.refl _ _ | with_reducible assumption | intro _ | with_reducible apply solveColour_keeps
      | with_reducible apply countLoop_keeps | with_reducible apply keeps_foldl | split | dsimp only
      | (rw [restSz_fold]; refine keeps_sz (h := ?_) (e := ⟨fun f hf => by cases f <;> first | exact absurd (by decide) hf | dsimp only [DevField.Same, Chip.own]⟩) ..)
      | decide)

theorem closeLoopBand_keeps {ch : List DevField} {a : Device} (band : U32) (d : Device) (hc : within [.mbx, .vlog, .acct, .loop, .dram,
    .lanes, .fabric, .red] ch = true) (hk : Keeps ch a d) : Keeps ch a (closeLoopBand band d) := by
  refine Keeps.step ?_ hc hk
  unfold closeLoopBand
  repeat' (first
      | with_reducible exact Keeps.refl _ _ | with_reducible assumption | intro _ | with_reducible apply dropBand_keeps
      | with_reducible apply storeSweep_keeps | with_reducible apply draw_keeps | with_reducible apply keeps_ite | split
      | with_reducible refine keeps_pair (by with_reducible assumption) ?_ | dsimp only
      | (rw [restSz_fold]; refine keeps_sz (h := ?_) (e := ⟨fun f hf => by cases f <;> first | exact absurd (by decide) hf | dsimp only [DevField.Same, Chip.own]⟩) ..)
      | decide)

theorem fillLoop_keeps {ch : List DevField} {a : Device} (k : Plane) (r : CorrRecord) (d : Device) (hc : within [.banks] ch = true) (hk :
    Keeps ch a d) : Keeps ch a (fillLoop k r d) := by
  refine Keeps.step ?_ hc hk
  unfold fillLoop
  repeat' (first
      | with_reducible exact Keeps.refl _ _ | with_reducible assumption | intro _ | with_reducible apply keeps_foldl | split | dsimp only
      | (rw [restSz_fold]; refine keeps_sz (h := ?_) (e := ⟨fun f hf => by cases f <;> first | exact absurd (by decide) hf | dsimp only [DevField.Same, Chip.own]⟩) ..))

theorem applyColour_keeps {ch : List DevField} {a : Device} (k : Plane) (d : Device) (hc : within [.acct, .banks, .loop] ch = true) (hk :
    Keeps ch a d) : Keeps ch a (applyColour k d) := by
  refine Keeps.step ?_ hc hk
  unfold applyColour
  repeat' (first
      | with_reducible exact Keeps.refl _ _ | with_reducible assumption | intro _ | with_reducible apply countAll_keeps
      | with_reducible apply modOwner_keeps | with_reducible apply fillLoop_keeps | split | dsimp only | decide)

theorem applyCorrections_keeps {ch : List DevField} {a : Device} (d : Device) (hc : within [.acct, .banks, .loop] ch = true) (hk : Keeps
    ch a d) : Keeps ch a (applyCorrections d) := by
  refine Keeps.step ?_ hc hk
  unfold applyCorrections
  repeat' (first
      | with_reducible exact Keeps.refl _ _ | with_reducible assumption | intro _ | with_reducible apply applyColour_keeps
      | with_reducible apply keeps_ite | with_reducible apply keeps_foldl | decide)

theorem swapModel_keeps {ch : List DevField} {a : Device} (d : Device) (hc : within [.loop] ch = true) (hk : Keeps ch a d) : Keeps ch a
    (swapModel d) := by
  refine Keeps.step ?_ hc hk
  unfold swapModel
  repeat' (first
      | with_reducible exact Keeps.refl _ _ | with_reducible assumption | intro _ | split | dsimp only
      | (rw [restSz_fold]; refine keeps_sz (h := ?_) (e := ⟨fun f hf => by cases f <;> first | exact absurd (by decide) hf | dsimp only [DevField.Same, Chip.own]⟩) ..))

/-! Snap.lean -/

theorem sendPiece_keeps {ch : List DevField} {a : Device} (d : Device) (p : StatePiece) (hc : within [.mbx, .vlog, .cz, .lanes, .fabric,
    .red] ch = true) (hk : Keeps ch a d) : Keeps ch a (sendPiece d p) := by
  refine Keeps.step ?_ hc hk
  unfold sendPiece
  repeat' (first
      | with_reducible exact Keeps.refl _ _ | with_reducible assumption | intro _ | with_reducible apply streamSend_keeps | split
      | dsimp only | decide)

theorem takeSnapshot_keeps {ch : List DevField} {a : Device} (full : Bool) (d : Device) (hc : within [.mbx, .vlog, .cz, .lanes, .fabric,
    .red] ch = true) (hk : Keeps ch a d) : Keeps ch a (takeSnapshot full d) := by
  refine Keeps.step ?_ hc hk
  unfold takeSnapshot
  repeat' (first
      | with_reducible exact Keeps.refl _ _ | with_reducible assumption | intro _ | with_reducible apply modEnc_keeps
      | with_reducible apply sendPiece_keeps | with_reducible apply modRed_keeps | with_reducible apply keeps_ite
      | with_reducible apply keeps_foldl | dsimp only | decide)

theorem snapshotAtBoundary_keeps {ch : List DevField} {a : Device} (d : Device) (hc : within [.mbx, .vlog, .cz, .lanes, .fabric, .red] ch
    = true) (hk : Keeps ch a d) : Keeps ch a (snapshotAtBoundary d) := by
  refine Keeps.step ?_ hc hk
  unfold snapshotAtBoundary
  repeat' (first
      | with_reducible exact Keeps.refl _ _ | with_reducible assumption | intro _ | with_reducible apply takeSnapshot_keeps
      | with_reducible apply keeps_ite | split | dsimp only | decide)

theorem mirrorStep_keeps {ch : List DevField} {a : Device} (d : Device) (hc : within [.mbx, .vlog, .dram, .lanes, .fabric, .red] ch =
    true) (hk : Keeps ch a d) : Keeps ch a (mirrorStep d).2 := by
  refine Keeps.step ?_ hc hk
  unfold mirrorStep
  repeat' (first
      | with_reducible exact Keeps.refl _ _ | with_reducible assumption | intro _ | with_reducible apply modRed_keeps
      | with_reducible apply dramSee_keeps | with_reducible apply wagSeq_keeps | with_reducible apply takeSrcSeq_keeps
      | with_reducible apply sendTo_keeps | with_reducible apply keeps_ite_snd | split
      | with_reducible refine keeps_pair (by with_reducible assumption) ?_ | dsimp only | decide)

theorem mirrorRun_keeps {ch : List DevField} {a : Device} (fuel : ℕ) (d : Device) (hc : within [.mbx, .vlog, .dram, .lanes, .fabric, .red]
    ch = true) (hk : Keeps ch a d) : Keeps ch a (mirrorRun fuel d) := by
  refine Keeps.step ?_ hc hk
  clear hk hc a
  induction fuel generalizing d with
  | zero => exact Keeps.refl _ _
  | succ k ih =>
    unfold mirrorRun
    repeat' (first
        | with_reducible exact Keeps.refl _ _ | with_reducible assumption | intro _ | with_reducible refine Keeps.trans ?_ (ih ..)
        | with_reducible apply mirrorStep_keeps | split | with_reducible refine keeps_pair (by with_reducible assumption) ?_ | dsimp only
        | decide)

theorem pumpMirror_keeps {ch : List DevField} {a : Device} (d : Device) (hc : within [.mbx, .vlog, .dram, .lanes, .fabric, .red] ch =
    true) (hk : Keeps ch a d) : Keeps ch a (pumpMirror d) := by
  refine Keeps.step ?_ hc hk
  unfold pumpMirror
  repeat' (first
      | with_reducible exact Keeps.refl _ _ | with_reducible assumption | intro _ | with_reducible apply mirrorRun_keeps
      | with_reducible apply keeps_ite | decide)

theorem refreshPath_keeps {ch : List DevField} {a : Device} (d : Device) (hc : within [.mbx, .vlog, .dram, .lanes, .fabric, .red] ch =
    true) (hk : Keeps ch a d) : Keeps ch a (refreshPath d) := by
  refine Keeps.step ?_ hc hk
  unfold refreshPath
  repeat' (first
      | with_reducible exact Keeps.refl _ _ | with_reducible assumption | intro _ | with_reducible apply modRed_keeps
      | with_reducible apply pumpMirror_keeps | with_reducible apply mirrorPass_keeps | with_reducible apply keeps_ite | split
      | dsimp only | decide)

theorem snapAcked_keeps {ch : List DevField} {a : Device} (n : U32) (d : Device) (hc : within [.red] ch = true) (hk : Keeps ch a d) :
    Keeps ch a (snapAcked n d) := by
  refine Keeps.step ?_ hc hk
  unfold snapAcked
  repeat' (first
      | with_reducible exact Keeps.refl _ _ | with_reducible assumption | intro _ | with_reducible apply modRed_keeps
      | with_reducible apply keeps_ite | decide)

/-! Change.lean -/

theorem sendSchedule_keeps {ch : List DevField} {a : Device} (c : Change) (d : Device) (hc : within [.lanes, .fabric] ch = true) (hk :
    Keeps ch a d) : Keeps ch a (sendSchedule c d) := by
  refine Keeps.step ?_ hc hk
  unfold sendSchedule
  repeat' (first
      | with_reducible exact Keeps.refl _ _ | with_reducible assumption | intro _ | with_reducible apply broadcast_keeps | decide)

theorem holdSchedule_keeps {ch : List DevField} {a : Device} (c : Change) (d : Device) (hc : within [.jobs, .sheet] ch = true) (hk : Keeps
    ch a d) : Keeps ch a (holdSchedule c d) := by
  refine Keeps.step ?_ hc hk
  unfold holdSchedule
  repeat' (first
      | with_reducible exact Keeps.refl _ _ | with_reducible assumption | intro _ | with_reducible apply renumberSheets_keeps | dsimp only
      | (rw [restSz_fold]; refine keeps_sz (h := ?_) (e := ⟨fun f hf => by cases f <;> first | exact absurd (by decide) hf | dsimp only [DevField.Same, Chip.own]⟩) ..)
      | decide)

theorem dropJobLoads_keeps {ch : List DevField} {a : Device} (d : Device) (hc : within [.mbx, .vlog, .banks, .lanes, .fabric] ch = true)
    (hk : Keeps ch a d) : Keeps ch a (dropJobLoads d) := by
  refine Keeps.step ?_ hc hk
  unfold dropJobLoads
  repeat' (first
      | with_reducible exact Keeps.refl _ _ | with_reducible assumption | intro _ | with_reducible apply emptyShadow_keeps
      | with_reducible apply finishWork_keeps | with_reducible apply keeps_ite | with_reducible apply keeps_foldl | split | dsimp only
      | (rw [restSz_fold]; refine keeps_sz (h := ?_) (e := ⟨fun f hf => by cases f <;> first | exact absurd (by decide) hf | dsimp only [DevField.Same, Chip.own]⟩) ..)
      | decide)

theorem postpone_keeps {ch : List DevField} {a : Device} (c : Change) (names : List U8) (d : Device) (hc : within [.mbx, .vlog, .jobs,
    .sheet, .lanes, .fabric] ch = true) (hk : Keeps ch a d) : Keeps ch a (postpone c names d) := by
  refine Keeps.step ?_ hc hk
  unfold postpone
  repeat' (first
      | with_reducible exact Keeps.refl _ _ | with_reducible assumption | intro _ | with_reducible apply raise_keeps
      | with_reducible apply broadcast_keeps | with_reducible apply unschedule_keeps | with_reducible apply sendSchedule_keeps
      | with_reducible apply renumberSheets_keeps | with_reducible apply keeps_ite | dsimp only
      | (rw [restSz_fold]; refine keeps_sz (h := ?_) (e := ⟨fun f hf => by cases f <;> first | exact absurd (by decide) hf | dsimp only [DevField.Same, Chip.own]⟩) ..)
      | decide)

/-! Feed.lean -/

theorem putTile_keeps {ch : List DevField} {a : Device} (t : TileData) (bytes : ℕ) (r : Fkz) (d : Device) (hc : within [.mbx, .vlog,
    .acct, .feed, .cz, .lanes, .fabric] ch = true) (hk : Keeps ch a d) : Keeps ch a (putTile t bytes r d) := by
  refine Keeps.step ?_ hc hk
  unfold putTile
  repeat' (first
      | with_reducible exact Keeps.refl _ _ | with_reducible assumption | intro _ | with_reducible apply countDec_keeps
      | with_reducible apply raise_keeps | with_reducible apply countAll_keeps | with_reducible apply keeps_ite | split | dsimp only
      | (rw [restSz_fold]; refine keeps_sz (h := ?_) (e := ⟨fun f hf => by cases f <;> first | exact absurd (by decide) hf | dsimp only [DevField.Same, Chip.own]⟩) ..)
      | decide)

theorem seeTile_keeps {ch : List DevField} {a₀ : Device} (a : Option ℕ) (d : Device) (hc : within [.vlog, .dram] ch = true) (hk : Keeps ch
    a₀ d) : Keeps ch a₀ (seeTile a d) := by
  refine Keeps.step ?_ hc hk
  unfold seeTile
  repeat' (first
      | with_reducible exact Keeps.refl _ _ | with_reducible assumption | intro _ | with_reducible apply dramSee_keeps | split
      | dsimp only | decide)

theorem runTiles_keeps {ch : List DevField} {a : Device} (fuel : ℕ) (d : Device) (hc : within [.mbx, .vlog, .acct, .feed, .cz, .dram,
    .lanes, .fabric] ch = true) (hk : Keeps ch a d) : Keeps ch a (runTiles fuel d) := by
  refine Keeps.step ?_ hc hk
  clear hk hc a
  induction fuel generalizing d with
  | zero => exact Keeps.refl _ _
  | succ k ih =>
    unfold runTiles
    repeat' (first
        | with_reducible exact Keeps.refl _ _ | with_reducible assumption | intro _ | with_reducible refine Keeps.trans ?_ (ih ..)
        | with_reducible apply putTile_keeps | with_reducible apply seeTile_keeps | with_reducible apply keeps_ite | split | dsimp only
        | (rw [restSz_fold]; refine keeps_sz (h := ?_) (e := ⟨fun f hf => by cases f <;> first | exact absurd (by decide) hf | dsimp only [DevField.Same, Chip.own]⟩) ..)
        | decide)

theorem noteReleased_keeps {ch : List DevField} {a : Device} (d : Device) (hc : within [.jobs] ch = true) (hk : Keeps ch a d) : Keeps ch a
    (noteReleased d) := by
  refine Keeps.step ?_ hc hk
  unfold noteReleased
  repeat' (first
      | with_reducible exact Keeps.refl _ _ | with_reducible assumption | intro _ | split | dsimp only
      | (rw [restSz_fold]; refine keeps_sz (h := ?_) (e := ⟨fun f hf => by cases f <;> first | exact absurd (by decide) hf | dsimp only [DevField.Same, Chip.own]⟩) ..))

theorem loadRepeatSet_keeps {ch : List DevField} {a : Device} (j : JobDesc) (n : ℕ) (d : Device) (hc : within [.vlog, .banks, .dram] ch =
    true) (hk : Keeps ch a d) : Keeps ch a (loadRepeatSet j n d) := by
  refine Keeps.step ?_ hc hk
  unfold loadRepeatSet
  repeat' (first
      | with_reducible exact Keeps.refl _ _ | with_reducible assumption | intro _ | with_reducible apply queueLoads_keeps
      | with_reducible apply dramSee_keeps | with_reducible apply keeps_ite | dsimp only
      | (rw [restSz_fold]; refine keeps_sz (h := ?_) (e := ⟨fun f hf => by cases f <;> first | exact absurd (by decide) hf | dsimp only [DevField.Same, Chip.own]⟩) ..)
      | decide)

theorem nextSet_keeps {ch : List DevField} {a : Device} (x : Job) (n : ℕ) (d : Device) (hc : within [.vlog, .banks, .dram] ch = true) (hk
    : Keeps ch a d) : Keeps ch a (nextSet x n d) := by
  refine Keeps.step ?_ hc hk
  unfold nextSet
  repeat' (first
      | with_reducible exact Keeps.refl _ _ | with_reducible assumption | intro _ | with_reducible apply loadRepeatSet_keeps
      | with_reducible apply keeps_ite | split | dsimp only | decide)

theorem fallDue_keeps {ch : List DevField} {a : Device} (j : JobDesc) (n : ℕ) (d : Device) (hc : within [.mbx, .vlog, .acct, .jobs, .feed,
    .banks, .cz, .dram, .lanes, .fabric] ch = true) (hk : Keeps ch a d) : Keeps ch a (fallDue j n d) := by
  refine Keeps.step ?_ hc hk
  unfold fallDue
  repeat' (first
      | with_reducible exact Keeps.refl _ _ | with_reducible assumption | intro _ | with_reducible apply dramSee_keeps
      | with_reducible apply runTiles_keeps | with_reducible apply noteReleased_keeps | with_reducible apply loadRepeatSet_keeps
      | with_reducible apply raise_keeps | with_reducible apply keeps_ite | dsimp only
      | (rw [restSz_fold]; refine keeps_sz (h := ?_) (e := ⟨fun f hf => by cases f <;> first | exact absurd (by decide) hf | dsimp only [DevField.Same, Chip.own]⟩) ..)
      | decide)

theorem seeBlock_keeps {ch : List DevField} {a : Device} (j : JobDesc) (n k i : ℕ) (d : Device) (hc : within [.vlog, .dram] ch = true) (hk
    : Keeps ch a d) : Keeps ch a (seeBlock j n k i d) := by
  refine Keeps.step ?_ hc hk
  unfold seeBlock
  repeat' (first
      | with_reducible exact Keeps.refl _ _ | with_reducible assumption | intro _ | with_reducible apply dramSee_keeps | dsimp only
      | decide)

theorem endBlock_keeps {ch : List DevField} {a : Device} (plane : Plane) (b : RingBlock) (bytes : ℕ) (out : Fkz) (d : Device) (hc : within
    [.mbx, .vlog, .jobs, .feed, .cz, .lanes, .fabric] ch = true) (hk : Keeps ch a d) : Keeps ch a (endBlock plane b bytes out d) := by
  refine Keeps.step ?_ hc hk
  unfold endBlock
  repeat' (first
      | with_reducible exact Keeps.refl _ _ | with_reducible assumption | intro _ | with_reducible apply countDec_keeps
      | with_reducible apply noteReleased_keeps | with_reducible apply modRing_keeps | with_reducible apply raise_keeps
      | with_reducible apply keeps_ite | split | dsimp only | decide)

theorem resumeTiles_keeps {ch : List DevField} {a : Device} (d : Device) (hc : within [.mbx, .vlog, .acct, .jobs, .feed, .cz, .dram,
    .lanes, .fabric] ch = true) (hk : Keeps ch a d) : Keeps ch a (resumeTiles d) := by
  refine Keeps.step ?_ hc hk
  unfold resumeTiles
  repeat' (first
      | with_reducible exact Keeps.refl _ _ | with_reducible assumption | intro _ | with_reducible apply noteReleased_keeps
      | with_reducible apply runTiles_keeps | dsimp only
      | (rw [restSz_fold]; refine keeps_sz (h := ?_) (e := ⟨fun f hf => by cases f <;> first | exact absurd (by decide) hf | dsimp only [DevField.Same, Chip.own]⟩) ..)
      | decide)

/-! Boundary.lean -/

theorem swapTiming_keeps {ch : List DevField} {a : Device} (d : Device) (hc : within [.mbx, .vlog, .banks, .loop, .cz, .lanes, .fabric,
    .red] ch = true) (hk : Keeps ch a d) : Keeps ch a (swapTiming d) := by
  refine Keeps.step ?_ hc hk
  unfold swapTiming
  repeat' (first
      | with_reducible exact Keeps.refl _ _ | with_reducible assumption | intro _ | with_reducible apply sendSpans_keeps
      | with_reducible apply takeTiming_keeps | with_reducible apply keeps_ite | decide)

theorem clearModes_keeps {ch : List DevField} {a : Device} (was d : Device) (hc : within [.engines] ch = true) (hk : Keeps ch a d) : Keeps
    ch a (clearModes was d) := by
  refine Keeps.step ?_ hc hk
  unfold clearModes
  repeat' (first
      | with_reducible exact Keeps.refl _ _ | with_reducible assumption | intro _
      | (rw [restSz_fold]; refine keeps_sz (h := ?_) (e := ⟨fun f hf => by cases f <;> first | exact absurd (by decide) hf | dsimp only [DevField.Same, Chip.own]⟩) ..))

theorem giveSeg_keeps {ch : List DevField} {a : Device} (j : JobDesc) (n start base : ℕ) (late : Bool) (notice : Option ℕ) (d : Device) (h
    : Head) (hc : within [.fire, .red] ch = true) (hk : Keeps ch a d) : Keeps ch a (giveSeg j n start base late notice d h) := by
  refine Keeps.step ?_ hc hk
  unfold giveSeg
  repeat' (first
      | with_reducible exact Keeps.refl _ _ | with_reducible assumption | intro _ | with_reducible apply modRed_keeps
      | with_reducible apply modCursor_keeps | with_reducible apply keeps_ite | split | dsimp only | decide)

theorem prunePast_keeps {ch : List DevField} {a : Device} (d : Device) (hc : within [.feed, .fire] ch = true) (hk : Keeps ch a d) : Keeps
    ch a (prunePast d) := by
  refine Keeps.step ?_ hc hk
  unfold prunePast
  repeat' (first
      | with_reducible exact Keeps.refl _ _ | with_reducible assumption | intro _ | split | dsimp only
      | (rw [restSz_fold]; refine keeps_sz (h := ?_) (e := ⟨fun f hf => by cases f <;> first | exact absurd (by decide) hf | dsimp only [DevField.Same, Chip.own]⟩) ..))

theorem captureAt_keeps {ch : List DevField} {a : Device} (d : Device) (hc : within [.mbx, .vlog, .cz, .dram, .lanes, .fabric, .red, .nv]
    ch = true) (hk : Keeps ch a d) : Keeps ch a (captureAt d) := by
  refine Keeps.step ?_ hc hk
  unfold captureAt
  repeat' (first
      | with_reducible exact Keeps.refl _ _ | with_reducible assumption | intro _ | with_reducible apply captureCheckpoint_keeps
      | with_reducible apply pumpMirror_keeps | with_reducible apply snapshotAtBoundary_keeps | with_reducible apply keeps_ite
      | dsimp only | decide)

theorem seedEngines_keeps {ch : List DevField} {a : Device} (d : Device) (hc : within [.engines] ch = true) (hk : Keeps ch a d) : Keeps ch
    a (seedEngines d) := by
  refine Keeps.step ?_ hc hk
  unfold seedEngines
  repeat' (first
      | with_reducible exact Keeps.refl _ _ | with_reducible assumption | intro _
      | (rw [restSz_fold]; refine keeps_sz (h := ?_) (e := ⟨fun f hf => by cases f <;> first | exact absurd (by decide) hf | dsimp only [DevField.Same, Chip.own]⟩) ..))

theorem resetLoop_keeps {ch : List DevField} {a : Device} (d : Device) (hc : within [.banks, .loop] ch = true) (hk : Keeps ch a d) : Keeps
    ch a (resetLoop d) := by
  refine Keeps.step ?_ hc hk
  unfold resetLoop
  repeat' (first
      | with_reducible exact Keeps.refl _ _ | with_reducible assumption | intro _ | dsimp only
      | (rw [restSz_fold]; refine keeps_sz (h := ?_) (e := ⟨fun f hf => by cases f <;> first | exact absurd (by decide) hf | dsimp only [DevField.Same, Chip.own]⟩) ..))

theorem cutOutgoing_keeps {ch : List DevField} {a : Device} (start : ℕ) (d : Device) (hc : within [.engines, .fire] ch = true) (hk : Keeps
    ch a d) : Keeps ch a (cutOutgoing start d) := by
  refine Keeps.step ?_ hc hk
  unfold cutOutgoing
  repeat' (first
      | with_reducible exact Keeps.refl _ _ | with_reducible assumption | intro _ | dsimp only
      | (rw [restSz_fold]; refine keeps_sz (h := ?_) (e := ⟨fun f hf => by cases f <;> first | exact absurd (by decide) hf | dsimp only [DevField.Same, Chip.own]⟩) ..))

theorem noteSupply_keeps {ch : List DevField} {a : Device} (outEnd : ℕ) (d : Device) (hc : within [.feed] ch = true) (hk : Keeps ch a d) :
    Keeps ch a (noteSupply outEnd d) := by
  refine Keeps.step ?_ hc hk
  unfold noteSupply
  repeat' (first
      | with_reducible exact Keeps.refl _ _ | with_reducible assumption | intro _ | with_reducible apply keeps_ite | split | dsimp only
      | (rw [restSz_fold]; refine keeps_sz (h := ?_) (e := ⟨fun f hf => by cases f <;> first | exact absurd (by decide) hf | dsimp only [DevField.Same, Chip.own]⟩) ..))

theorem liftLost_keeps {ch : List DevField} {a : Device} (d : Device) (hc : within [.jobs, .links, .lanes] ch = true) (hk : Keeps ch a d)
    : Keeps ch a (liftLost d) := by
  refine Keeps.step ?_ hc hk
  unfold liftLost
  repeat' (first
      | with_reducible exact Keeps.refl _ _ | with_reducible assumption | intro _ | with_reducible apply sendInhibit_keeps
      | with_reducible apply keeps_ite | with_reducible apply keeps_foldl | dsimp only
      | (rw [restSz_fold]; refine keeps_sz (h := ?_) (e := ⟨fun f hf => by cases f <;> first | exact absurd (by decide) hf | dsimp only [DevField.Same, Chip.own]⟩) ..)
      | decide)

theorem swapHost_keeps {ch : List DevField} {a : Device} (d : Device) (hc : within [.banks, .links, .drive, .lanes, .red] ch = true) (hk :
    Keeps ch a d) : Keeps ch a (swapHost d).2 := by
  refine Keeps.step ?_ hc hk
  unfold swapHost
  repeat' (first
      | with_reducible exact Keeps.refl _ _ | with_reducible assumption | intro _ | with_reducible apply swapTable_keeps
      | with_reducible apply keeps_ite | with_reducible apply keeps_foldl | dsimp only | decide)

theorem swapSet_keeps {ch : List DevField} {a : Device} (d : Device) (s : JobKey × ℕ × List LoadReq) (hc : within [.banks, .links, .drive,
    .lanes, .red] ch = true) (hk : Keeps ch a d) : Keeps ch a (swapSet d s) := by
  refine Keeps.step ?_ hc hk
  unfold swapSet
  repeat' (first
      | with_reducible exact Keeps.refl _ _ | with_reducible assumption | intro _ | with_reducible apply swapTable_keeps
      | with_reducible apply keeps_ite | with_reducible apply keeps_foldl | dsimp only
      | (rw [restSz_fold]; refine keeps_sz (h := ?_) (e := ⟨fun f hf => by cases f <;> first | exact absurd (by decide) hf | dsimp only [DevField.Same, Chip.own]⟩) ..)
      | decide)

theorem swapRepeat_keeps {ch : List DevField} {a : Device} (j : JobDesc) (n : ℕ) (d : Device) (hc : within [.mbx, .vlog, .banks, .links,
    .drive, .dram, .lanes, .fabric, .red] ch = true) (hk : Keeps ch a d) : Keeps ch a (swapRepeat j n d).2 := by
  refine Keeps.step ?_ hc hk
  unfold swapRepeat
  repeat' (first
      | with_reducible exact Keeps.refl _ _ | with_reducible assumption | intro _ | with_reducible apply loadRepeatSet_keeps
      | with_reducible apply swapSet_keeps | with_reducible apply raise_keeps | with_reducible apply askAgain_keeps
      | with_reducible apply keeps_ite | with_reducible apply keeps_ite_snd | with_reducible apply keeps_foldl | dsimp only | decide)

theorem installJob_keeps {ch : List DevField} {a : Device} (x : Job) (n start base : ℕ) (d : Device) (hc : within [.jobs, .feed, .sheet,
    .links, .red] ch = true) (hk : Keeps ch a d) : Keeps ch a (installJob x n start base d) := by
  refine Keeps.step ?_ hc hk
  unfold installJob
  repeat' (first
      | with_reducible exact Keeps.refl _ _ | with_reducible assumption | intro _ | dsimp only
      | (rw [restSz_fold]; refine keeps_sz (h := ?_) (e := ⟨fun f hf => by cases f <;> first | exact absurd (by decide) hf | dsimp only [DevField.Same, Chip.own]⟩) ..))

theorem doChange_keeps {ch : List DevField} {a : Device} (x : Job) (n start base : ℕ) (d : Device) (hc : within [.mbx, .vlog, .acct,
    .jobs, .feed, .banks, .engines, .sheet, .fire, .links, .drive, .loop, .cz, .dram, .lanes, .fabric, .red, .nv] ch = true) (hk : Keeps
    ch a d) : Keeps ch a (doChange x n start base d) := by
  refine Keeps.step ?_ hc hk
  unfold doChange
  repeat' (first
      | with_reducible exact Keeps.refl _ _ | with_reducible assumption | intro _ | with_reducible apply dropSets_keeps
      | with_reducible apply noteSupply_keeps | with_reducible apply swapTable_keeps | with_reducible apply swapHost_keeps
      | with_reducible apply swapModel_keeps | with_reducible apply latchPeriod_keeps | with_reducible apply failCaptures_keeps
      | with_reducible apply resetLoop_keeps | with_reducible apply installJob_keeps | with_reducible apply cutOutgoing_keeps
      | with_reducible apply takeTiming_keeps | with_reducible apply clearModes_keeps | with_reducible apply trimAll_keeps
      | with_reducible apply applyCorrections_keeps | with_reducible apply sendSpans_keeps | with_reducible apply seedEngines_keeps
      | with_reducible apply lateMaps_keeps | with_reducible apply liftLost_keeps | with_reducible apply raise_keeps
      | with_reducible apply swapRepeat_keeps | with_reducible apply startRuns_keeps | with_reducible apply giveSeg_keeps
      | with_reducible apply captureAt_keeps | with_reducible apply prunePast_keeps | with_reducible apply noteReleased_keeps
      | with_reducible apply nextSet_keeps | with_reducible apply keeps_ite | with_reducible apply keeps_foldl | split
      | with_reducible refine keeps_pair (by with_reducible assumption) ?_ | dsimp only
      | (rw [restSz_fold]; refine keeps_sz (h := ?_) (e := ⟨fun f hf => by cases f <;> first | exact absurd (by decide) hf | dsimp only [DevField.Same, Chip.own]⟩) ..)
      | decide)

theorem loseChange_keeps {ch : List DevField} {a : Device} (d : Device) (hc : within [.mbx, .vlog, .jobs, .links, .lanes, .fabric] ch =
    true) (hk : Keeps ch a d) : Keeps ch a (loseChange d) := by
  refine Keeps.step ?_ hc hk
  unfold loseChange
  repeat' (first
      | with_reducible exact Keeps.refl _ _ | with_reducible assumption | intro _ | with_reducible apply sendInhibit_keeps
      | with_reducible apply raise_keeps | with_reducible apply keeps_ite | with_reducible apply keeps_foldl | dsimp only
      | (rw [restSz_fold]; refine keeps_sz (h := ?_) (e := ⟨fun f hf => by cases f <;> first | exact absurd (by decide) hf | dsimp only [DevField.Same, Chip.own]⟩) ..)
      | decide)

theorem drillAtEnd_keeps {ch : List DevField} {a : Device} (d : Device) (hc : within [.mbx, .vlog, .cz, .lanes, .fabric, .red] ch = true)
    (hk : Keeps ch a d) : Keeps ch a (drillAtEnd d) := by
  refine Keeps.step ?_ hc hk
  unfold drillAtEnd
  repeat' (first
      | with_reducible exact Keeps.refl _ _ | with_reducible assumption | intro _ | with_reducible apply takeSnapshot_keeps
      | with_reducible apply sendHandover_keeps | with_reducible apply modRed_keeps | with_reducible apply keeps_ite | dsimp only | decide)

theorem endAtBoundary_keeps {ch : List DevField} {a : Device} (x : Job) (start : ℕ) (d : Device) (hc : within [.mbx, .vlog, .jobs, .feed,
    .banks, .engines, .fire, .cz, .lanes, .fabric, .red] ch = true) (hk : Keeps ch a d) : Keeps ch a (endAtBoundary x start d) := by
  refine Keeps.step ?_ hc hk
  unfold endAtBoundary
  repeat' (first
      | with_reducible exact Keeps.refl _ _ | with_reducible assumption | intro _ | with_reducible apply failCaptures_keeps
      | with_reducible apply dropSets_keeps | with_reducible apply cutOutgoing_keeps | with_reducible apply noteSupply_keeps
      | with_reducible apply drillAtEnd_keeps | dsimp only
      | (rw [restSz_fold]; refine keeps_sz (h := ?_) (e := ⟨fun f hf => by cases f <;> first | exact absurd (by decide) hf | dsimp only [DevField.Same, Chip.own]⟩) ..)
      | decide)

theorem beginRepeat_keeps {ch : List DevField} {a : Device} (x : Job) (n start : ℕ) (notice : Option ℕ) (d : Device) (hc : within [.mbx,
    .vlog, .acct, .jobs, .banks, .engines, .sheet, .fire, .links, .drive, .loop, .cz, .dram, .lanes, .fabric, .red] ch = true) (hk : Keeps
    ch a d) : Keeps ch a (beginRepeat x n start notice d) := by
  refine Keeps.step ?_ hc hk
  unfold beginRepeat
  repeat' (first
      | with_reducible exact Keeps.refl _ _ | with_reducible assumption | intro _ | with_reducible apply swapHost_keeps
      | with_reducible apply swapRepeat_keeps | with_reducible apply raise_keeps | with_reducible apply clearModes_keeps
      | with_reducible apply swapTiming_keeps | with_reducible apply trimAll_keeps | with_reducible apply applyCorrections_keeps
      | with_reducible apply lateMaps_keeps | with_reducible apply startRuns_keeps | with_reducible apply giveSeg_keeps
      | with_reducible apply nextSet_keeps | with_reducible apply keeps_ite | with_reducible apply keeps_foldl | split
      | with_reducible refine keeps_pair (by with_reducible assumption) ?_ | dsimp only
      | (rw [restSz_fold]; refine keeps_sz (h := ?_) (e := ⟨fun f hf => by cases f <;> first | exact absurd (by decide) hf | dsimp only [DevField.Same, Chip.own]⟩) ..)
      | decide)

theorem idleBoundary_keeps {ch : List DevField} {a : Device} (start : ℕ) (notice : Option ℕ) (d : Device) (hc : within [.mbx, .vlog,
    .acct, .jobs, .banks, .engines, .sheet, .links, .drive, .loop, .cz, .lanes, .fabric, .red] ch = true) (hk : Keeps ch a d) : Keeps ch a
    (idleBoundary start notice d) := by
  refine Keeps.step ?_ hc hk
  unfold idleBoundary
  repeat' (first
      | with_reducible exact Keeps.refl _ _ | with_reducible assumption | intro _ | with_reducible apply swapHost_keeps
      | with_reducible apply clearModes_keeps | with_reducible apply swapTiming_keeps | with_reducible apply trimAll_keeps
      | with_reducible apply applyCorrections_keeps | with_reducible apply lateMaps_keeps
      | with_reducible refine keeps_pair (by with_reducible assumption) ?_ | dsimp only
      | (rw [restSz_fold]; refine keeps_sz (h := ?_) (e := ⟨fun f hf => by cases f <;> first | exact absurd (by decide) hf | dsimp only [DevField.Same, Chip.own]⟩) ..)
      | decide)

theorem passBoundary_keeps {ch : List DevField} {a : Device} (x : Job) (start n : ℕ) (notice : Option ℕ) (d : Device) (hc : within [.mbx,
    .vlog, .acct, .jobs, .feed, .banks, .engines, .sheet, .fire, .links, .drive, .loop, .cz, .dram, .lanes, .fabric, .red, .nv] ch = true)
    (hk : Keeps ch a d) : Keeps ch a (passBoundary x start n notice d) := by
  refine Keeps.step ?_ hc hk
  unfold passBoundary
  repeat' (first
      | with_reducible exact Keeps.refl _ _ | with_reducible assumption | intro _ | with_reducible apply latchPeriod_keeps
      | with_reducible apply idleBoundary_keeps | with_reducible apply endAtBoundary_keeps | with_reducible apply beginRepeat_keeps
      | with_reducible apply captureAt_keeps | with_reducible apply prunePast_keeps | with_reducible apply keeps_ite | split | dsimp only
      | decide)

theorem resumeOutgoing_keeps {ch : List DevField} {a : Device} (start : ℕ) (d : Device) (hc : within [.jobs, .sheet, .links, .lanes] ch =
    true) (hk : Keeps ch a d) : Keeps ch a (resumeOutgoing start d) := by
  refine Keeps.step ?_ hc hk
  unfold resumeOutgoing
  repeat' (first
      | with_reducible exact Keeps.refl _ _ | with_reducible assumption | intro _ | with_reducible apply liftLost_keeps
      | with_reducible apply holdSchedule_keeps | with_reducible apply keeps_ite | split | dsimp only
      | (rw [restSz_fold]; refine keeps_sz (h := ?_) (e := ⟨fun f hf => by cases f <;> first | exact absurd (by decide) hf | dsimp only [DevField.Same, Chip.own]⟩) ..)
      | decide)

theorem noteBandClose_keeps {ch : List DevField} {a : Device} (band : U32) (w : U64) (d : Device) (hc : within [.acct] ch = true) (hk :
    Keeps ch a d) : Keeps ch a (noteBandClose band w d) := by
  refine Keeps.step ?_ hc hk
  unfold noteBandClose
  repeat' (first
      | with_reducible exact Keeps.refl _ _ | with_reducible assumption | intro _ | dsimp only
      | (rw [restSz_fold]; refine keeps_sz (h := ?_) (e := ⟨fun f hf => by cases f <;> first | exact absurd (by decide) hf | dsimp only [DevField.Same, Chip.own]⟩) ..))

theorem noMeasuring_keeps {ch : List DevField} {a : Device} (d : Device) (hc : within [] ch = true) (hk : Keeps ch a d) : Keeps ch a
    (noMeasuring d).2 := by
  refine Keeps.step ?_ hc hk
  unfold noMeasuring
  repeat' (first
      | with_reducible exact Keeps.refl _ _ | with_reducible assumption | intro _ | with_reducible apply draw_keeps
      | with_reducible apply keeps_ite_snd | split | with_reducible refine keeps_pair (by with_reducible assumption) ?_ | dsimp only
      | decide)

theorem sendAudits_keeps {ch : List DevField} {a : Device} (d : Device) (hc : within [.lanes, .fabric] ch = true) (hk : Keeps ch a d) :
    Keeps ch a (sendAudits d) := by
  refine Keeps.step ?_ hc hk
  unfold sendAudits
  repeat' (first
      | with_reducible exact Keeps.refl _ _ | with_reducible assumption | intro _ | with_reducible apply giveLink_keeps
      | with_reducible apply modPort_keeps | with_reducible apply keeps_ite | with_reducible apply keeps_foldl | decide)

end Sys2Proof.Machine
end

