-- ==== Sys2Proof/Laws/FrameUnits.lean ====
section
/-! SUPPORT. One lemma per operation over a device: the fields that the operations of the cameras, power, promotion, head links and the pair may change. -/
namespace Sys2Proof.Machine

/-! Pipeline.lean -/

theorem pairIntoLoop_keeps {ch : List DevField} {a : Device} (p : Port) (b : CamBand) (j : ℕ) (x y : CamLine) (d : Device) (hc : within
    [.acct, .loop] ch = true) (hk : Keeps ch a d) : Keeps ch a (pairIntoLoop p b j x y d) := by
  refine Keeps.step ?_ hc hk
  unfold pairIntoLoop
  repeat' (first
      | with_reducible exact Keeps.refl _ _ | with_reducible assumption | intro _ | with_reducible apply accumulateCell_keeps
      | with_reducible apply keeps_ite | with_reducible apply keeps_foldl | dsimp only | decide)

theorem takeLine_keeps {ch : List DevField} {a : Device} (p : Port) (d : Device) (hc : within [.acct, .cams, .loop] ch = true) (hk : Keeps
    ch a d) : Keeps ch a (takeLine p d) := by
  refine Keeps.step ?_ hc hk
  unfold takeLine
  repeat' (first
      | with_reducible exact Keeps.refl _ _ | with_reducible assumption | intro _ | with_reducible apply modCam_keeps
      | with_reducible apply pairIntoLoop_keeps | with_reducible apply dropPassed_keeps | with_reducible apply keeps_ite | split
      | dsimp only | decide)

theorem takeTurn_keeps {ch : List DevField} {a : Device} (p : Port) (d : Device) (hc : within [.acct, .cams, .loop] ch = true) (hk : Keeps
    ch a d) : Keeps ch a (takeTurn p d) := by
  refine Keeps.step ?_ hc hk
  unfold takeTurn
  repeat' (first
      | with_reducible exact Keeps.refl _ _ | with_reducible assumption | intro _ | with_reducible apply takeLine_keeps | dsimp only
      | (rw [restSz_fold]; refine keeps_sz (h := ?_) (e := ⟨fun f hf => by cases f <;> first | exact absurd (by decide) hf | dsimp only [DevField.Same, Chip.own]⟩) ..)
      | decide)

theorem ringWrite_keeps {ch : List DevField} {a : Device} (t : Machine.Stream) (bs : List U8) (d : Device) (hc : within [.mbx, .vlog,
    .dram, .lanes, .fabric, .red] ch = true) (hk : Keeps ch a d) : Keeps ch a (ringWrite t bs d) := by
  refine Keeps.step ?_ hc hk
  unfold ringWrite
  repeat' (first
      | with_reducible exact Keeps.refl _ _ | with_reducible assumption | intro _ | with_reducible apply dramWrite_keeps | dsimp only
      | decide)

theorem streamBand_keeps {ch : List DevField} {a : Device} (p : Port) (c : Cam) (b : CamBand) (k : ℕ) (n : Fin 4) (d : Device) (hc :
    within [.mbx, .vlog, .cams, .dram, .lanes, .fabric, .red] ch = true) (hk : Keeps ch a d) : Keeps ch a (streamBand p c b k n d).2 := by
  refine Keeps.step ?_ hc hk
  unfold streamBand
  repeat' (first
      | with_reducible exact Keeps.refl _ _ | with_reducible assumption | intro _ | with_reducible apply ringWrite_keeps
      | with_reducible apply keeps_ite_snd | dsimp only
      | (rw [restSz_fold]; refine keeps_sz (h := ?_) (e := ⟨fun f hf => by cases f <;> first | exact absurd (by decide) hf | dsimp only [DevField.Same, Chip.own]⟩) ..)
      | decide)

theorem cciAppend_keeps {ch : List DevField} {a : Device} (p : Port) (ops : List CciOp) (d : Device) (hc : within [.cams] ch = true) (hk :
    Keeps ch a d) : Keeps ch a (cciAppend p ops d) := by
  refine Keeps.step ?_ hc hk
  unfold cciAppend
  repeat' (first
      | with_reducible exact Keeps.refl _ _ | with_reducible assumption | intro _ | dsimp only
      | (rw [restSz_fold]; refine keeps_sz (h := ?_) (e := ⟨fun f hf => by cases f <;> first | exact absurd (by decide) hf | dsimp only [DevField.Same, Chip.own]⟩) ..))

theorem cciSetWrites_keeps {ch : List DevField} {a : Device} (p : Port) (ops : List CciOp) (d : Device) (hc : within [.cams] ch = true)
    (hk : Keeps ch a d) : Keeps ch a (cciSetWrites p ops d) := by
  refine Keeps.step ?_ hc hk
  unfold cciSetWrites
  repeat' (first
      | with_reducible exact Keeps.refl _ _ | with_reducible assumption | intro _ | split | dsimp only
      | (rw [restSz_fold]; refine keeps_sz (h := ?_) (e := ⟨fun f hf => by cases f <;> first | exact absurd (by decide) hf | dsimp only [DevField.Same, Chip.own]⟩) ..))

theorem focusWrite_keeps {ch : List DevField} {a : Device} (p : Port) (up : Bool) (d : Device) (hc : within [.cams] ch = true) (hk : Keeps
    ch a d) : Keeps ch a (focusWrite p up d) := by
  refine Keeps.step ?_ hc hk
  unfold focusWrite
  repeat' (first
      | with_reducible exact Keeps.refl _ _ | with_reducible assumption | intro _ | with_reducible apply cciAppend_keeps
      | with_reducible apply keeps_ite | dsimp only | decide)

theorem focusStep_keeps {ch : List DevField} {a : Device} (p : Port) (b : CamBand) (x : BandStats) (d : Device) (hc : within [.cams] ch =
    true) (hk : Keeps ch a d) : Keeps ch a (focusStep p b x d) := by
  refine Keeps.step ?_ hc hk
  unfold focusStep
  repeat' (first
      | with_reducible exact Keeps.refl _ _ | with_reducible assumption | intro _ | with_reducible apply focusWrite_keeps
      | with_reducible apply modCam_keeps | with_reducible apply keeps_ite | split | dsimp only | decide)

theorem whiteStep_keeps {ch : List DevField} {a : Device} (p : Port) (b : CamBand) (x : BandStats) (k : ℕ) (d : Device) (hc : within
    [.mbx, .vlog, .cams, .lanes, .fabric] ch = true) (hk : Keeps ch a d) : Keeps ch a (whiteStep p b x k d) := by
  refine Keeps.step ?_ hc hk
  unfold whiteStep
  repeat' (first
      | with_reducible exact Keeps.refl _ _ | with_reducible assumption | intro _ | with_reducible apply modCam_keeps
      | with_reducible apply raise_keeps | with_reducible apply finishWork_keeps | with_reducible apply keeps_ite
      | with_reducible apply keeps_foldl | split | dsimp only | decide)

theorem darkResult_keeps {ch : List DevField} {a₀ : Device} (p : Port) (t : DarkCal) (a b : List ℕ × ℕ × ℕ × ℕ) (k : ℕ) (d : Device) (hc :
    within [.mbx, .vlog, .cams, .lanes, .fabric] ch = true) (hk : Keeps ch a₀ d) : Keeps ch a₀ (darkResult p t a b k d) := by
  refine Keeps.step ?_ hc hk
  unfold darkResult
  repeat' (first
      | with_reducible exact Keeps.refl _ _ | with_reducible assumption | intro _ | with_reducible apply modCam_keeps
      | with_reducible apply finishWork_keeps | split | dsimp only | decide)

theorem darkStep_keeps {ch : List DevField} {a : Device} (p : Port) (b : CamBand) (x : BandStats) (k : ℕ) (d : Device) (hc : within [.mbx,
    .vlog, .cams, .lanes, .fabric] ch = true) (hk : Keeps ch a d) : Keeps ch a (darkStep p b x k d) := by
  refine Keeps.step ?_ hc hk
  unfold darkStep
  repeat' (first
      | with_reducible exact Keeps.refl _ _ | with_reducible assumption | intro _ | with_reducible apply modCam_keeps
      | with_reducible apply finishWork_keeps | with_reducible apply darkResult_keeps | with_reducible apply keeps_ite | split | dsimp only
      | decide)

theorem bandNotice_keeps {ch : List DevField} {a : Device} (p : Port) (c : Cam) (b : CamBand) (d : Device) (hc : within [.mbx, .vlog,
    .acct, .loop, .dram, .lanes, .fabric, .red] ch = true) (hk : Keeps ch a d) : Keeps ch a (bandNotice p c b d) := by
  refine Keeps.step ?_ hc hk
  unfold bandNotice
  repeat' (first
      | with_reducible exact Keeps.refl _ _ | with_reducible assumption | intro _ | with_reducible apply noteBandClose_keeps
      | with_reducible apply broadcast_keeps | with_reducible apply closeLoopBand_keeps | with_reducible apply keeps_ite | split
      | dsimp only | decide)

theorem latchStats_keeps {ch : List DevField} {a : Device} (p : Port) (r : CamStats) (d : Device) (hc : within [.mbx, .vlog, .cams,
    .lanes, .fabric] ch = true) (hk : Keeps ch a d) : Keeps ch a (latchStats p r d) := by
  refine Keeps.step ?_ hc hk
  unfold latchStats
  repeat' (first
      | with_reducible exact Keeps.refl _ _ | with_reducible assumption | intro _ | with_reducible apply modCam_keeps
      | with_reducible apply raise_keeps | with_reducible apply keeps_ite | dsimp only | decide)

theorem streamBands_keeps {ch : List DevField} {a : Device} (p : Port) (c : Cam) (b : CamBand) (k : Nat) (d : Device)
    (hc : within [.mbx, .vlog, .cams, .dram, .lanes, .fabric, .red] ch = true) (hk : Keeps ch a d) : Keeps ch a (streamBands p c b k d).2 :=
  Keeps.step (c := [.mbx, .vlog, .cams, .dram, .lanes, .fabric, .red]) (keeps_foldl_snd (fun _ _ => streamBand_keeps _ _ _ _ _ _ (by decide) (Keeps.refl _ _)) (Keeps.refl _ _)) hc hk

theorem noteLum_keeps {ch : List DevField} {a : Device} (p : Port) (c : Cam) (b : CamBand) (k : ℕ) (d : Device) (hc : within [.loop] ch =
    true) (hk : Keeps ch a d) : Keeps ch a (noteLum p c b k d) := by
  refine Keeps.step ?_ hc hk
  unfold noteLum
  repeat' (first
      | with_reducible exact Keeps.refl _ _ | with_reducible assumption | intro _ | with_reducible apply keeps_ite | dsimp only
      | (rw [restSz_fold]; refine keeps_sz (h := ?_) (e := ⟨fun f hf => by cases f <;> first | exact absurd (by decide) hf | dsimp only [DevField.Same, Chip.own]⟩) ..))

theorem settleBand_keeps {ch : List DevField} {a : Device} (p : Port) (c : Cam) (b : CamBand) (x : BandStats) (k : ℕ) (drop : Bool) (d :
    Device) (hc : within [.mbx, .vlog, .acct, .cams, .loop, .dram, .lanes, .fabric, .red] ch = true) (hk : Keeps ch a d) : Keeps ch a
    (settleBand p c b x k drop d) := by
  refine Keeps.step ?_ hc hk
  unfold settleBand
  repeat' (first
      | with_reducible exact Keeps.refl _ _ | with_reducible assumption | intro _ | with_reducible apply latchStats_keeps
      | with_reducible apply modCam_keeps | with_reducible apply focusStep_keeps | with_reducible apply darkStep_keeps
      | with_reducible apply whiteStep_keeps | with_reducible apply bandNotice_keeps | with_reducible apply noteLum_keeps
      | with_reducible apply keeps_ite | dsimp only
      | (rw [restSz_fold]; refine keeps_sz (h := ?_) (e := ⟨fun f hf => by cases f <;> first | exact absurd (by decide) hf | dsimp only [DevField.Same, Chip.own]⟩) ..)
      | decide)

theorem closeBand_keeps {ch : List DevField} {a : Device} (p : Port) (long : Bool) (d : Device) (hc : within [.mbx, .vlog, .acct, .cams,
    .loop, .dram, .lanes, .fabric, .red] ch = true) (hk : Keeps ch a d) : Keeps ch a (closeBand p long d) := by
  refine Keeps.step ?_ hc hk
  unfold closeBand
  repeat' (first
      | with_reducible exact Keeps.refl _ _ | with_reducible assumption | intro _ | with_reducible apply takeLine_keeps
      | with_reducible apply streamBands_keeps | with_reducible apply settleBand_keeps | with_reducible apply keeps_foldl | split
      | with_reducible refine keeps_pair (by with_reducible assumption) ?_ | dsimp only
      | (rw [restSz_fold]; refine keeps_sz (h := ?_) (e := ⟨fun f hf => by cases f <;> first | exact absurd (by decide) hf | dsimp only [DevField.Same, Chip.own]⟩) ..)
      | decide)

/-! Camera.lean -/

theorem camViolation_keeps {ch : List DevField} {a : Device} (p : Port) (k : Fin 13) (code : U8) (ans : BitVec 2) (d : Device) (hc :
    within [.mbx, .vlog, .cams, .lanes, .fabric] ch = true) (hk : Keeps ch a d) : Keeps ch a (camViolation p k code ans d) := by
  refine Keeps.step ?_ hc hk
  unfold camViolation
  repeat' (first
      | with_reducible exact Keeps.refl _ _ | with_reducible assumption | intro _ | with_reducible apply violation_keeps
      | with_reducible apply modCam_keeps | decide)

theorem cciViolation_keeps {ch : List DevField} {a : Device} (p : Port) (k : Fin 13) (code : U8) (ans : BitVec 2) (d : Device) (hc :
    within [.mbx, .vlog, .cams, .lanes, .fabric] ch = true) (hk : Keeps ch a d) : Keeps ch a (cciViolation p k code ans d) := by
  refine Keeps.step ?_ hc hk
  unfold cciViolation
  repeat' (first
      | with_reducible exact Keeps.refl _ _ | with_reducible assumption | intro _ | with_reducible apply violation_keeps
      | with_reducible apply modCam_keeps | decide)

theorem settingsWritten_keeps {ch : List DevField} {a : Device} (p : Port) (d : Device) (hc : within [.mbx, .vlog, .cams, .lanes, .fabric]
    ch = true) (hk : Keeps ch a d) : Keeps ch a (settingsWritten p d) := by
  refine Keeps.step ?_ hc hk
  unfold settingsWritten
  repeat' (first
      | with_reducible exact Keeps.refl _ _ | with_reducible assumption | intro _ | with_reducible apply modCam_keeps
      | with_reducible apply finishWork_keeps | split | dsimp only | decide)

theorem beginSettings_keeps {ch : List DevField} {a : Device} (p : Port) (band : Option U32) (d : Device) (hc : within [.mbx, .vlog,
    .cams, .lanes, .fabric] ch = true) (hk : Keeps ch a d) : Keeps ch a (beginSettings p band d) := by
  refine Keeps.step ?_ hc hk
  unfold beginSettings
  repeat' (first
      | with_reducible exact Keeps.refl _ _ | with_reducible assumption | intro _ | with_reducible apply modCam_keeps
      | with_reducible apply settingsWritten_keeps | with_reducible apply cciSetWrites_keeps | with_reducible apply keeps_ite | split
      | dsimp only | decide)

theorem dropWrites_keeps {ch : List DevField} {a : Device} (p : Port) (f : CciOp → Bool) (d : Device) (hc : within [.cams] ch = true) (hk
    : Keeps ch a d) : Keeps ch a (dropWrites p f d) := by
  refine Keeps.step ?_ hc hk
  unfold dropWrites
  repeat' (first
      | with_reducible exact Keeps.refl _ _ | with_reducible assumption | intro _ | dsimp only
      | (rw [restSz_fold]; refine keeps_sz (h := ?_) (e := ⟨fun f hf => by cases f <;> first | exact absurd (by decide) hf | dsimp only [DevField.Same, Chip.own]⟩) ..))

theorem settingsFailed_keeps {ch : List DevField} {a : Device} (p : Port) (set : U32) (index : ℕ) (d : Device) (hc : within [.mbx, .vlog,
    .cams, .lanes, .fabric] ch = true) (hk : Keeps ch a d) : Keeps ch a (settingsFailed p set index d) := by
  refine Keeps.step ?_ hc hk
  unfold settingsFailed
  repeat' (first
      | with_reducible exact Keeps.refl _ _ | with_reducible assumption | intro _ | with_reducible apply modCam_keeps
      | with_reducible apply dropWrites_keeps | with_reducible apply raise_keeps | with_reducible apply finishWork_keeps | dsimp only
      | decide)

theorem stopPort_keeps {ch : List DevField} {a : Device} (p : Port) (d : Device) (hc : within [.mbx, .vlog, .acct, .cams, .loop, .dram,
    .lanes, .fabric, .red] ch = true) (hk : Keeps ch a d) : Keeps ch a (stopPort p d) := by
  refine Keeps.step ?_ hc hk
  unfold stopPort
  repeat' (first
      | with_reducible exact Keeps.refl _ _ | with_reducible assumption | intro _ | with_reducible apply modCam_keeps
      | with_reducible apply closeBand_keeps | with_reducible apply beginSettings_keeps | with_reducible apply keeps_ite | split
      | dsimp only | decide)

theorem startPort_keeps {ch : List DevField} {a : Device} (p : Port) (d : Device) (hc : within [.cams] ch = true) (hk : Keeps ch a d) :
    Keeps ch a (startPort p d) := by
  refine Keeps.step ?_ hc hk
  unfold startPort
  repeat' (first
      | with_reducible exact Keeps.refl _ _ | with_reducible assumption | intro _ | with_reducible apply modCam_keeps
      | with_reducible apply keeps_ite | split | dsimp only | decide)

theorem serveFirst_keeps {ch : List DevField} {a : Device} (d : Device) (hc : within [.cams] ch = true) (hk : Keeps ch a d) : Keeps ch a
    (serveFirst d) := by
  refine Keeps.step ?_ hc hk
  unfold serveFirst
  repeat' (first
      | with_reducible exact Keeps.refl _ _ | with_reducible assumption | intro _ | with_reducible apply keeps_ite | split | dsimp only
      | (rw [restSz_fold]; refine keeps_sz (h := ?_) (e := ⟨fun f hf => by cases f <;> first | exact absurd (by decide) hf | dsimp only [DevField.Same, Chip.own]⟩) ..))

theorem issueTrigger_keeps {ch : List DevField} {a : Device} (p : Port) (w : U64) (d : Device) (hc : within [.cams] ch = true) (hk : Keeps
    ch a d) : Keeps ch a (issueTrigger p w d) := by
  refine Keeps.step ?_ hc hk
  unfold issueTrigger
  repeat' (first
      | with_reducible exact Keeps.refl _ _ | with_reducible assumption | intro _ | with_reducible apply modCam_keeps
      | with_reducible apply keeps_ite | decide)

theorem applyAtOpen_keeps {ch : List DevField} {a : Device} (p : Port) (n : U32) (d : Device) (hc : within [.cams] ch = true) (hk : Keeps
    ch a d) : Keeps ch a (applyAtOpen p n d) := by
  refine Keeps.step ?_ hc hk
  unfold applyAtOpen
  repeat' (first
      | with_reducible exact Keeps.refl _ _ | with_reducible assumption | intro _ | with_reducible apply modCam_keeps | split | dsimp only
      | (rw [restSz_fold]; refine keeps_sz (h := ?_) (e := ⟨fun f hf => by cases f <;> first | exact absurd (by decide) hf | dsimp only [DevField.Same, Chip.own]⟩) ..)
      | decide)

theorem openBand_keeps {ch : List DevField} {a : Device} (p : Port) (d : Device) (hc : within [.mbx, .vlog, .cams, .lanes, .fabric] ch =
    true) (hk : Keeps ch a d) : Keeps ch a (openBand p d) := by
  refine Keeps.step ?_ hc hk
  unfold openBand
  repeat' (first
      | with_reducible exact Keeps.refl _ _ | with_reducible assumption | intro _ | with_reducible apply modCam_keeps
      | with_reducible apply applyAtOpen_keeps | with_reducible apply beginSettings_keeps | with_reducible apply keeps_ite | split
      | dsimp only
      | (rw [restSz_fold]; refine keeps_sz (h := ?_) (e := ⟨fun f hf => by cases f <;> first | exact absurd (by decide) hf | dsimp only [DevField.Same, Chip.own]⟩) ..)
      | decide)

theorem csiHeader_keeps {ch : List DevField} {a : Device} (p : Port) (syncOk hdrOk corrected expected : Bool) (accept other : Device → Device)
    (d : Device) (ha : ∀ e, Keeps ch e (accept e)) (ho : ∀ e, Keeps ch e (other e)) (hc : within [.mbx, .vlog, .cams, .lanes, .fabric] ch = true) (hk : Keeps ch a d) :
    Keeps ch a (csiHeader p syncOk hdrOk corrected expected accept other d) := by
  unfold csiHeader
  repeat' (first
      | with_reducible exact Keeps.refl _ _ | with_reducible assumption | with_reducible refine Keeps.trans ?_ (ha _)
      | with_reducible refine Keeps.trans ?_ (ho _) | with_reducible apply camViolation_keeps | with_reducible apply modDiag_keeps
      | with_reducible apply keeps_ite | dsimp only | decide | exact within_trans (by decide) hc)

theorem frameStart_keeps {ch : List DevField} {a : Device} (p : Port) (d : Device) (hc : within [.mbx, .vlog, .acct, .cams, .loop, .dram,
    .lanes, .fabric, .red] ch = true) (hk : Keeps ch a d) : Keeps ch a (frameStart p d) := by
  refine Keeps.step ?_ hc hk
  unfold frameStart
  repeat' (first
      | with_reducible exact Keeps.refl _ _ | with_reducible assumption | intro _ | with_reducible apply modCam_keeps
      | with_reducible apply closeBand_keeps | with_reducible apply camViolation_keeps | with_reducible apply openBand_keeps
      | with_reducible apply keeps_ite | split | dsimp only | decide)

theorem frameEnd_keeps {ch : List DevField} {a : Device} (p : Port) (d : Device) (hc : within [.mbx, .vlog, .acct, .cams, .loop, .dram,
    .lanes, .fabric, .red] ch = true) (hk : Keeps ch a d) : Keeps ch a (frameEnd p d) := by
  refine Keeps.step ?_ hc hk
  unfold frameEnd
  repeat' (first
      | with_reducible exact Keeps.refl _ _ | with_reducible assumption | intro _ | with_reducible apply modCam_keeps
      | with_reducible apply closeBand_keeps | with_reducible apply camViolation_keeps | with_reducible apply keeps_ite | decide)

theorem bandLine_keeps {ch : List DevField} {a : Device} (p : Port) (trig : U64) (kept : Option CamLine) (crc : Bool) (d : Device) (hc :
    within [.cams] ch = true) (hk : Keeps ch a d) : Keeps ch a (bandLine p trig kept crc d) := by
  refine Keeps.step ?_ hc hk
  unfold bandLine
  repeat' (first | with_reducible exact Keeps.refl _ _ | with_reducible assumption | intro _ | with_reducible apply modCam_keeps | decide)

theorem lateLine_keeps {ch : List DevField} {a : Device} (p : Port) (d : Device) (hc : within [.cams] ch = true) (hk : Keeps ch a d) :
    Keeps ch a (lateLine p d) := by
  refine Keeps.step ?_ hc hk
  unfold lateLine
  repeat' (first | with_reducible exact Keeps.refl _ _ | with_reducible assumption | intro _ | with_reducible apply modCam_keeps | decide)

theorem takeTrigger_keeps {ch : List DevField} {a : Device} (p : Port) (d : Device) (hc : within [.cams] ch = true) (hk : Keeps ch a d) :
    Keeps ch a (takeTrigger p d).2 := by
  refine Keeps.step ?_ hc hk
  unfold takeTrigger
  repeat' (first
      | with_reducible exact Keeps.refl _ _ | with_reducible assumption | intro _ | with_reducible apply modCam_keeps
      | with_reducible apply draw_keeps | split | with_reducible refine keeps_pair (by with_reducible assumption) ?_ | dsimp only | decide)

theorem framePacket_keeps {ch : List DevField} {a : Device} (p : Port) (pkt : LongPacket) (d : Device) (hc : within [.mbx, .vlog, .acct,
    .cams, .loop, .dram, .lanes, .fabric, .red] ch = true) (hk : Keeps ch a d) : Keeps ch a (framePacket p pkt d) := by
  refine Keeps.step ?_ hc hk
  unfold framePacket
  repeat' (first
      | with_reducible exact Keeps.refl _ _ | with_reducible assumption | intro _ | with_reducible apply takeTrigger_keeps
      | with_reducible apply lateLine_keeps | with_reducible apply closeBand_keeps | with_reducible apply bandLine_keeps
      | with_reducible apply camViolation_keeps | with_reducible apply modCam_keeps | with_reducible apply keeps_ite | split
      | with_reducible refine keeps_pair (by with_reducible assumption) ?_ | dsimp only
      | (rw [restSz_fold]; refine keeps_sz (h := ?_) (e := ⟨fun f hf => by cases f <;> first | exact absurd (by decide) hf | dsimp only [DevField.Same, Chip.own]⟩) ..)
      | decide)

theorem camReinit_keeps {ch : List DevField} {a : Device} (p : Port) (d : Device) (hc : within [.mbx, .vlog, .acct, .cams, .loop, .dram,
    .lanes, .fabric, .red] ch = true) (hk : Keeps ch a d) : Keeps ch a (camReinit p d) := by
  refine Keeps.step ?_ hc hk
  unfold camReinit
  repeat' (first
      | with_reducible exact Keeps.refl _ _ | with_reducible assumption | intro _ | with_reducible apply modCam_keeps
      | with_reducible apply dropWrites_keeps | with_reducible apply closeBand_keeps | decide)

theorem cciTrace_keeps {ch : List DevField} {a₀ : Device} (a : CciAct) (d : Device) (hc : within [.cams] ch = true) (hk : Keeps ch a₀ d) :
    Keeps ch a₀ (cciTrace a d) := by
  refine Keeps.step ?_ hc hk
  unfold cciTrace
  repeat' (first
      | with_reducible exact Keeps.refl _ _ | with_reducible assumption | intro _ | dsimp only
      | (rw [restSz_fold]; refine keeps_sz (h := ?_) (e := ⟨fun f hf => by cases f <;> first | exact absurd (by decide) hf | dsimp only [DevField.Same, Chip.own]⟩) ..))

theorem cciSucceeds_keeps {ch : List DevField} {a : Device} (op : CciOp) (v : U32) (d : Device) (hc : within [.mbx, .vlog, .cams, .lanes,
    .fabric] ch = true) (hk : Keeps ch a d) : Keeps ch a (cciSucceeds op v d) := by
  refine Keeps.step ?_ hc hk
  unfold cciSucceeds
  repeat' (first
      | with_reducible exact Keeps.refl _ _ | with_reducible assumption | intro _ | with_reducible apply modCam_keeps
      | with_reducible apply settingsWritten_keeps | with_reducible apply finishWork_keeps | with_reducible apply keeps_ite | split
      | dsimp only | decide)

theorem cciFails_keeps {ch : List DevField} {a : Device} (bus : Bool) (op : CciOp) (d : Device) (hc : within [.mbx, .vlog, .cams, .lanes,
    .fabric] ch = true) (hk : Keeps ch a d) : Keeps ch a (cciFails bus op d) := by
  refine Keeps.step ?_ hc hk
  unfold cciFails
  repeat' (first
      | with_reducible exact Keeps.refl _ _ | with_reducible assumption | intro _ | with_reducible apply settingsFailed_keeps
      | with_reducible apply modCam_keeps | with_reducible apply dropWrites_keeps | with_reducible apply raise_keeps
      | with_reducible apply finishWork_keeps | split | dsimp only | decide)

theorem cciPop_keeps {ch : List DevField} {a : Device} (bus : Bool) (d : Device) (hc : within [.cams] ch = true) (hk : Keeps ch a d) :
    Keeps ch a (cciPop bus d) := by
  refine Keeps.step ?_ hc hk
  unfold cciPop
  repeat' (first
      | with_reducible exact Keeps.refl _ _ | with_reducible assumption | intro _ | dsimp only
      | (rw [restSz_fold]; refine keeps_sz (h := ?_) (e := ⟨fun f hf => by cases f <;> first | exact absurd (by decide) hf | dsimp only [DevField.Same, Chip.own]⟩) ..))

/-! Power.lean -/

theorem quiesceDac_keeps {ch : List DevField} {a : Device} (d : Device) (hc : within [.mbx, .vlog, .drive, .lanes, .fabric] ch = true) (hk
    : Keeps ch a d) : Keeps ch a (quiesceDac d) := by
  refine Keeps.step ?_ hc hk
  unfold quiesceDac
  repeat' (first
      | with_reducible exact Keeps.refl _ _ | with_reducible assumption | intro _ | with_reducible apply finishAll_keeps | split
      | dsimp only
      | (rw [restSz_fold]; refine keeps_sz (h := ?_) (e := ⟨fun f hf => by cases f <;> first | exact absurd (by decide) hf | dsimp only [DevField.Same, Chip.own]⟩) ..)
      | decide)

theorem quiesce_keeps {ch : List DevField} {a : Device} (d : Device) (hc : within [.mbx, .vlog, .drive, .lanes, .fabric, .pwr] ch = true)
    (hk : Keeps ch a d) : Keeps ch a (quiesce d) := by
  refine Keeps.step ?_ hc hk
  unfold quiesce
  repeat' (first
      | with_reducible exact Keeps.refl _ _ | with_reducible assumption | intro _ | with_reducible apply quiesceDac_keeps | split
      | dsimp only
      | (rw [restSz_fold]; refine keeps_sz (h := ?_) (e := ⟨fun f hf => by cases f <;> first | exact absurd (by decide) hf | dsimp only [DevField.Same, Chip.own]⟩) ..)
      | decide)

theorem quiet_keeps {ch : List DevField} {a : Device} (k : ℕ) (rest : List ℕ) (d : Device) (hc : within [.lanes, .pwr] ch = true) (hk :
    Keeps ch a d) : Keeps ch a (quiet k rest d) := by
  refine Keeps.step ?_ hc hk
  unfold quiet
  repeat' (first
      | with_reducible exact Keeps.refl _ _ | with_reducible assumption | intro _ | with_reducible apply idleHeadLanes_keeps
      | with_reducible apply keeps_ite | dsimp only
      | (rw [restSz_fold]; refine keeps_sz (h := ?_) (e := ⟨fun f hf => by cases f <;> first | exact absurd (by decide) hf | dsimp only [DevField.Same, Chip.own]⟩) ..)
      | decide)

theorem nextDomain_keeps {ch : List DevField} {a : Device} (d : Device) (hc : within [.mbx, .vlog, .drive, .lanes, .fabric, .pwr] ch =
    true) (hk : Keeps ch a d) : Keeps ch a (nextDomain d) := by
  refine Keeps.step ?_ hc hk
  unfold nextDomain
  repeat' (first
      | with_reducible exact Keeps.refl _ _ | with_reducible assumption | intro _ | with_reducible apply quiesce_keeps
      | with_reducible apply refuseEntry_keeps | with_reducible apply keeps_ite | decide)

theorem startPhase1_keeps {ch : List DevField} {a : Device} (d : Device) (hc : within [.mbx, .vlog, .drive, .lanes, .fabric, .pwr] ch =
    true) (hk : Keeps ch a d) : Keeps ch a (startPhase1 d) := by
  refine Keeps.step ?_ hc hk
  unfold startPhase1
  repeat' (first
      | with_reducible exact Keeps.refl _ _ | with_reducible assumption | intro _ | with_reducible apply wakeCores_keeps
      | with_reducible apply nextDomain_keeps | dsimp only
      | (rw [restSz_fold]; refine keeps_sz (h := ?_) (e := ⟨fun f hf => by cases f <;> first | exact absurd (by decide) hf | dsimp only [DevField.Same, Chip.own]⟩) ..)
      | decide)

theorem reportDone_keeps {ch : List DevField} {a : Device} (d : Device) (hc : within [.mbx, .vlog, .lanes, .fabric] ch = true) (hk : Keeps
    ch a d) : Keeps ch a (reportDone d) := by
  refine Keeps.step ?_ hc hk
  unfold reportDone
  repeat' (first
      | with_reducible exact Keeps.refl _ _ | with_reducible assumption | intro _ | with_reducible apply commandDone_keeps
      | with_reducible apply keeps_foldl | split | dsimp only | decide)

theorem allQuiesced_keeps {ch : List DevField} {a : Device} (d : Device) (hc : within [.mbx, .vlog, .lanes, .fabric, .pwr] ch = true) (hk
    : Keeps ch a d) : Keeps ch a (allQuiesced d) := by
  refine Keeps.step ?_ hc hk
  unfold allQuiesced
  repeat' (first
      | with_reducible exact Keeps.refl _ _ | with_reducible assumption | intro _ | with_reducible apply draw_keeps
      | with_reducible apply reportDone_keeps | with_reducible apply finishWork_keeps | split
      | with_reducible refine keeps_pair (by with_reducible assumption) ?_ | dsimp only
      | (rw [restSz_fold]; refine keeps_sz (h := ?_) (e := ⟨fun f hf => by cases f <;> first | exact absurd (by decide) hf | dsimp only [DevField.Same, Chip.own]⟩) ..)
      | decide)

theorem powerStep_keeps {ch : List DevField} {a : Device} (d : Device) (hc : within [.chip, .mbx, .vlog, .feed, .banks, .engines, .links,
    .drive, .cams, .loop, .cz, .crcs, .dram, .lanes, .fabric, .red, .pwr, .nv] ch = true) (hk : Keeps ch a d) : Keeps ch a (powerStep d)
    := by
  refine Keeps.step ?_ hc hk
  unfold powerStep
  repeat' (first
      | with_reducible exact Keeps.refl _ _ | with_reducible assumption | intro _ | with_reducible apply enterState_keeps
      | with_reducible apply wakeUp_keeps | with_reducible apply keeps_ite | dsimp only | decide)

theorem roleSleep_keeps {ch : List DevField} {a : Device} (d : Device) (hc : within [.mbx, .vlog, .drive, .lanes, .fabric, .pwr] ch =
    true) (hk : Keeps ch a d) : Keeps ch a (roleSleep d) := by
  refine Keeps.step ?_ hc hk
  unfold roleSleep
  repeat' (first
      | with_reducible exact Keeps.refl _ _ | with_reducible assumption | intro _ | with_reducible apply startPhase1_keeps
      | with_reducible apply keeps_ite | dsimp only
      | (rw [restSz_fold]; refine keeps_sz (h := ?_) (e := ⟨fun f hf => by cases f <;> first | exact absurd (by decide) hf | dsimp only [DevField.Same, Chip.own]⟩) ..)
      | decide)

/-! Promotion.lean -/

theorem withSettings_keeps {ch : List DevField} {a : Device} (x d : Device) (hc : within [.chip, .mbx, .acct, .banks, .pos, .sheet, .fire,
    .links, .drive, .cams, .loop, .crcs, .dram, .lanes, .fabric, .pwr, .therm] ch = true) (hk : Keeps ch a d) : Keeps ch a (withSettings x
    d) := by
  refine Keeps.step ?_ hc hk
  unfold withSettings
  repeat' (first
      | with_reducible exact Keeps.refl _ _ | with_reducible assumption | intro _ | dsimp only
      | (rw [restSz_fold]; refine keeps_sz (h := ?_) (e := ⟨fun f hf => by cases f <;> first | exact absurd (by decide) hf | dsimp only [DevField.Same, Chip.own]⟩) ..))

theorem restoreColour_keeps {ch : List DevField} {a : Device} (e : Device × List U8) (k : Plane) (hc : within [.loop] ch = true)
    (hk : Keeps ch a e.1) : Keeps ch a (restoreColour e k).1 := modColour_keeps e.1 k _ hc hk

theorem withLoopNode_keeps {ch : List DevField} {a : Device} (b : List U8) (d : Device) (hc : within [.loop] ch = true) (hk : Keeps ch a d) :
    Keeps ch a (withLoopNode b d) :=
  Keeps.step (c := [.loop]) (keeps_foldl_fst (fun _ _ => restoreColour_keeps _ _ (by decide) (Keeps.refl _ _))
    ⟨fun f h => by cases f <;> first | exact absurd (by decide) h | rfl⟩) hc hk

theorem installSet_keeps {ch : List DevField} {a : Device} (addr : ℕ) (d : Device) (hc : within [.vlog, .banks, .dram] ch = true) (hk :
    Keeps ch a d) : Keeps ch a (installSet addr d) := by
  refine Keeps.step ?_ hc hk
  unfold installSet
  repeat' (first
      | with_reducible exact Keeps.refl _ _ | with_reducible assumption | intro _ | with_reducible apply modBank_keeps
      | with_reducible apply dramSee_keeps | with_reducible apply keeps_ite | with_reducible apply keeps_foldl | dsimp only | decide)

theorem installSets_keeps {ch : List DevField} {a : Device} (j : JobDesc) (begun : ℕ) (d : Device) (hc : within [.vlog, .banks, .dram] ch
    = true) (hk : Keeps ch a d) : Keeps ch a (installSets j begun d) := by
  refine Keeps.step ?_ hc hk
  unfold installSets
  repeat' (first
      | with_reducible exact Keeps.refl _ _ | with_reducible assumption | intro _ | with_reducible apply installSet_keeps
      | with_reducible apply keeps_foldl | dsimp only | decide)

theorem withComb_keeps {ch : List DevField} {a : Device} (s : Snap) (p : List U8) (d : Device) (hc : within [.banks] ch = true) (hk :
    Keeps ch a d) : Keeps ch a (withComb s p d) := by
  refine Keeps.step ?_ hc hk
  unfold withComb
  repeat' (first
      | with_reducible exact Keeps.refl _ _ | with_reducible assumption | intro _ | with_reducible apply modBank_keeps | dsimp only
      | decide)

theorem withLoop_keeps {ch : List DevField} {a : Device} (b : List U8) (d : Device) (hc : within [.banks, .loop] ch = true) (hk : Keeps ch
    a d) : Keeps ch a (withLoop b d) := by
  refine Keeps.step ?_ hc hk
  unfold withLoop
  repeat' (first
      | with_reducible exact Keeps.refl _ _ | with_reducible assumption | intro _ | dsimp only
      | (rw [restSz_fold]; refine keeps_sz (h := ?_) (e := ⟨fun f hf => by cases f <;> first | exact absurd (by decide) hf | dsimp only [DevField.Same, Chip.own]⟩) ..))

theorem withDrops_keeps {ch : List DevField} {a : Device} (b : List U8) (d : Device) (hc : within [.fire] ch = true) (hk : Keeps ch a d) :
    Keeps ch a (withDrops b d) := by
  refine Keeps.step ?_ hc hk
  unfold withDrops
  repeat' (first
      | with_reducible exact Keeps.refl _ _ | with_reducible assumption | intro _ | dsimp only
      | (rw [restSz_fold]; refine keeps_sz (h := ?_) (e := ⟨fun f hf => by cases f <;> first | exact absurd (by decide) hf | dsimp only [DevField.Same, Chip.own]⟩) ..))

theorem withScreen_keeps {ch : List DevField} {a : Device} (b : List U8) (d : Device) (hc : within [.engines] ch = true) (hk : Keeps ch a
    d) : Keeps ch a (withScreen b d) := by
  refine Keeps.step ?_ hc hk
  unfold withScreen
  repeat' (first
      | with_reducible exact Keeps.refl _ _ | with_reducible assumption | intro _
      | (rw [restSz_fold]; refine keeps_sz (h := ?_) (e := ⟨fun f hf => by cases f <;> first | exact absurd (by decide) hf | dsimp only [DevField.Same, Chip.own]⟩) ..))

theorem withPosition_keeps {ch : List DevField} {a : Device} (p ep : List U8) (d : Device) (hc : within [.mbx, .jobs, .pos, .sheet,
    .fabric] ch = true) (hk : Keeps ch a d) : Keeps ch a (withPosition p ep d) := by
  refine Keeps.step ?_ hc hk
  unfold withPosition
  repeat' (first
      | with_reducible exact Keeps.refl _ _ | with_reducible assumption | intro _ | split | dsimp only
      | (rw [restSz_fold]; refine keeps_sz (h := ?_) (e := ⟨fun f hf => by cases f <;> first | exact absurd (by decide) hf | dsimp only [DevField.Same, Chip.own]⟩) ..))

theorem installRunning_keeps {ch : List DevField} {a : Device} (d : Device) (hc : within [.vlog, .feed, .banks, .fire, .dram] ch = true)
    (hk : Keeps ch a d) : Keeps ch a (installRunning d) := by
  refine Keeps.step ?_ hc hk
  unfold installRunning
  repeat' (first
      | with_reducible exact Keeps.refl _ _ | with_reducible assumption | intro _ | with_reducible apply installSets_keeps | split
      | dsimp only
      | (rw [restSz_fold]; refine keeps_sz (h := ?_) (e := ⟨fun f hf => by cases f <;> first | exact absurd (by decide) hf | dsimp only [DevField.Same, Chip.own]⟩) ..)
      | decide)

theorem loadImage_keeps {ch : List DevField} {a : Device} (s : Snap) (d : Device) (hc : within [.chip, .mbx, .vlog, .acct, .jobs, .feed,
    .banks, .engines, .pos, .sheet, .fire, .links, .drive, .cams, .loop, .crcs, .dram, .lanes, .fabric, .pwr, .therm] ch = true) (hk :
    Keeps ch a d) : Keeps ch a (loadImage s d) := by
  refine Keeps.step ?_ hc hk
  unfold loadImage
  repeat' (first
      | with_reducible exact Keeps.refl _ _ | with_reducible assumption | intro _ | with_reducible apply withSettings_keeps
      | with_reducible apply withLoopNode_keeps | with_reducible apply installRunning_keeps | with_reducible apply withPosition_keeps
      | with_reducible apply withScreen_keeps | with_reducible apply withDrops_keeps | with_reducible apply withLoop_keeps
      | with_reducible apply withComb_keeps | with_reducible apply stageLoads_keeps | with_reducible apply keeps_ite | split | dsimp only
      | (rw [restSz_fold]; refine keeps_sz (h := ?_) (e := ⟨fun f hf => by cases f <;> first | exact absurd (by decide) hf | dsimp only [DevField.Same, Chip.own]⟩) ..)
      | decide)

theorem feedFrom_keeps {ch : List DevField} {a : Device} (j : JobDesc) (n : ℕ) (d : Device) (hc : within [.mbx, .vlog, .acct, .jobs,
    .feed, .banks, .cz, .dram, .lanes, .fabric] ch = true) (hk : Keeps ch a d) : Keeps ch a (feedFrom j n d) := by
  refine Keeps.step ?_ hc hk
  unfold feedFrom
  repeat' (first
      | with_reducible exact Keeps.refl _ _ | with_reducible assumption | intro _ | with_reducible apply fallDue_keeps | dsimp only
      | (rw [restSz_fold]; refine keeps_sz (h := ?_) (e := ⟨fun f hf => by cases f <;> first | exact absurd (by decide) hf | dsimp only [DevField.Same, Chip.own]⟩) ..)
      | decide)

theorem resumePlan_keeps {ch : List DevField} {a : Device} (d : Device) (hc : within [.mbx, .vlog, .acct, .jobs, .feed, .banks, .fire,
    .cz, .dram, .lanes, .fabric, .red] ch = true) (hk : Keeps ch a d) : Keeps ch a (resumePlan d) := by
  refine Keeps.step ?_ hc hk
  unfold resumePlan
  repeat' (first
      | with_reducible exact Keeps.refl _ _ | with_reducible assumption | intro _ | with_reducible apply modRed_keeps
      | with_reducible apply feedFrom_keeps | with_reducible apply giveSeg_keeps | with_reducible apply keeps_ite
      | with_reducible apply keeps_foldl | split | dsimp only
      | (rw [restSz_fold]; refine keeps_sz (h := ?_) (e := ⟨fun f hf => by cases f <;> first | exact absurd (by decide) hf | dsimp only [DevField.Same, Chip.own]⟩) ..)
      | decide)

theorem withRepeat_keeps {ch : List DevField} {a : Device} (d : Device) (j : JobDesc) (n : ℕ) (hc : within [.mbx, .vlog, .acct, .feed,
    .cz, .lanes, .fabric] ch = true) (hk : Keeps ch a d) : Keeps ch a (withRepeat d j n) := by
  refine Keeps.step ?_ hc hk
  unfold withRepeat
  repeat' (first
      | with_reducible exact Keeps.refl _ _ | with_reducible assumption | intro _ | with_reducible apply putTile_keeps
      | with_reducible apply keeps_foldl | split | dsimp only
      | (rw [restSz_fold]; refine keeps_sz (h := ?_) (e := ⟨fun f hf => by cases f <;> first | exact absurd (by decide) hf | dsimp only [DevField.Same, Chip.own]⟩) ..)
      | decide)

theorem rescreenLine_keeps {ch : List DevField} {a : Device} (h : Head) (j : JobDesc) (g : Seg) (rows : List ℕ) (d : Device) (hc : within
    [.engines, .fire] ch = true) (hk : Keeps ch a d) : Keeps ch a (rescreenLine h j g rows d) := by
  refine Keeps.step ?_ hc hk
  unfold rescreenLine
  repeat' (first
      | with_reducible exact Keeps.refl _ _ | with_reducible assumption | intro _ | with_reducible apply modEngine_keeps
      | with_reducible apply keeps_ite | split | dsimp only
      | (rw [restSz_fold]; refine keeps_sz (h := ?_) (e := ⟨fun f hf => by cases f <;> first | exact absurd (by decide) hf | dsimp only [DevField.Same, Chip.own]⟩) ..)
      | decide)

theorem rescreen_keeps {ch : List DevField} {a : Device} (h : Head) (j : JobDesc) (w : Nat) (last : Option (Nat × Nat)) (stop : Option Nat)
    (fuel n start base : Nat) (x : Device × Nat × Nat) (hc : within [.mbx, .vlog, .acct, .feed, .engines, .fire, .cz, .lanes, .fabric] ch = true) (hk : Keeps ch a x.1) :
    Keeps ch a (rescreen h j w last stop fuel n start base x).1 := by
  refine Keeps.step ?_ hc hk
  clear hk hc a
  induction fuel generalizing n start base x with
  | zero => exact Keeps.refl _ _
  | succ k ih =>
    unfold rescreen
    dsimp only
    refine keeps_ite_fst (Keeps.refl _ _) (keeps_ite_fst (Keeps.trans ?_ (ih ..)) ?_) <;>
      exact ⟨fun f hf => by cases f <;> first | exact absurd (by decide) hf | dsimp only [DevField.Same, Chip.own]⟩

theorem rescreenPart_keeps {ch : List DevField} {a : Device} (h : Head) (w : Nat) (last : Option (Nat × Nat)) (p : Reprint)
    (x : Device × Nat × Nat) (hc : within [.mbx, .vlog, .acct, .feed, .engines, .fire, .cz, .lanes, .fabric] ch = true) (hk : Keeps ch a x.1) : Keeps ch a (rescreenPart h w last p x).1 :=
  rescreen_keeps _ _ _ _ _ _ _ _ _ _ (within_trans (by decide) hc) (keeps_ite (modEngine_keeps _ _ _ (within_trans (by decide) hc) hk) hk)

theorem reconcile_keeps {ch : List DevField} {a : Device} (s : Snap) (d : Device) (hc : within [.chip, .mbx, .vlog, .acct, .jobs, .feed,
    .banks, .engines, .pos, .sheet, .fire, .links, .drive, .cams, .loop, .crcs, .dram, .lanes, .fabric, .red, .pwr, .therm] ch = true) (hk
    : Keeps ch a d) : Keeps ch a (reconcile s d) := by
  refine Keeps.step ?_ hc hk
  unfold reconcile
  repeat' (first
      | with_reducible exact Keeps.refl _ _ | with_reducible assumption | intro _ | with_reducible apply loadImage_keeps | split
      | dsimp only
      | (rw [restSz_fold]; refine keeps_sz (h := ?_) (e := ⟨fun f hf => by cases f <;> first | exact absurd (by decide) hf | dsimp only [DevField.Same, Chip.own]⟩) ..))

/-! HeadLink.lean -/

theorem setLink_keeps {ch : List DevField} {a : Device} (rate nozzles : ℕ) (enable : Bool) (d : Device) (h : Head) (hc : within [.mbx,
    .vlog, .links, .adapters, .cz, .lanes, .fabric, .red] ch = true) (hk : Keeps ch a d) : Keeps ch a (setLink rate nozzles enable d h) :=
    by
  refine Keeps.step ?_ hc hk
  unfold setLink
  repeat' (first
      | with_reducible exact Keeps.refl _ _ | with_reducible assumption | intro _ | with_reducible apply modLink_keeps
      | with_reducible apply linkFell_keeps | with_reducible apply abandonTest_keeps | with_reducible apply modLane_keeps
      | with_reducible apply retrainLane_keeps | with_reducible apply keeps_ite | dsimp only | decide)

theorem fhlReinit_keeps {ch : List DevField} {a : Device} (h : Head) (k : Fin 10) (d : Device) (hc : within [.mbx, .vlog, .links,
    .adapters, .cz, .lanes, .fabric, .red] ch = true) (hk : Keeps ch a d) : Keeps ch a (fhlReinit h k d) := by
  refine Keeps.step ?_ hc hk
  unfold fhlReinit
  repeat' (first
      | with_reducible exact Keeps.refl _ _ | with_reducible assumption | intro _ | with_reducible apply reinitLane_keeps
      | with_reducible apply fhlViolation_keeps | decide)

theorem epochRejected_keeps {ch : List DevField} {a : Device} (h : Head) (c : StatusCell) (d : Device) (hc : within [.chip, .mbx, .vlog,
    .links, .cz, .lanes, .fabric, .red, .nv] ch = true) (hk : Keeps ch a d) : Keeps ch a (epochRejected h c d) := by
  refine Keeps.step ?_ hc hk
  unfold epochRejected
  repeat' (first
      | with_reducible exact Keeps.refl _ _ | with_reducible assumption | intro _ | with_reducible apply modRed_keeps
      | with_reducible apply demote_keeps | with_reducible apply raise_keeps | with_reducible apply headAbsent_keeps
      | with_reducible apply keeps_ite | dsimp only | decide)

theorem checkReport_keeps {ch : List DevField} {a : Device} (h : Head) (c : StatusCell) (was : Option StatusCell) (d : Device) (hc :
    within [.mbx, .vlog, .links, .adapters, .cz, .lanes, .fabric, .red] ch = true) (hk : Keeps ch a d) : Keeps ch a (checkReport h c was
    d) := by
  refine Keeps.step ?_ hc hk
  unfold checkReport
  repeat' (first
      | with_reducible exact Keeps.refl _ _ | with_reducible assumption | intro _ | with_reducible apply fhlViolation_keeps
      | with_reducible apply fhlReinit_keeps | with_reducible apply keeps_ite | split | dsimp only | decide)

/-! Red.lean -/

theorem bringAll_keeps {ch : List DevField} {a : Device} (d : Device) (hc : within [.links, .lanes] ch = true) (hk : Keeps ch a d) : Keeps
    ch a (bringAll d) := by
  refine Keeps.step ?_ hc hk
  unfold bringAll
  repeat' (first
      | with_reducible exact Keeps.refl _ _ | with_reducible assumption | intro _ | with_reducible apply startBring_keeps
      | with_reducible apply keeps_foldl | decide)

theorem takeActive_keeps {ch : List DevField} {a : Device} (d : Device) (hc : within [.chip, .mbx, .links, .lanes, .fabric, .red] ch =
    true) (hk : Keeps ch a d) : Keeps ch a (takeActive d) := by
  refine Keeps.step ?_ hc hk
  unfold takeActive
  repeat' (first
      | with_reducible exact Keeps.refl _ _ | with_reducible assumption | intro _ | with_reducible apply sendRoles_keeps
      | with_reducible apply bringAll_keeps | with_reducible apply noteRed_keeps | dsimp only
      | (rw [restSz_fold]; refine keeps_sz (h := ?_) (e := ⟨fun f hf => by cases f <;> first | exact absurd (by decide) hf | dsimp only [DevField.Same, Chip.own]⟩) ..)
      | decide)

theorem goActive_keeps {ch : List DevField} {a : Device} (d : Device) (hc : within [.chip, .mbx, .links, .lanes, .fabric, .red, .nv] ch =
    true) (hk : Keeps ch a d) : Keeps ch a (goActive d) := by
  refine Keeps.step ?_ hc hk
  unfold goActive
  repeat' (first
      | with_reducible exact Keeps.refl _ _ | with_reducible assumption | intro _ | with_reducible apply takeActive_keeps
      | with_reducible apply recordRole_keeps | with_reducible apply noteRed_keeps | with_reducible apply modRed_keeps
      | with_reducible apply keeps_ite | decide)

theorem sendPair_keeps {ch : List DevField} {a : Device} (payload : List U8) (d : Device) (hc : within [.mbx, .vlog, .lanes, .fabric] ch =
    true) (hk : Keeps ch a d) : Keeps ch a (sendPair payload d) := by
  refine Keeps.step ?_ hc hk
  unfold sendPair
  repeat' (first
      | with_reducible exact Keeps.refl _ _ | with_reducible assumption | intro _ | with_reducible apply sendTo_keeps | split
      | with_reducible refine keeps_pair (by with_reducible assumption) ?_ | dsimp only | decide)

theorem sendNeedFull_keeps {ch : List DevField} {a : Device} (mirror : Bool) (d : Device) (hc : within [.mbx, .vlog, .lanes, .fabric,
    .red] ch = true) (hk : Keeps ch a d) : Keeps ch a (sendNeedFull mirror d) := by
  refine Keeps.step ?_ hc hk
  unfold sendNeedFull
  repeat' (first
      | with_reducible exact Keeps.refl _ _ | with_reducible assumption | intro _ | with_reducible apply wagSend_keeps
      | with_reducible apply sendPair_keeps | with_reducible apply keeps_ite | decide)

theorem goStandby_keeps {ch : List DevField} {a : Device} (d : Device) (hc : within [.mbx, .vlog, .drive, .lanes, .fabric, .red, .pwr,
    .nv] ch = true) (hk : Keeps ch a d) : Keeps ch a (goStandby d) := by
  refine Keeps.step ?_ hc hk
  unfold goStandby
  repeat' (first
      | with_reducible exact Keeps.refl _ _ | with_reducible assumption | intro _ | with_reducible apply recordRole_keeps
      | with_reducible apply roleSleep_keeps | with_reducible apply noteRed_keeps | with_reducible apply modRed_keeps
      | with_reducible apply keeps_ite | dsimp only | decide)

theorem readmit_keeps {ch : List DevField} {a : Device} (d : Device) (hc : within [.mbx, .vlog, .jobs, .banks, .engines, .sheet, .fire,
    .drive, .loop, .lanes, .fabric, .red, .pwr, .nv] ch = true) (hk : Keeps ch a d) : Keeps ch a (readmit d) := by
  refine Keeps.step ?_ hc hk
  unfold readmit
  repeat' (first
      | with_reducible exact Keeps.refl _ _ | with_reducible assumption | intro _ | with_reducible apply unschedule_keeps
      | with_reducible apply endJob_keeps | with_reducible apply modRed_keeps | with_reducible apply goStandby_keeps
      | with_reducible apply sendNeedFull_keeps | with_reducible apply noteRed_keeps | dsimp only
      | (rw [restSz_fold]; refine keeps_sz (h := ?_) (e := ⟨fun f hf => by cases f <;> first | exact absurd (by decide) hf | dsimp only [DevField.Same, Chip.own]⟩) ..)
      | decide)

theorem reportWatch_keeps {ch : List DevField} {a : Device} (d : Device) (hc : within [.red] ch = true) (hk : Keeps ch a d) : Keeps ch a
    (reportWatch d) := by
  refine Keeps.step ?_ hc hk
  unfold reportWatch
  repeat' (first
      | with_reducible exact Keeps.refl _ _ | with_reducible assumption | intro _ | with_reducible apply modRed_keeps | dsimp only | decide)

theorem pathLives_keeps {ch : List DevField} {a : Device} (hbi : Bool) (d : Device) (hc : within [.mbx, .vlog, .dram, .lanes, .fabric,
    .red] ch = true) (hk : Keeps ch a d) : Keeps ch a (pathLives hbi d) := by
  refine Keeps.step ?_ hc hk
  unfold pathLives
  repeat' (first
      | with_reducible exact Keeps.refl _ _ | with_reducible assumption | intro _ | with_reducible apply noteRed_keeps
      | with_reducible apply modRed_keeps | with_reducible apply raise_keeps | with_reducible apply refreshPath_keeps
      | with_reducible apply keeps_ite | dsimp only | decide)

theorem takeBeat_keeps {ch : List DevField} {a : Device} (hb : Heartbeat) (d : Device) (hc : within [.chip, .mbx, .vlog, .jobs, .banks,
    .engines, .sheet, .fire, .links, .drive, .loop, .cz, .dram, .lanes, .fabric, .red, .pwr, .nv] ch = true) (hk : Keeps ch a d) : Keeps
    ch a (takeBeat hb d) := by
  refine Keeps.step ?_ hc hk
  unfold takeBeat
  repeat' (first
      | with_reducible exact Keeps.refl _ _ | with_reducible assumption | intro _ | with_reducible apply noteRed_keeps
      | with_reducible apply modRed_keeps | with_reducible apply pathLives_keeps | with_reducible apply violation_keeps
      | with_reducible apply demote_keeps | with_reducible apply readmit_keeps | with_reducible apply finishWork_keeps
      | with_reducible apply keeps_ite | split | dsimp only | decide)

theorem askWitness_keeps {ch : List DevField} {a : Device} (d : Device) (hc : within [.links, .lanes, .red] ch = true) (hk : Keeps ch a d)
    : Keeps ch a (askWitness d) := by
  refine Keeps.step ?_ hc hk
  unfold askWitness
  repeat' (first
      | with_reducible exact Keeps.refl _ _ | with_reducible assumption | intro _ | with_reducible apply modRed_keeps
      | with_reducible apply sendControl_keeps | with_reducible apply modLink_keeps | with_reducible apply keeps_foldl | dsimp only
      | decide)

theorem pathsLost_keeps {ch : List DevField} {a : Device} (d : Device) (hc : within [.mbx, .vlog, .lanes, .fabric, .red] ch = true) (hk :
    Keeps ch a d) : Keeps ch a (pathsLost d) := by
  refine Keeps.step ?_ hc hk
  unfold pathsLost
  repeat' (first
      | with_reducible exact Keeps.refl _ _ | with_reducible assumption | intro _ | with_reducible apply raise_keeps
      | with_reducible apply modRed_keeps | with_reducible apply keeps_ite | decide)

theorem bothSilent_keeps {ch : List DevField} {a : Device} (d : Device) (hc : within [.mbx, .vlog, .links, .dram, .lanes, .fabric, .red]
    ch = true) (hk : Keeps ch a d) : Keeps ch a (bothSilent d) := by
  refine Keeps.step ?_ hc hk
  unfold bothSilent
  repeat' (first
      | with_reducible exact Keeps.refl _ _ | with_reducible assumption | intro _ | with_reducible apply refreshPath_keeps
      | with_reducible apply pathsLost_keeps | with_reducible apply modRed_keeps | with_reducible apply askWitness_keeps
      | with_reducible apply keeps_ite | decide)

theorem startPromotion_keeps {ch : List DevField} {a : Device} (drill : Bool) (d : Device) (hc : within [.chip, .mbx, .vlog, .feed,
    .banks, .engines, .pos, .links, .drive, .cams, .loop, .cz, .crcs, .dram, .lanes, .fabric, .red, .pwr, .nv] ch = true) (hk : Keeps ch a
    d) : Keeps ch a (startPromotion drill d) := by
  refine Keeps.step ?_ hc hk
  unfold startPromotion
  repeat' (first
      | with_reducible exact Keeps.refl _ _ | with_reducible assumption | intro _ | with_reducible apply draw_keeps
      | with_reducible apply noteRed_keeps | with_reducible apply modRed_keeps | with_reducible apply recordRole_keeps
      | with_reducible apply wakeSource_keeps | split | with_reducible refine keeps_pair (by with_reducible assumption) ?_ | dsimp only
      | (rw [restSz_fold]; refine keeps_sz (h := ?_) (e := ⟨fun f hf => by cases f <;> first | exact absurd (by decide) hf | dsimp only [DevField.Same, Chip.own]⟩) ..)
      | decide)

theorem takeOver_keeps {ch : List DevField} {a : Device} (d : Device) (hc : within [.acct, .drive, .red] ch = true) (hk : Keeps ch a d) :
    Keeps ch a (takeOver d) := by
  refine Keeps.step ?_ hc hk
  unfold takeOver
  repeat' (first
      | with_reducible exact Keeps.refl _ _ | with_reducible assumption | intro _ | dsimp only
      | (rw [restSz_fold]; refine keeps_sz (h := ?_) (e := ⟨fun f hf => by cases f <;> first | exact absurd (by decide) hf | dsimp only [DevField.Same, Chip.own]⟩) ..))

theorem promoted_keeps {ch : List DevField} {a : Device} (d : Device) (hc : within [.mbx, .vlog, .acct, .jobs, .feed, .banks, .fire,
    .drive, .cz, .dram, .lanes, .fabric, .red] ch = true) (hk : Keeps ch a d) : Keeps ch a (promoted d) := by
  refine Keeps.step ?_ hc hk
  unfold promoted
  repeat' (first
      | with_reducible exact Keeps.refl _ _ | with_reducible assumption | intro _ | with_reducible apply sendRoles_keeps
      | with_reducible apply resumePlan_keeps | with_reducible apply noteRed_keeps | with_reducible apply takeOver_keeps
      | with_reducible apply reportReady_keeps | with_reducible apply raise_keeps | with_reducible apply keeps_ite | split | dsimp only
      | decide)

theorem fence_keeps {ch : List DevField} {a : Device} (d : Device) (hc : within [.links, .drive, .lanes, .fabric, .red] ch = true) (hk :
    Keeps ch a d) : Keeps ch a (fence d) := by
  refine Keeps.step ?_ hc hk
  unfold fence
  repeat' (first
      | with_reducible exact Keeps.refl _ _ | with_reducible assumption | intro _ | with_reducible apply sendRoles_keeps
      | with_reducible apply bringAll_keeps | with_reducible apply startCal_keeps | with_reducible apply modRed_keeps | decide)

theorem commitEpoch_keeps {ch : List DevField} {a : Device} (e : U32) (r : Role) (d : Device) (hc : within [.nv] ch = true) (hk : Keeps ch
    a d) : Keeps ch a (commitEpoch e r d) := by
  refine Keeps.step ?_ hc hk
  unfold commitEpoch
  repeat' (first
      | with_reducible exact Keeps.refl _ _ | with_reducible assumption | intro _ | with_reducible apply keeps_ite | dsimp only
      | (rw [restSz_fold]; refine keeps_sz (h := ?_) (e := ⟨fun f hf => by cases f <;> first | exact absurd (by decide) hf | dsimp only [DevField.Same, Chip.own]⟩) ..))

theorem resendMaps_keeps {ch : List DevField} {a : Device} (d : Device) (hc : within [.links, .lanes] ch = true) (hk : Keeps ch a d) :
    Keeps ch a (resendMaps d) := by
  refine Keeps.step ?_ hc hk
  unfold resendMaps
  repeat' (first
      | with_reducible exact Keeps.refl _ _ | with_reducible assumption | intro _ | with_reducible apply sendMaps_keeps
      | with_reducible apply keeps_ite | with_reducible apply keeps_foldl | dsimp only | decide)

theorem startLanes_keeps {ch : List DevField} {a : Device} (d : Device) (hc : within [.lanes] ch = true) (hk : Keeps ch a d) : Keeps ch a
    (startLanes d) := by
  refine Keeps.step ?_ hc hk
  unfold startLanes
  repeat' (first
      | with_reducible exact Keeps.refl _ _ | with_reducible assumption | intro _ | split | dsimp only
      | (rw [restSz_fold]; refine keeps_sz (h := ?_) (e := ⟨fun f hf => by cases f <;> first | exact absurd (by decide) hf | dsimp only [DevField.Same, Chip.own]⟩) ..))

theorem selfTestPassed_keeps {ch : List DevField} {a : Device} (d : Device) (hc : within [.chip, .mbx, .vlog, .acct, .jobs, .feed, .banks,
    .engines, .pos, .sheet, .fire, .links, .drive, .cams, .loop, .crcs, .dram, .lanes, .fabric, .red, .pwr, .therm, .nv] ch = true) (hk :
    Keeps ch a d) : Keeps ch a (selfTestPassed d) := by
  refine Keeps.step ?_ hc hk
  unfold selfTestPassed
  repeat' (first
      | with_reducible exact Keeps.refl _ _ | with_reducible assumption | intro _ | with_reducible apply startLanes_keeps
      | with_reducible apply loadImage_keeps | with_reducible apply modRed_keeps | with_reducible apply resendMaps_keeps
      | with_reducible apply presentHead_keeps | with_reducible apply recordRole_keeps | with_reducible apply positionFails_keeps
      | with_reducible apply lockPromotion_keeps | with_reducible apply keeps_ite | with_reducible apply keeps_foldl | split | dsimp only
      | (rw [restSz_fold]; refine keeps_sz (h := ?_) (e := ⟨fun f hf => by cases f <;> first | exact absurd (by decide) hf | dsimp only [DevField.Same, Chip.own]⟩) ..)
      | decide)

theorem stateDisorder_keeps {ch : List DevField} {a : Device} (d : Device) (hc : within [.mbx, .vlog, .lanes, .fabric, .red] ch = true)
    (hk : Keeps ch a d) : Keeps ch a (stateDisorder d) := by
  refine Keeps.step ?_ hc hk
  unfold stateDisorder
  repeat' (first
      | with_reducible exact Keeps.refl _ _ | with_reducible assumption | intro _ | with_reducible apply sendNeedFull_keeps
      | with_reducible apply violation_keeps | with_reducible apply modRed_keeps | decide)

theorem commitSnap_keeps {ch : List DevField} {a : Device} (viaFabric : Bool) (c : StatePiece) (d : Device) (hc : within [.mbx, .vlog,
    .lanes, .fabric, .red] ch = true) (hk : Keeps ch a d) : Keeps ch a (commitSnap viaFabric c d) := by
  refine Keeps.step ?_ hc hk
  unfold commitSnap
  repeat' (first
      | with_reducible exact Keeps.refl _ _ | with_reducible assumption | intro _ | with_reducible apply modRed_keeps
      | with_reducible apply modMbx_keeps | with_reducible apply sendPair_keeps | with_reducible apply stateDisorder_keeps
      | with_reducible apply keeps_ite | split | dsimp only | decide)

theorem takePiece_keeps {ch : List DevField} {a : Device} (viaFabric : Bool) (p : StatePiece) (d : Device) (hc : within [.mbx, .vlog,
    .lanes, .fabric, .red] ch = true) (hk : Keeps ch a d) : Keeps ch a (takePiece viaFabric p d) := by
  refine Keeps.step ?_ hc hk
  unfold takePiece
  repeat' (first
      | with_reducible exact Keeps.refl _ _ | with_reducible assumption | intro _ | with_reducible apply commitSnap_keeps
      | with_reducible apply modRed_keeps | with_reducible apply keeps_ite | decide)

theorem takeState_keeps {ch : List DevField} {a : Device} (viaFabric : Bool) (peer : U8) (link : LinkId) (payload : List U8) (d : Device)
    (hc : within [.mbx, .vlog, .cz, .lanes, .fabric, .red] ch = true) (hk : Keeps ch a d) : Keeps ch a (takeState viaFabric peer link
    payload d) := by
  refine Keeps.step ?_ hc hk
  unfold takeState
  repeat' (first
      | with_reducible exact Keeps.refl _ _ | with_reducible assumption | intro _ | with_reducible apply violation_keeps
      | with_reducible apply dictReceive_keeps | with_reducible apply takePiece_keeps | with_reducible apply stateDisorder_keeps
      | with_reducible apply keeps_ite | with_reducible apply keeps_foldl | split
      | with_reducible refine keeps_pair (by with_reducible assumption) ?_ | dsimp only | decide)

theorem answerFull_keeps {ch : List DevField} {a : Device} (mirror : Bool) (d : Device) (hc : within [.mbx, .vlog, .cz, .dram, .lanes,
    .fabric, .red] ch = true) (hk : Keeps ch a d) : Keeps ch a (answerFull mirror d) := by
  refine Keeps.step ?_ hc hk
  unfold answerFull
  repeat' (first
      | with_reducible exact Keeps.refl _ _ | with_reducible assumption | intro _ | with_reducible apply modRed_keeps
      | with_reducible apply mirrorPass_keeps | with_reducible apply pumpMirror_keeps | with_reducible apply takeSnapshot_keeps
      | with_reducible apply keeps_ite | dsimp only | decide)

theorem noteAck_keeps {ch : List DevField} {a : Device} (n : U32) (d : Device) (hc : within [.red] ch = true) (hk : Keeps ch a d) : Keeps
    ch a (noteAck n d) := by
  refine Keeps.step ?_ hc hk
  unfold noteAck
  repeat' (first
      | with_reducible exact Keeps.refl _ _ | with_reducible assumption | intro _ | with_reducible apply snapAcked_keeps
      | with_reducible apply modRed_keeps | split | dsimp only | decide)

theorem tick_keeps {ch : List DevField} {a : Device} (d : Device) (hc : within [.chip, .mbx, .vlog, .feed, .banks, .engines, .pos, .links,
    .adapters, .drive, .cams, .loop, .cz, .crcs, .dram, .lanes, .fabric, .red, .pwr, .nv] ch = true) (hk : Keeps ch a d) : Keeps ch a
    (tick d) := by
  refine Keeps.step ?_ hc hk
  unfold tick
  repeat' (first
      | with_reducible exact Keeps.refl _ _ | with_reducible assumption | intro _ | with_reducible apply powerStep_keeps
      | with_reducible apply tickCore_keeps | with_reducible apply refreshPath_keeps | with_reducible apply reportWatch_keeps
      | with_reducible apply keeps_ite | dsimp only | decide)

end Sys2Proof.Machine
end

