-- ==== Sys2Proof/Laws/FrameWires.lean ====
section
/-! SUPPORT. One lemma per operation over a device: the fields that the operations of the fabric, DRAM, drive, lanes, guard and transports may change. -/
namespace Sys2Proof.Machine

/-! Forager.lean -/

theorem postWrite_keeps {ch : List DevField} {a : Device} (host dev len : ℕ) (d : Device) (hc : within [.mbx, .vlog, .dram] ch = true) (hk
    : Keeps ch a d) : Keeps ch a (postWrite host dev len d) := by
  refine Keeps.step ?_ hc hk
  unfold postWrite
  repeat' (first
      | with_reducible exact Keeps.refl _ _ | with_reducible assumption | intro _ | with_reducible apply dramSee_keeps
      | with_reducible apply modMbx_keeps | dsimp only
      | (rw [restSz_fold]; refine keeps_sz (h := ?_) (e := ⟨fun f hf => by cases f <;> first | exact absurd (by decide) hf | dsimp only [DevField.Same, Chip.own]⟩) ..)
      | decide)

theorem issuePiece_keeps {ch : List DevField} {a : Device} (j : ForagerJob) (x : ℕ × ℕ × ℕ × ℕ × Bool) (b : Fin 64) (d : Device) (hc :
    within [.mbx, .vlog, .dram] ch = true) (hk : Keeps ch a d) : Keeps ch a (issuePiece j x b d) := by
  refine Keeps.step ?_ hc hk
  unfold issuePiece
  repeat' (first
      | with_reducible exact Keeps.refl _ _ | with_reducible assumption | intro _ | with_reducible apply modMbx_keeps
      | with_reducible apply postWrite_keeps | with_reducible apply keeps_ite | split | dsimp only | decide)

theorem issueReads_keeps {ch : List DevField} {a : Device} (fuel : ℕ) (d : Device) (hc : within [.mbx, .vlog, .dram] ch = true) (hk :
    Keeps ch a d) : Keeps ch a (issueReads fuel d) := by
  refine Keeps.step ?_ hc hk
  clear hk hc a
  induction fuel generalizing d with
  | zero => exact Keeps.refl _ _
  | succ k ih =>
    unfold issueReads
    repeat' (first
        | with_reducible exact Keeps.refl _ _ | with_reducible assumption | intro _ | with_reducible refine Keeps.trans ?_ (ih ..)
        | with_reducible apply issuePiece_keeps | with_reducible apply keeps_ite | split | dsimp only | decide)

theorem issueAll_keeps {ch : List DevField} {a : Device} (d : Device) (hc : within [.mbx, .vlog, .dram] ch = true) (hk : Keeps ch a d) :
    Keeps ch a (issueAll d) := by
  refine Keeps.step ?_ hc hk
  unfold issueAll
  repeat' (first
      | with_reducible exact Keeps.refl _ _ | with_reducible assumption | intro _ | with_reducible apply issueReads_keeps | decide)

theorem endForager_keeps {ch : List DevField} {a : Device} (j : ForagerJob) (d : Device) (hc : within [.mbx, .vlog, .lanes, .fabric] ch =
    true) (hk : Keeps ch a d) : Keeps ch a (endForager j d) := by
  refine Keeps.step ?_ hc hk
  unfold endForager
  repeat' (first
      | with_reducible exact Keeps.refl _ _ | with_reducible assumption | intro _ | with_reducible apply modMbx_keeps
      | with_reducible apply finishSeq_keeps | with_reducible apply takeSrcSeq_keeps | with_reducible apply sendTo_keeps
      | with_reducible apply keeps_ite | split | with_reducible refine keeps_pair (by with_reducible assumption) ?_ | dsimp only | decide)

theorem resumeForager_keeps {ch : List DevField} {a : Device} (d : Device) (hc : within [.mbx, .vlog, .dram, .lanes, .fabric] ch = true)
    (hk : Keeps ch a d) : Keeps ch a (resumeForager d) := by
  refine Keeps.step ?_ hc hk
  unfold resumeForager
  repeat' (first
      | with_reducible exact Keeps.refl _ _ | with_reducible assumption | intro _ | with_reducible apply issueAll_keeps
      | with_reducible apply endForager_keeps | with_reducible apply keeps_foldl | dsimp only | decide)

theorem postAll_keeps {ch : List DevField} {a : Device} (l : List (ℕ × ℕ × ℕ × ℕ × Bool)) (d : Device) (hc : within [.mbx, .vlog, .dram]
    ch = true) (hk : Keeps ch a d) : Keeps ch a (postAll l d).2 := by
  refine Keeps.step ?_ hc hk
  clear hk hc a
  induction l generalizing d with
  | nil => exact Keeps.refl _ _
  | cons y l ih =>
    unfold postAll
    repeat' (first
        | with_reducible exact Keeps.refl _ _ | with_reducible assumption | intro _ | with_reducible refine Keeps.trans ?_ (ih ..)
        | with_reducible apply postWrite_keeps | split | dsimp only | decide)

theorem startForager_keeps {ch : List DevField} {a : Device} (j : ForagerJob) (d : Device) (hc : within [.mbx, .vlog, .dram] ch = true)
    (hk : Keeps ch a d) : DoneKeeps ch a (startForager j d) := by
  refine doneKeeps_step ?_ hc hk
  unfold startForager
  repeat' (first
      | with_reducible exact Keeps.refl _ _ | with_reducible assumption | intro _ | with_reducible apply issueAll_keeps
      | with_reducible apply modMbx_keeps | with_reducible apply poisoned_keeps | with_reducible apply doneKeeps_ite
      | with_reducible apply doneKeeps_reply | with_reducible apply doneKeeps_later | split | dsimp only | decide)

/-! Fabric.lean -/

theorem laneViolation_keeps {ch : List DevField} {a : Device} (code : U8) (p : Port) (k : Fin 2) (ans : BitVec 2) (d : Device) (hc :
    within [.mbx, .vlog, .lanes, .fabric] ch = true) (hk : Keeps ch a d) : Keeps ch a (laneViolation code p k ans d) := by
  refine Keeps.step ?_ hc hk
  unfold laneViolation
  repeat' (first
      | with_reducible exact Keeps.refl _ _ | with_reducible assumption | intro _ | with_reducible apply violation_keeps | decide)

theorem takeLink_keeps {ch : List DevField} {a : Device} (p : Port) (sub : ℕ) (payload : List U8) (x : FrameEnd) (d : Device) (hc : within
    [.mbx, .vlog, .lanes, .fabric] ch = true) (hk : Keeps ch a d) : Keeps ch a (takeLink p sub payload x d).2 := by
  refine Keeps.step ?_ hc hk
  unfold takeLink
  repeat' (first
      | with_reducible exact Keeps.refl _ _ | with_reducible assumption | intro _ | with_reducible apply portActive_keeps
      | with_reducible apply laneViolation_keeps | with_reducible apply keeps_ite_snd | dsimp only | decide)

theorem fabReinit_keeps {ch : List DevField} {a : Device} (code : U8) (p : Port) (d : Device) (hc : within [.mbx, .vlog, .links,
    .adapters, .cz, .lanes, .fabric, .red] ch = true) (hk : Keeps ch a d) : Keeps ch a (fabReinit code p d) := by
  refine Keeps.step ?_ hc hk
  unfold fabReinit
  repeat' (first
      | with_reducible exact Keeps.refl _ _ | with_reducible assumption | intro _ | with_reducible apply reinitPort_keeps
      | with_reducible apply fabViolation_keeps | decide)

theorem auditReply_keeps {ch : List DevField} {a : Device} (p : Port) (mark : U16) (d : Device) (hc : within [.lanes, .fabric] ch = true)
    (hk : Keeps ch a d) : Keeps ch a (auditReply p mark d) := by
  refine Keeps.step ?_ hc hk
  unfold auditReply
  repeat' (first
      | with_reducible exact Keeps.refl _ _ | with_reducible assumption | intro _ | with_reducible apply linkSend_keeps
      | with_reducible apply modPort_keeps | decide)

theorem checkAudit_keeps {ch : List DevField} {a : Device} (p : Port) (mark : U16) (cSent : List U32) (d : Device) (hc : within [.mbx,
    .vlog, .links, .adapters, .cz, .lanes, .fabric, .red] ch = true) (hk : Keeps ch a d) : Keeps ch a (checkAudit p mark cSent d) := by
  refine Keeps.step ?_ hc hk
  unfold checkAudit
  repeat' (first
      | with_reducible exact Keeps.refl _ _ | with_reducible assumption | intro _ | with_reducible apply auditReply_keeps
      | with_reducible apply modPort_keeps | with_reducible apply fabReinit_keeps | with_reducible apply keeps_ite | dsimp only | decide)

theorem waggleAcked_keeps {ch : List DevField} {a : Device} (ack : U16) (d : Device) (hc : within [.mbx, .vlog, .dram, .lanes, .fabric,
    .red] ch = true) (hk : Keeps ch a d) : Keeps ch a (waggleAcked ack d) := by
  refine Keeps.step ?_ hc hk
  unfold waggleAcked
  repeat' (first
      | with_reducible exact Keeps.refl _ _ | with_reducible assumption | intro _ | with_reducible apply modRed_keeps
      | with_reducible apply popMirror_keeps | with_reducible apply noteAck_keeps | with_reducible apply pumpMirror_keeps
      | with_reducible apply pumpWaggle_keeps | with_reducible apply keeps_ite | split | dsimp only | decide)

theorem takeShort_keeps {ch : List DevField} {a : Device} (kind : ℕ) (seq : U16) (x : FrameEnd) (d : Device) (hc : within [.mbx, .vlog,
    .lanes, .fabric] ch = true) (hk : Keeps ch a d) : Keeps ch a (takeShort kind seq x d).2 := by
  refine Keeps.step ?_ hc hk
  unfold takeShort
  repeat' (first
      | with_reducible exact Keeps.refl _ _ | with_reducible assumption | intro _ | with_reducible apply rxActive_keeps
      | with_reducible apply violation_keeps | with_reducible apply keeps_ite_snd | dsimp only | decide)

theorem replayPort_keeps {ch : List DevField} {a : Device} (p : Port) (from_ : U16) (d : Device) (hc : within [.lanes, .fabric] ch = true)
    (hk : Keeps ch a d) : Keeps ch a (replayPort p from_ d) := by
  refine Keeps.step ?_ hc hk
  unfold replayPort
  repeat' (first
      | with_reducible exact Keeps.refl _ _ | with_reducible assumption | intro _ | with_reducible apply pumpPort_keeps
      | with_reducible apply modPort_keeps | with_reducible apply keeps_ite | dsimp only | decide)

theorem replayWaggle_keeps {ch : List DevField} {a : Device} (from_ : U16) (d : Device) (hc : within [.lanes, .red] ch = true) (hk : Keeps
    ch a d) : Keeps ch a (replayWaggle from_ d) := by
  refine Keeps.step ?_ hc hk
  unfold replayWaggle
  repeat' (first
      | with_reducible exact Keeps.refl _ _ | with_reducible assumption | intro _ | with_reducible apply wagPut_keeps
      | with_reducible apply modRed_keeps | with_reducible apply keeps_ite | dsimp only | decide)

theorem takeJobData_keeps {ch : List DevField} {a : Device} (f : DataFrame) (d : Device) (hc : within [.mbx, .vlog, .dram, .lanes,
    .fabric, .red] ch = true) (hk : Keeps ch a d) : Keeps ch a (takeJobData f d) := by
  refine Keeps.step ?_ hc hk
  unfold takeJobData
  repeat' (first
      | with_reducible exact Keeps.refl _ _ | with_reducible assumption | intro _ | with_reducible apply dramWrite_keeps
      | with_reducible apply modRed_keeps | with_reducible apply sendUnreachable_keeps | with_reducible apply keeps_ite | dsimp only
      | decide)

theorem takeEcho_keeps {ch : List DevField} {a : Device} (f : DataFrame) (d : Device) (hc : within [.mbx, .vlog, .lanes, .fabric] ch =
    true) (hk : Keeps ch a d) : Keeps ch a (takeEcho f d) := by
  refine Keeps.step ?_ hc hk
  unfold takeEcho
  repeat' (first
      | with_reducible exact Keeps.refl _ _ | with_reducible assumption | intro _ | with_reducible apply finishWork_keeps
      | with_reducible apply modFabric_keeps | with_reducible apply sendTo_keeps | with_reducible apply keeps_ite
      | with_reducible refine keeps_pair (by with_reducible assumption) ?_ | dsimp only | decide)

theorem takeFragment_keeps {ch : List DevField} {a : Device} (f : DataFrame) (d : Device) (hc : within [.fabric] ch = true) (hk : Keeps ch
    a d) : Keeps ch a (takeFragment f d) := by
  refine Keeps.step ?_ hc hk
  unfold takeFragment
  repeat' (first
      | with_reducible exact Keeps.refl _ _ | with_reducible assumption | intro _ | with_reducible apply modFabric_keeps | split
      | dsimp only | decide)

theorem takeMessage_keeps {ch : List DevField} {a : Device} (f : DataFrame) (d : Device) (hc : within [.mbx, .vlog, .dram, .lanes,
    .fabric, .red] ch = true) (hk : Keeps ch a d) : Keeps ch a (takeMessage f d) := by
  refine Keeps.step ?_ hc hk
  unfold takeMessage
  repeat' (first
      | with_reducible exact Keeps.refl _ _ | with_reducible assumption | intro _ | with_reducible apply takeJobData_keeps
      | with_reducible apply takeEcho_keeps | with_reducible apply modFabric_keeps | with_reducible apply takeFragment_keeps
      | with_reducible apply keeps_ite | dsimp only | decide)

theorem modFlow_keeps {ch : List DevField} {a : Device} (d : Device) (src : U8) (vc : Vc) (dest : DestKind) (g : SrcFlow → SrcFlow) (hc :
    within [.fabric] ch = true) (hk : Keeps ch a d) : Keeps ch a (modFlow d src vc dest g) := by
  refine Keeps.step ?_ hc hk
  unfold modFlow
  repeat' (first
      | with_reducible exact Keeps.refl _ _ | with_reducible assumption | intro _ | with_reducible apply modFabric_keeps | decide)

theorem deliverFrame_keeps {ch : List DevField} {a : Device} (src : Option Port) (f : DataFrame) (d : Device) (hc : within [.mbx, .vlog,
    .dram, .lanes, .fabric, .red] ch = true) (hk : Keeps ch a d) : Keeps ch a (deliverFrame src f d) := by
  refine Keeps.step ?_ hc hk
  unfold deliverFrame
  repeat' (first
      | with_reducible exact Keeps.refl _ _ | with_reducible assumption | intro _ | with_reducible apply releaseFrame_keeps
      | with_reducible apply takeMessage_keeps | decide)

theorem drainFlow_keeps {ch : List DevField} {a : Device} (src : U8) (vc : Vc) (dest : DestKind) (fuel : ℕ) (d : Device) (hc : within
    [.mbx, .vlog, .dram, .lanes, .fabric, .red] ch = true) (hk : Keeps ch a d) : Keeps ch a (drainFlow src vc dest fuel d) := by
  refine Keeps.step ?_ hc hk
  clear hk hc a
  induction fuel generalizing src vc dest d with
  | zero => exact Keeps.refl _ _
  | succ k ih =>
    unfold drainFlow
    repeat' (first
        | with_reducible exact Keeps.refl _ _ | with_reducible assumption | intro _ | with_reducible refine Keeps.trans ?_ (ih ..)
        | with_reducible apply deliverFrame_keeps | with_reducible apply modFlow_keeps | split | dsimp only | decide)

theorem deliverInOrder_keeps {ch : List DevField} {a : Device} (p : Port) (f : DataFrame) (d : Device) (hc : within [.mbx, .vlog, .dram,
    .lanes, .fabric, .red] ch = true) (hk : Keeps ch a d) : Keeps ch a (deliverInOrder p f d) := by
  refine Keeps.step ?_ hc hk
  unfold deliverInOrder
  repeat' (first
      | with_reducible exact Keeps.refl _ _ | with_reducible assumption | intro _ | with_reducible apply deliverFrame_keeps
      | with_reducible apply modFabric_keeps | with_reducible apply modFlow_keeps | with_reducible apply drainFlow_keeps
      | with_reducible apply releaseFrame_keeps | with_reducible apply keeps_ite | split | dsimp only | decide)

theorem timingGap_keeps {ch : List DevField} {a : Device} (p : Option Port) (d : Device) (hc : within [.mbx, .vlog, .jobs, .lanes,
    .fabric] ch = true) (hk : Keeps ch a d) : Keeps ch a (timingGap p d) := by
  refine Keeps.step ?_ hc hk
  unfold timingGap
  repeat' (first
      | with_reducible exact Keeps.refl _ _ | with_reducible assumption | intro _ | with_reducible apply fabViolation_keeps
      | with_reducible apply keeps_ite | split | dsimp only
      | (rw [restSz_fold]; refine keeps_sz (h := ?_) (e := ⟨fun f hf => by cases f <;> first | exact absurd (by decide) hf | dsimp only [DevField.Same, Chip.own]⟩) ..)
      | decide)

theorem gapEffects_keeps {ch : List DevField} {a : Device} (src : U8) (vc : Vc) (p : Option Port) (d : Device) (hc : within [.mbx, .vlog,
    .jobs, .lanes, .fabric, .red] ch = true) (hk : Keeps ch a d) : Keeps ch a (gapEffects src vc p d) := by
  refine Keeps.step ?_ hc hk
  unfold gapEffects
  repeat' (first
      | with_reducible exact Keeps.refl _ _ | with_reducible assumption | intro _ | with_reducible apply timingGap_keeps
      | with_reducible apply sendNeedFull_keeps | with_reducible apply modRed_keeps | with_reducible apply modFabric_keeps
      | with_reducible apply keeps_ite | split | dsimp only | decide)

theorem nakData_keeps {ch : List DevField} {a : Device} (p : Port) (logged : Device → Device) (d : Device) (hc : within [.lanes, .fabric] ch = true)
    (hl : ∀ d, Keeps ch d (logged d)) (hk : Keeps ch a d) : Keeps ch a (nakData p logged d) :=
  keeps_ite hk (linkSend_keeps _ _ _ (within_trans (by decide) hc)
    ((modPort_keeps _ _ _ (within_trans (by decide) hc) hk).trans (hl _)))

theorem noRoute_keeps {ch : List DevField} {a : Device} (p : Port) (f : DataFrame) (d : Device) (hc : within [.mbx, .vlog, .lanes,
    .fabric] ch = true) (hk : Keeps ch a d) : Keeps ch a (noRoute p f d) := by
  refine Keeps.step ?_ hc hk
  unfold noRoute
  repeat' (first
      | with_reducible exact Keeps.refl _ _ | with_reducible assumption | intro _ | with_reducible apply releaseFrame_keeps
      | with_reducible apply sendUnreachable_keeps | with_reducible apply fabViolation_keeps | decide)

theorem passOn_keeps {ch : List DevField} {a : Device} (p : Port) (out : Option Port) (f : DataFrame) (d : Device) (hc : within [.mbx,
    .vlog, .lanes, .fabric] ch = true) (hk : Keeps ch a d) : Keeps ch a (passOn p out f d) := by
  refine Keeps.step ?_ hc hk
  unfold passOn
  repeat' (first
      | with_reducible exact Keeps.refl _ _ | with_reducible assumption | intro _ | with_reducible apply forwardOn_keeps
      | with_reducible apply noRoute_keeps | split | dsimp only | decide)

theorem noteJoinPort_keeps {ch : List DevField} {a : Device} (u : U64) (p : Port) (d : Device) (hc : within [.fabric] ch = true) (hk :
    Keeps ch a d) : Keeps ch a (noteJoinPort u p d) := by
  refine Keeps.step ?_ hc hk
  unfold noteJoinPort
  repeat' (first
      | with_reducible exact Keeps.refl _ _ | with_reducible assumption | intro _ | with_reducible apply modFabric_keeps | decide)

theorem passAssign_keeps {ch : List DevField} {a : Device} (p : Port) (f : DataFrame) (d : Device) (hc : within [.mbx, .vlog, .lanes,
    .fabric] ch = true) (hk : Keeps ch a d) : Keeps ch a (passAssign p f d) := by
  refine Keeps.step ?_ hc hk
  unfold passAssign
  repeat' (first
      | with_reducible exact Keeps.refl _ _ | with_reducible assumption | intro _ | with_reducible apply passOn_keeps
      | with_reducible apply releaseFrame_keeps | split | dsimp only | decide)

theorem takeDestZero_keeps {ch : List DevField} {a : Device} (p : Port) (f : DataFrame) (d : Device) (hc : within [.mbx, .vlog, .dram,
    .lanes, .fabric, .red] ch = true) (hk : Keeps ch a d) : Keeps ch a (takeDestZero p f d) := by
  refine Keeps.step ?_ hc hk
  unfold takeDestZero
  repeat' (first
      | with_reducible exact Keeps.refl _ _ | with_reducible assumption | intro _ | with_reducible apply passAssign_keeps
      | with_reducible apply deliverInOrder_keeps | with_reducible apply noRoute_keeps | with_reducible apply passOn_keeps
      | with_reducible apply noteJoinPort_keeps | with_reducible apply keeps_ite | decide)

theorem routeFrame_keeps {ch : List DevField} {a : Device} (p : Port) (k : Fin 2) (f : DataFrame) (d : Device) (hc : within [.mbx, .vlog,
    .dram, .lanes, .fabric, .red] ch = true) (hk : Keeps ch a d) : Keeps ch a (routeFrame p k f d) := by
  refine Keeps.step ?_ hc hk
  unfold routeFrame
  repeat' (first
      | with_reducible exact Keeps.refl _ _ | with_reducible assumption | intro _ | with_reducible apply releaseFrame_keeps
      | with_reducible apply laneViolation_keeps | with_reducible apply fabViolation_keeps | with_reducible apply deliverInOrder_keeps
      | with_reducible apply floodExcept_keeps | with_reducible apply takeDestZero_keeps | with_reducible apply noRoute_keeps
      | with_reducible apply passOn_keeps | with_reducible apply keeps_ite | dsimp only | decide)

theorem acceptFrame_keeps {ch : List DevField} {a : Device} (p : Port) (k : Fin 2) (f : DataFrame) (d : Device) (hc : within [.mbx, .vlog,
    .links, .adapters, .cz, .dram, .lanes, .fabric, .red] ch = true) (hk : Keeps ch a d) : Keeps ch a (acceptFrame p k f d) := by
  refine Keeps.step ?_ hc hk
  unfold acceptFrame
  repeat' (first
      | with_reducible exact Keeps.refl _ _ | with_reducible assumption | intro _ | with_reducible apply modPort_keeps
      | with_reducible apply fabReinit_keeps | with_reducible apply checkAudit_keeps | with_reducible apply routeFrame_keeps
      | with_reducible apply keeps_ite | split | dsimp only | decide)

theorem badFrame_keeps {ch : List DevField} {a : Device} (p : Port) (k : Fin 2) (f : DataFrame) (d : Device) (hc : within [.mbx, .vlog,
    .lanes, .fabric] ch = true) (hk : Keeps ch a d) : Keeps ch a (badFrame p k f d) := by
  refine Keeps.step ?_ hc hk
  unfold badFrame
  repeat' (first
      | with_reducible exact Keeps.refl _ _ | with_reducible assumption | intro _ | with_reducible apply laneViolation_keeps
      | with_reducible apply keeps_ite | dsimp only | decide)

theorem lockAfter_keeps {ch : List DevField} {a : Device} (o : ℤ) (d : Device) (hc : within [.mbx, .vlog, .lanes, .fabric] ch = true) (hk
    : Keeps ch a d) : Keeps ch a (lockAfter o d) := by
  refine Keeps.step ?_ hc hk
  unfold lockAfter
  repeat' (first
      | with_reducible exact Keeps.refl _ _ | with_reducible assumption | intro _ | with_reducible apply modFabric_keeps
      | with_reducible apply raise_keeps | with_reducible apply keeps_ite | dsimp only | decide)

theorem adjustTime_keeps {ch : List DevField} {a : Device} (o : ℤ) (d : Device) (hc : within [.chip, .fabric] ch = true) (hk : Keeps ch a
    d) : Keeps ch a (adjustTime o d) := by
  refine Keeps.step ?_ hc hk
  unfold adjustTime
  repeat' (first
      | with_reducible exact Keeps.refl _ _ | with_reducible assumption | intro _ | with_reducible apply modFabric_keeps
      | with_reducible apply keeps_ite | dsimp only
      | (rw [restSz_fold]; refine keeps_sz (h := ?_) (e := ⟨fun f hf => by cases f <;> first | exact absurd (by decide) hf | dsimp only [DevField.Same, Chip.own]⟩) ..)
      | decide)

theorem leaveLink_keeps {ch : List DevField} {a : Device} (block : BitVec 5) (source : U16) (d : Device) (hc : within [.mbx, .vlog, .links, .cz, .dram, .lanes, .fabric, .red] ch = true) (hk : Keeps ch a d) : Keeps ch a (leaveLink block source d) := by
  refine Keeps.step ?_ hc hk
  unfold leaveLink
  repeat' (first
      | with_reducible exact Keeps.refl _ _ | with_reducible assumption | intro _ | with_reducible apply headAbsent_keeps
      | with_reducible apply portDown_keeps | with_reducible apply refreshPath_keeps | with_reducible apply waggleDown_keeps
      | with_reducible apply keeps_ite | with_reducible apply doneKeeps_ite | with_reducible apply keeps_foldl | split
      | with_reducible refine keeps_pair (by with_reducible assumption) ?_
      | with_reducible refine keeps_opt (by with_reducible assumption) ?_ | dsimp only | decide)

/-! Discovery.lean -/

theorem takeHello_keeps {ch : List DevField} {a : Device} (p : Port) (m : Hello) (d : Device) (hc : within [.mbx, .vlog, .lanes, .fabric]
    ch = true) (hk : Keeps ch a d) : Keeps ch a (takeHello p m d) := by
  refine Keeps.step ?_ hc hk
  unfold takeHello
  repeat' (first
      | with_reducible exact Keeps.refl _ _ | with_reducible assumption | intro _ | with_reducible apply modPort_keeps
      | with_reducible apply updateCand_keeps | with_reducible apply beginDiscovery_keeps | with_reducible apply modFabric_keeps
      | with_reducible apply reportLink_keeps | with_reducible apply sendJoin_keeps | with_reducible apply keeps_ite | split | dsimp only
      | decide)

theorem rootJoin_keeps {ch : List DevField} {a : Device} (p : Port) (m : Join) (d : Device) (hc : within [.mbx, .vlog, .lanes, .fabric] ch
    = true) (hk : Keeps ch a d) : Keeps ch a (rootJoin p m d) := by
  refine Keeps.step ?_ hc hk
  unfold rootJoin
  repeat' (first
      | with_reducible exact Keeps.refl _ _ | with_reducible assumption | intro _ | with_reducible apply modFabric_keeps
      | with_reducible apply rerouted_keeps | with_reducible apply sendAssign_keeps | with_reducible apply noteJoinPort_keeps
      | with_reducible apply beginDiscovery_keeps | with_reducible apply keeps_ite | split | dsimp only | decide)

theorem takeNode_keeps {ch : List DevField} {a : Device} (n : U8) (d : Device) (hc : within [.fabric, .nv] ch = true) (hk : Keeps ch a d)
    : Keeps ch a (takeNode n d) := by
  refine Keeps.step ?_ hc hk
  unfold takeNode
  repeat' (first
      | with_reducible exact Keeps.refl _ _ | with_reducible assumption | intro _ | with_reducible apply journalAppend_keeps
      | with_reducible apply modFabric_keeps | with_reducible apply keeps_ite | split | dsimp only | decide)

theorem dropRole_keeps {ch : List DevField} {a : Device} (k : Fin 3) (d : Device) (hc : within [.mbx, .pos] ch = true) (hk : Keeps ch a d)
    : Keeps ch a (dropRole k d) := by
  refine Keeps.step ?_ hc hk
  unfold dropRole
  repeat' (first
      | with_reducible exact Keeps.refl _ _ | with_reducible assumption | intro _ | with_reducible apply modMbx_keeps
      | with_reducible apply keeps_ite
      | (rw [restSz_fold]; refine keeps_sz (h := ?_) (e := ⟨fun f hf => by cases f <;> first | exact absurd (by decide) hf | dsimp only [DevField.Same, Chip.own]⟩) ..)
      | decide)

theorem claimRole_keeps {ch : List DevField} {a : Device} (m : RoleMsg) (d : Device) (k : Fin 3) (hc : within [.mbx, .vlog, .pos, .lanes,
    .fabric] ch = true) (hk : Keeps ch a d) : Keeps ch a (claimRole m d k) := by
  refine Keeps.step ?_ hc hk
  unfold claimRole
  repeat' (first
      | with_reducible exact Keeps.refl _ _ | with_reducible assumption | intro _ | with_reducible apply modFabric_keeps
      | with_reducible apply sendRoles_keeps | with_reducible apply dropRole_keeps | with_reducible apply raise_keeps
      | with_reducible apply keeps_ite | split | dsimp only | decide)

theorem leaveRole_keeps {ch : List DevField} {a : Device} (m : RoleMsg) (d : Device) (k : Fin 3) (hc : within [.fabric] ch = true) (hk :
    Keeps ch a d) : Keeps ch a (leaveRole m d k) := by
  refine Keeps.step ?_ hc hk
  unfold leaveRole
  repeat' (first
      | with_reducible exact Keeps.refl _ _ | with_reducible assumption | intro _ | with_reducible apply modFabric_keeps
      | with_reducible apply keeps_ite | split | dsimp only | decide)

theorem noteMaster_keeps {ch : List DevField} {a : Device} (m : RoleMsg) (d : Device) (hc : within [.fabric] ch = true) (hk : Keeps ch a
    d) : Keeps ch a (noteMaster m d) := by
  refine Keeps.step ?_ hc hk
  unfold noteMaster
  repeat' (first
      | with_reducible exact Keeps.refl _ _ | with_reducible assumption | intro _ | with_reducible apply modFabric_keeps
      | with_reducible apply keeps_ite | split | dsimp only | decide)

theorem takeRoles_keeps {ch : List DevField} {a : Device} (m : RoleMsg) (d : Device) (hc : within [.chip, .mbx, .vlog, .acct, .jobs,
    .banks, .engines, .pos, .sheet, .fire, .links, .loop, .cz, .lanes, .fabric, .red, .nv] ch = true) (hk : Keeps ch a d) : Keeps ch a
    (takeRoles m d) := by
  refine Keeps.step ?_ hc hk
  unfold takeRoles
  repeat' (first
      | with_reducible exact Keeps.refl _ _ | with_reducible assumption | intro _ | with_reducible apply modFabric_keeps
      | with_reducible apply demote_keeps | with_reducible apply noteMaster_keeps | with_reducible apply positionFails_keeps
      | with_reducible apply claimRole_keeps | with_reducible apply leaveRole_keeps | with_reducible apply keeps_ite | split | dsimp only
      | decide)

theorem applyPortCfg_keeps {ch : List DevField} {a : Device} (p : Port) (d : Device) (hc : within [.fabric] ch = true) (hk : Keeps ch a d)
    : Keeps ch a (applyPortCfg p d) := by
  refine Keeps.step ?_ hc hk
  unfold applyPortCfg
  repeat' (first
      | with_reducible exact Keeps.refl _ _ | with_reducible assumption | intro _ | with_reducible apply modPort_keeps | split
      | dsimp only | decide)

theorem enablePort_keeps {ch : List DevField} {a : Device} (p : Port) (d : Device) (hc : within [.lanes, .fabric] ch = true) (hk : Keeps
    ch a d) : Keeps ch a (enablePort p d) := by
  refine Keeps.step ?_ hc hk
  unfold enablePort
  repeat' (first
      | with_reducible exact Keeps.refl _ _ | with_reducible assumption | intro _ | with_reducible apply modLane_keeps
      | with_reducible apply applyPortCfg_keeps | with_reducible apply keeps_ite | with_reducible apply keeps_foldl | decide)

/-! Dram.lean -/

theorem correctedError_keeps {ch : List DevField} {a₀ : Device} (a source : ℕ) (d : Device) (hc : within [.vlog, .dram] ch = true) (hk :
    Keeps ch a₀ d) : Keeps ch a₀ (correctedError a source d) := by
  refine Keeps.step ?_ hc hk
  unfold correctedError
  repeat' (first
      | with_reducible exact Keeps.refl _ _ | with_reducible assumption | intro _ | with_reducible apply modDiag_keeps
      | with_reducible apply memError_keeps | with_reducible apply modDram_keeps | dsimp only | decide)

theorem uncorrectableError_keeps {ch : List DevField} {a₀ : Device} (gs : List ℕ) (a source : ℕ) (d : Device) (hc : within [.mbx, .vlog,
    .dram, .lanes, .fabric] ch = true) (hk : Keeps ch a₀ d) : Keeps ch a₀ (uncorrectableError gs a source d) := by
  refine Keeps.step ?_ hc hk
  unfold uncorrectableError
  repeat' (first
      | with_reducible exact Keeps.refl _ _ | with_reducible assumption | intro _ | with_reducible apply modDiag_keeps
      | with_reducible apply modDram_keeps | with_reducible apply raise_keeps | with_reducible apply memError_keeps | dsimp only | decide)

theorem checkFault_keeps {ch : List DevField} {a : Device} (f : CheckFault) (g source : ℕ) (d : Device) (hc : within [.mbx, .vlog, .dram,
    .lanes, .fabric] ch = true) (hk : Keeps ch a d) : Keeps ch a (checkFault f g source d) := by
  refine Keeps.step ?_ hc hk
  unfold checkFault
  repeat' (first
      | with_reducible exact Keeps.refl _ _ | with_reducible assumption | intro _ | with_reducible apply correctedError_keeps
      | with_reducible apply uncorrectableError_keeps | split | dsimp only | decide)

theorem serve_keeps {ch : List DevField} {a : Device} (r : DramReq) (d : Device) (hc : within [.chip, .mbx, .vlog, .dram, .lanes, .fabric,
    .red] ch = true) (hk : Keeps ch a d) : Keeps ch a (serve r d) := by
  refine Keeps.step ?_ hc hk
  unfold serve
  repeat' (first
      | with_reducible exact Keeps.refl _ _ | with_reducible assumption | intro _ | with_reducible apply checkFault_keeps
      | with_reducible apply pumpMirror_keeps | with_reducible apply dramPut_keeps | with_reducible apply touch_keeps
      | with_reducible apply completeRead_keeps | with_reducible apply keeps_ite | with_reducible apply keeps_foldl | split | dsimp only
      | decide)

theorem releaseRequests_keeps {ch : List DevField} {a : Device} (d : Device) (hc : within [.chip, .mbx, .vlog, .acct, .jobs, .feed, .cz,
    .dram, .lanes, .fabric, .red] ch = true) (hk : Keeps ch a d) : Keeps ch a (releaseRequests d) := by
  refine Keeps.step ?_ hc hk
  unfold releaseRequests
  repeat' (first
      | with_reducible exact Keeps.refl _ _ | with_reducible assumption | intro _ | with_reducible apply modDram_keeps
      | with_reducible apply serve_keeps | with_reducible apply resumeForager_keeps | with_reducible apply resumeTiles_keeps
      | with_reducible apply finish_keeps | with_reducible apply keeps_ite | with_reducible apply keeps_foldl | split | dsimp only
      | decide)

theorem startMemWork_keeps {ch : List DevField} {a : Device} (w : MemWork) (late : Bool) (d : Device) (hc : within [.dram] ch = true) (hk
    : Keeps ch a d) : Keeps ch a (startMemWork w late d) := by
  refine Keeps.step ?_ hc hk
  unfold startMemWork
  repeat' (first
      | with_reducible exact Keeps.refl _ _ | with_reducible assumption | intro _ | with_reducible apply modDram_keeps
      | with_reducible apply draw_keeps | split | with_reducible refine keeps_pair (by with_reducible assumption) ?_ | dsimp only | decide)

theorem answerWork_keeps {ch : List DevField} {a : Device} (w : MemWork) (r : Reply) (d : Device) (hc : within [.mbx, .vlog, .lanes,
    .fabric] ch = true) (hk : Keeps ch a d) : Keeps ch a (answerWork w r d) := by
  refine Keeps.step ?_ hc hk
  unfold answerWork
  repeat' (first
      | with_reducible exact Keeps.refl _ _ | with_reducible assumption | intro _ | with_reducible apply finishWork_keeps
      | with_reducible apply keeps_ite | split | dsimp only | decide)

theorem endSweep_keeps {ch : List DevField} {a : Device} (d : Device) (hc : within [.chip, .mbx, .vlog, .acct, .jobs, .feed, .cz, .dram,
    .lanes, .fabric, .red] ch = true) (hk : Keeps ch a d) : Keeps ch a (endSweep d) := by
  refine Keeps.step ?_ hc hk
  unfold endSweep
  repeat' (first
      | with_reducible exact Keeps.refl _ _ | with_reducible assumption | intro _ | with_reducible apply modDram_keeps
      | with_reducible apply raise_keeps | with_reducible apply releaseRequests_keeps | with_reducible apply finishWork_keeps
      | with_reducible apply startMemWork_keeps | with_reducible apply keeps_ite | split | dsimp only | decide)

theorem pointPasses_keeps {ch : List DevField} {a : Device} (w : MemWork) (p : Fin 3) (new : Option TrainResult) (d : Device) (hc : within
    [.chip, .mbx, .vlog, .acct, .jobs, .feed, .cz, .dram, .lanes, .fabric, .red, .nv] ch = true) (hk : Keeps ch a d) : Keeps ch a
    (pointPasses w p new d) := by
  refine Keeps.step ?_ hc hk
  unfold pointPasses
  repeat' (first
      | with_reducible exact Keeps.refl _ _ | with_reducible assumption | intro _ | with_reducible apply modDram_keeps
      | with_reducible apply journalAppend_keeps | with_reducible apply endSweep_keeps | with_reducible apply answerWork_keeps
      | with_reducible apply raise_keeps | with_reducible apply keeps_ite | split | dsimp only | decide)

theorem pointFails_keeps {ch : List DevField} {a : Device} (w : MemWork) (p : Fin 3) (d : Device) (hc : within [.chip, .mbx, .vlog, .acct,
    .jobs, .feed, .cz, .dram, .lanes, .fabric, .red] ch = true) (hk : Keeps ch a d) : Keeps ch a (pointFails w p d) := by
  refine Keeps.step ?_ hc hk
  unfold pointFails
  repeat' (first
      | with_reducible exact Keeps.refl _ _ | with_reducible assumption | intro _ | with_reducible apply modDram_keeps
      | with_reducible apply answerWork_keeps | with_reducible apply endSweep_keeps | with_reducible apply raise_keeps
      | with_reducible apply keeps_ite | split | dsimp only | decide)

/-! Drive.lean -/

theorem setCalWork_keeps {ch : List DevField} {a : Device} (g : Sys2Proof.Group) (cs : List Core) (rs : List U32) (d : Device) (hc :
    within [.mbx] ch = true) (hk : Keeps ch a d) : Keeps ch a (setCalWork g cs rs d) := by
  refine Keeps.step ?_ hc hk
  unfold setCalWork
  repeat' (first
      | with_reducible exact Keeps.refl _ _ | with_reducible assumption | intro _ | with_reducible apply modMbx_keeps | split | dsimp only
      | decide)

theorem dropReplace_keeps {ch : List DevField} {a : Device} (g : Sys2Proof.Group) (d : Device) (hc : within [.drive] ch = true) (hk :
    Keeps ch a d) : Keeps ch a (dropReplace g d) := by
  refine Keeps.step ?_ hc hk
  unfold dropReplace
  repeat' (first
      | with_reducible exact Keeps.refl _ _ | with_reducible assumption | intro _ | with_reducible apply modDrive_keeps
      | with_reducible apply modGroup_keeps | with_reducible apply keeps_foldl | decide)

theorem awaitHandover_keeps {ch : List DevField} {a : Device} (g : Sys2Proof.Group) (j : Fin 8) (k : HoKind) (d : Device) (hc : within
    [.drive] ch = true) (hk : Keeps ch a d) : Keeps ch a (awaitHandover g j k d) := by
  refine Keeps.step ?_ hc hk
  unfold awaitHandover
  repeat' (first
      | with_reducible exact Keeps.refl _ _ | with_reducible assumption | intro _ | with_reducible apply modGroup_keeps | decide)

theorem dropHandover_keeps {ch : List DevField} {a : Device} (g : Sys2Proof.Group) (d : Device) (hc : within [.mbx, .vlog, .drive, .lanes,
    .fabric] ch = true) (hk : Keeps ch a d) : Keeps ch a (dropHandover g d) := by
  refine Keeps.step ?_ hc hk
  unfold dropHandover
  repeat' (first
      | with_reducible exact Keeps.refl _ _ | with_reducible assumption | intro _ | with_reducible apply modDrive_keeps
      | with_reducible apply modGroup_keeps | with_reducible apply finishWork_keeps | with_reducible apply keeps_ite | split | dsimp only
      | decide)

theorem advanceCal_keeps {ch : List DevField} {a : Device} (g : Sys2Proof.Group) (d : Device) (hc : within [.mbx, .vlog, .drive, .lanes,
    .fabric] ch = true) (hk : Keeps ch a d) : Keeps ch a (advanceCal g d) := by
  refine Keeps.step ?_ hc hk
  unfold advanceCal
  repeat' (first
      | with_reducible exact Keeps.refl _ _ | with_reducible assumption | intro _ | with_reducible apply dropHandover_keeps
      | with_reducible apply modGroup_keeps | with_reducible apply dropReplace_keeps | with_reducible apply awaitHandover_keeps
      | with_reducible apply finish_keeps | with_reducible apply keeps_ite | split | dsimp only | decide)

theorem beginCal_keeps {ch : List DevField} {a : Device} (g : Sys2Proof.Group) (cores : List Core) (d : Device) (hc : within [.mbx, .vlog,
    .drive, .lanes, .fabric] ch = true) (hk : Keeps ch a d) : Keeps ch a (beginCal g cores d) := by
  refine Keeps.step ?_ hc hk
  unfold beginCal
  repeat' (first
      | with_reducible exact Keeps.refl _ _ | with_reducible assumption | intro _ | with_reducible apply dropHandover_keeps
      | with_reducible apply modGroup_keeps | with_reducible apply awaitHandover_keeps | with_reducible apply keeps_ite | split
      | dsimp only | decide)

theorem meanTrim_keeps {ch : List DevField} {a₀ : Device} (a b : ℤ) (d : Device) (hc : within [] ch = true) (hk : Keeps ch a₀ d) : Keeps
    ch a₀ (meanTrim a b d).2 := by
  refine Keeps.step ?_ hc hk
  unfold meanTrim
  repeat' (first
      | with_reducible exact Keeps.refl _ _ | with_reducible assumption | intro _ | with_reducible apply draw_keeps
      | with_reducible apply keeps_ite_snd | split | with_reducible refine keeps_pair (by with_reducible assumption) ?_ | dsimp only
      | decide)

theorem calFails_keeps {ch : List DevField} {a : Device} (g : Sys2Proof.Group) (k : Core) (d : Device) (hc : within [.mbx, .vlog, .drive,
    .lanes, .fabric] ch = true) (hk : Keeps ch a d) : Keeps ch a (calFails g k d) := by
  refine Keeps.step ?_ hc hk
  unfold calFails
  repeat' (first
      | with_reducible exact Keeps.refl _ _ | with_reducible assumption | intro _ | with_reducible apply modGroup_keeps
      | with_reducible apply raise_keeps | with_reducible apply keeps_ite | dsimp only | decide)

theorem calPasses_keeps {ch : List DevField} {a : Device} (g : Sys2Proof.Group) (k : Core) (off gain : ℤ) (commanded : Bool) (d : Device)
    (hc : within [.drive] ch = true) (hk : Keeps ch a d) : Keeps ch a (calPasses g k off gain commanded d) := by
  refine Keeps.step ?_ hc hk
  unfold calPasses
  repeat' (first
      | with_reducible exact Keeps.refl _ _ | with_reducible assumption | intro _ | with_reducible apply modGroup_keeps | decide)

theorem calEnds_keeps {ch : List DevField} {a : Device} (g : Sys2Proof.Group) (k : Core) (accepted : Option (ℤ × ℤ)) (d : Device) (hc :
    within [.mbx, .vlog, .drive, .lanes, .fabric] ch = true) (hk : Keeps ch a d) : Keeps ch a (calEnds g k accepted d) := by
  refine Keeps.step ?_ hc hk
  unfold calEnds
  repeat' (first
      | with_reducible exact Keeps.refl _ _ | with_reducible assumption | intro _ | with_reducible apply calPasses_keeps
      | with_reducible apply calFails_keeps | with_reducible apply modGroup_keeps | with_reducible apply finish_keeps
      | with_reducible apply setCalWork_keeps | with_reducible apply advanceCal_keeps | with_reducible apply enableHeadLanes_keeps
      | with_reducible apply keeps_ite | split | dsimp only | decide)

theorem driveDeviation_keeps {ch : List DevField} {a : Device} (h : Head) (d : Device) (hc : within [.mbx, .vlog, .fire, .links, .drive,
    .lanes, .fabric] ch = true) (hk : Keeps ch a d) : Keeps ch a (driveDeviation h d) := by
  refine Keeps.step ?_ hc hk
  unfold driveDeviation
  repeat' (first
      | with_reducible exact Keeps.refl _ _ | with_reducible assumption | intro _ | with_reducible apply modDrive_keeps
      | with_reducible apply raise_keeps | with_reducible apply inhibitHeads_keeps | with_reducible apply advanceCal_keeps
      | with_reducible apply modGroup_keeps | with_reducible apply keeps_ite | dsimp only | decide)

theorem driveFault_keeps {ch : List DevField} {a : Device} (h : Head) (input : ℕ) (d : Device) (hc : within [.mbx, .vlog, .fire, .links,
    .lanes, .fabric] ch = true) (hk : Keeps ch a d) : Keeps ch a (driveFault h input d) := by
  refine Keeps.step ?_ hc hk
  unfold driveFault
  repeat' (first
      | with_reducible exact Keeps.refl _ _ | with_reducible assumption | intro _ | with_reducible apply raise_keeps
      | with_reducible apply inhibitHeads_keeps | decide)

theorem pmbViolation_keeps {ch : List DevField} {a : Device} (code : U8) (addr : ℕ) (ans : BitVec 2) (d : Device) (hc : within [.mbx,
    .vlog, .lanes, .fabric] ch = true) (hk : Keeps ch a d) : Keeps ch a (pmbViolation code addr ans d) := by
  refine Keeps.step ?_ hc hk
  unfold pmbViolation
  repeat' (first
      | with_reducible exact Keeps.refl _ _ | with_reducible assumption | intro _ | with_reducible apply violation_keeps | decide)

theorem pmbPage_keeps {ch : List DevField} {a : Device} (e : SupplyCfg) (d : Device) (hc : within [.drive] ch = true) (hk : Keeps ch a d)
    : Keeps ch a (pmbPage e d) := by
  refine Keeps.step ?_ hc hk
  unfold pmbPage
  repeat' (first
      | with_reducible exact Keeps.refl _ _ | with_reducible assumption | intro _ | with_reducible apply keeps_ite | dsimp only
      | (rw [restSz_fold]; refine keeps_sz (h := ?_) (e := ⟨fun f hf => by cases f <;> first | exact absurd (by decide) hf | dsimp only [DevField.Same, Chip.own]⟩) ..))

theorem pmbAsk_keeps {ch : List DevField} {a : Device} (e : SupplyCfg) (command : ℕ) (d : Device) (hc : within [.drive] ch = true) (hk :
    Keeps ch a d) : Keeps ch a (pmbAsk e command d) := by
  refine Keeps.step ?_ hc hk
  unfold pmbAsk
  repeat' (first
      | with_reducible exact Keeps.refl _ _ | with_reducible assumption | intro _ | with_reducible apply pmbPage_keeps | dsimp only
      | (rw [restSz_fold]; refine keeps_sz (h := ?_) (e := ⟨fun f hf => by cases f <;> first | exact absurd (by decide) hf | dsimp only [DevField.Same, Chip.own]⟩) ..)
      | decide)

theorem pmbSend_keeps {ch : List DevField} {a : Device} (k : Supply) (e : SupplyCfg) (d : Device) (w : ℕ × ℕ) (hc : within [.mbx, .vlog,
    .drive, .lanes, .fabric] ch = true) (hk : Keeps ch a d) : Keeps ch a (pmbSend k e d w) := by
  refine Keeps.step ?_ hc hk
  unfold pmbSend
  repeat' (first
      | with_reducible exact Keeps.refl _ _ | with_reducible assumption | intro _ | with_reducible apply modSup_keeps
      | with_reducible apply draw_keeps | with_reducible apply pmbViolation_keeps | with_reducible apply pmbPage_keeps
      | with_reducible apply keeps_ite | split | with_reducible refine keeps_pair (by with_reducible assumption) ?_ | dsimp only
      | (rw [restSz_fold]; refine keeps_sz (h := ?_) (e := ⟨fun f hf => by cases f <;> first | exact absurd (by decide) hf | dsimp only [DevField.Same, Chip.own]⟩) ..)
      | decide)

theorem pmbRecover_keeps {ch : List DevField} {a : Device} (d : Device) (hc : within [.drive] ch = true) (hk : Keeps ch a d) : Keeps ch a
    (pmbRecover d) := by
  refine Keeps.step ?_ hc hk
  unfold pmbRecover
  repeat' (first
      | with_reducible exact Keeps.refl _ _ | with_reducible assumption | intro _ | dsimp only
      | (rw [restSz_fold]; refine keeps_sz (h := ?_) (e := ⟨fun f hf => by cases f <;> first | exact absurd (by decide) hf | dsimp only [DevField.Same, Chip.own]⟩) ..))

theorem supplyInhibit_keeps {ch : List DevField} {a : Device} (mask : BitVec 40) (d : Device) (hc : within [.fire] ch = true) (hk : Keeps
    ch a d) : Keeps ch a (supplyInhibit mask d) := by
  refine Keeps.step ?_ hc hk
  unfold supplyInhibit
  repeat' (first
      | with_reducible exact Keeps.refl _ _ | with_reducible assumption | intro _ | dsimp only
      | (rw [restSz_fold]; refine keeps_sz (h := ?_) (e := ⟨fun f hf => by cases f <;> first | exact absurd (by decide) hf | dsimp only [DevField.Same, Chip.own]⟩) ..))

theorem supplyFails_keeps {ch : List DevField} {a : Device} (k : Supply) (e : SupplyCfg) (d : Device) (hc : within [.mbx, .vlog, .fire,
    .drive, .lanes, .fabric] ch = true) (hk : Keeps ch a d) : Keeps ch a (supplyFails k e d) := by
  refine Keeps.step ?_ hc hk
  unfold supplyFails
  repeat' (first
      | with_reducible exact Keeps.refl _ _ | with_reducible assumption | intro _ | with_reducible apply raise_keeps
      | with_reducible apply supplyInhibit_keeps | with_reducible apply modSup_keeps | decide)

theorem takeStatusWord_keeps {ch : List DevField} {a : Device} (k : Supply) (e : SupplyCfg) (w : U16) (d : Device) (hc : within [.mbx,
    .vlog, .fire, .drive, .lanes, .fabric] ch = true) (hk : Keeps ch a d) : Keeps ch a (takeStatusWord k e w d) := by
  refine Keeps.step ?_ hc hk
  unfold takeStatusWord
  repeat' (first
      | with_reducible exact Keeps.refl _ _ | with_reducible assumption | intro _ | with_reducible apply modSup_keeps
      | with_reducible apply supplyFails_keeps | with_reducible apply keeps_ite | dsimp only
      | (rw [restSz_fold]; refine keeps_sz (h := ?_) (e := ⟨fun f hf => by cases f <;> first | exact absurd (by decide) hf | dsimp only [DevField.Same, Chip.own]⟩) ..)
      | decide)

theorem pmbRead_keeps {ch : List DevField} {a : Device} (e : SupplyCfg) (command : Nat) (r : BusResult) (f : U16 → Device → Device)
    (d : Device) (hc : within [.mbx, .vlog, .drive, .lanes, .fabric] ch = true) (hf : ∀ v d, Keeps ch d (f v d)) (hk : Keeps ch a d) : Keeps ch a (pmbRead e command r f d) := by
  have hq := pmbAsk_keeps (ch := ch) e command d (within_trans (by decide) hc) hk
  unfold pmbRead
  dsimp only
  split
  · exact hq.trans (hf _ _)
  · exact pmbViolation_keeps _ _ _ _ (within_trans (by decide) hc) hq
  · exact keeps_ite (pmbViolation_keeps _ _ _ _ (within_trans (by decide) hc) hq) hq

theorem adoptSupplies_keeps {ch : List DevField} {a : Device} (but : Option Supply) (d : Device) (hc : within [.mbx, .vlog, .fire, .drive, .lanes, .fabric] ch = true)
    (hk : Keeps ch a d) : Keeps ch a (adoptSupplies but d) := by
  refine Keeps.step ?_ hc hk
  unfold adoptSupplies
  refine keeps_ite (Keeps.refl _ _) (keeps_foldl (fun d x => keeps_ite (Keeps.refl _ _) ?_)
    ⟨fun f h => by cases f <;> first | exact absurd (by decide) h | rfl⟩)
  exact pmbRead_keeps _ _ _ _ _ (by decide) (fun _ _ => takeStatusWord_keeps _ _ _ _ (by decide) (Keeps.refl _ _))
    (draw_keeps _ (by decide) (Keeps.refl _ _))

theorem pmbWrite_keeps {ch : List DevField} {a : Device} (k : Supply) (e : SupplyCfg) (ws : List (ℕ × ℕ)) (d : Device) (hc : within [.mbx,
    .vlog, .fire, .drive, .lanes, .fabric] ch = true) (hk : Keeps ch a d) : Keeps ch a (pmbWrite k e ws d) := by
  refine Keeps.step ?_ hc hk
  unfold pmbWrite
  repeat' (first
      | with_reducible exact Keeps.refl _ _ | with_reducible assumption | intro _ | with_reducible apply pmbSend_keeps
      | with_reducible apply adoptSupplies_keeps | with_reducible apply keeps_ite | with_reducible apply keeps_foldl | decide)

theorem readModes_keeps {ch : List DevField} {a : Device} (es : List SupplyCfg) (modes : List BusResult) (d : Device) (hc : within [.mbx,
    .vlog, .fire, .drive, .lanes, .fabric] ch = true) (hk : Keeps ch a d) : Keeps ch a (readModes es modes d) := by
  refine Keeps.step ?_ hc hk
  unfold readModes
  repeat' (first
      | with_reducible exact Keeps.refl _ _ | with_reducible assumption | intro _ | with_reducible apply pmbRead_keeps
      | with_reducible apply adoptSupplies_keeps | with_reducible apply keeps_ite | with_reducible apply keeps_foldl | decide)

theorem nextStep_keeps {ch : List DevField} {a : Device} (d : Device) (hc : within [.mbx, .vlog, .fire, .drive, .lanes, .fabric] ch =
    true) (hk : Keeps ch a d) : Keeps ch a (nextStep d) := by
  refine Keeps.step ?_ hc hk
  unfold nextStep
  repeat' (first
      | with_reducible exact Keeps.refl _ _ | with_reducible assumption | intro _ | with_reducible apply pmbWrite_keeps
      | with_reducible apply modSup_keeps | with_reducible apply keeps_foldl | split | dsimp only
      | (rw [restSz_fold]; refine keeps_sz (h := ?_) (e := ⟨fun f hf => by cases f <;> first | exact absurd (by decide) hf | dsimp only [DevField.Same, Chip.own]⟩) ..)
      | decide)

theorem turnOff_keeps {ch : List DevField} {a : Device} (ks : List Supply) (d : Device) (hc : within [.mbx, .vlog, .fire, .drive, .lanes,
    .fabric] ch = true) (hk : Keeps ch a d) : Keeps ch a (turnOff ks d) := by
  refine Keeps.step ?_ hc hk
  unfold turnOff
  repeat' (first
      | with_reducible exact Keeps.refl _ _ | with_reducible assumption | intro _ | with_reducible apply pmbWrite_keeps
      | with_reducible apply modSup_keeps | with_reducible apply keeps_ite | with_reducible apply keeps_foldl | split | dsimp only
      | decide)

theorem clearSupplyInhibit_keeps {ch : List DevField} {a : Device} (d : Device) (hc : within [.fire, .links, .lanes] ch = true) (hk :
    Keeps ch a d) : Keeps ch a (clearSupplyInhibit d) := by
  refine Keeps.step ?_ hc hk
  unfold clearSupplyInhibit
  repeat' (first
      | with_reducible exact Keeps.refl _ _ | with_reducible assumption | intro _ | with_reducible apply sendInhibit_keeps
      | with_reducible apply keeps_ite | with_reducible apply keeps_foldl | dsimp only
      | (rw [restSz_fold]; refine keeps_sz (h := ?_) (e := ⟨fun f hf => by cases f <;> first | exact absurd (by decide) hf | dsimp only [DevField.Same, Chip.own]⟩) ..)
      | decide)

theorem sequenceDone_keeps {ch : List DevField} {a : Device} (d : Device) (hc : within [.mbx, .vlog, .fire, .links, .drive, .lanes,
    .fabric] ch = true) (hk : Keeps ch a d) : Keeps ch a (sequenceDone d) := by
  refine Keeps.step ?_ hc hk
  unfold sequenceDone
  repeat' (first
      | with_reducible exact Keeps.refl _ _ | with_reducible assumption | intro _ | with_reducible apply finishWork_keeps
      | with_reducible apply clearSupplyInhibit_keeps | dsimp only
      | (rw [restSz_fold]; refine keeps_sz (h := ?_) (e := ⟨fun f hf => by cases f <;> first | exact absurd (by decide) hf | dsimp only [DevField.Same, Chip.own]⟩) ..)
      | decide)

theorem retryWrites_keeps {ch : List DevField} {a : Device} (k : Supply) (e : SupplyCfg) (d : Device) (hc : within [.mbx, .vlog, .fire,
    .drive, .lanes, .fabric] ch = true) (hk : Keeps ch a d) : Keeps ch a (retryWrites k e d) := by
  refine Keeps.step ?_ hc hk
  unfold retryWrites
  repeat' (first
      | with_reducible exact Keeps.refl _ _ | with_reducible assumption | intro _ | with_reducible apply pmbWrite_keeps | decide)

theorem addressFails_keeps {ch : List DevField} {a : Device} (addr : ℕ) (d : Device) (hc : within [.mbx, .vlog, .fire, .drive, .lanes,
    .fabric] ch = true) (hk : Keeps ch a d) : Keeps ch a (addressFails addr d) := by
  refine Keeps.step ?_ hc hk
  unfold addressFails
  repeat' (first
      | with_reducible exact Keeps.refl _ _ | with_reducible assumption | intro _ | with_reducible apply supplyFails_keeps
      | with_reducible apply keeps_ite | with_reducible apply keeps_foldl | decide)

/-! Lanes.lean -/

theorem laneFalls_keeps {ch : List DevField} {a : Device} (l : LaneId) (d : Device) (hc : within [.mbx, .vlog, .jobs, .links, .adapters,
    .cz, .dram, .lanes, .fabric, .red] ch = true) (hk : Keeps ch a d) : Keeps ch a (laneFalls l d) := by
  refine Keeps.step ?_ hc hk
  unfold laneFalls
  repeat' (first
      | with_reducible exact Keeps.refl _ _ | with_reducible assumption | intro _ | with_reducible apply linkFell_keeps
      | with_reducible apply modLane_keeps | with_reducible apply noteReady_keeps | with_reducible apply refreshPath_keeps
      | with_reducible apply keeps_ite | dsimp only | decide)

theorem modFarPort_keeps {ch : List DevField} {a : Device} (l : LaneId) (f : AdPort → AdPort) (d : Device) (hc : within [.adapters] ch =
    true) (hk : Keeps ch a d) : Keeps ch a (modFarPort l f d) := by
  refine Keeps.step ?_ hc hk
  unfold modFarPort
  repeat' (first
      | with_reducible exact Keeps.refl _ _ | with_reducible assumption | intro _ | with_reducible apply modAdapter_keeps
      | with_reducible apply keeps_ite | split | dsimp only | decide)

theorem linkFails_keeps {ch : List DevField} {a : Device} (l : LaneId) (d : Device) (hc : within [.mbx, .vlog, .lanes, .fabric] ch = true)
    (hk : Keeps ch a d) : Keeps ch a (linkFails l d) := by
  refine Keeps.step ?_ hc hk
  unfold linkFails
  repeat' (first
      | with_reducible exact Keeps.refl _ _ | with_reducible assumption | intro _ | with_reducible apply noteDegraded_keeps | split
      | dsimp only | decide)

theorem attemptFails_keeps {ch : List DevField} {a : Device} (l : LaneId) (reason : ℕ) (d : Device) (hc : within [.mbx, .vlog, .adapters,
    .lanes, .fabric] ch = true) (hk : Keeps ch a d) : Keeps ch a (attemptFails l reason d) := by
  refine Keeps.step ?_ hc hk
  unfold attemptFails
  repeat' (first
      | with_reducible exact Keeps.refl _ _ | with_reducible assumption | intro _ | with_reducible apply linkFails_keeps
      | with_reducible apply modLane_keeps | with_reducible apply modFarPort_keeps | with_reducible apply abandonTest_keeps
      | with_reducible apply raise_keeps | with_reducible apply keeps_ite | dsimp only | decide)

theorem startAttempt_keeps {ch : List DevField} {a : Device} (l : LaneId) (d : Device) (hc : within [.mbx, .vlog, .adapters, .lanes,
    .fabric] ch = true) (hk : Keeps ch a d) : Keeps ch a (startAttempt l d) := by
  refine Keeps.step ?_ hc hk
  unfold startAttempt
  repeat' (first
      | with_reducible exact Keeps.refl _ _ | with_reducible assumption | intro _ | with_reducible apply applyPortCfg_keeps
      | with_reducible apply modFarPort_keeps | with_reducible apply modLane_keeps | with_reducible apply abandonTest_keeps
      | with_reducible apply keeps_ite | split | dsimp only | decide)

theorem lockLane_keeps {ch : List DevField} {a : Device} (l : LaneId) (ppm : ℤ) (d : Device) (hc : within [.mbx, .vlog, .adapters, .lanes,
    .fabric] ch = true) (hk : Keeps ch a d) : Keeps ch a (lockLane l ppm d) := by
  refine Keeps.step ?_ hc hk
  unfold lockLane
  repeat' (first
      | with_reducible exact Keeps.refl _ _ | with_reducible assumption | intro _ | with_reducible apply attemptFails_keeps
      | with_reducible apply modLane_keeps | with_reducible apply keeps_ite | decide)

theorem sendWord_keeps {ch : List DevField} {a : Device} (l : LaneId) (d : Device) (hc : within [.adapters, .lanes] ch = true) (hk : Keeps
    ch a d) : Keeps ch a (sendWord l d) := by
  refine Keeps.step ?_ hc hk
  unfold sendWord
  repeat' (first
      | with_reducible exact Keeps.refl _ _ | with_reducible assumption | intro _ | with_reducible apply modLane_keeps
      | with_reducible apply draw_keeps | with_reducible apply modFarPort_keeps | with_reducible apply keeps_ite | split
      | with_reducible refine keeps_pair (by with_reducible assumption) ?_ | dsimp only | decide)

theorem adaptLane_keeps {ch : List DevField} {a : Device} (l : LaneId) (d : Device) (hc : within [.adapters, .lanes] ch = true) (hk :
    Keeps ch a d) : Keeps ch a (adaptLane l d) := by
  refine Keeps.step ?_ hc hk
  unfold adaptLane
  repeat' (first
      | with_reducible exact Keeps.refl _ _ | with_reducible assumption | intro _ | with_reducible apply draw_keeps
      | with_reducible apply sendWord_keeps | with_reducible apply modLane_keeps | split
      | with_reducible refine keeps_pair (by with_reducible assumption) ?_ | dsimp only | decide)

theorem headRises_keeps {ch : List DevField} {a : Device} (h : Head) (d : Device) (hc : within [.links, .adapters, .lanes] ch = true) (hk
    : Keeps ch a d) : Keeps ch a (headRises h d) := by
  refine Keeps.step ?_ hc hk
  unfold headRises
  repeat' (first
      | with_reducible exact Keeps.refl _ _ | with_reducible assumption | intro _ | with_reducible apply modAdapter_keeps
      | with_reducible apply startBring_keeps | with_reducible apply modLink_keeps | with_reducible apply keeps_ite | dsimp only | decide)

theorem portRises_keeps {ch : List DevField} {a : Device} (p : Port) (d : Device) (hc : within [.mbx, .vlog, .lanes, .fabric] ch = true)
    (hk : Keeps ch a d) : Keeps ch a (portRises p d) := by
  refine Keeps.step ?_ hc hk
  unfold portRises
  repeat' (first
      | with_reducible exact Keeps.refl _ _ | with_reducible assumption | intro _ | with_reducible apply sendHello_keeps
      | with_reducible apply noteDegraded_keeps | with_reducible apply linkSend_keeps | with_reducible apply keeps_foldl | dsimp only
      | decide)

theorem linkRises_keeps {ch : List DevField} {a : Device} (l : LaneId) (wasUp : Bool) (d : Device) (hc : within [.mbx, .vlog, .links,
    .adapters, .dram, .lanes, .fabric, .red] ch = true) (hk : Keeps ch a d) : Keeps ch a (linkRises l wasUp d) := by
  refine Keeps.step ?_ hc hk
  unfold linkRises
  repeat' (first
      | with_reducible exact Keeps.refl _ _ | with_reducible assumption | intro _ | with_reducible apply headRises_keeps
      | with_reducible apply noteDegraded_keeps | with_reducible apply holdLock_keeps | with_reducible apply portRises_keeps
      | with_reducible apply refreshPath_keeps | with_reducible apply keeps_ite | split | dsimp only | decide)

theorem laneRises_keeps {ch : List DevField} {a : Device} (l : LaneId) (d : Device) (hc : within [.mbx, .vlog, .links, .adapters, .dram,
    .lanes, .fabric, .red] ch = true) (hk : Keeps ch a d) : Keeps ch a (laneRises l d) := by
  refine Keeps.step ?_ hc hk
  unfold laneRises
  repeat' (first
      | with_reducible exact Keeps.refl _ _ | with_reducible assumption | intro _ | with_reducible apply modLane_keeps
      | with_reducible apply linkRises_keeps | with_reducible apply raise_keeps | dsimp only | decide)

theorem joinDirections_keeps {ch : List DevField} {a : Device} (l : LaneId) (d : Device) (hc : within [.mbx, .vlog, .links, .adapters,
    .dram, .lanes, .fabric, .red] ch = true) (hk : Keeps ch a d) : Keeps ch a (joinDirections l d) := by
  refine Keeps.step ?_ hc hk
  unfold joinDirections
  repeat' (first
      | with_reducible exact Keeps.refl _ _ | with_reducible assumption | intro _ | with_reducible apply laneRises_keeps
      | with_reducible apply keeps_ite | decide)

theorem endTraining_keeps {ch : List DevField} {a : Device} (l : LaneId) (d : Device) (hc : within [.mbx, .vlog, .links, .adapters, .dram,
    .lanes, .fabric, .red] ch = true) (hk : Keeps ch a d) : Keeps ch a (endTraining l d) := by
  refine Keeps.step ?_ hc hk
  unfold endTraining
  repeat' (first
      | with_reducible exact Keeps.refl _ _ | with_reducible assumption | intro _ | with_reducible apply modLane_keeps
      | with_reducible apply joinDirections_keeps | with_reducible apply keeps_ite | decide)

theorem endReceive_keeps {ch : List DevField} {a : Device} (l : LaneId) (last : Bool) (d : Device) (hc : within [.mbx, .vlog, .links,
    .adapters, .dram, .lanes, .fabric, .red] ch = true) (hk : Keeps ch a d) : Keeps ch a (endReceive l last d) := by
  refine Keeps.step ?_ hc hk
  unfold endReceive
  repeat' (first
      | with_reducible exact Keeps.refl _ _ | with_reducible assumption | intro _ | with_reducible apply joinDirections_keeps
      | with_reducible apply modLane_keeps | with_reducible apply keeps_ite | decide)

theorem answerWord_keeps {ch : List DevField} {a : Device} (l : LaneId) (d : Device) (hc : within [.adapters, .lanes] ch = true) (hk :
    Keeps ch a d) : Keeps ch a (answerWord l d) := by
  refine Keeps.step ?_ hc hk
  unfold answerWord
  repeat' (first
      | with_reducible exact Keeps.refl _ _ | with_reducible assumption | intro _ | with_reducible apply sendWord_keeps
      | with_reducible apply keeps_ite | decide)

theorem takeWord_keeps {ch : List DevField} {a : Device} (l : LaneId) (w : TrainWord) (d : Device) (hc : within [.mbx, .vlog, .links,
    .adapters, .dram, .lanes, .fabric, .red] ch = true) (hk : Keeps ch a d) : Keeps ch a (takeWord l w d) := by
  refine Keeps.step ?_ hc hk
  unfold takeWord
  repeat' (first
      | with_reducible exact Keeps.refl _ _ | with_reducible assumption | intro _ | with_reducible apply answerWord_keeps
      | with_reducible apply attemptFails_keeps | with_reducible apply modLane_keeps | with_reducible apply endTraining_keeps
      | with_reducible apply keeps_ite | dsimp only | decide)

theorem countCodes_keeps {ch : List DevField} {a : Device} (l : LaneId) (n : ℕ) (d : Device) (hc : within [.vlog, .lanes] ch = true) (hk :
    Keeps ch a d) : Keeps ch a (countCodes l n d) := by
  refine Keeps.step ?_ hc hk
  unfold countCodes
  repeat' (first
      | with_reducible exact Keeps.refl _ _ | with_reducible assumption | intro _ | with_reducible apply modLane_keeps
      | with_reducible apply modDiag_keeps | dsimp only | decide)

theorem laneArg_keeps {ch : List DevField} {a : Device} (v : Nat) (d : Device) (f : LaneId → Done) (hf : ∀ l, DoneKeeps ch a (f l))
    (hk : Keeps ch a d) : DoneKeeps ch a (laneArg v d f) := by
  unfold laneArg
  repeat' (first
      | with_reducible apply hf | with_reducible apply doneKeeps_ite | split | with_reducible apply no_keeps | rfl | exact hk)

/-! System.lean -/

theorem newRings_keeps {ch : List DevField} {a₀ : Device} (a : List ℤ) (d : Device) (hc : within [.mbx] ch = true) (hk : Keeps ch a₀ d) :
    Keeps ch a₀ (newRings a d) := by
  refine Keeps.step ?_ hc hk
  unfold newRings
  repeat' (first | with_reducible exact Keeps.refl _ _ | with_reducible assumption | intro _ | with_reducible apply modMbx_keeps | decide)

theorem markRead_keeps {ch : List DevField} {a : Device} (k : Fin 3) (old : Bool) (d : Device) (hc : within [.acct] ch = true) (hk : Keeps
    ch a d) : Keeps ch a (markRead k old d) := by
  refine Keeps.step ?_ hc hk
  unfold markRead
  repeat' (first
      | with_reducible exact Keeps.refl _ _ | with_reducible assumption | intro _ | dsimp only
      | (rw [restSz_fold]; refine keeps_sz (h := ?_) (e := ⟨fun f hf => by cases f <;> first | exact absurd (by decide) hf | dsimp only [DevField.Same, Chip.own]⟩) ..))

theorem freePartner_keeps {ch : List DevField} {a : Device} (b : BitVec 5) (src : U16) (d : Device) (hc : within [.vlog] ch = true) (hk :
    Keeps ch a d) : Keeps ch a (freePartner b src d) := by
  refine Keeps.step ?_ hc hk
  unfold freePartner
  repeat' (first
      | with_reducible exact Keeps.refl _ _ | with_reducible assumption | intro _ | dsimp only
      | (rw [restSz_fold]; refine keeps_sz (h := ?_) (e := ⟨fun f hf => by cases f <;> first | exact absurd (by decide) hf | dsimp only [DevField.Same, Chip.own]⟩) ..))

theorem releasePartner_keeps {ch : List DevField} {a : Device} (b : BitVec 5) (src : U16) (d : Device) (hc : within [.mbx, .vlog, .links,
    .adapters, .cz, .lanes, .fabric, .red] ch = true) (hk : Keeps ch a d) : Keeps ch a (releasePartner b src d) := by
  refine Keeps.step ?_ hc hk
  unfold releasePartner
  repeat' (first
      | with_reducible exact Keeps.refl _ _ | with_reducible assumption | intro _ | with_reducible apply freePartner_keeps
      | with_reducible apply retrainLane_keeps | with_reducible apply modLink_keeps | split | dsimp only | decide)

theorem foragerWrite_keeps {ch : List DevField} {a : Device} (r : ForagerRead) (j : ForagerJob) (b : List U8) (d : Device) (hc : within
    [.mbx, .vlog, .dram, .lanes, .fabric, .red] ch = true) (hk : Keeps ch a d) : Keeps ch a (foragerWrite r j b d) := by
  refine Keeps.step ?_ hc hk
  unfold foragerWrite
  repeat' (first
      | with_reducible exact Keeps.refl _ _ | with_reducible assumption | intro _ | with_reducible apply dramWrite_keeps
      | with_reducible apply sendTo_keeps | with_reducible apply keeps_ite
      | with_reducible refine keeps_pair (by with_reducible assumption) ?_ | decide)

theorem foragerTake_keeps {ch : List DevField} {a : Device} (r : ForagerRead) (j : ForagerJob) (data : Option (List U8)) (d : Device) (hc
    : within [.mbx, .vlog, .dram, .lanes, .fabric, .red] ch = true) (hk : Keeps ch a d) : Keeps ch a (foragerTake r j data d) := by
  refine Keeps.step ?_ hc hk
  unfold foragerTake
  repeat' (first
      | with_reducible exact Keeps.refl _ _ | with_reducible assumption | intro _ | with_reducible apply modMbx_keeps
      | with_reducible apply foragerWrite_keeps | split | dsimp only | decide)

/-! Thermal.lean -/

theorem modTherm_keeps {ch : List DevField} {a : Device} (d : Device) (f : Therm → Therm) (hc : within [.therm] ch = true) (hk : Keeps ch
    a d) : Keeps ch a (modTherm d f) := by
  refine Keeps.step ?_ hc hk
  unfold modTherm
  repeat' (first
      | with_reducible exact Keeps.refl _ _ | with_reducible assumption | intro _
      | (rw [restSz_fold]; refine keeps_sz (h := ?_) (e := ⟨fun f hf => by cases f <;> first | exact absurd (by decide) hf | dsimp only [DevField.Same, Chip.own]⟩) ..))

theorem failSensor_keeps {ch : List DevField} {a : Device} (k : Sensor) (test : ℕ) (d : Device) (hc : within [.mbx, .vlog, .lanes,
    .fabric, .therm] ch = true) (hk : Keeps ch a d) : Keeps ch a (failSensor k test d) := by
  refine Keeps.step ?_ hc hk
  unfold failSensor
  repeat' (first
      | with_reducible exact Keeps.refl _ _ | with_reducible assumption | intro _ | with_reducible apply raise_keeps
      | with_reducible apply modTherm_keeps | decide)

theorem setLevel_keeps {ch : List DevField} {a : Device} (n : ℕ) (d : Device) (hc : within [.mbx, .vlog, .lanes, .fabric, .therm] ch =
    true) (hk : Keeps ch a d) : Keeps ch a (setLevel n d) := by
  refine Keeps.step ?_ hc hk
  unfold setLevel
  repeat' (first
      | with_reducible exact Keeps.refl _ _ | with_reducible assumption | intro _ | with_reducible apply modTherm_keeps
      | with_reducible apply setIrq_keeps | with_reducible apply raise_keeps | with_reducible apply keeps_ite | dsimp only | decide)

theorem tripDrive_keeps {ch : List DevField} {a : Device} (d : Device) (hc : within [.mbx, .vlog, .drive, .lanes, .fabric] ch = true) (hk
    : Keeps ch a d) : Keeps ch a (tripDrive d) := by
  refine Keeps.step ?_ hc hk
  unfold tripDrive
  repeat' (first
      | with_reducible exact Keeps.refl _ _ | with_reducible assumption | intro _ | with_reducible apply finish_keeps
      | with_reducible apply keeps_foldl | split | dsimp only
      | (rw [restSz_fold]; refine keeps_sz (h := ?_) (e := ⟨fun f hf => by cases f <;> first | exact absurd (by decide) hf | dsimp only [DevField.Same, Chip.own]⟩) ..)
      | decide)

theorem tripDram_keeps {ch : List DevField} {a : Device} (d : Device) (hc : within [.mbx, .vlog, .dram, .lanes, .fabric] ch = true) (hk :
    Keeps ch a d) : Keeps ch a (tripDram d) := by
  refine Keeps.step ?_ hc hk
  unfold tripDram
  repeat' (first
      | with_reducible exact Keeps.refl _ _ | with_reducible assumption | intro _ | with_reducible apply finishWork_keeps
      | with_reducible apply modDram_keeps | with_reducible apply keeps_ite | split | dsimp only | decide)

theorem tripFlash_keeps {ch : List DevField} {a : Device} (d : Device) (hc : within [.nv] ch = true) (hk : Keeps ch a d) : Keeps ch a
    (tripFlash d) := by
  refine Keeps.step ?_ hc hk
  unfold tripFlash
  repeat' (first
      | with_reducible exact Keeps.refl _ _ | with_reducible assumption | intro _ | split | dsimp only
      | (rw [restSz_fold]; refine keeps_sz (h := ?_) (e := ⟨fun f hf => by cases f <;> first | exact absurd (by decide) hf | dsimp only [DevField.Same, Chip.own]⟩) ..))

theorem tripPower_keeps {ch : List DevField} {a : Device} (d : Device) (hc : within [.mbx, .vlog, .lanes, .fabric, .pwr] ch = true) (hk :
    Keeps ch a d) : Keeps ch a (tripPower d) := by
  refine Keeps.step ?_ hc hk
  unfold tripPower
  repeat' (first
      | with_reducible exact Keeps.refl _ _ | with_reducible assumption | intro _ | with_reducible apply finishWork_keeps
      | with_reducible apply setIrq_keeps | with_reducible apply keeps_ite | dsimp only
      | (rw [restSz_fold]; refine keeps_sz (h := ?_) (e := ⟨fun f hf => by cases f <;> first | exact absurd (by decide) hf | dsimp only [DevField.Same, Chip.own]⟩) ..)
      | decide)

theorem tripJobs_keeps {ch : List DevField} {a : Device} (d : Device) (hc : within [.mbx, .vlog, .acct, .jobs, .banks, .engines, .sheet,
    .fire, .loop, .lanes, .fabric] ch = true) (hk : Keeps ch a d) : Keeps ch a (tripJobs d) := by
  refine Keeps.step ?_ hc hk
  unfold tripJobs
  repeat' (first
      | with_reducible exact Keeps.refl _ _ | with_reducible assumption | intro _ | with_reducible apply reportReady_keeps
      | with_reducible apply unschedule_keeps | with_reducible apply endJob_keeps | with_reducible apply skipTokens_keeps
      | with_reducible apply keeps_ite | split | dsimp only
      | (rw [restSz_fold]; refine keeps_sz (h := ?_) (e := ⟨fun f hf => by cases f <;> first | exact absurd (by decide) hf | dsimp only [DevField.Same, Chip.own]⟩) ..)
      | decide)

theorem tripNow_keeps {ch : List DevField} {a : Device} (d : Device) (hc : within [.mbx, .vlog, .acct, .jobs, .banks, .engines, .sheet,
    .fire, .drive, .loop, .dram, .lanes, .fabric, .pwr, .therm, .nv] ch = true) (hk : Keeps ch a d) : Keeps ch a (tripNow d) := by
  refine Keeps.step ?_ hc hk
  unfold tripNow
  repeat' (first
      | with_reducible exact Keeps.refl _ _ | with_reducible assumption | intro _ | with_reducible apply modTherm_keeps
      | with_reducible apply tripJobs_keeps | with_reducible apply tripPower_keeps | with_reducible apply tripFlash_keeps
      | with_reducible apply tripDram_keeps | with_reducible apply tripDrive_keeps | with_reducible apply accountingBreak_keeps
      | with_reducible apply noteFault_keeps | with_reducible apply setIrq_keeps | with_reducible apply raise_keeps | dsimp only | decide)

theorem restartDram_keeps {ch : List DevField} {a : Device} (d : Device) (hc : within [.dram] ch = true) (hk : Keeps ch a d) : Keeps ch a
    (restartDram d) := by
  refine Keeps.step ?_ hc hk
  unfold restartDram
  repeat' (first
      | with_reducible exact Keeps.refl _ _ | with_reducible assumption | intro _ | with_reducible apply resumeDram_keeps
      | with_reducible apply modDram_keeps | with_reducible apply keeps_ite | decide)

theorem restartDrive_keeps {ch : List DevField} {a : Device} (d : Device) (hc : within [.drive] ch = true) (hk : Keeps ch a d) : Keeps ch
    a (restartDrive d) := by
  refine Keeps.step ?_ hc hk
  unfold restartDrive
  repeat' (first
      | with_reducible exact Keeps.refl _ _ | with_reducible assumption | intro _ | dsimp only
      | (rw [restSz_fold]; refine keeps_sz (h := ?_) (e := ⟨fun f hf => by cases f <;> first | exact absurd (by decide) hf | dsimp only [DevField.Same, Chip.own]⟩) ..))

theorem liftTrip_keeps {ch : List DevField} {a : Device} (d : Device) (hc : within [.links, .lanes] ch = true) (hk : Keeps ch a d) : Keeps
    ch a (liftTrip d) := by
  refine Keeps.step ?_ hc hk
  unfold liftTrip
  repeat' (first
      | with_reducible exact Keeps.refl _ _ | with_reducible assumption | intro _ | with_reducible apply sendInhibit_keeps
      | with_reducible apply keeps_ite | with_reducible apply keeps_foldl | split | dsimp only | decide)

theorem restartNow_keeps {ch : List DevField} {a : Device} (d : Device) (hc : within [.mbx, .vlog, .fire, .links, .drive, .dram, .lanes,
    .fabric, .pwr, .therm, .nv] ch = true) (hk : Keeps ch a d) : Keeps ch a (restartNow d) := by
  refine Keeps.step ?_ hc hk
  unfold restartNow
  repeat' (first
      | with_reducible exact Keeps.refl _ _ | with_reducible assumption | intro _ | with_reducible apply modTherm_keeps
      | with_reducible apply wakeHeadLanes_keeps | with_reducible apply restartDrive_keeps | with_reducible apply restartDram_keeps
      | with_reducible apply liftTrip_keeps | with_reducible apply loadDrops_keeps | with_reducible apply setIrq_keeps
      | with_reducible apply raise_keeps | with_reducible apply setLevel_keeps | with_reducible apply keeps_ite | dsimp only
      | (rw [restSz_fold]; refine keeps_sz (h := ?_) (e := ⟨fun f hf => by cases f <;> first | exact absurd (by decide) hf | dsimp only [DevField.Same, Chip.own]⟩) ..)
      | decide)

/-! Transport.lean -/

theorem setCmdTail_keeps {ch : List DevField} {a : Device} (v : U32) (d : Device) (hc : within [.mbx, .vlog, .lanes, .fabric, .pwr] ch =
    true) (hk : Keeps ch a d) : Keeps ch a (setCmdTail v d) := by
  refine Keeps.step ?_ hc hk
  unfold setCmdTail
  repeat' (first
      | with_reducible exact Keeps.refl _ _ | with_reducible assumption | intro _ | with_reducible apply violation_keeps
      | with_reducible apply wakeCores_keeps | with_reducible apply modMbx_keeps | with_reducible apply keeps_ite | decide)

theorem setRspHead_keeps {ch : List DevField} {a : Device} (v : U32) (d : Device) (hc : within [.mbx, .vlog, .lanes, .fabric] ch = true)
    (hk : Keeps ch a d) : Keeps ch a (setRspHead v d) := by
  refine Keeps.step ?_ hc hk
  unfold setRspHead
  repeat' (first
      | with_reducible exact Keeps.refl _ _ | with_reducible assumption | intro _ | with_reducible apply violation_keeps
      | with_reducible apply modMbx_keeps | with_reducible apply keeps_ite | decide)

theorem setEvtHead_keeps {ch : List DevField} {a : Device} (v : U32) (d : Device) (hc : within [.mbx, .vlog, .lanes, .fabric] ch = true)
    (hk : Keeps ch a d) : Keeps ch a (setEvtHead v d) := by
  refine Keeps.step ?_ hc hk
  unfold setEvtHead
  repeat' (first
      | with_reducible exact Keeps.refl _ _ | with_reducible assumption | intro _ | with_reducible apply violation_keeps
      | with_reducible apply modMbx_keeps | with_reducible apply keeps_ite | decide)

theorem clearIrq_keeps {ch : List DevField} {a : Device} (v : U32) (d : Device) (hc : within [.mbx] ch = true) (hk : Keeps ch a d) : Keeps
    ch a (clearIrq v d) := by
  refine Keeps.step ?_ hc hk
  unfold clearIrq
  repeat' (first | with_reducible exact Keeps.refl _ _ | with_reducible assumption | intro _ | with_reducible apply modMbx_keeps | decide)

theorem writeWake_keeps {ch : List DevField} {a : Device} (v : U32) (d : Device) (hc : within [.chip, .mbx, .vlog, .feed, .banks,
    .engines, .links, .drive, .cams, .loop, .cz, .crcs, .dram, .lanes, .fabric, .red, .pwr, .nv] ch = true) (hk : Keeps ch a d) : Keeps ch
    a (writeWake v d) := by
  refine Keeps.step ?_ hc hk
  unfold writeWake
  repeat' (first
      | with_reducible exact Keeps.refl _ _ | with_reducible assumption | intro _ | with_reducible apply draw_keeps
      | with_reducible apply wakeSource_keeps | with_reducible apply keeps_ite | split
      | with_reducible refine keeps_pair (by with_reducible assumption) ?_ | dsimp only
      | (rw [restSz_fold]; refine keeps_sz (h := ?_) (e := ⟨fun f hf => by cases f <;> first | exact absurd (by decide) hf | dsimp only [DevField.Same, Chip.own]⟩) ..)
      | decide)

theorem releasePads_keeps {ch : List DevField} {a : Device} (v : U32) (d : Device) (hc : within [.pwr] ch = true) (hk : Keeps ch a d) :
    Keeps ch a (releasePads v d) := by
  refine Keeps.step ?_ hc hk
  unfold releasePads
  repeat' (first
      | with_reducible exact Keeps.refl _ _ | with_reducible assumption | intro _ | dsimp only
      | (rw [restSz_fold]; refine keeps_sz (h := ?_) (e := ⟨fun f hf => by cases f <;> first | exact absurd (by decide) hf | dsimp only [DevField.Same, Chip.own]⟩) ..))

theorem writeClose_keeps {ch : List DevField} {a : Device} (v : U32) (d : Device) (hc : within [.mbx, .vlog, .lanes, .fabric, .prs] ch =
    true) (hk : Keeps ch a d) : Keeps ch a (writeClose v d) := by
  refine Keeps.step ?_ hc hk
  unfold writeClose
  repeat' (first
      | with_reducible exact Keeps.refl _ _ | with_reducible assumption | intro _ | with_reducible apply closeWindow_keeps
      | with_reducible apply keeps_ite | decide)

theorem writeDiagClear_keeps {ch : List DevField} {a : Device} (v : U32) (d : Device) (hc : within [.vlog] ch = true) (hk : Keeps ch a d)
    : Keeps ch a (writeDiagClear v d) := by
  refine Keeps.step ?_ hc hk
  unfold writeDiagClear
  repeat' (first
      | with_reducible exact Keeps.refl _ _ | with_reducible assumption | intro _ | with_reducible apply modDiag_keeps
      | with_reducible apply keeps_ite | decide)

theorem deliverPending_keeps {ch : List DevField} {a : Device} (d : Device) (hc : within [.mbx] ch = true) (hk : Keeps ch a d) : Keeps ch
    a (deliverPending d) := by
  refine Keeps.step ?_ hc hk
  unfold deliverPending
  repeat' (first
      | with_reducible exact Keeps.refl _ _ | with_reducible assumption | intro _ | with_reducible apply modMbx_keeps
      | with_reducible apply keeps_ite | with_reducible apply keeps_foldl | decide)

theorem writeRegister_keeps {ch : List DevField} {a : Device} (o : ℕ) (bs : List U8) (d : Device) (hc : within [.chip, .mbx, .vlog, .feed,
    .banks, .engines, .links, .drive, .cams, .loop, .cz, .crcs, .dram, .lanes, .fabric, .red, .pwr, .prs, .nv] ch = true) (hk : Keeps ch a
    d) : Keeps ch a (writeRegister o bs d) := by
  refine Keeps.step ?_ hc hk
  unfold writeRegister
  repeat' (first
      | with_reducible exact Keeps.refl _ _ | with_reducible assumption | intro _ | with_reducible apply setCmdTail_keeps
      | with_reducible apply setRspHead_keeps | with_reducible apply setEvtHead_keeps | with_reducible apply clearIrq_keeps
      | with_reducible apply modMbx_keeps | with_reducible apply writeWake_keeps | with_reducible apply releasePads_keeps
      | with_reducible apply writeClose_keeps | with_reducible apply writeDiagClear_keeps | with_reducible apply deliverPending_keeps
      | with_reducible apply keeps_ite | dsimp only | decide)

theorem writeWords_keeps {ch : List DevField} {a : Device} (fuel n : ℕ) (bs : List U8) (d : Device) (hc : within [.chip, .mbx, .vlog,
    .feed, .banks, .engines, .links, .drive, .cams, .loop, .cz, .crcs, .dram, .lanes, .fabric, .red, .pwr, .prs, .nv] ch = true) (hk :
    Keeps ch a d) : Keeps ch a (writeWords fuel n bs d) := by
  refine Keeps.step ?_ hc hk
  clear hk hc a
  induction fuel generalizing n bs d with
  | zero => exact Keeps.refl _ _
  | succ k ih =>
    unfold writeWords
    repeat' (first
        | with_reducible exact Keeps.refl _ _ | with_reducible assumption | intro _ | with_reducible refine Keeps.trans ?_ (ih ..)
        | with_reducible apply writeRegister_keeps | with_reducible apply keeps_ite | split | dsimp only | decide)

theorem relayAnswer_keeps {ch : List DevField} {a : Device} (e : InFlight) (status orig : U8) (reason : List U8) (detail : U32) (results :
    List U32) (d : Device) (hc : within [.mbx, .vlog, .lanes, .fabric] ch = true) (hk : Keeps ch a d) : Keeps ch a (relayAnswer e status
    orig reason detail results d) := by
  refine Keeps.step ?_ hc hk
  unfold relayAnswer
  repeat' (first
      | with_reducible exact Keeps.refl _ _ | with_reducible assumption | intro _ | with_reducible apply modMbx_keeps
      | with_reducible apply deliver_keeps | with_reducible apply remember_keeps | with_reducible apply keeps_ite | dsimp only | decide)

theorem abandonGated_keeps {ch : List DevField} {a : Device} (d : Device) (hc : within [.mbx, .vlog, .lanes, .fabric, .nv] ch = true) (hk
    : Keeps ch a d) : Keeps ch a (abandonGated d) := by
  refine Keeps.step ?_ hc hk
  unfold abandonGated
  repeat' (first
      | with_reducible exact Keeps.refl _ _ | with_reducible assumption | intro _ | with_reducible apply finishAll_keeps
      | with_reducible apply keeps_ite | split | dsimp only
      | (rw [restSz_fold]; refine keeps_sz (h := ?_) (e := ⟨fun f hf => by cases f <;> first | exact absurd (by decide) hf | dsimp only [DevField.Same, Chip.own]⟩) ..)
      | decide)

/-! Outcomes -/

/-- A next state keeps the queue and what is not listed. -/
def OutKeeps (ch : List DevField) (s : State) : Host.Outcome State Fault Refusal → Prop
  | .next t => t.pending = s.pending ∧ Keeps ch s.dev t.dev
  | _ => True

theorem outKeeps_next {ch : List DevField} {s : State} {d : Device} (h : Keeps ch s.dev d) : OutKeeps ch s (next s d) := ⟨rfl, h⟩

theorem outKeeps_ite {ch : List DevField} {s : State} {c : Prop} [Decidable c] {a b : Host.Outcome State Fault Refusal}
    (ha : OutKeeps ch s a) (hb : OutKeeps ch s b) : OutKeeps ch s (if c then a else b) := by
  split <;> assumption

theorem mervan_keeps {ch : List DevField} {g : Sig} {body : Cmd → List Int → Device → Done} {c : Cmd} {s : State}
    (hc : within [.mbx, .vlog, .lanes, .fabric] ch = true) (hd : g.reads = true → within [.vlog, .dram] ch = true)
    (hb : ∀ c a d, DoneKeeps ch d (body c a d)) : OutKeeps ch s (mervan g body c s) := by
  unfold mervan
  split
  · exact outKeeps_next (Keeps.refl _ _)
  · exact outKeeps_next (Keeps.trans (keeps_opt ‹_› (takeFront_keeps _ _ _ (within_trans (by decide) hc) (Keeps.refl _ _)))
      (enter_keeps _ _ _ _ hc hd hb))

theorem hostDoes_keeps {ch : List DevField} {f : Device → Device} {s : State} (hf : ∀ d, Keeps ch d (f d)) :
    OutKeeps ch s (hostDoes f s) := by
  unfold hostDoes
  split
  · exact outKeeps_next (hf _)
  · exact outKeeps_next (Keeps.refl _ _)

theorem outKeeps_onlyChanges {ch : List DevField} {i : Instr} (h : ∀ s, OutKeeps ch s (exec i s)) : OnlyChanges ch i := by
  intro s t e
  have := h s
  rw [e] at this
  exact this

end Sys2Proof.Machine
end

