-- ==== Sys2Proof/Laws/Memory.lean ====
section
/-! SUPPORT. The laws of the byte memory: what a read gives after a write, and that every write keeps the canonical form. -/
namespace Sys2Proof.Machine

/-- Every address listed is at least `n` and none is listed with 0, in rising order: the canonical form read from below. -/
def wfFrom : Nat → Mem → Prop
  | _, [] => True
  | n, (a, b) :: m => n ≤ a ∧ b ≠ 0 ∧ wfFrom (a + 1) m

theorem wfFrom_mono {n k : Nat} {m : Mem} (h : wfFrom n m) (hk : k ≤ n) : wfFrom k m := by
  cases m with
  | nil => trivial
  | cons x m => exact ⟨le_trans hk h.1, h.2⟩

theorem Mem.wf_iff (m : Mem) : m.wf = true ↔ wfFrom 0 m := by
  induction m with
  | nil => simp [Mem.wf, wfFrom]
  | cons x m ih =>
    obtain ⟨a, b⟩ := x
    cases m with
    | nil => simp [Mem.wf, wfFrom]
    | cons y m =>
      obtain ⟨a', b'⟩ := y
      simp only [Mem.wf, Bool.and_eq_true, ih, wfFrom, decide_eq_true_eq, bne_iff_ne]
      constructor
      · rintro ⟨⟨hb, ha⟩, -, h⟩
        exact ⟨Nat.zero_le _, hb, by omega, h⟩
      · rintro ⟨-, hb, ha, h⟩
        exact ⟨⟨hb, by omega⟩, Nat.zero_le _, h⟩

theorem memSet_wfFrom {n : Nat} {m : Mem} (h : wfFrom n m) (a : Nat) (b : U8) (ha : n ≤ a) : wfFrom n (memSet m a b) := by
  induction m generalizing n with
  | nil =>
    unfold memSet
    split
    · trivial
    · exact ⟨ha, ‹_›, trivial⟩
  | cons x m ih =>
    obtain ⟨k, v⟩ := x
    obtain ⟨h1, h2, h3⟩ := h
    unfold memSet
    split
    · split
      · exact ⟨h1, h2, h3⟩
      · exact ⟨ha, ‹_›, by omega, h2, h3⟩
    · split
      · split
        · exact wfFrom_mono h3 (by omega)
        · subst a
          exact ⟨ha, ‹_›, h3⟩
      · exact ⟨h1, h2, ih h3 (by omega)⟩

/-- A byte written keeps the canonical form. -/
theorem memSet_wf {m : Mem} (h : m.wf = true) (a : Nat) (b : U8) : (memSet m a b).wf = true := by
  rw [Mem.wf_iff] at h ⊢
  exact memSet_wfFrom h a b (Nat.zero_le _)

/-- Bytes written keep the canonical form. -/
theorem memWrite_wf {m : Mem} (h : m.wf = true) (a : Nat) (bs : List U8) : (memWrite m a bs).wf = true := by
  induction bs generalizing m a with
  | nil => exact h
  | cons b bs ih => exact ih (memSet_wf h a b) (a + 1)

theorem memGet_below {n : Nat} {m : Mem} (h : wfFrom n m) {a : Nat} (ha : a < n) : memGet m a = 0 := by
  induction m generalizing n with
  | nil => rfl
  | cons x m ih =>
    obtain ⟨k, v⟩ := x
    obtain ⟨h1, -, h3⟩ := h
    unfold memGet
    rw [if_neg (by omega)]
    exact ih h3 (by omega)

/-- A byte written is read back. -/
theorem memGet_memSet_same {m : Mem} (h : m.wf = true) (a : Nat) (b : U8) : memGet (memSet m a b) a = b := by
  rw [Mem.wf_iff] at h
  generalize 0 = n at h
  induction m generalizing n with
  | nil =>
    unfold memSet
    split
    · simp_all [memGet]
    · simp [memGet]
  | cons x m ih =>
    obtain ⟨k, v⟩ := x
    obtain ⟨h1, h2, h3⟩ := h
    unfold memSet
    split
    · split
      · unfold memGet
        rw [if_neg (by omega), memGet_below h3 (by omega)]
        simp_all
      · simp [memGet]
    · split
      · split
        · subst a
          rw [memGet_below h3 (by omega)]
          simp_all
        · simp [memGet]
      · unfold memGet
        rw [if_neg (by omega)]
        exact ih _ h3

/-- A byte written leaves every other byte as it was. -/
theorem memGet_memSet_other {m : Mem} (h : m.wf = true) {a x : Nat} (b : U8) (hx : x ≠ a) : memGet (memSet m a b) x = memGet m x := by
  rw [Mem.wf_iff] at h
  generalize 0 = n at h
  induction m generalizing n with
  | nil =>
    unfold memSet
    split
    · rfl
    · simp [memGet, hx.symm]
  | cons y m ih =>
    obtain ⟨k, v⟩ := y
    obtain ⟨h1, h2, h3⟩ := h
    unfold memSet
    split
    · split
      · rfl
      · conv_lhs => unfold memGet
        rw [if_neg hx.symm]
    · split
      · subst a
        split
        · conv_rhs => unfold memGet
          rw [if_neg hx.symm]
        · simp [memGet, hx.symm]
      · unfold memGet
        rw [ih _ h3]

/-- Bytes written at an address leave every byte outside them as it was. -/
theorem memGet_memWrite_other {m : Mem} (h : m.wf = true) (a : Nat) (bs : List U8) {x : Nat} (hx : x < a ∨ a + bs.length ≤ x) :
    memGet (memWrite m a bs) x = memGet m x := by
  induction bs generalizing m a with
  | nil => rfl
  | cons b bs ih =>
    simp only [List.length_cons] at hx
    unfold memWrite
    rw [ih (memSet_wf h a b) (a + 1) (by omega), memGet_memSet_other h b (by omega)]

/-- Bytes written at an address are read back. -/
theorem memGet_memWrite_same {m : Mem} (h : m.wf = true) (a : Nat) (bs : List U8) {i : Nat} (hi : i < bs.length) :
    memGet (memWrite m a bs) (a + i) = bs[i] := by
  induction bs generalizing m a i with
  | nil => simp at hi
  | cons b bs ih =>
    unfold memWrite
    cases i with
    | zero =>
      rw [memGet_memWrite_other (memSet_wf h a b) _ _ (by omega), Nat.add_zero, memGet_memSet_same h]
      rfl
    | succ i =>
      have hi : i < bs.length := by simpa using hi
      rw [show a + (i + 1) = a + 1 + i by omega, ih (memSet_wf h a b) (a + 1) hi]
      rfl

/-- The memory after a read of what was just written. -/
theorem memRead_memWrite {m : Mem} (h : m.wf = true) (a : Nat) (bs : List U8) : memRead (memWrite m a bs) a bs.length = bs := by
  apply List.ext_getElem
  · simp [memRead]
  · intro i h1 h2
    simp [memRead, memGet_memWrite_same h a bs h2]

end Sys2Proof.Machine
end

