-- ==== Sys2Proof/Laws/Dram.lean ====
section
/-! SUPPORT. What a write to DRAM can do, and where the commands that copy to it store. -/
namespace Sys2Proof.Machine

/-- A granule write changes no byte outside its range. -/
theorem writeGranule_outside (source a : Nat) (bs : List U8) (d : Device) (hw : d.dram.data.wf = true) (x : Nat) (h : x < a ∨ a +
    bs.length ≤ x) :
    memGet (writeGranule source a bs d).dram.data x = memGet d.dram.data x := by
  unfold writeGranule
  dsimp only
  split
  · split
    · exact memGet_memWrite_other hw _ _ h
    · rfl
  · exact memGet_memWrite_other hw _ _ h

/-- A granule write keeps the canonical form. -/
theorem writeGranule_wf (source a : Nat) (bs : List U8) (d : Device) (hw : d.dram.data.wf = true) : (writeGranule source a bs
    d).dram.data.wf = true := by
  unfold writeGranule
  dsimp only
  split
  · split
    · exact memWrite_wf hw _ _
    · exact hw
  · exact memWrite_wf hw _ _

/-- A write cut at granules changes no byte outside its range. -/
theorem writeGranules_outside (source fuel a : Nat) (bs : List U8) (d : Device) (hw : d.dram.data.wf = true) (x : Nat) (h : x < a ∨ a +
    bs.length ≤ x) :
    memGet (writeGranules source fuel a bs d).dram.data x = memGet d.dram.data x := by
  induction fuel generalizing a bs d with
  | zero => rfl
  | succ n ih =>
    unfold writeGranules
    dsimp only
    split
    · rfl
    · rw [ih _ _ _ (writeGranule_wf _ _ _ _ hw) (by simp; omega), writeGranule_outside _ _ _ _ hw _ (by simp; omega)]

/-- The bytes of DRAM, its poisoned granules and its error records stay. -/
structure SameBytes (d e : Device) : Prop where
  data   : e.dram.data = d.dram.data
  poison : e.dram.poison = d.dram.poison
  errors : e.dram.errors = d.dram.errors

theorem SameBytes.trans {d e f : Device} (h : SameBytes d e) (k : SameBytes e f) : SameBytes d f :=
  ⟨k.1.trans h.1, k.2.trans h.2, k.3.trans h.3⟩

theorem sameBytes_foldl {α : Type} {f : Device → α → Device} (hf : ∀ d x, SameBytes d (f d x)) (l : List α) (d : Device) :
    SameBytes d (l.foldl f d) := by
  induction l generalizing d with
  | nil => exact ⟨rfl, rfl, rfl⟩
  | cons x l ih => exact (hf d x).trans (ih _)

theorem sameBytes_ite {p : Prop} [Decidable p] {d x y : Device} (hx : SameBytes d x) (hy : SameBytes d y) : SameBytes d (if p then x else y) := by
  split <;> assumption

theorem sameBytes_refl (d : Device) : SameBytes d d := ⟨rfl, rfl, rfl⟩

/-- A victim refresh that is due leaves bytes, poison and error records. -/
theorem dueVictim_bytes (b : BankId) (row : Nat) (d : Device) : SameBytes d (dueVictim b row d) :=
  sameBytes_ite ⟨rfl, rfl, rfl⟩ ⟨rfl, rfl, rfl⟩

/-- An activation leaves bytes, poison and error records. -/
theorem hammer_bytes (r : BankId × Nat) (d : Device) : SameBytes d (hammer r d) := by
  unfold hammer
  dsimp only
  refine sameBytes_ite (SameBytes.trans ?_ (dueVictim_bytes _ _ _)) ?_ <;> exact ⟨rfl, rfl, rfl⟩

/-- A channel's traffic counted leaves bytes, poison and error records. -/
theorem countTraffic_bytes (ch : Port) (f : Traffic → Traffic) (d : Device) : SameBytes d (countTraffic ch f d) := ⟨rfl, rfl, rfl⟩

/-- A check line used leaves bytes, poison and error records. -/
theorem useLine_bytes (change : Bool) (n : Nat) (d : Device) : SameBytes d (useLine change n d) := by
  unfold useLine
  dsimp only
  refine SameBytes.trans (SameBytes.trans (sameBytes_ite (sameBytes_refl d) ((countTraffic_bytes ..).trans (hammer_bytes ..)))
    (sameBytes_foldl (fun _ _ => (countTraffic_bytes ..).trans (hammer_bytes ..)) _ _)) ⟨rfl, rfl, rfl⟩

/-- The accesses of a request leave bytes, poison and error records. -/
theorem touch_bytes (write : Bool) (a n : Nat) (d : Device) : SameBytes d (touch write a n d) := by
  unfold touch
  refine SameBytes.trans (SameBytes.trans (sameBytes_foldl (fun _ _ => ?_) _ _) (sameBytes_foldl (fun _ _ => ?_) _ _))
    (sameBytes_foldl (fun _ _ => ?_) _ _)
  · exact hammer_bytes ..
  · exact (countTraffic_bytes ..).trans (useLine_bytes ..)
  · exact countTraffic_bytes ..

/-- The ranges that a command reads: bytes, poison and error records stay. -/
theorem readRanges_bytes (g : Sig) (a : List Int) (d : Device) : SameBytes d (readRanges g a d) := by
  unfold readRanges
  split
  · refine sameBytes_foldl (fun d r => ?_) _ _
    unfold dramSee
    split
    · exact ⟨rfl, rfl, rfl⟩
    · exact touch_bytes ..
  · exact ⟨rfl, rfl, rfl⟩

/-- Logging a range for the mirror leaves the DRAM. -/
theorem logMirror_dram (a n : Nat) (d : Device) : (logMirror a n d).dram = d.dram :=
  (logMirror_keeps (ch := [.mbx, .vlog, .lanes, .fabric, .red]) (a₀ := d) a n d (by decide) (Keeps.refl _ _)).same .dram (by decide)

/-- A write that the controller performs changes no byte outside its range. -/
theorem dramPut_outside (source a : Nat) (bs : List U8) (d : Device) (hw : d.dram.data.wf = true) (x : Nat) (h : x < a ∨ a + bs.length ≤ x) :
    memGet (dramPut source a bs d).dram.data x = memGet d.dram.data x := by
  unfold dramPut
  split
  · rfl
  · have hb := (touch_bytes true a bs.length d).data
    rw [logMirror_dram, writeGranules_outside _ _ _ _ _ (by rw [hb]; exact hw) _ h, hb]

/-- A write to DRAM changes no byte outside its range; while requests are held it changes none. -/
theorem dramWrite_outside (source a : Nat) (bs : List U8) (d : Device) (hw : d.dram.data.wf = true) (x : Nat) (h : x < a ∨ a + bs.length ≤
    x) :
    memGet (dramWrite source a bs d).dram.data x = memGet d.dram.data x := by
  unfold dramWrite
  split
  · rfl
  · exact dramPut_outside _ _ _ _ hw _ h

/-- A write that meets no poisoned granule puts every byte in place and records nothing. -/
theorem writeGranules_inside (source fuel a : Nat) (bs : List U8) (d : Device) (hw : d.dram.data.wf = true) (hf : bs.length < fuel)
    (hp : ∀ g ∈ d.dram.poison, ¬ (a / 32 ≤ g ∧ 32 * g < a + bs.length)) :
    (writeGranules source fuel a bs d).dram.poison = d.dram.poison ∧ (writeGranules source fuel a bs d).dram.errors = d.dram.errors ∧
    ∀ i (h : i < bs.length), memGet (writeGranules source fuel a bs d).dram.data (a + i) = bs[i] := by
  induction fuel generalizing a bs d with
  | zero => omega
  | succ n ih =>
    unfold writeGranules
    dsimp only
    split
    · rename_i he
      have : bs = [] := by simpa using he
      subst this
      simp
    · rename_i he
      have hne : bs ≠ [] := by simpa using he
      have hpos : 0 < bs.length := List.length_pos_iff.mpr hne
      have hng : d.dram.poison.contains (a / 32) = false := by
        by_contra hc
        have hc : a / 32 ∈ d.dram.poison := by simpa using hc
        exact hp _ hc ⟨Nat.le_refl _, by omega⟩
      have hg : writeGranule source a (bs.take (32 - a % 32)) d = { d with dram := { d.dram with data := memWrite d.dram.data a (bs.take
          (32 - a % 32)) } } := by
        unfold writeGranule
        simp only [hng]
        rfl
      obtain ⟨h1, h2, h3⟩ := ih (a + (32 - a % 32)) (bs.drop (32 - a % 32)) (writeGranule source a (bs.take (32 - a % 32)) d)
        (writeGranule_wf _ _ _ _ hw) (by simp; omega) (by
          rw [hg]
          intro g hgm hh
          refine hp g hgm ⟨by omega, ?_⟩
          have := hh.2
          simp at this
          omega)
      refine ⟨by rw [h1, hg], by rw [h2, hg], fun i hi => ?_⟩
      by_cases hlt : i < 32 - a % 32
      · rw [writeGranules_outside _ _ _ _ _ (writeGranule_wf _ _ _ _ hw) _ (.inl (by omega)), hg]
        show memGet (memWrite d.dram.data a _) (a + i) = _
        rw [memGet_memWrite_same hw a _ (by simp; omega)]
        simp
      · have := h3 (i - (32 - a % 32)) (by simp; omega)
        have e : a + (32 - a % 32) + (i - (32 - a % 32)) = a + i := by omega
        rw [e] at this
        rw [this]
        simp
        congr 1
        omega

/-- A write to DRAM after a change that leaves its bytes. -/
theorem dramWrite_outside_of (source a : Nat) (bs : List U8) (e d : Device) (he : e.dram.data = d.dram.data) (hw : d.dram.data.wf = true)
    (x : Nat) (h : x < a ∨ a + bs.length ≤ x) :
    memGet (dramWrite source a bs e).dram.data x = memGet d.dram.data x := by
  rw [← he, dramWrite_outside _ _ _ _ (by rw [he]; exact hw) _ h]

/-- A response leaves the DRAM. -/
theorem complete_dram (g : Sig) (c : Cmd) (r : Reply) (d : Device) : (complete g c r d).dram = d.dram :=
  (complete_keeps (ch := [.mbx, .vlog, .lanes, .fabric]) (a := d) g c r d (by decide) (Keeps.refl _ _)).same .dram (by decide)

/-- Taking a command leaves the DRAM. -/
theorem takeFront_dram {g : Sig} {c : Cmd} {s d : Device} (h : takeFront g c s = some d) : d.dram = s.dram :=
  (keeps_opt h (takeFront_keeps (ch := [.mbx]) (a := s) g c s (by decide) (Keeps.refl _ _))).same .dram (by decide)

/-- A command read and found right so far has left the DRAM. -/
theorem entered_dram {g : Sig} {c : Cmd} {s d : Device} {a : List Int} (h : entered g c s = some (d, a)) : d.dram = s.dram := by
  unfold entered at h
  split at h
  · cases h
  · rename_i e he
    split at h
    · simp at h
      obtain ⟨_, rfl, _⟩ := h
      exact takeFront_dram he
    · cases h

/-- An accepted command has left the bytes of DRAM, its poison and its error records so far. -/
theorem accepted_bytes {g : Sig} {c : Cmd} {s d : Device} {a : List Int} (h : accepted g c s = some (d, a)) : SameBytes s d := by
  unfold accepted at h
  rw [Option.map_eq_some_iff] at h
  obtain ⟨⟨e, b⟩, he, hd⟩ := h
  cases hd
  have hs := entered_dram (Option.filter_eq_some_iff.mp he).1
  exact SameBytes.trans (e := e) ⟨by rw [hs], by rw [hs], by rw [hs]⟩ (readRanges_bytes ..)

/-- A command stores only at its place once its own rule's effect does. -/
theorem Rule.storesOnlyAt_of {r : Rule} {i : Cmd → Instr} {s : State} {place : List Int → Device → Nat × Nat} {body : Cmd → List Int →
    Device → Done}
    (he : ∀ c, exec (i c) s = mervan r.sig body c s)
    (hb : ∀ c a d, d.dram.data.wf = true → ∀ x, (x < (place a d).1 ∨ (place a d).1 + (place a d).2 ≤ x) →
      memGet (settle r.sig c (body c a d)).dram.data x = memGet d.dram.data x) : r.StoresOnlyAt i s place := by
  intro hw c d a t h ht x hx
  rw [he, mervan_accepted body h] at ht
  cases ht
  have hd := (accepted_bytes h).data
  rw [← hd]
  exact hb c a d (by rw [hd]; exact hw) x hx

end Sys2Proof.Machine
end

