-- ==== Sys2Proof/Laws/Invariant.lean ====
section
/-! SUPPORT. How the shared shapes of the model's text (an update of other fields, a choice, a fold, a pair, the outcome of a command) keep the
invariant of Safety.lean. The files beside this one say it once for every operation over a device; a proof cites them and unfolds none. -/
namespace Sys2Proof.Machine

theorem inv_ite {c : Prop} [Decidable c] {a b : Device} (ha : Inv a) (hb : Inv b) : Inv (if c then a else b) := by
  split <;> assumption

theorem inv_foldl {α : Type} (l : List α) (f : Device → α → Device) (d : Device) (hf : ∀ d x, Inv d → Inv (f d x)) (h : Inv d) :
    Inv (l.foldl f d) := by
  induction l generalizing d with
  | nil => exact h
  | cons x l ih => exact ih _ (hf _ _ h)

theorem inv_ite_fst {α : Type} {c : Prop} [Decidable c] {a b : Device × α} (ha : Inv a.1) (hb : Inv b.1) : Inv (if c then a else b).1 := by
  split <;> assumption

theorem inv_foldl_fst {α β : Type} (l : List α) (f : Device × β → α → Device × β) (p : Device × β) (hf : ∀ p x, Inv p.1 → Inv (f p x).1)
    (h : Inv p.1) : Inv (l.foldl f p).1 := by
  induction l generalizing p with
  | nil => exact h
  | cons x l ih => exact ih _ (hf _ _ h)

theorem inv_foldl_snd {α β : Type} (l : List α) (f : β × Device → α → β × Device) (p : β × Device) (hf : ∀ p x, Inv p.2 → Inv (f p x).2)
    (h : Inv p.2) : Inv (l.foldl f p).2 := by
  induction l generalizing p with
  | nil => exact h
  | cons x l ih => exact ih _ (hf _ _ h)

theorem pair_inv {α : Type} {p : α × Device} {a : α} {d : Device} (e : p = (a, d)) (h : Inv p.2) : Inv d := by
  subst e
  exact h

/-- The device of an option keeps the invariant. -/
def OptInv : Option Device → Prop
  | some d => Inv d
  | none => True

/-- The devices of a command's own outcome keep the invariant. -/
def DoneInv : Done → Prop
  | .reply _ d => Inv d
  | .after _ d f => Inv d ∧ ∀ e, Inv e → Inv (f e)
  | .later _ d => Inv d

theorem optInv_some {d : Device} (h : Inv d) : OptInv (some d) := h
theorem optInv_none : OptInv none := trivial
theorem opt_inv {o : Option Device} {d : Device} (e : o = some d) (h : OptInv o) : Inv d := by
  subst e
  exact h
theorem doneInv_ite {c : Prop} [Decidable c] {a b : Done} (ha : DoneInv a) (hb : DoneInv b) : DoneInv (if c then a else b) := by
  split <;> assumption
theorem doneInv_reply {r : Reply} {d : Device} (h : Inv d) : DoneInv (.reply r d) := h
theorem doneInv_later {w : Work} {d : Device} (h : Inv d) : DoneInv (.later w d) := h
theorem doneInv_after {r : Reply} {d : Device} {f : Device → Device} (h : Inv d) (hf : ∀ e, Inv e → Inv (f e)) : DoneInv (.after r d f) :=
  ⟨h, hf⟩

/-! The conservation of line tokens (R16). -/

theorem sum_set_add (l : List U64) (i : Nat) (h : i < l.length) (n : U64) : (l.set i (l[i] + n)).sum = l.sum + n := by
  induction l generalizing i with
  | nil => simp at h
  | cons x l ih =>
    cases i with
    | zero =>
      simp only [List.set_cons_zero, List.getElem_cons_zero, List.sum_cons]
      ac_rfl
    | succ i =>
      simp only [List.set_cons_succ, List.getElem_cons_succ, List.sum_cons]
      rw [ih i (by simpa using h)]
      ac_rfl

theorem sum_upd {m : Nat} (v : Vector U64 m) (i : Fin m) (n : U64) : (upd v i (· + n)).toList.sum = v.toList.sum + n := by
  unfold upd
  rw [Vector.toList_set]
  exact sum_set_add v.toList i.val (by simp) n

theorem balanced_skip {c : HeadCtr} (h : balanced c) (i : Fin 12) (n : U64) :
    balanced { c with scheduled := c.scheduled + n, skipped := upd c.skipped i (· + n) } := by
  unfold balanced at *
  simp only [sum_upd, h]
  ac_rfl

theorem balanced_fire {c : HeadCtr} (h : balanced c) : balanced { c with scheduled := c.scheduled + 1, fired := c.fired + 1 } := by
  unfold balanced at *
  simp only [h]
  ac_rfl

/-- A set whose heads' counters are all zero. -/
theorem setBalanced_new {l : LiveSet} (h : l.heads = Vector.replicate 40 {}) : setBalanced l := by
  intro k
  simp [h, balanced]

section
variable (d : Device) (chip : Chip) (mbx : Mbx) (vlog : Vlog) (acct : Acct) (jobs : Jobs) (feed : Feed) (banks : Banks)
    (engines : Vector Engine 40) (pos : Pos) (sheet : Sheet) (fire : Fire) (links : Vector HeadLink 40) (adapters : Vector Adapter 40)
    (drive : Drive) (cams : Cams) (loop : Loop) (cz : Cz) (crcs : Vector CrcUnit 8) (dram : Dram) (lanes : Vector Lane 49)
    (fabric : Fabric) (red : Red) (pwr : Pwr) (therm : Therm) (prs : Prs) (nv : Nv) (sz : Sz)

/-- A device of which only the log, the counter sets and the DRAM stay. -/
def restOf : Device :=
  Device.mk chip mbx d.vlog d.acct jobs feed banks engines pos sheet fire links adapters drive cams loop cz crcs d.dram lanes fabric red pwr
    therm prs nv sz

theorem restOf_fold :
    Device.mk chip mbx d.vlog d.acct jobs feed banks engines pos sheet fire links adapters drive cams loop cz crcs d.dram lanes fabric red pwr
      therm prs nv sz =
      restOf d chip mbx jobs feed banks engines pos sheet fire links adapters drive cams loop cz crcs lanes fabric red pwr therm prs nv sz :=
        rfl

theorem restOf_inv (h : Inv d) :
    Inv (restOf d chip mbx jobs feed banks engines pos sheet fire links adapters drive cams loop cz crcs lanes fabric red pwr therm prs nv sz)
      :=
  ⟨h.1, h.2, h.3, h.4, h.5, h.6⟩

variable (poison : List Nat) (physical : Nat) (dies : List DieInfo) (ok : Bool) (point : Fin 3) (failed : Vector Bool 3)
    (records : Vector (Option TrainRec) 3) (verify : Bool) (baseline : Vector U16 16) (relock : Option Nat) (tries : Nat)
    (work : Option MemWork) (widths : List Nat) (deferred : List MemWork) (late : Bool) (waiting : List DramReq) (holding : Bool)
    (queued : Option (Fin 3)) (weights : Vector Nat 10) (threshold : Nat) (rows : List (BankId × List (Nat × Nat)))
    (victims : List Victim) (victimQueue : List (BankId × Nat)) (victimRows : List (BankId × List Nat)) (acts : Vector (Vector Nat 2) 4)
    (rfms : Vector (Vector Nat 2) 4) (lines : Vector (List (Nat × Bool)) 4) (traffic : Vector Traffic 4) (owed : Vector (Vector Int 2) 4)
    (refreshed : Vector (Vector Nat 2) 4) (mult : Vector (Vector Nat 4) 4) (interval : Vector (Vector Nat 2) 4)
    (catchUp : Vector (Vector Nat 2) 4) (scrubHours : Nat) (scrubOn : Bool) (scrubAt : Nat) (errors : List MemError)
    (corrected : Nat × Nat) (drift : Vector Int 8) (selfRefresh : Bool)

/-- A device of which only the log, the counter sets and the bytes of the DRAM stay. -/
def dramRestOf : Device :=
  Device.mk chip mbx d.vlog d.acct jobs feed banks engines pos sheet fire links adapters drive cams loop cz crcs (Dram.mk d.dram.data poison physical dies ok point failed records verify baseline relock tries work widths deferred late waiting holding queued weights threshold rows victims victimQueue victimRows acts rfms lines traffic owed refreshed mult interval catchUp scrubHours scrubOn scrubAt errors corrected drift selfRefresh) lanes fabric red pwr therm prs nv sz

theorem dramRestOf_fold :
    Device.mk chip mbx d.vlog d.acct jobs feed banks engines pos sheet fire links adapters drive cams loop cz crcs (Dram.mk d.dram.data poison physical dies ok point failed records verify baseline relock tries work widths deferred late waiting holding queued weights threshold rows victims victimQueue victimRows acts rfms lines traffic owed refreshed mult interval catchUp scrubHours scrubOn scrubAt errors corrected drift selfRefresh) lanes fabric red pwr therm prs nv sz =
      dramRestOf d chip mbx jobs feed banks engines pos sheet fire links adapters drive cams loop cz crcs lanes fabric red pwr therm prs nv sz
        poison physical dies ok point failed records verify baseline relock tries work widths deferred late waiting holding queued weights threshold rows victims victimQueue victimRows acts rfms lines traffic owed refreshed mult interval catchUp scrubHours scrubOn scrubAt errors corrected drift selfRefresh := rfl

theorem dramRestOf_inv (h : Inv d) :
    Inv (dramRestOf d chip mbx jobs feed banks engines pos sheet fire links adapters drive cams loop cz crcs lanes fabric red pwr therm prs nv
      sz poison physical dies ok point failed records verify baseline relock tries work widths deferred late waiting holding queued weights threshold rows victims victimQueue victimRows acts rfms lines traffic owed refreshed mult interval catchUp scrubHours scrubOn scrubAt errors corrected drift selfRefresh) :=
  ⟨h.1, h.2, h.3, h.4, h.5, h.6⟩

variable (gen : U32) (diag : Diag)

/-- A device of which only the entries of the log, the isolated partners, the counter sets and the DRAM stay. -/
def logRestOf : Device :=
  Device.mk chip mbx (Vlog.mk d.vlog.entries gen d.vlog.isolated diag) d.acct jobs feed banks engines pos sheet fire links adapters drive
    cams loop cz crcs d.dram lanes fabric red pwr therm prs nv sz

theorem logRestOf_fold :
    Device.mk chip mbx (Vlog.mk d.vlog.entries gen d.vlog.isolated diag) d.acct jobs feed banks engines pos sheet fire links adapters drive
      cams loop cz crcs d.dram lanes fabric red pwr therm prs nv sz =
      logRestOf d chip mbx jobs feed banks engines pos sheet fire links adapters drive cams loop cz crcs lanes fabric red pwr therm prs nv sz
        gen diag := rfl

theorem logRestOf_inv (h : Inv d) :
    Inv (logRestOf d chip mbx jobs feed banks engines pos sheet fire links adapters drive cams loop cz crcs lanes fabric red pwr therm prs nv
      sz gen diag) :=
  ⟨h.1, h.2, h.3, h.4, h.5, h.6⟩

variable (overrun : Vector U32 3) (bandClose : List (U32 × U64)) (lastNotice : Option U64) (noticeNo : U32) (noticePitch : Nat)

/-- A device of which only the log, the live and latched sets and the DRAM stay. -/
def acctRestOf : Device :=
  Device.mk chip mbx d.vlog (Acct.mk d.acct.live d.acct.newest d.acct.older overrun bandClose lastNotice noticeNo noticePitch) jobs feed
    banks engines pos sheet fire links adapters drive cams loop cz crcs d.dram lanes fabric red pwr therm prs nv sz

theorem acctRestOf_fold :
    Device.mk chip mbx d.vlog (Acct.mk d.acct.live d.acct.newest d.acct.older overrun bandClose lastNotice noticeNo noticePitch) jobs feed
      banks engines pos sheet fire links adapters drive cams loop cz crcs d.dram lanes fabric red pwr therm prs nv sz =
      acctRestOf d chip mbx jobs feed banks engines pos sheet fire links adapters drive cams loop cz crcs lanes fabric red pwr therm prs nv sz
        overrun bandClose lastNotice noticeNo noticePitch := rfl

theorem acctRestOf_inv (h : Inv d) :
    Inv (acctRestOf d chip mbx jobs feed banks engines pos sheet fire links adapters drive cams loop cz crcs lanes fabric red pwr therm prs nv
      sz overrun bandClose lastNotice noticeNo noticePitch) :=
  ⟨h.1, h.2, h.3, h.4, h.5, h.6⟩

end

end Sys2Proof.Machine
end

