-- ==== Sys2Proof/Laws/InvariantOps.lean ====
section
/-! SUPPORT. One lemma per operation over a device: the invariant of Safety.lean is kept by the shared operations. -/
namespace Sys2Proof.Machine

/-! Flags.lean -/

theorem wakeCores_inv (d : Device) (hI : Inv d) : Inv (wakeCores d) := by
  unfold wakeCores
  repeat' (first | with_reducible assumption | intro _ | with_reducible apply inv_ite | (rw [restOf_fold]; with_reducible apply restOf_inv))

/-! Ops.lean -/

theorem modLink_inv (d : Device) (h : Head) (f : HeadLink → HeadLink) (hI : Inv d) : Inv (modLink d h f) := by
  unfold modLink
  repeat' (first | with_reducible assumption | intro _ | (rw [restOf_fold]; with_reducible apply restOf_inv))

theorem modAdapter_inv (d : Device) (h : Head) (f : Adapter → Adapter) (hI : Inv d) : Inv (modAdapter d h f) := by
  unfold modAdapter
  repeat' (first | with_reducible assumption | intro _ | (rw [restOf_fold]; with_reducible apply restOf_inv))

theorem modEngine_inv (d : Device) (h : Head) (f : Engine → Engine) (hI : Inv d) : Inv (modEngine d h f) := by
  unfold modEngine
  repeat' (first | with_reducible assumption | intro _ | (rw [restOf_fold]; with_reducible apply restOf_inv))

theorem modCam_inv (d : Device) (p : Port) (f : Cam → Cam) (hI : Inv d) : Inv (modCam d p f) := by
  unfold modCam
  repeat' (first | with_reducible assumption | intro _ | (rw [restOf_fold]; with_reducible apply restOf_inv))

theorem modPort_inv (d : Device) (p : Port) (f : FPort → FPort) (hI : Inv d) : Inv (modPort d p f) := by
  unfold modPort
  repeat' (first | with_reducible assumption | intro _ | (rw [restOf_fold]; with_reducible apply restOf_inv))

theorem modLane_inv (d : Device) (l : LaneId) (f : Lane → Lane) (hI : Inv d) : Inv (modLane d l f) := by
  unfold modLane
  repeat' (first | with_reducible assumption | intro _ | (rw [restOf_fold]; with_reducible apply restOf_inv))

theorem modGroup_inv (d : Device) (g : Sys2Proof.Group) (f : DacGroup → DacGroup) (hI : Inv d) : Inv (modGroup d g f) := by
  unfold modGroup
  repeat' (first | with_reducible assumption | intro _ | (rw [restOf_fold]; with_reducible apply restOf_inv))

theorem modDrive_inv (d : Device) (h : Head) (f : HeadDrive → HeadDrive) (hI : Inv d) : Inv (modDrive d h f) := by
  unfold modDrive
  repeat' (first | with_reducible assumption | intro _ | (rw [restOf_fold]; with_reducible apply restOf_inv))

theorem modSup_inv (d : Device) (k : Supply) (f : SupState → SupState) (hI : Inv d) : Inv (modSup d k f) := by
  unfold modSup
  repeat' (first | with_reducible assumption | intro _ | (rw [restOf_fold]; with_reducible apply restOf_inv))

theorem modBank_inv (d : Device) (t : Tbl) (f : Bank → Bank) (hI : Inv d) : Inv (modBank d t f) := by
  unfold modBank
  repeat' (first | with_reducible assumption | intro _ | (rw [restOf_fold]; with_reducible apply restOf_inv))

theorem modRing_inv (d : Device) (p : Plane) (f : Machine.Ring → Machine.Ring) (hI : Inv d) : Inv (modRing d p f) := by
  unfold modRing
  repeat' (first | with_reducible assumption | intro _ | (rw [restOf_fold]; with_reducible apply restOf_inv))

theorem modColour_inv (d : Device) (k : Plane) (f : Colour → Colour) (hI : Inv d) : Inv (modColour d k f) := by
  unfold modColour
  repeat' (first | with_reducible assumption | intro _ | (rw [restOf_fold]; with_reducible apply restOf_inv))

theorem modOwner_inv (d : Device) (k : Plane) (f : Owner → Owner) (hI : Inv d) : Inv (modOwner d k f) := by
  unfold modOwner
  repeat' (first | with_reducible assumption | intro _ | (rw [restOf_fold]; with_reducible apply restOf_inv))

theorem modCrc_inv (d : Device) (u : Fin 8) (f : CrcUnit → CrcUnit) (hI : Inv d) : Inv (modCrc d u f) := by
  unfold modCrc
  repeat' (first | with_reducible assumption | intro _ | (rw [restOf_fold]; with_reducible apply restOf_inv))

theorem modDiag_inv (d : Device) (f : Diag → Diag) (hI : Inv d) : Inv (modDiag d f) := by
  unfold modDiag
  repeat' (first | with_reducible assumption | intro _ | (rw [logRestOf_fold]; with_reducible apply logRestOf_inv))

theorem modMbx_inv (d : Device) (f : Mbx → Mbx) (hI : Inv d) : Inv (modMbx d f) := by
  unfold modMbx
  repeat' (first | with_reducible assumption | intro _ | (rw [restOf_fold]; with_reducible apply restOf_inv))

theorem modFabric_inv (d : Device) (f : Fabric → Fabric) (hI : Inv d) : Inv (modFabric d f) := by
  unfold modFabric
  repeat' (first | with_reducible assumption | intro _ | (rw [restOf_fold]; with_reducible apply restOf_inv))

theorem modRed_inv (d : Device) (f : Red → Red) (hI : Inv d) : Inv (modRed d f) := by
  unfold modRed
  repeat' (first | with_reducible assumption | intro _ | (rw [restOf_fold]; with_reducible apply restOf_inv))

theorem countAll_inv (d : Device) (f : LiveSet → LiveSet) (hf : ∀ s, setBalanced s → setBalanced (f s)) (h : Inv d) : Inv (countAll d f) :=
  ⟨h.1, h.2, h.3, fun k => by simpa [countAll, mapAll] using hf _ (h.4 k), h.5, h.6⟩

theorem countHead_inv (d : Device) (h : Head) (f : HeadCtr → HeadCtr) (hf : ∀ c, balanced c → balanced (f c)) (hI : Inv d) :
    Inv (countHead d h f) := by
  refine countAll_inv _ _ (fun s hs k => ?_) hI
  by_cases hk : h = k
  · subst hk
    simpa [upd] using hf _ (hs h)
  · have hk : h.val ≠ k.val := fun e => hk (Fin.ext e)
    simpa [upd, Vector.getElem_set, hk] using hs k

theorem draw_inv (d : Device) (hI : Inv d) : Inv (draw d).2 := by
  unfold draw
  repeat' (first | with_reducible assumption | intro _ | (rw [restOf_fold]; with_reducible apply restOf_inv))

theorem drawBytes_inv (n : ℕ) (d : Device) (hI : Inv d) : Inv (drawBytes n d).2 := by
  unfold drawBytes
  repeat' (first | with_reducible assumption | intro _ | (rw [restOf_fold]; with_reducible apply restOf_inv))

theorem signalVector_inv (k : ℕ) (d : Device) (hI : Inv d) : Inv (signalVector k d) := by
  unfold signalVector
  repeat' (first | with_reducible assumption | intro _ | with_reducible apply modMbx_inv | with_reducible apply inv_ite)

theorem setIrq_inv (k : ℕ) (d : Device) (hI : Inv d) : Inv (setIrq k d) := by
  unfold setIrq
  repeat' (first
      | with_reducible assumption | intro _ | with_reducible apply modMbx_inv | with_reducible apply signalVector_inv
      | with_reducible apply inv_ite)

theorem noteRed_inv (was d : Device) (hI : Inv d) : Inv (noteRed was d) := by
  unfold noteRed
  repeat' (first | with_reducible assumption | intro _ | with_reducible apply setIrq_inv | with_reducible apply inv_ite)

theorem noteFault_inv (was d : Device) (hI : Inv d) : Inv (noteFault was d) := by
  unfold noteFault
  repeat' (first | with_reducible assumption | intro _ | with_reducible apply setIrq_inv | with_reducible apply inv_ite)

theorem putSlot_inv (base : U64) (sramAt at_ : ℕ) (bs : List U8) (d : Device) (hI : Inv d) : Inv (putSlot base sramAt at_ bs d) := by
  unfold putSlot
  repeat' (first
      | with_reducible assumption | intro _ | with_reducible apply modMbx_inv | with_reducible apply inv_ite
      | (rw [restOf_fold]; with_reducible apply restOf_inv))

theorem putIndices_inv (d : Device) (hI : Inv d) : Inv (putIndices d) := by
  unfold putIndices
  repeat' (first | with_reducible assumption | intro _ | with_reducible apply inv_ite | (rw [restOf_fold]; with_reducible apply restOf_inv))

theorem writeEvent_inv (e : Event) (d : Device) (hI : Inv d) : Inv (writeEvent e d) := by
  unfold writeEvent
  repeat' (first
      | with_reducible assumption | intro _ | with_reducible apply modDiag_inv | with_reducible apply modMbx_inv
      | with_reducible apply putSlot_inv | with_reducible apply setIrq_inv | with_reducible apply putIndices_inv
      | with_reducible apply inv_ite)

theorem releaseFrame_inv (p : Option Port) (f : DataFrame) (d : Device) (hI : Inv d) : Inv (releaseFrame p f d) := by
  unfold releaseFrame
  repeat' (first | with_reducible assumption | intro _ | with_reducible apply modPort_inv | split)

theorem beginFrame_inv (p : Port) (k : Fin 2) (f : PortFrame) (d : Device) (hI : Inv d) : Inv (beginFrame p k f d) := by
  unfold beginFrame
  repeat' (first | with_reducible assumption | intro _ | with_reducible apply modPort_inv | with_reducible apply modLane_inv)

theorem sendNext_inv (p : Port) (k : Fin 2) (n : NextFrame) (d : Device) (hI : Inv d) : Inv (sendNext p k n d) := by
  unfold sendNext
  repeat' (first
      | with_reducible assumption | intro _ | with_reducible apply beginFrame_inv | with_reducible apply modPort_inv
      | with_reducible apply releaseFrame_inv | split)

theorem fillPort_inv (p : Port) (fuel : ℕ) (d : Device) (hI : Inv d) : Inv (fillPort p fuel d) := by
  induction fuel generalizing p d with
  | zero => exact hI
  | succ k ih =>
    unfold fillPort
    repeat' (first | with_reducible assumption | intro _ | with_reducible apply ih | with_reducible apply sendNext_inv | split)

theorem pumpPort_inv (p : Port) (d : Device) (hI : Inv d) : Inv (pumpPort p d) := by
  unfold pumpPort
  repeat' (first
      | with_reducible assumption | intro _ | with_reducible apply modPort_inv | with_reducible apply fillPort_inv
      | with_reducible apply inv_ite)

theorem runPort_inv (p : Port) (now fuel : ℕ) (d : Device) (hI : Inv d) : Inv (runPort p now fuel d) := by
  induction fuel generalizing p now d with
  | zero => exact hI
  | succ k ih =>
    unfold runPort
    repeat' (first
        | with_reducible assumption | intro _ | with_reducible apply ih | with_reducible apply modPort_inv
        | with_reducible apply fillPort_inv | with_reducible apply inv_ite | split)

theorem advancePorts_inv (d : Device) (hI : Inv d) : Inv (advancePorts d) := by
  unfold advancePorts
  repeat' (first
      | with_reducible assumption | intro _ | with_reducible apply runPort_inv | with_reducible apply inv_ite
      | with_reducible apply inv_foldl)

theorem forwardOn_inv (src : Option Port) (p : Port) (f : DataFrame) (d : Device) (hI : Inv d) : Inv (forwardOn src p f d) := by
  unfold forwardOn
  repeat' (first | with_reducible assumption | intro _ | with_reducible apply pumpPort_inv | with_reducible apply modPort_inv)

theorem sendOnPort_inv (p : Port) (f : DataFrame) (d : Device) (hI : Inv d) : Inv (sendOnPort p f d) := by
  unfold sendOnPort
  repeat' (first | with_reducible assumption | intro _ | with_reducible apply forwardOn_inv)

theorem giveLink_inv (p : Port) (t : LinkTx) (d : Device) (hI : Inv d) : Inv (giveLink p t d) := by
  unfold giveLink
  repeat' (first | with_reducible assumption | intro _ | with_reducible apply pumpPort_inv | with_reducible apply modPort_inv)

theorem floodExcept_inv (skip : Option Port) (f : DataFrame) (d : Device) (hI : Inv d) : Inv (floodExcept skip f d) := by
  unfold floodExcept
  repeat' (first
      | with_reducible assumption | intro _ | with_reducible apply sendOnPort_inv | with_reducible apply inv_ite
      | with_reducible apply inv_foldl)

theorem takeSrcSeq_inv (vc : Vc) (dest : U8) (d : Device) (hI : Inv d) : Inv (takeSrcSeq vc dest d).2 := by
  unfold takeSrcSeq
  repeat' (first | with_reducible assumption | intro _ | with_reducible apply modFabric_inv | split | dsimp only)

theorem broadcast_inv (vc : Vc) (msgType : ℕ) (payload : List U8) (d : Device) (hI : Inv d) : Inv (broadcast vc msgType payload d) := by
  unfold broadcast
  repeat' (first
      | with_reducible assumption | intro _ | with_reducible apply takeSrcSeq_inv | with_reducible apply floodExcept_inv
      | with_reducible apply inv_ite)

theorem trySend_inv (vc : Vc) (dict : Bool) (dest : U8) (msgType : ℕ) (payload : List U8) (d : Device) (hI : Inv d) : Inv (trySend vc dict
    dest msgType payload d).2 := by
  unfold trySend
  repeat' (first | with_reducible assumption | intro _ | with_reducible apply takeSrcSeq_inv | with_reducible apply sendOnPort_inv | split)

theorem logViolation_inv (code : U8) (block : BitVec 5) (source : U16) (answer : BitVec 2) (d : Device) (h : Inv d) :
    Inv (logViolation code block source answer d).2 := by
  unfold logViolation
  dsimp only
  split
  · exact ⟨by simpa using h.1, h.2, h.3, h.4, h.5, h.6⟩
  · split
    · exact ⟨by simp, h.2, h.3, h.4, h.5, h.6⟩
    · rename_i hf
      have hf : ¬ 256 ≤ d.vlog.entries.length := by simpa using hf
      exact ⟨by simp; omega, h.2, h.3, h.4, h.5, h.6⟩

theorem ownEvent_inv (n : EvName) (args : List U32) (ft wp : U64) (d : Device) (hI : Inv d) : Inv (ownEvent n args ft wp d) := by
  unfold ownEvent
  repeat' (first | with_reducible assumption | intro _ | with_reducible apply writeEvent_inv | with_reducible apply modMbx_inv)

theorem relayLost_inv (n : U8) (d : Device) (hI : Inv d) : Inv (relayLost n d) := by
  unfold relayLost
  repeat' (first
      | with_reducible assumption | intro _ | with_reducible apply takeSrcSeq_inv | with_reducible apply logViolation_inv
      | with_reducible apply ownEvent_inv | with_reducible apply inv_ite)

theorem relayEvent_inv (e : Event) (d : Device) (hI : Inv d) : Inv (relayEvent e d) := by
  unfold relayEvent
  repeat' (first
      | with_reducible assumption | intro _ | with_reducible apply trySend_inv | with_reducible apply relayLost_inv
      | with_reducible apply inv_ite | with_reducible apply inv_foldl | split | refine pair_inv (by with_reducible assumption) ?_)

theorem recordEvent_inv (n : EvName) (args : List U32) (ft wp : U64) (d : Device) (hI : Inv d) : Inv (recordEvent n args ft wp d) := by
  unfold recordEvent
  repeat' (first | with_reducible assumption | intro _ | with_reducible apply relayEvent_inv | with_reducible apply ownEvent_inv)

theorem raise_inv (n : EvName) (args : List U32) (d : Device) (hI : Inv d) : Inv (raise n args d) := by
  unfold raise
  repeat' (first
      | with_reducible assumption | intro _ | with_reducible apply recordEvent_inv | with_reducible apply modMbx_inv
      | with_reducible apply inv_ite)

theorem violation_inv (code : U8) (block : BitVec 5) (source : U16) (answer : BitVec 2) (d : Device) (hI : Inv d) : Inv (violation code
    block source answer d) := by
  unfold violation
  repeat' (first
      | with_reducible assumption | intro _ | with_reducible apply logViolation_inv | with_reducible apply raise_inv | split
      | refine pair_inv (by with_reducible assumption) ?_)

theorem fabViolation_inv (code : U8) (p : Port) (ans : BitVec 2) (d : Device) (hI : Inv d) : Inv (fabViolation code p ans d) := by
  unfold fabViolation
  repeat' (first | with_reducible assumption | intro _ | with_reducible apply violation_inv)

theorem sendTo_inv (vc : Vc) (dict : Bool) (dest : U8) (msgType : ℕ) (payload : List U8) (d : Device) (hI : Inv d) : Inv (sendTo vc dict
    dest msgType payload d).2 := by
  unfold sendTo
  repeat' (first
      | with_reducible assumption | intro _ | with_reducible apply trySend_inv | with_reducible apply takeSrcSeq_inv
      | with_reducible apply raise_inv | with_reducible apply fabViolation_inv | split | refine pair_inv (by with_reducible assumption) ?_)

theorem sendUnreachable_inv (f : DataFrame) (d : Device) (hI : Inv d) : Inv (sendUnreachable f d) := by
  unfold sendUnreachable
  repeat' (first | with_reducible assumption | intro _ | with_reducible apply sendTo_inv)

theorem accountingBreak_inv (cond : Nat) (d : Device) (hI : Inv d) : Inv (accountingBreak cond d) := by
  unfold accountingBreak
  repeat' (first
      | with_reducible assumption | exact fun _ h => h | exact fun _ h => balanced_skip h _ _ | exact fun _ h => balanced_fire h | intro _
      | with_reducible apply raise_inv | with_reducible apply countAll_inv)

theorem modDram_inv (d : Device) (f : Dram → Dram) (hf : ∀ m, (f m).data = m.data) (h : Inv d) : Inv (modDram d f) :=
  ⟨h.1, h.2, by unfold modDram; rw [hf]; exact h.3, h.4, h.5, h.6⟩

theorem beginVictim_inv (b : BankId) (row : ℕ) (d : Device) (hI : Inv d) : Inv (beginVictim b row d) := by
  unfold beginVictim
  repeat' (first | with_reducible assumption | rfl | intro _ | with_reducible apply draw_inv | with_reducible apply modDram_inv)

theorem dueVictim_inv (b : BankId) (row : ℕ) (d : Device) (hI : Inv d) : Inv (dueVictim b row d) := by
  unfold dueVictim
  repeat' (first
      | with_reducible assumption | rfl | intro _ | with_reducible apply beginVictim_inv | with_reducible apply modDram_inv
      | with_reducible apply inv_ite)

theorem countActivation_inv (ch : Port) (rank : Fin 2) (d : Device) (hI : Inv d) : Inv (countActivation ch rank d) := by
  unfold countActivation
  repeat' (first | with_reducible assumption | rfl | intro _ | with_reducible apply modDram_inv)

theorem hammer_inv (at_ : BankId × ℕ) (d : Device) (hI : Inv d) : Inv (hammer at_ d) := by
  unfold hammer
  repeat' (first
      | with_reducible assumption | rfl | intro _ | with_reducible apply countActivation_inv | with_reducible apply modDram_inv
      | with_reducible apply dueVictim_inv | with_reducible apply modDiag_inv | with_reducible apply inv_ite)

theorem countTraffic_inv (ch : Port) (f : Traffic → Traffic) (d : Device) (hI : Inv d) : Inv (countTraffic ch f d) := by
  unfold countTraffic
  repeat' (first | with_reducible assumption | rfl | intro _ | with_reducible apply modDram_inv)

theorem useLine_inv (change : Bool) (n : ℕ) (d : Device) (hI : Inv d) : Inv (useLine change n d) := by
  unfold useLine
  repeat' (first
      | with_reducible assumption | rfl | intro _ | with_reducible apply hammer_inv | with_reducible apply countTraffic_inv
      | with_reducible apply modDram_inv | with_reducible apply inv_ite | with_reducible apply inv_foldl)

theorem touch_inv (write : Bool) (a n : ℕ) (d : Device) (hI : Inv d) : Inv (touch write a n d) := by
  unfold touch
  repeat' (first
      | with_reducible assumption | intro _ | with_reducible apply hammer_inv | with_reducible apply useLine_inv
      | with_reducible apply countTraffic_inv | with_reducible apply inv_foldl)

theorem dramSee_inv (a n : ℕ) (d : Device) (hI : Inv d) : Inv (dramSee a n d) := by
  unfold dramSee
  repeat' (first | with_reducible assumption | intro _ | with_reducible apply touch_inv | with_reducible apply inv_ite)

theorem completeRead_inv (a n : ℕ) (d : Device) (hI : Inv d) : Inv (completeRead a n d) := by
  unfold completeRead
  repeat' (first | with_reducible assumption | intro _ | (rw [restOf_fold]; with_reducible apply restOf_inv))

theorem memError_inv (a source kind : ℕ) (d : Device) (hI : Inv d) : Inv (memError a source kind d) := by
  unfold memError
  repeat' (first | with_reducible assumption | intro _ | (rw [dramRestOf_fold]; with_reducible apply dramRestOf_inv))

theorem writeGranule_inv (source a : Nat) (bs : List U8) (d : Device) (h : Inv d) : Inv (writeGranule source a bs d) := by
  unfold writeGranule
  dsimp only
  repeat' split
  · exact ⟨h.1, h.2, memWrite_wf h.3 _ _, h.4, h.5, h.6⟩
  · exact memError_inv _ _ _ _ h
  · exact ⟨h.1, h.2, memWrite_wf h.3 _ _, h.4, h.5, h.6⟩

theorem writeGranules_inv (source fuel n : ℕ) (bs : List U8) (d : Device) (hI : Inv d) : Inv (writeGranules source fuel n bs d) := by
  induction fuel generalizing source n bs d with
  | zero => exact hI
  | succ k ih =>
    unfold writeGranules
    repeat' (first
        | with_reducible assumption | intro _ | with_reducible apply ih | with_reducible apply writeGranule_inv
        | with_reducible apply inv_ite)

theorem popMirror_inv (n : ℕ) (d : Device) (hI : Inv d) : Inv (popMirror n d) := by
  unfold popMirror
  repeat' (first | with_reducible assumption | intro _ | with_reducible apply modRed_inv)

theorem mirrorPass_inv (d : Device) (hI : Inv d) : Inv (mirrorPass d) := by
  unfold mirrorPass
  repeat' (first | with_reducible assumption | intro _ | with_reducible apply modRed_inv)

theorem logMirror_inv (a n : ℕ) (d : Device) (hI : Inv d) : Inv (logMirror a n d) := by
  unfold logMirror
  repeat' (first
      | with_reducible assumption | intro _ | with_reducible apply raise_inv | with_reducible apply mirrorPass_inv
      | with_reducible apply modRed_inv | with_reducible apply inv_ite)

theorem dramPut_inv (source a : ℕ) (bs : List U8) (d : Device) (hI : Inv d) : Inv (dramPut source a bs d) := by
  unfold dramPut
  repeat' (first
      | with_reducible assumption | intro _ | with_reducible apply logMirror_inv | with_reducible apply writeGranules_inv
      | with_reducible apply touch_inv | with_reducible apply inv_ite)

theorem dramWrite_inv (source a : ℕ) (bs : List U8) (d : Device) (hI : Inv d) : Inv (dramWrite source a bs d) := by
  unfold dramWrite
  repeat' (first
      | with_reducible assumption | intro _ | with_reducible apply dramPut_inv | with_reducible apply inv_ite
      | (rw [dramRestOf_fold]; with_reducible apply dramRestOf_inv))

theorem deliver_inv (o : Sys2Proof.Origin) (resp : Response) (d : Device) (hI : Inv d) : Inv (deliver o resp d) := by
  unfold deliver
  repeat' (first
      | with_reducible assumption | intro _ | with_reducible apply putSlot_inv | with_reducible apply modMbx_inv
      | with_reducible apply setIrq_inv | with_reducible apply putIndices_inv | with_reducible apply sendTo_inv
      | with_reducible apply inv_ite | split)

theorem remember_inv (e : Remembered) (d : Device) (hI : Inv d) : Inv (remember e d) := by
  unfold remember
  repeat' (first | with_reducible assumption | intro _ | with_reducible apply modMbx_inv)

theorem commandDone_inv (e : InFlight) (r : Reply) (d : Device) (hI : Inv d) : Inv (commandDone e r d) := by
  unfold commandDone
  repeat' (first
      | with_reducible assumption | intro _ | with_reducible apply modMbx_inv | with_reducible apply raise_inv
      | with_reducible apply remember_inv)

theorem answer_inv (e : InFlight) (r : Reply) (d : Device) (hI : Inv d) : Inv (answer e r d) := by
  unfold answer
  repeat' (first | with_reducible assumption | intro _ | with_reducible apply deliver_inv | with_reducible apply remember_inv)

theorem finish_inv (e : InFlight) (r : Reply) (d : Device) (hI : Inv d) : Inv (finish e r d) := by
  unfold finish
  repeat' (first
      | with_reducible assumption | intro _ | with_reducible apply modMbx_inv | with_reducible apply answer_inv
      | with_reducible apply inv_ite)

theorem finishWork_inv (p : Work → Bool) (r : Reply) (d : Device) (hI : Inv d) : Inv (finishWork p r d) := by
  unfold finishWork
  repeat' (first | with_reducible assumption | intro _ | with_reducible apply finish_inv | split)

theorem finishAll_inv (p : Work → Bool) (r : Reply) (d : Device) (hI : Inv d) : Inv (finishAll p r d) := by
  unfold finishAll
  repeat' (first | with_reducible assumption | intro _ | with_reducible apply finish_inv | with_reducible apply inv_foldl)

theorem ok_inv (d : Device) (results : optParam (List U32) []) (hI : Inv d) : DoneInv (ok d results) := by
  unfold ok
  repeat' (first | with_reducible assumption | intro _ | with_reducible apply doneInv_ite | with_reducible apply doneInv_reply)

theorem no_inv (d : Device) (st : Status) (r : optParam Reason Reason.none) (detail : optParam ℕ 0) (hI : Inv d) : DoneInv (no d st r
    detail) := by
  unfold no
  repeat' (first | with_reducible assumption | intro _ | with_reducible apply doneInv_ite | with_reducible apply doneInv_reply)

theorem poisoned_inv (a : ℕ) (d : Device) (hI : Inv d) : DoneInv (poisoned a d) := by
  unfold poisoned
  repeat' (first | with_reducible assumption | intro _ | with_reducible apply doneInv_ite | with_reducible apply doneInv_reply)

theorem readRanges_inv (g : Sig) (a : List ℤ) (d : Device) (hI : Inv d) : Inv (readRanges g a d) := by
  unfold readRanges
  repeat' (first
      | with_reducible assumption | intro _ | with_reducible apply dramSee_inv | with_reducible apply inv_ite
      | with_reducible apply inv_foldl)

theorem checkAndRun_inv (g : Sig) (c : Cmd) (body : Cmd → List Int → Device → Done) (a : List Int) (d : Device)
    (hb : ∀ c a d, Inv d → DoneInv (body c a d)) (h : Inv d) : DoneInv (checkAndRun g c body a d) := by
  unfold checkAndRun
  repeat' (first
      | with_reducible assumption | with_reducible apply no_inv | with_reducible apply hb | with_reducible apply readRanges_inv
      | with_reducible apply doneInv_ite)

theorem relayCommand_inv (g : Sig) (c : Cmd) (d : Device) (hI : Inv d) : DoneInv (relayCommand g c d) := by
  unfold relayCommand
  repeat' (first
      | with_reducible assumption | intro _ | with_reducible apply no_inv | with_reducible apply sendTo_inv
      | with_reducible apply takeSrcSeq_inv | with_reducible apply doneInv_ite | with_reducible apply doneInv_reply
      | with_reducible apply doneInv_later | split | refine pair_inv (by with_reducible assumption) ?_)

theorem checked_inv (g : Sig) (c : Cmd) (body : Cmd → List Int → Device → Done) (d : Device)
    (hb : ∀ c a d, Inv d → DoneInv (body c a d)) (h : Inv d) : DoneInv (checked g c body d) := by
  unfold checked
  repeat' (first
      | with_reducible assumption | with_reducible apply no_inv | with_reducible apply checkAndRun_inv
      | with_reducible apply relayCommand_inv | with_reducible apply doneInv_ite | split)

theorem tagless_inv (g : Sig) (c : Cmd) (st : Status) (r : Reason) (d : Device) (hI : Inv d) : Inv (tagless g c st r d) := by
  unfold tagless
  repeat' (first | with_reducible assumption | intro _ | with_reducible apply deliver_inv)

theorem duplicate_inv (g : Sig) (c : Cmd) (m : Remembered) (d : Device) (hI : Inv d) : Inv (duplicate g c m d) := by
  unfold duplicate
  repeat' (first | with_reducible assumption | intro _ | with_reducible apply deliver_inv)

theorem complete_inv (g : Sig) (c : Cmd) (r : Reply) (d : Device) (hI : Inv d) : Inv (complete g c r d) := by
  unfold complete
  repeat' (first
      | with_reducible assumption | intro _ | with_reducible apply deliver_inv | with_reducible apply modMbx_inv
      | with_reducible apply answer_inv | with_reducible apply inv_ite)

theorem await_inv (g : Sig) (c : Cmd) (w : Work) (d : Device) (hI : Inv d) : Inv (await g c w d) := by
  unfold await
  repeat' (first
      | with_reducible assumption | intro _ | with_reducible apply deliver_inv | with_reducible apply modMbx_inv
      | with_reducible apply inv_ite)

theorem settle_inv (g : Sig) (c : Cmd) (x : Done) (h : DoneInv x) : Inv (settle g c x) := by
  unfold settle
  split
  · exact complete_inv _ _ _ _ h
  · exact h.2 _ (complete_inv _ _ _ _ h.1)
  · exact await_inv _ _ _ _ h

theorem accept_inv (g : Sig) (c : Cmd) (body : Cmd → List Int → Device → Done) (d : Device)
    (hb : ∀ c a d, Inv d → DoneInv (body c a d)) (h : Inv d) : Inv (accept g c body d) := by
  unfold accept
  dsimp only
  split
  · exact answer_inv _ _ _ h
  · exact settle_inv _ _ _ (checked_inv _ _ _ _ hb h)

theorem enter_inv (g : Sig) (c : Cmd) (body : Cmd → List Int → Device → Done) (d : Device)
    (hb : ∀ c a d, Inv d → DoneInv (body c a d)) (h : Inv d) : Inv (enter g c body d) := by
  unfold enter
  repeat' (first
      | with_reducible assumption | with_reducible apply tagless_inv | with_reducible apply violation_inv
      | with_reducible apply duplicate_inv | with_reducible apply accept_inv | with_reducible apply inv_ite | split)

theorem readFront_inv (c : Cmd) (op : U16) (d : Device) (hI : Inv d) : OptInv (readFront c op d) := by
  unfold readFront
  repeat' (first
      | with_reducible assumption | intro _ | with_reducible apply putIndices_inv | with_reducible apply modMbx_inv | exact optInv_none
      | with_reducible apply optInv_some | split)

theorem takeFront_inv (g : Sig) (c : Cmd) (d : Device) (hI : Inv d) : OptInv (takeFront g c d) := by
  unfold takeFront
  repeat' (first
      | with_reducible assumption | intro _ | with_reducible apply readFront_inv | exact optInv_none | with_reducible apply optInv_some
      | split)

theorem finishSeq_inv (key : RingKey) (seq : U32) (r : Reply) (d : Device) (hI : Inv d) : Inv (finishSeq key seq r d) := by
  unfold finishSeq
  repeat' (first | with_reducible assumption | intro _ | with_reducible apply finish_inv | split)

theorem dirty_inv (d : Device) (hI : Inv d) : Inv (dirty d) := by
  unfold dirty
  repeat' (first | with_reducible assumption | intro _ | with_reducible apply modRed_inv)

theorem done_inv (d : Device) (hI : Inv d) : DoneInv (done d) := by
  unfold done
  repeat' (first | with_reducible assumption | intro _ | with_reducible apply ok_inv | with_reducible apply dirty_inv)

/-! Topology.lean -/

theorem sendAssign_inv (m : Member) (d : Device) (hI : Inv d) : Inv (sendAssign m d) := by
  unfold sendAssign
  repeat' (first
      | with_reducible assumption | intro _ | with_reducible apply takeSrcSeq_inv | with_reducible apply sendOnPort_inv
      | with_reducible apply inv_ite | split)

theorem loadRoutes_inv (d : Device) (hI : Inv d) : Inv (loadRoutes d) := by
  unfold loadRoutes
  repeat' (first
      | with_reducible assumption | intro _ | with_reducible apply modFabric_inv | with_reducible apply sendAssign_inv
      | with_reducible apply inv_ite | with_reducible apply inv_foldl)

theorem rerouted_inv (d : Device) (hI : Inv d) : Inv (rerouted d) := by
  unfold rerouted
  repeat' (first
      | with_reducible assumption | intro _ | with_reducible apply raise_inv | with_reducible apply loadRoutes_inv
      | with_reducible apply inv_ite)

theorem reportLink_inv (p : Port) (isUp : Bool) (neighbour : U64) (d : Device) (hI : Inv d) : Inv (reportLink p isUp neighbour d) := by
  unfold reportLink
  repeat' (first
      | with_reducible assumption | intro _ | with_reducible apply rerouted_inv | with_reducible apply sendTo_inv
      | with_reducible apply inv_ite)

theorem linkSend_inv (p : Port) (t : LinkTx) (d : Device) (hI : Inv d) : Inv (linkSend p t d) := by
  unfold linkSend
  repeat' (first | with_reducible assumption | intro _ | with_reducible apply giveLink_inv | with_reducible apply inv_ite)

theorem sendHello_inv (p : Port) (d : Device) (hI : Inv d) : Inv (sendHello p d) := by
  unfold sendHello
  repeat' (first | with_reducible assumption | intro _ | with_reducible apply linkSend_inv | with_reducible apply inv_ite)

theorem sendJoin_inv (d : Device) (hI : Inv d) : Inv (sendJoin d) := by
  unfold sendJoin
  repeat' (first | with_reducible assumption | intro _ | with_reducible apply sendTo_inv)

/-! Shared.lean -/

theorem latchPeriod_inv (k : Fin 3) (n setId : U32) (d : Device) (h : Inv d) : Inv (latchPeriod k n setId d) := by
  unfold latchPeriod
  dsimp only
  have hd : Inv (if unreadOlder d k then
      raise .latchOverrun [w32 k.val] { d with acct := { d.acct with overrun := upd d.acct.overrun k (fun n => n + 1) } } else d) :=
    inv_ite (raise_inv _ _ _ ⟨h.1, h.2, h.3, h.4, h.5, h.6⟩) h
  generalize (if unreadOlder d k then
      raise .latchOverrun [w32 k.val] { d with acct := { d.acct with overrun := upd d.acct.overrun k (fun n => n + 1) } } else d) = e at hd
  refine ⟨hd.1, hd.2, hd.3, fun j => ?_, fun j l hl => ?_, fun j l hl => ?_⟩
  · by_cases hj : k = j
    · subst hj
      simp only [upd, Fin.getElem_fin, Vector.getElem_set_self]
      exact setBalanced_new rfl
    · have hj : k.val ≠ j.val := fun e => hj (Fin.ext e)
      simpa [upd, Vector.getElem_set, hj] using hd.4 j
  · by_cases hj : k = j
    · subst hj
      simp only [upd, Fin.getElem_fin, Vector.getElem_set_self, Option.some.injEq] at hl
      subst hl
      exact hd.4 k
    · have hj : k.val ≠ j.val := fun e => hj (Fin.ext e)
      exact hd.5 j l (by simpa [upd, Vector.getElem_set, hj] using hl)
  · by_cases hj : k = j
    · subst hj
      exact hd.5 k l (by simpa [upd] using hl)
    · have hj : k.val ≠ j.val := fun e => hj (Fin.ext e)
      exact hd.6 j l (by simpa [upd, Vector.getElem_set, hj] using hl)

theorem noteLines_inv (h : Head) (job : JobKey) (lines : List ℕ) (fired : Bool) (d : Device) (hI : Inv d) : Inv (noteLines h job lines
    fired d) := by
  unfold noteLines
  repeat' (first | with_reducible assumption | intro _ | with_reducible apply inv_ite | (rw [restOf_fold]; with_reducible apply restOf_inv))

theorem noteEnded_inv (t : Token) (fired : Bool) (d : Device) (hI : Inv d) : Inv (noteEnded t fired d) := by
  unfold noteEnded
  repeat' (first | with_reducible assumption | intro _ | with_reducible apply noteLines_inv)

theorem countSkip_inv (h : Head) (r : Skip) (d : Device) (hI : Inv d) : Inv (countSkip h r d) := by
  unfold countSkip
  repeat' (first
      | with_reducible assumption | exact fun _ h => h | exact fun _ h => balanced_skip h _ _ | exact fun _ h => balanced_fire h | intro _
      | with_reducible apply countHead_inv)

theorem skipToken_inv (r : Skip) (d : Device) (t : Token) (hI : Inv d) : Inv (skipToken r d t) := by
  unfold skipToken
  repeat' (first | with_reducible assumption | intro _ | with_reducible apply noteEnded_inv | with_reducible apply countSkip_inv)

theorem skipTokens_inv (p : Token → Bool) (r : Skip) (d : Device) (hI : Inv d) : Inv (skipTokens p r d) := by
  unfold skipTokens
  repeat' (first
      | with_reducible assumption | intro _ | with_reducible apply skipToken_inv | (rw [restOf_fold]; with_reducible apply restOf_inv)
      | with_reducible apply inv_foldl)

theorem freshSector_inv (d : Device) (n : ℕ) (hI : Inv d) : Inv (freshSector d n) := by
  unfold freshSector
  repeat' (first | with_reducible assumption | intro _ | with_reducible apply inv_ite | (rw [restOf_fold]; with_reducible apply restOf_inv))

theorem freshSectors_inv (first at_ len : ℕ) (d : Device) (hI : Inv d) : Inv (freshSectors first at_ len d) := by
  unfold freshSectors
  repeat' (first | with_reducible assumption | intro _ | with_reducible apply freshSector_inv | with_reducible apply inv_foldl)

theorem queueProgram_inv (p : FlashWork) (d : Device) (hI : Inv d) : Inv (queueProgram p d) := by
  unfold queueProgram
  repeat' (first | with_reducible assumption | intro _ | (rw [restOf_fold]; with_reducible apply restOf_inv))

theorem journalAppend_inv (key index : ℕ) (body : List U8) (reply : Bool) (d : Device) (hI : Inv d) : Inv (journalAppend key index body
    reply d) := by
  unfold journalAppend
  repeat' (first
      | with_reducible assumption | intro _ | with_reducible apply queueProgram_inv | with_reducible apply freshSectors_inv
      | (rw [restOf_fold]; with_reducible apply restOf_inv))

theorem recordRole_inv (r : Role) (d : Device) (hI : Inv d) : Inv (recordRole r d) := by
  unfold recordRole
  repeat' (first | with_reducible assumption | intro _ | with_reducible apply queueProgram_inv | with_reducible apply freshSectors_inv)

theorem beginDiscovery_inv (d : Device) (hI : Inv d) : Inv (beginDiscovery d) := by
  unfold beginDiscovery
  repeat' (first | with_reducible assumption | intro _ | with_reducible apply modFabric_inv)

theorem updateCand_inv (d : Device) (hI : Inv d) : Inv (updateCand d) := by
  unfold updateCand
  repeat' (first
      | with_reducible assumption | intro _ | with_reducible apply beginDiscovery_inv | with_reducible apply modFabric_inv
      | with_reducible apply inv_ite)

theorem closeWindow_inv (d : Device) (hI : Inv d) : Inv (closeWindow d) := by
  unfold closeWindow
  repeat' (first
      | with_reducible assumption | intro _ | with_reducible apply raise_inv | with_reducible apply setIrq_inv
      | with_reducible apply inv_ite | (rw [restOf_fold]; with_reducible apply restOf_inv))

theorem unaskWitness_inv (h : Head) (ans : Option (U32 × U32)) (d : Device) (hI : Inv d) : Inv (unaskWitness h ans d) := by
  unfold unaskWitness
  repeat' (first
      | with_reducible assumption | intro _ | with_reducible apply modMbx_inv | with_reducible apply finish_inv
      | with_reducible apply inv_foldl | split)

theorem headAbsent_inv (h : Head) (st : HeadState) (d : Device) (hI : Inv d) : Inv (headAbsent h st d) := by
  unfold headAbsent
  repeat' (first
      | with_reducible assumption | intro _ | with_reducible apply modLink_inv | with_reducible apply unaskWitness_inv
      | with_reducible apply finishAll_inv)

theorem noteStall_inv (d : Device) (hI : Inv d) : Inv (noteStall d) := by
  unfold noteStall
  repeat' (first | with_reducible assumption | intro _ | (rw [restOf_fold]; with_reducible apply restOf_inv))

theorem dropUnsent_inv (d : Device) (hI : Inv d) : Inv (dropUnsent d) := by
  unfold dropUnsent
  repeat' (first
      | with_reducible assumption | intro _ | with_reducible apply modFabric_inv | with_reducible apply noteStall_inv
      | (rw [restOf_fold]; with_reducible apply restOf_inv))

theorem demote_inv (d : Device) (hI : Inv d) : Inv (demote d) := by
  unfold demote
  repeat' (first
      | with_reducible assumption | intro _ | with_reducible apply headAbsent_inv | with_reducible apply dropUnsent_inv
      | with_reducible apply raise_inv | with_reducible apply recordRole_inv | with_reducible apply noteRed_inv
      | with_reducible apply inv_ite | (rw [restOf_fold]; with_reducible apply restOf_inv) | with_reducible apply inv_foldl)

theorem resetDicts_inv (l : LinkId) (d : Device) (hI : Inv d) : Inv (resetDicts l d) := by
  unfold resetDicts
  repeat' (first
      | with_reducible assumption | intro _ | with_reducible apply noteStall_inv | (rw [restOf_fold]; with_reducible apply restOf_inv))

theorem untag_inv (p : Port) (d : Device) (hI : Inv d) : Inv (untag p d) := by
  unfold untag
  repeat' (first | with_reducible assumption | intro _ | with_reducible apply modFabric_inv)

theorem frameLost_inv (dest : U8) (msgType : U16) (srcSeq : U32) (d : Device) (hI : Inv d) : Inv (frameLost dest msgType srcSeq d) := by
  unfold frameLost
  repeat' (first
      | with_reducible assumption | intro _ | with_reducible apply raise_inv | with_reducible apply finishWork_inv
      | with_reducible apply modFabric_inv | with_reducible apply finishAll_inv | with_reducible apply modMbx_inv
      | with_reducible apply inv_ite)

theorem rerouteFrame_inv (p : Port) (d : Device) (w : DataFrame × Option Port) (hI : Inv d) : Inv (rerouteFrame p d w) := by
  unfold rerouteFrame
  repeat' (first
      | with_reducible assumption | intro _ | with_reducible apply releaseFrame_inv | with_reducible apply forwardOn_inv
      | with_reducible apply fabViolation_inv | with_reducible apply frameLost_inv | with_reducible apply sendUnreachable_inv
      | with_reducible apply inv_ite | split)

theorem resetPort_inv (p : Port) (d : Device) (hI : Inv d) : Inv (resetPort p d) := by
  unfold resetPort
  repeat' (first
      | with_reducible assumption | intro _ | with_reducible apply untag_inv | with_reducible apply modPort_inv
      | with_reducible apply rerouteFrame_inv | with_reducible apply inv_foldl)

theorem portDown_inv (p : Port) (d : Device) (hI : Inv d) : Inv (portDown p d) := by
  unfold portDown
  repeat' (first
      | with_reducible assumption | intro _ | with_reducible apply resetPort_inv | with_reducible apply resetDicts_inv
      | with_reducible apply updateCand_inv | with_reducible apply reportLink_inv | with_reducible apply sendHello_inv
      | with_reducible apply inv_ite | with_reducible apply inv_foldl)

theorem waggleDown_inv (d : Device) (hI : Inv d) : Inv (waggleDown d) := by
  unfold waggleDown
  repeat' (first
      | with_reducible assumption | intro _ | with_reducible apply noteStall_inv | with_reducible apply modRed_inv
      | with_reducible apply resetDicts_inv | (rw [restOf_fold]; with_reducible apply restOf_inv))

theorem noteDegraded_inv (p : Port) (d : Device) (hI : Inv d) : Inv (noteDegraded p d) := by
  unfold noteDegraded
  repeat' (first
      | with_reducible assumption | intro _ | with_reducible apply modPort_inv | with_reducible apply raise_inv
      | with_reducible apply inv_ite)

theorem holdLock_inv (k : Fin 8) (d : Device) (hI : Inv d) : Inv (holdLock k d) := by
  unfold holdLock
  repeat' (first | with_reducible assumption | intro _ | with_reducible apply modFabric_inv | with_reducible apply inv_ite)

theorem linkFell_inv (l : LaneId) (d : Device) (hI : Inv d) : Inv (linkFell l d) := by
  unfold linkFell
  repeat' (first
      | with_reducible assumption | intro _ | with_reducible apply modAdapter_inv | with_reducible apply headAbsent_inv
      | with_reducible apply modPort_inv | with_reducible apply pumpPort_inv | with_reducible apply noteDegraded_inv
      | with_reducible apply holdLock_inv | with_reducible apply portDown_inv | with_reducible apply waggleDown_inv
      | with_reducible apply inv_ite | split)

theorem rxActive_inv (l : LaneId) (d : Device) (hI : Inv d) : Inv (rxActive l d) := by
  unfold rxActive
  repeat' (first | with_reducible assumption | intro _ | with_reducible apply modLane_inv)

theorem portActive_inv (p : Port) (k : Fin 2) (d : Device) (hI : Inv d) : Inv (portActive p k d) := by
  unfold portActive
  repeat' (first | with_reducible assumption | intro _ | with_reducible apply rxActive_inv)

theorem abandonTest_inv (l : LaneId) (d : Device) (hI : Inv d) : Inv (abandonTest l d) := by
  unfold abandonTest
  repeat' (first | with_reducible assumption | intro _ | with_reducible apply finishWork_inv | with_reducible apply modLane_inv | split)

theorem retrainLane_inv (l : LaneId) (d : Device) (hI : Inv d) : Inv (retrainLane l d) := by
  unfold retrainLane
  repeat' (first
      | with_reducible assumption | intro _ | with_reducible apply modLane_inv | with_reducible apply abandonTest_inv
      | with_reducible apply linkFell_inv | with_reducible apply inv_ite)

theorem startTest_inv (l : LaneId) (loopback : Bool) (ms : ℕ) (d : Device) (hI : Inv d) : Inv (startTest l loopback ms d) := by
  unfold startTest
  repeat' (first | with_reducible assumption | intro _ | with_reducible apply retrainLane_inv | with_reducible apply modLane_inv)

theorem runTests_inv (d : Device) (hI : Inv d) : Inv (runTests d) := by
  unfold runTests
  repeat' (first
      | with_reducible assumption | intro _ | with_reducible apply modLane_inv | with_reducible apply startTest_inv
      | with_reducible apply inv_ite | with_reducible apply inv_foldl | split)

theorem reinitLane_inv (l : LaneId) (d : Device) (hI : Inv d) : Inv (reinitLane l d) := by
  unfold reinitLane
  repeat' (first | with_reducible assumption | intro _ | with_reducible apply retrainLane_inv | with_reducible apply inv_ite)

theorem reinitPort_inv (p : Port) (d : Device) (hI : Inv d) : Inv (reinitPort p d) := by
  unfold reinitPort
  repeat' (first | with_reducible assumption | intro _ | with_reducible apply modPort_inv | with_reducible apply reinitLane_inv)

theorem isolatePartner_inv (block : BitVec 5) (source : U16) (d : Device) (h : Inv d) : Inv (isolatePartner block source d) := by
  unfold isolatePartner
  split
  · exact h
  · rename_i hn
    refine raise_inv _ _ _ ⟨by simpa using h.1, ?_, h.3, h.4, h.5, h.6⟩
    rw [List.nodup_append]
    refine ⟨h.2, by simp, ?_⟩
    rintro x hx y hy rfl
    simp_all

theorem wakeHeadLanes_inv (d : Device) (hI : Inv d) : Inv (wakeHeadLanes d) := by
  unfold wakeHeadLanes
  repeat' (first | with_reducible assumption | intro _ | (rw [restOf_fold]; with_reducible apply restOf_inv))

theorem refuseEntry_inv (r : Reason) (dom : Option ℕ) (d : Device) (hI : Inv d) : Inv (refuseEntry r dom d) := by
  unfold refuseEntry
  repeat' (first
      | with_reducible assumption | intro _ | with_reducible apply wakeHeadLanes_inv | with_reducible apply setIrq_inv
      | with_reducible apply finishWork_inv | with_reducible apply inv_ite | (rw [restOf_fold]; with_reducible apply restOf_inv))

theorem camWasOff_inv (d : Device) (hI : Inv d) : Inv (camWasOff d) := by
  unfold camWasOff
  repeat' (first | with_reducible assumption | intro _ | (rw [restOf_fold]; with_reducible apply restOf_inv))

theorem rewriteSram_inv (retain : BitVec 4) (d : Device) (hI : Inv d) : Inv (rewriteSram retain d) := by
  unfold rewriteSram
  repeat' (first
      | with_reducible assumption | intro _ | with_reducible apply noteStall_inv | with_reducible apply modMbx_inv
      | with_reducible apply inv_ite | (rw [restOf_fold]; with_reducible apply restOf_inv))

theorem resumeDram_inv (d : Device) (hI : Inv d) : Inv (resumeDram d) := by
  unfold resumeDram
  repeat' (first
      | with_reducible assumption | intro _ | with_reducible apply inv_ite | (rw [dramRestOf_fold]; with_reducible apply dramRestOf_inv)
      | exact ⟨hI.1, hI.2, hI.3, hI.4, hI.5, hI.6⟩)

theorem idleHeadLanes_inv (d : Device) (hI : Inv d) : Inv (idleHeadLanes d) := by
  unfold idleHeadLanes
  repeat' (first | with_reducible assumption | intro _ | (rw [restOf_fold]; with_reducible apply restOf_inv))

theorem lanesOff_inv (d : Device) (hI : Inv d) : Inv (lanesOff d) := by
  unfold lanesOff
  repeat' (first
      | with_reducible assumption | intro _ | with_reducible apply headAbsent_inv | with_reducible apply modLane_inv
      | with_reducible apply resetPort_inv | with_reducible apply resetDicts_inv | with_reducible apply waggleDown_inv
      | with_reducible apply inv_ite | (rw [restOf_fold]; with_reducible apply restOf_inv) | with_reducible apply inv_foldl)

theorem dramOff_inv (deep : Bool) (d : Device) (h : Inv d) : Inv (dramOff deep d) := by
  unfold dramOff
  split
  · exact ⟨h.1, h.2, h.3, h.4, h.5, h.6⟩
  · exact ⟨h.1, h.2, rfl, h.4, h.5, h.6⟩

theorem enterState_inv (d : Device) (hI : Inv d) : Inv (enterState d) := by
  unfold enterState
  repeat' (first
      | with_reducible assumption | intro _ | with_reducible apply idleHeadLanes_inv | with_reducible apply lanesOff_inv
      | with_reducible apply dramOff_inv | (rw [restOf_fold]; with_reducible apply restOf_inv) | split | dsimp only)

theorem wakeUp_inv (source : ℕ) (d : Device) (hI : Inv d) : Inv (wakeUp source d) := by
  unfold wakeUp
  repeat' (first
      | with_reducible assumption | intro _ | with_reducible apply camWasOff_inv | with_reducible apply rewriteSram_inv
      | with_reducible apply wakeHeadLanes_inv | with_reducible apply resumeDram_inv | with_reducible apply raise_inv
      | with_reducible apply setIrq_inv | with_reducible apply inv_ite | (rw [restOf_fold]; with_reducible apply restOf_inv))

theorem wakeSource_inv (source : ℕ) (d : Device) (hI : Inv d) : Inv (wakeSource source d) := by
  unfold wakeSource
  repeat' (first
      | with_reducible assumption | intro _ | with_reducible apply enterState_inv | with_reducible apply refuseEntry_inv
      | with_reducible apply wakeUp_inv | with_reducible apply inv_ite)

theorem sendRoles_inv (d : Device) (hI : Inv d) : Inv (sendRoles d) := by
  unfold sendRoles
  repeat' (first | with_reducible assumption | intro _ | with_reducible apply broadcast_inv | with_reducible apply inv_ite)

/-! Banks.lean -/

theorem advanceVictims_inv (d : Device) (hI : Inv d) : Inv (advanceVictims d) := by
  unfold advanceVictims
  repeat' (first
      | with_reducible assumption | rfl | intro _ | with_reducible apply modDram_inv | with_reducible apply dueVictim_inv
      | with_reducible apply inv_ite | with_reducible apply inv_foldl)

theorem advanceRelock_inv (d : Device) (hI : Inv d) : Inv (advanceRelock d) := by
  unfold advanceRelock
  repeat' (first | with_reducible assumption | rfl | intro _ | with_reducible apply modDram_inv | with_reducible apply inv_ite | split)

/-! Cells.lean -/

theorem advanceAll_inv (d : Device) (hI : Inv d) : Inv (advanceAll d) := by
  unfold advanceAll
  repeat' (first | with_reducible assumption | intro _ | with_reducible apply inv_ite | (rw [restOf_fold]; with_reducible apply restOf_inv))

theorem sendCellAt_inv (now : ℕ) (h : Head) (c : TxCell) (d : Device) (hI : Inv d) : Inv (sendCellAt now h c d) := by
  unfold sendCellAt
  repeat' (first
      | with_reducible assumption | intro _ | with_reducible apply modLane_inv | with_reducible apply modLink_inv
      | with_reducible apply inv_ite)

theorem sendCell_inv (h : Head) (c : TxCell) (d : Device) (hI : Inv d) : Inv (sendCell h c d) := by
  unfold sendCell
  repeat' (first | with_reducible assumption | intro _ | with_reducible apply sendCellAt_inv)

theorem emitControl_inv (h : Head) (sub : BitVec 4) (payload : List U8) (d : Device) (hI : Inv d) : Inv (emitControl h sub payload d) :=
    by
  unfold emitControl
  repeat' (first | with_reducible assumption | intro _ | with_reducible apply sendCell_inv | with_reducible apply modLink_inv)

theorem sendControl_inv (h : Head) (sub : BitVec 4) (payload : List U8) (d : Device) (hI : Inv d) : Inv (sendControl h sub payload d) :=
    by
  unfold sendControl
  repeat' (first
      | with_reducible assumption | intro _ | with_reducible apply modLink_inv | with_reducible apply emitControl_inv
      | with_reducible apply inv_ite)

theorem resumeControl_inv (h : Head) (d : Device) (hI : Inv d) : Inv (resumeControl h d) := by
  unfold resumeControl
  repeat' (first
      | with_reducible assumption | intro _ | with_reducible apply emitControl_inv | with_reducible apply modLink_inv
      | with_reducible apply inv_ite | split)

theorem sendInhibit_inv (h : Head) (set : Bool) (d : Device) (hI : Inv d) : Inv (sendInhibit h set d) := by
  unfold sendInhibit
  repeat' (first | with_reducible assumption | intro _ | with_reducible apply sendControl_inv)

theorem sendMaps_inv (h : Head) (img : Mem) (bank : Bool) (d : Device) (hI : Inv d) : Inv (sendMaps h img bank d) := by
  unfold sendMaps
  repeat' (first | with_reducible assumption | intro _ | with_reducible apply sendControl_inv | with_reducible apply inv_foldl)

theorem sendConfig_inv (h : Head) (d : Device) (hI : Inv d) : Inv (sendConfig h d) := by
  unfold sendConfig
  repeat' (first | with_reducible assumption | intro _ | with_reducible apply sendControl_inv)

theorem startBring_inv (h : Head) (d : Device) (hI : Inv d) : Inv (startBring h d) := by
  unfold startBring
  repeat' (first
      | with_reducible assumption | intro _ | with_reducible apply sendControl_inv | with_reducible apply modLink_inv
      | with_reducible apply inv_ite)

theorem lateShadow_inv (h : Head) (d : Device) (hI : Inv d) : Inv (lateShadow h d) := by
  unfold lateShadow
  repeat' (first | with_reducible assumption | intro _ | with_reducible apply sendMaps_inv | with_reducible apply inv_ite)

theorem presentHead_inv (h : Head) (d : Device) (hI : Inv d) : Inv (presentHead h d) := by
  unfold presentHead
  repeat' (first
      | with_reducible assumption | intro _ | with_reducible apply skipTokens_inv | with_reducible apply modLink_inv
      | with_reducible apply raise_inv | with_reducible apply lateShadow_inv | with_reducible apply sendInhibit_inv
      | with_reducible apply inv_ite)

theorem bringNext_inv (h : Head) (c : StatusCell) (d : Device) (hI : Inv d) : Inv (bringNext h c d) := by
  unfold bringNext
  repeat' (first
      | with_reducible assumption | intro _ | with_reducible apply modLink_inv | with_reducible apply sendMaps_inv
      | with_reducible apply sendConfig_inv | with_reducible apply presentHead_inv | with_reducible apply inv_ite | split)

theorem controlReplied_inv (h : Head) (c : StatusCell) (d : Device) (hI : Inv d) : Inv (controlReplied h c d) := by
  unfold controlReplied
  repeat' (first
      | with_reducible assumption | intro _ | with_reducible apply modLink_inv | with_reducible apply emitControl_inv
      | with_reducible apply bringNext_inv | with_reducible apply inv_ite | split)

theorem countViol_inv (h : Head) (k : Fin 10) (d : Device) (hI : Inv d) : Inv (countViol h k d) := by
  unfold countViol
  repeat' (first | with_reducible assumption | intro _ | with_reducible apply modLink_inv)

theorem fhlViolation_inv (h : Head) (k : Fin 10) (ans : BitVec 2) (d : Device) (hI : Inv d) : Inv (fhlViolation h k ans d) := by
  unfold fhlViolation
  repeat' (first | with_reducible assumption | intro _ | with_reducible apply violation_inv | with_reducible apply countViol_inv)

theorem takeStatus_inv (h : Head) (sub : ℕ) (c : StatusCell) (d : Device) (hI : Inv d) : Inv (takeStatus h sub c d).2 := by
  unfold takeStatus
  repeat' (first
      | with_reducible assumption | intro _ | with_reducible apply rxActive_inv | with_reducible apply modLink_inv
      | with_reducible apply fhlViolation_inv | split | dsimp only)

/-! Adapter.lean -/

theorem modAdPort_inv (h : Head) (port : Bool) (f : AdPort → AdPort) (d : Device) (hI : Inv d) : Inv (modAdPort h port f d) := by
  unfold modAdPort
  repeat' (first | with_reducible assumption | intro _ | with_reducible apply modAdapter_inv)

theorem sendStatus_inv (h : Head) (port : Bool) (id : ℕ) (sub : BitVec 4) (echo : U16) (payload : List U8) (d : Device) (hI : Inv d) : Inv
    (sendStatus h port id sub echo payload d).2 := by
  unfold sendStatus
  repeat' (first | with_reducible assumption | intro _ | with_reducible apply modAdPort_inv)

theorem sendReport_inv (h : Head) (port : Bool) (id : ℕ) (echo : U16) (d : Device) (hI : Inv d) : Inv (sendReport h port id echo d).2 :=
    by
  unfold sendReport
  repeat' (first | with_reducible assumption | intro _ | with_reducible apply sendStatus_inv | with_reducible apply modAdPort_inv)

theorem discardCell_inv (h : Head) (port : Bool) (d : Device) (hI : Inv d) : Inv (discardCell h port d) := by
  unfold discardCell
  repeat' (first | with_reducible assumption | intro _ | with_reducible apply modAdPort_inv)

theorem badCrcCell_inv (h : Head) (port : Bool) (d : Device) (hI : Inv d) : Inv (badCrcCell h port d) := by
  unfold badCrcCell
  repeat' (first | with_reducible assumption | intro _ | with_reducible apply modAdPort_inv)

theorem urgentReport_inv (h : Head) (port : Bool) (id : ℕ) (d : Device) (hI : Inv d) : Inv (urgentReport h port id d) := by
  unfold urgentReport
  repeat' (first | with_reducible assumption | intro _ | with_reducible apply sendReport_inv | with_reducible apply inv_ite)

theorem rejectEpoch_inv (h : Head) (port : Bool) (id : ℕ) (d : Device) (hI : Inv d) : Inv (rejectEpoch h port id d) := by
  unfold rejectEpoch
  repeat' (first
      | with_reducible assumption | intro _ | with_reducible apply urgentReport_inv | with_reducible apply modAdPort_inv
      | with_reducible apply discardCell_inv)

theorem raiseEpoch_inv (h : Head) (epoch : U32) (d : Device) (hI : Inv d) : Inv (raiseEpoch h epoch d) := by
  unfold raiseEpoch
  repeat' (first | with_reducible assumption | intro _ | with_reducible apply modAdapter_inv | with_reducible apply inv_ite)

theorem holdLine_inv (h : Head) (port : Bool) (f : AdapterFacts) (c : LineCell) (d : Device) (hI : Inv d) : Inv (holdLine h port f c d) :=
    by
  unfold holdLine
  repeat' (first
      | with_reducible assumption | intro _ | with_reducible apply discardCell_inv | with_reducible apply urgentReport_inv
      | with_reducible apply modAdPort_inv | with_reducible apply modAdapter_inv | with_reducible apply inv_ite)

theorem takeFire_inv (h : Head) (cell : FireCell) (x : HeldLine) (d : Device) (hI : Inv d) : Inv (takeFire h cell x d) := by
  unfold takeFire
  repeat' (first | with_reducible assumption | intro _ | with_reducible apply modAdapter_inv)

theorem applyControl_inv (h : Head) (f : AdapterFacts) (c : ControlCell) (d : Device) (hI : Inv d) : Inv (applyControl h f c d) := by
  unfold applyControl
  repeat' (first | with_reducible assumption | intro _ | with_reducible apply modAdapter_inv | with_reducible apply inv_ite | split)

theorem witnessPayload_inv (h : Head) (port : Bool) (d : Device) (hI : Inv d) : Inv (witnessPayload h port d).2 := by
  unfold witnessPayload
  repeat' (first
      | with_reducible assumption | intro _ | with_reducible apply draw_inv | split | refine pair_inv (by with_reducible assumption) ?_
      | dsimp only)

theorem replyTo_inv (h : Head) (port : Bool) (f : AdapterFacts) (c : ControlCell) (d : Device) (hI : Inv d) : Inv (replyTo h port f c d).2
    := by
  unfold replyTo
  repeat' (first
      | with_reducible assumption | intro _ | with_reducible apply sendStatus_inv | with_reducible apply witnessPayload_inv
      | with_reducible apply draw_inv | with_reducible apply sendReport_inv | split)

theorem newControl_inv (h : Head) (port : Bool) (f : AdapterFacts) (cell : ControlCell) (d : Device) (hI : Inv d) : Inv (newControl h port
    f cell d) := by
  unfold newControl
  repeat' (first
      | with_reducible assumption | intro _ | with_reducible apply rejectEpoch_inv | with_reducible apply applyControl_inv
      | with_reducible apply raiseEpoch_inv | with_reducible apply modAdPort_inv | with_reducible apply replyTo_inv
      | with_reducible apply inv_ite)

theorem reportPorts_inv (h : Head) (f : AdapterFacts) (d : Device) (hI : Inv d) : Inv (reportPorts h f d) := by
  unfold reportPorts
  repeat' (first | with_reducible assumption | intro _ | with_reducible apply sendReport_inv | with_reducible apply inv_ite)

/-! Codec.lean -/

theorem countDec_inv (k : Fin 8) (inBytes : ℕ) (r : Fkz) (d : Device) (hI : Inv d) : Inv (countDec k inBytes r d) := by
  unfold countDec
  repeat' (first | with_reducible assumption | intro _ | (rw [restOf_fold]; with_reducible apply restOf_inv))

theorem encSlot_inv (peer : U8) (cls : BitVec 2) (d : Device) (hI : Inv d) : Inv (encSlot peer cls d).2 := by
  unfold encSlot
  repeat' (first | with_reducible assumption | intro _ | (rw [restOf_fold]; with_reducible apply restOf_inv) | split | dsimp only)

theorem modEnc_inv (peer : U8) (cls : BitVec 2) (f : Dict → Dict) (d : Device) (hI : Inv d) : Inv (modEnc peer cls f d) := by
  unfold modEnc
  repeat' (first | with_reducible assumption | intro _ | (rw [restOf_fold]; with_reducible apply restOf_inv))

theorem countEnc_inv (inBytes outBytes : ℕ) (d : Device) (hI : Inv d) : Inv (countEnc inBytes outBytes d) := by
  unfold countEnc
  repeat' (first | with_reducible assumption | intro _ | (rw [restOf_fold]; with_reducible apply restOf_inv))

theorem dictSend_inv (peer : U8) (cls : BitVec 2) (orig : List U8) (d : Device) (hI : Inv d) : Inv (dictSend peer cls orig d).2 := by
  unfold dictSend
  repeat' (first
      | with_reducible assumption | intro _ | with_reducible apply encSlot_inv | with_reducible apply modEnc_inv
      | with_reducible apply countEnc_inv | (rw [restOf_fold]; with_reducible apply restOf_inv) | split
      | refine pair_inv (by with_reducible assumption) ?_)

/-! Boot.lean -/

theorem inReset_inv (cause : U8) (d : Device) : Inv (inReset cause d) :=
  ⟨Nat.zero_le _, List.nodup_nil, rfl, fun k => setBalanced_new (by simp [inReset]), fun k l h => by simp [inReset] at h,
    fun k l h => by simp [inReset] at h⟩

theorem scanJournal_inv (d : Device) (hI : Inv d) : Inv (scanJournal d) := by
  unfold scanJournal
  repeat' (first
      | with_reducible assumption | intro _ | with_reducible apply raise_inv | (rw [restOf_fold]; with_reducible apply restOf_inv) | split)

theorem loadJournal_inv (d : Device) (hI : Inv d) : Inv (loadJournal d) := by
  unfold loadJournal
  repeat' (first | with_reducible assumption | intro _ | (rw [restOf_fold]; with_reducible apply restOf_inv))

theorem startBoot_inv (d : Device) (hI : Inv d) : Inv (startBoot d) := by
  unfold startBoot
  have h := loadJournal_inv _ (scanJournal_inv _ hI)
  dsimp only
  split
  · exact ⟨h.1, h.2, h.3, h.4, h.5, h.6⟩
  · exact raise_inv _ _ _ h

theorem powerLost_inv (d : Device) (hI : Inv d) : Inv (powerLost d) := by
  unfold powerLost
  repeat' (first
      | with_reducible assumption | intro _ | with_reducible apply inReset_inv | (rw [restOf_fold]; with_reducible apply restOf_inv))

theorem powerBack_inv (d : Device) (hI : Inv d) : Inv (powerBack d) := by
  unfold powerBack
  repeat' (first
      | with_reducible assumption | intro _ | with_reducible apply startBoot_inv | with_reducible apply inv_ite
      | (rw [restOf_fold]; with_reducible apply restOf_inv))

theorem setBank_inv (bank : Fin 6) (low : Bool) (d : Device) (hI : Inv d) : Inv (setBank bank low d) := by
  unfold setBank
  repeat' (first | with_reducible assumption | intro _ | (rw [restOf_fold]; with_reducible apply restOf_inv))

theorem enableFabricLanes_inv (d : Device) (hI : Inv d) : Inv (enableFabricLanes d) := by
  unfold enableFabricLanes
  repeat' (first | with_reducible assumption | intro _ | with_reducible apply inv_ite | (rw [restOf_fold]; with_reducible apply restOf_inv))

theorem startCal_inv (boot : Bool) (d : Device) (hI : Inv d) : Inv (startCal boot d) := by
  unfold startCal
  repeat' (first | with_reducible assumption | intro _ | (rw [restOf_fold]; with_reducible apply restOf_inv))

theorem enableWl_inv (d : Device) (hI : Inv d) : Inv (enableWl d) := by
  unfold enableWl
  repeat' (first | with_reducible assumption | intro _ | with_reducible apply modLane_inv | with_reducible apply inv_ite)

theorem startImage_inv (slot : Bool) (i : FwImage) (d : Device) (hI : Inv d) : Inv (startImage slot i d) := by
  unfold startImage
  repeat' (first
      | with_reducible assumption | intro _ | with_reducible apply startCal_inv | with_reducible apply enableWl_inv
      | with_reducible apply enableFabricLanes_inv | (rw [restOf_fold]; with_reducible apply restOf_inv))

theorem loadDrops_inv (d : Device) (hI : Inv d) : Inv (loadDrops d) := by
  unfold loadDrops
  repeat' (first
      | with_reducible assumption | intro _ | with_reducible apply raise_inv | with_reducible apply inv_ite
      | (rw [restOf_fold]; with_reducible apply restOf_inv))

theorem raiseMinSvn_inv (d : Device) (hI : Inv d) : Inv (raiseMinSvn d) := by
  unfold raiseMinSvn
  repeat' (first | with_reducible assumption | intro _ | with_reducible apply inv_ite | (rw [restOf_fold]; with_reducible apply restOf_inv))

theorem enableHeadLanes_inv (d : Device) (hI : Inv d) : Inv (enableHeadLanes d) := by
  unfold enableHeadLanes
  repeat' (first | with_reducible assumption | intro _ | (rw [restOf_fold]; with_reducible apply restOf_inv))

theorem bootRole_inv (d : Device) (hI : Inv d) : Inv (bootRole d) := by
  unfold bootRole
  repeat' (first | with_reducible assumption | intro _ | (rw [restOf_fold]; with_reducible apply restOf_inv))

theorem bootUp_inv (d : Device) (hI : Inv d) : Inv (bootUp d) := by
  unfold bootUp
  repeat' (first
      | with_reducible assumption | intro _ | with_reducible apply raise_inv | with_reducible apply recordEvent_inv
      | with_reducible apply raiseMinSvn_inv | with_reducible apply loadDrops_inv | with_reducible apply noteRed_inv
      | with_reducible apply bootRole_inv | with_reducible apply setIrq_inv | with_reducible apply journalAppend_inv
      | with_reducible apply enableHeadLanes_inv | with_reducible apply inv_ite | (rw [restOf_fold]; with_reducible apply restOf_inv)
      | with_reducible apply inv_foldl)

theorem putRecord_inv (r : JRec) (d : Device) (hI : Inv d) : Inv (putRecord r d) := by
  unfold putRecord
  repeat' (first | with_reducible assumption | intro _ | (rw [restOf_fold]; with_reducible apply restOf_inv))

theorem afterRecord_inv (r : JRec) (d : Device) (hI : Inv d) : Inv (afterRecord r d) := by
  unfold afterRecord
  repeat' (first | with_reducible assumption | intro _ | with_reducible apply inv_ite | (rw [restOf_fold]; with_reducible apply restOf_inv))

theorem putImage_inv (i : FwImage) (d : Device) (hI : Inv d) : Inv (putImage i d) := by
  unfold putImage
  repeat' (first
      | with_reducible assumption | intro _ | with_reducible apply finishWork_inv | (rw [restOf_fold]; with_reducible apply restOf_inv))

theorem compact_inv (d : Device) (hI : Inv d) : Inv (compact d) := by
  unfold compact
  repeat' (first | with_reducible assumption | intro _ | (rw [restOf_fold]; with_reducible apply restOf_inv) | split)

theorem eraseSlot_inv (e : ℕ) (d : Device) (hI : Inv d) : Inv (eraseSlot e d) := by
  unfold eraseSlot
  repeat' (first
      | with_reducible assumption | intro _ | with_reducible apply compact_inv | with_reducible apply inv_ite
      | (rw [restOf_fold]; with_reducible apply restOf_inv))

theorem blankSlot_inv (d : Device) (hI : Inv d) : Inv (blankSlot d) := by
  unfold blankSlot
  repeat' (first | with_reducible assumption | intro _ | with_reducible apply inv_ite | (rw [restOf_fold]; with_reducible apply restOf_inv))

theorem captureCheckpoint_inv (d : Device) (hI : Inv d) : Inv (captureCheckpoint d) := by
  unfold captureCheckpoint
  repeat' (first
      | with_reducible assumption | intro _ | with_reducible apply blankSlot_inv | (rw [restOf_fold]; with_reducible apply restOf_inv))

theorem commitCheckpoint_inv (c : Checkpoint) (d : Device) (hI : Inv d) : Inv (commitCheckpoint c d) := by
  unfold commitCheckpoint
  repeat' (first | with_reducible assumption | intro _ | (rw [restOf_fold]; with_reducible apply restOf_inv))

/-! Waggle.lean -/

theorem wagPut_inv (fs : List (ℕ × WaggleFrame)) (d : Device) (hI : Inv d) : Inv (wagPut fs d) := by
  unfold wagPut
  repeat' (first | with_reducible assumption | intro _ | with_reducible apply modLane_inv | with_reducible apply modRed_inv)

theorem wagSend_inv (kind : ℕ) (payload : List U8) (d : Device) (hI : Inv d) : Inv (wagSend kind payload d) := by
  unfold wagSend
  repeat' (first | with_reducible assumption | intro _ | with_reducible apply wagPut_inv | with_reducible apply inv_ite)

theorem wagTransmit_inv (kind : ℕ) (payload : List U8) (d : Device) (hI : Inv d) : Inv (wagTransmit kind payload d) := by
  unfold wagTransmit
  repeat' (first | with_reducible assumption | intro _ | with_reducible apply wagPut_inv | with_reducible apply modRed_inv)

theorem wagSeq_inv (kind : ℕ) (payload : List U8) (d : Device) (hI : Inv d) : Inv (wagSeq kind payload d) := by
  unfold wagSeq
  repeat' (first
      | with_reducible assumption | intro _ | with_reducible apply wagTransmit_inv | with_reducible apply modRed_inv
      | with_reducible apply inv_ite)

theorem wagDrain_inv (fuel : ℕ) (d : Device) (hI : Inv d) : Inv (wagDrain fuel d) := by
  induction fuel generalizing d with
  | zero => exact hI
  | succ k ih =>
    unfold wagDrain
    repeat' (first
        | with_reducible assumption | intro _ | with_reducible apply ih | with_reducible apply wagTransmit_inv
        | with_reducible apply modRed_inv | with_reducible apply inv_ite | split)

theorem pumpWaggle_inv (d : Device) (hI : Inv d) : Inv (pumpWaggle d) := by
  unfold pumpWaggle
  repeat' (first | with_reducible assumption | intro _ | with_reducible apply wagDrain_inv | with_reducible apply inv_ite)

theorem wagNak_inv (code : U8) (d : Device) (hI : Inv d) : Inv (wagNak code d) := by
  unfold wagNak
  repeat' (first
      | with_reducible assumption | intro _ | with_reducible apply wagSend_inv | with_reducible apply violation_inv
      | with_reducible apply modRed_inv | with_reducible apply inv_ite)

theorem strangeFrame_inv (k : BitVec 4) (f : WaggleFrame) (d : Device) (hI : Inv d) : Inv (strangeFrame k f d) := by
  unfold strangeFrame
  repeat' (first | with_reducible assumption | intro _ | with_reducible apply violation_inv | with_reducible apply inv_ite)

theorem takeWaggle_inv (kind : ℕ) (lengthOk : Bool) (f : WaggleFrame) (d : Device) (hI : Inv d) : Inv (takeWaggle kind lengthOk f d).2 :=
    by
  unfold takeWaggle
  repeat' (first
      | with_reducible assumption | intro _ | with_reducible apply rxActive_inv | with_reducible apply strangeFrame_inv
      | with_reducible apply wagNak_inv | with_reducible apply modRed_inv | with_reducible apply violation_inv | split | dsimp only)

/-! Streams.lean -/

theorem emitMessage_inv (m : CzHeld) (bytes : List U8) (d : Device) (hI : Inv d) : Inv (emitMessage m bytes d) := by
  unfold emitMessage
  repeat' (first
      | with_reducible assumption | intro _ | with_reducible apply wagSeq_inv | with_reducible apply modRed_inv
      | with_reducible apply sendTo_inv | with_reducible apply inv_ite | split)

theorem beginMessage_inv (m : CzHeld) (d : Device) (hI : Inv d) : Inv (beginMessage m d).2 := by
  unfold beginMessage
  repeat' (first | with_reducible assumption | intro _ | with_reducible apply dictSend_inv | split)

theorem feedMessage_inv (room : ℕ) (m : CzHeld) (d : Device) (hI : Inv d) : Inv (feedMessage room m d).2.2 := by
  unfold feedMessage
  repeat' (first | with_reducible assumption | intro _ | with_reducible apply emitMessage_inv | split)

theorem feedStream_inv (cls : BitVec 2) (fuel n : ℕ) (d : Device) (hI : Inv d) : Inv (feedStream cls fuel n d) := by
  induction fuel generalizing n d with
  | zero => exact hI
  | succ k ih =>
    unfold feedStream
    split
    · exact hI
    · rename_i m _
      have hf := feedMessage_inv n (beginMessage m d).1 _ (beginMessage_inv m d hI)
      dsimp only
      split
      · exact hI
      split
      · rename_i e
        rw [e] at hf
        exact ih _ _ ⟨hf.1, hf.2, hf.3, hf.4, hf.5, hf.6⟩
      · rename_i e
        rw [e] at hf
        exact ⟨hf.1, hf.2, hf.3, hf.4, hf.5, hf.6⟩

theorem streamSend_inv (peer : U8) (cls : BitVec 2) (orig : List U8) (snap : Option U32) (d : Device) (hI : Inv d) : Inv (streamSend peer
    cls orig snap d) := by
  unfold streamSend
  repeat' (first
      | with_reducible assumption | intro _ | with_reducible apply noteStall_inv | with_reducible apply feedStream_inv
      | with_reducible apply inv_ite | (rw [restOf_fold]; with_reducible apply restOf_inv))

theorem sendHandover_inv (d : Device) (hI : Inv d) : Inv (sendHandover d) := by
  unfold sendHandover
  repeat' (first
      | with_reducible assumption | intro _ | with_reducible apply wagSeq_inv | with_reducible apply modRed_inv
      | with_reducible apply inv_ite | split)

/-! Cz.lean -/

theorem modDec_inv (peer : U8) (cls : BitVec 2) (f : Dict → Dict) (d : Device) (hI : Inv d) : Inv (modDec peer cls f d) := by
  unfold modDec
  repeat' (first | with_reducible assumption | intro _ | (rw [restOf_fold]; with_reducible apply restOf_inv))

theorem sendNotice_inv (peer : U8) (resync : Bool) (cls : BitVec 2) (d : Device) (hI : Inv d) : Inv (sendNotice peer resync cls d) := by
  unfold sendNotice
  repeat' (first
      | with_reducible assumption | intro _ | with_reducible apply wagSend_inv | with_reducible apply sendTo_inv
      | with_reducible apply inv_ite | (rw [restOf_fold]; with_reducible apply restOf_inv))

theorem desyncViolation_inv (l : LinkId) (d : Device) (hI : Inv d) : Inv (desyncViolation l d) := by
  unfold desyncViolation
  repeat' (first | with_reducible assumption | intro _ | with_reducible apply violation_inv | split)

theorem desync_inv (m : DictMessage) (d : Device) (hI : Inv d) : Inv (desync m d) := by
  unfold desync
  repeat' (first
      | with_reducible assumption | intro _ | with_reducible apply sendNotice_inv | with_reducible apply desyncViolation_inv
      | with_reducible apply modDec_inv | with_reducible apply inv_ite | (rw [restOf_fold]; with_reducible apply restOf_inv))

theorem discardNoSlot_inv (m : DictMessage) (d : Device) (hI : Inv d) : Inv (discardNoSlot m d) := by
  unfold discardNoSlot
  repeat' (first | with_reducible assumption | intro _ | (rw [restOf_fold]; with_reducible apply restOf_inv))

theorem countStream_inv (inBytes outBytes : ℕ) (d : Device) (hI : Inv d) : Inv (countStream inBytes outBytes d) := by
  unfold countStream
  repeat' (first | with_reducible assumption | intro _ | (rw [restOf_fold]; with_reducible apply restOf_inv))

theorem decodeIn_inv (m : DictMessage) (codes : List ℕ) (s : Dict) (d : Device) (hI : Inv d) : Inv (decodeIn m codes s d).2 := by
  unfold decodeIn
  repeat' (first
      | with_reducible assumption | intro _ | with_reducible apply countStream_inv | with_reducible apply modDec_inv
      | with_reducible apply desync_inv | split)

theorem dictReceive_inv (m : DictMessage) (d : Device) (hI : Inv d) : Inv (dictReceive m d).2 := by
  unfold dictReceive
  repeat' (first
      | with_reducible assumption | intro _ | with_reducible apply modDec_inv | with_reducible apply desync_inv
      | with_reducible apply decodeIn_inv | with_reducible apply discardNoSlot_inv | with_reducible apply sendNotice_inv
      | (rw [restOf_fold]; with_reducible apply restOf_inv) | split | refine pair_inv (by with_reducible assumption) ?_ | dsimp only)

theorem takeNotice_inv (peer : U8) (resync : Bool) (cls : BitVec 2) (d : Device) (hI : Inv d) : Inv (takeNotice peer resync cls d) := by
  unfold takeNotice
  repeat' (first | with_reducible assumption | intro _ | with_reducible apply modEnc_inv)

theorem assignEngine_inv (d : Device) (hI : Inv d) : Inv (assignEngine d) := by
  unfold assignEngine
  repeat' (first | with_reducible assumption | intro _ | (rw [restOf_fold]; with_reducible apply restOf_inv) | split | dsimp only)

theorem endCompress_inv (j : CzJob) (r : Reply) (d : Device) (hI : Inv d) : Inv (endCompress j r d) := by
  unfold endCompress
  repeat' (first
      | with_reducible assumption | intro _ | with_reducible apply assignEngine_inv | with_reducible apply finishSeq_inv
      | (rw [restOf_fold]; with_reducible apply restOf_inv))

theorem compressBlock_inv (e : Fin 2) (j : CzJob) (d : Device) (hI : Inv d) : Inv (compressBlock e j d) := by
  unfold compressBlock
  repeat' (first
      | with_reducible assumption | intro _ | with_reducible apply endCompress_inv | with_reducible apply dramWrite_inv
      | with_reducible apply dramSee_inv | with_reducible apply inv_ite | (rw [restOf_fold]; with_reducible apply restOf_inv) | split
      | dsimp only)

theorem outputOf_inv (r : Fkz) (orig : ℕ) (d : Device) (hI : Inv d) : Inv (outputOf r orig d).2 := by
  unfold outputOf
  repeat' (first | with_reducible assumption | intro _ | with_reducible apply drawBytes_inv | split)

theorem startDecs_inv (d : Device) (hI : Inv d) : Inv (startDecs d) := by
  unfold startDecs
  repeat' (first | with_reducible assumption | intro _ | (rw [restOf_fold]; with_reducible apply restOf_inv))

theorem endDecompress_inv (j : CzDec) (d : Device) (hI : Inv d) : Inv (endDecompress j d) := by
  unfold endDecompress
  repeat' (first
      | with_reducible assumption | intro _ | with_reducible apply countDec_inv | with_reducible apply outputOf_inv
      | with_reducible apply finishSeq_inv | with_reducible apply dramWrite_inv | with_reducible apply startDecs_inv
      | (rw [restOf_fold]; with_reducible apply restOf_inv))

theorem tickDecs_inv (d : Device) (hI : Inv d) : Inv (tickDecs d) := by
  unfold tickDecs
  repeat' (first
      | with_reducible assumption | intro _ | with_reducible apply endDecompress_inv | with_reducible apply inv_ite
      | (rw [restOf_fold]; with_reducible apply restOf_inv) | with_reducible apply inv_foldl)

/-! Web.lean -/

theorem modCursor_inv (d : Device) (h : Head) (f : Cursor → Cursor) (hI : Inv d) : Inv (modCursor d h f) := by
  unfold modCursor
  repeat' (first | with_reducible assumption | intro _ | (rw [restOf_fold]; with_reducible apply restOf_inv))

theorem dropLines_inv (d : Device) (hI : Inv d) : Inv (dropLines d) := by
  unfold dropLines
  repeat' (first | with_reducible assumption | intro _ | (rw [restOf_fold]; with_reducible apply restOf_inv))

theorem failCaptures_inv (p : Head → JobKey → U32 → Bool) (r : Reason) (d : Device) (hI : Inv d) : Inv (failCaptures p r d) := by
  unfold failCaptures
  repeat' (first | with_reducible assumption | intro _ | with_reducible apply finish_inv | with_reducible apply inv_foldl)

theorem lineGone_inv (h : Head) (job : JobKey) (line : ℕ) (d : Device) (hI : Inv d) : Inv (lineGone h job line d) := by
  unfold lineGone
  repeat' (first | with_reducible assumption | intro _ | with_reducible apply failCaptures_inv)

theorem forgetLines_inv (h : Head) (job : JobKey) (line n : ℕ) (d : Device) (hI : Inv d) : Inv (forgetLines h job line n d) := by
  unfold forgetLines
  repeat' (first | with_reducible assumption | intro _ | with_reducible apply modEngine_inv)

theorem skipFront_inv (h : Head) (r : Skip) (n : ℕ) (d : Device) (hI : Inv d) : Inv (skipFront h r n d) := by
  unfold skipFront
  repeat' (first
      | with_reducible assumption | exact fun _ h => h | exact fun _ h => balanced_skip h _ _ | exact fun _ h => balanced_fire h | intro _
      | with_reducible apply modCursor_inv | with_reducible apply countHead_inv | with_reducible apply lineGone_inv
      | with_reducible apply forgetLines_inv | with_reducible apply noteLines_inv | split)

theorem emptyShadow_inv (t : Tbl) (d : Device) (hI : Inv d) : Inv (emptyShadow t d) := by
  unfold emptyShadow
  repeat' (first | with_reducible assumption | intro _ | with_reducible apply modBank_inv)

theorem dropSets_inv (d : Device) (hI : Inv d) : Inv (dropSets d) := by
  unfold dropSets
  repeat' (first
      | with_reducible assumption | intro _ | with_reducible apply emptyShadow_inv | with_reducible apply inv_ite
      | (rw [restOf_fold]; with_reducible apply restOf_inv) | with_reducible apply inv_foldl)

theorem takeTiming_inv (d : Device) (hI : Inv d) : Inv (takeTiming d) := by
  unfold takeTiming
  repeat' (first | with_reducible assumption | intro _ | (rw [restOf_fold]; with_reducible apply restOf_inv) | split)

theorem endJob_inv (d : Device) (hI : Inv d) : Inv (endJob d) := by
  unfold endJob
  repeat' (first
      | with_reducible assumption | intro _ | with_reducible apply failCaptures_inv | with_reducible apply dropLines_inv
      | with_reducible apply takeTiming_inv | with_reducible apply dropSets_inv | with_reducible apply inv_ite
      | (rw [restOf_fold]; with_reducible apply restOf_inv) | split)

theorem renumberSheets_inv (d : Device) (hI : Inv d) : Inv (renumberSheets d) := by
  unfold renumberSheets
  repeat' (first | with_reducible assumption | intro _ | with_reducible apply inv_ite | (rw [restOf_fold]; with_reducible apply restOf_inv))

theorem unschedule_inv (d : Device) (hI : Inv d) : Inv (unschedule d) := by
  unfold unschedule
  repeat' (first
      | with_reducible assumption | intro _ | with_reducible apply renumberSheets_inv | (rw [restOf_fold]; with_reducible apply restOf_inv))

theorem positionFails_inv (d : Device) (hI : Inv d) : Inv (positionFails d) := by
  unfold positionFails
  repeat' (first
      | with_reducible assumption | intro _ | with_reducible apply unschedule_inv | with_reducible apply endJob_inv
      | with_reducible apply skipTokens_inv)

theorem setReady_inv (node : U8) (isReady : Bool) (d : Device) (hI : Inv d) : Inv (setReady node isReady d) := by
  unfold setReady
  repeat' (first | with_reducible assumption | intro _ | (rw [restOf_fold]; with_reducible apply restOf_inv))

theorem reportReady_inv (jobId : U32) (d : Device) (hI : Inv d) : Inv (reportReady jobId d) := by
  unfold reportReady
  repeat' (first
      | with_reducible assumption | intro _ | with_reducible apply setReady_inv | with_reducible apply sendTo_inv
      | with_reducible apply inv_ite | split)

theorem noteReady_inv (was d : Device) (hI : Inv d) : Inv (noteReady was d) := by
  unfold noteReady
  repeat' (first | with_reducible assumption | intro _ | with_reducible apply reportReady_inv | with_reducible apply inv_ite | split)

theorem holdLoop_inv (d : Device) (hI : Inv d) : Inv (holdLoop d) := by
  unfold holdLoop
  repeat' (first
      | with_reducible assumption | intro _ | with_reducible apply raise_inv | with_reducible apply modColour_inv
      | with_reducible apply inv_ite | (rw [restOf_fold]; with_reducible apply restOf_inv) | with_reducible apply inv_foldl)

end Sys2Proof.Machine
end

