-- ==== Sys2Proof/Laws/InvariantPrint.lean ====
section
/-! SUPPORT. One lemma per operation over a device: the invariant of Safety.lean is kept by the operations of printing: tables, screening, position, firing, jobs, the loop. -/
namespace Sys2Proof.Machine

/-! Tables.lean -/

theorem answerImage_inv (e : ImageEnd) (d : Device) (hI : Inv d) : DoneInv (answerImage e d) := by
  unfold answerImage
  repeat' (first
      | with_reducible assumption | intro _ | with_reducible apply poisoned_inv | with_reducible apply no_inv
      | with_reducible apply doneInv_ite | with_reducible apply doneInv_reply | with_reducible apply doneInv_later | split)

theorem queueLoads_inv (l : List LoadReq) (d : Device) (hI : Inv d) : Inv (queueLoads l d) := by
  unfold queueLoads
  repeat' (first | with_reducible assumption | intro _ | (rw [restOf_fold]; with_reducible apply restOf_inv))

theorem swapBank_inv (t : Tbl) (d : Device) (hI : Inv d) : Inv (swapBank t d) := by
  unfold swapBank
  repeat' (first | with_reducible assumption | intro _ | with_reducible apply modBank_inv)

theorem swapTable_inv (t : Tbl) (d : Device) (hI : Inv d) : Inv (swapTable t d) := by
  unfold swapTable
  repeat' (first
      | with_reducible assumption | intro _ | with_reducible apply swapBank_inv | with_reducible apply sendMaps_inv
      | with_reducible apply modRed_inv | with_reducible apply inv_ite | (rw [restOf_fold]; with_reducible apply restOf_inv)
      | with_reducible apply inv_foldl)

theorem lateMaps_inv (d : Device) (hI : Inv d) : Inv (lateMaps d) := by
  unfold lateMaps
  repeat' (first
      | with_reducible assumption | intro _ | with_reducible apply modLink_inv | with_reducible apply sendMaps_inv
      | with_reducible apply inv_ite | with_reducible apply inv_foldl)

theorem askAgain_inv (loads : List LoadReq) (d : Device) (hI : Inv d) : Inv (askAgain loads d) := by
  unfold askAgain
  repeat' (first | with_reducible assumption | intro _ | with_reducible apply queueLoads_inv)

theorem sendNewMaps_inv (d : Device) (hI : Inv d) : Inv (sendNewMaps d) := by
  unfold sendNewMaps
  repeat' (first
      | with_reducible assumption | intro _ | with_reducible apply sendMaps_inv | with_reducible apply modLink_inv
      | with_reducible apply inv_ite | with_reducible apply inv_foldl)

theorem finishLoad_inv (t : Tbl) (d : Device) (hI : Inv d) : Inv (finishLoad t d) := by
  unfold finishLoad
  repeat' (first
      | with_reducible assumption | intro _ | with_reducible apply dramSee_inv | with_reducible apply raise_inv
      | with_reducible apply emptyShadow_inv | with_reducible apply finishWork_inv | with_reducible apply modBank_inv
      | with_reducible apply sendNewMaps_inv | with_reducible apply modRed_inv | with_reducible apply inv_ite | split | dsimp only)

theorem trimHead_inv (d : Device) (h : Head) (hI : Inv d) : Inv (trimHead d h) := by
  unfold trimHead
  repeat' (first
      | with_reducible assumption | intro _ | with_reducible apply modDrive_inv | with_reducible apply raise_inv
      | with_reducible apply inv_ite | (rw [restOf_fold]; with_reducible apply restOf_inv))

theorem trimAll_inv (d : Device) (hI : Inv d) : Inv (trimAll d) := by
  unfold trimAll
  repeat' (first | with_reducible assumption | intro _ | with_reducible apply trimHead_inv | with_reducible apply inv_foldl)

/-! Screen.lean -/

theorem pullSeg_inv (h : Head) (d : Device) (hI : Inv d) : Inv (pullSeg h d) := by
  unfold pullSeg
  repeat' (first | with_reducible assumption | intro _ | with_reducible apply modCursor_inv | with_reducible apply inv_ite | split)

theorem stepScreen_inv (h : Head) (g : Seg) (d : Device) (hI : Inv d) : Inv (stepScreen h g d) := by
  unfold stepScreen
  repeat' (first | with_reducible assumption | intro _ | with_reducible apply modCursor_inv)

theorem pruneRing_inv (p : Plane) (pc : PlaneCfg) (lb : ℕ) (d : Device) (hI : Inv d) : Inv (pruneRing p pc lb d) := by
  unfold pruneRing
  repeat' (first | with_reducible assumption | intro _ | with_reducible apply modRing_inv)

theorem forecast_inv (p : Plane) (pc : PlaneCfg) (g : Seg) (lb : ℕ) (d : Device) (hI : Inv d) : Inv (forecast p pc g lb d) := by
  unfold forecast
  repeat' (first
      | with_reducible assumption | intro _ | with_reducible apply raise_inv | with_reducible apply modRing_inv
      | with_reducible apply inv_ite | split)

theorem countChain_inv (h : Head) (k : ChainCount) (d : Device) (hI : Inv d) : Inv (countChain h k d) := by
  unfold countChain
  repeat' (first
      | with_reducible assumption | exact fun _ h => h | exact fun _ h => balanced_skip h _ _ | exact fun _ h => balanced_fire h | intro _
      | with_reducible apply countHead_inv)

theorem putScreened_inv (h : Head) (g : Seg) (sc : Screening) (d : Device) (hI : Inv d) : Inv (putScreened h g sc d) := by
  unfold putScreened
  repeat' (first
      | with_reducible assumption | intro _ | with_reducible apply modEngine_inv | with_reducible apply finish_inv
      | with_reducible apply dramWrite_inv | with_reducible apply lineGone_inv | with_reducible apply inv_foldl | split)

theorem noteSkip_inv (h : Head) (job : JobKey) (line : ℕ) (r : Skip) (d : Device) (hI : Inv d) : Inv (noteSkip h job line r d) := by
  unfold noteSkip
  repeat' (first | with_reducible assumption | intro _ | with_reducible apply modEngine_inv)

theorem skipScreen_inv (h : Head) (g : Seg) (r : Skip) (d : Device) (hI : Inv d) : Inv (skipScreen h g r d) := by
  unfold skipScreen
  repeat' (first
      | with_reducible assumption | intro _ | with_reducible apply lineGone_inv | with_reducible apply noteSkip_inv
      | with_reducible apply stepScreen_inv)

theorem lateOnPlane_inv (pc : PlaneCfg) (g : Seg) (d : Device) (hI : Inv d) : Inv (lateOnPlane pc g d) := by
  unfold lateOnPlane
  repeat' (first
      | with_reducible assumption | intro _ | with_reducible apply noteSkip_inv | with_reducible apply inv_ite
      | with_reducible apply inv_foldl)

theorem keepProxy_inv (p : Plane) (pc : PlaneCfg) (g : Seg) (cols : ℕ) (d : Device) (hI : Inv d) : Inv (keepProxy p pc g cols d) := by
  unfold keepProxy
  repeat' (first | with_reducible assumption | intro _ | with_reducible apply modRing_inv | with_reducible apply inv_ite | split)

theorem seedFirst_inv (h : Head) (g : Seg) (d : Device) (hI : Inv d) : Inv (seedFirst h g d) := by
  unfold seedFirst
  repeat' (first | with_reducible assumption | intro _ | with_reducible apply modEngine_inv | with_reducible apply inv_ite)

theorem screenNext_inv (h : Head) (d : Device) (hI : Inv d) : Inv (screenNext h d) := by
  unfold screenNext
  repeat' (first
      | with_reducible assumption | intro _ | with_reducible apply pullSeg_inv | with_reducible apply pruneRing_inv
      | with_reducible apply seedFirst_inv | with_reducible apply lineGone_inv | with_reducible apply stepScreen_inv
      | with_reducible apply skipScreen_inv | with_reducible apply putScreened_inv | with_reducible apply countChain_inv
      | with_reducible apply forecast_inv | with_reducible apply lateOnPlane_inv | with_reducible apply keepProxy_inv
      | with_reducible apply inv_ite | split | dsimp only)

theorem loadForJob_inv (t : Tbl) (addr len : ℕ) (crc : U32) (d : Device) (hI : Inv d) : DoneInv (loadForJob t addr len crc d) := by
  unfold loadForJob
  repeat' (first
      | with_reducible assumption | intro _ | with_reducible apply no_inv | with_reducible apply modBank_inv
      | with_reducible apply noteReady_inv | with_reducible apply dirty_inv | with_reducible apply doneInv_ite
      | with_reducible apply doneInv_reply | with_reducible apply doneInv_later | (rw [restOf_fold]; with_reducible apply restOf_inv)
      | split)

theorem loadForRepeat_inv (t : Tbl) (addr len : ℕ) (crc : U32) (d : Device) (hI : Inv d) : DoneInv (loadForRepeat t addr len crc d) := by
  unfold loadForRepeat
  repeat' (first
      | with_reducible assumption | intro _ | with_reducible apply no_inv | with_reducible apply dirty_inv
      | with_reducible apply modBank_inv | with_reducible apply doneInv_ite | with_reducible apply doneInv_reply
      | with_reducible apply doneInv_later)

/-! Position.lean -/

theorem refreshPos_inv (d : Device) (hI : Inv d) : Inv (refreshPos d) := by
  unfold refreshPos
  repeat' (first | with_reducible assumption | intro _ | (rw [restOf_fold]; with_reducible apply restOf_inv))

theorem adaptersTry_inv (d : Device) (hI : Inv d) : Inv (adaptersTry d) := by
  unfold adaptersTry
  repeat' (first | with_reducible assumption | intro _ | (rw [restOf_fold]; with_reducible apply restOf_inv))

theorem tickCore_inv (d : Device) (hI : Inv d) : Inv (tickCore d) := by
  unfold tickCore
  repeat' (first
      | with_reducible assumption | intro _ | with_reducible apply advanceVictims_inv | with_reducible apply advanceRelock_inv
      | with_reducible apply tickDecs_inv | with_reducible apply advancePorts_inv | with_reducible apply advanceAll_inv
      | with_reducible apply runTests_inv | with_reducible apply adaptersTry_inv | with_reducible apply resumeControl_inv
      | with_reducible apply refreshPos_inv | with_reducible apply inv_ite | (rw [restOf_fold]; with_reducible apply restOf_inv)
      | with_reducible apply inv_foldl)

theorem driveCount_inv (fwd : Bool) (d : Device) (hI : Inv d) : Inv (driveCount fwd d) := by
  unfold driveCount
  repeat' (first
      | with_reducible assumption | intro _ | with_reducible apply refreshPos_inv | (rw [restOf_fold]; with_reducible apply restOf_inv))

theorem checkReverse_inv (d : Device) (hI : Inv d) : Inv (checkReverse d) := by
  unfold checkReverse
  repeat' (first
      | with_reducible assumption | intro _ | with_reducible apply raise_inv | with_reducible apply inv_ite
      | (rw [restOf_fold]; with_reducible apply restOf_inv))

theorem illegalEdge_inv (enc : Fin 2) (d : Device) (hI : Inv d) : Inv (illegalEdge enc d) := by
  unfold illegalEdge
  repeat' (first
      | with_reducible assumption | intro _ | with_reducible apply modDiag_inv | (rw [restOf_fold]; with_reducible apply restOf_inv))

theorem freezePos_inv (d : Device) (hI : Inv d) : Inv (freezePos d) := by
  unfold freezePos
  repeat' (first
      | with_reducible assumption | intro _ | with_reducible apply raise_inv | with_reducible apply positionFails_inv
      | (rw [restOf_fold]; with_reducible apply restOf_inv))

theorem drivingFaulted_inv (enc : Fin 2) (d : Device) (hI : Inv d) : Inv (drivingFaulted enc d) := by
  unfold drivingFaulted
  repeat' (first
      | with_reducible assumption | intro _ | with_reducible apply raise_inv | with_reducible apply freezePos_inv
      | with_reducible apply inv_ite | (rw [restOf_fold]; with_reducible apply restOf_inv))

theorem takeSheetNumber_inv (start : ℕ) (d : Device) (hI : Inv d) : Inv (takeSheetNumber start d).2 := by
  unfold takeSheetNumber
  repeat' (first | with_reducible assumption | intro _ | (rw [restOf_fold]; with_reducible apply restOf_inv) | split)

theorem placeSheet_inv (start : U64) (number : U32) (d : Device) (hI : Inv d) : Inv (placeSheet start number d) := by
  unfold placeSheet
  repeat' (first | with_reducible assumption | intro _ | (rw [restOf_fold]; with_reducible apply restOf_inv))

theorem openSheet_inv (input : Fin 2) (start : ℕ) (d : Device) (hI : Inv d) : Inv (openSheet input start d) := by
  unfold openSheet
  repeat' (first
      | with_reducible assumption | intro _ | with_reducible apply raise_inv | with_reducible apply modDiag_inv
      | with_reducible apply takeSheetNumber_inv | with_reducible apply placeSheet_inv | with_reducible apply broadcast_inv
      | with_reducible apply inv_ite | (rw [restOf_fold]; with_reducible apply restOf_inv))

theorem checkSampleConfig_inv (m : WposSample) (d : Device) (hI : Inv d) : Inv (checkSampleConfig m d) := by
  unfold checkSampleConfig
  repeat' (first
      | with_reducible assumption | intro _ | with_reducible apply raise_inv | with_reducible apply inv_ite
      | (rw [restOf_fold]; with_reducible apply restOf_inv))

theorem followSample_inv (m : WposSample) (d : Device) (hI : Inv d) : Inv (followSample m d) := by
  unfold followSample
  repeat' (first
      | with_reducible assumption | intro _ | with_reducible apply modDiag_inv | with_reducible apply refreshPos_inv
      | with_reducible apply inv_ite | (rw [restOf_fold]; with_reducible apply restOf_inv))

theorem skipPassed.passSegs_inv (h : Head) (fuel : ℕ) (d : Device) (hI : Inv d) : Inv (skipPassed.passSegs h fuel d) := by
  induction fuel generalizing h d with
  | zero => exact hI
  | succ k ih =>
    unfold skipPassed.passSegs
    repeat' (first
        | with_reducible assumption | intro _ | with_reducible apply ih | with_reducible apply skipFront_inv | with_reducible apply inv_ite
        | split)

theorem skipPassed_inv (d : Device) (hI : Inv d) : Inv (skipPassed d) := by
  unfold skipPassed
  repeat' (first
      | with_reducible assumption | intro _ | with_reducible apply skipPassed.passSegs_inv
      | (rw [restOf_fold]; with_reducible apply restOf_inv) | with_reducible apply inv_foldl)

theorem proveChange_inv (m : WposSample) (d : Device) (hI : Inv d) : Inv (proveChange m d) := by
  unfold proveChange
  repeat' (first | with_reducible assumption | intro _ | (rw [restOf_fold]; with_reducible apply restOf_inv))

theorem learnJob_inv (m : WposSample) (d : Device) (hI : Inv d) : Inv (learnJob m d) := by
  unfold learnJob
  repeat' (first | with_reducible assumption | intro _ | with_reducible apply inv_ite | (rw [restOf_fold]; with_reducible apply restOf_inv))

theorem lockPromotion_inv (d : Device) (hI : Inv d) : Inv (lockPromotion d) := by
  unfold lockPromotion
  repeat' (first
      | with_reducible assumption | intro _ | with_reducible apply recordRole_inv | with_reducible apply inv_ite
      | (rw [restOf_fold]; with_reducible apply restOf_inv))

theorem faultSample_inv (lost : Bool) (m : WposSample) (d : Device) (hI : Inv d) : Inv (faultSample lost m d) := by
  unfold faultSample
  repeat' (first
      | with_reducible assumption | intro _ | with_reducible apply raise_inv | with_reducible apply skipPassed_inv
      | with_reducible apply positionFails_inv | with_reducible apply inv_ite | (rw [restOf_fold]; with_reducible apply restOf_inv))

theorem setPosConfig_inv (a : List ℤ) (d : Device) (hI : Inv d) : Inv (setPosConfig a d) := by
  unfold setPosConfig
  repeat' (first
      | with_reducible assumption | intro _ | with_reducible apply checkSampleConfig_inv | with_reducible apply sendRoles_inv
      | with_reducible apply inv_ite | (rw [restOf_fold]; with_reducible apply restOf_inv) | split)

theorem setWpos_inv (v : U64) (d : Device) (hI : Inv d) : Inv (setWpos v d) := by
  unfold setWpos
  repeat' (first | with_reducible assumption | intro _ | (rw [acctRestOf_fold]; with_reducible apply acctRestOf_inv))

/-! Firing.lean -/

theorem inhibitHeads_inv (hs : List Head) (d : Device) (hI : Inv d) : Inv (inhibitHeads hs d) := by
  unfold inhibitHeads
  repeat' (first
      | with_reducible assumption | intro _ | with_reducible apply sendInhibit_inv | with_reducible apply inv_ite
      | (rw [restOf_fold]; with_reducible apply restOf_inv) | with_reducible apply inv_foldl)

theorem releaseHeads_inv (hs : List Head) (d : Device) (hI : Inv d) : Inv (releaseHeads hs d) := by
  unfold releaseHeads
  repeat' (first
      | with_reducible assumption | intro _ | with_reducible apply sendInhibit_inv | with_reducible apply inv_ite
      | (rw [restOf_fold]; with_reducible apply restOf_inv) | with_reducible apply inv_foldl)

theorem commitLine_inv (h : Head) (g : Seg) (codes : List ℕ) (d : Device) (hI : Inv d) : Inv (commitLine h g codes d) := by
  unfold commitLine
  repeat' (first
      | with_reducible assumption | exact fun _ h => h | exact fun _ h => balanced_skip h _ _ | exact fun _ h => balanced_fire h | intro _
      | with_reducible apply forgetLines_inv | with_reducible apply modCursor_inv | with_reducible apply countHead_inv
      | with_reducible apply modDrive_inv | with_reducible apply sendCell_inv | with_reducible apply modLink_inv
      | (rw [restOf_fold]; with_reducible apply restOf_inv))

theorem playCycle_inv (t : Token) (row : BitVec 2) (d : Device) (hI : Inv d) : Inv (playCycle t row d) := by
  unfold playCycle
  repeat' (first | with_reducible assumption | intro _ | with_reducible apply modDrive_inv | with_reducible apply inv_ite)

theorem fireRow_inv (t : Token) (row : BitVec 2) (d : Device) (hI : Inv d) : Inv (fireRow t row d) := by
  unfold fireRow
  repeat' (first
      | with_reducible assumption | exact fun _ h => h | exact fun _ h => balanced_skip h _ _ | exact fun _ h => balanced_fire h | intro _
      | with_reducible apply sendCellAt_inv | with_reducible apply playCycle_inv | with_reducible apply noteEnded_inv
      | with_reducible apply countHead_inv | with_reducible apply inv_ite | (rw [restOf_fold]; with_reducible apply restOf_inv))

theorem dropToken_inv (t : Token) (r : Skip) (d : Device) (hI : Inv d) : Inv (dropToken t r d) := by
  unfold dropToken
  repeat' (first
      | with_reducible assumption | intro _ | with_reducible apply skipToken_inv | (rw [restOf_fold]; with_reducible apply restOf_inv))

/-! Staging.lean -/

theorem stageFailed_inv (e : StageFail) (d : Device) (hI : Inv d) : DoneInv (stageFailed e d) := by
  unfold stageFailed
  repeat' (first
      | with_reducible assumption | intro _ | with_reducible apply no_inv | with_reducible apply poisoned_inv
      | with_reducible apply doneInv_ite | with_reducible apply doneInv_reply | with_reducible apply doneInv_later | split)

theorem seeChecks_inv (j : JobDesc) (first isRunning : Bool) (lo hi : ℕ) (d : Device) (hI : Inv d) : Inv (seeChecks j first isRunning lo
    hi d) := by
  unfold seeChecks
  repeat' (first | with_reducible assumption | intro _ | with_reducible apply dramSee_inv | with_reducible apply inv_foldl)

theorem stageLoads_inv (j : JobDesc) (d : Device) (hI : Inv d) : Inv (stageLoads j d) := by
  unfold stageLoads
  repeat' (first | with_reducible assumption | intro _ | with_reducible apply queueLoads_inv)

theorem noteMirror_inv (id : JobKey) (n : ℕ) (d : Device) (hI : Inv d) : Inv (noteMirror id n d) := by
  unfold noteMirror
  repeat' (first | with_reducible assumption | intro _ | with_reducible apply modRed_inv | with_reducible apply inv_ite)

theorem raiseValid_inv (id : JobKey) (n : ℕ) (p : JobSupply) (d : Device) (hI : Inv d) : Inv (raiseValid id n p d) := by
  unfold raiseValid
  repeat' (first | with_reducible assumption | intro _ | (rw [restOf_fold]; with_reducible apply restOf_inv))

/-! Loop.lean -/

theorem countLoop_inv (k : Plane) (f : LoopCtr → LoopCtr) (d : Device) (hI : Inv d) : Inv (countLoop k f d) := by
  unfold countLoop
  repeat' (first
      | with_reducible assumption | exact fun _ h => h | exact fun _ h => balanced_skip h _ _ | exact fun _ h => balanced_fire h | intro _
      | with_reducible apply countAll_inv)

theorem takeSpan_inv (r : SpanRecord) (d : Device) (hI : Inv d) : Inv (takeSpan r d) := by
  unfold takeSpan
  repeat' (first | with_reducible assumption | intro _ | with_reducible apply modColour_inv)

theorem sendRecord_inv (rec_ : List U8) (dest : U8) (d : Device) (hI : Inv d) : Inv (sendRecord rec_ dest d) := by
  unfold sendRecord
  repeat' (first
      | with_reducible assumption | intro _ | with_reducible apply streamSend_inv | (rw [restOf_fold]; with_reducible apply restOf_inv))

theorem takeInbox_inv (e : U8 × List U8) (d : Device) (hI : Inv d) : Inv (takeInbox e d) := by
  unfold takeInbox
  repeat' (first | with_reducible assumption | intro _ | (rw [restOf_fold]; with_reducible apply restOf_inv))

theorem sendSpans_inv (reset : Bool) (d : Device) (hI : Inv d) : Inv (sendSpans reset d) := by
  unfold sendSpans
  repeat' (first
      | with_reducible assumption | intro _ | with_reducible apply takeSpan_inv | with_reducible apply sendRecord_inv
      | with_reducible apply inv_ite | with_reducible apply inv_foldl | split)

theorem takeProxy_inv (r : ProxyRecord) (d : Device) (hI : Inv d) : Inv (takeProxy r d) := by
  unfold takeProxy
  repeat' (first
      | with_reducible assumption | intro _ | with_reducible apply modColour_inv | (rw [restOf_fold]; with_reducible apply restOf_inv))

theorem dropEnded_inv (hs : List Head) (job : JobKey) (lines : List ℕ) (d : Device) (hI : Inv d) : Inv (dropEnded hs job lines d) := by
  unfold dropEnded
  repeat' (first | with_reducible assumption | intro _ | (rw [restOf_fold]; with_reducible apply restOf_inv))

theorem dropProxy_inv (colour : Plane) (r : PrintRun) (lo hi : ℕ) (d : Device) (hI : Inv d) : Inv (dropProxy colour r lo hi d) := by
  unfold dropProxy
  repeat' (first
      | with_reducible assumption | intro _ | with_reducible apply dropEnded_inv | with_reducible apply modRing_inv
      | with_reducible apply modOwner_inv)

theorem startRuns_inv (j : JobDesc) (r : PrintRun) (d : Device) (hI : Inv d) : Inv (startRuns j r d) := by
  unfold startRuns
  repeat' (first | with_reducible assumption | intro _ | with_reducible apply modOwner_inv | with_reducible apply inv_foldl)

theorem analyseStrip_inv (r : StripRecord) (reversed : BitVec 40) (d : Device) (hI : Inv d) : Inv (analyseStrip r reversed d) := by
  unfold analyseStrip
  repeat' (first
      | with_reducible assumption | intro _ | with_reducible apply countLoop_inv | with_reducible apply raise_inv
      | with_reducible apply inv_ite | (rw [restOf_fold]; with_reducible apply restOf_inv))

theorem accumulateCell_inv (x : Cell) (d : Device) (hI : Inv d) : Inv (accumulateCell x d) := by
  unfold accumulateCell
  repeat' (first
      | with_reducible assumption | intro _ | with_reducible apply countLoop_inv | with_reducible apply inv_ite
      | (rw [restOf_fold]; with_reducible apply restOf_inv) | with_reducible apply inv_foldl | split)

theorem dropPassed_inv (posOf : Port → ℕ) (d : Device) (hI : Inv d) : Inv (dropPassed posOf d) := by
  unfold dropPassed
  repeat' (first | with_reducible assumption | intro _ | (rw [restOf_fold]; with_reducible apply restOf_inv) | split | dsimp only)

theorem trimHeadLoop_inv (k : Plane) (es : Ests) (d : Device) (h : SpanHead) (hI : Inv d) : Inv (trimHeadLoop k es d h) := by
  unfold trimHeadLoop
  repeat' (first
      | with_reducible assumption | intro _ | with_reducible apply countLoop_inv | with_reducible apply raise_inv
      | with_reducible apply modColour_inv | with_reducible apply inv_ite | split | dsimp only)

theorem updateBin_inv (k : Plane) (d : Device) (e : ℕ × BinEst) (hI : Inv d) : Inv (updateBin k d e) := by
  unfold updateBin
  repeat' (first
      | with_reducible assumption | intro _ | with_reducible apply countLoop_inv | with_reducible apply modColour_inv
      | with_reducible apply inv_ite | split)

theorem takeCorrection_inv (r : CorrRecord) (d : Device) (hI : Inv d) : Inv (takeCorrection r d) := by
  unfold takeCorrection
  repeat' (first
      | with_reducible assumption | exact fun _ h => h | exact fun _ h => balanced_skip h _ _ | exact fun _ h => balanced_fire h | intro _
      | with_reducible apply modOwner_inv | with_reducible apply countAll_inv | with_reducible apply inv_ite)

theorem sendCorr_inv (k : Plane) (r : CorrRecord) (d : Device) (hI : Inv d) : Inv (sendCorr k r d) := by
  unfold sendCorr
  repeat' (first
      | with_reducible assumption | intro _ | with_reducible apply takeCorrection_inv | with_reducible apply sendTo_inv
      | with_reducible apply inv_ite | (rw [restOf_fold]; with_reducible apply restOf_inv) | with_reducible apply inv_foldl)

theorem storeHistory_inv (k : Plane) (d : Device) (hI : Inv d) : Inv (storeHistory k d) := by
  unfold storeHistory
  repeat' (first | with_reducible assumption | intro _ | with_reducible apply dramWrite_inv | with_reducible apply inv_ite)

theorem solveColour_inv (band : U32) (k : Plane) (es : Ests) (d : Device) (hI : Inv d) : Inv (solveColour band k es d) := by
  unfold solveColour
  repeat' (first
      | with_reducible assumption | intro _ | with_reducible apply trimHeadLoop_inv | with_reducible apply updateBin_inv
      | with_reducible apply modColour_inv | with_reducible apply sendCorr_inv | with_reducible apply storeHistory_inv
      | with_reducible apply inv_foldl)

theorem storeSweep_inv (d : Device) (hI : Inv d) : Inv (storeSweep d) := by
  unfold storeSweep
  repeat' (first | with_reducible assumption | intro _ | with_reducible apply dramWrite_inv | with_reducible apply inv_ite)

theorem dropBand_inv (d : Device) (hI : Inv d) : Inv (dropBand d) := by
  unfold dropBand
  repeat' (first
      | with_reducible assumption | intro _ | with_reducible apply solveColour_inv | with_reducible apply countLoop_inv
      | (rw [restOf_fold]; with_reducible apply restOf_inv) | with_reducible apply inv_foldl | split)

theorem closeLoopBand_inv (band : U32) (d : Device) (hI : Inv d) : Inv (closeLoopBand band d) := by
  unfold closeLoopBand
  repeat' (first
      | with_reducible assumption | intro _ | with_reducible apply dropBand_inv | with_reducible apply storeSweep_inv
      | with_reducible apply draw_inv | with_reducible apply inv_ite | (rw [restOf_fold]; with_reducible apply restOf_inv) | split
      | refine pair_inv (by with_reducible assumption) ?_ | dsimp only)

theorem fillLoop_inv (k : Plane) (r : CorrRecord) (d : Device) (hI : Inv d) : Inv (fillLoop k r d) := by
  unfold fillLoop
  repeat' (first
      | with_reducible assumption | intro _ | (rw [restOf_fold]; with_reducible apply restOf_inv) | with_reducible apply inv_foldl)

theorem applyColour_inv (k : Plane) (d : Device) (hI : Inv d) : Inv (applyColour k d) := by
  unfold applyColour
  repeat' (first
      | with_reducible assumption | exact fun _ h => h | exact fun _ h => balanced_skip h _ _ | exact fun _ h => balanced_fire h | intro _
      | with_reducible apply countAll_inv | with_reducible apply modOwner_inv | with_reducible apply fillLoop_inv | split | dsimp only)

theorem applyCorrections_inv (d : Device) (hI : Inv d) : Inv (applyCorrections d) := by
  unfold applyCorrections
  repeat' (first
      | with_reducible assumption | intro _ | with_reducible apply applyColour_inv | with_reducible apply inv_ite
      | with_reducible apply inv_foldl)

theorem swapModel_inv (d : Device) (hI : Inv d) : Inv (swapModel d) := by
  unfold swapModel
  repeat' (first | with_reducible assumption | intro _ | (rw [restOf_fold]; with_reducible apply restOf_inv) | split)

/-! Snap.lean -/

theorem sendPiece_inv (d : Device) (p : StatePiece) (hI : Inv d) : Inv (sendPiece d p) := by
  unfold sendPiece
  repeat' (first | with_reducible assumption | intro _ | with_reducible apply streamSend_inv | split)

theorem takeSnapshot_inv (full : Bool) (d : Device) (hI : Inv d) : Inv (takeSnapshot full d) := by
  unfold takeSnapshot
  repeat' (first
      | with_reducible assumption | intro _ | with_reducible apply modEnc_inv | with_reducible apply sendPiece_inv
      | with_reducible apply modRed_inv | with_reducible apply inv_ite | with_reducible apply inv_foldl)

theorem snapshotAtBoundary_inv (d : Device) (hI : Inv d) : Inv (snapshotAtBoundary d) := by
  unfold snapshotAtBoundary
  repeat' (first | with_reducible assumption | intro _ | with_reducible apply takeSnapshot_inv | with_reducible apply inv_ite)

theorem mirrorStep_inv (d : Device) (hI : Inv d) : Inv (mirrorStep d).2 := by
  unfold mirrorStep
  repeat' (first
      | with_reducible assumption | intro _ | with_reducible apply modRed_inv | with_reducible apply dramSee_inv
      | with_reducible apply wagSeq_inv | with_reducible apply takeSrcSeq_inv | with_reducible apply sendTo_inv | split
      | refine pair_inv (by with_reducible assumption) ?_ | dsimp only)

theorem mirrorRun_inv (fuel : ℕ) (d : Device) (hI : Inv d) : Inv (mirrorRun fuel d) := by
  induction fuel generalizing d with
  | zero => exact hI
  | succ k ih =>
    unfold mirrorRun
    repeat' (first
        | with_reducible assumption | intro _ | with_reducible apply ih | with_reducible apply mirrorStep_inv | split
        | refine pair_inv (by with_reducible assumption) ?_)

theorem pumpMirror_inv (d : Device) (hI : Inv d) : Inv (pumpMirror d) := by
  unfold pumpMirror
  repeat' (first | with_reducible assumption | intro _ | with_reducible apply mirrorRun_inv | with_reducible apply inv_ite)

theorem refreshPath_inv (d : Device) (hI : Inv d) : Inv (refreshPath d) := by
  unfold refreshPath
  repeat' (first
      | with_reducible assumption | intro _ | with_reducible apply modRed_inv | with_reducible apply pumpMirror_inv
      | with_reducible apply mirrorPass_inv | with_reducible apply inv_ite | split)

theorem snapAcked_inv (n : U32) (d : Device) (hI : Inv d) : Inv (snapAcked n d) := by
  unfold snapAcked
  repeat' (first | with_reducible assumption | intro _ | with_reducible apply modRed_inv | with_reducible apply inv_ite)

/-! Change.lean -/

theorem sendSchedule_inv (c : Change) (d : Device) (hI : Inv d) : Inv (sendSchedule c d) := by
  unfold sendSchedule
  repeat' (first | with_reducible assumption | intro _ | with_reducible apply broadcast_inv)

theorem holdSchedule_inv (c : Change) (d : Device) (hI : Inv d) : Inv (holdSchedule c d) := by
  unfold holdSchedule
  repeat' (first
      | with_reducible assumption | intro _ | with_reducible apply renumberSheets_inv | (rw [restOf_fold]; with_reducible apply restOf_inv))

theorem dropJobLoads_inv (d : Device) (hI : Inv d) : Inv (dropJobLoads d) := by
  unfold dropJobLoads
  repeat' (first
      | with_reducible assumption | intro _ | with_reducible apply emptyShadow_inv | with_reducible apply finishWork_inv
      | with_reducible apply inv_ite | (rw [restOf_fold]; with_reducible apply restOf_inv) | with_reducible apply inv_foldl | split)

theorem postpone_inv (c : Change) (names : List U8) (d : Device) (hI : Inv d) : Inv (postpone c names d) := by
  unfold postpone
  repeat' (first
      | with_reducible assumption | intro _ | with_reducible apply raise_inv | with_reducible apply broadcast_inv
      | with_reducible apply unschedule_inv | with_reducible apply sendSchedule_inv | with_reducible apply renumberSheets_inv
      | with_reducible apply inv_ite | (rw [restOf_fold]; with_reducible apply restOf_inv))

/-! Feed.lean -/

theorem putTile_inv (t : TileData) (bytes : ℕ) (r : Fkz) (d : Device) (hI : Inv d) : Inv (putTile t bytes r d) := by
  unfold putTile
  repeat' (first
      | with_reducible assumption | exact fun _ h => h | exact fun _ h => balanced_skip h _ _ | exact fun _ h => balanced_fire h | intro _
      | with_reducible apply countDec_inv | with_reducible apply raise_inv | with_reducible apply countAll_inv
      | with_reducible apply inv_ite | (rw [restOf_fold]; with_reducible apply restOf_inv))

theorem seeTile_inv (a : Option ℕ) (d : Device) (hI : Inv d) : Inv (seeTile a d) := by
  unfold seeTile
  repeat' (first | with_reducible assumption | intro _ | with_reducible apply dramSee_inv | split)

theorem runTiles_inv (fuel : ℕ) (d : Device) (hI : Inv d) : Inv (runTiles fuel d) := by
  induction fuel generalizing d with
  | zero => exact hI
  | succ k ih =>
    unfold runTiles
    repeat' (first
        | with_reducible assumption | intro _ | with_reducible apply ih | with_reducible apply putTile_inv
        | with_reducible apply seeTile_inv | with_reducible apply inv_ite | (rw [restOf_fold]; with_reducible apply restOf_inv) | split)

theorem noteReleased_inv (d : Device) (hI : Inv d) : Inv (noteReleased d) := by
  unfold noteReleased
  repeat' (first | with_reducible assumption | intro _ | (rw [restOf_fold]; with_reducible apply restOf_inv) | split)

theorem loadRepeatSet_inv (j : JobDesc) (n : ℕ) (d : Device) (hI : Inv d) : Inv (loadRepeatSet j n d) := by
  unfold loadRepeatSet
  repeat' (first
      | with_reducible assumption | intro _ | with_reducible apply queueLoads_inv | with_reducible apply dramSee_inv
      | with_reducible apply inv_ite | (rw [restOf_fold]; with_reducible apply restOf_inv))

theorem nextSet_inv (x : Job) (n : ℕ) (d : Device) (hI : Inv d) : Inv (nextSet x n d) := by
  unfold nextSet
  repeat' (first | with_reducible assumption | intro _ | with_reducible apply loadRepeatSet_inv | with_reducible apply inv_ite | split)

theorem fallDue_inv (j : JobDesc) (n : ℕ) (d : Device) (hI : Inv d) : Inv (fallDue j n d) := by
  unfold fallDue
  repeat' (first
      | with_reducible assumption | intro _ | with_reducible apply dramSee_inv | with_reducible apply runTiles_inv
      | with_reducible apply noteReleased_inv | with_reducible apply loadRepeatSet_inv | with_reducible apply raise_inv
      | with_reducible apply inv_ite | (rw [restOf_fold]; with_reducible apply restOf_inv))

theorem seeBlock_inv (j : JobDesc) (n k i : ℕ) (d : Device) (hI : Inv d) : Inv (seeBlock j n k i d) := by
  unfold seeBlock
  repeat' (first | with_reducible assumption | intro _ | with_reducible apply dramSee_inv)

theorem endBlock_inv (plane : Plane) (b : RingBlock) (bytes : ℕ) (out : Fkz) (d : Device) (hI : Inv d) : Inv (endBlock plane b bytes out
    d) := by
  unfold endBlock
  repeat' (first
      | with_reducible assumption | intro _ | with_reducible apply countDec_inv | with_reducible apply noteReleased_inv
      | with_reducible apply modRing_inv | with_reducible apply raise_inv | with_reducible apply inv_ite)

theorem resumeTiles_inv (d : Device) (hI : Inv d) : Inv (resumeTiles d) := by
  unfold resumeTiles
  repeat' (first
      | with_reducible assumption | intro _ | with_reducible apply noteReleased_inv | with_reducible apply runTiles_inv
      | (rw [restOf_fold]; with_reducible apply restOf_inv))

/-! Boundary.lean -/

theorem swapTiming_inv (d : Device) (hI : Inv d) : Inv (swapTiming d) := by
  unfold swapTiming
  repeat' (first
      | with_reducible assumption | intro _ | with_reducible apply sendSpans_inv | with_reducible apply takeTiming_inv
      | with_reducible apply inv_ite)

theorem clearModes_inv (was d : Device) (hI : Inv d) : Inv (clearModes was d) := by
  unfold clearModes
  repeat' (first | with_reducible assumption | intro _ | (rw [restOf_fold]; with_reducible apply restOf_inv))

theorem giveSeg_inv (j : JobDesc) (n start base : ℕ) (late : Bool) (notice : Option ℕ) (d : Device) (h : Head) (hI : Inv d) : Inv (giveSeg
    j n start base late notice d h) := by
  unfold giveSeg
  repeat' (first
      | with_reducible assumption | intro _ | with_reducible apply modRed_inv | with_reducible apply modCursor_inv
      | with_reducible apply inv_ite | split)

theorem prunePast_inv (d : Device) (hI : Inv d) : Inv (prunePast d) := by
  unfold prunePast
  repeat' (first | with_reducible assumption | intro _ | (rw [restOf_fold]; with_reducible apply restOf_inv))

theorem captureAt_inv (d : Device) (hI : Inv d) : Inv (captureAt d) := by
  unfold captureAt
  repeat' (first
      | with_reducible assumption | intro _ | with_reducible apply captureCheckpoint_inv | with_reducible apply pumpMirror_inv
      | with_reducible apply snapshotAtBoundary_inv | with_reducible apply inv_ite)

theorem seedEngines_inv (d : Device) (hI : Inv d) : Inv (seedEngines d) := by
  unfold seedEngines
  repeat' (first | with_reducible assumption | intro _ | (rw [restOf_fold]; with_reducible apply restOf_inv))

theorem resetLoop_inv (d : Device) (hI : Inv d) : Inv (resetLoop d) := by
  unfold resetLoop
  repeat' (first | with_reducible assumption | intro _ | (rw [restOf_fold]; with_reducible apply restOf_inv))

theorem cutOutgoing_inv (start : ℕ) (d : Device) (hI : Inv d) : Inv (cutOutgoing start d) := by
  unfold cutOutgoing
  repeat' (first | with_reducible assumption | intro _ | (rw [restOf_fold]; with_reducible apply restOf_inv))

theorem noteSupply_inv (outEnd : ℕ) (d : Device) (hI : Inv d) : Inv (noteSupply outEnd d) := by
  unfold noteSupply
  repeat' (first
      | with_reducible assumption | intro _ | with_reducible apply inv_ite | (rw [restOf_fold]; with_reducible apply restOf_inv) | split)

theorem liftLost_inv (d : Device) (hI : Inv d) : Inv (liftLost d) := by
  unfold liftLost
  repeat' (first
      | with_reducible assumption | intro _ | with_reducible apply sendInhibit_inv | with_reducible apply inv_ite
      | (rw [restOf_fold]; with_reducible apply restOf_inv) | with_reducible apply inv_foldl)

theorem swapHost_inv (d : Device) (hI : Inv d) : Inv (swapHost d).2 := by
  unfold swapHost
  repeat' (first
      | with_reducible assumption | intro _ | with_reducible apply swapTable_inv | with_reducible apply inv_ite
      | with_reducible apply inv_foldl)

theorem swapSet_inv (d : Device) (s : JobKey × ℕ × List LoadReq) (hI : Inv d) : Inv (swapSet d s) := by
  unfold swapSet
  repeat' (first
      | with_reducible assumption | intro _ | with_reducible apply swapTable_inv | with_reducible apply inv_ite
      | (rw [restOf_fold]; with_reducible apply restOf_inv) | with_reducible apply inv_foldl)

theorem swapRepeat_inv (j : JobDesc) (n : ℕ) (d : Device) (hI : Inv d) : Inv (swapRepeat j n d).2 := by
  unfold swapRepeat
  repeat' (first
      | with_reducible assumption | intro _ | with_reducible apply loadRepeatSet_inv | with_reducible apply swapSet_inv
      | with_reducible apply raise_inv | with_reducible apply askAgain_inv | with_reducible apply inv_ite | with_reducible apply inv_foldl
      | split | dsimp only)

theorem installJob_inv (x : Job) (n start base : ℕ) (d : Device) (hI : Inv d) : Inv (installJob x n start base d) := by
  unfold installJob
  repeat' (first | with_reducible assumption | intro _ | (rw [restOf_fold]; with_reducible apply restOf_inv))

theorem doChange_inv (x : Job) (n start base : ℕ) (d : Device) (hI : Inv d) : Inv (doChange x n start base d) := by
  unfold doChange
  repeat' (first
      | with_reducible assumption | intro _ | with_reducible apply dropSets_inv | with_reducible apply noteSupply_inv
      | with_reducible apply swapTable_inv | with_reducible apply swapHost_inv | with_reducible apply swapModel_inv
      | with_reducible apply latchPeriod_inv | with_reducible apply failCaptures_inv | with_reducible apply resetLoop_inv
      | with_reducible apply installJob_inv | with_reducible apply cutOutgoing_inv | with_reducible apply takeTiming_inv
      | with_reducible apply clearModes_inv | with_reducible apply trimAll_inv | with_reducible apply applyCorrections_inv
      | with_reducible apply sendSpans_inv | with_reducible apply seedEngines_inv | with_reducible apply lateMaps_inv
      | with_reducible apply liftLost_inv | with_reducible apply raise_inv | with_reducible apply swapRepeat_inv
      | with_reducible apply startRuns_inv | with_reducible apply giveSeg_inv | with_reducible apply captureAt_inv
      | with_reducible apply prunePast_inv | with_reducible apply noteReleased_inv | with_reducible apply nextSet_inv
      | with_reducible apply inv_ite | (rw [restOf_fold]; with_reducible apply restOf_inv) | with_reducible apply inv_foldl)

theorem loseChange_inv (d : Device) (hI : Inv d) : Inv (loseChange d) := by
  unfold loseChange
  repeat' (first
      | with_reducible assumption | intro _ | with_reducible apply sendInhibit_inv | with_reducible apply raise_inv
      | with_reducible apply inv_ite | (rw [restOf_fold]; with_reducible apply restOf_inv) | with_reducible apply inv_foldl)

theorem drillAtEnd_inv (d : Device) (hI : Inv d) : Inv (drillAtEnd d) := by
  unfold drillAtEnd
  repeat' (first
      | with_reducible assumption | intro _ | with_reducible apply takeSnapshot_inv | with_reducible apply sendHandover_inv
      | with_reducible apply modRed_inv | with_reducible apply inv_ite)

theorem endAtBoundary_inv (x : Job) (start : ℕ) (d : Device) (hI : Inv d) : Inv (endAtBoundary x start d) := by
  unfold endAtBoundary
  repeat' (first
      | with_reducible assumption | intro _ | with_reducible apply failCaptures_inv | with_reducible apply dropSets_inv
      | with_reducible apply cutOutgoing_inv | with_reducible apply noteSupply_inv | with_reducible apply drillAtEnd_inv
      | (rw [restOf_fold]; with_reducible apply restOf_inv))

theorem beginRepeat_inv (x : Job) (n start : ℕ) (notice : Option ℕ) (d : Device) (hI : Inv d) : Inv (beginRepeat x n start notice d) := by
  unfold beginRepeat
  repeat' (first
      | with_reducible assumption | intro _ | with_reducible apply swapHost_inv | with_reducible apply swapRepeat_inv
      | with_reducible apply raise_inv | with_reducible apply clearModes_inv | with_reducible apply swapTiming_inv
      | with_reducible apply trimAll_inv | with_reducible apply applyCorrections_inv | with_reducible apply lateMaps_inv
      | with_reducible apply startRuns_inv | with_reducible apply giveSeg_inv | with_reducible apply nextSet_inv
      | with_reducible apply inv_ite | (rw [restOf_fold]; with_reducible apply restOf_inv) | with_reducible apply inv_foldl)

theorem idleBoundary_inv (start : ℕ) (notice : Option ℕ) (d : Device) (hI : Inv d) : Inv (idleBoundary start notice d) := by
  unfold idleBoundary
  repeat' (first
      | with_reducible assumption | intro _ | with_reducible apply swapHost_inv | with_reducible apply clearModes_inv
      | with_reducible apply swapTiming_inv | with_reducible apply trimAll_inv | with_reducible apply applyCorrections_inv
      | with_reducible apply lateMaps_inv | (rw [restOf_fold]; with_reducible apply restOf_inv))

theorem passBoundary_inv (x : Job) (start n : ℕ) (notice : Option ℕ) (d : Device) (hI : Inv d) : Inv (passBoundary x start n notice d) :=
    by
  unfold passBoundary
  repeat' (first
      | with_reducible assumption | intro _ | with_reducible apply latchPeriod_inv | with_reducible apply idleBoundary_inv
      | with_reducible apply endAtBoundary_inv | with_reducible apply beginRepeat_inv | with_reducible apply captureAt_inv
      | with_reducible apply prunePast_inv | with_reducible apply inv_ite)

theorem resumeOutgoing_inv (start : ℕ) (d : Device) (hI : Inv d) : Inv (resumeOutgoing start d) := by
  unfold resumeOutgoing
  repeat' (first
      | with_reducible assumption | intro _ | with_reducible apply liftLost_inv | with_reducible apply holdSchedule_inv
      | with_reducible apply inv_ite | (rw [restOf_fold]; with_reducible apply restOf_inv) | split)

theorem noteBandClose_inv (band : U32) (w : U64) (d : Device) (hI : Inv d) : Inv (noteBandClose band w d) := by
  unfold noteBandClose
  repeat' (first | with_reducible assumption | intro _ | (rw [acctRestOf_fold]; with_reducible apply acctRestOf_inv))

theorem noMeasuring_inv (d : Device) (hI : Inv d) : Inv (noMeasuring d).2 := by
  unfold noMeasuring
  repeat' (first | with_reducible assumption | intro _ | with_reducible apply draw_inv | split)

theorem sendAudits_inv (d : Device) (hI : Inv d) : Inv (sendAudits d) := by
  unfold sendAudits
  repeat' (first
      | with_reducible assumption | intro _ | with_reducible apply giveLink_inv | with_reducible apply modPort_inv
      | with_reducible apply inv_ite | with_reducible apply inv_foldl)

end Sys2Proof.Machine
end

