-- ==== Sys2Proof/Laws/InvariantUnits.lean ====
section
/-! SUPPORT. One lemma per operation over a device: the invariant of Safety.lean is kept by the operations of the cameras, power, promotion, head links and the pair. -/
namespace Sys2Proof.Machine

/-! Pipeline.lean -/

theorem pairIntoLoop_inv (p : Port) (b : CamBand) (j : ℕ) (x y : CamLine) (d : Device) (hI : Inv d) : Inv (pairIntoLoop p b j x y d) := by
  unfold pairIntoLoop
  repeat' (first
      | with_reducible assumption | intro _ | with_reducible apply accumulateCell_inv | with_reducible apply inv_ite
      | with_reducible apply inv_foldl)

theorem takeLine_inv (p : Port) (d : Device) (hI : Inv d) : Inv (takeLine p d) := by
  unfold takeLine
  repeat' (first
      | with_reducible assumption | intro _ | with_reducible apply modCam_inv | with_reducible apply pairIntoLoop_inv
      | with_reducible apply dropPassed_inv | with_reducible apply inv_ite | split | dsimp only)

theorem takeTurn_inv (p : Port) (d : Device) (hI : Inv d) : Inv (takeTurn p d) := by
  unfold takeTurn
  repeat' (first
      | with_reducible assumption | intro _ | with_reducible apply takeLine_inv | (rw [restOf_fold]; with_reducible apply restOf_inv))

theorem ringWrite_inv (t : Machine.Stream) (bs : List U8) (d : Device) (hI : Inv d) : Inv (ringWrite t bs d) := by
  unfold ringWrite
  repeat' (first | with_reducible assumption | intro _ | with_reducible apply dramWrite_inv)

theorem streamBand_inv (p : Port) (c : Cam) (b : CamBand) (k : ℕ) (n : Fin 4) (d : Device) (hI : Inv d) : Inv (streamBand p c b k n d).2
    := by
  unfold streamBand
  repeat' (first
      | with_reducible assumption | intro _ | with_reducible apply ringWrite_inv | (rw [restOf_fold]; with_reducible apply restOf_inv)
      | split | dsimp only)

theorem cciAppend_inv (p : Port) (ops : List CciOp) (d : Device) (hI : Inv d) : Inv (cciAppend p ops d) := by
  unfold cciAppend
  repeat' (first | with_reducible assumption | intro _ | (rw [restOf_fold]; with_reducible apply restOf_inv))

theorem cciSetWrites_inv (p : Port) (ops : List CciOp) (d : Device) (hI : Inv d) : Inv (cciSetWrites p ops d) := by
  unfold cciSetWrites
  repeat' (first | with_reducible assumption | intro _ | (rw [restOf_fold]; with_reducible apply restOf_inv))

theorem focusWrite_inv (p : Port) (up : Bool) (d : Device) (hI : Inv d) : Inv (focusWrite p up d) := by
  unfold focusWrite
  repeat' (first | with_reducible assumption | intro _ | with_reducible apply cciAppend_inv | with_reducible apply inv_ite)

theorem focusStep_inv (p : Port) (b : CamBand) (x : BandStats) (d : Device) (hI : Inv d) : Inv (focusStep p b x d) := by
  unfold focusStep
  repeat' (first
      | with_reducible assumption | intro _ | with_reducible apply focusWrite_inv | with_reducible apply modCam_inv
      | with_reducible apply inv_ite)

theorem whiteStep_inv (p : Port) (b : CamBand) (x : BandStats) (k : ℕ) (d : Device) (hI : Inv d) : Inv (whiteStep p b x k d) := by
  unfold whiteStep
  repeat' (first
      | with_reducible assumption | intro _ | with_reducible apply modCam_inv | with_reducible apply raise_inv
      | with_reducible apply finishWork_inv | with_reducible apply inv_ite | with_reducible apply inv_foldl | split | dsimp only)

theorem darkResult_inv (p : Port) (t : DarkCal) (a b : List ℕ × ℕ × ℕ × ℕ) (k : ℕ) (d : Device) (hI : Inv d) : Inv (darkResult p t a b k
    d) := by
  unfold darkResult
  repeat' (first | with_reducible assumption | intro _ | with_reducible apply modCam_inv | with_reducible apply finishWork_inv | split)

theorem darkStep_inv (p : Port) (b : CamBand) (x : BandStats) (k : ℕ) (d : Device) (hI : Inv d) : Inv (darkStep p b x k d) := by
  unfold darkStep
  repeat' (first
      | with_reducible assumption | intro _ | with_reducible apply modCam_inv | with_reducible apply finishWork_inv
      | with_reducible apply darkResult_inv | with_reducible apply inv_ite | split | dsimp only)

theorem bandNotice_inv (p : Port) (c : Cam) (b : CamBand) (d : Device) (hI : Inv d) : Inv (bandNotice p c b d) := by
  unfold bandNotice
  repeat' (first
      | with_reducible assumption | intro _ | with_reducible apply noteBandClose_inv | with_reducible apply broadcast_inv
      | with_reducible apply closeLoopBand_inv | with_reducible apply inv_ite)

theorem latchStats_inv (p : Port) (r : CamStats) (d : Device) (hI : Inv d) : Inv (latchStats p r d) := by
  unfold latchStats
  repeat' (first
      | with_reducible assumption | intro _ | with_reducible apply modCam_inv | with_reducible apply raise_inv
      | with_reducible apply inv_ite)

theorem streamBands_inv (p : Port) (c : Cam) (b : CamBand) (k : Nat) (d : Device) (h : Inv d) : Inv (streamBands p c b k d).2 := by
  have hf : ∀ (l : List (Fin 4)) (e : Bool × Device), Inv e.2 → Inv (l.foldl (fun (e : Bool × Device) (n : Fin 4) =>
      let (f, d) := streamBand p c b k n e.2; (e.1 || f, d)) e).2 := by
    intro l
    induction l with
    | nil => exact fun _ h => h
    | cons n l ih => exact fun e h => ih _ (streamBand_inv p c b k n _ h)
  exact hf _ _ h

theorem noteLum_inv (p : Port) (c : Cam) (b : CamBand) (k : ℕ) (d : Device) (hI : Inv d) : Inv (noteLum p c b k d) := by
  unfold noteLum
  repeat' (first | with_reducible assumption | intro _ | with_reducible apply inv_ite | (rw [restOf_fold]; with_reducible apply restOf_inv))

theorem settleBand_inv (p : Port) (c : Cam) (b : CamBand) (x : BandStats) (k : ℕ) (drop : Bool) (d : Device) (hI : Inv d) : Inv
    (settleBand p c b x k drop d) := by
  unfold settleBand
  repeat' (first
      | with_reducible assumption | intro _ | with_reducible apply latchStats_inv | with_reducible apply modCam_inv
      | with_reducible apply focusStep_inv | with_reducible apply darkStep_inv | with_reducible apply whiteStep_inv
      | with_reducible apply bandNotice_inv | with_reducible apply noteLum_inv | with_reducible apply inv_ite
      | (rw [restOf_fold]; with_reducible apply restOf_inv))

theorem closeBand_inv (p : Port) (long : Bool) (d : Device) (hI : Inv d) : Inv (closeBand p long d) := by
  unfold closeBand
  repeat' (first
      | with_reducible assumption | intro _ | with_reducible apply takeLine_inv | with_reducible apply streamBands_inv
      | with_reducible apply settleBand_inv | (rw [restOf_fold]; with_reducible apply restOf_inv) | with_reducible apply inv_foldl | split
      | refine pair_inv (by with_reducible assumption) ?_ | dsimp only)

/-! Camera.lean -/

theorem camViolation_inv (p : Port) (k : Fin 13) (code : U8) (ans : BitVec 2) (d : Device) (hI : Inv d) : Inv (camViolation p k code ans
    d) := by
  unfold camViolation
  repeat' (first | with_reducible assumption | intro _ | with_reducible apply violation_inv | with_reducible apply modCam_inv)

theorem cciViolation_inv (p : Port) (k : Fin 13) (code : U8) (ans : BitVec 2) (d : Device) (hI : Inv d) : Inv (cciViolation p k code ans
    d) := by
  unfold cciViolation
  repeat' (first | with_reducible assumption | intro _ | with_reducible apply violation_inv | with_reducible apply modCam_inv)

theorem settingsWritten_inv (p : Port) (d : Device) (hI : Inv d) : Inv (settingsWritten p d) := by
  unfold settingsWritten
  repeat' (first
      | with_reducible assumption | intro _ | with_reducible apply modCam_inv | with_reducible apply finishWork_inv | split | dsimp only)

theorem beginSettings_inv (p : Port) (band : Option U32) (d : Device) (hI : Inv d) : Inv (beginSettings p band d) := by
  unfold beginSettings
  repeat' (first
      | with_reducible assumption | intro _ | with_reducible apply modCam_inv | with_reducible apply settingsWritten_inv
      | with_reducible apply cciSetWrites_inv | with_reducible apply inv_ite | split)

theorem dropWrites_inv (p : Port) (f : CciOp → Bool) (d : Device) (hI : Inv d) : Inv (dropWrites p f d) := by
  unfold dropWrites
  repeat' (first | with_reducible assumption | intro _ | (rw [restOf_fold]; with_reducible apply restOf_inv))

theorem settingsFailed_inv (p : Port) (set : U32) (index : ℕ) (d : Device) (hI : Inv d) : Inv (settingsFailed p set index d) := by
  unfold settingsFailed
  repeat' (first
      | with_reducible assumption | intro _ | with_reducible apply modCam_inv | with_reducible apply dropWrites_inv
      | with_reducible apply raise_inv | with_reducible apply finishWork_inv)

theorem stopPort_inv (p : Port) (d : Device) (hI : Inv d) : Inv (stopPort p d) := by
  unfold stopPort
  repeat' (first
      | with_reducible assumption | intro _ | with_reducible apply modCam_inv | with_reducible apply closeBand_inv
      | with_reducible apply beginSettings_inv | with_reducible apply inv_ite | split | dsimp only)

theorem startPort_inv (p : Port) (d : Device) (hI : Inv d) : Inv (startPort p d) := by
  unfold startPort
  repeat' (first | with_reducible assumption | intro _ | with_reducible apply modCam_inv | with_reducible apply inv_ite)

theorem serveFirst_inv (d : Device) (hI : Inv d) : Inv (serveFirst d) := by
  unfold serveFirst
  repeat' (first
      | with_reducible assumption | intro _ | with_reducible apply inv_ite | (rw [restOf_fold]; with_reducible apply restOf_inv) | split)

theorem issueTrigger_inv (p : Port) (w : U64) (d : Device) (hI : Inv d) : Inv (issueTrigger p w d) := by
  unfold issueTrigger
  repeat' (first | with_reducible assumption | intro _ | with_reducible apply modCam_inv | with_reducible apply inv_ite)

theorem applyAtOpen_inv (p : Port) (n : U32) (d : Device) (hI : Inv d) : Inv (applyAtOpen p n d) := by
  unfold applyAtOpen
  repeat' (first
      | with_reducible assumption | intro _ | with_reducible apply modCam_inv | (rw [restOf_fold]; with_reducible apply restOf_inv))

theorem openBand_inv (p : Port) (d : Device) (hI : Inv d) : Inv (openBand p d) := by
  unfold openBand
  repeat' (first
      | with_reducible assumption | intro _ | with_reducible apply modCam_inv | with_reducible apply applyAtOpen_inv
      | with_reducible apply beginSettings_inv | with_reducible apply inv_ite | (rw [restOf_fold]; with_reducible apply restOf_inv) | split
      | dsimp only)

theorem csiHeader_inv (p : Port) (syncOk hdrOk corrected expected : Bool) (accept other : Device → Device) (d : Device)
    (ha : ∀ e, Inv e → Inv (accept e)) (ho : ∀ e, Inv e → Inv (other e)) (hI : Inv d) :
    Inv (csiHeader p syncOk hdrOk corrected expected accept other d) := by
  unfold csiHeader
  repeat' (first
      | with_reducible assumption | with_reducible apply modDiag_inv | with_reducible apply camViolation_inv | with_reducible apply ha
      | with_reducible apply ho | with_reducible apply inv_ite)

theorem frameStart_inv (p : Port) (d : Device) (hI : Inv d) : Inv (frameStart p d) := by
  unfold frameStart
  repeat' (first
      | with_reducible assumption | intro _ | with_reducible apply modCam_inv | with_reducible apply closeBand_inv
      | with_reducible apply camViolation_inv | with_reducible apply openBand_inv | with_reducible apply inv_ite | split)

theorem frameEnd_inv (p : Port) (d : Device) (hI : Inv d) : Inv (frameEnd p d) := by
  unfold frameEnd
  repeat' (first
      | with_reducible assumption | intro _ | with_reducible apply modCam_inv | with_reducible apply closeBand_inv
      | with_reducible apply camViolation_inv | with_reducible apply inv_ite)

theorem bandLine_inv (p : Port) (trig : U64) (kept : Option CamLine) (crc : Bool) (d : Device) (hI : Inv d) : Inv (bandLine p trig kept
    crc d) := by
  unfold bandLine
  repeat' (first | with_reducible assumption | intro _ | with_reducible apply modCam_inv)

theorem lateLine_inv (p : Port) (d : Device) (hI : Inv d) : Inv (lateLine p d) := by
  unfold lateLine
  repeat' (first | with_reducible assumption | intro _ | with_reducible apply modCam_inv)

theorem takeTrigger_inv (p : Port) (d : Device) (hI : Inv d) : Inv (takeTrigger p d).2 := by
  unfold takeTrigger
  repeat' (first | with_reducible assumption | intro _ | with_reducible apply modCam_inv | with_reducible apply draw_inv | split)

theorem framePacket_inv (p : Port) (pkt : LongPacket) (d : Device) (hI : Inv d) : Inv (framePacket p pkt d) := by
  unfold framePacket
  repeat' (first
      | with_reducible assumption | intro _ | with_reducible apply takeTrigger_inv | with_reducible apply lateLine_inv
      | with_reducible apply closeBand_inv | with_reducible apply bandLine_inv | with_reducible apply camViolation_inv
      | with_reducible apply modCam_inv | with_reducible apply inv_ite | (rw [restOf_fold]; with_reducible apply restOf_inv) | split
      | refine pair_inv (by with_reducible assumption) ?_ | dsimp only)

theorem camReinit_inv (p : Port) (d : Device) (hI : Inv d) : Inv (camReinit p d) := by
  unfold camReinit
  repeat' (first
      | with_reducible assumption | intro _ | with_reducible apply modCam_inv | with_reducible apply dropWrites_inv
      | with_reducible apply closeBand_inv)

theorem cciTrace_inv (a : CciAct) (d : Device) (hI : Inv d) : Inv (cciTrace a d) := by
  unfold cciTrace
  repeat' (first | with_reducible assumption | intro _ | (rw [restOf_fold]; with_reducible apply restOf_inv))

theorem cciSucceeds_inv (op : CciOp) (v : U32) (d : Device) (hI : Inv d) : Inv (cciSucceeds op v d) := by
  unfold cciSucceeds
  repeat' (first
      | with_reducible assumption | intro _ | with_reducible apply modCam_inv | with_reducible apply settingsWritten_inv
      | with_reducible apply finishWork_inv | with_reducible apply inv_ite | split | dsimp only)

theorem cciFails_inv (bus : Bool) (op : CciOp) (d : Device) (hI : Inv d) : Inv (cciFails bus op d) := by
  unfold cciFails
  repeat' (first
      | with_reducible assumption | intro _ | with_reducible apply settingsFailed_inv | with_reducible apply modCam_inv
      | with_reducible apply dropWrites_inv | with_reducible apply raise_inv | with_reducible apply finishWork_inv | split | dsimp only)

theorem cciPop_inv (bus : Bool) (d : Device) (hI : Inv d) : Inv (cciPop bus d) := by
  unfold cciPop
  repeat' (first | with_reducible assumption | intro _ | (rw [restOf_fold]; with_reducible apply restOf_inv))

/-! Power.lean -/

theorem quiesceDac_inv (d : Device) (hI : Inv d) : Inv (quiesceDac d) := by
  unfold quiesceDac
  repeat' (first
      | with_reducible assumption | intro _ | with_reducible apply finishAll_inv | (rw [restOf_fold]; with_reducible apply restOf_inv))

theorem quiesce_inv (d : Device) (hI : Inv d) : Inv (quiesce d) := by
  unfold quiesce
  repeat' (first
      | with_reducible assumption | intro _ | with_reducible apply quiesceDac_inv | (rw [restOf_fold]; with_reducible apply restOf_inv)
      | split | dsimp only)

theorem quiet_inv (k : ℕ) (rest : List ℕ) (d : Device) (hI : Inv d) : Inv (quiet k rest d) := by
  unfold quiet
  repeat' (first
      | with_reducible assumption | intro _ | with_reducible apply idleHeadLanes_inv | with_reducible apply inv_ite
      | (rw [restOf_fold]; with_reducible apply restOf_inv))

theorem nextDomain_inv (d : Device) (hI : Inv d) : Inv (nextDomain d) := by
  unfold nextDomain
  repeat' (first
      | with_reducible assumption | intro _ | with_reducible apply quiesce_inv | with_reducible apply refuseEntry_inv
      | with_reducible apply inv_ite)

theorem startPhase1_inv (d : Device) (hI : Inv d) : Inv (startPhase1 d) := by
  unfold startPhase1
  repeat' (first
      | with_reducible assumption | intro _ | with_reducible apply wakeCores_inv | with_reducible apply nextDomain_inv
      | (rw [restOf_fold]; with_reducible apply restOf_inv))

theorem reportDone_inv (d : Device) (hI : Inv d) : Inv (reportDone d) := by
  unfold reportDone
  repeat' (first | with_reducible assumption | intro _ | with_reducible apply commandDone_inv | with_reducible apply inv_foldl | split)

theorem allQuiesced_inv (d : Device) (hI : Inv d) : Inv (allQuiesced d) := by
  unfold allQuiesced
  repeat' (first
      | with_reducible assumption | intro _ | with_reducible apply draw_inv | with_reducible apply reportDone_inv
      | with_reducible apply finishWork_inv | (rw [restOf_fold]; with_reducible apply restOf_inv) | split
      | refine pair_inv (by with_reducible assumption) ?_)

theorem powerStep_inv (d : Device) (hI : Inv d) : Inv (powerStep d) := by
  unfold powerStep
  repeat' (first
      | with_reducible assumption | intro _ | with_reducible apply enterState_inv | with_reducible apply wakeUp_inv
      | with_reducible apply inv_ite)

theorem roleSleep_inv (d : Device) (hI : Inv d) : Inv (roleSleep d) := by
  unfold roleSleep
  repeat' (first
      | with_reducible assumption | intro _ | with_reducible apply startPhase1_inv | with_reducible apply inv_ite
      | (rw [restOf_fold]; with_reducible apply restOf_inv))

/-! Promotion.lean -/

theorem withSettings_inv (x d : Device) (hI : Inv d) : Inv (withSettings x d) := by
  unfold withSettings
  repeat' (first | with_reducible assumption | intro _ | exact ⟨hI.1, hI.2, hI.3, hI.4, hI.5, hI.6⟩)

theorem restoreColour_inv (e : Device × List U8) (k : Plane) (hI : Inv e.1) : Inv (restoreColour e k).1 := modColour_inv e.1 k _ hI

theorem withLoopNode_inv (b : List U8) (d : Device) (hI : Inv d) : Inv (withLoopNode b d) :=
  inv_foldl_fst _ _ _ restoreColour_inv ⟨hI.1, hI.2, hI.3, hI.4, hI.5, hI.6⟩

theorem installSet_inv (addr : ℕ) (d : Device) (hI : Inv d) : Inv (installSet addr d) := by
  unfold installSet
  repeat' (first
      | with_reducible assumption | intro _ | with_reducible apply modBank_inv | with_reducible apply dramSee_inv
      | with_reducible apply inv_ite | with_reducible apply inv_foldl)

theorem installSets_inv (j : JobDesc) (begun : ℕ) (d : Device) (hI : Inv d) : Inv (installSets j begun d) := by
  unfold installSets
  repeat' (first | with_reducible assumption | intro _ | with_reducible apply installSet_inv | with_reducible apply inv_foldl)

theorem withComb_inv (s : Snap) (p : List U8) (d : Device) (hI : Inv d) : Inv (withComb s p d) := by
  unfold withComb
  repeat' (first | with_reducible assumption | intro _ | with_reducible apply modBank_inv)

theorem withLoop_inv (b : List U8) (d : Device) (hI : Inv d) : Inv (withLoop b d) := by
  unfold withLoop
  repeat' (first | with_reducible assumption | intro _ | (rw [restOf_fold]; with_reducible apply restOf_inv))

theorem withDrops_inv (b : List U8) (d : Device) (hI : Inv d) : Inv (withDrops b d) := by
  unfold withDrops
  repeat' (first | with_reducible assumption | intro _ | (rw [restOf_fold]; with_reducible apply restOf_inv))

theorem withScreen_inv (b : List U8) (d : Device) (hI : Inv d) : Inv (withScreen b d) := by
  unfold withScreen
  repeat' (first | with_reducible assumption | intro _ | (rw [restOf_fold]; with_reducible apply restOf_inv))

theorem withPosition_inv (p ep : List U8) (d : Device) (hI : Inv d) : Inv (withPosition p ep d) := by
  unfold withPosition
  repeat' (first | with_reducible assumption | intro _ | (rw [restOf_fold]; with_reducible apply restOf_inv))

theorem installRunning_inv (d : Device) (hI : Inv d) : Inv (installRunning d) := by
  unfold installRunning
  repeat' (first
      | with_reducible assumption | intro _ | with_reducible apply installSets_inv | (rw [restOf_fold]; with_reducible apply restOf_inv)
      | split | dsimp only)

theorem loadImage_inv (s : Snap) (d : Device) (hI : Inv d) : Inv (loadImage s d) := by
  unfold loadImage
  repeat' (first
      | with_reducible assumption | intro _ | with_reducible apply withSettings_inv | with_reducible apply withLoopNode_inv
      | with_reducible apply installRunning_inv | with_reducible apply withPosition_inv | with_reducible apply withScreen_inv
      | with_reducible apply withDrops_inv | with_reducible apply withLoop_inv | with_reducible apply withComb_inv
      | with_reducible apply stageLoads_inv | with_reducible apply inv_ite | (rw [restOf_fold]; with_reducible apply restOf_inv) | split
      | dsimp only)

theorem feedFrom_inv (j : JobDesc) (n : ℕ) (d : Device) (hI : Inv d) : Inv (feedFrom j n d) := by
  unfold feedFrom
  repeat' (first
      | with_reducible assumption | intro _ | with_reducible apply fallDue_inv | (rw [restOf_fold]; with_reducible apply restOf_inv))

theorem resumePlan_inv (d : Device) (hI : Inv d) : Inv (resumePlan d) := by
  unfold resumePlan
  repeat' (first
      | with_reducible assumption | intro _ | with_reducible apply modRed_inv | with_reducible apply feedFrom_inv
      | with_reducible apply giveSeg_inv | with_reducible apply inv_ite | (rw [restOf_fold]; with_reducible apply restOf_inv)
      | with_reducible apply inv_foldl | split)

theorem withRepeat_inv (d : Device) (j : JobDesc) (n : ℕ) (hI : Inv d) : Inv (withRepeat d j n) := by
  unfold withRepeat
  repeat' (first
      | with_reducible assumption | intro _ | with_reducible apply putTile_inv | (rw [restOf_fold]; with_reducible apply restOf_inv)
      | with_reducible apply inv_foldl)

theorem rescreenLine_inv (h : Head) (j : JobDesc) (g : Seg) (rows : List ℕ) (d : Device) (hI : Inv d) : Inv (rescreenLine h j g rows d) :=
    by
  unfold rescreenLine
  repeat' (first
      | with_reducible assumption | intro _ | with_reducible apply modEngine_inv | with_reducible apply inv_ite
      | (rw [restOf_fold]; with_reducible apply restOf_inv) | split | dsimp only)

theorem rescreen_inv (h : Head) (j : JobDesc) (w : Nat) (last : Option (Nat × Nat)) (stop : Option Nat) (fuel n start base : Nat)
    (x : Device × Nat × Nat) (hI : Inv x.1) : Inv (rescreen h j w last stop fuel n start base x).1 := by
  induction fuel generalizing n start base x with
  | zero => exact hI
  | succ k ih =>
    unfold rescreen
    dsimp only
    refine inv_ite_fst hI (inv_ite_fst (ih _ _ _ _ ?_) ?_) <;> exact ⟨hI.1, hI.2, hI.3, hI.4, hI.5, hI.6⟩

theorem rescreenPart_inv (h : Head) (w : Nat) (last : Option (Nat × Nat)) (p : Reprint) (x : Device × Nat × Nat) (hI : Inv x.1) :
    Inv (rescreenPart h w last p x).1 :=
  rescreen_inv _ _ _ _ _ _ _ _ _ _ (inv_ite (modEngine_inv _ _ _ hI) hI)

theorem reconcile_inv (s : Snap) (d : Device) (hI : Inv d) : Inv (reconcile s d) := by
  unfold reconcile
  repeat' (first
      | with_reducible assumption | intro _ | with_reducible apply loadImage_inv | (rw [restOf_fold]; with_reducible apply restOf_inv)
      | split | dsimp only)

/-! HeadLink.lean -/

theorem setLink_inv (rate nozzles : ℕ) (enable : Bool) (d : Device) (h : Head) (hI : Inv d) : Inv (setLink rate nozzles enable d h) := by
  unfold setLink
  repeat' (first
      | with_reducible assumption | intro _ | with_reducible apply modLink_inv | with_reducible apply linkFell_inv
      | with_reducible apply abandonTest_inv | with_reducible apply modLane_inv | with_reducible apply retrainLane_inv
      | with_reducible apply inv_ite)

theorem fhlReinit_inv (h : Head) (k : Fin 10) (d : Device) (hI : Inv d) : Inv (fhlReinit h k d) := by
  unfold fhlReinit
  repeat' (first | with_reducible assumption | intro _ | with_reducible apply reinitLane_inv | with_reducible apply fhlViolation_inv)

theorem epochRejected_inv (h : Head) (c : StatusCell) (d : Device) (hI : Inv d) : Inv (epochRejected h c d) := by
  unfold epochRejected
  repeat' (first
      | with_reducible assumption | intro _ | with_reducible apply modRed_inv | with_reducible apply demote_inv
      | with_reducible apply raise_inv | with_reducible apply headAbsent_inv | with_reducible apply inv_ite)

theorem checkReport_inv (h : Head) (c : StatusCell) (was : Option StatusCell) (d : Device) (hI : Inv d) : Inv (checkReport h c was d) :=
    by
  unfold checkReport
  repeat' (first
      | with_reducible assumption | intro _ | with_reducible apply fhlViolation_inv | with_reducible apply fhlReinit_inv
      | with_reducible apply inv_ite | split)

/-! Red.lean -/

theorem bringAll_inv (d : Device) (hI : Inv d) : Inv (bringAll d) := by
  unfold bringAll
  repeat' (first | with_reducible assumption | intro _ | with_reducible apply startBring_inv | with_reducible apply inv_foldl)

theorem takeActive_inv (d : Device) (hI : Inv d) : Inv (takeActive d) := by
  unfold takeActive
  repeat' (first
      | with_reducible assumption | intro _ | with_reducible apply sendRoles_inv | with_reducible apply bringAll_inv
      | with_reducible apply noteRed_inv | (rw [restOf_fold]; with_reducible apply restOf_inv))

theorem goActive_inv (d : Device) (hI : Inv d) : Inv (goActive d) := by
  unfold goActive
  repeat' (first
      | with_reducible assumption | intro _ | with_reducible apply takeActive_inv | with_reducible apply recordRole_inv
      | with_reducible apply noteRed_inv | with_reducible apply modRed_inv | with_reducible apply inv_ite)

theorem sendPair_inv (payload : List U8) (d : Device) (hI : Inv d) : Inv (sendPair payload d) := by
  unfold sendPair
  repeat' (first | with_reducible assumption | intro _ | with_reducible apply sendTo_inv | split)

theorem sendNeedFull_inv (mirror : Bool) (d : Device) (hI : Inv d) : Inv (sendNeedFull mirror d) := by
  unfold sendNeedFull
  repeat' (first
      | with_reducible assumption | intro _ | with_reducible apply wagSend_inv | with_reducible apply sendPair_inv
      | with_reducible apply inv_ite)

theorem goStandby_inv (d : Device) (hI : Inv d) : Inv (goStandby d) := by
  unfold goStandby
  repeat' (first
      | with_reducible assumption | intro _ | with_reducible apply recordRole_inv | with_reducible apply roleSleep_inv
      | with_reducible apply noteRed_inv | with_reducible apply modRed_inv | with_reducible apply inv_ite)

theorem readmit_inv (d : Device) (hI : Inv d) : Inv (readmit d) := by
  unfold readmit
  repeat' (first
      | with_reducible assumption | intro _ | with_reducible apply unschedule_inv | with_reducible apply endJob_inv
      | with_reducible apply modRed_inv | with_reducible apply goStandby_inv | with_reducible apply sendNeedFull_inv
      | with_reducible apply noteRed_inv | (rw [restOf_fold]; with_reducible apply restOf_inv))

theorem reportWatch_inv (d : Device) (hI : Inv d) : Inv (reportWatch d) := by
  unfold reportWatch
  repeat' (first | with_reducible assumption | intro _ | with_reducible apply modRed_inv)

theorem pathLives_inv (hbi : Bool) (d : Device) (hI : Inv d) : Inv (pathLives hbi d) := by
  unfold pathLives
  repeat' (first
      | with_reducible assumption | intro _ | with_reducible apply noteRed_inv | with_reducible apply modRed_inv
      | with_reducible apply raise_inv | with_reducible apply refreshPath_inv | with_reducible apply inv_ite)

theorem takeBeat_inv (hb : Heartbeat) (d : Device) (hI : Inv d) : Inv (takeBeat hb d) := by
  unfold takeBeat
  repeat' (first
      | with_reducible assumption | intro _ | with_reducible apply noteRed_inv | with_reducible apply modRed_inv
      | with_reducible apply pathLives_inv | with_reducible apply violation_inv | with_reducible apply demote_inv
      | with_reducible apply readmit_inv | with_reducible apply finishWork_inv | with_reducible apply inv_ite)

theorem askWitness_inv (d : Device) (hI : Inv d) : Inv (askWitness d) := by
  unfold askWitness
  repeat' (first
      | with_reducible assumption | intro _ | with_reducible apply modRed_inv | with_reducible apply sendControl_inv
      | with_reducible apply modLink_inv | with_reducible apply inv_foldl)

theorem pathsLost_inv (d : Device) (hI : Inv d) : Inv (pathsLost d) := by
  unfold pathsLost
  repeat' (first
      | with_reducible assumption | intro _ | with_reducible apply raise_inv | with_reducible apply modRed_inv
      | with_reducible apply inv_ite)

theorem bothSilent_inv (d : Device) (hI : Inv d) : Inv (bothSilent d) := by
  unfold bothSilent
  repeat' (first
      | with_reducible assumption | intro _ | with_reducible apply refreshPath_inv | with_reducible apply pathsLost_inv
      | with_reducible apply modRed_inv | with_reducible apply askWitness_inv | with_reducible apply inv_ite)

theorem startPromotion_inv (drill : Bool) (d : Device) (hI : Inv d) : Inv (startPromotion drill d) := by
  unfold startPromotion
  repeat' (first
      | with_reducible assumption | intro _ | with_reducible apply draw_inv | with_reducible apply noteRed_inv
      | with_reducible apply modRed_inv | with_reducible apply recordRole_inv | with_reducible apply wakeSource_inv
      | (rw [restOf_fold]; with_reducible apply restOf_inv))

theorem takeOver_inv (d : Device) (h : Inv d) : Inv (takeOver d) := by
  unfold takeOver
  exact ⟨h.1, h.2, h.3, fun k => by simpa using setBalanced_new rfl, h.5, h.6⟩

theorem promoted_inv (d : Device) (hI : Inv d) : Inv (promoted d) := by
  unfold promoted
  repeat' (first
      | with_reducible assumption | intro _ | with_reducible apply sendRoles_inv | with_reducible apply resumePlan_inv
      | with_reducible apply noteRed_inv | with_reducible apply takeOver_inv | with_reducible apply reportReady_inv
      | with_reducible apply raise_inv | with_reducible apply inv_ite | split)

theorem fence_inv (d : Device) (hI : Inv d) : Inv (fence d) := by
  unfold fence
  repeat' (first
      | with_reducible assumption | intro _ | with_reducible apply sendRoles_inv | with_reducible apply bringAll_inv
      | with_reducible apply startCal_inv | with_reducible apply modRed_inv)

theorem commitEpoch_inv (e : U32) (r : Role) (d : Device) (hI : Inv d) : Inv (commitEpoch e r d) := by
  unfold commitEpoch
  repeat' (first | with_reducible assumption | intro _ | with_reducible apply inv_ite | (rw [restOf_fold]; with_reducible apply restOf_inv))

theorem resendMaps_inv (d : Device) (hI : Inv d) : Inv (resendMaps d) := by
  unfold resendMaps
  repeat' (first
      | with_reducible assumption | intro _ | with_reducible apply sendMaps_inv | with_reducible apply inv_ite
      | with_reducible apply inv_foldl)

theorem startLanes_inv (d : Device) (hI : Inv d) : Inv (startLanes d) := by
  unfold startLanes
  repeat' (first | with_reducible assumption | intro _ | (rw [restOf_fold]; with_reducible apply restOf_inv))

theorem selfTestPassed_inv (d : Device) (hI : Inv d) : Inv (selfTestPassed d) := by
  unfold selfTestPassed
  repeat' (first
      | with_reducible assumption | intro _ | with_reducible apply startLanes_inv | with_reducible apply loadImage_inv
      | with_reducible apply modRed_inv | with_reducible apply resendMaps_inv | with_reducible apply presentHead_inv
      | with_reducible apply recordRole_inv | with_reducible apply positionFails_inv | with_reducible apply lockPromotion_inv
      | with_reducible apply inv_ite | (rw [restOf_fold]; with_reducible apply restOf_inv) | with_reducible apply inv_foldl | split)

theorem stateDisorder_inv (d : Device) (hI : Inv d) : Inv (stateDisorder d) := by
  unfold stateDisorder
  repeat' (first
      | with_reducible assumption | intro _ | with_reducible apply sendNeedFull_inv | with_reducible apply violation_inv
      | with_reducible apply modRed_inv)

theorem commitSnap_inv (viaFabric : Bool) (c : StatePiece) (d : Device) (hI : Inv d) : Inv (commitSnap viaFabric c d) := by
  unfold commitSnap
  repeat' (first
      | with_reducible assumption | intro _ | with_reducible apply modRed_inv | with_reducible apply modMbx_inv
      | with_reducible apply sendPair_inv | with_reducible apply stateDisorder_inv | with_reducible apply inv_ite | split)

theorem takePiece_inv (viaFabric : Bool) (p : StatePiece) (d : Device) (hI : Inv d) : Inv (takePiece viaFabric p d) := by
  unfold takePiece
  repeat' (first
      | with_reducible assumption | intro _ | with_reducible apply commitSnap_inv | with_reducible apply modRed_inv
      | with_reducible apply inv_ite)

theorem takeState_inv (viaFabric : Bool) (peer : U8) (link : LinkId) (payload : List U8) (d : Device) (hI : Inv d) : Inv (takeState
    viaFabric peer link payload d) := by
  unfold takeState
  repeat' (first
      | with_reducible assumption | intro _ | with_reducible apply violation_inv | with_reducible apply dictReceive_inv
      | with_reducible apply takePiece_inv | with_reducible apply stateDisorder_inv | with_reducible apply inv_ite
      | with_reducible apply inv_foldl | split | refine pair_inv (by with_reducible assumption) ?_)

theorem answerFull_inv (mirror : Bool) (d : Device) (hI : Inv d) : Inv (answerFull mirror d) := by
  unfold answerFull
  repeat' (first
      | with_reducible assumption | intro _ | with_reducible apply modRed_inv | with_reducible apply mirrorPass_inv
      | with_reducible apply pumpMirror_inv | with_reducible apply takeSnapshot_inv | with_reducible apply inv_ite)

theorem noteAck_inv (n : U32) (d : Device) (hI : Inv d) : Inv (noteAck n d) := by
  unfold noteAck
  repeat' (first | with_reducible assumption | intro _ | with_reducible apply snapAcked_inv | with_reducible apply modRed_inv)

theorem tick_inv (d : Device) (hI : Inv d) : Inv (tick d) := by
  unfold tick
  repeat' (first
      | with_reducible assumption | intro _ | with_reducible apply powerStep_inv | with_reducible apply tickCore_inv
      | with_reducible apply refreshPath_inv | with_reducible apply reportWatch_inv | with_reducible apply inv_ite)

end Sys2Proof.Machine
end

