-- ==== Sys2Proof/Laws/InvariantWires.lean ====
section
/-! SUPPORT. One lemma per operation over a device: the invariant of Safety.lean is kept by the operations of the fabric, DRAM, drive, lanes, guard and transports. -/
namespace Sys2Proof.Machine

/-! Forager.lean -/

theorem postWrite_inv (host dev len : ℕ) (d : Device) (hI : Inv d) : Inv (postWrite host dev len d) := by
  unfold postWrite
  repeat' (first
      | with_reducible assumption | intro _ | with_reducible apply dramSee_inv | with_reducible apply modMbx_inv
      | (rw [restOf_fold]; with_reducible apply restOf_inv))

theorem issuePiece_inv (j : ForagerJob) (x : ℕ × ℕ × ℕ × ℕ × Bool) (b : Fin 64) (d : Device) (hI : Inv d) : Inv (issuePiece j x b d) := by
  unfold issuePiece
  repeat' (first
      | with_reducible assumption | intro _ | with_reducible apply modMbx_inv | with_reducible apply postWrite_inv
      | with_reducible apply inv_ite | split)

theorem issueReads_inv (fuel : ℕ) (d : Device) (hI : Inv d) : Inv (issueReads fuel d) := by
  induction fuel generalizing d with
  | zero => exact hI
  | succ k ih =>
    unfold issueReads
    repeat' (first
        | with_reducible assumption | intro _ | with_reducible apply ih | with_reducible apply issuePiece_inv
        | with_reducible apply inv_ite | split)

theorem issueAll_inv (d : Device) (hI : Inv d) : Inv (issueAll d) := by
  unfold issueAll
  repeat' (first | with_reducible assumption | intro _ | with_reducible apply issueReads_inv)

theorem endForager_inv (j : ForagerJob) (d : Device) (hI : Inv d) : Inv (endForager j d) := by
  unfold endForager
  repeat' (first
      | with_reducible assumption | intro _ | with_reducible apply modMbx_inv | with_reducible apply finishSeq_inv
      | with_reducible apply takeSrcSeq_inv | with_reducible apply sendTo_inv | with_reducible apply inv_ite | split
      | refine pair_inv (by with_reducible assumption) ?_ | dsimp only)

theorem resumeForager_inv (d : Device) (hI : Inv d) : Inv (resumeForager d) := by
  unfold resumeForager
  repeat' (first
      | with_reducible assumption | intro _ | with_reducible apply issueAll_inv | with_reducible apply endForager_inv
      | with_reducible apply inv_foldl)

theorem postAll_inv (l : List (ℕ × ℕ × ℕ × ℕ × Bool)) (d : Device) (hI : Inv d) : Inv (postAll l d).2 := by
  induction l generalizing d with
  | nil => exact hI
  | cons y l ih =>
    unfold postAll
    repeat' (first | with_reducible assumption | intro _ | with_reducible apply ih | with_reducible apply postWrite_inv | split)

theorem startForager_inv (j : ForagerJob) (d : Device) (hI : Inv d) : DoneInv (startForager j d) := by
  unfold startForager
  repeat' (first
      | with_reducible assumption | intro _ | with_reducible apply issueAll_inv | with_reducible apply modMbx_inv
      | with_reducible apply poisoned_inv | with_reducible apply doneInv_ite | with_reducible apply doneInv_reply
      | with_reducible apply doneInv_later | split | dsimp only)

/-! Fabric.lean -/

theorem laneViolation_inv (code : U8) (p : Port) (k : Fin 2) (ans : BitVec 2) (d : Device) (hI : Inv d) : Inv (laneViolation code p k ans
    d) := by
  unfold laneViolation
  repeat' (first | with_reducible assumption | intro _ | with_reducible apply violation_inv)

theorem takeLink_inv (p : Port) (sub : ℕ) (payload : List U8) (x : FrameEnd) (d : Device) (hI : Inv d) : Inv (takeLink p sub payload x
    d).2 := by
  unfold takeLink
  repeat' (first
      | with_reducible assumption | intro _ | with_reducible apply portActive_inv | with_reducible apply laneViolation_inv | split
      | dsimp only)

theorem fabReinit_inv (code : U8) (p : Port) (d : Device) (hI : Inv d) : Inv (fabReinit code p d) := by
  unfold fabReinit
  repeat' (first | with_reducible assumption | intro _ | with_reducible apply reinitPort_inv | with_reducible apply fabViolation_inv)

theorem auditReply_inv (p : Port) (mark : U16) (d : Device) (hI : Inv d) : Inv (auditReply p mark d) := by
  unfold auditReply
  repeat' (first | with_reducible assumption | intro _ | with_reducible apply linkSend_inv | with_reducible apply modPort_inv)

theorem checkAudit_inv (p : Port) (mark : U16) (cSent : List U32) (d : Device) (hI : Inv d) : Inv (checkAudit p mark cSent d) := by
  unfold checkAudit
  repeat' (first
      | with_reducible assumption | intro _ | with_reducible apply auditReply_inv | with_reducible apply modPort_inv
      | with_reducible apply fabReinit_inv | with_reducible apply inv_ite)

theorem waggleAcked_inv (ack : U16) (d : Device) (hI : Inv d) : Inv (waggleAcked ack d) := by
  unfold waggleAcked
  repeat' (first
      | with_reducible assumption | intro _ | with_reducible apply modRed_inv | with_reducible apply popMirror_inv
      | with_reducible apply noteAck_inv | with_reducible apply pumpMirror_inv | with_reducible apply pumpWaggle_inv
      | with_reducible apply inv_ite | split)

theorem takeShort_inv (kind : ℕ) (seq : U16) (x : FrameEnd) (d : Device) (hI : Inv d) : Inv (takeShort kind seq x d).2 := by
  unfold takeShort
  repeat' (first
      | with_reducible assumption | intro _ | with_reducible apply rxActive_inv | with_reducible apply violation_inv | split | dsimp only)

theorem replayPort_inv (p : Port) (from_ : U16) (d : Device) (hI : Inv d) : Inv (replayPort p from_ d) := by
  unfold replayPort
  repeat' (first
      | with_reducible assumption | intro _ | with_reducible apply pumpPort_inv | with_reducible apply modPort_inv
      | with_reducible apply inv_ite)

theorem replayWaggle_inv (from_ : U16) (d : Device) (hI : Inv d) : Inv (replayWaggle from_ d) := by
  unfold replayWaggle
  repeat' (first
      | with_reducible assumption | intro _ | with_reducible apply wagPut_inv | with_reducible apply modRed_inv
      | with_reducible apply inv_ite)

theorem takeJobData_inv (f : DataFrame) (d : Device) (hI : Inv d) : Inv (takeJobData f d) := by
  unfold takeJobData
  repeat' (first
      | with_reducible assumption | intro _ | with_reducible apply dramWrite_inv | with_reducible apply modRed_inv
      | with_reducible apply sendUnreachable_inv | with_reducible apply inv_ite)

theorem takeEcho_inv (f : DataFrame) (d : Device) (hI : Inv d) : Inv (takeEcho f d) := by
  unfold takeEcho
  repeat' (first
      | with_reducible assumption | intro _ | with_reducible apply finishWork_inv | with_reducible apply modFabric_inv
      | with_reducible apply sendTo_inv | with_reducible apply inv_ite)

theorem takeFragment_inv (f : DataFrame) (d : Device) (hI : Inv d) : Inv (takeFragment f d) := by
  unfold takeFragment
  repeat' (first | with_reducible assumption | intro _ | with_reducible apply modFabric_inv | split | dsimp only)

theorem takeMessage_inv (f : DataFrame) (d : Device) (hI : Inv d) : Inv (takeMessage f d) := by
  unfold takeMessage
  repeat' (first
      | with_reducible assumption | intro _ | with_reducible apply takeJobData_inv | with_reducible apply takeEcho_inv
      | with_reducible apply modFabric_inv | with_reducible apply takeFragment_inv | with_reducible apply inv_ite)

theorem modFlow_inv (d : Device) (src : U8) (vc : Vc) (dest : DestKind) (g : SrcFlow → SrcFlow) (hI : Inv d) : Inv (modFlow d src vc dest
    g) := by
  unfold modFlow
  repeat' (first | with_reducible assumption | intro _ | with_reducible apply modFabric_inv)

theorem deliverFrame_inv (src : Option Port) (f : DataFrame) (d : Device) (hI : Inv d) : Inv (deliverFrame src f d) := by
  unfold deliverFrame
  repeat' (first | with_reducible assumption | intro _ | with_reducible apply releaseFrame_inv | with_reducible apply takeMessage_inv)

theorem drainFlow_inv (src : U8) (vc : Vc) (dest : DestKind) (fuel : ℕ) (d : Device) (hI : Inv d) : Inv (drainFlow src vc dest fuel d) :=
    by
  induction fuel generalizing src vc dest d with
  | zero => exact hI
  | succ k ih =>
    unfold drainFlow
    repeat' (first
        | with_reducible assumption | intro _ | with_reducible apply ih | with_reducible apply deliverFrame_inv
        | with_reducible apply modFlow_inv | split)

theorem deliverInOrder_inv (p : Port) (f : DataFrame) (d : Device) (hI : Inv d) : Inv (deliverInOrder p f d) := by
  unfold deliverInOrder
  repeat' (first
      | with_reducible assumption | intro _ | with_reducible apply deliverFrame_inv | with_reducible apply modFabric_inv
      | with_reducible apply modFlow_inv | with_reducible apply drainFlow_inv | with_reducible apply releaseFrame_inv
      | with_reducible apply inv_ite | split)

theorem timingGap_inv (p : Option Port) (d : Device) (hI : Inv d) : Inv (timingGap p d) := by
  unfold timingGap
  repeat' (first
      | with_reducible assumption | intro _ | with_reducible apply fabViolation_inv | with_reducible apply inv_ite
      | (rw [restOf_fold]; with_reducible apply restOf_inv) | split | dsimp only)

theorem gapEffects_inv (src : U8) (vc : Vc) (p : Option Port) (d : Device) (hI : Inv d) : Inv (gapEffects src vc p d) := by
  unfold gapEffects
  repeat' (first
      | with_reducible assumption | intro _ | with_reducible apply timingGap_inv | with_reducible apply sendNeedFull_inv
      | with_reducible apply modRed_inv | with_reducible apply modFabric_inv | with_reducible apply inv_ite | split)

theorem nakData_inv (p : Port) (logged : Device → Device) (d : Device) (hl : ∀ d, Inv d → Inv (logged d)) (h : Inv d) :
    Inv (nakData p logged d) :=
  inv_ite h (linkSend_inv _ _ _ (hl _ (modPort_inv _ _ _ h)))

theorem noRoute_inv (p : Port) (f : DataFrame) (d : Device) (hI : Inv d) : Inv (noRoute p f d) := by
  unfold noRoute
  repeat' (first
      | with_reducible assumption | intro _ | with_reducible apply releaseFrame_inv | with_reducible apply sendUnreachable_inv
      | with_reducible apply fabViolation_inv)

theorem passOn_inv (p : Port) (out : Option Port) (f : DataFrame) (d : Device) (hI : Inv d) : Inv (passOn p out f d) := by
  unfold passOn
  repeat' (first | with_reducible assumption | intro _ | with_reducible apply forwardOn_inv | with_reducible apply noRoute_inv | split)

theorem noteJoinPort_inv (u : U64) (p : Port) (d : Device) (hI : Inv d) : Inv (noteJoinPort u p d) := by
  unfold noteJoinPort
  repeat' (first | with_reducible assumption | intro _ | with_reducible apply modFabric_inv)

theorem passAssign_inv (p : Port) (f : DataFrame) (d : Device) (hI : Inv d) : Inv (passAssign p f d) := by
  unfold passAssign
  repeat' (first
      | with_reducible assumption | intro _ | with_reducible apply passOn_inv | with_reducible apply releaseFrame_inv | split | dsimp only)

theorem takeDestZero_inv (p : Port) (f : DataFrame) (d : Device) (hI : Inv d) : Inv (takeDestZero p f d) := by
  unfold takeDestZero
  repeat' (first
      | with_reducible assumption | intro _ | with_reducible apply passAssign_inv | with_reducible apply deliverInOrder_inv
      | with_reducible apply noRoute_inv | with_reducible apply passOn_inv | with_reducible apply noteJoinPort_inv
      | with_reducible apply inv_ite)

theorem routeFrame_inv (p : Port) (k : Fin 2) (f : DataFrame) (d : Device) (hI : Inv d) : Inv (routeFrame p k f d) := by
  unfold routeFrame
  repeat' (first
      | with_reducible assumption | intro _ | with_reducible apply releaseFrame_inv | with_reducible apply laneViolation_inv
      | with_reducible apply fabViolation_inv | with_reducible apply deliverInOrder_inv | with_reducible apply floodExcept_inv
      | with_reducible apply takeDestZero_inv | with_reducible apply noRoute_inv | with_reducible apply passOn_inv
      | with_reducible apply inv_ite)

theorem acceptFrame_inv (p : Port) (k : Fin 2) (f : DataFrame) (d : Device) (hI : Inv d) : Inv (acceptFrame p k f d) := by
  unfold acceptFrame
  repeat' (first
      | with_reducible assumption | intro _ | with_reducible apply modPort_inv | with_reducible apply fabReinit_inv
      | with_reducible apply checkAudit_inv | with_reducible apply routeFrame_inv | with_reducible apply inv_ite | split)

theorem badFrame_inv (p : Port) (k : Fin 2) (f : DataFrame) (d : Device) (hI : Inv d) : Inv (badFrame p k f d) := by
  unfold badFrame
  repeat' (first | with_reducible assumption | intro _ | with_reducible apply laneViolation_inv | with_reducible apply inv_ite)

theorem lockAfter_inv (o : ℤ) (d : Device) (hI : Inv d) : Inv (lockAfter o d) := by
  unfold lockAfter
  repeat' (first
      | with_reducible assumption | intro _ | with_reducible apply modFabric_inv | with_reducible apply raise_inv
      | with_reducible apply inv_ite)

theorem adjustTime_inv (o : ℤ) (d : Device) (hI : Inv d) : Inv (adjustTime o d) := by
  unfold adjustTime
  repeat' (first
      | with_reducible assumption | intro _ | with_reducible apply modFabric_inv | with_reducible apply inv_ite
      | (rw [restOf_fold]; with_reducible apply restOf_inv))

theorem leaveLink_inv (block : BitVec 5) (source : U16) (d : Device) (hI : Inv d) : Inv (leaveLink block source d) := by
  unfold leaveLink
  repeat' (first
      | with_reducible assumption | intro _ | with_reducible apply headAbsent_inv | with_reducible apply portDown_inv
      | with_reducible apply refreshPath_inv | with_reducible apply waggleDown_inv | with_reducible apply inv_ite
      | with_reducible apply inv_foldl | split)

/-! Discovery.lean -/

theorem takeHello_inv (p : Port) (m : Hello) (d : Device) (hI : Inv d) : Inv (takeHello p m d) := by
  unfold takeHello
  repeat' (first
      | with_reducible assumption | intro _ | with_reducible apply modPort_inv | with_reducible apply updateCand_inv
      | with_reducible apply beginDiscovery_inv | with_reducible apply modFabric_inv | with_reducible apply reportLink_inv
      | with_reducible apply sendJoin_inv | with_reducible apply inv_ite)

theorem rootJoin_inv (p : Port) (m : Join) (d : Device) (hI : Inv d) : Inv (rootJoin p m d) := by
  unfold rootJoin
  repeat' (first
      | with_reducible assumption | intro _ | with_reducible apply modFabric_inv | with_reducible apply rerouted_inv
      | with_reducible apply sendAssign_inv | with_reducible apply noteJoinPort_inv | with_reducible apply beginDiscovery_inv
      | with_reducible apply inv_ite | split)

theorem takeNode_inv (n : U8) (d : Device) (hI : Inv d) : Inv (takeNode n d) := by
  unfold takeNode
  repeat' (first
      | with_reducible assumption | intro _ | with_reducible apply journalAppend_inv | with_reducible apply modFabric_inv
      | with_reducible apply inv_ite)

theorem dropRole_inv (k : Fin 3) (d : Device) (hI : Inv d) : Inv (dropRole k d) := by
  unfold dropRole
  repeat' (first
      | with_reducible assumption | intro _ | with_reducible apply modMbx_inv | with_reducible apply inv_ite
      | (rw [restOf_fold]; with_reducible apply restOf_inv))

theorem claimRole_inv (m : RoleMsg) (d : Device) (k : Fin 3) (hI : Inv d) : Inv (claimRole m d k) := by
  unfold claimRole
  repeat' (first
      | with_reducible assumption | intro _ | with_reducible apply modFabric_inv | with_reducible apply sendRoles_inv
      | with_reducible apply dropRole_inv | with_reducible apply raise_inv | with_reducible apply inv_ite | split)

theorem leaveRole_inv (m : RoleMsg) (d : Device) (k : Fin 3) (hI : Inv d) : Inv (leaveRole m d k) := by
  unfold leaveRole
  repeat' (first | with_reducible assumption | intro _ | with_reducible apply modFabric_inv | with_reducible apply inv_ite | split)

theorem noteMaster_inv (m : RoleMsg) (d : Device) (hI : Inv d) : Inv (noteMaster m d) := by
  unfold noteMaster
  repeat' (first | with_reducible assumption | intro _ | with_reducible apply modFabric_inv | with_reducible apply inv_ite)

theorem takeRoles_inv (m : RoleMsg) (d : Device) (hI : Inv d) : Inv (takeRoles m d) := by
  unfold takeRoles
  repeat' (first
      | with_reducible assumption | intro _ | with_reducible apply modFabric_inv | with_reducible apply demote_inv
      | with_reducible apply noteMaster_inv | with_reducible apply positionFails_inv | with_reducible apply claimRole_inv
      | with_reducible apply leaveRole_inv | with_reducible apply inv_ite)

theorem applyPortCfg_inv (p : Port) (d : Device) (hI : Inv d) : Inv (applyPortCfg p d) := by
  unfold applyPortCfg
  repeat' (first | with_reducible assumption | intro _ | with_reducible apply modPort_inv)

theorem enablePort_inv (p : Port) (d : Device) (hI : Inv d) : Inv (enablePort p d) := by
  unfold enablePort
  repeat' (first
      | with_reducible assumption | intro _ | with_reducible apply modLane_inv | with_reducible apply applyPortCfg_inv
      | with_reducible apply inv_ite | with_reducible apply inv_foldl)

/-! Dram.lean -/

theorem correctedError_inv (a source : ℕ) (d : Device) (hI : Inv d) : Inv (correctedError a source d) := by
  unfold correctedError
  repeat' (first
      | with_reducible assumption | rfl | intro _ | with_reducible apply modDiag_inv | with_reducible apply memError_inv
      | with_reducible apply modDram_inv)

theorem uncorrectableError_inv (gs : List ℕ) (a source : ℕ) (d : Device) (hI : Inv d) : Inv (uncorrectableError gs a source d) := by
  unfold uncorrectableError
  repeat' (first
      | with_reducible assumption | rfl | intro _ | with_reducible apply modDiag_inv | with_reducible apply modDram_inv
      | with_reducible apply raise_inv | with_reducible apply memError_inv)

theorem checkFault_inv (f : CheckFault) (g source : ℕ) (d : Device) (hI : Inv d) : Inv (checkFault f g source d) := by
  unfold checkFault
  repeat' (first
      | with_reducible assumption | intro _ | with_reducible apply correctedError_inv | with_reducible apply uncorrectableError_inv | split)

theorem serve_inv (r : DramReq) (d : Device) (hI : Inv d) : Inv (serve r d) := by
  unfold serve
  repeat' (first
      | with_reducible assumption | intro _ | with_reducible apply checkFault_inv | with_reducible apply pumpMirror_inv
      | with_reducible apply dramPut_inv | with_reducible apply touch_inv | with_reducible apply completeRead_inv
      | with_reducible apply inv_ite | with_reducible apply inv_foldl | split)

theorem releaseRequests_inv (d : Device) (hI : Inv d) : Inv (releaseRequests d) := by
  unfold releaseRequests
  repeat' (first
      | with_reducible assumption | rfl | intro _ | with_reducible apply modDram_inv | with_reducible apply serve_inv
      | with_reducible apply resumeForager_inv | with_reducible apply resumeTiles_inv | with_reducible apply finish_inv
      | with_reducible apply inv_ite | with_reducible apply inv_foldl)

theorem startMemWork_inv (w : MemWork) (late : Bool) (d : Device) (hI : Inv d) : Inv (startMemWork w late d) := by
  unfold startMemWork
  repeat' (first | with_reducible assumption | rfl | intro _ | with_reducible apply modDram_inv | with_reducible apply draw_inv | split)

theorem answerWork_inv (w : MemWork) (r : Reply) (d : Device) (hI : Inv d) : Inv (answerWork w r d) := by
  unfold answerWork
  repeat' (first | with_reducible assumption | intro _ | with_reducible apply finishWork_inv | with_reducible apply inv_ite | split)

theorem endSweep_inv (d : Device) (hI : Inv d) : Inv (endSweep d) := by
  unfold endSweep
  repeat' (first
      | with_reducible assumption | rfl | intro _ | with_reducible apply modDram_inv | with_reducible apply raise_inv
      | with_reducible apply releaseRequests_inv | with_reducible apply finishWork_inv | with_reducible apply startMemWork_inv
      | with_reducible apply inv_ite | split | dsimp only)

theorem pointPasses_inv (w : MemWork) (p : Fin 3) (new : Option TrainResult) (d : Device) (hI : Inv d) : Inv (pointPasses w p new d) := by
  unfold pointPasses
  repeat' (first
      | with_reducible assumption | rfl | intro _ | with_reducible apply modDram_inv | with_reducible apply journalAppend_inv
      | with_reducible apply endSweep_inv | with_reducible apply answerWork_inv | with_reducible apply raise_inv
      | with_reducible apply inv_ite | split)

theorem pointFails_inv (w : MemWork) (p : Fin 3) (d : Device) (hI : Inv d) : Inv (pointFails w p d) := by
  unfold pointFails
  repeat' (first
      | with_reducible assumption | rfl | intro _ | with_reducible apply modDram_inv | with_reducible apply answerWork_inv
      | with_reducible apply endSweep_inv | with_reducible apply raise_inv | with_reducible apply inv_ite | split | dsimp only)

/-! Drive.lean -/

theorem setCalWork_inv (g : Sys2Proof.Group) (cs : List Core) (rs : List U32) (d : Device) (hI : Inv d) : Inv (setCalWork g cs rs d) := by
  unfold setCalWork
  repeat' (first | with_reducible assumption | intro _ | with_reducible apply modMbx_inv)

theorem dropReplace_inv (g : Sys2Proof.Group) (d : Device) (hI : Inv d) : Inv (dropReplace g d) := by
  unfold dropReplace
  repeat' (first
      | with_reducible assumption | intro _ | with_reducible apply modDrive_inv | with_reducible apply modGroup_inv
      | with_reducible apply inv_foldl)

theorem awaitHandover_inv (g : Sys2Proof.Group) (j : Fin 8) (k : HoKind) (d : Device) (hI : Inv d) : Inv (awaitHandover g j k d) := by
  unfold awaitHandover
  repeat' (first | with_reducible assumption | intro _ | with_reducible apply modGroup_inv)

theorem dropHandover_inv (g : Sys2Proof.Group) (d : Device) (hI : Inv d) : Inv (dropHandover g d) := by
  unfold dropHandover
  repeat' (first
      | with_reducible assumption | intro _ | with_reducible apply modDrive_inv | with_reducible apply modGroup_inv
      | with_reducible apply finishWork_inv | with_reducible apply inv_ite | split)

theorem advanceCal_inv (g : Sys2Proof.Group) (d : Device) (hI : Inv d) : Inv (advanceCal g d) := by
  unfold advanceCal
  repeat' (first
      | with_reducible assumption | intro _ | with_reducible apply dropHandover_inv | with_reducible apply modGroup_inv
      | with_reducible apply dropReplace_inv | with_reducible apply awaitHandover_inv | with_reducible apply finish_inv
      | with_reducible apply inv_ite | split)

theorem beginCal_inv (g : Sys2Proof.Group) (cores : List Core) (d : Device) (hI : Inv d) : Inv (beginCal g cores d) := by
  unfold beginCal
  repeat' (first
      | with_reducible assumption | intro _ | with_reducible apply dropHandover_inv | with_reducible apply modGroup_inv
      | with_reducible apply awaitHandover_inv | with_reducible apply inv_ite | split)

theorem meanTrim_inv (a b : ℤ) (d : Device) (hI : Inv d) : Inv (meanTrim a b d).2 := by
  unfold meanTrim
  repeat' (first | with_reducible assumption | intro _ | with_reducible apply draw_inv | split)

theorem calFails_inv (g : Sys2Proof.Group) (k : Core) (d : Device) (hI : Inv d) : Inv (calFails g k d) := by
  unfold calFails
  repeat' (first
      | with_reducible assumption | intro _ | with_reducible apply modGroup_inv | with_reducible apply raise_inv
      | with_reducible apply inv_ite)

theorem calPasses_inv (g : Sys2Proof.Group) (k : Core) (off gain : ℤ) (commanded : Bool) (d : Device) (hI : Inv d) : Inv (calPasses g k
    off gain commanded d) := by
  unfold calPasses
  repeat' (first | with_reducible assumption | intro _ | with_reducible apply modGroup_inv)

theorem calEnds_inv (g : Sys2Proof.Group) (k : Core) (accepted : Option (ℤ × ℤ)) (d : Device) (hI : Inv d) : Inv (calEnds g k accepted d)
    := by
  unfold calEnds
  repeat' (first
      | with_reducible assumption | intro _ | with_reducible apply calPasses_inv | with_reducible apply calFails_inv
      | with_reducible apply modGroup_inv | with_reducible apply finish_inv | with_reducible apply setCalWork_inv
      | with_reducible apply advanceCal_inv | with_reducible apply enableHeadLanes_inv | with_reducible apply inv_ite | split)

theorem driveDeviation_inv (h : Head) (d : Device) (hI : Inv d) : Inv (driveDeviation h d) := by
  unfold driveDeviation
  repeat' (first
      | with_reducible assumption | intro _ | with_reducible apply modDrive_inv | with_reducible apply raise_inv
      | with_reducible apply inhibitHeads_inv | with_reducible apply advanceCal_inv | with_reducible apply modGroup_inv
      | with_reducible apply inv_ite)

theorem driveFault_inv (h : Head) (input : ℕ) (d : Device) (hI : Inv d) : Inv (driveFault h input d) := by
  unfold driveFault
  repeat' (first | with_reducible assumption | intro _ | with_reducible apply raise_inv | with_reducible apply inhibitHeads_inv)

theorem pmbViolation_inv (code : U8) (addr : ℕ) (ans : BitVec 2) (d : Device) (hI : Inv d) : Inv (pmbViolation code addr ans d) := by
  unfold pmbViolation
  repeat' (first | with_reducible assumption | intro _ | with_reducible apply violation_inv)

theorem pmbPage_inv (e : SupplyCfg) (d : Device) (hI : Inv d) : Inv (pmbPage e d) := by
  unfold pmbPage
  repeat' (first | with_reducible assumption | intro _ | with_reducible apply inv_ite | (rw [restOf_fold]; with_reducible apply restOf_inv))

theorem pmbAsk_inv (e : SupplyCfg) (command : ℕ) (d : Device) (hI : Inv d) : Inv (pmbAsk e command d) := by
  unfold pmbAsk
  repeat' (first
      | with_reducible assumption | intro _ | with_reducible apply pmbPage_inv | (rw [restOf_fold]; with_reducible apply restOf_inv))

theorem pmbSend_inv (k : Supply) (e : SupplyCfg) (d : Device) (w : ℕ × ℕ) (hI : Inv d) : Inv (pmbSend k e d w) := by
  unfold pmbSend
  repeat' (first
      | with_reducible assumption | intro _ | with_reducible apply modSup_inv | with_reducible apply draw_inv
      | with_reducible apply pmbViolation_inv | with_reducible apply pmbPage_inv | with_reducible apply inv_ite
      | (rw [restOf_fold]; with_reducible apply restOf_inv))

theorem pmbRecover_inv (d : Device) (hI : Inv d) : Inv (pmbRecover d) := by
  unfold pmbRecover
  repeat' (first | with_reducible assumption | intro _ | (rw [restOf_fold]; with_reducible apply restOf_inv))

theorem supplyInhibit_inv (mask : BitVec 40) (d : Device) (hI : Inv d) : Inv (supplyInhibit mask d) := by
  unfold supplyInhibit
  repeat' (first | with_reducible assumption | intro _ | (rw [restOf_fold]; with_reducible apply restOf_inv))

theorem supplyFails_inv (k : Supply) (e : SupplyCfg) (d : Device) (hI : Inv d) : Inv (supplyFails k e d) := by
  unfold supplyFails
  repeat' (first
      | with_reducible assumption | intro _ | with_reducible apply raise_inv | with_reducible apply supplyInhibit_inv
      | with_reducible apply modSup_inv)

theorem takeStatusWord_inv (k : Supply) (e : SupplyCfg) (w : U16) (d : Device) (hI : Inv d) : Inv (takeStatusWord k e w d) := by
  unfold takeStatusWord
  repeat' (first
      | with_reducible assumption | intro _ | with_reducible apply modSup_inv | with_reducible apply supplyFails_inv
      | with_reducible apply inv_ite | (rw [restOf_fold]; with_reducible apply restOf_inv))

theorem pmbRead_inv (e : SupplyCfg) (command : Nat) (r : BusResult) (f : U16 → Device → Device) (d : Device)
    (hf : ∀ v d, Inv d → Inv (f v d)) (h : Inv d) : Inv (pmbRead e command r f d) := by
  have hq := pmbAsk_inv e command d h
  unfold pmbRead
  dsimp only
  split
  · exact hf _ _ hq
  · exact pmbViolation_inv _ _ _ _ hq
  · exact inv_ite (pmbViolation_inv _ _ _ _ hq) hq

theorem adoptSupplies_inv (but : Option Supply) (d : Device) (hI : Inv d) : Inv (adoptSupplies but d) := by
  unfold adoptSupplies
  refine inv_ite hI (inv_foldl _ _ _ (fun d x h => inv_ite h ?_) ⟨hI.1, hI.2, hI.3, hI.4, hI.5, hI.6⟩)
  exact pmbRead_inv _ _ _ _ _ (fun _ _ h => takeStatusWord_inv _ _ _ _ h) (draw_inv _ h)

theorem pmbWrite_inv (k : Supply) (e : SupplyCfg) (ws : List (ℕ × ℕ)) (d : Device) (hI : Inv d) : Inv (pmbWrite k e ws d) := by
  unfold pmbWrite
  repeat' (first
      | with_reducible assumption | intro _ | with_reducible apply pmbSend_inv | with_reducible apply adoptSupplies_inv
      | with_reducible apply inv_ite | with_reducible apply inv_foldl)

theorem readModes_inv (es : List SupplyCfg) (modes : List BusResult) (d : Device) (hI : Inv d) : Inv (readModes es modes d) := by
  unfold readModes
  repeat' (first
      | with_reducible assumption | intro _ | with_reducible apply pmbRead_inv | with_reducible apply adoptSupplies_inv
      | with_reducible apply inv_ite | with_reducible apply inv_foldl)

theorem nextStep_inv (d : Device) (hI : Inv d) : Inv (nextStep d) := by
  unfold nextStep
  repeat' (first
      | with_reducible assumption | intro _ | with_reducible apply pmbWrite_inv | with_reducible apply modSup_inv
      | (rw [restOf_fold]; with_reducible apply restOf_inv) | with_reducible apply inv_foldl | split)

theorem turnOff_inv (ks : List Supply) (d : Device) (hI : Inv d) : Inv (turnOff ks d) := by
  unfold turnOff
  repeat' (first
      | with_reducible assumption | intro _ | with_reducible apply pmbWrite_inv | with_reducible apply modSup_inv
      | with_reducible apply inv_ite | with_reducible apply inv_foldl | split)

theorem clearSupplyInhibit_inv (d : Device) (hI : Inv d) : Inv (clearSupplyInhibit d) := by
  unfold clearSupplyInhibit
  repeat' (first
      | with_reducible assumption | intro _ | with_reducible apply sendInhibit_inv | with_reducible apply inv_ite
      | (rw [restOf_fold]; with_reducible apply restOf_inv) | with_reducible apply inv_foldl)

theorem sequenceDone_inv (d : Device) (hI : Inv d) : Inv (sequenceDone d) := by
  unfold sequenceDone
  repeat' (first
      | with_reducible assumption | intro _ | with_reducible apply finishWork_inv | with_reducible apply clearSupplyInhibit_inv
      | (rw [restOf_fold]; with_reducible apply restOf_inv))

theorem retryWrites_inv (k : Supply) (e : SupplyCfg) (d : Device) (hI : Inv d) : Inv (retryWrites k e d) := by
  unfold retryWrites
  repeat' (first | with_reducible assumption | intro _ | with_reducible apply pmbWrite_inv)

theorem addressFails_inv (addr : ℕ) (d : Device) (hI : Inv d) : Inv (addressFails addr d) := by
  unfold addressFails
  repeat' (first
      | with_reducible assumption | intro _ | with_reducible apply supplyFails_inv | with_reducible apply inv_ite
      | with_reducible apply inv_foldl)

/-! Lanes.lean -/

theorem laneFalls_inv (l : LaneId) (d : Device) (hI : Inv d) : Inv (laneFalls l d) := by
  unfold laneFalls
  repeat' (first
      | with_reducible assumption | intro _ | with_reducible apply linkFell_inv | with_reducible apply modLane_inv
      | with_reducible apply noteReady_inv | with_reducible apply refreshPath_inv | with_reducible apply inv_ite)

theorem modFarPort_inv (l : LaneId) (f : AdPort → AdPort) (d : Device) (hI : Inv d) : Inv (modFarPort l f d) := by
  unfold modFarPort
  repeat' (first | with_reducible assumption | intro _ | with_reducible apply modAdapter_inv | with_reducible apply inv_ite | split)

theorem linkFails_inv (l : LaneId) (d : Device) (hI : Inv d) : Inv (linkFails l d) := by
  unfold linkFails
  repeat' (first | with_reducible assumption | intro _ | with_reducible apply noteDegraded_inv | split)

theorem attemptFails_inv (l : LaneId) (reason : ℕ) (d : Device) (hI : Inv d) : Inv (attemptFails l reason d) := by
  unfold attemptFails
  repeat' (first
      | with_reducible assumption | intro _ | with_reducible apply linkFails_inv | with_reducible apply modLane_inv
      | with_reducible apply modFarPort_inv | with_reducible apply abandonTest_inv | with_reducible apply raise_inv
      | with_reducible apply inv_ite)

theorem startAttempt_inv (l : LaneId) (d : Device) (hI : Inv d) : Inv (startAttempt l d) := by
  unfold startAttempt
  repeat' (first
      | with_reducible assumption | intro _ | with_reducible apply applyPortCfg_inv | with_reducible apply modFarPort_inv
      | with_reducible apply modLane_inv | with_reducible apply abandonTest_inv | with_reducible apply inv_ite | split)

theorem lockLane_inv (l : LaneId) (ppm : ℤ) (d : Device) (hI : Inv d) : Inv (lockLane l ppm d) := by
  unfold lockLane
  repeat' (first
      | with_reducible assumption | intro _ | with_reducible apply attemptFails_inv | with_reducible apply modLane_inv
      | with_reducible apply inv_ite)

theorem sendWord_inv (l : LaneId) (d : Device) (hI : Inv d) : Inv (sendWord l d) := by
  unfold sendWord
  repeat' (first
      | with_reducible assumption | intro _ | with_reducible apply modLane_inv | with_reducible apply draw_inv
      | with_reducible apply modFarPort_inv | with_reducible apply inv_ite | split)

theorem adaptLane_inv (l : LaneId) (d : Device) (hI : Inv d) : Inv (adaptLane l d) := by
  unfold adaptLane
  repeat' (first
      | with_reducible assumption | intro _ | with_reducible apply draw_inv | with_reducible apply sendWord_inv
      | with_reducible apply modLane_inv)

theorem headRises_inv (h : Head) (d : Device) (hI : Inv d) : Inv (headRises h d) := by
  unfold headRises
  repeat' (first
      | with_reducible assumption | intro _ | with_reducible apply modAdapter_inv | with_reducible apply startBring_inv
      | with_reducible apply modLink_inv | with_reducible apply inv_ite)

theorem portRises_inv (p : Port) (d : Device) (hI : Inv d) : Inv (portRises p d) := by
  unfold portRises
  repeat' (first
      | with_reducible assumption | intro _ | with_reducible apply sendHello_inv | with_reducible apply noteDegraded_inv
      | with_reducible apply linkSend_inv | with_reducible apply inv_foldl)

theorem linkRises_inv (l : LaneId) (wasUp : Bool) (d : Device) (hI : Inv d) : Inv (linkRises l wasUp d) := by
  unfold linkRises
  repeat' (first
      | with_reducible assumption | intro _ | with_reducible apply headRises_inv | with_reducible apply noteDegraded_inv
      | with_reducible apply holdLock_inv | with_reducible apply portRises_inv | with_reducible apply refreshPath_inv
      | with_reducible apply inv_ite | split)

theorem laneRises_inv (l : LaneId) (d : Device) (hI : Inv d) : Inv (laneRises l d) := by
  unfold laneRises
  repeat' (first
      | with_reducible assumption | intro _ | with_reducible apply modLane_inv | with_reducible apply linkRises_inv
      | with_reducible apply raise_inv)

theorem joinDirections_inv (l : LaneId) (d : Device) (hI : Inv d) : Inv (joinDirections l d) := by
  unfold joinDirections
  repeat' (first | with_reducible assumption | intro _ | with_reducible apply laneRises_inv | with_reducible apply inv_ite)

theorem endTraining_inv (l : LaneId) (d : Device) (hI : Inv d) : Inv (endTraining l d) := by
  unfold endTraining
  repeat' (first
      | with_reducible assumption | intro _ | with_reducible apply modLane_inv | with_reducible apply joinDirections_inv
      | with_reducible apply inv_ite)

theorem endReceive_inv (l : LaneId) (last : Bool) (d : Device) (hI : Inv d) : Inv (endReceive l last d) := by
  unfold endReceive
  repeat' (first
      | with_reducible assumption | intro _ | with_reducible apply joinDirections_inv | with_reducible apply modLane_inv
      | with_reducible apply inv_ite)

theorem answerWord_inv (l : LaneId) (d : Device) (hI : Inv d) : Inv (answerWord l d) := by
  unfold answerWord
  repeat' (first | with_reducible assumption | intro _ | with_reducible apply sendWord_inv | with_reducible apply inv_ite)

theorem takeWord_inv (l : LaneId) (w : TrainWord) (d : Device) (hI : Inv d) : Inv (takeWord l w d) := by
  unfold takeWord
  repeat' (first
      | with_reducible assumption | intro _ | with_reducible apply answerWord_inv | with_reducible apply attemptFails_inv
      | with_reducible apply modLane_inv | with_reducible apply endTraining_inv | with_reducible apply inv_ite)

theorem countCodes_inv (l : LaneId) (n : ℕ) (d : Device) (hI : Inv d) : Inv (countCodes l n d) := by
  unfold countCodes
  repeat' (first | with_reducible assumption | intro _ | with_reducible apply modLane_inv | with_reducible apply modDiag_inv)

theorem laneArg_inv (v : Nat) (d : Device) (f : LaneId → Done) (hf : ∀ l, DoneInv (f l)) (h : Inv d) : DoneInv (laneArg v d f) := by
  unfold laneArg
  repeat' (first
      | with_reducible assumption | with_reducible apply hf | with_reducible apply no_inv | with_reducible apply doneInv_ite | split)

/-! System.lean -/

theorem newRings_inv (a : List ℤ) (d : Device) (hI : Inv d) : Inv (newRings a d) := by
  unfold newRings
  repeat' (first | with_reducible assumption | intro _ | with_reducible apply modMbx_inv)

theorem markRead_inv (k : Fin 3) (old : Bool) (d : Device) (h : Inv d) : Inv (markRead k old d) := by
  have hs : ∀ (v : Vector (Option LatchedSet) 3), (∀ (j : Fin 3) (l : LatchedSet), v[j] = some l → setBalanced l.live) →
      ∀ (j : Fin 3) (l : LatchedSet), (upd v k (fun l => l.map (fun l => { l with read := true })))[j] = some l → setBalanced l.live := by
    intro v hv j l hl
    by_cases hj : k = j
    · subst hj
      simp only [upd, Fin.getElem_fin, Vector.getElem_set_self, Option.map_eq_some_iff] at hl
      obtain ⟨m, hm, rfl⟩ := hl
      exact hv k m hm
    · have hj : k.val ≠ j.val := fun e => hj (Fin.ext e)
      exact hv j l (by simpa [upd, Vector.getElem_set, hj] using hl)
  unfold markRead
  cases old
  · exact ⟨h.1, h.2, h.3, h.4, hs _ h.5, h.6⟩
  · exact ⟨h.1, h.2, h.3, h.4, h.5, hs _ h.6⟩

theorem freePartner_inv (b : BitVec 5) (src : U16) (d : Device) (h : Inv d) : Inv (freePartner b src d) :=
  ⟨by simpa [freePartner] using h.1, h.2.filter _, h.3, h.4, h.5, h.6⟩

theorem releasePartner_inv (b : BitVec 5) (src : U16) (d : Device) (hI : Inv d) : Inv (releasePartner b src d) := by
  unfold releasePartner
  repeat' (first
      | with_reducible assumption | intro _ | with_reducible apply freePartner_inv | with_reducible apply retrainLane_inv
      | with_reducible apply modLink_inv | split)

theorem foragerWrite_inv (r : ForagerRead) (j : ForagerJob) (b : List U8) (d : Device) (hI : Inv d) : Inv (foragerWrite r j b d) := by
  unfold foragerWrite
  repeat' (first
      | with_reducible assumption | intro _ | with_reducible apply dramWrite_inv | with_reducible apply sendTo_inv
      | with_reducible apply inv_ite)

theorem foragerTake_inv (r : ForagerRead) (j : ForagerJob) (data : Option (List U8)) (d : Device) (hI : Inv d) : Inv (foragerTake r j data
    d) := by
  unfold foragerTake
  repeat' (first | with_reducible assumption | intro _ | with_reducible apply modMbx_inv | with_reducible apply foragerWrite_inv | split)

/-! Thermal.lean -/

theorem modTherm_inv (d : Device) (f : Therm → Therm) (hI : Inv d) : Inv (modTherm d f) := by
  unfold modTherm
  repeat' (first | with_reducible assumption | intro _ | (rw [restOf_fold]; with_reducible apply restOf_inv))

theorem failSensor_inv (k : Sensor) (test : ℕ) (d : Device) (hI : Inv d) : Inv (failSensor k test d) := by
  unfold failSensor
  repeat' (first | with_reducible assumption | intro _ | with_reducible apply raise_inv | with_reducible apply modTherm_inv)

theorem setLevel_inv (n : ℕ) (d : Device) (hI : Inv d) : Inv (setLevel n d) := by
  unfold setLevel
  repeat' (first
      | with_reducible assumption | intro _ | with_reducible apply modTherm_inv | with_reducible apply setIrq_inv
      | with_reducible apply raise_inv | with_reducible apply inv_ite)

theorem tripDrive_inv (d : Device) (hI : Inv d) : Inv (tripDrive d) := by
  unfold tripDrive
  repeat' (first
      | with_reducible assumption | intro _ | with_reducible apply finish_inv | (rw [restOf_fold]; with_reducible apply restOf_inv)
      | with_reducible apply inv_foldl)

theorem tripDram_inv (d : Device) (hI : Inv d) : Inv (tripDram d) := by
  unfold tripDram
  repeat' (first
      | with_reducible assumption | rfl | intro _ | with_reducible apply finishWork_inv | with_reducible apply modDram_inv
      | with_reducible apply inv_ite)

theorem tripFlash_inv (d : Device) (hI : Inv d) : Inv (tripFlash d) := by
  unfold tripFlash
  repeat' (first | with_reducible assumption | intro _ | (rw [restOf_fold]; with_reducible apply restOf_inv))

theorem tripPower_inv (d : Device) (hI : Inv d) : Inv (tripPower d) := by
  unfold tripPower
  repeat' (first
      | with_reducible assumption | intro _ | with_reducible apply finishWork_inv | with_reducible apply setIrq_inv
      | with_reducible apply inv_ite | (rw [restOf_fold]; with_reducible apply restOf_inv))

theorem tripJobs_inv (d : Device) (hI : Inv d) : Inv (tripJobs d) := by
  unfold tripJobs
  repeat' (first
      | with_reducible assumption | intro _ | with_reducible apply reportReady_inv | with_reducible apply unschedule_inv
      | with_reducible apply endJob_inv | with_reducible apply skipTokens_inv | with_reducible apply inv_ite
      | (rw [restOf_fold]; with_reducible apply restOf_inv) | split)

theorem tripNow_inv (d : Device) (hI : Inv d) : Inv (tripNow d) := by
  unfold tripNow
  repeat' (first
      | with_reducible assumption | intro _ | with_reducible apply modTherm_inv | with_reducible apply tripJobs_inv
      | with_reducible apply tripPower_inv | with_reducible apply tripFlash_inv | with_reducible apply tripDram_inv
      | with_reducible apply tripDrive_inv | with_reducible apply accountingBreak_inv | with_reducible apply noteFault_inv
      | with_reducible apply setIrq_inv | with_reducible apply raise_inv)

theorem restartDram_inv (d : Device) (hI : Inv d) : Inv (restartDram d) := by
  unfold restartDram
  repeat' (first
      | with_reducible assumption | rfl | intro _ | with_reducible apply resumeDram_inv | with_reducible apply modDram_inv
      | with_reducible apply inv_ite)

theorem restartDrive_inv (d : Device) (hI : Inv d) : Inv (restartDrive d) := by
  unfold restartDrive
  repeat' (first | with_reducible assumption | intro _ | (rw [restOf_fold]; with_reducible apply restOf_inv))

theorem liftTrip_inv (d : Device) (hI : Inv d) : Inv (liftTrip d) := by
  unfold liftTrip
  repeat' (first
      | with_reducible assumption | intro _ | with_reducible apply sendInhibit_inv | with_reducible apply inv_ite
      | with_reducible apply inv_foldl)

theorem restartNow_inv (d : Device) (hI : Inv d) : Inv (restartNow d) := by
  unfold restartNow
  repeat' (first
      | with_reducible assumption | intro _ | with_reducible apply modTherm_inv | with_reducible apply wakeHeadLanes_inv
      | with_reducible apply restartDrive_inv | with_reducible apply restartDram_inv | with_reducible apply liftTrip_inv
      | with_reducible apply loadDrops_inv | with_reducible apply setIrq_inv | with_reducible apply raise_inv
      | with_reducible apply setLevel_inv | with_reducible apply inv_ite | (rw [restOf_fold]; with_reducible apply restOf_inv))

/-! Transport.lean -/

theorem setCmdTail_inv (v : U32) (d : Device) (hI : Inv d) : Inv (setCmdTail v d) := by
  unfold setCmdTail
  repeat' (first
      | with_reducible assumption | intro _ | with_reducible apply violation_inv | with_reducible apply wakeCores_inv
      | with_reducible apply modMbx_inv | with_reducible apply inv_ite)

theorem setRspHead_inv (v : U32) (d : Device) (hI : Inv d) : Inv (setRspHead v d) := by
  unfold setRspHead
  repeat' (first
      | with_reducible assumption | intro _ | with_reducible apply violation_inv | with_reducible apply modMbx_inv
      | with_reducible apply inv_ite)

theorem setEvtHead_inv (v : U32) (d : Device) (hI : Inv d) : Inv (setEvtHead v d) := by
  unfold setEvtHead
  repeat' (first
      | with_reducible assumption | intro _ | with_reducible apply violation_inv | with_reducible apply modMbx_inv
      | with_reducible apply inv_ite)

theorem clearIrq_inv (v : U32) (d : Device) (hI : Inv d) : Inv (clearIrq v d) := by
  unfold clearIrq
  repeat' (first | with_reducible assumption | intro _ | with_reducible apply modMbx_inv)

theorem writeWake_inv (v : U32) (d : Device) (hI : Inv d) : Inv (writeWake v d) := by
  unfold writeWake
  repeat' (first
      | with_reducible assumption | intro _ | with_reducible apply draw_inv | with_reducible apply wakeSource_inv
      | with_reducible apply inv_ite | (rw [restOf_fold]; with_reducible apply restOf_inv) | split
      | refine pair_inv (by with_reducible assumption) ?_)

theorem releasePads_inv (v : U32) (d : Device) (hI : Inv d) : Inv (releasePads v d) := by
  unfold releasePads
  repeat' (first | with_reducible assumption | intro _ | (rw [restOf_fold]; with_reducible apply restOf_inv))

theorem writeClose_inv (v : U32) (d : Device) (hI : Inv d) : Inv (writeClose v d) := by
  unfold writeClose
  repeat' (first | with_reducible assumption | intro _ | with_reducible apply closeWindow_inv | with_reducible apply inv_ite)

theorem writeDiagClear_inv (v : U32) (d : Device) (hI : Inv d) : Inv (writeDiagClear v d) := by
  unfold writeDiagClear
  repeat' (first | with_reducible assumption | intro _ | with_reducible apply modDiag_inv | with_reducible apply inv_ite)

theorem deliverPending_inv (d : Device) (hI : Inv d) : Inv (deliverPending d) := by
  unfold deliverPending
  repeat' (first
      | with_reducible assumption | intro _ | with_reducible apply modMbx_inv | with_reducible apply inv_ite
      | with_reducible apply inv_foldl)

theorem writeRegister_inv (o : ℕ) (bs : List U8) (d : Device) (hI : Inv d) : Inv (writeRegister o bs d) := by
  unfold writeRegister
  repeat' (first
      | with_reducible assumption | intro _ | with_reducible apply setCmdTail_inv | with_reducible apply setRspHead_inv
      | with_reducible apply setEvtHead_inv | with_reducible apply clearIrq_inv | with_reducible apply modMbx_inv
      | with_reducible apply writeWake_inv | with_reducible apply releasePads_inv | with_reducible apply writeClose_inv
      | with_reducible apply writeDiagClear_inv | with_reducible apply deliverPending_inv | with_reducible apply inv_ite)

theorem writeWords_inv (fuel n : ℕ) (bs : List U8) (d : Device) (hI : Inv d) : Inv (writeWords fuel n bs d) := by
  induction fuel generalizing n bs d with
  | zero => exact hI
  | succ k ih =>
    unfold writeWords
    repeat' (first
        | with_reducible assumption | intro _ | with_reducible apply ih | with_reducible apply writeRegister_inv
        | with_reducible apply inv_ite)

theorem relayAnswer_inv (e : InFlight) (status orig : U8) (reason : List U8) (detail : U32) (results : List U32) (d : Device) (hI : Inv d)
    : Inv (relayAnswer e status orig reason detail results d) := by
  unfold relayAnswer
  repeat' (first
      | with_reducible assumption | intro _ | with_reducible apply modMbx_inv | with_reducible apply deliver_inv
      | with_reducible apply remember_inv | with_reducible apply inv_ite)

theorem abandonGated_inv (d : Device) (hI : Inv d) : Inv (abandonGated d) := by
  unfold abandonGated
  repeat' (first
      | with_reducible assumption | intro _ | with_reducible apply finishAll_inv | with_reducible apply inv_ite
      | (rw [restOf_fold]; with_reducible apply restOf_inv) | split)

/-! Outcomes -/

/-- The device of a next state keeps the invariant. -/
def OutInv : Host.Outcome State Fault Refusal → Prop
  | .next t => Inv t.dev
  | _ => True

theorem outInv_next {s : State} {d : Device} (h : Inv d) : OutInv (next s d) := h

theorem outInv_ite {c : Prop} [Decidable c] {a b : Host.Outcome State Fault Refusal} (ha : OutInv a) (hb : OutInv b) :
    OutInv (if c then a else b) := by
  split <;> assumption

theorem mervan_inv {g : Sig} {body : Cmd → List Int → Device → Done} {c : Cmd} {s : State}
    (hb : ∀ c a d, Inv d → DoneInv (body c a d)) (h : Inv s.dev) : OutInv (mervan g body c s) := by
  unfold mervan
  split
  · exact h
  · exact enter_inv _ _ _ _ hb (opt_inv ‹_› (takeFront_inv _ _ _ h))

theorem hostDoes_inv {f : Device → Device} {s : State} (hf : ∀ d, Inv d → Inv (f d)) (h : Inv s.dev) : OutInv (hostDoes f s) := by
  unfold hostDoes
  split
  · exact hf _ h
  · exact h

end Sys2Proof.Machine
end

