-- ==== Sys2Proof/Laws/Log.lean ====
section
/-! SUPPORT. The violation log: its oldest entry, and what events leave of it. -/
namespace Sys2Proof.Machine

/-- The least FTIME_FIRST of a list and a bound. -/
theorem foldl_min_first (l : List VEntry) : ∀ (a : U64), (∀ x ∈ l, l.foldl (fun a e => if e.first < a then e.first else a) a ≤ x.first) ∧
    l.foldl (fun a e => if e.first < a then e.first else a) a ≤ a ∧ (l.foldl (fun a e => if e.first < a then e.first else a) a = a ∨ ∃ x ∈
    l, x.first = l.foldl (fun a e => if e.first < a then e.first else a) a) := by
  induction l with
  | nil => intro a; simp
  | cons x l ih =>
    intro a
    simp only [List.foldl_cons]
    by_cases hc : x.first < a
    · rw [if_pos hc]
      obtain ⟨h1, h2, h3⟩ := ih x.first
      generalize l.foldl (fun a e => if e.first < a then e.first else a) x.first = m at *
      refine ⟨?_, by bv_omega, ?_⟩
      · intro y hy
        rcases List.mem_cons.mp hy with rfl | hy
        · exact h2
        · exact h1 y hy
      · rcases h3 with h | ⟨y, hy, h⟩
        · exact .inr ⟨x, by simp, h.symm⟩
        · exact .inr ⟨y, by simp [hy], h⟩
    · rw [if_neg hc]
      obtain ⟨h1, h2, h3⟩ := ih a
      generalize l.foldl (fun a e => if e.first < a then e.first else a) a = m at *
      refine ⟨?_, h2, ?_⟩
      · intro y hy
        rcases List.mem_cons.mp hy with rfl | hy
        · bv_omega
        · exact h1 y hy
      · rcases h3 with h | ⟨y, hy, h⟩
        · exact .inl h
        · exact .inr ⟨y, by simp [hy], h⟩

/-- A log loses an entry with the least FTIME_FIRST (R27). -/
theorem dropOldest_split (l : List VEntry) (hl : l ≠ []) : ∃ a o b, l = a ++ o :: b ∧ (∀ x ∈ l, o.first ≤ x.first) ∧ dropOldest l = a ++ b
    := by
  have hm := foldl_min_first l (BitVec.allOnes 64)
  have hx : ∃ x ∈ l, x.first = oldestFirst l := by
    rcases hm.2.2 with h | ⟨x, hx, h⟩
    · obtain ⟨x, hx⟩ := List.exists_mem_of_ne_nil l hl
      refine ⟨x, hx, ?_⟩
      have := hm.1 x hx
      rw [h] at this
      unfold oldestFirst
      rw [h]
      clear h hm
      have h1 : x.first.toNat < 2 ^ 64 := x.first.isLt
      have h2 : (BitVec.allOnes 64).toNat ≤ x.first.toNat := this
      apply BitVec.eq_of_toNat_eq
      simp at h2 ⊢
      omega
    · exact ⟨x, hx, h⟩
  obtain ⟨x, hx, he⟩ := hx
  obtain ⟨o, l1, l2, hn, ho, hl, hd⟩ := List.exists_of_eraseP (p := fun e : VEntry => e.first == oldestFirst l) hx (by simpa using he)
  refine ⟨l1, o, l2, hl, ?_, hd⟩
  intro z hz
  have : o.first = oldestFirst l := by simpa using ho
  rw [this]
  exact hm.1 z hz

/-- An interrupt leaves the log. -/
theorem setIrq_vlog (k : Nat) (d : Device) : (setIrq k d).vlog = d.vlog :=
  (setIrq_keeps (ch := [.mbx]) (a := d) k d (by decide) (Keeps.refl _ _)).same .vlog (by decide)

/-- Index words leave the log. -/
theorem putIndices_vlog (d : Device) : (putIndices d).vlog = d.vlog := by unfold putIndices; split <;> rfl

/-- A slot written leaves the log. -/
theorem putSlot_vlog (b : U64) (n k : Nat) (x : List U8) (d : Device) : (putSlot b n k x d).vlog = d.vlog := by
  unfold putSlot; dsimp only; split <;> rfl

/-- An event record leaves the entries and the isolated partners. -/
theorem writeEvent_log (e : Event) (d : Device) : (writeEvent e d).vlog.isolated = d.vlog.isolated ∧ (writeEvent e d).vlog.entries =
    d.vlog.entries := by
  unfold writeEvent
  split
  · exact ⟨rfl, rfl⟩
  · simp only [setIrq_vlog, putIndices_vlog]
    simp only [modMbx, putSlot_vlog]
    exact ⟨trivial, trivial⟩

/-- A device's own event leaves the entries and the isolated partners. -/
theorem ownEvent_log (n : EvName) (a : List U32) (ft wp : U64) (d : Device) : (ownEvent n a ft wp d).vlog.isolated = d.vlog.isolated ∧
    (ownEvent n a ft wp d).vlog.entries = d.vlog.entries := writeEvent_log _ _

/-- An interrupt vector leaves HOST_EVENTS. -/
theorem signalVector_hostEvents (k : Nat) (d : Device) : (signalVector k d).mbx.hostEvents = d.mbx.hostEvents := by
  unfold signalVector
  repeat' split
  all_goals rfl

/-- An interrupt leaves HOST_EVENTS. -/
theorem setIrq_hostEvents (k : Nat) (d : Device) : (setIrq k d).mbx.hostEvents = d.mbx.hostEvents := by
  unfold setIrq
  dsimp only
  repeat' split
  all_goals first | rfl | exact signalVector_hostEvents ..

/-- Index words leave HOST_EVENTS. -/
theorem putIndices_hostEvents (d : Device) : (putIndices d).mbx.hostEvents = d.mbx.hostEvents := by unfold putIndices; split <;> rfl

/-- A slot written leaves HOST_EVENTS. -/
theorem putSlot_hostEvents (b : U64) (n k : Nat) (x : List U8) (d : Device) : (putSlot b n k x d).mbx.hostEvents = d.mbx.hostEvents := by
  unfold putSlot; dsimp only; split <;> rfl

/-- A device's own event leaves HOST_EVENTS. -/
theorem ownEvent_hostEvents (n : EvName) (a : List U32) (ft wp : U64) (d : Device) :
    (ownEvent n a ft wp d).mbx.hostEvents = d.mbx.hostEvents := by
  unfold ownEvent writeEvent
  dsimp only
  split
  · rfl
  · rw [setIrq_hostEvents, putIndices_hostEvents]
    simp only [modMbx, putSlot_hostEvents]

/-- Logging leaves the isolated partners. -/
theorem logViolation_isolated (c : U8) (b : BitVec 5) (x : U16) (a : BitVec 2) (d : Device) :
    (logViolation c b x a d).2.vlog.isolated = d.vlog.isolated := by
  unfold logViolation
  dsimp only
  split
  · rfl
  · split <;> rfl

/-- A relay that is lost leaves the isolated partners; it may log NO_ROUTE. -/
theorem relayLost_isolated (n : U8) (d : Device) : (relayLost n d).vlog.isolated = d.vlog.isolated := by
  unfold relayLost
  split
  · dsimp only
    rw [(ownEvent_log ..).1]
    split
    · rw [(ownEvent_log ..).1, logViolation_isolated]
      exact congrArg (·.isolated) ((takeSrcSeq_keeps (ch := [.fabric]) (a := d) _ _ d (by decide) (Keeps.refl _ _)).same .vlog (by decide))
    · rw [logViolation_isolated]
      exact congrArg (·.isolated) ((takeSrcSeq_keeps (ch := [.fabric]) (a := d) _ _ d (by decide) (Keeps.refl _ _)).same .vlog (by decide))
  · rfl

/-- A message that is sent, or finds no route, leaves the log. -/
theorem trySend_vlog (vc : Vc) (dict : Bool) (dest : U8) (t : Nat) (p : List U8) (d : Device) : (trySend vc dict dest t p d).2.vlog = d.vlog :=
  (trySend_keeps (ch := [.lanes, .fabric]) (a := d) vc dict dest t p d (by decide) (Keeps.refl _ _)).same .vlog (by decide)

/-- Relaying an event leaves the isolated partners. -/
theorem relayEvent_isolated (e : Event) (d : Device) : (relayEvent e d).vlog.isolated = d.vlog.isolated := by
  unfold relayEvent
  split
  · rfl
  · rename_i hf
    clear hf
    induction d.fabric.hostNodes generalizing d with
    | nil => rfl
    | cons n l ih =>
      rw [List.foldl_cons, ih]
      have h := trySend_vlog .control false n 0x0030 (relayPayload 2 0 e.bytes) d
      split
      · rename_i x hx
        rw [hx] at h
        exact congrArg (·.isolated) h
      · rename_i x hx
        rw [hx] at h
        rw [relayLost_isolated]
        exact congrArg (·.isolated) h

/-- An event leaves the isolated partners, and the entries where no node is there to relay it to. -/
theorem raise_log (n : EvName) (a : List U32) (e : Device) : (raise n a e).vlog.isolated = e.vlog.isolated ∧
    ((e.mbx.hostEvents = true ∨ e.fabric.hostNodes = []) → (raise n a e).vlog.entries = e.vlog.entries) := by
  unfold raise
  split
  · unfold recordEvent
    have hm : (ownEvent n a (ftime e) e.pos.wpos e).fabric = e.fabric :=
      (ownEvent_keeps (ch := [.mbx, .vlog]) (a := e) _ _ _ _ e (by decide) (Keeps.refl _ _)).same .fabric (by decide)
    refine ⟨by rw [relayEvent_isolated, (ownEvent_log ..).1], fun h => ?_⟩
    unfold relayEvent
    split
    · rw [(ownEvent_log ..).2]
    · rename_i hn
      rcases h with h | h
      · exact absurd (by simp [ownEvent_hostEvents, h]) hn
      · rw [hm, h]
        exact (ownEvent_log ..).2
  · exact ⟨rfl, fun _ => rfl⟩

end Sys2Proof.Machine
end

