-- ==== Sys2Proof/Laws/State.lean ====
section
/-! SUPPORT. What each field update of the shared operations leaves and sets: one lemma for each field of the device, and the entries of a
numbered resource. -/
namespace Sys2Proof.Machine

@[simp] theorem upd_self {α : Type} {n : Nat} (v : Vector α n) (i : Fin n) (f : α → α) : (upd v i f)[i] = f v[i] := by simp [upd]

theorem upd_other {α : Type} {n : Nat} (v : Vector α n) {i j : Fin n} (f : α → α) (h : j ≠ i) : (upd v i f)[j] = v[j] := by
  have h : i.val ≠ j.val := fun e => h (Fin.ext e.symm)
  simp [upd, h]

theorem next_eq {s : State} {d : Device} : next s d = .next { s with dev := d } := rfl

section
variable (d : Device) (h : Head) (f : HeadLink → HeadLink)
@[simp] theorem modLink_chip : (modLink d h f).chip = d.chip := rfl
@[simp] theorem modLink_mbx : (modLink d h f).mbx = d.mbx := rfl
@[simp] theorem modLink_vlog : (modLink d h f).vlog = d.vlog := rfl
@[simp] theorem modLink_acct : (modLink d h f).acct = d.acct := rfl
@[simp] theorem modLink_jobs : (modLink d h f).jobs = d.jobs := rfl
@[simp] theorem modLink_feed : (modLink d h f).feed = d.feed := rfl
@[simp] theorem modLink_banks : (modLink d h f).banks = d.banks := rfl
@[simp] theorem modLink_engines : (modLink d h f).engines = d.engines := rfl
@[simp] theorem modLink_pos : (modLink d h f).pos = d.pos := rfl
@[simp] theorem modLink_sheet : (modLink d h f).sheet = d.sheet := rfl
@[simp] theorem modLink_fire : (modLink d h f).fire = d.fire := rfl
@[simp] theorem modLink_links : (modLink d h f).links = upd d.links h f := rfl
@[simp] theorem modLink_adapters : (modLink d h f).adapters = d.adapters := rfl
@[simp] theorem modLink_drive : (modLink d h f).drive = d.drive := rfl
@[simp] theorem modLink_cams : (modLink d h f).cams = d.cams := rfl
@[simp] theorem modLink_loop : (modLink d h f).loop = d.loop := rfl
@[simp] theorem modLink_cz : (modLink d h f).cz = d.cz := rfl
@[simp] theorem modLink_crcs : (modLink d h f).crcs = d.crcs := rfl
@[simp] theorem modLink_dram : (modLink d h f).dram = d.dram := rfl
@[simp] theorem modLink_lanes : (modLink d h f).lanes = d.lanes := rfl
@[simp] theorem modLink_fabric : (modLink d h f).fabric = d.fabric := rfl
@[simp] theorem modLink_red : (modLink d h f).red = d.red := rfl
@[simp] theorem modLink_pwr : (modLink d h f).pwr = d.pwr := rfl
@[simp] theorem modLink_therm : (modLink d h f).therm = d.therm := rfl
@[simp] theorem modLink_prs : (modLink d h f).prs = d.prs := rfl
@[simp] theorem modLink_nv : (modLink d h f).nv = d.nv := rfl
@[simp] theorem modLink_sz : (modLink d h f).sz = d.sz := rfl
end

section
variable (d : Device) (h : Head) (f : Adapter → Adapter)
@[simp] theorem modAdapter_chip : (modAdapter d h f).chip = d.chip := rfl
@[simp] theorem modAdapter_mbx : (modAdapter d h f).mbx = d.mbx := rfl
@[simp] theorem modAdapter_vlog : (modAdapter d h f).vlog = d.vlog := rfl
@[simp] theorem modAdapter_acct : (modAdapter d h f).acct = d.acct := rfl
@[simp] theorem modAdapter_jobs : (modAdapter d h f).jobs = d.jobs := rfl
@[simp] theorem modAdapter_feed : (modAdapter d h f).feed = d.feed := rfl
@[simp] theorem modAdapter_banks : (modAdapter d h f).banks = d.banks := rfl
@[simp] theorem modAdapter_engines : (modAdapter d h f).engines = d.engines := rfl
@[simp] theorem modAdapter_pos : (modAdapter d h f).pos = d.pos := rfl
@[simp] theorem modAdapter_sheet : (modAdapter d h f).sheet = d.sheet := rfl
@[simp] theorem modAdapter_fire : (modAdapter d h f).fire = d.fire := rfl
@[simp] theorem modAdapter_links : (modAdapter d h f).links = d.links := rfl
@[simp] theorem modAdapter_adapters : (modAdapter d h f).adapters = upd d.adapters h f := rfl
@[simp] theorem modAdapter_drive : (modAdapter d h f).drive = d.drive := rfl
@[simp] theorem modAdapter_cams : (modAdapter d h f).cams = d.cams := rfl
@[simp] theorem modAdapter_loop : (modAdapter d h f).loop = d.loop := rfl
@[simp] theorem modAdapter_cz : (modAdapter d h f).cz = d.cz := rfl
@[simp] theorem modAdapter_crcs : (modAdapter d h f).crcs = d.crcs := rfl
@[simp] theorem modAdapter_dram : (modAdapter d h f).dram = d.dram := rfl
@[simp] theorem modAdapter_lanes : (modAdapter d h f).lanes = d.lanes := rfl
@[simp] theorem modAdapter_fabric : (modAdapter d h f).fabric = d.fabric := rfl
@[simp] theorem modAdapter_red : (modAdapter d h f).red = d.red := rfl
@[simp] theorem modAdapter_pwr : (modAdapter d h f).pwr = d.pwr := rfl
@[simp] theorem modAdapter_therm : (modAdapter d h f).therm = d.therm := rfl
@[simp] theorem modAdapter_prs : (modAdapter d h f).prs = d.prs := rfl
@[simp] theorem modAdapter_nv : (modAdapter d h f).nv = d.nv := rfl
@[simp] theorem modAdapter_sz : (modAdapter d h f).sz = d.sz := rfl
end

section
variable (d : Device) (h : Head) (f : Engine → Engine)
@[simp] theorem modEngine_chip : (modEngine d h f).chip = d.chip := rfl
@[simp] theorem modEngine_mbx : (modEngine d h f).mbx = d.mbx := rfl
@[simp] theorem modEngine_vlog : (modEngine d h f).vlog = d.vlog := rfl
@[simp] theorem modEngine_acct : (modEngine d h f).acct = d.acct := rfl
@[simp] theorem modEngine_jobs : (modEngine d h f).jobs = d.jobs := rfl
@[simp] theorem modEngine_feed : (modEngine d h f).feed = d.feed := rfl
@[simp] theorem modEngine_banks : (modEngine d h f).banks = d.banks := rfl
@[simp] theorem modEngine_engines : (modEngine d h f).engines = upd d.engines h f := rfl
@[simp] theorem modEngine_pos : (modEngine d h f).pos = d.pos := rfl
@[simp] theorem modEngine_sheet : (modEngine d h f).sheet = d.sheet := rfl
@[simp] theorem modEngine_fire : (modEngine d h f).fire = d.fire := rfl
@[simp] theorem modEngine_links : (modEngine d h f).links = d.links := rfl
@[simp] theorem modEngine_adapters : (modEngine d h f).adapters = d.adapters := rfl
@[simp] theorem modEngine_drive : (modEngine d h f).drive = d.drive := rfl
@[simp] theorem modEngine_cams : (modEngine d h f).cams = d.cams := rfl
@[simp] theorem modEngine_loop : (modEngine d h f).loop = d.loop := rfl
@[simp] theorem modEngine_cz : (modEngine d h f).cz = d.cz := rfl
@[simp] theorem modEngine_crcs : (modEngine d h f).crcs = d.crcs := rfl
@[simp] theorem modEngine_dram : (modEngine d h f).dram = d.dram := rfl
@[simp] theorem modEngine_lanes : (modEngine d h f).lanes = d.lanes := rfl
@[simp] theorem modEngine_fabric : (modEngine d h f).fabric = d.fabric := rfl
@[simp] theorem modEngine_red : (modEngine d h f).red = d.red := rfl
@[simp] theorem modEngine_pwr : (modEngine d h f).pwr = d.pwr := rfl
@[simp] theorem modEngine_therm : (modEngine d h f).therm = d.therm := rfl
@[simp] theorem modEngine_prs : (modEngine d h f).prs = d.prs := rfl
@[simp] theorem modEngine_nv : (modEngine d h f).nv = d.nv := rfl
@[simp] theorem modEngine_sz : (modEngine d h f).sz = d.sz := rfl
end

section
variable (d : Device) (p : Port) (f : Cam → Cam)
@[simp] theorem modCam_chip : (modCam d p f).chip = d.chip := rfl
@[simp] theorem modCam_mbx : (modCam d p f).mbx = d.mbx := rfl
@[simp] theorem modCam_vlog : (modCam d p f).vlog = d.vlog := rfl
@[simp] theorem modCam_acct : (modCam d p f).acct = d.acct := rfl
@[simp] theorem modCam_jobs : (modCam d p f).jobs = d.jobs := rfl
@[simp] theorem modCam_feed : (modCam d p f).feed = d.feed := rfl
@[simp] theorem modCam_banks : (modCam d p f).banks = d.banks := rfl
@[simp] theorem modCam_engines : (modCam d p f).engines = d.engines := rfl
@[simp] theorem modCam_pos : (modCam d p f).pos = d.pos := rfl
@[simp] theorem modCam_sheet : (modCam d p f).sheet = d.sheet := rfl
@[simp] theorem modCam_fire : (modCam d p f).fire = d.fire := rfl
@[simp] theorem modCam_links : (modCam d p f).links = d.links := rfl
@[simp] theorem modCam_adapters : (modCam d p f).adapters = d.adapters := rfl
@[simp] theorem modCam_drive : (modCam d p f).drive = d.drive := rfl
@[simp] theorem modCam_cams : (modCam d p f).cams = { d.cams with ports := upd d.cams.ports p f } := rfl
@[simp] theorem modCam_loop : (modCam d p f).loop = d.loop := rfl
@[simp] theorem modCam_cz : (modCam d p f).cz = d.cz := rfl
@[simp] theorem modCam_crcs : (modCam d p f).crcs = d.crcs := rfl
@[simp] theorem modCam_dram : (modCam d p f).dram = d.dram := rfl
@[simp] theorem modCam_lanes : (modCam d p f).lanes = d.lanes := rfl
@[simp] theorem modCam_fabric : (modCam d p f).fabric = d.fabric := rfl
@[simp] theorem modCam_red : (modCam d p f).red = d.red := rfl
@[simp] theorem modCam_pwr : (modCam d p f).pwr = d.pwr := rfl
@[simp] theorem modCam_therm : (modCam d p f).therm = d.therm := rfl
@[simp] theorem modCam_prs : (modCam d p f).prs = d.prs := rfl
@[simp] theorem modCam_nv : (modCam d p f).nv = d.nv := rfl
@[simp] theorem modCam_sz : (modCam d p f).sz = d.sz := rfl
end

section
variable (d : Device) (p : Port) (f : FPort → FPort)
@[simp] theorem modPort_chip : (modPort d p f).chip = d.chip := rfl
@[simp] theorem modPort_mbx : (modPort d p f).mbx = d.mbx := rfl
@[simp] theorem modPort_vlog : (modPort d p f).vlog = d.vlog := rfl
@[simp] theorem modPort_acct : (modPort d p f).acct = d.acct := rfl
@[simp] theorem modPort_jobs : (modPort d p f).jobs = d.jobs := rfl
@[simp] theorem modPort_feed : (modPort d p f).feed = d.feed := rfl
@[simp] theorem modPort_banks : (modPort d p f).banks = d.banks := rfl
@[simp] theorem modPort_engines : (modPort d p f).engines = d.engines := rfl
@[simp] theorem modPort_pos : (modPort d p f).pos = d.pos := rfl
@[simp] theorem modPort_sheet : (modPort d p f).sheet = d.sheet := rfl
@[simp] theorem modPort_fire : (modPort d p f).fire = d.fire := rfl
@[simp] theorem modPort_links : (modPort d p f).links = d.links := rfl
@[simp] theorem modPort_adapters : (modPort d p f).adapters = d.adapters := rfl
@[simp] theorem modPort_drive : (modPort d p f).drive = d.drive := rfl
@[simp] theorem modPort_cams : (modPort d p f).cams = d.cams := rfl
@[simp] theorem modPort_loop : (modPort d p f).loop = d.loop := rfl
@[simp] theorem modPort_cz : (modPort d p f).cz = d.cz := rfl
@[simp] theorem modPort_crcs : (modPort d p f).crcs = d.crcs := rfl
@[simp] theorem modPort_dram : (modPort d p f).dram = d.dram := rfl
@[simp] theorem modPort_lanes : (modPort d p f).lanes = d.lanes := rfl
@[simp] theorem modPort_fabric : (modPort d p f).fabric = { d.fabric with ports := upd d.fabric.ports p f } := rfl
@[simp] theorem modPort_red : (modPort d p f).red = d.red := rfl
@[simp] theorem modPort_pwr : (modPort d p f).pwr = d.pwr := rfl
@[simp] theorem modPort_therm : (modPort d p f).therm = d.therm := rfl
@[simp] theorem modPort_prs : (modPort d p f).prs = d.prs := rfl
@[simp] theorem modPort_nv : (modPort d p f).nv = d.nv := rfl
@[simp] theorem modPort_sz : (modPort d p f).sz = d.sz := rfl
end

section
variable (d : Device) (l : LaneId) (f : Lane → Lane)
@[simp] theorem modLane_chip : (modLane d l f).chip = d.chip := rfl
@[simp] theorem modLane_mbx : (modLane d l f).mbx = d.mbx := rfl
@[simp] theorem modLane_vlog : (modLane d l f).vlog = d.vlog := rfl
@[simp] theorem modLane_acct : (modLane d l f).acct = d.acct := rfl
@[simp] theorem modLane_jobs : (modLane d l f).jobs = d.jobs := rfl
@[simp] theorem modLane_feed : (modLane d l f).feed = d.feed := rfl
@[simp] theorem modLane_banks : (modLane d l f).banks = d.banks := rfl
@[simp] theorem modLane_engines : (modLane d l f).engines = d.engines := rfl
@[simp] theorem modLane_pos : (modLane d l f).pos = d.pos := rfl
@[simp] theorem modLane_sheet : (modLane d l f).sheet = d.sheet := rfl
@[simp] theorem modLane_fire : (modLane d l f).fire = d.fire := rfl
@[simp] theorem modLane_links : (modLane d l f).links = d.links := rfl
@[simp] theorem modLane_adapters : (modLane d l f).adapters = d.adapters := rfl
@[simp] theorem modLane_drive : (modLane d l f).drive = d.drive := rfl
@[simp] theorem modLane_cams : (modLane d l f).cams = d.cams := rfl
@[simp] theorem modLane_loop : (modLane d l f).loop = d.loop := rfl
@[simp] theorem modLane_cz : (modLane d l f).cz = d.cz := rfl
@[simp] theorem modLane_crcs : (modLane d l f).crcs = d.crcs := rfl
@[simp] theorem modLane_dram : (modLane d l f).dram = d.dram := rfl
@[simp] theorem modLane_lanes : (modLane d l f).lanes = upd d.lanes (lanePos l) f := rfl
@[simp] theorem modLane_fabric : (modLane d l f).fabric = d.fabric := rfl
@[simp] theorem modLane_red : (modLane d l f).red = d.red := rfl
@[simp] theorem modLane_pwr : (modLane d l f).pwr = d.pwr := rfl
@[simp] theorem modLane_therm : (modLane d l f).therm = d.therm := rfl
@[simp] theorem modLane_prs : (modLane d l f).prs = d.prs := rfl
@[simp] theorem modLane_nv : (modLane d l f).nv = d.nv := rfl
@[simp] theorem modLane_sz : (modLane d l f).sz = d.sz := rfl
end

section
variable (d : Device) (g : Group) (f : DacGroup → DacGroup)
@[simp] theorem modGroup_chip : (modGroup d g f).chip = d.chip := rfl
@[simp] theorem modGroup_mbx : (modGroup d g f).mbx = d.mbx := rfl
@[simp] theorem modGroup_vlog : (modGroup d g f).vlog = d.vlog := rfl
@[simp] theorem modGroup_acct : (modGroup d g f).acct = d.acct := rfl
@[simp] theorem modGroup_jobs : (modGroup d g f).jobs = d.jobs := rfl
@[simp] theorem modGroup_feed : (modGroup d g f).feed = d.feed := rfl
@[simp] theorem modGroup_banks : (modGroup d g f).banks = d.banks := rfl
@[simp] theorem modGroup_engines : (modGroup d g f).engines = d.engines := rfl
@[simp] theorem modGroup_pos : (modGroup d g f).pos = d.pos := rfl
@[simp] theorem modGroup_sheet : (modGroup d g f).sheet = d.sheet := rfl
@[simp] theorem modGroup_fire : (modGroup d g f).fire = d.fire := rfl
@[simp] theorem modGroup_links : (modGroup d g f).links = d.links := rfl
@[simp] theorem modGroup_adapters : (modGroup d g f).adapters = d.adapters := rfl
@[simp] theorem modGroup_drive : (modGroup d g f).drive = { d.drive with groups := upd d.drive.groups g f } := rfl
@[simp] theorem modGroup_cams : (modGroup d g f).cams = d.cams := rfl
@[simp] theorem modGroup_loop : (modGroup d g f).loop = d.loop := rfl
@[simp] theorem modGroup_cz : (modGroup d g f).cz = d.cz := rfl
@[simp] theorem modGroup_crcs : (modGroup d g f).crcs = d.crcs := rfl
@[simp] theorem modGroup_dram : (modGroup d g f).dram = d.dram := rfl
@[simp] theorem modGroup_lanes : (modGroup d g f).lanes = d.lanes := rfl
@[simp] theorem modGroup_fabric : (modGroup d g f).fabric = d.fabric := rfl
@[simp] theorem modGroup_red : (modGroup d g f).red = d.red := rfl
@[simp] theorem modGroup_pwr : (modGroup d g f).pwr = d.pwr := rfl
@[simp] theorem modGroup_therm : (modGroup d g f).therm = d.therm := rfl
@[simp] theorem modGroup_prs : (modGroup d g f).prs = d.prs := rfl
@[simp] theorem modGroup_nv : (modGroup d g f).nv = d.nv := rfl
@[simp] theorem modGroup_sz : (modGroup d g f).sz = d.sz := rfl
end

section
variable (d : Device) (h : Head) (f : HeadDrive → HeadDrive)
@[simp] theorem modDrive_chip : (modDrive d h f).chip = d.chip := rfl
@[simp] theorem modDrive_mbx : (modDrive d h f).mbx = d.mbx := rfl
@[simp] theorem modDrive_vlog : (modDrive d h f).vlog = d.vlog := rfl
@[simp] theorem modDrive_acct : (modDrive d h f).acct = d.acct := rfl
@[simp] theorem modDrive_jobs : (modDrive d h f).jobs = d.jobs := rfl
@[simp] theorem modDrive_feed : (modDrive d h f).feed = d.feed := rfl
@[simp] theorem modDrive_banks : (modDrive d h f).banks = d.banks := rfl
@[simp] theorem modDrive_engines : (modDrive d h f).engines = d.engines := rfl
@[simp] theorem modDrive_pos : (modDrive d h f).pos = d.pos := rfl
@[simp] theorem modDrive_sheet : (modDrive d h f).sheet = d.sheet := rfl
@[simp] theorem modDrive_fire : (modDrive d h f).fire = d.fire := rfl
@[simp] theorem modDrive_links : (modDrive d h f).links = d.links := rfl
@[simp] theorem modDrive_adapters : (modDrive d h f).adapters = d.adapters := rfl
@[simp] theorem modDrive_drive : (modDrive d h f).drive = { d.drive with heads := upd d.drive.heads h f } := rfl
@[simp] theorem modDrive_cams : (modDrive d h f).cams = d.cams := rfl
@[simp] theorem modDrive_loop : (modDrive d h f).loop = d.loop := rfl
@[simp] theorem modDrive_cz : (modDrive d h f).cz = d.cz := rfl
@[simp] theorem modDrive_crcs : (modDrive d h f).crcs = d.crcs := rfl
@[simp] theorem modDrive_dram : (modDrive d h f).dram = d.dram := rfl
@[simp] theorem modDrive_lanes : (modDrive d h f).lanes = d.lanes := rfl
@[simp] theorem modDrive_fabric : (modDrive d h f).fabric = d.fabric := rfl
@[simp] theorem modDrive_red : (modDrive d h f).red = d.red := rfl
@[simp] theorem modDrive_pwr : (modDrive d h f).pwr = d.pwr := rfl
@[simp] theorem modDrive_therm : (modDrive d h f).therm = d.therm := rfl
@[simp] theorem modDrive_prs : (modDrive d h f).prs = d.prs := rfl
@[simp] theorem modDrive_nv : (modDrive d h f).nv = d.nv := rfl
@[simp] theorem modDrive_sz : (modDrive d h f).sz = d.sz := rfl
end

section
variable (d : Device) (k : Supply) (f : SupState → SupState)
@[simp] theorem modSup_chip : (modSup d k f).chip = d.chip := rfl
@[simp] theorem modSup_mbx : (modSup d k f).mbx = d.mbx := rfl
@[simp] theorem modSup_vlog : (modSup d k f).vlog = d.vlog := rfl
@[simp] theorem modSup_acct : (modSup d k f).acct = d.acct := rfl
@[simp] theorem modSup_jobs : (modSup d k f).jobs = d.jobs := rfl
@[simp] theorem modSup_feed : (modSup d k f).feed = d.feed := rfl
@[simp] theorem modSup_banks : (modSup d k f).banks = d.banks := rfl
@[simp] theorem modSup_engines : (modSup d k f).engines = d.engines := rfl
@[simp] theorem modSup_pos : (modSup d k f).pos = d.pos := rfl
@[simp] theorem modSup_sheet : (modSup d k f).sheet = d.sheet := rfl
@[simp] theorem modSup_fire : (modSup d k f).fire = d.fire := rfl
@[simp] theorem modSup_links : (modSup d k f).links = d.links := rfl
@[simp] theorem modSup_adapters : (modSup d k f).adapters = d.adapters := rfl
@[simp] theorem modSup_drive : (modSup d k f).drive = { d.drive with sup := upd d.drive.sup k f } := rfl
@[simp] theorem modSup_cams : (modSup d k f).cams = d.cams := rfl
@[simp] theorem modSup_loop : (modSup d k f).loop = d.loop := rfl
@[simp] theorem modSup_cz : (modSup d k f).cz = d.cz := rfl
@[simp] theorem modSup_crcs : (modSup d k f).crcs = d.crcs := rfl
@[simp] theorem modSup_dram : (modSup d k f).dram = d.dram := rfl
@[simp] theorem modSup_lanes : (modSup d k f).lanes = d.lanes := rfl
@[simp] theorem modSup_fabric : (modSup d k f).fabric = d.fabric := rfl
@[simp] theorem modSup_red : (modSup d k f).red = d.red := rfl
@[simp] theorem modSup_pwr : (modSup d k f).pwr = d.pwr := rfl
@[simp] theorem modSup_therm : (modSup d k f).therm = d.therm := rfl
@[simp] theorem modSup_prs : (modSup d k f).prs = d.prs := rfl
@[simp] theorem modSup_nv : (modSup d k f).nv = d.nv := rfl
@[simp] theorem modSup_sz : (modSup d k f).sz = d.sz := rfl
end

section
variable (d : Device) (t : Tbl) (f : Bank → Bank)
@[simp] theorem modBank_chip : (modBank d t f).chip = d.chip := rfl
@[simp] theorem modBank_mbx : (modBank d t f).mbx = d.mbx := rfl
@[simp] theorem modBank_vlog : (modBank d t f).vlog = d.vlog := rfl
@[simp] theorem modBank_acct : (modBank d t f).acct = d.acct := rfl
@[simp] theorem modBank_jobs : (modBank d t f).jobs = d.jobs := rfl
@[simp] theorem modBank_feed : (modBank d t f).feed = d.feed := rfl
@[simp] theorem modBank_banks : (modBank d t f).banks = { d.banks with tbl := upd d.banks.tbl (tblFin t) f } := rfl
@[simp] theorem modBank_engines : (modBank d t f).engines = d.engines := rfl
@[simp] theorem modBank_pos : (modBank d t f).pos = d.pos := rfl
@[simp] theorem modBank_sheet : (modBank d t f).sheet = d.sheet := rfl
@[simp] theorem modBank_fire : (modBank d t f).fire = d.fire := rfl
@[simp] theorem modBank_links : (modBank d t f).links = d.links := rfl
@[simp] theorem modBank_adapters : (modBank d t f).adapters = d.adapters := rfl
@[simp] theorem modBank_drive : (modBank d t f).drive = d.drive := rfl
@[simp] theorem modBank_cams : (modBank d t f).cams = d.cams := rfl
@[simp] theorem modBank_loop : (modBank d t f).loop = d.loop := rfl
@[simp] theorem modBank_cz : (modBank d t f).cz = d.cz := rfl
@[simp] theorem modBank_crcs : (modBank d t f).crcs = d.crcs := rfl
@[simp] theorem modBank_dram : (modBank d t f).dram = d.dram := rfl
@[simp] theorem modBank_lanes : (modBank d t f).lanes = d.lanes := rfl
@[simp] theorem modBank_fabric : (modBank d t f).fabric = d.fabric := rfl
@[simp] theorem modBank_red : (modBank d t f).red = d.red := rfl
@[simp] theorem modBank_pwr : (modBank d t f).pwr = d.pwr := rfl
@[simp] theorem modBank_therm : (modBank d t f).therm = d.therm := rfl
@[simp] theorem modBank_prs : (modBank d t f).prs = d.prs := rfl
@[simp] theorem modBank_nv : (modBank d t f).nv = d.nv := rfl
@[simp] theorem modBank_sz : (modBank d t f).sz = d.sz := rfl
end

section
variable (d : Device) (p : Plane) (f : Ring → Ring)
@[simp] theorem modRing_chip : (modRing d p f).chip = d.chip := rfl
@[simp] theorem modRing_mbx : (modRing d p f).mbx = d.mbx := rfl
@[simp] theorem modRing_vlog : (modRing d p f).vlog = d.vlog := rfl
@[simp] theorem modRing_acct : (modRing d p f).acct = d.acct := rfl
@[simp] theorem modRing_jobs : (modRing d p f).jobs = d.jobs := rfl
@[simp] theorem modRing_feed : (modRing d p f).feed = { d.feed with rings := upd d.feed.rings p f } := rfl
@[simp] theorem modRing_banks : (modRing d p f).banks = d.banks := rfl
@[simp] theorem modRing_engines : (modRing d p f).engines = d.engines := rfl
@[simp] theorem modRing_pos : (modRing d p f).pos = d.pos := rfl
@[simp] theorem modRing_sheet : (modRing d p f).sheet = d.sheet := rfl
@[simp] theorem modRing_fire : (modRing d p f).fire = d.fire := rfl
@[simp] theorem modRing_links : (modRing d p f).links = d.links := rfl
@[simp] theorem modRing_adapters : (modRing d p f).adapters = d.adapters := rfl
@[simp] theorem modRing_drive : (modRing d p f).drive = d.drive := rfl
@[simp] theorem modRing_cams : (modRing d p f).cams = d.cams := rfl
@[simp] theorem modRing_loop : (modRing d p f).loop = d.loop := rfl
@[simp] theorem modRing_cz : (modRing d p f).cz = d.cz := rfl
@[simp] theorem modRing_crcs : (modRing d p f).crcs = d.crcs := rfl
@[simp] theorem modRing_dram : (modRing d p f).dram = d.dram := rfl
@[simp] theorem modRing_lanes : (modRing d p f).lanes = d.lanes := rfl
@[simp] theorem modRing_fabric : (modRing d p f).fabric = d.fabric := rfl
@[simp] theorem modRing_red : (modRing d p f).red = d.red := rfl
@[simp] theorem modRing_pwr : (modRing d p f).pwr = d.pwr := rfl
@[simp] theorem modRing_therm : (modRing d p f).therm = d.therm := rfl
@[simp] theorem modRing_prs : (modRing d p f).prs = d.prs := rfl
@[simp] theorem modRing_nv : (modRing d p f).nv = d.nv := rfl
@[simp] theorem modRing_sz : (modRing d p f).sz = d.sz := rfl
end

section
variable (d : Device) (k : Plane) (f : Colour → Colour)
@[simp] theorem modColour_chip : (modColour d k f).chip = d.chip := rfl
@[simp] theorem modColour_mbx : (modColour d k f).mbx = d.mbx := rfl
@[simp] theorem modColour_vlog : (modColour d k f).vlog = d.vlog := rfl
@[simp] theorem modColour_acct : (modColour d k f).acct = d.acct := rfl
@[simp] theorem modColour_jobs : (modColour d k f).jobs = d.jobs := rfl
@[simp] theorem modColour_feed : (modColour d k f).feed = d.feed := rfl
@[simp] theorem modColour_banks : (modColour d k f).banks = d.banks := rfl
@[simp] theorem modColour_engines : (modColour d k f).engines = d.engines := rfl
@[simp] theorem modColour_pos : (modColour d k f).pos = d.pos := rfl
@[simp] theorem modColour_sheet : (modColour d k f).sheet = d.sheet := rfl
@[simp] theorem modColour_fire : (modColour d k f).fire = d.fire := rfl
@[simp] theorem modColour_links : (modColour d k f).links = d.links := rfl
@[simp] theorem modColour_adapters : (modColour d k f).adapters = d.adapters := rfl
@[simp] theorem modColour_drive : (modColour d k f).drive = d.drive := rfl
@[simp] theorem modColour_cams : (modColour d k f).cams = d.cams := rfl
@[simp] theorem modColour_loop : (modColour d k f).loop = { d.loop with colours := upd d.loop.colours k f } := rfl
@[simp] theorem modColour_cz : (modColour d k f).cz = d.cz := rfl
@[simp] theorem modColour_crcs : (modColour d k f).crcs = d.crcs := rfl
@[simp] theorem modColour_dram : (modColour d k f).dram = d.dram := rfl
@[simp] theorem modColour_lanes : (modColour d k f).lanes = d.lanes := rfl
@[simp] theorem modColour_fabric : (modColour d k f).fabric = d.fabric := rfl
@[simp] theorem modColour_red : (modColour d k f).red = d.red := rfl
@[simp] theorem modColour_pwr : (modColour d k f).pwr = d.pwr := rfl
@[simp] theorem modColour_therm : (modColour d k f).therm = d.therm := rfl
@[simp] theorem modColour_prs : (modColour d k f).prs = d.prs := rfl
@[simp] theorem modColour_nv : (modColour d k f).nv = d.nv := rfl
@[simp] theorem modColour_sz : (modColour d k f).sz = d.sz := rfl
end

section
variable (d : Device) (k : Plane) (f : Owner → Owner)
@[simp] theorem modOwner_chip : (modOwner d k f).chip = d.chip := rfl
@[simp] theorem modOwner_mbx : (modOwner d k f).mbx = d.mbx := rfl
@[simp] theorem modOwner_vlog : (modOwner d k f).vlog = d.vlog := rfl
@[simp] theorem modOwner_acct : (modOwner d k f).acct = d.acct := rfl
@[simp] theorem modOwner_jobs : (modOwner d k f).jobs = d.jobs := rfl
@[simp] theorem modOwner_feed : (modOwner d k f).feed = d.feed := rfl
@[simp] theorem modOwner_banks : (modOwner d k f).banks = d.banks := rfl
@[simp] theorem modOwner_engines : (modOwner d k f).engines = d.engines := rfl
@[simp] theorem modOwner_pos : (modOwner d k f).pos = d.pos := rfl
@[simp] theorem modOwner_sheet : (modOwner d k f).sheet = d.sheet := rfl
@[simp] theorem modOwner_fire : (modOwner d k f).fire = d.fire := rfl
@[simp] theorem modOwner_links : (modOwner d k f).links = d.links := rfl
@[simp] theorem modOwner_adapters : (modOwner d k f).adapters = d.adapters := rfl
@[simp] theorem modOwner_drive : (modOwner d k f).drive = d.drive := rfl
@[simp] theorem modOwner_cams : (modOwner d k f).cams = d.cams := rfl
@[simp] theorem modOwner_loop : (modOwner d k f).loop = { d.loop with owner := upd d.loop.owner k f } := rfl
@[simp] theorem modOwner_cz : (modOwner d k f).cz = d.cz := rfl
@[simp] theorem modOwner_crcs : (modOwner d k f).crcs = d.crcs := rfl
@[simp] theorem modOwner_dram : (modOwner d k f).dram = d.dram := rfl
@[simp] theorem modOwner_lanes : (modOwner d k f).lanes = d.lanes := rfl
@[simp] theorem modOwner_fabric : (modOwner d k f).fabric = d.fabric := rfl
@[simp] theorem modOwner_red : (modOwner d k f).red = d.red := rfl
@[simp] theorem modOwner_pwr : (modOwner d k f).pwr = d.pwr := rfl
@[simp] theorem modOwner_therm : (modOwner d k f).therm = d.therm := rfl
@[simp] theorem modOwner_prs : (modOwner d k f).prs = d.prs := rfl
@[simp] theorem modOwner_nv : (modOwner d k f).nv = d.nv := rfl
@[simp] theorem modOwner_sz : (modOwner d k f).sz = d.sz := rfl
end

section
variable (d : Device) (u : Fin 8) (f : CrcUnit → CrcUnit)
@[simp] theorem modCrc_chip : (modCrc d u f).chip = d.chip := rfl
@[simp] theorem modCrc_mbx : (modCrc d u f).mbx = d.mbx := rfl
@[simp] theorem modCrc_vlog : (modCrc d u f).vlog = d.vlog := rfl
@[simp] theorem modCrc_acct : (modCrc d u f).acct = d.acct := rfl
@[simp] theorem modCrc_jobs : (modCrc d u f).jobs = d.jobs := rfl
@[simp] theorem modCrc_feed : (modCrc d u f).feed = d.feed := rfl
@[simp] theorem modCrc_banks : (modCrc d u f).banks = d.banks := rfl
@[simp] theorem modCrc_engines : (modCrc d u f).engines = d.engines := rfl
@[simp] theorem modCrc_pos : (modCrc d u f).pos = d.pos := rfl
@[simp] theorem modCrc_sheet : (modCrc d u f).sheet = d.sheet := rfl
@[simp] theorem modCrc_fire : (modCrc d u f).fire = d.fire := rfl
@[simp] theorem modCrc_links : (modCrc d u f).links = d.links := rfl
@[simp] theorem modCrc_adapters : (modCrc d u f).adapters = d.adapters := rfl
@[simp] theorem modCrc_drive : (modCrc d u f).drive = d.drive := rfl
@[simp] theorem modCrc_cams : (modCrc d u f).cams = d.cams := rfl
@[simp] theorem modCrc_loop : (modCrc d u f).loop = d.loop := rfl
@[simp] theorem modCrc_cz : (modCrc d u f).cz = d.cz := rfl
@[simp] theorem modCrc_crcs : (modCrc d u f).crcs = upd d.crcs u f := rfl
@[simp] theorem modCrc_dram : (modCrc d u f).dram = d.dram := rfl
@[simp] theorem modCrc_lanes : (modCrc d u f).lanes = d.lanes := rfl
@[simp] theorem modCrc_fabric : (modCrc d u f).fabric = d.fabric := rfl
@[simp] theorem modCrc_red : (modCrc d u f).red = d.red := rfl
@[simp] theorem modCrc_pwr : (modCrc d u f).pwr = d.pwr := rfl
@[simp] theorem modCrc_therm : (modCrc d u f).therm = d.therm := rfl
@[simp] theorem modCrc_prs : (modCrc d u f).prs = d.prs := rfl
@[simp] theorem modCrc_nv : (modCrc d u f).nv = d.nv := rfl
@[simp] theorem modCrc_sz : (modCrc d u f).sz = d.sz := rfl
end

section
variable (d : Device) (f : Diag → Diag)
@[simp] theorem modDiag_chip : (modDiag d f).chip = d.chip := rfl
@[simp] theorem modDiag_mbx : (modDiag d f).mbx = d.mbx := rfl
@[simp] theorem modDiag_vlog : (modDiag d f).vlog = { d.vlog with diag := f d.vlog.diag } := rfl
@[simp] theorem modDiag_acct : (modDiag d f).acct = d.acct := rfl
@[simp] theorem modDiag_jobs : (modDiag d f).jobs = d.jobs := rfl
@[simp] theorem modDiag_feed : (modDiag d f).feed = d.feed := rfl
@[simp] theorem modDiag_banks : (modDiag d f).banks = d.banks := rfl
@[simp] theorem modDiag_engines : (modDiag d f).engines = d.engines := rfl
@[simp] theorem modDiag_pos : (modDiag d f).pos = d.pos := rfl
@[simp] theorem modDiag_sheet : (modDiag d f).sheet = d.sheet := rfl
@[simp] theorem modDiag_fire : (modDiag d f).fire = d.fire := rfl
@[simp] theorem modDiag_links : (modDiag d f).links = d.links := rfl
@[simp] theorem modDiag_adapters : (modDiag d f).adapters = d.adapters := rfl
@[simp] theorem modDiag_drive : (modDiag d f).drive = d.drive := rfl
@[simp] theorem modDiag_cams : (modDiag d f).cams = d.cams := rfl
@[simp] theorem modDiag_loop : (modDiag d f).loop = d.loop := rfl
@[simp] theorem modDiag_cz : (modDiag d f).cz = d.cz := rfl
@[simp] theorem modDiag_crcs : (modDiag d f).crcs = d.crcs := rfl
@[simp] theorem modDiag_dram : (modDiag d f).dram = d.dram := rfl
@[simp] theorem modDiag_lanes : (modDiag d f).lanes = d.lanes := rfl
@[simp] theorem modDiag_fabric : (modDiag d f).fabric = d.fabric := rfl
@[simp] theorem modDiag_red : (modDiag d f).red = d.red := rfl
@[simp] theorem modDiag_pwr : (modDiag d f).pwr = d.pwr := rfl
@[simp] theorem modDiag_therm : (modDiag d f).therm = d.therm := rfl
@[simp] theorem modDiag_prs : (modDiag d f).prs = d.prs := rfl
@[simp] theorem modDiag_nv : (modDiag d f).nv = d.nv := rfl
@[simp] theorem modDiag_sz : (modDiag d f).sz = d.sz := rfl
end

section
variable (d : Device) (f : Mbx → Mbx)
@[simp] theorem modMbx_chip : (modMbx d f).chip = d.chip := rfl
@[simp] theorem modMbx_mbx : (modMbx d f).mbx = f d.mbx := rfl
@[simp] theorem modMbx_vlog : (modMbx d f).vlog = d.vlog := rfl
@[simp] theorem modMbx_acct : (modMbx d f).acct = d.acct := rfl
@[simp] theorem modMbx_jobs : (modMbx d f).jobs = d.jobs := rfl
@[simp] theorem modMbx_feed : (modMbx d f).feed = d.feed := rfl
@[simp] theorem modMbx_banks : (modMbx d f).banks = d.banks := rfl
@[simp] theorem modMbx_engines : (modMbx d f).engines = d.engines := rfl
@[simp] theorem modMbx_pos : (modMbx d f).pos = d.pos := rfl
@[simp] theorem modMbx_sheet : (modMbx d f).sheet = d.sheet := rfl
@[simp] theorem modMbx_fire : (modMbx d f).fire = d.fire := rfl
@[simp] theorem modMbx_links : (modMbx d f).links = d.links := rfl
@[simp] theorem modMbx_adapters : (modMbx d f).adapters = d.adapters := rfl
@[simp] theorem modMbx_drive : (modMbx d f).drive = d.drive := rfl
@[simp] theorem modMbx_cams : (modMbx d f).cams = d.cams := rfl
@[simp] theorem modMbx_loop : (modMbx d f).loop = d.loop := rfl
@[simp] theorem modMbx_cz : (modMbx d f).cz = d.cz := rfl
@[simp] theorem modMbx_crcs : (modMbx d f).crcs = d.crcs := rfl
@[simp] theorem modMbx_dram : (modMbx d f).dram = d.dram := rfl
@[simp] theorem modMbx_lanes : (modMbx d f).lanes = d.lanes := rfl
@[simp] theorem modMbx_fabric : (modMbx d f).fabric = d.fabric := rfl
@[simp] theorem modMbx_red : (modMbx d f).red = d.red := rfl
@[simp] theorem modMbx_pwr : (modMbx d f).pwr = d.pwr := rfl
@[simp] theorem modMbx_therm : (modMbx d f).therm = d.therm := rfl
@[simp] theorem modMbx_prs : (modMbx d f).prs = d.prs := rfl
@[simp] theorem modMbx_nv : (modMbx d f).nv = d.nv := rfl
@[simp] theorem modMbx_sz : (modMbx d f).sz = d.sz := rfl
end

section
variable (d : Device) (f : Fabric → Fabric)
@[simp] theorem modFabric_chip : (modFabric d f).chip = d.chip := rfl
@[simp] theorem modFabric_mbx : (modFabric d f).mbx = d.mbx := rfl
@[simp] theorem modFabric_vlog : (modFabric d f).vlog = d.vlog := rfl
@[simp] theorem modFabric_acct : (modFabric d f).acct = d.acct := rfl
@[simp] theorem modFabric_jobs : (modFabric d f).jobs = d.jobs := rfl
@[simp] theorem modFabric_feed : (modFabric d f).feed = d.feed := rfl
@[simp] theorem modFabric_banks : (modFabric d f).banks = d.banks := rfl
@[simp] theorem modFabric_engines : (modFabric d f).engines = d.engines := rfl
@[simp] theorem modFabric_pos : (modFabric d f).pos = d.pos := rfl
@[simp] theorem modFabric_sheet : (modFabric d f).sheet = d.sheet := rfl
@[simp] theorem modFabric_fire : (modFabric d f).fire = d.fire := rfl
@[simp] theorem modFabric_links : (modFabric d f).links = d.links := rfl
@[simp] theorem modFabric_adapters : (modFabric d f).adapters = d.adapters := rfl
@[simp] theorem modFabric_drive : (modFabric d f).drive = d.drive := rfl
@[simp] theorem modFabric_cams : (modFabric d f).cams = d.cams := rfl
@[simp] theorem modFabric_loop : (modFabric d f).loop = d.loop := rfl
@[simp] theorem modFabric_cz : (modFabric d f).cz = d.cz := rfl
@[simp] theorem modFabric_crcs : (modFabric d f).crcs = d.crcs := rfl
@[simp] theorem modFabric_dram : (modFabric d f).dram = d.dram := rfl
@[simp] theorem modFabric_lanes : (modFabric d f).lanes = d.lanes := rfl
@[simp] theorem modFabric_fabric : (modFabric d f).fabric = f d.fabric := rfl
@[simp] theorem modFabric_red : (modFabric d f).red = d.red := rfl
@[simp] theorem modFabric_pwr : (modFabric d f).pwr = d.pwr := rfl
@[simp] theorem modFabric_therm : (modFabric d f).therm = d.therm := rfl
@[simp] theorem modFabric_prs : (modFabric d f).prs = d.prs := rfl
@[simp] theorem modFabric_nv : (modFabric d f).nv = d.nv := rfl
@[simp] theorem modFabric_sz : (modFabric d f).sz = d.sz := rfl
end

section
variable (d : Device) (f : Red → Red)
@[simp] theorem modRed_chip : (modRed d f).chip = d.chip := rfl
@[simp] theorem modRed_mbx : (modRed d f).mbx = d.mbx := rfl
@[simp] theorem modRed_vlog : (modRed d f).vlog = d.vlog := rfl
@[simp] theorem modRed_acct : (modRed d f).acct = d.acct := rfl
@[simp] theorem modRed_jobs : (modRed d f).jobs = d.jobs := rfl
@[simp] theorem modRed_feed : (modRed d f).feed = d.feed := rfl
@[simp] theorem modRed_banks : (modRed d f).banks = d.banks := rfl
@[simp] theorem modRed_engines : (modRed d f).engines = d.engines := rfl
@[simp] theorem modRed_pos : (modRed d f).pos = d.pos := rfl
@[simp] theorem modRed_sheet : (modRed d f).sheet = d.sheet := rfl
@[simp] theorem modRed_fire : (modRed d f).fire = d.fire := rfl
@[simp] theorem modRed_links : (modRed d f).links = d.links := rfl
@[simp] theorem modRed_adapters : (modRed d f).adapters = d.adapters := rfl
@[simp] theorem modRed_drive : (modRed d f).drive = d.drive := rfl
@[simp] theorem modRed_cams : (modRed d f).cams = d.cams := rfl
@[simp] theorem modRed_loop : (modRed d f).loop = d.loop := rfl
@[simp] theorem modRed_cz : (modRed d f).cz = d.cz := rfl
@[simp] theorem modRed_crcs : (modRed d f).crcs = d.crcs := rfl
@[simp] theorem modRed_dram : (modRed d f).dram = d.dram := rfl
@[simp] theorem modRed_lanes : (modRed d f).lanes = d.lanes := rfl
@[simp] theorem modRed_fabric : (modRed d f).fabric = d.fabric := rfl
@[simp] theorem modRed_red : (modRed d f).red = f d.red := rfl
@[simp] theorem modRed_pwr : (modRed d f).pwr = d.pwr := rfl
@[simp] theorem modRed_therm : (modRed d f).therm = d.therm := rfl
@[simp] theorem modRed_prs : (modRed d f).prs = d.prs := rfl
@[simp] theorem modRed_nv : (modRed d f).nv = d.nv := rfl
@[simp] theorem modRed_sz : (modRed d f).sz = d.sz := rfl
end

section
variable (d : Device) (f : Dram → Dram)
@[simp] theorem modDram_chip : (modDram d f).chip = d.chip := rfl
@[simp] theorem modDram_mbx : (modDram d f).mbx = d.mbx := rfl
@[simp] theorem modDram_vlog : (modDram d f).vlog = d.vlog := rfl
@[simp] theorem modDram_acct : (modDram d f).acct = d.acct := rfl
@[simp] theorem modDram_jobs : (modDram d f).jobs = d.jobs := rfl
@[simp] theorem modDram_feed : (modDram d f).feed = d.feed := rfl
@[simp] theorem modDram_banks : (modDram d f).banks = d.banks := rfl
@[simp] theorem modDram_engines : (modDram d f).engines = d.engines := rfl
@[simp] theorem modDram_pos : (modDram d f).pos = d.pos := rfl
@[simp] theorem modDram_sheet : (modDram d f).sheet = d.sheet := rfl
@[simp] theorem modDram_fire : (modDram d f).fire = d.fire := rfl
@[simp] theorem modDram_links : (modDram d f).links = d.links := rfl
@[simp] theorem modDram_adapters : (modDram d f).adapters = d.adapters := rfl
@[simp] theorem modDram_drive : (modDram d f).drive = d.drive := rfl
@[simp] theorem modDram_cams : (modDram d f).cams = d.cams := rfl
@[simp] theorem modDram_loop : (modDram d f).loop = d.loop := rfl
@[simp] theorem modDram_cz : (modDram d f).cz = d.cz := rfl
@[simp] theorem modDram_crcs : (modDram d f).crcs = d.crcs := rfl
@[simp] theorem modDram_dram : (modDram d f).dram = f d.dram := rfl
@[simp] theorem modDram_lanes : (modDram d f).lanes = d.lanes := rfl
@[simp] theorem modDram_fabric : (modDram d f).fabric = d.fabric := rfl
@[simp] theorem modDram_red : (modDram d f).red = d.red := rfl
@[simp] theorem modDram_pwr : (modDram d f).pwr = d.pwr := rfl
@[simp] theorem modDram_therm : (modDram d f).therm = d.therm := rfl
@[simp] theorem modDram_prs : (modDram d f).prs = d.prs := rfl
@[simp] theorem modDram_nv : (modDram d f).nv = d.nv := rfl
@[simp] theorem modDram_sz : (modDram d f).sz = d.sz := rfl
end

section
variable (d : Device) (f : LiveSet → LiveSet)
@[simp] theorem countAll_chip : (countAll d f).chip = d.chip := rfl
@[simp] theorem countAll_mbx : (countAll d f).mbx = d.mbx := rfl
@[simp] theorem countAll_vlog : (countAll d f).vlog = d.vlog := rfl
@[simp] theorem countAll_acct : (countAll d f).acct = { d.acct with live := mapAll d.acct.live f } := rfl
@[simp] theorem countAll_jobs : (countAll d f).jobs = d.jobs := rfl
@[simp] theorem countAll_feed : (countAll d f).feed = d.feed := rfl
@[simp] theorem countAll_banks : (countAll d f).banks = d.banks := rfl
@[simp] theorem countAll_engines : (countAll d f).engines = d.engines := rfl
@[simp] theorem countAll_pos : (countAll d f).pos = d.pos := rfl
@[simp] theorem countAll_sheet : (countAll d f).sheet = d.sheet := rfl
@[simp] theorem countAll_fire : (countAll d f).fire = d.fire := rfl
@[simp] theorem countAll_links : (countAll d f).links = d.links := rfl
@[simp] theorem countAll_adapters : (countAll d f).adapters = d.adapters := rfl
@[simp] theorem countAll_drive : (countAll d f).drive = d.drive := rfl
@[simp] theorem countAll_cams : (countAll d f).cams = d.cams := rfl
@[simp] theorem countAll_loop : (countAll d f).loop = d.loop := rfl
@[simp] theorem countAll_cz : (countAll d f).cz = d.cz := rfl
@[simp] theorem countAll_crcs : (countAll d f).crcs = d.crcs := rfl
@[simp] theorem countAll_dram : (countAll d f).dram = d.dram := rfl
@[simp] theorem countAll_lanes : (countAll d f).lanes = d.lanes := rfl
@[simp] theorem countAll_fabric : (countAll d f).fabric = d.fabric := rfl
@[simp] theorem countAll_red : (countAll d f).red = d.red := rfl
@[simp] theorem countAll_pwr : (countAll d f).pwr = d.pwr := rfl
@[simp] theorem countAll_therm : (countAll d f).therm = d.therm := rfl
@[simp] theorem countAll_prs : (countAll d f).prs = d.prs := rfl
@[simp] theorem countAll_nv : (countAll d f).nv = d.nv := rfl
@[simp] theorem countAll_sz : (countAll d f).sz = d.sz := rfl
end

section
variable (d : Device) (bank : Fin 6) (low : Bool)
@[simp] theorem setBank_chip : (setBank bank low d).chip = { d.chip with vioLow := upd d.chip.vioLow bank (fun _ => low) } := rfl
@[simp] theorem setBank_mbx : (setBank bank low d).mbx = d.mbx := rfl
@[simp] theorem setBank_vlog : (setBank bank low d).vlog = d.vlog := rfl
@[simp] theorem setBank_acct : (setBank bank low d).acct = d.acct := rfl
@[simp] theorem setBank_jobs : (setBank bank low d).jobs = d.jobs := rfl
@[simp] theorem setBank_feed : (setBank bank low d).feed = d.feed := rfl
@[simp] theorem setBank_banks : (setBank bank low d).banks = d.banks := rfl
@[simp] theorem setBank_engines : (setBank bank low d).engines = d.engines := rfl
@[simp] theorem setBank_pos : (setBank bank low d).pos = d.pos := rfl
@[simp] theorem setBank_sheet : (setBank bank low d).sheet = d.sheet := rfl
@[simp] theorem setBank_fire : (setBank bank low d).fire = d.fire := rfl
@[simp] theorem setBank_links : (setBank bank low d).links = d.links := rfl
@[simp] theorem setBank_adapters : (setBank bank low d).adapters = d.adapters := rfl
@[simp] theorem setBank_drive : (setBank bank low d).drive = d.drive := rfl
@[simp] theorem setBank_cams : (setBank bank low d).cams = d.cams := rfl
@[simp] theorem setBank_loop : (setBank bank low d).loop = d.loop := rfl
@[simp] theorem setBank_cz : (setBank bank low d).cz = d.cz := rfl
@[simp] theorem setBank_crcs : (setBank bank low d).crcs = d.crcs := rfl
@[simp] theorem setBank_dram : (setBank bank low d).dram = d.dram := rfl
@[simp] theorem setBank_lanes : (setBank bank low d).lanes = d.lanes := rfl
@[simp] theorem setBank_fabric : (setBank bank low d).fabric = d.fabric := rfl
@[simp] theorem setBank_red : (setBank bank low d).red = d.red := rfl
@[simp] theorem setBank_pwr : (setBank bank low d).pwr = d.pwr := rfl
@[simp] theorem setBank_therm : (setBank bank low d).therm = d.therm := rfl
@[simp] theorem setBank_prs : (setBank bank low d).prs = d.prs := rfl
@[simp] theorem setBank_nv : (setBank bank low d).nv = d.nv := rfl
@[simp] theorem setBank_sz : (setBank bank low d).sz = d.sz := rfl
end

end Sys2Proof.Machine
end

