-- ==== Sys2Proof/WellFormed.lean ====
section
/-! DEFINITION. Checks on a command that its type does not make: lengths that agree with the bytes carried, and sizes the
interfaces bound. -/
namespace Sys2Proof

/-- The words a command carries are those that its LENGTH says, where LENGTH can be one (Table 14.2). -/
def Cmd.wf (c : Cmd) : Bool :=
  if 20 ≤ c.length.toNat ∧ c.length.toNat % 4 = 0 then c.length.toNat == 20 + 4 * c.args.length else true

/-- A LINE cell carries LENGTH − 20 or more code bytes at most (Table 5.3). -/
def LineCell.wf (c : LineCell) : Bool := decide (c.codes.length ≤ c.length.toNat)

/-- A CONTROL or STATUS payload fits its LENGTH (Tables 5.5 and 5.7). -/
def payloadWf (length : U16) (payload : List U8) : Bool := decide (payload.length + 16 ≤ length.toNat)

/-- A data frame carries 0 to 2,048 payload bytes and its LENGTH says so (Table 12.1). -/
def DataFrame.wf (f : DataFrame) : Bool :=
  decide (f.payload.length ≤ 2048) && f.length.toNat == 20 + f.payload.length

/-- A waggle frame's LENGTH agrees with its payload (Table 13.4). -/
def WaggleFrame.wf (f : WaggleFrame) : Bool := f.length.toNat == 20 + f.payload.length

/-- A register access is aligned on 4 bytes within BAR0's 4 MiB (R10, R403); the mailbox SRAM takes 4 to 512 bytes (R404). -/
def registerWf (offset : Nat) (bytes : List U8) : Bool :=
  decide (offset % 4 = 0 ∧ offset + bytes.length ≤ 0x400000 ∧ bytes.length % 4 = 0 ∧ 4 ≤ bytes.length ∧ bytes.length ≤ 512)

/-- Well-formed commands. -/
def Instr.wf : Instr → Bool
  | .foragerCopy c descs => c.wf && descs.length % 32 == 0
  | .hvConfig c _ => c.wf
  | .registerWrite o b => registerWf o b
  | .bar2Access o w n => decide (o + n ≤ 0x10000000) && (match w with | some b => b.length == n | none => true)
  | .sz6WindowAccess o _ _ => o.toNat % 4 == 0
  | .mgmtBlockWrite b _ => decide (b.length ≤ 252)
  | .statusReportReceived _ c => payloadWf c.length c.payload
  | .statusIdentReceived _ c => payloadWf c.length c.payload
  | .statusEchoReceived _ c _ => payloadWf c.length c.payload
  | .statusWitnessReceived _ c => payloadWf c.length c.payload
  | .adapterLineCell _ _ c => c.wf
  | .adapterControlCell _ _ c => payloadWf c.length c.payload
  | .csiLongPacket _ k => decide (k.pixels.length ≤ 16384)
  | .dictMessageReceived m => decide (m.payload.length = m.payLen.toNat)
  | .dramRequest r => (match r.write with | some b => b.length == r.len | none => true)
  | .dataFrameReceived _ _ f => f.wf
  | .assignReceived _ _ _ _ routes => routes.length == 256
  | .stateFrameReceived f _ => f.wf
  | .mirrorFrameReceived f _ data => f.wf && decide (data.length ≤ 2040)
  | .handoverReceived f _ => f.wf
  | .handoverReplyReceived f _ _ => f.wf
  | .foragerReadDone _ (some b) => decide (b.length ≤ 512)
  | _ => true

end Sys2Proof
end

