-- ==== Sys2Proof/Tests/Slice0.lean ====
section
/-! SUPPORT. Tests: the checks of WellFormed each refuse an ill-formed command; values of the spec's worked examples; and for every statement with
premises a state and operands that meet them. -/
namespace Sys2Proof.Tests

-- One theorem after another: each holds many small kernel evaluations, and Lean would start a thread for each of them.
set_option Elab.async false
open Sys2Proof Sys2Proof.Machine

/-! WellFormed refuses an ill-formed command of each check. -/

/-- A Mervan command of a LENGTH with some argument words. -/
def badCmd (length : U16) (args : List U32) : Cmd :=
  { origin := .ring, tag := 1, rsvTag := 0, async := false, rsvFlag := 0, length := length, node := 0, rsvNode := 0, seq := 7, rsvWord := 0,
    args := args, crc := 0 }

theorem test_wf_command_length : (Instr.foragerCopy (badCmd 24 []) []).wf = false ∧ (Instr.hvConfig (badCmd 28 [1]) []).wf = false := by decide

theorem test_wf_descriptors : (Instr.foragerCopy (badCmd 20 []) [0]).wf = false := by decide

theorem test_wf_registers :
    (Instr.registerWrite 2 [0, 0, 0, 0]).wf = false ∧ (Instr.registerWrite 0x3FFFFE [0, 0, 0, 0]).wf = false ∧
      (Instr.registerWrite 0 [0]).wf = false := by decide

theorem test_wf_windows :
    (Instr.bar2Access 0x10000000 none 4).wf = false ∧ (Instr.bar2Access 0 (some [1]) 4).wf = false ∧
      (Instr.sz6WindowAccess 2 none true).wf = false := by decide

theorem test_wf_management : (Instr.mgmtBlockWrite (List.replicate 253 0) true).wf = false := by decide +kernel

theorem test_wf_head_cells :
    (Instr.statusReportReceived 0 ⟨0, 17, 0, 0, 0, [0, 0], 0, 4, 0⟩).wf = false ∧ (Instr.statusIdentReceived 0 ⟨1, 15, 0, 0, 0, [], 0, 4, 0⟩).wf = false ∧
      (Instr.statusEchoReceived 0 ⟨3, 17, 0, 0, 0, [0, 0], 0, 4, 0⟩ 0).wf = false ∧ (Instr.statusWitnessReceived 0 ⟨2, 0, 0, 0, 0, [], 0, 4, 0⟩).wf = false ∧
      (Instr.adapterLineCell 0 false ⟨0, true, false, 0, 0, 1, 0, 0, 5, [1, 2], 0, 0⟩).wf = false ∧
      (Instr.adapterControlCell 0 false ⟨6, 16, 1, 0, [1], 0, 3, (0, 0)⟩).wf = false := by decide

theorem test_wf_camera_packet : (Instr.csiLongPacket 0 ⟨0x2C, 0, 0, true, true, true, false, List.replicate 16385 0⟩).wf = false := by decide +kernel

theorem test_wf_messages :
    (Instr.dictMessageReceived ⟨1, 1, false, 1, 2, 0, [9], .waggle⟩).wf = false ∧
      (Instr.dramRequest ⟨0, 0, some [1], 2, []⟩).wf = false ∧
      (Instr.dataFrameReceived 0 0 ⟨.control, false, 0, false, 20, 0, 1, 2, 0, 0, [1], 0, (0, 0, 0), 1⟩).wf = false ∧
      (Instr.assignReceived 0 1 1 0 []).wf = false ∧ (Instr.foragerReadDone 0 (some (List.replicate 513 0))).wf = false := by decide +kernel

theorem test_wf_data_frame_size :
    (Instr.dataFrameReceived 0 0 ⟨.control, false, 0, false, 2069, 0, 1, 2, 0, 0, List.replicate 2049 0, 0, (0, 0, 0), 1⟩).wf = false := by decide +kernel

theorem test_wf_waggle :
    (Instr.stateFrameReceived ⟨21, 0, 0, [], 0, (0, 0, 0, 0), none⟩ false).wf = false ∧ (Instr.mirrorFrameReceived ⟨21, 0, 0, [], 0, (0, 0, 0, 0), none⟩ 0 []).wf = false ∧
      (Instr.mirrorFrameReceived ⟨20, 0, 0, [], 0, (0, 0, 0, 0), none⟩ 0 (List.replicate 2041 0)).wf = false ∧ (Instr.handoverReceived ⟨19, 0, 0, [], 0, (0, 0, 0, 0), none⟩ 0).wf = false ∧
      (Instr.handoverReplyReceived ⟨19, 0, 0, [], 0, (0, 0, 0, 0), none⟩ true 0).wf = false := by decide +kernel

/-! Values of the spec's worked examples. -/

/-- CRC-32C of "123456789" is 0xE3069283 (R223). -/
theorem test_crc32c : crc32c [49, 50, 51, 52, 53, 54, 55, 56, 57] = 0xE3069283 := by decide +kernel

/-- The encoder of Table 9.10: codes 0x41, 258, 259, FLUSH; entries "AA" and "AAA". -/
theorem test_dictEncode_table_9_10 :
    dictEncode [0x41, 0x41, 0x41, 0x41, 0x41] 0x41 [] [] = ([257, 259, 258, 0x41], [(0x41, 0x41), (258, 0x41)]) := by decide

/-- The decoder of Table 9.10: A, AA, AAA, and next_free 260. -/
theorem test_dictDecode_table_9_10 :
    dictDecode [0x41, 258, 259, 257] [] none [] = some ([(0x41, 0x41), (258, 0x41)], [0x41, 0x41, 0x41, 0x41, 0x41, 0x41]) := by decide

/-- The worked example of chapter 12: delay 7.50 ns and offset +3.00 ns. -/
theorem test_time_exchange :
    timeDelay 2000000 2000018 2000818 2000860 0 = 7500 ∧ timeOffset 2000000 2000018 2000818 2000860 = 3000 := by decide

/-- The worked example of chapter 6: T = 5,243 plays 26,080, T = 5,043 plays 26,000, T = 5,044 plays 26,001. -/
theorem test_scaled_sample : scaled (-2000) 24000 5243 = 26080 ∧ scaled (-2000) 24000 5043 = 26000 ∧ scaled (-2000) 24000 5044 = 26001 := by decide

/-- Table 16.6: TS5 fails, and its substitute is max(105.0, 105.0, 106.0, 104.0) + 5 = 111.0 °C. -/
theorem test_substitute_temperature :
    siteOf { State.reset.dev.therm with
      reading := #v[0, 1616, 0, 0, 1584, 1728, 1648, 0, 0, 1552, 0, 0], failed := Vector.replicate 12 false |>.set 5 true,
      offsets := Vector.replicate 12 #v[0, 64, 0, 0, 96, 0, 48, 0, 0, 112, 0, 0] } 5 = 1776 := by decide

/-- The worked example of chapter 18: THM_DIE is 0x0265_07E8. -/
theorem test_thm_die :
    thmDie { State.reset.dev with therm := { State.reset.dev.therm with die := 2024, hottest := 5, level := 2, trip := true } } = 0x026507E8 := by decide

/-- The worked example of chapter 4: P(1,000), F(1,000, 0) and F(1,000, 1) of repeat 3 on head H12. -/
theorem test_fire_positions :
    let t : Timing := ⟨1240000000, 600, 7000, 1, #v[0, 1016000, 0, 0]⟩
    let d := State.reset.dev
    let d := { d with pos := { d.pos with lpi := 1200 }, banks := { d.banks with timing := Vector.replicate 40 t } }
    52990000000 + lineAt d 1000 = 53011166666 ∧ firePos d 12 52990000000 1000 0 = 54251166666 ∧ firePos d 12 52990000000 1000 1 = 54252182666 := by
  decide +kernel

/-- The worked example of chapter 5: at 120 kHz the 4-bit head fits 4.0 Gbit/s and not 3.125, the 3-bit head fits 2.5. -/
theorem test_lane_fit :
    let t : Timing := ⟨0, 0, 0, 1, #v[0, 1016000, 0, 0]⟩
    let at_ := fun (rate : BitVec 2) => { State.reset.dev with
      links := Vector.replicate 40 { rate := rate, nozzles := 6144 }, banks := { State.reset.dev.banks with timing := Vector.replicate 40 t } }
    laneFit (at_ 2) 0 4 120000 = true ∧ laneFit (at_ 1) 0 4 120000 = false ∧ laneFit (at_ 0) 0 3 120000 = true := by decide +kernel

/-- The worked example of chapter 3: the comb and loop steps of nozzles 1,998 and 1,999 of head H5. -/
theorem test_comb_and_loop :
    let d := State.reset.dev
    let d := { d with banks := { d.banks with
      tbl := Vector.replicate 6 { active := [((5 * 6144 + 1998) * 4 + 1, 0x40), ((5 * 6144 + 1999) * 4 + 1, 0x42), ((5 * 6144 + 1999) * 4 + 3, 0xFF)] }
      loop := [(1536 * 5 + 499, -2621)] } }
    (combLoop d 5 1998 32896).1 = 32567 ∧ (combLoop d 5 1999 32896).1 = 33331 := by decide +kernel

/-- The worked example of chapter 3: the shares of the failed nozzle, here nozzle 2 of five. -/
theorem test_substitution_shares :
    substitute [⟨2, 5, false, [16, 48, 48, 16], true⟩] 5 (fun _ => false) #[32567, 33331, 32896, 32896, 32896]
      = (#[36679, 45667, 0, 45232, 37008], {}) := by decide +kernel

/-- The device booted, in RUN, with a presence window open, and one command waiting in its ring. -/
def base : Device :=
  let d := State.reset.dev
  { d with chip := { d.chip with resetN := true }, nv := { d.nv with stage := .ready }, dram := { d.dram with ok := true, physical := 2 ^ 33 }
           prs := { d.prs with window := true, loopOpen := false, latch := false }
           mbx := { d.mbx with cmdTail := 1, storeSize := 0x1000000, slotSize := 4096 } }

/-- A ring command for this device with SEQ 7 and no CRC. -/
def raw (args : List U32) : Cmd :=
  { origin := .ring, tag := 1, rsvTag := 0, async := false, rsvFlag := 0, length := BitVec.ofNat 16 (20 + 4 * args.length), node := 0, rsvNode := 0,
    seq := 7, rsvWord := 0, args := args, crc := 0 }

/-- The same command with the CRC that R344 asks. -/
def cmdFor (op : U16) (args : List U32) (d : Device) : Cmd := { raw args with crc := cmdCrc op (uidOf d .ring) (raw args) }

/-- A command is accepted and its rule's condition holds. -/
def meets (r : Rule) (args : List U32) (d : Device) : Bool :=
  let c := cmdFor r.sig.opcode args d
  (accepted r.sig c d).any (fun x => r.can c x.2 x.1)

/-- A descriptor of one repeat and one plane on head 0. -/
def desc0 : JobDesc := { jobId := 5, repeatCount := 1, sheet := false, cycle := false, resetLoop := false, maxLineRate := 1000, repeatList := 0x1000, tableSet := 0x2000, planes := [⟨0, 1, false, false, false, false⟩], rsvOk := true }

/-- The job of that descriptor, staged. -/
def job0 : Job := ⟨0x40, desc0, .staged, 0, 100, 0, {}⟩

/-- The position master with a staged job. -/
def withStaged : Device := { base with jobs := { base.jobs with staged := some job0 }, pos := { base.pos with role := .master } }

/-- A device that runs the job. -/
def withRunning : Device := { base with jobs := { base.jobs with running := some { job0 with state := .running } } }

/-- A blank repeat of one line at the repeat list. -/
def withRepeat : Device := { withStaged with dram := { base.dram with data := [(0x1000, 1), (0x1006, 0x10), (0x100A, 2)] } }

/-- An empty live set. -/
def live0 : LiveSet := base.acct.live[0]

/-- A unit of a pair that hears its peer. -/
def withPair (role : Role) (peer : Role) : Device :=
  { base with red := { base.red with pair := some ⟨2, true⟩, role := role, roleSet := true, standbyOk := true
                                     peer := some ⟨1, 2, peer, true, false, true, false, 0, 0, 0, 0, 0, 0, (0, 0, 0, 0), 0, 0⟩ } }

/-- A change of camera port 0. -/
def port0 (f : Cam → Cam) : Device := { base with cams := { base.cams with ports := upd base.cams.ports 0 f } }

/-- A change of the mailbox. -/
def withMbx (f : Mbx → Mbx) : Device := { base with mbx := f base.mbx }

/-- A change of position. -/
def withPos (f : Pos → Pos) : Device := { base with pos := f base.pos }

/-- A change of the nonvolatile store. -/
def withNv (f : Nv → Nv) : Device := { base with nv := f base.nv }

/-- A change of the chip's own state. -/
def withChip (f : Chip → Chip) : Device := { base with chip := f base.chip }

/-- A change of the power state. -/
def withPwr (f : Pwr → Pwr) : Device := { base with pwr := f base.pwr }

/-- A change of presence and seal. -/
def withPrs (f : Prs → Prs) : Device := { base with prs := f base.prs }

/-- A change of the DRAM. -/
def withDram (f : Dram → Dram) : Device := { base with dram := f base.dram }

/-- A change of the thermal guard. -/
def withTherm (f : Therm → Therm) : Device := { base with therm := f base.therm }

/-- A command in flight with SEQ 9. -/
def inFl (w : Work) : InFlight := ⟨.ring, 0, 3, 9, 20, 0, false, w, none⟩

/-- An entry of the violation log: code 1, block 5, source 1. -/
def entry : VEntry := ⟨1, 5, 3, true, 1, 9, 0, 0, 0⟩

/-- A change of the jobs. -/
def withJobs (f : Jobs → Jobs) : Device := { base with jobs := f base.jobs }

/-- A scheduled change of job 5. -/
def chg : Change := ⟨5, 0, 0, true, false, false, false, [], []⟩

/-- A device that runs a sheet job. -/
def sheetRun : Device := { base with jobs := { base.jobs with running := some { job0 with state := .running, desc := { desc0 with sheet := true } } } }

/-- The position master. -/
def master (d : Device) : Device := { d with pos := { d.pos with role := .master } }

/-- The root, locked to fabric time. -/
def locked (d : Device) : Device := { d with fabric := { d.fabric with locked := true, root := true } }

/-- A WPOS sample at 1,200 LPI. -/
def sample0 : WposSample := ⟨0, 0, 0, 0, 0, 1200, false, false, false, false⟩

/-- Every lane in a state. -/
def lanesAre (s : LaneState) (d : Device) : Device := { d with lanes := Vector.replicate 49 { state := s } }

/-- A change of the feed. -/
def withFeed (f : Feed → Feed) (d : Device) : Device := { d with feed := f d.feed }

/-- Every plane ring with a block fetched. -/
def blockRing (d : Device) : Device := withFeed (fun x => { x with rings := Vector.replicate 8 { fetching := some (⟨5, 0, 0, 0, 32, true, []⟩, []), suspended := false } }) d

/-- A device that runs a job of two repeats. -/
def running2 : Device := { base with jobs := { base.jobs with running := some { job0 with state := .running, desc := { desc0 with repeatCount := 2 } } } }

/-- A repeat fallen due, with a plane index of one block. -/
def fetchDev : Device := withFeed (fun x => { x with due := [(5, 1)] }) { running2 with dram := { base.dram with data := [(0x1081, 0x30), (0x3000, 1)] } }

/-- A segment of one line at the start position. -/
def seg0 : Seg := ⟨5, 0, 2 ^ 40, 0, 1, 0, true, 0, false, 0, 0, 1⟩

/-- The position master with a line of the running job screened for every head. -/
def committing : Device := master { base with
  jobs := { base.jobs with running := some { job0 with state := .running } }
  links := Vector.replicate 40 { state := .present }
  pos := { base.pos with minSpeed := 0 }
  fire := { base.fire with cursor := Vector.replicate 40 { segs := [seg0] } }
  engines := Vector.replicate 40 { buf := [⟨5, 0, []⟩] } }

/-- A token of line 0 on head 39. -/
def token0 : Token := ⟨39, 5, 0, 0, [2 ^ 40], 0, 0, false, 1, true, false, [], false⟩

/-- The same with that token scheduled. -/
def firingDev : Device := { committing with fire := { committing.fire with tokens := [token0] } }

/-- Every head present and every lane up. -/
def linkedHead (d : Device) : Device := lanesAre .up { d with links := Vector.replicate 40 { state := .present } }

/-- A STATUS cell without its CRC. -/
def stat0 (sub : BitVec 4) (len : Nat) : StatusCell := ⟨sub, BitVec.ofNat 16 len, 0, 0, 0, List.replicate (len - 16) 0, 0, 4, 0⟩

/-- A STATUS cell with its CRC. -/
def stat (sub : Nat) (len : Nat) : StatusCell := let c := stat0 (BitVec.ofNat 4 sub) len; { c with crc := statusCrc 39 false c }

/-- Every head waits for the answer to a CONTROL cell. -/
def awaiting' (sub : BitVec 4) : Device := lanesAre .up { base with links := Vector.replicate 40 { state := .present, await := some (⟨sub, 16, 0, 0, [], 0, 3, (0, 0)⟩, 0) } }

/-- A head adapter of 6,144 nozzles and four rows. -/
def facts0 : AdapterFacts := ⟨39, true, 15, 15, 6144, 4, 3, 0, 1⟩

/-- Every head adapter powered up. -/
def adapterDev (f : Adapter → Adapter) : Device := { base with adapters := Vector.replicate 40 (f { facts := some facts0 }) }

/-- A LINE cell of job 5 with its CRC. -/
def line0 : LineCell := let c : LineCell := ⟨0, true, false, 0, 0, 20, 0, 0, 5, [], 0, 0⟩; { c with crc := lineCrc 39 true c }

/-- A FIRE cell for row 0 of that line. -/
def fire0 : FireCell := let c : FireCell := ⟨0, 24, 0, 0, 5, 0, 0, (0, 0, 0)⟩; { c with crc := fireCrc 39 true c }

/-- A CONTROL cell with its CRC. -/
def ctrl0 : ControlCell := let c : ControlCell := ⟨6, 16, 1, 0, [], 0, 3, (0, 0)⟩; { c with crc := controlCrc 39 true c }

/-- A supply on bus address 16. -/
def pd : Device := { base with drive := { base.drive with supplies := [⟨16, 255, 1, 0, 0, 1, 0, false⟩] } }

/-- Every camera port alike. -/
def camDev (f : Cam → Cam) : Device := { base with cams := { base.cams with ports := Vector.replicate 4 (f {}) } }

/-- A device of the measurement network. -/
def measDev : Device := withMbx (fun m => { m with measuring := true })

/-- Both CCI buses with a host transaction at the front. -/
def cciDev : Device := { base with cams := { base.cams with cci := Vector.replicate 2 [(.host 0 0 1 0 false, 0)] } }

/-- A change of the loop. -/
def withLoop (f : Loop → Loop) (d : Device) : Device := { d with loop := f d.loop }

/-- A print run of job 5. -/
def run0 : PrintRun := ⟨5, 0, 2 ^ 40, 0, 0, 0, false, ⟨0, 1, false, false, false, false⟩, 1, false, 0⟩

/-- An owning device at the end of a line of the running job. -/
def owning : Device := { running2 with
  loop := { base.loop with colours := Vector.replicate 8 { declared := true, enabled := true }
                           owner := Vector.replicate 8 { runs := [{ run0 with lines := 1 }], strips := [run0] } }
  fabric := { base.fabric with holders := Vector.replicate 3 (some ⟨1, 0⟩) }
  fire := { base.fire with ended := [⟨0, 5, 0, true⟩] } }

/-- A change of the fabric, with every lane up. -/
def withFab (f : Fabric → Fabric) : Device := lanesAre .up { base with fabric := f base.fabric }

/-- Every fabric port alike, with every lane up. -/
def withPort (f : FPort → FPort) : Device := lanesAre .up { base with fabric := { base.fabric with ports := Vector.replicate 4 (f {}) } }

/-- Every lane up. -/
def fab : Device := lanesAre .up base

/-- A unit of a pair with the waggle lane live. -/
def pairDev (role : Role) (f : Red → Red) : Device := lanesAre .up { base with red := f { base.red with pair := some ⟨2, true⟩, role := role, roleSet := true, wlLive := true } }

/-- Every lane alike. -/
def lane (s : Lane) : Device := { base with lanes := Vector.replicate 49 s }

/-- An empty control frame from node 2 to node 1. -/
def frame0 : DataFrame := ⟨.control, false, 0, false, 20, 0, 1, 2, 0, 0, [], 0, (0, 0, 0), 1⟩

/-- An ASSIGN of the node of UID 7 with its CRC. -/
def assign0 : DataFrame :=
  let f : DataFrame := { frame0 with length := 28, dest := 0, msgType := 0x41, payload := leBytes 8 7 }
  { f with crc := frameCrc 0 f }

/-- A HELLO from UID 1. -/
def hello0 : Hello := ⟨1, 1, 0, false, true, false, 0, 0, 1, 255, 0, 0, (0, 0, 0, 0)⟩

/-- A JOIN of UID 3. -/
def join0 : Join := ⟨3, 0, 255, true, false, []⟩

/-- A training word of zeros. -/
def trainW : TrainWord := ⟨0, 0, false, false, 0, 0, 0, 0, 0, (0, 0, 0)⟩

/-- A role assignment of election 7. -/
def role0 : RoleMsg := ⟨7, 0, true, false, false, false, false, false, 9, 0⟩

/-- A heartbeat of the peer. -/
def beat0 (role : Role) : Heartbeat := ⟨1, 2, role, true, false, true, false, 0, 0, 0, 0, 0, 0, (0, 0, 0, 0), 0, 0⟩

/-- A waggle frame of a kind with its CRC. -/
def wag (kind : Nat) (p : List U8) (d : Device) : WaggleFrame := let f : WaggleFrame := ⟨BitVec.ofNat 16 (20 + p.length), 0, 0, p, 0, (0, 0, 0, 0), none⟩; { f with crc := crcFold 0 (w32 (peerUid d).toNat) (wagBody kind f) }

/-- The end of a link frame of the neighbour of UID 0, on lane 0, with its CRC. -/
def linkEnd (sub : Nat) (payload : List U8) : FrameEnd := { lane := 0, crc := linkCrc 0 (linkFrame sub 0 payload) }

/-- The end of an unsequenced waggle frame, with its CRC. -/
def wagEnd (kind : Nat) (payload : List U8) : FrameEnd := { lane := 0, crc := (wag kind payload (pairDev .active id)).crc }

/-- The premises of a command's rule hold of some command in some state. -/
def RuleMet (r : Rule) : Prop := ∃ (s : State) (c : Cmd) (d : Device) (a : List Int), accepted r.sig c s.dev = some (d, a) ∧ r.can c a d = true

theorem fold_zero (l : List U8) (h : ∀ b ∈ l, b = 0) : l.foldl crcByte 0 = 0 := by
  induction l with
  | nil => rfl
  | cons b l ih =>
    rw [List.foldl_cons, h b (by simp)]
    exact ih (fun x hx => h x (by simp [hx]))

theorem memGet_above (m : Mem) (n x : Nat) (h : m.all (fun e => decide (e.1 < n)) = true) (hx : n ≤ x) : memGet m x = 0 := by
  induction m with
  | nil => rfl
  | cons e m ih =>
    obtain ⟨k, v⟩ := e
    simp only [List.all_cons, Bool.and_eq_true, decide_eq_true_eq] at h
    rw [memGet, if_neg (by omega), ih h.2]

theorem memGet_gap (m : Mem) (n k x : Nat) (h : m.all (fun e => decide (e.1 < n ∨ k ≤ e.1)) = true) (hx : n ≤ x) (hk : x < k) : memGet m x = 0 := by
  induction m with
  | nil => rfl
  | cons e m ih =>
    obtain ⟨a, v⟩ := e
    simp only [List.all_cons, Bool.and_eq_true, decide_eq_true_eq] at h
    rw [memGet, if_neg (by omega), ih h.2]

theorem gap_zero {m : Mem} (a n k : Nat) (h : m.all (fun e => decide (e.1 < a ∨ k ≤ e.1)) = true) (hk : a + n ≤ k) :
    ∀ b ∈ memRead m a n, b = 0 := by
  intro b hb
  simp only [memRead, List.mem_map, List.mem_range] at hb
  obtain ⟨i, hi, rfl⟩ := hb
  exact memGet_gap m a k _ h (by omega) (by omega)

theorem crc_zeroed (m : Mem) (a k n : Nat) (hk : (memRead m a k).foldl crcByte 0xFFFFFFFF = 0)
    (hz : m.all (fun e => decide (e.1 < a + k)) = true) : crc32c (memRead m a (k + n)) = 0xFFFFFFFF := by
  unfold crc32c memRead
  rw [List.range_add, List.map_append, List.foldl_append]
  unfold memRead at hk
  rw [hk, fold_zero]
  · rfl
  · intro b hb
    simp only [List.map_map, List.mem_map, List.mem_range, Function.comp] at hb
    obtain ⟨i, -, rfl⟩ := hb
    exact memGet_above m _ _ hz (by omega)

theorem met_of {r : Rule} {args : List U32} {d0 : Device} {p : List Int → Device → Bool}
    (h : (accepted r.sig (cmdFor r.sig.opcode args d0) d0).any (fun x => p x.2 x.1) = true)
    (hc : ∀ c a d, p a d = true → r.can c a d = true) : RuleMet r := by
  match ha : accepted r.sig (cmdFor r.sig.opcode args d0) d0 with
  | none => rw [ha] at h; cases h
  | some (d, a) => rw [ha] at h; exact ⟨⟨d0, []⟩, _, d, a, ha, hc _ _ _ h⟩

def modelMem : Mem := [(0, 1), (1, 2), (3, 1), (6, 255), (7, 255), (32, 222), (33, 209), (34, 253), (35, 60)]
/-- The device with some contents of DRAM, which holds requests in self-refresh. -/
def memDev (m : Mem) : Device := { base with dram := { base.dram with data := m, selfRefresh := true } }
theorem met_modelLoad : RuleMet modelLoadRule := by
  refine met_of (args := [0, 0, 560, 0xFFFFFFFF]) (d0 := memDev modelMem)
    (p := fun a d => d.dram.data == modelMem && argN a 0 == 0 && argN a 1 == 560 && argN a 2 == 0xFFFFFFFF
      && (poisonIn d (argN a 0) (argN a 1)).isNone && d.loop.modelNew.isNone && modelOk d (dramRead d (argN a 0) (argN a 1)))
    (by decide +kernel) ?_
  intro c a d h
  simp only [Bool.and_eq_true, beq_iff_eq] at h
  obtain ⟨⟨⟨⟨⟨⟨h1, h2⟩, h3⟩, h4⟩, h5⟩, h6⟩, h7⟩ := h
  have hcrc : crc32c (memRead modelMem 0 560) = 0xFFFFFFFF := crc_zeroed modelMem 0 36 524 (by decide +kernel) (by decide)
  have : crc32c (dramRead d (argN a 0) (argN a 1)) = 0xFFFFFFFF := by rw [dramRead, h1, h2, h3]; exact hcrc
  simp [modelLoadRule, h5, h6, h7, this, h4]

def tableMem : Mem := [(0, 255), (1, 255), (2, 255), (3, 255)]
theorem met_camTables : RuleMet camTablesRule := by
  refine met_of (args := [3, 0, 0, 0, 0, 0, 0, 0, 0, 0xFFFFFFFF, 0xFFFFFFFF, 0]) (d0 := memDev tableMem)
    (p := fun a d => d.dram.data == tableMem && d.dram.poison == [] && a == [3, 0, 0, 0, 0, 0xFFFFFFFF, 0xFFFFFFFF, 0])
    (by decide +kernel) ?_
  intro c a d h
  simp only [Bool.and_eq_true, beq_iff_eq] at h
  obtain ⟨⟨h1, h2⟩, rfl⟩ := h
  have hcrc : crc32c (memRead tableMem 0 32768) = 0xFFFFFFFF := crc_zeroed tableMem 0 4 32764 (by decide +kernel) (by decide)
  have h0 : crc32c (memRead tableMem 0 0) = 0 := by decide +kernel
  simp [camTablesRule, argN, poisonIn, h1, h2, dramRead, hcrc, h0, w32, ascending]

theorem imageFault_append {d : Device} (hp : d.dram.poison = []) {m : List ImageCheck} :
    ∀ {l : List ImageCheck}, l.all (·.fails.isNone) = true → imageFault d m = none → imageFault d (l ++ m) = none
  | [], _, h => h
  | c :: cs, hl, h => by
    rw [List.all_cons, Bool.and_eq_true, Option.isNone_iff_eq_none] at hl
    have hr : c.reads.findSome? (fun r => poisonIn d r.1 r.2) = none := by
      simp [poisonIn, hp]
    rw [List.cons_append, imageFault, hr, hl.1]
    exact imageFault_append hp hl.2 h

theorem imageFault_wave {d : Device} (hp : d.dram.poison = []) {pl : List Head} {a : Nat} {crc : U32}
    (h6 : ((waveChecks d pl a crc).take 6).all (·.fails.isNone) = true) (hc : crc32c (dramRead d a (imageLen .wave)) = crc) :
    imageFault d (waveChecks d pl a crc) = none := by
  rw [← List.take_append_drop 6 (waveChecks d pl a crc)]
  refine imageFault_append hp h6 ?_
  have h := imageFault_append hp (m := []) (l := (waveChecks d pl a crc).drop 6) ?_ rfl
  · simpa using h
  · simp [waveChecks, hc]

def waveMem : Mem := [(1, 179), (17, 205), (33, 160), (49, 19), (65, 1)]
theorem met_waveLoad : RuleMet waveLoadRule := by
  refine met_of (args := [0, 0, 0xFFFFFFFF, 1]) (d0 := memDev waveMem)
    (p := fun a d => d.dram.data == waveMem && d.dram.poison == [] && d.jobs.running.isNone && a == [0, 0xFFFFFFFF, 1]
      && ((waveChecks d [] 0 0xFFFFFFFF).take 6).all (·.fails.isNone) && loadFree .wave (argB a 2) d)
    (by decide +kernel) ?_
  intro c a d h
  simp only [Bool.and_eq_true, beq_iff_eq, Option.isNone_iff_eq_none] at h
  obtain ⟨⟨⟨⟨⟨h1, hp⟩, hj⟩, rfl⟩, h6⟩, h5⟩ := h
  have hcrc : crc32c (dramRead d 0 1352320) = 0xFFFFFFFF := by
    rw [dramRead, h1]; exact crc_zeroed waveMem 0 66 1352254 (by decide +kernel) (by decide)
  have hb : argB [0, 0xFFFFFFFF, 1] 2 = true := rfl
  simp only [waveLoadRule, hb, if_true, hj, Bool.and_eq_true, Option.isNone_iff_eq_none]
  exact ⟨imageFault_wave hp h6 hcrc, h5⟩

def stageMem : Mem :=
  [(4, 1), (17, 116), (33, 100), (49, 27), (65, 97), (81, 1), (640, 2), (648, 1), (704, 252), (705, 3), (706, 87), (707, 118),
   (0x200000, 5), (0x200004, 1), (0x200008, 0x10), (0x20000C, 0xE8), (0x20000D, 3), (0x200011, 2), (0x200012, 0x20), (0x200018, 0), (0x200019, 1), (0x20001A, 0x20),
   (0x200020, 0x40),
   (0x200104, 63), (0x20010A, 0x30), (0x20011A, 0x30), (0x200124, 255), (0x200125, 255), (0x200126, 255), (0x200127, 255),
   (0x200131, 0x10), (0x200132, 0x20), (0x200139, 5), (0x200142, 0x30), (0x200152, 0x30), (0x201000, 2), (0x201008, 0x10)]
theorem bind_eq_ok {ε α β : Type} {x : Except ε α} {f : α → Except ε β} {a : α} {b : β} (hx : x = .ok a) (hf : f a = .ok b) : (x >>= f) = .ok b := by
  subst hx; exact hf

theorem isOk_unit {ε : Type} {x : Except ε Unit} (h : x.isOk = true) : x = .ok () := by
  cases x with
  | error e => cases h
  | ok u => rfl

theorem if_ok {ε α : Type} {c : Prop} [Decidable c] {x y : Except ε α} {b : α} (hc : c) (hx : x = .ok b) : (if c then x else y) = .ok b := by
  rw [if_pos hc, hx]

theorem fold_run (m : Mem) (a j k : Nat) (r : Nat) (hj : (memRead m a j).foldl crcByte r = 0)
    (hk : (memRead m (a + j) k).foldl crcByte 0 = 0) : (memRead m a (j + k)).foldl crcByte r = 0 := by
  unfold memRead at *
  rw [List.range_add, List.map_append, List.foldl_append, hj]
  simpa [List.map_map, Function.comp_def, Nat.add_assoc] using hk

def stageCmd : Cmd := cmdFor 0x0100 [0x200000, 0, 0, 100] (memDev stageMem)
def stageDev : Device := { memDev stageMem with mbx := { base.mbx with cmdHead := 1 } }
def stageJob : JobDesc := readJob (dramRead stageDev 0x200000 64)

theorem stage_crc : crc32c (memRead stageMem 0 1352320) = 0xFFFFFFFF := by
  have h1 : (memRead stageMem 0 98).foldl crcByte 0xFFFFFFFF = 0 := by decide +kernel
  have h2 : (memRead stageMem 98 542).foldl crcByte 0 = 0 := fold_zero _ (gap_zero 98 542 640 (by decide) (by omega))
  have h3 : (memRead stageMem 640 68).foldl crcByte 0 = 0 := by decide +kernel
  have h4 : (memRead stageMem 708 1351612).foldl crcByte 0 = 0 := fold_zero _ (gap_zero 708 1351612 0x200000 (by decide) (by omega))
  have h : (memRead stageMem 0 (98 + 542 + 68 + 1351612)).foldl crcByte 0xFFFFFFFF = 0 :=
    fold_run stageMem 0 (98 + 542 + 68) 1351612 _ (fold_run stageMem 0 (98 + 542) 68 _ (fold_run stageMem 0 98 542 _ h1 h2) h3) h4
  rw [show 1352320 = 98 + 542 + 68 + 1351612 by norm_num, crc32c, h]
  rfl

def stageSet : TableSet := readSet (dramRead stageDev stageJob.tableSet 128)

theorem stage_read : getData stageDev stageJob.tableSet 128 = .ok (dramRead stageDev stageJob.tableSet 128) := by
  unfold getData
  rw [show poisonIn stageDev stageJob.tableSet 128 = none by decide +kernel]

/-- Every check of the set but the last, the CRC of its waveform image, passes. -/
theorem stage_checks : (((setChecks stageDev stageJob stageSet false (fun _ => none)).dropLast).all (·.fails.isNone)) = true := by decide +kernel

theorem stage_last : (setChecks stageDev stageJob stageSet false (fun _ => none)).drop
    ((setChecks stageDev stageJob stageSet false (fun _ => none)).length - 1) =
      (waveChecks stageDev (planedHeads stageJob) (stageSet.addr .wave) (stageSet.crc .wave)).drop 6 := by
  have hb : bitOf stageSet.present (tblFin .wave).val = true := by decide +kernel
  have hl : (waveChecks stageDev (planedHeads stageJob) (stageSet.addr .wave) (stageSet.crc .wave)).length = 7 := rfl
  unfold setChecks
  simp only [hb, if_true, List.length_append, hl]
  rw [List.drop_append, List.drop_eq_nil_of_le (by simp only [List.length_append]; omega), List.nil_append]
  congr 1

theorem stage_images : imageFault stageDev (setChecks stageDev stageJob stageSet false (fun _ => none)) = none := by
  have hp : stageDev.dram.poison = [] := rfl
  rw [← List.take_append_drop ((setChecks stageDev stageJob stageSet false (fun _ => none)).length - 1)
    (setChecks stageDev stageJob stageSet false (fun _ => none)), ← List.dropLast_eq_take]
  refine imageFault_append hp stage_checks ?_
  rw [stage_last]
  have hc : crc32c (dramRead stageDev (stageSet.addr .wave) (imageLen .wave)) = stageSet.crc .wave := by
    rw [show stageSet.crc Tbl.wave = 0xFFFFFFFF by decide +kernel, show stageSet.addr Tbl.wave = 0 by decide +kernel, dramRead,
      show stageDev.dram.data = stageMem by decide +kernel, show imageLen .wave = 1352320 from rfl, stage_crc]
  have h := imageFault_append hp (m := [])
    (l := (waveChecks stageDev (planedHeads stageJob) (stageSet.addr .wave) (stageSet.crc .wave)).drop 6) ?_ rfl
  · simpa using h
  · simp [waveChecks, hc]

theorem stage_set : checkSet stageDev stageJob stageJob.tableSet false (fun _ => none) = .ok () := by
  unfold checkSet
  refine bind_eq_ok (a := ()) (isOk_unit (by decide +kernel)) ?_
  refine bind_eq_ok (a := dramRead stageDev stageJob.tableSet 128) stage_read ?_
  refine bind_eq_ok (a := ()) (isOk_unit (by decide +kernel)) ?_
  refine bind_eq_ok (a := ()) (isOk_unit (by decide +kernel)) ?_
  have h := stage_images
  unfold stageSet at h
  rw [h]

theorem stage_dir : jobDirectory stageDev stageJob false = .ok (some (dirAt stageDev (stageSet.addr .thresh))) := by
  unfold jobDirectory
  simp only [Bool.false_eq_true, if_false]
  refine Eq.trans (if_neg (by decide +kernel)) ?_
  refine bind_eq_ok stage_read ?_
  refine Eq.trans (if_pos (by decide +kernel)) ?_
  exact bind_eq_ok (a := ()) (isOk_unit (by decide +kernel)) rfl

theorem stage_ok : checkJob stageDev stageJob true false 0 0 = .ok () := by
  unfold checkJob
  refine bind_eq_ok (a := ()) (isOk_unit (by decide +kernel)) ?_
  refine if_ok rfl ?_
  refine bind_eq_ok (a := ()) (isOk_unit (by decide +kernel)) ?_
  refine bind_eq_ok (a := []) rfl ?_
  refine if_ok rfl ?_
  refine bind_eq_ok (a := ()) (isOk_unit (by decide +kernel)) ?_
  refine bind_eq_ok (a := ()) (isOk_unit (by decide +kernel)) ?_
  refine if_ok rfl ?_
  refine bind_eq_ok (a := ()) (isOk_unit (by decide +kernel)) ?_
  refine bind_eq_ok (a := ()) (isOk_unit (by decide +kernel)) ?_
  refine bind_eq_ok (a := ()) (isOk_unit (by decide +kernel)) ?_
  refine bind_eq_ok stage_dir ?_
  refine bind_eq_ok (a := ()) (isOk_unit (by decide +kernel)) ?_
  refine bind_eq_ok (a := ()) (isOk_unit (by decide +kernel)) ?_
  refine bind_eq_ok (a := ()) (isOk_unit (by decide +kernel)) ?_
  refine Eq.trans (if_neg (by decide +kernel)) ?_
  refine bind_eq_ok (a := ()) (isOk_unit (by decide +kernel)) ?_
  refine if_ok rfl ?_
  refine bind_eq_ok (a := ()) (isOk_unit (by decide +kernel)) ?_
  refine if_ok rfl ?_
  refine bind_eq_ok stage_set ?_
  rfl

theorem stage_dev : (accepted jobStageRule.sig stageCmd (memDev stageMem)).any (fun x => x.1 == stageDev && x.2 == [0x200000, 0, 100]) = true := by decide +kernel

theorem jobStage_can {d : Device} {a : List Int} {b : List U8} (h1 : d.pos.mismatch = false) (h2 : argN a 0 % 64 = 0)
    (hg : getData d (argN a 0) 64 = .ok b) (hj : checkJob d (readJob b) true false 0 (min (argN a 1) (readJob b).repeatCount) = .ok ())
    (c : Cmd) : jobStageRule.can c a d = true := by
  simp [jobStageRule, h1, h2, hg, hj]

theorem met_jobStage : RuleMet jobStageRule := by
  match ha : accepted jobStageRule.sig stageCmd (memDev stageMem), stage_dev with
  | some (d, a), h =>
    simp only [Option.any_some, Bool.and_eq_true, beq_iff_eq] at h
    obtain ⟨rfl, rfl⟩ := h
    refine ⟨⟨memDev stageMem, []⟩, stageCmd, _, _, ha, ?_⟩
    have hg : getData stageDev 0x200000 64 = .ok (dramRead stageDev 0x200000 64) := by
      unfold getData
      rw [show poisonIn stageDev 0x200000 64 = none by decide +kernel]
    have e0 : argN [0x200000, 0, 100] 0 = 0x200000 := by decide
    have e1 : argN [0x200000, 0, 100] 1 = 0 := by decide
    refine jobStage_can (b := dramRead stageDev 0x200000 64) (by decide +kernel) (by rw [e0]) (by rw [e0, hg]) ?_ _
    rw [e1, Nat.zero_min]
    exact stage_ok

/-- The condition of a row's rule holds in some state. -/
def RowMet (r : Row) : Prop := ∃ s : State, r.can s.dev = true

theorem met {r : Rule} {args : List U32} {d0 : Device} (h : meets r args d0 = true) : RuleMet r := by
  have h : (accepted r.sig (cmdFor r.sig.opcode args d0) d0).any (fun x => r.can (cmdFor r.sig.opcode args d0) x.2 x.1) = true := h
  match ha : accepted r.sig (cmdFor r.sig.opcode args d0) d0 with
  | none => rw [ha] at h; cases h
  | some (d, a) => rw [ha] at h; exact ⟨⟨d0, []⟩, _, d, a, ha, h⟩

/-- A cam.config command of 29 words. -/
def camConfigCmd : Cmd :=
  { raw [0, 4, 80, 0x2A, 0, 64, 64, 1000, 1000, 100, 1, 0, 0, 0, 0, 0, 0, 1, 0, 0, 0, 0, 0, 0, 0, 0, 0, 0, 0] with crc := 2261193872 }

theorem crc_split {l : List U8} (n r : Nat) {v : U32} (h : (l.take n).foldl crcByte 0xFFFFFFFF = r)
    (hv : BitVec.ofNat 32 (Nat.xor ((l.drop n).foldl crcByte r) 0xFFFFFFFF) = v) : crc32c l = v := by
  rw [crc32c, ← List.take_append_drop n l, List.foldl_append, h]
  simpa using hv

theorem met_camConfig : RuleMet camConfigRule := by
  have hc : cmdCrc 0x400 (uidOf base .ring) camConfigCmd = 2261193872 := by
    unfold cmdCrc crcFold
    exact crc_split 70 2357275902 (by decide +kernel) (by decide +kernel)
  have hf : formOk camConfigRule.sig camConfigCmd { base with mbx := { base.mbx with cmdHead := 1 } } = true := by
    unfold formOk
    rw [Bool.and_eq_true]
    exact ⟨by decide +kernel, by rw [Bool.or_eq_true]; exact .inr (beq_iff_eq.mpr hc.symm)⟩
  refine ⟨⟨base, []⟩, camConfigCmd, { base with mbx := { base.mbx with cmdHead := 1 } },
    [0, 4, 80, 42, 0, 64, 64, 1000, 1000, 100, 1, 0, 0, 0, 0, 1, 0, 0, 0, 0, 0, 0, 0, 0, 0, 0, 0], ?_, by decide +kernel⟩
  have hr : takeFront camConfigRule.sig camConfigCmd base = some { base with mbx := { base.mbx with cmdHead := 1 } } := by decide +kernel
  rw [accepted, entered, hr]
  simp only [hf, Bool.true_and]
  decide +kernel

/-- The premises of SystemCommandsComplete. -/
theorem test_SystemCommandsComplete_met :
    RuleMet sysNopRule ∧
    RuleMet sysIdentifyRule ∧
    RuleMet sysRingRule ∧
    RuleMet sysConfigRule ∧
    RuleMet sysResultRule ∧
    RuleMet sysLatchedReadRule ∧
    RuleMet sysViolationReadRule ∧
    RuleMet sysViolationClearRule ∧
    RuleMet sysPartnerReleaseRule ∧
    RuleMet sysRolesRule ∧
    RuleMet sysPresenceRule ∧
    RuleMet sysResealRule :=
  ⟨met (args := []) (d0 := base) (by decide +kernel),
    met (args := []) (d0 := base) (by decide +kernel),
    met (args := [0, 256, 64, 64, 0, 0, 0, 0, 0, 0, 0, 0, 0, 0, 0]) (d0 := base) (by decide +kernel),
    met (args := [0x1000, 0, 0x1000, 0, 0, 0]) (d0 := base) (by decide +kernel),
    met (args := [3]) (d0 := { base with mbx := { base.mbx with remembered := [⟨.own, 3, 0, 20, 0, mkResponse base .ring 0 1 3 false 0 {}⟩] } }) (by decide +kernel),
    met (args := [2, 0, 0, 0]) (d0 := { base with acct := { base.acct with newest := Vector.replicate 3 (some ⟨live0, Vector.replicate 40 0, 0, 0, 0, 0, 0, false⟩) } }) (by decide +kernel),
    met (args := [0, 0, 0, 4]) (d0 := base) (by decide +kernel),
    met (args := [0]) (d0 := base) (by decide +kernel),
    met (args := [5, 1]) (d0 := { base with vlog := { base.vlog with isolated := [(5, 1)] } }) (by decide +kernel),
    met (args := [1, 0]) (d0 := base) (by decide +kernel),
    met (args := [1]) (d0 := base) (by decide +kernel),
    met (args := []) (d0 := base) (by decide +kernel)⟩

/-- The premises of StorageCommandsComplete. -/
theorem test_StorageCommandsComplete_met :
    RuleMet sysFwUpdateRule ∧
    RuleMet sysNvEraseRule ∧
    RuleMet sysPeekRule ∧
    RuleMet sysNvStatusRule ∧
    RuleMet sysNvSetRule ∧
    RuleMet (foragerCopyRule []) ∧
    RuleMet foragerStatusRule ∧
    RuleMet szStatusRule ∧
    RuleMet szMapRule :=
  ⟨met (args := [0, 0, 513]) (d0 := base) (by decide +kernel),
    met (args := [0]) (d0 := base) (by decide +kernel),
    met (args := [0, 0, 4]) (d0 := base) (by decide +kernel),
    met (args := [0, 0]) (d0 := base) (by decide +kernel),
    met (args := [7, 60]) (d0 := base) (by decide +kernel),
    met (args := [0, 0, 0, 0]) (d0 := base) (by decide +kernel),
    met (args := []) (d0 := base) (by decide +kernel),
    met (args := []) (d0 := { base with chip := { base.chip with modeSz := true } }) (by decide +kernel),
    met (args := (List.replicate 16 3)) (d0 := { base with chip := { base.chip with modeSz := true } }) (by decide +kernel)⟩

/-- The premises of HostAccessesComplete. -/
theorem test_HostAccessesComplete_met :
    RowMet (mbxCmdTailWriteRule 1) ∧
    RowMet (mbxRspHeadWriteRule 1) ∧
    RowMet (mbxEvtHeadWriteRule 1) ∧
    RowMet (irqStatusWriteRule 1) ∧
    RowMet (irqHoldoffExpiryRule true) ∧
    RowMet (pwrWakeWriteRule 1) ∧
    RowMet (pwrPadReleaseWriteRule 1) ∧
    RowMet (prsCloseWriteRule 1) ∧
    RowMet (diagClearWriteRule 1) ∧
    RowMet (registerWriteRule 0x20 [1, 0, 0, 0]) ∧
    RowMet (bar2AccessRule 0xFFFFFFC none 4) ∧
    RowMet (sz6WindowAccessRule 0 none true) ∧
    RowMet (foragerReadDoneRule 63 (some [1])) :=
  ⟨⟨⟨(withChip (fun c => { c with pcieUp := true })), []⟩, by decide +kernel⟩,
    ⟨⟨(withChip (fun c => { c with pcieUp := true })), []⟩, by decide +kernel⟩,
    ⟨⟨(withChip (fun c => { c with pcieUp := true })), []⟩, by decide +kernel⟩,
    ⟨⟨(withChip (fun c => { c with pcieUp := true })), []⟩, by decide +kernel⟩,
    ⟨⟨(withMbx (fun m => { m with holdEvt := true, irqStatus := 2, irqEnable := 2 })), []⟩, by decide +kernel⟩,
    ⟨⟨(withChip (fun c => { c with pcieUp := true })), []⟩, by decide +kernel⟩,
    ⟨⟨(withChip (fun c => { c with pcieUp := true })), []⟩, by decide +kernel⟩,
    ⟨⟨(withChip (fun c => { c with pcieUp := true })), []⟩, by decide +kernel⟩,
    ⟨⟨(withChip (fun c => { c with pcieUp := true })), []⟩, by decide +kernel⟩,
    ⟨⟨(withChip (fun c => { c with pcieUp := true })), []⟩, by decide +kernel⟩,
    ⟨⟨(withChip (fun c => { c with pcieUp := true })), []⟩, by decide +kernel⟩,
    ⟨⟨(withChip (fun c => { c with pcieUp := true, modeSz := true })), []⟩, by decide +kernel⟩,
    ⟨⟨(withMbx (fun m => { m with buffers := [⟨63, .own, 9, 0, 0, 0, 1⟩], fjobs := [⟨.own, 9, 0, [], none, 0, 0, false, none⟩] })), []⟩, by decide +kernel⟩⟩

/-- The premises of TransportsComplete. -/
theorem test_TransportsComplete_met :
    RowMet (mgmtBlockWriteRule (List.replicate 20 0) true) ∧
    RowMet mgmtBlockReadRule ∧
    RowMet (mgmtAddressMatchRule 0x58) ∧
    RowMet (commandDoneRule 9) ∧
    RowMet (mervanRelayReceivedRule 2 (.command 1)) ∧
    RowMet (relayTimeoutRule 3) :=
  ⟨⟨⟨base, []⟩, by decide +kernel⟩,
    ⟨⟨(withMbx (fun m => { m with mgmtState := 2 })), []⟩, by decide +kernel⟩,
    ⟨⟨(withPwr (fun p => { p with state := .deep })), []⟩, by decide +kernel⟩,
    ⟨⟨(withMbx (fun m => { m with inFlight := [{ inFl .done with async := true, final := some {} }] })), []⟩, by decide +kernel⟩,
    ⟨⟨base, []⟩, by decide +kernel⟩,
    ⟨⟨(withMbx (fun m => { m with inFlight := [inFl (.relay 2 0)] })), []⟩, by decide +kernel⟩⟩

/-- The premises of PresenceAndSealComplete. -/
theorem test_PresenceAndSealComplete_met :
    RowMet presenceHoldRule ∧
    RowMet presenceWindowExpiryRule ∧
    RowMet (sealTestRule false) ∧
    RowMet sealLoopOpenRule ∧
    RowMet sealLoopClosedRule :=
  ⟨⟨⟨base, []⟩, by decide +kernel⟩,
    ⟨⟨base, []⟩, by decide +kernel⟩,
    ⟨⟨base, []⟩, by decide +kernel⟩,
    ⟨⟨(withPrs (fun p => { p with tests := (3, 0) })), []⟩, by decide +kernel⟩,
    ⟨⟨(withPrs (fun p => { p with tests := (0, 3), loopOpen := true })), []⟩, by decide +kernel⟩⟩

/-- The premises of ResetAndSupplyComplete. -/
theorem test_ResetAndSupplyComplete_met :
    RowMet (resetNRiseRule ⟨false, false, 0⟩ []) ∧
    RowMet resetNFallRule ∧
    RowMet pwrGoodLowRule ∧
    RowMet pwrGoodHighRule ∧
    RowMet (vioLowRule 5) ∧
    RowMet (vioRestoredRule 5) ∧
    RowMet (clockFaultRule true) ∧
    RowMet clockFaultResetRule ∧
    RowMet xoRestoredRule :=
  ⟨⟨⟨State.reset.dev, []⟩, by decide +kernel⟩,
    ⟨⟨base, []⟩, by decide +kernel⟩,
    ⟨⟨base, []⟩, by decide +kernel⟩,
    ⟨⟨(withChip (fun c => { c with pwrGood := false })), []⟩, by decide +kernel⟩,
    ⟨⟨base, []⟩, by decide +kernel⟩,
    ⟨⟨(withChip (fun c => { c with vioLow := Vector.replicate 6 true })), []⟩, by decide +kernel⟩,
    ⟨⟨base, []⟩, by decide +kernel⟩,
    ⟨⟨(withChip (fun c => { c with clockFault := true, xoOk := true })), []⟩, by decide +kernel⟩,
    ⟨⟨(withChip (fun c => { c with xoOk := false })), []⟩, by decide +kernel⟩⟩

/-- The premises of BootAndFlashComplete. -/
theorem test_BootAndFlashComplete_met :
    RowMet (bootImageVerifiedRule false) ∧
    RowMet bootWatchdogRule ∧
    RowMet bootedRule ∧
    RowMet flashProgramDoneRule ∧
    RowMet journalCompactionRule ∧
    RowMet flashEraseDoneRule ∧
    RowMet checkpointTimerRule ∧
    RowMet checkpointCommittedRule :=
  ⟨⟨⟨(withNv (fun n => { n with stage := .rom })), []⟩, by decide +kernel⟩,
    ⟨⟨(withNv (fun n => { n with stage := .starting })), []⟩, by decide +kernel⟩,
    ⟨⟨(withNv (fun n => { n with stage := .starting })), []⟩, by decide +kernel⟩,
    ⟨⟨(withNv (fun n => { n with programs := [.firmware ⟨0, 0, 0, 0, 0, 0, []⟩] })), []⟩, by decide +kernel⟩,
    ⟨⟨(withNv (fun n => { n with journal := #v[some ⟨1, true, [], 500000⟩, none] })), []⟩, by decide +kernel⟩,
    ⟨⟨(withNv (fun n => { n with erases := [1] })), []⟩, by decide +kernel⟩,
    ⟨⟨base, []⟩, by decide +kernel⟩,
    ⟨⟨(withNv (fun n => { n with writing := some ⟨[], [], 0, 0, 0, 0⟩, cleaned := [160, 192] })), []⟩, by decide +kernel⟩⟩

/-- The premises of PowerComplete. -/
theorem test_PowerComplete_met :
    RowMet domainDrainedRule ∧
    RowMet drainTimeoutRule ∧
    RuleMet pwrStateRule ∧
    RuleMet pwrStatusRule ∧
    RuleMet pwrIdleRule ∧
    RowMet idleEntryRule ∧
    RowMet idleExitRule ∧
    RowMet wakeNLowRule :=
  ⟨⟨⟨(withPwr (fun p => { p with phase := 1, todo := [2] })), []⟩, by decide +kernel⟩,
    ⟨⟨(withPwr (fun p => { p with phase := 1 })), []⟩, by decide +kernel⟩,
    met (args := [1, 0, 0]) (d0 := base) (by decide +kernel),
    met (args := []) (d0 := base) (by decide +kernel),
    met (args := [1]) (d0 := base) (by decide +kernel),
    ⟨⟨(withMbx (fun m => { m with cmdTail := 0 })), []⟩, by decide +kernel⟩,
    ⟨⟨base, []⟩, by decide +kernel⟩,
    ⟨⟨base, []⟩, by decide +kernel⟩⟩

/-- The premises of EncodersComplete. -/
theorem test_EncodersComplete_met :
    RowMet (encoderCountRule 0 .aLeads) ∧
    RowMet (encoderCountRule 1 .both) ∧
    RowMet (encoderFaultedRule 0 .illegal) ∧
    RowMet encoderWindowEndRule ∧
    RowMet (indexPulseRule 0) ∧
    RowMet encoderStallRule :=
  ⟨⟨⟨(withPos (fun p => { p with role := .master })), []⟩, by decide +kernel⟩,
    ⟨⟨(withPos (fun p => { p with role := .master, encMode := 1 })), []⟩, by decide +kernel⟩,
    ⟨⟨(withPos (fun p => { p with role := .master, encs := Vector.replicate 2 { illegal := [3, 2, 1, 0] } })), []⟩, by decide +kernel⟩,
    ⟨⟨(withPos (fun p => { p with role := .master, encMode := 1, encs := Vector.replicate 2 { window := 20000 } })), []⟩, by decide +kernel⟩,
    ⟨⟨(withPos (fun p => { p with role := .master, indexPitch := 1000 })), []⟩, by decide +kernel⟩,
    ⟨⟨(withPos (fun p => { p with role := .master })), []⟩, by decide +kernel⟩⟩

/-- The premises of PositionComplete. -/
theorem test_PositionComplete_met :
    RowMet (pdEdgeRule 0 true) ∧
    RowMet pdConfirmTimeoutRule ∧
    RowMet (sheetOpenNoticeReceivedRule 0 0 0) ∧
    RowMet wposSampleBroadcastRule ∧
    RowMet (wposSampleReceivedRule sample0) ∧
    RowMet positionLostRule ∧
    RowMet deputyTakeoverRule ∧
    RowMet (overRateDetectRule 1021) ∧
    RuleMet posConfigRule ∧
    RuleMet posStatusRule ∧
    RuleMet posSetRule ∧
    RuleMet sheetConfigRule :=
  ⟨⟨⟨(master sheetRun), []⟩, by decide +kernel⟩,
    ⟨⟨{ base with sheet := { base.sheet with confirm := [0] } }, []⟩, by decide +kernel⟩,
    ⟨⟨base, []⟩, by decide +kernel⟩,
    ⟨⟨(master base), []⟩, by decide +kernel⟩,
    ⟨⟨(locked base), []⟩, by decide +kernel⟩,
    ⟨⟨(withPos (fun p => { p with valid := true })), []⟩, by decide +kernel⟩,
    ⟨⟨(withPos (fun p => { p with role := .deputy, valid := true })), []⟩, by decide +kernel⟩,
    ⟨⟨withRunning, []⟩, by decide +kernel⟩,
    met (args := [1, 0, 0, 1, 1, 0, 1, 0, 0, 0, 1, 0, 600]) (d0 := base) (by decide +kernel),
    met (args := []) (d0 := base) (by decide +kernel),
    met (args := [0, 0]) (d0 := { base with pos := { base.pos with role := .master } }) (by decide +kernel),
    met (args := [0, 0, 0, 0, 0, 0, 0, 0]) (d0 := base) (by decide +kernel)⟩

/-- The premises of JobCommandsComplete. -/
theorem test_JobCommandsComplete_met :
    RuleMet jobStageRule ∧
    RuleMet jobCommitRule ∧
    RuleMet jobAppendRule ∧
    RuleMet jobCancelRule ∧
    RuleMet jobStopRule ∧
    RuleMet jobStatusRule :=
  ⟨met_jobStage,
    met (args := [5, 0, 0, 0]) (d0 := withStaged) (by decide +kernel),
    met (args := [5, 1]) (d0 := withRepeat) (by decide +kernel),
    met (args := [5]) (d0 := withStaged) (by decide +kernel),
    met (args := [5]) (d0 := withRunning) (by decide +kernel),
    met (args := []) (d0 := base) (by decide +kernel)⟩

/-- The premises of JobChangeComplete. -/
theorem test_JobChangeComplete_met :
    RowMet (scheduleReceivedRule 5 0 0) ∧
    RowMet (readyReceivedRule 1 5 true 0) ∧
    RowMet decisionPointRule ∧
    RowMet (goReceivedRule 5 0) ∧
    RowMet (goAckReceivedRule 1 5 0) ∧
    RowMet abortDeadlineRule ∧
    RowMet (abortReceivedRule 5 0) ∧
    RowMet (cancelReceivedRule 5) :=
  ⟨⟨⟨base, []⟩, by decide +kernel⟩,
    ⟨⟨(master (withJobs (fun j => { j with change := some chg }))), []⟩, by decide +kernel⟩,
    ⟨⟨(master (withJobs (fun j => { j with change := some { chg with go := false } }))), []⟩, by decide +kernel⟩,
    ⟨⟨{ withJobs (fun j => { j with change := some chg }) with fabric := { base.fabric with holders := Vector.replicate 3 (some ⟨1, 0⟩) } }, []⟩, by decide +kernel⟩,
    ⟨⟨(master (withJobs (fun j => { j with change := some chg }))), []⟩, by decide +kernel⟩,
    ⟨⟨(master (withJobs (fun j => { j with change := some chg }))), []⟩, by decide +kernel⟩,
    ⟨⟨(withJobs (fun j => { j with change := some chg })), []⟩, by decide +kernel⟩,
    ⟨⟨(withJobs (fun j => { j with change := some chg })), []⟩, by decide +kernel⟩⟩

/-- The premises of BoundariesComplete. -/
theorem test_BoundariesComplete_met :
    RowMet changeWposRule ∧
    RowMet repeatBoundaryRule ∧
    RowMet (bandCloseNoticeReceivedRule 0 0) ∧
    RowMet bandNoticePitchRule ∧
    RowMet bandBoundaryRule ∧
    RowMet (shadowBankLoadRule .sub) ∧
    RowMet (shadowBankLoadDoneRule .sub) :=
  ⟨⟨⟨(withJobs (fun j => { j with change := some chg })), []⟩, by decide +kernel⟩,
    ⟨⟨{ withRunning with jobs := { withRunning.jobs with boundaries := true } }, []⟩, by decide +kernel⟩,
    ⟨⟨base, []⟩, by decide +kernel⟩,
    ⟨⟨(master { base with acct := { base.acct with lastNotice := some 0 } }), []⟩, by decide +kernel⟩,
    ⟨⟨{ base with acct := { base.acct with bandClose := [(0, 0)] } }, []⟩, by decide +kernel⟩,
    ⟨⟨{ base with banks := { base.banks with queue := [⟨.sub, 0, 0, 0, 0, .job⟩] } }, []⟩, by decide +kernel⟩,
    ⟨⟨{ base with banks := { base.banks with tbl := Vector.replicate 6 { pending := some ⟨.sub, 0, 0, 0, 0, .job⟩ } } }, []⟩, by decide +kernel⟩⟩

/-- The premises of FeedAndScreenComplete. -/
theorem test_FeedAndScreenComplete_met :
    RowMet repeatDueRule ∧
    RowMet (blockFetchRule 0) ∧
    RowMet (blockDecompressedRule 0) ∧
    RowMet (decompressorResumeRule 7 1) ∧
    RowMet (screenLineRule 39) ∧
    RowMet (captureTimeoutRule 9) ∧
    RuleMet screenStatusRule ∧
    RuleMet subLoadRule ∧
    RuleMet subReadRule ∧
    RuleMet (screenCaptureRule withRunning) :=
  ⟨⟨⟨running2, []⟩, by decide +kernel⟩,
    ⟨⟨fetchDev, []⟩, by decide +kernel⟩,
    ⟨⟨(blockRing running2), []⟩, by decide +kernel⟩,
    ⟨⟨(withFeed (fun x => { x with rings := Vector.replicate 8 { suspended := true } }) base), []⟩, by decide +kernel⟩,
    ⟨⟨base, []⟩, by decide +kernel⟩,
    ⟨⟨(withMbx (fun m => { m with inFlight := [inFl (.capture 0 0 0 0)] })), []⟩, by decide +kernel⟩,
    met (args := [39]) (d0 := base) (by decide +kernel),
    met (args := [0, 0, 0, 0, 1]) (d0 := base) (by decide +kernel),
    met (args := [0, 0, 0, 0]) (d0 := base) (by decide +kernel),
    met (args := [39, 3, 0, 0]) (d0 := withRunning) (by decide +kernel)⟩

/-- The premises of FiringComplete. -/
theorem test_FiringComplete_met :
    RuleMet lineInhibitRule ∧
    RuleMet lineConfigRule ∧
    RowMet (lineCommitRule 39) ∧
    RowMet (fireCellStartRule 39 0) ∧
    RowMet (nullLineKeepaliveRule 39) :=
  ⟨met (args := [1, 0, 1]) (d0 := base) (by decide +kernel),
    met (args := [0, 0]) (d0 := { base with dram := { base.dram with data := (List.range 40).flatMap (fun h => [(32 * h + 12, 0xE8), (32 * h + 13, 3)]) } }) (by decide +kernel),
    ⟨⟨committing, []⟩, by decide +kernel⟩,
    ⟨⟨firingDev, []⟩, by decide +kernel⟩,
    ⟨⟨committing, []⟩, by decide +kernel⟩⟩

/-- The premises of HeadLinksComplete. -/
theorem test_HeadLinksComplete_met :
    RuleMet headLinkRule ∧
    RuleMet headStatusRule ∧
    RuleMet headEchoRule ∧
    RuleMet headSafeRule ∧
    RuleMet headWitnessRule ∧
    RowMet (statusReportReceivedRule 39 (stat 0 48)) ∧
    RowMet (statusIdentReceivedRule 39 (stat 1 32)) ∧
    RowMet (statusEchoReceivedRule 39 (stat 3 20) 100) ∧
    RowMet (statusWitnessReceivedRule 39 (stat 2 24)) ∧
    RowMet (controlReplyTimeoutRule 39) ∧
    RowMet (statusSilentRule 39) ∧
    RowMet (fhlCrcBurstRule 39) ∧
    RowMet headSafeNRiseRule :=
  ⟨met (args := [1, 0, 0, 512, 1]) (d0 := base) (by decide +kernel),
    met (args := [39]) (d0 := base) (by decide +kernel),
    met (args := [39]) (d0 := { base with links := upd base.links 39 (fun l => { l with state := .linked }) }) (by decide +kernel),
    met (args := [1]) (d0 := base) (by decide +kernel),
    met (args := [1, 0]) (d0 := base) (by decide +kernel),
    ⟨⟨(linkedHead base), []⟩, by decide +kernel⟩,
    ⟨⟨(awaiting' 0), []⟩, by decide +kernel⟩,
    ⟨⟨(awaiting' 6), []⟩, by decide +kernel⟩,
    ⟨⟨(linkedHead base), []⟩, by decide +kernel⟩,
    ⟨⟨(awaiting' 0), []⟩, by decide +kernel⟩,
    ⟨⟨(lanesAre .up { base with links := Vector.replicate 40 { configured := true } }), []⟩, by decide +kernel⟩,
    ⟨⟨(linkedHead base), []⟩, by decide +kernel⟩,
    ⟨⟨(withChip (fun c => { c with headSafeLow := true })), []⟩, by decide +kernel⟩⟩

/-- The premises of AdaptersComplete. -/
theorem test_AdaptersComplete_met :
    RowMet (adapterLineCellRule 39 true line0) ∧
    RowMet (adapterFireCellRule 39 true fire0) ∧
    RowMet (adapterFireTriggerRule 39) ∧
    RowMet (adapterControlCellRule 39 true ctrl0) ∧
    RowMet (adapterControlRepeatRule 39 true ctrl0) ∧
    RowMet (adapterHeadSafeRule 39) ∧
    RowMet (adapterReportTimerRule ⟨39, 0, false, false, true⟩) ∧
    RowMet (adapterReportTimerRule ⟨39, 0, true, false, false⟩) :=
  ⟨⟨⟨(adapterDev (fun a => { a with configured := true })), []⟩, by decide +kernel⟩,
    ⟨⟨(adapterDev (fun a => { a with configured := true, inhibited := false, held := [⟨line0, 0⟩] })), []⟩, by decide +kernel⟩,
    ⟨⟨(adapterDev (fun a => { a with due := [⟨0, 5, 0, 0, 0, false, []⟩] })), []⟩, by decide +kernel⟩,
    ⟨⟨(adapterDev id), []⟩, by decide +kernel⟩,
    ⟨⟨(adapterDev (fun a => { a with ports := Vector.replicate 2 { lastCtrl := some (1, stat0 3 20) } })), []⟩, by decide +kernel⟩,
    ⟨⟨(adapterDev id), []⟩, by decide +kernel⟩,
    ⟨⟨(adapterDev (fun a => { a with configured := true })), []⟩, by decide +kernel⟩,
    ⟨⟨(adapterDev (fun a => { a with configured := true })), []⟩, by decide +kernel⟩⟩

/-- A CONTROL cell of CONFIG, under the epoch rule "not lower". -/
def config0 : ControlCell := let c : ControlCell := ⟨1, 24, 1, 0, List.replicate 8 0, 0, 3, (0, 0)⟩; { c with crc := controlCrc 39 true c }

/-- Cells that fail their CRC, and a CONTROL cell of another TYPE with its CRC. -/
def badLine : LineCell := { line0 with crc := line0.crc + 1 }

def badFire : FireCell := { fire0 with crc := fire0.crc + 1 }

def badControl : ControlCell := { ctrl0 with crc := ctrl0.crc + 1 }

def typ2 : ControlCell := let c : ControlCell := { ctrl0 with typ := 2 }; { c with crc := controlCrc 39 true c }

/-- The premises of DiscardedCells: a powered adapter that has seen EPOCH 1 and is not CONFIGURED, and a cell of each kind that fails its CRC, that has a
lower EPOCH, and that is wrong in another way; at EPOCH 0 the LINE and FIRE cells meet the third. -/
theorem test_DiscardedCells_met :
    let d := adapterDev id
    let e := adapterDev (fun a => { a with highest := 1 })
    adFacts d 39 true = some facts0 ∧ adFacts e 39 true = some facts0 ∧
      badLine.crc ≠ lineCrc 39 true badLine ∧ badFire.crc ≠ fireCrc 39 true badFire ∧ badControl.crc ≠ controlCrc 39 true badControl ∧
      line0.crc = lineCrc 39 true line0 ∧ line0.epoch < e.adapters[(39 : Head)].highest ∧ ¬ line0.epoch < d.adapters[(39 : Head)].highest ∧
      (raiseEpoch 39 line0.epoch d).adapters[(39 : Head)].configured = false ∧
      fire0.crc = fireCrc 39 true fire0 ∧ fire0.epoch < e.adapters[(39 : Head)].highest ∧ fireLine 39 fire0 (raiseEpoch 39 fire0.epoch d) = none ∧
      typ2.crc = controlCrc 39 true typ2 ∧ typ2.typ ≠ 3 ∧ config0.crc = controlCrc 39 true config0 ∧ config0.typ = 3 ∧
      config0.length.toNat = controlLength config0.subtype.toNat ∧ config0.payload.length + 16 = config0.length.toNat ∧
      (adPort e 39 true).lastCtrl.any (fun x => x.1 == config0.seq) = false ∧ notLower config0 = true ∧
      config0.epoch < e.adapters[(39 : Head)].highest := by
  decide +kernel

/-- The premises of WaveformsComplete. -/
theorem test_WaveformsComplete_met :
    RuleMet waveLoadRule ∧
    RuleMet waveTrimRule ∧
    RuleMet waveLimitsRule ∧
    RuleMet waveConfigRule ∧
    RuleMet dacCalibrateRule ∧
    RuleMet dacStatusRule ∧
    RuleMet dacRotationRule ∧
    RowMet (rotationTimerRule 4) ∧
    RowMet (handoverRule 4) ∧
    RowMet (calibrationRunDoneRule 4 ⟨0, 0⟩) ∧
    RowMet (monitorVisitRule 32 0 0 0) :=
  ⟨met_waveLoad,
    met (args := [39, 0]) (d0 := base) (by decide +kernel),
    met (args := [1, 0, 1024]) (d0 := base) (by decide +kernel),
    met (args := [39, 0, 256, 0, 1, 0, 0, 0]) (d0 := base) (by decide +kernel),
    met (args := [4, 15]) (d0 := base) (by decide +kernel),
    met (args := [4]) (d0 := base) (by decide +kernel),
    met (args := [4, 1, 1]) (d0 := base) (by decide +kernel),
    ⟨⟨base, []⟩, by decide +kernel⟩,
    ⟨⟨{ base with drive := { base.drive with groups := Vector.replicate 5 { waiting := some (7, .rotation) } } }, []⟩, by decide +kernel⟩,
    ⟨⟨{ base with drive := { base.drive with groups := Vector.replicate 5 { cal := some (0, none) } } }, []⟩, by decide +kernel⟩,
    ⟨⟨base, []⟩, by decide +kernel⟩⟩

/-- The premises of SuppliesComplete. -/
theorem test_SuppliesComplete_met :
    RuleMet (hvConfigRule [.ok 0]) ∧
    RuleMet hvPowerRule ∧
    RuleMet hvLimitsRule ∧
    RuleMet hvStatusRule ∧
    RowMet (hvStepGoodRule 0) ∧
    RowMet onDelayExpiryRule ∧
    RowMet (pgTimeoutRule 15) ∧
    RowMet (pmbusStatusPollRule 0 (.ok 0)) ∧
    RowMet (pmbusTelemetryPollRule 0 (.ok 0) (.ok 0) (.ok 0)) ∧
    RowMet (pmbAlertRule ⟨true, some 0⟩ (.ok 0)) ∧
    RowMet pmbStretchRule ∧
    RowMet (pmbSilentRule 0) :=
  ⟨met (args := [100, 16, 0, 0, 1, 0, 0, 0, 1, 0, 0]) (d0 := base) (by decide +kernel),
    met (args := [0, 1]) (d0 := base) (by decide +kernel),
    met (args := [0, 0, 0, 0]) (d0 := { base with drive := { base.drive with supplies := [⟨16, 0, 1, 0, 0, 1, 0, false⟩] } }) (by decide +kernel),
    met (args := []) (d0 := base) (by decide +kernel),
    ⟨⟨{ base with drive := { base.drive with seqOn := true, seqWait := [0], supplies := [⟨16, 0, 1, 0, 0, 1, 0, false⟩] } }, []⟩, by decide +kernel⟩,
    ⟨⟨{ base with drive := { base.drive with seqOn := true } }, []⟩, by decide +kernel⟩,
    ⟨⟨{ base with drive := { base.drive with seqOn := true, seqWait := [15] } }, []⟩, by decide +kernel⟩,
    ⟨⟨pd, []⟩, by decide +kernel⟩,
    ⟨⟨pd, []⟩, by decide +kernel⟩,
    ⟨⟨pd, []⟩, by decide +kernel⟩,
    ⟨⟨pd, []⟩, by decide +kernel⟩,
    ⟨⟨pd, []⟩, by decide +kernel⟩⟩

/-- The premises of CameraCommandsComplete. -/
theorem test_CameraCommandsComplete_met :
    RuleMet camConfigRule ∧
    RuleMet camRunRule ∧
    RuleMet camSettingsRule ∧
    RuleMet camScheduleRule ∧
    RuleMet camStreamRule ∧
    RuleMet camReleaseRule ∧
    RuleMet camTablesRule ∧
    RuleMet camDarkCalRule ∧
    RuleMet camWhiteCalRule ∧
    RuleMet camFocusRule ∧
    RuleMet camBandRule ∧
    RuleMet camStatsRule ∧
    RuleMet camCciRule ∧
    RuleMet camStatusRule :=
  ⟨met_camConfig,
    met (args := [1, 0]) (d0 := base) (by decide +kernel),
    met (args := [0, 0, 0x1000, 0]) (d0 := { base with dram := { base.dram with data := [(0x1000, 1)] } }) (by decide +kernel),
    met (args := [0, 4, 0]) (d0 := base) (by decide +kernel),
    met (args := [0, 0, 0, 0, 1, 0, 0, 0, 0, 1, 1, 0, 0, 0, 65536, 0, 0]) (d0 := base) (by decide +kernel),
    met (args := [0, 0]) (d0 := base) (by decide +kernel),
    met_camTables,
    met (args := [0, 16, 256]) (d0 := (port0 (fun c => { c with running := true }))) (by decide +kernel),
    met (args := [0, 1, 0]) (d0 := (port0 (fun c => { c with cfg := { c.cfg with safWhite := (0, 8) } }))) (by decide +kernel),
    met (args := [0, 0, 0, 1, 0, 0, 0, 0, 0, 0, 0]) (d0 := base) (by decide +kernel),
    met (args := [1, 1]) (d0 := base) (by decide +kernel),
    met (args := [0, 0]) (d0 := (port0 (fun c => { c with newest := some ⟨none, 0, [], false⟩ }))) (by decide +kernel),
    met (args := [0, 0, 1, 0, 0]) (d0 := base) (by decide +kernel),
    met (args := [0]) (d0 := base) (by decide +kernel)⟩

/-- The premises of CameraRowsComplete. -/
theorem test_CameraRowsComplete_met :
    RowMet (camTriggerRule 3) ∧
    RowMet (calTimerTriggerRule 3) ∧
    RowMet (csiFrameStartRule ⟨3, 0, true, true, true⟩) ∧
    RowMet (csiFrameEndRule ⟨3, 0, true, true, false⟩) ∧
    RowMet (csiLongPacketRule 3 ⟨0x2C, 0, 0, true, true, true, false, []⟩) ∧
    RowMet (csiCrcBurstRule 3) ∧
    RowMet (sensorSilentRule 3) ∧
    RowMet (lp11DetectedRule 3) ∧
    RowMet (cciTransactionDoneRule true (.ok 0)) ∧
    RowMet (cciStretchRule true) ∧
    RowMet (cciSilentRule 0) ∧
    RowMet (pipelineLineRule 3) :=
  ⟨⟨⟨(master (camDev (fun c => { c with running := true, trigAt := 0 }))), []⟩, by decide +kernel⟩,
    ⟨⟨(camDev (fun c => { c with running := true, dark := some ⟨0, 0, 0, 0, []⟩ })), []⟩, by decide +kernel⟩,
    ⟨⟨(camDev (fun c => { c with running := true })), []⟩, by decide +kernel⟩,
    ⟨⟨(camDev (fun c => { c with running := true })), []⟩, by decide +kernel⟩,
    ⟨⟨(camDev (fun c => { c with running := true, inFrame := true })), []⟩, by decide +kernel⟩,
    ⟨⟨(camDev (fun c => { c with running := true, band := some { crcBad := 65 } })), []⟩, by decide +kernel⟩,
    ⟨⟨(camDev (fun c => { c with running := true, silent := 4096 })), []⟩, by decide +kernel⟩,
    ⟨⟨(camDev (fun c => { c with waitLp11 := true })), []⟩, by decide +kernel⟩,
    ⟨⟨cciDev, []⟩, by decide +kernel⟩,
    ⟨⟨cciDev, []⟩, by decide +kernel⟩,
    ⟨⟨cciDev, []⟩, by decide +kernel⟩,
    ⟨⟨(camDev (fun c => { c with buffer := [⟨[], 0, 0⟩] }) |> fun d => { d with cams := { d.cams with turn := 3 } }), []⟩, by decide +kernel⟩⟩

/-- The premises of LoopCommandsComplete. -/
theorem test_LoopCommandsComplete_met :
    RuleMet loopConfigRule ∧
    RuleMet loopColourRule ∧
    RuleMet modelLoadRule ∧
    RuleMet loopEnableRule ∧
    RuleMet loopStatusRule ∧
    RuleMet (loopReadRule base) ∧
    RuleMet loopResetRule ∧
    RuleMet loopCheckConfigRule ∧
    RuleMet loopCheckReadRule :=
  ⟨met (args := [1, 1, 1, 1, 1, 1, 0, 100, 0, 0, 0, 0, 0, 0]) (d0 := base) (by decide +kernel),
    met (args := [0, 1, 0, 0, 16]) (d0 := base) (by decide +kernel),
    met_modelLoad,
    met (args := [0, 0]) (d0 := { base with mbx := { base.mbx with measuring := true } }) (by decide +kernel),
    met (args := [7]) (d0 := base) (by decide +kernel),
    met (args := [0, 0, 0, 0]) (d0 := base) (by decide +kernel),
    met (args := [0, 0, 1, 0]) (d0 := base) (by decide +kernel),
    met (args := [8, 4, 0, 5, 10]) (d0 := base) (by decide +kernel),
    met (args := [0, 0, 0]) (d0 := base) (by decide +kernel)⟩

/-- A measuring node that a record has reached. -/
def got (b : List U8) : Device := { measDev with cz := { measDev.cz with inbox := [(1, b)] } }

/-- A strip of eight runs of four lines, which head 39 fired. -/
def strip0 : StripRecord := ⟨0, 5, 0, 0, 8, 4, BitVec.ofNat 40 (2 ^ 39)⟩

/-- Three camera lines in a run of that strip. -/
def lum3 (pos : Nat) : List LumLine := (List.range 3).map (fun i => ⟨0, pos + i, false, [100]⟩)

/-- A measuring node with that strip's record, whose first camera has seen its first two runs. -/
def stripDev : Device :=
  { got (stripBytes strip0) with
    cams := { base.cams with ports := Vector.replicate 4 { cfg := { width := 1, pixelStep := 1 } } }
    loop := { base.loop with portMask := 1, lum := lum3 0 ++ lum3 200000
                             colours := Vector.replicate 8 { span := some ⟨0, false, 5, 0, [⟨39, 0, 0⟩]⟩ } } }

/-- The premises of LoopRowsComplete. -/
theorem test_LoopRowsComplete_met :
    RowMet (spanRecordReceivedRule ⟨0, false, 5, 0, []⟩) ∧
    RowMet (proxyRecordReceivedRule ⟨0, false, 5, 0, 0, 0, 0, []⟩) ∧
    RowMet (proxyRecordSendRule 0) ∧
    RowMet (stripRecordSendRule 0) ∧
    RowMet (stripAnalysisRule strip0 0) ∧
    RowMet loopSolveDoneRule :=
  ⟨⟨⟨got [2, 0, 0, 0, 5], []⟩, by decide +kernel⟩,
    ⟨⟨got [1, 0, 0, 0, 5], []⟩, by decide +kernel⟩,
    ⟨⟨owning, []⟩, by decide +kernel⟩,
    ⟨⟨owning, []⟩, by decide +kernel⟩,
    ⟨⟨stripDev, []⟩, by decide +kernel⟩,
    ⟨⟨(withLoop (fun l => { l with queue := [⟨0, [], 0, 0⟩] }) base), []⟩, by decide +kernel⟩⟩

/-- The premises of CompressionComplete. -/
theorem test_CompressionComplete_met :
    RowMet (dictMessageReceivedRule ⟨1, 1, false, 0, 0, 0, [], .waggle⟩) ∧
    RowMet (streamNoticeReceivedRule 1 true 1) ∧
    RowMet (compressorResumeRule 1 2) ∧
    RuleMet czCompressRule ∧
    RowMet (blockCompressedRule 1) ∧
    RuleMet czDecompressRule ∧
    RuleMet czDictResetRule ∧
    RuleMet czStatusRule ∧
    RowMet (crcSegmentRule 7 (.write 0) []) ∧
    RuleMet crcConfigRule ∧
    RuleMet crcReadRule ∧
    RuleMet crcWriteRule ∧
    RuleMet crcEnableRule :=
  ⟨⟨⟨base, []⟩, by decide +kernel⟩,
    ⟨⟨base, []⟩, by decide +kernel⟩,
    ⟨⟨{ base with cz := { base.cz with enc := Vector.replicate 2 { stalled := true } } }, []⟩, by decide +kernel⟩,
    met (args := [0, 0, 1, 0, 0, 0, 64, 0, 1, 0, 0, 0]) (d0 := base) (by decide +kernel),
    ⟨⟨{ base with cz := { base.cz with jobs := [⟨.own, 9, some 1, 0, 0, 0, 0, 0, 0, 0, []⟩] } }, []⟩, by decide +kernel⟩,
    met (args := [0, 0, 0x1000, 0, 0, 0]) (d0 := base) (by decide +kernel),
    met (args := [1, 1]) (d0 := base) (by decide +kernel),
    met (args := []) (d0 := { base with mbx := { base.mbx with slotSize := 4096 } }) (by decide +kernel),
    ⟨⟨{ base with crcs := Vector.replicate 8 { enabled := true } }, []⟩, by decide +kernel⟩,
    met (args := [7, 0, 0, 0, 0, 0, 0, 0, 0, 0, 0, 8, 0, 0, 0, 0, 0, 0, 0, 0, 0]) (d0 := base) (by decide +kernel),
    met (args := [7]) (d0 := base) (by decide +kernel),
    met (args := [7, 0, 0, 0, 0, 0, 0, 0, 0]) (d0 := base) (by decide +kernel),
    met (args := [255, 1]) (d0 := base) (by decide +kernel)⟩

/-- The premises of DramCommandsComplete. -/
theorem test_DramCommandsComplete_met :
    RuleMet memStatusRule ∧
    RuleMet memFreqRule ∧
    RuleMet memTrainRule ∧
    RuleMet memFenceRule ∧
    RuleMet memQosRule ∧
    RuleMet memRowhammerRule ∧
    RuleMet memScrubRule ∧
    RuleMet memErrorsRule :=
  ⟨met (args := []) (d0 := { base with mbx := { base.mbx with slotSize := 4096 } }) (by decide +kernel),
    met (args := [0]) (d0 := base) (by decide +kernel),
    met (args := [0, 0]) (d0 := base) (by decide +kernel),
    met (args := [1023]) (d0 := base) (by decide +kernel),
    met (args := (List.replicate 9 1)) (d0 := base) (by decide +kernel),
    met (args := [256]) (d0 := base) (by decide +kernel),
    met (args := [1, 1]) (d0 := base) (by decide +kernel),
    met (args := [0, 0, 4]) (d0 := base) (by decide +kernel)⟩

/-- The premises of DramRowsComplete. -/
theorem test_DramRowsComplete_met :
    RowMet (dramRequestRule ⟨0, 2 ^ 33 / 16 * 15 - 32, none, 32, []⟩) ∧
    RowMet (trainingDoneRule ⟨2, Vector.replicate 8 0, Vector.replicate 16 0, Vector.replicate 8 0, Vector.replicate 8 0, Vector.replicate 16 0⟩) ∧
    RowMet deferredTrainingStartRule ∧
    RowMet trainingHoldExpiryRule ∧
    RowMet (refreshDueRule 3 1 true) ∧
    RowMet refreshWindowRule ∧
    RowMet (mr4ReadRule ⟨3, 3⟩ 4 false) ∧
    RowMet (dqsTrackingRule 7 0) ∧
    RowMet (scrubReadRule true (some .line)) ∧
    RowMet dramCorrectedReportRule :=
  ⟨⟨⟨base, []⟩, by decide +kernel⟩,
    ⟨⟨(withDram (fun x => { x with work := some (.freq 2) })), []⟩, by decide +kernel⟩,
    ⟨⟨(withDram (fun x => { x with deferred := [.freq 2] })), []⟩, by decide +kernel⟩,
    ⟨⟨(withDram (fun x => { x with holding := true })), []⟩, by decide +kernel⟩,
    ⟨⟨base, []⟩, by decide +kernel⟩,
    ⟨⟨base, []⟩, by decide +kernel⟩,
    ⟨⟨(withDram (fun x => { x with dies := List.replicate 4 ⟨16, true, 2, true, Vector.replicate 2 none⟩ })), []⟩, by decide +kernel⟩,
    ⟨⟨base, []⟩, by decide +kernel⟩,
    ⟨⟨base, []⟩, by decide +kernel⟩,
    ⟨⟨(withDram (fun x => { x with corrected := (1, 0) })), []⟩, by decide +kernel⟩⟩

/-- The premises of LanesComplete. -/
theorem test_LanesComplete_met :
    RowMet (laneAttemptStartRule .wl) ∧
    RowMet (partnerT1DetectedRule .wl) ∧
    RowMet (trainingPhaseTimeoutRule .wl) ∧
    RowMet (cdrLockRule ⟨.wl, 0⟩) ∧
    RowMet (receiverAdaptedRule .wl) ∧
    RowMet (trainingWordReceivedRule .wl trainW false) ∧
    RowMet (peppercornTestEndRule .wl []) ∧
    RowMet (lossOfSignalRule .wl) ∧
    RowMet (codeErrorBurstRule .wl []) ∧
    RowMet (eqFreezeRule .wl) ∧
    RowMet (eqResumeRule .wl) ∧
    RowMet (electricalIdleEntryRule .wl) ∧
    RowMet (electricalIdleNoticeRule .wl) ∧
    RowMet (wakeBurstTimerRule .wl) ∧
    RowMet (wakeBurstMissingRule .wl) ∧
    RuleMet laneConfigRule ∧
    RuleMet laneStatusRule ∧
    RuleMet laneRetrainRule ∧
    RuleMet lanePrbsRule :=
  ⟨⟨⟨(lane { state := .backoff }), []⟩, by decide +kernel⟩,
    ⟨⟨(lane { state := .training }), []⟩, by decide +kernel⟩,
    ⟨⟨(lane { phase := some .t1 }), []⟩, by decide +kernel⟩,
    ⟨⟨(lane { phase := some .t1 }), []⟩, by decide +kernel⟩,
    ⟨⟨(lane { phase := some .t2 }), []⟩, by decide +kernel⟩,
    ⟨⟨(lane { phase := some .t3 }), []⟩, by decide +kernel⟩,
    ⟨⟨(lane { state := .test }), []⟩, by decide +kernel⟩,
    ⟨⟨(lane { state := .up }), []⟩, by decide +kernel⟩,
    ⟨⟨fab, []⟩, by decide +kernel⟩,
    ⟨⟨fab, []⟩, by decide +kernel⟩,
    ⟨⟨fab, []⟩, by decide +kernel⟩,
    ⟨⟨(lane { state := .up, idleTime := 10 }), []⟩, by decide +kernel⟩,
    ⟨⟨fab, []⟩, by decide +kernel⟩,
    ⟨⟨(lane { state := .idle, txIdle := true }), []⟩, by decide +kernel⟩,
    ⟨⟨(lane { state := .idle, rxIdle := true }), []⟩, by decide +kernel⟩,
    met (args := [0, 1, 0, 0, 0, 0, 10]) (d0 := base) (by decide +kernel),
    met (args := [80]) (d0 := base) (by decide +kernel),
    met (args := [64]) (d0 := base) (by decide +kernel),
    met (args := [80, 0, 0]) (d0 := { base with lanes := Vector.replicate 49 { state := .up } }) (by decide +kernel)⟩

/-- The premises of FabricLinksComplete. -/
theorem test_FabricLinksComplete_met :
    RowMet (creditReceivedRule 3 (Vector.replicate 4 0) (linkEnd 2 (List.replicate 16 0))) ∧
    RowMet (creditInitReceivedRule 3 (Vector.replicate 4 0) (linkEnd 3 (List.replicate 8 0))) ∧
    RowMet (creditGrantTimerRule 3) ∧
    RowMet (auditReceivedRule 3 0 0 (Vector.replicate 4 0) (linkEnd 7 (List.replicate 20 0))) ∧
    RowMet (auditReplyReceivedRule 3 0 (Vector.replicate 4 0) (linkEnd 8 (List.replicate 20 0))) ∧
    RowMet (auditResendRule 3) ∧
    RowMet (ackReceivedRule (.port 3) 0 (linkEnd 0 (List.replicate 4 0))) ∧
    RowMet (ackReceivedRule .waggle 0 (wagEnd 2 (List.replicate 4 0))) ∧
    RowMet (nakReceivedRule (.port 3) 0 (linkEnd 1 (List.replicate 4 0))) ∧
    RowMet (nakReceivedRule .waggle 0 (wagEnd 3 (List.replicate 4 0))) ∧
    RowMet (replayTimeoutRule (.port 3)) ∧
    RowMet (ackTimerRule (.port 3)) ∧
    RowMet (replayBudgetRule (.port 3)) :=
  ⟨⟨⟨fab, []⟩, by decide +kernel⟩,
    ⟨⟨fab, []⟩, by decide +kernel⟩,
    ⟨⟨(withPort (fun q => { q with grantDue := true })), []⟩, by decide +kernel⟩,
    ⟨⟨fab, []⟩, by decide +kernel⟩,
    ⟨⟨fab, []⟩, by decide +kernel⟩,
    ⟨⟨(withPort (fun q => { q with audit := some 0 })), []⟩, by decide +kernel⟩,
    ⟨⟨fab, []⟩, by decide +kernel⟩,
    ⟨⟨(pairDev .active id), []⟩, by decide +kernel⟩,
    ⟨⟨fab, []⟩, by decide +kernel⟩,
    ⟨⟨(pairDev .active id), []⟩, by decide +kernel⟩,
    ⟨⟨(withPort (fun q => { q with replay := [frame0] })), []⟩, by decide +kernel⟩,
    ⟨⟨(withPort (fun q => { q with ackDue := true })), []⟩, by decide +kernel⟩,
    ⟨⟨(withPort (fun q => { q with replays := 9 })), []⟩, by decide +kernel⟩⟩

/-- The premises of FabricMessagesComplete. -/
theorem test_FabricMessagesComplete_met :
    RowMet (srcSeqGapTimeoutRule 2 .control .own) ∧
    RowMet (dataFrameReceivedRule 3 0 frame0) ∧
    RowMet (unreachableReceivedRule 2 0 0) ∧
    RowMet timeReqTimerRule ∧
    RowMet (timeReqReceivedRule 3 0 0 (linkEnd 5 (List.replicate 8 0))) ∧
    RowMet (timeRespReceivedRule 3 0 0 0 0 (linkEnd 6 (List.replicate 24 0))) ∧
    RowMet timeUnlockTimeoutRule ∧
    RowMet (neighbourSilentRule 3) ∧
    RowMet (portFlapRule 3) ∧
    RowMet (partnerIsolatedRule 5 1) :=
  ⟨⟨⟨(withFab (fun x => { x with flows := [⟨2, .control, .own, 0, [(none, frame0)]⟩] })), []⟩, by decide +kernel⟩,
    ⟨⟨fab, []⟩, by decide +kernel⟩,
    ⟨⟨fab, []⟩, by decide +kernel⟩,
    ⟨⟨(withFab (fun x => { x with parent := some 3 })), []⟩, by decide +kernel⟩,
    ⟨⟨fab, []⟩, by decide +kernel⟩,
    ⟨⟨(withFab (fun x => { x with parent := some 3 })), []⟩, by decide +kernel⟩,
    ⟨⟨(withFab (fun x => { x with locked := true })), []⟩, by decide +kernel⟩,
    ⟨⟨fab, []⟩, by decide +kernel⟩,
    ⟨⟨(withPort (fun q => { q with reinits := 9 })), []⟩, by decide +kernel⟩,
    ⟨⟨{ base with vlog := { base.vlog with entries := [{ entry with repeats := 1000 }] } }, []⟩, by decide +kernel⟩⟩

/-- The premises of DiscoveryComplete. -/
theorem test_DiscoveryComplete_met :
    RowMet (helloTimerRule 3) ∧
    RowMet (helloReceivedRule 3 0 hello0) ∧
    RowMet rootElectionTimeoutRule ∧
    RowMet (joinReceivedRule 3 join0) ∧
    RowMet idAssignmentRule ∧
    RowMet (assignReceivedRule 3 0x0000000100000001 1 0 []) ∧
    RowMet (assignForwardedRule 3 0 assign0) ∧
    RowMet (linkChangeReceivedRule 2 3 true 7) ∧
    RowMet roleAssignmentTimerRule ∧
    RowMet (roleAssignmentReceivedRule role0) ∧
    RowMet (roleHolderTimeoutRule 2) ∧
    RowMet pcieLinkUpRule :=
  ⟨⟨⟨fab, []⟩, by decide +kernel⟩,
    ⟨⟨fab, []⟩, by decide +kernel⟩,
    ⟨⟨fab, []⟩, by decide +kernel⟩,
    ⟨⟨(withFab (fun x => { x with root := true })), []⟩, by decide +kernel⟩,
    ⟨⟨(withFab (fun x => { x with root := true })), []⟩, by decide +kernel⟩,
    ⟨⟨fab, []⟩, by decide +kernel⟩,
    ⟨⟨(withFab (fun x => { x with joinPorts := [(7, 0)] })), []⟩, by decide +kernel⟩,
    ⟨⟨(withFab (fun x => { x with root := true })), []⟩, by decide +kernel⟩,
    ⟨⟨fab, []⟩, by decide +kernel⟩,
    ⟨⟨fab, []⟩, by decide +kernel⟩,
    ⟨⟨(withFab (fun x => { x with holders := Vector.replicate 3 (some ⟨1, 0⟩) })), []⟩, by decide +kernel⟩,
    ⟨⟨base, []⟩, by decide +kernel⟩⟩

/-- The premises of FabricCommandsComplete. -/
theorem test_FabricCommandsComplete_met :
    RuleMet fabricConfigRule ∧
    RuleMet fabricStatusRule ∧
    RuleMet fabricRoutesRule ∧
    RuleMet fabricFixIdRule ∧
    RuleMet fabricDiscoverRule ∧
    RuleMet fabricPingRule :=
  ⟨met (args := [3, 1, 6, 0, 256, 256, 256, 256]) (d0 := base) (by decide +kernel),
    met (args := []) (d0 := base) (by decide +kernel),
    met (args := [0, 0]) (d0 := base) (by decide +kernel),
    met (args := [254]) (d0 := base) (by decide +kernel),
    met (args := []) (d0 := base) (by decide +kernel),
    met (args := [1]) (d0 := { base with fabric := { base.fabric with node := 1 } }) (by decide +kernel)⟩

/-- The premises of PairWatchComplete. -/
theorem test_PairWatchComplete_met :
    RowMet heartbeatTimerRule ∧
    RowMet hboEdgeTimerRule ∧
    RowMet (heartbeatReceivedRule (beat0 .standby)) ∧
    RowMet hbiEdgeRule ∧
    RowMet (pathSilentRule false) ∧
    RowMet epochRecordCommittedRule ∧
    RowMet witnessDecisionRule ∧
    RowMet witnessRequeryRule ∧
    RowMet (promotionSelfTestDoneRule none) ∧
    RowMet reconciliationDoneRule ∧
    RowMet roleListenExpiryRule :=
  ⟨⟨⟨(pairDev .active id), []⟩, by decide +kernel⟩,
    ⟨⟨(pairDev .active id), []⟩, by decide +kernel⟩,
    ⟨⟨(pairDev .active id), []⟩, by decide +kernel⟩,
    ⟨⟨(pairDev .active id), []⟩, by decide +kernel⟩,
    ⟨⟨(pairDev .active id), []⟩, by decide +kernel⟩,
    ⟨⟨(withNv (fun n => { n with programs := [.epoch 1 .active] })), []⟩, by decide +kernel⟩,
    ⟨⟨(pairDev .standby (fun r => { r with asked := some 1 })), []⟩, by decide +kernel⟩,
    ⟨⟨(pairDev .standby (fun r => { r with wlLive := false })), []⟩, by decide +kernel⟩,
    ⟨⟨(pairDev .promoting (fun r => { r with promo := some .selfTest })), []⟩, by decide +kernel⟩,
    ⟨⟨(pairDev .active (fun r => { r with reconciling := true, committed := some ⟨1, true, 0, [], 0, 0⟩ })), []⟩, by decide +kernel⟩,
    ⟨⟨(pairDev .active (fun r => { r with roleSet := false })), []⟩, by decide +kernel⟩⟩

/-- The premises of PairStateComplete. -/
theorem test_PairStateComplete_met :
    RowMet (stateFrameReceivedRule (wag 4 [] (pairDev .standby id)) false) ∧
    RowMet (mirrorFrameReceivedRule (wag 5 (leBytes 8 0 ++ [1, 2, 3, 4]) (pairDev .standby id)) 0 [1, 2, 3, 4]) ∧
    RowMet mirrorAckTimerRule ∧
    RowMet (needFullReceivedRule true none) ∧
    RowMet (pairControlReceivedRule (.needFull true)) ∧
    RowMet snapshotTimerRule ∧
    RowMet staleTimerRule ∧
    RowMet (handoverReceivedRule (wag 7 (leBytes 4 0) (pairDev .standby id)) 0) ∧
    RowMet (handoverReplyReceivedRule (wag 8 (leBytes 8 1) (pairDev .active id)) true 0) :=
  ⟨⟨⟨(pairDev .standby id), []⟩, by decide +kernel⟩,
    ⟨⟨(pairDev .standby id), []⟩, by decide +kernel⟩,
    ⟨⟨(pairDev .standby (fun r => { r with mirrorAckDue := true, mirrorSeq := some 0 })), []⟩, by decide +kernel⟩,
    ⟨⟨(pairDev .active id), []⟩, by decide +kernel⟩,
    ⟨⟨(pairDev .active id), []⟩, by decide +kernel⟩,
    ⟨⟨(pairDev .active id), []⟩, by decide +kernel⟩,
    ⟨⟨(pairDev .active (fun r => { r with wlLive := false })), []⟩, by decide +kernel⟩,
    ⟨⟨(pairDev .standby id), []⟩, by decide +kernel⟩,
    ⟨⟨(pairDev .active id), []⟩, by decide +kernel⟩⟩

/-- The premises of RedCommandsComplete. -/
theorem test_RedCommandsComplete_met :
    RuleMet redStatusRule ∧
    RuleMet redAssignRule ∧
    RuleMet redPromoteRule ∧
    RuleMet redDrillRule ∧
    RuleMet redReadmitRule ∧
    RuleMet redReconcileRule :=
  ⟨met (args := []) (d0 := base) (by decide +kernel),
    met (args := [0, 0, 0, 1]) (d0 := base) (by decide +kernel),
    met (args := []) (d0 := (withPair .standby .fenced)) (by decide +kernel),
    met (args := []) (d0 := (withPair .active .standby)) (by decide +kernel),
    met (args := []) (d0 := (withPair .fenced .active)) (by decide +kernel),
    met (args := [0, 0]) (d0 := { base with red := { base.red with reconciled := some [] } }) (by decide +kernel)⟩

/-- The premises of ThermalComplete. -/
theorem test_ThermalComplete_met :
    RowMet (sensorConversionRule (Vector.replicate 12 800)) ∧
    RowMet (sensorFailedRule 11) ∧
    RowMet (sensorDisagreeTimeoutRule 0) ∧
    RowMet throttleRiseRule ∧
    RowMet throttleFallRule ∧
    RowMet thermalTripRule ∧
    RowMet thermalRestartRule ∧
    RuleMet thmConfigRule ∧
    RuleMet thmStatusRule :=
  ⟨⟨⟨base, []⟩, by decide +kernel⟩,
    ⟨⟨(withTherm (fun x => { x with outOfRange := Vector.replicate 12 2 })), []⟩, by decide +kernel⟩,
    ⟨⟨(withTherm (fun x => { x with reading := x.reading.set 0 193 })), []⟩, by decide +kernel⟩,
    ⟨⟨(withTherm (fun x => { x with above := (2, 0, 0) })), []⟩, by decide +kernel⟩,
    ⟨⟨(withTherm (fun x => { x with falling := true, level := 1 })), []⟩, by decide +kernel⟩,
    ⟨⟨(withTherm (fun x => { x with tripDue := true })), []⟩, by decide +kernel⟩,
    ⟨⟨(withTherm (fun x => { x with trip := true, restarting := true })), []⟩, by decide +kernel⟩,
    met (args := [80, 70, 90, 80, 50]) (d0 := base) (by decide +kernel),
    met (args := []) (d0 := { base with mbx := { base.mbx with slotSize := 4096 } }) (by decide +kernel)⟩

/-! Premises of the statements that are no completion statement. -/

/-- A 20-byte command for this device whose SEQ is 7. -/
def plain (op : U16) : Cmd := cmdFor op [] base

/-- A device that remembers some commands, before it reads the command that waits. -/
def knowing (ms : List Remembered) : Device := { base with mbx := { base.mbx with remembered := ms } }

theorem takes_one (g : Sig) (c : Cmd) (hc : c.origin = .ring) (ms : List Remembered) :
    takeFront g c (knowing ms) = some { base with mbx := { base.mbx with remembered := ms, cmdHead := 1 } } := by
  have h : readsCommands (knowing ms) = true := rfl
  have h1 : slotFree (knowing ms) = true := by
    rw [show slotFree (knowing ms) = slotFree base from rfl]
    decide +kernel
  have hw : waitsForDram g c (knowing ms) = false := by
    unfold waitsForDram
    rw [show sweeping (knowing ms) = false from (by decide +kernel : sweeping base = false)]
    simp
  unfold takeFront readFront
  rw [hw, hc]
  simp only [h, h1, Bool.true_and, Bool.false_eq_true, if_false]
  rfl

/-- A command whose CRC is wrong meets the premises of WrongCrcHasNoEffect under every signature. -/
theorem test_WrongCrcHasNoEffect_met (r : Rule) : ∃ (s : State) (c : Cmd) (d : Device),
    takeFront r.sig c s.dev = some d ∧ isRelay c.origin = false ∧ 20 ≤ c.length.toNat ∧ c.length.toNat ≤ sizeLimit d c.origin ∧
      c.length.toNat % 4 = 0 ∧ c.crc ≠ cmdCrc r.sig.opcode (uidOf d c.origin) c := by
  refine ⟨⟨knowing [], []⟩, { plain r.sig.opcode with crc := (plain r.sig.opcode).crc + 1 }, _, takes_one _ _ rfl [], rfl, ?_, ?_, ?_, ?_⟩
  · exact (by decide : 20 ≤ (20 : U16).toNat)
  · exact (by decide : (20 : U16).toNat ≤ 4096)
  · exact (by decide : (20 : U16).toNat % 4 = 0)
  · have h : ∀ x : U32, x + 1 ≠ x := by intro x h; bv_omega
    exact h _

/-- A repeated command meets the premises of RepeatIsAnsweredFromMemory under every signature. -/
theorem test_RepeatIsAnsweredFromMemory_met (r : Rule) : ∃ (s : State) (c : Cmd) (d : Device) (m : Remembered),
    takeFront r.sig c s.dev = some d ∧ formOk r.sig c d = true ∧ relayedOut c d = false ∧
      d.mbx.inFlight.any (fun e => keyOf e.origin == keyOf c.origin && e.seq == c.seq) = false ∧
      d.mbx.remembered.find? (fun m => m.key == keyOf c.origin && m.seq == c.seq) = some m ∧ m.opcode = r.sig.opcode ∧ m.length = c.length ∧
      m.digest = cmdDigest c := by
  refine ⟨⟨knowing [⟨.own, 7, r.sig.opcode, 20, cmdDigest (plain r.sig.opcode), mkResponse base .ring 0 1 7 false 0 {}⟩], []⟩,
    plain r.sig.opcode, _, _, takes_one _ _ rfl _, ?_, rfl, rfl, rfl, rfl, rfl, rfl⟩
  simp only [formOk, Bool.and_eq_true, Bool.or_eq_true]
  exact ⟨.inr (by decide : (decide (20 ≤ (20 : U16).toNat) = true ∧ decide ((20 : U16).toNat ≤ 4096) = true) ∧ ((20 : U16).toNat % 4 == 0) = true), .inr (beq_iff_eq.mpr rfl)⟩

/-- A command of right arguments meets the premise of one clause of GatesAndRangesTurnAway. -/
def Turned (r : Rule) (cond : List Int → Device → Bool) : Prop :=
  ∃ (s : State) (c : Cmd) (d : Device) (a : List Int), entered r.sig c s.dev = some (d, a) ∧ cond a d = true

theorem turned {r : Rule} {cond : List Int → Device → Bool} (args : List U32) (d0 : Device)
    (h : (entered r.sig (cmdFor r.sig.opcode args d0) d0).any (fun x => cond x.2 x.1) = true) : Turned r cond := by
  match ha : entered r.sig (cmdFor r.sig.opcode args d0) d0 with
  | none => rw [ha] at h; cases h
  | some (d, a) => rw [ha] at h; exact ⟨⟨d0, []⟩, _, d, a, ha, h⟩

/-- The loop is open, or the latch is set. -/
def broken (op : U16) (d : Device) : Bool := d.prs.loopOpen || (d.prs.latch && op != 0x000B)

/-- The seal is whole and no presence window is open. -/
def absent (op : U16) (d : Device) : Bool := !d.prs.loopOpen && (!d.prs.latch || op == 0x000B) && !d.prs.window

/-- A device whose loop is open. -/
def openLoop : Device := withPrs (fun p => { p with loopOpen := true })

/-- A device without a presence window. -/
def noWindow : Device := withPrs (fun p => { p with window := false })

/-- The range premise of R430. -/
def outside (g : Sig) (a : List Int) (d : Device) : Bool :=
  (!g.gated || (!d.prs.loopOpen && !d.prs.latch && d.prs.window)) && d.dram.ok && !d.therm.trip
    && (g.ranges a).any (fun x => !inDram d x.1 x.2.1 || (x.2.2 && !inStore d x.1 x.2.1))

/-- The premises of the gates of GatesAndRangesTurnAway: an open loop, and no presence window. -/
theorem test_GatesTurnAway_met :
    Turned sysResealRule (fun _ => broken sysResealRule.sig.opcode) ∧
    Turned sysResealRule (fun _ => absent sysResealRule.sig.opcode) ∧
    Turned sysFwUpdateRule (fun _ => broken sysFwUpdateRule.sig.opcode) ∧
    Turned sysFwUpdateRule (fun _ => absent sysFwUpdateRule.sig.opcode) ∧
    Turned sysNvEraseRule (fun _ => broken sysNvEraseRule.sig.opcode) ∧
    Turned sysNvEraseRule (fun _ => absent sysNvEraseRule.sig.opcode) ∧
    Turned waveLimitsRule (fun _ => broken waveLimitsRule.sig.opcode) ∧
    Turned waveLimitsRule (fun _ => absent waveLimitsRule.sig.opcode) ∧
    Turned hvLimitsRule (fun _ => broken hvLimitsRule.sig.opcode) ∧
    Turned hvLimitsRule (fun _ => absent hvLimitsRule.sig.opcode) ∧
    Turned fabricFixIdRule (fun _ => broken fabricFixIdRule.sig.opcode) ∧
    Turned fabricFixIdRule (fun _ => absent fabricFixIdRule.sig.opcode) ∧
    Turned redAssignRule (fun _ => broken redAssignRule.sig.opcode) ∧
    Turned redAssignRule (fun _ => absent redAssignRule.sig.opcode) ∧
    Turned redPromoteRule (fun _ => broken redPromoteRule.sig.opcode) ∧
    Turned redPromoteRule (fun _ => absent redPromoteRule.sig.opcode) :=
  ⟨turned [] openLoop (by decide +kernel),
    turned [] noWindow (by decide +kernel),
    turned [0, 0, 513] openLoop (by decide +kernel),
    turned [0, 0, 513] noWindow (by decide +kernel),
    turned [0] openLoop (by decide +kernel),
    turned [0] noWindow (by decide +kernel),
    turned [1, 0, 1024] openLoop (by decide +kernel),
    turned [1, 0, 1024] noWindow (by decide +kernel),
    turned [0, 0, 0, 0] openLoop (by decide +kernel),
    turned [0, 0, 0, 0] noWindow (by decide +kernel),
    turned [254] openLoop (by decide +kernel),
    turned [254] noWindow (by decide +kernel),
    turned [0, 0, 0, 1] openLoop (by decide +kernel),
    turned [0, 0, 0, 1] noWindow (by decide +kernel),
    turned [] openLoop (by decide +kernel),
    turned [] noWindow (by decide +kernel)⟩

/-- The premises of the ranges of GatesAndRangesTurnAway: an address beyond the usable capacity. -/
theorem test_RangesTurnAway_met :
    Turned sysConfigRule (outside sysConfigRule.sig) ∧
    Turned sysLatchedReadRule (outside sysLatchedReadRule.sig) ∧
    Turned sysViolationReadRule (outside sysViolationReadRule.sig) ∧
    Turned sysFwUpdateRule (outside sysFwUpdateRule.sig) ∧
    Turned sysPeekRule (outside sysPeekRule.sig) ∧
    Turned (foragerCopyRule (List.replicate 32 255)) (outside (foragerCopyRule (List.replicate 32 255)).sig) ∧
    Turned jobStageRule (outside jobStageRule.sig) ∧
    Turned subLoadRule (outside subLoadRule.sig) ∧
    Turned subReadRule (outside subReadRule.sig) ∧
    Turned (screenCaptureRule withRunning) (outside (screenCaptureRule withRunning).sig) ∧
    Turned lineConfigRule (outside lineConfigRule.sig) ∧
    Turned waveLoadRule (outside waveLoadRule.sig) ∧
    Turned camSettingsRule (outside camSettingsRule.sig) ∧
    Turned camStreamRule (outside camStreamRule.sig) ∧
    Turned camTablesRule (outside camTablesRule.sig) ∧
    Turned loopConfigRule (outside loopConfigRule.sig) ∧
    Turned modelLoadRule (outside modelLoadRule.sig) ∧
    Turned (loopReadRule base) (outside (loopReadRule base).sig) ∧
    Turned loopCheckReadRule (outside loopCheckReadRule.sig) ∧
    Turned czCompressRule (outside czCompressRule.sig) ∧
    Turned czDecompressRule (outside czDecompressRule.sig) ∧
    Turned memErrorsRule (outside memErrorsRule.sig) ∧
    Turned fabricRoutesRule (outside fabricRoutesRule.sig) ∧
    Turned redReconcileRule (outside redReconcileRule.sig) :=
  ⟨turned [0x1000, 2, 0x1000, 0, 0, 0] base (by decide +kernel),
    turned [2, 0, 0, 2] base (by decide +kernel),
    turned [0, 2, 0, 4] base (by decide +kernel),
    turned [0, 2, 513] base (by decide +kernel),
    turned [0, 2, 4] base (by decide +kernel),
    turned [0, 0, 1, 0] base (by decide +kernel),
    turned [0, 2, 0, 100] base (by decide +kernel),
    turned [0, 2, 0, 0, 1] base (by decide +kernel),
    turned [0, 2, 0, 0] base (by decide +kernel),
    turned [39, 3, 0, 2] withRunning (by decide +kernel),
    turned [0, 2] base (by decide +kernel),
    turned [0, 2, 0xFFFFFFFF, 1] base (by decide +kernel),
    turned [0, 0, 0x1000, 2] base (by decide +kernel),
    turned [0, 0, 0, 0, 1, 0, 0, 0, 0, 1, 1, 0, 0, 2, 65536, 0, 0] base (by decide +kernel),
    turned [3, 0, 0, 2, 0, 0, 0, 0, 0, 0xFFFFFFFF, 0xFFFFFFFF, 0] base (by decide +kernel),
    turned [1, 1, 1, 1, 1, 1, 0, 100, 0, 2, 0, 0, 0, 0] base (by decide +kernel),
    turned [0, 2, 560, 0] base (by decide +kernel),
    turned [0, 0, 0, 2] base (by decide +kernel),
    turned [0, 2, 0] base (by decide +kernel),
    turned [0, 2, 1, 0, 0, 0, 64, 0, 1, 0, 0, 0] base (by decide +kernel),
    turned [0, 2, 0x1000, 0, 0, 0] base (by decide +kernel),
    turned [0, 2, 4] base (by decide +kernel),
    turned [0, 2] base (by decide +kernel),
    turned [0, 2] base (by decide +kernel)⟩

/-- An accepted command meets a condition on its arguments and the device. -/
def takes (r : Rule) (args : List U32) (d0 : Device) (cond : List Int → Device → Bool) : Bool :=
  (accepted r.sig (cmdFor r.sig.opcode args d0) d0).any (fun x => cond x.2 x.1)

/-- A structure of a job lies outside the job store: the repeat list, the job's table set, or the first repeat's own table set or first block index. -/
def outAt (d : Device) (j : JobDesc) (first : Bool) (lo hi : Nat) : Bool :=
  let bad := fun a n align => !(inStore d a n && a % align == 0)
  bad j.repeatList (96 * (if 1 ≤ j.repeatCount ∧ j.repeatCount ≤ 1048576 then j.repeatCount else hi)) 64 || (first && bad j.tableSet 128 64)
    || (decide (lo < hi) && (match getData d (j.repeatList + 96 * lo) 96 with
      | .ok b =>
        let r := readRepeat b
        (r.tableSet != 0 && bad r.tableSet 128 64) || (!r.blank && decide (0 < j.planes.length) && !inStore d (r.planeIndex.getD 0 0) 8)
      | .error _ => false))

theorem structureOut_of {d : Device} {j : JobDesc} {first : Bool} {lo hi : Nat} (h : outAt d j first lo hi = true) : StructureOut d j first lo hi := by
  unfold outAt at h
  dsimp only at h
  rw [Bool.or_eq_true, Bool.or_eq_true, Bool.and_eq_true, Bool.and_eq_true, Bool.not_eq_true', Bool.not_eq_true'] at h
  rcases h with (h | h) | ⟨hk, h⟩
  · exact .inl h
  · exact .inr (.inl h)
  · match hg : getData d (j.repeatList + 96 * lo) 96, h with
    | .ok b, h =>
      refine .inr (.inr ⟨lo, b, Nat.le_refl _, of_decide_eq_true hk, fun i h1 h2 => absurd h1 (by omega), hg, ?_⟩)
      simp only [Bool.or_eq_true, Bool.and_eq_true, Bool.not_eq_true', bne_iff_ne, decide_eq_true_eq] at h
      rcases h with h | ⟨⟨h1, h2⟩, h3⟩
      · exact .inl h
      · exact .inr ⟨h1, 0, h2, fun q hq => absurd hq (Nat.not_lt_zero q), h3⟩

/-- A change of the job store and of the contents of DRAM, which holds its requests. -/
def storeDev (n : Nat) (m : Mem) : Device := { memDev m with mbx := { base.mbx with storeSize := n } }

/-- The same, running a job of one repeat at address 0. -/
def storeRun (n : Nat) (m : Mem) : Device :=
  { storeDev n m with jobs := { base.jobs with running := some { job0 with state := .running, desc := { desc0 with repeatList := 0, tableSet := 0 } } } }

/-- job.stage is accepted with a descriptor whose structures lie outside the job store. -/
def stageOut (n : Nat) (m : Mem) : Bool :=
  takes jobStageRule [0, 0, 1, 100] (storeDev n m) (fun a d => !d.pos.mismatch && argN a 0 % 64 == 0 && (match getData d (argN a 0) 64 with
    | .ok b => outAt d (readJob b) true 0 (min (argN a 1) (readJob b).repeatCount)
    | .error _ => false))

/-- job.append is accepted for a job held whose structures lie outside the job store. -/
def appendOut (n : Nat) (m : Mem) : Bool :=
  takes jobAppendRule [5, 1] (storeRun n m) (fun a d => match heldJob d (w32 (argN a 0)) with
    | some (j, _) => decide (j.validThrough < min (argN a 1) j.desc.repeatCount) && outAt d j.desc false j.validThrough (min (argN a 1) j.desc.repeatCount)
    | none => false)

/-- The premises of StructureRangesTurnAway: records beyond DRAM, a block beyond DRAM, and for job.stage and job.append each structure that lies
outside the job store: the repeat list, the job's table set, a repeat's own, and a block index. -/
theorem test_StructureRangesTurnAway_met :
    takes sysNvStatusRule [0xFFFFFFFF, 1] base (fun a d => !inDram d (argN a 0) (nvBody d).length) = true ∧
      takes czDecompressRule [0xDFFFFFE0, 1, 0, 0, 1, 0] (memDev [(0x1DFFFFFE0, 70), (0x1DFFFFFE1, 75), (0x1DFFFFFE4, 1), (0x1DFFFFFE8, 1), (0x1DFFFFFF0, 214), (0x1DFFFFFF1, 202), (0x1DFFFFFF2, 114), (0x1DFFFFFF3, 72)]) (fun a d =>
        let head := dramRead d (argN a 0) 32
        (poisonIn d (argN a 0) 32).isNone && decide (fkzOrig head ≤ argN a 2) && fkzHeaderOk head && !inDram d (argN a 0) (fkzSize head)) = true ∧
      stageOut 64 [(4, 1)] = true ∧ stageOut 127 [] = true ∧ stageOut 0x1000 [(4, 1), (17, 1), (0x111, 0x20)] = true ∧
      stageOut 0x1000 [(4, 1), (8, 0x10), (17, 1), (0x121, 0x20)] = true ∧
      appendOut 64 [] = true ∧ appendOut 0x1000 [(17, 0x20)] = true ∧ appendOut 0x1000 [(33, 0x20)] = true := by
  decide +kernel

/-- The premise of OnlyThePositionMasterCommits. -/
theorem test_OnlyThePositionMasterCommits_met : Turned jobCommitRule (fun a d => stateOk jobCommitRule.sig (cmdFor 0x0101 [5, 0, 0, 0] base) a d
    && d.pos.role == .follower) := turned [5, 0, 0, 0] base (by decide +kernel)

/-- An outcome is a next state. -/
def isNext : Host.Outcome State Fault Refusal → Bool
  | .next _ => true
  | _ => false

theorem next_of {o : Host.Outcome State Fault Refusal} (h : isNext o = true) : ∃ t, o = .next t := by
  cases o <;> first | exact ⟨_, rfl⟩ | cases h

/-- A command of each frame answers a next state. -/
theorem test_frames_met : (∃ t, exec .journalCompaction State.reset = .next t) ∧ (∃ t, exec (.readyReceived 1 5 true 0) State.reset = .next t) ∧
    (∃ t, exec (.statusReportReceived 39 (stat 0 48)) State.reset = .next t) ∧ (∃ t, exec (.csiFrameStart ⟨3, 0, true, true, false⟩) State.reset = .next t) ∧
    (∃ t, exec (.neighbourSilent 3) State.reset = .next t) ∧ (∃ t, exec .throttleRise State.reset = .next t) ∧
    ∃ t, exec (.sysNop (plain 0)) State.reset = .next t := by
  refine ⟨?_, ?_, ?_, ?_, ?_, ?_, ?_⟩ <;> exact next_of (by decide +kernel)

/-- The premises of StoringCommandsFrame: an accepted command that answers a next state, and a DRAM in canonical form. -/
theorem test_StoringCommandsFrame_met : base.dram.data.wf = true ∧ RuleMet memErrorsRule ∧
    (∃ t, exec (.memErrors (cmdFor memErrorsRule.sig.opcode [0, 0, 4] base)) ⟨base, []⟩ = .next t) ∧
    (∃ t, exec (.bar2Access 0 (some [1, 2, 3, 4]) 4) ⟨withChip (fun c => { c with pcieUp := true }), []⟩ = .next t) ∧
    (∃ t, exec (.dramRequest ⟨2, 0, some [1], 0, []⟩) ⟨base, []⟩ = .next t) ∧
    (∃ t, exec (.mirrorFrameReceived (wag 5 (leBytes 8 0 ++ [1, 2, 3, 4]) (pairDev .standby id)) 0 [1, 2, 3, 4]) ⟨pairDev .standby id, []⟩ = .next t) ∧
    (∃ t, exec (.foragerReadDone 63 (some [1])) ⟨base, []⟩ = .next t) ∧ (∃ t, exec (.blockCompressed 1) ⟨base, []⟩ = .next t) ∧
    (∃ t, exec (.czDecompress (cmdFor 0x0A01 [0, 0, 0x1000, 0, 0, 0] base)) ⟨base, []⟩ = .next t) ∧
    ∃ t, exec (.decompressorResume 7 1) ⟨base, []⟩ = .next t := by
  refine ⟨by decide, met (args := [0, 0, 4]) (d0 := base) (by decide +kernel), ?_, ?_, ?_, ?_, ?_, ?_, ?_, ?_⟩ <;> exact next_of (by decide +kernel)

/-- The premises of DramWriteFrame: a DRAM in canonical form, requests held, or served with no poisoned granule in the range. -/
theorem test_DramWriteFrame_met : (memDev waveMem).dram.data.wf = true ∧ holdsRequests (withDram (fun x => { x with selfRefresh := true })) = true ∧
    holdsRequests base = false ∧ ∀ g ∈ base.dram.poison, ¬ (0 ≤ g ∧ 32 * g < 8) := by decide +kernel

/-- The invariant's premise: reset meets it, and so does a log with an entry. -/
theorem test_EveryStepKeepsTheInvariant_met : ∃ t, Machine.step ⟨State.reset.dev, [.timeReqTimer]⟩ = .next t := ⟨_, rfl⟩

/-- A queue with a command in front, and an empty one. -/
theorem test_Step_met : (⟨base, [.timeReqTimer]⟩ : State).pending = .timeReqTimer :: [] ∧ State.reset.pending = [] := ⟨rfl, rfl⟩

/-- LineOrderIsModular at the ends of a job of 2^31 lines. -/
theorem test_LineOrderIsModular_met : laterThan (BitVec.ofNat 32 (2 ^ 31 - 1)) 0 = true ∧ laterThan 0 (BitVec.ofNat 32 (2 ^ 31 - 1)) = false := by decide

/-- SamplesWiden: both formats, at the ends of their ranges. -/
theorem test_SamplesWiden_met : (⟨0, 1, false, false, false, false⟩ : PlaneCfg).bits12 = false ∧ (⟨0, 1, true, false, false, false⟩ : PlaneCfg).bits12 = true ∧ (255 : Nat) < 256 ∧ (4095 : Nat) < 4096 := by decide

/-- ViolationsEnterTheLog: a log with the entry, an empty log and a full log. -/
theorem test_ViolationsEnterTheLog_met :
    let same : VEntry → Bool := fun e => e.code == 1 && e.block == 5 && e.source == 1
    let other : VEntry → Bool := fun e => e.code == 2 && e.block == 5 && e.source == 1
    let full := List.replicate 256 entry
    base.fabric.hostNodes = [] ∧ [entry].any same = true ∧ ([] : List VEntry).any same = false ∧ ([] : List VEntry).length < 256 ∧
      full.any other = false ∧ full.length = 256 := by
  decide +kernel

/-- HighestEpochNeverFalls: a cell with a lower EPOCH on a device whose adapter has seen a higher one. -/
theorem test_HighestEpochNeverFalls_met :
    let s : State := ⟨adapterDev (fun a => { a with configured := true, highest := 1 }), []⟩
    (∃ t, exec (.adapterLineCell 39 true line0) s = .next t) ∧ (∃ t, exec (.adapterFireCell 39 true fire0) s = .next t) ∧
      line0.epoch < s.dev.adapters[(39 : Head)].highest ∧ fire0.epoch < s.dev.adapters[(39 : Head)].highest ∧
      (∃ t, exec (.adapterControlCell 39 true config0) s = .next t) ∧ notLower config0 = true ∧
      config0.epoch < s.dev.adapters[(39 : Head)].highest := by
  refine ⟨next_of (by decide +kernel), next_of (by decide +kernel), by decide +kernel, by decide +kernel, next_of (by decide +kernel),
    by decide +kernel, by decide +kernel⟩

/-- FiringNeedsEveryCondition: a FIRE cell that adds a firing. -/
theorem test_FiringNeedsEveryCondition_met :
    (match exec (.adapterFireCell 39 true fire0) ⟨adapterDev (fun a => { a with configured := true, inhibited := false, held := [⟨line0, 0⟩] }), []⟩ with
      | .next t => t.dev.adapters[(39 : Head)].due.length == 1
      | _ => false) = true := by decide +kernel

/-- BoundariesCopyAndRestart has no premise but a period kind other than the one that closes. -/
theorem test_BoundariesCopyAndRestart_met : (1 : Fin 3) ≠ 0 := by decide

end Sys2Proof.Tests
end

section
/-! SUPPORT. The order of line numbers modulo 2^32 (R9): what `laterThan` says of two words, and of the numbers of two lines of one job. -/
namespace Sys2Proof.Machine

theorem laterThan_iff (a b : U32) : laterThan a b = true ↔ 1 ≤ (a - b).toNat ∧ (a - b).toNat ≤ 2 ^ 31 - 1 := by
  have hne : a ≠ b ↔ 1 ≤ (a - b).toNat := by bv_omega
  simp only [laterThan, Bool.and_eq_true, bne_iff_ne, decide_eq_true_eq, hne]
  omega

/-- Below 2^31 the order has no wrap: a smaller number minus a larger one lies above 2^31 modulo 2^32. -/
theorem laterThan_ofNat_iff {m n : Nat} (hm : m < 2 ^ 31) (hn : n < 2 ^ 31) :
    laterThan (BitVec.ofNat 32 m) (BitVec.ofNat 32 n) = true ↔ n < m := by
  rw [laterThan_iff, BitVec.toNat_sub, BitVec.toNat_ofNat, BitVec.toNat_ofNat]
  rcases Nat.lt_or_ge n m with hlt | hge
  · have hdiff : (2 ^ 32 - n % 2 ^ 32 + m % 2 ^ 32) % 2 ^ 32 = m - n := by omega
    omega
  · omega

/-- Settles O51: the first clause is `laterThan_iff`, and the lines of a job of up to 2^31 lines have numbers below 2^31. -/
theorem lineOrderIsModular : Obligations.LineOrderIsModular :=
  ⟨laterThan_iff, fun _ _ _ hlen hm hn => laterThan_ofNat_iff (hm.trans_le hlen) (hn.trans_le hlen)⟩

end Sys2Proof.Machine
end

section
/-! SUPPORT. A step on an empty queue, and the invariant at reset. -/
namespace Sys2Proof.Machine

/-- Settles O46: with no command in front, `step` is the tick. -/
theorem emptyQueueLetsATickPass : Obligations.EmptyQueueLetsATickPass := by
  intro s hempty
  simp only [step, hempty]

/-- Settles O48: at reset the log and the latched sets are empty, no byte of DRAM is stored and every counter is 0. -/
theorem resetMeetsTheInvariant : Obligations.ResetMeetsTheInvariant where
  logBound := Nat.zero_le _
  isolatedOnce := List.nodup_nil
  dramForm := rfl
  liveBalanced k := setBalanced_new (by simp [State.reset])
  newestBalanced k l hl := by simp [State.reset] at hl
  olderBalanced k l hl := by simp [State.reset] at hl

end Sys2Proof.Machine
end

section
/-! SUPPORT. The violation log (R25 to R27): what a violation does to it. -/
namespace Sys2Proof.Machine

/-! A violation and the log (R26, R27) -/

section
variable {code : U8} {block : BitVec 5} {source : U16} {answer : BitVec 2} {d : Device}

/-- An entry of the log is of this CODE, BLOCK and SOURCE. -/
def sameViolation (code : U8) (block : BitVec 5) (source : U16) (e : VEntry) : Bool := e.code == code && e.block == block && e.source == source

/-- The entry that a violation makes when the log holds none of its CODE, BLOCK and SOURCE. -/
def newEntry (code : U8) (block : BitVec 5) (source : U16) (answer : BitVec 2) (d : Device) : VEntry :=
  { code := code, block := block, answer := answer, isolated := false, source := source, repeats := 0, wpos := d.pos.wpos, first := ftime d,
    last := ftime d }

theorem logViolation_merges (hsame : d.vlog.entries.any (sameViolation code block source) = true) :
    logViolation code block source answer d = (false, { d with vlog := { d.vlog with
      gen := d.vlog.gen + 1
      entries := d.vlog.entries.map (fun e =>
        if sameViolation code block source e then { e with repeats := satAdd e.repeats 1, last := ftime d } else e) } }) := if_pos hsame

theorem logViolation_enters (hnew : d.vlog.entries.any (sameViolation code block source) = false) :
    (logViolation code block source answer d).1 = true :=
  congrArg Prod.fst (if_neg (by rw [Bool.not_eq_true]; exact hnew))

theorem logViolation_room (hnew : d.vlog.entries.any (sameViolation code block source) = false) (hroom : d.vlog.entries.length < 256) :
    (logViolation code block source answer d).2.vlog =
      { d.vlog with gen := d.vlog.gen + 1, entries := d.vlog.entries ++ [newEntry code block source answer d] } := by
  have hfull : decide (256 ≤ d.vlog.entries.length) = false := decide_eq_false (by omega)
  refine (congrArg (fun p : Bool × Device => p.2.vlog) (if_neg (by rw [Bool.not_eq_true]; exact hnew))).trans ?_
  simp only [hfull, newEntry, Bool.false_eq_true, if_false]

theorem logViolation_full (hnew : d.vlog.entries.any (sameViolation code block source) = false) (hfull : 256 ≤ d.vlog.entries.length) :
    (logViolation code block source answer d).2.vlog =
      { d.vlog with
        gen := d.vlog.gen + 1, entries := (dropOldest d.vlog.entries).take 255 ++ [newEntry code block source answer d]
        diag := { d.vlog.diag with violLost := satAdd d.vlog.diag.violLost 1 } } := by
  have hfull : decide (256 ≤ d.vlog.entries.length) = true := decide_eq_true hfull
  refine (congrArg (fun p : Bool × Device => p.2.vlog) (if_neg (by rw [Bool.not_eq_true]; exact hnew))).trans ?_
  simp only [hfull, newEntry, modDiag, if_true]

theorem logViolation_same (f : DevField) (hf : f ≠ .vlog) : f.Same d (logViolation code block source answer d).2 :=
  (logViolation_keeps (ch := [.vlog]) code block source answer d (by decide) (Keeps.refl _ _)).same f (by simpa using hf)

/-- A violation that enters the log raises EV_VIOLATION. -/
theorem violation_of_fst (h : (logViolation code block source answer d).1 = true) :
    violation code block source answer d = raise .violation [] (logViolation code block source answer d).2 := by
  unfold violation
  split
  · rename_i e
    rw [e]
  · rename_i e
    rw [e] at h
    cases h

theorem violation_merges (hsame : d.vlog.entries.any (sameViolation code block source) = true) :
    violation code block source answer d = { d with vlog := { d.vlog with
      gen := d.vlog.gen + 1
      entries := d.vlog.entries.map (fun e =>
        if sameViolation code block source e then { e with repeats := satAdd e.repeats 1, last := ftime d } else e) } } := by
  unfold violation
  rw [logViolation_merges hsame]

theorem violation_isolated : (violation code block source answer d).vlog.isolated = d.vlog.isolated := by
  cases hany : d.vlog.entries.any (sameViolation code block source) with
  | true => rw [violation_merges hany]
  | false => rw [violation_of_fst (logViolation_enters hany), (raise_log ..).1, logViolation_isolated]

end

/-- Settles O52: a violation merges into its entry, or enters the log, in a full one over the oldest entry. -/
theorem violationsEnterTheLog : Obligations.ViolationsEnterTheLog := by
  intro code block source answer d same t
  refine ⟨violation_isolated, violation_merges, fun hnew => ⟨newEntry code block source answer d, (logViolation code block source answer d).2,
    rfl, rfl, rfl, rfl, rfl, rfl, rfl, rfl, violation_of_fst (logViolation_enters hnew), fun hhost => ?_, fun hroom => ?_, fun hfull => ?_⟩⟩
  · have hmbx := logViolation_same (code := code) (block := block) (source := source) (answer := answer) (d := d) .mbx (by decide)
    have hfabric := logViolation_same (code := code) (block := block) (source := source) (answer := answer) (d := d) .fabric (by decide)
    refine (congrArg (·.vlog.entries) (violation_of_fst (logViolation_enters hnew))).trans ((raise_log ..).2 ?_)
    rwa [hmbx, hfabric]
  · rw [logViolation_room hnew hroom]
    exact ⟨rfl, rfl⟩
  · obtain ⟨l, o, r, hsplit, holdest, hdrop⟩ := dropOldest_split d.vlog.entries (List.ne_nil_of_length_eq_add_one hfull)
    have hlen : (l ++ r).length = 255 := by
      have := hsplit ▸ hfull
      simp only [List.length_append, List.length_cons] at this ⊢
      omega
    refine ⟨l, o, r, hsplit, holdest, ?_⟩
    rw [logViolation_full hnew hfull.ge, hdrop, List.take_of_length_le hlen.le]
    exact ⟨rfl, rfl⟩

end Sys2Proof.Machine
end

section
/-! SUPPORT. A boundary of a period (R20, R23): what it copies, shifts and restarts. -/
namespace Sys2Proof.Machine

/-! A boundary (R20, R23) -/

/-- An event leaves every field of the device but the mailbox, the log, the lanes and the fabric. -/
theorem raise_same (n : EvName) (args : List U32) (d : Device) (f : DevField) (hf : f ∉ [DevField.mbx, .vlog, .lanes, .fabric]) :
    f.Same d (raise n args d) :=
  (raise_keeps (ch := [.mbx, .vlog, .lanes, .fabric]) n args d (by decide) (Keeps.refl _ _)).same f hf

theorem raise_ftime (n : EvName) (args : List U32) (d : Device) : ftime (raise n args d) = ftime d := by
  have hchip : (raise n args d).chip.own = d.chip.own := raise_same n args d .chip (by decide)
  have hqtime : (raise n args d).chip.own.qtime = d.chip.own.qtime := congrArg Chip.qtime hchip
  exact congrArg (fun q => BitVec.ofNat 64 (q / 4)) hqtime

/-- The device at a boundary of period kind `k` before its set is copied: an older set that was not read counts as overrun (R23). -/
def overrunNoted (k : Fin 3) (d : Device) : Device :=
  if unreadOlder d k then raise .latchOverrun [w32 k.val] { d with acct := { d.acct with overrun := upd d.acct.overrun k (fun n => n + 1) } } else d

/-- Counting an overrun leaves the counter sets, the web position and the time. -/
theorem overrunNoted_same (k : Fin 3) (d : Device) :
    (overrunNoted k d).acct.live = d.acct.live ∧ (overrunNoted k d).acct.newest = d.acct.newest ∧
      (overrunNoted k d).acct.older = d.acct.older ∧ (overrunNoted k d).pos = d.pos ∧ ftime (overrunNoted k d) = ftime d := by
  unfold overrunNoted
  split
  · generalize hx : ({ d with acct := { d.acct with overrun := upd d.acct.overrun k (fun n => n + 1) } } : Device) = x
    have hacct : (raise .latchOverrun [w32 k.val] x).acct = x.acct := raise_same _ _ _ .acct (by decide)
    have hpos : (raise .latchOverrun [w32 k.val] x).pos = x.pos := raise_same _ _ _ .pos (by decide)
    rw [hacct, hpos, raise_ftime]
    subst hx
    exact ⟨rfl, rfl, rfl, rfl, rfl⟩
  · exact ⟨rfl, rfl, rfl, rfl, rfl⟩

/-- The set that a boundary of period kind `k` copies from the live one (Table 1.8). -/
def copiedSet (k : Fin 3) (n setId : U32) (d : Device) : LatchedSet :=
  { live := { d.acct.live[k] with number := n }, pendings := Vector.ofFn (fun h => BitVec.ofNat 64 (pendingOf d h)),
    overrun := d.acct.overrun[k], setId := setId, wposClose := d.pos.wpos, ftimeClose := ftime d, jobId := runningId d, read := false }

section
variable (k : Fin 3) (n setId : U32) (d : Device)

theorem latchPeriod_newest : (latchPeriod k n setId d).acct.newest = upd d.acct.newest k (fun _ => some (copiedSet k n setId (overrunNoted k d))) :=
  congrArg (fun v => upd v k (fun _ => some (copiedSet k n setId (overrunNoted k d)))) (overrunNoted_same k d).2.1

theorem latchPeriod_older : (latchPeriod k n setId d).acct.older = upd d.acct.older k (fun _ => d.acct.newest[k]) := by
  obtain ⟨-, hnewest, holder, -, -⟩ := overrunNoted_same k d
  rw [← hnewest, ← holder]
  rfl

theorem latchPeriod_live :
    (latchPeriod k n setId d).acct.live = upd d.acct.live k (fun _ => { wposOpen := d.pos.wpos, ftimeOpen := ftime d }) := by
  obtain ⟨hlive, -, -, hpos, htime⟩ := overrunNoted_same k d
  rw [← hlive, ← hpos, ← htime]
  rfl

end

/-- Settles O55: the copy, the shift and the restart are written to the sets of kind `k` alone. -/
theorem boundariesCopyAndRestart : Obligations.BoundariesCopyAndRestart := by
  intro k n setId d t
  simp only [t, latchPeriod_newest, latchPeriod_older, latchPeriod_live, upd_self]
  refine ⟨⟨_, rfl, ?_, rfl, rfl⟩, trivial, trivial, fun j hj => ⟨upd_other _ _ hj, upd_other _ _ hj, upd_other _ _ hj⟩⟩
  simp only [copiedSet, (overrunNoted_same k d).1]

end Sys2Proof.Machine
end

section
/-! SUPPORT. The rules of the boot and flash rows, of the boundaries and shadow banks, and of the fabric messages: each row answers the next
state of its own effect. -/
namespace Sys2Proof.Machine

/-- A condition's negation, as a rule states it, takes the other branch. -/
theorem ite_of_not {α : Type} {b : Bool} {x y : α} (h : (!b) = true) : (if b = true then x else y) = y := if_neg (by simpa using h)

/-! Boot and flash -/

theorem bootImageVerifiedRule_holds (slot : Bool) : (bootImageVerifiedRule slot).Holds (.bootImageVerified slot) := by
  intro s hc
  refine (if_pos hc).trans ?_
  cases himage : (slotImage s.dev slot).filter (fun i => imageOk s.dev (some i)) with
  | some i => simp only [bootImageVerifiedRule, himage, next_eq]
  | none =>
    simp only [bootImageVerifiedRule, himage, next_eq]
    split <;> rfl

theorem bootWatchdogRule_holds : bootWatchdogRule.Holds .bootWatchdog := fun _ hc => if_pos hc

theorem bootedRule_holds : bootedRule.Holds .booted := fun _ hc => if_pos hc

theorem flashProgramDoneRule_holds : flashProgramDoneRule.Holds .flashProgramDone := by
  intro s _
  show execFlashProgramDone s = _
  cases hwork : (if !flashPins s.dev || waitsErase 128 143 s.dev then none else s.dev.nv.programs.find? FlashWork.isRecord) with
  | none => simp only [execFlashProgramDone, flashProgramDoneRule, hwork, next_eq]
  | some p => cases p <;> simp only [execFlashProgramDone, flashProgramDoneRule, hwork, next_eq]

theorem journalCompactionRule_holds : journalCompactionRule.Holds .journalCompaction := by
  intro s _
  show execJournalCompaction s = _
  cases hslot : s.dev.nv.journal[s.dev.nv.cur] with
  | none => simp only [execJournalCompaction, journalCompactionRule, hslot, next_eq]
  | some sl =>
    simp only [execJournalCompaction, journalCompactionRule, hslot, next_eq]
    split <;> rfl

theorem flashEraseDoneRule_holds : flashEraseDoneRule.Holds .flashEraseDone := by
  intro s hc
  obtain ⟨hpins, -⟩ := Bool.and_eq_true_iff.mp hc
  refine (if_neg (by simp [hpins])).trans ?_
  cases herases : (if erasesMay s.dev then s.dev.nv.erases else []) with
  | cons e rest => simp only [flashEraseDoneRule, herases, next_eq]
  | nil => cases hcmd : s.dev.nv.cmdErases <;> simp only [flashEraseDoneRule, herases, hcmd, next_eq]

theorem checkpointTimerRule_holds : checkpointTimerRule.Holds .checkpointTimer := by
  intro s hc
  refine (if_pos hc).trans ?_
  simp only [checkpointTimerRule, next_eq]
  split <;> rfl

theorem checkpointCommittedRule_holds : checkpointCommittedRule.Holds .checkpointCommitted := by
  intro s _
  show execCheckpointCommitted s = _
  cases hwriting : (if !checkpointFits s.dev then none else s.dev.nv.writing) with
  | none => simp only [execCheckpointCommitted, checkpointCommittedRule, hwriting, next_eq]
  | some c =>
    simp only [execCheckpointCommitted, checkpointCommittedRule, hwriting, next_eq]
    split <;> rfl

/-- Settles O7: the rule of each boot and flash row holds. -/
theorem bootAndFlashComplete : Obligations.BootAndFlashComplete :=
  ⟨bootImageVerifiedRule_holds, bootWatchdogRule_holds, bootedRule_holds, flashProgramDoneRule_holds, journalCompactionRule_holds,
    flashEraseDoneRule_holds, checkpointTimerRule_holds, checkpointCommittedRule_holds⟩

/-! Boundaries -/

theorem changeWposRule_holds : changeWposRule.Holds .changeWpos := by
  intro s hc
  show execChangeWpos s = _
  cases hchange : s.dev.jobs.change with
  | none => simp [changeWposRule, hchange] at hc
  | some c =>
    cases hstart : changeStart s.dev c with
    | none => simp [changeWposRule, hchange, hstart] at hc
    | some w =>
      simp only [execChangeWpos, changeWposRule, hchange, hstart, next_eq]
      split
      · rfl
      · cases (s.dev.jobs.staged.filter (fun j => j.desc.jobId == c.jobId)) <;> cases c.proof <;> rfl

theorem repeatBoundaryRule_holds : repeatBoundaryRule.Holds .repeatBoundary := by
  intro s hc
  obtain ⟨hon, hdue⟩ := Bool.and_eq_true_iff.mp hc
  refine (ite_of_not hon).trans ?_
  cases hin : resumeIncoming s.dev with
  | some r =>
    rw [hin] at hdue
    simp only [repeatBoundaryRule, hin, next_eq]
    exact if_pos hdue
  | none =>
    rw [hin] at hdue
    cases hrun : s.dev.jobs.running with
    | none => simp [hrun] at hdue
    | some x =>
      cases hnext : nextBoundary s.dev with
      | none => simp [hrun, hnext] at hdue
      | some b =>
        simp only [repeatBoundaryRule, hin, hrun, hnext, next_eq] at hdue ⊢
        exact if_neg (by simpa using hdue)

theorem bandCloseNoticeReceivedRule_holds (band : U32) (w : U64) :
    (bandCloseNoticeReceivedRule band w).Holds (.bandCloseNoticeReceived band w) := fun _ hc => if_pos hc

theorem bandNoticePitchRule_holds : bandNoticePitchRule.Holds .bandNoticePitch := by
  intro s hc
  cases hlast : s.dev.acct.lastNotice with
  | none => simp [bandNoticePitchRule, hlast] at hc
  | some last =>
    simp only [bandNoticePitchRule, hlast, Bool.and_eq_true] at hc
    obtain ⟨⟨⟨⟨hmaster, -⟩, hpitch⟩, hfar⟩, hnone⟩ := hc
    refine (ite_of_not hmaster).trans ((if_neg (by simp [hlast])).trans ?_)
    simp only [bandNoticePitchRule, hlast, next_eq]
    refine (if_neg (by simpa [Nat.not_lt] using And.intro hpitch hfar)).trans ?_
    split
    · rename_i h
      rw [h] at hnone
      cases hnone
    · rename_i h
      rw [h]

theorem bandBoundaryRule_holds : bandBoundaryRule.Holds .bandBoundary := by
  intro s _
  show execBandBoundary s = _
  cases hclose : s.dev.acct.bandClose with
  | nil => simp only [execBandBoundary, bandBoundaryRule, hclose, next_eq]
  | cons n rest =>
    simp only [execBandBoundary, bandBoundaryRule, hclose, next_eq]
    split <;> rfl

theorem shadowBankLoadRule_holds (t : Tbl) : (shadowBankLoadRule t).Holds (.shadowBankLoad t) := by
  intro s hc
  simp only [shadowBankLoadRule, Bool.and_eq_true, Bool.not_eq_true'] at hc
  obtain ⟨⟨hserves, hfree⟩, -⟩ := hc
  show execShadowBankLoad t s = _
  cases hqueue : s.dev.banks.queue.find? (fun r => r.tbl == t) with
  | none => simp only [execShadowBankLoad, shadowBankLoadRule, hqueue, next_eq]
  | some r =>
    simp only [execShadowBankLoad, shadowBankLoadRule, hqueue, next_eq]
    exact if_neg (by simp [hserves, hfree])

theorem shadowBankLoadDoneRule_holds (t : Tbl) : (shadowBankLoadDoneRule t).Holds (.shadowBankLoadDone t) := fun _ hc => if_pos hc

/-- Settles O13: the rule of each boundary and shadow bank row holds. -/
theorem boundariesComplete : Obligations.BoundariesComplete :=
  ⟨changeWposRule_holds, repeatBoundaryRule_holds, bandCloseNoticeReceivedRule_holds, bandNoticePitchRule_holds, bandBoundaryRule_holds,
    shadowBankLoadRule_holds, shadowBankLoadDoneRule_holds⟩

/-! Fabric -/

theorem srcSeqGapTimeoutRule_holds (src : U8) (vc : Vc) (dest : DestKind) :
    (srcSeqGapTimeoutRule src vc dest).Holds (.srcSeqGapTimeout src vc dest) := by
  intro s _
  show execSrcSeqGapTimeout src vc dest s = _
  cases hflow : s.dev.fabric.flows.find? (isFlow src vc dest) with
  | none => simp only [execSrcSeqGapTimeout, srcSeqGapTimeoutRule, hflow, next_eq]
  | some x =>
    cases hheld : x.held <;>
      · simp only [execSrcSeqGapTimeout, srcSeqGapTimeoutRule, hflow, hheld]
        rfl

theorem dataFrameReceivedRule_holds (p : Port) (k : Fin 2) (f : DataFrame) :
    (dataFrameReceivedRule p k f).Holds (.dataFrameReceived p k f) := by
  intro s hc
  refine (ite_of_not hc).trans ?_
  simp only [dataFrameReceivedRule, next_eq]
  split
  · rfl
  · split
    · rfl
    · split <;> rfl

theorem unreachableReceivedRule_holds (dest : U8) (msgType : U16) (srcSeq : U32) :
    (unreachableReceivedRule dest msgType srcSeq).Holds (.unreachableReceived dest msgType srcSeq) :=
  fun _ hc => ite_of_not hc

theorem timeReqTimerRule_holds : timeReqTimerRule.Holds .timeReqTimer := by
  intro s _
  show execTimeReqTimer s = _
  cases hparent : s.dev.fabric.parent with
  | none => simp only [execTimeReqTimer, timeReqTimerRule, hparent, next_eq]
  | some p =>
    simp only [execTimeReqTimer, timeReqTimerRule, hparent, next_eq]
    split <;> rfl

theorem timeReqReceivedRule_holds (p : Port) (t1 t2 : Int) (x : FrameEnd) :
    (timeReqReceivedRule p t1 t2 x).Holds (.timeReqReceived p t1 t2 x) := by
  intro s hc
  obtain ⟨hruns, htaken⟩ := Bool.and_eq_true_iff.mp hc
  refine (if_neg (by simp [hruns])).trans ?_
  simp only [timeReqReceivedRule, next_eq]
  split
  · rename_i h
    rw [h] at htaken
    cases htaken
  · rename_i h
    rw [h]

theorem timeRespReceivedRule_holds (p : Port) (t1 t2 t3 t4 : Int) (x : FrameEnd) :
    (timeRespReceivedRule p t1 t2 t3 t4 x).Holds (.timeRespReceived p t1 t2 t3 t4 x) := by
  intro s hc
  obtain ⟨hruns, htaken⟩ := Bool.and_eq_true_iff.mp hc
  refine (ite_of_not hruns).trans ?_
  simp only [timeRespReceivedRule, next_eq]
  split
  · rename_i h
    rw [h] at htaken
    cases htaken
  · rename_i h
    rw [h]
    split <;> rfl

theorem timeUnlockTimeoutRule_holds : timeUnlockTimeoutRule.Holds .timeUnlockTimeout := fun _ hc => if_pos hc

theorem neighbourSilentRule_holds (p : Port) : (neighbourSilentRule p).Holds (.neighbourSilent p) := fun _ hc => if_pos hc

theorem portFlapRule_holds (p : Port) : (portFlapRule p).Holds (.portFlap p) := fun _ hc => if_pos hc

theorem partnerIsolatedRule_holds (block : BitVec 5) (source : U16) :
    (partnerIsolatedRule block source).Holds (.partnerIsolated block source) := fun _ hc => if_pos hc

/-- Settles O29: the rule of each row of data frames, order, fabric time and faults holds. -/
theorem fabricMessagesComplete : Obligations.FabricMessagesComplete :=
  ⟨srcSeqGapTimeoutRule_holds, dataFrameReceivedRule_holds, unreachableReceivedRule_holds, timeReqTimerRule_holds,
    timeReqReceivedRule_holds, timeRespReceivedRule_holds, timeUnlockTimeoutRule_holds, neighbourSilentRule_holds, portFlapRule_holds,
    partnerIsolatedRule_holds⟩

end Sys2Proof.Machine
end

section
/-! SUPPORT. The rows of chapters 1 to 4: the fields of the device that each may change. -/
namespace Sys2Proof.Machine

-- One theorem after another: each `decide` here is a kernel evaluation of its own, and Lean would start a thread for each of them.
set_option Elab.async false

theorem keeps_rfl {ch : List DevField} {d : Device} : Keeps ch d d := .refl ch d

/-! Writing one field of the device changes that field alone. -/

section
variable {ch : List DevField} {a d : Device}

theorem keeps_set_acct {x : Acct} (hc : within [.acct] ch = true) (hk : Keeps ch a d) : Keeps ch a { d with acct := x } :=
  Keeps.step (c := [.acct]) ⟨fun f hf => by cases f with | acct => simp at hf | _ => rfl⟩ hc hk

theorem keeps_set_banks {x : Banks} (hc : within [.banks] ch = true) (hk : Keeps ch a d) : Keeps ch a { d with banks := x } :=
  Keeps.step (c := [.banks]) ⟨fun f hf => by cases f with | banks => simp at hf | _ => rfl⟩ hc hk

theorem keeps_set_cz {x : Cz} (hc : within [.cz] ch = true) (hk : Keeps ch a d) : Keeps ch a { d with cz := x } :=
  Keeps.step (c := [.cz]) ⟨fun f hf => by cases f with | cz => simp at hf | _ => rfl⟩ hc hk

theorem keeps_set_feed {x : Feed} (hc : within [.feed] ch = true) (hk : Keeps ch a d) : Keeps ch a { d with feed := x } :=
  Keeps.step (c := [.feed]) ⟨fun f hf => by cases f with | feed => simp at hf | _ => rfl⟩ hc hk

theorem keeps_set_jobs {x : Jobs} (hc : within [.jobs] ch = true) (hk : Keeps ch a d) : Keeps ch a { d with jobs := x } :=
  Keeps.step (c := [.jobs]) ⟨fun f hf => by cases f with | jobs => simp at hf | _ => rfl⟩ hc hk

theorem keeps_set_pos {x : Pos} (hc : within [.pos] ch = true) (hk : Keeps ch a d) : Keeps ch a { d with pos := x } :=
  Keeps.step (c := [.pos]) ⟨fun f hf => by cases f with | pos => simp at hf | _ => rfl⟩ hc hk

theorem keeps_set_sheet {x : Sheet} (hc : within [.sheet] ch = true) (hk : Keeps ch a d) : Keeps ch a { d with sheet := x } :=
  Keeps.step (c := [.sheet]) ⟨fun f hf => by cases f with | sheet => simp at hf | _ => rfl⟩ hc hk

end

/-! The rows of chapters 1 to 4, each within its own list of fields -/

section
variable {s : State}

theorem execBandCloseNoticeReceived_keeps {band : U32} {w : U64} : OutKeeps [.acct] s (execBandCloseNoticeReceived band w s) :=
  outKeeps_ite (outKeeps_next (noteBandClose_keeps _ _ _ (by decide) keeps_rfl)) (outKeeps_next keeps_rfl)

theorem execSpeedLimitRelease_keeps : OutKeeps [.feed] s (execSpeedLimitRelease s) :=
  outKeeps_next (keeps_set_feed (by decide) keeps_rfl)

theorem execReadyReceived_keeps {node : U8} {jobId : U32} {isReady : Bool} {reason : U32} :
    OutKeeps [.jobs] s (execReadyReceived node jobId isReady reason s) := by
  unfold execReadyReceived
  dsimp only
  split
  · exact outKeeps_next (keeps_ite (setReady_keeps _ _ _ (by decide) keeps_rfl) keeps_rfl)
  · exact outKeeps_next keeps_rfl

theorem execGoAckReceived_keeps {node : U8} {jobId : U32} {w : U64} : OutKeeps [.jobs] s (execGoAckReceived node jobId w s) := by
  unfold execGoAckReceived
  dsimp only
  split
  · exact outKeeps_ite (outKeeps_next (keeps_set_jobs (by decide) keeps_rfl)) (outKeeps_next keeps_rfl)
  · exact outKeeps_next keeps_rfl

theorem execAbortReceived_keeps {jobId : U32} {w : U64} : OutKeeps [.jobs] s (execAbortReceived jobId w s) := by
  unfold execAbortReceived
  dsimp only
  split
  · exact outKeeps_ite (outKeeps_next (keeps_set_jobs (by decide) keeps_rfl)) (outKeeps_next keeps_rfl)
  · exact outKeeps_next keeps_rfl

theorem execCancelReceived_keeps {jobId : U32} : OutKeeps [.jobs, .sheet] s (execCancelReceived jobId s) := by
  unfold execCancelReceived
  extract_lets d _ e
  have he : Keeps [.jobs, .sheet] s.dev e := keeps_set_jobs (by decide) keeps_rfl
  split
  · exact outKeeps_next (keeps_ite (unschedule_keeps _ (by decide) he) he)
  · exact outKeeps_next keeps_rfl

theorem execShadowBankLoad_keeps {t : Tbl} : OutKeeps [.banks] s (execShadowBankLoad t s) := by
  unfold execShadowBankLoad
  dsimp only
  split
  · exact outKeeps_next keeps_rfl
  · exact outKeeps_ite (outKeeps_next keeps_rfl) (outKeeps_next (modBank_keeps _ _ _ (by decide)
      (keeps_set_banks (by decide) keeps_rfl)))

theorem execSheetOpenNoticeReceived_keeps {start : U64} {input : U8} {number : U32} :
    OutKeeps [.sheet] s (execSheetOpenNoticeReceived start input number s) :=
  outKeeps_ite (outKeeps_next (placeSheet_keeps _ _ _ (by decide) keeps_rfl)) (outKeeps_next keeps_rfl)

theorem execDecompressorResume_keeps {engine : Fin 8} {free : Nat} :
    OutKeeps [.mbx, .vlog, .acct, .jobs, .feed, .cz, .dram, .lanes, .fabric] s (execDecompressorResume engine free s) := by
  unfold execDecompressorResume
  extract_lets d tile _ _ e
  have he : Keeps [.mbx, .vlog, .acct, .jobs, .feed, .cz, .dram, .lanes, .fabric] s.dev e :=
    keeps_set_cz (by decide) (modRing_keeps _ _ _ (by decide) keeps_rfl)
  exact outKeeps_ite (outKeeps_next keeps_rfl) (outKeeps_next (keeps_ite (resumeTiles_keeps _ (by decide) he) he))

theorem execBlockFetch_keeps {plane : Plane} : OutKeeps [.vlog, .jobs, .feed, .dram] s (execBlockFetch plane s) := by
  unfold execBlockFetch
  refine outKeeps_ite (outKeeps_next keeps_rfl) ?_
  split
  · exact outKeeps_next keeps_rfl
  · exact outKeeps_ite (outKeeps_next keeps_rfl) (outKeeps_next (noteReleased_keeps _ (by decide)
      (modRing_keeps _ _ _ (by decide) (seeBlock_keeps _ _ _ _ _ (by decide) keeps_rfl))))

theorem execCaptureTimeout_keeps {seq : U32} : OutKeeps [.mbx, .vlog, .lanes, .fabric] s (execCaptureTimeout seq s) := by
  unfold execCaptureTimeout
  dsimp only
  split
  · exact outKeeps_next (finish_keeps _ _ _ (by decide) keeps_rfl)
  · exact outKeeps_next keeps_rfl

theorem execWposSampleBroadcast_keeps : OutKeeps [.pos, .lanes, .fabric] s (execWposSampleBroadcast s) :=
  outKeeps_ite (outKeeps_next (broadcast_keeps _ _ _ _ (by decide) (keeps_set_pos (by decide) keeps_rfl))) (outKeeps_next keeps_rfl)

theorem execBandNoticePitch_keeps : OutKeeps [.acct, .lanes, .fabric] s (execBandNoticePitch s) := by
  unfold execBandNoticePitch
  refine outKeeps_ite (outKeeps_next keeps_rfl) (outKeeps_ite (outKeeps_next (keeps_set_acct (by decide) keeps_rfl)) ?_)
  refine outKeeps_ite (outKeeps_next keeps_rfl) ?_
  dsimp only
  split
  · exact outKeeps_next (keeps_pair ‹_› (noMeasuring_keeps _ (by decide) (keeps_set_acct (by decide) keeps_rfl)))
  · exact outKeeps_next (broadcast_keeps _ _ _ _ (by decide) (noteBandClose_keeps _ _ _ (by decide) (keeps_set_acct (by decide)
      (keeps_pair ‹_› (noMeasuring_keeps _ (by decide) (keeps_set_acct (by decide) keeps_rfl))))))

theorem execScheduleReceived_keeps {jobId : U32} {w : U64} {postponements : U8} :
    OutKeeps [.mbx, .vlog, .jobs, .sheet, .lanes, .fabric] s (execScheduleReceived jobId w postponements s) :=
  outKeeps_ite (outKeeps_next keeps_rfl) (outKeeps_next (reportReady_keeps _ _ (by decide) (keeps_ite
    (keeps_set_jobs (by decide) keeps_rfl) (holdSchedule_keeps _ _ (by decide) keeps_rfl))))

theorem execGoReceived_keeps {jobId : U32} {w : U64} : OutKeeps [.mbx, .vlog, .jobs, .lanes, .fabric] s (execGoReceived jobId w s) := by
  unfold execGoReceived
  dsimp only
  split
  · exact outKeeps_ite (outKeeps_next keeps_rfl) (outKeeps_next (sendTo_keeps _ _ _ _ _ _ (by decide)
      (keeps_set_jobs (by decide) keeps_rfl)))
  · exact outKeeps_next keeps_rfl

theorem execNullLineKeepalive_keeps {h : Head} : OutKeeps [.links, .lanes] s (execNullLineKeepalive h s) :=
  outKeeps_ite (outKeeps_next keeps_rfl) (outKeeps_next (sendCell_keeps _ _ _ (by decide) keeps_rfl))

theorem execPosStatus_keeps {c : Cmd} : OutKeeps [.mbx, .vlog, .lanes, .fabric] s (execPosStatus c s) :=
  mervan_keeps (by decide) nofun (fun _ _ _ => ok_keeps _ _ (by decide) keeps_rfl)

theorem execJobStatus_keeps {c : Cmd} : OutKeeps [.mbx, .vlog, .lanes, .fabric] s (execJobStatus c s) :=
  mervan_keeps (by decide) nofun (fun _ _ _ => ok_keeps _ _ (by decide) keeps_rfl)

theorem execScreenStatus_keeps {c : Cmd} : OutKeeps [.mbx, .vlog, .lanes, .fabric] s (execScreenStatus c s) :=
  mervan_keeps (by decide) nofun (fun _ _ _ => doneKeeps_ite (ok_keeps _ _ (by decide) keeps_rfl) (doneKeeps_ite
    (no_keeps _ _ _ _ (by decide) keeps_rfl) (ok_keeps _ _ (by decide) keeps_rfl)))

theorem execScreenCapture_keeps {c : Cmd} : OutKeeps [.mbx, .vlog, .lanes, .fabric] s (execScreenCapture c s) :=
  mervan_keeps (by decide) nofun (fun _ _ _ => doneKeeps_ite (no_keeps _ _ _ _ (by decide) keeps_rfl) (doneKeeps_ite
    (no_keeps _ _ _ _ (by decide) keeps_rfl) (doneKeeps_ite (no_keeps _ _ _ _ (by decide) keeps_rfl) (doneKeeps_later keeps_rfl))))

theorem execEncoderWindowEnd_keeps : OutKeeps [.mbx, .vlog, .pos, .lanes, .fabric] s (execEncoderWindowEnd s) := by
  unfold execEncoderWindowEnd
  extract_lets d own a both deputy fail heard off was ended told
  have he : Keeps [.mbx, .vlog, .pos, .lanes, .fabric] s.dev ended := keeps_set_pos (by decide) keeps_rfl
  have ht : Keeps [.mbx, .vlog, .pos, .lanes, .fabric] s.dev told := keeps_ite (raise_keeps _ _ _ (by decide) he) he
  exact outKeeps_ite (outKeeps_next keeps_rfl) (outKeeps_next (keeps_ite (raise_keeps _ _ _ (by decide) ht) ht))

theorem execIndexPulse_keeps {enc : Fin 2} : OutKeeps [.mbx, .vlog, .pos, .lanes, .fabric] s (execIndexPulse enc s) := by
  unfold execIndexPulse
  extract_lets d e fail _ indexed counted
  have hi : Keeps [.mbx, .vlog, .pos, .lanes, .fabric] s.dev indexed := keeps_set_pos (by decide) keeps_rfl
  have hc : Keeps [.mbx, .vlog, .pos, .lanes, .fabric] s.dev counted := keeps_ite (modDiag_keeps _ _ (by decide) hi) hi
  exact outKeeps_ite (outKeeps_next keeps_rfl) (outKeeps_next (keeps_ite (raise_keeps _ _ _ (by decide) hc) hc))

theorem execDeputyTakeover_keeps : OutKeeps [.mbx, .vlog, .pos, .lanes, .fabric] s (execDeputyTakeover s) :=
  outKeeps_ite (outKeeps_next (raise_keeps _ _ _ (by decide) (keeps_set_pos (by decide) keeps_rfl))) (outKeeps_next keeps_rfl)

theorem execBandBoundary_keeps : OutKeeps [.mbx, .vlog, .acct, .lanes, .fabric] s (execBandBoundary s) := by
  unfold execBandBoundary
  dsimp only
  split
  · exact outKeeps_next keeps_rfl
  · exact outKeeps_ite (outKeeps_next keeps_rfl) (outKeeps_next (sendAudits_keeps _ (by decide)
      (latchPeriod_keeps _ _ _ _ (by decide) (keeps_set_acct (by decide) keeps_rfl))))

theorem execOverRateDetect_keeps {rate : Nat} : OutKeeps [.mbx, .vlog, .feed, .lanes, .fabric] s (execOverRateDetect rate s) :=
  outKeeps_ite (outKeeps_next (raise_keeps _ _ _ (by decide) (keeps_set_feed (by decide) keeps_rfl))) (outKeeps_next keeps_rfl)

theorem execJobCommit_keeps {c : Cmd} : OutKeeps [.mbx, .vlog, .jobs, .sheet, .lanes, .fabric] s (execJobCommit c s) := by
  unfold execJobCommit
  refine mervan_keeps (by decide) nofun (fun _ _ _ => ?_)
  dsimp only
  split
  · exact no_keeps _ _ _ _ (by decide) keeps_rfl
  · exact doneKeeps_ite (no_keeps _ _ _ _ (by decide) keeps_rfl) (doneKeeps_ite (no_keeps _ _ _ _ (by decide) keeps_rfl)
      (doneKeeps_ite (no_keeps _ _ _ _ (by decide) keeps_rfl) (doneKeeps_ite (no_keeps _ _ _ _ (by decide) keeps_rfl)
      (ok_keeps _ _ (by decide) (reportReady_keeps _ _ (by decide) (sendSchedule_keeps _ _ (by decide)
      (holdSchedule_keeps _ _ (by decide) keeps_rfl)))))))

theorem execJobStop_keeps {c : Cmd} : OutKeeps [.mbx, .vlog, .jobs, .lanes, .fabric] s (execJobStop c s) := by
  unfold execJobStop
  refine mervan_keeps (by decide) nofun (fun _ _ _ => ?_)
  split
  · exact no_keeps _ _ _ _ (by decide) keeps_rfl
  · exact doneKeeps_ite (no_keeps _ _ _ _ (by decide) keeps_rfl) (ok_keeps _ _ (by decide) (keeps_set_jobs (by decide) keeps_rfl))

theorem execDecisionPoint_keeps : OutKeeps [.mbx, .vlog, .jobs, .sheet, .lanes, .fabric] s (execDecisionPoint s) := by
  unfold execDecisionPoint
  dsimp only
  split
  · exact outKeeps_next keeps_rfl
  · exact outKeeps_ite (outKeeps_next keeps_rfl) (outKeeps_ite (outKeeps_next
      (broadcast_keeps _ _ _ _ (by decide) (keeps_set_jobs (by decide) keeps_rfl))) (outKeeps_next
      (postpone_keeps _ _ _ (by decide) keeps_rfl)))

theorem execAbortDeadline_keeps : OutKeeps [.mbx, .vlog, .jobs, .sheet, .lanes, .fabric] s (execAbortDeadline s) := by
  unfold execAbortDeadline
  dsimp only
  split
  · exact outKeeps_next keeps_rfl
  · exact outKeeps_ite (outKeeps_next keeps_rfl) (outKeeps_ite (outKeeps_next (keeps_set_jobs (by decide) keeps_rfl)) (outKeeps_next
      (postpone_keeps _ _ _ (by decide) (broadcast_keeps _ _ _ _ (by decide) keeps_rfl))))

theorem execPdEdge_keeps {input : Fin 2} {rising : Bool} :
    OutKeeps [.mbx, .vlog, .sheet, .lanes, .fabric] s (execPdEdge input rising s) :=
  outKeeps_ite (outKeeps_next keeps_rfl) (outKeeps_ite (outKeeps_next (keeps_set_sheet (by decide)
    (keeps_set_sheet (by decide) keeps_rfl))) (outKeeps_next (openSheet_keeps _ _ _ (by decide) (keeps_set_sheet
    (by decide) keeps_rfl))))

theorem execPdConfirmTimeout_keeps : OutKeeps [.mbx, .vlog, .sheet, .lanes, .fabric] s (execPdConfirmTimeout s) := by
  unfold execPdConfirmTimeout
  dsimp only
  split
  · exact outKeeps_ite (outKeeps_next (raise_keeps _ _ _ (by decide) (modDiag_keeps _ _ (by decide)
      (keeps_set_sheet (by decide) keeps_rfl)))) (outKeeps_next keeps_rfl)
  · exact outKeeps_next keeps_rfl

theorem execPosConfig_keeps {c : Cmd} : OutKeeps [.mbx, .vlog, .pos, .lanes, .fabric, .red] s (execPosConfig c s) :=
  mervan_keeps (by decide) nofun (fun _ _ _ => doneKeeps_ite (no_keeps _ _ _ _ (by decide) keeps_rfl) (doneKeeps_ite
    (no_keeps _ _ _ _ (by decide) keeps_rfl) (done_keeps _ (by decide) (setPosConfig_keeps _ _ (by decide) keeps_rfl))))

theorem execSubRead_keeps {c : Cmd} : OutKeeps [.mbx, .vlog, .dram, .lanes, .fabric, .red] s (execSubRead c s) :=
  mervan_keeps (by decide) (fun _ => by decide) (fun _ _ _ => ok_keeps _ _ (by decide) (dramWrite_keeps _ _ _ _ (by decide) keeps_rfl))

theorem execJobAppend_keeps {c : Cmd} : OutKeeps [.mbx, .vlog, .jobs, .dram, .lanes, .fabric, .red] s (execJobAppend c s) := by
  unfold execJobAppend
  refine mervan_keeps (by decide) (fun _ => by decide) (fun _ _ _ => ?_)
  split
  · exact no_keeps _ _ _ _ (by decide) keeps_rfl
  · refine doneKeeps_ite (ok_keeps _ _ (by decide) keeps_rfl) ?_
    split
    · exact stageFailed_keeps _ _ (by decide) (seeChecks_keeps _ _ _ _ _ _ (by decide) keeps_rfl)
    · exact ok_keeps _ _ (by decide) (noteReady_keeps _ _ (by decide) (noteMirror_keeps _ _ _ (by decide)
        (raiseValid_keeps _ _ _ _ (by decide) (seeChecks_keeps _ _ _ _ _ _ (by decide) keeps_rfl))))

theorem execEncoderCount_keeps {enc : Fin 2} {edge : EncEdge} :
    OutKeeps [.mbx, .vlog, .pos, .loop, .lanes, .fabric] s (execEncoderCount enc edge s) :=
  outKeeps_ite (outKeeps_next keeps_rfl) (outKeeps_ite (outKeeps_next (illegalEdge_keeps _ _ (by decide) keeps_rfl)) (outKeeps_ite
    (outKeeps_next (holdLoop_keeps _ (by decide) (checkReverse_keeps _ (by decide) (driveCount_keeps _ _ (by decide)
    (keeps_set_pos (by decide) keeps_rfl))))) (outKeeps_next (keeps_set_pos (by decide) keeps_rfl))))

theorem execEncoderStall_keeps : OutKeeps [.mbx, .vlog, .pos, .loop, .lanes, .fabric] s (execEncoderStall s) :=
  outKeeps_ite (outKeeps_next keeps_rfl) (outKeeps_next (holdLoop_keeps _ (by decide) (refreshPos_keeps _ (by decide)
    (keeps_set_pos (by decide) keeps_rfl))))

theorem execSheetConfig_keeps {c : Cmd} : OutKeeps [.mbx, .vlog, .sheet, .lanes, .fabric, .red] s (execSheetConfig c s) :=
  mervan_keeps (by decide) nofun (fun _ _ _ => doneKeeps_ite (no_keeps _ _ _ _ (by decide) keeps_rfl) (done_keeps _ (by decide)
    (keeps_set_sheet (by decide) keeps_rfl)))

theorem execJobCancel_keeps {c : Cmd} : OutKeeps [.mbx, .vlog, .jobs, .banks, .sheet, .lanes, .fabric] s (execJobCancel c s) := by
  unfold execJobCancel
  refine mervan_keeps (by decide) nofun (fun _ _ _ => ?_)
  dsimp only
  split
  · exact no_keeps _ _ _ _ (by decide) keeps_rfl
  · refine doneKeeps_ite ?_ (ok_keeps _ _ (by decide) (noteReady_keeps _ _ (by decide) (dropJobLoads_keeps _ (by decide)
      (keeps_set_jobs (by decide) keeps_rfl))))
    split
    · exact doneKeeps_ite (no_keeps _ _ _ _ (by decide) keeps_rfl) (doneKeeps_ite (no_keeps _ _ _ _ (by decide) keeps_rfl)
        (ok_keeps _ _ (by decide) (broadcast_keeps _ _ _ _ (by decide) (unschedule_keeps _ (by decide) keeps_rfl))))
    · exact ok_keeps _ _ (by decide) (unschedule_keeps _ (by decide) keeps_rfl)

theorem execFireCellStart_keeps {h : Head} {row : BitVec 2} :
    OutKeeps [.acct, .fire, .links, .drive, .lanes] s (execFireCellStart h row s) := by
  unfold execFireCellStart
  dsimp only
  split
  · exact outKeeps_next keeps_rfl
  · refine outKeeps_ite (outKeeps_next keeps_rfl) ?_
    split
    · exact outKeeps_next (dropToken_keeps _ _ _ (by decide) keeps_rfl)
    · exact outKeeps_ite (outKeeps_next (dropToken_keeps _ _ _ (by decide) keeps_rfl)) (outKeeps_next
        (fireRow_keeps _ _ _ (by decide) keeps_rfl))

theorem execPositionLost_keeps : OutKeeps [.mbx, .vlog, .acct, .pos, .fire, .lanes, .fabric] s (execPositionLost s) :=
  outKeeps_ite (outKeeps_next (raise_keeps _ _ _ (by decide) (skipTokens_keeps _ _ _ (by decide) (keeps_set_pos
    (by decide) keeps_rfl)))) (outKeeps_next keeps_rfl)

theorem execJobStage_keeps {c : Cmd} : OutKeeps [.mbx, .vlog, .jobs, .banks, .dram, .lanes, .fabric, .red] s (execJobStage c s) := by
  unfold execJobStage
  refine mervan_keeps (by decide) (fun _ => by decide) (fun _ _ _ => (doneKeeps_ite (no_keeps _ _ _ _ (by decide) keeps_rfl) ?_))
  refine doneKeeps_ite (no_keeps _ _ _ _ (by decide) keeps_rfl) ?_
  split
  · exact stageFailed_keeps _ _ (by decide) keeps_rfl
  · dsimp only
    split
    · exact stageFailed_keeps _ _ (by decide) (seeChecks_keeps _ _ _ _ _ _ (by decide) keeps_rfl)
    · exact ok_keeps _ _ (by decide) (noteReady_keeps _ _ (by decide) (noteMirror_keeps _ _ _ (by decide)
        (stageLoads_keeps _ _ (by decide) (seeChecks_keeps _ _ _ _ _ _ (by decide) (keeps_set_jobs (by decide) keeps_rfl)))))

theorem execSubLoad_keeps {c : Cmd} : OutKeeps [.mbx, .vlog, .jobs, .banks, .dram, .lanes, .fabric, .red] s (execSubLoad c s) := by
  unfold execSubLoad
  refine mervan_keeps (by decide) (fun _ => by decide) (fun _ _ _ => ?_)
  split
  · exact answerImage_keeps _ _ (by decide) keeps_rfl
  · exact doneKeeps_ite (loadForRepeat_keeps _ _ _ _ _ (by decide) keeps_rfl) (loadForJob_keeps _ _ _ _ _ (by decide) keeps_rfl)

theorem execLineConfig_keeps {c : Cmd} :
    OutKeeps [.mbx, .vlog, .jobs, .banks, .dram, .lanes, .fabric, .red] s (execLineConfig c s) := by
  unfold execLineConfig
  refine mervan_keeps (by decide) nofun (fun _ a d => ?_)
  extract_lets seen read heads
  have hs : Keeps [.mbx, .vlog, .jobs, .banks, .dram, .lanes, .fabric, .red] d seen := dramSee_keeps _ _ _ (by decide) keeps_rfl
  split
  · exact poisoned_keeps _ _ (by decide) hs
  · exact doneKeeps_ite (no_keeps _ _ _ _ (by decide) hs) (doneKeeps_ite (no_keeps _ _ _ _ (by decide) hs)
      (doneKeeps_ite (no_keeps _ _ _ _ (by decide) hs)
        (done_keeps _ (by decide) (noteReady_keeps _ _ (by decide) (keeps_set_banks (by decide) hs)))))

theorem execBlockDecompressed_keeps {plane : Plane} :
    OutKeeps [.mbx, .vlog, .jobs, .feed, .cz, .lanes, .fabric] s (execBlockDecompressed plane s) := by
  unfold execBlockDecompressed
  dsimp only
  split
  · exact outKeeps_next keeps_rfl
  · refine outKeeps_ite (outKeeps_next keeps_rfl) ?_
    split
    · exact outKeeps_next (keeps_set_cz (by decide) (modRing_keeps _ _ _ (by decide) keeps_rfl))
    · exact outKeeps_next (endBlock_keeps _ _ _ _ _ (by decide) keeps_rfl)

theorem execLineInhibit_keeps {c : Cmd} : OutKeeps [.mbx, .vlog, .fire, .links, .lanes, .fabric, .red] s (execLineInhibit c s) :=
  mervan_keeps (by decide) nofun (fun _ _ _ => doneKeeps_ite (no_keeps _ _ _ _ (by decide) keeps_rfl) (done_keeps _ (by decide)
    (keeps_ite (inhibitHeads_keeps _ _ (by decide) keeps_rfl) (releaseHeads_keeps _ _ (by decide) keeps_rfl))))

theorem execLineCommit_keeps {h : Head} :
    OutKeeps [.mbx, .vlog, .acct, .engines, .fire, .links, .drive, .lanes, .fabric] s (execLineCommit h s) := by
  unfold execLineCommit
  extract_lets d
  have hd : Keeps [.mbx, .vlog, .acct, .engines, .fire, .links, .drive, .lanes, .fabric] s.dev d :=
    pullSeg_keeps _ _ (by decide) keeps_rfl
  split
  · exact outKeeps_next keeps_rfl
  · refine outKeeps_ite (outKeeps_next keeps_rfl) ?_
    extract_lets line
    split
    · exact outKeeps_next (skipFront_keeps _ _ _ _ (by decide) hd)
    · split
      · exact outKeeps_next (commitLine_keeps _ _ _ _ (by decide) hd)
      · exact outKeeps_next hd

theorem execPosSet_keeps {c : Cmd} :
    OutKeeps [.mbx, .vlog, .acct, .pos, .sheet, .cams, .lanes, .fabric, .red, .nv] s (execPosSet c s) :=
  mervan_keeps (by decide) nofun (fun _ _ _ => doneKeeps_ite (no_keeps _ _ _ _ (by decide) keeps_rfl) (doneKeeps_ite
    (no_keeps _ _ _ _ (by decide) keeps_rfl) (ok_keeps _ _ (by decide) (lockPromotion_keeps _ (by decide)
    (setWpos_keeps _ _ (by decide) keeps_rfl)))))

theorem execRepeatDue_keeps : OutKeeps [.mbx, .vlog, .acct, .jobs, .feed, .banks, .cz, .dram, .lanes, .fabric] s (execRepeatDue s) := by
  unfold execRepeatDue
  refine outKeeps_ite (outKeeps_next keeps_rfl) ?_
  split
  · exact outKeeps_next keeps_rfl
  · exact outKeeps_next (keeps_ite (fallDue_keeps _ _ _ (by decide) keeps_rfl) keeps_rfl)

theorem execShadowBankLoadDone_keeps {t : Tbl} :
    OutKeeps [.mbx, .vlog, .jobs, .banks, .links, .dram, .lanes, .fabric, .red] s (execShadowBankLoadDone t s) :=
  outKeeps_ite (outKeeps_next (noteReady_keeps _ _ (by decide) (keeps_set_jobs (by decide)
    (finishLoad_keeps _ _ (by decide) keeps_rfl)))) (outKeeps_next keeps_rfl)

theorem execScreenLine_keeps {h : Head} :
    OutKeeps [.mbx, .vlog, .acct, .feed, .engines, .fire, .dram, .lanes, .fabric, .red] s (execScreenLine h s) :=
  outKeeps_ite (outKeeps_next (screenNext_keeps _ _ (by decide) keeps_rfl)) (outKeeps_next keeps_rfl)

theorem execEncoderFaulted_keeps {enc : Fin 2} {why : EncFault} :
    OutKeeps [.mbx, .vlog, .acct, .jobs, .banks, .engines, .pos, .sheet, .fire, .loop, .lanes, .fabric] s
      (execEncoderFaulted enc why s) :=
  outKeeps_ite (outKeeps_next keeps_rfl) (outKeeps_ite (outKeeps_next (keeps_set_pos (by decide) keeps_rfl)) (outKeeps_ite
    (outKeeps_next (drivingFaulted_keeps _ _ (by decide) (keeps_set_pos (by decide) keeps_rfl))) (outKeeps_ite
    (outKeeps_next (raise_keeps _ _ _ (by decide) (keeps_set_pos (by decide) keeps_rfl))) (outKeeps_next
    (raise_keeps _ _ _ (by decide) (keeps_set_pos (by decide) keeps_rfl))))))

theorem execWposSampleReceived_keeps {sample : WposSample} :
    OutKeeps [.mbx, .vlog, .acct, .jobs, .banks, .engines, .pos, .sheet, .fire, .cams, .loop, .lanes, .fabric, .red, .nv] s
      (execWposSampleReceived sample s) := by
  unfold execWposSampleReceived
  extract_lets d checked lost thawed _ thaw joined
  have hc : Keeps [.mbx, .vlog, .acct, .jobs, .banks, .engines, .pos, .sheet, .fire, .cams, .loop, .lanes, .fabric, .red, .nv] s.dev checked :=
    checkSampleConfig_keeps _ _ (by decide) keeps_rfl
  have hj : Keeps [.mbx, .vlog, .acct, .jobs, .banks, .engines, .pos, .sheet, .fire, .cams, .loop, .lanes, .fabric, .red, .nv] s.dev joined :=
    learnJob_keeps _ _ (by decide) (proveChange_keeps _ _ (by decide)
      (followSample_keeps _ _ (by decide) (keeps_ite (keeps_set_pos (by decide) hc) hc)))
  exact outKeeps_ite (outKeeps_next keeps_rfl) (outKeeps_ite (outKeeps_next (faultSample_keeps _ _ _ (by decide) hc))
    (outKeeps_next (lockPromotion_keeps _ (by decide)
      (holdLoop_keeps _ (by decide) (keeps_ite (raise_keeps _ _ _ (by decide) (skipPassed_keeps _ (by decide) hj)) hj)))))

theorem execChangeWpos_keeps :
    OutKeeps [.mbx, .vlog, .acct, .jobs, .feed, .banks, .engines, .sheet, .fire, .links, .drive, .loop, .cz, .dram, .lanes, .fabric,
      .red, .nv] s (execChangeWpos s) := by
  unfold execChangeWpos
  dsimp only
  split
  · exact outKeeps_next keeps_rfl
  · split
    · exact outKeeps_next keeps_rfl
    · refine outKeeps_ite (outKeeps_next keeps_rfl) ?_
      split
      · exact outKeeps_next (doChange_keeps _ _ _ _ _ (by decide) keeps_rfl)
      · exact outKeeps_next (loseChange_keeps _ (by decide) keeps_rfl)

theorem execRepeatBoundary_keeps :
    OutKeeps [.mbx, .vlog, .acct, .jobs, .feed, .banks, .engines, .sheet, .fire, .links, .drive, .loop, .cz, .dram, .lanes, .fabric,
      .red, .nv] s (execRepeatBoundary s) := by
  unfold execRepeatBoundary
  refine outKeeps_ite (outKeeps_next keeps_rfl) ?_
  split
  · exact outKeeps_ite (outKeeps_next (doChange_keeps _ _ _ _ _ (by decide) keeps_rfl)) (outKeeps_next keeps_rfl)
  · split
    · exact outKeeps_ite (outKeeps_next keeps_rfl) (outKeeps_next (passBoundary_keeps _ _ _ _ _ (by decide)
        (resumeOutgoing_keeps _ _ (by decide) keeps_rfl)))
    · exact outKeeps_next keeps_rfl

end

/-- Settles O37: each row by its own lemma above. -/
theorem printingRowsFrame : Obligations.PrintingRowsFrame :=
  ⟨fun _ _ => outKeeps_onlyChanges fun _ => execBandCloseNoticeReceived_keeps,
    outKeeps_onlyChanges fun _ => execSpeedLimitRelease_keeps,
    fun _ _ _ reason => outKeeps_onlyChanges fun _ => execReadyReceived_keeps (reason := reason),
    fun _ _ _ => outKeeps_onlyChanges fun _ => execGoAckReceived_keeps,
    fun _ _ => outKeeps_onlyChanges fun _ => execAbortReceived_keeps,
    fun _ => outKeeps_onlyChanges fun _ => execCancelReceived_keeps,
    fun _ => outKeeps_onlyChanges fun _ => execShadowBankLoad_keeps,
    fun _ input _ => outKeeps_onlyChanges fun _ => execSheetOpenNoticeReceived_keeps (input := input),
    fun _ _ => outKeeps_onlyChanges fun _ => execDecompressorResume_keeps,
    fun _ => outKeeps_onlyChanges fun _ => execBlockFetch_keeps,
    fun _ => outKeeps_onlyChanges fun _ => execCaptureTimeout_keeps,
    outKeeps_onlyChanges fun _ => execWposSampleBroadcast_keeps,
    outKeeps_onlyChanges fun _ => execBandNoticePitch_keeps,
    fun _ _ _ => outKeeps_onlyChanges fun _ => execScheduleReceived_keeps,
    fun _ _ => outKeeps_onlyChanges fun _ => execGoReceived_keeps,
    fun _ => outKeeps_onlyChanges fun _ => execNullLineKeepalive_keeps,
    fun _ => outKeeps_onlyChanges fun _ => execPosStatus_keeps,
    fun _ => outKeeps_onlyChanges fun _ => execJobStatus_keeps,
    fun _ => outKeeps_onlyChanges fun _ => execScreenStatus_keeps,
    fun _ => outKeeps_onlyChanges fun _ => execScreenCapture_keeps,
    outKeeps_onlyChanges fun _ => execEncoderWindowEnd_keeps,
    fun _ => outKeeps_onlyChanges fun _ => execIndexPulse_keeps,
    outKeeps_onlyChanges fun _ => execDeputyTakeover_keeps,
    outKeeps_onlyChanges fun _ => execBandBoundary_keeps,
    fun _ => outKeeps_onlyChanges fun _ => execOverRateDetect_keeps,
    fun _ => outKeeps_onlyChanges fun _ => execJobCommit_keeps,
    fun _ => outKeeps_onlyChanges fun _ => execJobStop_keeps,
    outKeeps_onlyChanges fun _ => execDecisionPoint_keeps,
    outKeeps_onlyChanges fun _ => execAbortDeadline_keeps,
    fun _ _ => outKeeps_onlyChanges fun _ => execPdEdge_keeps,
    outKeeps_onlyChanges fun _ => execPdConfirmTimeout_keeps,
    fun _ => outKeeps_onlyChanges fun _ => execPosConfig_keeps,
    fun _ => outKeeps_onlyChanges fun _ => execSubRead_keeps,
    fun _ => outKeeps_onlyChanges fun _ => execJobAppend_keeps,
    fun _ _ => outKeeps_onlyChanges fun _ => execEncoderCount_keeps,
    outKeeps_onlyChanges fun _ => execEncoderStall_keeps,
    fun _ => outKeeps_onlyChanges fun _ => execSheetConfig_keeps,
    fun _ => outKeeps_onlyChanges fun _ => execJobCancel_keeps,
    fun _ _ => outKeeps_onlyChanges fun _ => execFireCellStart_keeps,
    outKeeps_onlyChanges fun _ => execPositionLost_keeps,
    fun _ => outKeeps_onlyChanges fun _ => execJobStage_keeps,
    fun _ => outKeeps_onlyChanges fun _ => execSubLoad_keeps,
    fun _ => outKeeps_onlyChanges fun _ => execLineConfig_keeps,
    fun _ => outKeeps_onlyChanges fun _ => execBlockDecompressed_keeps,
    fun _ => outKeeps_onlyChanges fun _ => execLineInhibit_keeps,
    fun _ => outKeeps_onlyChanges fun _ => execLineCommit_keeps,
    fun _ => outKeeps_onlyChanges fun _ => execPosSet_keeps,
    outKeeps_onlyChanges fun _ => execRepeatDue_keeps,
    fun _ => outKeeps_onlyChanges fun _ => execShadowBankLoadDone_keeps,
    fun _ => outKeeps_onlyChanges fun _ => execScreenLine_keeps,
    fun _ _ => outKeeps_onlyChanges fun _ => execEncoderFaulted_keeps,
    fun _ => outKeeps_onlyChanges fun _ => execWposSampleReceived_keeps,
    outKeeps_onlyChanges fun _ => execChangeWpos_keeps,
    outKeeps_onlyChanges fun _ => execRepeatBoundary_keeps⟩

end Sys2Proof.Machine
end

section
/-! SUPPORT. The invariant under an update of parts that it does not speak of. -/
namespace Sys2Proof.Machine

theorem Inv.update {d e : Device} (h : Inv d) (entries : e.vlog.entries = d.vlog.entries := by rfl)
    (isolated : e.vlog.isolated = d.vlog.isolated := by rfl) (bytes : e.dram.data = d.dram.data := by rfl)
    (live : e.acct.live = d.acct.live := by rfl) (newest : e.acct.newest = d.acct.newest := by rfl)
    (older : e.acct.older = d.acct.older := by rfl) : Inv e where
  logBound := entries ▸ h.logBound
  isolatedOnce := isolated ▸ h.isolatedOnce
  dramForm := bytes ▸ h.dramForm
  liveBalanced := live ▸ h.liveBalanced
  newestBalanced := newest ▸ h.newestBalanced
  olderBalanced := older ▸ h.olderBalanced

theorem inv_ite_snd {α : Type} {c : Prop} [Decidable c] {x y : α × Device} (hx : Inv x.2) (hy : Inv y.2) : Inv (if c then x else y).2 := by
  split <;> assumption

end Sys2Proof.Machine
end

section
/-! SUPPORT. The invariant is kept by every row of head adapters, reset, boot, compression and check values. -/
namespace Sys2Proof.Machine

section
-- One theorem after another, as in the section of the frames.
set_option Elab.async false
variable {s : State} (hI : Inv s.dev)
include hI

/-! The rows of Adapter.lean -/

theorem execAdapterPowerUp_inv {h : Head} {facts : AdapterFacts} : OutInv (execAdapterPowerUp h facts s) :=
  outInv_next (modAdapter_inv _ _ _ hI)

theorem execAdapterLineCell_inv {h : Head} {port : Bool} {cell : LineCell} :
    OutInv (execAdapterLineCell h port cell s) := by
  unfold execAdapterLineCell
  extract_lets d raised seen
  have hr : Inv raised := raiseEpoch_inv _ _ _ hI
  have hs : Inv seen := modAdPort_inv _ _ _ _ hr
  split
  · exact outInv_next hI
  · exact outInv_ite (outInv_next (badCrcCell_inv _ _ _ hI)) (outInv_ite (outInv_next (rejectEpoch_inv _ _ _ _ hI))
      (outInv_ite (outInv_next (discardCell_inv _ _ _ hr)) (outInv_ite (outInv_next hs) (outInv_next (holdLine_inv _ _ _ _ _ hs)))))

theorem execAdapterFireCell_inv {h : Head} {port : Bool} {cell : FireCell} : OutInv (execAdapterFireCell h port cell s) := by
  unfold execAdapterFireCell
  dsimp only
  split
  · exact outInv_next hI
  · refine outInv_ite (outInv_next (badCrcCell_inv _ _ _ hI)) (outInv_ite (outInv_next (rejectEpoch_inv _ _ _ _ hI)) ?_)
    split
    · exact outInv_next (discardCell_inv _ _ _ (raiseEpoch_inv _ _ _ hI))
    · exact outInv_next (takeFire_inv _ _ _ _ (raiseEpoch_inv _ _ _ hI))

theorem execAdapterFireTrigger_inv {h : Head} : OutInv (execAdapterFireTrigger h s) := by
  unfold execAdapterFireTrigger
  split
  · exact outInv_next hI
  · exact outInv_next (modAdapter_inv _ _ _ hI)

theorem execAdapterControlCell_inv {h : Head} {port : Bool} {cell : ControlCell} : OutInv (execAdapterControlCell h port cell s) := by
  unfold execAdapterControlCell
  dsimp only
  split
  · exact outInv_next hI
  · refine outInv_ite (outInv_next (badCrcCell_inv _ _ _ hI)) (outInv_ite (outInv_next (discardCell_inv _ _ _ hI)) ?_)
    split
    · exact outInv_next (sendStatus_inv _ _ _ _ _ _ _ hI)
    · exact outInv_next (newControl_inv _ _ _ _ _ hI)

theorem execAdapterHeadSafe_inv {h : Head} : OutInv (execAdapterHeadSafe h s) :=
  outInv_ite (outInv_next (modAdapter_inv _ _ _ hI)) (outInv_next hI)

theorem execAdapterReportTimer_inv {r : HeadReading} : OutInv (execAdapterReportTimer r s) := by
  unfold execAdapterReportTimer
  dsimp only
  split
  · exact outInv_next hI
  · exact outInv_ite (outInv_next (reportPorts_inv _ _ _ (modAdapter_inv _ _ _ hI))) (outInv_next (modAdapter_inv _ _ _ hI))

/-! The rows of Boot.lean -/

theorem execResetNRise_inv {straps : Straps} {dies : List DieInfo} : OutInv (execResetNRise straps dies s) :=
  outInv_ite (outInv_next hI) (outInv_ite (outInv_next (startBoot_inv _ hI.update)) (outInv_next hI.update))

theorem execResetNFall_inv : OutInv (execResetNFall s) :=
  outInv_ite (outInv_next (inReset_inv (if powered s.dev then 1 else 0) s.dev).update) (outInv_next hI)

theorem execPwrGoodLow_inv : OutInv (execPwrGoodLow s) := outInv_ite (outInv_next (powerLost_inv _ hI).update) (outInv_next hI)

theorem execPwrGoodHigh_inv : OutInv (execPwrGoodHigh s) := outInv_ite (outInv_next hI) (outInv_next (powerBack_inv _ hI.update))

theorem execVioLow_inv {bank : Fin 6} : OutInv (execVioLow bank s) :=
  outInv_ite (outInv_next hI) (outInv_ite (outInv_next (setBank_inv _ _ _ (powerLost_inv _ hI))) (outInv_ite
    (outInv_next (accountingBreak_inv _ _ (raise_inv _ _ _ (setBank_inv _ _ _ hI)))) (outInv_next (setBank_inv _ _ _ hI))))

theorem execVioRestored_inv {bank : Fin 6} : OutInv (execVioRestored bank s) :=
  outInv_ite (outInv_next hI) (outInv_ite (outInv_next (powerBack_inv _ (setBank_inv _ _ _ hI))) (outInv_ite
    (outInv_next (raise_inv _ _ _ (setBank_inv _ _ _ hI))) (outInv_next (setBank_inv _ _ _ hI))))

theorem execClockFault_inv {pll : Bool} : OutInv (execClockFault pll s) :=
  outInv_ite (outInv_next (noteFault_inv _ _ hI.update)) (outInv_next hI)

theorem execClockFaultReset_inv : OutInv (execClockFaultReset s) :=
  outInv_ite (outInv_ite (outInv_next (startBoot_inv _ (inReset_inv _ _))) (outInv_next (inReset_inv _ _))) (outInv_next hI)

theorem execXoRestored_inv : OutInv (execXoRestored s) :=
  outInv_ite (outInv_next hI) (outInv_ite (outInv_next hI.update) (outInv_ite (outInv_next (startBoot_inv _ hI.update))
    (outInv_next hI.update)))

theorem execBootImageVerified_inv {slot : Bool} : OutInv (execBootImageVerified slot s) := by
  unfold execBootImageVerified
  refine outInv_ite ?_ (outInv_next hI)
  split
  · exact outInv_next (startImage_inv _ _ _ hI)
  · exact outInv_ite (outInv_next hI.update) (outInv_next (noteFault_inv _ _ (setIrq_inv _ _ hI.update)))

theorem execBootWatchdog_inv : OutInv (execBootWatchdog s) :=
  outInv_ite (outInv_next (startBoot_inv _ (inReset_inv 3 s.dev).update)) (outInv_next hI)

theorem execBooted_inv : OutInv (execBooted s) := outInv_ite (outInv_next (bootUp_inv _ hI)) (outInv_next hI)

theorem execFlashProgramDone_inv : OutInv (execFlashProgramDone s) := by
  unfold execFlashProgramDone
  extract_lets d _ e
  have he : Inv e := hI.update
  split
  · exact outInv_next hI
  · split
    · extract_lets x
      have hx : Inv x := afterRecord_inv _ _ (putRecord_inv _ _ he)
      exact outInv_next (inv_ite (finishWork_inv _ _ _ hx) hx)
    · exact outInv_next (putImage_inv _ _ he)
    · exact outInv_next he

theorem execJournalCompaction_inv : OutInv (execJournalCompaction s) := by
  unfold execJournalCompaction
  dsimp only
  split
  · exact outInv_next hI
  · exact outInv_ite (outInv_next hI.update) (outInv_next hI)

theorem execFlashEraseDone_inv : OutInv (execFlashEraseDone s) := by
  unfold execFlashEraseDone
  refine outInv_ite (outInv_next hI) ?_
  split
  · exact outInv_next (eraseSlot_inv _ _ hI.update)
  · exact outInv_next (inv_ite (finishWork_inv _ _ _ (eraseSlot_inv _ _ hI.update)) (eraseSlot_inv _ _ hI.update))
  · exact outInv_next hI

theorem execCheckpointTimer_inv : OutInv (execCheckpointTimer s) :=
  outInv_ite (outInv_ite (outInv_next hI.update) (outInv_next (captureCheckpoint_inv _ hI))) (outInv_next hI)

/-! The rows of Cz.lean -/

omit hI in
theorem keepRecord_inv {m : DictMessage} {p : Option (List U8) × Device} (h : Inv p.2) : Inv (keepRecord m p) := by
  unfold keepRecord
  split
  · exact inv_ite h.update h
  · exact h

theorem execDictMessageReceived_inv {m : DictMessage} : OutInv (execDictMessageReceived m s) :=
  outInv_ite (outInv_next (keepRecord_inv (dictReceive_inv _ _ hI))) (outInv_next hI)

theorem execStreamNoticeReceived_inv {peer : U8} {resync : Bool} {cls : BitVec 2} :
    OutInv (execStreamNoticeReceived peer resync cls s) :=
  outInv_ite (outInv_next (takeNotice_inv _ _ _ _ hI)) (outInv_next hI)

theorem execCompressorResume_inv {cls : BitVec 2} {room : Nat} : OutInv (execCompressorResume cls room s) :=
  outInv_ite (outInv_next hI) (outInv_next (sendHandover_inv _ (noteStall_inv _ (feedStream_inv _ _ _ _ hI))))

theorem execCzCompress_inv {c : Cmd} : OutInv (execCzCompress c s) :=
  mervan_inv (fun _ _ _ h => doneInv_ite (no_inv _ _ _ _ h) (doneInv_later (assignEngine_inv _ h.update))) hI

theorem execBlockCompressed_inv {engine : Fin 2} : OutInv (execBlockCompressed engine s) := by
  unfold execBlockCompressed
  dsimp only
  split
  · exact outInv_next hI
  · exact outInv_ite (outInv_next (compressBlock_inv _ _ _ hI)) (outInv_next hI)

theorem execCzDecompress_inv {c : Cmd} : OutInv (execCzDecompress c s) := by
  unfold execCzDecompress
  refine mervan_inv (fun _ _ _ h => ?_) hI
  refine doneInv_ite (poisoned_inv _ _ h) (doneInv_ite (no_inv _ _ _ _ h) (doneInv_ite (no_inv _ _ _ _ h) ?_))
  dsimp only
  split
  · exact poisoned_inv _ _ h
  · exact doneInv_later (startDecs_inv _ (dramSee_inv _ _ _ h).update)

theorem execCzDictReset_inv {c : Cmd} : OutInv (execCzDictReset c s) := mervan_inv (fun _ _ _ h => ok_inv _ _ (modEnc_inv _ _ _ _ h)) hI

theorem execCzStatus_inv {c : Cmd} : OutInv (execCzStatus c s) := mervan_inv (fun _ _ _ h => ok_inv _ _ h) hI

theorem execCrcSegment_inv {u : Fin 8} {seg : Segment} {bytes : List U8} : OutInv (execCrcSegment u seg bytes s) :=
  outInv_ite (outInv_next (modCrc_inv _ _ _ hI)) (outInv_next hI)

theorem execCrcConfig_inv {c : Cmd} : OutInv (execCrcConfig c s) :=
  mervan_inv (fun _ _ _ h => doneInv_ite (no_inv _ _ _ _ h) (doneInv_ite (no_inv _ _ _ _ h) (doneInv_ite (no_inv _ _ _ _ h)
    (done_inv _ (modCrc_inv _ _ _ h))))) hI

theorem execCrcRead_inv {c : Cmd} : OutInv (execCrcRead c s) := mervan_inv (fun _ _ _ h => ok_inv _ _ h) hI

theorem execCrcWrite_inv {c : Cmd} : OutInv (execCrcWrite c s) := mervan_inv (fun _ _ _ h => ok_inv _ _ (modCrc_inv _ _ _ h)) hI

theorem execCrcEnable_inv {c : Cmd} : OutInv (execCrcEnable c s) := mervan_inv (fun _ _ _ h => done_inv _ h.update) hI

end

end Sys2Proof.Machine
end

section
/-! SUPPORT. The invariant is kept by every row of position, tables, screening, firing, jobs, the loop and boundaries. -/
namespace Sys2Proof.Machine

section
-- One theorem after another, as in the section of the frames.
set_option Elab.async false
variable {s : State} (hI : Inv s.dev)
include hI

/-! The rows of Position.lean -/

theorem execEncoderCount_inv {enc : Fin 2} {edge : EncEdge} : OutInv (execEncoderCount enc edge s) :=
  outInv_ite (outInv_next hI) (outInv_ite (outInv_next (illegalEdge_inv _ _ hI)) (outInv_ite
    (outInv_next (holdLoop_inv _ (checkReverse_inv _ (driveCount_inv _ _ hI.update)))) (outInv_next hI.update)))

theorem execEncoderFaulted_inv {enc : Fin 2} {why : EncFault} : OutInv (execEncoderFaulted enc why s) :=
  outInv_ite (outInv_next hI) (outInv_ite (outInv_next hI.update) (outInv_ite (outInv_next (drivingFaulted_inv _ _ hI.update))
    (outInv_ite (outInv_next (raise_inv _ _ _ hI.update)) (outInv_next (raise_inv _ _ _ hI.update)))))

theorem execEncoderWindowEnd_inv : OutInv (execEncoderWindowEnd s) :=
  outInv_ite (outInv_next hI) (outInv_next (inv_ite (raise_inv _ _ _ (inv_ite (raise_inv _ _ _ hI.update) hI.update)) (inv_ite
    (raise_inv _ _ _ hI.update) hI.update)))

theorem execIndexPulse_inv {enc : Fin 2} : OutInv (execIndexPulse enc s) :=
  outInv_ite (outInv_next hI) (outInv_next (inv_ite (raise_inv _ _ _ (inv_ite (modDiag_inv _ _ hI.update) hI.update)) (inv_ite
    (modDiag_inv _ _ hI.update) hI.update)))

theorem execEncoderStall_inv : OutInv (execEncoderStall s) :=
  outInv_ite (outInv_next hI) (outInv_next (holdLoop_inv _ (refreshPos_inv _ hI.update)))

theorem execPdEdge_inv {input : Fin 2} {rising : Bool} : OutInv (execPdEdge input rising s) :=
  outInv_ite (outInv_next hI) (outInv_ite (outInv_next hI.update) (outInv_next (openSheet_inv _ _ _ hI.update)))

theorem execPdConfirmTimeout_inv : OutInv (execPdConfirmTimeout s) := by
  unfold execPdConfirmTimeout
  dsimp only
  split
  · exact outInv_ite (outInv_next (raise_inv _ _ _ (modDiag_inv _ _ hI.update))) (outInv_next hI)
  · exact outInv_next hI

theorem execSheetOpenNoticeReceived_inv {start : U64} {input : U8} {number : U32} :
    OutInv (execSheetOpenNoticeReceived start input number s) :=
  outInv_ite (outInv_next (placeSheet_inv _ _ _ hI)) (outInv_next hI)

theorem execWposSampleBroadcast_inv : OutInv (execWposSampleBroadcast s) :=
  outInv_ite (outInv_next (broadcast_inv _ _ _ _ hI.update)) (outInv_next hI)

theorem execWposSampleReceived_inv {sample : WposSample} : OutInv (execWposSampleReceived sample s) := by
  unfold execWposSampleReceived
  extract_lets d e lost thawed _ t x
  have he : Inv e := checkSampleConfig_inv _ _ hI
  have ht : Inv t := inv_ite he.update he
  have hx : Inv x := learnJob_inv _ _ (proveChange_inv _ _ (followSample_inv _ _ ht))
  exact outInv_ite (outInv_next hI) (outInv_ite (outInv_next (faultSample_inv _ _ _ he))
    (outInv_next (lockPromotion_inv _ (holdLoop_inv _ (inv_ite (raise_inv _ _ _ (skipPassed_inv _ hx)) hx)))))

theorem execPositionLost_inv : OutInv (execPositionLost s) :=
  outInv_ite (outInv_next (raise_inv _ _ _ (skipTokens_inv _ _ _ hI.update))) (outInv_next hI)

theorem execDeputyTakeover_inv : OutInv (execDeputyTakeover s) := outInv_ite (outInv_next (raise_inv _ _ _ hI.update)) (outInv_next hI)

theorem execOverRateDetect_inv {rate : Nat} : OutInv (execOverRateDetect rate s) :=
  outInv_ite (outInv_next (raise_inv _ _ _ hI.update)) (outInv_next hI)

theorem execSpeedLimitRelease_inv : OutInv (execSpeedLimitRelease s) := outInv_next hI.update

theorem execPosConfig_inv {c : Cmd} : OutInv (execPosConfig c s) :=
  mervan_inv (fun _ _ _ h => doneInv_ite (no_inv _ _ _ _ h) (doneInv_ite (no_inv _ _ _ _ h) (done_inv _ (setPosConfig_inv _ _ h)))) hI

theorem execPosStatus_inv {c : Cmd} : OutInv (execPosStatus c s) := mervan_inv (fun _ _ _ h => ok_inv _ _ h) hI

theorem execPosSet_inv {c : Cmd} : OutInv (execPosSet c s) :=
  mervan_inv (fun _ _ _ h => doneInv_ite (no_inv _ _ _ _ h) (doneInv_ite (no_inv _ _ _ _ h) (ok_inv _ _
    (lockPromotion_inv _ (setWpos_inv _ _ h))))) hI

theorem execSheetConfig_inv {c : Cmd} : OutInv (execSheetConfig c s) :=
  mervan_inv (fun _ _ _ h => doneInv_ite (no_inv _ _ _ _ h) (done_inv _ h.update)) hI

/-! The rows of Tables.lean -/

theorem execShadowBankLoad_inv {t : Tbl} : OutInv (execShadowBankLoad t s) := by
  unfold execShadowBankLoad
  dsimp only
  split
  · exact outInv_next hI
  · exact outInv_ite (outInv_next hI) (outInv_next (modBank_inv _ _ _ hI.update))

theorem execShadowBankLoadDone_inv {t : Tbl} : OutInv (execShadowBankLoadDone t s) :=
  outInv_ite (outInv_next (noteReady_inv _ _ (finishLoad_inv _ _ hI).update)) (outInv_next hI)

/-! The rows of Screen.lean -/

theorem execScreenLine_inv {h : Head} : OutInv (execScreenLine h s) := outInv_ite (outInv_next (screenNext_inv _ _ hI)) (outInv_next hI)

theorem execScreenStatus_inv {c : Cmd} : OutInv (execScreenStatus c s) :=
  mervan_inv (fun _ _ _ h => doneInv_ite (ok_inv _ _ h) (doneInv_ite (no_inv _ _ _ _ h) (ok_inv _ _ h))) hI

theorem execSubLoad_inv {c : Cmd} : OutInv (execSubLoad c s) := by
  unfold execSubLoad
  refine mervan_inv (fun _ _ _ h => ?_) hI
  split
  · exact answerImage_inv _ _ h
  · exact doneInv_ite (loadForRepeat_inv _ _ _ _ _ h) (loadForJob_inv _ _ _ _ _ h)

theorem execSubRead_inv {c : Cmd} : OutInv (execSubRead c s) := mervan_inv (fun _ _ _ h => ok_inv _ _ (dramWrite_inv _ _ _ _ h)) hI

theorem execScreenCapture_inv {c : Cmd} : OutInv (execScreenCapture c s) :=
  mervan_inv (fun _ _ _ h => doneInv_ite (no_inv _ _ _ _ h) (doneInv_ite (no_inv _ _ _ _ h) (doneInv_ite (no_inv _ _ _ _ h)
    (doneInv_later h)))) hI

theorem execCaptureTimeout_inv {seq : U32} : OutInv (execCaptureTimeout seq s) := by
  unfold execCaptureTimeout
  dsimp only
  split
  · exact outInv_next (finish_inv _ _ _ hI)
  · exact outInv_next hI

/-! The rows of Firing.lean -/

theorem execLineInhibit_inv {c : Cmd} : OutInv (execLineInhibit c s) :=
  mervan_inv (fun _ _ _ h => doneInv_ite (no_inv _ _ _ _ h) (done_inv _ (inv_ite (inhibitHeads_inv _ _ h) (releaseHeads_inv _ _ h)))) hI

theorem execLineConfig_inv {c : Cmd} : OutInv (execLineConfig c s) := by
  unfold execLineConfig
  refine mervan_inv (fun _ _ _ h => ?_) hI
  dsimp only
  split
  · exact poisoned_inv _ _ (dramSee_inv _ _ _ h)
  · exact doneInv_ite (no_inv _ _ _ _ (dramSee_inv _ _ _ h)) (doneInv_ite (no_inv _ _ _ _ (dramSee_inv _ _ _ h)) (doneInv_ite
      (no_inv _ _ _ _ (dramSee_inv _ _ _ h)) (done_inv _ (noteReady_inv _ _ (dramSee_inv _ _ _ h).update))))

theorem execLineCommit_inv {h : Head} : OutInv (execLineCommit h s) := by
  unfold execLineCommit
  extract_lets d
  have hd : Inv d := pullSeg_inv _ _ hI
  split
  · exact outInv_next hI
  · refine outInv_ite (outInv_next hI) ?_
    extract_lets line
    split
    · exact outInv_next (skipFront_inv _ _ _ _ hd)
    · split
      · exact outInv_next (commitLine_inv _ _ _ _ hd)
      · exact outInv_next hd

theorem execFireCellStart_inv {h : Head} {row : BitVec 2} : OutInv (execFireCellStart h row s) := by
  unfold execFireCellStart
  dsimp only
  split
  · exact outInv_next hI
  · refine outInv_ite (outInv_next hI) ?_
    split
    · exact outInv_next (dropToken_inv _ _ _ hI)
    · exact outInv_ite (outInv_next (dropToken_inv _ _ _ hI)) (outInv_next (fireRow_inv _ _ _ hI))

theorem execNullLineKeepalive_inv {h : Head} : OutInv (execNullLineKeepalive h s) :=
  outInv_ite (outInv_next hI) (outInv_next (sendCell_inv _ _ _ hI))

/-! The rows of Staging.lean -/

theorem execJobStage_inv {c : Cmd} : OutInv (execJobStage c s) := by
  unfold execJobStage
  refine mervan_inv (fun _ _ _ h => ?_) hI
  refine doneInv_ite (no_inv _ _ _ _ h) (doneInv_ite (no_inv _ _ _ _ h) ?_)
  split
  · exact stageFailed_inv _ _ h
  · dsimp only
    split
    · exact stageFailed_inv _ _ (seeChecks_inv _ _ _ _ _ _ h)
    · exact ok_inv _ _ (noteReady_inv _ _ (noteMirror_inv _ _ _ (stageLoads_inv _ _ (seeChecks_inv _ _ _ _ _ _ h.update))))

theorem execJobAppend_inv {c : Cmd} : OutInv (execJobAppend c s) := by
  unfold execJobAppend
  refine mervan_inv (fun _ _ _ h => ?_) hI
  split
  · exact no_inv _ _ _ _ h
  · refine doneInv_ite (ok_inv _ _ h) ?_
    split
    · exact stageFailed_inv _ _ (seeChecks_inv _ _ _ _ _ _ h)
    · exact ok_inv _ _ (noteReady_inv _ _ (noteMirror_inv _ _ _ (raiseValid_inv _ _ _ _ (seeChecks_inv _ _ _ _ _ _ h))))

theorem execJobStop_inv {c : Cmd} : OutInv (execJobStop c s) := by
  unfold execJobStop
  refine mervan_inv (fun _ _ _ h => ?_) hI
  split
  · exact no_inv _ _ _ _ h
  · exact doneInv_ite (no_inv _ _ _ _ h) (ok_inv _ _ h.update)

theorem execJobStatus_inv {c : Cmd} : OutInv (execJobStatus c s) := mervan_inv (fun _ _ _ h => ok_inv _ _ h) hI

/-! The rows of Loop.lean -/

theorem execSpanRecordReceived_inv {r : SpanRecord} : OutInv (execSpanRecordReceived r s) := by
  unfold execSpanRecordReceived
  split
  · exact outInv_next (inv_ite (takeSpan_inv _ _ (takeInbox_inv _ _ hI)) (takeInbox_inv _ _ hI))
  · exact outInv_next hI

theorem execProxyRecordReceived_inv {r : ProxyRecord} : OutInv (execProxyRecordReceived r s) := by
  unfold execProxyRecordReceived
  split
  · exact outInv_next (inv_ite (takeProxy_inv _ _ (takeInbox_inv _ _ hI)) (takeInbox_inv _ _ hI))
  · exact outInv_next hI

theorem execProxyRecordSend_inv {colour : Plane} : OutInv (execProxyRecordSend colour s) := by
  unfold execProxyRecordSend
  split
  · exact outInv_next (inv_ite (takeProxy_inv _ _ (dropProxy_inv _ _ _ _ _ hI)) (sendRecord_inv _ _ _ (dropProxy_inv _ _ _ _ _ hI)))
  · exact outInv_next hI

theorem execStripRecordSend_inv {colour : Plane} : OutInv (execStripRecordSend colour s) := by
  unfold execStripRecordSend
  extract_lets d o
  split
  · extract_lets hs lines b e
    have he : Inv e := modOwner_inv _ _ _ (dropEnded_inv _ _ _ _ hI)
    exact outInv_ite (outInv_next hI) (outInv_next (inv_ite he.update (sendRecord_inv _ _ _ he)))
  · exact outInv_next hI

theorem execStripAnalysis_inv {r : StripRecord} {reversed : BitVec 40} : OutInv (execStripAnalysis r reversed s) := by
  unfold execStripAnalysis
  split
  · exact outInv_next (inv_ite (analyseStrip_inv _ _ _ (takeInbox_inv _ _ hI)) (takeInbox_inv _ _ hI))
  · exact outInv_next hI

theorem execCorrectionRecordReceived_inv {r : CorrRecord} : OutInv (execCorrectionRecordReceived r s) :=
  outInv_next (takeCorrection_inv _ _ hI)

theorem execLoopSolveDone_inv : OutInv (execLoopSolveDone s) := by
  unfold execLoopSolveDone
  dsimp only
  split
  · exact outInv_next (inv_ite (holdLoop_inv _ hI) hI)
  · exact outInv_next (inv_foldl _ _ _ (fun _ _ h => solveColour_inv _ _ _ _ h) (inv_ite (holdLoop_inv _ hI) hI).update)

theorem execLoopConfig_inv {c : Cmd} : OutInv (execLoopConfig c s) :=
  mervan_inv (fun _ _ _ h => doneInv_ite (no_inv _ _ _ _ h) (done_inv _ h.update)) hI

theorem execLoopColour_inv {c : Cmd} : OutInv (execLoopColour c s) :=
  mervan_inv (fun _ _ _ h => doneInv_ite (no_inv _ _ _ _ h) (done_inv _ (modColour_inv _ _ _ h))) hI

theorem execModelLoad_inv {c : Cmd} : OutInv (execModelLoad c s) := by
  unfold execModelLoad
  refine mervan_inv (fun _ _ _ h => ?_) hI
  dsimp only
  split
  · exact poisoned_inv _ _ h
  · exact doneInv_ite (no_inv _ _ _ _ h) (doneInv_ite (no_inv _ _ _ _ h) (doneInv_ite (no_inv _ _ _ _ h)
      (done_inv _ (inv_ite h.update (swapModel_inv _ h.update)))))

theorem execLoopEnable_inv {c : Cmd} : OutInv (execLoopEnable c s) := by
  unfold execLoopEnable
  refine mervan_inv (fun _ _ _ h => ?_) hI
  refine doneInv_ite (no_inv _ _ _ _ h) (doneInv_ite ?_ (done_inv _ (inv_foldl _ _ _ (fun _ _ h => modColour_inv _ _ _ h) h)))
  dsimp only
  split
  · exact no_inv _ _ _ _ h
  · refine done_inv _ (holdLoop_inv _ (sendSpans_inv _ _ (inv_foldl _ _ _ (fun _ _ h => modColour_inv _ _ _ h) ?_)))
    refine inv_foldl _ _ _ ?_ h
    intro _ _ h
    refine inv_ite ?_ h
    split
    · exact takeSpan_inv _ _ h
    · exact h

theorem execLoopStatus_inv {c : Cmd} : OutInv (execLoopStatus c s) := mervan_inv (fun _ _ _ h => ok_inv _ _ h) hI

theorem execLoopRead_inv {c : Cmd} : OutInv (execLoopRead c s) := mervan_inv (fun _ _ _ h => ok_inv _ _ (dramWrite_inv _ _ _ _ h)) hI

theorem execLoopReset_inv {c : Cmd} : OutInv (execLoopReset c s) :=
  mervan_inv (fun _ _ _ h => doneInv_ite (no_inv _ _ _ _ h) (ok_inv _ _ (modColour_inv _ _ _ h))) hI

theorem execLoopCheckConfig_inv {c : Cmd} : OutInv (execLoopCheckConfig c s) :=
  mervan_inv (fun _ _ _ h => doneInv_ite (no_inv _ _ _ _ h) (done_inv _ h.update)) hI

theorem execLoopCheckRead_inv {c : Cmd} : OutInv (execLoopCheckRead c s) :=
  mervan_inv (fun _ _ _ h => ok_inv _ _ (dramWrite_inv _ _ _ _ h.update)) hI

/-! The rows of Change.lean -/

theorem execJobCommit_inv {c : Cmd} : OutInv (execJobCommit c s) := by
  unfold execJobCommit
  refine mervan_inv (fun _ _ _ h => ?_) hI
  dsimp only
  split
  · exact no_inv _ _ _ _ h
  · exact doneInv_ite (no_inv _ _ _ _ h) (doneInv_ite (no_inv _ _ _ _ h) (doneInv_ite (no_inv _ _ _ _ h)
      (doneInv_ite (no_inv _ _ _ _ h) (ok_inv _ _ (reportReady_inv _ _ (sendSchedule_inv _ _ (holdSchedule_inv _ _ h)))))))

theorem execJobCancel_inv {c : Cmd} : OutInv (execJobCancel c s) := by
  unfold execJobCancel
  refine mervan_inv (fun _ _ _ h => ?_) hI
  dsimp only
  split
  · exact no_inv _ _ _ _ h
  · refine doneInv_ite ?_ (ok_inv _ _ (noteReady_inv _ _ (dropJobLoads_inv _ h.update)))
    split
    · exact doneInv_ite (no_inv _ _ _ _ h) (doneInv_ite (no_inv _ _ _ _ h) (ok_inv _ _ (broadcast_inv _ _ _ _ (unschedule_inv _ h))))
    · exact ok_inv _ _ (unschedule_inv _ h)

theorem execScheduleReceived_inv {jobId : U32} {w : U64} {postponements : U8} : OutInv (execScheduleReceived jobId w postponements s) :=
  outInv_ite (outInv_next hI) (outInv_next (reportReady_inv _ _ (inv_ite hI.update (holdSchedule_inv _ _ hI))))

theorem execReadyReceived_inv {node : U8} {jobId : U32} {isReady : Bool} {reason : U32} :
    OutInv (execReadyReceived node jobId isReady reason s) := by
  unfold execReadyReceived
  dsimp only
  split
  · exact outInv_next (inv_ite (setReady_inv _ _ _ hI) hI)
  · exact outInv_next hI

theorem execDecisionPoint_inv : OutInv (execDecisionPoint s) := by
  unfold execDecisionPoint
  dsimp only
  split
  · exact outInv_next hI
  · exact outInv_ite (outInv_next hI) (outInv_ite (outInv_next (broadcast_inv _ _ _ _ hI.update)) (outInv_next (postpone_inv _ _ _ hI)))

theorem execGoReceived_inv {jobId : U32} {w : U64} : OutInv (execGoReceived jobId w s) := by
  unfold execGoReceived
  dsimp only
  split
  · exact outInv_ite (outInv_next hI) (outInv_next (sendTo_inv _ _ _ _ _ _ hI.update))
  · exact outInv_next hI

theorem execGoAckReceived_inv {node : U8} {jobId : U32} {w : U64} : OutInv (execGoAckReceived node jobId w s) := by
  unfold execGoAckReceived
  dsimp only
  split
  · exact outInv_ite (outInv_next hI.update) (outInv_next hI)
  · exact outInv_next hI

theorem execAbortDeadline_inv : OutInv (execAbortDeadline s) := by
  unfold execAbortDeadline
  dsimp only
  split
  · exact outInv_next hI
  · exact outInv_ite (outInv_next hI) (outInv_ite (outInv_next hI.update) (outInv_next (postpone_inv _ _ _ (broadcast_inv _ _ _ _ hI))))

theorem execAbortReceived_inv {jobId : U32} {w : U64} : OutInv (execAbortReceived jobId w s) := by
  unfold execAbortReceived
  dsimp only
  split
  · exact outInv_ite (outInv_next hI.update) (outInv_next hI)
  · exact outInv_next hI

theorem execCancelReceived_inv {jobId : U32} : OutInv (execCancelReceived jobId s) := by
  unfold execCancelReceived
  dsimp only
  split
  · exact outInv_next (inv_ite (unschedule_inv _ hI.update) hI.update)
  · exact outInv_next hI

/-! The rows of Feed.lean -/

theorem execRepeatDue_inv : OutInv (execRepeatDue s) := by
  unfold execRepeatDue
  refine outInv_ite (outInv_next hI) ?_
  split
  · exact outInv_next hI
  · exact outInv_next (inv_ite (fallDue_inv _ _ _ hI) hI)

theorem execBlockFetch_inv {plane : Plane} : OutInv (execBlockFetch plane s) := by
  unfold execBlockFetch
  refine outInv_ite (outInv_next hI) ?_
  split
  · exact outInv_next hI
  · exact outInv_ite (outInv_next hI) (outInv_next (noteReleased_inv _ (modRing_inv _ _ _ (seeBlock_inv _ _ _ _ _ hI))))

theorem execBlockDecompressed_inv {plane : Plane} : OutInv (execBlockDecompressed plane s) := by
  unfold execBlockDecompressed
  extract_lets d r
  split
  · exact outInv_next hI
  · refine outInv_ite (outInv_next hI) ?_
    split
    · exact outInv_next hI.update
    · exact outInv_next (endBlock_inv _ _ _ _ _ hI)

theorem execDecompressorResume_inv {engine : Fin 8} {free : Nat} :
    OutInv (execDecompressorResume engine free s) := by
  unfold execDecompressorResume
  extract_lets d tile _ _ e
  have he : Inv e := hI.update
  exact outInv_ite (outInv_next hI) (outInv_next (inv_ite (resumeTiles_inv _ he) he))

/-! The rows of Boundary.lean -/

theorem execChangeWpos_inv : OutInv (execChangeWpos s) := by
  unfold execChangeWpos
  dsimp only
  split
  · exact outInv_next hI
  · split
    · exact outInv_next hI
    · refine outInv_ite (outInv_next hI) ?_
      split
      · exact outInv_next (doChange_inv _ _ _ _ _ hI)
      · exact outInv_next (loseChange_inv _ hI)

theorem execRepeatBoundary_inv : OutInv (execRepeatBoundary s) := by
  unfold execRepeatBoundary
  refine outInv_ite (outInv_next hI) ?_
  split
  · exact outInv_ite (outInv_next (doChange_inv _ _ _ _ _ hI)) (outInv_next hI)
  · split
    · exact outInv_ite (outInv_next hI) (outInv_next (passBoundary_inv _ _ _ _ _ (resumeOutgoing_inv _ _ hI)))
    · exact outInv_next hI

theorem execBandCloseNoticeReceived_inv {band : U32} {w : U64} : OutInv (execBandCloseNoticeReceived band w s) :=
  outInv_ite (outInv_next (noteBandClose_inv _ _ _ hI)) (outInv_next hI)

theorem execBandNoticePitch_inv : OutInv (execBandNoticePitch s) := by
  unfold execBandNoticePitch
  refine outInv_ite (outInv_next hI) (outInv_ite (outInv_next hI.update) (outInv_ite (outInv_next hI) ?_))
  dsimp only
  split
  · exact outInv_next (pair_inv ‹_› (noMeasuring_inv _ hI.update))
  · have hd := pair_inv ‹_› (noMeasuring_inv _ hI.update)
    exact outInv_next (broadcast_inv _ _ _ _ (noteBandClose_inv _ _ _ hd.update))

theorem execBandBoundary_inv : OutInv (execBandBoundary s) := by
  unfold execBandBoundary
  dsimp only
  split
  · exact outInv_next hI
  · exact outInv_ite (outInv_next hI) (outInv_next (sendAudits_inv _ (latchPeriod_inv _ _ _ _ hI.update)))

end

end Sys2Proof.Machine
end

section
/-! SUPPORT. The invariant is kept by every row of cameras, head links, power and the pair. -/
namespace Sys2Proof.Machine

section
-- One theorem after another, as in the section of the frames.
set_option Elab.async false
variable {s : State} (hI : Inv s.dev)
include hI

/-! The rows of Pipeline.lean -/

theorem execPipelineLine_inv {p : Port} : OutInv (execPipelineLine p s) :=
  outInv_ite (outInv_next (takeTurn_inv _ _ hI)) (outInv_next hI)

/-! The rows of Camera.lean -/

theorem execCamSettings_inv {c : Cmd} : OutInv (execCamSettings c s) := by
  unfold execCamSettings
  refine mervan_inv (fun _ a d h => ?_) hI
  extract_lets p b
  refine doneInv_ite (no_inv _ _ _ _ h) (doneInv_ite (no_inv _ _ _ _ h) ?_)
  split
  · split
    · exact poisoned_inv _ _ h
    · exact no_inv _ _ _ _ h
  · extract_lets seen e
    have he : Inv e := modCam_inv _ _ _ (dirty_inv _ (dramSee_inv _ _ _ (dramSee_inv _ _ _ h)))
    exact doneInv_ite (doneInv_later he)
      (doneInv_ite (ok_inv _ _ (modCam_inv _ _ _ he)) (doneInv_later (beginSettings_inv _ _ _ he)))

theorem execCamConfig_inv {c : Cmd} : OutInv (execCamConfig c s) :=
  mervan_inv (fun _ _ _ h => doneInv_ite (no_inv _ _ _ _ h) (doneInv_ite (no_inv _ _ _ _ h) (done_inv _ (modCam_inv _ _ _ h)))) hI

theorem execCamRun_inv {c : Cmd} : OutInv (execCamRun c s) := by
  unfold execCamRun
  refine mervan_inv (fun _ _ _ h => ?_) hI
  refine doneInv_ite (no_inv _ _ _ _ h) ?_
  refine doneInv_ite (done_inv _ (serveFirst_inv _ (inv_foldl _ _ _ (fun _ _ h => stopPort_inv _ _ h) h))) ?_
  dsimp only
  split
  · exact no_inv _ _ _ _ h
  · exact doneInv_ite (no_inv _ _ _ _ h) (doneInv_ite (no_inv _ _ _ _ h) (done_inv _
      (serveFirst_inv _ (inv_foldl _ _ _ (fun _ _ h => startPort_inv _ _ h) h))))

theorem execCamSchedule_inv {c : Cmd} : OutInv (execCamSchedule c s) :=
  mervan_inv (fun _ _ _ h => doneInv_ite (no_inv _ _ _ _ h) (done_inv _ h.update)) hI

theorem execCamStream_inv {c : Cmd} : OutInv (execCamStream c s) :=
  mervan_inv (fun _ _ _ h => doneInv_ite (no_inv _ _ _ _ h) (done_inv _ h.update)) hI

theorem execCamRelease_inv {c : Cmd} : OutInv (execCamRelease c s) :=
  mervan_inv (fun _ _ _ h => doneInv_ite (no_inv _ _ _ _ h) (ok_inv _ _ h.update)) hI

theorem execCamTables_inv {c : Cmd} : OutInv (execCamTables c s) := by
  unfold execCamTables
  refine mervan_inv (fun _ _ _ h => ?_) hI
  dsimp only
  split
  · exact poisoned_inv _ _ h
  · exact doneInv_ite (no_inv _ _ _ _ h) (doneInv_ite (no_inv _ _ _ _ h) (done_inv _ (modCam_inv _ _ _ h)))

theorem execCamDarkCal_inv {c : Cmd} : OutInv (execCamDarkCal c s) :=
  mervan_inv (fun _ _ _ h => doneInv_ite (no_inv _ _ _ _ h) (doneInv_ite (no_inv _ _ _ _ h) (doneInv_later (modCam_inv _ _ _ h)))) hI

theorem execCamWhiteCal_inv {c : Cmd} : OutInv (execCamWhiteCal c s) :=
  mervan_inv (fun _ _ _ h => doneInv_ite (no_inv _ _ _ _ h) (doneInv_ite (no_inv _ _ _ _ h) (doneInv_ite
    (doneInv_later (modCam_inv _ _ _ h)) (ok_inv _ _ (modCam_inv _ _ _ h))))) hI

theorem execCamFocus_inv {c : Cmd} : OutInv (execCamFocus c s) :=
  mervan_inv (fun _ _ _ h => doneInv_ite (no_inv _ _ _ _ h) (doneInv_ite (done_inv _ (modCam_inv _ _ _ h)) (doneInv_ite
    (no_inv _ _ _ _ h) (done_inv _ (focusWrite_inv _ _ _ (modCam_inv _ _ _ h)))))) hI

theorem execCamBand_inv {c : Cmd} : OutInv (execCamBand c s) := mervan_inv (fun _ _ _ h => done_inv _ h.update) hI

theorem execCamStats_inv {c : Cmd} : OutInv (execCamStats c s) := by
  unfold execCamStats
  refine mervan_inv (fun _ _ _ h => ?_) hI
  dsimp only
  split
  · exact no_inv _ _ _ _ h
  · exact ok_inv _ _ (modCam_inv _ _ _ h)

theorem execCamCci_inv {c : Cmd} : OutInv (execCamCci c s) :=
  mervan_inv (fun _ _ _ h => doneInv_ite (no_inv _ _ _ _ h) (doneInv_ite (no_inv _ _ _ _ h) (doneInv_ite (no_inv _ _ _ _ h)
    (doneInv_later (cciAppend_inv _ _ _ h))))) hI

theorem execCamStatus_inv {c : Cmd} : OutInv (execCamStatus c s) := mervan_inv (fun _ _ _ h => ok_inv _ _ h) hI

theorem execCamTrigger_inv {p : Port} : OutInv (execCamTrigger p s) :=
  outInv_ite (outInv_next hI) (outInv_next (inv_ite (modCam_inv _ _ _ (modCam_inv _ _ _ hI)) (issueTrigger_inv _ _ _
    (modCam_inv _ _ _ hI))))

theorem execCalTimerTrigger_inv {p : Port} : OutInv (execCalTimerTrigger p s) :=
  outInv_ite (outInv_next (modCam_inv _ _ _ (issueTrigger_inv _ _ _ hI))) (outInv_next hI)

omit hI in
theorem shortPacket_inv {pkt : ShortPacket} {accept : Port → Device → Device} (ha : ∀ p e, Inv e → Inv (accept p e)) (hI : Inv s.dev) :
    OutInv (shortPacket pkt accept s) :=
  outInv_ite (outInv_next hI) (outInv_next (csiHeader_inv _ _ _ _ _ _ _ _ (ha _) (fun _ h => h) hI))

theorem execCsiFrameStart_inv {pkt : ShortPacket} : OutInv (execCsiFrameStart pkt s) :=
  shortPacket_inv (fun _ _ h => frameStart_inv _ _ h) hI

theorem execCsiFrameEnd_inv {pkt : ShortPacket} : OutInv (execCsiFrameEnd pkt s) :=
  shortPacket_inv (fun _ _ h => frameEnd_inv _ _ h) hI

theorem execCsiLongPacket_inv {p : Port} {pkt : LongPacket} : OutInv (execCsiLongPacket p pkt s) :=
  outInv_ite (outInv_next hI) (outInv_next (csiHeader_inv _ _ _ _ _ _ _ _ (fun _ h => framePacket_inv _ _ _ (modCam_inv _ _ _ h))
    (fun _ h => inv_ite (lateLine_inv _ _ (modCam_inv _ _ _ h)) (modCam_inv _ _ _ h)) hI))

theorem execCsiCrcBurst_inv {p : Port} : OutInv (execCsiCrcBurst p s) :=
  outInv_ite (outInv_next (camReinit_inv _ _ (camViolation_inv _ _ _ _ _ hI))) (outInv_next hI)

theorem execSensorSilent_inv {p : Port} : OutInv (execSensorSilent p s) :=
  outInv_ite (outInv_next (camReinit_inv _ _ (camViolation_inv _ _ _ _ _ hI))) (outInv_next hI)

theorem execLp11Detected_inv {p : Port} : OutInv (execLp11Detected p s) := by
  unfold execLp11Detected
  refine outInv_ite (outInv_next hI) (outInv_ite (outInv_next (modCam_inv _ _ _ hI)) (outInv_next ?_))
  split
  · refine inv_ite ?_ ?_
    · refine beginSettings_inv _ _ _ ?_
      split
      · exact cciSetWrites_inv _ _ _ (modCam_inv _ _ _ hI)
      · exact modCam_inv _ _ _ hI
    · split
      · exact cciSetWrites_inv _ _ _ (modCam_inv _ _ _ hI)
      · exact modCam_inv _ _ _ hI
  · split
    · exact cciSetWrites_inv _ _ _ (modCam_inv _ _ _ hI)
    · exact modCam_inv _ _ _ hI

theorem execCciTransactionDone_inv {bus : Bool} {result : BusResult} : OutInv (execCciTransactionDone bus result s) := by
  unfold execCciTransactionDone
  dsimp only
  split
  · exact outInv_next hI
  · refine outInv_ite (outInv_next hI) (outInv_ite (outInv_next (cciFails_inv _ _ _ (cciPop_inv _ _ hI))) ?_)
    split
    · exact outInv_next (cciSucceeds_inv _ _ _ (cciPop_inv _ _ (cciTrace_inv _ _ hI)))
    · exact outInv_ite (outInv_next (cciViolation_inv _ _ _ _ _ hI).update) (outInv_next
        (cciFails_inv _ _ _ (cciPop_inv _ _ (cciViolation_inv _ _ _ _ _ hI))))

theorem execCciStretch_inv {bus : Bool} : OutInv (execCciStretch bus s) := by
  unfold execCciStretch
  dsimp only
  split
  · exact outInv_ite (outInv_next (cciTrace_inv _ _ (cciViolation_inv _ _ _ _ _ hI))) (outInv_next hI)
  · exact outInv_next hI

theorem execCciSilent_inv {p : Port} : OutInv (execCciSilent p s) := by
  unfold execCciSilent
  extract_lets d bus isolated failed dropped finished
  have hi : Inv isolated := isolatePartner_inv _ _ _ (cciViolation_inv _ _ _ _ _ hI)
  have hf : Inv failed := by
    unfold failed
    split
    · exact inv_ite (settingsFailed_inv _ _ _ _ hi) hi
    · exact hi
  have hn : Inv finished := finishAll_inv _ _ _ (dropWrites_inv _ _ _ hf)
  exact outInv_ite (outInv_next (serveFirst_inv _ (raise_inv _ _ _ (stopPort_inv _ _ hn)))) (outInv_next hI)

/-! The rows of HeadLink.lean -/

theorem execHeadLink_inv {c : Cmd} : OutInv (execHeadLink c s) :=
  mervan_inv (fun _ _ _ h => doneInv_ite (no_inv _ _ _ _ h) (doneInv_ite (no_inv _ _ _ _ h) (done_inv _
    (inv_foldl _ _ _ (fun _ _ h => setLink_inv _ _ _ _ _ h) h)))) hI

theorem execHeadStatus_inv {c : Cmd} : OutInv (execHeadStatus c s) :=
  mervan_inv (fun _ _ _ h => doneInv_ite (no_inv _ _ _ _ h) (ok_inv _ _ h)) hI

theorem execHeadEcho_inv {c : Cmd} : OutInv (execHeadEcho c s) :=
  mervan_inv (fun _ _ _ h => doneInv_ite (no_inv _ _ _ _ h) (doneInv_ite (no_inv _ _ _ _ h) (doneInv_later
    (sendControl_inv _ _ _ _ h)))) hI

theorem execHeadSafe_inv {c : Cmd} : OutInv (execHeadSafe c s) := mervan_inv (fun _ _ _ h => ok_inv _ _ h.update) hI

theorem execHeadWitness_inv {c : Cmd} : OutInv (execHeadWitness c s) :=
  mervan_inv (fun _ _ _ h => doneInv_ite (no_inv _ _ _ _ h) (doneInv_ite (no_inv _ _ _ _ h) (doneInv_ite
    (ok_inv _ _ (inv_foldl _ _ _ (fun _ _ h => sendControl_inv _ _ _ _ (modLink_inv _ _ _ h)) h)) (doneInv_later
    (inv_foldl _ _ _ (fun _ _ h => sendControl_inv _ _ _ _ (modLink_inv _ _ _ h)) h))))) hI

theorem execStatusReportReceived_inv {h : Head} {cell : StatusCell} :
    OutInv (execStatusReportReceived h cell s) := by
  unfold execStatusReportReceived
  split
  · exact outInv_next (pair_inv ‹_› (takeStatus_inv _ _ _ _ hI))
  · have hd := pair_inv ‹_› (takeStatus_inv _ _ _ _ hI)
    extract_lets was reported first checked rejected
    have hr : Inv reported := modLink_inv _ _ _ hd
    have hc : Inv checked := checkReport_inv _ _ _ _ (inv_ite (modRed_inv _ _ hr) hr)
    exact outInv_next (noteReady_inv _ _ (controlReplied_inv _ _ _ (inv_ite (epochRejected_inv _ _ _ hc) hc)))

theorem execStatusIdentReceived_inv {h : Head} {cell : StatusCell} :
    OutInv (execStatusIdentReceived h cell s) := by
  unfold execStatusIdentReceived
  split
  · exact outInv_next (pair_inv ‹_› (takeStatus_inv _ _ _ _ hI))
  · have hd := pair_inv ‹_› (takeStatus_inv _ _ _ _ hI)
    extract_lets expected e
    have he : Inv e := modLink_inv _ _ _ hd
    exact outInv_ite (outInv_next hd) (outInv_ite (outInv_next (fhlViolation_inv _ _ _ _ he))
      (outInv_ite (outInv_next (raise_inv _ _ _ (modLink_inv _ _ _ he))) (outInv_next (emitControl_inv _ _ _ _ (modLink_inv _ _ _ he)))))

theorem execStatusEchoReceived_inv {h : Head} {cell : StatusCell} {roundTrip : U32} :
    OutInv (execStatusEchoReceived h cell roundTrip s) := by
  unfold execStatusEchoReceived
  split
  · exact outInv_next (pair_inv ‹_› (takeStatus_inv _ _ _ _ hI))
  · have hd := pair_inv ‹_› (takeStatus_inv _ _ _ _ hI)
    exact outInv_ite (outInv_next hd) (outInv_next (controlReplied_inv _ _ _ (inv_ite (modLink_inv _ _ _ hd)
      (finishWork_inv _ _ _ (modLink_inv _ _ _ hd)))))

theorem execStatusWitnessReceived_inv {h : Head} {cell : StatusCell} : OutInv (execStatusWitnessReceived h cell s) := by
  unfold execStatusWitnessReceived
  split
  · exact outInv_next (pair_inv ‹_› (takeStatus_inv _ _ _ _ hI))
  · exact outInv_next (unaskWitness_inv _ _ _ (controlReplied_inv _ _ _ (modRed_inv _ _
      (modLink_inv _ _ _ (pair_inv ‹_› (takeStatus_inv _ _ _ _ hI))))))

theorem execControlReplyTimeout_inv {h : Head} : OutInv (execControlReplyTimeout h s) := by
  unfold execControlReplyTimeout
  split
  · exact outInv_next hI
  · exact outInv_ite (outInv_next (inv_ite (unaskWitness_inv _ _ _ hI) hI)) (outInv_ite
      (outInv_next (sendCell_inv _ _ _ (modLink_inv _ _ _ (inv_ite (unaskWitness_inv _ _ _ hI) hI)))) (outInv_next
      (noteReady_inv _ _ (fhlReinit_inv _ _ _ (modLink_inv _ _ _ (finishAll_inv _ _ _ (inv_ite (unaskWitness_inv _ _ _ hI) hI)))))))

theorem execStatusSilent_inv {h : Head} : OutInv (execStatusSilent h s) :=
  outInv_ite (outInv_next (noteReady_inv _ _ (fhlReinit_inv _ _ _ hI))) (outInv_next hI)

theorem execFhlCrcBurst_inv {h : Head} : OutInv (execFhlCrcBurst h s) :=
  outInv_ite (outInv_next (noteReady_inv _ _ (fhlReinit_inv _ _ _ hI))) (outInv_next hI)

theorem execHeadSafeNFall_inv : OutInv (execHeadSafeNFall s) := outInv_next hI.update

theorem execHeadSafeNRise_inv : OutInv (execHeadSafeNRise s) := by
  unfold execHeadSafeNRise
  extract_lets d e
  have he : Inv e := hI.update
  exact outInv_ite (outInv_next (skipTokens_inv (fun _ => true) .headSafe e he).update) (outInv_next he)

/-! The rows of Power.lean -/

theorem execDomainDrained_inv : OutInv (execDomainDrained s) := by
  unfold execDomainDrained
  dsimp only
  split
  · exact outInv_next hI
  · exact outInv_ite (outInv_ite (outInv_next (allQuiesced_inv _ (quiet_inv _ _ _ hI))) (outInv_next
      (nextDomain_inv _ (quiet_inv _ _ _ hI)))) (outInv_next hI)

theorem execDrainTimeout_inv : OutInv (execDrainTimeout s) := outInv_ite (outInv_next (refuseEntry_inv _ _ _ hI)) (outInv_next hI)

theorem execPwrState_inv {c : Cmd} : OutInv (execPwrState c s) := by
  unfold execPwrState
  refine mervan_inv (fun _ _ _ h => ?_) hI
  refine doneInv_ite (no_inv _ _ _ _ h) ?_
  refine doneInv_ite (doneInv_ite (doneInv_after h (fun _ h => wakeUp_inv _ _ h)) (ok_inv _ _ h)) ?_
  split
  · exact doneInv_reply (setIrq_inv _ _ h)
  · exact doneInv_ite (doneInv_later (startPhase1_inv _ h.update)) (doneInv_later (captureCheckpoint_inv _ h.update.update))

theorem execCheckpointCommitted_inv : OutInv (execCheckpointCommitted s) := by
  unfold execCheckpointCommitted
  dsimp only
  split
  · exact outInv_next hI
  · exact outInv_ite (outInv_next (startPhase1_inv _ (commitCheckpoint_inv _ _ hI))) (outInv_next (commitCheckpoint_inv _ _ hI))

theorem execPwrStatus_inv {c : Cmd} : OutInv (execPwrStatus c s) := mervan_inv (fun _ _ _ h => ok_inv _ _ h) hI

theorem execPwrIdle_inv {c : Cmd} : OutInv (execPwrIdle c s) :=
  mervan_inv (fun _ _ _ h => done_inv _ (inv_ite h (wakeCores_inv _ h)).update) hI

theorem execIdleEntry_inv : OutInv (execIdleEntry s) := outInv_ite (outInv_next hI.update) (outInv_next hI)

theorem execIdleExit_inv : OutInv (execIdleExit s) := outInv_next (wakeCores_inv _ hI)

theorem execWakeNLow_inv : OutInv (execWakeNLow s) :=
  outInv_ite (outInv_next hI) (outInv_ite (outInv_next (startBoot_inv _ (inReset_inv _ _))) (outInv_next
    (wakeSource_inv _ _ (inv_ite (enterState_inv _ hI) hI))))

/-! The rows of Red.lean -/

theorem execHeartbeatTimer_inv : OutInv (execHeartbeatTimer s) := outInv_ite (outInv_next (wagSend_inv _ _ _ hI)) (outInv_next hI)

theorem execHboEdgeTimer_inv : OutInv (execHboEdgeTimer s) := outInv_ite (outInv_next hI.update) (outInv_next hI)

theorem execHeartbeatReceived_inv {hb : Heartbeat} : OutInv (execHeartbeatReceived hb s) :=
  outInv_ite (outInv_next (rxActive_inv _ _ hI)) (outInv_ite (outInv_next (violation_inv _ _ _ _ _ (rxActive_inv _ _ hI))) (outInv_ite
    (outInv_next (violation_inv _ _ _ _ _ (rxActive_inv _ _ hI))) (outInv_ite
    (outInv_next (violation_inv _ _ _ _ _ (rxActive_inv _ _ hI))) (outInv_next
    (noteFault_inv _ _ (takeBeat_inv _ _ (rxActive_inv _ _ hI)))))))

theorem execHbiEdge_inv : OutInv (execHbiEdge s) := outInv_ite (outInv_next (pathLives_inv _ _ hI)) (outInv_next hI)

theorem execPathSilent_inv {hbi : Bool} : OutInv (execPathSilent hbi s) :=
  outInv_ite (outInv_next hI) (outInv_ite (outInv_next (refreshPath_inv _ (raise_inv _ _ _
    (modRed_inv _ _ (noteRed_inv _ _ (modRed_inv _ _ hI)))))) (outInv_next (bothSilent_inv _ (noteRed_inv _ _ (modRed_inv _ _ hI)))))

theorem execEpochRecordCommitted_inv : OutInv (execEpochRecordCommitted s) := by
  unfold execEpochRecordCommitted
  dsimp only
  split
  · exact outInv_next hI
  · exact outInv_ite (outInv_next (fence_inv _ (commitEpoch_inv _ _ _ hI))) (outInv_ite
      (outInv_next (promoted_inv _ (commitEpoch_inv _ _ _ hI))) (outInv_ite (outInv_next (takeActive_inv _ (commitEpoch_inv _ _ _ hI)))
      (outInv_next (commitEpoch_inv _ _ _ hI))))

theorem execWitnessDecision_inv : OutInv (execWitnessDecision s) := by
  unfold execWitnessDecision
  dsimp only
  split
  · exact outInv_next hI
  · exact outInv_ite (outInv_next hI) (outInv_ite (outInv_next (startPromotion_inv _ _ (modRed_inv _ _ hI))) (outInv_next
      (pathsLost_inv _ (modRed_inv _ _ hI))))

theorem execWitnessRequery_inv : OutInv (execWitnessRequery s) := outInv_ite (outInv_next (askWitness_inv _ hI)) (outInv_next hI)

theorem execPromotionSelfTestDone_inv {failed : Option SelfTest} : OutInv (execPromotionSelfTestDone failed s) := by
  unfold execPromotionSelfTestDone
  refine outInv_ite (outInv_next hI) (outInv_ite ?_ ?_)
  · split
    · exact outInv_next (startPromotion_inv _ _ (wagSeq_inv _ _ _ hI))
    · exact outInv_next (roleSleep_inv _ (wagSeq_inv _ _ _ (modRed_inv _ _ hI)))
  · refine outInv_ite ?_ (outInv_next hI)
    split
    · exact outInv_next (selfTestPassed_inv _ hI)
    · exact outInv_next (noteFault_inv _ _ (raise_inv _ _ _ (modRed_inv _ _ hI)))

theorem execReconciliationDone_inv : OutInv (execReconciliationDone s) := by
  unfold execReconciliationDone
  dsimp only
  split
  · exact outInv_next hI
  · exact outInv_ite (outInv_next (raise_inv _ _ _ (reconcile_inv _ _ hI))) (outInv_next hI)

theorem execRoleListenExpiry_inv : OutInv (execRoleListenExpiry s) := by
  unfold execRoleListenExpiry
  refine outInv_ite (outInv_next hI) ?_
  split
  · exact outInv_ite (outInv_next (goStandby_inv _ hI)) (outInv_ite (outInv_next (goActive_inv _ hI)) (outInv_next
      (goStandby_inv _ hI)))
  · exact outInv_ite (outInv_next (goStandby_inv _ hI)) (outInv_ite (outInv_next (goActive_inv _ hI)) (outInv_next
      (bothSilent_inv _ (goStandby_inv _ hI))))

theorem execStateFrameReceived_inv {f : WaggleFrame} {viaFabric : Bool} : OutInv (execStateFrameReceived f viaFabric s) := by
  unfold execStateFrameReceived
  refine outInv_ite (outInv_ite (outInv_next (takeState_inv _ _ _ _ _ hI)) (outInv_next hI)) (outInv_ite (outInv_next hI) ?_)
  split
  · exact outInv_next (pair_inv ‹_› (takeWaggle_inv _ _ _ _ hI))
  · have hd := pair_inv ‹_› (takeWaggle_inv _ _ _ _ hI)
    exact outInv_ite (outInv_next (takeState_inv _ _ _ _ _ hd)) (outInv_next hd)

theorem execMirrorFrameReceived_inv {f : WaggleFrame} {addr : U64} {data : List U8} :
    OutInv (execMirrorFrameReceived f addr data s) := by
  unfold execMirrorFrameReceived
  refine outInv_ite (outInv_next hI) ?_
  split
  · exact outInv_next (pair_inv ‹_› (takeWaggle_inv _ _ _ _ hI))
  · have hd := pair_inv ‹_› (takeWaggle_inv _ _ _ _ hI)
    exact outInv_ite (outInv_next hd) (outInv_ite (outInv_next (dramWrite_inv _ _ _ _ hd)) (outInv_next (violation_inv _ _ _ _ _ hd)))

theorem execMirrorAckTimer_inv : OutInv (execMirrorAckTimer s) := by
  unfold execMirrorAckTimer
  dsimp only
  split
  · exact outInv_ite (outInv_next (sendPair_inv _ _ (modRed_inv _ _ hI))) (outInv_next hI)
  · exact outInv_next hI

theorem execNeedFullReceived_inv {mirror : Bool} {wl : Option FrameEnd} : OutInv (execNeedFullReceived mirror wl s) := by
  unfold execNeedFullReceived
  refine outInv_ite ?_ ?_
  · refine outInv_next (inv_ite ?_ ?_)
    · refine violation_inv _ _ _ _ _ ?_
      split
      · exact rxActive_inv _ _ hI
      · exact hI
    · split
      · exact rxActive_inv _ _ hI
      · exact hI
  · refine outInv_ite ?_ ?_
    · refine outInv_next (answerFull_inv _ _ ?_)
      split
      · exact rxActive_inv _ _ hI
      · exact hI
    · refine outInv_next ?_
      split
      · exact rxActive_inv _ _ hI
      · exact hI

theorem execPairControlReceived_inv {m : PairControl} : OutInv (execPairControlReceived m s) := by
  unfold execPairControlReceived
  refine outInv_ite (outInv_next hI) ?_
  split
  · exact outInv_next (answerFull_inv _ _ (inv_ite (raise_inv _ _ _ hI) hI))
  · exact outInv_next (noteAck_inv _ _ hI)
  · exact outInv_next (pumpMirror_inv _ (popMirror_inv _ _ hI))
  · exact outInv_next (takeNotice_inv _ _ _ _ hI)

theorem execSnapshotTimer_inv : OutInv (execSnapshotTimer s) :=
  outInv_ite (outInv_ite (outInv_next (pumpMirror_inv _ (drillAtEnd_inv _ hI))) (outInv_next
    (pumpMirror_inv _ (takeSnapshot_inv _ _ hI)))) (outInv_next hI)

theorem execStaleTimer_inv : OutInv (execStaleTimer s) :=
  outInv_ite (outInv_next (raise_inv _ _ _ (modRed_inv _ _ hI))) (outInv_next hI)

theorem execHandoverReceived_inv {f : WaggleFrame} {snap : U32} : OutInv (execHandoverReceived f snap s) := by
  unfold execHandoverReceived
  refine outInv_ite (outInv_next hI) ?_
  split
  · exact outInv_next (pair_inv ‹_› (takeWaggle_inv _ _ _ _ hI))
  · have hd := pair_inv ‹_› (takeWaggle_inv _ _ _ _ hI)
    exact outInv_ite (outInv_next (wakeSource_inv _ _ (startCal_inv _ _ (modRed_inv _ _ hd)))) (outInv_next hd)

theorem execHandoverReplyReceived_inv {f : WaggleFrame} {accepted : Bool} {reason : U32} :
    OutInv (execHandoverReplyReceived f accepted reason s) := by
  unfold execHandoverReplyReceived
  refine outInv_ite (outInv_next hI) ?_
  split
  · exact outInv_next (pair_inv ‹_› (takeWaggle_inv _ _ _ _ hI))
  · have hd := pair_inv ‹_› (takeWaggle_inv _ _ _ _ hI)
    exact outInv_ite (outInv_next (finishWork_inv _ _ _ (raise_inv _ _ _ (modRed_inv _ _ hd)))) (outInv_next hd)

theorem execRedStatus_inv {c : Cmd} : OutInv (execRedStatus c s) := mervan_inv (fun _ _ _ h => ok_inv _ _ h) hI

theorem execRedAssign_inv {c : Cmd} : OutInv (execRedAssign c s) :=
  mervan_inv (fun _ _ _ h => doneInv_ite (no_inv _ _ _ _ h) (doneInv_later (journalAppend_inv _ _ _ _ _ h))) hI

theorem execRedPromote_inv {c : Cmd} : OutInv (execRedPromote c s) :=
  mervan_inv (fun _ _ _ h => doneInv_ite (no_inv _ _ _ _ h) (doneInv_ite (no_inv _ _ _ _ h) (doneInv_ite (no_inv _ _ _ _ h)
    (ok_inv _ _ (startPromotion_inv _ _ h))))) hI

theorem execRedDrill_inv {c : Cmd} : OutInv (execRedDrill c s) :=
  mervan_inv (fun _ _ _ h => doneInv_ite (no_inv _ _ _ _ h) (doneInv_ite (no_inv _ _ _ _ h) (doneInv_ite
    (doneInv_reply (modRed_inv _ _ h)) (doneInv_later (drillAtEnd_inv _ (modRed_inv _ _ h)))))) hI

theorem execRedReadmit_inv {c : Cmd} : OutInv (execRedReadmit c s) :=
  mervan_inv (fun _ _ _ h => doneInv_ite (no_inv _ _ _ _ h) (doneInv_ite (doneInv_after h (fun _ h => roleSleep_inv _ h))
    (doneInv_after h (fun _ h => readmit_inv _ h)))) hI

theorem execRedReconcile_inv {c : Cmd} : OutInv (execRedReconcile c s) := by
  unfold execRedReconcile
  refine mervan_inv (fun _ _ _ h => ?_) hI
  split
  · exact no_inv _ _ _ _ h
  · exact ok_inv _ _ (dramWrite_inv _ _ _ _ h)

end

end Sys2Proof.Machine
end

section
/-! SUPPORT. The invariant is kept by every row of the fabric, DRAM, drive and lanes. -/
namespace Sys2Proof.Machine

section
-- One theorem after another, as in the section of the frames.
set_option Elab.async false
variable {s : State} (hI : Inv s.dev)
include hI

/-! The rows of Fabric.lean -/

theorem execCreditReceived_inv {p : Port} {granted : Vector U32 4} {x : FrameEnd} : OutInv (execCreditReceived p granted x s) := by
  unfold execCreditReceived
  refine outInv_ite (outInv_next hI) ?_
  split
  · exact outInv_next (pair_inv ‹_› (takeLink_inv _ _ _ _ _ hI))
  · exact outInv_next (pumpMirror_inv _ (pumpPort_inv _ _ (modPort_inv _ _ _ (pair_inv ‹_› (takeLink_inv _ _ _ _ _ hI)))))

theorem execCreditInitReceived_inv {p : Port} {config : Vector U16 4} {x : FrameEnd} :
    OutInv (execCreditInitReceived p config x s) := by
  unfold execCreditInitReceived
  refine outInv_ite (outInv_next hI) ?_
  split
  · exact outInv_next (pair_inv ‹_› (takeLink_inv _ _ _ _ _ hI))
  · exact outInv_next (pumpMirror_inv _ (pumpPort_inv _ _ (modPort_inv _ _ _ (pair_inv ‹_› (takeLink_inv _ _ _ _ _ hI)))))

theorem execCreditGrantTimer_inv {p : Port} : OutInv (execCreditGrantTimer p s) :=
  outInv_ite (outInv_next (linkSend_inv _ _ _ (modPort_inv _ _ _ hI))) (outInv_next hI)

theorem execAuditReceived_inv {p : Port} {mark nextSeq : U16} {cSent : Vector U32 4} {x : FrameEnd} :
    OutInv (execAuditReceived p mark nextSeq cSent x s) := by
  unfold execAuditReceived
  refine outInv_ite (outInv_next hI) ?_
  split
  · exact outInv_next (pair_inv ‹_› (takeLink_inv _ _ _ _ _ hI))
  · have hd := pair_inv ‹_› (takeLink_inv _ _ _ _ _ hI)
    exact outInv_ite (outInv_next (checkAudit_inv _ _ _ _ hd)) (outInv_ite (outInv_next (modPort_inv _ _ _ hd))
      (outInv_next (auditReply_inv _ _ _ hd)))

theorem execAuditReplyReceived_inv {p : Port} {mark : U16} {granted : Vector U32 4} {x : FrameEnd} :
    OutInv (execAuditReplyReceived p mark granted x s) := by
  unfold execAuditReplyReceived
  refine outInv_ite (outInv_next hI) ?_
  split
  · exact outInv_next (pair_inv ‹_› (takeLink_inv _ _ _ _ _ hI))
  · extract_lets granting q agreed
    have hg : Inv granting := modPort_inv _ _ _ (pair_inv ‹_› (takeLink_inv _ _ _ _ _ hI))
    have ha : Inv agreed := modPort_inv _ _ _ hg
    exact outInv_ite (outInv_ite (outInv_next (pumpMirror_inv _ (pumpPort_inv _ _ ha))) (outInv_next (fabReinit_inv _ _ _ ha)))
      (outInv_next (pumpMirror_inv _ (pumpPort_inv _ _ hg)))

theorem execAuditResend_inv {p : Port} : OutInv (execAuditResend p s) := by
  unfold execAuditResend
  dsimp only
  split
  · exact outInv_ite (outInv_next hI) (outInv_ite (outInv_next (linkSend_inv _ _ _ (modPort_inv _ _ _ hI))) (outInv_next
      (fabReinit_inv _ _ _ (modPort_inv _ _ _ hI))))
  · exact outInv_next hI

theorem execAckReceived_inv {l : LinkId} {ackSeq : U16} {x : FrameEnd} : OutInv (execAckReceived l ackSeq x s) := by
  unfold execAckReceived
  dsimp only
  split
  · refine outInv_ite (outInv_next hI) ?_
    split
    · exact outInv_next (pair_inv ‹_› (takeLink_inv _ _ _ _ _ hI))
    · exact outInv_next (pumpMirror_inv _ (pumpPort_inv _ _ (modPort_inv _ _ _ (pair_inv ‹_› (takeLink_inv _ _ _ _ _ hI)))))
  · refine outInv_ite (outInv_next hI) ?_
    split
    · exact outInv_next (pair_inv ‹_› (takeShort_inv _ _ _ _ hI))
    · exact outInv_next (waggleAcked_inv _ _ (pair_inv ‹_› (takeShort_inv _ _ _ _ hI)))

theorem execNakReceived_inv {l : LinkId} {nakSeq : U16} {x : FrameEnd} : OutInv (execNakReceived l nakSeq x s) := by
  unfold execNakReceived
  dsimp only
  split
  · refine outInv_ite (outInv_next hI) ?_
    split
    · exact outInv_next (pair_inv ‹_› (takeLink_inv _ _ _ _ _ hI))
    · exact outInv_next (replayPort_inv _ _ _ (pair_inv ‹_› (takeLink_inv _ _ _ _ _ hI)))
  · refine outInv_ite (outInv_next hI) ?_
    split
    · exact outInv_next (pair_inv ‹_› (takeShort_inv _ _ _ _ hI))
    · exact outInv_next (replayWaggle_inv _ _ (pair_inv ‹_› (takeShort_inv _ _ _ _ hI)))

theorem execReplayTimeout_inv {l : LinkId} : OutInv (execReplayTimeout l s) := by
  unfold execReplayTimeout
  dsimp only
  split
  · split
    · exact outInv_ite (outInv_next (replayPort_inv _ _ _ hI)) (outInv_next hI)
    · exact outInv_next hI
  · split
    · exact outInv_ite (outInv_next (replayWaggle_inv _ _ hI)) (outInv_next hI)
    · exact outInv_next hI

theorem execAckTimer_inv {l : LinkId} : OutInv (execAckTimer l s) := by
  unfold execAckTimer
  dsimp only
  split
  · exact outInv_ite (outInv_next (linkSend_inv _ _ _ (modPort_inv _ _ _ hI))) (outInv_next hI)
  · exact outInv_ite (outInv_next (wagSend_inv _ _ _ (modRed_inv _ _ hI))) (outInv_next hI)

theorem execReplayBudget_inv {l : LinkId} : OutInv (execReplayBudget l s) := by
  unfold execReplayBudget
  dsimp only
  split
  · exact outInv_ite (outInv_next (fabReinit_inv _ _ _ (modPort_inv _ _ _ hI))) (outInv_next hI)
  · exact outInv_ite (outInv_next (refreshPath_inv _ (reinitLane_inv _ _ (violation_inv _ _ _ _ _ (modRed_inv _ _ hI)))))
      (outInv_next hI)

theorem execSrcSeqGapTimeout_inv {src : U8} {vc : Vc} {dest : DestKind} :
    OutInv (execSrcSeqGapTimeout src vc dest s) := by
  unfold execSrcSeqGapTimeout
  extract_lets d counted
  split
  · exact outInv_next hI
  · split
    · exact outInv_next hI
    · extract_lets low onPort gapped
      have hp : Inv onPort := by
        unfold onPort
        split
        · exact modPort_inv _ _ _ (modFabric_inv _ _ hI)
        · exact modFabric_inv _ _ hI
      exact outInv_next (drainFlow_inv _ _ _ _ _ (modFlow_inv _ _ _ _ _ (gapEffects_inv _ _ _ _ hp)))

theorem execDataFrameReceived_inv {p : Port} {k : Fin 2} {f : DataFrame} :
    OutInv (execDataFrameReceived p k f s) := by
  unfold execDataFrameReceived
  extract_lets d e
  have he : Inv e := portActive_inv _ _ _ hI
  exact outInv_ite (outInv_next hI) (outInv_ite (outInv_next (badFrame_inv _ _ _ _ he))
    (outInv_ite (outInv_next (nakData_inv _ _ _ (fun _ h => laneViolation_inv _ _ _ _ _ h) he))
      (outInv_ite (outInv_next (nakData_inv _ _ _ (fun _ h => fabViolation_inv _ _ _ _ h) he)) (outInv_next (acceptFrame_inv _ _ _ _ he)))))

theorem execUnreachableReceived_inv {dest : U8} {msgType : U16} {srcSeq : U32} :
    OutInv (execUnreachableReceived dest msgType srcSeq s) :=
  outInv_ite (outInv_next hI) (outInv_next (frameLost_inv _ _ _ _ hI))

theorem execTimeReqTimer_inv : OutInv (execTimeReqTimer s) := by
  unfold execTimeReqTimer
  dsimp only
  split
  · exact outInv_ite (outInv_next (linkSend_inv _ _ _ hI)) (outInv_next hI)
  · exact outInv_next hI

theorem execTimeReqReceived_inv {p : Port} {t1 t2 : Int} {x : FrameEnd} : OutInv (execTimeReqReceived p t1 t2 x s) := by
  unfold execTimeReqReceived
  refine outInv_ite (outInv_next hI) ?_
  split
  · exact outInv_next (pair_inv ‹_› (takeLink_inv _ _ _ _ _ hI))
  · exact outInv_next (linkSend_inv _ _ _ (pair_inv ‹_› (takeLink_inv _ _ _ _ _ hI)))

theorem execTimeRespReceived_inv {p : Port} {t1 t2 t3 t4 : Int} {x : FrameEnd} : OutInv (execTimeRespReceived p t1 t2 t3 t4 x s) := by
  unfold execTimeRespReceived
  refine outInv_ite (outInv_next hI) ?_
  split
  · exact outInv_next (pair_inv ‹_› (takeLink_inv _ _ _ _ _ hI))
  · have hd := pair_inv ‹_› (takeLink_inv _ _ _ _ _ hI)
    exact outInv_ite (outInv_next (fabViolation_inv _ _ _ _ hd)) (outInv_next
      (lockAfter_inv _ _ (adjustTime_inv _ _ (modPort_inv _ _ _ hd))))

theorem execTimeUnlockTimeout_inv : OutInv (execTimeUnlockTimeout s) :=
  outInv_ite (outInv_next (raise_inv _ _ _ (modFabric_inv _ _ hI))) (outInv_next hI)

theorem execNeighbourSilent_inv {p : Port} : OutInv (execNeighbourSilent p s) :=
  outInv_ite (outInv_next (fabReinit_inv _ _ _ hI)) (outInv_next hI)

theorem execPortFlap_inv {p : Port} : OutInv (execPortFlap p s) :=
  outInv_ite (outInv_next (fabViolation_inv _ _ _ _ (modPort_inv _ _ _ hI))) (outInv_next hI)

theorem execPartnerIsolated_inv {block : BitVec 5} {source : U16} : OutInv (execPartnerIsolated block source s) :=
  outInv_ite (outInv_next (noteReady_inv _ _ (leaveLink_inv _ _ _ (isolatePartner_inv _ _ _ hI)))) (outInv_next hI)

/-! The rows of Discovery.lean -/

theorem execHelloTimer_inv {p : Port} : OutInv (execHelloTimer p s) := outInv_next (sendHello_inv _ _ hI)

theorem execHelloReceived_inv {p : Port} {k : Fin 2} {m : Hello} : OutInv (execHelloReceived p k m s) := by
  unfold execHelloReceived
  refine outInv_ite (outInv_next hI) (outInv_ite (outInv_next (laneViolation_inv _ _ _ _ _ (portActive_inv _ _ _ hI))) ?_)
  split
  · exact outInv_ite (outInv_next (takeHello_inv _ _ _ (portActive_inv _ _ _ hI))) (outInv_next
      (fabReinit_inv _ _ _ (portActive_inv _ _ _ hI)))
  · exact outInv_next (takeHello_inv _ _ _ (portActive_inv _ _ _ hI))

theorem execRootElectionTimeout_inv : OutInv (execRootElectionTimeout s) :=
  outInv_ite (outInv_next (modFabric_inv _ _ (updateCand_inv _ hI))) (outInv_next hI)

theorem execJoinReceived_inv {p : Port} {m : Join} : OutInv (execJoinReceived p m s) :=
  outInv_ite (outInv_next hI) (outInv_ite (outInv_next (rootJoin_inv _ _ _ (noteJoinPort_inv _ _ _ hI))) (outInv_next
    (inv_ite hI (noteJoinPort_inv _ _ _ hI))))

theorem execIdAssignment_inv : OutInv (execIdAssignment s) :=
  outInv_ite (outInv_next hI) (outInv_next (sendRoles_inv _ (raise_inv _ _ _ (loadRoutes_inv _
    (takeNode_inv _ _ (modFabric_inv _ _ (inv_foldl _ _ _ (fun _ _ h => raise_inv _ _ _ (fabViolation_inv _ _ _ _ h)) hI)))))))

theorem execAssignReceived_inv {p : Port} {uid : U64} {nodeId : U8} {discGen : U16} {routes : List U16} :
    OutInv (execAssignReceived p uid nodeId discGen routes s) :=
  outInv_ite (outInv_next hI) (outInv_ite (outInv_next (refreshPath_inv _ (inv_ite
    (modFabric_inv _ _ (takeNode_inv _ _ (modFabric_inv _ _ hI))) (sendRoles_inv _ (takeNode_inv _ _ (modFabric_inv _ _ hI))))))
    (outInv_next hI))

theorem execLinkChangeReceived_inv {node : U8} {port : Port} {isUp : Bool} {neighbour : U64} :
    OutInv (execLinkChangeReceived node port isUp neighbour s) :=
  outInv_ite (outInv_next hI) (outInv_next (rerouted_inv _ (modFabric_inv _ _ hI)))

theorem execRoleAssignmentTimer_inv : OutInv (execRoleAssignmentTimer s) :=
  outInv_ite (outInv_next (sendRoles_inv _ hI)) (outInv_next hI)

theorem execRoleAssignmentReceived_inv {m : RoleMsg} : OutInv (execRoleAssignmentReceived m s) :=
  outInv_ite (outInv_next (noteFault_inv _ _ (takeRoles_inv _ _ hI))) (outInv_next hI)

theorem execRoleHolderTimeout_inv {role : Fin 3} : OutInv (execRoleHolderTimeout role s) := by
  unfold execRoleHolderTimeout
  dsimp only
  split
  · exact outInv_ite (outInv_next hI) (outInv_next (modFabric_inv _ _ hI))
  · exact outInv_next hI

theorem execFabricConfig_inv {c : Cmd} : OutInv (execFabricConfig c s) :=
  mervan_inv (fun _ _ _ h => doneInv_ite (no_inv _ _ _ _ h) (done_inv _ (inv_ite (enablePort_inv _ _ (modPort_inv _ _ _ h))
    (modPort_inv _ _ _ h)))) hI

theorem execFabricStatus_inv {c : Cmd} : OutInv (execFabricStatus c s) := mervan_inv (fun _ _ _ h => ok_inv _ _ h) hI

theorem execFabricRoutes_inv {c : Cmd} : OutInv (execFabricRoutes c s) :=
  mervan_inv (fun _ _ _ h => ok_inv _ _ (dramWrite_inv _ _ _ _ h)) hI

theorem execFabricFixId_inv {c : Cmd} : OutInv (execFabricFixId c s) :=
  mervan_inv (fun _ _ _ h => doneInv_ite (no_inv _ _ _ _ h) (doneInv_later (journalAppend_inv _ _ _ _ _ h))) hI

theorem execFabricDiscover_inv {c : Cmd} : OutInv (execFabricDiscover c s) :=
  mervan_inv (fun _ _ _ h => ok_inv _ _ (modFabric_inv _ _ (beginDiscovery_inv _ h))) hI

theorem execFabricPing_inv {c : Cmd} : OutInv (execFabricPing c s) := by
  unfold execFabricPing
  refine mervan_inv (fun _ _ _ h => ?_) hI
  refine doneInv_ite (ok_inv _ _ h) ?_
  dsimp only
  split
  · exact doneInv_later (modFabric_inv _ _ (pair_inv ‹_› (sendTo_inv _ _ _ _ _ _ h)))
  · exact no_inv _ _ _ _ (pair_inv ‹_› (sendTo_inv _ _ _ _ _ _ h))

theorem execPcieLinkUp_inv : OutInv (execPcieLinkUp s) := outInv_ite (outInv_next hI.update) (outInv_next hI)

/-! The rows of Dram.lean -/

theorem execDramRequest_inv {r : DramReq} : OutInv (execDramRequest r s) :=
  outInv_ite (outInv_ite (outInv_next (modDram_inv _ _ (fun _ => rfl) hI)) (outInv_next (serve_inv _ _ hI))) (outInv_next hI)

theorem execTrainingDone_inv {r : TrainResult} : OutInv (execTrainingDone r s) := by
  unfold execTrainingDone
  dsimp only
  split
  · exact outInv_next hI
  · exact outInv_ite (outInv_next (noteReady_inv _ _ (inv_ite (inv_ite (pointPasses_inv _ _ _ _ hI) (modDram_inv _ _ (fun _ => rfl) hI))
      (inv_ite (pointPasses_inv _ _ _ _ hI) (inv_ite (modDram_inv _ _ (fun _ => rfl) hI) (pointFails_inv _ _ _ hI)))))) (outInv_next hI)

theorem execDeferredTrainingStart_inv : OutInv (execDeferredTrainingStart s) :=
  outInv_ite (outInv_next (raise_inv _ _ _ (modDram_inv _ _ (fun _ => rfl) hI))) (outInv_next hI)

theorem execTrainingHoldExpiry_inv : OutInv (execTrainingHoldExpiry s) := by
  unfold execTrainingHoldExpiry
  refine outInv_ite ?_ (outInv_next hI)
  split
  · exact outInv_next (noteReady_inv _ _ (startMemWork_inv _ _ _ (modDram_inv _ _ (fun _ => rfl) hI)))
  · exact outInv_next (noteReady_inv _ _ (modDram_inv _ _ (fun _ => rfl) hI))

theorem execRefreshDue_inv {mc : Port} {rank : Fin 2} {feedWaiting : Bool} :
    OutInv (execRefreshDue mc rank feedWaiting s) := by
  unfold execRefreshDue
  extract_lets d owed forced
  refine outInv_ite ?_ (outInv_next hI)
  split
  extract_lets counted
  have hc : Inv counted := modDram_inv _ _ (fun _ => rfl) hI
  refine outInv_ite ?_ (outInv_next hc)
  exact outInv_next (modDram_inv _ _ (fun _ => rfl) (draw_inv _ hc))

theorem execRefreshWindow_inv : OutInv (execRefreshWindow s) :=
  outInv_ite (outInv_next (modDram_inv _ _ (fun _ => rfl) hI)) (outInv_next hI)

theorem execMr4Read_inv {die : DieId} {multiplier : Fin 5} {hot : Bool} : OutInv (execMr4Read die multiplier hot s) :=
  outInv_ite (outInv_ite (outInv_next (raise_inv _ _ _ (modDram_inv _ _ (fun _ => rfl) hI))) (outInv_ite
    (outInv_next (modDram_inv _ _ (fun _ => rfl) hI)) (outInv_next hI))) (outInv_next hI)

theorem execDqsTracking_inv {lane : Fin 8} {drift : Int} : OutInv (execDqsTracking lane drift s) :=
  outInv_ite (outInv_next (inv_ite (raise_inv _ _ _ (modDram_inv _ _ (fun _ => rfl) hI)) (modDram_inv _ _ (fun _ => rfl) hI)))
    (outInv_next hI)

theorem execScrubRead_inv {corrected : Bool} {fault : Option CheckFault} : OutInv (execScrubRead corrected fault s) :=
  outInv_ite (outInv_next (serve_inv _ _ (modDram_inv _ _ (fun _ => rfl) hI))) (outInv_next hI)

theorem execDramCorrectedReport_inv : OutInv (execDramCorrectedReport s) :=
  outInv_ite (outInv_next (raise_inv _ _ _ (modDram_inv _ _ (fun _ => rfl) hI))) (outInv_next hI)

theorem execMemStatus_inv {c : Cmd} : OutInv (execMemStatus c s) := mervan_inv (fun _ _ _ h => ok_inv _ _ h) hI

theorem execMemFreq_inv {c : Cmd} : OutInv (execMemFreq c s) :=
  mervan_inv (fun _ _ _ h => doneInv_ite (no_inv _ _ _ _ h) (doneInv_ite (no_inv _ _ _ _ h) (doneInv_ite
    (doneInv_ite (no_inv _ _ _ _ h) (doneInv_later (modDram_inv _ _ (fun _ => rfl) h))) (doneInv_ite
    (doneInv_reply (noteReady_inv _ _ (modDram_inv _ _ (fun _ => rfl) h))) (doneInv_later (startMemWork_inv _ _ _ h)))))) hI

theorem execMemTrain_inv {c : Cmd} : OutInv (execMemTrain c s) :=
  mervan_inv (fun _ _ _ h => doneInv_ite (ok_inv _ _ h) (doneInv_ite (no_inv _ _ _ _ h) (doneInv_ite
    (doneInv_reply (noteReady_inv _ _ (modDram_inv _ _ (fun _ => rfl) h))) (doneInv_later (startMemWork_inv _ _ _ h))))) hI

theorem execMemFence_inv {c : Cmd} : OutInv (execMemFence c s) :=
  mervan_inv (fun _ _ _ h => doneInv_ite (doneInv_later h) (ok_inv _ _ h)) hI

theorem execMemQos_inv {c : Cmd} : OutInv (execMemQos c s) :=
  mervan_inv (fun _ _ _ h => done_inv _ (modDram_inv _ _ (fun _ => rfl) h)) hI

theorem execMemRowhammer_inv {c : Cmd} : OutInv (execMemRowhammer c s) :=
  mervan_inv (fun _ _ _ h => done_inv _ (modDram_inv _ _ (fun _ => rfl) h)) hI

theorem execMemScrub_inv {c : Cmd} : OutInv (execMemScrub c s) :=
  mervan_inv (fun _ _ _ h => done_inv _ (modDram_inv _ _ (fun _ => rfl) h)) hI

theorem execMemErrors_inv {c : Cmd} : OutInv (execMemErrors c s) :=
  mervan_inv (fun _ _ _ h => ok_inv _ _ (dramWrite_inv _ _ _ _ (modDram_inv _ _ (fun _ => rfl) h))) hI

/-! The rows of Drive.lean -/

theorem execWaveLoad_inv {c : Cmd} : OutInv (execWaveLoad c s) := by
  unfold execWaveLoad
  refine mervan_inv (fun _ _ _ h => ?_) hI
  dsimp only
  split
  · exact answerImage_inv _ _ h
  · exact doneInv_ite (loadForRepeat_inv _ _ _ _ _ h) (loadForJob_inv _ _ _ _ _ h)

theorem execWaveTrim_inv {c : Cmd} : OutInv (execWaveTrim c s) :=
  mervan_inv (fun _ _ _ h => doneInv_ite (no_inv _ _ _ _ h) (done_inv _ h.update)) hI

theorem execWaveLimits_inv {c : Cmd} : OutInv (execWaveLimits c s) :=
  mervan_inv (fun _ _ _ h => doneInv_ite (no_inv _ _ _ _ h) (doneInv_ite (no_inv _ _ _ _ h) (done_inv _ h.update))) hI

theorem execWaveConfig_inv {c : Cmd} : OutInv (execWaveConfig c s) :=
  mervan_inv (fun _ _ _ h => doneInv_ite (no_inv _ _ _ _ h) (done_inv _ (modDrive_inv _ _ _ h))) hI

theorem execDacCalibrate_inv {c : Cmd} : OutInv (execDacCalibrate c s) := by
  unfold execDacCalibrate
  refine mervan_inv (fun _ _ _ h => ?_) hI
  refine doneInv_ite (no_inv _ _ _ _ h) (doneInv_ite (no_inv _ _ _ _ h) ?_)
  dsimp only
  split
  · exact doneInv_ite (no_inv _ _ _ _ h) (doneInv_later (beginCal_inv _ _ _ h))
  · exact doneInv_later (beginCal_inv _ _ _ h)

theorem execDacStatus_inv {c : Cmd} : OutInv (execDacStatus c s) :=
  mervan_inv (fun _ _ _ h => doneInv_ite (no_inv _ _ _ _ h) (ok_inv _ _ h)) hI

theorem execDacRotation_inv {c : Cmd} : OutInv (execDacRotation c s) :=
  mervan_inv (fun _ _ _ h => doneInv_ite (no_inv _ _ _ _ h) (done_inv _ (modGroup_inv _ _ _ h))) hI

theorem execRotationTimer_inv {g : Group} : OutInv (execRotationTimer g s) := by
  unfold execRotationTimer
  refine outInv_ite ?_ (outInv_next hI)
  split
  · refine outInv_next ?_
    split
    · exact awaitHandover_inv _ _ _ _ (modGroup_inv _ _ _ hI)
    · exact modGroup_inv _ _ _ hI

theorem execHandover_inv {g : Group} : OutInv (execHandover g s) := by
  unfold execHandover
  dsimp only
  split
  · exact outInv_next hI
  · exact outInv_ite (outInv_next (modDrive_inv _ _ _ (modGroup_inv _ _ _ hI))) (outInv_next hI)

theorem execCalibrationRunDone_inv {g : Group} {run : CalRun} : OutInv (execCalibrationRunDone g run s) := by
  unfold execCalibrationRunDone
  extract_lets d x
  split
  · exact outInv_next hI
  · refine outInv_ite (outInv_next hI) ?_
    split
    · exact outInv_next (modGroup_inv _ _ _ hI)
    · split
      have hd := pair_inv ‹_› (meanTrim_inv _ _ _ hI)
      split
      exact outInv_next (calEnds_inv _ _ _ _ (pair_inv ‹_› (meanTrim_inv _ _ _ hd)))

theorem execMonitorVisit_inv {h : Head} {sense isen therm : Nat} :
    OutInv (execMonitorVisit h sense isen therm s) := by
  unfold execMonitorVisit
  extract_lets d x bad sb ib tb visited measured deviated faulted
  have hm : Inv measured := modDrive_inv _ _ _ (modGroup_inv _ _ _ hI)
  have hd : Inv deviated := inv_ite (driveDeviation_inv _ _ hm) hm
  have hf : Inv faulted := inv_ite (driveFault_inv _ _ _ hd) hd
  exact outInv_ite (outInv_next (inv_ite (driveFault_inv _ _ _ hf) hf)) (outInv_next hI)

theorem execHvConfig_inv {c : Cmd} {modes : List BusResult} : OutInv (execHvConfig c modes s) :=
  mervan_inv (fun _ _ _ h => doneInv_ite (no_inv _ _ _ _ h) (doneInv_ite (no_inv _ _ _ _ h) (doneInv_ite (no_inv _ _ _ _ h)
    (doneInv_ite (no_inv _ _ _ _ (readModes_inv _ _ _ h)) (doneInv_ite (no_inv _ _ _ _ (readModes_inv _ _ _ h)) (done_inv _
    (noteReady_inv _ _ (inv_foldl _ _ _ (fun _ _ h => pmbWrite_inv _ _ _ _ h) (readModes_inv _ _ _ h).update)))))))) hI

theorem execHvPower_inv {c : Cmd} : OutInv (execHvPower c s) :=
  mervan_inv (fun _ _ _ h => doneInv_ite (no_inv _ _ _ _ h) (doneInv_ite (no_inv _ _ _ _ h) (doneInv_ite (no_inv _ _ _ _ h)
    (doneInv_ite (no_inv _ _ _ _ h) (doneInv_ite (doneInv_ite (ok_inv _ _ (clearSupplyInhibit_inv _ h)) (doneInv_later
    (nextStep_inv _ h.update))) (ok_inv _ _ (noteReady_inv _ _ (turnOff_inv _ _ (supplyInhibit_inv _ _ h))))))))) hI

theorem execHvStepGood_inv {k : Supply} : OutInv (execHvStepGood k s) := by
  unfold execHvStepGood
  extract_lets d was e _ f
  have hf : Inv f := hI.update
  exact outInv_ite (outInv_next (noteReady_inv _ _ (inv_ite (sequenceDone_inv _ hf) hf))) (outInv_next hI)

theorem execOnDelayExpiry_inv : OutInv (execOnDelayExpiry s) := outInv_ite (outInv_next (nextStep_inv _ hI)) (outInv_next hI)

theorem execPgTimeout_inv {k : Supply} : OutInv (execPgTimeout k s) :=
  outInv_ite (outInv_next (noteReady_inv _ _ (finishWork_inv _ _ _ (raise_inv _ _ _ (turnOff_inv _ _ hI).update)))) (outInv_next hI)

theorem execHvLimits_inv {c : Cmd} : OutInv (execHvLimits c s) := by
  unfold execHvLimits
  refine mervan_inv (fun _ _ _ h => ?_) hI
  refine doneInv_ite (no_inv _ _ _ _ h) ?_
  split
  · exact no_inv _ _ _ _ h
  · exact done_inv _ (modSup_inv _ _ _ (pmbWrite_inv _ _ _ _ h))

theorem execHvStatus_inv {c : Cmd} : OutInv (execHvStatus c s) := mervan_inv (fun _ _ _ h => ok_inv _ _ h) hI

theorem execPmbusStatusPoll_inv {k : Supply} {result : BusResult} : OutInv (execPmbusStatusPoll k result s) := by
  unfold execPmbusStatusPoll
  dsimp only
  split
  · exact outInv_ite (outInv_next (noteReady_inv _ _ (pmbRead_inv _ _ _ _ _ (fun _ _ h => takeStatusWord_inv _ _ _ _ h) (inv_ite
      (adoptSupplies_inv _ _ hI) (retryWrites_inv _ _ _ hI))))) (outInv_next hI)
  · exact outInv_next hI

theorem execPmbusTelemetryPoll_inv {k : Supply} {vout iout temp : BusResult} : OutInv (execPmbusTelemetryPoll k vout iout temp s) := by
  unfold execPmbusTelemetryPoll
  dsimp only
  split
  · exact outInv_ite (outInv_next (pmbRead_inv _ _ _ _ _ (fun _ _ h => modSup_inv _ _ _ h) (pmbRead_inv _ _ _ _ _
      (fun _ _ h => modSup_inv _ _ _ h) (pmbRead_inv _ _ _ _ _ (fun _ _ h => modSup_inv _ _ _ h) (adoptSupplies_inv _ _ hI)))))
      (outInv_next hI)
  · exact outInv_next hI

theorem execPmbAlert_inv {alert : AlertRead} {result : BusResult} : OutInv (execPmbAlert alert result s) := by
  unfold execPmbAlert
  extract_lets d adopted _ fell _ answered n
  have ha : Inv adopted := adoptSupplies_inv _ _ hI
  have hf : Inv fell := inv_ite ha.update ha
  refine outInv_ite (outInv_next hI) ?_
  split
  · have he : Inv answered := hf.update
    split
    · exact outInv_ite (outInv_next he)
        (outInv_next (noteReady_inv _ _ (pmbRead_inv _ _ _ _ _ (fun _ _ h => takeStatusWord_inv _ _ _ _ h) he)))
    · exact outInv_next he
  · exact outInv_ite (outInv_next hf.update) (outInv_next (pmbViolation_inv _ _ _ _ hf.update))

theorem execPmbStretch_inv : OutInv (execPmbStretch s) :=
  outInv_ite (outInv_next (pmbRecover_inv _ (pmbViolation_inv _ _ _ _ hI))) (outInv_next hI)

theorem execPmbSilent_inv {k : Supply} : OutInv (execPmbSilent k s) := by
  unfold execPmbSilent
  dsimp only
  split
  · exact outInv_ite (outInv_next (noteReady_inv _ _ (addressFails_inv _ _ (isolatePartner_inv _ _ _ (pmbViolation_inv _ _ _ _ hI)))))
      (outInv_next hI)
  · exact outInv_next hI

/-! The rows of Lanes.lean -/

theorem execLaneAttemptStart_inv {l : LaneId} : OutInv (execLaneAttemptStart l s) :=
  outInv_ite (outInv_next (startAttempt_inv _ _ hI)) (outInv_next hI)

theorem execPartnerT1Detected_inv {l : LaneId} : OutInv (execPartnerT1Detected l s) :=
  outInv_ite (outInv_next (startAttempt_inv _ _ hI)) (outInv_next hI)

theorem execTrainingPhaseTimeout_inv {l : LaneId} : OutInv (execTrainingPhaseTimeout l s) :=
  outInv_ite (outInv_next (attemptFails_inv _ _ _ hI)) (outInv_next hI)

theorem execCdrLock_inv {x : CdrLock} : OutInv (execCdrLock x s) := outInv_ite (outInv_next (lockLane_inv _ _ _ hI)) (outInv_next hI)

theorem execReceiverAdapted_inv {l : LaneId} : OutInv (execReceiverAdapted l s) :=
  outInv_ite (outInv_next hI) (outInv_ite (outInv_next (attemptFails_inv _ _ _ hI)) (outInv_next (adaptLane_inv _ _ hI)))

theorem execTrainingWordReceived_inv {l : LaneId} {w : TrainWord} {last : Bool} : OutInv (execTrainingWordReceived l w last s) :=
  outInv_ite (outInv_next hI) (outInv_ite (outInv_next (noteReady_inv _ _ (endReceive_inv _ _ _
    (answerWord_inv _ _ (modDiag_inv _ _ hI))))) (outInv_next (noteReady_inv _ _ (endReceive_inv _ _ _ (takeWord_inv _ _ _ hI)))))

theorem execPeppercornTestEnd_inv {l : LaneId} {got : List Bool} : OutInv (execPeppercornTestEnd l got s) :=
  outInv_ite (outInv_next hI) (outInv_next (finishWork_inv _ _ _ (modLane_inv _ _ _ hI)))

theorem execLossOfSignal_inv {l : LaneId} : OutInv (execLossOfSignal l s) :=
  outInv_ite (outInv_next hI) (outInv_ite (outInv_next (laneFalls_inv _ _ hI)) (outInv_ite (outInv_next (attemptFails_inv _ _ _ hI))
    (outInv_next hI)))

theorem execCodeErrorBurst_inv {l : LaneId} {errors : List CodeError} : OutInv (execCodeErrorBurst l errors s) :=
  outInv_ite (outInv_ite (outInv_next (laneFalls_inv _ _ (countCodes_inv _ _ _ hI))) (outInv_next (countCodes_inv _ _ _ hI)))
    (outInv_next hI)

theorem execEqFreeze_inv {l : LaneId} : OutInv (execEqFreeze l s) := outInv_ite (outInv_next (modLane_inv _ _ _ hI)) (outInv_next hI)

theorem execEqResume_inv {l : LaneId} : OutInv (execEqResume l s) := outInv_ite (outInv_next (modLane_inv _ _ _ hI)) (outInv_next hI)

theorem execElectricalIdleEntry_inv {l : LaneId} : OutInv (execElectricalIdleEntry l s) :=
  outInv_ite (outInv_next (modLane_inv _ _ _ hI)) (outInv_next hI)

theorem execElectricalIdleNotice_inv {l : LaneId} : OutInv (execElectricalIdleNotice l s) :=
  outInv_ite (outInv_next (modLane_inv _ _ _ hI)) (outInv_next hI)

theorem execWakeBurstTimer_inv {l : LaneId} : OutInv (execWakeBurstTimer l s) :=
  outInv_ite (outInv_next (modLane_inv _ _ _ hI)) (outInv_next hI)

theorem execWakeBurstMissing_inv {l : LaneId} : OutInv (execWakeBurstMissing l s) :=
  outInv_ite (outInv_next (laneFalls_inv _ _ hI)) (outInv_next hI)

theorem execLaneConfig_inv {c : Cmd} : OutInv (execLaneConfig c s) :=
  mervan_inv (fun _ _ _ h => doneInv_ite (no_inv _ _ _ _ h) (laneArg_inv _ _ _ (fun _ => done_inv _
    (inv_ite (modLane_inv _ _ _ (modLane_inv _ _ _ h)) (modLane_inv _ _ _ h))) h)) hI

theorem execLaneStatus_inv {c : Cmd} : OutInv (execLaneStatus c s) :=
  mervan_inv (fun _ _ _ h => laneArg_inv _ _ _ (fun _ => ok_inv _ _ h) h) hI

theorem execLaneRetrain_inv {c : Cmd} : OutInv (execLaneRetrain c s) :=
  mervan_inv (fun _ _ _ h => laneArg_inv _ _ _ (fun _ => ok_inv _ _ (noteReady_inv _ _
    (inv_ite (refreshPath_inv _ (retrainLane_inv _ _ h)) (retrainLane_inv _ _ h)))) h) hI

theorem execLanePrbs_inv {c : Cmd} : OutInv (execLanePrbs c s) :=
  mervan_inv (fun _ _ _ h => laneArg_inv _ _ _ (fun _ => doneInv_ite (no_inv _ _ _ _ h) (doneInv_ite (no_inv _ _ _ _ h)
    (doneInv_ite (doneInv_reply (modLane_inv _ _ _ h)) (doneInv_later (noteReady_inv _ _
    (inv_ite (refreshPath_inv _ (startTest_inv _ _ _ _ h)) (startTest_inv _ _ _ _ h))))))) h) hI

end

end Sys2Proof.Machine
end

section
/-! SUPPORT. The invariant is kept by every row of the system commands, the thermal guard and the transports. -/
namespace Sys2Proof.Machine

section
-- One theorem after another, as in the section of the frames.
set_option Elab.async false
variable {s : State} (hI : Inv s.dev)
include hI

/-! The rows of System.lean -/

theorem execSysNop_inv {c : Cmd} : OutInv (execSysNop c s) := mervan_inv (fun _ _ _ h => ok_inv _ _ h) hI

theorem execSysIdentify_inv {c : Cmd} : OutInv (execSysIdentify c s) := mervan_inv (fun _ _ _ h => ok_inv _ _ h) hI

theorem execSysRing_inv {c : Cmd} : OutInv (execSysRing c s) :=
  mervan_inv (fun _ _ _ h => doneInv_ite (no_inv _ _ _ _ h) (doneInv_ite (no_inv _ _ _ _ h) (doneInv_after h
    (fun _ h => newRings_inv _ _ h)))) hI

theorem execSysConfig_inv {c : Cmd} : OutInv (execSysConfig c s) :=
  mervan_inv (fun _ _ _ h => doneInv_ite (no_inv _ _ _ _ h) (done_inv _ (modMbx_inv _ _ h))) hI

theorem execSysResult_inv {c : Cmd} : OutInv (execSysResult c s) := by
  unfold execSysResult
  refine mervan_inv (fun _ _ _ h => ?_) hI
  refine doneInv_ite (no_inv _ _ _ _ h) ?_
  split
  · exact no_inv _ _ _ _ h
  · exact doneInv_reply h

theorem execSysLatchedRead_inv {c : Cmd} : OutInv (execSysLatchedRead c s) := by
  unfold execSysLatchedRead
  refine mervan_inv (fun _ _ _ h => ?_) hI
  dsimp only
  split
  · exact no_inv _ _ _ _ h
  · exact ok_inv _ _ (markRead_inv _ _ _ (dramWrite_inv _ _ _ _ h))

theorem execSysViolationRead_inv {c : Cmd} : OutInv (execSysViolationRead c s) :=
  mervan_inv (fun _ _ _ h => ok_inv _ _ (dramWrite_inv _ _ _ _ h)) hI

/-- The log is emptied (Table 14.12): its bound holds of the empty log. -/
theorem execSysViolationClear_inv {c : Cmd} : OutInv (execSysViolationClear c s) :=
  mervan_inv (fun _ _ _ h => doneInv_ite (no_inv _ _ _ _ h) (ok_inv _ _ { h with logBound := Nat.zero_le _ })) hI

theorem execSysPartnerRelease_inv {c : Cmd} : OutInv (execSysPartnerRelease c s) :=
  mervan_inv (fun _ _ _ h => doneInv_ite (ok_inv _ _ (releasePartner_inv _ _ _ h)) (no_inv _ _ _ _ h)) hI

theorem execSysRoles_inv {c : Cmd} : OutInv (execSysRoles c s) :=
  mervan_inv (fun _ _ _ h => doneInv_ite (no_inv _ _ _ _ h) (ok_inv _ _ (inv_ite (sendRoles_inv _ (modMbx_inv _ _ h))
    (modMbx_inv _ _ h)))) hI

theorem execSysPresence_inv {c : Cmd} : OutInv (execSysPresence c s) :=
  mervan_inv (fun _ _ _ h => ok_inv _ _ (inv_ite (closeWindow_inv _ h) h)) hI

theorem execSysReseal_inv {c : Cmd} : OutInv (execSysReseal c s) :=
  mervan_inv (fun _ _ _ h => doneInv_ite (no_inv _ _ _ _ h) (doneInv_later (journalAppend_inv _ _ _ _ _ (raise_inv _ _ _ h.update)))) hI

theorem execSysFwUpdate_inv {c : Cmd} : OutInv (execSysFwUpdate c s) := by
  unfold execSysFwUpdate
  refine mervan_inv (fun _ _ _ h => ?_) hI
  split
  · exact poisoned_inv _ _ h
  · exact doneInv_ite (no_inv _ _ _ _ h) (doneInv_ite (no_inv _ _ _ _ h) (doneInv_later h.update))

theorem execSysNvErase_inv {c : Cmd} : OutInv (execSysNvErase c s) :=
  mervan_inv (fun _ _ _ h => doneInv_ite (no_inv _ _ _ _ h) (doneInv_ite (no_inv _ _ _ _ h) (doneInv_later h.update))) hI

theorem execSysPeek_inv {c : Cmd} : OutInv (execSysPeek c s) := by
  unfold execSysPeek
  refine mervan_inv (fun _ _ _ h => ?_) hI
  split
  · exact poisoned_inv _ _ h
  · exact ok_inv _ _ h

theorem execSysNvStatus_inv {c : Cmd} : OutInv (execSysNvStatus c s) :=
  mervan_inv (fun _ _ _ h => doneInv_ite (no_inv _ _ _ _ h) (ok_inv _ _ (dramWrite_inv _ _ _ _ h))) hI

theorem execSysNvSet_inv {c : Cmd} : OutInv (execSysNvSet c s) :=
  mervan_inv (fun _ _ _ h => doneInv_ite (no_inv _ _ _ _ h) (doneInv_ite (no_inv _ _ _ _ h) (doneInv_later
    (journalAppend_inv _ _ _ _ _ h)))) hI

theorem execForagerCopy_inv {c : Cmd} {descs : List U8} : OutInv (execForagerCopy c descs s) := by
  unfold execForagerCopy
  refine mervan_inv (fun _ _ _ h => ?_) hI
  refine doneInv_ite (doneInv_reply (modMbx_inv _ _ h)) (doneInv_ite (no_inv _ _ _ _ h) (doneInv_ite (no_inv _ _ _ _ h) ?_))
  refine doneInv_ite (no_inv _ _ _ _ h) (doneInv_ite ?_ (startForager_inv _ _ h))
  split
  · exact ok_inv _ _ (pair_inv ‹_› (postAll_inv _ _ h))
  · exact poisoned_inv _ _ (pair_inv ‹_› (postAll_inv _ _ h))

theorem execForagerReadDone_inv {buffer : Fin 64} {data : Option (List U8)} :
    OutInv (execForagerReadDone buffer data s) := by
  unfold execForagerReadDone
  extract_lets d
  split
  · exact outInv_next hI
  · extract_lets e
    have he : Inv e := modMbx_inv _ _ hI
    split
    · exact outInv_next he
    · extract_lets j x
      have hx : Inv x := issueAll_inv _ (modMbx_inv _ _ (foragerTake_inv _ _ _ _ he))
      refine outInv_next ?_
      split
      · exact endForager_inv _ _ hx
      · exact hx

theorem execForagerStatus_inv {c : Cmd} : OutInv (execForagerStatus c s) := mervan_inv (fun _ _ _ h => ok_inv _ _ h) hI

theorem execSzStatus_inv {c : Cmd} : OutInv (execSzStatus c s) := by
  unfold execSzStatus
  refine mervan_inv (fun _ _ _ h => ?_) hI
  split
  · exact ok_inv _ _ (pair_inv ‹_› (draw_inv _ h))

theorem execSzMap_inv {c : Cmd} : OutInv (execSzMap c s) :=
  mervan_inv (fun _ _ _ h => doneInv_ite (no_inv _ _ _ _ h) (ok_inv _ _ h.update)) hI

theorem execSz6WindowAccess_inv {offset : U16} {write : Option U32} {supported : Bool} :
    OutInv (execSz6WindowAccess offset write supported s) := by
  unfold execSz6WindowAccess
  extract_lets d _ e
  have he : Inv e := hI.update
  refine outInv_ite ?_ (outInv_next hI)
  split
  · split
    have hd := pair_inv ‹_› (inv_ite_snd (draw_inv _ he) he)
    exact outInv_next hd.update
  · exact outInv_ite (outInv_next he.update) (outInv_next he.update)

/-! The rows of Thermal.lean -/

theorem execSensorConversion_inv {readings : Vector Int 12} : OutInv (execSensorConversion readings s) :=
  outInv_ite (outInv_next (modTherm_inv _ _ hI)) (outInv_next hI)

theorem execSensorFailed_inv {k : Sensor} : OutInv (execSensorFailed k s) :=
  outInv_ite (outInv_next (failSensor_inv _ _ _ hI)) (outInv_next hI)

theorem execSensorDisagreeTimeout_inv {k : Sensor} : OutInv (execSensorDisagreeTimeout k s) :=
  outInv_ite (outInv_next (failSensor_inv _ _ _ hI)) (outInv_next hI)

theorem execThrottleRise_inv : OutInv (execThrottleRise s) := outInv_ite (outInv_next (setLevel_inv _ _ hI)) (outInv_next hI)

theorem execThrottleFall_inv : OutInv (execThrottleFall s) := outInv_ite (outInv_next (setLevel_inv _ _ hI)) (outInv_next hI)

theorem execThermalTrip_inv : OutInv (execThermalTrip s) := outInv_ite (outInv_next (tripNow_inv _ hI)) (outInv_next hI)

theorem execThermalRestart_inv : OutInv (execThermalRestart s) := outInv_ite (outInv_next (restartNow_inv _ hI)) (outInv_next hI)

theorem execThmConfig_inv {c : Cmd} : OutInv (execThmConfig c s) :=
  mervan_inv (fun _ _ _ h => doneInv_ite (done_inv _ (modTherm_inv _ _ h)) (no_inv _ _ _ _ h)) hI

theorem execThmStatus_inv {c : Cmd} : OutInv (execThmStatus c s) := mervan_inv (fun _ _ _ h => ok_inv _ _ h) hI

/-! The rows of Transport.lean -/

theorem execMbxCmdTailWrite_inv {v : U32} : OutInv (execMbxCmdTailWrite v s) := hostDoes_inv (fun _ h => setCmdTail_inv _ _ h) hI

theorem execMbxRspHeadWrite_inv {v : U32} : OutInv (execMbxRspHeadWrite v s) := hostDoes_inv (fun _ h => setRspHead_inv _ _ h) hI

theorem execMbxEvtHeadWrite_inv {v : U32} : OutInv (execMbxEvtHeadWrite v s) := hostDoes_inv (fun _ h => setEvtHead_inv _ _ h) hI

theorem execIrqStatusWrite_inv {v : U32} : OutInv (execIrqStatusWrite v s) := hostDoes_inv (fun _ h => clearIrq_inv _ _ h) hI

theorem execIrqHoldoffExpiry_inv {evt : Bool} : OutInv (execIrqHoldoffExpiry evt s) :=
  outInv_ite (outInv_ite (outInv_next (signalVector_inv _ _ (modMbx_inv _ _ hI))) (outInv_next (modMbx_inv _ _ hI))) (outInv_next hI)

theorem execPwrWakeWrite_inv {v : U32} : OutInv (execPwrWakeWrite v s) := hostDoes_inv (fun _ h => writeWake_inv _ _ h) hI

theorem execPwrPadReleaseWrite_inv {v : U32} : OutInv (execPwrPadReleaseWrite v s) := hostDoes_inv (fun _ h => releasePads_inv _ _ h) hI

theorem execPrsCloseWrite_inv {v : U32} : OutInv (execPrsCloseWrite v s) := hostDoes_inv (fun _ h => writeClose_inv _ _ h) hI

theorem execDiagClearWrite_inv {v : U32} : OutInv (execDiagClearWrite v s) := hostDoes_inv (fun _ h => writeDiagClear_inv _ _ h) hI

theorem execRegisterWrite_inv {offset : Nat} {bytes : List U8} : OutInv (execRegisterWrite offset bytes s) :=
  hostDoes_inv (fun _ h => writeWords_inv _ _ _ _ h) hI

theorem execBar2Access_inv {offset : Nat} {write : Option (List U8)} {len : Nat} : OutInv (execBar2Access offset write len s) := by
  unfold execBar2Access
  refine outInv_ite ?_ (outInv_next hI)
  split
  · exact outInv_next (dramWrite_inv _ _ _ _ hI)
  · exact outInv_ite (outInv_next (modDram_inv _ _ (fun _ => rfl) hI)) (outInv_next (completeRead_inv _ _ _ (touch_inv _ _ _ _ hI)))

theorem execMgmtBlockWrite_inv {bytes : List U8} {pecOk : Bool} : OutInv (execMgmtBlockWrite bytes pecOk s) :=
  outInv_ite (outInv_ite (outInv_next (violation_inv _ _ _ _ _ hI)) (outInv_ite (outInv_next (violation_inv _ _ _ _ _ hI))
    (outInv_ite (outInv_next (wakeCores_inv _ (modMbx_inv _ _ hI))) (outInv_next hI)))) (outInv_next hI)

theorem execMgmtBlockRead_inv : OutInv (execMgmtBlockRead s) := outInv_ite (outInv_next (modMbx_inv _ _ hI)) (outInv_next hI)

theorem execMgmtAddressMatch_inv {addr : BitVec 7} : OutInv (execMgmtAddressMatch addr s) :=
  outInv_ite (outInv_next (wakeSource_inv _ _ hI)) (outInv_next hI)

theorem execCommandDone_inv {seq : U32} : OutInv (execCommandDone seq s) := by
  unfold execCommandDone
  dsimp only
  split
  · exact outInv_next hI
  · split
    · exact outInv_next hI
    · exact outInv_next (commandDone_inv _ _ _ hI)

theorem execMervanRelayReceived_inv {src : U8} {body : RelayBody} : OutInv (execMervanRelayReceived src body s) := by
  unfold execMervanRelayReceived
  refine outInv_ite (outInv_next hI) ?_
  split
  · exact outInv_next (wakeCores_inv _ (modMbx_inv _ _ hI))
  · split
    · exact outInv_next (relayAnswer_inv _ _ _ _ _ _ _ hI)
    · split
      · exact outInv_ite (outInv_next (finish_inv _ _ _ hI)) (outInv_next (finish_inv _ _ _ hI))
      · exact outInv_next (modDiag_inv _ _ hI)
  · exact outInv_ite (outInv_next (writeEvent_inv _ _ hI)) (outInv_next hI)

theorem execRelayTimeout_inv {tag : BitVec 6} : OutInv (execRelayTimeout tag s) := by
  unfold execRelayTimeout
  dsimp only
  split
  · exact outInv_next (finish_inv _ _ _ hI)
  · exact outInv_next hI

theorem execPresenceHold_inv : OutInv (execPresenceHold s) :=
  outInv_ite (outInv_ite (outInv_next hI.update) (outInv_next (raise_inv _ _ _ (setIrq_inv _ _ hI.update)))) (outInv_next hI)

theorem execPresenceWindowExpiry_inv : OutInv (execPresenceWindowExpiry s) :=
  outInv_ite (outInv_next (closeWindow_inv _ hI)) (outInv_next hI)

theorem execSealTest_inv {pass : Bool} : OutInv (execSealTest pass s) := outInv_ite (outInv_next hI.update) (outInv_next hI)

theorem execSealLoopOpen_inv : OutInv (execSealLoopOpen s) :=
  outInv_ite (outInv_next (abandonGated_inv _ (raise_inv _ _ _ (setIrq_inv _ _
    (inv_ite hI.update (journalAppend_inv _ _ _ _ _ hI.update)))))) (outInv_next hI)

theorem execSealLoopClosed_inv : OutInv (execSealLoopClosed s) := outInv_ite (outInv_next hI.update) (outInv_next hI)

end

end Sys2Proof.Machine
end

section
/-! SUPPORT. The invariant is kept by every step. -/
namespace Sys2Proof.Machine

/-- Every command of the table keeps the invariant: case by case, the lemma of its row. -/
theorem exec_inv (i : Instr) {s : State} (hI : Inv s.dev) : OutInv (exec i s) := by
  cases i with
  | sysNop => exact execSysNop_inv hI
  | sysIdentify => exact execSysIdentify_inv hI
  | sysRing => exact execSysRing_inv hI
  | sysConfig => exact execSysConfig_inv hI
  | sysResult => exact execSysResult_inv hI
  | sysLatchedRead => exact execSysLatchedRead_inv hI
  | sysViolationRead => exact execSysViolationRead_inv hI
  | sysViolationClear => exact execSysViolationClear_inv hI
  | sysPartnerRelease => exact execSysPartnerRelease_inv hI
  | sysRoles => exact execSysRoles_inv hI
  | sysPresence => exact execSysPresence_inv hI
  | sysReseal => exact execSysReseal_inv hI
  | sysFwUpdate => exact execSysFwUpdate_inv hI
  | sysNvErase => exact execSysNvErase_inv hI
  | sysPeek => exact execSysPeek_inv hI
  | sysNvStatus => exact execSysNvStatus_inv hI
  | sysNvSet => exact execSysNvSet_inv hI
  | foragerCopy => exact execForagerCopy_inv hI
  | foragerStatus => exact execForagerStatus_inv hI
  | jobStage => exact execJobStage_inv hI
  | jobCommit => exact execJobCommit_inv hI
  | jobAppend => exact execJobAppend_inv hI
  | jobCancel => exact execJobCancel_inv hI
  | jobStop => exact execJobStop_inv hI
  | jobStatus => exact execJobStatus_inv hI
  | posConfig => exact execPosConfig_inv hI
  | posStatus => exact execPosStatus_inv hI
  | posSet => exact execPosSet_inv hI
  | sheetConfig => exact execSheetConfig_inv hI
  | lineConfig => exact execLineConfig_inv hI
  | lineInhibit => exact execLineInhibit_inv hI
  | headLink => exact execHeadLink_inv hI
  | headStatus => exact execHeadStatus_inv hI
  | headEcho => exact execHeadEcho_inv hI
  | headSafe => exact execHeadSafe_inv hI
  | headWitness => exact execHeadWitness_inv hI
  | waveLoad => exact execWaveLoad_inv hI
  | waveTrim => exact execWaveTrim_inv hI
  | waveLimits => exact execWaveLimits_inv hI
  | waveConfig => exact execWaveConfig_inv hI
  | dacCalibrate => exact execDacCalibrate_inv hI
  | dacStatus => exact execDacStatus_inv hI
  | dacRotation => exact execDacRotation_inv hI
  | hvConfig => exact execHvConfig_inv hI
  | hvPower => exact execHvPower_inv hI
  | hvLimits => exact execHvLimits_inv hI
  | hvStatus => exact execHvStatus_inv hI
  | screenStatus => exact execScreenStatus_inv hI
  | subLoad => exact execSubLoad_inv hI
  | subRead => exact execSubRead_inv hI
  | screenCapture => exact execScreenCapture_inv hI
  | captureTimeout => exact execCaptureTimeout_inv hI
  | camConfig => exact execCamConfig_inv hI
  | camRun => exact execCamRun_inv hI
  | camSettings => exact execCamSettings_inv hI
  | camSchedule => exact execCamSchedule_inv hI
  | camStream => exact execCamStream_inv hI
  | camRelease => exact execCamRelease_inv hI
  | camTables => exact execCamTables_inv hI
  | camDarkCal => exact execCamDarkCal_inv hI
  | camWhiteCal => exact execCamWhiteCal_inv hI
  | camFocus => exact execCamFocus_inv hI
  | camBand => exact execCamBand_inv hI
  | camStats => exact execCamStats_inv hI
  | camCci => exact execCamCci_inv hI
  | camStatus => exact execCamStatus_inv hI
  | loopConfig => exact execLoopConfig_inv hI
  | loopColour => exact execLoopColour_inv hI
  | modelLoad => exact execModelLoad_inv hI
  | loopEnable => exact execLoopEnable_inv hI
  | loopStatus => exact execLoopStatus_inv hI
  | loopRead => exact execLoopRead_inv hI
  | loopReset => exact execLoopReset_inv hI
  | loopCheckConfig => exact execLoopCheckConfig_inv hI
  | loopCheckRead => exact execLoopCheckRead_inv hI
  | fabricConfig => exact execFabricConfig_inv hI
  | fabricStatus => exact execFabricStatus_inv hI
  | fabricRoutes => exact execFabricRoutes_inv hI
  | fabricFixId => exact execFabricFixId_inv hI
  | fabricDiscover => exact execFabricDiscover_inv hI
  | fabricPing => exact execFabricPing_inv hI
  | redStatus => exact execRedStatus_inv hI
  | redAssign => exact execRedAssign_inv hI
  | redPromote => exact execRedPromote_inv hI
  | redDrill => exact execRedDrill_inv hI
  | redReadmit => exact execRedReadmit_inv hI
  | redReconcile => exact execRedReconcile_inv hI
  | pwrState => exact execPwrState_inv hI
  | pwrStatus => exact execPwrStatus_inv hI
  | pwrIdle => exact execPwrIdle_inv hI
  | thmConfig => exact execThmConfig_inv hI
  | thmStatus => exact execThmStatus_inv hI
  | memStatus => exact execMemStatus_inv hI
  | memFreq => exact execMemFreq_inv hI
  | memTrain => exact execMemTrain_inv hI
  | memFence => exact execMemFence_inv hI
  | memQos => exact execMemQos_inv hI
  | memRowhammer => exact execMemRowhammer_inv hI
  | memScrub => exact execMemScrub_inv hI
  | memErrors => exact execMemErrors_inv hI
  | laneConfig => exact execLaneConfig_inv hI
  | laneStatus => exact execLaneStatus_inv hI
  | laneRetrain => exact execLaneRetrain_inv hI
  | lanePrbs => exact execLanePrbs_inv hI
  | czCompress => exact execCzCompress_inv hI
  | czDecompress => exact execCzDecompress_inv hI
  | czDictReset => exact execCzDictReset_inv hI
  | czStatus => exact execCzStatus_inv hI
  | crcConfig => exact execCrcConfig_inv hI
  | crcRead => exact execCrcRead_inv hI
  | crcWrite => exact execCrcWrite_inv hI
  | crcEnable => exact execCrcEnable_inv hI
  | szStatus => exact execSzStatus_inv hI
  | szMap => exact execSzMap_inv hI
  | mbxCmdTailWrite => exact execMbxCmdTailWrite_inv hI
  | mbxRspHeadWrite => exact execMbxRspHeadWrite_inv hI
  | mbxEvtHeadWrite => exact execMbxEvtHeadWrite_inv hI
  | irqStatusWrite => exact execIrqStatusWrite_inv hI
  | irqHoldoffExpiry => exact execIrqHoldoffExpiry_inv hI
  | pwrWakeWrite => exact execPwrWakeWrite_inv hI
  | pwrPadReleaseWrite => exact execPwrPadReleaseWrite_inv hI
  | prsCloseWrite => exact execPrsCloseWrite_inv hI
  | diagClearWrite => exact execDiagClearWrite_inv hI
  | registerWrite => exact execRegisterWrite_inv hI
  | bar2Access => exact execBar2Access_inv hI
  | sz6WindowAccess => exact execSz6WindowAccess_inv hI
  | mgmtBlockWrite => exact execMgmtBlockWrite_inv hI
  | mgmtBlockRead => exact execMgmtBlockRead_inv hI
  | mgmtAddressMatch => exact execMgmtAddressMatch_inv hI
  | commandDone => exact execCommandDone_inv hI
  | mervanRelayReceived => exact execMervanRelayReceived_inv hI
  | relayTimeout => exact execRelayTimeout_inv hI
  | resetNRise => exact execResetNRise_inv hI
  | bootImageVerified => exact execBootImageVerified_inv hI
  | bootWatchdog => exact execBootWatchdog_inv hI
  | booted => exact execBooted_inv hI
  | roleListenExpiry => exact execRoleListenExpiry_inv hI
  | pwrGoodLow => exact execPwrGoodLow_inv hI
  | vioLow => exact execVioLow_inv hI
  | vioRestored => exact execVioRestored_inv hI
  | clockFault => exact execClockFault_inv hI
  | clockFaultReset => exact execClockFaultReset_inv hI
  | wakeNLow => exact execWakeNLow_inv hI
  | idleEntry => exact execIdleEntry_inv hI
  | idleExit => exact execIdleExit_inv hI
  | domainDrained => exact execDomainDrained_inv hI
  | drainTimeout => exact execDrainTimeout_inv hI
  | presenceHold => exact execPresenceHold_inv hI
  | presenceWindowExpiry => exact execPresenceWindowExpiry_inv hI
  | sealTest => exact execSealTest_inv hI
  | sealLoopOpen => exact execSealLoopOpen_inv hI
  | sealLoopClosed => exact execSealLoopClosed_inv hI
  | sensorConversion => exact execSensorConversion_inv hI
  | sensorFailed => exact execSensorFailed_inv hI
  | sensorDisagreeTimeout => exact execSensorDisagreeTimeout_inv hI
  | throttleRise => exact execThrottleRise_inv hI
  | throttleFall => exact execThrottleFall_inv hI
  | thermalTrip => exact execThermalTrip_inv hI
  | thermalRestart => exact execThermalRestart_inv hI
  | checkpointTimer => exact execCheckpointTimer_inv hI
  | checkpointCommitted => exact execCheckpointCommitted_inv hI
  | flashEraseDone => exact execFlashEraseDone_inv hI
  | journalCompaction => exact execJournalCompaction_inv hI
  | epochRecordCommitted => exact execEpochRecordCommitted_inv hI
  | encoderCount => exact execEncoderCount_inv hI
  | encoderFaulted => exact execEncoderFaulted_inv hI
  | encoderWindowEnd => exact execEncoderWindowEnd_inv hI
  | indexPulse => exact execIndexPulse_inv hI
  | encoderStall => exact execEncoderStall_inv hI
  | pdEdge => exact execPdEdge_inv hI
  | pdConfirmTimeout => exact execPdConfirmTimeout_inv hI
  | sheetOpenNoticeReceived _ input => exact execSheetOpenNoticeReceived_inv (input := input) hI
  | wposSampleBroadcast => exact execWposSampleBroadcast_inv hI
  | wposSampleReceived => exact execWposSampleReceived_inv hI
  | positionLost => exact execPositionLost_inv hI
  | deputyTakeover => exact execDeputyTakeover_inv hI
  | overRateDetect => exact execOverRateDetect_inv hI
  | speedLimitRelease => exact execSpeedLimitRelease_inv hI
  | lineCommit => exact execLineCommit_inv hI
  | fireCellStart => exact execFireCellStart_inv hI
  | nullLineKeepalive => exact execNullLineKeepalive_inv hI
  | scheduleReceived => exact execScheduleReceived_inv hI
  | readyReceived _ _ _ reason => exact execReadyReceived_inv (reason := reason) hI
  | decisionPoint => exact execDecisionPoint_inv hI
  | goReceived => exact execGoReceived_inv hI
  | goAckReceived => exact execGoAckReceived_inv hI
  | abortDeadline => exact execAbortDeadline_inv hI
  | abortReceived => exact execAbortReceived_inv hI
  | cancelReceived => exact execCancelReceived_inv hI
  | changeWpos => exact execChangeWpos_inv hI
  | repeatBoundary => exact execRepeatBoundary_inv hI
  | bandCloseNoticeReceived => exact execBandCloseNoticeReceived_inv hI
  | bandNoticePitch => exact execBandNoticePitch_inv hI
  | bandBoundary => exact execBandBoundary_inv hI
  | repeatDue => exact execRepeatDue_inv hI
  | blockFetch => exact execBlockFetch_inv hI
  | blockDecompressed => exact execBlockDecompressed_inv hI
  | decompressorResume => exact execDecompressorResume_inv hI
  | screenLine => exact execScreenLine_inv hI
  | shadowBankLoad => exact execShadowBankLoad_inv hI
  | shadowBankLoadDone => exact execShadowBankLoadDone_inv hI
  | statusReportReceived => exact execStatusReportReceived_inv hI
  | statusIdentReceived => exact execStatusIdentReceived_inv hI
  | statusEchoReceived => exact execStatusEchoReceived_inv hI
  | statusWitnessReceived => exact execStatusWitnessReceived_inv hI
  | controlReplyTimeout => exact execControlReplyTimeout_inv hI
  | statusSilent => exact execStatusSilent_inv hI
  | fhlCrcBurst => exact execFhlCrcBurst_inv hI
  | headSafeNFall => exact execHeadSafeNFall_inv hI
  | headSafeNRise => exact execHeadSafeNRise_inv hI
  | adapterPowerUp => exact execAdapterPowerUp_inv hI
  | adapterLineCell => exact execAdapterLineCell_inv hI
  | adapterFireCell => exact execAdapterFireCell_inv hI
  | adapterFireTrigger => exact execAdapterFireTrigger_inv hI
  | adapterControlCell => exact execAdapterControlCell_inv hI
  | adapterHeadSafe => exact execAdapterHeadSafe_inv hI
  | adapterReportTimer => exact execAdapterReportTimer_inv hI
  | rotationTimer => exact execRotationTimer_inv hI
  | handover => exact execHandover_inv hI
  | calibrationRunDone => exact execCalibrationRunDone_inv hI
  | monitorVisit => exact execMonitorVisit_inv hI
  | pmbusStatusPoll => exact execPmbusStatusPoll_inv hI
  | pmbusTelemetryPoll => exact execPmbusTelemetryPoll_inv hI
  | pmbAlert => exact execPmbAlert_inv hI
  | hvStepGood => exact execHvStepGood_inv hI
  | pgTimeout => exact execPgTimeout_inv hI
  | pmbStretch => exact execPmbStretch_inv hI
  | pmbSilent => exact execPmbSilent_inv hI
  | camTrigger => exact execCamTrigger_inv hI
  | sensorSilent => exact execSensorSilent_inv hI
  | csiFrameStart => exact execCsiFrameStart_inv hI
  | csiLongPacket => exact execCsiLongPacket_inv hI
  | csiCrcBurst => exact execCsiCrcBurst_inv hI
  | csiFrameEnd => exact execCsiFrameEnd_inv hI
  | pipelineLine => exact execPipelineLine_inv hI
  | calTimerTrigger => exact execCalTimerTrigger_inv hI
  | cciTransactionDone => exact execCciTransactionDone_inv hI
  | cciStretch => exact execCciStretch_inv hI
  | cciSilent => exact execCciSilent_inv hI
  | proxyRecordSend => exact execProxyRecordSend_inv hI
  | proxyRecordReceived => exact execProxyRecordReceived_inv hI
  | spanRecordReceived => exact execSpanRecordReceived_inv hI
  | loopSolveDone => exact execLoopSolveDone_inv hI
  | correctionRecordReceived => exact execCorrectionRecordReceived_inv hI
  | stripRecordSend => exact execStripRecordSend_inv hI
  | stripAnalysis => exact execStripAnalysis_inv hI
  | dictMessageReceived => exact execDictMessageReceived_inv hI
  | streamNoticeReceived => exact execStreamNoticeReceived_inv hI
  | compressorResume => exact execCompressorResume_inv hI
  | crcSegment => exact execCrcSegment_inv hI
  | dramRequest => exact execDramRequest_inv hI
  | refreshDue => exact execRefreshDue_inv hI
  | refreshWindow => exact execRefreshWindow_inv hI
  | mr4Read => exact execMr4Read_inv hI
  | dqsTracking => exact execDqsTracking_inv hI
  | scrubRead => exact execScrubRead_inv hI
  | dramCorrectedReport => exact execDramCorrectedReport_inv hI
  | deferredTrainingStart => exact execDeferredTrainingStart_inv hI
  | trainingHoldExpiry => exact execTrainingHoldExpiry_inv hI
  | trainingDone => exact execTrainingDone_inv hI
  | lossOfSignal => exact execLossOfSignal_inv hI
  | codeErrorBurst => exact execCodeErrorBurst_inv hI
  | eqFreeze => exact execEqFreeze_inv hI
  | eqResume => exact execEqResume_inv hI
  | electricalIdleEntry => exact execElectricalIdleEntry_inv hI
  | electricalIdleNotice => exact execElectricalIdleNotice_inv hI
  | wakeBurstTimer => exact execWakeBurstTimer_inv hI
  | wakeBurstMissing => exact execWakeBurstMissing_inv hI
  | laneAttemptStart => exact execLaneAttemptStart_inv hI
  | trainingPhaseTimeout => exact execTrainingPhaseTimeout_inv hI
  | partnerT1Detected => exact execPartnerT1Detected_inv hI
  | trainingWordReceived => exact execTrainingWordReceived_inv hI
  | peppercornTestEnd => exact execPeppercornTestEnd_inv hI
  | helloTimer => exact execHelloTimer_inv hI
  | helloReceived => exact execHelloReceived_inv hI
  | rootElectionTimeout => exact execRootElectionTimeout_inv hI
  | joinReceived => exact execJoinReceived_inv hI
  | idAssignment => exact execIdAssignment_inv hI
  | assignReceived => exact execAssignReceived_inv hI
  | linkChangeReceived => exact execLinkChangeReceived_inv hI
  | dataFrameReceived => exact execDataFrameReceived_inv hI
  | unreachableReceived => exact execUnreachableReceived_inv hI
  | creditReceived => exact execCreditReceived_inv hI
  | creditInitReceived => exact execCreditInitReceived_inv hI
  | creditGrantTimer => exact execCreditGrantTimer_inv hI
  | auditReceived => exact execAuditReceived_inv hI
  | auditReplyReceived => exact execAuditReplyReceived_inv hI
  | auditResend => exact execAuditResend_inv hI
  | ackReceived => exact execAckReceived_inv hI
  | nakReceived => exact execNakReceived_inv hI
  | ackTimer => exact execAckTimer_inv hI
  | replayTimeout => exact execReplayTimeout_inv hI
  | replayBudget => exact execReplayBudget_inv hI
  | srcSeqGapTimeout => exact execSrcSeqGapTimeout_inv hI
  | timeReqTimer => exact execTimeReqTimer_inv hI
  | timeReqReceived => exact execTimeReqReceived_inv hI
  | timeRespReceived => exact execTimeRespReceived_inv hI
  | timeUnlockTimeout => exact execTimeUnlockTimeout_inv hI
  | neighbourSilent => exact execNeighbourSilent_inv hI
  | portFlap => exact execPortFlap_inv hI
  | partnerIsolated => exact execPartnerIsolated_inv hI
  | roleAssignmentTimer => exact execRoleAssignmentTimer_inv hI
  | roleAssignmentReceived => exact execRoleAssignmentReceived_inv hI
  | roleHolderTimeout => exact execRoleHolderTimeout_inv hI
  | heartbeatTimer => exact execHeartbeatTimer_inv hI
  | hboEdgeTimer => exact execHboEdgeTimer_inv hI
  | heartbeatReceived => exact execHeartbeatReceived_inv hI
  | hbiEdge => exact execHbiEdge_inv hI
  | pathSilent => exact execPathSilent_inv hI
  | witnessDecision => exact execWitnessDecision_inv hI
  | witnessRequery => exact execWitnessRequery_inv hI
  | promotionSelfTestDone => exact execPromotionSelfTestDone_inv hI
  | reconciliationDone => exact execReconciliationDone_inv hI
  | stateFrameReceived => exact execStateFrameReceived_inv hI
  | mirrorFrameReceived => exact execMirrorFrameReceived_inv hI
  | needFullReceived => exact execNeedFullReceived_inv hI
  | pairControlReceived => exact execPairControlReceived_inv hI
  | handoverReceived _ snap => exact execHandoverReceived_inv (snap := snap) hI
  | handoverReplyReceived => exact execHandoverReplyReceived_inv hI
  | snapshotTimer => exact execSnapshotTimer_inv hI
  | staleTimer => exact execStaleTimer_inv hI
  | mirrorAckTimer => exact execMirrorAckTimer_inv hI
  | resetNFall => exact execResetNFall_inv hI
  | pwrGoodHigh => exact execPwrGoodHigh_inv hI
  | xoRestored => exact execXoRestored_inv hI
  | foragerReadDone => exact execForagerReadDone_inv hI
  | blockCompressed => exact execBlockCompressed_inv hI
  | flashProgramDone => exact execFlashProgramDone_inv hI
  | onDelayExpiry => exact execOnDelayExpiry_inv hI
  | cdrLock => exact execCdrLock_inv hI
  | receiverAdapted => exact execReceiverAdapted_inv hI
  | lp11Detected => exact execLp11Detected_inv hI
  | pcieLinkUp => exact execPcieLinkUp_inv hI

/-- One cycle of CLK_DP or the front command keeps the invariant. -/
theorem step_inv {s : State} (hI : Inv s.dev) : OutInv (step s) := by
  unfold step
  split
  · exact tick_inv _ hI
  · exact exec_inv _ hI

/-- Settles O49: a step is a tick or the front command, and either keeps the invariant (`tick_inv`, `exec_inv`). -/
theorem everyStepKeepsTheInvariant : Obligations.EveryStepKeepsTheInvariant := by
  intro s t hI hstep
  have hout := step_inv hI
  rw [hstep] at hout
  exact hout

end Sys2Proof.Machine
end

section
/-! SUPPORT. The rules of the job commands, of the job change protocol, of the feed and of screening (R38 to R57, R63 to R84): each command
runs its own rule once it is accepted, and each row answers the next state of its own effect. -/
namespace Sys2Proof.Machine

/-! Job commands -/

/-- A command whose meaning is its rule's effect for all arguments runs that effect once it is accepted, whatever the rule's condition. -/
theorem Rule.runs_of {r : Rule} {i : Cmd → Instr} (he : ∀ c s, exec (i c) s = mervan r.sig r.out c s) {s : State} {c : Cmd} {d : Device}
    {a : List Int} (h : accepted r.sig c s.dev = some (d, a)) : exec (i c) s = .next { s with dev := settle r.sig c (r.out c a d) } :=
  (he c s).trans (mervan_accepted r.out h)

theorem Rule.holds_of_out {r : Rule} {i : Cmd → Instr} (he : ∀ c s, exec (i c) s = mervan r.sig r.out c s) : r.Holds i :=
  fun _ _ _ _ h _ => Rule.runs_of he h

/-- Under the rule's condition neither of the refusals that come before the structure is read applies; from there on the rule's effect is
job.stage's own (Table 2.11). -/
theorem jobStageRule_holds : jobStageRule.Holds .jobStage := by
  refine Rule.holds_of (fun _ _ => rfl) (fun c a d hcan => ?_)
  simp only [jobStageRule, Bool.and_eq_true, Bool.not_eq_true', decide_eq_false_iff_not] at hcan
  obtain ⟨⟨hside, haligned⟩, -⟩ := hcan
  exact (if_neg (by simp [hside])).trans (if_neg haligned)

theorem jobCommit_eq_mervan (c : Cmd) (s : State) : exec (.jobCommit c) s = mervan jobCommitRule.sig jobCommitRule.out c s := rfl

theorem jobCommitRule_holds : jobCommitRule.Holds .jobCommit := Rule.holds_of_out jobCommit_eq_mervan

theorem jobAppendRule_holds : jobAppendRule.Holds .jobAppend := Rule.holds_of_out (fun _ _ => rfl)

theorem jobCancelRule_holds : jobCancelRule.Holds .jobCancel := Rule.holds_of_out (fun _ _ => rfl)

theorem jobStopRule_holds : jobStopRule.Holds .jobStop := Rule.holds_of_out (fun _ _ => rfl)

theorem jobStatusRule_holds : jobStatusRule.Holds .jobStatus := Rule.holds_of_out (fun _ _ => rfl)

/-- Settles O11: the rule of each job command holds. -/
theorem jobCommandsComplete : Obligations.JobCommandsComplete :=
  ⟨jobStageRule_holds, jobCommitRule_holds, jobAppendRule_holds, jobCancelRule_holds, jobStopRule_holds, jobStatusRule_holds⟩

/-- Off the position master job.commit turns away before it looks at the job, whether one is staged or not (R51). -/
theorem jobCommitRule_out_of_not_master (c : Cmd) (a : List Int) {d : Device} (hrole : d.pos.role ≠ .master) :
    jobCommitRule.out c a d = no d .refused .notPositionMaster := by
  have hother : (d.pos.role != .master) = true := by simpa using hrole
  simp only [jobCommitRule, hother, if_true]
  split <;> rfl

/-- Settles O53: an accepted job.commit runs its rule, which refuses it on any device but the position master. -/
theorem onlyThePositionMasterCommits : Obligations.OnlyThePositionMasterCommits := by
  intro s c d a haccepted hrole
  rw [Rule.runs_of jobCommit_eq_mervan haccepted, jobCommitRule_out_of_not_master c a hrole]

/-! Job change -/

theorem scheduleReceivedRule_holds (jobId : U32) (w : U64) (postponements : U8) :
    (scheduleReceivedRule jobId w postponements).Holds (.scheduleReceived jobId w postponements) := by
  intro s hc
  obtain ⟨htakes, hholds⟩ := Bool.and_eq_true_iff.mp hc
  exact (ite_of_not htakes).trans (congrArg (fun d => next s (reportReady jobId d)) (ite_of_not hholds))

theorem readyReceivedRule_holds (node : U8) (jobId : U32) (isReady : Bool) (reason : U32) :
    (readyReceivedRule node jobId isReady reason).Holds (.readyReceived node jobId isReady reason) := by
  intro s _
  show execReadyReceived node jobId isReady reason s = _
  cases hchange : s.dev.jobs.change <;> simp only [execReadyReceived, readyReceivedRule, hchange, next_eq]

theorem decisionPointRule_holds : decisionPointRule.Holds .decisionPoint := by
  intro s hc
  show execDecisionPoint s = _
  cases hchange : s.dev.jobs.change with
  | none => simp [decisionPointRule, hchange] at hc
  | some c =>
    have hdecides : (!posOn s.dev || !active s.dev || s.dev.pos.role != .master || c.go || !reachedWith s.dev 5000000 c.w.toNat) = false := by
      simpa [decisionPointRule, hchange, and_assoc] using hc
    simp only [execDecisionPoint, decisionPointRule, hchange, hdecides, Bool.false_eq_true, if_false, next_eq]
    split <;> rfl

theorem goReceivedRule_holds (jobId : U32) (w : U64) : (goReceivedRule jobId w).Holds (.goReceived jobId w) := by
  intro s _
  show execGoReceived jobId w s = _
  cases hchange : s.dev.jobs.change with
  | none => simp only [execGoReceived, goReceivedRule, hchange, next_eq]
  | some c =>
    cases hmaster : masterNode s.dev with
    | none => simp only [execGoReceived, goReceivedRule, hchange, hmaster, next_eq]
    | some m =>
      simp only [execGoReceived, goReceivedRule, hchange, hmaster, next_eq]
      split <;> rfl

theorem goAckReceivedRule_holds (node : U8) (jobId : U32) (w : U64) : (goAckReceivedRule node jobId w).Holds (.goAckReceived node jobId w) := by
  intro s _
  show execGoAckReceived node jobId w s = _
  cases hchange : s.dev.jobs.change with
  | none => simp only [execGoAckReceived, goAckReceivedRule, hchange, next_eq]
  | some c =>
    simp only [execGoAckReceived, goAckReceivedRule, hchange, next_eq]
    split <;> rfl

theorem abortDeadlineRule_holds : abortDeadlineRule.Holds .abortDeadline := by
  intro s hc
  show execAbortDeadline s = _
  cases hchange : s.dev.jobs.change with
  | none => simp [abortDeadlineRule, hchange] at hc
  | some c =>
    cases hstart : changeStart s.dev c with
    | none => simp [abortDeadlineRule, hchange, hstart] at hc
    | some w =>
      have hdue : (!posOn s.dev || s.dev.pos.role != .master || !c.go || c.proof || !reachedWith s.dev 2000000 w) = false := by
        simpa [abortDeadlineRule, hchange, hstart, and_assoc] using hc
      simp only [execAbortDeadline, abortDeadlineRule, hchange, hstart, hdue, Bool.false_eq_true, if_false, next_eq]
      split <;> rfl

theorem abortReceivedRule_holds (jobId : U32) (w : U64) : (abortReceivedRule jobId w).Holds (.abortReceived jobId w) := by
  intro s _
  show execAbortReceived jobId w s = _
  cases hchange : s.dev.jobs.change with
  | none => simp only [execAbortReceived, abortReceivedRule, hchange, next_eq]
  | some c =>
    simp only [execAbortReceived, abortReceivedRule, hchange, next_eq]
    split <;> rfl

theorem cancelReceivedRule_holds (jobId : U32) : (cancelReceivedRule jobId).Holds (.cancelReceived jobId) := by
  intro s _
  show execCancelReceived jobId s = _
  cases hchange : s.dev.jobs.change <;> simp only [execCancelReceived, cancelReceivedRule, hchange, next_eq]

/-- Settles O12: the rule of each row of the job change protocol holds. -/
theorem jobChangeComplete : Obligations.JobChangeComplete :=
  ⟨scheduleReceivedRule_holds, readyReceivedRule_holds, decisionPointRule_holds, goReceivedRule_holds, goAckReceivedRule_holds,
    abortDeadlineRule_holds, abortReceivedRule_holds, cancelReceivedRule_holds⟩

/-! Feed -/

theorem repeatDueRule_holds : repeatDueRule.Holds .repeatDue := by
  intro s hc
  simp only [repeatDueRule, Bool.and_eq_true] at hc
  obtain ⟨⟨htakes, hserves⟩, hreached⟩ := hc
  refine (if_neg (by simp [htakes, hserves])).trans ?_
  cases hdue : dueNext s.dev with
  | none => simp [hdue] at hreached
  | some due =>
    simp only [hdue] at hreached
    simp only [repeatDueRule, hdue, hreached, if_true, next_eq]

theorem blockFetchRule_holds (plane : Plane) : (blockFetchRule plane).Holds (.blockFetch plane) := by
  intro s hc
  obtain ⟨hfree, hplace⟩ := Bool.and_eq_true_iff.mp hc
  refine (ite_of_not hfree).trans ?_
  cases hnext : fetchPlace s.dev plane with
  | none => simp [hnext] at hplace
  | some place =>
    simp only [hnext, Bool.and_eq_true, Bool.not_eq_true', decide_eq_false_iff_not] at hplace
    simp only [blockFetchRule, hnext, next_eq]
    exact if_neg (by simpa using hplace)

theorem blockDecompressedRule_holds (plane : Plane) : (blockDecompressedRule plane).Holds (.blockDecompressed plane) := by
  intro s hc
  show execBlockDecompressed plane s = _
  cases hfetching : s.dev.feed.rings[plane].fetching with
  | none =>
    simp only [blockDecompressedRule, hfetching] at hc
    cases hc
  | some block =>
    simp only [blockDecompressedRule, hfetching, Bool.and_eq_true, Bool.not_eq_true'] at hc
    obtain ⟨⟨hon, hruns⟩, hends⟩ := hc
    simp only [execBlockDecompressed, blockDecompressedRule, hfetching, next_eq]
    refine (if_neg (by simp only [hon, hruns]; decide)).trans ?_
    cases hrun : (if block.1.ok then fkzRun block.2 (ringRoom s.dev plane) s.dev.feed.rings[plane].place else .ended .check) with
    | held place =>
      rw [hrun] at hends
      cases hends
    | ended outcome => rfl

theorem decompressorResumeRule_holds (engine : Fin 8) (free : Nat) :
    (decompressorResumeRule engine free).Holds (.decompressorResume engine free) := fun _ hc => ite_of_not hc

/-! Screening -/

theorem screenLineRule_holds (h : Head) : (screenLineRule h).Holds (.screenLine h) := fun _ hc => if_pos hc

theorem captureTimeoutRule_holds (seq : U32) : (captureTimeoutRule seq).Holds (.captureTimeout seq) := by
  intro s _
  show execCaptureTimeout seq s = _
  cases hcapture : s.dev.mbx.inFlight.find? (fun e => e.seq == seq && !e.async && e.work.isCapture) <;>
    simp only [execCaptureTimeout, captureTimeoutRule, hcapture, next_eq]

theorem screenStatusRule_holds : screenStatusRule.Holds .screenStatus := Rule.holds_of_out (fun _ _ => rfl)

theorem subReadRule_holds : subReadRule.Holds .subRead := Rule.holds_of_out (fun _ _ => rfl)

/-- An image without a fault goes to its load, which is the rule's effect; the rest of the rule's condition is the load's own (R83). -/
theorem subLoadRule_holds : subLoadRule.Holds .subLoad := by
  refine Rule.holds_of (fun _ _ => rfl) (fun c a d hcan => ?_)
  obtain ⟨hsound, -⟩ := Bool.and_eq_true_iff.mp hcan
  rw [Option.isNone_iff_eq_none] at hsound
  simp only [hsound, subLoadRule]

theorem screenCaptureRule_holdsAt (s : State) : (screenCaptureRule s.dev).HoldsAt .screenCapture s := by
  refine Rule.holdsAt_of (fun _ => rfl) (fun c a d hcan => ?_)
  simp only [screenCaptureRule, Bool.and_eq_true] at hcan
  obtain ⟨⟨hhead, hruns⟩, hcomes⟩ := hcan
  exact (if_neg (by simp [hhead])).trans ((if_neg (by simp [hruns])).trans (ite_of_not hcomes))

/-- Settles O14: the rule of each row of the feed and of screening, and of each screening command, holds. -/
theorem feedAndScreenComplete : Obligations.FeedAndScreenComplete :=
  ⟨repeatDueRule_holds, blockFetchRule_holds, blockDecompressedRule_holds, decompressorResumeRule_holds, screenLineRule_holds,
    captureTimeoutRule_holds, screenStatusRule_holds, subLoadRule_holds, subReadRule_holds, screenCaptureRule_holdsAt⟩

end Sys2Proof.Machine
end

section
/-! SUPPORT. The widening of contone samples to the working density (R61): one lemma per format, from which the bound on the working density
and its value at full tone follow. -/
namespace Sys2Proof.Machine

theorem widen_8bit {pc : PlaneCfg} (h : pc.bits12 = false) (s : Nat) : widen pc s = s * 257 := by simp [widen, h]

/-- The model's sum is R61's bitwise or: the top four bits of a 12-bit sample, `s >>> 8`, fall into the four bits that `s <<< 4` leaves 0. -/
theorem widen_12bit {pc : PlaneCfg} (h : pc.bits12 = true) {s : Nat} (hs : s < 4096) : widen pc s = s <<< 4 ||| s >>> 8 := by
  have hlow : s >>> 8 < 2 ^ 4 := by rw [Nat.shiftRight_eq_div_pow]; omega
  rw [← Nat.shiftLeft_add_eq_or_of_lt hlow, Nat.shiftLeft_eq, Nat.shiftRight_eq_div_pow]
  simp [widen, h]

theorem widen_8bit_le {pc : PlaneCfg} (h : pc.bits12 = false) {s : Nat} (hs : s < 256) : widen pc s ≤ 65535 := by
  rw [widen_8bit h]
  omega

theorem widen_12bit_le {pc : PlaneCfg} (h : pc.bits12 = true) {s : Nat} (hs : s < 4096) : widen pc s ≤ 65535 := by
  rw [widen_12bit h hs]
  exact Nat.le_of_lt_succ (Nat.or_lt_two_pow (n := 16) (by rw [Nat.shiftLeft_eq]; omega) (by rw [Nat.shiftRight_eq_div_pow]; omega))

/-- Settles O54: each format by its own lemma, with full tone the value at the format's largest sample. -/
theorem samplesWiden : Obligations.SamplesWiden := fun _ =>
  ⟨fun h8 => ⟨fun s hs => ⟨widen_8bit h8 s, widen_8bit_le h8 hs⟩, widen_8bit h8 255⟩,
    fun h12 => ⟨fun _ hs => ⟨widen_12bit h12 hs, widen_12bit_le h12 hs⟩, widen_12bit h12 (by decide)⟩⟩

end Sys2Proof.Machine
end

section
/-! SUPPORT. The values at reset that are held per period kind and per head. -/
namespace Sys2Proof.Machine

theorem reset_latched (k : Fin 3) : State.reset.dev.acct.newest[k] = none ∧ State.reset.dev.acct.older[k] = none :=
  ⟨Vector.getElem_replicate _, Vector.getElem_replicate _⟩

theorem reset_adapter (h : Head) : State.reset.dev.adapters[h] = {} := Vector.getElem_replicate _

/-- Settles O50: the fields of the device are at their defaults, and so is every head adapter. -/
theorem resetValues : Obligations.ResetValues := by
  refine ⟨rfl, rfl, rfl, rfl, rfl, rfl, rfl, rfl, rfl, rfl, rfl, rfl, rfl, rfl, rfl, rfl, reset_latched, fun h => ?_⟩
  rw [reset_adapter h]
  exact ⟨rfl, rfl, rfl, rfl, rfl⟩

end Sys2Proof.Machine
end

section
/-! SUPPORT. The rules of the encoder rows, of the sheet and position rows and commands, and of committing and firing lines (R86 to R118): each
command runs its own rule once it is accepted, and each row answers the next state of its own effect. -/
namespace Sys2Proof.Machine

/-! Encoders -/

/-- Under the rule's condition an edge is an illegal transition, or a count of the driving encoder that moves WPOS (R87, R91). -/
theorem encoderCountRule_holds (enc : Fin 2) (edge : EncEdge) : (encoderCountRule enc edge).Holds (.encoderCount enc edge) := by
  intro s hc
  obtain ⟨hread, hmoves⟩ := Bool.and_eq_true_iff.mp hc
  refine (ite_of_not hread).trans ?_
  cases hboth : edge == .both with
  | true => simp only [encoderCountRule, hboth, if_true, next_eq]
  | false =>
    rw [hboth, Bool.false_or] at hmoves
    simp only [encoderCountRule, hboth, Bool.false_eq_true, if_false]
    exact if_pos hmoves

/-- Under the rule's condition the encoder that faults drives: the position master fails over or freezes, a deputy raises the event (R92). -/
theorem encoderFaultedRule_holds (enc : Fin 2) (why : EncFault) : (encoderFaultedRule enc why).Holds (.encoderFaulted enc why) := by
  intro s hc
  obtain ⟨hfaults, hdrives⟩ := Bool.and_eq_true_iff.mp hc
  refine (ite_of_not hfaults).trans ((if_neg (by simpa using hdrives)).trans ?_)
  simp only [encoderFaultedRule, next_eq]
  split
  · rfl
  · split <;> rfl

theorem encoderWindowEndRule_holds : encoderWindowEndRule.Holds .encoderWindowEnd := fun _ hc => ite_of_not hc

theorem indexPulseRule_holds (enc : Fin 2) : (indexPulseRule enc).Holds (.indexPulse enc) := fun _ hc => ite_of_not hc

theorem encoderStallRule_holds : encoderStallRule.Holds .encoderStall := fun _ hc => ite_of_not hc

/-- Settles O9: the rule of each encoder row holds. -/
theorem encodersComplete : Obligations.EncodersComplete :=
  ⟨encoderCountRule_holds, encoderFaultedRule_holds, encoderWindowEndRule_holds, indexPulseRule_holds, encoderStallRule_holds⟩

/-! Sheets -/

theorem pdEdgeRule_holds (input : Fin 2) (rising : Bool) : (pdEdgeRule input rising).Holds (.pdEdge input rising) := by
  intro s hc
  refine (ite_of_not hc).trans ?_
  simp only [pdEdgeRule, next_eq]
  split <;> rfl

theorem pdConfirmTimeoutRule_holds : pdConfirmTimeoutRule.Holds .pdConfirmTimeout := by
  intro s _
  show execPdConfirmTimeout s = _
  cases hconfirm : s.dev.sheet.confirm with
  | nil => simp only [execPdConfirmTimeout, pdConfirmTimeoutRule, hconfirm, next_eq]
  | cons c rest =>
    simp only [execPdConfirmTimeout, pdConfirmTimeoutRule, hconfirm, next_eq]
    split <;> rfl

theorem sheetOpenNoticeReceivedRule_holds (start : U64) (input : U8) (number : U32) :
    (sheetOpenNoticeReceivedRule start input number).Holds (.sheetOpenNoticeReceived start input number) := fun _ hc => if_pos hc

theorem sheetConfigRule_holds : sheetConfigRule.Holds .sheetConfig := Rule.holds_of (fun _ _ => rfl) (fun _ _ _ => ite_of_not)

/-! Position -/

theorem wposSampleBroadcastRule_holds : wposSampleBroadcastRule.Holds .wposSampleBroadcast := fun _ hc => if_pos hc

/-- A sample that is taken ends in the frozen position of a FAULT sample, or in WPOS that follows it (R92, R105). -/
theorem wposSampleReceivedRule_holds (sample : WposSample) : (wposSampleReceivedRule sample).Holds (.wposSampleReceived sample) := by
  intro s hc
  refine (ite_of_not ((Bool.not_not _).trans hc)).trans ?_
  simp only [wposSampleReceivedRule, next_eq]
  cases sample.fault <;> rfl

theorem positionLostRule_holds : positionLostRule.Holds .positionLost := fun _ hc => if_pos hc

theorem deputyTakeoverRule_holds : deputyTakeoverRule.Holds .deputyTakeover := fun _ hc => if_pos hc

theorem overRateDetectRule_holds (rate : Nat) : (overRateDetectRule rate).Holds (.overRateDetect rate) := fun _ hc => if_pos hc

theorem speedLimitReleaseRule_holds : speedLimitReleaseRule.Holds .speedLimitRelease := fun _ _ => rfl

/-- Under the rule's condition neither refusal of pos.config applies: the scale is in range, and no job runs where WPOS is held (R86). -/
theorem posConfigRule_holds : posConfigRule.Holds .posConfig := by
  refine Rule.holds_of (fun _ _ => rfl) (fun c a d hcan => ?_)
  obtain ⟨hscale, hidle⟩ := Bool.and_eq_true_iff.mp hcan
  exact (if_neg (by simpa using hscale)).trans (ite_of_not hidle)

theorem posStatusRule_holds : posStatusRule.Holds .posStatus := Rule.holds_of_out (fun _ _ => rfl)

/-- Under the rule's condition neither refusal of pos.set applies: the device is the position master, and no job is active (R87). -/
theorem posSetRule_holds : posSetRule.Holds .posSet := by
  refine Rule.holds_of (fun _ _ => rfl) (fun c a d hcan => ?_)
  obtain ⟨hmaster, hidle⟩ := Bool.and_eq_true_iff.mp hcan
  exact (ite_of_not hmaster).trans (ite_of_not hidle)

/-- Settles O10: the rule of each sheet and position row, and of each of their commands, holds. -/
theorem positionComplete : Obligations.PositionComplete :=
  ⟨pdEdgeRule_holds, pdConfirmTimeoutRule_holds, sheetOpenNoticeReceivedRule_holds, wposSampleBroadcastRule_holds, wposSampleReceivedRule_holds,
    positionLostRule_holds, deputyTakeoverRule_holds, overRateDetectRule_holds, speedLimitReleaseRule_holds, posConfigRule_holds,
    posStatusRule_holds, posSetRule_holds, sheetConfigRule_holds⟩

/-! Firing -/

theorem lineInhibitRule_holds : lineInhibitRule.Holds .lineInhibit := Rule.holds_of (fun _ _ => rfl) (fun _ _ _ => ite_of_not)

/-- The rule's effect is the meaning of line.config for every table, its refusals with it (R98). -/
theorem lineConfigRule_holds : lineConfigRule.Holds .lineConfig := Rule.holds_of_out (fun _ _ => rfl)

/-- Under the rule's condition the commit point of the head's next line is reached, no reason of Table 4.5 holds and the line is screened. -/
theorem lineCommitRule_holds (h : Head) : (lineCommitRule h).Holds (.lineCommit h) := by
  intro s hc
  show execLineCommit h s = _
  cases hsegs : segsOf (pullSeg h s.dev) h with
  | nil => simp [lineCommitRule, hsegs] at hc
  | cons g rest =>
    simp only [lineCommitRule, hsegs, Bool.and_eq_true, Option.isNone_iff_eq_none] at hc
    obtain ⟨⟨hdue, hskip⟩, hscreened⟩ := hc
    obtain ⟨b, hbuf⟩ := Option.isSome_iff_exists.mp (List.isSome_find?.trans hscreened)
    simp only [execLineCommit, lineCommitRule, hsegs, hdue, hskip, hbuf, Bool.not_true, Bool.false_eq_true, if_false, next_eq]

/-- Under the rule's condition the row's FIRE cell is due and next, and no reason to skip its token applies (R109, R117, R118). -/
theorem fireCellStartRule_holds (h : Head) (row : BitVec 2) : (fireCellStartRule h row).Holds (.fireCellStart h row) := by
  intro s hc
  show execFireCellStart h row s = _
  cases htoken : tokenForRow s.dev h row with
  | none => simp [fireCellStartRule, htoken] at hc
  | some t =>
    simp only [fireCellStartRule, htoken, Bool.and_eq_true, Bool.not_eq_true', Option.isNone_iff_eq_none] at hc
    obtain ⟨⟨⟨⟨⟨⟨hon, hdue⟩, hturn⟩, hskip⟩, hbarred⟩, hsoon⟩, hsent⟩ := hc
    have hfires : lowerSkip (headSkip s.dev h) (if t.barred then some .inhibit else none) = none := by rw [hskip, hbarred]; rfl
    simp only [execFireCellStart, fireCellStartRule, htoken, hon, hdue, hturn, hfires, hsoon, hsent, Bool.not_true, Bool.or_self,
      Bool.false_eq_true, if_false, next_eq]

theorem nullLineKeepaliveRule_holds (h : Head) : (nullLineKeepaliveRule h).Holds (.nullLineKeepalive h) := fun _ hc => ite_of_not hc

/-- Settles O15: the rule of each line command, commit, FIRE cell and keepalive holds. -/
theorem firingComplete : Obligations.FiringComplete :=
  ⟨lineInhibitRule_holds, lineConfigRule_holds, lineCommitRule_holds, fireCellStartRule_holds, nullLineKeepaliveRule_holds⟩

end Sys2Proof.Machine
end

section
/-! SUPPORT. The rules of the head-link commands and rows (R119 to R132, R140, R141, Table 5.10): each command runs its own rule once it is
accepted, and each row answers the next state of its own effect. -/
namespace Sys2Proof.Machine

/-! Commands -/

/-- Under the rule's condition neither refusal of head.link applies: the heads are on the variant and in no job (Table 5.12). -/
theorem headLinkRule_holds : headLinkRule.Holds .headLink := by
  refine Rule.holds_of (fun _ _ => rfl) (fun c a d hcan => ?_)
  obtain ⟨hfused, hidle⟩ := Bool.and_eq_true_iff.mp hcan
  exact (ite_of_not hfused).trans (ite_of_not hidle)

theorem headStatusRule_holds : headStatusRule.Holds .headStatus :=
  Rule.holds_of (fun _ _ => rfl) (fun _ _ _ hcan => if_neg (by simpa [headStatusRule] using hcan))

/-- Under the rule's condition neither refusal of head.echo applies: the head is on the variant, and its link takes an ECHO (Table 5.12). -/
theorem headEchoRule_holds : headEchoRule.Holds .headEcho := by
  refine Rule.holds_of (fun _ _ => rfl) (fun c a d hcan => ?_)
  obtain ⟨hhead, htakes⟩ := Bool.and_eq_true_iff.mp hcan
  exact (if_neg (by simpa using hhead)).trans (ite_of_not htakes)

theorem headSafeRule_holds : headSafeRule.Holds .headSafe := Rule.holds_of_out (fun _ _ => rfl)

/-- Under the rule's condition neither refusal of head.witness applies: the heads are on the variant, and the unit sends WITNESS (R308). -/
theorem headWitnessRule_holds : headWitnessRule.Holds .headWitness := by
  refine Rule.holds_of (fun _ _ => rfl) (fun c a d hcan => ?_)
  obtain ⟨hfused, hsends⟩ := Bool.and_eq_true_iff.mp hcan
  exact (ite_of_not hfused).trans (if_neg (by simpa using hsends))

/-! STATUS cells received -/

theorem next_ite {s : State} {c : Prop} [Decidable c] {d e : Device} : next s (if c then d else e) = if c then next s d else next s e :=
  apply_ite ..

section
variable (h : Head) (cell : StatusCell)

theorem statusReportReceivedRule_holds : (statusReportReceivedRule h cell).Holds (.statusReportReceived h cell) := by
  intro s _
  show execStatusReportReceived h cell s = _
  rcases htaken : takeStatus h 0 cell s.dev with ⟨_ | _, d⟩ <;> simp only [execStatusReportReceived, statusReportReceivedRule, htaken, next_eq]

theorem statusIdentReceivedRule_holds : (statusIdentReceivedRule h cell).Holds (.statusIdentReceived h cell) := by
  intro s _
  show execStatusIdentReceived h cell s = next s _
  rcases htaken : takeStatus h 1 cell s.dev with ⟨_ | _, d⟩
  · simp only [execStatusIdentReceived, statusIdentReceivedRule, htaken]
  · rcases hawait : d.links[h].await with _ | ⟨k, n⟩ <;>
      simp only [execStatusIdentReceived, statusIdentReceivedRule, htaken, hawait, next_ite]

theorem statusEchoReceivedRule_holds (roundTrip : U32) :
    (statusEchoReceivedRule h cell roundTrip).Holds (.statusEchoReceived h cell roundTrip) := by
  intro s _
  show execStatusEchoReceived h cell roundTrip s = next s _
  rcases htaken : takeStatus h 3 cell s.dev with ⟨_ | _, d⟩
  · simp only [execStatusEchoReceived, statusEchoReceivedRule, htaken]
  · rcases hawait : d.links[h].await with _ | ⟨k, n⟩ <;>
      simp only [execStatusEchoReceived, statusEchoReceivedRule, htaken, hawait, next_ite]

theorem statusWitnessReceivedRule_holds : (statusWitnessReceivedRule h cell).Holds (.statusWitnessReceived h cell) := by
  intro s _
  show execStatusWitnessReceived h cell s = _
  rcases htaken : takeStatus h 2 cell s.dev with ⟨_ | _, d⟩ <;> simp only [execStatusWitnessReceived, statusWitnessReceivedRule, htaken, next_eq]

end

/-! Timeouts -/

/-- Under the rule's condition a cell awaits its reply and the unit may send it: it is resent, or after the last time the link is in NO_REPLY
(R119). -/
theorem controlReplyTimeoutRule_holds (h : Head) : (controlReplyTimeoutRule h).Holds (.controlReplyTimeout h) := by
  intro s hc
  show execControlReplyTimeout h s = next s _
  cases hawait : s.dev.links[h].await with
  | none => simp only [controlReplyTimeoutRule, hawait, Option.any_none, Bool.false_eq_true] at hc
  | some e =>
    obtain ⟨k, n⟩ := e
    have hmay : mayControl (if k.subtype == 4 then unaskWitness h none s.dev else s.dev) k.subtype = true := by
      simpa only [controlReplyTimeoutRule, hawait, Option.any_some] using hc
    simp only [execControlReplyTimeout, controlReplyTimeoutRule, hawait, hmay, Bool.not_true, Bool.false_eq_true, if_false, next_ite]

theorem statusSilentRule_holds (h : Head) : (statusSilentRule h).Holds (.statusSilent h) := fun _ hc => if_pos hc

theorem fhlCrcBurstRule_holds (h : Head) : (fhlCrcBurstRule h).Holds (.fhlCrcBurst h) := fun _ hc => if_pos hc

/-! HEAD_SAFE_N -/

theorem headSafeNFallRule_holds : headSafeNFallRule.Holds .headSafeNFall := fun _ _ => rfl

theorem headSafeNRiseRule_holds : headSafeNRiseRule.Holds .headSafeNRise := fun _ hc => if_pos hc

/-- Settles O16: the rule of each head-link command and row holds. -/
theorem headLinksComplete : Obligations.HeadLinksComplete :=
  ⟨headLinkRule_holds, headStatusRule_holds, headEchoRule_holds, headSafeRule_holds, headWitnessRule_holds, statusReportReceivedRule_holds,
    statusIdentReceivedRule_holds, statusEchoReceivedRule_holds, statusWitnessReceivedRule_holds, controlReplyTimeoutRule_holds,
    statusSilentRule_holds, fhlCrcBurstRule_holds, headSafeNFallRule_holds, headSafeNRiseRule_holds⟩

end Sys2Proof.Machine
end

section
/-! SUPPORT. What the rows of a head adapter leave (R119 to R139): every one changes that adapter alone, none but power-up lowers HIGHEST_EPOCH, and
a cell below it leaves what prints. -/
namespace Sys2Proof.Machine

/-! Outcomes -/

/-- An outcome is a next state with the queue unchanged, and its device satisfies a predicate. -/
def Answers (s : State) (P : Device → Prop) (o : Host.Outcome State Fault Refusal) : Prop := ∃ d, o = next s d ∧ P d

section
variable {s t : State} {P : Device → Prop} {d : Device} {o o' : Host.Outcome State Fault Refusal}

theorem answers_next (hd : P d) : Answers s P (next s d) := ⟨d, rfl, hd⟩

theorem answers_ite {c : Prop} [Decidable c] (ho : Answers s P o) (ho' : Answers s P o') : Answers s P (if c then o else o') := by
  split <;> assumption

/-- What holds of the device after a row holds of the state that its execution answers, and the queue stays. -/
theorem Answers.dev (ha : Answers s P o) (ht : o = .next t) : t = { s with dev := t.dev } ∧ P t.dev := by
  obtain ⟨d, rfl, hd⟩ := ha
  cases ht
  exact ⟨rfl, hd⟩

end

/-! What prints: the operations that change a port, and the count of free values, leave it -/

/-- The fields of an adapter that decide what it prints, among them HIGHEST_EPOCH. -/
def Adapter.printing (x : Adapter) :
    U32 × List HeldLine × List Firing × Bool × Bool × Vector (Vector (Option (List U16)) 16) 2 :=
  (x.highest, x.held, x.due, x.configured, x.inhibited, x.maps)

section
variable (h : Head) (port : Bool) (d : Device)

theorem modAdapter_self (f : Adapter → Adapter) : (modAdapter d h f).adapters[h] = f d.adapters[h] := upd_self ..

theorem modAdPort_printing (f : AdPort → AdPort) : (modAdPort h port f d).adapters[h].printing = d.adapters[h].printing := by
  rw [modAdPort, modAdapter_self]
  rfl

theorem discardCell_printing : (discardCell h port d).adapters[h].printing = d.adapters[h].printing := modAdPort_printing ..

theorem badCrcCell_printing : (badCrcCell h port d).adapters[h].printing = d.adapters[h].printing := modAdPort_printing ..

theorem sendStatus_printing (id : Nat) (sub : BitVec 4) (echo : U16) (payload : List U8) :
    (sendStatus h port id sub echo payload d).2.adapters[h].printing = d.adapters[h].printing := modAdPort_printing ..

theorem sendReport_printing (id : Nat) (echo : U16) :
    (sendReport h port id echo d).2.adapters[h].printing = d.adapters[h].printing :=
  (modAdPort_printing ..).trans (sendStatus_printing ..)

theorem urgentReport_printing (id : Nat) : (urgentReport h port id d).adapters[h].printing = d.adapters[h].printing := by
  unfold urgentReport
  split
  · exact sendReport_printing ..
  · rfl

theorem rejectEpoch_printing (id : Nat) : (rejectEpoch h port id d).adapters[h].printing = d.adapters[h].printing := by
  simp only [rejectEpoch, urgentReport_printing, modAdPort_printing, discardCell_printing]

theorem witnessPayload_adapters : (witnessPayload h port d).2.adapters = d.adapters := by
  unfold witnessPayload
  dsimp only
  split
  · rfl
  · split <;> rfl

theorem replyTo_printing (f : AdapterFacts) (c : ControlCell) :
    (replyTo h port f c d).2.adapters[h].printing = d.adapters[h].printing := by
  unfold replyTo
  dsimp only
  split
  · exact sendStatus_printing ..
  · simp only [sendStatus_printing, witnessPayload_adapters]
  · exact sendStatus_printing ..
  · exact sendReport_printing ..

end

/-! HIGHEST_EPOCH: a change of the adapter that never lowers it -/

/-- Two devices differ at most in one adapter, whose HIGHEST_EPOCH has not fallen, and the count of free values. -/
structure Advances (h : Head) (a b : Device) : Prop extends OnlyAdapter h a b where
  highest : a.adapters[h].highest ≤ b.adapters[h].highest

section
variable {h : Head} {a b c d : Device}

theorem Advances.refl : Advances h d d := ⟨.refl h d, BitVec.le_refl _⟩

theorem Advances.trans (x : Advances h a b) (y : Advances h b c) : Advances h a c :=
  ⟨x.toOnlyAdapter.trans y.toOnlyAdapter, BitVec.le_trans x.highest y.highest⟩

theorem Answers.only {s : State} {o : Host.Outcome State Fault Refusal} (ha : Answers s (Advances h s.dev) o) :
    Answers s (OnlyAdapter h s.dev) o := by
  obtain ⟨d, ho, hd⟩ := ha
  exact ⟨d, ho, hd.toOnlyAdapter⟩

theorem advances_ite {p : Prop} [Decidable p] (x : Advances h a b) (y : Advances h a c) : Advances h a (if p then b else c) := by
  split <;> assumption

theorem OnlyAdapter.advances (x : OnlyAdapter h a b) (e : b.adapters[h].highest = a.adapters[h].highest) : Advances h a b :=
  ⟨x, e ▸ BitVec.le_refl _⟩

theorem OnlyAdapter.advances_of_printing (x : OnlyAdapter h a b) (e : b.adapters[h].printing = a.adapters[h].printing) : Advances h a b :=
  x.advances (congrArg Prod.fst e)

theorem modAdapter_advances {f : Adapter → Adapter} (hf : ∀ x, (f x).highest = x.highest) : Advances h d (modAdapter d h f) :=
  (modAdapter_only h f d d (.refl h d)).advances (by rw [modAdapter_self, hf])

theorem modAdPort_advances {port : Bool} {f : AdPort → AdPort} : Advances h d (modAdPort h port f d) := modAdapter_advances fun _ => rfl

theorem discardCell_advances {port : Bool} : Advances h d (discardCell h port d) := modAdPort_advances

theorem badCrcCell_advances {port : Bool} : Advances h d (badCrcCell h port d) := modAdPort_advances

theorem sendStatus_advances {port : Bool} {id : Nat} {sub : BitVec 4} {echo : U16} {payload : List U8} :
    Advances h d (sendStatus h port id sub echo payload d).2 := modAdPort_advances

theorem urgentReport_advances {port : Bool} {id : Nat} : Advances h d (urgentReport h port id d) :=
  (urgentReport_only _ _ _ _ _ (.refl h d)).advances_of_printing (urgentReport_printing ..)

theorem rejectEpoch_advances {port : Bool} {id : Nat} : Advances h d (rejectEpoch h port id d) :=
  (rejectEpoch_only _ _ _ _ _ (.refl h d)).advances_of_printing (rejectEpoch_printing ..)

theorem replyTo_advances {port : Bool} {f : AdapterFacts} {cell : ControlCell} : Advances h d (replyTo h port f cell d).2 :=
  (replyTo_only _ _ _ _ _ _ (.refl h d)).advances_of_printing (replyTo_printing ..)

theorem sendReport_advances {port : Bool} {id : Nat} {echo : U16} : Advances h d (sendReport h port id echo d).2 :=
  (sendReport_only _ _ _ _ _ _ (.refl h d)).advances_of_printing (sendReport_printing ..)

theorem reportPorts_advances {f : AdapterFacts} : Advances h d (reportPorts h f d) := by
  unfold reportPorts
  split
  · extract_lets mine own
    have ho : Advances h d own := advances_ite sendReport_advances .refl
    exact advances_ite (ho.trans sendReport_advances) ho
  · exact .refl

theorem raiseEpoch_advances {epoch : U32} : Advances h d (raiseEpoch h epoch d) := by
  refine ⟨raiseEpoch_only _ _ _ _ (.refl h d), ?_⟩
  unfold raiseEpoch
  split
  · rename_i habove
    rw [modAdapter_self]
    exact BitVec.le_of_lt habove
  · exact BitVec.le_refl _

theorem holdLine_advances {port : Bool} {f : AdapterFacts} {cell : LineCell} : Advances h d (holdLine h port f cell d) := by
  unfold holdLine
  extract_lets x fresh
  split
  · exact discardCell_advances
  · split
    · exact (discardCell_advances.trans modAdPort_advances).trans urgentReport_advances
    · split
      · exact .refl
      · exact modAdapter_advances fun _ => rfl

theorem takeFire_advances {cell : FireCell} {x : HeldLine} : Advances h d (takeFire h cell x d) := modAdapter_advances fun _ => rfl

theorem applyControl_advances {f : AdapterFacts} {cell : ControlCell} : Advances h d (applyControl h f cell d) := by
  unfold applyControl
  dsimp only
  split
  · split
    · exact modAdapter_advances fun _ => rfl
    · exact .refl
  · split <;> exact modAdapter_advances fun _ => rfl
  · exact modAdapter_advances fun _ => rfl
  · exact .refl

theorem newControl_advances {port : Bool} {f : AdapterFacts} {cell : ControlCell} : Advances h d (newControl h port f cell d) := by
  unfold newControl
  extract_lets applied
  have ha : Advances h d applied := by
    refine Advances.trans ?_ applyControl_advances
    split
    · exact raiseEpoch_advances
    · exact .refl
  split
  · exact rejectEpoch_advances
  · exact (ha.trans replyTo_advances).trans modAdPort_advances

end

/-! The rows of an adapter other than power-up -/

section
variable (h : Head) (port : Bool) (s : State)

theorem adapterLineCell_advances (cell : LineCell) : Answers s (Advances h s.dev) (exec (.adapterLineCell h port cell) s) := by
  show Answers _ _ (execAdapterLineCell h port cell s)
  unfold execAdapterLineCell
  extract_lets d raised seen
  have hr : Advances h s.dev raised := raiseEpoch_advances
  have hs : Advances h s.dev seen := hr.trans modAdPort_advances
  split
  · exact answers_next .refl
  · exact answers_ite (answers_next badCrcCell_advances) (answers_ite (answers_next rejectEpoch_advances) (answers_ite
      (answers_next (hr.trans discardCell_advances)) (answers_ite (answers_next hs) (answers_next (hs.trans holdLine_advances)))))

theorem adapterFireCell_advances (cell : FireCell) : Answers s (Advances h s.dev) (exec (.adapterFireCell h port cell) s) := by
  show Answers _ _ (execAdapterFireCell h port cell s)
  unfold execAdapterFireCell
  dsimp only
  split
  · exact answers_next .refl
  · refine answers_ite (answers_next badCrcCell_advances) (answers_ite (answers_next rejectEpoch_advances) ?_)
    split
    · exact answers_next (raiseEpoch_advances.trans discardCell_advances)
    · exact answers_next (raiseEpoch_advances.trans takeFire_advances)

theorem adapterControlCell_advances (cell : ControlCell) : Answers s (Advances h s.dev) (exec (.adapterControlCell h port cell) s) := by
  show Answers _ _ (execAdapterControlCell h port cell s)
  unfold execAdapterControlCell
  dsimp only
  split
  · exact answers_next .refl
  · refine answers_ite (answers_next badCrcCell_advances) (answers_ite (answers_next discardCell_advances) ?_)
    split
    · exact answers_next sendStatus_advances
    · exact answers_next newControl_advances

theorem adapterFireTrigger_advances : Answers s (Advances h s.dev) (exec (.adapterFireTrigger h) s) := by
  show Answers _ _ (execAdapterFireTrigger h s)
  unfold execAdapterFireTrigger
  split
  · exact answers_next .refl
  · exact answers_next (modAdapter_advances fun _ => rfl)

theorem adapterHeadSafe_advances : Answers s (Advances h s.dev) (exec (.adapterHeadSafe h) s) :=
  answers_ite (answers_next (modAdapter_advances fun _ => rfl)) (answers_next .refl)

theorem adapterReportTimer_advances (r : HeadReading) : Answers s (Advances r.head s.dev) (exec (.adapterReportTimer r) s) := by
  show Answers _ _ (execAdapterReportTimer r s)
  unfold execAdapterReportTimer
  extract_lets a read
  split
  · exact answers_next .refl
  · have hr : Advances r.head s.dev read := modAdapter_advances fun _ => rfl
    exact answers_ite (answers_next (hr.trans reportPorts_advances)) (answers_next hr)

theorem adapterPowerUp_only (facts : AdapterFacts) : Answers s (OnlyAdapter h s.dev) (exec (.adapterPowerUp h facts) s) :=
  answers_next (modAdapter_only _ _ _ _ (.refl h s.dev))

end

/-! The frame of an adapter's rows -/

theorem OnlyAdapter.keeps {h : Head} {a b : Device} (x : OnlyAdapter h a b) : Keeps [.adapters] a b := by
  obtain ⟨e, -⟩ := x
  generalize b.adapters = v, b.chip.drawn = n at e
  subst e
  exact ⟨fun f hf => by cases f with | adapters => simp at hf | _ => rfl⟩

theorem onlyChanges_adapters {h : Head} {i : Instr} (ha : ∀ s, Answers s (OnlyAdapter h s.dev) (exec i s)) : OnlyChanges [.adapters] i := by
  intro s t ht
  obtain ⟨hqueue, honly⟩ := (ha s).dev ht
  exact ⟨by rw [hqueue], honly.keeps⟩

/-- Settles O56: power-up replaces the adapter's record, and each other row advances the adapter at most. -/
theorem adapterRowsFrame : Obligations.AdapterRowsFrame := by
  intro h s t hrow
  have honly : t = { s with dev := t.dev } ∧ OnlyAdapter h s.dev t.dev := by
    rcases hrow with ⟨facts, ht⟩ | ⟨port, cell, ht⟩ | ⟨port, cell, ht⟩ | ht | ⟨port, cell, ht⟩ | ht | ⟨r, rfl, ht⟩
    · exact (adapterPowerUp_only h s facts).dev ht
    · exact (adapterLineCell_advances h port s cell).only.dev ht
    · exact (adapterFireCell_advances h port s cell).only.dev ht
    · exact (adapterFireTrigger_advances h s).only.dev ht
    · exact (adapterControlCell_advances h port s cell).only.dev ht
    · exact (adapterHeadSafe_advances h s).only.dev ht
    · exact (adapterReportTimer_advances s r).only.dev ht
  obtain ⟨hqueue, hdev, hother⟩ := honly
  exact ⟨hqueue.trans (congrArg (fun d => { s with dev := d }) hdev), hother⟩

/-! A cell below HIGHEST_EPOCH -/

section
variable {h : Head} {port : Bool} {s : State}

theorem adapterLineCell_below {cell : LineCell} (hlow : cell.epoch < s.dev.adapters[h].highest) :
    Answers s (fun d => d.adapters[h].printing = s.dev.adapters[h].printing) (exec (.adapterLineCell h port cell) s) := by
  show Answers _ _ (execAdapterLineCell h port cell s)
  unfold execAdapterLineCell
  dsimp only
  split
  · exact answers_next rfl
  · rw [if_pos hlow]
    exact answers_ite (answers_next (badCrcCell_printing ..)) (answers_next (rejectEpoch_printing ..))

theorem adapterFireCell_below {cell : FireCell} (hlow : cell.epoch < s.dev.adapters[h].highest) :
    Answers s (fun d => d.adapters[h].printing = s.dev.adapters[h].printing) (exec (.adapterFireCell h port cell) s) := by
  show Answers _ _ (execAdapterFireCell h port cell s)
  unfold execAdapterFireCell
  dsimp only
  split
  · exact answers_next rfl
  · rw [if_pos hlow]
    exact answers_ite (answers_next (badCrcCell_printing ..)) (answers_next (rejectEpoch_printing ..))

theorem newControl_below {f : AdapterFacts} {cell : ControlCell} {d : Device} (hrule : notLower cell = true)
    (hlow : cell.epoch < d.adapters[h].highest) : newControl h port f cell d = rejectEpoch h port f.headId.toNat d :=
  if_pos (by simp only [hrule, decide_eq_true hlow, Bool.and_self])

theorem adapterControlCell_below {cell : ControlCell} (hrule : notLower cell = true) (hlow : cell.epoch < s.dev.adapters[h].highest) :
    Answers s (fun d => d.adapters[h].printing = s.dev.adapters[h].printing) (exec (.adapterControlCell h port cell) s) := by
  show Answers _ _ (execAdapterControlCell h port cell s)
  unfold execAdapterControlCell
  dsimp only
  split
  · exact answers_next rfl
  · refine answers_ite (answers_next (badCrcCell_printing ..)) (answers_ite (answers_next (discardCell_printing ..)) ?_)
    split
    · exact answers_next (sendStatus_printing ..)
    · rw [newControl_below hrule hlow]
      exact answers_next (rejectEpoch_printing ..)

end

/-- Settles O57: each row advances the adapter at most, and a cell below HIGHEST_EPOCH leaves what prints. -/
theorem highestEpochNeverFalls : Obligations.HighestEpochNeverFalls := by
  refine ⟨fun h s t hrow => ?_, fun h port s t hcell => ?_⟩
  · have hadvances : Advances h s.dev t.dev := by
      rcases hrow with ⟨port, cell, ht⟩ | ⟨port, cell, ht⟩ | ht | ⟨port, cell, ht⟩ | ht | ⟨r, rfl, ht⟩
      · exact ((adapterLineCell_advances h port s cell).dev ht).2
      · exact ((adapterFireCell_advances h port s cell).dev ht).2
      · exact ((adapterFireTrigger_advances h s).dev ht).2
      · exact ((adapterControlCell_advances h port s cell).dev ht).2
      · exact ((adapterHeadSafe_advances h s).dev ht).2
      · exact ((adapterReportTimer_advances s r).dev ht).2
    exact hadvances.highest
  · have hprinting : t.dev.adapters[h].printing = s.dev.adapters[h].printing := by
      rcases hcell with ⟨cell, ht, hlow⟩ | ⟨cell, ht, hlow⟩ | ⟨cell, ht, hrule, hlow⟩
      · exact ((adapterLineCell_below hlow).dev ht).2
      · exact ((adapterFireCell_below hlow).dev ht).2
      · exact ((adapterControlCell_below hrule hlow).dev ht).2
    simpa only [Adapter.printing, Prod.mk.injEq] using hprinting

end Sys2Proof.Machine
end

section
/-! SUPPORT. The rules of the rows of a head adapter: a cell of a powered port ends in one of a few ways, with an equation for each, and
each row answers the next state of its own effect (R119 to R139). -/
namespace Sys2Proof.Machine

/-! A cell of a powered port: one equation for each way it ends -/

/-- The TYPE or the LENGTH of a CONTROL cell is not the one of its subtype (Table 5.6). -/
def WrongForm (c : ControlCell) : Prop :=
  c.typ ≠ 3 ∨ c.length.toNat ≠ controlLength c.subtype.toNat ∨ c.payload.length + 16 ≠ c.length.toNat

theorem wrongForm_iff {c : ControlCell} :
    (c.typ != 3 || c.length.toNat != controlLength c.subtype.toNat || c.payload.length + 16 != c.length.toNat) = true ↔ WrongForm c := by
  simp only [WrongForm, Bool.or_eq_true, bne_iff_ne, or_assoc]

theorem rightForm_of_beq {c : ControlCell} (htype : (c.typ == 3) = true) (hlength : (c.length.toNat == controlLength c.subtype.toNat) = true)
    (hpayload : (c.payload.length + 16 == c.length.toNat) = true) : ¬ WrongForm c := by
  simp only [WrongForm, not_or, not_not]
  exact ⟨eq_of_beq htype, eq_of_beq hlength, eq_of_beq hpayload⟩

section
variable {h : Head} {port : Bool} {s : State} {f : AdapterFacts} (hf : adFacts s.dev h port = some f)
include hf

theorem adapterLineCell_badCrc {c : LineCell} (hcrc : c.crc ≠ lineCrc f.headId.toNat port c) :
    exec (.adapterLineCell h port c) s = next s (badCrcCell h port s.dev) := by
  show execAdapterLineCell h port c s = _
  simp only [execAdapterLineCell, hf, bne_iff_ne.mpr hcrc, if_true]

theorem adapterLineCell_rejected {c : LineCell} (hcrc : c.crc = lineCrc f.headId.toNat port c) (hlow : c.epoch < s.dev.adapters[h].highest) :
    exec (.adapterLineCell h port c) s = next s (rejectEpoch h port f.headId.toNat s.dev) := by
  show execAdapterLineCell h port c s = _
  simp only [execAdapterLineCell, hf, bne_eq_false_iff_eq.mpr hcrc, Bool.false_eq_true, if_false, if_pos hlow]

theorem adapterLineCell_discarded {c : LineCell} (hcrc : c.crc = lineCrc f.headId.toNat port c)
    (hlow : ¬ c.epoch < s.dev.adapters[h].highest)
    (hbad : (raiseEpoch h c.epoch s.dev).adapters[h].configured = false ∨ lineFormOk (raiseEpoch h c.epoch s.dev).adapters[h] f c = false) :
    exec (.adapterLineCell h port c) s = next s (discardCell h port (raiseEpoch h c.epoch s.dev)) := by
  show execAdapterLineCell h port c s = _
  simp only [execAdapterLineCell, hf, bne_eq_false_iff_eq.mpr hcrc, Bool.false_eq_true, if_false, if_neg hlow]
  exact if_pos (by simpa only [Bool.or_eq_true, Bool.not_eq_true'] using hbad)

theorem adapterFireCell_badCrc {c : FireCell} (hcrc : c.crc ≠ fireCrc f.headId.toNat port c) :
    exec (.adapterFireCell h port c) s = next s (badCrcCell h port s.dev) := by
  show execAdapterFireCell h port c s = _
  simp only [execAdapterFireCell, hf, bne_iff_ne.mpr hcrc, if_true]

theorem adapterFireCell_rejected {c : FireCell} (hcrc : c.crc = fireCrc f.headId.toNat port c) (hlow : c.epoch < s.dev.adapters[h].highest) :
    exec (.adapterFireCell h port c) s = next s (rejectEpoch h port f.headId.toNat s.dev) := by
  show execAdapterFireCell h port c s = _
  simp only [execAdapterFireCell, hf, bne_eq_false_iff_eq.mpr hcrc, Bool.false_eq_true, if_false, if_pos hlow]

theorem adapterFireCell_discarded {c : FireCell} (hcrc : c.crc = fireCrc f.headId.toNat port c)
    (hlow : ¬ c.epoch < s.dev.adapters[h].highest) (hline : fireLine h c (raiseEpoch h c.epoch s.dev) = none) :
    exec (.adapterFireCell h port c) s = next s (discardCell h port (raiseEpoch h c.epoch s.dev)) := by
  show execAdapterFireCell h port c s = _
  simp only [execAdapterFireCell, hf, bne_eq_false_iff_eq.mpr hcrc, Bool.false_eq_true, if_false, if_neg hlow, hline]

theorem adapterFireCell_fires {c : FireCell} {x : HeldLine} (hcrc : c.crc = fireCrc f.headId.toNat port c)
    (hlow : ¬ c.epoch < s.dev.adapters[h].highest) (hline : fireLine h c (raiseEpoch h c.epoch s.dev) = some x) :
    exec (.adapterFireCell h port c) s = next s (takeFire h c x (raiseEpoch h c.epoch s.dev)) := by
  show execAdapterFireCell h port c s = _
  simp only [execAdapterFireCell, hf, bne_eq_false_iff_eq.mpr hcrc, Bool.false_eq_true, if_false, if_neg hlow, hline]

theorem adapterControlCell_badCrc {c : ControlCell} (hcrc : c.crc ≠ controlCrc f.headId.toNat port c) :
    exec (.adapterControlCell h port c) s = next s (badCrcCell h port s.dev) := by
  show execAdapterControlCell h port c s = _
  simp only [execAdapterControlCell, hf, bne_iff_ne.mpr hcrc, if_true]

theorem adapterControlCell_discarded {c : ControlCell} (hcrc : c.crc = controlCrc f.headId.toNat port c) (hwrong : WrongForm c) :
    exec (.adapterControlCell h port c) s = next s (discardCell h port s.dev) := by
  show execAdapterControlCell h port c s = _
  simp only [execAdapterControlCell, hf, bne_eq_false_iff_eq.mpr hcrc, Bool.false_eq_true, if_false]
  exact if_pos (wrongForm_iff.mpr hwrong)

theorem adapterControlCell_new {c : ControlCell} (hcrc : c.crc = controlCrc f.headId.toNat port c) (hright : ¬ WrongForm c)
    (hlast : (adPort s.dev h port).lastCtrl.any (fun x => x.1 == c.seq) = false) :
    exec (.adapterControlCell h port c) s = next s (newControl h port f c s.dev) := by
  have hnone : (adPort s.dev h port).lastCtrl.filter (fun x => x.1 == c.seq) = none := by
    simpa only [Option.filter_eq_none_iff, Option.any_eq_false, Bool.not_eq_true] using hlast
  show execAdapterControlCell h port c s = _
  simp only [execAdapterControlCell, hf, bne_eq_false_iff_eq.mpr hcrc, Bool.false_eq_true, if_false, hnone]
  exact if_neg (fun hwrong => hright (wrongForm_iff.mp hwrong))

theorem adapterControlCell_repeated {c : ControlCell} (hcrc : c.crc = controlCrc f.headId.toNat port c) (hright : ¬ WrongForm c)
    {x : U16 × StatusCell} (hlast : (adPort s.dev h port).lastCtrl = some x) (hseq : (x.1 == c.seq) = true) :
    exec (.adapterControlCell h port c) s = next s (sendStatus h port f.headId.toNat x.2.subtype c.seq x.2.payload s.dev).2 := by
  have hsome : (adPort s.dev h port).lastCtrl.filter (fun x => x.1 == c.seq) = some x := Option.filter_eq_some_iff.mpr ⟨hlast, hseq⟩
  show execAdapterControlCell h port c s = _
  simp only [execAdapterControlCell, hf, bne_eq_false_iff_eq.mpr hcrc, Bool.false_eq_true, if_false, hsome]
  exact if_neg (fun hwrong => hright (wrongForm_iff.mp hwrong))

theorem adapterControlCell_rejected {c : ControlCell} (hcrc : c.crc = controlCrc f.headId.toNat port c) (hright : ¬ WrongForm c)
    (hlast : (adPort s.dev h port).lastCtrl.any (fun x => x.1 == c.seq) = false) (hrule : notLower c = true)
    (hlow : c.epoch < s.dev.adapters[h].highest) :
    exec (.adapterControlCell h port c) s = next s (rejectEpoch h port f.headId.toNat s.dev) := by
  rw [adapterControlCell_new hf hcrc hright hlast, newControl_below hrule hlow]

end

theorem discardedCells : DiscardedCells := fun _ _ _ _ hf =>
  ⟨fun _ => ⟨adapterLineCell_badCrc hf, adapterLineCell_rejected hf, adapterLineCell_discarded hf⟩,
    fun _ => ⟨adapterFireCell_badCrc hf, adapterFireCell_rejected hf, adapterFireCell_discarded hf⟩,
    fun _ => ⟨adapterControlCell_badCrc hf, adapterControlCell_discarded hf, adapterControlCell_rejected hf⟩⟩

/-! The rules of the rows -/

section
variable (h : Head) (port : Bool)

theorem adapterPowerUpRule_holds (facts : AdapterFacts) : (adapterPowerUpRule h facts).Holds (.adapterPowerUp h facts) := fun _ _ => rfl

/-- The rule's effect is the row's in every state. -/
theorem adapterLineCellRule_holds (cell : LineCell) : (adapterLineCellRule h port cell).Holds (.adapterLineCell h port cell) := by
  intro s _
  show execAdapterLineCell h port cell s = next s _
  cases hf : adFacts s.dev h port <;> simp only [execAdapterLineCell, adapterLineCellRule, hf, next_ite]

theorem adapterFireCellRule_holds (cell : FireCell) : (adapterFireCellRule h port cell).Holds (.adapterFireCell h port cell) := by
  intro s hc
  simp only [adapterFireCellRule, Bool.and_eq_true, Option.any_eq_true, beq_iff_eq, decide_eq_true_eq] at hc
  obtain ⟨⟨⟨f, hf, hcrc⟩, hepoch⟩, hfires⟩ := hc
  obtain ⟨x, hline⟩ := Option.isSome_iff_exists.mp hfires
  rw [adapterFireCell_fires hf hcrc (BitVec.not_lt.mpr hepoch) hline]
  simp only [adapterFireCellRule, hline, next_eq]

theorem adapterFireTriggerRule_holds : (adapterFireTriggerRule h).Holds (.adapterFireTrigger h) := by
  intro s _
  show execAdapterFireTrigger h s = _
  cases hdue : s.dev.adapters[h].due <;> simp only [execAdapterFireTrigger, adapterFireTriggerRule, hdue, next_eq]

/-- Under the rule's condition the cell repeats none and its epoch rule lets it through, so it is applied and answered (R120, R127). -/
theorem adapterControlCellRule_holds (cell : ControlCell) : (adapterControlCellRule h port cell).Holds (.adapterControlCell h port cell) := by
  intro s hc
  simp only [adapterControlCellRule, Bool.and_eq_true, Option.any_eq_true] at hc
  obtain ⟨⟨⟨⟨⟨⟨f, hf, hcrc⟩, htype⟩, hlength⟩, hpayload⟩, hnew⟩, hepoch⟩ := hc
  rw [← Option.not_isSome, Option.isSome_filter, Bool.not_eq_true'] at hnew
  rw [adapterControlCell_new hf (eq_of_beq hcrc) (rightForm_of_beq htype hlength hpayload) hnew]
  simp only [adapterControlCellRule, hf, next_eq]
  exact congrArg (fun d => Host.Outcome.next { s with dev := d }) (ite_of_not hepoch)

theorem adapterControlRepeatRule_holds (cell : ControlCell) :
    (adapterControlRepeatRule h port cell).Holds (.adapterControlCell h port cell) := by
  intro s hc
  simp only [adapterControlRepeatRule, Bool.and_eq_true, Option.any_eq_true] at hc
  obtain ⟨⟨⟨⟨⟨f, hf, hcrc⟩, htype⟩, hlength⟩, hpayload⟩, x, hlast, hseq⟩ := hc
  rw [adapterControlCell_repeated hf (eq_of_beq hcrc) (rightForm_of_beq htype hlength hpayload) hlast hseq]
  simp only [adapterControlRepeatRule, hf, hlast, next_eq]

theorem adapterHeadSafeRule_holds : (adapterHeadSafeRule h).Holds (.adapterHeadSafe h) := fun _ hc => if_pos hc

theorem adapterReportTimerRule_holds (r : HeadReading) : (adapterReportTimerRule r).Holds (.adapterReportTimer r) := by
  intro s hc
  obtain ⟨hready, hreports⟩ := Bool.and_eq_true_iff.mp hc
  obtain ⟨hpowered, -⟩ := Bool.and_eq_true_iff.mp hready
  obtain ⟨f, hf⟩ := Option.isSome_iff_exists.mp hpowered
  show execAdapterReportTimer r s = _
  simp only [execAdapterReportTimer, adapterReportTimerRule, hf, next_eq]
  exact if_pos hreports

end

/-- Settles O17: the rule of each row of a head adapter holds, and so do the clauses of the discarded cells. -/
theorem adaptersComplete : Obligations.AdaptersComplete :=
  ⟨adapterPowerUpRule_holds, adapterLineCellRule_holds, adapterFireCellRule_holds, adapterFireTriggerRule_holds, adapterControlCellRule_holds,
    adapterControlRepeatRule_holds, discardedCells, adapterHeadSafeRule_holds, adapterReportTimerRule_holds⟩

end Sys2Proof.Machine
end

section
/-! SUPPORT. What a FIRE cell does to the firings accepted and not yet triggered (R127, R135). -/
namespace Sys2Proof.Machine

section
variable {h : Head} {port : Bool} {cell : FireCell} {d : Device} {x : HeldLine} {s : State}

theorem fireLine_of_not_configured (hoff : d.adapters[h].configured = false) : fireLine h cell d = none :=
  if_pos (by simp only [hoff, Bool.not_false, Bool.true_or])

theorem raiseEpoch_above {epoch : U32} (habove : d.adapters[h].highest < epoch) :
    (raiseEpoch h epoch d).adapters[h] =
      { d.adapters[h] with highest := epoch, held := [], due := [], configured := false, inhibited := true } := by
  rw [raiseEpoch, if_pos habove, modAdapter_self]

/-- A FIRE cell above HIGHEST_EPOCH leaves no firing due: those accepted before it go with the held lines (R127), and it fires none. -/
theorem adapterFireCell_above {f : AdapterFacts} (hf : adFacts s.dev h port = some f) (hcrc : cell.crc = fireCrc f.headId.toNat port cell)
    (habove : s.dev.adapters[h].highest < cell.epoch) :
    ∃ d, exec (.adapterFireCell h port cell) s = next s d ∧ d.adapters[h].due = [] := by
  refine ⟨_, adapterFireCell_discarded hf hcrc (BitVec.not_lt.mpr (BitVec.le_of_lt habove))
    (fireLine_of_not_configured (by rw [raiseEpoch_above habove])), ?_⟩
  have hdue := congrArg (·.2.2.1) (discardCell_printing h port (raiseEpoch h cell.epoch s.dev))
  exact hdue.trans (by simp only [Adapter.printing, raiseEpoch_above habove])

/-- R135's conditions on a FIRE cell, the adapter and a held line, under which the cell's row of that line fires. -/
structure MayFire (h : Head) (cell : FireCell) (d : Device) (x : HeldLine) : Prop where
  held : x ∈ d.adapters[h].held
  job : x.cell.jobId = cell.jobId
  line : x.cell.lineNo = cell.lineNo
  lineEpoch : x.cell.epoch = d.adapters[h].highest
  cellEpoch : cell.epoch = d.adapters[h].highest
  row : cell.row.toNat ≤ x.cell.rowsM1.toNat
  left : x.gone.getLsbD cell.row.toNat = false
  configured : d.adapters[h].configured = true
  allowed : d.adapters[h].inhibited = false
  released : adapterSafe d h = false

theorem mayFire_of_fireLine (hline : fireLine h cell d = some x) : MayFire h cell d x := by
  unfold fireLine at hline
  extract_lets a r at hline
  split at hline
  · cases hline
  · rename_i hbars
    simp only [Bool.or_eq_true, Bool.not_eq_true', bne_iff_ne, not_or, Bool.not_eq_false, Bool.not_eq_true, not_not] at hbars
    obtain ⟨⟨⟨⟨hconfigured, -⟩, hepoch⟩, hallowed⟩, hreleased⟩ := hbars
    obtain ⟨hfound, hrow⟩ := Option.filter_eq_some_iff.mp hline
    have hmatch := List.find?_some hfound
    simp only [Bool.and_eq_true, beq_iff_eq] at hmatch
    simp only [Bool.and_eq_true, decide_eq_true_eq, Bool.not_eq_true'] at hrow
    obtain ⟨⟨hjob, hnumber⟩, hlineEpoch⟩ := hmatch
    exact ⟨List.mem_of_find?_eq_some hfound, hjob, hnumber, hlineEpoch, hepoch, hrow.1, hrow.2, hconfigured, hallowed, hreleased⟩

/-- What a FIRE cell does to the firings not yet triggered, with the case that O58 leaves out: they stay, or the cell is above HIGHEST_EPOCH and
discards them, or one is added under every condition of R135. -/
theorem adapterFireCell_due : Answers s (fun d =>
    d.adapters[h].due = s.dev.adapters[h].due ∨ (s.dev.adapters[h].highest < cell.epoch ∧ d.adapters[h].due = []) ∨
      ∃ x, MayFire h cell s.dev x ∧ d = takeFire h cell x s.dev) (exec (.adapterFireCell h port cell) s) := by
  have hsame : ∀ {d : Device}, d.adapters[h].printing = s.dev.adapters[h].printing → d.adapters[h].due = s.dev.adapters[h].due :=
    fun e => congrArg (·.2.2.1) e
  cases hf : adFacts s.dev h port with
  | none =>
    refine ⟨s.dev, ?_, .inl rfl⟩
    show execAdapterFireCell h port cell s = _
    simp only [execAdapterFireCell, hf]
  | some f =>
    by_cases hcrc : cell.crc = fireCrc f.headId.toNat port cell
    · by_cases hlow : cell.epoch < s.dev.adapters[h].highest
      · exact ⟨_, adapterFireCell_rejected hf hcrc hlow, .inl (hsame (rejectEpoch_printing ..))⟩
      · by_cases habove : s.dev.adapters[h].highest < cell.epoch
        · obtain ⟨d, hexec, hempty⟩ := adapterFireCell_above hf hcrc habove
          exact ⟨d, hexec, .inr (.inl ⟨habove, hempty⟩)⟩
        · have hraise : raiseEpoch h cell.epoch s.dev = s.dev := if_neg habove
          cases hline : fireLine h cell (raiseEpoch h cell.epoch s.dev) with
          | none =>
            have hdiscards := adapterFireCell_discarded hf hcrc hlow hline
            exact ⟨_, hdiscards, .inl (hsame (by rw [hraise, discardCell_printing]))⟩
          | some x =>
            have hfires := adapterFireCell_fires hf hcrc hlow hline
            rw [hraise] at hfires hline
            exact ⟨_, hfires, .inr (.inr ⟨x, mayFire_of_fireLine hline, rfl⟩)⟩
    · exact ⟨_, adapterFireCell_badCrc hf hcrc, .inl (hsame (badCrcCell_printing ..))⟩

theorem fireCrc_of_crc (id : Nat) (crc : U32) : fireCrc id port { cell with crc := crc } = fireCrc id port cell := rfl

end

/-- What a single-port adapter of head 0 is. -/
def singlePort : AdapterFacts :=
  { headId := 0, dual := false, bitsOk := 0, ratesOk := 0, maxNozzles := 0, lineDepth := 0, rowsMaxM1 := 0, fixedLatency := 0, version := 0 }

/-- That adapter, powered and configured, with a firing accepted in epoch 0 and not yet triggered. -/
def adapterWithFiringDue : Adapter :=
  { facts := some singlePort, configured := true, inhibited := false
    due := [{ row := 0, job := 0, line := 0, epoch := 0, wave := 0, mapBank := false, pulses := [] }] }

/-- The machine at reset, but for that adapter at head 0. -/
def stateWithFiringDue : State := { dev := modAdapter {} 0 (fun _ => adapterWithFiringDue) }

theorem stateWithFiringDue_adapter : stateWithFiringDue.dev.adapters[(0 : Head)] = adapterWithFiringDue := by
  rw [stateWithFiringDue, modAdapter_self]

/-- A FIRE cell of epoch 1 before its CRC. -/
def fireOfEpoch1 : FireCell := { row := 0, length := 24, lineNo := 0, epoch := 1, jobId := 0, slip := 0, crc := 0 }

/-- Refutes O58: a FIRE cell above HIGHEST_EPOCH discards the firings not yet triggered (R127), so the list neither stays nor grows by one. -/
theorem not_firingNeedsEveryCondition : ¬ Obligations.FiringNeedsEveryCondition := by
  intro hall
  have hfacts : adFacts stateWithFiringDue.dev 0 false = some singlePort := by rw [adFacts, stateWithFiringDue_adapter]; rfl
  have habove : stateWithFiringDue.dev.adapters[(0 : Head)].highest < fireOfEpoch1.epoch := by rw [stateWithFiringDue_adapter]; decide
  have hbefore : stateWithFiringDue.dev.adapters[(0 : Head)].due ≠ [] := by rw [stateWithFiringDue_adapter]; exact List.cons_ne_nil _ _
  obtain ⟨d, hexec, hafter⟩ := adapterFireCell_above
    (cell := { fireOfEpoch1 with crc := fireCrc singlePort.headId.toNat false fireOfEpoch1 }) hfacts (fireCrc_of_crc ..).symm habove
  rcases hall 0 false _ _ _ hexec with hsame | ⟨x, f, -, hadded, -⟩
  · exact hbefore (hsame.symm.trans hafter)
  · exact List.append_ne_nil_of_right_ne_nil _ (List.cons_ne_nil f []) (hadded.symm.trans hafter)

end Sys2Proof.Machine
end

section
/-! SUPPORT. The rows of chapters 5 and 6 other than those of the head adapters: the fields of the device that each may change. -/
namespace Sys2Proof.Machine

-- One theorem after another, as in the section of the frames of chapters 1 to 4.
set_option Elab.async false

section
variable {ch : List DevField} {a d : Device}

theorem keeps_set_chip {x : Chip} (hc : within [.chip] ch = true) (hk : Keeps ch a d) : Keeps ch a { d with chip := x } :=
  Keeps.step (c := [.chip]) ⟨fun f hf => by cases f with | chip => simp at hf | _ => rfl⟩ hc hk

theorem keeps_set_links {x : Vector HeadLink 40} (hc : within [.links] ch = true) (hk : Keeps ch a d) : Keeps ch a { d with links := x } :=
  Keeps.step (c := [.links]) ⟨fun f hf => by cases f with | links => simp at hf | _ => rfl⟩ hc hk

theorem keeps_set_adapters {x : Vector Adapter 40} (hc : within [.adapters] ch = true) (hk : Keeps ch a d) :
    Keeps ch a { d with adapters := x } :=
  Keeps.step (c := [.adapters]) ⟨fun f hf => by cases f with | adapters => simp at hf | _ => rfl⟩ hc hk

theorem keeps_set_drive {x : Drive} (hc : within [.drive] ch = true) (hk : Keeps ch a d) : Keeps ch a { d with drive := x } :=
  Keeps.step (c := [.drive]) ⟨fun f hf => by cases f with | drive => simp at hf | _ => rfl⟩ hc hk

end

section
variable {s : State}

/-! Head links -/

theorem execHeadLink_keeps {c : Cmd} : OutKeeps [.mbx, .vlog, .links, .adapters, .cz, .lanes, .fabric, .red] s (execHeadLink c s) :=
  mervan_keeps (by decide) nofun (fun _ _ _ => doneKeeps_ite (no_keeps _ _ _ _ (by decide) keeps_rfl) (doneKeeps_ite
    (no_keeps _ _ _ _ (by decide) keeps_rfl) (done_keeps _ (by decide)
    (keeps_foldl (fun _ _ => setLink_keeps _ _ _ _ _ (by decide) keeps_rfl) keeps_rfl))))

theorem execHeadStatus_keeps {c : Cmd} : OutKeeps [.mbx, .vlog, .lanes, .fabric] s (execHeadStatus c s) :=
  mervan_keeps (by decide) nofun (fun _ _ _ => doneKeeps_ite (no_keeps _ _ _ _ (by decide) keeps_rfl) (ok_keeps _ _ (by decide) keeps_rfl))

theorem execHeadEcho_keeps {c : Cmd} : OutKeeps [.mbx, .vlog, .links, .lanes, .fabric] s (execHeadEcho c s) :=
  mervan_keeps (by decide) nofun (fun _ _ _ => doneKeeps_ite (no_keeps _ _ _ _ (by decide) keeps_rfl) (doneKeeps_ite
    (no_keeps _ _ _ _ (by decide) keeps_rfl) (doneKeeps_later (sendControl_keeps _ _ _ _ (by decide) keeps_rfl))))

theorem execHeadSafe_keeps {c : Cmd} : OutKeeps [.chip, .mbx, .vlog, .lanes, .fabric] s (execHeadSafe c s) :=
  mervan_keeps (by decide) nofun (fun _ _ _ => ok_keeps _ _ (by decide) (keeps_set_chip (by decide) keeps_rfl))

theorem askHeads_keeps {ch : List DevField} {a d : Device} (hs : List Head) (hc : within [.links, .lanes] ch = true) (hk : Keeps ch a d) :
    Keeps ch a (hs.foldl (fun d h => sendControl h 4 [] (modLink d h (fun l => { l with witness := none }))) d) :=
  keeps_foldl (fun _ _ => sendControl_keeps _ _ _ _ hc (modLink_keeps _ _ _ (within_trans (by decide) hc) keeps_rfl)) hk

theorem execHeadWitness_keeps {c : Cmd} : OutKeeps [.mbx, .vlog, .links, .lanes, .fabric] s (execHeadWitness c s) :=
  mervan_keeps (by decide) nofun (fun _ _ _ => doneKeeps_ite (no_keeps _ _ _ _ (by decide) keeps_rfl) (doneKeeps_ite
    (no_keeps _ _ _ _ (by decide) keeps_rfl) (doneKeeps_ite (ok_keeps _ _ (by decide) (askHeads_keeps _ (by decide) keeps_rfl))
    (doneKeeps_later (askHeads_keeps _ (by decide) keeps_rfl)))))

theorem execStatusReportReceived_keeps {h : Head} {cell : StatusCell} :
    OutKeeps [.chip, .mbx, .vlog, .acct, .jobs, .fire, .links, .adapters, .cz, .lanes, .fabric, .red, .nv] s
      (execStatusReportReceived h cell s) := by
  unfold execStatusReportReceived
  split
  · exact outKeeps_next (keeps_pair ‹_› (takeStatus_keeps _ _ _ _ (by decide) keeps_rfl))
  · have hd := keeps_pair ‹_› (takeStatus_keeps (ch := [.chip, .mbx, .vlog, .acct, .jobs, .fire, .links, .adapters, .cz, .lanes, .fabric, .red,
      .nv]) h 0 cell s.dev (by decide) keeps_rfl)
    extract_lets was reported first checked rejected
    have hr := modLink_keeps _ h (fun l => { l with report := some cell }) (by decide) hd
    have hc := checkReport_keeps h cell was first (by decide) (keeps_ite (modRed_keeps _ _ (by decide) hr) hr)
    exact outKeeps_next (noteReady_keeps _ _ (by decide) (controlReplied_keeps _ _ _ (by decide)
      (keeps_ite (epochRejected_keeps _ _ _ (by decide) hc) hc)))

theorem execStatusIdentReceived_keeps {h : Head} {cell : StatusCell} :
    OutKeeps [.mbx, .vlog, .links, .lanes, .fabric] s (execStatusIdentReceived h cell s) := by
  unfold execStatusIdentReceived
  split
  · exact outKeeps_next (keeps_pair ‹_› (takeStatus_keeps _ _ _ _ (by decide) keeps_rfl))
  · have hd := keeps_pair ‹_› (takeStatus_keeps (ch := [.mbx, .vlog, .links, .lanes, .fabric]) h 1 cell s.dev (by decide) keeps_rfl)
    extract_lets expected e
    have he : Keeps [.mbx, .vlog, .links, .lanes, .fabric] s.dev e := modLink_keeps _ _ _ (by decide) hd
    exact outKeeps_ite (outKeeps_next hd) (outKeeps_ite (outKeeps_next (fhlViolation_keeps _ _ _ _ (by decide) he)) (outKeeps_ite
      (outKeeps_next (raise_keeps _ _ _ (by decide) (modLink_keeps _ _ _ (by decide) he)))
      (outKeeps_next (emitControl_keeps _ _ _ _ (by decide) (modLink_keeps _ _ _ (by decide) he)))))

theorem execStatusEchoReceived_keeps {h : Head} {cell : StatusCell} {roundTrip : U32} :
    OutKeeps [.mbx, .vlog, .acct, .fire, .links, .lanes, .fabric] s (execStatusEchoReceived h cell roundTrip s) := by
  unfold execStatusEchoReceived
  split
  · exact outKeeps_next (keeps_pair ‹_› (takeStatus_keeps _ _ _ _ (by decide) keeps_rfl))
  · have hd := keeps_pair ‹_› (takeStatus_keeps (ch := [.mbx, .vlog, .acct, .fire, .links, .lanes, .fabric]) h 3 cell s.dev (by decide)
      keeps_rfl)
    extract_lets expected turn delay measured answered
    have hm : Keeps [.mbx, .vlog, .acct, .fire, .links, .lanes, .fabric] s.dev measured := modLink_keeps _ _ _ (by decide) hd
    exact outKeeps_ite (outKeeps_next hd) (outKeeps_next (controlReplied_keeps _ _ _ (by decide)
      (keeps_ite hm (finishWork_keeps _ _ _ (by decide) hm))))

theorem execStatusWitnessReceived_keeps {h : Head} {cell : StatusCell} :
    OutKeeps [.mbx, .vlog, .acct, .fire, .links, .lanes, .fabric, .red] s (execStatusWitnessReceived h cell s) := by
  unfold execStatusWitnessReceived
  split
  · exact outKeeps_next (keeps_pair ‹_› (takeStatus_keeps _ _ _ _ (by decide) keeps_rfl))
  · exact outKeeps_next (unaskWitness_keeps _ _ _ (by decide) (controlReplied_keeps _ _ _ (by decide) (modRed_keeps _ _ (by decide)
      (modLink_keeps _ _ _ (by decide) (keeps_pair ‹_› (takeStatus_keeps _ _ _ _ (by decide) keeps_rfl))))))

theorem execControlReplyTimeout_keeps {h : Head} :
    OutKeeps [.mbx, .vlog, .jobs, .links, .adapters, .cz, .lanes, .fabric, .red] s (execControlReplyTimeout h s) := by
  unfold execControlReplyTimeout
  split
  · exact outKeeps_next keeps_rfl
  · extract_lets unasked refused
    have hu : Keeps [.mbx, .vlog, .jobs, .links, .adapters, .cz, .lanes, .fabric, .red] s.dev unasked :=
      keeps_ite (unaskWitness_keeps _ _ _ (by decide) keeps_rfl) keeps_rfl
    exact outKeeps_ite (outKeeps_next hu) (outKeeps_ite (outKeeps_next (sendCell_keeps _ _ _ (by decide) (modLink_keeps _ _ _ (by decide) hu)))
      (outKeeps_next (noteReady_keeps _ _ (by decide) (fhlReinit_keeps _ _ _ (by decide) (modLink_keeps _ _ _ (by decide)
      (finishAll_keeps _ _ _ (by decide) hu))))))

theorem execStatusSilent_keeps {h : Head} :
    OutKeeps [.mbx, .vlog, .jobs, .links, .adapters, .cz, .lanes, .fabric, .red] s (execStatusSilent h s) :=
  outKeeps_ite (outKeeps_next (noteReady_keeps _ _ (by decide) (fhlReinit_keeps _ _ _ (by decide) keeps_rfl))) (outKeeps_next keeps_rfl)

theorem execFhlCrcBurst_keeps {h : Head} :
    OutKeeps [.mbx, .vlog, .jobs, .links, .adapters, .cz, .lanes, .fabric, .red] s (execFhlCrcBurst h s) :=
  outKeeps_ite (outKeeps_next (noteReady_keeps _ _ (by decide) (fhlReinit_keeps _ _ _ (by decide) keeps_rfl))) (outKeeps_next keeps_rfl)

theorem execHeadSafeNFall_keeps : OutKeeps [.chip, .links] s (execHeadSafeNFall s) :=
  outKeeps_next (keeps_set_links (by decide) (keeps_set_chip (by decide) keeps_rfl))

theorem execHeadSafeNRise_keeps : OutKeeps [.chip, .acct, .fire, .adapters] s (execHeadSafeNRise s) := by
  unfold execHeadSafeNRise
  extract_lets d e
  have he : Keeps [.chip, .acct, .fire, .adapters] s.dev e := keeps_set_adapters (by decide) keeps_rfl
  exact outKeeps_ite (outKeeps_next (keeps_set_chip (by decide) (skipTokens_keeps _ _ _ (by decide) he))) (outKeeps_next he)

/-! Waveforms -/

theorem execWaveLoad_keeps {c : Cmd} : OutKeeps [.mbx, .vlog, .jobs, .banks, .dram, .lanes, .fabric, .red] s (execWaveLoad c s) := by
  unfold execWaveLoad
  refine mervan_keeps (by decide) (fun _ => by decide) (fun _ _ _ => ?_)
  dsimp only
  split
  · exact answerImage_keeps _ _ (by decide) keeps_rfl
  · exact doneKeeps_ite (loadForRepeat_keeps _ _ _ _ _ (by decide) keeps_rfl) (loadForJob_keeps _ _ _ _ _ (by decide) keeps_rfl)

theorem execWaveTrim_keeps {c : Cmd} : OutKeeps [.mbx, .vlog, .banks, .lanes, .fabric, .red] s (execWaveTrim c s) :=
  mervan_keeps (by decide) nofun (fun _ _ _ => doneKeeps_ite (no_keeps _ _ _ _ (by decide) keeps_rfl)
    (done_keeps _ (by decide) (keeps_set_banks (by decide) keeps_rfl)))

theorem execWaveLimits_keeps {c : Cmd} : OutKeeps [.mbx, .vlog, .banks, .lanes, .fabric, .red] s (execWaveLimits c s) :=
  mervan_keeps (by decide) nofun (fun _ _ _ => doneKeeps_ite (no_keeps _ _ _ _ (by decide) keeps_rfl) (doneKeeps_ite
    (no_keeps _ _ _ _ (by decide) keeps_rfl) (done_keeps _ (by decide) (keeps_set_banks (by decide) keeps_rfl))))

theorem execWaveConfig_keeps {c : Cmd} : OutKeeps [.mbx, .vlog, .drive, .lanes, .fabric, .red] s (execWaveConfig c s) :=
  mervan_keeps (by decide) nofun (fun _ _ _ => doneKeeps_ite (no_keeps _ _ _ _ (by decide) keeps_rfl)
    (done_keeps _ (by decide) (modDrive_keeps _ _ _ (by decide) keeps_rfl)))

/-! The rotating spare and calibration -/

theorem execDacCalibrate_keeps {c : Cmd} : OutKeeps [.mbx, .vlog, .drive, .lanes, .fabric] s (execDacCalibrate c s) := by
  unfold execDacCalibrate
  refine mervan_keeps (by decide) nofun (fun _ _ _ => doneKeeps_ite (no_keeps _ _ _ _ (by decide) keeps_rfl)
    (doneKeeps_ite (no_keeps _ _ _ _ (by decide) keeps_rfl) ?_))
  dsimp only
  split
  · exact doneKeeps_ite (no_keeps _ _ _ _ (by decide) keeps_rfl) (doneKeeps_later (beginCal_keeps _ _ _ (by decide) keeps_rfl))
  · exact doneKeeps_later (beginCal_keeps _ _ _ (by decide) keeps_rfl)

theorem execDacStatus_keeps {c : Cmd} : OutKeeps [.mbx, .vlog, .lanes, .fabric] s (execDacStatus c s) :=
  mervan_keeps (by decide) nofun (fun _ _ _ => doneKeeps_ite (no_keeps _ _ _ _ (by decide) keeps_rfl) (ok_keeps _ _ (by decide) keeps_rfl))

theorem execDacRotation_keeps {c : Cmd} : OutKeeps [.mbx, .vlog, .drive, .lanes, .fabric, .red] s (execDacRotation c s) :=
  mervan_keeps (by decide) nofun (fun _ _ _ => doneKeeps_ite (no_keeps _ _ _ _ (by decide) keeps_rfl)
    (done_keeps _ (by decide) (modGroup_keeps _ _ _ (by decide) keeps_rfl)))

theorem execRotationTimer_keeps {g : Group} : OutKeeps [.drive] s (execRotationTimer g s) := by
  unfold execRotationTimer
  refine outKeeps_ite ?_ (outKeeps_next keeps_rfl)
  split
  refine outKeeps_next ?_
  split
  · exact awaitHandover_keeps _ _ _ _ (by decide) (modGroup_keeps _ _ _ (by decide) keeps_rfl)
  · exact modGroup_keeps _ _ _ (by decide) keeps_rfl

theorem execHandover_keeps {g : Group} : OutKeeps [.drive] s (execHandover g s) := by
  unfold execHandover
  dsimp only
  split
  · exact outKeeps_next keeps_rfl
  · exact outKeeps_ite (outKeeps_next (modDrive_keeps _ _ _ (by decide) (modGroup_keeps _ _ _ (by decide) keeps_rfl)))
      (outKeeps_next keeps_rfl)

theorem execCalibrationRunDone_keeps {g : Group} {run : CalRun} :
    OutKeeps [.mbx, .vlog, .drive, .lanes, .fabric] s (execCalibrationRunDone g run s) := by
  unfold execCalibrationRunDone
  extract_lets d x
  split
  · exact outKeeps_next keeps_rfl
  · refine outKeeps_ite (outKeeps_next keeps_rfl) ?_
    split
    · exact outKeeps_next (modGroup_keeps _ _ _ (by decide) keeps_rfl)
    · split
      have ho := keeps_pair ‹_› (meanTrim_keeps (ch := [.mbx, .vlog, .drive, .lanes, .fabric]) _ _ d (by decide) keeps_rfl)
      split
      exact outKeeps_next (calEnds_keeps _ _ _ _ (by decide) (keeps_pair ‹_› (meanTrim_keeps _ _ _ (by decide) ho)))

theorem execMonitorVisit_keeps {h : Head} {sense isen therm : Nat} :
    OutKeeps [.mbx, .vlog, .fire, .links, .drive, .lanes, .fabric] s (execMonitorVisit h sense isen therm s) := by
  unfold execMonitorVisit
  extract_lets d x bad sb ib tb visited measured deviated faulted
  have hm : Keeps [.mbx, .vlog, .fire, .links, .drive, .lanes, .fabric] s.dev measured :=
    modDrive_keeps _ _ _ (by decide) (modGroup_keeps _ _ _ (by decide) keeps_rfl)
  have hd : Keeps [.mbx, .vlog, .fire, .links, .drive, .lanes, .fabric] s.dev deviated :=
    keeps_ite (driveDeviation_keeps _ _ (by decide) hm) hm
  have hf : Keeps [.mbx, .vlog, .fire, .links, .drive, .lanes, .fabric] s.dev faulted := keeps_ite (driveFault_keeps _ _ _ (by decide) hd) hd
  exact outKeeps_ite (outKeeps_next (keeps_ite (driveFault_keeps _ _ _ (by decide) hf) hf)) (outKeeps_next keeps_rfl)

/-! Head supplies -/

theorem execHvConfig_keeps {c : Cmd} {modes : List BusResult} :
    OutKeeps [.mbx, .vlog, .jobs, .fire, .drive, .lanes, .fabric, .red] s (execHvConfig c modes s) := by
  refine mervan_keeps (by decide) nofun (fun _ a d => ?_)
  have hm : ∀ es, Keeps [.mbx, .vlog, .jobs, .fire, .drive, .lanes, .fabric, .red] d (readModes es modes d) :=
    fun es => readModes_keeps es modes d (by decide) keeps_rfl
  exact doneKeeps_ite (no_keeps _ _ _ _ (by decide) keeps_rfl) (doneKeeps_ite (no_keeps _ _ _ _ (by decide) keeps_rfl)
    (doneKeeps_ite (no_keeps _ _ _ _ (by decide) keeps_rfl) (doneKeeps_ite (no_keeps _ _ _ _ (by decide) (hm _))
    (doneKeeps_ite (no_keeps _ _ _ _ (by decide) (hm _)) (done_keeps _ (by decide) (noteReady_keeps _ _ (by decide)
    (keeps_foldl (fun _ _ => pmbWrite_keeps _ _ _ _ (by decide) keeps_rfl) (keeps_set_drive (by decide) (hm _)))))))))

theorem execHvPower_keeps {c : Cmd} : OutKeeps [.mbx, .vlog, .jobs, .fire, .links, .drive, .lanes, .fabric] s (execHvPower c s) :=
  mervan_keeps (by decide) nofun (fun _ _ _ => doneKeeps_ite (no_keeps _ _ _ _ (by decide) keeps_rfl) (doneKeeps_ite
    (no_keeps _ _ _ _ (by decide) keeps_rfl) (doneKeeps_ite (no_keeps _ _ _ _ (by decide) keeps_rfl) (doneKeeps_ite
    (no_keeps _ _ _ _ (by decide) keeps_rfl) (doneKeeps_ite
    (doneKeeps_ite (ok_keeps _ _ (by decide) (clearSupplyInhibit_keeps _ (by decide) keeps_rfl))
      (doneKeeps_later (nextStep_keeps _ (by decide) (keeps_set_drive (by decide) keeps_rfl))))
    (ok_keeps _ _ (by decide) (noteReady_keeps _ _ (by decide) (turnOff_keeps _ _ (by decide)
      (supplyInhibit_keeps _ _ (by decide) keeps_rfl)))))))))

theorem execHvStepGood_keeps {k : Supply} :
    OutKeeps [.mbx, .vlog, .jobs, .fire, .links, .drive, .lanes, .fabric] s (execHvStepGood k s) := by
  unfold execHvStepGood
  extract_lets d was e _ f
  have hf : Keeps [.mbx, .vlog, .jobs, .fire, .links, .drive, .lanes, .fabric] s.dev f :=
    keeps_set_drive (by decide) (modSup_keeps _ _ _ (by decide) keeps_rfl)
  exact outKeeps_ite (outKeeps_next (noteReady_keeps _ _ (by decide) (keeps_ite (sequenceDone_keeps _ (by decide) hf) hf)))
    (outKeeps_next keeps_rfl)

theorem execOnDelayExpiry_keeps : OutKeeps [.mbx, .vlog, .fire, .drive, .lanes, .fabric] s (execOnDelayExpiry s) :=
  outKeeps_ite (outKeeps_next (nextStep_keeps _ (by decide) keeps_rfl)) (outKeeps_next keeps_rfl)

theorem execPgTimeout_keeps {k : Supply} : OutKeeps [.mbx, .vlog, .jobs, .fire, .drive, .lanes, .fabric] s (execPgTimeout k s) :=
  outKeeps_ite (outKeeps_next (noteReady_keeps _ _ (by decide) (finishWork_keeps _ _ _ (by decide) (raise_keeps _ _ _ (by decide)
    (keeps_set_drive (by decide) (turnOff_keeps _ _ (by decide) keeps_rfl)))))) (outKeeps_next keeps_rfl)

theorem execHvLimits_keeps {c : Cmd} : OutKeeps [.mbx, .vlog, .fire, .drive, .lanes, .fabric, .red] s (execHvLimits c s) := by
  unfold execHvLimits
  refine mervan_keeps (by decide) nofun (fun _ _ _ => doneKeeps_ite (no_keeps _ _ _ _ (by decide) keeps_rfl) ?_)
  split
  · exact no_keeps _ _ _ _ (by decide) keeps_rfl
  · exact done_keeps _ (by decide) (modSup_keeps _ _ _ (by decide) (pmbWrite_keeps _ _ _ _ (by decide) keeps_rfl))

theorem execHvStatus_keeps {c : Cmd} : OutKeeps [.mbx, .vlog, .lanes, .fabric] s (execHvStatus c s) :=
  mervan_keeps (by decide) nofun (fun _ _ _ => ok_keeps _ _ (by decide) keeps_rfl)

theorem execPmbusStatusPoll_keeps {k : Supply} {result : BusResult} :
    OutKeeps [.mbx, .vlog, .jobs, .fire, .drive, .lanes, .fabric] s (execPmbusStatusPoll k result s) := by
  unfold execPmbusStatusPoll
  dsimp only
  split
  · exact outKeeps_ite (outKeeps_next (noteReady_keeps _ _ (by decide) (pmbRead_keeps _ _ _ _ _ (by decide)
      (fun _ _ => takeStatusWord_keeps _ _ _ _ (by decide) keeps_rfl) (keeps_ite (adoptSupplies_keeps _ _ (by decide) keeps_rfl)
      (retryWrites_keeps _ _ _ (by decide) keeps_rfl))))) (outKeeps_next keeps_rfl)
  · exact outKeeps_next keeps_rfl

theorem execPmbusTelemetryPoll_keeps {k : Supply} {vout iout temp : BusResult} :
    OutKeeps [.mbx, .vlog, .fire, .drive, .lanes, .fabric] s (execPmbusTelemetryPoll k vout iout temp s) := by
  unfold execPmbusTelemetryPoll
  dsimp only
  split
  · exact outKeeps_ite (outKeeps_next (pmbRead_keeps _ _ _ _ _ (by decide) (fun _ _ => modSup_keeps _ _ _ (by decide) keeps_rfl)
      (pmbRead_keeps _ _ _ _ _ (by decide) (fun _ _ => modSup_keeps _ _ _ (by decide) keeps_rfl)
      (pmbRead_keeps _ _ _ _ _ (by decide) (fun _ _ => modSup_keeps _ _ _ (by decide) keeps_rfl)
      (adoptSupplies_keeps _ _ (by decide) keeps_rfl))))) (outKeeps_next keeps_rfl)
  · exact outKeeps_next keeps_rfl

theorem execPmbAlert_keeps {alert : AlertRead} {result : BusResult} :
    OutKeeps [.mbx, .vlog, .jobs, .fire, .drive, .lanes, .fabric] s (execPmbAlert alert result s) := by
  unfold execPmbAlert
  extract_lets d adopted _ fell _ answered n
  have ha : Keeps [.mbx, .vlog, .jobs, .fire, .drive, .lanes, .fabric] s.dev adopted := adoptSupplies_keeps _ _ (by decide) keeps_rfl
  have hf : Keeps [.mbx, .vlog, .jobs, .fire, .drive, .lanes, .fabric] s.dev fell := keeps_ite (keeps_set_drive (by decide) ha) ha
  refine outKeeps_ite (outKeeps_next keeps_rfl) ?_
  split
  · have he : Keeps [.mbx, .vlog, .jobs, .fire, .drive, .lanes, .fabric] s.dev answered := keeps_set_drive (by decide) hf
    split
    · exact outKeeps_ite (outKeeps_next he) (outKeeps_next (noteReady_keeps _ _ (by decide) (pmbRead_keeps _ _ _ _ _ (by decide)
        (fun _ _ => takeStatusWord_keeps _ _ _ _ (by decide) keeps_rfl) he)))
    · exact outKeeps_next he
  · exact outKeeps_ite (outKeeps_next (keeps_set_drive (by decide) hf))
      (outKeeps_next (pmbViolation_keeps _ _ _ _ (by decide) (keeps_set_drive (by decide) hf)))

theorem execPmbStretch_keeps : OutKeeps [.mbx, .vlog, .drive, .lanes, .fabric] s (execPmbStretch s) :=
  outKeeps_ite (outKeeps_next (pmbRecover_keeps _ (by decide) (pmbViolation_keeps _ _ _ _ (by decide) keeps_rfl))) (outKeeps_next keeps_rfl)

theorem execPmbSilent_keeps {k : Supply} : OutKeeps [.mbx, .vlog, .jobs, .fire, .drive, .lanes, .fabric] s (execPmbSilent k s) := by
  unfold execPmbSilent
  dsimp only
  split
  · exact outKeeps_ite (outKeeps_next (noteReady_keeps _ _ (by decide) (addressFails_keeps _ _ (by decide)
      (isolatePartner_keeps _ _ _ (by decide) (pmbViolation_keeps _ _ _ _ (by decide) keeps_rfl))))) (outKeeps_next keeps_rfl)
  · exact outKeeps_next keeps_rfl

end

/-- Settles O38: the rows of a head adapter change that adapter alone, and each other row has its own lemma above. -/
theorem headAndDriveRowsFrame : Obligations.HeadAndDriveRowsFrame :=
  ⟨outKeeps_onlyChanges fun _ => execHeadSafeNFall_keeps,
    fun _ => outKeeps_onlyChanges fun _ => execRotationTimer_keeps,
    fun _ => outKeeps_onlyChanges fun _ => execHandover_keeps,
    outKeeps_onlyChanges fun _ => execOnDelayExpiry_keeps,
    fun h facts => onlyChanges_adapters fun s => adapterPowerUp_only h s facts,
    fun h port cell => onlyChanges_adapters fun s => (adapterLineCell_advances h port s cell).only,
    fun h port cell => onlyChanges_adapters fun s => (adapterFireCell_advances h port s cell).only,
    fun h => onlyChanges_adapters fun s => (adapterFireTrigger_advances h s).only,
    fun h port cell => onlyChanges_adapters fun s => (adapterControlCell_advances h port s cell).only,
    fun h => onlyChanges_adapters fun s => (adapterHeadSafe_advances h s).only,
    fun r => onlyChanges_adapters fun s => (adapterReportTimer_advances s r).only,
    fun _ => outKeeps_onlyChanges fun _ => execHeadStatus_keeps,
    fun _ => outKeeps_onlyChanges fun _ => execDacStatus_keeps,
    fun _ => outKeeps_onlyChanges fun _ => execHvStatus_keeps,
    outKeeps_onlyChanges fun _ => execPmbStretch_keeps,
    fun _ => outKeeps_onlyChanges fun _ => execHeadSafe_keeps,
    fun _ => outKeeps_onlyChanges fun _ => execDacCalibrate_keeps,
    fun _ _ _ _ => outKeeps_onlyChanges fun _ => execPmbusTelemetryPoll_keeps,
    outKeeps_onlyChanges fun _ => execHeadSafeNRise_keeps,
    fun _ => outKeeps_onlyChanges fun _ => execWaveTrim_keeps,
    fun _ => outKeeps_onlyChanges fun _ => execWaveLimits_keeps,
    fun _ => outKeeps_onlyChanges fun _ => execWaveConfig_keeps,
    fun _ => outKeeps_onlyChanges fun _ => execDacRotation_keeps,
    fun _ => outKeeps_onlyChanges fun _ => execHvLimits_keeps,
    fun _ => outKeeps_onlyChanges fun _ => execPgTimeout_keeps,
    fun _ _ => outKeeps_onlyChanges fun _ => execCalibrationRunDone_keeps,
    fun _ => outKeeps_onlyChanges fun _ => execHeadEcho_keeps,
    fun _ _ => outKeeps_onlyChanges fun _ => execStatusIdentReceived_keeps,
    fun _ _ _ => outKeeps_onlyChanges fun _ => execStatusEchoReceived_keeps,
    fun _ => outKeeps_onlyChanges fun _ => execWaveLoad_keeps,
    fun _ _ => outKeeps_onlyChanges fun _ => execHvConfig_keeps,
    fun _ _ => outKeeps_onlyChanges fun _ => execPmbusStatusPoll_keeps,
    fun _ _ => outKeeps_onlyChanges fun _ => execPmbAlert_keeps,
    fun _ => outKeeps_onlyChanges fun _ => execPmbSilent_keeps,
    fun _ => outKeeps_onlyChanges fun _ => execHeadWitness_keeps,
    fun _ _ => outKeeps_onlyChanges fun _ => execStatusWitnessReceived_keeps,
    fun _ => outKeeps_onlyChanges fun _ => execHeadLink_keeps,
    fun _ => outKeeps_onlyChanges fun _ => execHvStepGood_keeps,
    fun _ _ _ _ => outKeeps_onlyChanges fun _ => execMonitorVisit_keeps,
    fun _ => outKeeps_onlyChanges fun _ => execControlReplyTimeout_keeps,
    fun _ => outKeeps_onlyChanges fun _ => execStatusSilent_keeps,
    fun _ => outKeeps_onlyChanges fun _ => execFhlCrcBurst_keeps,
    fun _ => outKeeps_onlyChanges fun _ => execHvPower_keeps,
    fun _ _ => outKeeps_onlyChanges fun _ => execStatusReportReceived_keeps⟩

end Sys2Proof.Machine
end

section
/-! SUPPORT. The rules of the waveform and DAC commands and rows (R143 to R162): each command runs its own rule once it is accepted, and each
row answers the next state of its own effect. -/
namespace Sys2Proof.Machine

/-! Waveform commands -/

/-- An image without a fault goes to its load, which is the rule's effect; the rest of the rule's condition is the load's own (R148, R149). -/
theorem waveLoadRule_holds : waveLoadRule.Holds .waveLoad := by
  refine Rule.holds_of (fun _ _ => rfl) (fun c a d hcan => ?_)
  obtain ⟨hsound, -⟩ := Bool.and_eq_true_iff.mp hcan
  rw [Option.isNone_iff_eq_none] at hsound
  exact congrArg (fun fault => match fault with | some e => answerImage e d | none => waveLoadRule.out c a d) hsound

theorem waveTrimRule_holds : waveTrimRule.Holds .waveTrim :=
  Rule.holds_of (fun _ _ => rfl) (fun _ _ _ hcan => if_neg (by simpa [waveTrimRule] using hcan))

/-- Under the rule's condition neither refusal of wave.limits applies: every head named is on the variant, and none has a LIMIT too low for its
waveform (R152). -/
theorem waveLimitsRule_holds : waveLimitsRule.Holds .waveLimits := by
  refine Rule.holds_of (fun _ _ => rfl) (fun c a d hcan => ?_)
  obtain ⟨hfused, hlimit⟩ := Bool.and_eq_true_iff.mp hcan
  exact (ite_of_not hfused).trans (ite_of_not hlimit)

theorem waveConfigRule_holds : waveConfigRule.Holds .waveConfig :=
  Rule.holds_of (fun _ _ => rfl) (fun _ _ _ hcan => if_neg (by simpa [waveConfigRule] using hcan))

/-! DAC commands -/

/-- Under the rule's condition the group is on the variant and has no calibration work; the third refusal is part of the rule's own effect
(R161). -/
theorem dacCalibrateRule_holds : dacCalibrateRule.Holds .dacCalibrate := by
  refine Rule.holds_of (fun _ _ => rfl) (fun c a d hcan => ?_)
  simp only [dacCalibrateRule, Bool.and_eq_true] at hcan
  obtain ⟨⟨hgroup, hidle⟩, -⟩ := hcan
  exact (if_neg (by simp [hgroup])).trans (ite_of_not hidle)

theorem dacStatusRule_holds : dacStatusRule.Holds .dacStatus :=
  Rule.holds_of (fun _ _ => rfl) (fun _ _ _ hcan => if_neg (by simpa [dacStatusRule] using hcan))

theorem dacRotationRule_holds : dacRotationRule.Holds .dacRotation :=
  Rule.holds_of (fun _ _ => rfl) (fun _ _ _ hcan => if_neg (by simpa [dacRotationRule] using hcan))

/-! Rotation and calibration -/

theorem rotationTimerRule_holds (g : Group) : (rotationTimerRule g).Holds (.rotationTimer g) := fun _ hc => if_pos hc

/-- Under the rule's condition a pin waits for its handover and may be handed over now (R156, R157). -/
theorem handoverRule_holds (g : Group) : (handoverRule g).Holds (.handover g) := by
  intro s hc
  show execHandover g s = _
  cases hwaiting : s.dev.drive.groups[g].waiting with
  | none => simp only [handoverRule, hwaiting, Bool.and_false, Bool.false_eq_true] at hc
  | some w =>
    obtain ⟨j, why⟩ := w
    simp only [handoverRule, hwaiting] at hc
    simp only [execHandover, handoverRule, hwaiting, hc, if_true, next_eq]

/-- A calibration run is the first of its core, which is kept, or the second, which ends the calibration (R158). -/
theorem calibrationRunDoneRule_holds (g : Group) (run : CalRun) : (calibrationRunDoneRule g run).Holds (.calibrationRunDone g run) := by
  intro s hc
  obtain ⟨hon, -⟩ := Bool.and_eq_true_iff.mp hc
  show execCalibrationRunDone g run s = _
  cases hcal : s.dev.drive.groups[g].cal with
  | none => simp only [execCalibrationRunDone, calibrationRunDoneRule, hcal, next_eq]
  | some k =>
    obtain ⟨core, first⟩ := k
    cases first <;>
      simp only [execCalibrationRunDone, calibrationRunDoneRule, hcal, hon, Bool.not_true, Bool.false_eq_true, if_false, next_eq]

theorem monitorVisitRule_holds (h : Head) (sense isen therm : Nat) :
    (monitorVisitRule h sense isen therm).Holds (.monitorVisit h sense isen therm) := fun _ hc => if_pos hc

/-- Settles O18: the rule of each waveform and DAC command and row holds. -/
theorem waveformsComplete : Obligations.WaveformsComplete :=
  ⟨waveLoadRule_holds, waveTrimRule_holds, waveLimitsRule_holds, waveConfigRule_holds, dacCalibrateRule_holds, dacStatusRule_holds,
    dacRotationRule_holds, rotationTimerRule_holds, handoverRule_holds, calibrationRunDoneRule_holds, monitorVisitRule_holds⟩

end Sys2Proof.Machine
end

section
/-! SUPPORT. The rules of the drive supply commands and rows (R163 to R166): each command runs its own rule once it is accepted, and each row
answers the next state of its own effect. -/
namespace Sys2Proof.Machine

/-! Supply commands -/

/-- With the power bus off no VOUT_MODE is read, so the bus that is on after the reads was on before them. -/
theorem pmbOn_of_readModes {es : List SupplyCfg} {modes : List BusResult} {d : Device} (hon : pmbOn (readModes es modes d) = true) :
    pmbOn d = true := by
  by_contra hoff
  rw [readModes, if_neg hoff] at hon
  exact hoff hon

/-- Under the rule's condition no refusal of hv.config applies: the entries are in number and on the variant's heads, the pads are not held,
every VOUT_MODE is linear and no VOUT is above its VOUT_MAX (R163). -/
theorem hvConfigRule_holds (modes : List BusResult) : (hvConfigRule modes).Holds (.hvConfig · modes) := by
  refine Rule.holds_of (fun _ _ => rfl) (fun c a d hcan => ?_)
  simp only [hvConfigRule, Bool.and_eq_true] at hcan
  obtain ⟨⟨⟨⟨hcount, hheads⟩, hpads⟩, hmode⟩, hlimit⟩ := hcan
  refine (if_neg (by simpa using hcount)).trans ((ite_of_not hheads).trans ((ite_of_not hpads).trans ?_))
  dsimp only
  refine (if_neg fun hrefused => ?_).trans (ite_of_not hlimit)
  obtain ⟨hon, hother⟩ := Bool.and_eq_true_iff.mp hrefused
  rw [pmbOn_of_readModes hon, hother] at hmode
  cases hmode

/-- Under the rule's condition no refusal of hv.power applies: the supplies named are configured, the pads are not held, the bus runs and no
sequence does (R164). -/
theorem hvPowerRule_holds : hvPowerRule.Holds .hvPower := by
  refine Rule.holds_of (fun _ _ => rfl) (fun c a d hcan => ?_)
  simp only [hvPowerRule, Bool.and_eq_true] at hcan
  obtain ⟨⟨⟨hnamed, hpads⟩, hbus⟩, hidle⟩ := hcan
  exact (ite_of_not hnamed).trans ((ite_of_not hpads).trans ((if_neg (by simp [hbus])).trans (ite_of_not hidle)))

/-- Under the rule's condition the pads are not held; with no entry for the supply the rule's effect refuses as hv.limits does (R163). -/
theorem hvLimitsRule_holds : hvLimitsRule.Holds .hvLimits := by
  refine Rule.holds_of (fun _ _ => rfl) (fun c a d hcan => ?_)
  obtain ⟨hpads, -⟩ := Bool.and_eq_true_iff.mp hcan
  exact ite_of_not hpads

theorem hvStatusRule_holds : hvStatusRule.Holds .hvStatus := Rule.holds_of_out (fun _ _ => rfl)

/-! The power sequence -/

theorem hvStepGoodRule_holds (k : Supply) : (hvStepGoodRule k).Holds (.hvStepGood k) := fun _ hc => if_pos hc

theorem onDelayExpiryRule_holds : onDelayExpiryRule.Holds .onDelayExpiry := fun _ hc => if_pos hc

theorem pgTimeoutRule_holds (k : Supply) : (pgTimeoutRule k).Holds (.pgTimeout k) := fun _ hc => if_pos hc

/-! The power bus -/

/-- Under a row's condition on its supply, the supply is configured and not isolated. -/
theorem supplyEntry_of_met {d : Device} {k : Supply} (hc : (match supplyEntry d k with | some e => !supplyIsolated d e | none => false) = true) :
    ∃ e, supplyEntry d k = some e ∧ supplyIsolated d e = false := by
  cases hentry : supplyEntry d k with
  | none => simp [hentry] at hc
  | some e => exact ⟨e, rfl, by simpa [hentry] using hc⟩

theorem pmbusStatusPollRule_holds (k : Supply) (result : BusResult) : (pmbusStatusPollRule k result).Holds (.pmbusStatusPoll k result) := by
  intro s hc
  obtain ⟨hbus, hsupply⟩ := Bool.and_eq_true_iff.mp hc
  obtain ⟨e, hentry, hreached⟩ := supplyEntry_of_met hsupply
  show execPmbusStatusPoll k result s = _
  simp only [execPmbusStatusPoll, pmbusStatusPollRule, hentry, hbus, hreached, Bool.not_false, Bool.and_self, if_true, next_eq]

theorem pmbusTelemetryPollRule_holds (k : Supply) (vout iout temp : BusResult) :
    (pmbusTelemetryPollRule k vout iout temp).Holds (.pmbusTelemetryPoll k vout iout temp) := by
  intro s hc
  obtain ⟨hbus, hsupply⟩ := Bool.and_eq_true_iff.mp hc
  obtain ⟨e, hentry, hreached⟩ := supplyEntry_of_met hsupply
  show execPmbusTelemetryPoll k vout iout temp s = _
  simp only [execPmbusTelemetryPoll, pmbusTelemetryPollRule, hentry, hbus, hreached, Bool.not_false, Bool.and_self, if_true, next_eq]

/-- Under the rule's condition the alert is read: the supply that responds is read in its turn, and a read that none answers is counted
(R165, Table 6.11). -/
theorem pmbAlertRule_holds (alert : AlertRead) (result : BusResult) : (pmbAlertRule alert result).Holds (.pmbAlert alert result) := by
  intro s hc
  obtain ⟨hreads, -⟩ := Bool.and_eq_true_iff.mp hc
  refine (ite_of_not hreads).trans ?_
  show _ = next s _
  simp only [pmbAlertRule]
  cases alert.responder with
  | none => exact next_ite.symm
  | some k =>
    dsimp only
    generalize supplyEntry _ k = entry
    cases entry with
    | none => rfl
    | some e => exact next_ite.symm

theorem pmbStretchRule_holds : pmbStretchRule.Holds .pmbStretch := fun _ hc => if_pos hc

theorem pmbSilentRule_holds (k : Supply) : (pmbSilentRule k).Holds (.pmbSilent k) := by
  intro s hc
  obtain ⟨htries, hsupply⟩ := Bool.and_eq_true_iff.mp hc
  obtain ⟨e, hentry, hreached⟩ := supplyEntry_of_met hsupply
  show execPmbSilent k s = _
  simp only [execPmbSilent, pmbSilentRule, hentry, htries, hreached, Bool.not_false, Bool.and_self, if_true, next_eq]

/-- Settles O19: the rule of each drive supply command and row holds. -/
theorem suppliesComplete : Obligations.SuppliesComplete :=
  ⟨hvConfigRule_holds, hvPowerRule_holds, hvLimitsRule_holds, hvStatusRule_holds, hvStepGoodRule_holds, onDelayExpiryRule_holds,
    pgTimeoutRule_holds, pmbusStatusPollRule_holds, pmbusTelemetryPollRule_holds, pmbAlertRule_holds, pmbStretchRule_holds,
    pmbSilentRule_holds⟩

end Sys2Proof.Machine
end

section
/-! SUPPORT. The rows of chapters 7 and 8: the fields of the device that each may change. -/
namespace Sys2Proof.Machine

-- One theorem after another, as in the section of the frames of chapters 1 to 4.
set_option Elab.async false

section
variable {ch : List DevField} {a d : Device}

theorem keeps_set_cams {x : Cams} (hc : within [.cams] ch = true) (hk : Keeps ch a d) : Keeps ch a { d with cams := x } :=
  Keeps.step (c := [.cams]) ⟨fun f hf => by cases f with | cams => simp at hf | _ => rfl⟩ hc hk

theorem keeps_set_loop {x : Loop} (hc : within [.loop] ch = true) (hk : Keeps ch a d) : Keeps ch a { d with loop := x } :=
  Keeps.step (c := [.loop]) ⟨fun f hf => by cases f with | loop => simp at hf | _ => rfl⟩ hc hk

end

section
variable {s : State}

/-! Camera commands -/

theorem execCamConfig_keeps {c : Cmd} : OutKeeps [.mbx, .vlog, .cams, .lanes, .fabric, .red] s (execCamConfig c s) :=
  mervan_keeps (by decide) nofun (fun _ _ _ => doneKeeps_ite (no_keeps _ _ _ _ (by decide) keeps_rfl) (doneKeeps_ite
    (no_keeps _ _ _ _ (by decide) keeps_rfl) (done_keeps _ (by decide) (modCam_keeps _ _ _ (by decide) keeps_rfl))))

theorem execCamRun_keeps {c : Cmd} : OutKeeps [.mbx, .vlog, .acct, .cams, .loop, .dram, .lanes, .fabric, .red] s (execCamRun c s) := by
  unfold execCamRun
  refine mervan_keeps (by decide) nofun (fun _ _ _ => doneKeeps_ite (no_keeps _ _ _ _ (by decide) keeps_rfl) (doneKeeps_ite
    (done_keeps _ (by decide) (serveFirst_keeps _ (by decide) (keeps_foldl (fun _ _ => stopPort_keeps _ _ (by decide) keeps_rfl) keeps_rfl)))
    ?_))
  dsimp only
  split
  · exact no_keeps _ _ _ _ (by decide) keeps_rfl
  · exact doneKeeps_ite (no_keeps _ _ _ _ (by decide) keeps_rfl) (doneKeeps_ite (no_keeps _ _ _ _ (by decide) keeps_rfl)
      (done_keeps _ (by decide) (serveFirst_keeps _ (by decide)
        (keeps_foldl (fun _ _ => startPort_keeps _ _ (by decide) keeps_rfl) keeps_rfl))))

theorem execCamSettings_keeps {c : Cmd} :
    OutKeeps [.mbx, .vlog, .cams, .dram, .lanes, .fabric, .red] s (execCamSettings c s) := by
  unfold execCamSettings
  refine mervan_keeps (by decide) (fun _ => by decide) (fun _ _ d => ?_)
  extract_lets p b
  refine doneKeeps_ite (no_keeps _ _ _ _ (by decide) keeps_rfl) (doneKeeps_ite (no_keeps _ _ _ _ (by decide) keeps_rfl) ?_)
  split
  · split
    · exact poisoned_keeps _ _ (by decide) keeps_rfl
    · exact no_keeps _ _ _ _ (by decide) keeps_rfl
  · extract_lets seen e
    have he : Keeps [.mbx, .vlog, .cams, .dram, .lanes, .fabric, .red] d e := modCam_keeps _ _ _ (by decide)
      (dirty_keeps _ (by decide) (dramSee_keeps _ _ _ (by decide) (dramSee_keeps _ _ _ (by decide) keeps_rfl)))
    exact doneKeeps_ite (doneKeeps_later he) (doneKeeps_ite (ok_keeps _ _ (by decide) (modCam_keeps _ _ _ (by decide) he))
      (doneKeeps_later (beginSettings_keeps _ _ _ (by decide) he)))

theorem execCamSchedule_keeps {c : Cmd} : OutKeeps [.mbx, .vlog, .cams, .lanes, .fabric, .red] s (execCamSchedule c s) :=
  mervan_keeps (by decide) nofun (fun _ _ _ => doneKeeps_ite (no_keeps _ _ _ _ (by decide) keeps_rfl)
    (done_keeps _ (by decide) (keeps_set_cams (by decide) keeps_rfl)))

theorem execCamStream_keeps {c : Cmd} : OutKeeps [.mbx, .vlog, .cams, .lanes, .fabric, .red] s (execCamStream c s) :=
  mervan_keeps (by decide) nofun (fun _ _ _ => doneKeeps_ite (no_keeps _ _ _ _ (by decide) keeps_rfl)
    (done_keeps _ (by decide) (keeps_set_cams (by decide) keeps_rfl)))

theorem execCamRelease_keeps {c : Cmd} : OutKeeps [.mbx, .vlog, .cams, .lanes, .fabric] s (execCamRelease c s) :=
  mervan_keeps (by decide) nofun (fun _ _ _ => doneKeeps_ite (no_keeps _ _ _ _ (by decide) keeps_rfl)
    (ok_keeps _ _ (by decide) (keeps_set_cams (by decide) keeps_rfl)))

theorem execCamTables_keeps {c : Cmd} : OutKeeps [.mbx, .vlog, .cams, .dram, .lanes, .fabric, .red] s (execCamTables c s) := by
  unfold execCamTables
  refine mervan_keeps (by decide) (fun _ => by decide) (fun _ _ _ => ?_)
  dsimp only
  split
  · exact poisoned_keeps _ _ (by decide) keeps_rfl
  · exact doneKeeps_ite (no_keeps _ _ _ _ (by decide) keeps_rfl) (doneKeeps_ite (no_keeps _ _ _ _ (by decide) keeps_rfl)
      (done_keeps _ (by decide) (modCam_keeps _ _ _ (by decide) keeps_rfl)))

theorem execCamDarkCal_keeps {c : Cmd} : OutKeeps [.mbx, .vlog, .cams, .lanes, .fabric] s (execCamDarkCal c s) :=
  mervan_keeps (by decide) nofun (fun _ _ _ => doneKeeps_ite (no_keeps _ _ _ _ (by decide) keeps_rfl) (doneKeeps_ite
    (no_keeps _ _ _ _ (by decide) keeps_rfl) (doneKeeps_later (modCam_keeps _ _ _ (by decide) keeps_rfl))))

theorem execCamWhiteCal_keeps {c : Cmd} : OutKeeps [.mbx, .vlog, .cams, .lanes, .fabric] s (execCamWhiteCal c s) :=
  mervan_keeps (by decide) nofun (fun _ _ _ => doneKeeps_ite (no_keeps _ _ _ _ (by decide) keeps_rfl) (doneKeeps_ite
    (no_keeps _ _ _ _ (by decide) keeps_rfl) (doneKeeps_ite (doneKeeps_later (modCam_keeps _ _ _ (by decide) keeps_rfl))
    (ok_keeps _ _ (by decide) (modCam_keeps _ _ _ (by decide) keeps_rfl)))))

theorem execCamFocus_keeps {c : Cmd} : OutKeeps [.mbx, .vlog, .cams, .lanes, .fabric, .red] s (execCamFocus c s) :=
  mervan_keeps (by decide) nofun (fun _ _ _ => doneKeeps_ite (no_keeps _ _ _ _ (by decide) keeps_rfl) (doneKeeps_ite
    (done_keeps _ (by decide) (modCam_keeps _ _ _ (by decide) keeps_rfl)) (doneKeeps_ite (no_keeps _ _ _ _ (by decide) keeps_rfl)
    (done_keeps _ (by decide) (focusWrite_keeps _ _ _ (by decide) (modCam_keeps _ _ _ (by decide) keeps_rfl))))))

theorem execCamBand_keeps {c : Cmd} : OutKeeps [.mbx, .vlog, .acct, .cams, .lanes, .fabric, .red] s (execCamBand c s) :=
  mervan_keeps (by decide) nofun (fun _ a d => done_keeps _ (by decide)
    (keeps_set_acct (d := { d with cams := { d.cams with partialMin := argN a 0 } }) (by decide)
      (keeps_set_cams (by decide) keeps_rfl)))

theorem execCamStats_keeps {c : Cmd} : OutKeeps [.mbx, .vlog, .cams, .lanes, .fabric] s (execCamStats c s) := by
  unfold execCamStats
  refine mervan_keeps (by decide) nofun (fun _ _ _ => ?_)
  dsimp only
  split
  · exact no_keeps _ _ _ _ (by decide) keeps_rfl
  · exact ok_keeps _ _ (by decide) (modCam_keeps _ _ _ (by decide) keeps_rfl)

theorem execCamCci_keeps {c : Cmd} : OutKeeps [.mbx, .vlog, .cams, .lanes, .fabric] s (execCamCci c s) :=
  mervan_keeps (by decide) nofun (fun _ _ _ => doneKeeps_ite (no_keeps _ _ _ _ (by decide) keeps_rfl) (doneKeeps_ite
    (no_keeps _ _ _ _ (by decide) keeps_rfl) (doneKeeps_ite (no_keeps _ _ _ _ (by decide) keeps_rfl)
    (doneKeeps_later (cciAppend_keeps _ _ _ (by decide) keeps_rfl)))))

theorem execCamStatus_keeps {c : Cmd} : OutKeeps [.mbx, .vlog, .lanes, .fabric] s (execCamStatus c s) :=
  mervan_keeps (by decide) nofun (fun _ _ _ => ok_keeps _ _ (by decide) keeps_rfl)

/-! Triggers and packets -/

theorem execCamTrigger_keeps {p : Port} : OutKeeps [.cams] s (execCamTrigger p s) := by
  unfold execCamTrigger
  extract_lets d _ _ triggered
  have ht : Keeps [.cams] s.dev triggered := modCam_keeps _ _ _ (by decide) keeps_rfl
  exact outKeeps_ite (outKeeps_next keeps_rfl) (outKeeps_next (keeps_ite (modCam_keeps _ _ _ (by decide) ht)
    (issueTrigger_keeps _ _ _ (by decide) ht)))

theorem execCalTimerTrigger_keeps {p : Port} : OutKeeps [.cams] s (execCalTimerTrigger p s) :=
  outKeeps_ite (outKeeps_next (modCam_keeps _ _ _ (by decide) (issueTrigger_keeps _ _ _ (by decide) keeps_rfl))) (outKeeps_next keeps_rfl)

theorem shortPacket_keeps {ch : List DevField} {pkt : ShortPacket} {accept : Port → Device → Device}
    (hc : within [.mbx, .vlog, .cams, .lanes, .fabric] ch = true) (ha : ∀ p e, Keeps ch e (accept p e)) :
    OutKeeps ch s (shortPacket pkt accept s) :=
  outKeeps_ite (outKeeps_next keeps_rfl) (outKeeps_next (csiHeader_keeps _ _ _ _ _ _ _ _ (ha _) (fun _ => keeps_rfl) hc keeps_rfl))

theorem execCsiFrameStart_keeps {pkt : ShortPacket} :
    OutKeeps [.mbx, .vlog, .acct, .cams, .loop, .dram, .lanes, .fabric, .red] s (execCsiFrameStart pkt s) :=
  shortPacket_keeps (by decide) (fun _ _ => frameStart_keeps _ _ (by decide) keeps_rfl)

theorem execCsiFrameEnd_keeps {pkt : ShortPacket} :
    OutKeeps [.mbx, .vlog, .acct, .cams, .loop, .dram, .lanes, .fabric, .red] s (execCsiFrameEnd pkt s) :=
  shortPacket_keeps (by decide) (fun _ _ => frameEnd_keeps _ _ (by decide) keeps_rfl)

theorem execCsiLongPacket_keeps {p : Port} {pkt : LongPacket} :
    OutKeeps [.mbx, .vlog, .acct, .cams, .loop, .dram, .lanes, .fabric, .red] s (execCsiLongPacket p pkt s) := by
  unfold execCsiLongPacket
  extract_lets d _ _ heard _
  have hh : ∀ e, Keeps [.mbx, .vlog, .acct, .cams, .loop, .dram, .lanes, .fabric, .red] e (heard e) :=
    fun _ => modCam_keeps _ _ _ (by decide) keeps_rfl
  exact outKeeps_ite (outKeeps_next keeps_rfl) (outKeeps_next (csiHeader_keeps _ _ _ _ _ _ _ _
    (fun e => framePacket_keeps _ _ _ (by decide) (hh e)) (fun e => keeps_ite (lateLine_keeps _ _ (by decide) (hh e)) (hh e)) (by decide)
    keeps_rfl))

/-! Re-initialisation and camera I2C -/

theorem execCsiCrcBurst_keeps {p : Port} :
    OutKeeps [.mbx, .vlog, .acct, .cams, .loop, .dram, .lanes, .fabric, .red] s (execCsiCrcBurst p s) :=
  outKeeps_ite (outKeeps_next (camReinit_keeps _ _ (by decide) (camViolation_keeps _ _ _ _ _ (by decide) keeps_rfl)))
    (outKeeps_next keeps_rfl)

theorem execSensorSilent_keeps {p : Port} :
    OutKeeps [.mbx, .vlog, .acct, .cams, .loop, .dram, .lanes, .fabric, .red] s (execSensorSilent p s) :=
  outKeeps_ite (outKeeps_next (camReinit_keeps _ _ (by decide) (camViolation_keeps _ _ _ _ _ (by decide) keeps_rfl)))
    (outKeeps_next keeps_rfl)

theorem execLp11Detected_keeps {p : Port} : OutKeeps [.mbx, .vlog, .cams, .lanes, .fabric] s (execLp11Detected p s) := by
  unfold execLp11Detected
  extract_lets d c awake written
  have ha : Keeps [.mbx, .vlog, .cams, .lanes, .fabric] s.dev awake := modCam_keeps _ _ _ (by decide) keeps_rfl
  have hw : Keeps [.mbx, .vlog, .cams, .lanes, .fabric] s.dev written := by
    unfold written
    split
    · exact cciSetWrites_keeps _ _ _ (by decide) ha
    · exact ha
  refine outKeeps_ite (outKeeps_next keeps_rfl) (outKeeps_ite (outKeeps_next ha) (outKeeps_next ?_))
  split
  · exact keeps_ite (beginSettings_keeps _ _ _ (by decide) hw) hw
  · exact hw

theorem execCciTransactionDone_keeps {bus : Bool} {result : BusResult} :
    OutKeeps [.mbx, .vlog, .cams, .lanes, .fabric] s (execCciTransactionDone bus result s) := by
  unfold execCciTransactionDone
  dsimp only
  split
  · exact outKeeps_next keeps_rfl
  · refine outKeeps_ite (outKeeps_next keeps_rfl) (outKeeps_ite (outKeeps_next (cciFails_keeps _ _ _ (by decide)
      (cciPop_keeps _ _ (by decide) keeps_rfl))) ?_)
    split
    · exact outKeeps_next (cciSucceeds_keeps _ _ _ (by decide) (cciPop_keeps _ _ (by decide) (cciTrace_keeps _ _ (by decide) keeps_rfl)))
    · exact outKeeps_ite (outKeeps_next (keeps_set_cams (by decide) (cciViolation_keeps _ _ _ _ _ (by decide) keeps_rfl)))
        (outKeeps_next (cciFails_keeps _ _ _ (by decide) (cciPop_keeps _ _ (by decide)
          (cciViolation_keeps _ _ _ _ _ (by decide) keeps_rfl))))

theorem execCciStretch_keeps {bus : Bool} : OutKeeps [.mbx, .vlog, .cams, .lanes, .fabric] s (execCciStretch bus s) := by
  unfold execCciStretch
  dsimp only
  split
  · exact outKeeps_ite (outKeeps_next (cciTrace_keeps _ _ (by decide) (cciViolation_keeps _ _ _ _ _ (by decide) keeps_rfl)))
      (outKeeps_next keeps_rfl)
  · exact outKeeps_next keeps_rfl

theorem execCciSilent_keeps {p : Port} :
    OutKeeps [.mbx, .vlog, .acct, .cams, .loop, .dram, .lanes, .fabric, .red] s (execCciSilent p s) := by
  unfold execCciSilent
  extract_lets d bus isolated failed dropped finished
  have hi : Keeps [.mbx, .vlog, .acct, .cams, .loop, .dram, .lanes, .fabric, .red] s.dev isolated :=
    isolatePartner_keeps _ _ _ (by decide) (cciViolation_keeps _ _ _ _ _ (by decide) keeps_rfl)
  have hf : Keeps [.mbx, .vlog, .acct, .cams, .loop, .dram, .lanes, .fabric, .red] s.dev failed := by
    unfold failed
    split
    · exact keeps_ite (settingsFailed_keeps _ _ _ _ (by decide) hi) hi
    · exact hi
  have hn : Keeps [.mbx, .vlog, .acct, .cams, .loop, .dram, .lanes, .fabric, .red] s.dev finished :=
    finishAll_keeps _ _ _ (by decide) (dropWrites_keeps _ _ _ (by decide) hf)
  exact outKeeps_ite (outKeeps_next (serveFirst_keeps _ (by decide) (raise_keeps _ _ _ (by decide) (stopPort_keeps _ _ (by decide) hn))))
    (outKeeps_next keeps_rfl)

theorem execPipelineLine_keeps {p : Port} : OutKeeps [.acct, .cams, .loop] s (execPipelineLine p s) :=
  outKeeps_ite (outKeeps_next (takeTurn_keeps _ _ (by decide) keeps_rfl)) (outKeeps_next keeps_rfl)

/-! Records of the colour loop -/

/-- A record taken from the inbox is used on the measuring node alone (R200, R201, R218). -/
theorem inboxRecord_keeps {ch : List DevField} {d : Device} {e : U8 × List U8} {use : Device → Device} (hc : within [.cz] ch = true)
    (hu : ∀ x, Keeps ch x (use x)) : Keeps ch d (if d.mbx.measuring then use (takeInbox e d) else takeInbox e d) :=
  keeps_ite ((takeInbox_keeps _ _ hc keeps_rfl).trans (hu _)) (takeInbox_keeps _ _ hc keeps_rfl)

theorem execSpanRecordReceived_keeps {r : SpanRecord} : OutKeeps [.loop, .cz] s (execSpanRecordReceived r s) := by
  unfold execSpanRecordReceived
  split
  · exact outKeeps_next (inboxRecord_keeps (by decide) (fun _ => takeSpan_keeps _ _ (by decide) keeps_rfl))
  · exact outKeeps_next keeps_rfl

theorem execProxyRecordReceived_keeps {r : ProxyRecord} : OutKeeps [.loop, .cz] s (execProxyRecordReceived r s) := by
  unfold execProxyRecordReceived
  split
  · exact outKeeps_next (inboxRecord_keeps (by decide) (fun _ => takeProxy_keeps _ _ (by decide) keeps_rfl))
  · exact outKeeps_next keeps_rfl

theorem execStripAnalysis_keeps {r : StripRecord} {reversed : BitVec 40} :
    OutKeeps [.mbx, .vlog, .acct, .loop, .cz, .lanes, .fabric] s (execStripAnalysis r reversed s) := by
  unfold execStripAnalysis
  split
  · exact outKeeps_next (inboxRecord_keeps (by decide) (fun _ => analyseStrip_keeps _ _ _ (by decide) keeps_rfl))
  · exact outKeeps_next keeps_rfl

theorem execCorrectionRecordReceived_keeps {r : CorrRecord} : OutKeeps [.acct, .loop] s (execCorrectionRecordReceived r s) :=
  outKeeps_next (takeCorrection_keeps _ _ (by decide) keeps_rfl)

theorem execProxyRecordSend_keeps {colour : Plane} :
    OutKeeps [.mbx, .vlog, .feed, .fire, .loop, .cz, .lanes, .fabric, .red] s (execProxyRecordSend colour s) := by
  unfold execProxyRecordSend
  split
  · extract_lets q dropped
    have hd : Keeps [.mbx, .vlog, .feed, .fire, .loop, .cz, .lanes, .fabric, .red] s.dev dropped :=
      dropProxy_keeps _ _ _ _ _ (by decide) keeps_rfl
    exact outKeeps_next (keeps_ite (takeProxy_keeps _ _ (by decide) hd) (sendRecord_keeps _ _ _ (by decide) hd))
  · exact outKeeps_next keeps_rfl

theorem execStripRecordSend_keeps {colour : Plane} :
    OutKeeps [.mbx, .vlog, .fire, .loop, .cz, .lanes, .fabric, .red] s (execStripRecordSend colour s) := by
  unfold execStripRecordSend
  extract_lets d o
  split
  · extract_lets hs lines b e
    have he : Keeps [.mbx, .vlog, .fire, .loop, .cz, .lanes, .fabric, .red] s.dev e :=
      modOwner_keeps _ _ _ (by decide) (dropEnded_keeps _ _ _ _ (by decide) keeps_rfl)
    exact outKeeps_ite (outKeeps_next keeps_rfl) (outKeeps_next (keeps_ite (keeps_set_cz (by decide) he)
      (sendRecord_keeps _ _ _ (by decide) he)))
  · exact outKeeps_next keeps_rfl

theorem execLoopSolveDone_keeps : OutKeeps [.mbx, .vlog, .acct, .loop, .dram, .lanes, .fabric, .red] s (execLoopSolveDone s) := by
  unfold execLoopSolveDone
  extract_lets _ held
  have hh : Keeps [.mbx, .vlog, .acct, .loop, .dram, .lanes, .fabric, .red] s.dev held :=
    keeps_ite (holdLoop_keeps _ (by decide) keeps_rfl) keeps_rfl
  split
  · exact outKeeps_next hh
  · exact outKeeps_next (keeps_foldl (fun _ _ => solveColour_keeps _ _ _ _ (by decide) keeps_rfl) (keeps_set_loop (by decide) hh))

/-! Commands of the colour loop -/

theorem execLoopConfig_keeps {c : Cmd} : OutKeeps [.mbx, .vlog, .loop, .lanes, .fabric, .red] s (execLoopConfig c s) :=
  mervan_keeps (by decide) nofun (fun _ _ _ => doneKeeps_ite (no_keeps _ _ _ _ (by decide) keeps_rfl)
    (done_keeps _ (by decide) (keeps_set_loop (by decide) keeps_rfl)))

theorem execLoopColour_keeps {c : Cmd} : OutKeeps [.mbx, .vlog, .loop, .lanes, .fabric, .red] s (execLoopColour c s) :=
  mervan_keeps (by decide) nofun (fun _ _ _ => doneKeeps_ite (no_keeps _ _ _ _ (by decide) keeps_rfl)
    (done_keeps _ (by decide) (modColour_keeps _ _ _ (by decide) keeps_rfl)))

theorem execModelLoad_keeps {c : Cmd} : OutKeeps [.mbx, .vlog, .loop, .dram, .lanes, .fabric, .red] s (execModelLoad c s) := by
  unfold execModelLoad
  refine mervan_keeps (by decide) (fun _ => by decide) (fun _ _ d => ?_)
  dsimp only
  split
  · exact poisoned_keeps _ _ (by decide) keeps_rfl
  · exact doneKeeps_ite (no_keeps _ _ _ _ (by decide) keeps_rfl) (doneKeeps_ite (no_keeps _ _ _ _ (by decide) keeps_rfl) (doneKeeps_ite
      (no_keeps _ _ _ _ (by decide) keeps_rfl) (done_keeps _ (by decide) (keeps_ite (keeps_set_loop (by decide) keeps_rfl)
      (swapModel_keeps _ (by decide) (keeps_set_loop (by decide) keeps_rfl))))))

theorem execLoopEnable_keeps {c : Cmd} : OutKeeps [.mbx, .vlog, .loop, .cz, .lanes, .fabric, .red] s (execLoopEnable c s) := by
  unfold execLoopEnable
  refine mervan_keeps (by decide) nofun (fun _ _ d => doneKeeps_ite (no_keeps _ _ _ _ (by decide) keeps_rfl) (doneKeeps_ite ?_
    (done_keeps _ (by decide) (keeps_foldl (fun _ _ => modColour_keeps _ _ _ (by decide) keeps_rfl) keeps_rfl))))
  extract_lets spanned
  have hs : Keeps [.mbx, .vlog, .loop, .cz, .lanes, .fabric, .red] d spanned := by
    refine keeps_foldl (fun _ _ => keeps_ite ?_ keeps_rfl) keeps_rfl
    split
    · exact takeSpan_keeps _ _ (by decide) keeps_rfl
    · exact keeps_rfl
  split
  · exact no_keeps _ _ _ _ (by decide) keeps_rfl
  · exact done_keeps _ (by decide) (holdLoop_keeps _ (by decide) (sendSpans_keeps _ _ (by decide)
      (keeps_foldl (fun _ _ => modColour_keeps _ _ _ (by decide) keeps_rfl) hs)))

theorem execLoopStatus_keeps {c : Cmd} : OutKeeps [.mbx, .vlog, .lanes, .fabric] s (execLoopStatus c s) :=
  mervan_keeps (by decide) nofun (fun _ _ _ => ok_keeps _ _ (by decide) keeps_rfl)

theorem execLoopRead_keeps {c : Cmd} : OutKeeps [.mbx, .vlog, .dram, .lanes, .fabric, .red] s (execLoopRead c s) :=
  mervan_keeps (by decide) nofun (fun _ _ _ => ok_keeps _ _ (by decide) (dramWrite_keeps _ _ _ _ (by decide) keeps_rfl))

theorem execLoopReset_keeps {c : Cmd} : OutKeeps [.mbx, .vlog, .loop, .lanes, .fabric] s (execLoopReset c s) :=
  mervan_keeps (by decide) nofun (fun _ _ _ => doneKeeps_ite (no_keeps _ _ _ _ (by decide) keeps_rfl)
    (ok_keeps _ _ (by decide) (modColour_keeps _ _ _ (by decide) keeps_rfl)))

theorem execLoopCheckConfig_keeps {c : Cmd} : OutKeeps [.mbx, .vlog, .loop, .lanes, .fabric, .red] s (execLoopCheckConfig c s) :=
  mervan_keeps (by decide) nofun (fun _ _ _ => doneKeeps_ite (no_keeps _ _ _ _ (by decide) keeps_rfl)
    (done_keeps _ (by decide) (keeps_set_loop (by decide) keeps_rfl)))

theorem execLoopCheckRead_keeps {c : Cmd} : OutKeeps [.mbx, .vlog, .loop, .dram, .lanes, .fabric, .red] s (execLoopCheckRead c s) :=
  mervan_keeps (by decide) nofun (fun _ _ _ => ok_keeps _ _ (by decide) (dramWrite_keeps _ _ _ _ (by decide)
    (keeps_set_loop (by decide) keeps_rfl)))

end

/-- Settles O39: each row by its own lemma above. -/
theorem cameraAndLoopRowsFrame : Obligations.CameraAndLoopRowsFrame :=
  ⟨fun _ => outKeeps_onlyChanges fun _ => execCamTrigger_keeps,
    fun _ => outKeeps_onlyChanges fun _ => execCalTimerTrigger_keeps,
    fun _ => outKeeps_onlyChanges fun _ => execSpanRecordReceived_keeps,
    fun _ => outKeeps_onlyChanges fun _ => execProxyRecordReceived_keeps,
    fun _ => outKeeps_onlyChanges fun _ => execCorrectionRecordReceived_keeps,
    fun _ => outKeeps_onlyChanges fun _ => execPipelineLine_keeps,
    fun _ => outKeeps_onlyChanges fun _ => execLp11Detected_keeps,
    fun _ => outKeeps_onlyChanges fun _ => execCamStatus_keeps,
    fun _ => outKeeps_onlyChanges fun _ => execLoopStatus_keeps,
    fun _ => outKeeps_onlyChanges fun _ => execStripRecordSend_keeps,
    fun _ => outKeeps_onlyChanges fun _ => execCamRelease_keeps,
    fun _ => outKeeps_onlyChanges fun _ => execCamDarkCal_keeps,
    fun _ => outKeeps_onlyChanges fun _ => execCamWhiteCal_keeps,
    fun _ => outKeeps_onlyChanges fun _ => execCamStats_keeps,
    fun _ => outKeeps_onlyChanges fun _ => execCamCci_keeps,
    fun _ _ => outKeeps_onlyChanges fun _ => execCciTransactionDone_keeps,
    fun _ => outKeeps_onlyChanges fun _ => execCciStretch_keeps,
    fun _ => outKeeps_onlyChanges fun _ => execLoopReset_keeps,
    fun _ => outKeeps_onlyChanges fun _ => execProxyRecordSend_keeps,
    fun _ => outKeeps_onlyChanges fun _ => execCamConfig_keeps,
    fun _ => outKeeps_onlyChanges fun _ => execCamSettings_keeps,
    fun _ => outKeeps_onlyChanges fun _ => execCamSchedule_keeps,
    fun _ => outKeeps_onlyChanges fun _ => execCamStream_keeps,
    fun _ => outKeeps_onlyChanges fun _ => execCamTables_keeps,
    fun _ => outKeeps_onlyChanges fun _ => execLoopRead_keeps,
    fun _ => outKeeps_onlyChanges fun _ => execLoopConfig_keeps,
    fun _ => outKeeps_onlyChanges fun _ => execLoopColour_keeps,
    fun _ => outKeeps_onlyChanges fun _ => execModelLoad_keeps,
    fun _ => outKeeps_onlyChanges fun _ => execLoopCheckConfig_keeps,
    fun _ _ => outKeeps_onlyChanges fun _ => execStripAnalysis_keeps,
    outKeeps_onlyChanges fun _ => execLoopSolveDone_keeps,
    fun _ => outKeeps_onlyChanges fun _ => execLoopEnable_keeps,
    fun _ => outKeeps_onlyChanges fun _ => execCamFocus_keeps,
    fun _ => outKeeps_onlyChanges fun _ => execCamBand_keeps,
    fun _ => outKeeps_onlyChanges fun _ => execLoopCheckRead_keeps,
    fun _ => outKeeps_onlyChanges fun _ => execCamRun_keeps,
    fun _ => outKeeps_onlyChanges fun _ => execCsiFrameStart_keeps,
    fun _ => outKeeps_onlyChanges fun _ => execCsiFrameEnd_keeps,
    fun _ _ => outKeeps_onlyChanges fun _ => execCsiLongPacket_keeps,
    fun _ => outKeeps_onlyChanges fun _ => execCsiCrcBurst_keeps,
    fun _ => outKeeps_onlyChanges fun _ => execSensorSilent_keeps,
    fun _ => outKeeps_onlyChanges fun _ => execCciSilent_keeps⟩

end Sys2Proof.Machine
end

section
/-! SUPPORT. The rules of the camera commands and rows (R167 to R194): each command runs its own rule once it is accepted, and each row answers
the next state of its own effect. -/
namespace Sys2Proof.Machine

/-- A refusal whose condition a rule negates does not apply. -/
theorem ite_of_not_decide {α : Type} {p : Prop} [Decidable p] {x y : α} (h : (!decide p) = true) : (if p then x else y) = y :=
  if_neg (by simpa using h)

/-- A refusal for want of a condition that holds does not apply. -/
theorem ite_of_holds {α : Type} {b : Bool} {x y : α} (h : b = true) : (if (!b) = true then x else y) = y := if_neg (by simp [h])

/-! Camera commands -/

theorem camConfigRule_holds : camConfigRule.Holds .camConfig := by
  refine Rule.holds_of (fun _ _ => rfl) (fun c a d hcan => ?_)
  obtain ⟨hstopped, hstripes⟩ := Bool.and_eq_true_iff.mp hcan
  exact (ite_of_not hstopped).trans (ite_of_not_decide hstripes)

/-- Under the rule's condition the pads are not held; the other refusals stand in the rule's own effect (R182). -/
theorem camRunRule_holds : camRunRule.Holds .camRun := by
  refine Rule.holds_of (fun _ _ => rfl) (fun c a d hcan => ?_)
  obtain ⟨hpads, -⟩ := Bool.and_eq_true_iff.mp hcan
  exact ite_of_not hpads

/-- Under the rule's condition no set is queued for the port and its sensor is not isolated (R177). -/
theorem camSettingsRule_holds : camSettingsRule.Holds .camSettings := by
  refine Rule.holds_of (fun _ _ => rfl) (fun c a d hcan => ?_)
  obtain ⟨hfree, -⟩ := Bool.and_eq_true_iff.mp hcan
  obtain ⟨hnone, hreached⟩ := Bool.and_eq_true_iff.mp hfree
  exact (ite_of_not hnone).trans (ite_of_not hreached)

theorem camScheduleRule_holds : camScheduleRule.Holds .camSchedule := Rule.holds_of (fun _ _ => rfl) (fun _ _ _ hcan => ite_of_not hcan)

theorem camStreamRule_holds : camStreamRule.Holds .camStream := Rule.holds_of (fun _ _ => rfl) (fun _ _ _ hcan => ite_of_not_decide hcan)

theorem camReleaseRule_holds : camReleaseRule.Holds .camRelease :=
  Rule.holds_of (fun _ _ => rfl) (fun _ _ _ hcan => ite_of_not_decide hcan)

/-- The rule's effect is the command's whole meaning: its refusals are part of it (R184). -/
theorem camTablesRule_holds : camTablesRule.Holds .camTables := Rule.holds_of (fun _ _ => rfl) (fun _ _ _ _ => rfl)

theorem camDarkCalRule_holds : camDarkCalRule.Holds .camDarkCal := by
  refine Rule.holds_of (fun _ _ => rfl) (fun c a d hcan => ?_)
  obtain ⟨hidle, hruns⟩ := Bool.and_eq_true_iff.mp hcan
  exact (ite_of_not hidle).trans (ite_of_holds hruns)

theorem camWhiteCalRule_holds : camWhiteCalRule.Holds .camWhiteCal := by
  refine Rule.holds_of (fun _ _ => rfl) (fun c a d hcan => ?_)
  obtain ⟨hregion, hidle⟩ := Bool.and_eq_true_iff.mp hcan
  exact (ite_of_not_decide hregion).trans (ite_of_not hidle)

/-- Under the rule's condition the position range and the zones are in order; an isolated sensor's refusal stands in the rule's own effect
(R189). -/
theorem camFocusRule_holds : camFocusRule.Holds .camFocus := by
  refine Rule.holds_of (fun _ _ => rfl) (fun c a d hcan => ?_)
  obtain ⟨hordered, -⟩ := Bool.and_eq_true_iff.mp hcan
  exact ite_of_not_decide hordered

theorem camBandRule_holds : camBandRule.Holds .camBand := Rule.holds_of (fun _ _ => rfl) (fun _ _ _ _ => rfl)

/-- The rule's effect is the command's whole meaning: the refusal for want of a record is part of it (R193). -/
theorem camStatsRule_holds : camStatsRule.Holds .camStats := Rule.holds_of (fun _ _ => rfl) (fun _ _ _ _ => rfl)

theorem camCciRule_holds : camCciRule.Holds .camCci := by
  refine Rule.holds_of (fun _ _ => rfl) (fun c a d hcan => ?_)
  obtain ⟨hstill, hreached⟩ := Bool.and_eq_true_iff.mp hcan
  obtain ⟨hpads, hstopped⟩ := Bool.and_eq_true_iff.mp hstill
  exact (ite_of_not hpads).trans ((ite_of_not hstopped).trans (ite_of_not hreached))

theorem camStatusRule_holds : camStatusRule.Holds .camStatus := Rule.holds_of (fun _ _ => rfl) (fun _ _ _ _ => rfl)

/-- Settles O20: the rule of each camera command holds. -/
theorem cameraCommandsComplete : Obligations.CameraCommandsComplete :=
  ⟨camConfigRule_holds, camRunRule_holds, camSettingsRule_holds, camScheduleRule_holds, camStreamRule_holds, camReleaseRule_holds,
    camTablesRule_holds, camDarkCalRule_holds, camWhiteCalRule_holds, camFocusRule_holds, camBandRule_holds, camStatsRule_holds,
    camCciRule_holds, camStatusRule_holds⟩

/-! Triggers -/

theorem camTriggerRule_holds (p : Port) : (camTriggerRule p).Holds (.camTrigger p) := fun _ hc => ite_of_not hc

theorem calTimerTriggerRule_holds (p : Port) : (calTimerTriggerRule p).Holds (.calTimerTrigger p) := fun _ hc => if_pos hc

/-! Packets -/

theorem csiFrameStartRule_holds (pkt : ShortPacket) : (csiFrameStartRule pkt).Holds (.csiFrameStart pkt) := by
  intro s hc
  simp only [csiFrameStartRule, Bool.and_eq_true] at hc
  obtain ⟨⟨⟨hon, -⟩, -⟩, -⟩ := hc
  exact ite_of_holds hon

theorem csiFrameEndRule_holds (pkt : ShortPacket) : (csiFrameEndRule pkt).Holds (.csiFrameEnd pkt) := by
  intro s hc
  simp only [csiFrameEndRule, Bool.and_eq_true] at hc
  obtain ⟨⟨⟨hon, -⟩, -⟩, -⟩ := hc
  exact ite_of_holds hon

theorem csiLongPacketRule_holds (p : Port) (pkt : LongPacket) : (csiLongPacketRule p pkt).Holds (.csiLongPacket p pkt) := by
  intro s hc
  simp only [csiLongPacketRule, Bool.and_eq_true] at hc
  obtain ⟨⟨⟨⟨⟨hon, -⟩, -⟩, -⟩, -⟩, -⟩ := hc
  exact ite_of_holds hon

/-! Re-initialisation -/

theorem csiCrcBurstRule_holds (p : Port) : (csiCrcBurstRule p).Holds (.csiCrcBurst p) := fun _ hc => if_pos hc

theorem sensorSilentRule_holds (p : Port) : (sensorSilentRule p).Holds (.sensorSilent p) := fun _ hc => if_pos hc

/-- An update of a port that leaves its configuration leaves its sensor isolated or not as it was. -/
theorem sensorIsolated_modCam {d : Device} {p : Port} {f : Cam → Cam} (hcfg : ∀ c, (f c).cfg = c.cfg) :
    sensorIsolated (modCam d p f) p = sensorIsolated d p := by
  simp only [sensorIsolated, modCam_vlog, modCam_cams, upd_self, hcfg]

/-- Under the rule's condition LP-11 was waited for, and the sensor is not isolated (R28, R194). -/
theorem lp11DetectedRule_holds (p : Port) : (lp11DetectedRule p).Holds (.lp11Detected p) := by
  intro s hc
  obtain ⟨hwaits, hreached⟩ := Bool.and_eq_true_iff.mp hc
  rw [← sensorIsolated_modCam (f := fun c => { c with waitLp11 := false }) (fun _ => rfl)] at hreached
  exact (ite_of_not hwaits).trans (ite_of_not hreached)

/-! Camera I2C -/

/-- Under the rule's condition a transaction with a sensor that is not isolated stands at the head of its bus: it succeeds, or is not
acknowledged (R169). -/
theorem cciTransactionDoneRule_holds (bus : Bool) (result : BusResult) :
    (cciTransactionDoneRule bus result).Holds (.cciTransactionDone bus result) := by
  intro s hc
  simp only [cciTransactionDoneRule, Bool.and_eq_true] at hc
  obtain ⟨⟨-, hon⟩, hhead⟩ := hc
  show execCciTransactionDone bus result s = next s _
  cases hqueue : s.dev.cams.cci[cciIdx bus] with
  | nil => simp [hqueue] at hhead
  | cons o rest =>
    have hreached : sensorIsolated s.dev (opPort o.1) = false := by simpa [hqueue] using hhead
    cases hresult : (if camPins s.dev then result else .nak) <;>
      simp only [execCciTransactionDone, cciTransactionDoneRule, hqueue, hon, hreached, hresult, Bool.not_true, Bool.false_eq_true,
        if_false, next_ite]

theorem cciStretchRule_holds (bus : Bool) : (cciStretchRule bus).Holds (.cciStretch bus) := by
  intro s hc
  obtain ⟨-, hon⟩ := Bool.and_eq_true_iff.mp hc
  show execCciStretch bus s = next s _
  cases hqueue : s.dev.cams.cci[cciIdx bus] <;> simp only [execCciStretch, cciStretchRule, hqueue, hon, if_true]

theorem cciSilentRule_holds (p : Port) : (cciSilentRule p).Holds (.cciSilent p) := by
  intro s hc
  show execCciSilent p s = next s _
  simp only [execCciSilent, cciSilentRule]
  exact if_pos hc

/-! The pipeline -/

theorem pipelineLineRule_holds (p : Port) : (pipelineLineRule p).Holds (.pipelineLine p) := fun _ hc => if_pos hc

/-- Settles O21: the rule of each camera row holds. -/
theorem cameraRowsComplete : Obligations.CameraRowsComplete :=
  ⟨camTriggerRule_holds, calTimerTriggerRule_holds, csiFrameStartRule_holds, csiFrameEndRule_holds, csiLongPacketRule_holds,
    csiCrcBurstRule_holds, sensorSilentRule_holds, lp11DetectedRule_holds, cciTransactionDoneRule_holds, cciStretchRule_holds,
    cciSilentRule_holds, pipelineLineRule_holds⟩

end Sys2Proof.Machine
end

section
/-! SUPPORT. The rules of the loop commands and of the rows of the quality loop (R195 to R219): each command runs its own rule once it is
accepted, and each row answers the next state of its own effect. -/
namespace Sys2Proof.Machine

/-! Loop commands -/

theorem loopConfigRule_holds : loopConfigRule.Holds .loopConfig := Rule.holds_of (fun _ _ => rfl) (fun _ _ _ hcan => ite_of_holds hcan)

theorem loopColourRule_holds : loopColourRule.Holds .loopColour := Rule.holds_of (fun _ _ => rfl) (fun _ _ _ hcan => ite_of_not hcan)

/-- The rule's effect is the command's whole meaning: its refusals are part of it (R202). -/
theorem modelLoadRule_holds : modelLoadRule.Holds .modelLoad := Rule.holds_of_out (fun _ _ => rfl)

/-- Under the rule's condition the device is the measuring node; the refusal of a colour stands in the rule's own effect (R196). -/
theorem loopEnableRule_holds : loopEnableRule.Holds .loopEnable := by
  refine Rule.holds_of (fun _ _ => rfl) (fun c a d hcan => ?_)
  obtain ⟨hmeasuring, -⟩ := Bool.and_eq_true_iff.mp hcan
  exact ite_of_holds hmeasuring

theorem loopStatusRule_holds : loopStatusRule.Holds .loopStatus := Rule.holds_of_out (fun _ _ => rfl)

/-- The range that loop.read checks has the size of the state's own count of bins, so its rule is of that state's device. -/
theorem loopReadRule_holdsAt (s : State) : (loopReadRule s.dev).HoldsAt .loopRead s :=
  Rule.holdsAt_of (fun _ => rfl) (fun _ _ _ _ => rfl)

theorem loopResetRule_holds : loopResetRule.Holds .loopReset := Rule.holds_of (fun _ _ => rfl) (fun _ _ _ hcan => ite_of_not hcan)

theorem loopCheckConfigRule_holds : loopCheckConfigRule.Holds .loopCheckConfig :=
  Rule.holds_of (fun _ _ => rfl) (fun _ _ _ hcan => ite_of_not hcan)

theorem loopCheckReadRule_holds : loopCheckReadRule.Holds .loopCheckRead := Rule.holds_of_out (fun _ _ => rfl)

/-- Settles O22: the rule of each loop command holds. -/
theorem loopCommandsComplete : Obligations.LoopCommandsComplete :=
  ⟨loopConfigRule_holds, loopColourRule_holds, modelLoadRule_holds, loopEnableRule_holds, loopStatusRule_holds, loopReadRule_holdsAt,
    loopResetRule_holds, loopCheckConfigRule_holds, loopCheckReadRule_holds⟩

/-! Records that reach the measuring node -/

/-- A row's condition on a record that is received: the device is the measuring node, and the record is in its inbox. -/
theorem measuring_and_inInbox {f : List U8 → Bool} {d : Device} (hc : (d.mbx.measuring && (inboxHas f d).isSome) = true) :
    d.mbx.measuring = true ∧ ∃ e, inboxHas f d = some e := by
  rwa [Bool.and_eq_true, Option.isSome_iff_exists] at hc

theorem spanRecordReceivedRule_holds (r : SpanRecord) : (spanRecordReceivedRule r).Holds (.spanRecordReceived r) := by
  intro s hc
  obtain ⟨hmeasuring, e, hinbox⟩ := measuring_and_inInbox hc
  show execSpanRecordReceived r s = _
  simp only [execSpanRecordReceived, spanRecordReceivedRule, hinbox, hmeasuring, if_true, next_eq]

theorem proxyRecordReceivedRule_holds (r : ProxyRecord) : (proxyRecordReceivedRule r).Holds (.proxyRecordReceived r) := by
  intro s hc
  obtain ⟨hmeasuring, e, hinbox⟩ := measuring_and_inInbox hc
  show execProxyRecordReceived r s = _
  simp only [execProxyRecordReceived, proxyRecordReceivedRule, hinbox, hmeasuring, if_true, next_eq]

/-! Records that an owner sends -/

/-- Under the rule's condition the colour has a proxy line to send (R198). -/
theorem proxyRecordSendRule_holds (colour : Plane) : (proxyRecordSendRule colour).Holds (.proxyRecordSend colour) := by
  intro s hc
  obtain ⟨⟨r, lo, hi, n⟩, hnext⟩ := Option.isSome_iff_exists.mp hc
  show execProxyRecordSend colour s = _
  simp only [execProxyRecordSend, proxyRecordSendRule, hnext, next_eq]

/-- Under the rule's condition the device owns the colour, knows the measuring node, and every token of the colour's first strip has ended
(R218). -/
theorem stripRecordSendRule_holds (colour : Plane) : (stripRecordSendRule colour).Holds (.stripRecordSend colour) := by
  intro s hc
  show execStripRecordSend colour s = _
  cases hstrips : s.dev.loop.owner[colour].strips with
  | nil => simp only [stripRecordSendRule, hstrips, Bool.and_false, Bool.false_eq_true] at hc
  | cons r rest =>
    simp only [stripRecordSendRule, hstrips, Bool.and_eq_true] at hc
    obtain ⟨⟨howns, hknown⟩, hended⟩ := hc
    obtain ⟨n, hnode⟩ := Option.isSome_iff_exists.mp hknown
    simp only [execStripRecordSend, stripRecordSendRule, howns, hstrips, hnode, hended, Bool.not_true, Bool.false_eq_true, if_false, next_eq]

/-! The strip analysis -/

/-- Under the rule's condition the domain is on and the record of a usable strip has reached the measuring node, which does not skip it
(R218, R219). -/
theorem stripAnalysisRule_holds (r : StripRecord) (reversed : BitVec 40) :
    (stripAnalysisRule r reversed).Holds (.stripAnalysis r reversed) := by
  intro s hc
  show execStripAnalysis r reversed s = _
  cases hinbox : inboxHas (isStrip r) s.dev with
  | none => simp only [stripAnalysisRule, hinbox, Bool.and_false, Bool.false_eq_true] at hc
  | some e =>
    simp only [stripAnalysisRule, hinbox, Bool.and_eq_true] at hc
    obtain ⟨⟨hon, hmeasuring⟩, husable⟩ := hc
    simp only [execStripAnalysis, stripAnalysisRule, hon, hmeasuring, hinbox, if_true]
    exact congrArg (next s) (ite_of_not husable)

/-! Corrections -/

theorem correctionRecordReceivedRule_holds (r : CorrRecord) : (correctionRecordReceivedRule r).Holds (.correctionRecordReceived r) :=
  fun _ _ => rfl

/-- Under the rule's condition the domain is on and a loop band waits for its solution (R208). -/
theorem loopSolveDoneRule_holds : loopSolveDoneRule.Holds .loopSolveDone := by
  intro s hc
  obtain ⟨hon, hwaits⟩ := Bool.and_eq_true_iff.mp hc
  obtain ⟨q, rest, hqueue⟩ := List.exists_cons_of_ne_nil (l := (holdLoop s.dev).loop.queue) (by simpa using hwaits)
  show execLoopSolveDone s = _
  simp only [execLoopSolveDone, loopSolveDoneRule, hon, if_true, hqueue, next_eq]

/-- Settles O23: the rule of each row of the quality loop holds. -/
theorem loopRowsComplete : Obligations.LoopRowsComplete :=
  ⟨spanRecordReceivedRule_holds, proxyRecordReceivedRule_holds, proxyRecordSendRule_holds, stripRecordSendRule_holds,
    stripAnalysisRule_holds, correctionRecordReceivedRule_holds, loopSolveDoneRule_holds⟩

end Sys2Proof.Machine
end

section
/-! SUPPORT. The rules of the compression and CRC unit commands and rows (R222 to R243): each command runs its own rule once it is accepted, and
each row answers the next state of its own effect. -/
namespace Sys2Proof.Machine

/-! Dictionary streams -/

theorem dictMessageReceivedRule_holds (m : DictMessage) : (dictMessageReceivedRule m).Holds (.dictMessageReceived m) :=
  fun _ hc => if_pos hc

theorem streamNoticeReceivedRule_holds (peer : U8) (resync : Bool) (cls : BitVec 2) :
    (streamNoticeReceivedRule peer resync cls).Holds (.streamNoticeReceived peer resync cls) := fun _ hc => if_pos hc

theorem compressorResumeRule_holds (cls : BitVec 2) (room : Nat) : (compressorResumeRule cls room).Holds (.compressorResume cls room) :=
  fun _ hc => ite_of_not hc

theorem czDictResetRule_holds : czDictResetRule.Holds .czDictReset := Rule.holds_of_out (fun _ _ => rfl)

theorem czStatusRule_holds : czStatusRule.Holds .czStatus := Rule.holds_of_out (fun _ _ => rfl)

/-! Blocks -/

/-- Under the rule's condition the destination has room for the worst case (R234). -/
theorem czCompressRule_holds : czCompressRule.Holds .czCompress :=
  Rule.holds_of (fun _ _ => rfl) (fun _ _ _ hcan => ite_of_not_decide hcan)

/-- Under the rule's condition the compressor works on a job, its domain is on and DRAM serves it. -/
theorem blockCompressedRule_holds (engine : Fin 2) : (blockCompressedRule engine).Holds (.blockCompressed engine) := by
  intro s hc
  simp only [blockCompressedRule, Bool.and_eq_true] at hc
  obtain ⟨⟨⟨hworks, hon⟩, hserves⟩, hfree⟩ := hc
  obtain ⟨j, hjob⟩ := Option.isSome_iff_exists.mp (List.find?_isSome.mpr (List.any_eq_true.mp hworks))
  show execBlockCompressed engine s = _
  simp only [execBlockCompressed, blockCompressedRule, hjob, hon, hserves, hfree, Bool.and_self, if_true, next_eq]

/-- Under the rule's condition the header is readable, the output fits, and the block lies in DRAM and holds no poison (R230 to R232). -/
theorem czDecompressRule_holds : czDecompressRule.Holds .czDecompress := by
  refine Rule.holds_of (fun _ _ => rfl) (fun c a d hcan => ?_)
  simp only [czDecompressRule, Bool.and_eq_true] at hcan
  obtain ⟨⟨⟨hheader, hfits⟩, hinside⟩, hclean⟩ := hcan
  refine (ite_of_not hheader).trans ((ite_of_not_decide hfits).trans ((ite_of_not hinside).trans ?_))
  simp only [czDecompressRule, Option.isNone_iff_eq_none.mp hclean]

/-! CRC units -/

theorem crcSegmentRule_holds (u : Fin 8) (seg : Segment) (bytes : List U8) : (crcSegmentRule u seg bytes).Holds (.crcSegment u seg bytes) :=
  fun _ hc => if_pos hc

/-- Under the rule's condition the head exists, the polynomial and the initial value fit the width, and the unit is off (R241). -/
theorem crcConfigRule_holds : crcConfigRule.Holds .crcConfig := by
  refine Rule.holds_of (fun _ _ => rfl) (fun c a d hcan => ?_)
  simp only [crcConfigRule, Bool.and_eq_true] at hcan
  obtain ⟨⟨hhead, hwidth⟩, hoff⟩ := hcan
  exact (ite_of_not_decide hhead).trans ((ite_of_not_decide hwidth).trans (ite_of_not hoff))

theorem crcReadRule_holds : crcReadRule.Holds .crcRead := Rule.holds_of_out (fun _ _ => rfl)

theorem crcWriteRule_holds : crcWriteRule.Holds .crcWrite := Rule.holds_of_out (fun _ _ => rfl)

theorem crcEnableRule_holds : crcEnableRule.Holds .crcEnable := Rule.holds_of_out (fun _ _ => rfl)

/-- Settles O24: the rule of each command and row of the compressors, the decompressors and the CRC units holds. -/
theorem compressionComplete : Obligations.CompressionComplete :=
  ⟨dictMessageReceivedRule_holds, streamNoticeReceivedRule_holds, compressorResumeRule_holds, czCompressRule_holds, blockCompressedRule_holds,
    czDecompressRule_holds, czDictResetRule_holds, czStatusRule_holds, crcSegmentRule_holds, crcConfigRule_holds, crcReadRule_holds,
    crcWriteRule_holds, crcEnableRule_holds⟩

end Sys2Proof.Machine
end

section
/-! SUPPORT. The rows of chapters 9 to 12: the fields of the device that each may change. -/
namespace Sys2Proof.Machine

-- One theorem after another, as in the section of the frames of chapters 1 to 4.
set_option Elab.async false

section
variable {ch : List DevField} {a d : Device}

theorem keeps_set_crcs {x : Vector CrcUnit 8} (hc : within [.crcs] ch = true) (hk : Keeps ch a d) : Keeps ch a { d with crcs := x } :=
  Keeps.step (c := [.crcs]) ⟨fun f hf => by cases f with | crcs => simp at hf | _ => rfl⟩ hc hk

/-- A message's record goes to the inbox (R239). -/
theorem keepRecord_keeps (m : DictMessage) (p : Option (List U8) × Device) (hc : within [.cz] ch = true) (hk : Keeps ch a p.2) :
    Keeps ch a (keepRecord m p) := by
  obtain ⟨_ | b, d⟩ := p
  · exact hk
  · exact keeps_ite (keeps_set_cz hc hk) hk

end

section
variable {s : State}

/-! Compression -/

theorem execDictMessageReceived_keeps {m : DictMessage} :
    OutKeeps [.mbx, .vlog, .cz, .lanes, .fabric, .red] s (execDictMessageReceived m s) :=
  outKeeps_ite (outKeeps_next (keepRecord_keeps _ _ (by decide) (dictReceive_keeps _ _ (by decide) keeps_rfl))) (outKeeps_next keeps_rfl)

theorem execStreamNoticeReceived_keeps {peer : U8} {resync : Bool} {cls : BitVec 2} :
    OutKeeps [.cz] s (execStreamNoticeReceived peer resync cls s) :=
  outKeeps_ite (outKeeps_next (takeNotice_keeps _ _ _ _ (by decide) keeps_rfl)) (outKeeps_next keeps_rfl)

theorem execCompressorResume_keeps {cls : BitVec 2} {room : Nat} :
    OutKeeps [.mbx, .vlog, .cz, .lanes, .fabric, .red] s (execCompressorResume cls room s) :=
  outKeeps_ite (outKeeps_next keeps_rfl) (outKeeps_next (sendHandover_keeps _ (by decide) (noteStall_keeps _ (by decide)
    (feedStream_keeps _ _ _ _ (by decide) keeps_rfl))))

theorem execCzCompress_keeps {c : Cmd} : OutKeeps [.mbx, .vlog, .cz, .lanes, .fabric] s (execCzCompress c s) :=
  mervan_keeps (by decide) nofun (fun _ _ _ => doneKeeps_ite (no_keeps _ _ _ _ (by decide) keeps_rfl)
    (doneKeeps_later (assignEngine_keeps _ (by decide) (keeps_set_cz (by decide) keeps_rfl))))

theorem execBlockCompressed_keeps {engine : Fin 2} :
    OutKeeps [.mbx, .vlog, .cz, .dram, .lanes, .fabric, .red] s (execBlockCompressed engine s) := by
  unfold execBlockCompressed
  dsimp only
  split
  · exact outKeeps_next keeps_rfl
  · exact outKeeps_ite (outKeeps_next (compressBlock_keeps _ _ _ (by decide) keeps_rfl)) (outKeeps_next keeps_rfl)

theorem execCzDecompress_keeps {c : Cmd} : OutKeeps [.mbx, .vlog, .cz, .dram, .lanes, .fabric] s (execCzDecompress c s) := by
  unfold execCzDecompress
  refine mervan_keeps (by decide) nofun (fun _ _ _ => doneKeeps_ite (poisoned_keeps _ _ (by decide) keeps_rfl) (doneKeeps_ite
    (no_keeps _ _ _ _ (by decide) keeps_rfl) (doneKeeps_ite (no_keeps _ _ _ _ (by decide) keeps_rfl) ?_)))
  dsimp only
  split
  · exact poisoned_keeps _ _ (by decide) keeps_rfl
  · exact doneKeeps_later (startDecs_keeps _ (by decide) (keeps_set_cz (by decide) (dramSee_keeps _ _ _ (by decide) keeps_rfl)))

theorem execCzDictReset_keeps {c : Cmd} : OutKeeps [.mbx, .vlog, .cz, .lanes, .fabric] s (execCzDictReset c s) :=
  mervan_keeps (by decide) nofun (fun _ _ _ => ok_keeps _ _ (by decide) (modEnc_keeps _ _ _ _ (by decide) keeps_rfl))

theorem execCzStatus_keeps {c : Cmd} : OutKeeps [.mbx, .vlog, .lanes, .fabric] s (execCzStatus c s) :=
  mervan_keeps (by decide) nofun (fun _ _ _ => ok_keeps _ _ (by decide) keeps_rfl)

/-! CRC units -/

theorem execCrcSegment_keeps {u : Fin 8} {seg : Segment} {bytes : List U8} : OutKeeps [.crcs] s (execCrcSegment u seg bytes s) :=
  outKeeps_ite (outKeeps_next (modCrc_keeps _ _ _ (by decide) keeps_rfl)) (outKeeps_next keeps_rfl)

theorem execCrcConfig_keeps {c : Cmd} : OutKeeps [.mbx, .vlog, .crcs, .lanes, .fabric, .red] s (execCrcConfig c s) :=
  mervan_keeps (by decide) nofun (fun _ _ _ => doneKeeps_ite (no_keeps _ _ _ _ (by decide) keeps_rfl) (doneKeeps_ite
    (no_keeps _ _ _ _ (by decide) keeps_rfl) (doneKeeps_ite (no_keeps _ _ _ _ (by decide) keeps_rfl)
    (done_keeps _ (by decide) (modCrc_keeps _ _ _ (by decide) keeps_rfl)))))

theorem execCrcRead_keeps {c : Cmd} : OutKeeps [.mbx, .vlog, .lanes, .fabric] s (execCrcRead c s) :=
  mervan_keeps (by decide) nofun (fun _ _ _ => ok_keeps _ _ (by decide) keeps_rfl)

theorem execCrcWrite_keeps {c : Cmd} : OutKeeps [.mbx, .vlog, .crcs, .lanes, .fabric] s (execCrcWrite c s) :=
  mervan_keeps (by decide) nofun (fun _ _ _ => ok_keeps _ _ (by decide) (modCrc_keeps _ _ _ (by decide) keeps_rfl))

theorem execCrcEnable_keeps {c : Cmd} : OutKeeps [.mbx, .vlog, .crcs, .lanes, .fabric, .red] s (execCrcEnable c s) :=
  mervan_keeps (by decide) nofun (fun _ _ _ => done_keeps _ (by decide) (keeps_set_crcs (by decide) keeps_rfl))

/-! Memory commands -/

theorem execMemStatus_keeps {c : Cmd} : OutKeeps [.mbx, .vlog, .lanes, .fabric] s (execMemStatus c s) :=
  mervan_keeps (by decide) nofun (fun _ _ _ => ok_keeps _ _ (by decide) keeps_rfl)

theorem execMemFreq_keeps {c : Cmd} : OutKeeps [.mbx, .vlog, .jobs, .dram, .lanes, .fabric] s (execMemFreq c s) :=
  mervan_keeps (by decide) nofun (fun _ _ _ => doneKeeps_ite (no_keeps _ _ _ _ (by decide) keeps_rfl) (doneKeeps_ite
    (no_keeps _ _ _ _ (by decide) keeps_rfl) (doneKeeps_ite
    (doneKeeps_ite (no_keeps _ _ _ _ (by decide) keeps_rfl) (doneKeeps_later (modDram_keeps _ _ (by decide) keeps_rfl))) (doneKeeps_ite
    (doneKeeps_reply (noteReady_keeps _ _ (by decide) (modDram_keeps _ _ (by decide) keeps_rfl)))
    (doneKeeps_later (startMemWork_keeps _ _ _ (by decide) keeps_rfl))))))

theorem execMemTrain_keeps {c : Cmd} : OutKeeps [.mbx, .vlog, .jobs, .dram, .lanes, .fabric] s (execMemTrain c s) :=
  mervan_keeps (by decide) nofun (fun _ _ _ => doneKeeps_ite (ok_keeps _ _ (by decide) keeps_rfl) (doneKeeps_ite
    (no_keeps _ _ _ _ (by decide) keeps_rfl) (doneKeeps_ite
    (doneKeeps_reply (noteReady_keeps _ _ (by decide) (modDram_keeps _ _ (by decide) keeps_rfl)))
    (doneKeeps_later (startMemWork_keeps _ _ _ (by decide) keeps_rfl)))))

theorem execMemFence_keeps {c : Cmd} : OutKeeps [.mbx, .vlog, .lanes, .fabric] s (execMemFence c s) :=
  mervan_keeps (by decide) nofun (fun _ _ _ => doneKeeps_ite (doneKeeps_later keeps_rfl) (ok_keeps _ _ (by decide) keeps_rfl))

theorem execMemQos_keeps {c : Cmd} : OutKeeps [.mbx, .vlog, .dram, .lanes, .fabric, .red] s (execMemQos c s) :=
  mervan_keeps (by decide) nofun (fun _ _ _ => done_keeps _ (by decide) (modDram_keeps _ _ (by decide) keeps_rfl))

theorem execMemRowhammer_keeps {c : Cmd} : OutKeeps [.mbx, .vlog, .dram, .lanes, .fabric, .red] s (execMemRowhammer c s) :=
  mervan_keeps (by decide) nofun (fun _ _ _ => done_keeps _ (by decide) (modDram_keeps _ _ (by decide) keeps_rfl))

theorem execMemScrub_keeps {c : Cmd} : OutKeeps [.mbx, .vlog, .dram, .lanes, .fabric, .red] s (execMemScrub c s) :=
  mervan_keeps (by decide) nofun (fun _ _ _ => done_keeps _ (by decide) (modDram_keeps _ _ (by decide) keeps_rfl))

theorem execMemErrors_keeps {c : Cmd} : OutKeeps [.mbx, .vlog, .dram, .lanes, .fabric, .red] s (execMemErrors c s) :=
  mervan_keeps (by decide) nofun (fun _ _ _ => ok_keeps _ _ (by decide) (dramWrite_keeps _ _ _ _ (by decide)
    (modDram_keeps _ _ (by decide) keeps_rfl)))

/-! Requests, refresh and training -/

theorem execDramRequest_keeps {r : DramReq} : OutKeeps [.chip, .mbx, .vlog, .dram, .lanes, .fabric, .red] s (execDramRequest r s) :=
  outKeeps_ite (outKeeps_ite (outKeeps_next (modDram_keeps _ _ (by decide) keeps_rfl)) (outKeeps_next (serve_keeps _ _ (by decide) keeps_rfl)))
    (outKeeps_next keeps_rfl)

theorem execTrainingDone_keeps {r : TrainResult} :
    OutKeeps [.chip, .mbx, .vlog, .acct, .jobs, .feed, .cz, .dram, .lanes, .fabric, .red, .nv] s (execTrainingDone r s) := by
  unfold execTrainingDone
  dsimp only
  split
  · exact outKeeps_next keeps_rfl
  · exact outKeeps_ite (outKeeps_next (noteReady_keeps _ _ (by decide) (keeps_ite
      (keeps_ite (pointPasses_keeps _ _ _ _ (by decide) keeps_rfl) (modDram_keeps _ _ (by decide) keeps_rfl))
      (keeps_ite (pointPasses_keeps _ _ _ _ (by decide) keeps_rfl) (keeps_ite (modDram_keeps _ _ (by decide) keeps_rfl)
        (pointFails_keeps _ _ _ (by decide) keeps_rfl)))))) (outKeeps_next keeps_rfl)

theorem execDeferredTrainingStart_keeps : OutKeeps [.mbx, .vlog, .dram, .lanes, .fabric] s (execDeferredTrainingStart s) :=
  outKeeps_ite (outKeeps_next (raise_keeps _ _ _ (by decide) (modDram_keeps _ _ (by decide) keeps_rfl))) (outKeeps_next keeps_rfl)

theorem execTrainingHoldExpiry_keeps : OutKeeps [.mbx, .vlog, .jobs, .dram, .lanes, .fabric] s (execTrainingHoldExpiry s) := by
  unfold execTrainingHoldExpiry
  refine outKeeps_ite ?_ (outKeeps_next keeps_rfl)
  split
  · exact outKeeps_next (noteReady_keeps _ _ (by decide) (startMemWork_keeps _ _ _ (by decide) (modDram_keeps _ _ (by decide) keeps_rfl)))
  · exact outKeeps_next (noteReady_keeps _ _ (by decide) (modDram_keeps _ _ (by decide) keeps_rfl))

/-- A refresh that is forced draws the value of its catch-up time; what it writes is the DRAM's own. -/
theorem execRefreshDue_keeps {mc : Port} {rank : Fin 2} {feedWaiting : Bool} :
    OutKeeps [.dram] s (execRefreshDue mc rank feedWaiting s) := by
  unfold execRefreshDue
  refine outKeeps_ite ?_ (outKeeps_next keeps_rfl)
  have hd : ∀ f, Keeps [.dram] s.dev (modDram s.dev f) := fun _ => modDram_keeps _ _ (by decide) keeps_rfl
  exact outKeeps_ite (outKeeps_next (modDram_keeps _ _ (by decide) (draw_keeps _ (by decide) (hd _)))) (outKeeps_next (hd _))

theorem execRefreshWindow_keeps : OutKeeps [.dram] s (execRefreshWindow s) :=
  outKeeps_ite (outKeeps_next (modDram_keeps _ _ (by decide) keeps_rfl)) (outKeeps_next keeps_rfl)

theorem execMr4Read_keeps {die : DieId} {multiplier : Fin 5} {hot : Bool} :
    OutKeeps [.mbx, .vlog, .dram, .lanes, .fabric] s (execMr4Read die multiplier hot s) :=
  outKeeps_ite (outKeeps_ite (outKeeps_next (raise_keeps _ _ _ (by decide) (modDram_keeps _ _ (by decide) keeps_rfl))) (outKeeps_ite
    (outKeeps_next (modDram_keeps _ _ (by decide) keeps_rfl)) (outKeeps_next keeps_rfl))) (outKeeps_next keeps_rfl)

theorem execDqsTracking_keeps {lane : Fin 8} {drift : Int} :
    OutKeeps [.mbx, .vlog, .dram, .lanes, .fabric] s (execDqsTracking lane drift s) := by
  unfold execDqsTracking
  extract_lets d was now e
  have he : Keeps [.mbx, .vlog, .dram, .lanes, .fabric] s.dev e := modDram_keeps _ _ (by decide) keeps_rfl
  exact outKeeps_ite (outKeeps_next (keeps_ite (raise_keeps _ _ _ (by decide) he) he)) (outKeeps_next keeps_rfl)

theorem execScrubRead_keeps {corrected : Bool} {fault : Option CheckFault} :
    OutKeeps [.chip, .mbx, .vlog, .dram, .lanes, .fabric, .red] s (execScrubRead corrected fault s) :=
  outKeeps_ite (outKeeps_next (serve_keeps _ _ (by decide) (modDram_keeps _ _ (by decide) keeps_rfl))) (outKeeps_next keeps_rfl)

theorem execDramCorrectedReport_keeps : OutKeeps [.mbx, .vlog, .dram, .lanes, .fabric] s (execDramCorrectedReport s) :=
  outKeeps_ite (outKeeps_next (raise_keeps _ _ _ (by decide) (modDram_keeps _ _ (by decide) keeps_rfl))) (outKeeps_next keeps_rfl)

/-! Lane training -/

theorem execPcieLinkUp_keeps : OutKeeps [.chip] s (execPcieLinkUp s) :=
  outKeeps_ite (outKeeps_next (keeps_set_chip (by decide) keeps_rfl)) (outKeeps_next keeps_rfl)

theorem execLaneAttemptStart_keeps {l : LaneId} : OutKeeps [.mbx, .vlog, .adapters, .lanes, .fabric] s (execLaneAttemptStart l s) :=
  outKeeps_ite (outKeeps_next (startAttempt_keeps _ _ (by decide) keeps_rfl)) (outKeeps_next keeps_rfl)

theorem execPartnerT1Detected_keeps {l : LaneId} : OutKeeps [.mbx, .vlog, .adapters, .lanes, .fabric] s (execPartnerT1Detected l s) :=
  outKeeps_ite (outKeeps_next (startAttempt_keeps _ _ (by decide) keeps_rfl)) (outKeeps_next keeps_rfl)

theorem execCdrLock_keeps {x : CdrLock} : OutKeeps [.mbx, .vlog, .adapters, .lanes, .fabric] s (execCdrLock x s) :=
  outKeeps_ite (outKeeps_next (lockLane_keeps _ _ _ (by decide) keeps_rfl)) (outKeeps_next keeps_rfl)

theorem execReceiverAdapted_keeps {l : LaneId} : OutKeeps [.mbx, .vlog, .adapters, .lanes, .fabric] s (execReceiverAdapted l s) :=
  outKeeps_ite (outKeeps_next keeps_rfl) (outKeeps_ite (outKeeps_next (attemptFails_keeps _ _ _ (by decide) keeps_rfl))
    (outKeeps_next (adaptLane_keeps _ _ (by decide) keeps_rfl)))

theorem execTrainingWordReceived_keeps {l : LaneId} {w : TrainWord} {last : Bool} :
    OutKeeps [.mbx, .vlog, .jobs, .links, .adapters, .dram, .lanes, .fabric, .red] s (execTrainingWordReceived l w last s) :=
  outKeeps_ite (outKeeps_next keeps_rfl) (outKeeps_ite
    (outKeeps_next (noteReady_keeps _ _ (by decide) (endReceive_keeps _ _ _ (by decide) (answerWord_keeps _ _ (by decide)
      (modDiag_keeps _ _ (by decide) keeps_rfl)))))
    (outKeeps_next (noteReady_keeps _ _ (by decide) (endReceive_keeps _ _ _ (by decide) (takeWord_keeps _ _ _ (by decide) keeps_rfl)))))

theorem execTrainingPhaseTimeout_keeps {l : LaneId} :
    OutKeeps [.mbx, .vlog, .adapters, .lanes, .fabric] s (execTrainingPhaseTimeout l s) :=
  outKeeps_ite (outKeeps_next (attemptFails_keeps _ _ _ (by decide) keeps_rfl)) (outKeeps_next keeps_rfl)

/-! Lanes that are up -/

theorem execEqFreeze_keeps {l : LaneId} : OutKeeps [.lanes] s (execEqFreeze l s) :=
  outKeeps_ite (outKeeps_next (modLane_keeps _ _ _ (by decide) keeps_rfl)) (outKeeps_next keeps_rfl)

theorem execEqResume_keeps {l : LaneId} : OutKeeps [.lanes] s (execEqResume l s) :=
  outKeeps_ite (outKeeps_next (modLane_keeps _ _ _ (by decide) keeps_rfl)) (outKeeps_next keeps_rfl)

theorem execElectricalIdleEntry_keeps {l : LaneId} : OutKeeps [.lanes] s (execElectricalIdleEntry l s) :=
  outKeeps_ite (outKeeps_next (modLane_keeps _ _ _ (by decide) keeps_rfl)) (outKeeps_next keeps_rfl)

theorem execElectricalIdleNotice_keeps {l : LaneId} : OutKeeps [.lanes] s (execElectricalIdleNotice l s) :=
  outKeeps_ite (outKeeps_next (modLane_keeps _ _ _ (by decide) keeps_rfl)) (outKeeps_next keeps_rfl)

theorem execWakeBurstTimer_keeps {l : LaneId} : OutKeeps [.lanes] s (execWakeBurstTimer l s) :=
  outKeeps_ite (outKeeps_next (modLane_keeps _ _ _ (by decide) keeps_rfl)) (outKeeps_next keeps_rfl)

theorem execLossOfSignal_keeps {l : LaneId} :
    OutKeeps [.mbx, .vlog, .jobs, .links, .adapters, .cz, .dram, .lanes, .fabric, .red] s (execLossOfSignal l s) :=
  outKeeps_ite (outKeeps_next keeps_rfl) (outKeeps_ite (outKeeps_next (laneFalls_keeps _ _ (by decide) keeps_rfl)) (outKeeps_ite
    (outKeeps_next (attemptFails_keeps _ _ _ (by decide) keeps_rfl)) (outKeeps_next keeps_rfl)))

theorem execCodeErrorBurst_keeps {l : LaneId} {errors : List CodeError} :
    OutKeeps [.mbx, .vlog, .jobs, .links, .adapters, .cz, .dram, .lanes, .fabric, .red] s (execCodeErrorBurst l errors s) :=
  outKeeps_ite (outKeeps_ite (outKeeps_next (laneFalls_keeps _ _ (by decide) (countCodes_keeps _ _ _ (by decide) keeps_rfl)))
    (outKeeps_next (countCodes_keeps _ _ _ (by decide) keeps_rfl))) (outKeeps_next keeps_rfl)

theorem execWakeBurstMissing_keeps {l : LaneId} :
    OutKeeps [.mbx, .vlog, .jobs, .links, .adapters, .cz, .dram, .lanes, .fabric, .red] s (execWakeBurstMissing l s) :=
  outKeeps_ite (outKeeps_next (laneFalls_keeps _ _ (by decide) keeps_rfl)) (outKeeps_next keeps_rfl)

theorem execPeppercornTestEnd_keeps {l : LaneId} {got : List Bool} :
    OutKeeps [.mbx, .vlog, .lanes, .fabric] s (execPeppercornTestEnd l got s) :=
  outKeeps_ite (outKeeps_next keeps_rfl) (outKeeps_next (finishWork_keeps _ _ _ (by decide) (modLane_keeps _ _ _ (by decide) keeps_rfl)))

/-! Lane commands -/

theorem execLaneConfig_keeps {c : Cmd} : OutKeeps [.mbx, .vlog, .lanes, .fabric, .red] s (execLaneConfig c s) := by
  refine mervan_keeps (by decide) nofun (fun _ _ d => doneKeeps_ite (no_keeps _ _ _ _ (by decide) keeps_rfl)
    (laneArg_keeps _ _ _ (fun l => ?_) keeps_rfl))
  have hset : ∀ f, Keeps [.mbx, .vlog, .lanes, .fabric, .red] d (modLane d l f) := fun _ => modLane_keeps _ _ _ (by decide) keeps_rfl
  exact done_keeps _ (by decide) (keeps_ite (modLane_keeps _ _ _ (by decide) (hset _)) (hset _))

theorem execLaneStatus_keeps {c : Cmd} : OutKeeps [.mbx, .vlog, .lanes, .fabric] s (execLaneStatus c s) :=
  mervan_keeps (by decide) nofun (fun _ _ _ => laneArg_keeps _ _ _ (fun _ => ok_keeps _ _ (by decide) keeps_rfl) keeps_rfl)

theorem execLaneRetrain_keeps {c : Cmd} :
    OutKeeps [.mbx, .vlog, .jobs, .links, .adapters, .cz, .dram, .lanes, .fabric, .red] s (execLaneRetrain c s) := by
  refine mervan_keeps (by decide) nofun (fun _ _ d => laneArg_keeps _ _ _ (fun l => ?_) keeps_rfl)
  have hr : Keeps [.mbx, .vlog, .jobs, .links, .adapters, .cz, .dram, .lanes, .fabric, .red] d (retrainLane l d) :=
    retrainLane_keeps _ _ (by decide) keeps_rfl
  exact ok_keeps _ _ (by decide) (noteReady_keeps _ _ (by decide) (keeps_ite (refreshPath_keeps _ (by decide) hr) hr))

theorem execLanePrbs_keeps {c : Cmd} :
    OutKeeps [.mbx, .vlog, .jobs, .links, .adapters, .cz, .dram, .lanes, .fabric, .red] s (execLanePrbs c s) := by
  refine mervan_keeps (by decide) nofun (fun _ _ d => laneArg_keeps _ _ _ (fun l => ?_) keeps_rfl)
  have ht : ∀ loopback ms, Keeps [.mbx, .vlog, .jobs, .links, .adapters, .cz, .dram, .lanes, .fabric, .red] d (startTest l loopback ms d) :=
    fun _ _ => startTest_keeps _ _ _ _ (by decide) keeps_rfl
  exact doneKeeps_ite (no_keeps _ _ _ _ (by decide) keeps_rfl) (doneKeeps_ite (no_keeps _ _ _ _ (by decide) keeps_rfl) (doneKeeps_ite
    (doneKeeps_reply (modLane_keeps _ _ _ (by decide) keeps_rfl))
    (doneKeeps_later (noteReady_keeps _ _ (by decide) (keeps_ite (refreshPath_keeps _ (by decide) (ht _ _)) (ht _ _))))))

/-! Credit, replay and audit -/

theorem execCreditGrantTimer_keeps {p : Port} : OutKeeps [.lanes, .fabric] s (execCreditGrantTimer p s) :=
  outKeeps_ite (outKeeps_next (linkSend_keeps _ _ _ (by decide) (modPort_keeps _ _ _ (by decide) keeps_rfl))) (outKeeps_next keeps_rfl)

theorem execCreditReceived_keeps {p : Port} {granted : Vector U32 4} {x : FrameEnd} :
    OutKeeps [.mbx, .vlog, .dram, .lanes, .fabric, .red] s (execCreditReceived p granted x s) := by
  refine outKeeps_ite (outKeeps_next keeps_rfl) ?_
  have hx := takeLink_keeps (ch := [.mbx, .vlog, .dram, .lanes, .fabric, .red]) p 2 (countBytes granted.toList) x s.dev (by decide) keeps_rfl
  split
  · exact outKeeps_next (keeps_pair ‹_› hx)
  · exact outKeeps_next (pumpMirror_keeps _ (by decide) (pumpPort_keeps _ _ (by decide) (modPort_keeps _ _ _ (by decide) (keeps_pair ‹_› hx))))

theorem execCreditInitReceived_keeps {p : Port} {config : Vector U16 4} {x : FrameEnd} :
    OutKeeps [.mbx, .vlog, .dram, .lanes, .fabric, .red] s (execCreditInitReceived p config x s) := by
  refine outKeeps_ite (outKeeps_next keeps_rfl) ?_
  have hx := takeLink_keeps (ch := [.mbx, .vlog, .dram, .lanes, .fabric, .red]) p 3 (config.toList.flatMap (fun n => leBytes 2 n.toNat)) x
    s.dev (by decide) keeps_rfl
  split
  · exact outKeeps_next (keeps_pair ‹_› hx)
  · exact outKeeps_next (pumpMirror_keeps _ (by decide) (pumpPort_keeps _ _ (by decide) (modPort_keeps _ _ _ (by decide) (keeps_pair ‹_› hx))))

theorem execAckReceived_keeps {l : LinkId} {ackSeq : U16} {x : FrameEnd} :
    OutKeeps [.mbx, .vlog, .dram, .lanes, .fabric, .red] s (execAckReceived l ackSeq x s) := by
  cases l with
  | port p =>
    refine outKeeps_ite (outKeeps_next keeps_rfl) ?_
    have hx := takeLink_keeps (ch := [.mbx, .vlog, .dram, .lanes, .fabric, .red]) p 0 (leBytes 2 ackSeq.toNat ++ leBytes 2 x.rsv.2.toNat) x
      s.dev (by decide) keeps_rfl
    split
    · exact outKeeps_next (keeps_pair ‹_› hx)
    · exact outKeeps_next (pumpMirror_keeps _ (by decide) (pumpPort_keeps _ _ (by decide)
        (modPort_keeps _ _ _ (by decide) (keeps_pair ‹_› hx))))
  | waggle =>
    refine outKeeps_ite (outKeeps_next keeps_rfl) ?_
    have hx := takeShort_keeps (ch := [.mbx, .vlog, .dram, .lanes, .fabric, .red]) 2 ackSeq x s.dev (by decide) keeps_rfl
    split
    · exact outKeeps_next (keeps_pair ‹_› hx)
    · exact outKeeps_next (waggleAcked_keeps _ _ (by decide) (keeps_pair ‹_› hx))

theorem execNakReceived_keeps {l : LinkId} {nakSeq : U16} {x : FrameEnd} :
    OutKeeps [.mbx, .vlog, .lanes, .fabric, .red] s (execNakReceived l nakSeq x s) := by
  cases l with
  | port p =>
    refine outKeeps_ite (outKeeps_next keeps_rfl) ?_
    have hx := takeLink_keeps (ch := [.mbx, .vlog, .lanes, .fabric, .red]) p 1 (leBytes 2 nakSeq.toNat ++ leBytes 2 x.rsv.2.toNat) x s.dev
      (by decide) keeps_rfl
    split
    · exact outKeeps_next (keeps_pair ‹_› hx)
    · exact outKeeps_next (replayPort_keeps _ _ _ (by decide) (keeps_pair ‹_› hx))
  | waggle =>
    refine outKeeps_ite (outKeeps_next keeps_rfl) ?_
    have hx := takeShort_keeps (ch := [.mbx, .vlog, .lanes, .fabric, .red]) 3 nakSeq x s.dev (by decide) keeps_rfl
    split
    · exact outKeeps_next (keeps_pair ‹_› hx)
    · exact outKeeps_next (replayWaggle_keeps _ _ (by decide) (keeps_pair ‹_› hx))

theorem execReplayTimeout_keeps {l : LinkId} : OutKeeps [.lanes, .fabric, .red] s (execReplayTimeout l s) := by
  unfold execReplayTimeout
  cases l with
  | port p =>
    dsimp only
    split
    · exact outKeeps_ite (outKeeps_next (replayPort_keeps _ _ _ (by decide) keeps_rfl)) (outKeeps_next keeps_rfl)
    · exact outKeeps_next keeps_rfl
  | waggle =>
    dsimp only
    split
    · exact outKeeps_ite (outKeeps_next (replayWaggle_keeps _ _ (by decide) keeps_rfl)) (outKeeps_next keeps_rfl)
    · exact outKeeps_next keeps_rfl

theorem execAckTimer_keeps {l : LinkId} : OutKeeps [.lanes, .fabric, .red] s (execAckTimer l s) := by
  cases l with
  | port p =>
    exact outKeeps_ite (outKeeps_next (linkSend_keeps _ _ _ (by decide) (modPort_keeps _ _ _ (by decide) keeps_rfl))) (outKeeps_next keeps_rfl)
  | waggle =>
    exact outKeeps_ite (outKeeps_next (wagSend_keeps _ _ _ (by decide) (modRed_keeps _ _ (by decide) keeps_rfl))) (outKeeps_next keeps_rfl)

theorem execReplayBudget_keeps {l : LinkId} :
    OutKeeps [.mbx, .vlog, .links, .adapters, .cz, .dram, .lanes, .fabric, .red] s (execReplayBudget l s) := by
  cases l with
  | port p =>
    exact outKeeps_ite (outKeeps_next (fabReinit_keeps _ _ _ (by decide) (modPort_keeps _ _ _ (by decide) keeps_rfl))) (outKeeps_next keeps_rfl)
  | waggle =>
    exact outKeeps_ite (outKeeps_next (refreshPath_keeps _ (by decide) (reinitLane_keeps _ _ (by decide) (violation_keeps _ _ _ _ _ (by decide)
      (modRed_keeps _ _ (by decide) keeps_rfl))))) (outKeeps_next keeps_rfl)

theorem execAuditReceived_keeps {p : Port} {mark nextSeq : U16} {cSent : Vector U32 4} {x : FrameEnd} :
    OutKeeps [.mbx, .vlog, .links, .adapters, .cz, .lanes, .fabric, .red] s (execAuditReceived p mark nextSeq cSent x s) := by
  refine outKeeps_ite (outKeeps_next keeps_rfl) ?_
  have hx := takeLink_keeps (ch := [.mbx, .vlog, .links, .adapters, .cz, .lanes, .fabric, .red]) p 7
    (leBytes 2 mark.toNat ++ leBytes 2 nextSeq.toNat ++ countBytes cSent.toList) x s.dev (by decide) keeps_rfl
  split
  · exact outKeeps_next (keeps_pair ‹_› hx)
  · have hd := keeps_pair ‹_› hx
    exact outKeeps_ite (outKeeps_next (checkAudit_keeps _ _ _ _ (by decide) hd)) (outKeeps_ite
      (outKeeps_next (modPort_keeps _ _ _ (by decide) hd)) (outKeeps_next (auditReply_keeps _ _ _ (by decide) hd)))

theorem execAuditReplyReceived_keeps {p : Port} {mark : U16} {granted : Vector U32 4} {x : FrameEnd} :
    OutKeeps [.mbx, .vlog, .links, .adapters, .cz, .dram, .lanes, .fabric, .red] s (execAuditReplyReceived p mark granted x s) := by
  refine outKeeps_ite (outKeeps_next keeps_rfl) ?_
  have hx := takeLink_keeps (ch := [.mbx, .vlog, .links, .adapters, .cz, .dram, .lanes, .fabric, .red]) p 8
    (leBytes 2 mark.toNat ++ leBytes 2 x.rsv.2.toNat ++ countBytes granted.toList) x s.dev (by decide) keeps_rfl
  split
  · exact outKeeps_next (keeps_pair ‹_› hx)
  · extract_lets taken q answered
    have hg : Keeps [.mbx, .vlog, .links, .adapters, .cz, .dram, .lanes, .fabric, .red] s.dev taken :=
      modPort_keeps _ _ _ (by decide) (keeps_pair ‹_› hx)
    have ha : Keeps [.mbx, .vlog, .links, .adapters, .cz, .dram, .lanes, .fabric, .red] s.dev answered := modPort_keeps _ _ _ (by decide) hg
    exact outKeeps_ite (outKeeps_ite (outKeeps_next (pumpMirror_keeps _ (by decide) (pumpPort_keeps _ _ (by decide) ha)))
      (outKeeps_next (fabReinit_keeps _ _ _ (by decide) ha)))
      (outKeeps_next (pumpMirror_keeps _ (by decide) (pumpPort_keeps _ _ (by decide) hg)))

theorem execAuditResend_keeps {p : Port} :
    OutKeeps [.mbx, .vlog, .links, .adapters, .cz, .lanes, .fabric, .red] s (execAuditResend p s) := by
  unfold execAuditResend
  dsimp only
  split
  · exact outKeeps_ite (outKeeps_next keeps_rfl) (outKeeps_ite
      (outKeeps_next (linkSend_keeps _ _ _ (by decide) (modPort_keeps _ _ _ (by decide) keeps_rfl)))
      (outKeeps_next (fabReinit_keeps _ _ _ (by decide) (modPort_keeps _ _ _ (by decide) keeps_rfl))))
  · exact outKeeps_next keeps_rfl

/-! Data frames and faults -/

theorem execDataFrameReceived_keeps {p : Port} {k : Fin 2} {f : DataFrame} :
    OutKeeps [.mbx, .vlog, .links, .adapters, .cz, .dram, .lanes, .fabric, .red] s (execDataFrameReceived p k f s) := by
  unfold execDataFrameReceived
  refine outKeeps_ite (outKeeps_next keeps_rfl) ?_
  have hp : Keeps [.mbx, .vlog, .links, .adapters, .cz, .dram, .lanes, .fabric, .red] s.dev (portActive p k s.dev) :=
    portActive_keeps _ _ _ (by decide) keeps_rfl
  exact outKeeps_ite (outKeeps_next (badFrame_keeps _ _ _ _ (by decide) hp)) (outKeeps_ite
    (outKeeps_next (nakData_keeps _ _ _ (by decide) (fun _ => laneViolation_keeps _ _ _ _ _ (by decide) keeps_rfl) hp)) (outKeeps_ite
    (outKeeps_next (nakData_keeps _ _ _ (by decide) (fun _ => fabViolation_keeps _ _ _ _ (by decide) keeps_rfl) hp))
    (outKeeps_next (acceptFrame_keeps _ _ _ _ (by decide) hp))))

theorem execSrcSeqGapTimeout_keeps {src : U8} {vc : Vc} {dest : DestKind} :
    OutKeeps [.mbx, .vlog, .jobs, .dram, .lanes, .fabric, .red] s (execSrcSeqGapTimeout src vc dest s) := by
  unfold execSrcSeqGapTimeout
  extract_lets d counted
  have hc : Keeps [.mbx, .vlog, .jobs, .dram, .lanes, .fabric, .red] s.dev counted := modFabric_keeps _ _ (by decide) keeps_rfl
  split
  · exact outKeeps_next keeps_rfl
  · split
    · exact outKeeps_next keeps_rfl
    · extract_lets low noted gone
      have hn : Keeps [.mbx, .vlog, .jobs, .dram, .lanes, .fabric, .red] s.dev noted := by
        unfold noted
        split
        · exact modPort_keeps _ _ _ (by decide) hc
        · exact hc
      exact outKeeps_next (drainFlow_keeps _ _ _ _ _ (by decide) (modFlow_keeps _ _ _ _ _ (by decide)
        (gapEffects_keeps _ _ _ _ (by decide) hn)))

theorem execUnreachableReceived_keeps {dest : U8} {msgType : U16} {srcSeq : U32} :
    OutKeeps [.mbx, .vlog, .lanes, .fabric] s (execUnreachableReceived dest msgType srcSeq s) :=
  outKeeps_ite (outKeeps_next keeps_rfl) (outKeeps_next (frameLost_keeps _ _ _ _ (by decide) keeps_rfl))

theorem execPartnerIsolated_keeps {block : BitVec 5} {source : U16} :
    OutKeeps [.mbx, .vlog, .jobs, .links, .cz, .dram, .lanes, .fabric, .red] s (execPartnerIsolated block source s) :=
  outKeeps_ite (outKeeps_next (noteReady_keeps _ _ (by decide) (leaveLink_keeps _ _ _ (by decide)
    (isolatePartner_keeps _ _ _ (by decide) keeps_rfl)))) (outKeeps_next keeps_rfl)

theorem execNeighbourSilent_keeps {p : Port} :
    OutKeeps [.mbx, .vlog, .links, .adapters, .cz, .lanes, .fabric, .red] s (execNeighbourSilent p s) :=
  outKeeps_ite (outKeeps_next (fabReinit_keeps _ _ _ (by decide) keeps_rfl)) (outKeeps_next keeps_rfl)

theorem execPortFlap_keeps {p : Port} : OutKeeps [.mbx, .vlog, .lanes, .fabric] s (execPortFlap p s) :=
  outKeeps_ite (outKeeps_next (fabViolation_keeps _ _ _ _ (by decide) (modPort_keeps _ _ _ (by decide) keeps_rfl))) (outKeeps_next keeps_rfl)

/-! Fabric time -/

theorem execTimeReqTimer_keeps : OutKeeps [.lanes, .fabric] s (execTimeReqTimer s) := by
  unfold execTimeReqTimer
  dsimp only
  split
  · exact outKeeps_ite (outKeeps_next (linkSend_keeps _ _ _ (by decide) keeps_rfl)) (outKeeps_next keeps_rfl)
  · exact outKeeps_next keeps_rfl

theorem execTimeReqReceived_keeps {p : Port} {t1 t2 : Int} {x : FrameEnd} :
    OutKeeps [.mbx, .vlog, .lanes, .fabric] s (execTimeReqReceived p t1 t2 x s) := by
  refine outKeeps_ite (outKeeps_next keeps_rfl) ?_
  have hx := takeLink_keeps (ch := [.mbx, .vlog, .lanes, .fabric]) p 5 (leInt 8 t1) x s.dev (by decide) keeps_rfl
  split
  · exact outKeeps_next (keeps_pair ‹_› hx)
  · exact outKeeps_next (linkSend_keeps _ _ _ (by decide) (keeps_pair ‹_› hx))

theorem execTimeRespReceived_keeps {p : Port} {t1 t2 t3 t4 : Int} {x : FrameEnd} :
    OutKeeps [.chip, .mbx, .vlog, .lanes, .fabric] s (execTimeRespReceived p t1 t2 t3 t4 x s) := by
  refine outKeeps_ite (outKeeps_next keeps_rfl) ?_
  have hx := takeLink_keeps (ch := [.chip, .mbx, .vlog, .lanes, .fabric]) p 6 (leInt 8 t1 ++ leInt 8 t2 ++ leInt 8 t3) x s.dev (by decide)
    keeps_rfl
  split
  · exact outKeeps_next (keeps_pair ‹_› hx)
  · have hd := keeps_pair ‹_› hx
    exact outKeeps_ite (outKeeps_next (fabViolation_keeps _ _ _ _ (by decide) hd)) (outKeeps_next (lockAfter_keeps _ _ (by decide)
      (adjustTime_keeps _ _ (by decide) (modPort_keeps _ _ _ (by decide) hd))))

theorem execTimeUnlockTimeout_keeps : OutKeeps [.mbx, .vlog, .lanes, .fabric] s (execTimeUnlockTimeout s) :=
  outKeeps_ite (outKeeps_next (raise_keeps _ _ _ (by decide) (modFabric_keeps _ _ (by decide) keeps_rfl))) (outKeeps_next keeps_rfl)

/-! Discovery -/

theorem execHelloTimer_keeps {p : Port} : OutKeeps [.lanes, .fabric] s (execHelloTimer p s) :=
  outKeeps_next (sendHello_keeps _ _ (by decide) keeps_rfl)

theorem execHelloReceived_keeps {p : Port} {k : Fin 2} {m : Hello} :
    OutKeeps [.mbx, .vlog, .links, .adapters, .cz, .lanes, .fabric, .red] s (execHelloReceived p k m s) := by
  unfold execHelloReceived
  refine outKeeps_ite (outKeeps_next keeps_rfl) ?_
  extract_lets d
  have hp : Keeps [.mbx, .vlog, .links, .adapters, .cz, .lanes, .fabric, .red] s.dev d := portActive_keeps _ _ _ (by decide) keeps_rfl
  refine outKeeps_ite (outKeeps_next (laneViolation_keeps _ _ _ _ _ (by decide) hp)) ?_
  split
  · exact outKeeps_ite (outKeeps_next (takeHello_keeps _ _ _ (by decide) hp)) (outKeeps_next (fabReinit_keeps _ _ _ (by decide) hp))
  · exact outKeeps_next (takeHello_keeps _ _ _ (by decide) hp)

theorem execRootElectionTimeout_keeps : OutKeeps [.fabric] s (execRootElectionTimeout s) :=
  outKeeps_ite (outKeeps_next (modFabric_keeps _ _ (by decide) (updateCand_keeps _ (by decide) keeps_rfl))) (outKeeps_next keeps_rfl)

theorem execJoinReceived_keeps {p : Port} {m : Join} : OutKeeps [.mbx, .vlog, .lanes, .fabric] s (execJoinReceived p m s) :=
  outKeeps_ite (outKeeps_next keeps_rfl) (outKeeps_ite
    (outKeeps_next (rootJoin_keeps _ _ _ (by decide) (noteJoinPort_keeps _ _ _ (by decide) keeps_rfl)))
    (outKeeps_next (keeps_ite keeps_rfl (noteJoinPort_keeps _ _ _ (by decide) keeps_rfl))))

theorem execLinkChangeReceived_keeps {node : U8} {port : Port} {isUp : Bool} {neighbour : U64} :
    OutKeeps [.mbx, .vlog, .lanes, .fabric] s (execLinkChangeReceived node port isUp neighbour s) :=
  outKeeps_ite (outKeeps_next keeps_rfl) (outKeeps_next (rerouted_keeps _ (by decide) (modFabric_keeps _ _ (by decide) keeps_rfl)))

theorem execIdAssignment_keeps : OutKeeps [.mbx, .vlog, .lanes, .fabric, .nv] s (execIdAssignment s) :=
  outKeeps_ite (outKeeps_next keeps_rfl) (outKeeps_next (sendRoles_keeps _ (by decide) (raise_keeps _ _ _ (by decide)
    (loadRoutes_keeps _ (by decide) (takeNode_keeps _ _ (by decide) (modFabric_keeps _ _ (by decide)
    (keeps_foldl (fun _ _ => raise_keeps _ _ _ (by decide) (fabViolation_keeps _ _ _ _ (by decide) keeps_rfl)) keeps_rfl)))))))

theorem execAssignReceived_keeps {p : Port} {uid : U64} {nodeId : U8} {discGen : U16} {routes : List U16} :
    OutKeeps [.mbx, .vlog, .dram, .lanes, .fabric, .red, .nv] s (execAssignReceived p uid nodeId discGen routes s) := by
  unfold execAssignReceived
  refine outKeeps_ite (outKeeps_next keeps_rfl) (outKeeps_ite ?_ (outKeeps_next keeps_rfl))
  extract_lets was d
  have hd : Keeps [.mbx, .vlog, .dram, .lanes, .fabric, .red, .nv] s.dev d :=
    takeNode_keeps _ _ (by decide) (modFabric_keeps _ _ (by decide) keeps_rfl)
  exact outKeeps_next (refreshPath_keeps _ (by decide) (keeps_ite (modFabric_keeps _ _ (by decide) hd) (sendRoles_keeps _ (by decide) hd)))

/-! Roles -/

theorem execRoleAssignmentTimer_keeps : OutKeeps [.lanes, .fabric] s (execRoleAssignmentTimer s) :=
  outKeeps_ite (outKeeps_next (sendRoles_keeps _ (by decide) keeps_rfl)) (outKeeps_next keeps_rfl)

theorem execRoleAssignmentReceived_keeps {m : RoleMsg} :
    OutKeeps [.chip, .mbx, .vlog, .acct, .jobs, .banks, .engines, .pos, .sheet, .fire, .links, .loop, .cz, .lanes, .fabric, .red, .nv] s
      (execRoleAssignmentReceived m s) :=
  outKeeps_ite (outKeeps_next (noteFault_keeps _ _ (by decide) (takeRoles_keeps _ _ (by decide) keeps_rfl))) (outKeeps_next keeps_rfl)

theorem execRoleHolderTimeout_keeps {role : Fin 3} : OutKeeps [.fabric] s (execRoleHolderTimeout role s) := by
  unfold execRoleHolderTimeout
  dsimp only
  split
  · exact outKeeps_ite (outKeeps_next keeps_rfl) (outKeeps_next (modFabric_keeps _ _ (by decide) keeps_rfl))
  · exact outKeeps_next keeps_rfl

/-! Fabric commands -/

theorem execFabricConfig_keeps {c : Cmd} : OutKeeps [.mbx, .vlog, .lanes, .fabric, .red] s (execFabricConfig c s) := by
  refine mervan_keeps (by decide) nofun (fun _ _ d => doneKeeps_ite (no_keeps _ _ _ _ (by decide) keeps_rfl) ?_)
  have hp : ∀ p f, Keeps [.mbx, .vlog, .lanes, .fabric, .red] d (modPort d p f) := fun _ _ => modPort_keeps _ _ _ (by decide) keeps_rfl
  exact done_keeps _ (by decide) (keeps_ite (enablePort_keeps _ _ (by decide) (hp _ _)) (hp _ _))

theorem execFabricStatus_keeps {c : Cmd} : OutKeeps [.mbx, .vlog, .lanes, .fabric] s (execFabricStatus c s) :=
  mervan_keeps (by decide) nofun (fun _ _ _ => ok_keeps _ _ (by decide) keeps_rfl)

theorem execFabricRoutes_keeps {c : Cmd} : OutKeeps [.mbx, .vlog, .dram, .lanes, .fabric, .red] s (execFabricRoutes c s) :=
  mervan_keeps (by decide) nofun (fun _ _ _ => ok_keeps _ _ (by decide) (dramWrite_keeps _ _ _ _ (by decide) keeps_rfl))

theorem execFabricFixId_keeps {c : Cmd} : OutKeeps [.mbx, .vlog, .lanes, .fabric, .nv] s (execFabricFixId c s) :=
  mervan_keeps (by decide) nofun (fun _ _ _ => doneKeeps_ite (no_keeps _ _ _ _ (by decide) keeps_rfl)
    (doneKeeps_later (journalAppend_keeps _ _ _ _ _ (by decide) keeps_rfl)))

theorem execFabricDiscover_keeps {c : Cmd} : OutKeeps [.mbx, .vlog, .lanes, .fabric] s (execFabricDiscover c s) :=
  mervan_keeps (by decide) nofun (fun _ _ _ => ok_keeps _ _ (by decide) (modFabric_keeps _ _ (by decide)
    (beginDiscovery_keeps _ (by decide) keeps_rfl)))

theorem execFabricPing_keeps {c : Cmd} : OutKeeps [.mbx, .vlog, .lanes, .fabric] s (execFabricPing c s) := by
  unfold execFabricPing
  refine mervan_keeps (by decide) nofun (fun _ _ _ => doneKeeps_ite (ok_keeps _ _ (by decide) keeps_rfl) ?_)
  dsimp only
  split
  · exact doneKeeps_later (modFabric_keeps _ _ (by decide) (keeps_pair ‹_› (sendTo_keeps _ _ _ _ _ _ (by decide) keeps_rfl)))
  · exact no_keeps _ _ _ _ (by decide) (keeps_pair ‹_› (sendTo_keeps _ _ _ _ _ _ (by decide) keeps_rfl))

end

/-- Settles O40: each row by its own lemma above. -/
theorem memoryAndFabricRowsFrame : Obligations.MemoryAndFabricRowsFrame :=
  ⟨fun _ _ _ => outKeeps_onlyChanges fun _ => execStreamNoticeReceived_keeps,
    outKeeps_onlyChanges fun _ => execPcieLinkUp_keeps,
    fun _ _ _ => outKeeps_onlyChanges fun _ => execCrcSegment_keeps,
    outKeeps_onlyChanges fun _ => execTrainingHoldExpiry_keeps,
    fun _ _ _ => outKeeps_onlyChanges fun _ => execRefreshDue_keeps,
    outKeeps_onlyChanges fun _ => execRefreshWindow_keeps,
    fun _ => outKeeps_onlyChanges fun _ => execCdrLock_keeps,
    fun _ => outKeeps_onlyChanges fun _ => execReceiverAdapted_keeps,
    fun _ => outKeeps_onlyChanges fun _ => execEqFreeze_keeps,
    fun _ => outKeeps_onlyChanges fun _ => execEqResume_keeps,
    fun _ => outKeeps_onlyChanges fun _ => execElectricalIdleEntry_keeps,
    fun _ => outKeeps_onlyChanges fun _ => execElectricalIdleNotice_keeps,
    fun _ => outKeeps_onlyChanges fun _ => execWakeBurstTimer_keeps,
    fun _ => outKeeps_onlyChanges fun _ => execCreditGrantTimer_keeps,
    outKeeps_onlyChanges fun _ => execTimeReqTimer_keeps,
    fun _ => outKeeps_onlyChanges fun _ => execHelloTimer_keeps,
    outKeeps_onlyChanges fun _ => execRootElectionTimeout_keeps,
    outKeeps_onlyChanges fun _ => execRoleAssignmentTimer_keeps,
    fun _ => outKeeps_onlyChanges fun _ => execRoleHolderTimeout_keeps,
    fun _ _ _ _ _ => outKeeps_onlyChanges fun _ => execAssignReceived_keeps,
    fun _ => outKeeps_onlyChanges fun _ => execReplayTimeout_keeps,
    fun _ => outKeeps_onlyChanges fun _ => execAckTimer_keeps,
    fun _ _ _ _ => outKeeps_onlyChanges fun _ => execTimeReqReceived_keeps,
    fun _ _ => outKeeps_onlyChanges fun _ => execCompressorResume_keeps,
    fun _ => outKeeps_onlyChanges fun _ => execCzStatus_keeps,
    fun _ => outKeeps_onlyChanges fun _ => execCrcRead_keeps,
    fun _ => outKeeps_onlyChanges fun _ => execMemStatus_keeps,
    fun _ => outKeeps_onlyChanges fun _ => execMemFence_keeps,
    fun _ => outKeeps_onlyChanges fun _ => execLaneStatus_keeps,
    fun _ _ _ => outKeeps_onlyChanges fun _ => execUnreachableReceived_keeps,
    outKeeps_onlyChanges fun _ => execTimeUnlockTimeout_keeps,
    fun _ => outKeeps_onlyChanges fun _ => execPortFlap_keeps,
    fun _ _ => outKeeps_onlyChanges fun _ => execJoinReceived_keeps,
    fun _ _ _ _ => outKeeps_onlyChanges fun _ => execLinkChangeReceived_keeps,
    fun _ => outKeeps_onlyChanges fun _ => execFabricStatus_keeps,
    fun _ => outKeeps_onlyChanges fun _ => execFabricDiscover_keeps,
    fun _ => outKeeps_onlyChanges fun _ => execFabricPing_keeps,
    fun _ _ _ => outKeeps_onlyChanges fun _ => execCreditReceived_keeps,
    fun _ _ _ => outKeeps_onlyChanges fun _ => execCreditInitReceived_keeps,
    fun _ _ _ => outKeeps_onlyChanges fun _ => execAckReceived_keeps,
    fun _ _ _ => outKeeps_onlyChanges fun _ => execNakReceived_keeps,
    fun _ => outKeeps_onlyChanges fun _ => execLaneAttemptStart_keeps,
    fun _ => outKeeps_onlyChanges fun _ => execPartnerT1Detected_keeps,
    fun _ _ => outKeeps_onlyChanges fun _ => execPeppercornTestEnd_keeps,
    fun _ => outKeeps_onlyChanges fun _ => execCzDictReset_keeps,
    outKeeps_onlyChanges fun _ => execIdAssignment_keeps,
    fun _ => outKeeps_onlyChanges fun _ => execFabricFixId_keeps,
    fun _ => outKeeps_onlyChanges fun _ => execCrcWrite_keeps,
    outKeeps_onlyChanges fun _ => execDeferredTrainingStart_keeps,
    fun _ _ _ => outKeeps_onlyChanges fun _ => execMr4Read_keeps,
    fun _ _ => outKeeps_onlyChanges fun _ => execDqsTracking_keeps,
    fun _ _ => outKeeps_onlyChanges fun _ => execScrubRead_keeps,
    outKeeps_onlyChanges fun _ => execDramCorrectedReport_keeps,
    fun _ => outKeeps_onlyChanges fun _ => execTrainingPhaseTimeout_keeps,
    fun _ => outKeeps_onlyChanges fun _ => execDictMessageReceived_keeps,
    fun _ => outKeeps_onlyChanges fun _ => execCzCompress_keeps,
    fun _ => outKeeps_onlyChanges fun _ => execCrcConfig_keeps,
    fun _ => outKeeps_onlyChanges fun _ => execCrcEnable_keeps,
    fun _ => outKeeps_onlyChanges fun _ => execMemQos_keeps,
    fun _ => outKeeps_onlyChanges fun _ => execMemRowhammer_keeps,
    fun _ => outKeeps_onlyChanges fun _ => execMemScrub_keeps,
    fun _ => outKeeps_onlyChanges fun _ => execMemErrors_keeps,
    fun _ => outKeeps_onlyChanges fun _ => execDramRequest_keeps,
    fun _ => outKeeps_onlyChanges fun _ => execFabricRoutes_keeps,
    fun _ => outKeeps_onlyChanges fun _ => execMemFreq_keeps,
    fun _ => outKeeps_onlyChanges fun _ => execMemTrain_keeps,
    fun _ => outKeeps_onlyChanges fun _ => execLaneConfig_keeps,
    fun _ => outKeeps_onlyChanges fun _ => execFabricConfig_keeps,
    fun _ _ _ _ _ _ => outKeeps_onlyChanges fun _ => execTimeRespReceived_keeps,
    fun _ => outKeeps_onlyChanges fun _ => execCzDecompress_keeps,
    fun _ _ _ => outKeeps_onlyChanges fun _ => execSrcSeqGapTimeout_keeps,
    fun _ => outKeeps_onlyChanges fun _ => execBlockCompressed_keeps,
    fun _ => outKeeps_onlyChanges fun _ => execTrainingDone_keeps,
    fun _ _ => outKeeps_onlyChanges fun _ => execPartnerIsolated_keeps,
    fun _ _ _ _ _ => outKeeps_onlyChanges fun _ => execAuditReceived_keeps,
    fun _ _ _ _ => outKeeps_onlyChanges fun _ => execAuditReplyReceived_keeps,
    fun _ => outKeeps_onlyChanges fun _ => execAuditResend_keeps,
    fun _ => outKeeps_onlyChanges fun _ => execReplayBudget_keeps,
    fun _ => outKeeps_onlyChanges fun _ => execNeighbourSilent_keeps,
    fun _ _ _ => outKeeps_onlyChanges fun _ => execHelloReceived_keeps,
    fun _ _ _ => outKeeps_onlyChanges fun _ => execTrainingWordReceived_keeps,
    fun _ => outKeeps_onlyChanges fun _ => execRoleAssignmentReceived_keeps,
    fun _ => outKeeps_onlyChanges fun _ => execLossOfSignal_keeps,
    fun _ _ => outKeeps_onlyChanges fun _ => execCodeErrorBurst_keeps,
    fun _ => outKeeps_onlyChanges fun _ => execWakeBurstMissing_keeps,
    fun _ => outKeeps_onlyChanges fun _ => execLaneRetrain_keeps,
    fun _ => outKeeps_onlyChanges fun _ => execLanePrbs_keeps,
    fun _ _ _ => outKeeps_onlyChanges fun _ => execDataFrameReceived_keeps⟩

end Sys2Proof.Machine
end

section
/-! SUPPORT. The rules of the memory commands and of the DRAM rows (R246 to R262): each command runs its own rule once it is accepted, and each
row answers the next state of its own effect. -/
namespace Sys2Proof.Machine

/-! Memory commands -/

theorem memStatusRule_holds : memStatusRule.Holds .memStatus := Rule.holds_of_out (fun _ _ => rfl)

/-- Under the rule's condition the point has not failed and admits the staged supply; the queue and the deferral stand in the rule's own effect
(R255, R256). -/
theorem memFreqRule_holds : memFreqRule.Holds .memFreq := by
  refine Rule.holds_of (fun _ _ => rfl) (fun c a d hcan => ?_)
  simp only [memFreqRule, Bool.and_eq_true] at hcan
  obtain ⟨⟨hworks, hadmits⟩, -⟩ := hcan
  exact (ite_of_not hworks).trans (ite_of_not_decide hadmits)

/-- The rule's effect is the command's whole meaning: BUSY_STATE during a sweep and the deferral are part of it (R254, R383). -/
theorem memTrainRule_holds : memTrainRule.Holds .memTrain := Rule.holds_of_out (fun _ _ => rfl)

theorem memFenceRule_holds : memFenceRule.Holds .memFence := Rule.holds_of_out (fun _ _ => rfl)

theorem memQosRule_holds : memQosRule.Holds .memQos := Rule.holds_of_out (fun _ _ => rfl)

theorem memRowhammerRule_holds : memRowhammerRule.Holds .memRowhammer := Rule.holds_of_out (fun _ _ => rfl)

theorem memScrubRule_holds : memScrubRule.Holds .memScrub := Rule.holds_of_out (fun _ _ => rfl)

theorem memErrorsRule_holds : memErrorsRule.Holds .memErrors := Rule.holds_of_out (fun _ _ => rfl)

/-- Settles O25: the rule of each memory command holds. -/
theorem dramCommandsComplete : Obligations.DramCommandsComplete :=
  ⟨memStatusRule_holds, memFreqRule_holds, memTrainRule_holds, memFenceRule_holds, memQosRule_holds, memRowhammerRule_holds,
    memScrubRule_holds, memErrorsRule_holds⟩

/-! Requests and training -/

theorem dramRequestRule_holds (r : DramReq) : (dramRequestRule r).Holds (.dramRequest r) :=
  fun _ hc => (if_pos hc).trans next_ite.symm

/-- Under the rule's condition the DRAM trains the point that the result is of, so there is a work whose outcome it is (R250 to R255). -/
theorem trainingDoneRule_holds (r : TrainResult) : (trainingDoneRule r).Holds (.trainingDone r) := by
  intro s hc
  show execTrainingDone r s = _
  cases hwork : s.dev.dram.work with
  | none => simp only [trainingDoneRule, hwork, Bool.and_false, Bool.false_eq_true] at hc
  | some w =>
    simp only [trainingDoneRule, hwork] at hc
    simp only [execTrainingDone, trainingDoneRule, hwork, hc, if_true, next_eq]

theorem deferredTrainingStartRule_holds : deferredTrainingStartRule.Holds .deferredTrainingStart := fun _ hc => if_pos hc

/-- The hold ends with the first deferred work begun, or with nothing to begin (R254). -/
theorem trainingHoldExpiryRule_holds : trainingHoldExpiryRule.Holds .trainingHoldExpiry := by
  intro s hc
  refine (if_pos hc).trans ?_
  cases hdeferred : s.dev.dram.deferred <;> simp only [trainingHoldExpiryRule, hdeferred, next_eq]

/-! Refresh, temperature, tracking and scrubbing -/

/-- A forced refresh draws its catch-up time, and any other only counts (R260). -/
theorem refreshDueRule_holds (mc : Port) (rank : Fin 2) (feedWaiting : Bool) :
    (refreshDueRule mc rank feedWaiting).Holds (.refreshDue mc rank feedWaiting) :=
  fun _ hc => (if_pos hc).trans next_ite.symm

theorem refreshWindowRule_holds : refreshWindowRule.Holds .refreshWindow := fun _ hc => if_pos hc

/-- Under the rule's condition the die is there, and it is hot or reports one of the multipliers 1, 2 and 4 (R260, R261). -/
theorem mr4ReadRule_holds (die : DieId) (multiplier : Fin 5) (hot : Bool) : (mr4ReadRule die multiplier hot).Holds (.mr4Read die multiplier hot) := by
  intro s hc
  obtain ⟨hdie, hreport⟩ := Bool.and_eq_true_iff.mp hc
  refine (if_pos hdie).trans ?_
  cases hot with
  | true => rfl
  | false =>
    have hmult : multiplier = 1 ∨ multiplier = 2 ∨ multiplier = 4 := by simpa [or_assoc] using hreport
    exact if_pos hmult

theorem dqsTrackingRule_holds (lane : Fin 8) (drift : Int) : (dqsTrackingRule lane drift).Holds (.dqsTracking lane drift) :=
  fun _ hc => if_pos hc

theorem scrubReadRule_holds (corrected : Bool) (fault : Option CheckFault) : (scrubReadRule corrected fault).Holds (.scrubRead corrected fault) :=
  fun _ hc => if_pos hc

theorem dramCorrectedReportRule_holds : dramCorrectedReportRule.Holds .dramCorrectedReport := fun _ hc => if_pos hc

/-- Settles O26: the rule of each DRAM row holds. -/
theorem dramRowsComplete : Obligations.DramRowsComplete :=
  ⟨dramRequestRule_holds, trainingDoneRule_holds, deferredTrainingStartRule_holds, trainingHoldExpiryRule_holds, refreshDueRule_holds,
    refreshWindowRule_holds, mr4ReadRule_holds, dqsTrackingRule_holds, scrubReadRule_holds, dramCorrectedReportRule_holds⟩

end Sys2Proof.Machine
end

section
/-! SUPPORT. A write to DRAM (R248, R254): held with the other requests, or performed and read back. -/
namespace Sys2Proof.Machine

section
variable {source a : Nat} {bs : List U8} {d : Device}

theorem dramWrite_of_holds (h : holdsRequests d = true) :
    dramWrite source a bs d = { d with dram := { d.dram with waiting := d.dram.waiting ++ [⟨finOf 10 source, a, some bs, 0, []⟩] } } :=
  if_pos h

theorem dramWrite_of_serves (h : holdsRequests d = false) : dramWrite source a bs d = dramPut source a bs d :=
  if_neg (by simp [h])

/-- The log for the mirror, which follows the granules of a write, leaves the DRAM. -/
theorem dramPut_dram (h : bs ≠ []) :
    (dramPut source a bs d).dram = (writeGranules source (bs.length + 1) a bs (touch true a bs.length d)).dram := by
  rw [dramPut, if_neg (by simpa using h), logMirror_dram]

theorem memRead_eq_of_memGet {m : Mem} (h : ∀ i (hi : i < bs.length), memGet m (a + i) = bs[i]) : memRead m a bs.length = bs :=
  List.ext_getElem (by simp [memRead]) (fun i _ hi => by simp [memRead, h i hi])

/-- A write performed on a range with no poisoned granule is read back, and poisons and records nothing: the accesses that it makes leave bytes,
poison and error records, and its granules put every byte in place (R248). -/
theorem dramPut_inside (hwf : d.dram.data.wf = true) (hclean : ∀ g ∈ d.dram.poison, ¬ (a / 32 ≤ g ∧ 32 * g < a + bs.length)) :
    dramRead (dramPut source a bs d) a bs.length = bs ∧ (dramPut source a bs d).dram.poison = d.dram.poison ∧
      (dramPut source a bs d).dram.errors = d.dram.errors := by
  rcases eq_or_ne bs [] with rfl | hbytes
  · exact ⟨rfl, rfl, rfl⟩
  · obtain ⟨hdata, hpoison, herrors⟩ := touch_bytes true a bs.length d
    obtain ⟨hpoison', herrors', hget⟩ := writeGranules_inside source (bs.length + 1) a bs (touch true a bs.length d) (hdata ▸ hwf)
      (Nat.lt_succ_self _) (hpoison ▸ hclean)
    rw [dramRead, dramPut_dram hbytes]
    exact ⟨memRead_eq_of_memGet hget, hpoison'.trans hpoison, herrors'.trans herrors⟩

end

/-- Settles O59: a write is held or performed, and either changes no byte outside its range. -/
theorem dramWriteFrame : Obligations.DramWriteFrame := by
  intro source a bs d hwf t
  refine ⟨fun x hx => dramWrite_outside source a bs d hwf x hx, fun hholds => ?_, fun hserves hclean => ?_⟩
  · rw [show t = _ from dramWrite_of_holds hholds]
    exact ⟨rfl, rfl⟩
  · rw [show t = _ from dramWrite_of_serves hserves]
    exact dramPut_inside hwf hclean

end Sys2Proof.Machine
end

section
/-! SUPPORT. A step on a queue with a command in front. -/
namespace Sys2Proof.Machine

/-- Settles O45: with a command in front, `step` is its `exec` on the rest of the queue. -/
theorem stepRunsTheFrontCommand : Obligations.StepRunsTheFrontCommand := by
  intro c s rest hfront
  simp only [step, hfront]

end Sys2Proof.Machine
end

section
/-! SUPPORT. The rules of the lane rows and commands and of the rows of credits, audits, acknowledgement and replay (R265 to R283, R294 to
R298): each command runs its own rule once it is accepted, and each row answers the next state of its own effect. -/
namespace Sys2Proof.Machine

/-! Training -/

theorem laneAttemptStartRule_holds (l : LaneId) : (laneAttemptStartRule l).Holds (.laneAttemptStart l) := fun _ hc => if_pos hc

theorem partnerT1DetectedRule_holds (l : LaneId) : (partnerT1DetectedRule l).Holds (.partnerT1Detected l) := fun _ hc => if_pos hc

theorem trainingPhaseTimeoutRule_holds (l : LaneId) : (trainingPhaseTimeoutRule l).Holds (.trainingPhaseTimeout l) := fun _ hc => if_pos hc

theorem cdrLockRule_holds (x : CdrLock) : (cdrLockRule x).Holds (.cdrLock x) := fun _ hc => if_pos hc

/-- Under the rule's condition the lane adapts at the rate it trained at (R277). -/
theorem receiverAdaptedRule_holds (l : LaneId) : (receiverAdaptedRule l).Holds (.receiverAdapted l) := by
  intro s hc
  obtain ⟨hadapts, hrate⟩ := Bool.and_eq_true_iff.mp hc
  exact (ite_of_holds hadapts).trans (ite_of_not hrate)

/-- A word in phase T3 is counted as faulty or taken, by its CRC (R278). -/
theorem trainingWordReceivedRule_holds (l : LaneId) (w : TrainWord) (last : Bool) :
    (trainingWordReceivedRule l w last).Holds (.trainingWordReceived l w last) := fun _ hc => (ite_of_not hc).trans next_ite.symm

theorem peppercornTestEndRule_holds (l : LaneId) (got : List Bool) : (peppercornTestEndRule l got).Holds (.peppercornTestEnd l got) :=
  fun _ hc => ite_of_not hc

/-! Signal and idle -/

/-- A powered lane that loses its signal falls when it is up, and fails its attempt when it trains (R270, R276). -/
theorem lossOfSignalRule_holds (l : LaneId) : (lossOfSignalRule l).Holds (.lossOfSignal l) := by
  intro s hc
  obtain ⟨hpower, -⟩ := Bool.and_eq_true_iff.mp hc
  refine (ite_of_holds hpower).trans ?_
  simp only [lossOfSignalRule, ← next_eq, next_ite]

theorem codeErrorBurstRule_holds (l : LaneId) (errors : List CodeError) : (codeErrorBurstRule l errors).Holds (.codeErrorBurst l errors) :=
  fun _ hc => (if_pos hc).trans next_ite.symm

theorem eqFreezeRule_holds (l : LaneId) : (eqFreezeRule l).Holds (.eqFreeze l) := fun _ hc => if_pos hc

theorem eqResumeRule_holds (l : LaneId) : (eqResumeRule l).Holds (.eqResume l) := fun _ hc => if_pos hc

theorem electricalIdleEntryRule_holds (l : LaneId) : (electricalIdleEntryRule l).Holds (.electricalIdleEntry l) := fun _ hc => if_pos hc

theorem electricalIdleNoticeRule_holds (l : LaneId) : (electricalIdleNoticeRule l).Holds (.electricalIdleNotice l) := fun _ hc => if_pos hc

theorem wakeBurstTimerRule_holds (l : LaneId) : (wakeBurstTimerRule l).Holds (.wakeBurstTimer l) := fun _ hc => if_pos hc

theorem wakeBurstMissingRule_holds (l : LaneId) : (wakeBurstMissingRule l).Holds (.wakeBurstMissing l) := fun _ hc => if_pos hc

/-! Lane commands -/

/-- Under the rule's condition the idle time is 0 or at least 10; a lane that the device does not have stands in the rule's own effect. -/
theorem laneConfigRule_holds : laneConfigRule.Holds .laneConfig := by
  refine Rule.holds_of (fun _ _ => rfl) (fun c a d hcan => ?_)
  obtain ⟨hidle, -⟩ := Bool.and_eq_true_iff.mp hcan
  exact ite_of_not_decide hidle

theorem laneStatusRule_holds : laneStatusRule.Holds .laneStatus := Rule.holds_of_out (fun _ _ => rfl)

theorem laneRetrainRule_holds : laneRetrainRule.Holds .laneRetrain := Rule.holds_of_out (fun _ _ => rfl)

/-- The rule's effect is the command's whole meaning: its refusals and the deferral are part of it (R280). -/
theorem lanePrbsRule_holds : lanePrbsRule.Holds .lanePrbs := Rule.holds_of_out (fun _ _ => rfl)

/-- Settles O27: the rule of each lane row and command holds. -/
theorem lanesComplete : Obligations.LanesComplete :=
  ⟨laneAttemptStartRule_holds, partnerT1DetectedRule_holds, trainingPhaseTimeoutRule_holds, cdrLockRule_holds, receiverAdaptedRule_holds,
    trainingWordReceivedRule_holds, peppercornTestEndRule_holds, lossOfSignalRule_holds, codeErrorBurstRule_holds, eqFreezeRule_holds,
    eqResumeRule_holds, electricalIdleEntryRule_holds, electricalIdleNoticeRule_holds, wakeBurstTimerRule_holds, wakeBurstMissingRule_holds,
    laneConfigRule_holds, laneStatusRule_holds, laneRetrainRule_holds, lanePrbsRule_holds⟩

/-! Link frames of a port -/

/-- The outcome on a frame is that of a frame taken, when the link takes it. -/
theorem taken_of {α : Type} {p : Bool × Device} {f g : Device → α} :
    p.1 = true → (match p with | (false, d) => f d | (true, d) => g d) = g p.2 := by
  obtain ⟨_ | _, d⟩ := p
  · rintro ⟨⟩
  · exact fun _ => rfl

theorem creditReceivedRule_holds (p : Port) (granted : Vector U32 4) (x : FrameEnd) :
    (creditReceivedRule p granted x).Holds (.creditReceived p granted x) := by
  intro s hc
  obtain ⟨hruns, htaken⟩ := Bool.and_eq_true_iff.mp hc
  exact (ite_of_holds hruns).trans (taken_of htaken)

theorem creditInitReceivedRule_holds (p : Port) (config : Vector U16 4) (x : FrameEnd) :
    (creditInitReceivedRule p config x).Holds (.creditInitReceived p config x) := by
  intro s hc
  obtain ⟨hruns, htaken⟩ := Bool.and_eq_true_iff.mp hc
  exact (ite_of_holds hruns).trans (taken_of htaken)

theorem creditGrantTimerRule_holds (p : Port) : (creditGrantTimerRule p).Holds (.creditGrantTimer p) := fun _ hc => if_pos hc

/-- An audit is checked at its mark, waits for the frames before it, or is answered when it comes late (R295). -/
theorem auditReceivedRule_holds (p : Port) (mark nextSeq : U16) (cSent : Vector U32 4) (x : FrameEnd) :
    (auditReceivedRule p mark nextSeq cSent x).Holds (.auditReceived p mark nextSeq cSent x) := by
  intro s hc
  obtain ⟨hruns, htaken⟩ := Bool.and_eq_true_iff.mp hc
  refine (ite_of_holds hruns).trans ((taken_of htaken).trans ?_)
  simp only [auditReceivedRule, ← next_eq, next_ite]

/-- A reply ends the audit that it answers, with the counts right or the link initialised again (R295). -/
theorem auditReplyReceivedRule_holds (p : Port) (mark : U16) (granted : Vector U32 4) (x : FrameEnd) :
    (auditReplyReceivedRule p mark granted x).Holds (.auditReplyReceived p mark granted x) := by
  intro s hc
  obtain ⟨hruns, htaken⟩ := Bool.and_eq_true_iff.mp hc
  refine (ite_of_holds hruns).trans ((taken_of htaken).trans ?_)
  simp only [auditReplyReceivedRule, ← next_eq, next_ite]

theorem auditResendRule_holds (p : Port) : (auditResendRule p).Holds (.auditResend p) := by
  intro s hc
  obtain ⟨hruns, haudit⟩ := Bool.and_eq_true_iff.mp hc
  obtain ⟨n, hn⟩ := Option.isSome_iff_exists.mp haudit
  show execAuditResend p s = _
  simp only [execAuditResend, auditResendRule, hn, hruns, Bool.not_true, Bool.false_eq_true, if_false, ← next_eq, next_ite]

/-! Acknowledgement and replay -/

theorem ackReceivedRule_holds (l : LinkId) (ackSeq : U16) (x : FrameEnd) : (ackReceivedRule l ackSeq x).Holds (.ackReceived l ackSeq x) := by
  intro s hc
  cases l with
  | port p =>
    obtain ⟨hruns, htaken⟩ := Bool.and_eq_true_iff.mp hc
    exact (ite_of_holds hruns).trans (taken_of htaken)
  | waggle =>
    obtain ⟨hup, htaken⟩ := Bool.and_eq_true_iff.mp hc
    exact (ite_of_holds hup).trans (taken_of htaken)

theorem nakReceivedRule_holds (l : LinkId) (nakSeq : U16) (x : FrameEnd) : (nakReceivedRule l nakSeq x).Holds (.nakReceived l nakSeq x) := by
  intro s hc
  cases l with
  | port p =>
    obtain ⟨hruns, htaken⟩ := Bool.and_eq_true_iff.mp hc
    exact (ite_of_holds hruns).trans (taken_of htaken)
  | waggle =>
    obtain ⟨hup, htaken⟩ := Bool.and_eq_true_iff.mp hc
    exact (ite_of_holds hup).trans (taken_of htaken)

/-- The oldest frame not acknowledged is sent again, with those after it (R298). -/
theorem replayTimeoutRule_holds (l : LinkId) : (replayTimeoutRule l).Holds (.replayTimeout l) := by
  intro s _
  show execReplayTimeout l s = _
  cases l with
  | port p => cases hreplay : s.dev.fabric.ports[p].replay <;> simp only [execReplayTimeout, replayTimeoutRule, hreplay, ← next_eq, next_ite]
  | waggle => cases hreplay : s.dev.red.replay <;> simp only [execReplayTimeout, replayTimeoutRule, hreplay, ← next_eq, next_ite]

theorem ackTimerRule_holds (l : LinkId) : (ackTimerRule l).Holds (.ackTimer l) := by
  intro s _
  cases l with
  | port p => exact next_ite.symm
  | waggle => exact next_ite.symm

theorem replayBudgetRule_holds (l : LinkId) : (replayBudgetRule l).Holds (.replayBudget l) := by
  intro s _
  cases l with
  | port p => exact next_ite.symm
  | waggle => exact next_ite.symm

/-- Settles O28: the rule of each row of credits, audits, acknowledgement and replay holds. -/
theorem fabricLinksComplete : Obligations.FabricLinksComplete :=
  ⟨creditReceivedRule_holds, creditInitReceivedRule_holds, creditGrantTimerRule_holds, auditReceivedRule_holds, auditReplyReceivedRule_holds,
    auditResendRule_holds, ackReceivedRule_holds, nakReceivedRule_holds, replayTimeoutRule_holds, ackTimerRule_holds, replayBudgetRule_holds⟩

end Sys2Proof.Machine
end

section
/-! SUPPORT. The rules of discovery, roles and the PCIe link and of the fabric commands (R286 to R292, R351, R403, Table 12.9): each command runs
its own rule once it is accepted, and each row answers the next state of its own effect. -/
namespace Sys2Proof.Machine

/-! Discovery -/

theorem helloTimerRule_holds (p : Port) : (helloTimerRule p).Holds (.helloTimer p) := fun _ _ => rfl

/-- A HELLO on a port that runs is faulty, of another neighbour than the one known, or taken (R284, R285). -/
theorem helloReceivedRule_holds (p : Port) (k : Fin 2) (m : Hello) : (helloReceivedRule p k m).Holds (.helloReceived p k m) := by
  intro s hc
  refine (ite_of_not hc).trans ?_
  cases hneighbour : (portActive p k s.dev).fabric.ports[p].nbrUid <;> simp only [helloReceivedRule, hneighbour, ← next_eq, next_ite]

theorem rootElectionTimeoutRule_holds : rootElectionTimeoutRule.Holds .rootElectionTimeout := fun _ hc => if_pos hc

theorem joinReceivedRule_holds (p : Port) (m : Join) : (joinReceivedRule p m).Holds (.joinReceived p m) := by
  intro s hc
  obtain ⟨htakes, -⟩ := Bool.and_eq_true_iff.mp hc
  exact (ite_of_not htakes).trans next_ite.symm

theorem idAssignmentRule_holds : idAssignmentRule.Holds .idAssignment := by
  intro s hc
  show execIdAssignment s = _
  simp only [execIdAssignment, idAssignmentRule, next_eq]
  exact ite_of_not hc

theorem assignReceivedRule_holds (p : Port) (uid : U64) (nodeId : U8) (discGen : U16) (routes : List U16) :
    (assignReceivedRule p uid nodeId discGen routes).Holds (.assignReceived p uid nodeId discGen routes) := by
  intro s hc
  obtain ⟨htakes, hown⟩ := Bool.and_eq_true_iff.mp hc
  exact (ite_of_not htakes).trans (if_pos hown)

theorem linkChangeReceivedRule_holds (node : U8) (port : Port) (isUp : Bool) (neighbour : U64) :
    (linkChangeReceivedRule node port isUp neighbour).Holds (.linkChangeReceived node port isUp neighbour) := fun _ hc => ite_of_not hc

/-! Another node's ASSIGN (R287) -/

section
variable {p : Port} {k : Fin 2} {f : DataFrame} {d : Device}

/-- A frame within the credits of its channel, on a port that still runs once it is counted, is routed. -/
theorem acceptFrame_of_credits
    (hcredits : d.fabric.ports[p].used[vcFin f.vc] + frameCredits f ≤ d.fabric.ports[p].config[vcFin f.vc])
    (hruns : portRuns (countedFrame p f d) p = true) : acceptFrame p k f d = routeFrame p k f (countedFrame p f d) := by
  have hfits : ¬ decide (d.fabric.ports[p].config[vcFin f.vc] < d.fabric.ports[p].used[vcFin f.vc] + frameCredits f) = true := by
    simpa using hcredits
  exact (if_neg hfits).trans (if_pos hruns)

/-- A well-formed ASSIGN that has not passed too many nodes goes to the ports on which JOINs arrived. -/
theorem routeFrame_of_assign (hpair : (!(paired d && d.red.role == .standby)) = true) (hform : frameOk f = true) (hhops : f.hops ≠ 15)
    (hone : (!f.bcast) = true) (hdest : f.dest = 0) (htype : f.msgType = 0x41) : routeFrame p k f d = passAssign p f d := by
  have hactive : (paired d && d.red.role == .standby) = false := (Bool.not_eq_true' _).mp hpair
  have htaken : ¬ (paired d && d.red.role == .standby && !(f.vc == .bulk && !f.bcast && f.dest == d.fabric.node)) = true := by
    rw [hactive, Bool.false_and]
    exact Bool.false_ne_true
  exact (if_neg htaken).trans ((ite_of_holds hform).trans ((if_neg hhops).trans ((ite_of_not hone).trans ((if_pos hdest).trans
    (if_pos htype)))))

/-- Another node's ASSIGN goes on through the port of that node's JOIN, with HOPS one higher. -/
theorem passAssign_of_assignPort {o : Port} (hother : BitVec.ofNat 64 (leAt f.payload 0 8) ≠ d.chip.uid) (hport : assignPort p f d = some o) :
    passAssign p f d = forwardOn (some p) o { f with hops := f.hops + 1 } d := by
  obtain ⟨e, hfind, rfl⟩ := Option.map_eq_some_iff.mp hport
  have huid : (BitVec.ofNat 64 (leAt f.payload 0 8) == d.chip.uid) = false := by simpa using hother
  simp only [passAssign, huid, Bool.false_eq_true, if_false, hfind, passOn]

end

/-- Under the rule's condition the frame is the one wanted on its port, within its credits, and a well-formed ASSIGN of another node whose JOIN
came by a port that is open (R287, R292). -/
theorem assignForwardedRule_holds (p : Port) (k : Fin 2) (f : DataFrame) : (assignForwardedRule p k f).Holds (.dataFrameReceived p k f) := by
  intro s hc
  simp only [assignForwardedRule, Bool.and_eq_true] at hc
  obtain ⟨⟨⟨⟨⟨⟨⟨⟨⟨⟨⟨⟨⟨⟨hon, hruns⟩, hkind⟩, hcrc⟩, hseq⟩, hcredits⟩, hstill⟩, hpair⟩, hform⟩, hhops⟩, hone⟩, hdest⟩, htype⟩, hother⟩, hport⟩ := hc
  obtain ⟨o, ho⟩ := Option.isSome_iff_exists.mp hport
  rw [dataFrameReceivedRule_holds p k f s (by simp [dataFrameReceivedRule, hon, hruns])]
  have haccept : acceptFrame p k f (portActive p k s.dev) =
      forwardOn (some p) o { f with hops := f.hops + 1 } (countedFrame p f (portActive p k s.dev)) := by
    rw [acceptFrame_of_credits (of_decide_eq_true hcredits) hstill, routeFrame_of_assign hpair hform (by simpa using hhops) hone
      (by simpa using hdest) (by simpa using htype), passAssign_of_assignPort (by simpa using hother) ho]
  simp only [dataFrameReceivedRule, assignForwardedRule, bne, hkind, hcrc, hseq, Bool.not_true, Bool.false_eq_true, if_false, haccept, ho]

/-! Roles and the PCIe link -/

theorem roleAssignmentTimerRule_holds : roleAssignmentTimerRule.Holds .roleAssignmentTimer := fun _ hc => if_pos hc

theorem roleAssignmentReceivedRule_holds (m : RoleMsg) : (roleAssignmentReceivedRule m).Holds (.roleAssignmentReceived m) :=
  fun _ hc => if_pos hc

theorem roleHolderTimeoutRule_holds (role : Fin 3) : (roleHolderTimeoutRule role).Holds (.roleHolderTimeout role) := by
  intro s _
  show execRoleHolderTimeout role s = _
  cases hholder : s.dev.fabric.holders[role] <;> simp only [execRoleHolderTimeout, roleHolderTimeoutRule, hholder, ← next_eq, next_ite]

theorem pcieLinkUpRule_holds : pcieLinkUpRule.Holds .pcieLinkUp := fun _ hc => if_pos hc

/-- Settles O30: the rule of each row of discovery, roles and the PCIe link holds, another node's ASSIGN among them. -/
theorem discoveryComplete : Obligations.DiscoveryComplete :=
  ⟨helloTimerRule_holds, helloReceivedRule_holds, rootElectionTimeoutRule_holds, joinReceivedRule_holds, idAssignmentRule_holds,
    assignReceivedRule_holds, assignForwardedRule_holds, linkChangeReceivedRule_holds, roleAssignmentTimerRule_holds,
    roleAssignmentReceivedRule_holds, roleHolderTimeoutRule_holds, pcieLinkUpRule_holds⟩

/-! Fabric commands -/

theorem fabricConfigRule_holds : fabricConfigRule.Holds .fabricConfig :=
  Rule.holds_of (fun _ _ => rfl) (fun _ _ _ hcan => ite_of_not_decide hcan)

theorem fabricStatusRule_holds : fabricStatusRule.Holds .fabricStatus := Rule.holds_of_out (fun _ _ => rfl)

theorem fabricRoutesRule_holds : fabricRoutesRule.Holds .fabricRoutes := Rule.holds_of_out (fun _ _ => rfl)

theorem fabricFixIdRule_holds : fabricFixIdRule.Holds .fabricFixId := Rule.holds_of (fun _ _ => rfl) (fun _ _ _ hcan => ite_of_not hcan)

theorem fabricDiscoverRule_holds : fabricDiscoverRule.Holds .fabricDiscover := Rule.holds_of_out (fun _ _ => rfl)

/-- The rule's effect is the command's whole meaning: an unreachable node's refusal is part of it (R305). -/
theorem fabricPingRule_holds : fabricPingRule.Holds .fabricPing := Rule.holds_of_out (fun _ _ => rfl)

/-- Settles O31: the rule of each fabric command holds. -/
theorem fabricCommandsComplete : Obligations.FabricCommandsComplete :=
  ⟨fabricConfigRule_holds, fabricStatusRule_holds, fabricRoutesRule_holds, fabricFixIdRule_holds, fabricDiscoverRule_holds,
    fabricPingRule_holds⟩

end Sys2Proof.Machine
end

section
/-! SUPPORT. The rules of the rows and commands of a redundant pair (R307 to R337, Table 13.10): each command runs its own rule once it is accepted,
and each row answers the next state of its own effect. -/
namespace Sys2Proof.Machine

/-! Heartbeats -/

theorem heartbeatTimerRule_holds : heartbeatTimerRule.Holds .heartbeatTimer := fun _ hc => if_pos hc

theorem hboEdgeTimerRule_holds : hboEdgeTimerRule.Holds .hboEdgeTimer := fun _ hc => if_pos hc

/-- A heartbeat on a waggle link that is watched is faulty, of a wrong length, of another unit than the pair's, or taken (R319, R322). -/
theorem heartbeatReceivedRule_holds (hb : Heartbeat) : (heartbeatReceivedRule hb).Holds (.heartbeatReceived hb) := by
  intro s hc
  refine (ite_of_not hc).trans ?_
  cases hpair : (rxActive .wl s.dev).red.pair <;> simp only [heartbeatReceivedRule, hpair, ← next_eq, next_ite]

theorem hbiEdgeRule_holds : hbiEdgeRule.Holds .hbiEdge := fun _ hc => if_pos hc

theorem pathSilentRule_holds (hbi : Bool) : (pathSilentRule hbi).Holds (.pathSilent hbi) := fun _ hc => (ite_of_not hc).trans next_ite.symm

/-! Promotion -/

/-- A committed record that claims PROMOTING fences the peer, and one that claims ACTIVE ends a promotion or takes the role (R311, R327). -/
theorem epochRecordCommittedRule_holds : epochRecordCommittedRule.Holds .epochRecordCommitted := by
  intro s _
  show execEpochRecordCommitted s = _
  cases hrecord : (if !flashPins s.dev || waitsErase 144 159 s.dev then none else s.dev.nv.programs.findSome? FlashWork.epochOf) <;>
    simp only [execEpochRecordCommitted, epochRecordCommittedRule, hrecord, ← next_eq, next_ite]

theorem witnessDecisionRule_holds : witnessDecisionRule.Holds .witnessDecision := by
  intro s _
  show execWitnessDecision s = _
  cases hasked : s.dev.red.asked <;> simp only [execWitnessDecision, witnessDecisionRule, hasked, ← next_eq, next_ite]

theorem witnessRequeryRule_holds : witnessRequeryRule.Holds .witnessRequery := fun _ hc => if_pos hc

/-- The self-test of a promotion ends in its pass or its failure, on a standby in a drill and on a unit that promotes (R328, R337). -/
theorem promotionSelfTestDoneRule_holds (failed : Option SelfTest) :
    (promotionSelfTestDoneRule failed).Holds (.promotionSelfTestDone failed) := by
  intro s hc
  obtain ⟨hruns, -⟩ := Bool.and_eq_true_iff.mp hc
  refine (ite_of_not hruns).trans ?_
  simp only [promotionSelfTestDoneRule, ← next_eq, next_ite]
  cases (if failed.isNone && (coreFailed s.dev || (s.dev.red.role == .standby && s.dev.therm.trip)) then some SelfTest.dac else failed) <;> rfl

theorem reconciliationDoneRule_holds : reconciliationDoneRule.Holds .reconciliationDone := by
  intro s _
  show execReconciliationDone s = _
  cases hcommitted : s.dev.red.committed <;> simp only [execReconciliationDone, reconciliationDoneRule, hcommitted, ← next_eq, next_ite]

/-- A unit whose role is open takes it from the peer heard, from the edges heard, or from its own last record (R310, R334). -/
theorem roleListenExpiryRule_holds : roleListenExpiryRule.Holds .roleListenExpiry := by
  intro s hc
  refine (ite_of_not hc).trans ?_
  cases hpeer : s.dev.red.peer <;> cases hpair : s.dev.red.pair <;> simp only [roleListenExpiryRule, hpeer, hpair, ← next_eq, next_ite]

/-- Settles O32: the rule of each row of heartbeats, the witness, the role at boot and promotion holds. -/
theorem pairWatchComplete : Obligations.PairWatchComplete :=
  ⟨heartbeatTimerRule_holds, hboEdgeTimerRule_holds, heartbeatReceivedRule_holds, hbiEdgeRule_holds, pathSilentRule_holds,
    epochRecordCommittedRule_holds, witnessDecisionRule_holds, witnessRequeryRule_holds, promotionSelfTestDoneRule_holds,
    reconciliationDoneRule_holds, roleListenExpiryRule_holds⟩

/-! Frames of the waggle link -/

theorem stateFrameReceivedRule_holds (f : WaggleFrame) (viaFabric : Bool) :
    (stateFrameReceivedRule f viaFabric).Holds (.stateFrameReceived f viaFabric) := by
  intro s _
  show execStateFrameReceived f viaFabric s = _
  simp only [execStateFrameReceived, stateFrameReceivedRule, ← next_eq, next_ite]
  cases htake : takeWaggle 4 true f s.dev with
  | mk taken d => cases taken <;> simp only [next_ite]

theorem mirrorFrameReceivedRule_holds (f : WaggleFrame) (addr : U64) (data : List U8) :
    (mirrorFrameReceivedRule f addr data).Holds (.mirrorFrameReceived f addr data) := by
  intro s hc
  obtain ⟨hup, -⟩ := Bool.and_eq_true_iff.mp hc
  refine (ite_of_holds hup).trans ?_
  simp only [mirrorFrameReceivedRule, ← next_eq]
  cases htake : takeWaggle 5 (f.payload == leBytes 8 addr.toNat ++ data && decide (data.length ≤ 2040)) f s.dev with
  | mk taken d => cases taken <;> simp only [next_ite]

theorem handoverReceivedRule_holds (f : WaggleFrame) (snap : U32) : (handoverReceivedRule f snap).Holds (.handoverReceived f snap) := by
  intro s hc
  obtain ⟨hup, -⟩ := Bool.and_eq_true_iff.mp hc
  refine (ite_of_holds hup).trans ?_
  simp only [handoverReceivedRule, ← next_eq]
  cases htake : takeWaggle 7 (f.payload.length == 4) f s.dev with
  | mk taken d => cases taken <;> simp only [next_ite]

theorem handoverReplyReceivedRule_holds (f : WaggleFrame) (accepted : Bool) (reason : U32) :
    (handoverReplyReceivedRule f accepted reason).Holds (.handoverReplyReceived f accepted reason) := by
  intro s hc
  obtain ⟨hup, -⟩ := Bool.and_eq_true_iff.mp hc
  refine (ite_of_holds hup).trans ?_
  simp only [handoverReplyReceivedRule, ← next_eq]
  cases htake : takeWaggle 8 (f.payload.length == 8) f s.dev with
  | mk taken d => cases taken <;> simp only [next_ite]

/-! Saved state and the mirror -/

theorem mirrorAckTimerRule_holds : mirrorAckTimerRule.Holds .mirrorAckTimer := by
  intro s _
  show execMirrorAckTimer s = _
  cases hseq : s.dev.red.mirrorSeq <;> simp only [execMirrorAckTimer, mirrorAckTimerRule, hseq, ← next_eq, next_ite]

/-- Under the rule's condition the frame's end is right, if it came by the waggle link, and the unit is active (R316, R318). -/
theorem needFullReceivedRule_holds (mirror : Bool) (wl : Option FrameEnd) :
    (needFullReceivedRule mirror wl).Holds (.needFullReceived mirror wl) := by
  intro s hc
  obtain ⟨hend, hactive⟩ := Bool.and_eq_true_iff.mp hc
  exact (ite_of_not hend).trans (if_pos hactive)

theorem pairControlReceivedRule_holds (m : PairControl) : (pairControlReceivedRule m).Holds (.pairControlReceived m) := by
  intro s hc
  refine (ite_of_holds hc).trans ?_
  cases m <;> rfl

theorem snapshotTimerRule_holds : snapshotTimerRule.Holds .snapshotTimer := fun _ hc => (if_pos hc).trans next_ite.symm

theorem staleTimerRule_holds : staleTimerRule.Holds .staleTimer := fun _ hc => if_pos hc

/-- Settles O33: the rule of each row of state frames, mirror frames, pair control, snapshots and drills holds. -/
theorem pairStateComplete : Obligations.PairStateComplete :=
  ⟨stateFrameReceivedRule_holds, mirrorFrameReceivedRule_holds, mirrorAckTimerRule_holds, needFullReceivedRule_holds,
    pairControlReceivedRule_holds, snapshotTimerRule_holds, staleTimerRule_holds, handoverReceivedRule_holds, handoverReplyReceivedRule_holds⟩

/-! Redundancy commands -/

theorem redStatusRule_holds : redStatusRule.Holds .redStatus := Rule.holds_of_out (fun _ _ => rfl)

theorem redAssignRule_holds : redAssignRule.Holds .redAssign := Rule.holds_of (fun _ _ => rfl) (fun _ _ _ hcan => ite_of_not hcan)

/-- Under the rule's condition no active peer is heard, the unit stands by with no promotion in progress, and no trip holds (R327, R385). -/
theorem redPromoteRule_holds : redPromoteRule.Holds .redPromote := by
  refine Rule.holds_of (fun _ _ => rfl) (fun c a d hcan => ?_)
  simp only [redPromoteRule, Bool.and_eq_true] at hcan
  obtain ⟨⟨hpeer, hstands⟩, hcool⟩ := hcan
  exact (ite_of_not hpeer).trans ((ite_of_not hstands).trans (ite_of_not hcool))

theorem redDrillRule_holds : redDrillRule.Holds .redDrill := by
  refine Rule.holds_of (fun _ _ => rfl) (fun c a d hcan => ?_)
  obtain ⟨hready, hidle⟩ := Bool.and_eq_true_iff.mp hcan
  exact (ite_of_not hready).trans (ite_of_not hidle)

theorem redReadmitRule_holds : redReadmitRule.Holds .redReadmit := by
  refine Rule.holds_of (fun _ _ => rfl) (fun c a d hcan => ?_)
  obtain ⟨hfenced, hactive⟩ := Bool.and_eq_true_iff.mp hcan
  exact (ite_of_holds hfenced).trans (ite_of_holds hactive)

theorem redReconcileRule_holds : redReconcileRule.Holds .redReconcile := Rule.holds_of_out (fun _ _ => rfl)

/-- Settles O34: the rule of each redundancy command holds. -/
theorem redCommandsComplete : Obligations.RedCommandsComplete :=
  ⟨redStatusRule_holds, redAssignRule_holds, redPromoteRule_holds, redDrillRule_holds, redReadmitRule_holds, redReconcileRule_holds⟩

end Sys2Proof.Machine
end

section
/-! SUPPORT. The rules of the system, storage, forager and Stolzar commands and of the forager's reads (Tables 14.12 and 14.14, R357): each command
runs its own rule once it is accepted, and each row answers the next state of its own effect. -/
namespace Sys2Proof.Machine

/-! System commands -/

theorem sysNopRule_holds : sysNopRule.Holds .sysNop := Rule.holds_of_out (fun _ _ => rfl)

theorem sysIdentifyRule_holds : sysIdentifyRule.Holds .sysIdentify := Rule.holds_of_out (fun _ _ => rfl)

/-- Under the rule's condition the fields keep Table 14.1 and no other command is in flight (R338). -/
theorem sysRingRule_holds : sysRingRule.Holds .sysRing := by
  refine Rule.holds_of (fun _ _ => rfl) (fun c a d hcan => ?_)
  obtain ⟨hfields, hidle⟩ := Bool.and_eq_true_iff.mp hcan
  exact (ite_of_holds hfields).trans (ite_of_not hidle)

theorem sysConfigRule_holds : sysConfigRule.Holds .sysConfig := Rule.holds_of (fun _ _ => rfl) (fun _ _ _ hcan => ite_of_not hcan)

/-- Under the rule's condition the command asked for is not in flight; its result is remembered or unknown (R346). -/
theorem sysResultRule_holds : sysResultRule.Holds .sysResult := by
  refine Rule.holds_of (fun _ _ => rfl) (fun c a d hcan => ?_)
  obtain ⟨hdone, -⟩ := Bool.and_eq_true_iff.mp hcan
  exact ite_of_not_decide hdone

/-- A change of an element that is there is the element changed. -/
theorem upd_map_of_some {α : Type} {n : Nat} {v : Vector (Option α) n} {i : Fin n} {f : α → α} {x : α} (h : v[i] = some x) :
    upd v i (Option.map f) = upd v i (fun _ => some (f x)) :=
  congrArg (fun y => v.set i.val y i.isLt) (congrArg (Option.map f) h)

theorem dramWrite_acct (source a : Nat) (bs : List U8) (d : Device) : (dramWrite source a bs d).acct = d.acct :=
  (dramWrite_keeps (ch := [.mbx, .vlog, .dram, .lanes, .fabric, .red]) source a bs d (by decide) (Keeps.refl _ _)).same .acct (by decide)

/-- A set that is there is marked as read (R23). -/
theorem markRead_of_some {k : Fin 3} {old : Bool} {d : Device} {l : LatchedSet}
    (hset : (if old then d.acct.older[k] else d.acct.newest[k]) = some l) :
    markRead k old d = { d with acct :=
      if old then { d.acct with older := upd d.acct.older k (fun _ => some { l with read := true }) }
      else { d.acct with newest := upd d.acct.newest k (fun _ => some { l with read := true }) } } := by
  cases old with
  | true => exact congrArg (fun v => { d with acct := { d.acct with older := v } }) (upd_map_of_some hset)
  | false => exact congrArg (fun v => { d with acct := { d.acct with newest := v } }) (upd_map_of_some hset)

/-- Under the rule's condition the set is there; copying it leaves the sets, and it is marked as read (R24). -/
theorem sysLatchedReadRule_holds : sysLatchedReadRule.Holds .sysLatchedRead := by
  refine Rule.holds_of (fun _ _ => rfl) (fun c a d hcan => ?_)
  obtain ⟨l, hset⟩ := Option.isSome_iff_exists.mp hcan
  have hmark : markRead (finOf 3 (argN a 0)) (argB a 1) (dramWrite 8 (argN a 2) (latchedBytes (finOf 3 (argN a 0)).val l) d) = _ :=
    markRead_of_some (by rw [dramWrite_acct]; exact hset)
  simp only [sysLatchedReadRule, hset, hmark, dramWrite_acct]

theorem sysViolationReadRule_holds : sysViolationReadRule.Holds .sysViolationRead := Rule.holds_of_out (fun _ _ => rfl)

theorem sysViolationClearRule_holds : sysViolationClearRule.Holds .sysViolationClear :=
  Rule.holds_of (fun _ _ => rfl) (fun _ _ _ hcan => ite_of_not_decide hcan)

theorem sysPartnerReleaseRule_holds : sysPartnerReleaseRule.Holds .sysPartnerRelease := Rule.holds_of_out (fun _ _ => rfl)

theorem sysRolesRule_holds : sysRolesRule.Holds .sysRoles := Rule.holds_of (fun _ _ => rfl) (fun _ _ _ hcan => ite_of_not hcan)

theorem sysPresenceRule_holds : sysPresenceRule.Holds .sysPresence := Rule.holds_of_out (fun _ _ => rfl)

theorem sysResealRule_holds : sysResealRule.Holds .sysReseal := Rule.holds_of (fun _ _ => rfl) (fun _ _ _ hcan => ite_of_not hcan)

/-- Settles O1: the rule of each system command of Table 14.12 holds. -/
theorem systemCommandsComplete : Obligations.SystemCommandsComplete :=
  ⟨sysNopRule_holds, sysIdentifyRule_holds, sysRingRule_holds, sysConfigRule_holds, sysResultRule_holds, sysLatchedReadRule_holds,
    sysViolationReadRule_holds, sysViolationClearRule_holds, sysPartnerReleaseRule_holds, sysRolesRule_holds, sysPresenceRule_holds,
    sysResealRule_holds⟩

/-! Storage commands -/

/-- The rule's effect is the command's whole meaning: poison, held pads and a lower SVN are answered in it (R393). -/
theorem sysFwUpdateRule_holds : sysFwUpdateRule.Holds .sysFwUpdate := Rule.holds_of_out (fun _ _ => rfl)

theorem sysNvEraseRule_holds : sysNvEraseRule.Holds .sysNvErase := by
  refine Rule.holds_of (fun _ _ => rfl) (fun c a d hcan => ?_)
  obtain ⟨hidle, hpads⟩ := Bool.and_eq_true_iff.mp hcan
  exact (ite_of_not hidle).trans (ite_of_not hpads)

theorem sysPeekRule_holds : sysPeekRule.Holds .sysPeek := Rule.holds_of_out (fun _ _ => rfl)

theorem sysNvStatusRule_holds : sysNvStatusRule.Holds .sysNvStatus := Rule.holds_of (fun _ _ => rfl) (fun _ _ _ hcan => ite_of_holds hcan)

theorem sysNvSetRule_holds : sysNvSetRule.Holds .sysNvSet := by
  refine Rule.holds_of (fun _ _ => rfl) (fun c a d hcan => ?_)
  obtain ⟨hrange, hpads⟩ := Bool.and_eq_true_iff.mp hcan
  exact (ite_of_not_decide hrange).trans (ite_of_not hpads)

/-- Under the rule's condition every descriptor was read and is right, and none with a target node reads the device (R357). -/
theorem foragerCopyRule_holds (descs : List U8) : (foragerCopyRule descs).Holds (.foragerCopy · descs) := by
  refine Rule.holds_of (fun _ _ => rfl) (fun c a d hcan => ?_)
  simp only [foragerCopyRule, Bool.and_eq_true] at hcan
  obtain ⟨⟨⟨⟨hread, hlengths⟩, hreserved⟩, hnode⟩, -⟩ := hcan
  exact (ite_of_not_decide hread).trans ((ite_of_not hlengths).trans ((ite_of_not hreserved).trans (ite_of_not_decide hnode)))

theorem foragerStatusRule_holds : foragerStatusRule.Holds .foragerStatus := Rule.holds_of_out (fun _ _ => rfl)

theorem szStatusRule_holds : szStatusRule.Holds .szStatus := Rule.holds_of_out (fun _ _ => rfl)

theorem szMapRule_holds : szMapRule.Holds .szMap := Rule.holds_of (fun _ _ => rfl) (fun _ _ _ hcan => ite_of_not hcan)

/-- Settles O2: the rule of each firmware, flash, DRAM, forager and Stolzar command holds. -/
theorem storageCommandsComplete : Obligations.StorageCommandsComplete :=
  ⟨sysFwUpdateRule_holds, sysNvEraseRule_holds, sysPeekRule_holds, sysNvStatusRule_holds, sysNvSetRule_holds, foragerCopyRule_holds,
    foragerStatusRule_holds, szStatusRule_holds, szMapRule_holds⟩

end Sys2Proof.Machine
end

section
/-! SUPPORT. The rules of the host's accesses, of the management transport, of relaying and completion, and of presence and the seal (R346 to R358,
R403 to R412): each row answers the next state of its own effect. -/
namespace Sys2Proof.Machine

/-! Host accesses -/

/-- A host access that reaches the device has its effect. -/
theorem hostDoes_of_reach {f : Device → Device} {s : State} (hreach : hostReach s.dev = true) : hostDoes f s = next s (f s.dev) :=
  if_pos hreach

theorem irqHoldoffExpiryRule_holds (evt : Bool) : (irqHoldoffExpiryRule evt).Holds (.irqHoldoffExpiry evt) := by
  intro s hc
  obtain ⟨hheld, hset⟩ := Bool.and_eq_true_iff.mp hc
  exact (if_pos hheld).trans (if_pos hset)

/-- Under the rule's condition DRAM serves the host: a write is stored, and a read waits or completes (R254, R403). -/
theorem bar2AccessRule_holds (offset : Nat) (write : Option (List U8)) (len : Nat) :
    (bar2AccessRule offset write len).Holds (.bar2Access offset write len) := by
  intro s hc
  refine (if_pos hc).trans ?_
  cases write with
  | none => exact next_ite.symm
  | some b => rfl

theorem sz6WindowAccessRule_holds (offset : U16) (write : Option U32) (supported : Bool) :
    (sz6WindowAccessRule offset write supported).Holds (.sz6WindowAccess offset write supported) := by
  intro s hc
  refine (if_pos hc).trans ?_
  cases write with
  | none => rfl
  | some v => exact next_ite.symm

/-- The read's buffer is freed, and its command goes on when it is still known (R357). -/
theorem foragerReadDoneRule_holds (buffer : Fin 64) (data : Option (List U8)) :
    (foragerReadDoneRule buffer data).Holds (.foragerReadDone buffer data) := by
  intro s _
  show execForagerReadDone buffer data s = _
  cases hbuffer : s.dev.mbx.buffers.find? (fun r => r.buffer == buffer) with
  | none => simp only [execForagerReadDone, foragerReadDoneRule, hbuffer, next_eq]
  | some r =>
    simp only [execForagerReadDone, foragerReadDoneRule, hbuffer, next_eq]
    cases (modMbx s.dev (fun m => { m with buffers := m.buffers.erase r })).mbx.fjobs.find? (fun j => readOf j r) <;> rfl

/-- Settles O3: the rule of each host access, of the interrupt holdoff and of the forager read holds. -/
theorem hostAccessesComplete : Obligations.HostAccessesComplete :=
  ⟨fun _ _ => hostDoes_of_reach, fun _ _ => hostDoes_of_reach, fun _ _ => hostDoes_of_reach, fun _ _ => hostDoes_of_reach,
    irqHoldoffExpiryRule_holds, fun _ _ => hostDoes_of_reach, fun _ _ => hostDoes_of_reach, fun _ _ => hostDoes_of_reach,
    fun _ _ => hostDoes_of_reach, fun _ _ _ => hostDoes_of_reach, bar2AccessRule_holds, sz6WindowAccessRule_holds, foragerReadDoneRule_holds⟩

/-! The management transport -/

/-- A Block Write is refused for its PEC, refused while a command is open, or delivered (R352). -/
theorem mgmtBlockWriteRule_holds (bytes : List U8) (pecOk : Bool) : (mgmtBlockWriteRule bytes pecOk).Holds (.mgmtBlockWrite bytes pecOk) := by
  intro s hc
  simp only [mgmtBlockWriteRule, Bool.and_eq_true] at hc
  obtain ⟨⟨⟨hready, -⟩, -⟩, -⟩ := hc
  refine (if_pos (by simpa using hready)).trans ?_
  simp only [mgmtBlockWriteRule, ← next_eq, next_ite]

theorem mgmtBlockReadRule_holds : mgmtBlockReadRule.Holds .mgmtBlockRead := fun _ hc => if_pos hc

theorem mgmtAddressMatchRule_holds (addr : BitVec 7) : (mgmtAddressMatchRule addr).Holds (.mgmtAddressMatch addr) := fun _ hc => if_pos hc

/-! Completion and relaying -/

theorem commandDoneRule_holds (seq : U32) : (commandDoneRule seq).Holds (.commandDone seq) := by
  intro s _
  show execCommandDone seq s = _
  cases hentry : s.dev.mbx.inFlight.find? (fun e => e.async && e.seq == seq && e.final.isSome) with
  | none => simp only [execCommandDone, commandDoneRule, hentry, next_eq]
  | some e => cases hfinal : e.final <;> simp only [execCommandDone, commandDoneRule, hentry, hfinal, next_eq]

/-- A relayed command is delivered, a response answers the entry that waits for it or the fence of a copy, or comes late, and an event is written
(R349, R350, R357). -/
theorem mervanRelayReceivedRule_holds (src : U8) (body : RelayBody) :
    (mervanRelayReceivedRule src body).Holds (.mervanRelayReceived src body) := by
  intro s hc
  obtain ⟨htakes, -⟩ := Bool.and_eq_true_iff.mp hc
  refine (ite_of_not htakes).trans ?_
  cases body with
  | command uid => rfl
  | event => exact next_ite.symm
  | response tag seq status orig reason detail results =>
    simp only [mervanRelayReceivedRule, next_eq]
    cases s.dev.mbx.inFlight.find? (fun e => e.work.relayNode == some src && e.tag == tag && e.seq == seq) with
    | some e => rfl
    | none =>
      cases s.dev.mbx.inFlight.find? (fun e => e.work.isFenceAt src && e.seq == seq) with
      | some e => exact next_ite.symm
      | none => rfl

theorem relayTimeoutRule_holds (tag : BitVec 6) : (relayTimeoutRule tag).Holds (.relayTimeout tag) := by
  intro s _
  show execRelayTimeout tag s = _
  cases hentry : s.dev.mbx.inFlight.find? (fun e => e.tag == tag && e.work.isRemote) <;>
    simp only [execRelayTimeout, relayTimeoutRule, hentry, next_eq] <;> rfl

/-- Settles O4: the rule of each row of the management transport, of relaying and of completion holds. -/
theorem transportsComplete : Obligations.TransportsComplete :=
  ⟨mgmtBlockWriteRule_holds, mgmtBlockReadRule_holds, mgmtAddressMatchRule_holds, commandDoneRule_holds, mervanRelayReceivedRule_holds,
    relayTimeoutRule_holds⟩

/-! Presence and the seal -/

theorem presenceHoldRule_holds : presenceHoldRule.Holds .presenceHold := fun _ hc => (if_pos hc).trans next_ite.symm

theorem presenceWindowExpiryRule_holds : presenceWindowExpiryRule.Holds .presenceWindowExpiry := fun _ hc => if_pos hc

theorem sealTestRule_holds (pass : Bool) : (sealTestRule pass).Holds (.sealTest pass) := fun _ hc => if_pos hc

theorem sealLoopOpenRule_holds : sealLoopOpenRule.Holds .sealLoopOpen := fun _ hc => if_pos hc

theorem sealLoopClosedRule_holds : sealLoopClosedRule.Holds .sealLoopClosed := fun _ hc => if_pos hc

/-- Settles O5: the rule of each row of presence and of the propolis seal holds. -/
theorem presenceAndSealComplete : Obligations.PresenceAndSealComplete :=
  ⟨presenceHoldRule_holds, presenceWindowExpiryRule_holds, sealTestRule_holds, sealLoopOpenRule_holds, sealLoopClosedRule_holds⟩

end Sys2Proof.Machine
end

section
/-! SUPPORT. The rules of reset, supplies and clocks, of the power rows and commands and of the thermal guard (R361 to R387, R416 to R419): each
command runs its own rule once it is accepted, and each row answers the next state of its own effect. -/
namespace Sys2Proof.Machine

/-! Reset, supplies and clocks -/

theorem resetNRiseRule_holds (straps : Straps) (dies : List DieInfo) : (resetNRiseRule straps dies).Holds (.resetNRise straps dies) := by
  intro s hc
  obtain ⟨hlow, halive⟩ := Bool.and_eq_true_iff.mp hc
  exact (ite_of_not hlow).trans (if_pos halive)

theorem resetNFallRule_holds : resetNFallRule.Holds .resetNFall := fun _ hc => if_pos hc

theorem pwrGoodLowRule_holds : pwrGoodLowRule.Holds .pwrGoodLow := fun _ hc => if_pos hc

theorem pwrGoodHighRule_holds : pwrGoodHighRule.Holds .pwrGoodHigh := fun _ hc => ite_of_not hc

/-- VIO_AON takes the device's power with it; any other bank is noted, with an event while the device runs (R417, R419). -/
theorem vioLowRule_holds (bank : Fin 6) : (vioLowRule bank).Holds (.vioLow bank) := by
  intro s hc
  refine (ite_of_not hc).trans ?_
  simp only [vioLowRule, ← next_eq, next_ite]

theorem vioRestoredRule_holds (bank : Fin 6) : (vioRestoredRule bank).Holds (.vioRestored bank) := by
  intro s hc
  refine (ite_of_holds hc).trans ?_
  simp only [vioRestoredRule, ← next_eq, next_ite]

theorem clockFaultRule_holds (pll : Bool) : (clockFaultRule pll).Holds (.clockFault pll) := fun _ hc => if_pos hc

theorem clockFaultResetRule_holds : clockFaultResetRule.Holds .clockFaultReset := by
  intro s hc
  obtain ⟨hfault, halive⟩ := Bool.and_eq_true_iff.mp hc
  exact (if_pos hfault).trans (if_pos halive)

theorem xoRestoredRule_holds : xoRestoredRule.Holds .xoRestored := by
  intro s hc
  obtain ⟨habsent, hstarts⟩ := Bool.and_eq_true_iff.mp hc
  obtain ⟨hclear, halive⟩ := Bool.and_eq_true_iff.mp hstarts
  exact (ite_of_not habsent).trans ((ite_of_not hclear).trans (if_pos halive))

/-- Settles O6: the rule of each reset, supply and clock row holds. -/
theorem resetAndSupplyComplete : Obligations.ResetAndSupplyComplete :=
  ⟨resetNRiseRule_holds, resetNFallRule_holds, pwrGoodLowRule_holds, pwrGoodHighRule_holds, vioLowRule_holds, vioRestoredRule_holds,
    clockFaultRule_holds, clockFaultResetRule_holds, xoRestoredRule_holds⟩

/-! Power -/

/-- The domain that drains is quieted, and the next one or the state's end follows (R367, R368). -/
theorem domainDrainedRule_holds : domainDrainedRule.Holds .domainDrained := by
  intro s _
  show execDomainDrained s = _
  cases htodo : s.dev.pwr.todo <;> simp only [execDomainDrained, domainDrainedRule, htodo, ← next_eq, next_ite]

theorem drainTimeoutRule_holds : drainTimeoutRule.Holds .drainTimeout := fun _ hc => if_pos hc

/-- Under the rule's condition no change of state is in progress; the refusals of R366 stand in the rule's own effect. -/
theorem pwrStateRule_holds : pwrStateRule.Holds .pwrState := by
  refine Rule.holds_of (fun _ _ => rfl) (fun c a d hcan => ?_)
  obtain ⟨hidle, -⟩ := Bool.and_eq_true_iff.mp hcan
  exact ite_of_not hidle

theorem pwrStatusRule_holds : pwrStatusRule.Holds .pwrStatus := Rule.holds_of_out (fun _ _ => rfl)

theorem pwrIdleRule_holds : pwrIdleRule.Holds .pwrIdle := Rule.holds_of_out (fun _ _ => rfl)

theorem idleEntryRule_holds : idleEntryRule.Holds .idleEntry := fun _ hc => if_pos hc

theorem idleExitRule_holds : idleExitRule.Holds .idleExit := fun _ _ => rfl

theorem wakeNLowRule_holds : wakeNLowRule.Holds .wakeNLow := fun _ hc => (ite_of_holds hc).trans next_ite.symm

/-- Settles O8: the rule of each power row and command holds. -/
theorem powerComplete : Obligations.PowerComplete :=
  ⟨domainDrainedRule_holds, drainTimeoutRule_holds, pwrStateRule_holds, pwrStatusRule_holds, pwrIdleRule_holds, idleEntryRule_holds,
    idleExitRule_holds, wakeNLowRule_holds⟩

/-! The thermal guard -/

theorem sensorConversionRule_holds (readings : Vector Int 12) : (sensorConversionRule readings).Holds (.sensorConversion readings) :=
  fun _ hc => if_pos hc

theorem sensorFailedRule_holds (k : Sensor) : (sensorFailedRule k).Holds (.sensorFailed k) := fun _ hc => if_pos hc

theorem sensorDisagreeTimeoutRule_holds (k : Sensor) : (sensorDisagreeTimeoutRule k).Holds (.sensorDisagreeTimeout k) := fun _ hc => if_pos hc

theorem throttleRiseRule_holds : throttleRiseRule.Holds .throttleRise := fun _ hc => if_pos hc

theorem throttleFallRule_holds : throttleFallRule.Holds .throttleFall := fun _ hc => if_pos hc

theorem thermalTripRule_holds : thermalTripRule.Holds .thermalTrip := fun _ hc => if_pos hc

theorem thermalRestartRule_holds : thermalRestartRule.Holds .thermalRestart := by
  intro s hc
  show execThermalRestart s = _
  simp only [execThermalRestart, thermalRestartRule, next_eq]
  exact if_pos hc

/-- The rule's effect is the command's whole meaning: the refusal of thresholds out of order is part of it (Table 16.5). -/
theorem thmConfigRule_holds : thmConfigRule.Holds .thmConfig := Rule.holds_of_out (fun _ _ => rfl)

theorem thmStatusRule_holds : thmStatusRule.Holds .thmStatus := Rule.holds_of_out (fun _ _ => rfl)

/-- Settles O35: the rule of each thermal row and command holds. -/
theorem thermalComplete : Obligations.ThermalComplete :=
  ⟨sensorConversionRule_holds, sensorFailedRule_holds, sensorDisagreeTimeoutRule_holds, throttleRiseRule_holds, throttleFallRule_holds,
    thermalTripRule_holds, thermalRestartRule_holds, thmConfigRule_holds, thmStatusRule_holds⟩

end Sys2Proof.Machine
end

section
/-! SUPPORT. The checks that a Mervan command meets before its own rule (R344 to R346, R355, R430, Tables 14.4 and 14.9). -/
namespace Sys2Proof.Machine

/-- Settles O42: every command runs by `mervan`, which checks the CRC at entry (`Rule.checksCrc_of`). -/
theorem wrongCrcHasNoEffect : Obligations.WrongCrcHasNoEffect := by
  unfold Obligations.WrongCrcHasNoEffect
  and_intros
  all_goals
    intros
    exact Rule.checksCrc_of (fun _ _ => rfl)

/-- Settles O43: every command runs by `mervan`, which answers a repeat at entry (`Rule.answersRepeats_of`). -/
theorem repeatIsAnsweredFromMemory : Obligations.RepeatIsAnsweredFromMemory := by
  unfold Obligations.RepeatIsAnsweredFromMemory
  and_intros
  all_goals
    intros
    exact Rule.answersRepeats_of (fun _ _ => rfl)

end Sys2Proof.Machine
end

section
/-! SUPPORT. What the checks of job.stage and job.append answer to a structure outside the job store (R41, Tables 2.3 to 2.5, 2.7), and the
gates and ranges of R355 and R430. -/
namespace Sys2Proof.Machine

/-! A check that ends early -/

/-- How a structure outside the job store, or misaligned there, ends a check. -/
def outOfStore : StageFail := .bad .badArgument .address 0

section
variable {α β : Type} {e : StageFail} {d : Device} {a n align : Nat}

theorem bind_of_error {x : Except StageFail α} {f : α → Except StageFail β} (h : x = .error e) : (x >>= f) = .error e := by
  subst h
  rfl

theorem bind_of_ok {x : Except StageFail α} {f : α → Except StageFail β} {y : α} {z : Except StageFail β} (h : x = .ok y) (hf : f y = z) :
    (x >>= f) = z := by
  subst h
  exact hf

theorem need_of_bad (h : (inStore d a n && a % align == 0) = false) : need d a n align = .error outOfStore :=
  if_neg (by simp [h])

/-- A structure that is needed ends the check in the same way as what follows it, or is there. -/
theorem bind_need {f : Unit → Except StageFail β} (h : f () = .error outOfStore) : (need d a n align >>= f) = .error outOfStore := by
  cases hin : inStore d a n && a % align == 0 with
  | true => exact bind_of_ok (if_pos hin) h
  | false => exact bind_of_error (need_of_bad hin)

/-- Values read in order end at the first that fails. -/
theorem collect_append_of_error {f : α → Except StageFail β} {l r : List α} {x : α} (hl : ∀ y ∈ l, ∃ z, f y = .ok z) (hx : f x = .error e) :
    collect f (l ++ x :: r) = .error e := by
  induction l with
  | nil => simp only [List.nil_append, collect, hx]
  | cons y l ih =>
    obtain ⟨z, hz⟩ := hl y (List.mem_cons_self ..)
    simp only [List.cons_append, collect, hz, ih fun w hw => hl w (List.mem_cons_of_mem _ hw)]

theorem collect_range_of_error {f : Nat → Except StageFail β} {k m : Nat} (hk : k < m) (hbefore : ∀ i, i < k → ∃ z, f i = .ok z)
    (hx : f k = .error e) : collect f (List.range m) = .error e := by
  obtain ⟨r, rfl⟩ := Nat.exists_eq_add_of_lt hk
  rw [Nat.add_assoc, List.range_add, List.range_succ_eq_map, List.map_cons]
  exact collect_append_of_error (fun i hi => hbefore i (List.mem_range.mp hi)) hx

end

/-! Structures of a job -/

section
variable {d : Device} {j : JobDesc}

theorem readIndex_of_outside {p a : Nat} (h : inStore d a 8 = false) : readIndex d p a = .error outOfStore :=
  bind_of_error (need_of_bad (by rw [h, Bool.false_and]))

/-- A repeat whose table set, or the head of one of whose block indexes, lies outside the job store fails its ADDRESS row. -/
theorem readRepeatInfo_of_out {k : Nat} {b : List U8} (hread : getData d (j.repeatList + 96 * k) 96 = .ok b)
    (hout : ((readRepeat b).tableSet ≠ 0 ∧ (inStore d (readRepeat b).tableSet 128 && (readRepeat b).tableSet % 64 == 0) = false) ∨
      ((readRepeat b).blank = false ∧ ∃ p, p < j.planes.length ∧
        (∀ q, q < p → ∃ x, readIndex d q ((readRepeat b).planeIndex.getD q 0) = .ok x) ∧
        inStore d ((readRepeat b).planeIndex.getD p 0) 8 = false)) : readRepeatInfo d j k = .error outOfStore := by
  refine bind_of_ok hread ?_
  rcases hout with ⟨hset, hbad⟩ | ⟨hblank, p, hp, hbefore, hbad⟩
  · rw [if_pos hset]
    exact bind_of_error (need_of_bad hbad)
  · have hindex : collect (fun p => readIndex d p ((readRepeat b).planeIndex.getD p 0)) (List.range j.planes.length) = .error outOfStore :=
      collect_range_of_error hp hbefore (readIndex_of_outside hbad)
    by_cases hset : (readRepeat b).tableSet ≠ 0
    · rw [if_pos hset]
      refine bind_need (bind_of_error ?_)
      simpa [hblank] using hindex
    · rw [if_neg hset]
      refine bind_of_error ?_
      simpa [hblank] using hindex

/-- The checks of a job end with ADDRESS at a structure outside the job store that what comes before it leads to. -/
theorem checkJob_of_structureOut {first isRunning : Bool} {lo hi : Nat} (hout : StructureOut d j first lo hi) :
    checkJob d j first isRunning lo hi = .error outOfStore := by
  rcases hout with hlist | ⟨rfl, hset⟩ | ⟨k, b, hlo, hhi, hbefore, hread, hrepeat⟩
  · exact bind_of_error (need_of_bad hlist)
  · exact bind_need (bind_of_error (need_of_bad hset))
  · have hinfo : readRepeatInfo d j (lo + (k - lo)) = .error outOfStore := by
      rw [Nat.add_sub_of_le hlo]
      exact readRepeatInfo_of_out hread hrepeat
    have hrepeats : collect (fun i => readRepeatInfo d j (lo + i)) (List.range (hi - lo)) = .error outOfStore :=
      collect_range_of_error (by omega) (fun i hi => hbefore _ (by omega) (by omega)) hinfo
    refine bind_need ?_
    cases first with
    | true => exact bind_need (bind_of_error hrepeats)
    | false => exact bind_of_error hrepeats

end

/-! Structures that turn a command away -/

/-- An accepted command answers what its own meaning gives for its arguments and the device. -/
theorem Rule.answers_of {r : Rule} {i : Cmd → Instr} {body : Cmd → List Int → Device → Done} {s : State} {c : Cmd} {d : Device}
    {a : List Int} {x : Done} (h : accepted r.sig c s.dev = some (d, a)) (he : exec (i c) s = mervan r.sig body c s)
    (hx : body c a d = x) : exec (i c) s = .next { s with dev := settle r.sig c x } := by
  rw [he, mervan_accepted body h, hx]
  rfl

theorem structureRangesTurnAway : StructureRangesTurnAway := by
  intro s c d a
  refine ⟨fun h hrange => ?_, fun h hpoison hfits hheader hrange => ?_, fun b h hlpi haligned hread hout => ?_,
    fun j r h hheld hnew hout => ?_⟩
  · exact Rule.answers_of (i := .sysNvStatus) h rfl (if_pos (by rw [hrange]; rfl))
  · refine Rule.answers_of (i := .czDecompress) h rfl ?_
    exact (if_neg (by rw [hpoison]; exact Bool.false_ne_true)).trans ((if_neg (Nat.not_lt.mpr hfits)).trans
      (if_pos (by rw [hheader, hrange]; rfl)))
  · refine Rule.answers_of (i := .jobStage) h rfl ?_
    refine (if_neg (by rw [hlpi]; exact Bool.false_ne_true)).trans ((if_neg (not_not.mpr haligned)).trans ?_)
    simp only [hread, checkJob_of_structureOut hout]
    rfl
  · refine Rule.answers_of (i := .jobAppend) h rfl ?_
    simp only [hheld]
    refine (if_neg (Nat.not_le.mpr hnew)).trans ?_
    simp only [checkJob_of_structureOut hout]
    rfl

/-- Settles O44: the gates and the ranges that arguments give are checked before any command's own rule; the structures that the checks of a
job, a block or the journal's records reach are checked in it. -/
theorem gatesAndRangesTurnAway : Obligations.GatesAndRangesTurnAway :=
  ⟨Rule.needsSealAndPresence_of rfl (fun _ _ => rfl), Rule.needsSealAndPresence_of rfl (fun _ _ => rfl),
    Rule.needsSealAndPresence_of rfl (fun _ _ => rfl), Rule.needsSealAndPresence_of rfl (fun _ _ => rfl),
    Rule.needsSealAndPresence_of rfl (fun _ _ => rfl), Rule.needsSealAndPresence_of rfl (fun _ _ => rfl),
    Rule.needsSealAndPresence_of rfl (fun _ _ => rfl), Rule.needsSealAndPresence_of rfl (fun _ _ => rfl),
    fun _ => Rule.checksRangesAt_of (fun _ => rfl), fun _ => Rule.checksRangesAt_of (fun _ => rfl),
    fun _ => Rule.checksRangesAt_of (fun _ => rfl), fun _ => Rule.checksRangesAt_of (fun _ => rfl),
    fun _ => Rule.checksRangesAt_of (fun _ => rfl), fun _ _ => Rule.checksRangesAt_of (fun _ => rfl),
    fun _ => Rule.checksRangesAt_of (fun _ => rfl), fun _ => Rule.checksRangesAt_of (fun _ => rfl),
    fun _ => Rule.checksRangesAt_of (fun _ => rfl), fun _ => Rule.checksRangesAt_of (fun _ => rfl),
    fun _ => Rule.checksRangesAt_of (fun _ => rfl), fun _ => Rule.checksRangesAt_of (fun _ => rfl),
    fun _ => Rule.checksRangesAt_of (fun _ => rfl), fun _ => Rule.checksRangesAt_of (fun _ => rfl),
    fun _ => Rule.checksRangesAt_of (fun _ => rfl), fun _ => Rule.checksRangesAt_of (fun _ => rfl),
    fun _ => Rule.checksRangesAt_of (fun _ => rfl), fun _ => Rule.checksRangesAt_of (fun _ => rfl),
    fun _ => Rule.checksRangesAt_of (fun _ => rfl), fun _ => Rule.checksRangesAt_of (fun _ => rfl),
    fun _ => Rule.checksRangesAt_of (fun _ => rfl), fun _ => Rule.checksRangesAt_of (fun _ => rfl),
    fun _ => Rule.checksRangesAt_of (fun _ => rfl), fun _ => Rule.checksRangesAt_of (fun _ => rfl), structureRangesTurnAway⟩

end Sys2Proof.Machine
end

section
/-! SUPPORT. The rows of chapters 13 and 16: the fields of the device that each may change. -/
namespace Sys2Proof.Machine

-- One theorem after another, as in the section of the frames of chapters 1 to 4.
set_option Elab.async false

/-- What keeps all but fewer fields keeps all but more. -/
theorem keeps_of_within {c ch : List DevField} {a d : Device} (h : Keeps c a d) (hc : within c ch = true) : Keeps ch a d :=
  Keeps.step h hc keeps_rfl

/-- A path that falls silent is noted with the shared fault bits. -/
theorem silentPath_keeps {ch : List DevField} {d : Device} {f : Red → Red} (hc : within [.mbx, .red] ch = true) :
    Keeps ch d (noteRed d (modRed d f)) :=
  keeps_of_within (noteRed_keeps (ch := [.mbx, .red]) _ _ (by decide) (modRed_keeps _ _ (by decide) keeps_rfl)) hc

section
variable {s : State}

/-! Heartbeats and the witness -/

theorem execHeartbeatTimer_keeps : OutKeeps [.lanes, .red] s (execHeartbeatTimer s) :=
  outKeeps_ite (outKeeps_next (wagSend_keeps _ _ _ (by decide) keeps_rfl)) (outKeeps_next keeps_rfl)

theorem execHboEdgeTimer_keeps : OutKeeps [.chip] s (execHboEdgeTimer s) :=
  outKeeps_ite (outKeeps_next (keeps_set_chip (by decide) keeps_rfl)) (outKeeps_next keeps_rfl)

theorem execHeartbeatReceived_keeps {hb : Heartbeat} :
    OutKeeps [.chip, .mbx, .vlog, .jobs, .banks, .engines, .sheet, .fire, .links, .drive, .loop, .cz, .dram, .lanes,
      .fabric, .red, .pwr, .nv] s (execHeartbeatReceived hb s) := by
  unfold execHeartbeatReceived
  extract_lets d
  have hl : Keeps [.lanes] s.dev d := rxActive_keeps _ _ (by decide) keeps_rfl
  have hd := keeps_of_within hl (ch := [.chip, .mbx, .vlog, .jobs, .banks, .engines, .sheet, .fire, .links, .drive, .loop, .cz, .dram, .lanes,
    .fabric, .red, .pwr, .nv]) (by decide)
  exact outKeeps_ite (outKeeps_next hd) (outKeeps_ite (outKeeps_next (violation_keeps _ _ _ _ _ (by decide) hd)) (outKeeps_ite
    (outKeeps_next (violation_keeps _ _ _ _ _ (by decide) hd)) (outKeeps_ite (outKeeps_next (violation_keeps _ _ _ _ _ (by decide) hd))
    (outKeeps_next (noteFault_keeps _ _ (by decide) (takeBeat_keeps _ _ (by decide) hd))))))

theorem execHbiEdge_keeps : OutKeeps [.mbx, .vlog, .dram, .lanes, .fabric, .red] s (execHbiEdge s) :=
  outKeeps_ite (outKeeps_next (pathLives_keeps _ _ (by decide) keeps_rfl)) (outKeeps_next keeps_rfl)

theorem execPathSilent_keeps {hbi : Bool} : OutKeeps [.mbx, .vlog, .links, .dram, .lanes, .fabric, .red] s (execPathSilent hbi s) :=
  outKeeps_ite (outKeeps_next keeps_rfl) (outKeeps_ite
    (outKeeps_next (refreshPath_keeps _ (by decide) (raise_keeps _ _ _ (by decide) (modRed_keeps _ _ (by decide) (silentPath_keeps (by decide))))))
    (outKeeps_next (bothSilent_keeps _ (by decide) (silentPath_keeps (by decide)))))

theorem execWitnessDecision_keeps :
    OutKeeps [.chip, .mbx, .vlog, .feed, .banks, .engines, .pos, .links, .drive, .cams, .loop, .cz, .crcs, .dram, .lanes,
      .fabric, .red, .pwr, .nv] s (execWitnessDecision s) := by
  unfold execWitnessDecision
  dsimp only
  split
  · exact outKeeps_next keeps_rfl
  · exact outKeeps_ite (outKeeps_next keeps_rfl) (outKeeps_ite
      (outKeeps_next (startPromotion_keeps _ _ (by decide) (modRed_keeps _ _ (by decide) keeps_rfl)))
      (outKeeps_next (pathsLost_keeps _ (by decide) (modRed_keeps _ _ (by decide) keeps_rfl))))

theorem execWitnessRequery_keeps : OutKeeps [.links, .lanes, .red] s (execWitnessRequery s) :=
  outKeeps_ite (outKeeps_next (askWitness_keeps _ (by decide) keeps_rfl)) (outKeeps_next keeps_rfl)

/-! The role at boot, promotion and reconciliation -/

theorem execRoleListenExpiry_keeps :
    OutKeeps [.chip, .mbx, .vlog, .links, .drive, .dram, .lanes, .fabric, .red, .pwr, .nv] s (execRoleListenExpiry s) := by
  have hs := goStandby_keeps s.dev (ch := [.chip, .mbx, .vlog, .links, .drive, .dram, .lanes, .fabric, .red, .pwr, .nv]) (by decide) keeps_rfl
  have ha := goActive_keeps s.dev (ch := [.chip, .mbx, .vlog, .links, .drive, .dram, .lanes, .fabric, .red, .pwr, .nv]) (by decide) keeps_rfl
  unfold execRoleListenExpiry
  refine outKeeps_ite (outKeeps_next keeps_rfl) ?_
  split
  · exact outKeeps_ite (outKeeps_next hs) (outKeeps_ite (outKeeps_next ha) (outKeeps_next hs))
  · exact outKeeps_ite (outKeeps_next hs) (outKeeps_ite (outKeeps_next ha) (outKeeps_next (bothSilent_keeps _ (by decide) hs)))

theorem execEpochRecordCommitted_keeps :
    OutKeeps [.chip, .mbx, .vlog, .acct, .jobs, .feed, .banks, .fire, .links, .drive, .cz, .dram, .lanes, .fabric, .red,
      .nv] s (execEpochRecordCommitted s) := by
  unfold execEpochRecordCommitted
  dsimp only
  split
  · exact outKeeps_next keeps_rfl
  next e r _ =>
    have hd : Keeps [.nv] s.dev (commitEpoch e r s.dev) := commitEpoch_keeps _ _ _ (by decide) keeps_rfl
    exact outKeeps_ite (outKeeps_next (fence_keeps _ (by decide) (keeps_of_within hd (by decide)))) (outKeeps_ite
      (outKeeps_next (promoted_keeps _ (by decide) (keeps_of_within hd (by decide)))) (outKeeps_ite
      (outKeeps_next (takeActive_keeps _ (by decide) (keeps_of_within hd (by decide)))) (outKeeps_next (keeps_of_within hd (by decide)))))

/-- In STANDBY the test ends a drill or starts the promotion; in PROMOTING it ends the promotion, one way or the other. -/
theorem execPromotionSelfTestDone_keeps {failed : Option SelfTest} :
    OutKeeps [.chip, .mbx, .vlog, .acct, .jobs, .feed, .banks, .engines, .pos, .sheet, .fire, .links, .drive, .cams, .loop,
      .cz, .crcs, .dram, .lanes, .fabric, .red, .pwr, .therm, .nv] s (execPromotionSelfTestDone failed s) := by
  unfold execPromotionSelfTestDone
  refine outKeeps_ite (outKeeps_next keeps_rfl) (outKeeps_ite ?_ (outKeeps_ite ?_ (outKeeps_next keeps_rfl)))
  · split
    · exact outKeeps_next (startPromotion_keeps _ _ (by decide) (wagSeq_keeps _ _ _ (by decide) keeps_rfl))
    · exact outKeeps_next (roleSleep_keeps _ (by decide) (wagSeq_keeps _ _ _ (by decide) (modRed_keeps _ _ (by decide) keeps_rfl)))
  · split
    · exact outKeeps_next (selfTestPassed_keeps _ (by decide) keeps_rfl)
    · exact outKeeps_next (noteFault_keeps _ _ (by decide) (raise_keeps _ _ _ (by decide) (modRed_keeps _ _ (by decide) keeps_rfl)))

theorem execReconciliationDone_keeps :
    OutKeeps [.chip, .mbx, .vlog, .acct, .jobs, .feed, .banks, .engines, .pos, .sheet, .fire, .links, .drive, .cams, .loop,
      .crcs, .dram, .lanes, .fabric, .red, .pwr, .therm] s (execReconciliationDone s) := by
  unfold execReconciliationDone
  dsimp only
  split
  · exact outKeeps_next keeps_rfl
  · exact outKeeps_ite (outKeeps_next (raise_keeps _ _ _ (by decide) (reconcile_keeps _ _ (by decide) keeps_rfl))) (outKeeps_next keeps_rfl)

/-! State frames, mirror frames, pair control, snapshots and drills -/

theorem execStateFrameReceived_keeps {f : WaggleFrame} {viaFabric : Bool} :
    OutKeeps [.mbx, .vlog, .cz, .lanes, .fabric, .red] s (execStateFrameReceived f viaFabric s) := by
  unfold execStateFrameReceived
  refine outKeeps_ite (outKeeps_ite (outKeeps_next (takeState_keeps _ _ _ _ _ (by decide) keeps_rfl)) (outKeeps_next keeps_rfl))
    (outKeeps_ite (outKeeps_next keeps_rfl) ?_)
  have hw := takeWaggle_keeps (ch := [.mbx, .vlog, .cz, .lanes, .fabric, .red]) 4 true f s.dev (by decide) keeps_rfl
  split
  · exact outKeeps_next (keeps_pair ‹_› hw)
  · exact outKeeps_ite (outKeeps_next (takeState_keeps _ _ _ _ _ (by decide) (keeps_pair ‹_› hw))) (outKeeps_next (keeps_pair ‹_› hw))

theorem execMirrorFrameReceived_keeps {f : WaggleFrame} {addr : U64} {data : List U8} :
    OutKeeps [.mbx, .vlog, .dram, .lanes, .fabric, .red] s (execMirrorFrameReceived f addr data s) := by
  unfold execMirrorFrameReceived
  refine outKeeps_ite (outKeeps_next keeps_rfl) ?_
  have hw := takeWaggle_keeps (ch := [.mbx, .vlog, .dram, .lanes, .fabric, .red]) 5
    (f.payload == leBytes 8 addr.toNat ++ data && decide (data.length ≤ 2040)) f s.dev (by decide) keeps_rfl
  split
  · exact outKeeps_next (keeps_pair ‹_› hw)
  · have hd := keeps_pair ‹_› hw
    exact outKeeps_ite (outKeeps_next hd) (outKeeps_ite (outKeeps_next (dramWrite_keeps _ _ _ _ (by decide) hd))
      (outKeeps_next (violation_keeps _ _ _ _ _ (by decide) hd)))

theorem execMirrorAckTimer_keeps : OutKeeps [.mbx, .vlog, .lanes, .fabric, .red] s (execMirrorAckTimer s) := by
  unfold execMirrorAckTimer
  dsimp only
  split
  · exact outKeeps_ite (outKeeps_next (sendPair_keeps _ _ (by decide) (modRed_keeps _ _ (by decide) keeps_rfl))) (outKeeps_next keeps_rfl)
  · exact outKeeps_next keeps_rfl

/-- NEED_FULL by the waggle link has first shown that the link is active. -/
theorem execNeedFullReceived_keeps {mirror : Bool} {wl : Option FrameEnd} :
    OutKeeps [.mbx, .vlog, .cz, .dram, .lanes, .fabric, .red] s (execNeedFullReceived mirror wl s) := by
  unfold execNeedFullReceived
  extract_lets d
  have hd : Keeps [.mbx, .vlog, .cz, .dram, .lanes, .fabric, .red] s.dev d := by
    cases wl with
    | none => exact keeps_rfl
    | some x => exact rxActive_keeps _ _ (by decide) keeps_rfl
  exact outKeeps_ite (outKeeps_next (keeps_ite (violation_keeps _ _ _ _ _ (by decide) hd) hd))
    (outKeeps_ite (outKeeps_next (answerFull_keeps _ _ (by decide) hd)) (outKeeps_next hd))

theorem execPairControlReceived_keeps {m : PairControl} :
    OutKeeps [.mbx, .vlog, .cz, .dram, .lanes, .fabric, .red] s (execPairControlReceived m s) := by
  unfold execPairControlReceived
  refine outKeeps_ite (outKeeps_next keeps_rfl) ?_
  cases m with
  | needFull mirror =>
    exact outKeeps_next (answerFull_keeps _ _ (by decide) (keeps_ite (raise_keeps _ _ _ (by decide) keeps_rfl) keeps_rfl))
  | stateAck n => exact outKeeps_next (noteAck_keeps _ _ (by decide) keeps_rfl)
  | mirrorAck q => exact outKeeps_next (pumpMirror_keeps _ (by decide) (popMirror_keeps _ _ (by decide) keeps_rfl))
  | streamNotice resync cls => exact outKeeps_next (takeNotice_keeps _ _ _ _ (by decide) keeps_rfl)

theorem execSnapshotTimer_keeps : OutKeeps [.mbx, .vlog, .cz, .dram, .lanes, .fabric, .red] s (execSnapshotTimer s) :=
  outKeeps_ite (outKeeps_ite (outKeeps_next (pumpMirror_keeps _ (by decide) (drillAtEnd_keeps _ (by decide) keeps_rfl)))
    (outKeeps_next (pumpMirror_keeps _ (by decide) (takeSnapshot_keeps _ _ (by decide) keeps_rfl)))) (outKeeps_next keeps_rfl)

theorem execStaleTimer_keeps : OutKeeps [.mbx, .vlog, .lanes, .fabric, .red] s (execStaleTimer s) :=
  outKeeps_ite (outKeeps_next (raise_keeps _ _ _ (by decide) (modRed_keeps _ _ (by decide) keeps_rfl))) (outKeeps_next keeps_rfl)

theorem execHandoverReceived_keeps {f : WaggleFrame} {snap : U32} :
    OutKeeps [.chip, .mbx, .vlog, .feed, .banks, .engines, .links, .drive, .cams, .loop, .cz, .crcs, .dram, .lanes,
      .fabric, .red, .pwr, .nv] s (execHandoverReceived f snap s) := by
  unfold execHandoverReceived
  refine outKeeps_ite (outKeeps_next keeps_rfl) ?_
  have hw := takeWaggle_keeps (ch := [.mbx, .vlog, .lanes, .fabric, .red]) 7 (f.payload.length == 4) f s.dev (by decide) keeps_rfl
  split
  · exact outKeeps_next (keeps_of_within (keeps_pair ‹_› hw) (by decide))
  · exact outKeeps_ite (outKeeps_next (wakeSource_keeps _ _ (by decide) (startCal_keeps _ _ (by decide)
      (modRed_keeps _ _ (by decide) (keeps_of_within (keeps_pair ‹_› hw) (by decide))))))
      (outKeeps_next (keeps_of_within (keeps_pair ‹_› hw) (by decide)))

theorem execHandoverReplyReceived_keeps {f : WaggleFrame} {accepted : Bool} {reason : U32} :
    OutKeeps [.mbx, .vlog, .lanes, .fabric, .red] s (execHandoverReplyReceived f accepted reason s) := by
  unfold execHandoverReplyReceived
  refine outKeeps_ite (outKeeps_next keeps_rfl) ?_
  have hw := takeWaggle_keeps (ch := [.mbx, .vlog, .lanes, .fabric, .red]) 8 (f.payload.length == 8) f s.dev (by decide) keeps_rfl
  split
  · exact outKeeps_next (keeps_pair ‹_› hw)
  · exact outKeeps_ite (outKeeps_next (finishWork_keeps _ _ _ (by decide) (raise_keeps _ _ _ (by decide)
      (modRed_keeps _ _ (by decide) (keeps_pair ‹_› hw))))) (outKeeps_next (keeps_pair ‹_› hw))

/-! Redundancy commands -/

theorem execRedStatus_keeps {c : Cmd} : OutKeeps [.mbx, .vlog, .lanes, .fabric] s (execRedStatus c s) :=
  mervan_keeps (by decide) nofun (fun _ _ _ => ok_keeps _ _ (by decide) keeps_rfl)

theorem execRedAssign_keeps {c : Cmd} : OutKeeps [.mbx, .vlog, .lanes, .fabric, .nv] s (execRedAssign c s) :=
  mervan_keeps (by decide) nofun (fun _ _ _ => doneKeeps_ite (no_keeps _ _ _ _ (by decide) keeps_rfl)
    (doneKeeps_later (journalAppend_keeps _ _ _ _ _ (by decide) keeps_rfl)))

theorem execRedPromote_keeps {c : Cmd} :
    OutKeeps [.chip, .mbx, .vlog, .feed, .banks, .engines, .pos, .links, .drive, .cams, .loop, .cz, .crcs, .dram, .lanes,
      .fabric, .red, .pwr, .nv] s (execRedPromote c s) :=
  mervan_keeps (by decide) nofun (fun _ _ _ => doneKeeps_ite (no_keeps _ _ _ _ (by decide) keeps_rfl) (doneKeeps_ite
    (no_keeps _ _ _ _ (by decide) keeps_rfl) (doneKeeps_ite (no_keeps _ _ _ _ (by decide) keeps_rfl)
    (ok_keeps _ _ (by decide) (startPromotion_keeps _ _ (by decide) keeps_rfl)))))

theorem execRedDrill_keeps {c : Cmd} : OutKeeps [.mbx, .vlog, .cz, .lanes, .fabric, .red] s (execRedDrill c s) :=
  mervan_keeps (by decide) nofun (fun _ _ _ => doneKeeps_ite (no_keeps _ _ _ _ (by decide) keeps_rfl) (doneKeeps_ite
    (no_keeps _ _ _ _ (by decide) keeps_rfl) (doneKeeps_ite (doneKeeps_reply (modRed_keeps _ _ (by decide) keeps_rfl))
    (doneKeeps_later (drillAtEnd_keeps _ (by decide) (modRed_keeps _ _ (by decide) keeps_rfl))))))

theorem execRedReadmit_keeps {c : Cmd} :
    OutKeeps [.mbx, .vlog, .jobs, .banks, .engines, .sheet, .fire, .drive, .loop, .lanes, .fabric, .red, .pwr,
      .nv] s (execRedReadmit c s) :=
  mervan_keeps (by decide) nofun (fun _ _ _ => doneKeeps_ite (no_keeps _ _ _ _ (by decide) keeps_rfl) (doneKeeps_ite
    (doneKeeps_after keeps_rfl (fun _ => roleSleep_keeps _ (by decide) keeps_rfl))
    (doneKeeps_after keeps_rfl (fun _ => readmit_keeps _ (by decide) keeps_rfl))))

theorem execRedReconcile_keeps {c : Cmd} : OutKeeps [.mbx, .vlog, .dram, .lanes, .fabric, .red] s (execRedReconcile c s) := by
  unfold execRedReconcile
  refine mervan_keeps (by decide) nofun (fun _ _ _ => ?_)
  split
  · exact no_keeps _ _ _ _ (by decide) keeps_rfl
  · exact ok_keeps _ _ (by decide) (dramWrite_keeps _ _ _ _ (by decide) keeps_rfl)

/-! The thermal guard -/

theorem execSensorConversion_keeps {readings : Vector Int 12} : OutKeeps [.therm] s (execSensorConversion readings s) :=
  outKeeps_ite (outKeeps_next (modTherm_keeps _ _ (by decide) keeps_rfl)) (outKeeps_next keeps_rfl)

theorem execSensorFailed_keeps {k : Sensor} : OutKeeps [.mbx, .vlog, .lanes, .fabric, .therm] s (execSensorFailed k s) :=
  outKeeps_ite (outKeeps_next (failSensor_keeps _ _ _ (by decide) keeps_rfl)) (outKeeps_next keeps_rfl)

theorem execSensorDisagreeTimeout_keeps {k : Sensor} :
    OutKeeps [.mbx, .vlog, .lanes, .fabric, .therm] s (execSensorDisagreeTimeout k s) :=
  outKeeps_ite (outKeeps_next (failSensor_keeps _ _ _ (by decide) keeps_rfl)) (outKeeps_next keeps_rfl)

theorem execThrottleRise_keeps : OutKeeps [.mbx, .vlog, .lanes, .fabric, .therm] s (execThrottleRise s) :=
  outKeeps_ite (outKeeps_next (setLevel_keeps _ _ (by decide) keeps_rfl)) (outKeeps_next keeps_rfl)

theorem execThrottleFall_keeps : OutKeeps [.mbx, .vlog, .lanes, .fabric, .therm] s (execThrottleFall s) :=
  outKeeps_ite (outKeeps_next (setLevel_keeps _ _ (by decide) keeps_rfl)) (outKeeps_next keeps_rfl)

theorem execThermalTrip_keeps :
    OutKeeps [.mbx, .vlog, .acct, .jobs, .banks, .engines, .sheet, .fire, .drive, .loop, .dram, .lanes, .fabric, .pwr,
      .therm, .nv] s (execThermalTrip s) :=
  outKeeps_ite (outKeeps_next (tripNow_keeps _ (by decide) keeps_rfl)) (outKeeps_next keeps_rfl)

theorem execThermalRestart_keeps :
    OutKeeps [.mbx, .vlog, .fire, .links, .drive, .dram, .lanes, .fabric, .pwr, .therm, .nv] s (execThermalRestart s) :=
  outKeeps_ite (outKeeps_next (restartNow_keeps _ (by decide) keeps_rfl)) (outKeeps_next keeps_rfl)

theorem execThmConfig_keeps {c : Cmd} : OutKeeps [.mbx, .vlog, .lanes, .fabric, .red, .therm] s (execThmConfig c s) :=
  mervan_keeps (by decide) nofun (fun _ _ _ => doneKeeps_ite (done_keeps _ (by decide) (modTherm_keeps _ _ (by decide) keeps_rfl))
    (no_keeps _ _ _ _ (by decide) keeps_rfl))

theorem execThmStatus_keeps {c : Cmd} : OutKeeps [.mbx, .vlog, .lanes, .fabric] s (execThmStatus c s) :=
  mervan_keeps (by decide) nofun (fun _ _ _ => ok_keeps _ _ (by decide) keeps_rfl)

end

/-- Settles O41: each row by its own lemma above. -/
theorem pairAndThermalRowsFrame : Obligations.PairAndThermalRowsFrame :=
  ⟨outKeeps_onlyChanges fun _ => execHeartbeatTimer_keeps,
    outKeeps_onlyChanges fun _ => execHboEdgeTimer_keeps,
    fun _ => outKeeps_onlyChanges fun _ => execSensorConversion_keeps,
    outKeeps_onlyChanges fun _ => execMirrorAckTimer_keeps,
    fun _ _ => outKeeps_onlyChanges fun _ => execNeedFullReceived_keeps,
    outKeeps_onlyChanges fun _ => execSnapshotTimer_keeps,
    fun _ => outKeeps_onlyChanges fun _ => execRedStatus_keeps,
    fun _ => outKeeps_onlyChanges fun _ => execThmStatus_keeps,
    fun _ => outKeeps_onlyChanges fun _ => execRedAssign_keeps,
    outKeeps_onlyChanges fun _ => execHbiEdge_keeps,
    outKeeps_onlyChanges fun _ => execStaleTimer_keeps,
    fun _ => outKeeps_onlyChanges fun _ => execSensorFailed_keeps,
    fun _ => outKeeps_onlyChanges fun _ => execSensorDisagreeTimeout_keeps,
    outKeeps_onlyChanges fun _ => execThrottleRise_keeps,
    outKeeps_onlyChanges fun _ => execThrottleFall_keeps,
    fun _ => outKeeps_onlyChanges fun _ => execPairControlReceived_keeps,
    fun _ => outKeeps_onlyChanges fun _ => execRedDrill_keeps,
    fun _ => outKeeps_onlyChanges fun _ => execRedReconcile_keeps,
    fun _ => outKeeps_onlyChanges fun _ => execThmConfig_keeps,
    fun _ _ _ => outKeeps_onlyChanges fun _ => execHandoverReplyReceived_keeps,
    outKeeps_onlyChanges fun _ => execWitnessRequery_keeps,
    fun _ _ => outKeeps_onlyChanges fun _ => execStateFrameReceived_keeps,
    fun _ _ _ => outKeeps_onlyChanges fun _ => execMirrorFrameReceived_keeps,
    fun _ => outKeeps_onlyChanges fun _ => execPathSilent_keeps,
    outKeeps_onlyChanges fun _ => execThermalRestart_keeps,
    outKeeps_onlyChanges fun _ => execRoleListenExpiry_keeps,
    fun _ => outKeeps_onlyChanges fun _ => execRedReadmit_keeps,
    fun _ => outKeeps_onlyChanges fun _ => execHeartbeatReceived_keeps,
    outKeeps_onlyChanges fun _ => execThermalTrip_keeps,
    fun _ snap => outKeeps_onlyChanges fun _ => execHandoverReceived_keeps (snap := snap),
    outKeeps_onlyChanges fun _ => execEpochRecordCommitted_keeps,
    outKeeps_onlyChanges fun _ => execWitnessDecision_keeps,
    fun _ => outKeeps_onlyChanges fun _ => execRedPromote_keeps,
    outKeeps_onlyChanges fun _ => execReconciliationDone_keeps,
    fun _ => outKeeps_onlyChanges fun _ => execPromotionSelfTestDone_keeps⟩

end Sys2Proof.Machine
end

section
/-! SUPPORT. The rows of chapters 14, 15, 17 and 18: the fields of the device that each may change. -/
namespace Sys2Proof.Machine

-- One theorem after another, as in the section of the frames of chapters 1 to 4.
set_option Elab.async false

section
variable {ch : List DevField} {a d : Device}

theorem keeps_set_vlog {x : Vlog} (hc : within [.vlog] ch = true) (hk : Keeps ch a d) : Keeps ch a { d with vlog := x } :=
  Keeps.step (c := [.vlog]) ⟨fun f hf => by cases f with | vlog => simp at hf | _ => rfl⟩ hc hk

theorem keeps_set_dram {x : Dram} (hc : within [.dram] ch = true) (hk : Keeps ch a d) : Keeps ch a { d with dram := x } :=
  Keeps.step (c := [.dram]) ⟨fun f hf => by cases f with | dram => simp at hf | _ => rfl⟩ hc hk

theorem keeps_set_pwr {x : Pwr} (hc : within [.pwr] ch = true) (hk : Keeps ch a d) : Keeps ch a { d with pwr := x } :=
  Keeps.step (c := [.pwr]) ⟨fun f hf => by cases f with | pwr => simp at hf | _ => rfl⟩ hc hk

theorem keeps_set_prs {x : Prs} (hc : within [.prs] ch = true) (hk : Keeps ch a d) : Keeps ch a { d with prs := x } :=
  Keeps.step (c := [.prs]) ⟨fun f hf => by cases f with | prs => simp at hf | _ => rfl⟩ hc hk

theorem keeps_set_nv {x : Nv} (hc : within [.nv] ch = true) (hk : Keeps ch a d) : Keeps ch a { d with nv := x } :=
  Keeps.step (c := [.nv]) ⟨fun f hf => by cases f with | nv => simp at hf | _ => rfl⟩ hc hk

theorem keeps_set_sz {x : Sz} (hc : within [.sz] ch = true) (hk : Keeps ch a d) : Keeps ch a { d with sz := x } :=
  Keeps.step (c := [.sz]) ⟨fun f hf => by cases f with | sz => simp at hf | _ => rfl⟩ hc hk

end

section
variable {s : State}

/-! System commands -/

theorem execSysNop_keeps {c : Cmd} : OutKeeps [.mbx, .vlog, .lanes, .fabric] s (execSysNop c s) :=
  mervan_keeps (by decide) nofun (fun _ _ _ => ok_keeps _ _ (by decide) keeps_rfl)

theorem execSysIdentify_keeps {c : Cmd} : OutKeeps [.mbx, .vlog, .lanes, .fabric] s (execSysIdentify c s) :=
  mervan_keeps (by decide) nofun (fun _ _ _ => ok_keeps _ _ (by decide) keeps_rfl)

theorem execSysRing_keeps {c : Cmd} : OutKeeps [.mbx, .vlog, .lanes, .fabric] s (execSysRing c s) :=
  mervan_keeps (by decide) nofun (fun _ _ _ => doneKeeps_ite (no_keeps _ _ _ _ (by decide) keeps_rfl) (doneKeeps_ite
    (no_keeps _ _ _ _ (by decide) keeps_rfl) (doneKeeps_after keeps_rfl (fun _ => newRings_keeps _ _ (by decide) keeps_rfl))))

theorem execSysConfig_keeps {c : Cmd} : OutKeeps [.mbx, .vlog, .lanes, .fabric, .red] s (execSysConfig c s) :=
  mervan_keeps (by decide) nofun (fun _ _ _ => doneKeeps_ite (no_keeps _ _ _ _ (by decide) keeps_rfl)
    (done_keeps _ (by decide) (modMbx_keeps _ _ (by decide) keeps_rfl)))

theorem execSysResult_keeps {c : Cmd} : OutKeeps [.mbx, .vlog, .lanes, .fabric] s (execSysResult c s) := by
  unfold execSysResult
  refine mervan_keeps (by decide) nofun (fun _ _ _ => doneKeeps_ite (no_keeps _ _ _ _ (by decide) keeps_rfl) ?_)
  split
  · exact no_keeps _ _ _ _ (by decide) keeps_rfl
  · exact doneKeeps_reply keeps_rfl

theorem execSysLatchedRead_keeps {c : Cmd} : OutKeeps [.mbx, .vlog, .acct, .dram, .lanes, .fabric, .red] s (execSysLatchedRead c s) := by
  unfold execSysLatchedRead
  refine mervan_keeps (by decide) nofun (fun _ _ _ => ?_)
  dsimp only
  split
  · exact no_keeps _ _ _ _ (by decide) keeps_rfl
  · exact ok_keeps _ _ (by decide) (markRead_keeps _ _ _ (by decide) (dramWrite_keeps _ _ _ _ (by decide) keeps_rfl))

theorem execSysViolationRead_keeps {c : Cmd} : OutKeeps [.mbx, .vlog, .dram, .lanes, .fabric, .red] s (execSysViolationRead c s) :=
  mervan_keeps (by decide) nofun (fun _ _ _ => ok_keeps _ _ (by decide) (dramWrite_keeps _ _ _ _ (by decide) keeps_rfl))

theorem execSysViolationClear_keeps {c : Cmd} : OutKeeps [.mbx, .vlog, .lanes, .fabric] s (execSysViolationClear c s) :=
  mervan_keeps (by decide) nofun (fun _ _ _ => doneKeeps_ite (no_keeps _ _ _ _ (by decide) keeps_rfl)
    (ok_keeps _ _ (by decide) (keeps_set_vlog (by decide) keeps_rfl)))

theorem execSysPartnerRelease_keeps {c : Cmd} :
    OutKeeps [.mbx, .vlog, .links, .adapters, .cz, .lanes, .fabric, .red] s (execSysPartnerRelease c s) :=
  mervan_keeps (by decide) nofun (fun _ _ _ => doneKeeps_ite (ok_keeps _ _ (by decide) (releasePartner_keeps _ _ _ (by decide) keeps_rfl))
    (no_keeps _ _ _ _ (by decide) keeps_rfl))

theorem execSysRoles_keeps {c : Cmd} : OutKeeps [.mbx, .vlog, .lanes, .fabric] s (execSysRoles c s) :=
  mervan_keeps (by decide) nofun (fun _ _ _ => doneKeeps_ite (no_keeps _ _ _ _ (by decide) keeps_rfl) (ok_keeps _ _ (by decide)
    (keeps_ite (sendRoles_keeps _ (by decide) (modMbx_keeps _ _ (by decide) keeps_rfl)) (modMbx_keeps _ _ (by decide) keeps_rfl))))

theorem execSysPresence_keeps {c : Cmd} : OutKeeps [.mbx, .vlog, .lanes, .fabric, .prs] s (execSysPresence c s) :=
  mervan_keeps (by decide) nofun (fun _ _ _ => ok_keeps _ _ (by decide) (keeps_ite (closeWindow_keeps _ (by decide) keeps_rfl) keeps_rfl))

theorem execSysReseal_keeps {c : Cmd} : OutKeeps [.mbx, .vlog, .lanes, .fabric, .prs, .nv] s (execSysReseal c s) :=
  mervan_keeps (by decide) nofun (fun _ _ _ => doneKeeps_ite (no_keeps _ _ _ _ (by decide) keeps_rfl) (doneKeeps_later
    (journalAppend_keeps _ _ _ _ _ (by decide) (raise_keeps _ _ _ (by decide) (keeps_set_prs (by decide) keeps_rfl)))))

/-! Storage, forager and Stolzar commands -/

theorem execSysFwUpdate_keeps {c : Cmd} : OutKeeps [.mbx, .vlog, .dram, .lanes, .fabric, .nv] s (execSysFwUpdate c s) := by
  unfold execSysFwUpdate
  refine mervan_keeps (by decide) (fun _ => by decide) (fun _ _ _ => ?_)
  split
  · exact poisoned_keeps _ _ (by decide) keeps_rfl
  · exact doneKeeps_ite (no_keeps _ _ _ _ (by decide) keeps_rfl) (doneKeeps_ite (no_keeps _ _ _ _ (by decide) keeps_rfl)
      (doneKeeps_later (keeps_set_nv (by decide) keeps_rfl)))

theorem execSysNvErase_keeps {c : Cmd} : OutKeeps [.mbx, .vlog, .lanes, .fabric, .nv] s (execSysNvErase c s) :=
  mervan_keeps (by decide) nofun (fun _ _ _ => doneKeeps_ite (no_keeps _ _ _ _ (by decide) keeps_rfl) (doneKeeps_ite
    (no_keeps _ _ _ _ (by decide) keeps_rfl) (doneKeeps_later (keeps_set_nv (by decide) keeps_rfl))))

theorem execSysPeek_keeps {c : Cmd} : OutKeeps [.mbx, .vlog, .dram, .lanes, .fabric] s (execSysPeek c s) := by
  unfold execSysPeek
  refine mervan_keeps (by decide) (fun _ => by decide) (fun _ _ _ => ?_)
  split
  · exact poisoned_keeps _ _ (by decide) keeps_rfl
  · exact ok_keeps _ _ (by decide) keeps_rfl

theorem execSysNvStatus_keeps {c : Cmd} : OutKeeps [.mbx, .vlog, .dram, .lanes, .fabric, .red] s (execSysNvStatus c s) :=
  mervan_keeps (by decide) nofun (fun _ _ _ => doneKeeps_ite (no_keeps _ _ _ _ (by decide) keeps_rfl)
    (ok_keeps _ _ (by decide) (dramWrite_keeps _ _ _ _ (by decide) keeps_rfl)))

theorem execSysNvSet_keeps {c : Cmd} : OutKeeps [.mbx, .vlog, .lanes, .fabric, .nv] s (execSysNvSet c s) :=
  mervan_keeps (by decide) nofun (fun _ _ _ => doneKeeps_ite (no_keeps _ _ _ _ (by decide) keeps_rfl) (doneKeeps_ite
    (no_keeps _ _ _ _ (by decide) keeps_rfl) (doneKeeps_later (journalAppend_keeps _ _ _ _ _ (by decide) keeps_rfl))))

/-- Descriptors that are all posted or empty are posted here; any other copy waits for its reads. -/
theorem execForagerCopy_keeps {c : Cmd} {descs : List U8} :
    OutKeeps [.mbx, .vlog, .dram, .lanes, .fabric] s (execForagerCopy c descs s) := by
  unfold execForagerCopy
  refine mervan_keeps (by decide) nofun (fun _ _ d => doneKeeps_ite (doneKeeps_reply (modMbx_keeps _ _ (by decide) keeps_rfl))
    (doneKeeps_ite (no_keeps _ _ _ _ (by decide) keeps_rfl) (doneKeeps_ite (no_keeps _ _ _ _ (by decide) keeps_rfl) (doneKeeps_ite
    (no_keeps _ _ _ _ (by decide) keeps_rfl) (doneKeeps_ite ?_ (startForager_keeps _ _ (by decide) keeps_rfl))))))
  have hp := fun l => postAll_keeps (ch := [.mbx, .vlog, .dram, .lanes, .fabric]) l d (by decide) keeps_rfl
  split
  · exact ok_keeps _ _ (by decide) (keeps_pair ‹_› (hp _))
  · exact poisoned_keeps _ _ (by decide) (keeps_pair ‹_› (hp _))

theorem execForagerStatus_keeps {c : Cmd} : OutKeeps [.mbx, .vlog, .lanes, .fabric] s (execForagerStatus c s) :=
  mervan_keeps (by decide) nofun (fun _ _ _ => ok_keeps _ _ (by decide) keeps_rfl)

theorem execSzStatus_keeps {c : Cmd} : OutKeeps [.mbx, .vlog, .lanes, .fabric] s (execSzStatus c s) := by
  unfold execSzStatus
  refine mervan_keeps (by decide) nofun (fun _ _ _ => ?_)
  split
  · exact ok_keeps _ _ (by decide) (keeps_pair ‹_› (draw_keeps _ (by decide) keeps_rfl))

theorem execSzMap_keeps {c : Cmd} : OutKeeps [.mbx, .vlog, .lanes, .fabric, .sz] s (execSzMap c s) :=
  mervan_keeps (by decide) nofun (fun _ _ _ => doneKeeps_ite (no_keeps _ _ _ _ (by decide) keeps_rfl)
    (ok_keeps _ _ (by decide) (keeps_set_sz (by decide) keeps_rfl)))

/-! Host accesses and forager reads -/

theorem execMbxCmdTailWrite_keeps {v : U32} : OutKeeps [.mbx, .vlog, .lanes, .fabric, .pwr] s (execMbxCmdTailWrite v s) :=
  hostDoes_keeps (fun _ => setCmdTail_keeps _ _ (by decide) keeps_rfl)

theorem execMbxRspHeadWrite_keeps {v : U32} : OutKeeps [.mbx, .vlog, .lanes, .fabric] s (execMbxRspHeadWrite v s) :=
  hostDoes_keeps (fun _ => setRspHead_keeps _ _ (by decide) keeps_rfl)

theorem execMbxEvtHeadWrite_keeps {v : U32} : OutKeeps [.mbx, .vlog, .lanes, .fabric] s (execMbxEvtHeadWrite v s) :=
  hostDoes_keeps (fun _ => setEvtHead_keeps _ _ (by decide) keeps_rfl)

theorem execIrqStatusWrite_keeps {v : U32} : OutKeeps [.mbx] s (execIrqStatusWrite v s) :=
  hostDoes_keeps (fun _ => clearIrq_keeps _ _ (by decide) keeps_rfl)

theorem execPwrWakeWrite_keeps {v : U32} :
    OutKeeps [.chip, .mbx, .vlog, .feed, .banks, .engines, .links, .drive, .cams, .loop, .cz, .crcs, .dram, .lanes,
      .fabric, .red, .pwr, .nv] s (execPwrWakeWrite v s) :=
  hostDoes_keeps (fun _ => writeWake_keeps _ _ (by decide) keeps_rfl)

theorem execPwrPadReleaseWrite_keeps {v : U32} : OutKeeps [.pwr] s (execPwrPadReleaseWrite v s) :=
  hostDoes_keeps (fun _ => releasePads_keeps _ _ (by decide) keeps_rfl)

theorem execPrsCloseWrite_keeps {v : U32} : OutKeeps [.mbx, .vlog, .lanes, .fabric, .prs] s (execPrsCloseWrite v s) :=
  hostDoes_keeps (fun _ => writeClose_keeps _ _ (by decide) keeps_rfl)

theorem execDiagClearWrite_keeps {v : U32} : OutKeeps [.vlog] s (execDiagClearWrite v s) :=
  hostDoes_keeps (fun _ => writeDiagClear_keeps _ _ (by decide) keeps_rfl)

theorem execRegisterWrite_keeps {offset : Nat} {bytes : List U8} :
    OutKeeps [.chip, .mbx, .vlog, .feed, .banks, .engines, .links, .drive, .cams, .loop, .cz, .crcs, .dram, .lanes,
      .fabric, .red, .pwr, .prs, .nv] s (execRegisterWrite offset bytes s) :=
  hostDoes_keeps (fun _ => writeWords_keeps _ _ _ _ (by decide) keeps_rfl)

theorem execIrqHoldoffExpiry_keeps {evt : Bool} : OutKeeps [.mbx] s (execIrqHoldoffExpiry evt s) :=
  outKeeps_ite (outKeeps_ite (outKeeps_next (signalVector_keeps _ _ (by decide) (modMbx_keeps _ _ (by decide) keeps_rfl)))
    (outKeeps_next (modMbx_keeps _ _ (by decide) keeps_rfl))) (outKeeps_next keeps_rfl)

theorem execBar2Access_keeps {offset : Nat} {write : Option (List U8)} {len : Nat} :
    OutKeeps [.chip, .mbx, .vlog, .dram, .lanes, .fabric, .red] s (execBar2Access offset write len s) := by
  unfold execBar2Access
  refine outKeeps_ite ?_ (outKeeps_next keeps_rfl)
  cases write with
  | some b => exact outKeeps_next (dramWrite_keeps _ _ _ _ (by decide) keeps_rfl)
  | none =>
    exact outKeeps_ite (outKeeps_next (modDram_keeps _ _ (by decide) keeps_rfl))
      (outKeeps_next (completeRead_keeps _ _ _ (by decide) (touch_keeps _ _ _ _ (by decide) keeps_rfl)))

theorem execSz6WindowAccess_keeps {offset : U16} {write : Option U32} {supported : Bool} :
    OutKeeps [.chip, .sz] s (execSz6WindowAccess offset write supported s) := by
  unfold execSz6WindowAccess
  extract_lets d _ e
  have he : Keeps [.chip, .sz] s.dev e := keeps_set_sz (by decide) keeps_rfl
  refine outKeeps_ite ?_ (outKeeps_next keeps_rfl)
  split
  · split
    exact outKeeps_next (keeps_set_chip (by decide) (keeps_pair ‹_› (keeps_ite_snd (draw_keeps _ (by decide) he) he)))
  · exact outKeeps_ite (outKeeps_next (keeps_set_sz (by decide) he)) (outKeeps_next (keeps_set_sz (by decide) he))

theorem execForagerReadDone_keeps {buffer : Fin 64} {data : Option (List U8)} :
    OutKeeps [.mbx, .vlog, .dram, .lanes, .fabric, .red] s (execForagerReadDone buffer data s) := by
  unfold execForagerReadDone
  extract_lets d
  split
  · exact outKeeps_next keeps_rfl
  · extract_lets e
    have he : Keeps [.mbx, .vlog, .dram, .lanes, .fabric, .red] s.dev e := modMbx_keeps _ _ (by decide) keeps_rfl
    split
    · exact outKeeps_next he
    · extract_lets j x
      have hx : Keeps [.mbx, .vlog, .dram, .lanes, .fabric, .red] s.dev x :=
        issueAll_keeps _ (by decide) (modMbx_keeps _ _ (by decide) (foragerTake_keeps _ _ _ _ (by decide) he))
      refine outKeeps_next ?_
      split
      · exact endForager_keeps _ _ (by decide) hx
      · exact hx

/-! The management transport, relaying and asynchronous completion -/

theorem execMgmtBlockWrite_keeps {bytes : List U8} {pecOk : Bool} :
    OutKeeps [.mbx, .vlog, .lanes, .fabric, .pwr] s (execMgmtBlockWrite bytes pecOk s) :=
  outKeeps_ite (outKeeps_ite (outKeeps_next (violation_keeps _ _ _ _ _ (by decide) keeps_rfl)) (outKeeps_ite
    (outKeeps_next (violation_keeps _ _ _ _ _ (by decide) keeps_rfl)) (outKeeps_ite
    (outKeeps_next (wakeCores_keeps _ (by decide) (modMbx_keeps _ _ (by decide) keeps_rfl))) (outKeeps_next keeps_rfl))))
    (outKeeps_next keeps_rfl)

theorem execMgmtBlockRead_keeps : OutKeeps [.mbx] s (execMgmtBlockRead s) :=
  outKeeps_ite (outKeeps_next (modMbx_keeps _ _ (by decide) keeps_rfl)) (outKeeps_next keeps_rfl)

theorem execMgmtAddressMatch_keeps {addr : BitVec 7} :
    OutKeeps [.chip, .mbx, .vlog, .feed, .banks, .engines, .links, .drive, .cams, .loop, .cz, .crcs, .dram, .lanes,
      .fabric, .red, .pwr, .nv] s (execMgmtAddressMatch addr s) :=
  outKeeps_ite (outKeeps_next (wakeSource_keeps _ _ (by decide) keeps_rfl)) (outKeeps_next keeps_rfl)

theorem execCommandDone_keeps {seq : U32} : OutKeeps [.mbx, .vlog, .lanes, .fabric] s (execCommandDone seq s) := by
  unfold execCommandDone
  dsimp only
  split
  · exact outKeeps_next keeps_rfl
  · split
    · exact outKeeps_next keeps_rfl
    · exact outKeeps_next (commandDone_keeps _ _ _ (by decide) keeps_rfl)

theorem execMervanRelayReceived_keeps {src : U8} {body : RelayBody} :
    OutKeeps [.mbx, .vlog, .lanes, .fabric, .pwr] s (execMervanRelayReceived src body s) := by
  unfold execMervanRelayReceived
  refine outKeeps_ite (outKeeps_next keeps_rfl) ?_
  cases body with
  | command uid => exact outKeeps_next (wakeCores_keeps _ (by decide) (modMbx_keeps _ _ (by decide) keeps_rfl))
  | response tag seq status orig reason detail results =>
    dsimp only
    split
    · exact outKeeps_next (relayAnswer_keeps _ _ _ _ _ _ _ (by decide) keeps_rfl)
    · split
      · exact outKeeps_ite (outKeeps_next (finish_keeps _ _ _ (by decide) keeps_rfl))
          (outKeeps_next (finish_keeps _ _ _ (by decide) keeps_rfl))
      · exact outKeeps_next (modDiag_keeps _ _ (by decide) keeps_rfl)
  | event name node evseq ft wp args =>
    exact outKeeps_ite (outKeeps_next (writeEvent_keeps _ _ (by decide) keeps_rfl)) (outKeeps_next keeps_rfl)

theorem execRelayTimeout_keeps {tag : BitVec 6} : OutKeeps [.mbx, .vlog, .lanes, .fabric] s (execRelayTimeout tag s) := by
  unfold execRelayTimeout
  dsimp only
  split
  · exact outKeeps_next (finish_keeps _ _ _ (by decide) keeps_rfl)
  · exact outKeeps_next keeps_rfl

/-! Presence and the seal -/

theorem execPresenceHold_keeps : OutKeeps [.mbx, .vlog, .lanes, .fabric, .prs] s (execPresenceHold s) :=
  outKeeps_ite (outKeeps_ite (outKeeps_next (keeps_set_prs (by decide) keeps_rfl)) (outKeeps_next (raise_keeps _ _ _ (by decide)
    (setIrq_keeps _ _ (by decide) (keeps_set_prs (by decide) keeps_rfl))))) (outKeeps_next keeps_rfl)

theorem execPresenceWindowExpiry_keeps : OutKeeps [.mbx, .vlog, .lanes, .fabric, .prs] s (execPresenceWindowExpiry s) :=
  outKeeps_ite (outKeeps_next (closeWindow_keeps _ (by decide) keeps_rfl)) (outKeeps_next keeps_rfl)

theorem execSealTest_keeps {pass : Bool} : OutKeeps [.prs] s (execSealTest pass s) :=
  outKeeps_ite (outKeeps_next (keeps_set_prs (by decide) keeps_rfl)) (outKeeps_next keeps_rfl)

theorem execSealLoopOpen_keeps : OutKeeps [.mbx, .vlog, .lanes, .fabric, .prs, .nv] s (execSealLoopOpen s) :=
  outKeeps_ite (outKeeps_next (abandonGated_keeps _ (by decide) (raise_keeps _ _ _ (by decide) (setIrq_keeps _ _ (by decide)
    (keeps_ite (keeps_set_prs (by decide) keeps_rfl) (journalAppend_keeps _ _ _ _ _ (by decide) (keeps_set_prs (by decide) keeps_rfl)))))))
    (outKeeps_next keeps_rfl)

theorem execSealLoopClosed_keeps : OutKeeps [.prs] s (execSealLoopClosed s) :=
  outKeeps_ite (outKeeps_next (keeps_set_prs (by decide) keeps_rfl)) (outKeeps_next keeps_rfl)

/-! Reset, supplies and clocks -/

theorem execResetNRise_keeps {straps : Straps} {dies : List DieInfo} :
    OutKeeps [.chip, .mbx, .vlog, .dram, .lanes, .fabric, .red, .prs, .nv] s (execResetNRise straps dies s) := by
  unfold execResetNRise
  have hd : ∀ x y, Keeps [.chip, .mbx, .vlog, .dram, .lanes, .fabric, .red, .prs, .nv] s.dev { s.dev with chip := x, dram := y } :=
    fun x _ => keeps_set_dram (d := { s.dev with chip := x }) (by decide) (keeps_set_chip (by decide) keeps_rfl)
  exact outKeeps_ite (outKeeps_next keeps_rfl)
    (outKeeps_ite (outKeeps_next (startBoot_keeps _ (by decide) (hd _ _))) (outKeeps_next (hd _ _)))

theorem execResetNFall_keeps :
    OutKeeps [.chip, .mbx, .vlog, .acct, .jobs, .feed, .banks, .engines, .pos, .sheet, .fire, .links, .drive, .cams, .loop,
      .cz, .crcs, .dram, .lanes, .fabric, .red, .pwr, .therm, .prs, .nv, .sz] s (execResetNFall s) :=
  outKeeps_ite (outKeeps_next (keeps_set_chip (by decide) (inReset_keeps _ _ (by decide) keeps_rfl))) (outKeeps_next keeps_rfl)

theorem execPwrGoodLow_keeps :
    OutKeeps [.chip, .mbx, .vlog, .acct, .jobs, .feed, .banks, .engines, .pos, .sheet, .fire, .links, .drive, .cams, .loop,
      .cz, .crcs, .dram, .lanes, .fabric, .red, .pwr, .therm, .prs, .nv, .sz] s (execPwrGoodLow s) :=
  outKeeps_ite (outKeeps_next (keeps_set_chip (by decide) (powerLost_keeps _ (by decide) keeps_rfl))) (outKeeps_next keeps_rfl)

theorem execPwrGoodHigh_keeps : OutKeeps [.chip, .mbx, .vlog, .dram, .lanes, .fabric, .red, .prs, .nv] s (execPwrGoodHigh s) :=
  outKeeps_ite (outKeeps_next keeps_rfl) (outKeeps_next (powerBack_keeps _ (by decide) (keeps_set_chip (by decide) keeps_rfl)))

theorem execVioLow_keeps {bank : Fin 6} :
    OutKeeps [.chip, .mbx, .vlog, .acct, .jobs, .feed, .banks, .engines, .pos, .sheet, .fire, .links, .drive, .cams, .loop,
      .cz, .crcs, .dram, .lanes, .fabric, .red, .pwr, .therm, .prs, .nv, .sz] s (execVioLow bank s) :=
  outKeeps_ite (outKeeps_next keeps_rfl) (outKeeps_ite
    (outKeeps_next (setBank_keeps _ _ _ (by decide) (powerLost_keeps _ (by decide) keeps_rfl))) (outKeeps_ite
    (outKeeps_next (accountingBreak_keeps _ _ (by decide) (raise_keeps _ _ _ (by decide) (setBank_keeps _ _ _ (by decide) keeps_rfl))))
    (outKeeps_next (setBank_keeps _ _ _ (by decide) keeps_rfl))))

theorem execVioRestored_keeps {bank : Fin 6} :
    OutKeeps [.chip, .mbx, .vlog, .dram, .lanes, .fabric, .red, .prs, .nv] s (execVioRestored bank s) :=
  outKeeps_ite (outKeeps_next keeps_rfl) (outKeeps_ite
    (outKeeps_next (powerBack_keeps _ (by decide) (setBank_keeps _ _ _ (by decide) keeps_rfl))) (outKeeps_ite
    (outKeeps_next (raise_keeps _ _ _ (by decide) (setBank_keeps _ _ _ (by decide) keeps_rfl)))
    (outKeeps_next (setBank_keeps _ _ _ (by decide) keeps_rfl))))

theorem execClockFault_keeps {pll : Bool} : OutKeeps [.chip, .mbx] s (execClockFault pll s) :=
  outKeeps_ite (outKeeps_next (noteFault_keeps _ _ (by decide) (keeps_set_chip (by decide) keeps_rfl))) (outKeeps_next keeps_rfl)

theorem execClockFaultReset_keeps :
    OutKeeps [.chip, .mbx, .vlog, .acct, .jobs, .feed, .banks, .engines, .pos, .sheet, .fire, .links, .drive, .cams, .loop,
      .cz, .crcs, .dram, .lanes, .fabric, .red, .pwr, .therm, .prs, .nv, .sz] s (execClockFaultReset s) := by
  unfold execClockFaultReset
  refine outKeeps_ite ?_ (outKeeps_next keeps_rfl)
  exact outKeeps_ite (outKeeps_next (startBoot_keeps _ (by decide) (inReset_keeps _ _ (by decide) keeps_rfl)))
    (outKeeps_next (inReset_keeps _ _ (by decide) keeps_rfl))

theorem execXoRestored_keeps : OutKeeps [.chip, .mbx, .vlog, .dram, .lanes, .fabric, .red, .prs, .nv] s (execXoRestored s) :=
  outKeeps_ite (outKeeps_next keeps_rfl) (outKeeps_ite (outKeeps_next (keeps_set_chip (by decide) keeps_rfl)) (outKeeps_ite
    (outKeeps_next (startBoot_keeps _ (by decide) (keeps_set_chip (by decide) keeps_rfl)))
    (outKeeps_next (keeps_set_chip (by decide) keeps_rfl))))

/-! Boot and flash -/

theorem execBootImageVerified_keeps {slot : Bool} : OutKeeps [.chip, .mbx, .drive, .lanes, .nv] s (execBootImageVerified slot s) := by
  unfold execBootImageVerified
  refine outKeeps_ite ?_ (outKeeps_next keeps_rfl)
  split
  · exact outKeeps_next (startImage_keeps _ _ _ (by decide) keeps_rfl)
  · have hd : ∀ x y, Keeps [.chip, .mbx, .drive, .lanes, .nv] s.dev { s.dev with nv := x, chip := y } := fun x _ =>
      keeps_set_chip (d := { s.dev with nv := x }) (by decide) (keeps_set_nv (by decide) keeps_rfl)
    exact outKeeps_ite (outKeeps_next (keeps_set_nv (by decide) keeps_rfl)) (outKeeps_next (noteFault_keeps _ _ (by decide)
      (setIrq_keeps _ _ (by decide) (hd _ _))))

theorem execBootWatchdog_keeps :
    OutKeeps [.chip, .mbx, .vlog, .acct, .jobs, .feed, .banks, .engines, .pos, .sheet, .fire, .links, .drive, .cams, .loop,
      .cz, .crcs, .dram, .lanes, .fabric, .red, .pwr, .therm, .prs, .nv, .sz] s (execBootWatchdog s) :=
  outKeeps_ite (outKeeps_next (startBoot_keeps _ (by decide) (keeps_set_nv (by decide) (inReset_keeps _ _ (by decide) keeps_rfl))))
    (outKeeps_next keeps_rfl)

theorem execBooted_keeps : OutKeeps [.chip, .mbx, .vlog, .fire, .lanes, .fabric, .red, .pwr, .nv] s (execBooted s) :=
  outKeeps_ite (outKeeps_next (bootUp_keeps _ (by decide) keeps_rfl)) (outKeeps_next keeps_rfl)

theorem execJournalCompaction_keeps : OutKeeps [.nv] s (execJournalCompaction s) := by
  unfold execJournalCompaction
  dsimp only
  split
  · exact outKeeps_next keeps_rfl
  · exact outKeeps_ite (outKeeps_next (keeps_set_nv (by decide) keeps_rfl)) (outKeeps_next keeps_rfl)

theorem execFlashProgramDone_keeps : OutKeeps [.mbx, .vlog, .lanes, .fabric, .nv] s (execFlashProgramDone s) := by
  unfold execFlashProgramDone
  extract_lets d _ e
  have he : Keeps [.mbx, .vlog, .lanes, .fabric, .nv] s.dev e := keeps_set_nv (by decide) keeps_rfl
  split
  · exact outKeeps_next keeps_rfl
  · split
    · extract_lets x
      have hx : Keeps [.mbx, .vlog, .lanes, .fabric, .nv] s.dev x := afterRecord_keeps _ _ (by decide) (putRecord_keeps _ _ (by decide) he)
      exact outKeeps_next (keeps_ite (finishWork_keeps _ _ _ (by decide) hx) hx)
    · exact outKeeps_next (putImage_keeps _ _ (by decide) he)
    · exact outKeeps_next he

theorem execFlashEraseDone_keeps : OutKeeps [.mbx, .vlog, .lanes, .fabric, .nv] s (execFlashEraseDone s) := by
  unfold execFlashEraseDone
  refine outKeeps_ite (outKeeps_next keeps_rfl) ?_
  split
  · exact outKeeps_next (eraseSlot_keeps _ _ (by decide) (keeps_set_nv (by decide) keeps_rfl))
  · exact outKeeps_next (keeps_ite
      (finishWork_keeps _ _ _ (by decide) (eraseSlot_keeps _ _ (by decide) (keeps_set_nv (by decide) keeps_rfl)))
      (eraseSlot_keeps _ _ (by decide) (keeps_set_nv (by decide) keeps_rfl)))
  · exact outKeeps_next keeps_rfl

theorem execCheckpointTimer_keeps : OutKeeps [.nv] s (execCheckpointTimer s) :=
  outKeeps_ite (outKeeps_ite (outKeeps_next (keeps_set_nv (by decide) keeps_rfl)) (outKeeps_next (captureCheckpoint_keeps _ (by decide)
    keeps_rfl))) (outKeeps_next keeps_rfl)

theorem execCheckpointCommitted_keeps : OutKeeps [.mbx, .vlog, .drive, .lanes, .fabric, .pwr, .nv] s (execCheckpointCommitted s) := by
  unfold execCheckpointCommitted
  dsimp only
  split
  · exact outKeeps_next keeps_rfl
  · exact outKeeps_ite (outKeeps_next (startPhase1_keeps _ (by decide) (commitCheckpoint_keeps _ _ (by decide) keeps_rfl)))
      (outKeeps_next (commitCheckpoint_keeps _ _ (by decide) keeps_rfl))

/-! Power -/

theorem execDomainDrained_keeps : OutKeeps [.mbx, .vlog, .drive, .lanes, .fabric, .pwr] s (execDomainDrained s) := by
  unfold execDomainDrained
  dsimp only
  split
  · exact outKeeps_next keeps_rfl
  · exact outKeeps_ite (outKeeps_ite
      (outKeeps_next (allQuiesced_keeps _ (by decide) (quiet_keeps _ _ _ (by decide) keeps_rfl)))
      (outKeeps_next (nextDomain_keeps _ (by decide) (quiet_keeps _ _ _ (by decide) keeps_rfl)))) (outKeeps_next keeps_rfl)

theorem execDrainTimeout_keeps : OutKeeps [.mbx, .vlog, .lanes, .fabric, .pwr] s (execDrainTimeout s) :=
  outKeeps_ite (outKeeps_next (refuseEntry_keeps _ _ _ (by decide) keeps_rfl)) (outKeeps_next keeps_rfl)

theorem execPwrState_keeps {c : Cmd} :
    OutKeeps [.mbx, .vlog, .feed, .banks, .engines, .drive, .cams, .loop, .cz, .crcs, .dram, .lanes, .fabric, .pwr,
      .nv] s (execPwrState c s) := by
  unfold execPwrState
  refine mervan_keeps (by decide) nofun (fun _ _ _ => doneKeeps_ite (no_keeps _ _ _ _ (by decide) keeps_rfl) (doneKeeps_ite
    (doneKeeps_ite (doneKeeps_after keeps_rfl (fun _ => wakeUp_keeps _ _ (by decide) keeps_rfl)) (ok_keeps _ _ (by decide) keeps_rfl)) ?_))
  split
  · exact doneKeeps_reply (setIrq_keeps _ _ (by decide) keeps_rfl)
  · exact doneKeeps_ite (doneKeeps_later (startPhase1_keeps _ (by decide) (keeps_set_pwr (by decide) keeps_rfl)))
      (doneKeeps_later (captureCheckpoint_keeps _ (by decide) (keeps_set_pwr (by decide) (keeps_set_pwr (by decide) keeps_rfl))))

theorem execPwrStatus_keeps {c : Cmd} : OutKeeps [.mbx, .vlog, .lanes, .fabric] s (execPwrStatus c s) :=
  mervan_keeps (by decide) nofun (fun _ _ _ => ok_keeps _ _ (by decide) keeps_rfl)

theorem execPwrIdle_keeps {c : Cmd} : OutKeeps [.mbx, .vlog, .lanes, .fabric, .red, .pwr] s (execPwrIdle c s) :=
  mervan_keeps (by decide) nofun (fun _ _ _ => done_keeps _ (by decide) (keeps_set_pwr (by decide)
    (keeps_ite keeps_rfl (wakeCores_keeps _ (by decide) keeps_rfl))))

theorem execIdleEntry_keeps : OutKeeps [.pwr] s (execIdleEntry s) :=
  outKeeps_ite (outKeeps_next (keeps_set_pwr (by decide) keeps_rfl)) (outKeeps_next keeps_rfl)

theorem execIdleExit_keeps : OutKeeps [.pwr] s (execIdleExit s) :=
  outKeeps_next (wakeCores_keeps _ (by decide) keeps_rfl)

theorem execWakeNLow_keeps :
    OutKeeps [.chip, .mbx, .vlog, .acct, .jobs, .feed, .banks, .engines, .pos, .sheet, .fire, .links, .drive, .cams, .loop,
      .cz, .crcs, .dram, .lanes, .fabric, .red, .pwr, .therm, .prs, .nv, .sz] s (execWakeNLow s) :=
  outKeeps_ite (outKeeps_next keeps_rfl) (outKeeps_ite
    (outKeeps_next (startBoot_keeps _ (by decide) (inReset_keeps _ _ (by decide) (keeps_ite (enterState_keeps _ (by decide) keeps_rfl) keeps_rfl))))
    (outKeeps_next (wakeSource_keeps _ _ (by decide) (keeps_ite (enterState_keeps _ (by decide) keeps_rfl) keeps_rfl))))

end

/-- Settles O36: each row by its own lemma above. -/
theorem systemRowsFrame : Obligations.SystemRowsFrame :=
  ⟨outKeeps_onlyChanges fun _ => execJournalCompaction_keeps,
    outKeeps_onlyChanges fun _ => execCheckpointTimer_keeps,
    fun _ _ _ => outKeeps_onlyChanges fun _ => execSz6WindowAccess_keeps,
    fun _ => outKeeps_onlyChanges fun _ => execIrqStatusWrite_keeps,
    fun _ => outKeeps_onlyChanges fun _ => execIrqHoldoffExpiry_keeps,
    outKeeps_onlyChanges fun _ => execMgmtBlockRead_keeps,
    fun _ => outKeeps_onlyChanges fun _ => execSealTest_keeps,
    outKeeps_onlyChanges fun _ => execSealLoopClosed_keeps,
    fun _ => outKeeps_onlyChanges fun _ => execPwrPadReleaseWrite_keeps,
    outKeeps_onlyChanges fun _ => execIdleEntry_keeps,
    outKeeps_onlyChanges fun _ => execIdleExit_keeps,
    fun _ => outKeeps_onlyChanges fun _ => execDiagClearWrite_keeps,
    fun _ => outKeeps_onlyChanges fun _ => execClockFault_keeps,
    fun _ => outKeeps_onlyChanges fun _ => execRelayTimeout_keeps,
    outKeeps_onlyChanges fun _ => execFlashProgramDone_keeps,
    outKeeps_onlyChanges fun _ => execFlashEraseDone_keeps,
    outKeeps_onlyChanges fun _ => execDrainTimeout_keeps,
    fun _ => outKeeps_onlyChanges fun _ => execSysNop_keeps,
    fun _ => outKeeps_onlyChanges fun _ => execSysIdentify_keeps,
    fun _ => outKeeps_onlyChanges fun _ => execSysRing_keeps,
    fun _ => outKeeps_onlyChanges fun _ => execSysResult_keeps,
    fun _ => outKeeps_onlyChanges fun _ => execSysViolationClear_keeps,
    fun _ => outKeeps_onlyChanges fun _ => execSysRoles_keeps,
    fun _ => outKeeps_onlyChanges fun _ => execSysPeek_keeps,
    fun _ _ => outKeeps_onlyChanges fun _ => execForagerCopy_keeps,
    fun _ => outKeeps_onlyChanges fun _ => execForagerStatus_keeps,
    fun _ => outKeeps_onlyChanges fun _ => execSzStatus_keeps,
    fun _ => outKeeps_onlyChanges fun _ => execMbxCmdTailWrite_keeps,
    fun _ => outKeeps_onlyChanges fun _ => execMbxRspHeadWrite_keeps,
    fun _ => outKeeps_onlyChanges fun _ => execMbxEvtHeadWrite_keeps,
    fun _ _ => outKeeps_onlyChanges fun _ => execMgmtBlockWrite_keeps,
    fun _ => outKeeps_onlyChanges fun _ => execCommandDone_keeps,
    fun _ _ => outKeeps_onlyChanges fun _ => execMervanRelayReceived_keeps,
    fun _ => outKeeps_onlyChanges fun _ => execPwrStatus_keeps,
    fun _ => outKeeps_onlyChanges fun _ => execSysFwUpdate_keeps,
    fun _ => outKeeps_onlyChanges fun _ => execSysNvErase_keeps,
    fun _ => outKeeps_onlyChanges fun _ => execSysNvSet_keeps,
    fun _ => outKeeps_onlyChanges fun _ => execSzMap_keeps,
    fun _ => outKeeps_onlyChanges fun _ => execSysPresence_keeps,
    fun _ => outKeeps_onlyChanges fun _ => execPrsCloseWrite_keeps,
    outKeeps_onlyChanges fun _ => execPresenceHold_keeps,
    outKeeps_onlyChanges fun _ => execPresenceWindowExpiry_keeps,
    fun _ => outKeeps_onlyChanges fun _ => execSysConfig_keeps,
    fun _ => outKeeps_onlyChanges fun _ => execVioRestored_keeps,
    fun _ => outKeeps_onlyChanges fun _ => execSysReseal_keeps,
    outKeeps_onlyChanges fun _ => execSealLoopOpen_keeps,
    fun _ => outKeeps_onlyChanges fun _ => execBootImageVerified_keeps,
    outKeeps_onlyChanges fun _ => execCheckpointCommitted_keeps,
    fun _ => outKeeps_onlyChanges fun _ => execPwrIdle_keeps,
    fun _ => outKeeps_onlyChanges fun _ => execSysViolationRead_keeps,
    fun _ => outKeeps_onlyChanges fun _ => execSysNvStatus_keeps,
    fun _ _ _ => outKeeps_onlyChanges fun _ => execBar2Access_keeps,
    fun _ _ => outKeeps_onlyChanges fun _ => execResetNRise_keeps,
    outKeeps_onlyChanges fun _ => execPwrGoodHigh_keeps,
    outKeeps_onlyChanges fun _ => execXoRestored_keeps,
    fun _ => outKeeps_onlyChanges fun _ => execSysLatchedRead_keeps,
    fun _ => outKeeps_onlyChanges fun _ => execSysPartnerRelease_keeps,
    fun _ _ => outKeeps_onlyChanges fun _ => execForagerReadDone_keeps,
    outKeeps_onlyChanges fun _ => execBooted_keeps,
    outKeeps_onlyChanges fun _ => execDomainDrained_keeps,
    fun _ => outKeeps_onlyChanges fun _ => execPwrWakeWrite_keeps,
    fun _ => outKeeps_onlyChanges fun _ => execMgmtAddressMatch_keeps,
    fun _ => outKeeps_onlyChanges fun _ => execPwrState_keeps,
    fun _ _ => outKeeps_onlyChanges fun _ => execRegisterWrite_keeps,
    outKeeps_onlyChanges fun _ => execResetNFall_keeps,
    outKeeps_onlyChanges fun _ => execPwrGoodLow_keeps,
    fun _ => outKeeps_onlyChanges fun _ => execVioLow_keeps,
    outKeeps_onlyChanges fun _ => execClockFaultReset_keeps,
    outKeeps_onlyChanges fun _ => execBootWatchdog_keeps,
    outKeeps_onlyChanges fun _ => execWakeNLow_keeps⟩

end Sys2Proof.Machine
end

section
/-! SUPPORT. No command stops the block: each branch of each row answers a next state that leaves the queue alone. -/
namespace Sys2Proof.Machine

/-- The outcome is a next state whose queue is the state's own. -/
def GoesOn (s : State) (o : Host.Outcome State Fault Refusal) : Prop := ∃ d, o = next s d

section
variable {s : State}

theorem goesOn_next {d : Device} : GoesOn s (next s d) := ⟨d, rfl⟩

theorem goesOn_ite {c : Prop} [Decidable c] {o o' : Host.Outcome State Fault Refusal} (ho : GoesOn s o) (ho' : GoesOn s o') :
    GoesOn s (if c then o else o') := by
  split <;> assumption

/-! The rows that look more than once at what they find -/

theorem execTrainingHoldExpiry_goesOn : GoesOn s (execTrainingHoldExpiry s) := by
  dsimp only [execTrainingHoldExpiry]
  refine goesOn_ite ?_ goesOn_next
  split <;> exact goesOn_next

theorem execDomainDrained_goesOn : GoesOn s (execDomainDrained s) := by
  dsimp only [execDomainDrained]
  split
  · exact goesOn_next
  · exact goesOn_ite (goesOn_ite goesOn_next goesOn_next) goesOn_next

theorem execAuditResend_goesOn {p : Port} : GoesOn s (execAuditResend p s) := by
  dsimp only [execAuditResend]
  split
  · exact goesOn_ite goesOn_next (goesOn_ite goesOn_next goesOn_next)
  · exact goesOn_next

theorem execFlashEraseDone_goesOn : GoesOn s (execFlashEraseDone s) := by
  dsimp only [execFlashEraseDone]
  refine goesOn_ite goesOn_next ?_
  split <;> exact goesOn_next

theorem execFlashProgramDone_goesOn : GoesOn s (execFlashProgramDone s) := by
  dsimp only [execFlashProgramDone]
  split
  · exact goesOn_next
  · split <;> exact goesOn_next

theorem execPairControlReceived_goesOn {m : PairControl} : GoesOn s (execPairControlReceived m s) := by
  dsimp only [execPairControlReceived]
  refine goesOn_ite goesOn_next ?_
  split <;> exact goesOn_next

theorem execHelloReceived_goesOn {p : Port} {k : Fin 2} {m : Hello} : GoesOn s (execHelloReceived p k m s) := by
  dsimp only [execHelloReceived]
  refine goesOn_ite goesOn_next (goesOn_ite goesOn_next ?_)
  split
  · exact goesOn_ite goesOn_next goesOn_next
  · exact goesOn_next

theorem execAuditReplyReceived_goesOn {p : Port} {mark : U16} {granted : Vector U32 4} {x : FrameEnd} :
    GoesOn s (execAuditReplyReceived p mark granted x s) := by
  dsimp only [execAuditReplyReceived]
  refine goesOn_ite goesOn_next ?_
  split
  · exact goesOn_next
  · exact goesOn_ite (goesOn_ite goesOn_next goesOn_next) goesOn_next

theorem execBandNoticePitch_goesOn : GoesOn s (execBandNoticePitch s) := by
  dsimp only [execBandNoticePitch]
  refine goesOn_ite goesOn_next (goesOn_ite goesOn_next (goesOn_ite goesOn_next ?_))
  split <;> exact goesOn_next

theorem execFireCellStart_goesOn {h : Head} {row : BitVec 2} : GoesOn s (execFireCellStart h row s) := by
  dsimp only [execFireCellStart]
  split
  · exact goesOn_next
  · refine goesOn_ite goesOn_next ?_
    split
    · exact goesOn_next
    · exact goesOn_ite goesOn_next goesOn_next

theorem execAdapterLineCell_goesOn {h : Head} {port : Bool} {cell : LineCell} : GoesOn s (execAdapterLineCell h port cell s) := by
  dsimp only [execAdapterLineCell]
  split
  · exact goesOn_next
  · exact goesOn_ite goesOn_next (goesOn_ite goesOn_next (goesOn_ite goesOn_next (goesOn_ite goesOn_next goesOn_next)))

theorem execStateFrameReceived_goesOn {f : WaggleFrame} {viaFabric : Bool} : GoesOn s (execStateFrameReceived f viaFabric s) := by
  dsimp only [execStateFrameReceived]
  refine goesOn_ite (goesOn_ite goesOn_next goesOn_next) (goesOn_ite goesOn_next ?_)
  split
  · exact goesOn_next
  · exact goesOn_ite goesOn_next goesOn_next

theorem execLineCommit_goesOn {h : Head} : GoesOn s (execLineCommit h s) := by
  dsimp only [execLineCommit]
  split
  · exact goesOn_next
  · refine goesOn_ite goesOn_next ?_
    split
    · exact goesOn_next
    · split <;> exact goesOn_next

theorem execChangeWpos_goesOn : GoesOn s (execChangeWpos s) := by
  dsimp only [execChangeWpos]
  split
  · exact goesOn_next
  · split
    · exact goesOn_next
    · refine goesOn_ite goesOn_next ?_
      split <;> exact goesOn_next

theorem execRepeatBoundary_goesOn : GoesOn s (execRepeatBoundary s) := by
  dsimp only [execRepeatBoundary]
  refine goesOn_ite goesOn_next ?_
  split
  · exact goesOn_ite goesOn_next goesOn_next
  · split
    · exact goesOn_ite goesOn_next goesOn_next
    · exact goesOn_next

theorem execPmbAlert_goesOn {alert : AlertRead} {result : BusResult} : GoesOn s (execPmbAlert alert result s) := by
  dsimp only [execPmbAlert]
  refine goesOn_ite goesOn_next ?_
  split
  · split
    · exact goesOn_ite goesOn_next goesOn_next
    · exact goesOn_next
  · exact goesOn_ite goesOn_next goesOn_next

theorem execReplayTimeout_goesOn {l : LinkId} : GoesOn s (execReplayTimeout l s) := by
  dsimp only [execReplayTimeout]
  split
  · split
    · exact goesOn_ite goesOn_next goesOn_next
    · exact goesOn_next
  · split
    · exact goesOn_ite goesOn_next goesOn_next
    · exact goesOn_next

theorem execCciTransactionDone_goesOn {bus : Bool} {result : BusResult} : GoesOn s (execCciTransactionDone bus result s) := by
  dsimp only [execCciTransactionDone]
  split
  · exact goesOn_next
  · refine goesOn_ite goesOn_next (goesOn_ite goesOn_next ?_)
    split
    · exact goesOn_next
    · exact goesOn_ite goesOn_next goesOn_next

theorem execRoleListenExpiry_goesOn : GoesOn s (execRoleListenExpiry s) := by
  dsimp only [execRoleListenExpiry]
  refine goesOn_ite goesOn_next ?_
  split <;> exact goesOn_ite goesOn_next (goesOn_ite goesOn_next goesOn_next)

theorem execPromotionSelfTestDone_goesOn {failed : Option SelfTest} : GoesOn s (execPromotionSelfTestDone failed s) := by
  dsimp only [execPromotionSelfTestDone]
  refine goesOn_ite goesOn_next (goesOn_ite ?_ ?_)
  · split <;> exact goesOn_next
  · refine goesOn_ite ?_ goesOn_next
    split <;> exact goesOn_next

theorem execMervanRelayReceived_goesOn {src : U8} {body : RelayBody} : GoesOn s (execMervanRelayReceived src body s) := by
  dsimp only [execMervanRelayReceived]
  refine goesOn_ite goesOn_next ?_
  split
  · exact goesOn_next
  · split
    · exact goesOn_next
    · split
      · exact goesOn_ite goesOn_next goesOn_next
      · exact goesOn_next
  · exact goesOn_ite goesOn_next goesOn_next

end

/-- Every row goes on. The rows stand together by the shape of their definitions: the Mervan commands, the host's writes, the rows that choose
by conditions alone, and the rows that look at what they find. -/
theorem exec_goesOn (i : Instr) (s : State) : GoesOn s (exec i s) := by
  cases i with
  | sysNop | sysIdentify | sysRing | sysConfig | sysResult | sysLatchedRead | sysViolationRead | sysViolationClear | sysPartnerRelease
  | sysRoles | sysPresence | sysReseal | sysFwUpdate | sysNvErase | sysPeek | sysNvStatus | sysNvSet | foragerCopy | foragerStatus
  | jobStage | jobCommit | jobAppend | jobCancel | jobStop | jobStatus | posConfig | posStatus | posSet | sheetConfig | lineConfig
  | lineInhibit | headLink | headStatus | headEcho | headSafe | headWitness | waveLoad | waveTrim | waveLimits | waveConfig | dacCalibrate
  | dacStatus | dacRotation | hvConfig | hvPower | hvLimits | hvStatus | screenStatus | subLoad | subRead | screenCapture | camConfig
  | camRun | camSettings | camSchedule | camStream | camRelease | camTables | camDarkCal | camWhiteCal | camFocus | camBand | camStats
  | camCci | camStatus | loopConfig | loopColour | modelLoad | loopEnable | loopStatus | loopRead | loopReset | loopCheckConfig
  | loopCheckRead | fabricConfig | fabricStatus | fabricRoutes | fabricFixId | fabricDiscover | fabricPing | redStatus | redAssign
  | redPromote | redDrill | redReadmit | redReconcile | pwrState | pwrStatus | pwrIdle | thmConfig | thmStatus | memStatus | memFreq
  | memTrain | memFence | memQos | memRowhammer | memScrub | memErrors | laneConfig | laneStatus | laneRetrain | lanePrbs | czCompress
  | czDecompress | czDictReset | czStatus | crcConfig | crcRead | crcWrite | crcEnable | szStatus | szMap => exact mervan_next _ _ _ _
  | mbxCmdTailWrite | mbxRspHeadWrite | mbxEvtHeadWrite | irqStatusWrite | pwrWakeWrite | pwrPadReleaseWrite | prsCloseWrite
  | diagClearWrite | registerWrite => exact goesOn_ite goesOn_next goesOn_next
  | idleExit | speedLimitRelease | headSafeNFall | adapterPowerUp | correctionRecordReceived | helloTimer =>
    exact goesOn_next
  | mgmtBlockRead | mgmtAddressMatch | bootWatchdog | booted | pwrGoodLow | clockFault | idleEntry | drainTimeout | presenceWindowExpiry
  | sealTest | sealLoopOpen | sealLoopClosed | sensorConversion | sensorFailed | sensorDisagreeTimeout | throttleRise | throttleFall
  | thermalTrip | thermalRestart | encoderWindowEnd | indexPulse | encoderStall | sheetOpenNoticeReceived | wposSampleBroadcast
  | positionLost | deputyTakeover | overRateDetect | nullLineKeepalive | scheduleReceived | bandCloseNoticeReceived | screenLine
  | shadowBankLoadDone | statusSilent | fhlCrcBurst | adapterHeadSafe | pgTimeout | pmbStretch | camTrigger | sensorSilent | csiLongPacket
  | csiCrcBurst | pipelineLine | calTimerTrigger | dictMessageReceived | streamNoticeReceived | compressorResume | crcSegment
  | refreshWindow | dqsTracking | scrubRead | dramCorrectedReport | deferredTrainingStart | eqFreeze | eqResume | electricalIdleEntry
  | electricalIdleNotice | wakeBurstTimer | wakeBurstMissing | laneAttemptStart | trainingPhaseTimeout | partnerT1Detected
  | peppercornTestEnd | rootElectionTimeout | idAssignment | linkChangeReceived | unreachableReceived | creditGrantTimer
  | timeUnlockTimeout | neighbourSilent | portFlap | partnerIsolated | roleAssignmentTimer | roleAssignmentReceived | heartbeatTimer
  | hboEdgeTimer | hbiEdge | witnessRequery | staleTimer | resetNFall | pwrGoodHigh | onDelayExpiry | cdrLock | pcieLinkUp | csiFrameStart
  | csiFrameEnd | decompressorResume | headSafeNRise | monitorVisit | hvStepGood | rotationTimer | cciSilent =>
    exact goesOn_ite goesOn_next goesOn_next
  | irqHoldoffExpiry | clockFaultReset | presenceHold | checkpointTimer | dramRequest | codeErrorBurst | snapshotTimer | refreshDue =>
    exact goesOn_ite (goesOn_ite goesOn_next goesOn_next) goesOn_next
  | resetNRise | wakeNLow | pdEdge | trainingWordReceived | joinReceived | assignReceived | pathSilent | receiverAdapted
  | wposSampleReceived | needFullReceived | lp11Detected =>
    exact goesOn_ite goesOn_next (goesOn_ite goesOn_next goesOn_next)
  | vioLow | vioRestored | encoderCount | lossOfSignal | xoRestored =>
    exact goesOn_ite goesOn_next (goesOn_ite goesOn_next (goesOn_ite goesOn_next goesOn_next))
  | mr4Read =>
    exact goesOn_ite (goesOn_ite goesOn_next (goesOn_ite goesOn_next goesOn_next)) goesOn_next
  | mgmtBlockWrite =>
    exact goesOn_ite (goesOn_ite goesOn_next (goesOn_ite goesOn_next (goesOn_ite goesOn_next goesOn_next))) goesOn_next
  | encoderFaulted | heartbeatReceived | dataFrameReceived =>
    exact goesOn_ite goesOn_next (goesOn_ite goesOn_next (goesOn_ite goesOn_next (goesOn_ite goesOn_next goesOn_next)))
  | captureTimeout | relayTimeout | readyReceived | cancelReceived | statusReportReceived | statusWitnessReceived | adapterFireTrigger
  | proxyRecordSend | proxyRecordReceived | spanRecordReceived | loopSolveDone | stripAnalysis =>
    dsimp only [exec, execCaptureTimeout, execRelayTimeout, execReadyReceived, execCancelReceived, execStatusReportReceived,
      execStatusWitnessReceived, execAdapterFireTrigger, execProxyRecordSend, execProxyRecordReceived, execSpanRecordReceived,
      execLoopSolveDone, execStripAnalysis]
    split <;> exact goesOn_next
  | pdConfirmTimeout | goReceived | goAckReceived | abortReceived | pmbusStatusPoll | pmbusTelemetryPoll | pmbSilent | cciStretch
  | stripRecordSend | timeReqTimer | roleHolderTimeout | mirrorAckTimer =>
    dsimp only [exec, execPdConfirmTimeout, execGoReceived, execGoAckReceived, execAbortReceived, execPmbusStatusPoll,
      execPmbusTelemetryPoll, execPmbSilent, execCciStretch, execStripRecordSend, execTimeReqTimer, execRoleHolderTimeout,
      execMirrorAckTimer]
    split
    · exact goesOn_ite goesOn_next goesOn_next
    · exact goesOn_next
  | checkpointCommitted | journalCompaction | bandBoundary | shadowBankLoad | statusEchoReceived | adapterReportTimer | handover
  | trainingDone | reconciliationDone | blockCompressed =>
    dsimp only [exec, execCheckpointCommitted, execJournalCompaction, execBandBoundary, execShadowBankLoad, execStatusEchoReceived,
      execAdapterReportTimer, execHandover, execTrainingDone, execReconciliationDone, execBlockCompressed]
    split
    · exact goesOn_next
    · exact goesOn_ite goesOn_next goesOn_next
  | repeatDue | creditReceived | creditInitReceived | timeReqReceived =>
    dsimp only [exec, execRepeatDue, execCreditReceived, execCreditInitReceived, execTimeReqReceived]
    refine goesOn_ite goesOn_next ?_
    split <;> exact goesOn_next
  | decisionPoint | abortDeadline | controlReplyTimeout | witnessDecision =>
    dsimp only [exec, execDecisionPoint, execAbortDeadline, execControlReplyTimeout, execWitnessDecision]
    split
    · exact goesOn_next
    · exact goesOn_ite goesOn_next (goesOn_ite goesOn_next goesOn_next)
  | blockFetch | timeRespReceived | handoverReceived | handoverReplyReceived =>
    dsimp only [exec, execBlockFetch, execTimeRespReceived, execHandoverReceived, execHandoverReplyReceived]
    refine goesOn_ite goesOn_next ?_
    split
    · exact goesOn_next
    · exact goesOn_ite goesOn_next goesOn_next
  | commandDone | srcSeqGapTimeout | foragerReadDone =>
    dsimp only [exec, execCommandDone, execSrcSeqGapTimeout, execForagerReadDone]
    split
    · exact goesOn_next
    · split <;> exact goesOn_next
  | bar2Access | bootImageVerified | sz6WindowAccess =>
    dsimp only [exec, execBar2Access, execBootImageVerified, execSz6WindowAccess]
    refine goesOn_ite ?_ goesOn_next
    split
    · exact goesOn_next
    · exact goesOn_ite goesOn_next goesOn_next
  | ackTimer | replayBudget =>
    dsimp only [exec, execAckTimer, execReplayBudget]
    split <;> exact goesOn_ite goesOn_next goesOn_next
  | blockDecompressed | calibrationRunDone =>
    dsimp only [exec, execBlockDecompressed, execCalibrationRunDone]
    split
    · exact goesOn_next
    · refine goesOn_ite goesOn_next ?_
      split <;> exact goesOn_next
  | epochRecordCommitted | statusIdentReceived =>
    dsimp only [exec, execEpochRecordCommitted, execStatusIdentReceived]
    split
    · exact goesOn_next
    · exact goesOn_ite goesOn_next (goesOn_ite goesOn_next (goesOn_ite goesOn_next goesOn_next))
  | auditReceived | mirrorFrameReceived =>
    dsimp only [exec, execAuditReceived, execMirrorFrameReceived]
    refine goesOn_ite goesOn_next ?_
    split
    · exact goesOn_next
    · exact goesOn_ite goesOn_next (goesOn_ite goesOn_next goesOn_next)
  | adapterFireCell | adapterControlCell =>
    dsimp only [exec, execAdapterFireCell, execAdapterControlCell]
    split
    · exact goesOn_next
    · refine goesOn_ite goesOn_next (goesOn_ite goesOn_next ?_)
      split <;> exact goesOn_next
  | ackReceived | nakReceived =>
    dsimp only [exec, execAckReceived, execNakReceived]
    split
    · refine goesOn_ite goesOn_next ?_
      split <;> exact goesOn_next
    · refine goesOn_ite goesOn_next ?_
      split <;> exact goesOn_next
  | trainingHoldExpiry => exact execTrainingHoldExpiry_goesOn
  | domainDrained => exact execDomainDrained_goesOn
  | auditResend => exact execAuditResend_goesOn
  | flashEraseDone => exact execFlashEraseDone_goesOn
  | flashProgramDone => exact execFlashProgramDone_goesOn
  | pairControlReceived => exact execPairControlReceived_goesOn
  | helloReceived => exact execHelloReceived_goesOn
  | auditReplyReceived => exact execAuditReplyReceived_goesOn
  | bandNoticePitch => exact execBandNoticePitch_goesOn
  | fireCellStart => exact execFireCellStart_goesOn
  | adapterLineCell => exact execAdapterLineCell_goesOn
  | stateFrameReceived => exact execStateFrameReceived_goesOn
  | lineCommit => exact execLineCommit_goesOn
  | changeWpos => exact execChangeWpos_goesOn
  | repeatBoundary => exact execRepeatBoundary_goesOn
  | pmbAlert => exact execPmbAlert_goesOn
  | replayTimeout => exact execReplayTimeout_goesOn
  | cciTransactionDone => exact execCciTransactionDone_goesOn
  | roleListenExpiry => exact execRoleListenExpiry_goesOn
  | promotionSelfTestDone => exact execPromotionSelfTestDone_goesOn
  | mervanRelayReceived => exact execMervanRelayReceived_goesOn

/-- Settles O47: an outcome that goes on is the next state of its device. -/
theorem everyCommandAnswersANextState : Obligations.EveryCommandAnswersANextState :=
  fun c s => exec_goesOn c s

end Sys2Proof.Machine
end

section
/-! SUPPORT. What a row's parts write to DRAM: each keeps the canonical form of its bytes and changes none outside the places named. -/
namespace Sys2Proof.Machine

/-- The DRAM's canonical form is kept, and no byte outside some places changes. -/
def Writes (ps : List (Nat × Nat)) (d e : Device) : Prop :=
  d.dram.data.wf = true → e.dram.data.wf = true ∧ SameOutside ps d e

/-- Every field but the DRAM. -/
def offDram : List DevField :=
  [.chip, .mbx, .vlog, .acct, .jobs, .feed, .banks, .engines, .pos, .sheet, .fire, .links, .adapters, .drive, .cams, .loop, .cz, .crcs, .lanes,
    .fabric, .red, .pwr, .therm, .prs, .nv, .sz]

section
variable {ps : List (Nat × Nat)} {a d e : Device}

theorem writes_rfl : Writes ps d d := fun hw => ⟨hw, fun _ _ => rfl⟩

theorem Writes.trans (h : Writes ps a d) (k : Writes ps d e) : Writes ps a e := fun hw =>
  have ⟨hd, ha⟩ := h hw
  have ⟨he, hb⟩ := k hd
  ⟨he, fun x hx => (hb x hx).trans (ha x hx)⟩

theorem Writes.data (h : Writes ps a d) (he : e.dram.data = d.dram.data) : Writes ps a e :=
  h.trans fun hw => ⟨he ▸ hw, fun _ _ => by rw [he]⟩

theorem Writes.keeps (h : Writes ps a d) (hk : Keeps offDram d e) : Writes ps a e :=
  h.data (congrArg Dram.data (hk.same .dram (by decide)))

theorem writes_ite {c : Prop} [Decidable c] (hd : Writes ps a d) (he : Writes ps a e) : Writes ps a (if c then d else e) := by
  split <;> assumption

theorem writes_ite_snd {α : Type} {c : Prop} [Decidable c] {p q : α × Device} (hp : Writes ps a p.2) (hq : Writes ps a q.2) :
    Writes ps a (if c then p else q).2 := by
  split <;> assumption

theorem writes_foldl {α : Type} {f : Device → α → Device} {l : List α} (hf : ∀ d, ∀ x ∈ l, Writes ps d (f d x)) (hd : Writes ps a d) :
    Writes ps a (l.foldl f d) := by
  induction l generalizing d with
  | nil => exact hd
  | cons x l ih => exact ih (fun d y hy => hf d y (List.mem_cons_of_mem x hy)) (hd.trans (hf d x List.mem_cons_self))

theorem writes_pair {α : Type} {p : α × Device} {x : α} (he : p = (x, d)) (h : Writes ps a p.2) : Writes ps a d := by
  subst he
  exact h

/-! Writes -/

theorem writeGranules_wf (source fuel n : Nat) (bs : List U8) (hw : d.dram.data.wf = true) :
    (writeGranules source fuel n bs d).dram.data.wf = true := by
  induction fuel generalizing n bs d with
  | zero => exact hw
  | succ fuel ih =>
    unfold writeGranules
    dsimp only
    split
    · exact hw
    · exact ih _ _ (writeGranule_wf _ _ _ _ hw)

theorem dramPut_wf (source n : Nat) (bs : List U8) (hw : d.dram.data.wf = true) : (dramPut source n bs d).dram.data.wf = true := by
  unfold dramPut
  split
  · exact hw
  · rw [logMirror_dram]
    exact writeGranules_wf _ _ _ _ ((touch_bytes true n bs.length d).data ▸ hw)

/-- A range that lies within the places, in the sense that what is outside them is outside it. -/
def Inside (ps : List (Nat × Nat)) (n len : Nat) : Prop := ∀ x, (∀ p ∈ ps, x < p.1 ∨ p.1 + p.2 ≤ x) → x < n ∨ n + len ≤ x

/-- A range within one of the places. -/
theorem inside_of {n len : Nat} {p : Nat × Nat} (hp : p ∈ ps) (hlow : p.1 ≤ n) (hhigh : n + len ≤ p.1 + p.2) : Inside ps n len := by
  intro x hx
  have := hx p hp
  omega

theorem inside_self {n len : Nat} (hp : (n, len) ∈ ps) : Inside ps n len := inside_of hp (Nat.le_refl _) (Nat.le_refl _)

theorem Writes.put {source n : Nat} {bs : List U8} (h : Writes ps a d) (hin : Inside ps n bs.length) : Writes ps a (dramPut source n bs d) :=
  h.trans fun hw => ⟨dramPut_wf _ _ _ hw, fun x hx => dramPut_outside _ _ _ _ hw x (hin x hx)⟩

theorem Writes.write {source n : Nat} {bs : List U8} (h : Writes ps a d) (hin : Inside ps n bs.length) :
    Writes ps a (dramWrite source n bs d) := by
  unfold dramWrite
  exact writes_ite (h.data rfl) (h.put hin)

/-! Operations that read the DRAM or change its settings or counts -/

theorem Writes.touch {w : Bool} {n k : Nat} (h : Writes ps a d) : Writes ps a (touch w n k d) := h.data (touch_bytes w n k d).data

theorem Writes.see {n k : Nat} (h : Writes ps a d) : Writes ps a (dramSee n k d) := writes_ite h h.touch

theorem Writes.check {f : CheckFault} {g source : Nat} (h : Writes ps a d) : Writes ps a (checkFault f g source d) := by
  have hraise : ∀ n ws e, Writes ps a e → Writes ps a (raise n ws e) := fun _ _ _ he => he.keeps (raise_keeps _ _ _ (by decide) keeps_rfl)
  cases f with
  | single => exact h.data rfl
  | double => exact hraise _ _ _ (h.data rfl)
  | misread => exact hraise _ _ _ (h.data rfl)
  | line => exact hraise _ _ _ (h.data rfl)

/-- The mirror reads the range that it sends next; where it goes leaves the DRAM. -/
theorem Writes.mirrorStep (h : Writes ps a d) : Writes ps a (mirrorStep d).2 := by
  have hmark : ∀ n k f, Writes ps a (modRed (dramSee n k d) f) := fun _ _ _ => h.see.keeps (modRed_keeps _ _ (by decide) keeps_rfl)
  unfold Machine.mirrorStep
  split
  · exact h
  · dsimp only
    split
    · exact writes_ite_snd (hmark _ _ _) (writes_ite_snd ((hmark _ _ _).keeps (wagSeq_keeps _ _ _ (by decide) keeps_rfl)) h)
    · split
      · exact writes_ite_snd (hmark _ _ _)
          (writes_ite_snd ((hmark _ _ _).keeps (sendTo_keeps _ _ _ _ _ _ (by decide) keeps_rfl)) h)
      · exact h
    · exact h

theorem Writes.mirrorRun (fuel : Nat) (h : Writes ps a d) : Writes ps a (mirrorRun fuel d) := by
  induction fuel generalizing d with
  | zero => exact h
  | succ fuel ih =>
    unfold Machine.mirrorRun
    split
    · exact ih (writes_pair ‹_› h.mirrorStep)
    · exact writes_pair ‹_› h.mirrorStep

theorem Writes.pumpMirror (h : Writes ps a d) : Writes ps a (pumpMirror d) := writes_ite (h.mirrorRun 64) h

/-- A request's checks, its bytes or its read, and the mirror's run after it. -/
theorem Writes.serve {r : DramReq} (h : Writes ps a d) (hin : Inside ps r.addr (reqSize r)) : Writes ps a (serve r d) := by
  have hf : Writes ps a ((faultsOf d r).foldl (fun d e => checkFault e.2 e.1 r.source.val d) d) :=
    writes_foldl (fun _ _ _ => writes_rfl.check) h
  unfold reqSize at hin
  unfold Machine.serve
  dsimp only
  split
  · next b hb => exact (hf.put (by simpa only [hb] using hin)).pumpMirror
  · exact writes_ite (hf.touch.keeps (completeRead_keeps _ _ _ (by decide) keeps_rfl)) hf.touch

/-- A piece of a forager copy to the host reads what it posts. -/
theorem Writes.issuePiece {j : ForagerJob} {x : Nat × Nat × Nat × Nat × Bool} {b : Fin 64} (h : Writes ps a d) :
    Writes ps a (issuePiece j x b d) := by
  unfold Machine.issuePiece
  dsimp only
  refine writes_ite ?_ (h.data rfl)
  split
  · exact h.data rfl
  · exact (h.see (n := x.2.1) (k := x.2.2.1)).data rfl

theorem Writes.issueReads (fuel : Nat) (h : Writes ps a d) : Writes ps a (issueReads fuel d) := by
  induction fuel generalizing d with
  | zero => exact h
  | succ fuel ih =>
    unfold Machine.issueReads
    split
    · exact h
    · split
      · refine writes_ite (writes_ite h (ih h.issuePiece)) ?_
        split
        · exact ih h.issuePiece
        · exact h
      · exact h

theorem Writes.seeTile {n : Option Nat} (h : Writes ps a d) : Writes ps a (seeTile n d) := by
  cases n with
  | none => exact h
  | some n => exact h.see

/-- The tile queue reads its blocks. -/
theorem Writes.runTiles (fuel : Nat) (h : Writes ps a d) : Writes ps a (runTiles fuel d) := by
  induction fuel generalizing d with
  | zero => exact h
  | succ fuel ih =>
    unfold Machine.runTiles
    refine writes_ite h ?_
    split
    · exact h
    · next t n rest _ =>
      dsimp only
      split
      · exact h.data rfl
      · refine ih (Writes.keeps ?_ (putTile_keeps _ _ _ _ (by decide) keeps_rfl))
        exact (h.seeTile (n := n)).data rfl

theorem Writes.resumeTiles (h : Writes ps a d) : Writes ps a (resumeTiles d) :=
  Writes.keeps ((h.data (e := { d with feed := { d.feed with tileHeld := false } }) rfl).runTiles d.feed.tileWork.length)
    (noteReleased_keeps _ (by decide) keeps_rfl)

end

/-! The length of what is written -/

theorem leBytes_length (n v : Nat) : (leBytes n v).length = n := by simp [leBytes]

theorem flatMap_length_const {α : Type} {l : List α} {f : α → List U8} {n : Nat} (hf : ∀ x ∈ l, (f x).length = n) :
    (l.flatMap f).length = n * l.length := by
  rw [List.length_flatMap, List.map_congr_left hf, List.map_const', List.sum_replicate, smul_eq_mul, mul_comm]

theorem memRead_length (m : Mem) (n k : Nat) : (memRead m n k).length = k := by simp [memRead]

theorem padTo_length {n : Nat} {bs : List U8} (h : bs.length ≤ n) : (padTo n bs).length = n := by
  simp [padTo]
  omega

theorem wordBytes_length (ws : List U32) : (wordBytes ws).length = 4 * ws.length := flatMap_length_const fun _ _ => leBytes_length _ _

theorem indexBytes_length (l : List Nat) : (indexBytes l).length = 8 + 8 * l.length := by
  simp only [indexBytes, List.length_append, leBytes_length, flatMap_length_const fun x (_ : x ∈ l) => leBytes_length 8 x]
  rfl

theorem counters_length (l : List U64) : (counters l).length = 8 * l.length := flatMap_length_const fun _ _ => leBytes_length _ _

theorem sectionHead_length (n k m : Nat) : (sectionHead n k m).length = 8 := by simp [sectionHead, leBytes_length]

theorem latchedBytes_length (k : Nat) (l : LatchedSet) : (latchedBytes k l).length = 8744 := by
  unfold latchedBytes
  extract_lets v
  simp only [List.length_append, leBytes_length, sectionHead_length]
  simp only [List.length_flatMap, counters_length, List.length_append, List.length_cons, List.length_nil, Vector.length_toList]
  simp only [List.map_const', List.sum_replicate, List.length_range, List.length_replicate, smul_eq_mul]

theorem ventryBytes_length (e : VEntry) : (ventryBytes e).length = 32 := by simp [ventryBytes, leBytes_length]

theorem checkBytes_length (r : CheckResult) : (checkBytes r).length = 16 := by simp [checkBytes, leBytes_length]

theorem memErrorBytes_length (e : MemError) : (memErrorBytes e).length = 32 := by
  simp [memErrorBytes, leBytes_length, wordBytes_length, w64]

theorem readBin_length (x : Colour) (what b : Nat) :
    (readBin x what b).length = if what = 0 then 2 else if what = 2 then 1 else 4 := by
  simp only [readBin, apply_ite List.length, leBytes_length, List.length_singleton]
  split_ifs <;> omega

theorem reconcileWords_length (d : Device) (rs : List (Nat × Nat × Nat)) : (reconcileWords d rs).length ≤ 120 := by
  have hzip : (rs.zip (List.finRange 40)).length ≤ 40 := by simp
  simp only [reconcileWords, List.length_flatMap, List.length_cons, List.length_nil, List.map_const', List.sum_replicate, smul_eq_mul]
  omega

end Sys2Proof.Machine
end

section
/-! SUPPORT. What a command writes to DRAM: its checks and its response write nothing, so that only its body counts. -/
namespace Sys2Proof.Machine

/-- What a body does keeps the canonical form of the DRAM's bytes and changes none outside some places, then and after its response. -/
def DoneWrites (ps : List (Nat × Nat)) (a : Device) : Done → Prop
  | .reply _ d => Writes ps a d
  | .later _ d => Writes ps a d
  | .after _ d f => Writes ps a d ∧ ∀ e, Writes ps e (f e)

section
variable {ps : List (Nat × Nat)} {a d : Device} {g : Sig} {c : Cmd} {body : Cmd → List Int → Device → Done}

theorem doneWrites_ite {p : Prop} [Decidable p] {x y : Done} (hx : DoneWrites ps a x) (hy : DoneWrites ps a y) :
    DoneWrites ps a (if p then x else y) := by
  split <;> assumption

theorem doneWrites_no {st : Status} {r : Reason} {n : Nat} : DoneWrites ps d (no d st r n) := writes_rfl

theorem doneWrites_poisoned {n : Nat} : DoneWrites ps d (poisoned n d) := writes_rfl

theorem doneWrites_of_keeps {x : Done} (h : DoneKeeps offDram a x) : DoneWrites ps a x := by
  cases x with
  | reply r d => exact writes_rfl.keeps h
  | later w d => exact writes_rfl.keeps h
  | after r d f => exact ⟨writes_rfl.keeps h.1, fun e => writes_rfl.keeps (h.2 e)⟩

theorem Writes.done {x : Done} (h : Writes ps a d) (hx : DoneWrites ps d x) : DoneWrites ps a x := by
  cases x with
  | reply r e => exact h.trans hx
  | later w e => exact h.trans hx
  | after r e f => exact ⟨h.trans hx.1, hx.2⟩

theorem settle_writes {x : Done} (h : DoneWrites ps a x) : Writes ps a (settle g c x) := by
  have hc : ∀ r e, Keeps offDram e (complete g c r e) := fun _ _ => complete_keeps _ _ _ _ (by decide) keeps_rfl
  cases x with
  | reply r d => exact Writes.keeps h (hc _ _)
  | later w d => exact Writes.keeps h (await_keeps _ _ _ _ (by decide) keeps_rfl)
  | after r d f => exact (h.1.keeps (hc _ _)).trans (h.2 _)

section
variable (hb : ∀ c a d, DoneWrites ps d (body c a d))
include hb

theorem checkAndRun_writes (args : List Int) : DoneWrites ps d (checkAndRun g c body args d) := by
  unfold checkAndRun
  have hrun : DoneWrites ps d (body c args (readRanges g args d)) := (writes_rfl.data (readRanges_bytes g args d).data).done (hb _ _ _)
  exact doneWrites_ite doneWrites_no (doneWrites_ite doneWrites_no (doneWrites_ite doneWrites_no (doneWrites_ite doneWrites_no
    (doneWrites_ite doneWrites_no (doneWrites_ite doneWrites_no (doneWrites_ite doneWrites_no (doneWrites_ite doneWrites_no
    (doneWrites_ite doneWrites_no hrun))))))))

theorem checked_writes : DoneWrites ps d (checked g c body d) := by
  unfold checked
  refine doneWrites_ite doneWrites_no (doneWrites_ite doneWrites_no (doneWrites_ite
    (doneWrites_of_keeps (relayCommand_keeps _ _ _ (by decide) keeps_rfl)) (doneWrites_ite doneWrites_no (doneWrites_ite doneWrites_no ?_))))
  split
  · exact doneWrites_no
  · exact doneWrites_no
  · exact checkAndRun_writes hb _

theorem accept_writes : Writes ps d (accept g c body d) :=
  writes_ite (writes_rfl.keeps (answer_keeps _ _ _ (by decide) keeps_rfl)) (settle_writes (checked_writes hb))

/-- A command that is not taken is answered, and logged as a violation where Table 14.4 says so; one that is taken is accepted. -/
theorem enter_writes : Writes ps d (enter g c body d) := by
  have ht : ∀ st r e, Keeps offDram d e → Writes ps d (tagless g c st r e) := fun _ _ _ he =>
    writes_rfl.keeps (tagless_keeps _ _ _ _ _ (by decide) he)
  have hv : ∀ code b src ans, Keeps offDram d (violation code b src ans d) := fun _ _ _ _ => violation_keeps _ _ _ _ _ (by decide) keeps_rfl
  unfold enter
  refine writes_ite (ht _ _ _ (hv _ _ _ _)) (writes_ite (ht _ _ _ (hv _ _ _ _)) (writes_ite (ht _ _ _ keeps_rfl) ?_))
  split
  · exact writes_ite (writes_rfl.keeps (duplicate_keeps _ _ _ _ (by decide) keeps_rfl)) (ht _ _ _ (hv _ _ _ _))
  · exact writes_ite (ht _ _ _ (hv _ _ _ _)) (accept_writes hb)

theorem mervan_writes {s : State} : Answers s (Writes ps s.dev) (mervan g body c s) := by
  unfold mervan
  split
  · exact answers_next writes_rfl
  · next d hd =>
    exact answers_next ((writes_rfl.data (congrArg Dram.data (takeFront_dram hd))).trans (enter_writes hb))

end
end

end Sys2Proof.Machine
end

section
/-! SUPPORT. Where the rows that write to DRAM, and the parts of longer rows that do, store (R187, R248, R304, R316, R357, R434). -/
namespace Sys2Proof.Machine

theorem storesWithin_of {ps : List (Nat × Nat)} {i : Instr} {s : State} (h : Answers s (Writes ps s.dev) (exec i s)) : StoresWithin i s ps :=
  fun hw _ ht => ((h.dev ht).2 hw).2

/-! Rows -/

section
variable {s : State}

theorem bar2Access_storesWithin (offset : Nat) (write : Option (List U8)) (len : Nat) :
    StoresWithin (.bar2Access offset write len) s [(s.dev.mbx.bar2Base + offset, len)] := by
  refine storesWithin_of (answers_ite ?_ (answers_next writes_rfl))
  cases write with
  | some b =>
    exact answers_next (writes_rfl.write (inside_of List.mem_cons_self (Nat.le_refl _) (by simp)))
  | none =>
    exact answers_ite (answers_next (writes_rfl.data rfl))
      (answers_next (writes_rfl.touch.keeps (completeRead_keeps _ _ _ (by decide) keeps_rfl)))

theorem dramRequest_storesWithin (r : DramReq) : StoresWithin (.dramRequest r) s [(r.addr, reqSize r)] :=
  storesWithin_of (answers_ite (answers_ite (answers_next (writes_rfl.data rfl))
    (answers_next (writes_rfl.serve (inside_self List.mem_cons_self)))) (answers_next writes_rfl))

theorem mirrorFrameReceived_storesWithin (f : WaggleFrame) (addr : U64) (data : List U8) :
    StoresWithin (.mirrorFrameReceived f addr data) s [(addr.toNat, data.length)] := by
  refine storesWithin_of ?_
  show Answers s _ (execMirrorFrameReceived f addr data s)
  unfold execMirrorFrameReceived
  refine answers_ite (answers_next writes_rfl) ?_
  have hw := fun kind ok => takeWaggle_keeps (ch := offDram) kind ok f s.dev (by decide) keeps_rfl
  split
  · exact answers_next (writes_rfl.keeps (keeps_pair ‹_› (hw _ _)))
  · next d he =>
    have hd : Writes [(addr.toNat, data.length)] s.dev d := writes_rfl.keeps (keeps_pair he (hw _ _))
    exact answers_ite (answers_next hd) (answers_ite (answers_next (hd.write (inside_self List.mem_cons_self)))
      (answers_next (hd.keeps (violation_keeps _ _ _ _ _ (by decide) keeps_rfl))))

/-- The bytes that a read returns go to its place, or on to another node. -/
theorem foragerTake_writes {r : ForagerRead} {j : ForagerJob} {data : Option (List U8)} {d : Device} :
    Writes [(r.dest, r.len)] d (foragerTake r j data d) := by
  cases data with
  | none => exact writes_rfl.data rfl
  | some b =>
    have hlen : (padTo r.len (b.take r.len)).length = r.len := padTo_length (by simp)
    exact Writes.data (writes_ite (writes_rfl.write (hlen.symm ▸ inside_self List.mem_cons_self))
      (writes_rfl.keeps (sendTo_keeps _ _ _ _ _ _ (by decide) keeps_rfl))) rfl

theorem foragerReadDone_storesWithin (buffer : Fin 64) (data : Option (List U8)) :
    StoresWithin (.foragerReadDone buffer data) s
      (((s.dev.mbx.buffers.find? (fun r => r.buffer == buffer)).toList).map (fun r => (r.dest, r.len))) := by
  refine storesWithin_of ?_
  show Answers s _ (execForagerReadDone buffer data s)
  unfold execForagerReadDone
  extract_lets d
  split
  · exact answers_next writes_rfl
  · next r hr =>
    rw [hr]
    extract_lets e
    have he : Writes [(r.dest, r.len)] d e := writes_rfl.data rfl
    split
    · exact answers_next he
    · next j hj =>
      extract_lets k x
      have hx : Writes [(r.dest, r.len)] d x := Writes.issueReads _ (Writes.data (he.trans foragerTake_writes) rfl)
      refine answers_next ?_
      split
      · exact Writes.keeps hx (endForager_keeps _ _ (by decide) keeps_rfl)
      · exact hx

/-- A block goes to the job's place, and the index to its own when the block is the job's last. -/
theorem compressBlock_writes {ps : List (Nat × Nat)} {engine : Fin 2} {j : CzJob} {d : Device}
    (hdest : Inside ps j.dest (fkzCompress (dramRead d j.src (min 65536 j.left)) j.depth).length)
    (hindex : j.left ≤ 65536 → j.index ≠ 0 → Inside ps j.index (8 + 8 * (j.blocks.length + 1))) :
    Writes ps d (compressBlock engine j d) := by
  unfold compressBlock
  extract_lets n
  split
  · exact writes_rfl.keeps (endCompress_keeps _ _ _ (by decide) keeps_rfl)
  · next b m0 stored _ counted k _ taken indexed _ _ =>
    have htaken : Writes ps d taken := Writes.data (writes_rfl.see.write hdest) rfl
    have hindexed (hk : k.left = 0) : Writes ps d indexed := by
      unfold indexed
      split
      · exact htaken
      · next hne =>
        have hlen : (indexBytes k.blocks).length = 8 + 8 * (j.blocks.length + 1) := by simp [indexBytes_length, k]
        have hlast : j.left ≤ 65536 := by simp only [k, n] at hk; omega
        exact htaken.write (hlen ▸ hindex hlast hne)
    split
    · next hk => exact (hindexed hk).keeps (endCompress_keeps _ _ _ (by decide) keeps_rfl)
    · exact htaken

theorem blockCompressed_storesWithin (engine : Fin 2) :
    StoresWithin (.blockCompressed engine) s (match s.dev.cz.jobs.find? (fun j => j.engine == some engine) with
      | some j => [(j.dest, (fkzCompress (dramRead s.dev j.src (min 65536 j.left)) j.depth).length)]
          ++ (if j.left ≤ 65536 ∧ j.index ≠ 0 then [(j.index, 8 + 8 * (j.blocks.length + 1))] else [])
      | none => []) := by
  refine storesWithin_of ?_
  show Answers s _ (execBlockCompressed engine s)
  simp only [execBlockCompressed]
  cases s.dev.cz.jobs.find? (fun j => j.engine == some engine) with
  | none => exact answers_next writes_rfl
  | some j =>
    refine answers_ite (answers_next (compressBlock_writes ?_ fun hlast hne => ?_)) (answers_next writes_rfl)
    · exact inside_self (List.mem_append_left _ List.mem_cons_self)
    · exact inside_self (List.mem_append_right _ (by simp [hlast, hne]))

theorem decompressorResume_storesWithin (engine : Fin 8) (free : Nat) : StoresWithin (.decompressorResume engine free) s [] :=
  storesWithin_of (answers_ite (answers_next writes_rfl) (answers_next (writes_ite (Writes.resumeTiles (writes_rfl.data rfl))
    (writes_rfl.data rfl))))

theorem czDecompress_storesWithin (c : Cmd) : StoresWithin (.czDecompress c) s [] := by
  refine storesWithin_of (mervan_writes fun c a d => ?_)
  refine doneWrites_ite doneWrites_poisoned (doneWrites_ite doneWrites_no (doneWrites_ite doneWrites_no ?_))
  dsimp only
  split
  · exact doneWrites_poisoned
  · exact writes_rfl.see.data rfl

end

/-! Parts of longer rows -/

section
variable {ps : List (Nat × Nat)} {d : Device}

theorem outputOf_data (r : Fkz) (n : Nat) : (outputOf r n d).2.dram.data = d.dram.data := by
  unfold outputOf
  split
  · rfl
  · rfl
  · rfl
  · exact congrArg Dram.data ((drawBytes_keeps (ch := offDram) _ d (by decide) keeps_rfl).same .dram (by decide))

/-- The next cz.decompress takes the engine's slot before the bytes of the one that ends are stored. -/
theorem storeOutput_writes {r : Fkz} {n place : Nat} {e : Device} (he : e.dram.data = d.dram.data) :
    Writes [(place, (outputOf r n e).1.length)] d (dramWrite 7 place (outputOf r n e).1 (startDecs (outputOf r n e).2)) :=
  Writes.write (writes_rfl.data ((outputOf_data r n).trans he)) (inside_self List.mem_cons_self)

theorem endDecompress_writes (j : CzDec) :
    Writes [(j.dest, (outputOf (fkzDecode j.block) (fkzOrig j.block)
      (countDec (freeEngine d) j.block.length (fkzDecode j.block) { d with cz := { d.cz with decs := d.cz.decs.erase j } })).1.length)] d
      (endDecompress j d) := by
  simp only [endDecompress]
  have hcounted : (countDec (freeEngine d) j.block.length (fkzDecode j.block) { d with cz := { d.cz with decs := d.cz.decs.erase j } }).dram =
    d.dram := rfl
  generalize countDec (freeEngine d) j.block.length (fkzDecode j.block) { d with cz := { d.cz with decs := d.cz.decs.erase j } } = e
    at hcounted ⊢
  exact (storeOutput_writes (congrArg Dram.data hcounted)).keeps (finishSeq_keeps _ _ _ _ (by decide) keeps_rfl)

theorem takeJobData_writes (f : DataFrame) : Writes [(leAt f.payload 0 8, f.payload.length - 8)] d (takeJobData f d) := by
  have hw : Writes [(leAt f.payload 0 8, f.payload.length - 8)] d (dramWrite 3 (leAt f.payload 0 8) (f.payload.drop 8) d) :=
    writes_rfl.write (by rw [List.length_drop]; exact inside_self List.mem_cons_self)
  exact writes_ite writes_rfl (writes_ite (writes_ite (hw.data rfl) hw) (writes_rfl.keeps (sendUnreachable_keeps _ _ (by decide) keeps_rfl)))

/-- Each capture that waits for the line is served at its own place. -/
theorem putScreened_writes (h : Head) (g : Seg) (sc : Screening) :
    Writes (d.mbx.inFlight.filterMap (fun e => match e.work with
      | .capture k j l dest => if k = h ∧ j = g.job ∧ l = w32 (g.base + g.s) then
          some (dest, (packCodes (dirOf (getBank d .thresh).active h.val).bits sc.codes).length) else none
      | _ => none)) d (putScreened h g sc d) := by
  unfold putScreened
  extract_lets line bits x mine served
  refine Writes.keeps ?_ (lineGone_keeps _ _ _ _ (by decide) keeps_rfl)
  refine writes_foldl (fun y e he => ?_) (writes_rfl.data rfl)
  obtain ⟨hflight, hmine⟩ := List.mem_filter.mp he
  split
  · next k j l dest hwork =>
    simp only [mine, hwork, Bool.and_eq_true, beq_iff_eq] at hmine
    obtain ⟨⟨hhead, hjob⟩, hline⟩ := hmine
    refine Writes.keeps (writes_rfl.write (inside_self (List.mem_filterMap.mpr ⟨e, hflight, ?_⟩)))
      (finish_keeps _ _ _ (by decide) keeps_rfl)
    simp [hwork, hhead, hjob, hline, line, bits]
  · exact writes_rfl

/-- A record that fits the ring wraps at its end, so that both parts lie in it. -/
theorem ringWrite_writes (t : Stream) (bs : List U8) (hfits : bs.length ≤ t.ringSize) :
    Writes [(t.ringAddr, t.ringSize)] d (ringWrite t bs d) := by
  refine (writes_rfl.write ?_).write (inside_of List.mem_cons_self (Nat.le_refl _) ?_)
  · intro x hx
    have := hx _ List.mem_cons_self
    simp only [List.length_take]
    omega
  · simp only [List.length_drop]
    omega

theorem streamBand_writes (p : Port) (c : Cam) (b : CamBand) (k : Nat) (n : Fin 4) :
    Writes [(d.cams.streams[n].ringAddr, d.cams.streams[n].ringSize)] d (streamBand p c b k n d).2 := by
  unfold streamBand
  refine writes_ite_snd writes_rfl ?_
  dsimp only
  split
  · next hfits =>
    simp only [Bool.and_eq_true, decide_eq_true_eq] at hfits
    exact (ringWrite_writes _ _ (by omega)).data rfl
  · exact writes_rfl.data rfl

/-- A history takes two bytes for each bin and each head, 47,324 in all. -/
theorem storeHistory_writes (k : Plane) :
    Writes [(d.loop.workBase + 49152 * (128 * k.val + d.loop.colours[k].gen.toNat % 128), 49152)] d (storeHistory k d) := by
  refine writes_ite (writes_rfl.write (inside_of List.mem_cons_self (Nat.le_refl _) (Nat.add_le_add_left ?_ _))) writes_rfl
  rw [List.length_append, flatMap_length_const fun _ _ => leBytes_length _ _, flatMap_length_const fun _ _ => leBytes_length _ _,
    List.length_range, Vector.length_toList]
  norm_num

end

/-! Commands -/

theorem Rule.storesOnlyAt_of_writes {r : Rule} {i : Cmd → Instr} {s : State} {place : List Int → Device → Nat × Nat}
    {body : Cmd → List Int → Device → Done} (he : ∀ c, exec (i c) s = mervan r.sig body c s)
    (hb : ∀ c a d, DoneWrites [place a d] d (body c a d)) : r.StoresOnlyAt i s place :=
  Rule.storesOnlyAt_of he fun c a d hw x hx => (settle_writes (hb c a d) hw).2 x (by simpa using hx)

section
variable {s : State} {d : Device}

/-- At most so many bytes from an address. -/
theorem Writes.writeAt {a : Device} {source n len : Nat} {bs : List U8} (h : Writes [(n, len)] a d) (hlen : bs.length ≤ len) :
    Writes [(n, len)] a (dramWrite source n bs d) :=
  h.write (inside_of List.mem_cons_self (Nat.le_refl _) (Nat.add_le_add_left hlen n))

/-- So many records of one length, of a list cut to a number of them. -/
theorem records_le {α : Type} {l : List α} {f : α → List U8} {n k : Nat} (hf : ∀ x, (f x).length = n) (hl : l.length ≤ k) :
    (l.flatMap f).length ≤ n * k := by
  rw [flatMap_length_const fun x _ => hf x]
  exact Nat.mul_le_mul_left n hl

theorem sysLatchedRead_storesOnlyAt : sysLatchedReadRule.StoresOnlyAt .sysLatchedRead s (fun a _ => (argN a 2, 8744)) := by
  refine Rule.storesOnlyAt_of_writes (fun _ => rfl) fun c a d => ?_
  dsimp only
  split
  · exact doneWrites_no
  · exact Writes.keeps (writes_rfl.writeAt (latchedBytes_length _ _).le) (markRead_keeps _ _ _ (by decide) keeps_rfl)

theorem sysViolationRead_storesOnlyAt : sysViolationReadRule.StoresOnlyAt .sysViolationRead s (fun a _ => (argN a 0, 32 * argN a 2)) :=
  Rule.storesOnlyAt_of_writes (fun _ => rfl) fun _ _ _ =>
    writes_rfl.writeAt (records_le ventryBytes_length (List.length_take_le _ _))

theorem sysNvStatus_storesOnlyAt : sysNvStatusRule.StoresOnlyAt .sysNvStatus s (fun a d => (argN a 0, (nvBody d).length)) :=
  Rule.storesOnlyAt_of_writes (fun _ => rfl) fun _ _ _ => doneWrites_ite doneWrites_no (writes_rfl.writeAt (Nat.le_refl _))

theorem subRead_storesOnlyAt : subReadRule.StoresOnlyAt .subRead s (fun a _ => (argN a 0, 8 * argN a 2)) :=
  Rule.storesOnlyAt_of_writes (fun _ => rfl) fun _ _ _ =>
    writes_rfl.writeAt ((memRead_length _ _ _).trans_le (Nat.mul_le_mul_left 8 (Nat.min_le_left _ _)))

theorem fabricRoutes_storesOnlyAt : fabricRoutesRule.StoresOnlyAt .fabricRoutes s (fun a _ => (argN a 0, 512)) :=
  Rule.storesOnlyAt_of_writes (fun _ => rfl) fun _ _ d =>
    writes_rfl.writeAt (records_le (k := 256) (fun _ => leBytes_length _ _) (Vector.length_toList (xs := d.fabric.routes)).le)

theorem loopRead_storesOnlyAt : (loopReadRule s.dev).StoresOnlyAt .loopRead s
    (fun a d => (argN a 2, d.loop.bins * (if argN a 1 = 0 then 2 else if argN a 1 = 2 then 1 else 4))) :=
  Rule.storesOnlyAt_of_writes (fun _ => rfl) fun _ _ _ =>
    writes_rfl.writeAt ((records_le (readBin_length _ _) List.length_range.le).trans_eq (Nat.mul_comm _ _))

theorem loopCheckRead_storesOnlyAt : loopCheckReadRule.StoresOnlyAt .loopCheckRead s (fun a _ => (argN a 0, 16 * argN a 1)) :=
  Rule.storesOnlyAt_of_writes (fun _ => rfl) fun _ _ _ =>
    Writes.writeAt (writes_rfl.data rfl) (records_le checkBytes_length (List.length_take_le _ _))

theorem memErrors_storesOnlyAt : memErrorsRule.StoresOnlyAt .memErrors s (fun a _ => (argN a 0, 32 * argN a 1)) :=
  Rule.storesOnlyAt_of_writes (fun _ => rfl) fun _ _ _ =>
    Writes.writeAt (writes_rfl.data rfl) (records_le memErrorBytes_length (List.length_take_le _ _))

theorem redReconcile_storesOnlyAt : redReconcileRule.StoresOnlyAt .redReconcile s (fun a _ => (argN a 0, 480)) := by
  refine Rule.storesOnlyAt_of_writes (fun _ => rfl) fun c a d => ?_
  split
  · exact doneWrites_no
  · exact writes_rfl.writeAt ((wordBytes_length _).trans_le (Nat.mul_le_mul_left 4 (reconcileWords_length _ _)))

end

theorem storingRowsFrame : StoringRowsFrame :=
  ⟨fun _ _ _ _ => bar2Access_storesWithin _ _ _, fun _ _ => dramRequest_storesWithin _, fun _ _ _ _ => mirrorFrameReceived_storesWithin _ _ _,
    fun _ _ _ => foragerReadDone_storesWithin _ _, fun _ _ => blockCompressed_storesWithin _, fun _ _ => czDecompress_storesWithin _,
    fun _ _ _ => decompressorResume_storesWithin _ _⟩

theorem storingPartsFrame : StoringPartsFrame := fun _ hw =>
  ⟨fun j => (endDecompress_writes j hw).2, fun f => (takeJobData_writes f hw).2, fun h g sc => (putScreened_writes h g sc hw).2,
    fun p c b k n => (streamBand_writes p c b k n hw).2, fun k => (storeHistory_writes k hw).2⟩

/-- Settles O60: each row, part and command by its own lemma above. -/
theorem storingCommandsFrame : Obligations.StoringCommandsFrame :=
  ⟨storingRowsFrame, storingPartsFrame, fun _ =>
    ⟨sysLatchedRead_storesOnlyAt, sysViolationRead_storesOnlyAt, sysNvStatus_storesOnlyAt, subRead_storesOnlyAt, fabricRoutes_storesOnlyAt,
      loopRead_storesOnlyAt, loopCheckRead_storesOnlyAt, memErrors_storesOnlyAt, redReconcile_storesOnlyAt⟩⟩

end Sys2Proof.Machine
end
